-- ==== Sys2Proof/Word.lean ====
section
/-! DEFINITION. The word types of the machine. Addresses that key a store are plain `Nat`, reached from a computed
address; register contents, tokens and instruction words are bit vectors. -/

namespace Sys2Proof

/-- A byte of memory. -/
abbrev Byte := BitVec 8

/-- A 64-bit word: a keep register, a scalar token's DATA, a page-table entry. -/
abbrev Word := BitVec 64

/-- A 512-bit line or vector token's DATA. -/
abbrev Line := BitVec 512

/-- A 56-bit instruction word (R252). -/
abbrev IWord := BitVec 56

end Sys2Proof
end

