-- ==== Sys2Proof/Config.lean ====
section
/-! DEFINITION. What an implementation fixes and the values the manual leaves free. Every free value is an opaque
constant: nothing in Lean can evaluate it, so whatever is proved holds for every value of it. -/

namespace Sys2Proof.Config

/-- A line the manual gives no value for (assumption 7): the n-th such value of a run. -/
opaque freeLine : Nat → BitVec 512

/-- A 64-bit value the manual gives no value for (assumption 7): the n-th such value of a run. -/
opaque freeWord : Nat → BitVec 64

/-- SHA-384 of a byte string (R66, R113): a published function, left uninterpreted (assumption 8). -/
opaque sha384 : List (BitVec 8) → BitVec 384

/-- The device identity key's ECDSA signature over a byte string (R66, R67, R113), left uninterpreted
(assumption 8). -/
opaque sign : List (BitVec 8) → BitVec 768

/-- The device's certificate chain as SPDM returns it, whose alias certificate is bound to the measured Bilsis (R67): its
contents are not in the manual (assumption 8). -/
opaque certChain : List (BitVec 384) → List (BitVec 8)

/-- A line as memory holds it under a key, at a physical address: AES-256-XTS (R68), a published function, left uninterpreted
(assumption 8). -/
opaque xts : List (BitVec 8) → Nat → BitVec 512 → BitVec 512

/-- A line of memory decrypted under a key, at a physical address (R68, assumption 8). -/
opaque unxts : List (BitVec 8) → Nat → BitVec 512 → BitVec 512

/-- The integrity tag of a line of memory under a key, at a physical address (R68, assumption 8). -/
opaque integrityTag : List (BitVec 8) → Nat → BitVec 512 → BitVec 32

/-- The tag that the tag region holds for a line that has not been written under a key slot, which the manual does not give
(R68, assumption 8). -/
opaque bareTag : Nat → BitVec 32

/-- The device identity certificate (R115): its contents are not in the manual (assumption 8). -/
opaque identityCert : List (BitVec 8)

/-- The place of a rank in the order in which a collective combines an element: the collective's number, the element and the
rank (R221, R356, assumption 65). -/
opaque sumOrder : Nat → Nat → Nat → Nat

/-- The hash by which requests to one package are spread over span ports (R44), which the manual does not give
(assumption 23). -/
opaque spanHash : Nat → Nat

/-- The class of credit that a received flit gives back: 0 requests, 1 replies, 2 data; the manual does not give the form of a message
header, which would tell (R40, assumption 23). -/
opaque flitClass : BitVec 2048 → Nat

/-- How another package answers an access of the CD: 0 where it is performed, else a place among the causes of a refusal (R44, R160,
assumption 82). -/
opaque foreignAnswer : Nat → Nat

/-- A word of a spill block's 24-byte header, which names a line's physical address in a layout that the manual does not give
(R186, assumption 64). -/
opaque spillHeader : Nat → Nat → BitVec 64

/-- The corrected errors per second above which an array of a kind is predicted to fail: 0 a site, 1 a frame, 2 a vault, 3 a cache way
(R238, assumption 57). -/
opaque rateLimit : Nat → Nat

/-- What the identity registers report when the verification of the Bilsis image fails (R66): its layout is not in the manual
(assumption 8). -/
opaque bootFailure : Nat → BitVec 8

end Sys2Proof.Config
end

