-- ==== Sys2Proof/Machine/Bits.lean ====
section
/-! DEFINITION. Bit fields, sign extension, byte order and small list helpers used by the decoder and the
machine (R4: bit 0 is least significant, multi-byte values are little-endian). -/

namespace Sys2Proof

/-- Bits [lo + len - 1 : lo] of a number (R4). -/
def bitsOf (x lo len : Nat) : Nat := (x >>> lo) % 2 ^ len

/-- Bits [lo + len - 1 : lo] of a bit vector, as a number. -/
def fieldN {w : Nat} (x : BitVec w) (lo len : Nat) : Nat := bitsOf x.toNat lo len

/-- One bit of a bit vector. -/
def flagN {w : Nat} (x : BitVec w) (i : Nat) : Bool := x.toNat.testBit i

/-- `x` with bits [lo + len - 1 : lo] replaced by the low bits of `v`. -/
def setField {w : Nat} (x : BitVec w) (lo len v : Nat) : BitVec w :=
  BitVec.ofNat w (x.toNat - bitsOf x.toNat lo len * 2 ^ lo + (v % 2 ^ len) * 2 ^ lo)

/-- A number from a Boolean. -/
def b2n (b : Bool) : Nat := if b then 1 else 0

/-- The `w`-bit two's-complement reading of a number taken modulo 2^w. -/
def signedOf (w x : Nat) : Int :=
  let m := x % 2 ^ w
  if m < 2 ^ (w - 1) then (m : Int) else (m : Int) - (2 ^ w : Nat)

/-- An integer taken modulo 2^w, as a natural number. -/
def wrapN (w : Nat) (x : Int) : Nat := (x % ((2 ^ w : Nat) : Int)).toNat

/-- The `n` bytes of a number, byte 0 first (R4). -/
def toBytes : Nat → Nat → List Byte
  | 0, _ => []
  | n + 1, x => BitVec.ofNat 8 x :: toBytes n (x / 256)

/-- The number whose bytes, byte 0 first, are listed (R4). -/
def ofBytes : List Byte → Nat
  | [] => 0
  | b :: bs => b.toNat + 256 * ofBytes bs

/-- The lanes of width `w`, lane 0 first, of a 512-bit value (R208, R299). -/
def lanes (w : Nat) (x : Line) : List Nat :=
  (List.range (512 / w)).map (fun i => bitsOf x.toNat (w * i) w)

/-- The number whose `w`-bit digits, least significant first, are listed. -/
def packDigits (w : Nat) : List Nat → Nat
  | [] => 0
  | v :: vs => v % 2 ^ w + 2 ^ w * packDigits w vs

/-- The 512-bit value whose lanes of width `w` are listed, lane 0 first. -/
def ofLanes (w : Nat) (vs : List Nat) : Line := BitVec.ofNat 512 (packDigits w vs)

/-- The `i`-th entry of a list that holds a fixed number of like things, or a default past its end. -/
def nth {α : Type} (l : List α) (i : Nat) (d : α) : α := l.getD i d

/-- The list with its `i`-th entry replaced by a function of it. -/
def modNth {α : Type} (f : α → α) : Nat → List α → List α
  | _, [] => []
  | 0, a :: l => f a :: l
  | n + 1, a :: l => a :: modNth f n l

/-- The list with every entry that meets `p` replaced by a function of it. -/
def updWhere {α : Type} (p : α → Bool) (f : α → α) (l : List α) : List α :=
  l.map (fun a => if p a then f a else a)

/-- The value stored under a key in a list of key and value pairs, or a default. -/
def lookupD {κ α : Type} [DecidableEq κ] (l : List (κ × α)) (k : κ) (d : α) : α :=
  match l with
  | [] => d
  | (k', v) :: l => if k' = k then v else lookupD l k d

/-- The list of pairs with the value of a key set, in place where the key stands and in front where it is new. -/
def insertKV {κ α : Type} [DecidableEq κ] (l : List (κ × α)) (k : κ) (v : α) : List (κ × α) :=
  if l.any (fun p => p.1 = k) then l.map (fun p => if p.1 = k then (k, v) else p) else (k, v) :: l

/-- The largest of a list of numbers, 0 for the empty list. -/
def maxN (l : List Nat) : Nat := l.foldl Nat.max 0

/-- The smallest of a list of numbers, if any. -/
def minN? : List Nat → Option Nat
  | [] => none
  | a :: l => some (l.foldl Nat.min a)

/-- The sum of a list of numbers. -/
def sumN (l : List Nat) : Nat := l.foldl (· + ·) 0

/-- The smaller number of a saturating count: `n + 1`, held at `top`. -/
def satInc (top n : Nat) : Nat := if n < top then n + 1 else top

/-- Round a number up to a multiple of `k`. -/
def roundUp (k n : Nat) : Nat := (n + k - 1) / k * k

/-- Ceiling division. -/
def ceilDiv (n k : Nat) : Nat := (n + k - 1) / k

end Sys2Proof
end

