-- ==== Sys2Proof/Machine/Num.lean ====
section
/-! DEFINITION. Number formats and arithmetic (file 12 of the manual): integer types, floating formats, TK8,
exact values, rounding, saturation, flags and the correctly rounded functions. -/

namespace Sys2Proof

/-- The type codes, which are also the format tags (R205, R206, R208, R209, R256). -/
inductive Ty where
  | s8 | s16 | s32 | s64 | n8 | n16 | n32 | n64 | bf16 | f16 | f32 | e4m3 | e5m2
  | mxf4 | mxe4m3 | mxe5m2 | tk8 | mxtk8 | a57 | raw512
deriving DecidableEq, Repr

/-- The number of a type code (R256). -/
def Ty.code : Ty → Nat
  | .s8 => 0 | .s16 => 1 | .s32 => 2 | .s64 => 3 | .n8 => 4 | .n16 => 5 | .n32 => 6 | .n64 => 7
  | .bf16 => 8 | .f16 => 9 | .f32 => 10 | .e4m3 => 11 | .e5m2 => 12 | .mxf4 => 13 | .mxe4m3 => 14
  | .mxe5m2 => 15 | .tk8 => 16 | .mxtk8 => 17 | .a57 => 18 | .raw512 => 19

/-- The format tag of a type (R205, R256). -/
def Ty.tag (t : Ty) : BitVec 5 := BitVec.ofNat 5 t.code

/-- The type with a code; codes 20 to 31 are reserved (R256). -/
def Ty.ofCode (c : BitVec 5) : Option Ty :=
  match c.toNat with
  | 0 => some .s8 | 1 => some .s16 | 2 => some .s32 | 3 => some .s64
  | 4 => some .n8 | 5 => some .n16 | 6 => some .n32 | 7 => some .n64
  | 8 => some .bf16 | 9 => some .f16 | 10 => some .f32 | 11 => some .e4m3 | 12 => some .e5m2
  | 13 => some .mxf4 | 14 => some .mxe4m3 | 15 => some .mxe5m2 | 16 => some .tk8 | 17 => some .mxtk8
  | 18 => some .a57 | 19 => some .raw512
  | _ => none

/-- The width in bits of a value of the type (R205, R206, R208); 64 for raw512 on a scalar token. -/
def Ty.width : Ty → Nat
  | .s8 | .n8 | .e4m3 | .e5m2 | .tk8 | .mxe4m3 | .mxe5m2 | .mxtk8 => 8
  | .s16 | .n16 | .bf16 | .f16 => 16
  | .s32 | .n32 | .f32 => 32
  | .s64 | .n64 | .raw512 => 64
  | .mxf4 => 4
  | .a57 => 57

/-- The s types, in two's complement (R205). -/
def Ty.isSigned : Ty → Bool
  | .s8 | .s16 | .s32 | .s64 => true
  | _ => false

/-- s8 to n64. -/
def Ty.isInt (t : Ty) : Bool := t.code < 8

/-- "F3" of R270: bf16, f16 and f32. -/
def Ty.isF3 : Ty → Bool
  | .bf16 | .f16 | .f32 => true
  | _ => false

/-- "F8" of R299: e4m3, e5m2 and tk8. -/
def Ty.isF8 : Ty → Bool
  | .e4m3 | .e5m2 | .tk8 => true
  | _ => false

/-- "F6" of R270. -/
def Ty.isF6 (t : Ty) : Bool := t.isF3 || t.isF8

/-- "MX" of R299. -/
def Ty.isMX : Ty → Bool
  | .mxf4 | .mxe4m3 | .mxe5m2 | .mxtk8 => true
  | _ => false

/-- The element type of lanes, and its lane width, in a vector token (R299): raw512 moves as 64 byte lanes. -/
def Ty.laneWidth : Ty → Nat
  | .raw512 => 8
  | .a57 => 64
  | t => t.width

/-- The lane count n of a vector token (R299). -/
def Ty.laneCount (t : Ty) : Nat := 512 / t.laneWidth

/-- The value that a `w`-bit pattern has under an integer or address type (R205, R287). -/
def Ty.readInt (t : Ty) (p : Nat) : Int :=
  if t.isSigned then signedOf t.width p else ((p % 2 ^ t.width : Nat) : Int)

/-- DATA[63:0] of a scalar token of the type whose value is `v` modulo 2^w (R205, R274). -/
def Ty.fill (t : Ty) (v : Int) : Word :=
  let p := wrapN t.width v
  if t.isSigned then BitVec.ofInt 64 (signedOf t.width p) else BitVec.ofNat 64 p

/-- The least value of an integer type. -/
def Ty.minInt (t : Ty) : Int := if t.isSigned then - ((2 ^ (t.width - 1) : Nat) : Int) else 0

/-- The greatest value of an integer type. -/
def Ty.maxInt (t : Ty) : Int :=
  if t.isSigned then ((2 ^ (t.width - 1) : Nat) : Int) - 1 else ((2 ^ t.width : Nat) : Int) - 1

/-- `Clamp(x)` of R287. -/
def Ty.clamp (t : Ty) (x : Int) : Int := max t.minInt (min t.maxInt x)

/-! ### Integer operations (R216, R288) -/

/-- Division truncating toward zero with the edges of R216: x ÷ 0 is all ones, MIN ÷ −1 is MIN. -/
def intDiv (t : Ty) (a b : Int) : Int :=
  if b = 0 then (if t.isSigned then -1 else t.maxInt) else Int.tdiv a b

/-- The remainder with the sign of the dividend and the edges of R216: x mod 0 is x. -/
def intRem (a b : Int) : Int := if b = 0 then a else Int.tmod a b

/-- ⌊a·b / 2^w⌋ (R288). -/
def intMulh (t : Ty) (a b : Int) : Int := (a * b) / ((2 ^ t.width : Nat) : Int)

/-- Leading zeros of a `w`-bit pattern (R288). -/
def clz (w p : Nat) : Nat := if p % 2 ^ w = 0 then w else w - 1 - Nat.log2 (p % 2 ^ w)

/-- Set bits of a `w`-bit pattern (R288). -/
def popc (w p : Nat) : Nat := ((List.range w).filter (fun i => p.testBit i)).length

/-- `pa << s` taken to w bits (R288). -/
def shlP (w a s : Nat) : Nat := (a % 2 ^ w * 2 ^ (s % w)) % 2 ^ w

/-- Logical `pa >> s` (R288). -/
def shrP (w a s : Nat) : Nat := (a % 2 ^ w) >>> (s % w)

/-- `pa >> s` filling with bit w − 1, for s and n types alike (R288). -/
def sarP (w a s : Nat) : Nat := wrapN w (signedOf w a / ((2 ^ (s % w) : Nat) : Int))

/-- `pa` rotated left by s (R288). -/
def rotP (w a s : Nat) : Nat :=
  let k := s % w
  let p := a % 2 ^ w
  (p * 2 ^ k) % 2 ^ w + p >>> (w - k)

/-! ### Floating formats (R206 to R210) -/

/-- The floating formats, the elements of the block-scaled ones among them. -/
inductive FF where
  | f32 | bf16 | f16 | e4m3 | e5m2 | e2m1 | tk8
deriving DecidableEq, Repr

/-- The floating format of a type, if it is a float type. -/
def Ty.ff : Ty → Option FF
  | .f32 => some .f32 | .bf16 => some .bf16 | .f16 => some .f16 | .e4m3 => some .e4m3
  | .e5m2 => some .e5m2 | .tk8 => some .tk8
  | .mxf4 => some .e2m1 | .mxe4m3 => some .e4m3 | .mxe5m2 => some .e5m2 | .mxtk8 => some .tk8
  | _ => none

/-- Mantissa bits of a format (R206). -/
def FF.mb : FF → Nat
  | .f32 => 23 | .bf16 => 7 | .f16 => 10 | .e4m3 => 3 | .e5m2 => 2 | .e2m1 => 1 | .tk8 => 0

/-- Exponent bits of a format (R206). -/
def FF.eb : FF → Nat
  | .f32 => 8 | .bf16 => 8 | .f16 => 5 | .e4m3 => 4 | .e5m2 => 5 | .e2m1 => 2 | .tk8 => 0

/-- Bias of a format (R206). -/
def FF.bias : FF → Nat
  | .f32 => 127 | .bf16 => 127 | .f16 => 15 | .e4m3 => 7 | .e5m2 => 15 | .e2m1 => 1 | .tk8 => 0

/-- Width of a format. -/
def FF.width : FF → Nat
  | .f32 => 32 | .bf16 => 16 | .f16 => 16 | .e2m1 => 4 | _ => 8

/-- The exponent of the smallest normal value (R206; 2^−6 for TK8, R214). -/
def FF.emin (f : FF) : Int := if f = .tk8 then -6 else 1 - (f.bias : Int)

/-- The code of the largest finite magnitude. -/
def FF.maxCode : FF → Nat
  | .f32 => 0x7F7FFFFF | .bf16 => 0x7F7F | .f16 => 0x7BFF | .e4m3 => 0x7E | .e5m2 => 0x7B
  | .e2m1 => 7 | .tk8 => 0x7F

/-- The canonical NaN (R206, R207), or INV (R209); E2M1 has none and gives +0 (R214). -/
def FF.nanCode : FF → Nat
  | .f32 => 0x7FC00000 | .bf16 => 0x7FC0 | .f16 => 0x7E00 | .e4m3 => 0x7F | .e5m2 => 0x7E
  | .e2m1 => 0 | .tk8 => 0x80

/-- The magnitude of TK8 code T in units of 2^−6 (R209, R210); T = 128 stands for the magnitude 128 of R214. -/
def tkMag (t : Nat) : Nat :=
  if t = 0 then 0
  else if t ≥ 128 then 8192
  else
    let ones := t ≥ 64
    let run := fun k => (List.range k).all (fun i => t.testBit (6 - i) == ones)
    let n := maxN ((List.range 8).filter (fun k => run k))
    let r := 6 - n
    let frac := t % 2 ^ r
    -- 2^e · (1 + F/2^r) in units of 2^-6
    if ones then 2 ^ (n - 1) * (2 ^ r + frac) * 64 / 2 ^ r
    else (2 ^ r + frac) * 64 / 2 ^ (n + r)

/-- An exact value: NaN (with its quiet bit), an infinity, or (−1)^neg · m · 2^e. -/
inductive FV where
  | nan (quiet : Bool)
  | inf (neg : Bool)
  | fin (neg : Bool) (m : Nat) (e : Int)
deriving DecidableEq, Repr

/-- The value a code has in a format (R206, R209). -/
def FF.read (f : FF) (c : Nat) : FV :=
  match f with
  | .tk8 =>
    let t := c % 128
    let s := c.testBit 7
    if t = 0 then (if s then .nan true else .fin false 0 0) else .fin s (tkMag t) (-6)
  | _ =>
    let m := c % 2 ^ f.mb
    let ex := bitsOf c f.mb f.eb
    let s := c.testBit (f.mb + f.eb)
    let top := 2 ^ f.eb - 1
    if f = .e4m3 ∧ ex = top ∧ m = 7 then .nan true
    else if f ≠ .e4m3 ∧ f ≠ .e2m1 ∧ ex = top then
      (if m = 0 then .inf s else .nan (m.testBit (f.mb - 1)))
    else if ex = 0 then .fin s m (f.emin - f.mb)
    else .fin s (2 ^ f.mb + m) ((ex : Int) - f.bias - f.mb)

/-- Float flags NV, DZ, OF, UF, NX at bits 4 to 0 (R143). -/
abbrev Flags := BitVec 5

/-- NV. -/
def flagNV : Flags := 16
/-- DZ. -/
def flagDZ : Flags := 8
/-- OF. -/
def flagOF : Flags := 4
/-- UF. -/
def flagUF : Flags := 2
/-- NX. -/
def flagNX : Flags := 1

/-- A flag when a condition holds. -/
def flagIf (b : Bool) (f : Flags) : Flags := if b then f else 0

/-- The rounding modes (R212). -/
inductive RMode where
  | rne | rtz | rdn | rup | rsr
deriving DecidableEq, Repr

/-- The rounding mode with a code; 5 to 7 are rejected at load (R212). -/
def RMode.ofCode (c : BitVec 3) : RMode :=
  match c.toNat with
  | 1 => .rtz | 2 => .rdn | 3 => .rup | 4 => .rsr | _ => .rne

/-- One step of the seed of stochastic rounding (R213). -/
def rsrStep (st : Nat) : Nat :=
  if st % 2 = 1 then (st >>> 1) ^^^ 0xB400 else st >>> 1

/-- The seed that RSR starts from: k[15:0], with 0 taken as 0xACE1 (R213). -/
def rsrSeed (k : Word) : Nat := if k.toNat % 65536 = 0 then 0xACE1 else k.toNat % 65536

/-- Whether the greater of two adjacent magnitudes is taken (R212, R213). The exact magnitude lies `rem/2^sh` of the
way from the lesser to the greater, and a little above that when `sticky`; `odd` tells whether the lesser's code is
odd; `st` is the seed after its step. -/
def roundsUp (mode : RMode) (neg odd : Bool) (rem sh : Nat) (sticky : Bool) (st : Nat) : Bool :=
  let inexact := rem ≠ 0 || sticky
  match mode with
  | .rne => 2 * rem > 2 ^ sh || (2 * rem = 2 ^ sh && (sticky || odd))
  | .rtz => false
  | .rdn => neg && inexact
  | .rup => !neg && inexact
  | .rsr => inexact && st < rem * 65536 / 2 ^ sh

/-- The code and flags of a result that overflows (R214). -/
def overflowCode (f : FF) (mode : RMode) (sat neg : Bool) : Nat × Flags :=
  let away := match mode with
    | .rne | .rsr => true
    | .rup => !neg
    | .rdn => neg
    | .rtz => false
  let signBit := if neg then 2 ^ (f.width - 1) else 0
  let big := signBit + f.maxCode
  let code :=
    if sat || !away then big
    else match f with
      | .e4m3 => 0x7F
      | .tk8 => 0x80
      | .e2m1 => big
      | .f32 => signBit + 0x7F800000
      | .bf16 => signBit + 0x7F80
      | .f16 => signBit + 0x7C00
      | .e5m2 => signBit + 0x7C
  (code, flagOF ||| flagNX)

/-- Round a nonzero exact magnitude m·2^e (a little more when `sticky`) into TK8 (R209, R214). -/
def roundTk (mode : RMode) (sat neg : Bool) (m : Nat) (e : Int) (sticky : Bool) (st : Nat) : Nat × Flags :=
  -- the magnitude in units of 2^-6 is num / 2^sh
  let up := (e + 6).toNat
  let sh := (-(e + 6)).toNat
  let num := m * 2 ^ up
  let v := num >>> sh
  if v ≥ 8192 then overflowCode .tk8 mode sat neg
  else
    let t := maxN ((List.range 128).filter (fun t => tkMag t ≤ v))
    let gap := tkMag (t + 1) - tkMag t
    -- gap is a power of two: position of the magnitude between the two codes
    let rem := num - tkMag t * 2 ^ sh
    let span := sh + Nat.log2 gap
    let inexact := rem ≠ 0 || sticky
    let t' := if roundsUp mode neg (t % 2 = 1) rem span sticky st then t + 1 else t
    if t' ≥ 128 then overflowCode .tk8 mode sat neg
    else
      let tiny := v = 0
      (if t' = 0 then 0 else (if neg then 128 else 0) + t',
        flagIf inexact flagNX ||| flagIf (inexact && tiny) flagUF)

/-- Round a nonzero exact magnitude m·2^e (a little more when `sticky`) into a binary format (R212, R214). -/
def roundBin (f : FF) (mode : RMode) (sat neg : Bool) (m : Nat) (e : Int) (sticky : Bool) (st : Nat) :
    Nat × Flags :=
  let ex : Int := e + Nat.log2 m
  let q : Int := max ex f.emin - f.mb
  let sh := (q - e).toNat
  let n := if q ≤ e then m * 2 ^ (e - q).toNat else m >>> sh
  let rem := if q ≤ e then 0 else m % 2 ^ sh
  let inexact := rem ≠ 0 || sticky
  let n' := if roundsUp mode neg (n % 2 = 1) rem sh sticky st then n + 1 else n
  -- biased exponent field and mantissa
  let carry := n' ≥ 2 ^ (f.mb + 1)
  let n'' := if carry then n' / 2 else n'
  let q' := if carry then q + 1 else q
  let body := if n'' < 2 ^ f.mb then n'' else (q' + f.mb + f.bias).toNat * 2 ^ f.mb + (n'' - 2 ^ f.mb)
  if body > f.maxCode then overflowCode f mode sat neg
  else
    ((if neg then 2 ^ (f.width - 1) else 0) + body,
      flagIf inexact flagNX ||| flagIf (inexact && ex < f.emin) flagUF)

/-- Round an exact value into a format (R207, R212, R214): the code and the flags of the rounding. An infinite or NaN
value is placed as R214 says of a conversion's special inputs. -/
def FF.round (f : FF) (mode : RMode) (sat : Bool) (v : FV) (sticky : Bool) (st : Nat) : Nat × Flags :=
  match v with
  | .nan _ => (f.nanCode, if f = .e2m1 then flagNV else 0)
  | .inf neg =>
    let signBit := if neg then 2 ^ (f.width - 1) else 0
    (if sat then signBit + f.maxCode
     else match f with
      | .e4m3 => 0x7F
      | .tk8 => 0x80
      | .e2m1 => signBit + 7
      | .f32 => signBit + 0x7F800000
      | .bf16 => signBit + 0x7F80
      | .f16 => signBit + 0x7C00
      | .e5m2 => signBit + 0x7C, 0)
  | .fin neg m e =>
    if m = 0 then (if neg && f ≠ .tk8 then 2 ^ (f.width - 1) else 0, 0)
    else if f = .tk8 then roundTk mode sat neg m e sticky st
    else roundBin f mode sat neg m e sticky st

/-! ### Exact arithmetic on values -/

/-- Whether the value is a NaN. -/
def FV.isNan : FV → Bool
  | .nan _ => true
  | _ => false

/-- Whether the value is a NaN whose quiet bit is clear (R207). -/
def FV.isSnan : FV → Bool
  | .nan q => !q
  | _ => false

/-- Whether the value is ±0. -/
def FV.isZero : FV → Bool
  | .fin _ 0 _ => true
  | _ => false

/-- The sign of a value that is not NaN. -/
def FV.isNeg : FV → Bool
  | .nan _ => false
  | .inf s => s
  | .fin s _ _ => s

/-- The value with its sign changed. -/
def FV.negate : FV → FV
  | .nan q => .nan q
  | .inf s => .inf (!s)
  | .fin s m e => .fin (!s) m e

/-- The absolute value. -/
def FV.abs : FV → FV
  | .nan q => .nan q
  | .inf _ => .inf false
  | .fin _ m e => .fin false m e

/-- The integer (−1)^neg · m · 2^(e − lo) for lo ≤ e. -/
def FV.scaledInt (neg : Bool) (m : Nat) (e lo : Int) : Int :=
  let v : Int := ((m * 2 ^ (e - lo).toNat : Nat) : Int)
  if neg then -v else v

/-- The value k · 2^e. -/
def FV.ofIntExp (k : Int) (e : Int) (zeroNeg : Bool) : FV :=
  if k = 0 then .fin zeroNeg 0 0 else .fin (k < 0) k.natAbs e

/-- Exact sum with the zero sign and special results of R294 and R295; the flag is NV for ∞ − ∞. -/
def FV.add (mode : RMode) (x y : FV) : FV × Flags :=
  match x, y with
  | .nan _, _ | _, .nan _ => (.nan true, 0)
  | .inf s, .inf t => if s = t then (.inf s, 0) else (.nan true, flagNV)
  | .inf s, _ => (.inf s, 0)
  | _, .inf t => (.inf t, 0)
  | .fin s m e, .fin t n g =>
    if m = 0 ∧ n = 0 then (.fin (if s = t then s else mode = .rdn) 0 0, 0)
    else
      let lo := min e g
      let k := FV.scaledInt s m e lo + FV.scaledInt t n g lo
      (FV.ofIntExp k lo (mode = .rdn), 0)

/-- Exact product; the flag is NV for ∞ · 0. -/
def FV.mul (x y : FV) : FV × Flags :=
  match x, y with
  | .nan _, _ | _, .nan _ => (.nan true, 0)
  | .inf s, .inf t => (.inf (s != t), 0)
  | .inf s, .fin t m _ => if m = 0 then (.nan true, flagNV) else (.inf (s != t), 0)
  | .fin s m _, .inf t => if m = 0 then (.nan true, flagNV) else (.inf (s != t), 0)
  | .fin s m e, .fin t n g => (.fin (s != t) (m * n) (e + g), 0)

/-- x · 2^k, exactly. -/
def FV.scale (x : FV) (k : Int) : FV :=
  match x with
  | .fin s m e => .fin s m (e + k)
  | v => v

/-- The flag a NaN input whose quiet bit is clear raises (R207, R295). -/
def snanFlag (l : List FV) : Flags := flagIf (l.any FV.isSnan) flagNV

/-- Comparison of two values that are not NaN: −1, 0 or 1, with −0 = +0. -/
def FV.cmp (x y : FV) : Int :=
  match x, y with
  | .inf s, .inf t => if s = t then 0 else if s then -1 else 1
  | .inf s, _ => if s then -1 else 1
  | _, .inf t => if t then 1 else -1
  | .fin s m e, .fin t n g =>
    let lo := min e g
    let d := FV.scaledInt s m e lo - FV.scaledInt t n g lo
    if d < 0 then -1 else if d = 0 then 0 else 1
  | _, _ => 0

/-- Whether x orders strictly below y for FMIN and FMAX, −0 below +0 (R207). -/
def FV.below (x y : FV) : Bool :=
  let c := x.cmp y
  c < 0 || (c = 0 && x.isNeg && !y.isNeg)

/-- The integer square root, by bits from the top, with fuel. -/
def isqrtAux (n : Nat) : Nat → Nat → Nat
  | 0, r => r
  | k + 1, r =>
    let c := r + 2 ^ k
    isqrtAux n k (if c * c ≤ n then c else r)

/-- ⌊√n⌋. -/
def isqrt (n : Nat) : Nat := isqrtAux n (Nat.log2 n / 2 + 1) 0

/-- Working precision, in bits after the point, of the transcendental functions (assumption 10). -/
def fxP : Nat := 320

/-- Σ z^(2k+1)/(2k+1) for `fuel` terms in fixed point: atanh of z < 1/2 (assumption 10). -/
def atanhAux (z2 : Nat) : Nat → Nat → Nat → Nat
  | 0, _, _ => 0
  | fuel + 1, k, p => p / (2 * k + 1) + atanhAux z2 fuel (k + 1) (p * z2 / 2 ^ fxP)

/-- atanh of a fixed-point number below 1/2. -/
def atanhFx (z : Nat) : Nat := atanhAux (z * z / 2 ^ fxP) 160 0 z

/-- ln 2 in fixed point, as 2·atanh(1/3). -/
def ln2Fx : Nat := 2 * atanhFx (2 ^ fxP / 3)

/-- Σ t^k/k! for `fuel` terms in fixed point. -/
def expAux (t : Nat) : Nat → Nat → Nat → Nat
  | 0, _, _ => 0
  | fuel + 1, k, p => p + expAux t fuel (k + 1) (p * t / 2 ^ fxP / (k + 1))

/-- 2^f for a fixed-point fraction 0 ≤ f < 1, in fixed point. -/
def exp2Frac (f : Nat) : Nat := expAux (f * ln2Fx / 2 ^ fxP) 90 0 (2 ^ fxP)

/-- m·2^e in fixed point, rounded down. -/
def toFx (m : Nat) (e : Int) : Nat :=
  let k : Int := e + fxP
  if k ≥ 0 then m * 2 ^ k.toNat else m >>> (-k).toNat

/-- A positive fixed-point number with 64 guard bits dropped, known to be inexact, as m and e with a sticky bit. -/
def dropGuard (v : Nat) (shift : Int) : FV × Bool :=
  (.fin false (v >>> 64) (64 - (fxP : Int) + shift), true)

/-- 2^x of a finite value: the exact value, or a truncation known to be inexact (R212, assumption 10). -/
def exp2V (neg : Bool) (m : Nat) (e : Int) : FV × Bool :=
  if m = 0 then (.fin false 1 0, false)
  else
    let big := (Nat.log2 m : Int) + e ≥ 9
    if big then (if neg then (.fin false 1 (-600), true) else (.fin false 1 600, true))
    else
      let x := toFx m e
      let fl : Nat := x / 2 ^ fxP
      let fr : Nat := x % 2 ^ fxP
      if fr = 0 then (.fin false 1 (if neg then - (fl : Int) else fl), false)
      else if neg then dropGuard (exp2Frac (2 ^ fxP - fr)) (-(fl : Int) - 1)
      else dropGuard (exp2Frac fr) fl

/-- log2 of a positive finite value (R212, assumption 10). -/
def log2V (m : Nat) (e : Int) : FV × Bool :=
  let lg := Nat.log2 m
  let k : Int := e + lg
  if m = 2 ^ lg then (FV.ofIntExp k 0 false, false)
  else
    let u := m * 2 ^ (fxP - lg)           -- m / 2^lg in [1, 2), fixed point
    let z := (u - 2 ^ fxP) * 2 ^ fxP / (u + 2 ^ fxP)
    let l := 2 * atanhFx z * 2 ^ fxP / ln2Fx
    let v : Int := k * ((2 ^ fxP : Nat) : Int) + (l : Int)
    let r := dropGuard v.natAbs 0
    (if v < 0 then r.1.negate else r.1, r.2)

/-- 1/(1 + e^(−a)) of a finite value (R305, assumption 10). -/
def sigmV (neg : Bool) (m : Nat) (e : Int) : FV × Bool :=
  if m = 0 then (.fin false 1 (-1), false)
  else if (Nat.log2 m : Int) + e ≥ 8 then
    (if neg then (.fin false 1 (-600), true) else (.fin false (2 ^ 256 - 1) (-256), true))
  else
    let one := 2 ^ fxP
    let t := toFx m e * one / ln2Fx
    let fl := t / one
    let fr := t % one
    -- w = e^(-|a|) = v · 2^(-fl - 1); a small result keeps the precision of v
    let v := exp2Frac (one - fr)
    let w := v / 2 ^ (fl + 1)
    if neg then dropGuard (v * one / (one + w)) (-(fl : Int) - 1) else dropGuard (one * one / (one + w)) 0

/-- The quotient of two nonzero finite magnitudes, with a sticky bit. -/
def divV (neg : Bool) (m : Nat) (e : Int) (n : Nat) (g : Int) : FV × Bool :=
  let k := 100 + Nat.log2 n
  (.fin neg (m * 2 ^ k / n) (e - g - k), m * 2 ^ k % n ≠ 0)

/-- The square root of a positive finite value, with a sticky bit. -/
def sqrtV (m : Nat) (e : Int) : FV × Bool :=
  let k : Nat := if e % 2 = 0 then 200 else 201
  let n := m * 2 ^ k
  let r := isqrt n
  (.fin false r ((e - k) / 2), r * r ≠ n)

/-- The reciprocal square root of a positive finite value, with a sticky bit. -/
def rsqV (m : Nat) (e : Int) : FV × Bool :=
  -- 1/(m·2^e) = 2^(2k) / m · 2^(−e − 2k), with −e made even
  let odd : Nat := if e % 2 = 0 then 0 else 1
  let k := 200 + Nat.log2 m
  let q := 2 ^ (2 * k + odd) / m
  let r := isqrt q
  (.fin false r ((-e - odd) / 2 - k), r * r * m ≠ 2 ^ (2 * k + odd))

end Sys2Proof
end

