-- ==== Sys2Proof/Syntax.lean ====
section
/-! DEFINITION. The syntax of the machine's steps: one constructor of `Instr` per row of the table of operations
and events. An instruction of an image carries the raw fields of its 56-bit word (R252, R254); an operation or
event carries what the outside world, or a choice the manual leaves open, brings to it. -/

namespace Sys2Proof

/-- The fields common to every instruction word (R252): PRED, TARGET0 and TARGET1. -/
structure Head where
  pred : BitVec 2
  t0 : BitVec 9
  t1 : BitVec 9
deriving DecidableEq, Repr

/-- Bits [21:0] of format A (R254): IMM22 when I = 1, else FN, RM, SAT, TYPE2, KSEL and three zero bits. -/
inductive ABody where
  | imm (v : BitVec 22)
  | regs (fn : BitVec 6) (rm : BitVec 3) (sat : BitVec 1) (ty2 : BitVec 5) (ksel : BitVec 4) (z : BitVec 3)
deriving DecidableEq, Repr

/-- Bits [21:0] of format D (R254): IMM22 when I = 1, else CH, IDX and N15. -/
inductive DBody where
  | imm (v : BitVec 22)
  | regs (ch : BitVec 3) (idx : BitVec 4) (n15 : BitVec 15)
deriving DecidableEq, Repr

/-- A word of format A (groups 0x20, 0x40, 0x60, 0x80). -/
structure FmtA where
  h : Head
  ty : BitVec 5
  body : ABody
deriving DecidableEq, Repr

/-- A word of format D (group 0x00). -/
structure FmtD where
  h : Head
  ty : BitVec 5
  body : DBody
deriving DecidableEq, Repr

/-- A word of format M (groups 0xC0, 0xE0): TYPE, SCOPE, ORD, IDX and the signed OFF14. -/
structure FmtM where
  h : Head
  ty : BitVec 5
  scope : BitVec 3
  ord : BitVec 2
  idx : BitVec 4
  off : BitVec 14
deriving DecidableEq, Repr

/-- A word of format X (group 0xA0): TYPE, IDX0, IDX1, MODE and N13. -/
structure FmtX where
  h : Head
  ty : BitVec 5
  idx0 : BitVec 3
  idx1 : BitVec 3
  mode : BitVec 4
  n13 : BitVec 13
deriving DecidableEq, Repr

/-- What CTX_CREATE names (R70, R106): the context table's fields, DRAIN where it is set, and the flag DECL. -/
structure CtxArgs where
  tid : Nat
  asid : Nat
  vmid : Nat
  diemap : List Nat
  pace : Nat
  pbudget : Nat
  drain : Option Nat
  saveva : Nat
  trapva : Nat
  mustsave : Nat
  decl : Bool
  unbways : Nat
deriving DecidableEq, Repr

/-- What SL_CREATE names (R53). -/
structure SlArgs where
  tid : Nat
  fn : Nat
  slot : Nat
  ring : Nat
  size : Nat
  cring : Nat
  csema : Nat
deriving DecidableEq, Repr

/-- What FW_LAUNCH names (R251): a launch as R57 lays it out, by Bilsis. -/
structure FwArgs where
  tid : Nat
  tag : Nat
  image : Nat
  args : Nat
  w : Nat
  h : Nat
  prio : Nat
  est : Nat
  idem : Bool
  itiles : List (BitVec 56)
  otiles : List (BitVec 56)
deriving DecidableEq, Repr

/-- The engine kinds of a die (R95, R158). -/
inductive EngKind where
  | copy | compress | collective
deriving DecidableEq, Repr

/-- What a checker or a code detects (R69, R222): a datapath mismatch at a slot of a PE or in a CU's array, a corrected
single-bit error of an array, an uncorrectable word of a memory line or its race tag, of a scratchpad, of a near-cache or an
RRC line, an integrity tag that does not match, or a mismatch in the address adders of an AG's patterns. -/
inductive CheckEvent where
  | pipe (lease dx dy slot : Nat)
  | systolic (lease dx dy : Nat)
  | address (lease dx dy : Nat)
  | corrected (die array : Nat)
  | uncorrectable (die array pa : Nat)
  | scratch (lease dx dy off : Nat)
  | near (die cluster asid va : Nat)
  | rrc (die asid va : Nat)
  | integrity (pa : Nat)
deriving DecidableEq, Repr

/-- What the reliability monitor takes out of use when it flags an array (R238). -/
inductive FlagWhat where
  | site (x y : Nat)
  | frame (pa : Nat)
  | vault (die index : Nat)
  | way (die array index : Nat)
deriving DecidableEq, Repr

/-- The number of an array's kind. -/
def FlagWhat.kind : FlagWhat → Nat
  | .site _ _ => 0
  | .frame _ => 1
  | .vault _ _ => 2
  | .way _ _ _ => 3

/-- The SPDM requests that the device answers (R67); `accept` tells whether the requester accepts the Brainpool
algorithm. -/
inductive SpdmReq where
  | version
  | capabilities
  | algorithms (accept : Bool)
  | digests
  | certificate
  | challenge (nonce : BitVec 256)
  | measurements
deriving DecidableEq, Repr

/-- Every step of the machine: one constructor per row of spec/opcode_table.json. Rows that carry something from
outside stand before those whose only choice is which agent moves, which `State.focus` names. -/
inductive Instr where
  /-- SUPPLY_PRESENT (R66): External supply appears in OFF: the package enters BOOT, the CD boot ROM verifies and measures Bilsis, and Bilsis releases the live dies. -/
  | supplyPresent (verified : Bool) (measures : List (BitVec 384))
  /-- POWER_FAIL_TRAP (R109): The input rail has stayed below threshold for 2 µs: the hold-up sequence stops issue, stops the clocks, writes back must-save ranges and streams the sets to the keep store. -/
  | powerFailTrap (performed : List (Nat × Nat))
  /-- HOLDUP_ENERGY_LOW (R111): Usable hold-up energy falls to 1 J: streaming stops, the set in progress is torn and the sequence goes to the manifest step. -/
  | holdupEnergyLow (whole : Nat)
  /-- CTX_CREATE (R70): Mailbox command that creates a context, checks DIEMAP, PACE, UNBWAYS and the must-save declaration, and reserves its unbacked ways. -/
  | ctxCreate (a : CtxArgs)
  /-- CTX_DESTROY (R389): Mailbox command that destroys every start list, kills every task, removes queued engine entries, dissolves teams and frees the context entry. -/
  | ctxDestroy (tid : Nat)
  /-- CTX_DIEMAP (R71): Mailbox command that rewrites a DIEMAP entry when no work of the context uses that virtual die. -/
  | ctxDiemap (tid vdie die : Nat)
  /-- CTX_PACE (R90): Mailbox command that sets a context's PACE within the package-wide sum of 65,536. -/
  | ctxPace (tid pace : Nat)
  /-- CTX_ROOT (R163): Mailbox command that sets the first-stage root of one ASID for one die code. -/
  | ctxRoot (asid dc addr : Nat)
  /-- SL_CREATE (R53): Mailbox command that creates an ACTIVE start list with its ring, completion ring and semaphore in a function slot. -/
  | slCreate (a : SlArgs)
  /-- BW_BUDGET (R90): Mailbox command that sets a die's budget B of lines per lap, which takes effect at the next lap boundary. -/
  | bwBudget (die b : Nat)
  /-- MS_UPDATE (R106): Mailbox command that reads a new must-save declaration, or withdraws the current one, and checks it against the 1.5 GiB budget. -/
  | msUpdate (tid : Nat) (decl : Bool)
  /-- KS_RESTORE (R114): Mailbox command that writes a whole keep-store set back under the same VAs into a newly created context. -/
  | ksRestore (set tid : Nat)
  /-- TASK_RESTORE (R114): Mailbox command that creates a SAVED task from a restored must-save lease slot. -/
  | taskRestore (tid slotVa : Nat)
  /-- TASK_RESUME (R102): Mailbox command that resumes a parked lease, reissuing its held requests in their original order. -/
  | taskResume (die entry : Nat)
  /-- TASK_KILL (R102): Mailbox command that kills a parked task as in R89, with DETAIL 0xFFFF_FFFB. -/
  | taskKill (die entry : Nat)
  /-- DIE_RESET (R237): Mailbox command that begins the warm reset of one compute die; it is refused with RESET_BUSY while a reset of that die is in progress. -/
  | dieReset (die : Nat)
  /-- POOL_ADD (R174): Mailbox command that adds an aligned frame to one of a context's spare pools and sets the frame's owner entries. -/
  | poolAdd (tid pool pa : Nat) (big : Bool)
  /-- PG_MIGR (R237): Mailbox command that moves an unbacked page held on a resetting die to another RUNNING die under R174. -/
  | pgMigr (tid va die : Nat)
  /-- S2INV (R201): Mailbox command that performs a second-stage invalidation of a VMID's intermediate-address range. -/
  | s2inv (vmid base count : Nat)
  /-- RACE_POOL (R186): Mailbox command that gives a die its HBM spill pool of race-tag blocks. -/
  | racePool (die base size : Nat)
  /-- SITE_THRESH (R223): Mailbox command that sets the check-counter threshold at which a site is retired. -/
  | siteThresh (v : Nat)
  /-- SITE_RETIRE (R223): Mailbox command that re-applies a list of retired sites supplied by the host. -/
  | siteRetire (sites : List (Nat × Nat))
  /-- FW_LAUNCH (R251): Mailbox command by which Bilsis launches an image with firmware privilege. -/
  | fwLaunch (a : FwArgs)
  /-- DBG_NONCE (R115): Mailbox command that issues a new nonce for a debug authorisation token. -/
  | dbgNonce (fresh : BitVec 128)
  /-- DBG_FREEZE (R116): Mailbox command that verifies a debug token and names the freeze cycle F at least 4,096 cycles ahead. -/
  | dbgFreeze (token : BitVec 1280) (sigOk : Bool) (f buf : Nat)
  /-- PHOTO_FINISH_FREEZE (R116): Fabric cycle F ends: every live die stops its clocks, the CD reads out all architectural state, then thaws or resets as the token says. -/
  | photoFinishFreeze (performed : List (Nat × Nat))
  /-- ROUTE_TABLE_WRITE (R44): Bilsis writes the span route table at domain set-up or after a port goes DOWN, and requests held for LINK_POISON are released. -/
  | routeTableWrite (dst : Nat) (mask : BitVec 16)
  /-- DOORBELL (R55): A write to SLTAIL sets TAIL; a value that overruns SIZE is not accepted and makes the start list FAULTED with FCAUSE 3. -/
  | doorbell (slot : Nat) (tail : BitVec 32)
  /-- SLCHEAD (R63): A host write to SLCHEAD records how many completion entries the host has consumed. -/
  | slchead (slot : Nat) (v : BitVec 32)
  /-- STOP (R64): SLCTL command that stops a start list from admitting packets: ACTIVE goes to STOPPING and then STOPPED. -/
  | stop (slot : Nat)
  /-- START (R64): SLCTL command that returns a STOPPED or FAULTED start list to ACTIVE and resumes reading at HEAD. -/
  | start (slot : Nat)
  /-- DESTROY (R65): SLCTL command without FORCE: reading stops, admitted work runs to completion, then the slot is freed. -/
  | destroy (slot : Nat)
  /-- DESTROY_FORCE (R65): SLCTL command with FORCE: admitted tasks are killed, unstarted copies are discarded, then the slot is freed. -/
  | destroyForce (slot : Nat)
  /-- REGISTER_WRITE (R7): A write to a register that has no row of its own, acting as its access type states (ignored for RO and reserved fields). -/
  | registerWrite (fn bar off : Nat) (v : BitVec 64)
  /-- HOST_CXL_MEM_REQUEST (R50): A host CXL.mem request, checked at its home slice against the frame's HOSTOK bit. -/
  | hostCxlMemRequest (pa : Nat) (write : Bool) (data : BitVec 512) (mask : BitVec 64)
  /-- TOKEN_ARRIVAL (R129): A token reaches the consumer end of a channel; a parity failure or firewall mismatch replaces it with ERR PIPE_CHECK. -/
  | tokenArrival (bad : Bool)
  /-- DECISION_TOKEN (R132): A decision token reaches the ports and makes its plane pending for the first invocation whose EOI has not left them. -/
  | decisionToken (replace : Bool)
  /-- CHECKER_MISMATCH (R222): A residue, parity or ECC checker detects an error: the result becomes ERR PIPE_CHECK or ECC_UNCORR, or the word is corrected. -/
  | checkerMismatch (c : CheckEvent)
  /-- RELIABILITY_MONITOR (R238): Each second the monitor evaluates corrected-error rates, withdraws undervolt offsets and flags failing arrays. -/
  | reliabilityMonitor (domain rate : Nat) (what : FlagWhat)
  /-- SEAM_MODULE_LOSS (R34): A seam loses whole modules and, if its reservations exceed half the remaining capacity, is moved to QUIESCING alone. -/
  | seamModuleLoss (seam lost : Nat)
  /-- LINK_FAILURE (R37): A RUNNING die link fails unplanned: it goes DOWN and requests in flight across it receive DIE_DOWN. -/
  | linkFailure (link : Nat) (performed : List (Nat × Nat))
  /-- CD_LINK_FAILURE (R387): The CD link of a live die fails: the die goes DOWN, its tasks are killed with DETAIL 33 and its teams are dissolved. -/
  | cdLinkFailure (die : Nat) (performed : List (Nat × Nat))
  /-- LINK_TRAINING_RESULT (R35): A training or readmission attempt of a die link ends: the link advances, returns to DOWN, or stays DOWN after three failures. -/
  | linkTrainingResult (link : Nat) (ok : Bool)
  /-- SPAN_FLIT_RECEIVE (R42): A span port receives a flit pair with a number of symbol errors in its codeword: it decodes it, checks the CRC and sequence, accepts, discards or NAKs, and takes the acknowledgements. -/
  | spanFlitReceive (port : Nat) (flits : List (BitVec 2048)) (errors : Nat)
  /-- SPAN_NAK (R42): A transmitter receives a NAK and resends every held flit from ACKSEQ + 1 in order. -/
  | spanNak (port : Nat) (ackseq : BitVec 8)
  /-- NOP, opcode 0x00 (R279): Does nothing and sends nothing. -/
  | nop (f : FmtD)
  /-- RECV, opcode 0x01 (R277): Pops the DATA or ERR token at the head of an input channel and sends it. -/
  | recv (f : FmtD)
  /-- PEEK, opcode 0x02 (R277): Sends a copy of the head token of an input channel without popping it. -/
  | peek (f : FmtD)
  /-- DROP, opcode 0x03 (R279): Discards its operand; an ERR operand raises its trap. -/
  | drop (f : FmtD)
  /-- EMIT, opcode 0x04 (R279): Sends a unit-operation CFG token on an output channel. -/
  | emit (f : FmtD)
  /-- MOV, opcode 0x05 (R279): Sends its operand unchanged. -/
  | mov (f : FmtD)
  /-- CONST, opcode 0x06 (R279): Sends its immediate tagged with TYPE. -/
  | const (f : FmtD)
  /-- STEER, opcode 0x07 (R280): Sends L to target0 or target1 according to its predicate P. -/
  | steer (f : FmtD)
  /-- MERGE, opcode 0x08 (R280): Sends whichever of L and R is present, L first. -/
  | merge (f : FmtD)
  /-- SEL, opcode 0x09 (R280): Sends L or R to both targets according to P. -/
  | sel (f : FmtD)
  /-- GATE, opcode 0x0A (R281): Counts down a keep register and steers L round again or out, rearming the count. -/
  | gate (f : FmtD)
  /-- ITER, opcode 0x0B (R281): Sends a keep register's value and adds N15 to it. -/
  | iter (f : FmtD)
  /-- KREAD, opcode 0x0C (R282): Sends a keep register as a token of TYPE. -/
  | kread (f : FmtD)
  /-- KWRITE, opcode 0x0D (R282): Writes L's low 64 bits to a keep register and passes L on. -/
  | kwrite (f : FmtD)
  /-- EOIQ, opcode 0x0E (R278): Reports whether an EOI marker stands at the head of an input channel. -/
  | eoiq (f : FmtD)
  /-- DECIDE, opcode 0x0F (R283): Sends a decision token naming a plane to the placer and returns the switching invocation. -/
  | decide (f : FmtD)
  /-- RETIRE, opcode 0x10 (R283): Asks the lease's input patterns to end at an invocation and returns that invocation. -/
  | retire (f : FmtD)
  /-- WAITC, opcode 0x11 (R278): Waits until a channel holds c tokens or free slots, and returns the count. -/
  | waitc (f : FmtD)
  /-- INVNUM, opcode 0x12 (R285): Sends the PE's current invocation number. -/
  | invnum (f : FmtD)
  /-- SITEID, opcode 0x13 (R285): Sends the site's relative position, plane and kind. -/
  | siteid (f : FmtD)
  /-- HMASK, opcode 0x14 (R284): Sets a handler entry's MASK bit and returns its previous value. -/
  | hmask (f : FmtD)
  /-- HUNMASK, opcode 0x15 (R284): Clears a handler entry's MASK bit and returns its previous value. -/
  | hunmask (f : FmtD)
  /-- CHSTAT, opcode 0x16 (R278): Reports the occupancy of an input channel or the free slots of an output channel. -/
  | chstat (f : FmtD)
  /-- ADD, opcode 0x20 (R288): Integer add, wrapping. -/
  | add (f : FmtA)
  /-- SUB, opcode 0x21 (R288): Integer subtract, wrapping. -/
  | sub (f : FmtA)
  /-- ADDC, opcode 0x22 (R289): Add with carry in, sending the sum and the carry out. -/
  | addc (f : FmtA)
  /-- SUBB, opcode 0x23 (R289): Subtract with borrow in, sending the difference and the borrow out. -/
  | subb (f : FmtA)
  /-- MUL, opcode 0x24 (R288): Integer multiply, low half, wrapping. -/
  | mul (f : FmtA)
  /-- MULH, opcode 0x25 (R288): High half of the exact integer product. -/
  | mulh (f : FmtA)
  /-- DIV, opcode 0x26 (R288): Integer divide truncating toward zero, with the edge results of R216. -/
  | div (f : FmtA)
  /-- REM, opcode 0x27 (R288): Integer remainder with the sign of the dividend. -/
  | rem (f : FmtA)
  /-- NEG, opcode 0x28 (R288): Integer negate, wrapping. -/
  | neg (f : FmtA)
  /-- ABS, opcode 0x29 (R288): Integer absolute value, wrapping. -/
  | abs (f : FmtA)
  /-- MIN, opcode 0x2A (R288): Smaller of two integers or addresses. -/
  | min (f : FmtA)
  /-- MAX, opcode 0x2B (R288): Larger of two integers or addresses. -/
  | max (f : FmtA)
  /-- SATADD, opcode 0x2C (R288): Saturating integer add. -/
  | satadd (f : FmtA)
  /-- SATSUB, opcode 0x2D (R288): Saturating integer subtract. -/
  | satsub (f : FmtA)
  /-- AND, opcode 0x2E (R288): Bitwise and. -/
  | and (f : FmtA)
  /-- OR, opcode 0x2F (R288): Bitwise or. -/
  | or (f : FmtA)
  /-- XOR, opcode 0x30 (R288): Bitwise exclusive or. -/
  | xor (f : FmtA)
  /-- ANDN, opcode 0x31 (R288): Bitwise L and not R. -/
  | andn (f : FmtA)
  /-- SHL, opcode 0x32 (R288): Shift left. -/
  | shl (f : FmtA)
  /-- SHR, opcode 0x33 (R288): Logical shift right. -/
  | shr (f : FmtA)
  /-- SAR, opcode 0x34 (R288): Arithmetic shift right. -/
  | sar (f : FmtA)
  /-- ROT, opcode 0x35 (R288): Rotate left. -/
  | rot (f : FmtA)
  /-- CLZ, opcode 0x36 (R288): Count leading zeros. -/
  | clz (f : FmtA)
  /-- POPC, opcode 0x37 (R288): Count set bits. -/
  | popc (f : FmtA)
  /-- BFX, opcode 0x38 (R290): Extracts a bit field given by an n16 control word. -/
  | bfx (f : FmtA)
  /-- BFI, opcode 0x39 (R290): Inserts a bit field given by an n16 control word. -/
  | bfi (f : FmtA)
  /-- EXT, opcode 0x3A (R290): Converts between integer and address types by extension or truncation. -/
  | ext (f : FmtA)
  /-- CMP, opcode 0x3B (R291): Integer or address comparison under condition FN, giving n8 0 or 1. -/
  | cmp (f : FmtA)
  /-- ADDA, opcode 0x3C (R292): Adds an s64 offset to an a57 address modulo 2^57. -/
  | adda (f : FmtA)
  /-- MKADDR, opcode 0x3D (R292): Builds an a57 address from an offset, a die code and a package. -/
  | mkaddr (f : FmtA)
  /-- DIEOF, opcode 0x3E (R292): Reports an address's die code and whether it is local, faulting or remote. -/
  | dieof (f : FmtA)
  /-- FADD, opcode 0x40 (R295): Float add, rounded in RM. -/
  | fadd (f : FmtA)
  /-- FSUB, opcode 0x41 (R295): Float subtract, rounded in RM. -/
  | fsub (f : FmtA)
  /-- FMUL, opcode 0x42 (R295): Float multiply, rounded in RM. -/
  | fmul (f : FmtA)
  /-- FFMA, opcode 0x43 (R295): Fused multiply-add with one rounding. -/
  | ffma (f : FmtA)
  /-- FDIV, opcode 0x44 (R295): Float divide, correctly rounded. -/
  | fdiv (f : FmtA)
  /-- FSQRT, opcode 0x45 (R295): Float square root, correctly rounded. -/
  | fsqrt (f : FmtA)
  /-- FMIN, opcode 0x46 (R295): Float minimum, preferring the non-NaN operand. -/
  | fmin (f : FmtA)
  /-- FMAX, opcode 0x47 (R295): Float maximum, preferring the non-NaN operand. -/
  | fmax (f : FmtA)
  /-- FNEG, opcode 0x48 (R295): Float negate, exact. -/
  | fneg (f : FmtA)
  /-- FABS, opcode 0x49 (R295): Float absolute value, exact. -/
  | fabs (f : FmtA)
  /-- FCMP, opcode 0x4A (R296): Float comparison under condition FN, giving n8 0 or 1. -/
  | fcmp (f : FmtA)
  /-- FCLASS, opcode 0x4B (R296): Classifies a float value as a one-hot n16. -/
  | fclass (f : FmtA)
  /-- FCVT, opcode 0x4C (R297): Converts between float formats, rounding and saturating as named. -/
  | fcvt (f : FmtA)
  /-- FTOI, opcode 0x4D (R297): Converts a float to an integer under R215. -/
  | ftoi (f : FmtA)
  /-- ITOF, opcode 0x4E (R297): Converts an integer to a float, rounding in RM. -/
  | itof (f : FmtA)
  /-- FRND, opcode 0x4F (R295): Rounds a float to an integral value in RM. -/
  | frnd (f : FmtA)
  /-- FSCALE, opcode 0x50 (R295): Multiplies a float by 2^y for an s32 y. -/
  | fscale (f : FmtA)
  /-- FEXP2, opcode 0x51 (R295): Correctly rounded 2^x. -/
  | fexp2 (f : FmtA)
  /-- FLOG2, opcode 0x52 (R295): Correctly rounded log2 x. -/
  | flog2 (f : FmtA)
  /-- FRCP, opcode 0x53 (R295): Correctly rounded reciprocal. -/
  | frcp (f : FmtA)
  /-- FRSQ, opcode 0x54 (R295): Correctly rounded reciprocal square root. -/
  | frsq (f : FmtA)
  /-- FFLAGS, opcode 0x55 (R298): Reads the CU's float flags and clears those named by the immediate mask. -/
  | fflags (f : FmtA)
  /-- VADD, opcode 0x60 (R305): Lanewise add. -/
  | vadd (f : FmtA)
  /-- VSUB, opcode 0x61 (R305): Lanewise subtract. -/
  | vsub (f : FmtA)
  /-- VMUL, opcode 0x62 (R305): Lanewise multiply. -/
  | vmul (f : FmtA)
  /-- VFMA, opcode 0x63 (R305): Lanewise fused multiply-add. -/
  | vfma (f : FmtA)
  /-- VMIN, opcode 0x64 (R305): Lanewise minimum. -/
  | vmin (f : FmtA)
  /-- VMAX, opcode 0x65 (R305): Lanewise maximum. -/
  | vmax (f : FmtA)
  /-- VABS, opcode 0x66 (R305): Lanewise absolute value. -/
  | vabs (f : FmtA)
  /-- VNEG, opcode 0x67 (R305): Lanewise negate. -/
  | vneg (f : FmtA)
  /-- VAND, opcode 0x68 (R305): Lanewise and. -/
  | vand (f : FmtA)
  /-- VOR, opcode 0x69 (R305): Lanewise or. -/
  | vor (f : FmtA)
  /-- VXOR, opcode 0x6A (R305): Lanewise exclusive or. -/
  | vxor (f : FmtA)
  /-- VSHL, opcode 0x6B (R305): Lanewise shift left. -/
  | vshl (f : FmtA)
  /-- VSHR, opcode 0x6C (R305): Lanewise logical shift right. -/
  | vshr (f : FmtA)
  /-- VSAR, opcode 0x6D (R305): Lanewise arithmetic shift right. -/
  | vsar (f : FmtA)
  /-- VCMP, opcode 0x6E (R306): Lanewise comparison giving a scalar lane mask. -/
  | vcmp (f : FmtA)
  /-- VSEL, opcode 0x6F (R306): Selects each lane from L or R according to a mask. -/
  | vsel (f : FmtA)
  /-- VSATADD, opcode 0x70 (R305): Lanewise saturating add. -/
  | vsatadd (f : FmtA)
  /-- VMULH, opcode 0x71 (R305): Lanewise high half of the product. -/
  | vmulh (f : FmtA)
  /-- VDOT, opcode 0x72 (R307): Sixteen dot products added to an f32 or s32 accumulator. -/
  | vdot (f : FmtA)
  /-- VCVT, opcode 0x73 (R308): Lanewise conversion between types of equal lane width. -/
  | vcvt (f : FmtA)
  /-- VQUANT, opcode 0x74 (R309): Quantises a 32-element block into one part of an MX token. -/
  | vquant (f : FmtA)
  /-- VDEQ, opcode 0x75 (R310): Expands MX elements into float lanes. -/
  | vdeq (f : FmtA)
  /-- VSCALE, opcode 0x76 (R311): Scales float lanes, or an MX token's scales, by 2^y. -/
  | vscale (f : FmtA)
  /-- VEXP2, opcode 0x77 (R305): Lanewise 2^x. -/
  | vexp2 (f : FmtA)
  /-- VLOG2, opcode 0x78 (R305): Lanewise log2 x. -/
  | vlog2 (f : FmtA)
  /-- VRCP, opcode 0x79 (R305): Lanewise reciprocal. -/
  | vrcp (f : FmtA)
  /-- VRSQ, opcode 0x7A (R305): Lanewise reciprocal square root. -/
  | vrsq (f : FmtA)
  /-- VSIGM, opcode 0x7B (R305): Lanewise logistic sigmoid. -/
  | vsigm (f : FmtA)
  /-- VBCAST, opcode 0x80 (R313): Broadcasts a scalar to every lane. -/
  | vbcast (f : FmtA)
  /-- VEXTR, opcode 0x81 (R313): Extracts one lane as a scalar. -/
  | vextr (f : FmtA)
  /-- VINS, opcode 0x82 (R313): Inserts a scalar into one lane. -/
  | vins (f : FmtA)
  /-- VSHUF, opcode 0x83 (R313): Permutes lanes by byte indices. -/
  | vshuf (f : FmtA)
  /-- VROT, opcode 0x84 (R313): Rotates lanes. -/
  | vrot (f : FmtA)
  /-- VSLIDE, opcode 0x85 (R313): Takes n lanes from the concatenation of L and R at an offset. -/
  | vslide (f : FmtA)
  /-- VZIP, opcode 0x86 (R313): Interleaves half of L with half of R. -/
  | vzip (f : FmtA)
  /-- VUNZIP, opcode 0x87 (R313): De-interleaves the even or odd lanes of L and R. -/
  | vunzip (f : FmtA)
  /-- VPACK, opcode 0x88 (R314): Narrows two vectors into one. -/
  | vpack (f : FmtA)
  /-- VUNPACK, opcode 0x89 (R314): Widens half of a vector. -/
  | vunpack (f : FmtA)
  /-- VREDADD, opcode 0x8A (R315): Sums the lanes in a fixed pairwise tree. -/
  | vredadd (f : FmtA)
  /-- VREDMAX, opcode 0x8B (R315): Maximum over the lanes. -/
  | vredmax (f : FmtA)
  /-- VREDMIN, opcode 0x8C (R315): Minimum over the lanes. -/
  | vredmin (f : FmtA)
  /-- VSCAN, opcode 0x8D (R315): Inclusive scan of add, max or min with a carry-in. -/
  | vscan (f : FmtA)
  /-- VCOMPRESS, opcode 0x8E (R316): 2:4 compression of each group of four lanes, with metadata. -/
  | vcompress (f : FmtA)
  /-- VEXPAND, opcode 0x8F (R316): Reverses VCOMPRESS using its metadata. -/
  | vexpand (f : FmtA)
  /-- VMASK, opcode 0x90 (R313): Zeroes the lanes whose mask bit is clear. -/
  | vmask (f : FmtA)
  /-- VPOPC, opcode 0x91 (R317): Counts nonzero lanes. -/
  | vpopc (f : FmtA)
  /-- VTAGQ, opcode 0x92 (R317): Reports a token's tag, class and scales. -/
  | vtagq (f : FmtA)
  /-- VTAGSET, opcode 0x93 (R317): Sends a token with its tag replaced by TYPE. -/
  | vtagset (f : FmtA)
  /-- WLOAD, opcode 0xA0 (R320): Writes one column of the inactive weight buffer. -/
  | wload (f : FmtX)
  /-- WSCALE, opcode 0xA1 (R322): Rewrites block scales of a weight buffer. -/
  | wscale (f : FmtX)
  /-- WSWAP, opcode 0xA2 (R322): Schedules the exchange of the weight buffers after N13 more vectors. -/
  | wswap (f : FmtX)
  /-- WSPARSE, opcode 0xA3 (R321): Writes half a column of the inactive buffer in 2:4 form with its metadata. -/
  | wsparse (f : FmtX)
  /-- MSTREAM, opcode 0xA4 (R331): Streams the pinned lines of a fetch slot as vector tokens. -/
  | mstream (f : FmtX)
  /-- MACC, opcode 0xA5 (R324): Queues a systolic batch of kind EMIT, ZERO, ACC or DECAY at a bottom-row CU. -/
  | macc (f : FmtX)
  /-- ADECAY, opcode 0xA6 (R325): Sets the decay factor γ once every tile is not BUSY. -/
  | adecay (f : FmtX)
  /-- AZERO, opcode 0xA7 (R327): Zeroes an accumulator tile. -/
  | azero (f : FmtX)
  /-- ALOAD, opcode 0xA8 (R327): Loads half a row of an accumulator tile. -/
  | aload (f : FmtX)
  /-- ADRAIN, opcode 0xA9 (R327): Sends half a row of an accumulator tile, optionally clearing it. -/
  | adrain (f : FmtX)
  /-- ASPILL, opcode 0xAA (R327): Sends a whole tile as 64 vectors, then its ATSTAT. -/
  | aspill (f : FmtX)
  /-- AFILL, opcode 0xAB (R327): Fills a whole tile from 64 tokens of an input channel. -/
  | afill (f : FmtX)
  /-- AOWN, opcode 0xAC (R328): Hands over or releases ownership of an accumulator tile. -/
  | aown (f : FmtX)
  /-- MSTAT, opcode 0xAD (R329): Reports tile status words, or weight and batch state. -/
  | mstat (f : FmtX)
  /-- TFETCH, opcode 0xAE (R330): Fetches and pins the lines of a tile pattern into a fetch slot. -/
  | tfetch (f : FmtX)
  /-- TRELEASE, opcode 0xAF (R330): Releases every pin of a fetch slot. -/
  | trelease (f : FmtX)
  /-- LD, opcode 0xC0 (R338): Scalar load from memory. -/
  | ld (f : FmtM)
  /-- ST, opcode 0xC1 (R339): Scalar store to memory. -/
  | st (f : FmtM)
  /-- LDV, opcode 0xC2 (R338): 64-byte vector load. -/
  | ldv (f : FmtM)
  /-- STV, opcode 0xC3 (R339): 64-byte vector store. -/
  | stv (f : FmtM)
  /-- LDRO, opcode 0xC4 (R338): Load through the read-only near-cache path. -/
  | ldro (f : FmtM)
  /-- LDS, opcode 0xC5 (R340): Scratchpad load, or a copy of a memory line into the scratchpad. -/
  | lds (f : FmtM)
  /-- STS, opcode 0xC6 (R340): Scratchpad store. -/
  | sts (f : FmtM)
  /-- PREF, opcode 0xC7 (R341): Prefetches a line to its home L2. -/
  | pref (f : FmtM)
  /-- CBINIT, opcode 0xC8 (R342): Initialises a circular-buffer descriptor. -/
  | cbinit (f : FmtM)
  /-- CBWAITF, opcode 0xC9 (R342): Waits for c filled slots and returns the consume offset (acquire). -/
  | cbwaitf (f : FmtM)
  /-- CBWAITE, opcode 0xCA (R342): Waits for c free slots and returns the produce offset (acquire). -/
  | cbwaite (f : FmtM)
  /-- CBPUSH, opcode 0xCB (R342): Publishes c produced slots. -/
  | cbpush (f : FmtM)
  /-- CBPOP, opcode 0xCC (R342): Frees c consumed slots. -/
  | cbpop (f : FmtM)
  /-- AADD, opcode 0xCD (R344): Atomic add, returning the old value. -/
  | aadd (f : FmtM)
  /-- AMIN, opcode 0xCE (R344): Atomic minimum, returning the old value. -/
  | amin (f : FmtM)
  /-- AMAX, opcode 0xCF (R344): Atomic maximum, returning the old value. -/
  | amax (f : FmtM)
  /-- AAND, opcode 0xD0 (R344): Atomic and, returning the old value. -/
  | aand (f : FmtM)
  /-- AOR, opcode 0xD1 (R344): Atomic or, returning the old value. -/
  | aor (f : FmtM)
  /-- AXOR, opcode 0xD2 (R344): Atomic exclusive or, returning the old value. -/
  | axor (f : FmtM)
  /-- ASWP, opcode 0xD3 (R344): Atomic swap, returning the old value. -/
  | aswp (f : FmtM)
  /-- ACAS, opcode 0xD4 (R344): Atomic compare-and-swap on bit patterns, returning the old value. -/
  | acas (f : FmtM)
  /-- AFADD, opcode 0xD5 (R344): Atomic float add, rounded RNE, returning the old value. -/
  | afadd (f : FmtM)
  /-- REDADD, opcode 0xD6 (R344): Integer reduction add with no return value. -/
  | redadd (f : FmtM)
  /-- REDFADD, opcode 0xD7 (R344): Float reduction add with no return value. -/
  | redfadd (f : FmtM)
  /-- REDMAX, opcode 0xD8 (R344): Integer reduction maximum with no return value. -/
  | redmax (f : FmtM)
  /-- ACQ, opcode 0xD9 (R347): Load followed by the acquire drops of its scope. -/
  | acq (f : FmtM)
  /-- REL, opcode 0xDA (R347): Release wait at its scope followed by a store. -/
  | rel (f : FmtM)
  /-- FENCE, opcode 0xDB (R347): Release and/or acquire fence of its port at its scope. -/
  | fence (f : FmtM)
  /-- NCINV, opcode 0xDC (R348): Removes every near-cache line of the party's ASID in its cluster. -/
  | ncinv (f : FmtM)
  /-- DISCARD, opcode 0xDD (R349): Drops or zeroes each line of a range. -/
  | discard (f : FmtM)
  /-- FLUSHR, opcode 0xDE (R349): Writes back dirty L2 lines of a backed range. -/
  | flushr (f : FmtM)
  /-- TJOIN, opcode 0xE0 (R351): Joins, or creates, a team. -/
  | tjoin (f : FmtM)
  /-- TLEAVE, opcode 0xE1 (R351): Leaves a team. -/
  | tleave (f : FmtM)
  /-- MARKINIT, opcode 0xE2 (R351): Sets a mark's EXPECT while its COUNT is zero. -/
  | markinit (f : FmtM)
  /-- ARRIVE, opcode 0xE3 (R351): Arrives at a mark as a release and returns the generation. -/
  | arrive (f : FmtM)
  /-- MWAIT, opcode 0xE4 (R351): Waits until a mark's generation differs from g, as an acquire. -/
  | mwait (f : FmtM)
  /-- ARRWAIT, opcode 0xE5 (R351): Arrives at a mark and waits for its generation to change. -/
  | arrwait (f : FmtM)
  /-- SFREND, opcode 0xE6 (R352): Ends the party's synchronisation-free region. -/
  | sfrend (f : FmtM)
  /-- CPY, opcode 0xE7 (R355): Queues a copy-engine command. -/
  | cpy (f : FmtM)
  /-- CPYM, opcode 0xE8 (R355): Queues a copy followed by a matrix batch at a bottom-row CU. -/
  | cpym (f : FmtM)
  /-- ZPACK, opcode 0xE9 (R355): Queues a zero-elision compression command. -/
  | zpack (f : FmtM)
  /-- ZUNPACK, opcode 0xEA (R355): Queues a zero-elision decompression command. -/
  | zunpack (f : FmtM)
  /-- COLL, opcode 0xEB (R356): Issues a member's part of a team collective and returns the collective number. -/
  | coll (f : FmtM)
  /-- ENGQ, opcode 0xEC (R357): Reports the engine-completion watermark and queue occupancy, optionally as an acquire. -/
  | engq (f : FmtM)
  /-- CROPEN, opcode 0xED (R358): Opens a KILL or REDO containment region with a recovery target. -/
  | cropen (f : FmtM)
  /-- CRCLOSE, opcode 0xEE (R358): Closes the containment region after the current invocation. -/
  | crclose (f : FmtM)
  /-- TRAP, opcode 0xEF (R359): Makes an ERR token with a chosen cause. -/
  | trap (f : FmtM)
  /-- TASK, opcode 0xF0 (R361): Launches a task from a device program. -/
  | task (f : FmtM)
  /-- TASKDEP, opcode 0xF1 (R362): Lowers one counter of a device-launched task. -/
  | taskdep (f : FmtM)
  /-- MIGR, opcode 0xF2 (R364): Moves an unbacked page to another die. -/
  | migr (f : FmtM)
  /-- XLFENCE, opcode 0xF3 (R364): Waits until earlier page-table writes are performed and releases held REPLAY requests. -/
  | xlfence (f : FmtM)
  /-- XLINV, opcode 0xF4 (R365): Invalidates translations of a range, for the lease's own ASID or a named one. -/
  | xlinv (f : FmtM)
  /-- CLOCK, opcode 0xF5 (R366): Reads context time or the lease's fabric cycle count. -/
  | clock (f : FmtM)
  /-- PERFC, opcode 0xF6 (R366): Reads a tenant-tagged event counter. -/
  | perfc (f : FmtM)
  /-- ERRQ, opcode 0xF7 (R360): Reads an ERR token's data without raising its trap. -/
  | errq (f : FmtM)
  /-- SPAN_PORT_RETRAIN (R43): Bilsis commands a span port to retrain, returning it to a higher rate or to eight lanes. -/
  | spanPortRetrain (port rate : Nat) (half : Bool)
  /-- SEAM_RETRAIN (R34): Bilsis retrains a seam with all 16 modules, which returns its reservation limit to 64, or takes a DOWN seam through TRAINING. -/
  | seamRetrain (seam : Nat) (ok : Bool)
  /-- FRAME_OWNER_WRITE (R175): Bilsis sets or clears the VALID, HOSTOK and OWNER fields of a frame owner entry, for example to free a frame after its invalidation is acknowledged. -/
  | frameOwnerWrite (frame : Nat) (v : BitVec 16)
  /-- KEY_SLOT_LOAD (R68): Bilsis loads a wrapped AES-XTS key pair and tag key into one of a die's 256 key slots. -/
  | keySlotLoad (die slot : Nat) (wrapped : List (BitVec 8))
  /-- SPDM_REQUEST (R67): An SPDM request arrives over a function's DOE mailbox, and the device answers it with version, capability, algorithm, digest, certificate, challenge or measurement data, or with an SPDM error. -/
  | spdmRequest (fn : Nat) (req : SpdmReq)
  /-- SUPPLY_LOSS (R25): External supply is lost: in BOOT, or in RUN before any context was admitted, the package goes straight to OFF; otherwise the hold-up path follows. -/
  | supplyLoss
  /-- HOLDUP_MANIFEST (R113): After streaming ends, the manifest is written and signed in the other manifest area, and the package goes to OFF. -/
  | holdupManifest
  /-- ENERGY_RESERVE_READY (R105): The supercapacitor layer reaches 48 J usable: CTX_CREATE commands that were waiting are admitted. -/
  | energyReserveReady
  /-- HOLDUP_CHARGE_TIMEOUT (R105): 30 s after BOOT ends the layer is below 48 J usable: the CD logs it as failed and CTX_CREATE returns NOHOLDUP. -/
  | holdupChargeTimeout
  /-- KS_CONSUME (R114): Mailbox command that records the manifest sequence number MSEQ as consumed in the keep header. -/
  | ksConsume
  /-- DIE_RESET_ADVANCE (R237): A step of a warm reset has ended, and the next step begins: evacuation, moving entries, migrating pages, write-back, quiesce batons, reset, training or readmission. -/
  | dieResetAdvance
  /-- DIE_RESET_DRAIN_DEADLINE (R237): 2·DRAIN fabric cycles after step 2 began, a lease still on the die is killed with DETAIL 33, or killed and re-queued if idempotent. -/
  | dieResetDrainDeadline
  /-- SITE_LIST (R223): Mailbox command that returns the retired sites as package coordinates. -/
  | siteList
  /-- ERR_COUNTS (R223): Mailbox command that returns the corrected and uncorrectable counts of each array kind per die. -/
  | errCounts
  /-- PACKET_READ (R55): The CD reads packet HEAD as two lines and compares both stamps: it consumes and checks the packet, holds it, or takes nothing. -/
  | packetRead
  /-- PACKET_STAMP_RETRY (R55): 1 µs of device time after a stamp mismatch, the CD reads the packet again. -/
  | packetStampRetry
  /-- HELD_PACKET_RETRY (R55): When the admission condition of a held packet may hold, the CD rereads it and admits it if every condition holds. -/
  | heldPacketRetry
  /-- NOP_PACKET (R58): NOP packet, which completes on admission. -/
  | nopPacket
  /-- LAUNCH (R57): LAUNCH packet, which creates one dependency-table entry for a lease task on its entry die. -/
  | launch
  /-- GRAPH (R58): GRAPH packet, which copies NNODE node records into CD memory as graph GID. -/
  | graph
  /-- REPLAY_PACKET (R61): REPLAY packet, which snapshots graph GID and admits each of its nodes. -/
  | replayPacket
  /-- REPLAY_NODE_ENTRY (R75): The next node of an admitted replay enters its entry die once that die has a FREE entry. -/
  | replayNodeEntry
  /-- PATCH (R58): PATCH packet, which writes LEN bytes into a stored graph node whole. -/
  | patch
  /-- SIGSEM (R58): SIGSEM packet, which sets or adds to a 64-bit semaphore as a SYSTEM-scope release. -/
  | sigsem
  /-- WAITSEM (R58): WAITSEM packet, which is admitted only when its semaphore condition holds and then acquires at SYSTEM scope. -/
  | waitsem
  /-- WAITSEM_POLL (R58): On a snoop of the semaphore line, or after 1 µs, a pending WAITSEM rereads ADDR and tests its condition. -/
  | waitsemPoll
  /-- COPY (R58): COPY packet, which queues one copy-engine command in the context's virtual queue on the die that homes DST. -/
  | copy
  /-- FENCE_PACKET (R58): FENCE packet, which is admitted only when every earlier packet of the start list has completed. -/
  | fencePacket
  /-- XLINV_PACKET (R58): XLINV packet, which performs an invalidation of another context's range as an XLINV with OTHER set. -/
  | xlinvPacket
  /-- PACKET_COMPLETION (R62): An admitted packet completes: the completion record, the semaphore add and the MSI-X message are performed in that order. -/
  | packetCompletion
  /-- PLACER_PLACEMENT (R80): The placer takes a READY task, chooses its firing die and tries on-die, straddling, compaction and pre-emption placement. -/
  | placerPlacement
  /-- RESERVED_WINDOW_PLACE (R82): Every cell of a reserved window has become FREE: the newcomer is placed and loaded there. -/
  | reservedWindowPlace
  /-- DRAIN_DEADLINE (R98): A DRAIN victim still runs 2·DRAIN fabric cycles after the decision and is decided again by rows 2 to 4. -/
  | drainDeadline
  /-- CHECKPOINT_DEADLINE (R98): A row-4 victim reaches no exchange zone within 2·DRAIN fabric cycles and is killed with DETAIL 0xFFFF_FFFF. -/
  | checkpointDeadline
  /-- RELOCATION_START (R84): A relocation or checkpoint reaches its exchange zone: HOLD is set on the input ports and batons are injected behind the EOI. -/
  | relocationStart
  /-- RELOCATION_DRAINED (R84): Batons have reached every sink and every port has reported drained: frames and state are copied, the ports re-bound, HOLD released and the source freed. -/
  | relocationDrained
  /-- CHECKPOINT_DRAINED (R87): A checkpoint's lease is quiescent: the record is written to the save area and released, the sites are freed and the task is SAVED. -/
  | checkpointDrained
  /-- STANDING_CHECKPOINT (R108): At every INTERVAL-th exchange zone, a must-save lease drains and writes its state into the older slot, then runs on. -/
  | standingCheckpoint
  /-- RELOCATION_TIMEOUT (R86): Step 3 is not reached within 2^20 fabric cycles: the relocation is abandoned and the lease runs on at its source. -/
  | relocationTimeout
  /-- BATON_FORWARD (R134): A site forwards a fabric baton once every condition of its job holds, and reports to the placer. -/
  | batonForward
  /-- TASK_COMPLETION (R89): The completion baton has passed every site: writes are released, the entry becomes DONE, dependents are lowered and the sites are freed. -/
  | taskCompletion
  /-- LAP_BOUNDARY (R93): At each lap boundary the bandwidth controller refills every die's port buckets from base, pool and carry, applying the cuts. -/
  | lapBoundary
  /-- ENGINE_DISPATCH (R96): An engine of a kind becomes free: the deficit round-robin arbiter dispatches a queue's head entry to it. -/
  | engineDispatch
  /-- ENGINE_COMPLETION (R193): An engine command completes: a release at its scope, the ARR mark arrival, and any CPYM follow-on batch. -/
  | engineCompletion
  /-- CB_SLOT_LANDED (R150): An engine-filled slot at PRODP has landed whole: it moves from PEND to FILLED and PRODP advances. -/
  | cbSlotLanded
  /-- HANDLER_SELECT (R125): With no instance running, a PE selects the highest-priority runnable handler entry round-robin. -/
  | handlerSelect
  /-- HANDLER_QUIESCENCE (R126): No slot of the running instance is ready, waiting or in flight: the instance ends and its held operands are discarded. -/
  | handlerQuiescence
  /-- EOI_PROCESSING (R130): EOI markers stand at every non-loop input: the PE runs its EOI handler, pops the markers, emits EOI and increments its invocation. -/
  | eoiProcessing
  /-- WSREWRITE (R147): Unit-operation CFG token that rewrites WSC entries of a weight buffer once no vector reads it. -/
  | wsrewrite
  /-- GAMMA (R147): Unit-operation CFG token that sets DECAYG once BUSY is clear on every tile. -/
  | gamma
  /-- PLANE_SWITCH (R132): Every site has finished EOI processing of invocation j: the current plane becomes the pending plane and HOLD is released. -/
  | planeSwitch
  /-- SYSTOLIC_ACTIVATION (R146): An activation vector and a partial meet at a systolic CU, which adds its product block and passes both on. -/
  | systolicActivation
  /-- SYSTOLIC_RESULT (R146): A column result leaves the bottom row and is emitted or accumulated into the head batch's tile row. -/
  | systolicResult
  /-- PATTERN_ISSUE (R155): In each fabric cycle an AG issues the next element of one pattern round-robin, emitting EOI or ERR PERM where due. -/
  | patternIssue
  /-- LOAD_REPLY (R153): A load reply reaches its port and its data is delivered to its channel in issue order. -/
  | loadReply
  /-- WRITE_ACK (R152): A store, reduction or atomic is acknowledged at its port, and its retire-queue entry is freed. -/
  | writeAck
  /-- PORT_REFUSAL (R176): A refusal reaches its port: a load is held with FHOLD, a store goes to the side log, and one trap is raised. -/
  | portRefusal
  /-- SIDE_LOG_REPLAY (R176): When the condition clears, the MU replays its side log in order, translating each entry again. -/
  | sideLogReplay
  /-- REPLAY_RELEASE (R380): The condition of a REPLAY action clears: held requests are issued again in order, ahead of new requests. -/
  | replayRelease
  /-- HOME_REQUEST (R169): A request reaches its home slice or vault controller, is translated, checked and performed, or is forwarded or refused. -/
  | homeRequest
  /-- BACK_INVALIDATION_ACK (R170): Every sharer has acknowledged a back-invalidation: the held write is performed or the directory entry is reused. -/
  | backInvalidationAck
  /-- RACE_SATURATION_TIMEOUT (R189): A saturation wait or a wait for a free race-tag entry reaches 65,536 cycles: MM_SATURATED is raised, flagged unconfirmed. -/
  | raceSaturationTimeout
  /-- SATURATION_WAIT_END (R189): OLDEST exceeds the last read time of a saturated line: the waiting write proceeds. -/
  | saturationWaitEnd
  /-- WALK (R168): A second-level TLB miss goes to a CD walker, which walks, sets A, checks the sequence samples and installs the leaf or faults. -/
  | walk
  /-- INVALIDATION_BATON_ACK (R199): A home slice acknowledges a port's invalidation baton once every earlier request of that port has been performed or refused. -/
  | invalidationBatonAck
  /-- INVALIDATION_ACK (R199): Every baton is acknowledged: installs are unblocked, S1SEQ or S2SEQ advances, and the invalidation completes. -/
  | invalidationAck
  /-- CHECK_COUNTER_HALVING (R223): Every 2^30 fabric cycles the CD halves every site's check counter. -/
  | checkCounterHalving
  /-- STALL_WATCHDOG (R140): A lease's stall count reaches 2^24 fabric cycles, and STALL_WATCHDOG is raised at the first site holding a token. -/
  | stallWatchdog
  /-- TRAP_ACTION (R102): A trap reaches the CD, which applies the context's trap action (KILL, REPLAY, PARK or FORWARD) and writes any trap record. -/
  | trapAction
  /-- CONTAINMENT_UNWIND (R230): A containable ERR in an open region unwinds it: issue stops, the lease drains and empties, undo is applied, patterns rewind and the recovery handler runs. -/
  | containmentUnwind
  /-- REGION_COMMIT (R227): The last invocation's EOI is processed everywhere and every write is acknowledged: the region commits and the undo logs are cleared. -/
  | regionCommit
  /-- SEAM_RETURN_RUNNING (R34): No fabric channel crosses a seam that was quiesced alone any longer: it returns to RUNNING with a lowered reservation limit. -/
  | seamReturnRunning
  /-- SPAN_REPLAY_LIMIT (R43): A port counts more than 64 replays within 1 ms: it retrains at a lower rate, or goes DOWN if already at the lowest rate. -/
  | spanReplayLimit
  /-- SPAN_LANE_FAILURE (R43): A span lane fails: the port degrades to four lanes, or goes DOWN if both halves hold a failed lane. -/
  | spanLaneFailure
  /-- SPAN_TRAINING_FAIL (R43): A span port fails three training attempts in a row and goes DOWN. -/
  | spanTrainingFail
  /-- SYNC_UNIT_OP (R136): A team or mark operation reaches its sync unit and is applied, releasing the waiters when COUNT reaches EXPECT. -/
  | syncUnitOp
  /-- HOLDUP_ENERGY_EXHAUSTED (R111): The stored energy runs out before the manifest has been written whole and signed; the package goes to OFF and that manifest does not verify. -/
  | holdupEnergyExhausted
  /-- SPAN_PORT_TRAINED (R43): A span port completes a training attempt successfully, goes UP at its new rate or width, and resumes transmission with replay from the last ACKSEQ. -/
  | spanPortTrained
  /-- ENGINE_ISSUE (R158): A running copy, compression or collective engine injects the next line request of its command through its own port, subject to tokens and retire-queue entries. -/
  | engineIssue
  /-- CREDIT_RETURN (R129): The credit for a slot freed at a channel's consumer end reaches the producer end after the route latency, which frees a producer slot. -/
  | creditReturn
  /-- RETIRE_MESSAGE (R283): A RETIRE message reaches the input stream ports: the invocation j is fixed, the INPUT patterns stop at its EOI, and the reply is sent. -/
  | retireMessage
  /-- CROPEN_MESSAGE (R227): A CROPEN message reaches the ports: the region's first invocation is fixed, the region opens or is refused, and the reply is sent. -/
  | cropenMessage
deriving DecidableEq, Repr

end Sys2Proof
end

