-- ==== Sys2Proof/Decode.lean ====
section
/-! DEFINITION. The decoder of the 56-bit instruction word, total and rejecting by name; the encoder, from the same
layouts (R252 to R257); and the row that the manual's tables give each instruction, with the frame checks of R259 that
a single slot can fail. -/

namespace Sys2Proof

/-- Why a word is no instruction: an empty slot (R252), or an unassigned opcode (R257). -/
inductive DecodeError where
  | emptySlot
  | unassigned
deriving DecidableEq, Repr

/-- PRED, TARGET0 and TARGET1 of a word (R252). -/
def headOf (w : IWord) : Head := ⟨w.extractLsb' 46 2, w.extractLsb' 37 9, w.extractLsb' 28 9⟩

/-- A word read in format A (R254). -/
def fmtA (w : IWord) : FmtA :=
  ⟨headOf w, w.extractLsb' 23 5,
    if w.extractLsb' 22 1 = 1#1 then .imm (w.extractLsb' 0 22)
    else .regs (w.extractLsb' 16 6) (w.extractLsb' 13 3) (w.extractLsb' 12 1) (w.extractLsb' 7 5)
      (w.extractLsb' 3 4) (w.extractLsb' 0 3)⟩

/-- A word read in format D (R254). -/
def fmtD (w : IWord) : FmtD :=
  ⟨headOf w, w.extractLsb' 23 5,
    if w.extractLsb' 22 1 = 1#1 then .imm (w.extractLsb' 0 22)
    else .regs (w.extractLsb' 19 3) (w.extractLsb' 15 4) (w.extractLsb' 0 15)⟩

/-- A word read in format M (R254). -/
def fmtM (w : IWord) : FmtM :=
  ⟨headOf w, w.extractLsb' 23 5, w.extractLsb' 20 3, w.extractLsb' 18 2, w.extractLsb' 14 4, w.extractLsb' 0 14⟩

/-- A word read in format X (R254). -/
def fmtX (w : IWord) : FmtX :=
  ⟨headOf w, w.extractLsb' 23 5, w.extractLsb' 20 3, w.extractLsb' 17 3, w.extractLsb' 13 4, w.extractLsb' 0 13⟩

/-- The instruction that an assigned opcode selects for a word, in its group's format (R254, R257). -/
def decodeOp (op : Nat) (w : IWord) : Option Instr :=
  match op with
  | 0x00 => some (.nop (fmtD w))
  | 0x01 => some (.recv (fmtD w))
  | 0x02 => some (.peek (fmtD w))
  | 0x03 => some (.drop (fmtD w))
  | 0x04 => some (.emit (fmtD w))
  | 0x05 => some (.mov (fmtD w))
  | 0x06 => some (.const (fmtD w))
  | 0x07 => some (.steer (fmtD w))
  | 0x08 => some (.merge (fmtD w))
  | 0x09 => some (.sel (fmtD w))
  | 0x0A => some (.gate (fmtD w))
  | 0x0B => some (.iter (fmtD w))
  | 0x0C => some (.kread (fmtD w))
  | 0x0D => some (.kwrite (fmtD w))
  | 0x0E => some (.eoiq (fmtD w))
  | 0x0F => some (.decide (fmtD w))
  | 0x10 => some (.retire (fmtD w))
  | 0x11 => some (.waitc (fmtD w))
  | 0x12 => some (.invnum (fmtD w))
  | 0x13 => some (.siteid (fmtD w))
  | 0x14 => some (.hmask (fmtD w))
  | 0x15 => some (.hunmask (fmtD w))
  | 0x16 => some (.chstat (fmtD w))
  | 0x20 => some (.add (fmtA w))
  | 0x21 => some (.sub (fmtA w))
  | 0x22 => some (.addc (fmtA w))
  | 0x23 => some (.subb (fmtA w))
  | 0x24 => some (.mul (fmtA w))
  | 0x25 => some (.mulh (fmtA w))
  | 0x26 => some (.div (fmtA w))
  | 0x27 => some (.rem (fmtA w))
  | 0x28 => some (.neg (fmtA w))
  | 0x29 => some (.abs (fmtA w))
  | 0x2A => some (.min (fmtA w))
  | 0x2B => some (.max (fmtA w))
  | 0x2C => some (.satadd (fmtA w))
  | 0x2D => some (.satsub (fmtA w))
  | 0x2E => some (.and (fmtA w))
  | 0x2F => some (.or (fmtA w))
  | 0x30 => some (.xor (fmtA w))
  | 0x31 => some (.andn (fmtA w))
  | 0x32 => some (.shl (fmtA w))
  | 0x33 => some (.shr (fmtA w))
  | 0x34 => some (.sar (fmtA w))
  | 0x35 => some (.rot (fmtA w))
  | 0x36 => some (.clz (fmtA w))
  | 0x37 => some (.popc (fmtA w))
  | 0x38 => some (.bfx (fmtA w))
  | 0x39 => some (.bfi (fmtA w))
  | 0x3A => some (.ext (fmtA w))
  | 0x3B => some (.cmp (fmtA w))
  | 0x3C => some (.adda (fmtA w))
  | 0x3D => some (.mkaddr (fmtA w))
  | 0x3E => some (.dieof (fmtA w))
  | 0x40 => some (.fadd (fmtA w))
  | 0x41 => some (.fsub (fmtA w))
  | 0x42 => some (.fmul (fmtA w))
  | 0x43 => some (.ffma (fmtA w))
  | 0x44 => some (.fdiv (fmtA w))
  | 0x45 => some (.fsqrt (fmtA w))
  | 0x46 => some (.fmin (fmtA w))
  | 0x47 => some (.fmax (fmtA w))
  | 0x48 => some (.fneg (fmtA w))
  | 0x49 => some (.fabs (fmtA w))
  | 0x4A => some (.fcmp (fmtA w))
  | 0x4B => some (.fclass (fmtA w))
  | 0x4C => some (.fcvt (fmtA w))
  | 0x4D => some (.ftoi (fmtA w))
  | 0x4E => some (.itof (fmtA w))
  | 0x4F => some (.frnd (fmtA w))
  | 0x50 => some (.fscale (fmtA w))
  | 0x51 => some (.fexp2 (fmtA w))
  | 0x52 => some (.flog2 (fmtA w))
  | 0x53 => some (.frcp (fmtA w))
  | 0x54 => some (.frsq (fmtA w))
  | 0x55 => some (.fflags (fmtA w))
  | 0x60 => some (.vadd (fmtA w))
  | 0x61 => some (.vsub (fmtA w))
  | 0x62 => some (.vmul (fmtA w))
  | 0x63 => some (.vfma (fmtA w))
  | 0x64 => some (.vmin (fmtA w))
  | 0x65 => some (.vmax (fmtA w))
  | 0x66 => some (.vabs (fmtA w))
  | 0x67 => some (.vneg (fmtA w))
  | 0x68 => some (.vand (fmtA w))
  | 0x69 => some (.vor (fmtA w))
  | 0x6A => some (.vxor (fmtA w))
  | 0x6B => some (.vshl (fmtA w))
  | 0x6C => some (.vshr (fmtA w))
  | 0x6D => some (.vsar (fmtA w))
  | 0x6E => some (.vcmp (fmtA w))
  | 0x6F => some (.vsel (fmtA w))
  | 0x70 => some (.vsatadd (fmtA w))
  | 0x71 => some (.vmulh (fmtA w))
  | 0x72 => some (.vdot (fmtA w))
  | 0x73 => some (.vcvt (fmtA w))
  | 0x74 => some (.vquant (fmtA w))
  | 0x75 => some (.vdeq (fmtA w))
  | 0x76 => some (.vscale (fmtA w))
  | 0x77 => some (.vexp2 (fmtA w))
  | 0x78 => some (.vlog2 (fmtA w))
  | 0x79 => some (.vrcp (fmtA w))
  | 0x7A => some (.vrsq (fmtA w))
  | 0x7B => some (.vsigm (fmtA w))
  | 0x80 => some (.vbcast (fmtA w))
  | 0x81 => some (.vextr (fmtA w))
  | 0x82 => some (.vins (fmtA w))
  | 0x83 => some (.vshuf (fmtA w))
  | 0x84 => some (.vrot (fmtA w))
  | 0x85 => some (.vslide (fmtA w))
  | 0x86 => some (.vzip (fmtA w))
  | 0x87 => some (.vunzip (fmtA w))
  | 0x88 => some (.vpack (fmtA w))
  | 0x89 => some (.vunpack (fmtA w))
  | 0x8A => some (.vredadd (fmtA w))
  | 0x8B => some (.vredmax (fmtA w))
  | 0x8C => some (.vredmin (fmtA w))
  | 0x8D => some (.vscan (fmtA w))
  | 0x8E => some (.vcompress (fmtA w))
  | 0x8F => some (.vexpand (fmtA w))
  | 0x90 => some (.vmask (fmtA w))
  | 0x91 => some (.vpopc (fmtA w))
  | 0x92 => some (.vtagq (fmtA w))
  | 0x93 => some (.vtagset (fmtA w))
  | 0xA0 => some (.wload (fmtX w))
  | 0xA1 => some (.wscale (fmtX w))
  | 0xA2 => some (.wswap (fmtX w))
  | 0xA3 => some (.wsparse (fmtX w))
  | 0xA4 => some (.mstream (fmtX w))
  | 0xA5 => some (.macc (fmtX w))
  | 0xA6 => some (.adecay (fmtX w))
  | 0xA7 => some (.azero (fmtX w))
  | 0xA8 => some (.aload (fmtX w))
  | 0xA9 => some (.adrain (fmtX w))
  | 0xAA => some (.aspill (fmtX w))
  | 0xAB => some (.afill (fmtX w))
  | 0xAC => some (.aown (fmtX w))
  | 0xAD => some (.mstat (fmtX w))
  | 0xAE => some (.tfetch (fmtX w))
  | 0xAF => some (.trelease (fmtX w))
  | 0xC0 => some (.ld (fmtM w))
  | 0xC1 => some (.st (fmtM w))
  | 0xC2 => some (.ldv (fmtM w))
  | 0xC3 => some (.stv (fmtM w))
  | 0xC4 => some (.ldro (fmtM w))
  | 0xC5 => some (.lds (fmtM w))
  | 0xC6 => some (.sts (fmtM w))
  | 0xC7 => some (.pref (fmtM w))
  | 0xC8 => some (.cbinit (fmtM w))
  | 0xC9 => some (.cbwaitf (fmtM w))
  | 0xCA => some (.cbwaite (fmtM w))
  | 0xCB => some (.cbpush (fmtM w))
  | 0xCC => some (.cbpop (fmtM w))
  | 0xCD => some (.aadd (fmtM w))
  | 0xCE => some (.amin (fmtM w))
  | 0xCF => some (.amax (fmtM w))
  | 0xD0 => some (.aand (fmtM w))
  | 0xD1 => some (.aor (fmtM w))
  | 0xD2 => some (.axor (fmtM w))
  | 0xD3 => some (.aswp (fmtM w))
  | 0xD4 => some (.acas (fmtM w))
  | 0xD5 => some (.afadd (fmtM w))
  | 0xD6 => some (.redadd (fmtM w))
  | 0xD7 => some (.redfadd (fmtM w))
  | 0xD8 => some (.redmax (fmtM w))
  | 0xD9 => some (.acq (fmtM w))
  | 0xDA => some (.rel (fmtM w))
  | 0xDB => some (.fence (fmtM w))
  | 0xDC => some (.ncinv (fmtM w))
  | 0xDD => some (.discard (fmtM w))
  | 0xDE => some (.flushr (fmtM w))
  | 0xE0 => some (.tjoin (fmtM w))
  | 0xE1 => some (.tleave (fmtM w))
  | 0xE2 => some (.markinit (fmtM w))
  | 0xE3 => some (.arrive (fmtM w))
  | 0xE4 => some (.mwait (fmtM w))
  | 0xE5 => some (.arrwait (fmtM w))
  | 0xE6 => some (.sfrend (fmtM w))
  | 0xE7 => some (.cpy (fmtM w))
  | 0xE8 => some (.cpym (fmtM w))
  | 0xE9 => some (.zpack (fmtM w))
  | 0xEA => some (.zunpack (fmtM w))
  | 0xEB => some (.coll (fmtM w))
  | 0xEC => some (.engq (fmtM w))
  | 0xED => some (.cropen (fmtM w))
  | 0xEE => some (.crclose (fmtM w))
  | 0xEF => some (.trap (fmtM w))
  | 0xF0 => some (.task (fmtM w))
  | 0xF1 => some (.taskdep (fmtM w))
  | 0xF2 => some (.migr (fmtM w))
  | 0xF3 => some (.xlfence (fmtM w))
  | 0xF4 => some (.xlinv (fmtM w))
  | 0xF5 => some (.clock (fmtM w))
  | 0xF6 => some (.perfc (fmtM w))
  | 0xF7 => some (.errq (fmtM w))
  | _ => none

/-- The instruction of a word, or why there is none. -/
def decodeWord (w : IWord) : Except DecodeError Instr :=
  if w = 0#56 then .error .emptySlot
  else match decodeOp (w.extractLsb' 48 8).toNat w with
    | some i => .ok i
    | none => .error .unassigned

/-- Opcode, PRED, TARGET0 and TARGET1 above the 28 format bits (R252). -/
def headWord (op : BitVec 8) (h : Head) (f : BitVec 28) : IWord := op ++ h.pred ++ h.t0 ++ h.t1 ++ f

/-- The word of a format A instruction (R254). -/
def wordA (op : BitVec 8) (f : FmtA) : IWord :=
  headWord op f.h
    (match f.body with
     | .imm v => f.ty ++ 1#1 ++ v
     | .regs fn rm sat ty2 ksel z => f.ty ++ 0#1 ++ fn ++ rm ++ sat ++ ty2 ++ ksel ++ z)

/-- The word of a format D instruction (R254). -/
def wordD (op : BitVec 8) (f : FmtD) : IWord :=
  headWord op f.h
    (match f.body with
     | .imm v => f.ty ++ 1#1 ++ v
     | .regs ch idx n15 => f.ty ++ 0#1 ++ ch ++ idx ++ n15)

/-- The word of a format M instruction (R254). -/
def wordM (op : BitVec 8) (f : FmtM) : IWord := headWord op f.h (f.ty ++ f.scope ++ f.ord ++ f.idx ++ f.off)

/-- The word of a format X instruction (R254). -/
def wordX (op : BitVec 8) (f : FmtX) : IWord := headWord op f.h (f.ty ++ f.idx0 ++ f.idx1 ++ f.mode ++ f.n13)

/-- The 56-bit word of an instruction (R254, R257, R270, R333); operations and events have none. -/
def encode (i : Instr) : Option IWord :=
  match i with
  | .supplyPresent _ _ => none
  | .supplyLoss => none
  | .powerFailTrap _ => none
  | .holdupEnergyLow _ => none
  | .holdupManifest => none
  | .energyReserveReady => none
  | .holdupChargeTimeout => none
  | .ctxCreate _ => none
  | .ctxDestroy _ => none
  | .ctxDiemap _ _ _ => none
  | .ctxPace _ _ => none
  | .ctxRoot _ _ _ => none
  | .slCreate _ => none
  | .bwBudget _ _ => none
  | .msUpdate _ _ => none
  | .ksRestore _ _ => none
  | .ksConsume => none
  | .taskRestore _ _ => none
  | .taskResume _ _ => none
  | .taskKill _ _ => none
  | .dieReset _ => none
  | .dieResetAdvance => none
  | .dieResetDrainDeadline => none
  | .poolAdd _ _ _ _ => none
  | .pgMigr _ _ _ => none
  | .s2inv _ _ _ => none
  | .racePool _ _ _ => none
  | .siteThresh _ => none
  | .siteList => none
  | .errCounts => none
  | .siteRetire _ => none
  | .fwLaunch _ => none
  | .dbgNonce _ => none
  | .dbgFreeze _ _ _ _ => none
  | .photoFinishFreeze _ => none
  | .routeTableWrite _ _ => none
  | .doorbell _ _ => none
  | .slchead _ _ => none
  | .stop _ => none
  | .start _ => none
  | .destroy _ => none
  | .destroyForce _ => none
  | .registerWrite _ _ _ _ => none
  | .packetRead => none
  | .packetStampRetry => none
  | .heldPacketRetry => none
  | .nopPacket => none
  | .launch => none
  | .graph => none
  | .replayPacket => none
  | .replayNodeEntry => none
  | .patch => none
  | .sigsem => none
  | .waitsem => none
  | .waitsemPoll => none
  | .copy => none
  | .fencePacket => none
  | .xlinvPacket => none
  | .packetCompletion => none
  | .hostCxlMemRequest _ _ _ _ => none
  | .placerPlacement => none
  | .reservedWindowPlace => none
  | .drainDeadline => none
  | .checkpointDeadline => none
  | .relocationStart => none
  | .relocationDrained => none
  | .checkpointDrained => none
  | .standingCheckpoint => none
  | .relocationTimeout => none
  | .batonForward => none
  | .taskCompletion => none
  | .lapBoundary => none
  | .engineDispatch => none
  | .engineCompletion => none
  | .cbSlotLanded => none
  | .handlerSelect => none
  | .handlerQuiescence => none
  | .eoiProcessing => none
  | .tokenArrival _ => none
  | .wsrewrite => none
  | .gamma => none
  | .planeSwitch => none
  | .decisionToken _ => none
  | .systolicActivation => none
  | .systolicResult => none
  | .patternIssue => none
  | .loadReply => none
  | .writeAck => none
  | .portRefusal => none
  | .sideLogReplay => none
  | .replayRelease => none
  | .homeRequest => none
  | .backInvalidationAck => none
  | .raceSaturationTimeout => none
  | .saturationWaitEnd => none
  | .walk => none
  | .invalidationBatonAck => none
  | .invalidationAck => none
  | .checkerMismatch _ => none
  | .checkCounterHalving => none
  | .reliabilityMonitor _ _ _ => none
  | .stallWatchdog => none
  | .trapAction => none
  | .containmentUnwind => none
  | .regionCommit => none
  | .seamModuleLoss _ _ => none
  | .seamReturnRunning => none
  | .linkFailure _ _ => none
  | .cdLinkFailure _ _ => none
  | .linkTrainingResult _ _ => none
  | .spanFlitReceive _ _ _ => none
  | .spanNak _ _ => none
  | .spanReplayLimit => none
  | .spanLaneFailure => none
  | .spanTrainingFail => none
  | .syncUnitOp => none
  | .nop f => some (wordD 0x00#8 f)
  | .recv f => some (wordD 0x01#8 f)
  | .peek f => some (wordD 0x02#8 f)
  | .drop f => some (wordD 0x03#8 f)
  | .emit f => some (wordD 0x04#8 f)
  | .mov f => some (wordD 0x05#8 f)
  | .const f => some (wordD 0x06#8 f)
  | .steer f => some (wordD 0x07#8 f)
  | .merge f => some (wordD 0x08#8 f)
  | .sel f => some (wordD 0x09#8 f)
  | .gate f => some (wordD 0x0A#8 f)
  | .iter f => some (wordD 0x0B#8 f)
  | .kread f => some (wordD 0x0C#8 f)
  | .kwrite f => some (wordD 0x0D#8 f)
  | .eoiq f => some (wordD 0x0E#8 f)
  | .decide f => some (wordD 0x0F#8 f)
  | .retire f => some (wordD 0x10#8 f)
  | .waitc f => some (wordD 0x11#8 f)
  | .invnum f => some (wordD 0x12#8 f)
  | .siteid f => some (wordD 0x13#8 f)
  | .hmask f => some (wordD 0x14#8 f)
  | .hunmask f => some (wordD 0x15#8 f)
  | .chstat f => some (wordD 0x16#8 f)
  | .add f => some (wordA 0x20#8 f)
  | .sub f => some (wordA 0x21#8 f)
  | .addc f => some (wordA 0x22#8 f)
  | .subb f => some (wordA 0x23#8 f)
  | .mul f => some (wordA 0x24#8 f)
  | .mulh f => some (wordA 0x25#8 f)
  | .div f => some (wordA 0x26#8 f)
  | .rem f => some (wordA 0x27#8 f)
  | .neg f => some (wordA 0x28#8 f)
  | .abs f => some (wordA 0x29#8 f)
  | .min f => some (wordA 0x2A#8 f)
  | .max f => some (wordA 0x2B#8 f)
  | .satadd f => some (wordA 0x2C#8 f)
  | .satsub f => some (wordA 0x2D#8 f)
  | .and f => some (wordA 0x2E#8 f)
  | .or f => some (wordA 0x2F#8 f)
  | .xor f => some (wordA 0x30#8 f)
  | .andn f => some (wordA 0x31#8 f)
  | .shl f => some (wordA 0x32#8 f)
  | .shr f => some (wordA 0x33#8 f)
  | .sar f => some (wordA 0x34#8 f)
  | .rot f => some (wordA 0x35#8 f)
  | .clz f => some (wordA 0x36#8 f)
  | .popc f => some (wordA 0x37#8 f)
  | .bfx f => some (wordA 0x38#8 f)
  | .bfi f => some (wordA 0x39#8 f)
  | .ext f => some (wordA 0x3A#8 f)
  | .cmp f => some (wordA 0x3B#8 f)
  | .adda f => some (wordA 0x3C#8 f)
  | .mkaddr f => some (wordA 0x3D#8 f)
  | .dieof f => some (wordA 0x3E#8 f)
  | .fadd f => some (wordA 0x40#8 f)
  | .fsub f => some (wordA 0x41#8 f)
  | .fmul f => some (wordA 0x42#8 f)
  | .ffma f => some (wordA 0x43#8 f)
  | .fdiv f => some (wordA 0x44#8 f)
  | .fsqrt f => some (wordA 0x45#8 f)
  | .fmin f => some (wordA 0x46#8 f)
  | .fmax f => some (wordA 0x47#8 f)
  | .fneg f => some (wordA 0x48#8 f)
  | .fabs f => some (wordA 0x49#8 f)
  | .fcmp f => some (wordA 0x4A#8 f)
  | .fclass f => some (wordA 0x4B#8 f)
  | .fcvt f => some (wordA 0x4C#8 f)
  | .ftoi f => some (wordA 0x4D#8 f)
  | .itof f => some (wordA 0x4E#8 f)
  | .frnd f => some (wordA 0x4F#8 f)
  | .fscale f => some (wordA 0x50#8 f)
  | .fexp2 f => some (wordA 0x51#8 f)
  | .flog2 f => some (wordA 0x52#8 f)
  | .frcp f => some (wordA 0x53#8 f)
  | .frsq f => some (wordA 0x54#8 f)
  | .fflags f => some (wordA 0x55#8 f)
  | .vadd f => some (wordA 0x60#8 f)
  | .vsub f => some (wordA 0x61#8 f)
  | .vmul f => some (wordA 0x62#8 f)
  | .vfma f => some (wordA 0x63#8 f)
  | .vmin f => some (wordA 0x64#8 f)
  | .vmax f => some (wordA 0x65#8 f)
  | .vabs f => some (wordA 0x66#8 f)
  | .vneg f => some (wordA 0x67#8 f)
  | .vand f => some (wordA 0x68#8 f)
  | .vor f => some (wordA 0x69#8 f)
  | .vxor f => some (wordA 0x6A#8 f)
  | .vshl f => some (wordA 0x6B#8 f)
  | .vshr f => some (wordA 0x6C#8 f)
  | .vsar f => some (wordA 0x6D#8 f)
  | .vcmp f => some (wordA 0x6E#8 f)
  | .vsel f => some (wordA 0x6F#8 f)
  | .vsatadd f => some (wordA 0x70#8 f)
  | .vmulh f => some (wordA 0x71#8 f)
  | .vdot f => some (wordA 0x72#8 f)
  | .vcvt f => some (wordA 0x73#8 f)
  | .vquant f => some (wordA 0x74#8 f)
  | .vdeq f => some (wordA 0x75#8 f)
  | .vscale f => some (wordA 0x76#8 f)
  | .vexp2 f => some (wordA 0x77#8 f)
  | .vlog2 f => some (wordA 0x78#8 f)
  | .vrcp f => some (wordA 0x79#8 f)
  | .vrsq f => some (wordA 0x7A#8 f)
  | .vsigm f => some (wordA 0x7B#8 f)
  | .vbcast f => some (wordA 0x80#8 f)
  | .vextr f => some (wordA 0x81#8 f)
  | .vins f => some (wordA 0x82#8 f)
  | .vshuf f => some (wordA 0x83#8 f)
  | .vrot f => some (wordA 0x84#8 f)
  | .vslide f => some (wordA 0x85#8 f)
  | .vzip f => some (wordA 0x86#8 f)
  | .vunzip f => some (wordA 0x87#8 f)
  | .vpack f => some (wordA 0x88#8 f)
  | .vunpack f => some (wordA 0x89#8 f)
  | .vredadd f => some (wordA 0x8A#8 f)
  | .vredmax f => some (wordA 0x8B#8 f)
  | .vredmin f => some (wordA 0x8C#8 f)
  | .vscan f => some (wordA 0x8D#8 f)
  | .vcompress f => some (wordA 0x8E#8 f)
  | .vexpand f => some (wordA 0x8F#8 f)
  | .vmask f => some (wordA 0x90#8 f)
  | .vpopc f => some (wordA 0x91#8 f)
  | .vtagq f => some (wordA 0x92#8 f)
  | .vtagset f => some (wordA 0x93#8 f)
  | .wload f => some (wordX 0xA0#8 f)
  | .wscale f => some (wordX 0xA1#8 f)
  | .wswap f => some (wordX 0xA2#8 f)
  | .wsparse f => some (wordX 0xA3#8 f)
  | .mstream f => some (wordX 0xA4#8 f)
  | .macc f => some (wordX 0xA5#8 f)
  | .adecay f => some (wordX 0xA6#8 f)
  | .azero f => some (wordX 0xA7#8 f)
  | .aload f => some (wordX 0xA8#8 f)
  | .adrain f => some (wordX 0xA9#8 f)
  | .aspill f => some (wordX 0xAA#8 f)
  | .afill f => some (wordX 0xAB#8 f)
  | .aown f => some (wordX 0xAC#8 f)
  | .mstat f => some (wordX 0xAD#8 f)
  | .tfetch f => some (wordX 0xAE#8 f)
  | .trelease f => some (wordX 0xAF#8 f)
  | .ld f => some (wordM 0xC0#8 f)
  | .st f => some (wordM 0xC1#8 f)
  | .ldv f => some (wordM 0xC2#8 f)
  | .stv f => some (wordM 0xC3#8 f)
  | .ldro f => some (wordM 0xC4#8 f)
  | .lds f => some (wordM 0xC5#8 f)
  | .sts f => some (wordM 0xC6#8 f)
  | .pref f => some (wordM 0xC7#8 f)
  | .cbinit f => some (wordM 0xC8#8 f)
  | .cbwaitf f => some (wordM 0xC9#8 f)
  | .cbwaite f => some (wordM 0xCA#8 f)
  | .cbpush f => some (wordM 0xCB#8 f)
  | .cbpop f => some (wordM 0xCC#8 f)
  | .aadd f => some (wordM 0xCD#8 f)
  | .amin f => some (wordM 0xCE#8 f)
  | .amax f => some (wordM 0xCF#8 f)
  | .aand f => some (wordM 0xD0#8 f)
  | .aor f => some (wordM 0xD1#8 f)
  | .axor f => some (wordM 0xD2#8 f)
  | .aswp f => some (wordM 0xD3#8 f)
  | .acas f => some (wordM 0xD4#8 f)
  | .afadd f => some (wordM 0xD5#8 f)
  | .redadd f => some (wordM 0xD6#8 f)
  | .redfadd f => some (wordM 0xD7#8 f)
  | .redmax f => some (wordM 0xD8#8 f)
  | .acq f => some (wordM 0xD9#8 f)
  | .rel f => some (wordM 0xDA#8 f)
  | .fence f => some (wordM 0xDB#8 f)
  | .ncinv f => some (wordM 0xDC#8 f)
  | .discard f => some (wordM 0xDD#8 f)
  | .flushr f => some (wordM 0xDE#8 f)
  | .tjoin f => some (wordM 0xE0#8 f)
  | .tleave f => some (wordM 0xE1#8 f)
  | .markinit f => some (wordM 0xE2#8 f)
  | .arrive f => some (wordM 0xE3#8 f)
  | .mwait f => some (wordM 0xE4#8 f)
  | .arrwait f => some (wordM 0xE5#8 f)
  | .sfrend f => some (wordM 0xE6#8 f)
  | .cpy f => some (wordM 0xE7#8 f)
  | .cpym f => some (wordM 0xE8#8 f)
  | .zpack f => some (wordM 0xE9#8 f)
  | .zunpack f => some (wordM 0xEA#8 f)
  | .coll f => some (wordM 0xEB#8 f)
  | .engq f => some (wordM 0xEC#8 f)
  | .cropen f => some (wordM 0xED#8 f)
  | .crclose f => some (wordM 0xEE#8 f)
  | .trap f => some (wordM 0xEF#8 f)
  | .task f => some (wordM 0xF0#8 f)
  | .taskdep f => some (wordM 0xF1#8 f)
  | .migr f => some (wordM 0xF2#8 f)
  | .xlfence f => some (wordM 0xF3#8 f)
  | .xlinv f => some (wordM 0xF4#8 f)
  | .clock f => some (wordM 0xF5#8 f)
  | .perfc f => some (wordM 0xF6#8 f)
  | .errq f => some (wordM 0xF7#8 f)
  | .holdupEnergyExhausted => none
  | .spanPortTrained => none
  | .spanPortRetrain _ _ _ => none
  | .seamRetrain _ _ => none
  | .frameOwnerWrite _ _ => none
  | .keySlotLoad _ _ _ => none
  | .spdmRequest _ _ => none
  | .engineIssue => none
  | .creditReturn => none
  | .retireMessage => none
  | .cropenMessage => none

/-- The instruction the decoder reads from the bits of a table row: one 56-bit word, seven bytes, lowest first. -/
def decodeTableWord (nbits w : Nat) : Option Instr :=
  if nbits ≤ 56 ∧ w < 2 ^ nbits then
    match decodeWord (BitVec.ofNat 56 w) with
    | .ok i => some i
    | .error _ => none
  else none

/-! ### The instruction tables -/

/-- The operand positions an instruction uses (R271): L, R, P. An instruction that uses none has the trigger t. -/
structure Uses where
  l : Bool
  r : Bool
  p : Bool
deriving DecidableEq, Repr

/-- The units in which an opcode is allowed (R257). -/
inductive Units where
  | anyUnit | cuOnly | muOnly | agOnly | muAg
deriving DecidableEq, Repr

/-- The sets of types that the tables' TYPE columns name. -/
inductive TySet where
  | zero | int | intAddr | addr | f3 | f6 | f8 | mx | intF3 | intF6 | intRaw | selTy | dotTy | half | f3Mx | mov
  | narrow | wide | compTy | all | n64 | const | notMx | mem | vmem | memVec | i4 | w | weight | sparse | stream | f32
deriving DecidableEq, Repr

/-- Whether a set holds a type. `memVec` stands for scalar or vector memory types; which is meant is checked with
VEC. -/
def TySet.has (s : TySet) (t : Ty) : Bool :=
  match s with
  | .zero => false
  | .int => t.isInt
  | .intAddr => t.isInt || t = .a57
  | .addr => t = .a57
  | .f3 => t.isF3
  | .f6 => t.isF6
  | .f8 => t.isF8
  | .mx => t.isMX
  | .intF3 => t.isInt || t.isF3
  | .intF6 => t.isInt || t.isF6
  | .intRaw => t.isInt || t = .raw512
  | .selTy | .mov => t.isInt || t.isF6 || t = .raw512
  | .dotTy => t = .bf16 || t = .f16 || t.isF8 || t.isMX || t = .s8 || t = .n8
  | .half => t = .bf16 || t = .f16
  | .f3Mx => t.isF3 || t.isMX
  | .narrow => t = .bf16 || t = .f16 || t.isF8 || t = .s16 || t = .n16 || t = .s8 || t = .n8
  | .wide => t.isF3 || t = .s32 || t = .n32 || t = .s16 || t = .n16
  | .compTy => t.isF6 || t = .s8 || t = .s16
  | .all => true
  | .n64 => t = .n64
  | .const => t.isInt || t.isF3 || t = .e4m3 || t = .e5m2 || t = .a57
  | .notMx => !t.isMX
  | .mem => t.isInt || t.isF6 || t = .a57
  | .vmem => t.isInt || t.isF6 || t = .raw512
  | .memVec => t.isInt || t.isF6 || t = .a57 || t = .raw512
  | .i4 => t = .s32 || t = .s64 || t = .n32 || t = .n64
  | .w => t = .s32 || t = .s64 || t = .n32 || t = .n64 || t = .f32 || t = .a57
  | .weight => t = .bf16 || t.isF8 || t.isMX
  | .sparse => t = .bf16 || t.isF8
  | .stream => t.isInt || t.isF6 || t.isMX
  | .f32 => t = .f32

/-- The immediate column of format A: none, any, integer types only, or the mask of FFLAGS. -/
inductive ImmRule where
  | no | yes | int | flags
deriving DecidableEq, Repr

/-- The FN column: zero, at most a value, register control on a position (R301), a lane (R312), a condition (R306) or
a part (R309, R310). -/
inductive FnRule where
  | zero | le (n : Nat) | vkL | vkR | vkP | vw | vrL | lane | slide | cond | quant | deq
deriving DecidableEq, Repr

/-- Whether a row names RM and KSEL: never, always, or for F3 types only. -/
inductive RmRule where
  | no | yes | f3
deriving DecidableEq, Repr

/-- Whether a row names SAT: never, always, or as VCVT does (R308). -/
inductive SatRule where
  | no | yes | cvt
deriving DecidableEq, Repr

/-- The N15 column of format D. -/
inductive NRule where
  | zero | any | waitc | chstat
deriving DecidableEq, Repr

/-- The ORD column of format M. -/
inductive OrdRule where
  | zero | le (n : Nat) | fence
deriving DecidableEq, Repr

/-- The IDX column of format M. -/
inductive IdxRule where
  | le (n : Nat) | lds | perfc
deriving DecidableEq, Repr

/-- The OFF14 column of format M. -/
inductive OffRule where
  | zero | any | range (lo hi : Nat)
deriving DecidableEq, Repr

/-- A format A row: units, TYPE, immediate, TYPE2, FN, RM, SAT, positions used. -/
structure RowA where
  units : Units
  ty : TySet
  imm : ImmRule
  ty2 : TySet
  fn : FnRule
  rm : RmRule
  sat : SatRule
  uses : Uses
deriving DecidableEq, Repr

/-- A format D row: units, TYPE, whether the immediate is required, whether CH is used, the greatest IDX, N15, whether
both targets must be none, positions used. -/
structure RowD where
  units : Units
  ty : TySet
  imm : Bool
  ch : Bool
  idx : Nat
  n15 : NRule
  noResult : Bool
  uses : Uses
deriving DecidableEq, Repr

/-- A format M row: units, TYPE, whether SCOPE is used, ORD, IDX, OFF14, whether both targets must be none, positions
used. -/
structure RowM where
  units : Units
  ty : TySet
  scope : Bool
  ord : OrdRule
  idx : IdxRule
  off : OffRule
  noResult : Bool
  uses : Uses
deriving DecidableEq, Repr

/-- A format X row: units, TYPE, the greatest IDX0, IDX1, MODE and N13, positions used. -/
structure RowX where
  units : Units
  ty : TySet
  idx0 : Nat
  idx1 : Nat
  mode : Nat
  n13 : Nat
  uses : Uses
deriving DecidableEq, Repr

/-- The row of an instruction with its fields; an operation or event has none. -/
inductive Row where
  | a (f : FmtA) (r : RowA)
  | d (f : FmtD) (r : RowD)
  | m (f : FmtM) (r : RowM)
  | x (f : FmtX) (r : RowX)
  | event
deriving DecidableEq, Repr

/-- The row of an instruction in the tables of R257, R276, R286, R293, R304, R312, R318, R337, R342, R344, R346,
R350, R353 and R358 to R366. -/
def Instr.row (i : Instr) : Row :=
  match i with
  | .supplyPresent _ _ => .event
  | .supplyLoss => .event
  | .powerFailTrap _ => .event
  | .holdupEnergyLow _ => .event
  | .holdupManifest => .event
  | .energyReserveReady => .event
  | .holdupChargeTimeout => .event
  | .ctxCreate _ => .event
  | .ctxDestroy _ => .event
  | .ctxDiemap _ _ _ => .event
  | .ctxPace _ _ => .event
  | .ctxRoot _ _ _ => .event
  | .slCreate _ => .event
  | .bwBudget _ _ => .event
  | .msUpdate _ _ => .event
  | .ksRestore _ _ => .event
  | .ksConsume => .event
  | .taskRestore _ _ => .event
  | .taskResume _ _ => .event
  | .taskKill _ _ => .event
  | .dieReset _ => .event
  | .dieResetAdvance => .event
  | .dieResetDrainDeadline => .event
  | .poolAdd _ _ _ _ => .event
  | .pgMigr _ _ _ => .event
  | .s2inv _ _ _ => .event
  | .racePool _ _ _ => .event
  | .siteThresh _ => .event
  | .siteList => .event
  | .errCounts => .event
  | .siteRetire _ => .event
  | .fwLaunch _ => .event
  | .dbgNonce _ => .event
  | .dbgFreeze _ _ _ _ => .event
  | .photoFinishFreeze _ => .event
  | .routeTableWrite _ _ => .event
  | .doorbell _ _ => .event
  | .slchead _ _ => .event
  | .stop _ => .event
  | .start _ => .event
  | .destroy _ => .event
  | .destroyForce _ => .event
  | .registerWrite _ _ _ _ => .event
  | .packetRead => .event
  | .packetStampRetry => .event
  | .heldPacketRetry => .event
  | .nopPacket => .event
  | .launch => .event
  | .graph => .event
  | .replayPacket => .event
  | .replayNodeEntry => .event
  | .patch => .event
  | .sigsem => .event
  | .waitsem => .event
  | .waitsemPoll => .event
  | .copy => .event
  | .fencePacket => .event
  | .xlinvPacket => .event
  | .packetCompletion => .event
  | .hostCxlMemRequest _ _ _ _ => .event
  | .placerPlacement => .event
  | .reservedWindowPlace => .event
  | .drainDeadline => .event
  | .checkpointDeadline => .event
  | .relocationStart => .event
  | .relocationDrained => .event
  | .checkpointDrained => .event
  | .standingCheckpoint => .event
  | .relocationTimeout => .event
  | .batonForward => .event
  | .taskCompletion => .event
  | .lapBoundary => .event
  | .engineDispatch => .event
  | .engineCompletion => .event
  | .cbSlotLanded => .event
  | .handlerSelect => .event
  | .handlerQuiescence => .event
  | .eoiProcessing => .event
  | .tokenArrival _ => .event
  | .wsrewrite => .event
  | .gamma => .event
  | .planeSwitch => .event
  | .decisionToken _ => .event
  | .systolicActivation => .event
  | .systolicResult => .event
  | .patternIssue => .event
  | .loadReply => .event
  | .writeAck => .event
  | .portRefusal => .event
  | .sideLogReplay => .event
  | .replayRelease => .event
  | .homeRequest => .event
  | .backInvalidationAck => .event
  | .raceSaturationTimeout => .event
  | .saturationWaitEnd => .event
  | .walk => .event
  | .invalidationBatonAck => .event
  | .invalidationAck => .event
  | .checkerMismatch _ => .event
  | .checkCounterHalving => .event
  | .reliabilityMonitor _ _ _ => .event
  | .stallWatchdog => .event
  | .trapAction => .event
  | .containmentUnwind => .event
  | .regionCommit => .event
  | .seamModuleLoss _ _ => .event
  | .seamReturnRunning => .event
  | .linkFailure _ _ => .event
  | .cdLinkFailure _ _ => .event
  | .linkTrainingResult _ _ => .event
  | .spanFlitReceive _ _ _ => .event
  | .spanNak _ _ => .event
  | .spanReplayLimit => .event
  | .spanLaneFailure => .event
  | .spanTrainingFail => .event
  | .syncUnitOp => .event
  | .nop f => .d f ⟨.anyUnit, .zero, false, false, 0, .zero, true, ⟨false, false, false⟩⟩
  | .recv f => .d f ⟨.anyUnit, .zero, false, true, 0, .zero, false, ⟨false, false, false⟩⟩
  | .peek f => .d f ⟨.anyUnit, .zero, false, true, 0, .zero, false, ⟨false, false, false⟩⟩
  | .drop f => .d f ⟨.anyUnit, .zero, false, false, 0, .zero, true, ⟨true, false, false⟩⟩
  | .emit f => .d f ⟨.anyUnit, .n64, false, true, 0, .zero, true, ⟨true, false, false⟩⟩
  | .mov f => .d f ⟨.anyUnit, .zero, false, false, 0, .zero, false, ⟨true, false, false⟩⟩
  | .const f => .d f ⟨.anyUnit, .const, true, false, 0, .zero, false, ⟨false, false, false⟩⟩
  | .steer f => .d f ⟨.anyUnit, .zero, false, false, 0, .zero, false, ⟨true, false, true⟩⟩
  | .merge f => .d f ⟨.anyUnit, .zero, false, false, 0, .zero, false, ⟨true, true, false⟩⟩
  | .sel f => .d f ⟨.anyUnit, .zero, false, false, 0, .zero, false, ⟨true, true, true⟩⟩
  | .gate f => .d f ⟨.anyUnit, .zero, false, false, 15, .any, false, ⟨true, false, false⟩⟩
  | .iter f => .d f ⟨.anyUnit, .intAddr, false, false, 15, .any, false, ⟨false, false, false⟩⟩
  | .kread f => .d f ⟨.anyUnit, .notMx, false, false, 15, .zero, false, ⟨false, false, false⟩⟩
  | .kwrite f => .d f ⟨.anyUnit, .zero, false, false, 15, .zero, false, ⟨true, false, false⟩⟩
  | .eoiq f => .d f ⟨.anyUnit, .zero, false, true, 0, .zero, false, ⟨false, false, false⟩⟩
  | .decide f => .d f ⟨.anyUnit, .zero, false, false, 3, .zero, false, ⟨false, false, false⟩⟩
  | .retire f => .d f ⟨.anyUnit, .zero, false, false, 0, .zero, false, ⟨false, false, false⟩⟩
  | .waitc f => .d f ⟨.anyUnit, .zero, false, true, 0, .waitc, false, ⟨false, false, false⟩⟩
  | .invnum f => .d f ⟨.anyUnit, .zero, false, false, 0, .zero, false, ⟨false, false, false⟩⟩
  | .siteid f => .d f ⟨.anyUnit, .zero, false, false, 0, .zero, false, ⟨false, false, false⟩⟩
  | .hmask f => .d f ⟨.anyUnit, .zero, false, false, 15, .zero, false, ⟨false, false, false⟩⟩
  | .hunmask f => .d f ⟨.anyUnit, .zero, false, false, 15, .zero, false, ⟨false, false, false⟩⟩
  | .chstat f => .d f ⟨.anyUnit, .zero, false, true, 0, .chstat, false, ⟨false, false, false⟩⟩
  | .add f => .a f ⟨.anyUnit, .int, .yes, .zero, .zero, .no, .no, ⟨true, true, false⟩⟩
  | .sub f => .a f ⟨.anyUnit, .int, .yes, .zero, .zero, .no, .no, ⟨true, true, false⟩⟩
  | .addc f => .a f ⟨.anyUnit, .int, .yes, .zero, .zero, .no, .no, ⟨true, true, true⟩⟩
  | .subb f => .a f ⟨.anyUnit, .int, .yes, .zero, .zero, .no, .no, ⟨true, true, true⟩⟩
  | .mul f => .a f ⟨.anyUnit, .int, .yes, .zero, .zero, .no, .no, ⟨true, true, false⟩⟩
  | .mulh f => .a f ⟨.anyUnit, .int, .yes, .zero, .zero, .no, .no, ⟨true, true, false⟩⟩
  | .div f => .a f ⟨.cuOnly, .int, .yes, .zero, .zero, .no, .no, ⟨true, true, false⟩⟩
  | .rem f => .a f ⟨.cuOnly, .int, .yes, .zero, .zero, .no, .no, ⟨true, true, false⟩⟩
  | .neg f => .a f ⟨.anyUnit, .int, .no, .zero, .zero, .no, .no, ⟨true, false, false⟩⟩
  | .abs f => .a f ⟨.anyUnit, .int, .no, .zero, .zero, .no, .no, ⟨true, false, false⟩⟩
  | .min f => .a f ⟨.anyUnit, .intAddr, .yes, .zero, .zero, .no, .no, ⟨true, true, false⟩⟩
  | .max f => .a f ⟨.anyUnit, .intAddr, .yes, .zero, .zero, .no, .no, ⟨true, true, false⟩⟩
  | .satadd f => .a f ⟨.anyUnit, .int, .yes, .zero, .zero, .no, .no, ⟨true, true, false⟩⟩
  | .satsub f => .a f ⟨.anyUnit, .int, .yes, .zero, .zero, .no, .no, ⟨true, true, false⟩⟩
  | .and f => .a f ⟨.anyUnit, .int, .yes, .zero, .zero, .no, .no, ⟨true, true, false⟩⟩
  | .or f => .a f ⟨.anyUnit, .int, .yes, .zero, .zero, .no, .no, ⟨true, true, false⟩⟩
  | .xor f => .a f ⟨.anyUnit, .int, .yes, .zero, .zero, .no, .no, ⟨true, true, false⟩⟩
  | .andn f => .a f ⟨.anyUnit, .int, .yes, .zero, .zero, .no, .no, ⟨true, true, false⟩⟩
  | .shl f => .a f ⟨.anyUnit, .int, .yes, .zero, .zero, .no, .no, ⟨true, true, false⟩⟩
  | .shr f => .a f ⟨.anyUnit, .int, .yes, .zero, .zero, .no, .no, ⟨true, true, false⟩⟩
  | .sar f => .a f ⟨.anyUnit, .int, .yes, .zero, .zero, .no, .no, ⟨true, true, false⟩⟩
  | .rot f => .a f ⟨.anyUnit, .int, .yes, .zero, .zero, .no, .no, ⟨true, true, false⟩⟩
  | .clz f => .a f ⟨.anyUnit, .int, .no, .zero, .zero, .no, .no, ⟨true, false, false⟩⟩
  | .popc f => .a f ⟨.anyUnit, .int, .no, .zero, .zero, .no, .no, ⟨true, false, false⟩⟩
  | .bfx f => .a f ⟨.anyUnit, .int, .no, .zero, .zero, .no, .no, ⟨true, true, false⟩⟩
  | .bfi f => .a f ⟨.anyUnit, .int, .no, .zero, .zero, .no, .no, ⟨true, true, true⟩⟩
  | .ext f => .a f ⟨.anyUnit, .intAddr, .no, .intAddr, .zero, .no, .no, ⟨true, false, false⟩⟩
  | .cmp f => .a f ⟨.anyUnit, .intAddr, .yes, .zero, (.le 5), .no, .no, ⟨true, true, false⟩⟩
  | .adda f => .a f ⟨.anyUnit, .addr, .yes, .zero, .zero, .no, .no, ⟨true, true, false⟩⟩
  | .mkaddr f => .a f ⟨.anyUnit, .addr, .yes, .zero, .zero, .no, .no, ⟨true, true, false⟩⟩
  | .dieof f => .a f ⟨.anyUnit, .addr, .no, .zero, .zero, .no, .no, ⟨true, false, false⟩⟩
  | .fadd f => .a f ⟨.cuOnly, .f3, .yes, .zero, .zero, .yes, .no, ⟨true, true, false⟩⟩
  | .fsub f => .a f ⟨.cuOnly, .f3, .yes, .zero, .zero, .yes, .no, ⟨true, true, false⟩⟩
  | .fmul f => .a f ⟨.cuOnly, .f3, .yes, .zero, .zero, .yes, .no, ⟨true, true, false⟩⟩
  | .ffma f => .a f ⟨.cuOnly, .f3, .yes, .zero, .zero, .yes, .no, ⟨true, true, true⟩⟩
  | .fdiv f => .a f ⟨.cuOnly, .f3, .yes, .zero, .zero, .yes, .no, ⟨true, true, false⟩⟩
  | .fsqrt f => .a f ⟨.cuOnly, .f3, .no, .zero, .zero, .yes, .no, ⟨true, false, false⟩⟩
  | .fmin f => .a f ⟨.cuOnly, .f3, .yes, .zero, .zero, .no, .no, ⟨true, true, false⟩⟩
  | .fmax f => .a f ⟨.cuOnly, .f3, .yes, .zero, .zero, .no, .no, ⟨true, true, false⟩⟩
  | .fneg f => .a f ⟨.cuOnly, .f3, .no, .zero, .zero, .no, .no, ⟨true, false, false⟩⟩
  | .fabs f => .a f ⟨.cuOnly, .f3, .no, .zero, .zero, .no, .no, ⟨true, false, false⟩⟩
  | .fcmp f => .a f ⟨.cuOnly, .f3, .yes, .zero, (.le 7), .no, .no, ⟨true, true, false⟩⟩
  | .fclass f => .a f ⟨.cuOnly, .f6, .no, .zero, .zero, .no, .no, ⟨true, false, false⟩⟩
  | .fcvt f => .a f ⟨.cuOnly, .f6, .no, .f6, .zero, .yes, .yes, ⟨true, false, false⟩⟩
  | .ftoi f => .a f ⟨.cuOnly, .int, .no, .f6, .zero, .yes, .no, ⟨true, false, false⟩⟩
  | .itof f => .a f ⟨.cuOnly, .f6, .no, .int, .zero, .yes, .yes, ⟨true, false, false⟩⟩
  | .frnd f => .a f ⟨.cuOnly, .f3, .no, .zero, .zero, .yes, .no, ⟨true, false, false⟩⟩
  | .fscale f => .a f ⟨.cuOnly, .f3, .no, .zero, .zero, .yes, .no, ⟨true, true, false⟩⟩
  | .fexp2 f => .a f ⟨.cuOnly, .f3, .no, .zero, .zero, .no, .no, ⟨true, false, false⟩⟩
  | .flog2 f => .a f ⟨.cuOnly, .f3, .no, .zero, .zero, .no, .no, ⟨true, false, false⟩⟩
  | .frcp f => .a f ⟨.cuOnly, .f3, .no, .zero, .zero, .no, .no, ⟨true, false, false⟩⟩
  | .frsq f => .a f ⟨.cuOnly, .f3, .no, .zero, .zero, .no, .no, ⟨true, false, false⟩⟩
  | .fflags f => .a f ⟨.cuOnly, .zero, .flags, .zero, .zero, .no, .no, ⟨false, false, false⟩⟩
  | .vadd f => .a f ⟨.cuOnly, .intF3, .yes, .zero, .vkR, .f3, .no, ⟨true, true, false⟩⟩
  | .vsub f => .a f ⟨.cuOnly, .intF3, .yes, .zero, .vkR, .f3, .no, ⟨true, true, false⟩⟩
  | .vmul f => .a f ⟨.cuOnly, .intF3, .yes, .zero, .vkR, .f3, .no, ⟨true, true, false⟩⟩
  | .vfma f => .a f ⟨.cuOnly, .f3, .yes, .zero, .vkP, .yes, .no, ⟨true, true, true⟩⟩
  | .vmin f => .a f ⟨.cuOnly, .intF3, .yes, .zero, .vkR, .no, .no, ⟨true, true, false⟩⟩
  | .vmax f => .a f ⟨.cuOnly, .intF3, .yes, .zero, .vkR, .no, .no, ⟨true, true, false⟩⟩
  | .vabs f => .a f ⟨.cuOnly, .intF3, .no, .zero, .vkL, .no, .no, ⟨true, false, false⟩⟩
  | .vneg f => .a f ⟨.cuOnly, .intF3, .no, .zero, .vkL, .no, .no, ⟨true, false, false⟩⟩
  | .vand f => .a f ⟨.cuOnly, .intRaw, .int, .zero, .vkR, .no, .no, ⟨true, true, false⟩⟩
  | .vor f => .a f ⟨.cuOnly, .intRaw, .int, .zero, .vkR, .no, .no, ⟨true, true, false⟩⟩
  | .vxor f => .a f ⟨.cuOnly, .intRaw, .int, .zero, .vkR, .no, .no, ⟨true, true, false⟩⟩
  | .vshl f => .a f ⟨.cuOnly, .int, .yes, .zero, .vkR, .no, .no, ⟨true, true, false⟩⟩
  | .vshr f => .a f ⟨.cuOnly, .int, .yes, .zero, .vkR, .no, .no, ⟨true, true, false⟩⟩
  | .vsar f => .a f ⟨.cuOnly, .int, .yes, .zero, .vkR, .no, .no, ⟨true, true, false⟩⟩
  | .vcmp f => .a f ⟨.cuOnly, .intF3, .yes, .zero, .cond, .no, .no, ⟨true, true, false⟩⟩
  | .vsel f => .a f ⟨.cuOnly, .selTy, .no, .zero, .vkR, .no, .no, ⟨true, true, true⟩⟩
  | .vsatadd f => .a f ⟨.cuOnly, .int, .yes, .zero, .vkR, .no, .no, ⟨true, true, false⟩⟩
  | .vmulh f => .a f ⟨.cuOnly, .int, .yes, .zero, .vkR, .no, .no, ⟨true, true, false⟩⟩
  | .vdot f => .a f ⟨.cuOnly, .dotTy, .no, .zero, .vkP, .no, .no, ⟨true, true, true⟩⟩
  | .vcvt f => .a f ⟨.cuOnly, .intF6, .no, .intF6, .vkL, .yes, .cvt, ⟨true, false, false⟩⟩
  | .vquant f => .a f ⟨.cuOnly, .mx, .no, .half, .quant, .yes, .yes, ⟨true, false, false⟩⟩
  | .vdeq f => .a f ⟨.cuOnly, .f3, .no, .mx, .deq, .yes, .yes, ⟨true, false, false⟩⟩
  | .vscale f => .a f ⟨.cuOnly, .f3Mx, .no, .zero, .vkL, .f3, .no, ⟨true, true, false⟩⟩
  | .vexp2 f => .a f ⟨.cuOnly, .f3, .no, .zero, .vkL, .no, .no, ⟨true, false, false⟩⟩
  | .vlog2 f => .a f ⟨.cuOnly, .f3, .no, .zero, .vkL, .no, .no, ⟨true, false, false⟩⟩
  | .vrcp f => .a f ⟨.cuOnly, .f3, .no, .zero, .vkL, .no, .no, ⟨true, false, false⟩⟩
  | .vrsq f => .a f ⟨.cuOnly, .f3, .no, .zero, .vkL, .no, .no, ⟨true, false, false⟩⟩
  | .vsigm f => .a f ⟨.cuOnly, .f3, .no, .zero, .vkL, .no, .no, ⟨true, false, false⟩⟩
  | .vbcast f => .a f ⟨.cuOnly, .intF6, .no, .zero, .vw, .no, .no, ⟨true, false, false⟩⟩
  | .vextr f => .a f ⟨.cuOnly, .intF6, .no, .zero, .lane, .no, .no, ⟨true, false, false⟩⟩
  | .vins f => .a f ⟨.cuOnly, .intF6, .yes, .zero, .lane, .no, .no, ⟨true, true, false⟩⟩
  | .vshuf f => .a f ⟨.cuOnly, .mov, .no, .zero, .vkL, .no, .no, ⟨true, true, false⟩⟩
  | .vrot f => .a f ⟨.cuOnly, .mov, .no, .zero, .lane, .no, .no, ⟨true, false, false⟩⟩
  | .vslide f => .a f ⟨.cuOnly, .mov, .no, .zero, .slide, .no, .no, ⟨true, true, false⟩⟩
  | .vzip f => .a f ⟨.cuOnly, .mov, .no, .zero, (.le 1), .no, .no, ⟨true, true, false⟩⟩
  | .vunzip f => .a f ⟨.cuOnly, .mov, .no, .zero, (.le 1), .no, .no, ⟨true, true, false⟩⟩
  | .vpack f => .a f ⟨.cuOnly, .narrow, .no, .wide, .zero, .yes, .yes, ⟨true, true, false⟩⟩
  | .vunpack f => .a f ⟨.cuOnly, .wide, .no, .narrow, (.le 1), .no, .no, ⟨true, false, false⟩⟩
  | .vredadd f => .a f ⟨.cuOnly, .intF3, .no, .zero, .vrL, .no, .no, ⟨true, false, false⟩⟩
  | .vredmax f => .a f ⟨.cuOnly, .intF3, .no, .zero, .vrL, .no, .no, ⟨true, false, false⟩⟩
  | .vredmin f => .a f ⟨.cuOnly, .intF3, .no, .zero, .vrL, .no, .no, ⟨true, false, false⟩⟩
  | .vscan f => .a f ⟨.cuOnly, .intF3, .yes, .zero, (.le 2), .no, .no, ⟨true, true, false⟩⟩
  | .vcompress f => .a f ⟨.cuOnly, .compTy, .no, .zero, .vrL, .no, .no, ⟨true, false, false⟩⟩
  | .vexpand f => .a f ⟨.cuOnly, .compTy, .no, .zero, .vw, .no, .no, ⟨true, true, false⟩⟩
  | .vmask f => .a f ⟨.cuOnly, .mov, .no, .zero, .vkL, .no, .no, ⟨true, true, false⟩⟩
  | .vpopc f => .a f ⟨.cuOnly, .mov, .no, .zero, .vrL, .no, .no, ⟨true, false, false⟩⟩
  | .vtagq f => .a f ⟨.cuOnly, .zero, .no, .zero, .zero, .no, .no, ⟨true, false, false⟩⟩
  | .vtagset f => .a f ⟨.cuOnly, .all, .no, .zero, .vkL, .no, .no, ⟨true, false, false⟩⟩
  | .wload f => .x f ⟨.cuOnly, .weight, 0, 0, 0, 31, ⟨true, false, false⟩⟩
  | .wscale f => .x f ⟨.cuOnly, .zero, 1, 0, 3, 127, ⟨true, false, false⟩⟩
  | .wswap f => .x f ⟨.cuOnly, .zero, 0, 0, 0, 8191, ⟨false, false, false⟩⟩
  | .wsparse f => .x f ⟨.cuOnly, .sparse, 0, 0, 1, 31, ⟨true, true, false⟩⟩
  | .mstream f => .x f ⟨.agOnly, .stream, 0, 7, 1, 0, ⟨false, false, false⟩⟩
  | .macc f => .x f ⟨.cuOnly, .zero, 3, 0, 3, 8191, ⟨false, false, false⟩⟩
  | .adecay f => .x f ⟨.cuOnly, .f32, 0, 0, 0, 0, ⟨true, false, false⟩⟩
  | .azero f => .x f ⟨.cuOnly, .zero, 3, 0, 0, 0, ⟨false, false, false⟩⟩
  | .aload f => .x f ⟨.cuOnly, .f32, 3, 0, 1, 31, ⟨true, false, false⟩⟩
  | .adrain f => .x f ⟨.cuOnly, .f32, 3, 0, 3, 31, ⟨false, false, false⟩⟩
  | .aspill f => .x f ⟨.cuOnly, .f32, 3, 0, 1, 0, ⟨false, false, false⟩⟩
  | .afill f => .x f ⟨.cuOnly, .f32, 3, 7, 0, 0, ⟨false, false, false⟩⟩
  | .aown f => .x f ⟨.cuOnly, .zero, 3, 3, 1, 0, ⟨false, false, false⟩⟩
  | .mstat f => .x f ⟨.cuOnly, .zero, 0, 0, 1, 0, ⟨false, false, false⟩⟩
  | .tfetch f => .x f ⟨.agOnly, .zero, 3, 7, 0, 0, ⟨false, false, false⟩⟩
  | .trelease f => .x f ⟨.agOnly, .zero, 0, 7, 0, 0, ⟨false, false, false⟩⟩
  | .ld f => .m f ⟨.muAg, .mem, false, .zero, (.le 0), .any, false, ⟨true, false, false⟩⟩
  | .st f => .m f ⟨.muAg, .mem, false, .zero, (.le 0), .any, false, ⟨true, true, false⟩⟩
  | .ldv f => .m f ⟨.muAg, .vmem, false, .zero, (.le 0), .any, false, ⟨true, false, false⟩⟩
  | .stv f => .m f ⟨.muAg, .vmem, false, .zero, (.le 0), .any, false, ⟨true, true, false⟩⟩
  | .ldro f => .m f ⟨.muAg, .memVec, false, .zero, (.le 1), .any, false, ⟨true, false, false⟩⟩
  | .lds f => .m f ⟨.muOnly, .memVec, false, .zero, .lds, .any, false, ⟨true, false, false⟩⟩
  | .sts f => .m f ⟨.muOnly, .memVec, false, .zero, (.le 1), .any, false, ⟨true, true, false⟩⟩
  | .pref f => .m f ⟨.muAg, .zero, false, .zero, (.le 0), .any, true, ⟨true, false, false⟩⟩
  | .cbinit f => .m f ⟨.muOnly, .zero, false, .zero, (.le 15), .zero, false, ⟨true, false, false⟩⟩
  | .cbwaitf f => .m f ⟨.muOnly, .zero, false, .zero, (.le 15), (.range 1 4096), false, ⟨false, false, false⟩⟩
  | .cbwaite f => .m f ⟨.muOnly, .zero, false, .zero, (.le 15), (.range 1 4096), false, ⟨false, false, false⟩⟩
  | .cbpush f => .m f ⟨.muOnly, .zero, false, .zero, (.le 15), (.range 1 4096), false, ⟨false, false, false⟩⟩
  | .cbpop f => .m f ⟨.muOnly, .zero, false, .zero, (.le 15), (.range 1 4096), false, ⟨false, false, false⟩⟩
  | .aadd f => .m f ⟨.muAg, .i4, true, (.le 3), (.le 0), .any, false, ⟨true, true, false⟩⟩
  | .amin f => .m f ⟨.muAg, .i4, true, (.le 3), (.le 0), .any, false, ⟨true, true, false⟩⟩
  | .amax f => .m f ⟨.muAg, .i4, true, (.le 3), (.le 0), .any, false, ⟨true, true, false⟩⟩
  | .aand f => .m f ⟨.muAg, .i4, true, (.le 3), (.le 0), .any, false, ⟨true, true, false⟩⟩
  | .aor f => .m f ⟨.muAg, .i4, true, (.le 3), (.le 0), .any, false, ⟨true, true, false⟩⟩
  | .axor f => .m f ⟨.muAg, .i4, true, (.le 3), (.le 0), .any, false, ⟨true, true, false⟩⟩
  | .aswp f => .m f ⟨.muAg, .w, true, (.le 3), (.le 0), .any, false, ⟨true, true, false⟩⟩
  | .acas f => .m f ⟨.muAg, .w, true, (.le 3), (.le 0), .any, false, ⟨true, true, true⟩⟩
  | .afadd f => .m f ⟨.muAg, .f3, true, (.le 3), (.le 0), .any, false, ⟨true, true, false⟩⟩
  | .redadd f => .m f ⟨.muAg, .i4, false, .zero, (.le 0), .any, false, ⟨true, true, false⟩⟩
  | .redfadd f => .m f ⟨.muAg, .f3, false, .zero, (.le 0), .any, false, ⟨true, true, false⟩⟩
  | .redmax f => .m f ⟨.muAg, .i4, false, .zero, (.le 0), .any, false, ⟨true, true, false⟩⟩
  | .acq f => .m f ⟨.muAg, .mem, true, .zero, (.le 0), .any, false, ⟨true, false, false⟩⟩
  | .rel f => .m f ⟨.muAg, .mem, true, .zero, (.le 0), .any, false, ⟨true, true, false⟩⟩
  | .fence f => .m f ⟨.muAg, .zero, true, .fence, (.le 0), .zero, false, ⟨false, false, false⟩⟩
  | .ncinv f => .m f ⟨.muAg, .zero, false, .zero, (.le 0), .zero, false, ⟨false, false, false⟩⟩
  | .discard f => .m f ⟨.muAg, .zero, false, .zero, (.le 0), .any, false, ⟨true, true, false⟩⟩
  | .flushr f => .m f ⟨.muAg, .zero, false, .zero, (.le 0), .any, false, ⟨true, true, false⟩⟩
  | .tjoin f => .m f ⟨.anyUnit, .zero, false, .zero, (.le 15), .zero, false, ⟨false, false, false⟩⟩
  | .tleave f => .m f ⟨.anyUnit, .zero, false, .zero, (.le 15), .zero, false, ⟨false, false, false⟩⟩
  | .markinit f => .m f ⟨.anyUnit, .zero, false, .zero, (.le 15), (.range 0 23), false, ⟨true, false, false⟩⟩
  | .arrive f => .m f ⟨.anyUnit, .zero, true, .zero, (.le 15), (.range 0 23), false, ⟨false, false, false⟩⟩
  | .mwait f => .m f ⟨.anyUnit, .zero, true, .zero, (.le 15), (.range 0 23), false, ⟨true, false, false⟩⟩
  | .arrwait f => .m f ⟨.anyUnit, .zero, true, .zero, (.le 15), (.range 0 23), false, ⟨false, false, false⟩⟩
  | .sfrend f => .m f ⟨.muAg, .zero, false, .zero, (.le 0), .zero, false, ⟨false, false, false⟩⟩
  | .cpy f => .m f ⟨.anyUnit, .zero, true, .zero, (.le 0), .zero, false, ⟨true, true, true⟩⟩
  | .cpym f => .m f ⟨.anyUnit, .zero, true, .zero, (.le 15), .zero, false, ⟨true, true, true⟩⟩
  | .zpack f => .m f ⟨.anyUnit, .zero, true, .zero, (.le 0), .zero, false, ⟨true, true, true⟩⟩
  | .zunpack f => .m f ⟨.anyUnit, .zero, true, .zero, (.le 0), .zero, false, ⟨true, true, true⟩⟩
  | .coll f => .m f ⟨.anyUnit, .zero, false, .zero, (.le 0), .zero, false, ⟨true, true, true⟩⟩
  | .engq f => .m f ⟨.anyUnit, .zero, true, (.le 1), (.le 0), .zero, false, ⟨false, false, false⟩⟩
  | .cropen f => .m f ⟨.anyUnit, .zero, false, .zero, (.le 1), (.range 0 255), false, ⟨true, false, false⟩⟩
  | .crclose f => .m f ⟨.anyUnit, .zero, false, .zero, (.le 0), .zero, false, ⟨false, false, false⟩⟩
  | .trap f => .m f ⟨.anyUnit, .zero, false, .zero, (.le 0), (.range 0 63), false, ⟨false, false, false⟩⟩
  | .task f => .m f ⟨.anyUnit, .zero, false, .zero, (.le 1), .zero, false, ⟨true, true, false⟩⟩
  | .taskdep f => .m f ⟨.anyUnit, .zero, false, .zero, (.le 0), (.range 0 7), false, ⟨true, false, false⟩⟩
  | .migr f => .m f ⟨.muAg, .zero, false, .zero, (.le 0), (.range 0 3), false, ⟨true, false, false⟩⟩
  | .xlfence f => .m f ⟨.muAg, .zero, false, .zero, (.le 0), .zero, false, ⟨false, false, false⟩⟩
  | .xlinv f => .m f ⟨.muAg, .zero, false, .zero, (.le 15), .zero, false, ⟨true, true, false⟩⟩
  | .clock f => .m f ⟨.anyUnit, .zero, false, .zero, (.le 0), (.range 0 1), false, ⟨false, false, false⟩⟩
  | .perfc f => .m f ⟨.anyUnit, .zero, false, .zero, .perfc, (.range 0 11), false, ⟨false, false, false⟩⟩
  | .errq f => .m f ⟨.anyUnit, .zero, false, .zero, (.le 0), .zero, false, ⟨true, false, false⟩⟩
  | .holdupEnergyExhausted => .event
  | .spanPortTrained => .event
  | .spanPortRetrain _ _ _ => .event
  | .seamRetrain _ _ => .event
  | .frameOwnerWrite _ _ => .event
  | .keySlotLoad _ _ _ => .event
  | .spdmRequest _ _ => .event
  | .engineIssue => .event
  | .creditReturn => .event
  | .retireMessage => .event
  | .cropenMessage => .event

/-- Whether a unit kind is among those a row lists (R257). -/
def Units.allows (u : Units) (cu mu ag : Bool) : Bool :=
  match u with
  | .anyUnit => true
  | .cuOnly => cu
  | .muOnly => mu
  | .agOnly => ag
  | .muAg => mu || ag

/-- The lane count of a type code in a vector token (R299), 0 for a reserved code. -/
def lanesOfCode (c : BitVec 5) : Nat :=
  match Ty.ofCode c with
  | some t => t.laneCount
  | none => 0

/-- Whether a code is one of a type that a property holds for. -/
def codeIs (p : Ty → Bool) (c : BitVec 5) : Bool :=
  match Ty.ofCode c with
  | some t => p t
  | none => false

/-- Whether FN is one that a row allows, given TYPE and TYPE2 (R301, R306, R309, R310, R312). -/
def FnRule.ok (r : FnRule) (ty ty2 : BitVec 5) (fn : BitVec 6) : Bool :=
  let n := fn.toNat
  match r with
  | .zero => n = 0
  | .le k => n ≤ k
  | .vkL | .vkR | .vkP => !n.testBit 3
  | .vw => !n.testBit 3 && !n.testBit 4
  | .vrL => !n.testBit 3 && !n.testBit 5
  | .lane => n < lanesOfCode ty
  | .slide => n ≤ lanesOfCode ty
  | .cond => if codeIs Ty.isInt ty then n ≤ 5 else n ≤ 7
  | .quant => if ty = Ty.mxf4.tag then n ≤ 3 else n ≤ 1
  | .deq => (n + 1) * lanesOfCode ty ≤ lanesOfCode ty2 && n ≤ 7

/-- TYPE2 against TYPE where a row pairs them (R308, R314). -/
def pairOk (r : RowA) (ty ty2 : BitVec 5) : Bool :=
  match Ty.ofCode ty, Ty.ofCode ty2 with
  | some t, some u =>
    if r.sat = .cvt then t.laneWidth = u.laneWidth
    else if r.ty = .narrow then packPair t u
    else if r.ty2 = .narrow then packPair u t
    else true
  | _, _ => true
where
  /-- The pairs of R314: a narrow type with its wide type. -/
  packPair (n w : Ty) : Bool :=
    match n with
    | .bf16 | .f16 => w = .f32
    | .e4m3 | .e5m2 | .tk8 => w = .bf16 || w = .f16
    | .s16 | .n16 => w = .s32 || w = .n32
    | .s8 | .n8 => w = .s16 || w = .n16
    | _ => false

/-- The fault of a TYPE or TYPE2 field (R254, R256): RESERVED where the field is unused and not zero, TYPE where it is
reserved or not accepted. -/
def tyFaults (s : TySet) (c : BitVec 5) : List Nat :=
  if s = .zero then (if c = 0 then [] else if (Ty.ofCode c).isNone then [6, 9] else [6])
  else match Ty.ofCode c with
    | none => [9]
    | some t => if s.has t then [] else [9]

/-- A status when a condition fails. -/
def failIf (b : Bool) (st : Nat) : List Nat := if b then [st] else []

/-- Whether a target names a slot position, or one of the special codes (R253). -/
def targetOk (t : BitVec 9) : Bool :=
  t.toNat < 384 || t.toNat < 392 || t.toNat = 400 || t.toNat = 511

/-- The faults of PRED and the targets (R252, R253, R271). -/
def headFaults (h : Head) (usesP noResult : Bool) : List Nat :=
  failIf (h.pred = 3) 8 ++ failIf (usesP && h.pred ≠ 0) 6
    ++ failIf (!targetOk h.t0 || !targetOk h.t1) 7
    ++ failIf (noResult && (h.t0 ≠ 511 || h.t1 ≠ 511)) 7

/-- The statuses of R259 that a format A word fails. -/
def faultsA (f : FmtA) (r : RowA) : List Nat :=
  headFaults f.h r.uses.p false ++ tyFaults r.ty f.ty ++
  match f.body with
  | .imm v =>
    (match r.imm with
     | .no => [6]
     | .yes => failIf (codeIs (fun t => t.isMX || t = .tk8 || t = .raw512) f.ty) 9
     | .int => failIf (!codeIs Ty.isInt f.ty) 9
     | .flags => failIf (v.toNat ≥ 32) 6)
  | .regs fn rm sat ty2 ksel z =>
    let rmUsed := match r.rm with
      | .no => false
      | .yes => true
      | .f3 => codeIs Ty.isF3 f.ty
    let satUsed := match r.sat with
      | .no => false
      | .yes => true
      | .cvt => !(codeIs Ty.isInt f.ty && !codeIs Ty.isInt ty2)
    tyFaults r.ty2 ty2 ++ failIf (!pairOk r f.ty ty2) 9 ++ failIf (z ≠ 0) 6
      ++ failIf (!r.fn.ok f.ty ty2 fn) 6
      ++ failIf (if rmUsed then decide (rm.toNat > 4) else decide (rm ≠ 0)) 6
      ++ failIf (!(rmUsed && rm = 4) && ksel ≠ 0) 6
      ++ failIf (!satUsed && sat ≠ 0) 6

/-- The statuses of R259 that a format D word fails. -/
def faultsD (f : FmtD) (r : RowD) : List Nat :=
  headFaults f.h r.uses.p r.noResult ++ tyFaults r.ty f.ty ++
  match f.body with
  | .imm _ => if r.imm then [] else [6]
  | .regs ch idx n15 =>
    failIf r.imm 6 ++ failIf (!r.ch && ch ≠ 0) 6 ++ failIf (decide (idx.toNat > r.idx)) 6
      ++ failIf (match r.n15 with
        | .zero => decide (n15 ≠ 0)
        | .any => false
        | .waitc => decide (n15.toNat % 8 = 0 ∨ n15.toNat % 8 > 4 ∨ bitsOf n15.toNat 3 11 ≠ 0)
        | .chstat => decide (n15.toNat % 16384 ≠ 0)) 6

/-- Whether a format M word's VEC bit, or its opcode, makes it a vector form. -/
def FmtM.isVec (f : FmtM) (r : RowM) : Bool := r.ty = .vmem || (r.ty = .memVec && f.idx.toNat.testBit 0)

/-- The statuses of R259 that a format M word fails. -/
def faultsM (f : FmtM) (r : RowM) : List Nat :=
  let tys := if r.ty = .memVec then (if f.idx.toNat.testBit 0 then TySet.vmem else TySet.mem) else r.ty
  let n := f.off.toNat
  let k := f.idx.toNat
  headFaults f.h r.uses.p r.noResult ++ tyFaults tys f.ty
    ++ failIf (if r.scope then decide (f.scope.toNat > 4) else decide (f.scope ≠ 0)) 6
    ++ failIf (match r.ord with
      | .zero => decide (f.ord ≠ 0)
      | .le k => decide (f.ord.toNat > k)
      | .fence => decide (f.ord = 0)) 6
    ++ failIf (match r.idx with
      | .le m => decide (k > m)
      | .lds => decide (k > 3 ∨ k = 2)
      | .perfc => decide (k > 4)) 6
    ++ failIf (match r.off with
      | .zero => decide (n ≠ 0)
      | .any => false
      | .range lo hi => decide (n < lo ∨ n > hi)) 6

/-- The statuses of R259 that a format X word fails. -/
def faultsX (f : FmtX) (r : RowX) : List Nat :=
  headFaults f.h r.uses.p false ++ tyFaults r.ty f.ty
    ++ failIf (f.idx0.toNat > r.idx0 || f.idx1.toNat > r.idx1 || f.mode.toNat > r.mode || f.n13.toNat > r.n13) 6

/-- The further value check of MACC (R324): EMIT takes IDX0 0. -/
def maccFaults (i : Instr) : List Nat :=
  match i with
  | .macc f => failIf (f.mode = 0 && f.idx0 ≠ 0) 6
  | _ => []

/-- The statuses of R259 that an instruction's own fields fail, unit kind and privilege apart. -/
def Instr.faults (i : Instr) : List Nat :=
  maccFaults i ++
  match i.row with
  | .a f r => faultsA f r
  | .d f r => faultsD f r
  | .m f r => faultsM f r
  | .x f r => faultsX f r
  | .event => []

/-- The units of an instruction. -/
def Instr.units (i : Instr) : Units :=
  match i.row with
  | .a _ r => r.units
  | .d _ r => r.units
  | .m _ r => r.units
  | .x _ r => r.units
  | .event => .anyUnit

/-- Whether only an image with firmware privilege may hold the instruction (R257). -/
def Instr.privileged (i : Instr) : Bool :=
  match i with
  | .xlinv _ => true
  | .task f => f.idx.toNat.testBit 0
  | _ => false

/-- The statuses of R259 that a slot's word fails in a frame of a unit kind. -/
def slotFaults (cu mu ag firmware : Bool) (w : IWord) : List Nat :=
  match decodeWord w with
  | .error .emptySlot => []
  | .error .unassigned => [4]
  | .ok i =>
    failIf (!i.units.allows cu mu ag) 5 ++ i.faults ++ failIf (i.privileged && !firmware) 11

/-- PRED and the targets of an instruction. -/
def Instr.head (i : Instr) : Head :=
  match i.row with
  | .a f _ => f.h
  | .d f _ => f.h
  | .m f _ => f.h
  | .x f _ => f.h
  | .event => ⟨0, 511, 511⟩

/-- The operand positions that an instruction's word uses (R255, R271, R301, R309, R340): an immediate or a vector
keep register replaces a position, and a predicate adds P. -/
def Instr.uses (i : Instr) : Uses :=
  let pred := i.head.pred ≠ 0
  match i.row with
  | .a f r =>
    match f.body with
    | .imm _ => ⟨r.uses.l, false, r.uses.p || pred⟩
    | .regs fn _ _ _ _ _ =>
      let vr := fn.toNat.testBit 4
      let quantR := r.fn = .quant && fn.toNat ≠ 0
      ⟨r.uses.l && !((r.fn = .vkL || r.fn = .vrL) && vr), (r.uses.r && !(r.fn = .vkR && vr)) || quantR,
        (r.uses.p && !(r.fn = .vkP && vr)) || pred⟩
  | .d f r =>
    match f.body with
    | .imm _ => ⟨r.uses.l, false, r.uses.p || pred⟩
    | .regs _ _ _ => ⟨r.uses.l, r.uses.r, r.uses.p || pred⟩
  | .m f r => ⟨r.uses.l, r.uses.r || (r.idx = .lds && f.idx.toNat.testBit 1), r.uses.p || pred⟩
  | .x _ r => ⟨r.uses.l, r.uses.r, r.uses.p || pred⟩
  | .event => ⟨false, false, false⟩

/-- The immediate of a format A body, if it has one. -/
def ABody.imm? : ABody → Option (BitVec 22)
  | .imm v => some v
  | .regs _ _ _ _ _ _ => none

/-- FN, 0 beside an immediate (R255). -/
def ABody.fn : ABody → Nat
  | .imm _ => 0
  | .regs fn _ _ _ _ _ => fn.toNat

/-- RM, 0 beside an immediate. -/
def ABody.rm : ABody → RMode
  | .imm _ => .rne
  | .regs _ rm _ _ _ _ => RMode.ofCode rm

/-- SAT, 0 beside an immediate. -/
def ABody.sat : ABody → Bool
  | .imm _ => false
  | .regs _ _ sat _ _ _ => sat = 1

/-- TYPE2, 0 beside an immediate. -/
def ABody.ty2 : ABody → BitVec 5
  | .imm _ => 0
  | .regs _ _ _ ty2 _ _ => ty2

/-- KSEL, 0 beside an immediate. -/
def ABody.ksel : ABody → Nat
  | .imm _ => 0
  | .regs _ _ _ _ ksel _ => ksel.toNat

end Sys2Proof
end

