-- ==== Sys2Proof/Machine/State.lean ====
section
/-! DEFINITION. The state of the package: plain data, everything the manual gives the machine. Sites, ports, tasks
and memory structures are lists of records under their own numbers; registers of a fixed count are vectors. -/

namespace Sys2Proof.Machine

open Sys2Proof

/-- Why the machine stops with a fault. -/
inductive Fault where
  /-- FRAME_OWNER_WRITE or KEY_SLOT_LOAD names a frame or a key slot that no die of the part has (R161, R68). Safe:
  the manual gives such a write no effect. -/
  | noSuchEntry
deriving DecidableEq, Repr

/-- Why a step is refused. -/
inductive Refusal where
  /-- Raised by `exec` for an instruction that has no meaning yet. Safe: nothing is claimed about it. -/
  | notModelled (mnemonic : String)
deriving DecidableEq, Repr

/-! ### Tokens and sites -/

/-- The kind of a token (R129). -/
inductive Kind where
  | data | eoi | err | cfg
deriving DecidableEq, Repr

/-- A scalar or vector token (R129). Its channel number is the channel it stands in; its parity is even unless a
fault of the hardware makes it otherwise, which TOKEN_ARRIVAL brings. -/
structure Token where
  kind : Kind
  vec : Bool
  tag : BitVec 5
  scales : BitVec 32
  data : Line
deriving DecidableEq, Repr

/-- The kind of a site's processing element (R15). -/
inductive PEKind where
  | cu | mu | ag
deriving DecidableEq, Repr

/-- A vector keep register (R141). -/
structure VReg where
  data : Line
  tag : BitVec 5
  scales : BitVec 32
deriving DecidableEq, Repr

/-- One configuration plane of a site (R120, R123, R128, R141, R154, R157). `patZero` marks a pattern one of whose
argument counts was 0 at launch, which issues nothing (R155). `fwid` is the firewall id of the site's switch (R157). -/
structure PlaneCfg where
  fwid : BitVec 16
  store : Vector IWord 128
  handlers : Vector (BitVec 32) 16
  chcfg : BitVec 64
  sysm : Bool
  keep : Vector Word 16
  vkeep : Vector VReg 8
  routes : Vector (BitVec 32) 32
  pats : Vector (BitVec 384) 4
  patZero : Vector Bool 4
deriving DecidableEq, Repr

/-- The producer end of a channel (R129): its queue, and the slots at the consumer end it holds credits for. -/
structure OutEnd where
  q : List Token
  credits : Nat
deriving DecidableEq, Repr

/-- The consumer end of a channel (R129): its queue, and the slots freed whose credits are on their way back. -/
structure InEnd where
  q : List Token
  freed : Nat
deriving DecidableEq, Repr

/-- A site of a lease, by relative coordinates. -/
structure SiteRef where
  lease : Nat
  dx : Nat
  dy : Nat
deriving DecidableEq, Repr

/-- An atomic or reduction operation (R344). -/
inductive RmwOp where
  | add | min | max | and | or | xor | swap | cas | fadd
deriving DecidableEq, Repr

/-- What a port request does (R165, R187, R337, R344, R349). -/
inductive ReqOp where
  | load (ro : Bool)
  | store
  | discard
  | flushr
  | atomic (op : RmwOp)
  | reduce (op : RmwOp)
  | pref
  | tfetch
  | mstream
  | migr (die : Nat)
  | marker (t : Token)
deriving DecidableEq, Repr

/-- Where a request's reply goes: nowhere, to the instruction in flight in a slot, to a channel of an MU that a load
pattern feeds, to a fetch slot of the port, or to the engine command that issued it. -/
inductive Dest where
  | none
  | slot (site : SiteRef) (slot : Nat)
  | chan (site : SiteRef) (ch : Nat)
  | fetch (fs : Nat)
  | engine (cmd off : Nat)
deriving DecidableEq, Repr

/-- A race in which a request lost (R188, R189). -/
structure Conflict where
  cause : Nat
  other : Nat
  unconf : Bool
deriving DecidableEq, Repr

/-- A leaf as a TLB holds it, after the stages are combined (R164, R166, R167), with the entry it was filled from. -/
structure Leaf where
  key : Nat
  frame : Nat
  level : Nat
  g : Bool
  vlt : Bool
  backing : Nat
  chk : Bool
  cmode : Nat
  d : Bool
  at_ : Bool
  wr : Bool
  rd : Bool
  entryPa : Nat
  entry : Word
deriving DecidableEq, Repr

/-- Where a request stands. -/
inductive ReqStatus where
  /-- On its way to its home slice, or waiting there. -/
  | sent
  /-- It has left the package by a span and lacks its reply (R44, R160). -/
  | abroad
  /-- Its translation was not found in a TLB: a walk is wanted (R167). -/
  | miss
  /-- Its walk has read its leaf, under samples of S1SEQ and S2SEQ, after a number of restarts (R168). -/
  | walking (s1 s2 restarts : Nat) (leaf : Leaf)
  /-- Waits at its home for the sharers of its line to acknowledge (R170). -/
  | backInv
  /-- Waits for a race-tag entry since a fabric cycle (R187). -/
  | raceWait (since : Nat)
  /-- Waits out the readers of a saturated line since a fabric cycle (R189). -/
  | satWait (since : Nat)
  /-- Performed; the reply is on its way, with the ERR data of a poisoned line if any (R225). -/
  | done (data : Line) (err : Option Word)
  /-- Refused with a cause; the refusal is on its way (R176). -/
  | refused (cause : Nat)
  /-- Lost a race; the conflict reply is on its way (R188). -/
  | conflict (c : Conflict)
  /-- Refused and held at its port (R176); `replay` tells whether a trap action holds it for REPLAY (R102). A cause of 0 is that of
  one which raised no trap of its own, since side-log entries of its page wait. -/
  | held (cause : Nat) (replay : Bool)
  /-- Held, and the condition has cleared: to be issued again before any new request (R380). -/
  | cleared
  /-- Waits at its port for the side-log entries of its bytes or, for a load, of its page (R152, R176). -/
  | behind
deriving DecidableEq, Repr

/-- A request of a stream port, in one of its retire-queue entries (R152). `origin` is an ERR word without a cause,
naming the issuing instruction or slot 127 (R374); `after` lists the accesses that a release waits for (R183); `leaf` is
the translation it was sent on under (R202); `ownDie` tells that a cache of its own die answered it (R169, R171); `ofPat` that an
access pattern issued it, and no instruction (R155, R374); `again` that it has been held and is issued again (R176, R380); `noFill`
that a write of its line issued on its die while it was in flight, so that no RRC takes what it reads (R183). -/
structure Req where
  id : Nat
  origin : Word
  after : List Nat
  op : ReqOp
  va : Nat
  size : Nat
  ty : BitVec 5
  vec : Bool
  data : Line
  expected : Word
  poison : Option Word
  party : Nat
  sfr : Nat
  inv : Nat
  scope : BitVec 3
  acq : Bool
  toScratch : Option Nat
  dest : Dest
  leaf : Option Leaf
  ownDie : Bool
  ofPat : Bool
  again : Bool
  noFill : Bool
  status : ReqStatus
deriving DecidableEq, Repr

/-- A side-log entry (R152, R176): the request as it will be replayed, with its byte mask. -/
structure SideEntry where
  req : Req
  mask : BitVec 64
deriving DecidableEq, Repr

/-- An undo-log entry (R228). -/
structure UndoEntry where
  va : Nat
  asid : Nat
  pre : Line
  prePoison : Bool
deriving DecidableEq, Repr

/-- The loop of a pattern (R155, R383): the live counters, whether it ended, the EOIs it has emitted, whether an
element of the current invocation has left, and how many of its EOIs have been passed to their sinks' ends. -/
structure Live where
  i0 : Nat
  i1 : Nat
  i2 : Nat
  i3 : Nat
  done : Bool
  eois : Nat
  begun : Bool
deriving DecidableEq, Repr

/-- The live counters of a pattern at the start of an invocation (R227). -/
structure Snapshot where
  pat : Nat
  inv : Nat
  live : Live
deriving DecidableEq, Repr

/-- The state of a fetch slot (R156). -/
inductive FetchState where
  | empty | fetching | pinned | stale
deriving DecidableEq, Repr

/-- A fetch slot (R156, R330): its pattern, the VAs of its elements in pattern order, those of them it has pinned, the lines an
MSTREAM has read, how many elements a fetch has issued or tokens an MSTREAM has sent, and whether a restore is to fetch it
again. -/
structure FetchSlot where
  st : FetchState
  pat : Nat
  lines : List Nat
  held : List Nat
  read : List (Option Line × Option Word)
  sent : Nat
  again : Bool
deriving DecidableEq, Repr

/-- Whose port it is: an MU's, or an engine's (R151, R158). -/
inductive PortOwner where
  | mu (site : SiteRef)
  | engine (die : Nat) (kind : EngKind) (idx : Nat)
deriving DecidableEq, Repr

/-- A stream port and its record (R151, R152): PREC.w0 to w2 field by field, the retire queue, the side log, the undo
log, the live counters of the paired AG's patterns, their region snapshots, and the fetch slots. -/
structure Port where
  id : Nat
  owner : PortOwner
  die : Nat
  bound : Bool
  isIn : Bool
  pgrp : Nat
  ctx : Nat
  asid : Nat
  party : Nat
  sfr : Nat
  bucket : Nat
  frozen : Bool
  hold : Bool
  queue : List Req
  sideLog : List SideEntry
  undo : List UndoEntry
  live : Vector Live 4
  lastPat : Nat
  snaps : List Snapshot
  fetch : Vector FetchSlot 8
  fences : Nat
  issued : Bool
deriving DecidableEq, Repr

/-! ### Engines, teams and what an instruction in flight waits for -/

/-- The engine commands (R353, R58). -/
inductive EngOp where
  | cpy | cpym | zpack | zunpack | coll
deriving DecidableEq, Repr

/-- How an engine command ended (R188, R354, R356). -/
inductive EngEnd where
  | running | done | failed (cause : Nat) | killed
deriving DecidableEq, Repr

/-- An engine command (R353 to R356, R58): who issued it and where, its operands, the origin of its traps, the engine
task of a COPY packet, its collective and rank, how far it has run in order, the bytes of a compressed stream so far, the
buffer slot being filled, the segments left, its party (0 before dispatch) and how it ends. -/
structure EngCmd where
  id : Nat
  op : EngOp
  tid : Nat
  die : Nat
  site : Option (SiteRef × Nat)
  plane : Nat
  origin : Word
  task : Option (Nat × Nat)
  seq : Nat
  scope : BitVec 3
  src : Nat
  dst : Nat
  len : Nat
  ctl : Word
  follow : Word
  collNo : Nat
  rank : Nat
  turn : Nat
  outLen : Nat
  cbSlot : Option Nat
  segsLeft : Nat
  party : Nat
  stop : EngEnd
deriving DecidableEq, Repr

/-- One entry of a virtual queue: a segment of a command (R95). -/
structure VEntry where
  cmd : Nat
  off : Nat
  len : Nat
deriving DecidableEq, Repr

/-- A virtual queue of a context on a die, with its deficit (R95, R96). -/
structure VQueue where
  die : Nat
  tid : Nat
  kind : EngKind
  entries : List VEntry
  deficit : Nat
deriving DecidableEq, Repr

/-- A write that an engine has ready: its address, its bytes, and the ERR that poisons it (R225). -/
structure OutChunk where
  va : Nat
  bytes : List Byte
  poison : Option Word
deriving DecidableEq, Repr

/-- An engine that runs an entry through its port (R158): the input requested and the work done, as offsets within the
command, the input bytes received with the ERR that stands for each, output not yet cut into lines with the offset of its
first byte, and the writes ready. -/
structure Engine where
  die : Nat
  kind : EngKind
  idx : Nat
  port : Nat
  cur : VEntry
  rpos : Nat
  opos : Nat
  inb : List (Byte × Option Word)
  out : List (Byte × Option Word)
  zpos : Nat
  todo : List OutChunk
deriving DecidableEq, Repr

/-- A member of a team: a PE in a plane (R135). -/
structure Member where
  site : SiteRef
  plane : Nat
  colls : Nat
deriving DecidableEq, Repr

/-- A mark (R136). -/
structure Mark where
  expect : Nat
  count : Nat
  gen : BitVec 32
deriving DecidableEq, Repr

/-- An open collective (R356): its number, the members in rank order, and the commands issued for it. -/
structure Coll where
  no : Nat
  members : List Member
  cmds : List (Member × Nat)
deriving DecidableEq, Repr

/-- A team entry in the sync unit of a die (R135), with its open collectives and how many it has opened (R356). -/
structure Team where
  tid : Nat
  num : Nat
  die : Nat
  members : List Member
  marks : Vector Mark 24
  colls : List Coll
  opened : Nat
deriving DecidableEq, Repr

/-- An operation addressed to a sync unit (R351). -/
inductive SyncOp where
  | join | leave
  | markInit (mark : Nat) (n : Nat)
  | arrive (mark : Nat) (wait : Bool)
  | mwait (mark : Nat) (g : BitVec 32)
  | engineArrive (mark : Nat)
deriving DecidableEq, Repr

/-- An operation on its way to, or waiting at, a sync unit; `after` lists the writes its release waits for (R183). -/
structure SyncMsg where
  die : Nat
  tid : Nat
  team : Nat
  site : SiteRef
  plane : Nat
  slot : Nat
  op : SyncOp
  scope : BitVec 3
  after : List Nat
deriving DecidableEq, Repr

/-- A waiter on a mark's generation (R136). -/
structure Waiter where
  msg : SyncMsg
  mark : Nat
  gen : BitVec 32
deriving DecidableEq, Repr

/-- A device launch's request to the dependency table (R361). -/
structure TaskMsg where
  va : Nat
  waits : Word
  system : Bool
deriving DecidableEq, Repr

/-- What follows when a release's writes have all been performed (R183, R335, R345, R347, R354, R361, R362). -/
inductive AfterRelease where
  | fence (acq : Bool) (scope : BitVec 3)
  | engine (c : EngCmd)
  | task (m : TaskMsg)
  | taskdep (l : Word) (i : Nat)
  | xlfence
deriving DecidableEq, Repr

/-- What an instruction in flight does or waits for (R126). -/
inductive FlightOp where
  /-- Waits for one reply: a load, an atomic, the sync unit, the placer or the CD. -/
  | reply
  /-- A write-class instruction with a completion token: `left` lines not yet performed (R335). -/
  | writes (left : Nat)
  /-- DISCARD or FLUSHR still issuing lines from `va`, `todo` left, `left` not yet performed (R349). -/
  | range (op : ReqOp) (va todo left : Nat)
  /-- Waits for writes to be performed before it goes on (R183). -/
  | release (waits : List Nat) (next : AfterRelease)
  /-- NCINV waits for the loads issued before it (R348). -/
  | ncinv (loads : List Nat)
  /-- WSWAP waits for its vectors (R322). -/
  | wswap
  /-- ASPILL: next half row to send (R327). -/
  | spill (tile next : Nat) (clear : Bool)
  /-- AFILL: next token to take, and the ERR to send in place of ATSTAT (R327). -/
  | fill (tile ch next : Nat) (bad : Option Word)
  /-- TFETCH or MSTREAM of a fetch slot (R330, R331). -/
  | tfetch (fs pat : Nat)
  | mstream (fs : Nat) (ty : BitVec 5) (keep : Bool)
  /-- XLINV waits for its invalidation (R365). -/
  | xlinv (inv : Nat)
  /-- The answer is there and waits for slots at the targets (R129). -/
  | landing (t : Token)
deriving DecidableEq, Repr

/-- An instruction in flight: its slot, its word and what it does. -/
structure Flight where
  slot : Nat
  word : IWord
  op : FlightOp
deriving DecidableEq, Repr

/-- A running handler instance (R126): its entry, whether it is the EOI handler, the slots that have fired, the
operands held (under 128·position + slot, the code of a target), what is in flight, whether it took a token. -/
structure Instance where
  entry : Nat
  eoi : Bool
  fired : List Nat
  ops : List (Nat × Token)
  flight : List Flight
  took : Bool
deriving DecidableEq, Repr

/-! ### Unit state -/

/-- An accumulator tile: half row h of row r, 16 FP32 elements, at 2r + h; and ATSTAT (R141, R142). -/
structure Tile where
  halves : Vector Line 64
  stat : BitVec 16
deriving DecidableEq, Repr

/-- A weight buffer (R141, R319): columns, tag, SPARSE, the sparsity map and the paired WSC scales. -/
structure WBuf where
  cols : Vector Line 32
  tag : BitVec 5
  sparse : Bool
  map : BitVec 4096
  wsc : BitVec 1024
deriving DecidableEq, Repr

/-- A batch that MACC has queued (R324): MODE, tile, length, results given, number. -/
structure Batch where
  mode : Nat
  tile : Nat
  len : Nat
  got : Nat
deriving DecidableEq, Repr

/-- An activation vector at a CU of a region: the dense or second token, and the first token of a sparse row. -/
structure Activation where
  main : Token
  low : Option Token
deriving DecidableEq, Repr

/-- A column partial (R217): 32 elements, each an FP32 code and, at the bottom row, the exact sum S of that CU beside
the partial from above; or an ERR. -/
inductive Partial where
  | err (w : Word)
  | vals (p : Vector (BitVec 32) 32)
deriving DecidableEq, Repr

/-- The exact sum of a CU's products in one column, with the flags its NaN and infinity inputs raise (R217). -/
structure ExactSum where
  v : FV
  fl : Flags
deriving DecidableEq, Repr

/-- A vector in the array of a CU (R146, R322): the buffer it reads, the partial from above, and the exact sums, or
the ERR that takes their place. -/
structure InArray where
  buf : Bool
  above : Partial
  sums : Option (Vector ExactSum 32)
  err : Option Word
deriving DecidableEq, Repr

/-- The state that only a CU holds (R141 to R144, R322, R324). -/
structure Cu where
  tiles : Vector Tile 4
  wbuf : Vector WBuf 2
  wact : Bool
  decayg : BitVec 32
  flg : BitVec 64
  batches : List Batch
  batchNo : Nat
  wswap : Option Nat
  acts : List Activation
  chain : List Partial
  array : List InArray
deriving DecidableEq, Repr

/-- A slot that an engine has reserved in a circular buffer: the command and whether it has landed whole (R150). -/
structure CbSlot where
  cmd : Nat
  landed : Bool
deriving DecidableEq, Repr

/-- A circular-buffer descriptor (R149) field by field, with the reserved slots in order from PRODP. -/
structure Cbd where
  free : BitVec 13
  filled : BitVec 13
  slotsz : BitVec 12
  slots : BitVec 12
  base : BitVec 12
  pend : BitVec 13
  valid : Bool
  consp : BitVec 12
  prodp : BitVec 12
  resv : List CbSlot
deriving DecidableEq, Repr

/-- The state that only an MU holds (R148, R149): the scratchpad as the bytes that are not zero, the offsets of its 8-byte words
that cannot be corrected (R222), and cb0 to cb15. -/
structure Mu where
  sp : List Host.Cell
  bad : List Nat
  cbs : Vector Cbd 16
deriving DecidableEq, Repr

/-- A processing element of a lease, at relative coordinates (R120 to R130). -/
structure PE where
  dx : Nat
  dy : Nat
  kind : PEKind
  planes : Vector PlaneCfg 4
  ins : Vector InEnd 8
  outs : Vector OutEnd 8
  inv : Nat
  loopOcc : Nat
  rr : Vector Nat 4
  declined : List Nat
  inst : Option Instance
  eoiRan : Bool
  batonDone : Bool
  cmdNo : Nat
  cmdsOpen : List Nat
  cu : Cu
  mu : Mu
deriving DecidableEq, Repr

/-! ### Leases -/

/-- A message that a PE has sent to the placer, with the slot that waits for its reply (R283, R358). -/
inductive CtrlMsg where
  | decide (dx dy slot plane : Nat)
  | retire (dx dy slot : Nat)
  | cropen (dx dy slot : Nat) (redo : Bool) (region : Nat) (target : Word)
deriving DecidableEq, Repr

/-- A containment region (R227). -/
structure Region where
  id : Nat
  redo : Bool
  plane : Nat
  dx : Nat
  dy : Nat
  handler : Nat
  first : Nat
  last : Option Nat
  degr : Bool
  retried : Bool
deriving DecidableEq, Repr

/-- An unwind in progress (R230): the ERR, the step it has reached, and the recovery target. -/
structure Unwind where
  err : Word
  step : Nat
deriving DecidableEq, Repr

/-- A trap on its way to the CD or held (R102 to R104). -/
structure Trap where
  tid : Nat
  lease : Option Nat
  cmd : Option Nat
  err : Word
  va : Nat
  partyA : Nat
  partyB : Nat
  unconf : Bool
  degr : Bool
  port : Option Nat
  req : Option Nat
deriving DecidableEq, Repr

/-- What a relocation is for (R84, R87, R108, R223, R237). -/
inductive MoveJob where
  /-- Compaction or evacuation to a destination origin. -/
  | move (x y : Nat)
  /-- A pre-emption or evacuation checkpoint; `deadline` is row 4's (R98). -/
  | checkpoint (deadline : Option Nat)
  /-- A standing checkpoint into a must-save slot (R108). -/
  | standing (slotVa size : Nat)
deriving DecidableEq, Repr

/-- A relocation or checkpoint (R84): its job, its step (0: requested; 1 to 3: HOLD set and batons injected), the
zone's invocation and the fabric cycle of step 2. -/
structure Move where
  job : MoveJob
  step : Nat
  zone : Nat
  since : Nat
  resv : Option Nat
deriving DecidableEq, Repr

/-- A lease (R119 to R122, R132, R140, R227). -/
structure Lease where
  id : Nat
  tid : Nat
  die : Nat
  entry : Nat
  x : Nat
  y : Nat
  w : Nat
  h : Nat
  heldPrio : Nat
  firmware : Bool
  image : List (BitVec 256)
  args : List Word
  plane : Nat
  pend : Option (Nat × Nat)
  later : List (Nat × Nat)
  inv : Nat
  retireAt : Option Nat
  stopIssue : Bool
  parked : Option Nat
  ctrl : List CtrlMsg
  region : Option Region
  unwind : Option Unwind
  heldTraps : List Trap
  move : Option Move
  baton : Option Nat
  batonNo : Nat
  lastMove : Nat
  stall : Nat
  stalled : Bool
  cyc : Nat
  pes : List PE
deriving DecidableEq, Repr

/-! ### Memory structures of the dies -/

/-- A TLB entry: `slice` is the home slice of a first-level entry, 64 for a second-level one, 65 for the CD's own
cache (R167, R382). The most recently used entry stands first. -/
structure TlbEntry where
  die : Nat
  slice : Nat
  vmid : Nat
  asid : Nat
  dc : Nat
  base : Nat
  leaf : Leaf
deriving DecidableEq, Repr

/-- A pointer entry of the walk cache (R163, R167): stage 1 under an ASID and die code, stage 2 under a VMID. -/
structure WalkEntry where
  stage : Nat
  asid : Nat
  dc : Nat
  vmid : Nat
  level : Nat
  base : Nat
  next : Nat
deriving DecidableEq, Repr

/-- Which line an L2 way holds: a frame's line by PA, or a line of an unbacked page by tenant and offset (R169,
R173). -/
inductive LineKey where
  | frame (pa : Nat)
  | unb (tid off : Nat)
deriving DecidableEq, Repr

/-- A line of a home slice's L2 (R169, R173, R156). -/
structure L2Line where
  die : Nat
  key : LineKey
  data : Line
  dirty : Bool
  poison : Bool
  pins : List (Nat × Nat)
deriving DecidableEq, Repr

/-- A near-cache line (R171), with the number of the line it copies and its poison mark (R225). -/
structure NearLine where
  die : Nat
  cluster : Nat
  asid : Nat
  va : Nat
  pa : Nat
  data : Line
  poison : Bool
  ro : Bool
deriving DecidableEq, Repr

/-- A remote-read-cache line (R169): its tags, and whether the home records it. -/
structure RrcLine where
  die : Nat
  asid : Nat
  va : Nat
  pa : Nat
  data : Line
  poison : Bool
  tracked : Bool
deriving DecidableEq, Repr

/-- A directory entry (R170): the line, its sharers (live dies, 8 for the host), and those whose back-invalidation
has not been acknowledged. The oldest allocation stands last. -/
structure DirEntry where
  pa : Nat
  sharers : List Nat
  waiting : List Nat
deriving DecidableEq, Repr

/-- A race-tag entry (R186). -/
structure RaceTag where
  die : Nat
  pa : Nat
  wparty : Nat
  wsfr : Nat
  wred : Bool
  readers : List (Nat × Nat)
  spill : Option Nat
  spilled : List (Nat × Nat)
  sat : Bool
  tlast : Nat
deriving DecidableEq, Repr

/-- An invalidation in progress (R199, R201): its number, range of one ASID or of a whole VMID, the ports whose batons
are not yet acknowledged with the requests each follows, whether it is a second-stage one, and the packet that waits. -/
structure Inval where
  id : Nat
  vmid : Nat
  asid : Option Nat
  base : Nat
  size : Nat
  ports : List (Nat × List Nat)
  stage2 : Bool
  packet : Option (Nat × Nat)
deriving DecidableEq, Repr

/-- A spare pool of a context (R174): its frame size and its ring of frames. -/
structure Pool where
  tid : Nat
  pool : Nat
  big : Bool
  frames : List Nat
deriving DecidableEq, Repr

/-- A party id (R179): the SFR number, the device time its SFR began, whether a party of the id lives, and whether one took
a new id because its number ran out. -/
structure Party where
  id : Nat
  sfr : Nat
  began : Nat
  live : Bool
  wrapped : Bool
deriving DecidableEq, Repr

/-! ### The control die -/

/-- A must-save set in force (R106). -/
structure MustSave where
  sprio : Nat
  entries : List (Nat × Nat × Nat × Nat × Nat)
  cost : Nat
deriving DecidableEq, Repr

/-- A context table entry (R70), with the time offset (R101), the must-save set (R106) and the creation order of its
start lists. -/
structure Ctx where
  tid : Nat
  asid : Nat
  vmid : Nat
  diemap : List Nat
  pace : Nat
  pbudget : Nat
  drain : Nat
  saveva : Nat
  trapva : Nat
  mustsave : Nat
  unbways : Nat
  offset : Nat
  must : Option MustSave
  slots : List Nat
  admitted : Bool
  closing : Bool
deriving DecidableEq, Repr

/-- The states of a start list (R52, R64). -/
inductive SlState where
  | active | stopping | stopped | faulted | destroyed
deriving DecidableEq, Repr

/-- A packet held or admitted, as its 128 bytes and its number n. -/
structure Packet where
  n : Nat
  body : BitVec 1024
deriving DecidableEq, Repr

/-- An admitted packet that has not completed (R59): what it waits for and its completion actions. -/
structure Pending where
  n : Nat
  order : Option Nat
  tag : Nat
  kind : Nat
  crec : Bool
  csem : Bool
  cmsi : Bool
  vec : Nat
  status : Option (Nat × Nat)
  nodesLeft : Nat
deriving DecidableEq, Repr

/-- A start list (R52 to R65). `held` is the packet that HEAD stands on; `retryAt` the device time of the next read
after a stamp mismatch or a WAITSEM test; `nodes` the nodes of a replay that have not entered. -/
structure StartList where
  slot : Nat
  tid : Nat
  fn : Nat
  ring : Nat
  size : Nat
  cring : Nat
  csema : Nat
  head : BitVec 32
  tail : BitVec 32
  chead : BitVec 32
  st : SlState
  fcause : Nat
  lost : Nat
  recs : Nat
  held : Option Packet
  retryAt : Option Nat
  nextN : Nat
  order : Nat
  nodes : List (Nat × BitVec 1024)
  pending : List Pending
  force : Bool
deriving DecidableEq, Repr

/-- A stored graph (R58). -/
structure Graph where
  tid : Nat
  gid : Nat
  nodes : List (BitVec 1024)
deriving DecidableEq, Repr

/-- The states of a task (R72, R73). -/
inductive TaskState where
  | waiting | ready | placing | running | moving | saved | done | killed
deriving DecidableEq, Repr

/-- Where the saved context of a task stands: nowhere, in a save-area slot, with the number of the lease and its parties,
which live on (R88, R234), or in a must-save slot (R114). -/
inductive Saved where
  | no
  | slot (i lease : Nat) (parties : List Nat)
  | lease (va : Nat)
deriving DecidableEq, Repr

/-- A dependency-table entry that is not FREE (R73), with the CD side of its packet (TAG, CREC, CSEM, CMSI, VEC) and
the order in which it became READY (R77). -/
structure Task where
  die : Nat
  idx : Nat
  st : TaskState
  kind : Nat
  cls : Nat
  ctx : Nat
  slid : Nat
  devl : Bool
  prio : Nat
  h : Nat
  w : Nat
  image : Nat
  args : Nat
  bilsis : Bool
  seq : Nat
  skips : Nat
  rem : Nat
  waits : List Nat
  itiles : List (BitVec 56)
  otiles : List (BitVec 56)
  order : Nat
  tag : Nat
  crec : Bool
  csem : Bool
  cmsi : Bool
  vec : Nat
  pktKind : Nat
  readyAt : Nat
  saved : Saved
  copy : Option (Nat × Nat × Nat)
  cmd : Option Nat
  firmware : Bool
  trapTag : Nat
  replays : List (Nat × Nat)
deriving DecidableEq, Repr

/-- What a checkpoint record stands for: the model's own, since the manual does not give the bytes of every section of it
(R235, assumption 21). Its bytes; the lease, its ports, the teams and sync operations that left with it, its engine replay
entries with the bytes done; the context's time offset and time; and the least number that it does not use. -/
structure Save where
  bytes : List Byte
  lease : Lease
  ports : List Port
  teams : List Team
  sync : List SyncMsg
  cmds : List EngCmd
  offset : Nat
  ctime : Nat
  top : Nat
  whole : Bool
deriving DecidableEq, Repr

/-- A reservation of the placer (R79, R82, R97): the newcomer, its window, held priority, image and arguments, the saved
context that it restores, the destinations held, and the DRAIN victims with their deadlines. -/
structure Resv where
  id : Nat
  die : Nat
  idx : Nat
  x : Nat
  y : Nat
  w : Nat
  h : Nat
  heldPrio : Nat
  image : List (BitVec 256)
  args : List Word
  save : Option Save
  dests : List (Nat × Nat × Nat)
  drains : List (Nat × Nat)
deriving DecidableEq, Repr

/-- The bandwidth state of a die (R90, R93). -/
structure Budget where
  die : Nat
  b : Nat
  next : Option Nat
  carry : Nat
  cut : List Nat
deriving DecidableEq, Repr

/-- The states of a die link (R35, R38). -/
inductive LinkState where
  | down | training | readmitting | running | quiescing | absent
deriving DecidableEq, Repr

/-- A die link: seam 0 to 3, CD link 4 to 7 (R38), with the failed attempts of its training (R35), the reservation
limit (R34) and whether it is QUIESCING alone. -/
structure Link where
  st : LinkState
  mods : Nat
  downs : Nat
  retries : Nat
  fails : Nat
  limit : Nat
  alone : Bool
deriving DecidableEq, Repr

/-- The states of a span port (R45). -/
inductive SpanState where
  | down | training | up
deriving DecidableEq, Repr

/-- A span port (R42 to R45): status, the held flits oldest first, the next SEQ, the last SEQ accepted, whether a NAK
is out, the device times of recent replays, failed trainings, the flits to send and received, those that wait for a sequence
number, the line of each flit held and of each that waits, in their order, the credits that the other end has returned (requests,
replies, data), those that the port owes it, and the pair last put on the line. -/
structure SpanPort where
  st : SpanState
  half : Bool
  rate : Nat
  laneFail : BitVec 8
  replays : Nat
  retrains : Nat
  held : List (BitVec 2048)
  nextSeq : BitVec 8
  lastAcc : BitVec 8
  naked : Bool
  window : List Nat
  fails : Nat
  sending : List (BitVec 2048)
  received : List (BitVec 2048)
  pend : List (BitVec 2048)
  lines : List Nat
  credits : Nat × Nat × Nat
  owed : Nat × Nat × Nat
  pair : Option (BitVec 2048 × BitVec 2048)
deriving DecidableEq, Repr

/-- A warm reset in progress (R237): the die, its step, and the fabric cycle at which step 2 began. -/
structure Reset where
  die : Nat
  step : Nat
  since : Nat
deriving DecidableEq, Repr

/-- A photo finish commanded (R116): the cycle F, the ACTION and the buffer. -/
structure Freeze where
  f : Nat
  action : Nat
  buf : Nat
deriving DecidableEq, Repr

/-- A set record of a manifest (R113), with the ranges as saved. -/
structure SetRec where
  tid : Nat
  st : Nat
  off : Nat
  len : Nat
  seq : Nat
  digest : BitVec 384
deriving DecidableEq, Repr

/-- A manifest (R113): `valid` tells whether its signature verifies. -/
structure Manifest where
  mseq : Nat
  tcut : Nat
  half : Nat
  sets : List SetRec
  sig : BitVec 768
  valid : Bool
deriving DecidableEq, Repr

/-- One saved part of a set in a data half: entry index, VA, and its bytes' lines; a hole has no lines (R110). -/
structure SavedPage where
  set : Nat
  entry : Nat
  va : Nat
  hole : Bool
  lines : List (Nat × Line × Bool)
deriving DecidableEq, Repr

/-- The keep store (R112): the header's format version and consumed MSEQ, areas A and B, and the two data halves, each a list of
saved pages with the lease words CKINV and LASTINV of R110 and the numbers of the sets whose seal record is written (R109).
`saves` is the model's own: what the checkpoint records written so far stand for (assumption 21). -/
structure Keep where
  version : Nat
  consumed : Nat
  areaA : Option Manifest
  areaB : Option Manifest
  half0 : List SavedPage
  half1 : List SavedPage
  inv0 : List (Nat × Nat × Option (Nat × Nat))
  inv1 : List (Nat × Nat × Option (Nat × Nat))
  seals0 : List Nat
  seals1 : List Nat
  saves : List Save
deriving DecidableEq, Repr

/-- A hold-up sequence in progress (R109 to R113): TCUT, the data half it writes, the set records, and whether the energy ran
low. -/
structure HoldUp where
  tcut : Nat
  half : Nat
  recs : List SetRec
  low : Bool
deriving DecidableEq, Repr

/-- A fused part (R1, R2, R27). -/
structure Fuses where
  grade : Nat
  nlive : Nat
  pos : List Nat
  stepping : Nat
  holes : List (BitVec 64)
deriving DecidableEq, Repr

/-- A request of another package that this one has answered: who sent it, its message tag, the cause that refused it, and the
line read, with the ERR data of a poisoned one (R44, R160, R225). -/
structure ForeignReply where
  src : Nat
  tag : Nat
  cause : Option Nat
  data : Line
  err : Option Word
deriving DecidableEq, Repr

/-- The power states of the package (R25). -/
inductive Power where
  | off | boot | run | holdup
deriving DecidableEq, Repr

/-- An interrupt message sent to the host (R62). -/
structure Msi where
  fn : Nat
  vec : Nat
deriving DecidableEq, Repr

/-- The last reply of the Bilsis mailbox (R384), of the host's CXL.mem link (R50), or of SPDM (R67). -/
structure Reply where
  status : Nat
  values : List (BitVec 1280)
deriving DecidableEq, Repr

/-- Which agent moves: a site; a slot of its instruction store, or a start-list slot; a channel, circular buffer or
lane; a die; an engine's kind and index, or a dependency-table entry or link; a port, request and further number; and
an address. An operation or event reads the fields its meaning names (assumption 1). -/
structure Focus where
  site : SiteRef
  slot : Nat
  ch : Nat
  die : Nat
  kind : EngKind
  idx : Nat
  port : Nat
  req : Nat
  addr : Nat
deriving DecidableEq, Repr

/-- A focus that names nothing in particular. -/
def Focus.none : Focus := ⟨⟨0, 0, 0⟩, 0, 0, 0, .copy, 0, 0, 0, 0⟩

/-- What happens to the package for which the table has no row, though the manual gives its effect (assumption 63). -/
inductive Outside where
  /-- An adapter retry on a die link (R29, R38). -/
  | adapterRetry (link : Nat)
  /-- Bilsis gives the package its number at domain set-up (R46). -/
  | packageNumber (n : Nat)
  /-- Bilsis sets the HDM ranges, as pairs of a base and a size of physical addresses (R49). -/
  | hdmRanges (rs : List (Nat × Nat))
  /-- A fault of the hardware changes the firewall id that a switch holds in a plane (R119, R157). -/
  | firewallFault (site : SiteRef) (plane : Nat) (fwid : BitVec 16)
  /-- A span port puts its next pair of flits on the line (R41). -/
  | spanTransmit (port : Nat)
  /-- The reply of another package to a request of a port: its data, or a cause (R44, R160, R165). -/
  | foreignReply (port req : Nat) (cause : Option Nat) (data : Line) (err : Option Word)
  /-- A request of another package for bytes of a line of this one, under its message tag: what it does, its size and type, and the data
  or ERR that it brings (R44, R160). -/
  | foreignRequest (src tag tid va : Nat) (op : ReqOp) (size : Nat) (ty : BitVec 5) (data : Line) (expected : Word)
      (poison : Option Word)
deriving DecidableEq, Repr

/-- What moves next: an operation or event of the table at a place, the issue of a site's lowest ready slot, the
progress of an instruction in flight or of a restored port's fetch, the passing of fabric cycles, or what comes from outside. -/
inductive Action where
  | event (i : Instr) (f : Focus)
  | issue (site : SiteRef)
  | progress (site : SiteRef) (slot : Nat)
  | wait (cycles : Nat)
  | outside (e : Outside)
deriving DecidableEq, Repr

/-- What a photo finish reads out (R116): the buffer that DBG_FREEZE names, and the leases with their planes, register files, channels
and handler states, the port records with their side logs, the teams with their marks, the dependency tables, the engines and their
queues, and the links with what their adapters hold. -/
structure ReadOut where
  buf : Nat
  leases : List Lease
  ports : List Port
  teams : List Team
  syncQ : List SyncMsg
  waiters : List Waiter
  tasks : List Task
  engines : List Engine
  vqueues : List VQueue
  cmds : List EngCmd
  links : List Link
deriving DecidableEq, Repr

/-- The state of the package. -/
structure State where
  /-- The model's own: which agent moves next (assumption 1). -/
  agenda : List Action
  /-- The model's own: the agent that moves now (assumption 1). -/
  focus : Focus
  /-- The model's own: the next fresh number of a lease, request, command, invalidation or reservation. -/
  nextId : Nat
  /-- The model's own: how many values the manual leaves open have been taken (assumption 7). -/
  freeCount : Nat
  fuses : Fuses
  power : Power
  supply : Bool
  /-- The device time at which the supply fell below its threshold (R109). -/
  lossAt : Nat
  bootFailed : Bool
  measurements : List (BitVec 384)
  energyReady : Bool
  holdupFailed : Bool
  everAdmitted : Bool
  bootEnd : Nat
  /-- Thirds of a nanosecond since power-on: device time is a third of it (R22). -/
  time : Nat
  /-- Fabric cycles since the end of BOOT (R90). -/
  fabric : Nat
  fabricStopped : Bool
  uncoreStopped : Bool
  lap : Nat
  waitingCreates : List CtxArgs
  links : Vector Link 8
  diagSwitched : List (Nat × Nat)
  spans : Vector SpanPort 16
  routes : Vector (BitVec 16) 64
  pkgNo : Nat
  /-- The HDM ranges that Bilsis has set, each a base and a size (R49). -/
  hdm : List (Nat × Nat)
  /-- The requests of other packages answered, latest first (R44). -/
  foreign : List ForeignReply
  identity : Vector Byte 256
  mailbox : Vector Byte 256
  msixTable : List (Nat × Nat × BitVec 32)
  msixPending : List (Nat × Nat)
  msiSent : List Msi
  hostReply : Reply
  spdmReply : Reply
  reply : Reply
  ctxs : List Ctx
  startLists : List StartList
  graphs : List Graph
  tasks : List Task
  readyNo : Nat
  retired : List (Nat × Nat)
  runOn : List (Nat × Nat × Nat)
  resvs : List Resv
  dieTurn : Nat
  leases : List Lease
  ports : List Port
  cmds : List EngCmd
  vqueues : List VQueue
  engines : List Engine
  teams : List Team
  syncQ : List SyncMsg
  waiters : List Waiter
  mem : List Host.Cell
  poisoned : List Nat
  l2 : List L2Line
  near : List NearLine
  rrc : List RrcLine
  dir : List DirEntry
  tlb : List TlbEntry
  walkCache : List WalkEntry
  roots : List (Nat × Nat × Nat)
  roots2 : List (Nat × Nat)
  s1seq : List (Nat × Nat)
  s2seq : List (Nat × Nat)
  owners : List (Nat × BitVec 16)
  keys : List (Nat × Nat × List Byte)
  /-- The lines that memory holds encrypted, each with its key; State.mem holds them as that key decrypts them (R68). -/
  sealed : List (Nat × List Byte)
  /-- The tags of lines that stand in memory as they are, but were encrypted once (R68). -/
  tags : List (Nat × BitVec 32)
  tagFailed : List Nat
  eccFailed : List Nat
  pools : List Pool
  invals : List Inval
  raceTags : List RaceTag
  racePools : List (Nat × Nat × Nat)
  oldest : Nat
  parties : List Party
  budgets : List Budget
  counters : List (Nat × Nat × Nat × Nat)
  traps : List Trap
  errorLog : List (Nat × Nat)
  siteChecks : List (Nat × Nat × Nat)
  siteThresh : Nat
  /-- How many times the check counters have been halved (R223). -/
  halvings : Nat
  errCounts : List (Nat × Nat × Nat × Nat)
  measuring : List (Nat × Nat)
  withheld : List Nat
  /-- The standing checkpoints of R108: tenant, slot VA, CKINV and record length. -/
  standing : List (Nat × Nat × Nat × Nat)
  holdup : Option HoldUp
  keep : Keep
  nonce : Option (BitVec 128)
  freeze : Option Freeze
  /-- What the last photo finish read out into its PF buffer, with the buffer's address (R116). -/
  readOut : Option ReadOut
  resets : List Reset
  waysOut : List (Nat × Nat × Nat)
  framesOut : List Nat
  vaultsOut : List (Nat × Nat)
  rates : List (FlagWhat × Nat)
deriving DecidableEq, Repr

/-! ### The state after reset -/

/-- The part that State.reset describes: an OZ4-P4 with no fused-off cluster, of the stepping that the manual
describes (assumption 2). -/
def Fuses.p4 : Fuses := ⟨0, 4, [0, 1, 2, 3], 0x10, [0, 0, 0, 0]⟩

/-- A die link at power-on (R38): DOWN, or absent, with its fused number of modules. -/
def Link.reset (present : Bool) (mods : Nat) : Link :=
  ⟨if present then .down else .absent, if present then mods else 0, 0, 0, 0, 64, false⟩

/-- A span port at power-on (R45, assumption 2 for the sequence numbers). -/
def SpanPort.reset : SpanPort := ⟨.down, false, 0, 0, 0, 0, [], 0, 255, false, [], 0, [], [], [], [], (0, 0, 0), (0, 0, 0), none⟩

/-- The keep store as it leaves the factory (assumption 2). -/
def Keep.reset : Keep := ⟨0, 0, none, none, [], [], [], [], [], [], []⟩

/-- No reply yet (assumption 2). -/
def Reply.reset : Reply := ⟨0, []⟩

/-- The seams that a part with a number of live dies has (R28). -/
def seamPresent (nlive seam : Nat) : Bool :=
  if nlive = 4 then seam < 4 else if nlive = 2 then seam = 0 else false

/-- The die links at power-on of a part with a number of live dies (R28, R38). -/
def Link.resetAll (nlive : Nat) : Vector Link 8 :=
  #v[Link.reset (seamPresent nlive 0) 16, Link.reset (seamPresent nlive 1) 16,
     Link.reset (seamPresent nlive 2) 16, Link.reset (seamPresent nlive 3) 16,
     Link.reset (0 < nlive) 4, Link.reset (1 < nlive) 4, Link.reset (2 < nlive) 4, Link.reset (3 < nlive) 4]

/-- A package with given fuses and keep store that has no power: OFF (R25). What R25 says is lost is at the value it
takes when supply returns. -/
def State.unpowered (fuses : Fuses) (keep : Keep) : State where
  agenda := []
  focus := Focus.none
  nextId := 1
  freeCount := 0
  fuses := fuses
  power := .off
  supply := false
  lossAt := 0
  bootFailed := false
  measurements := []
  energyReady := false
  holdupFailed := false
  everAdmitted := false
  bootEnd := 0
  time := 0
  fabric := 0
  fabricStopped := true
  uncoreStopped := true
  lap := 0
  waitingCreates := []
  links := Link.resetAll fuses.nlive
  diagSwitched := []
  spans := Vector.replicate 16 SpanPort.reset
  routes := Vector.replicate 64 0
  pkgNo := 0
  hdm := []
  foreign := []
  identity := Vector.replicate 256 0
  mailbox := Vector.replicate 256 0
  msixTable := []
  msixPending := []
  msiSent := []
  hostReply := Reply.reset
  spdmReply := Reply.reset
  reply := Reply.reset
  ctxs := []
  startLists := []
  graphs := []
  tasks := []
  readyNo := 0
  retired := []
  runOn := []
  resvs := []
  dieTurn := 0
  leases := []
  ports := []
  cmds := []
  vqueues := []
  engines := []
  teams := []
  syncQ := []
  waiters := []
  mem := []
  poisoned := []
  l2 := []
  near := []
  rrc := []
  dir := []
  tlb := []
  walkCache := []
  roots := []
  roots2 := []
  s1seq := []
  s2seq := []
  owners := []
  keys := []
  sealed := []
  tags := []
  tagFailed := []
  eccFailed := []
  pools := []
  invals := []
  raceTags := []
  racePools := []
  oldest := 0
  parties := []
  budgets := []
  counters := []
  traps := []
  errorLog := []
  siteChecks := []
  siteThresh := 3
  halvings := 0
  errCounts := []
  measuring := []
  withheld := []
  standing := []
  holdup := none
  keep := keep
  nonce := none
  freeze := none
  readOut := none
  resets := []
  waysOut := []
  framesOut := []
  vaultsOut := []
  rates := []

/-- The machine right after reset: no supply, the package in OFF (R25). -/
def State.reset : State := State.unpowered Fuses.p4 Keep.reset

end Sys2Proof.Machine
end

