-- ==== Sys2Proof/Machine/Ops.lean ====
section
/-! DEFINITION. The named operations over memory, leases, sites, channels and operands that the meanings share, and
the one operation by which an ERR token or a refusal raises a trap (R131, R230, R273). -/

namespace Sys2Proof.Machine

open Sys2Proof

/-! ### Memory: a list of cells in one canonical form -/

/-- One byte of memory; an unlisted address reads as 0 (assumption 3). -/
def memByte : List Host.Cell → Nat → Byte
  | [], _ => 0
  | (k, b) :: l, a => if k = a then b else memByte l a

/-- Write one byte, keeping addresses rising and listing no zero. -/
def memPut : List Host.Cell → Nat → Byte → List Host.Cell
  | [], a, b => if b = 0 then [] else [(a, b)]
  | (k, c) :: l, a, b =>
    if a < k then (if b = 0 then (k, c) :: l else (a, b) :: (k, c) :: l)
    else if a = k then (if b = 0 then l else (a, b) :: l)
    else (k, c) :: memPut l a b

/-- Write consecutive bytes from an address. -/
def memPutList (m : List Host.Cell) (a : Nat) : List Byte → List Host.Cell
  | [] => m
  | b :: bs => memPutList (memPut m a b) (a + 1) bs

/-- Read consecutive bytes from an address. -/
def memBytes (m : List Host.Cell) (a : Nat) : Nat → List Byte
  | 0 => []
  | n + 1 => memByte m a :: memBytes m (a + 1) n

/-- The canonical form: addresses strictly rising, no entry equal to what an unlisted address reads as. -/
def memWfFrom : Nat → List Host.Cell → Bool
  | _, [] => true
  | lo, (a, b) :: l => decide (lo ≤ a) && b ≠ 0 && memWfFrom (a + 1) l

/-- The canonical form of a whole memory. -/
def Memory.wf (m : List Host.Cell) : Bool := memWfFrom 0 m

/-- The 64-byte line at an address as a 512-bit value (R4). -/
def memLine (m : List Host.Cell) (a : Nat) : Line := BitVec.ofNat 512 (ofBytes (memBytes m a 64))

/-- Write a 64-byte line. -/
def memPutLine (m : List Host.Cell) (a : Nat) (v : Line) : List Host.Cell := memPutList m a (toBytes 64 v.toNat)

/-! ### Leases, sites and ports by number -/

/-- The lease with a number. -/
def State.lease? (s : State) (id : Nat) : Option Lease := s.leases.find? (fun L => L.id = id)

/-- The focus of a slot that issues. -/
def Focus.slotAt (site : SiteRef) (slot : Nat) : Focus := { Focus.none with site := site, slot := slot }

/-- Change the lease with a number. -/
def State.modLease (s : State) (id : Nat) (f : Lease → Lease) : State :=
  { s with leases := updWhere (fun L => L.id = id) f s.leases }

/-- The PE of a lease at relative coordinates. -/
def Lease.pe? (L : Lease) (dx dy : Nat) : Option PE := L.pes.find? (fun p => p.dx = dx && p.dy = dy)

/-- Change one PE of a lease. -/
def Lease.modPE (L : Lease) (dx dy : Nat) (f : PE → PE) : Lease :=
  { L with pes := updWhere (fun p => p.dx = dx && p.dy = dy) f L.pes }

/-- Change the PE of a site. -/
def State.modPE (s : State) (site : SiteRef) (f : PE → PE) : State :=
  s.modLease site.lease (fun L => L.modPE site.dx site.dy f)

/-- The PE of a site. -/
def State.pe? (s : State) (site : SiteRef) : Option PE :=
  match s.lease? site.lease with
  | some L => L.pe? site.dx site.dy
  | none => none

/-- The port with a PORTID. -/
def State.port? (s : State) (id : Nat) : Option Port := s.ports.find? (fun p => p.id = id)

/-- Change the port with a PORTID. -/
def State.modPort (s : State) (id : Nat) (f : Port → Port) : State :=
  { s with ports := updWhere (fun p => p.id = id) f s.ports }

/-- The context of a tenant. -/
def State.ctx? (s : State) (tid : Nat) : Option Ctx := s.ctxs.find? (fun c => c.tid = tid)

/-- Change the context of a tenant. -/
def State.modCtx (s : State) (tid : Nat) (f : Ctx → Ctx) : State :=
  { s with ctxs := updWhere (fun c => c.tid = tid) f s.ctxs }

/-- Zero bytes. -/
def zeros (n : Nat) : List Byte := List.replicate n 0

/-- The dependency-table entry of a die that is not FREE. -/
def State.task? (s : State) (die idx : Nat) : Option Task := s.tasks.find? (fun t => t.die = die && t.idx = idx)

/-- Change a dependency-table entry. -/
def State.modTask (s : State) (die idx : Nat) (f : Task → Task) : State :=
  { s with tasks := updWhere (fun t => t.die = die && t.idx = idx) f s.tasks }

/-- The start list in a slot. -/
def State.sl? (s : State) (slot : Nat) : Option StartList := s.startLists.find? (fun l => l.slot = slot)

/-- Change the start list in a slot. -/
def State.modSl (s : State) (slot : Nat) (f : StartList → StartList) : State :=
  { s with startLists := updWhere (fun l => l.slot = slot) f s.startLists }

/-- The command with a number. -/
def State.cmd? (s : State) (id : Nat) : Option EngCmd := s.cmds.find? (fun c => c.id = id)

/-- Change the command with a number. -/
def State.modCmd (s : State) (id : Nat) (f : EngCmd → EngCmd) : State :=
  { s with cmds := updWhere (fun c => c.id = id) f s.cmds }

/-- The configuration of a PE in a plane. -/
def PE.cfg (pe : PE) (plane : Nat) : PlaneCfg := (pe.planes[plane]?).getD pe.planes[0]

/-- Change the configuration of a PE in a plane. -/
def PE.modCfg (pe : PE) (plane : Nat) (f : PlaneCfg → PlaneCfg) : PE :=
  { pe with planes := pe.planes.setIfInBounds plane (f (pe.cfg plane)) }

/-- Device time: ticks of a nanosecond (R22). -/
def State.ticks (s : State) : Nat := s.time / 3

/-- The die of a package coordinate (R14). -/
def dieOf (x y : Nat) : Nat := x / 64 + 2 * (y / 32)

/-- The cluster of a package coordinate on its die (R17). -/
def clusterOf (x y : Nat) : Nat := 8 * (y % 32 / 4) + x % 64 / 8

/-- The kind of the site at a package coordinate (R15). -/
def kindAt (x y : Nat) : PEKind := if y % 2 = 0 then .cu else if x % 2 = 0 then .mu else .ag

/-- The package coordinates of a site of a lease. -/
def Lease.at_ (L : Lease) (dx dy : Nat) : Nat × Nat := (L.x + dx, L.y + dy)

/-- The die of a site of a lease. -/
def Lease.dieAt (L : Lease) (dx dy : Nat) : Nat := dieOf (L.x + dx) (L.y + dy)

/-- The port of the MU at a site (R151). -/
def State.muPort? (s : State) (site : SiteRef) : Option Port := s.ports.find? (fun p => p.owner = .mu site)

/-- The port through which a PE issues: an MU its own, an AG its paired MU's (R154); a CU none. -/
def State.portOf? (s : State) (site : SiteRef) (kind : PEKind) : Option Port :=
  match kind with
  | .mu => s.muPort? site
  | .ag => if site.dx = 0 then none else s.muPort? ⟨site.lease, site.dx - 1, site.dy⟩
  | .cu => none

/-! ### Channels (R128, R129) -/

/-- One bit of an 8-bit field of CHCFG. -/
def PlaneCfg.chBit (c : PlaneCfg) (lo i : Nat) : Bool := c.chcfg.toNat.testBit (lo + i)

/-- INVEC. -/
def PlaneCfg.inVec (c : PlaneCfg) (i : Nat) : Bool := c.chBit 40 i
/-- OUTVEC. -/
def PlaneCfg.outVec (c : PlaneCfg) (i : Nat) : Bool := c.chBit 32 i
/-- INCONN. -/
def PlaneCfg.inConn (c : PlaneCfg) (i : Nat) : Bool := c.chBit 24 i
/-- INLC. -/
def PlaneCfg.inLC (c : PlaneCfg) (i : Nat) : Bool := c.chBit 16 i
/-- OUTCONN. -/
def PlaneCfg.outConn (c : PlaneCfg) (i : Nat) : Bool := c.chBit 8 i
/-- OUTLE. -/
def PlaneCfg.outLE (c : PlaneCfg) (i : Nat) : Bool := c.chBit 0 i

/-- The depth of a channel's queue at each end (R129). -/
def chDepth (vec : Bool) : Nat := if vec then 2 else 4

/-- The input end of a channel. -/
def PE.inEnd (pe : PE) (i : Nat) : InEnd := (pe.ins[i]?).getD ⟨[], 0⟩

/-- The output end of a channel. -/
def PE.outEnd (pe : PE) (i : Nat) : OutEnd := (pe.outs[i]?).getD ⟨[], 0⟩

/-- The token at the head of an input channel. -/
def PE.head (pe : PE) (i : Nat) : Option Token := (pe.inEnd i).q.head?

/-- Free slots at the producer end of an output (R129, R278). -/
def PE.outFree (pe : PE) (plane i : Nat) : Nat := chDepth ((pe.cfg plane).outVec i) - (pe.outEnd i).q.length

/-- Whether a token is one that a trigger sees (R124). -/
def Token.seen (t : Token) : Bool := t.kind = .data || t.kind = .err

/-- An ERR token with its 64 data bits (R224). -/
def Token.ofErr (w : Word) (vec : Bool) : Token := ⟨.err, vec, 0, 0, w.setWidth 512⟩

/-- The 64 data bits of a token. -/
def Token.low (t : Token) : Word := t.data.setWidth 64

/-- A scalar DATA token. -/
def Token.scalar (tag : BitVec 5) (v : Word) : Token := ⟨.data, false, tag, 0, v.setWidth 512⟩

/-- A vector DATA token. -/
def Token.vector (tag : BitVec 5) (scales : BitVec 32) (v : Line) : Token := ⟨.data, true, tag, scales, v⟩

/-- A token as it stands in a channel: an ERR takes the channel's class (R129, R224). -/
def Token.inClass (t : Token) (vec : Bool) : Token :=
  if t.kind = .data then t else { t with vec := vec, data := t.low.setWidth 512 }

/-- Append a token to an output's queue; a loop entry raises the loop occupancy (R128). -/
def PE.pushOut (pe : PE) (plane i : Nat) (t : Token) : PE :=
  let c := pe.cfg plane
  let e := pe.outEnd i
  { pe with
    outs := pe.outs.setIfInBounds i { e with q := e.q ++ [t.inClass (c.outVec i)] }
    loopOcc := if c.outLE i then satInc 65535 pe.loopOcc else pe.loopOcc }

/-- Append an EOI marker or a baton to an output's queue: it enters no loop (R128). -/
def PE.pushMark (pe : PE) (plane i : Nat) (t : Token) : PE :=
  let e := pe.outEnd i
  { pe with outs := pe.outs.setIfInBounds i { e with q := e.q ++ [t.inClass ((pe.cfg plane).outVec i)] } }

/-- The entry's CHMASK (R123). -/
def hChmask (h : BitVec 32) : Nat := bitsOf h.toNat 18 8

/-- Pop the head of an input: its slot is freed, a loop-carried one lowers the loop occupancy, and an entry that had
declined becomes runnable again when a new token, of any kind, reaches the head (R124, R128, R129). -/
def PE.popIn (pe : PE) (plane i : Nat) : PE :=
  let c := pe.cfg plane
  let e := pe.inEnd i
  let q' := e.q.tail
  { pe with
    ins := pe.ins.setIfInBounds i ⟨q', e.freed + 1⟩
    loopOcc := if c.inLC i then pe.loopOcc - 1 else pe.loopOcc
    declined := if !q'.isEmpty then pe.declined.filter (fun h => !(hChmask ((c.handlers[h]?).getD 0)).testBit i)
      else pe.declined }

/-- The neighbour across a side of a site: 1 N, 2 E, 3 S, 4 W (R157, R267). -/
def neighbour (dx dy dir : Nat) : Option (Nat × Nat) :=
  match dir with
  | 1 => some (dx, dy + 1)
  | 2 => some (dx + 1, dy)
  | 3 => if dy = 0 then none else some (dx, dy - 1)
  | 4 => if dx = 0 then none else some (dx - 1, dy)
  | _ => none

/-- The side by which a token sent in a direction enters. -/
def opposite (dir : Nat) : Nat :=
  match dir with
  | 1 => 3 | 2 => 4 | 3 => 1 | 4 => 2 | _ => 0

/-- The valid route entry of a switch that receives from a side and lane of a class (R157). -/
def PlaneCfg.route? (c : PlaneCfg) (vec : Bool) (indir lane : Nat) : Option (Nat × Nat) :=
  match c.routes.toList.find? (fun r => r.toNat.testBit 31 && r.toNat.testBit 30 == vec
      && bitsOf r.toNat 27 3 = indir && bitsOf r.toNat 22 5 = lane) with
  | some r => some (bitsOf r.toNat 19 3, bitsOf r.toNat 14 5)
  | none => none

/-- Follow a route from switch to switch (R157, R267). -/
def Lease.follow (L : Lease) (plane : Nat) (vec : Bool) : Nat → Nat → Nat → Nat → Nat → Option (Nat × Nat × Nat)
  | 0, _, _, _, _ => none
  | fuel + 1, dx, dy, indir, lane =>
    match L.pe? dx dy with
    | none => none
    | some pe =>
      match (pe.cfg plane).route? vec indir lane with
      | none => none
      | some (0, ch) => some (dx, dy, ch)
      | some (dir, lane') =>
        match neighbour dx dy dir with
        | none => none
        | some (x, y) => L.follow plane vec fuel x y (opposite dir) lane'

/-- The consumer of an output channel: its site and input (R157). -/
def Lease.consumer (L : Lease) (plane dx dy out : Nat) : Option (Nat × Nat × Nat) :=
  match L.pe? dx dy with
  | none => none
  | some pe => L.follow plane ((pe.cfg plane).outVec out) (32 * L.pes.length) dx dy 0 out

/-- The switches that a route passes, from its first (R157, R267). -/
def Lease.path (L : Lease) (plane : Nat) (vec : Bool) : Nat → Nat → Nat → Nat → Nat → List (Nat × Nat)
  | 0, _, _, _, _ => []
  | fuel + 1, dx, dy, indir, lane =>
    match L.pe? dx dy with
    | none => []
    | some pe =>
      (dx, dy) :: (match (pe.cfg plane).route? vec indir lane with
        | none | some (0, _) => []
        | some (dir, lane') =>
          match neighbour dx dy dir with
          | none => []
          | some (x, y) => L.path plane vec fuel x y (opposite dir) lane')

/-- The switches between an output channel and its consumer, both ends' with them. -/
def Lease.channelPath (L : Lease) (plane dx dy out : Nat) : List (Nat × Nat) :=
  match L.pe? dx dy with
  | none => []
  | some pe => L.path plane ((pe.cfg plane).outVec out) (32 * L.pes.length) dx dy 0 out

/-- Whether a token meets a switch whose firewall id is not that of the switch before it (R119, R157). -/
def Lease.walled (L : Lease) (plane dx dy out : Nat) : Bool :=
  let ids := (L.channelPath plane dx dy out).map (fun c => (L.pe? c.1 c.2).map (fun pe => (pe.cfg plane).fwid))
  (ids.zip ids.tail).any (fun x => x.1 ≠ x.2)

/-- Whether the consumer of an output marks it loop-carried (R128). -/
def Lease.outIsLC (L : Lease) (plane dx dy out : Nat) : Bool :=
  match L.consumer plane dx dy out with
  | none => false
  | some (x, y, i) =>
    match L.pe? x y with
    | none => false
    | some pe => (pe.cfg plane).inLC i

/-! ### Pattern channels (R154, R261) -/

/-- A field of a pattern descriptor. -/
def patField (d : BitVec 384) (lo len : Nat) : Nat := bitsOf d.toNat lo len

/-- ENABLE. -/
def patOn (d : BitVec 384) : Bool := d.toNat.testBit 293
/-- INPUT. -/
def patInput (d : BitVec 384) : Bool := d.toNat.testBit 292
/-- EOIL. -/
def patEoil (d : BitVec 384) : Nat := patField d 289 3
/-- CHAN. -/
def patChan (d : BitVec 384) : Nat := patField d 286 3
/-- DIR: 0 load, 1 store, 2 tile fetch. -/
def patDir (d : BitVec 384) : Nat := patField d 284 2
/-- ESIZE. -/
def patEsize (d : BitVec 384) : Nat := patField d 281 3
/-- BASE. -/
def patBase (d : BitVec 384) : Nat := patField d 224 57
/-- The element count n of a counter: COUNT + 1 (R154, R155). -/
def patCount (d : BitVec 384) (q : Nat) : Nat := patField d (128 + 24 * q) 24 + 1
/-- STRIDE, signed. -/
def patStride (d : BitVec 384) (q : Nat) : Int := signedOf 32 (patField d (32 * q) 32)

/-- The patterns of the AG paired with an MU at relative coordinates, in a plane. -/
def Lease.pairedPats (L : Lease) (plane dx dy : Nat) : List (BitVec 384) :=
  match L.pe? (dx + 1) dy with
  | some ag => if ag.kind = .ag then (ag.cfg plane).pats.toList else []
  | none => []

/-- Whether an input channel of an MU is consumed by a store pattern of its AG (R261). -/
def Lease.inIsPattern (L : Lease) (plane : Nat) (pe : PE) (i : Nat) : Bool :=
  pe.kind = .mu && (L.pairedPats plane pe.dx pe.dy).any (fun d => patOn d && patDir d = 1 && patChan d = i)

/-- Whether an output channel of an MU is fed by a load or tile pattern of its AG (R261, R332). -/
def Lease.outIsPattern (L : Lease) (plane : Nat) (pe : PE) (i : Nat) : Bool :=
  pe.kind = .mu && (L.pairedPats plane pe.dx pe.dy).any (fun d => patOn d && patDir d ≠ 1 && patChan d = i)

/-- Whether an input of a CU is a row feed of a systolic region: in7 of the leftmost CU of a row, and in6 when the
active buffer is SPARSE (R323). `regionLeft` tells whether the CU stands in column 0. -/
def isFeed (pe : PE) (plane : Nat) (regionLeft : Bool) (i : Nat) : Bool :=
  pe.kind = .cu && (pe.cfg plane).sysm && regionLeft
    && (i = 7 || (i = 6 && (if pe.cu.wact then pe.cu.wbuf[1] else pe.cu.wbuf[0]).sparse))

/-! ### Systolic regions of an image (R145, R244) -/

/-- A systolic region: lower-left site, width and number of CU rows. -/
structure SysRegion where
  dx : Nat
  dy : Nat
  n : Nat
  m : Nat
deriving DecidableEq, Repr

/-- The header of an image frame: KIND, DX, DY, PLANE, WORD and the zero field (R240). -/
structure FrameHead where
  kind : Nat
  dx : Nat
  dy : Nat
  plane : Nat
  word : Nat
  zero : Nat
deriving DecidableEq, Repr

/-- Read a frame's header (R240). -/
def frameHead (f : BitVec 256) : FrameHead :=
  let n := f.toNat >>> 224
  ⟨bitsOf n 29 3, bitsOf n 22 7, bitsOf n 16 6, bitsOf n 14 2, bitsOf n 6 8, bitsOf n 0 6⟩

/-- The payload of a frame (R240). -/
def framePay (f : BitVec 256) : Nat := f.toNat % 2 ^ 224

/-- An image: its frames in image order. -/
abbrev Image := List (BitVec 256)

/-- The payload of the frame with a key, all zero where the image does not hold it (R241). -/
def imageFrame (image : Image) (kind dx dy plane word : Nat) : Nat :=
  match image.find? (fun f => decide (frameHead f = ⟨kind, dx, dy, plane, word, 0⟩)) with
  | some f => framePay f
  | none => 0

/-- The exchange-zone specification: FIRST and EVERY, if CUTV is set (R250). -/
def imageCut (image : Image) : Option (Nat × Nat) :=
  let p := imageFrame image 6 0 0 0 255
  if p.testBit 223 then some (bitsOf p 191 32, bitsOf p 159 32) else none

/-- The regions that an image declares in a plane (R244). -/
def imageRegions (image : List (BitVec 256)) (plane : Nat) : List SysRegion :=
  image.filterMap (fun f =>
    let h := frameHead f
    let p := framePay f
    if h.kind = 4 && 16 ≤ h.word && h.word ≤ 31 && h.plane = plane && p.testBit 223 then
      some ⟨bitsOf p 216 7, bitsOf p 210 6, bitsOf p 204 6 + 1, bitsOf p 200 4 + 1⟩
    else none)

/-- The region, row i and column j of a CU of a lease in a plane (R145). -/
def Lease.sysAt (L : Lease) (plane dx dy : Nat) : Option (SysRegion × Nat × Nat) :=
  match (imageRegions L.image plane).find? (fun g =>
      g.dx ≤ dx && dx < g.dx + g.n && g.dy ≤ dy && dy ≤ g.dy + 2 * g.m - 2 && (dy - g.dy) % 2 = 0) with
  | some g => some (g, (g.dy + 2 * g.m - 2 - dy) / 2, dx - g.dx)
  | none => none

/-- Whether the CU stands in column 0 of a region. -/
def Lease.sysLeft (L : Lease) (plane : Nat) (pe : PE) : Bool :=
  match L.sysAt plane pe.dx pe.dy with
  | some (_, _, j) => j = 0
  | none => false

/-! ### ERR tokens and traps (R224, R226, R230, R273) -/

/-- PAGE_FAULT_LOAD. -/
def cPageFaultLoad : Nat := 1
/-- PAGE_FAULT_STORE. -/
def cPageFaultStore : Nat := 2
/-- PERM. -/
def cPerm : Nat := 3
/-- TENANT. -/
def cTenant : Nat := 4
/-- CHECKED_REMOTE. -/
def cCheckedRemote : Nat := 5
/-- UNBACKED_OVERFLOW. -/
def cUnbackedOverflow : Nat := 6
/-- MM_CONFLICT. -/
def cMmConflict : Nat := 8
/-- MM_SATURATED. -/
def cMmSaturated : Nat := 9
/-- ECC_UNCORR. -/
def cEccUncorr : Nat := 16
/-- INTEGRITY. -/
def cIntegrity : Nat := 17
/-- PIPE_CHECK. -/
def cPipeCheck : Nat := 18
/-- FORMAT_TAG. -/
def cFormatTag : Nat := 19
/-- HANDLER_EMPTY. -/
def cHandlerEmpty : Nat := 24
/-- MARK_BUSY. -/
def cMarkBusy : Nat := 25
/-- STALL_WATCHDOG. -/
def cStallWatchdog : Nat := 26
/-- LINK_POISON. -/
def cLinkPoison : Nat := 32
/-- DIE_DOWN. -/
def cDieDown : Nat := 33
/-- POWER_FAIL. -/
def cPowerFail : Nat := 34
/-- CONTAIN_DEGRADED. -/
def cContainDegraded : Nat := 40
/-- CB_MISUSE. -/
def cCbMisuse : Nat := 41
/-- SW_TRAP. -/
def cSwTrap : Nat := 48

/-- The cause codes that R226 lists. -/
def causeListed (c : Nat) : Bool :=
  [1, 2, 3, 4, 5, 6, 8, 9, 16, 17, 18, 19, 24, 25, 26, 32, 33, 34, 40, 41, 48].contains c

/-- DATA[63:0] of an ERR token (R224). -/
def errWord (cause dx dy plane slot inv : Nat) (mem : Bool) : Word :=
  BitVec.ofNat 64 (cause % 64 * 2 ^ 58 + dx % 128 * 2 ^ 51 + dy % 64 * 2 ^ 45 + plane % 4 * 2 ^ 43
    + slot % 128 * 2 ^ 36 + inv % 65536 * 2 ^ 20 + b2n mem * 2 ^ 19)

/-- CAUSE of an ERR token's data. -/
def errCause (w : Word) : Nat := bitsOf w.toNat 58 6

/-- INV of an ERR token's data. -/
def errInv (w : Word) : Nat := bitsOf w.toNat 20 16

/-- The ERR token data of a site whose origin is a slot, or 127 (R224). -/
def siteErr (plane : Nat) (pe : PE) (cause slot : Nat) : Word := errWord cause pe.dx pe.dy plane slot pe.inv false

/-- The causes that a containment region catches (R230). -/
def containable (cause : Nat) : Bool :=
  cause = cEccUncorr || cause = cIntegrity || cause = cPipeCheck || cause = cLinkPoison

/-- Whether the low 16 bits of an invocation number lie in an open region (R227, R230). -/
def Region.holds (r : Region) (inv16 : Nat) : Bool :=
  (inv16 + 65536 - r.first % 65536) % 65536 < 32768
    && (match r.last with
        | none => true
        | some j => (j % 65536 + 65536 - inv16) % 65536 < 32768)

/-- A trap of a lease, with nothing but its ERR data: PARTYB is zero, since the one trap that names the other party of a
conflict is its port's (R188). -/
def Trap.ofErr (L : Lease) (w : Word) : Trap :=
  { tid := L.tid, lease := some L.id, cmd := none, err := w, va := 0, partyA := 0,
    partyB := 0, unconf := w.toNat.testBit 17, degr := false, port := none, req := none }

/-- Set HOLD on every input port of a lease. -/
def State.holdInputs (s : State) (lease : Nat) (b : Bool) : State :=
  { s with ports := updWhere (fun p => p.isIn && (match p.owner with
      | .mu site => site.lease = lease
      | .engine _ _ _ => false)) (fun p => { p with hold := b }) s.ports }

/-- Begin an unwind (R230 step 1): HOLD on every input port, and every running handler instance stops at once. -/
def State.beginUnwind (s : State) (L : Lease) (w : Word) : State :=
  (s.modLease L.id (fun L => { L with
    unwind := some ⟨w, 1⟩, stopIssue := true, pes := L.pes.map (fun p => { p with inst := none }) })).holdInputs L.id true

/-- Raise a trap: the one way in which the machine takes an exception (R102, R131, R230, R232, R273). A containable
cause inside an open region unwinds the region instead; a trap that falls during steps 1 to 4 of an unwind is held; every
other trap joins those on their way to the CD, which TRAP_ACTION applies in order. -/
def State.raise (s : State) (t : Trap) : State :=
  match t.lease with
  | none => { s with traps := s.traps ++ [t] }
  | some id =>
    match s.lease? id with
    | none => { s with traps := s.traps ++ [t] }
    | some L =>
      if (match L.unwind with
          | some u => decide (u.step < 5)
          | none => false) then s.modLease id (fun L => { L with heldTraps := L.heldTraps ++ [t] })
      else match L.region with
        | some r =>
          if containable (errCause t.err) && r.holds (errInv t.err) && !r.retried then s.beginUnwind L t.err
          else { s with traps := s.traps ++ [t] }
        | none => { s with traps := s.traps ++ [t] }

/-- Traps that were held are applied next: they reached the CD before those that wait there now (R86, R103, R232). -/
def State.putBack (s : State) (ts : List Trap) : State := { s with traps := ts ++ s.traps }

/-- Raise the trap of an ERR token of a lease (R131). -/
def State.raiseErr (s : State) (lease : Nat) (w : Word) : State :=
  match s.lease? lease with
  | some L => s.raise (Trap.ofErr L w)
  | none => s

/-! ### Targets (R253, R272, R273) -/

/-- The target that means none. -/
def tNone : BitVec 9 := 511

/-- The target that drops. -/
def tDrop : BitVec 9 := 400

/-- The output channel that a target names. -/
def targetOut (t : BitVec 9) : Option Nat := if 384 ≤ t.toNat ∧ t.toNat < 392 then some (t.toNat - 384) else none

/-- Put a token where a target says: an operand position of the running instance, or an output channel. -/
def PE.put (pe : PE) (plane : Nat) (t : BitVec 9) (tok : Token) : PE :=
  if t.toNat < 384 then
    match pe.inst with
    | some i => { pe with inst := some { i with ops := insertKV i.ops t.toNat tok } }
    | none => pe
  else match targetOut t with
    | some o => pe.pushOut plane o tok
    | none => pe

/-- Send one token to one target; an ERR sent to drop raises its trap (R131, R253). -/
def State.sendOne (s : State) (site : SiteRef) (plane : Nat) (t : BitVec 9) (tok : Token) : State :=
  if t = tDrop then (if tok.kind = .err then s.raiseErr site.lease tok.low else s)
  else s.modPE site (fun pe => pe.put plane t tok)

/-- Send tokens to targets; an ERR all of whose targets are none is handled as at a drop target (R273). -/
def State.emit (s : State) (site : SiteRef) (plane : Nat) (l : List (BitVec 9 × Token)) : State :=
  let s' := l.foldl (fun s p => s.sendOne site plane p.1 p.2) s
  let errs := l.filter (fun p => p.2.kind = .err)
  match errs with
  | [] => s'
  | (_, e) :: _ => if errs.all (fun p => p.1 = tNone) then s'.raiseErr site.lease e.low else s'

/-- Whether the outputs that two targets name have the free slots that sending to both takes (R126). -/
def PE.targetsFree (pe : PE) (plane : Nat) (t0 t1 : BitVec 9) : Bool :=
  match targetOut t0, targetOut t1 with
  | some a, some b =>
    if a = b then pe.outFree plane a ≥ 2 else pe.outFree plane a ≥ 1 && pe.outFree plane b ≥ 1
  | some a, none => pe.outFree plane a ≥ 1
  | none, some b => pe.outFree plane b ≥ 1
  | none, none => true

/-! ### Small operations on the rest of the state -/

/-- A fresh number of the model's own. -/
def State.fresh (s : State) : Nat × State := (s.nextId, { s with nextId := s.nextId + 1 })

/-- Any progress of a lease resets its stall count (R140). -/
def State.progress (s : State) (lease : Nat) : State :=
  s.modLease lease (fun L => { L with stall := 0, stalled := false })

/-- Count a tenant's event on a die (R100, R366). -/
def State.count (s : State) (tid die ev n : Nat) : State :=
  if s.counters.any (fun c => c.1 = tid && c.2.1 = die && c.2.2.1 = ev) then
    { s with counters := s.counters.map (fun c =>
        if c.1 = tid && c.2.1 = die && c.2.2.1 = ev then (tid, die, ev, c.2.2.2 + n) else c) }
  else { s with counters := (tid, die, ev, n) :: s.counters }

/-- A tenant's count of an event on a die. -/
def State.counter (s : State) (tid die ev : Nat) : Nat :=
  match s.counters.find? (fun c => c.1 = tid && c.2.1 = die && c.2.2.1 = ev) with
  | some c => c.2.2.2
  | none => 0

/-- Count an entry of the CD's error log. -/
def State.logError (s : State) (k : Nat) : State := { s with errorLog := insertKV s.errorLog k (lookupD s.errorLog k 0 + 1) }

/-! ### Check counters (R223) -/

/-- The check counter of a package site. -/
def State.siteCheck (s : State) (x y : Nat) : Nat :=
  match s.siteChecks.find? (fun c => c.1 = x && c.2.1 = y) with
  | some c => c.2.2
  | none => 0

/-- Whether a lease is movable (R82). -/
def State.movable (s : State) (L : Lease) : Bool :=
  (imageCut L.image).isSome && L.move.isNone
    && (s.task? L.die L.entry).any (fun t => decide (t.st = .running)) && (L.lastMove = 0 || s.fabric + 1 ≥ L.lastMove + 2 ^ 20)

/-- Whether a lease stands on a site. -/
def Lease.stands (L : Lease) (x y : Nat) : Bool := L.x ≤ x && x < L.x + L.w && L.y ≤ y && y < L.y + L.h

/-- Mark a site RETIRED: a lease on it that is not movable then runs on, and the cell is RETIRED when it leaves (R223). -/
def State.retire (s : State) (x y : Nat) : State :=
  if s.retired.contains (x, y) then s
  else { s with
    retired := s.retired ++ [(x, y)]
    runOn := s.runOn ++ (s.leases.filter (fun L => L.stands x y && !s.movable L)).map (fun L => (x, y, L.id)) }

/-- A site raises a PIPE_CHECK: its counter rises, holding at 255, and one that reaches the threshold retires it (R223). -/
def State.sitePipe (s : State) (x y : Nat) : State :=
  let n := satInc 255 (s.siteCheck x y)
  let s1 : State := { s with siteChecks := (x, y, n) :: s.siteChecks.filter (fun c => !(c.1 = x && c.2.1 = y)) }
  if n ≥ s.siteThresh then s1.retire x y else s1

/-- `sitePipe` of a site of a lease. -/
def State.pipeAt (s : State) (L : Lease) (dx dy : Nat) : State := s.sitePipe (L.x + dx) (L.y + dy)

/-- A step that comes about, to a next state. -/
abbrev nextS (s : State) : Host.Outcome State Fault Refusal := .next s

end Sys2Proof.Machine
end

