-- ==== Sys2Proof/Machine/Operands.lean ====
section
/-! DEFINITION. Operand forms: the slot that issues, its operands, immediates, and the common way in which an
instruction fires (R126, R255, R271 to R274, R299 to R303, R334). -/

namespace Sys2Proof.Machine

open Sys2Proof

/-- Everything an instruction that issues sees of its site: the place, the lease, the PE, its current plane's
configuration, the running instance and the operands held in positions L, R and P. -/
structure Site where
  site : SiteRef
  slot : Nat
  lease : Lease
  pe : PE
  cfg : PlaneCfg
  inst : Instance
  l : Option Token
  r : Option Token
  p : Option Token
deriving DecidableEq, Repr

/-- Whether a slot is one of those a handler entry owns (R123). -/
def hOwns (h : BitVec 32) (slot : Nat) : Bool := (slot + 128 - bitsOf h.toNat 11 7) % 128 ≤ bitsOf h.toNat 4 7

/-- The slots of a handler entry in ascending slot number. -/
def hSlots (h : BitVec 32) : List Nat := (List.range 128).filter (hOwns h)

/-- The operand held in a position of a slot. -/
def Instance.operand (i : Instance) (pos slot : Nat) : Option Token :=
  match i.ops.find? (fun o => o.1 = 128 * pos + slot) with
  | some o => some o.2
  | none => none

/-- The slot that issues, when its site runs an instance that may still fire it (R126). -/
def State.site? (s : State) : Option Site :=
  match s.lease? s.focus.site.lease with
  | none => none
  | some L =>
    match L.pe? s.focus.site.dx s.focus.site.dy with
    | none => none
    | some pe =>
      match pe.inst with
      | none => none
      | some i =>
        let c := pe.cfg L.plane
        if s.fabricStopped || L.stopIssue || L.parked.isSome || i.fired.contains s.focus.slot || !hOwns ((c.handlers[i.entry]?).getD 0) s.focus.slot
        then none
        else some ⟨s.focus.site, s.focus.slot, L, pe, c, i, i.operand 0 s.focus.slot, i.operand 1 s.focus.slot,
          i.operand 2 s.focus.slot⟩

/-- The instruction word in a slot of a PE in the current plane: the fetch of one instruction (R126, R252). -/
def State.slotWord (s : State) (site : SiteRef) (slot : Nat) : IWord :=
  match s.lease? site.lease with
  | none => 0
  | some L =>
    match L.pe? site.dx site.dy with
    | none => 0
    | some pe => ((pe.cfg L.plane).store[slot]?).getD 0

/-- Whether some target in the instruction's handler names a position of its slot (R271). -/
def Site.named (c : Site) (pos : Nat) : Bool :=
  (hSlots ((c.cfg.handlers[c.inst.entry]?).getD 0)).any (fun k =>
    match decodeWord ((c.cfg.store[k]?).getD 0) with
    | .ok i => i.head.t0.toNat = 128 * pos + c.slot || i.head.t1.toNat = 128 * pos + c.slot
    | .error _ => false)

/-- The positions that a firing of an instruction takes: those it uses, and the trigger L when some target names it
(R271). -/
def Site.taken (c : Site) (u : Uses) : Uses := ⟨u.l || c.named 0, u.r, u.p⟩

/-- Whether every position taken holds an operand (R126). -/
def Site.present (c : Site) (u : Uses) : Bool :=
  (!u.l || c.l.isSome) && (!u.r || c.r.isSome) && (!u.p || c.p.isSome)

/-- The operands taken, in the order L, R, P (R224, R272). -/
def Site.operands (c : Site) (u : Uses) : List Token :=
  (if u.l then c.l.toList else []) ++ (if u.r then c.r.toList else []) ++ (if u.p then c.p.toList else [])

/-- The first ERR among the operands taken, in the order L, R, P (R224, R272). -/
def Site.firstErr (c : Site) (u : Uses) : Option Token := (c.operands u).find? (fun t => t.kind = .err)

/-- Whether the predicate squashes the instruction (R126, R252, R272). -/
def Site.squashed (c : Site) (h : Head) : Bool :=
  match c.p with
  | none => false
  | some p => (h.pred = 1 && !p.data.toNat.testBit 0) || (h.pred = 2 && p.data.toNat.testBit 0)

/-- The state after the operands taken have been consumed and the slot has fired (R126). -/
def Site.consume (c : Site) (u : Uses) (s : State) : State :=
  (s.modPE c.site (fun pe => { pe with inst := pe.inst.map (fun i => { i with
      fired := c.slot :: i.fired
      ops := i.ops.filter (fun o => !((u.l && o.1 = c.slot) || (u.r && o.1 = 128 + c.slot)
        || (u.p && o.1 = 256 + c.slot))) }) })).progress c.site.lease

/-- Raise the traps of tokens that are ERRs, as at a drop target (R131, R273). -/
def Site.raiseErrs (c : Site) (ts : List Token) (s : State) : State :=
  (ts.filter (fun t => t.kind = .err)).foldl (fun s t => s.raiseErr c.site.lease t.low) s

/-- Send a result to both targets (R272). -/
def Site.reply (c : Site) (h : Head) (t : Token) (s : State) : State :=
  s.emit c.site c.lease.plane [(h.t0, t), (h.t1, t)]

/-- An ERR whose origin is the instruction's own slot (R224). -/
def Site.ownErr (c : Site) (cause : Nat) : Token := Token.ofErr (siteErr c.lease.plane c.pe cause c.slot) false

/-- Send ERR with a cause and the own slot as origin to both targets. -/
def Site.fail (c : Site) (h : Head) (cause : Nat) (s : State) : State := c.reply h (c.ownErr cause) s

/-- How an instruction fires (R126, R272): it waits until its operands and its targets' slots are there and its own
condition holds; then it takes its operands; an ERR among them goes to the targets; a squashed one stops; else it has
its effect. What waits, or cannot be issued now, leaves the state as it is. `checked` gives the positions whose ERR
stops it: all it takes, but for the exceptions of R280 and R281. An ERR in a position not checked that a squashed instruction
takes raises its trap, as one that no target receives: it is never lost silently (R273, assumption 61). -/
def fireUsing (i : Instr) (uses : Site → Uses) (checked : Uses → Uses) (ready : Site → Bool)
    (onErr : Site → Token → State → State) (body : Site → State → State) (s : State) :
    Host.Outcome State Fault Refusal :=
  match s.site? with
  | none => .next s
  | some c =>
    let u := uses c
    if !c.present u || !c.pe.targetsFree c.lease.plane i.head.t0 i.head.t1 || !ready c then .next s
    else
      let s1 := c.consume u s
      match c.firstErr (checked u) with
      | some e => .next (onErr c e s1)
      | none => if c.squashed i.head then .next (c.raiseErrs (c.operands u) s1) else .next (body c s1)

/-- `fireUsing` with the positions that the instruction's word uses (R271). -/
def fire (i : Instr) (ready : Site → Bool) (onErr : Site → Token → State → State)
    (body : Site → State → State) (s : State) : Host.Outcome State Fault Refusal :=
  fireUsing i (fun c => c.taken i.uses) (fun u => u) ready onErr body s

/-- Ready whenever the operands and the targets' slots are there. -/
def always : Site → Bool := fun _ => true

/-- An ERR operand goes to both targets (R272). -/
def errToBoth (i : Instr) (c : Site) (e : Token) (s : State) : State := c.reply i.head e s

/-- Keep the firing slot in flight (R126). -/
def Site.fly (c : Site) (op : FlightOp) (s : State) : State :=
  s.modPE c.site (fun pe => { pe with inst := pe.inst.map (fun i => { i with
    flight := ⟨c.slot, (c.cfg.store[c.slot]?).getD 0, op⟩ :: i.flight }) })

/-! ### What an instruction does to its own PE -/

/-- The effect of an instruction that touches its own PE alone: results, a keep register, a vector keep register, and
float flags. -/
structure Effect where
  out0 : Option Token
  out1 : Option Token
  keep : Option (Nat × Word)
  vreg : Option (Nat × VReg)
  flags : Flags
deriving DecidableEq, Repr

/-- The same token to both targets. -/
def Effect.both (t : Token) : Effect := ⟨some t, some t, none, none, 0⟩

/-- The effect with float flags raised. -/
def Effect.withFlags (e : Effect) (f : Flags) : Effect := { e with flags := f }

/-- Write a keep register of the current plane (R275). -/
def PE.setKeep (pe : PE) (plane k : Nat) (v : Word) : PE :=
  pe.modCfg plane (fun c => { c with keep := c.keep.setIfInBounds k v })

/-- A keep register of the current plane (R275). -/
def PlaneCfg.k (c : PlaneCfg) (i : Nat) : Word := (c.keep[i]?).getD 0

/-- The vector keep register at load (R141). -/
def VReg.load : VReg := ⟨0, 19, 0⟩

/-- A vector keep register of the current plane. -/
def PlaneCfg.v (c : PlaneCfg) (i : Nat) : VReg := (c.vkeep[i]?).getD VReg.load

/-- Write a vector keep register of the current plane (R302). -/
def PE.setVReg (pe : PE) (plane k : Nat) (v : VReg) : PE :=
  pe.modCfg plane (fun c => { c with vkeep := c.vkeep.setIfInBounds k v })

/-- Raise float flags in FLG (R143, R298). -/
def PE.raiseFlags (pe : PE) (f : Flags) : PE :=
  { pe with cu := { pe.cu with flg := pe.cu.flg ||| f.setWidth 64 } }

/-- Perform an effect: registers and flags first, then the results to the targets (R272). -/
def Site.perform (c : Site) (h : Head) (e : Effect) (s : State) : State :=
  let plane := c.lease.plane
  let s1 := s.modPE c.site (fun pe =>
    let p1 := match e.keep with
      | some (k, v) => pe.setKeep plane k v
      | none => pe
    let p2 := match e.vreg with
      | some (k, v) => p1.setVReg plane k v
      | none => p1
    p2.raiseFlags e.flags)
  s1.emit c.site plane ((e.out0.map (fun t => (h.t0, t))).toList ++ (e.out1.map (fun t => (h.t1, t))).toList)

/-- An instruction of its own PE: its effect, or FORMAT_TAG where it has none (R211, R272). -/
def fireLocal (i : Instr) (eff : Site → Option Effect) (s : State) : Host.Outcome State Fault Refusal :=
  fire i always (errToBoth i) (fun c s =>
    match eff c with
    | some e => c.perform i.head e s
    | none => c.fail i.head cFormatTag s) s

/-! ### Immediates and typed operands -/

/-- The token that an immediate stands for (R255): integers sign-extended and taken to the type's width, a57 modulo
2^57, floats as the upper bits of an f32 converted RNE. -/
def immToken (code : BitVec 5) (v : BitVec 22) : Token :=
  match Ty.ofCode code with
  | none => Token.scalar code 0
  | some t =>
    match t.ff with
    | some f =>
      let x := FF.f32.read (v.toNat * 1024)
      Token.scalar code (BitVec.ofNat 64 (f.round .rne false x false 0).1)
    | none => Token.scalar code (t.fill v.toInt)

/-- The type of a code; a reserved code never passes the placer (R256, R258). -/
def tyOf (c : BitVec 5) : Ty := (Ty.ofCode c).getD .raw512

/-- Whether a token is a scalar with a type's tag (R272, R303). -/
def Token.isScalar (t : Token) (ty : Ty) : Bool := !t.vec && t.tag = ty.tag

/-- Whether a token is a vector with a type's tag (R303). -/
def Token.isVector (t : Token) (ty : Ty) : Bool := t.vec && t.tag = ty.tag

/-- The bit pattern of a scalar operand of a type: DATA[w−1:0] (R287). -/
def Token.pat (t : Token) (ty : Ty) : Nat := t.data.toNat % 2 ^ ty.width

/-- A scalar operand that must carry a type's tag: its bit pattern (R287, R294). -/
def scalarArg (o : Option Token) (ty : Ty) : Option Nat :=
  match o with
  | some t => if t.isScalar ty then some (t.pat ty) else none
  | none => none

/-- A scalar operand that is moved and not read as a number: its bit pattern in a type's width, whatever its tag (R211, R303). -/
def scalarBits (o : Option Token) (ty : Ty) : Option Nat :=
  match o with
  | some t => if t.vec then none else some (t.pat ty)
  | none => none

/-- The R operand of format A: the immediate where there is one, else position R (R255). -/
def Site.rOrImm (c : Site) (f : FmtA) : Option Token :=
  match f.body.imm? with
  | some v => some (immToken f.ty v)
  | none => c.r

/-- A scalar integer or address result of a type (R274). -/
def intTok (ty : Ty) (v : Int) : Token := Token.scalar ty.tag (ty.fill v)

/-- A scalar result of a type whose bit pattern is given, extended under R274. -/
def patTok (ty : Ty) (p : Nat) : Token := intTok ty p

end Sys2Proof.Machine
end

