-- ==== Sys2Proof/Machine/Integer.lean ====
section
/-! DEFINITION. The integer and address instructions of group 0x20 (R286 to R292). -/

namespace Sys2Proof.Machine

open Sys2Proof

/-- An instruction of two integer operands of TYPE, with a result of TYPE (R287, R288). -/
def intBin (i : Instr) (f : FmtA) (g : Ty → Int → Int → Int) (s : State) : Host.Outcome State Fault Refusal :=
  fireLocal i (fun c =>
    let ty := tyOf f.ty
    match scalarArg c.l ty, scalarArg (c.rOrImm f) ty with
    | some a, some b => some (Effect.both (intTok ty (g ty (ty.readInt a) (ty.readInt b))))
    | _, _ => none) s

/-- An instruction of two bit patterns of TYPE, with a pattern of TYPE as result (R287, R288). -/
def patBin (i : Instr) (f : FmtA) (g : Nat → Nat → Nat → Nat) (s : State) : Host.Outcome State Fault Refusal :=
  fireLocal i (fun c =>
    let ty := tyOf f.ty
    match scalarArg c.l ty, scalarArg (c.rOrImm f) ty with
    | some a, some b => some (Effect.both (patTok ty (g ty.width a b)))
    | _, _ => none) s

/-- An instruction of one operand of TYPE: the type and the bit pattern give the result (R288). -/
def intUn (i : Instr) (f : FmtA) (g : Ty → Nat → Int) (s : State) : Host.Outcome State Fault Refusal :=
  fireLocal i (fun c =>
    let ty := tyOf f.ty
    match scalarArg c.l ty with
    | some a => some (Effect.both (intTok ty (g ty a)))
    | none => none) s

/-- ADD (R288): Wrap(a + b). -/
def execAdd (f : FmtA) (s : State) : Host.Outcome State Fault Refusal := intBin (.add f) f (fun _ a b => a + b) s
/-- SUB (R288): Wrap(a − b). -/
def execSub (f : FmtA) (s : State) : Host.Outcome State Fault Refusal := intBin (.sub f) f (fun _ a b => a - b) s
/-- MUL (R288): Wrap(a · b). -/
def execMul (f : FmtA) (s : State) : Host.Outcome State Fault Refusal := intBin (.mul f) f (fun _ a b => a * b) s
/-- MULH (R288): the high half of the exact product. -/
def execMulh (f : FmtA) (s : State) : Host.Outcome State Fault Refusal := intBin (.mulh f) f intMulh s
/-- DIV (R216, R288). -/
def execDiv (f : FmtA) (s : State) : Host.Outcome State Fault Refusal := intBin (.div f) f intDiv s
/-- REM (R216, R288). -/
def execRem (f : FmtA) (s : State) : Host.Outcome State Fault Refusal := intBin (.rem f) f (fun _ a b => intRem a b) s
/-- NEG (R288): Wrap(−a). -/
def execNeg (f : FmtA) (s : State) : Host.Outcome State Fault Refusal :=
  intUn (.neg f) f (fun t a => -t.readInt a) s
/-- ABS (R288): Wrap(|a|). -/
def execAbs (f : FmtA) (s : State) : Host.Outcome State Fault Refusal :=
  intUn (.abs f) f (fun t a => (t.readInt a).natAbs) s
/-- MIN (R288). -/
def execMin (f : FmtA) (s : State) : Host.Outcome State Fault Refusal := intBin (.min f) f (fun _ a b => min a b) s
/-- MAX (R288). -/
def execMax (f : FmtA) (s : State) : Host.Outcome State Fault Refusal := intBin (.max f) f (fun _ a b => max a b) s
/-- SATADD (R288): Clamp(a + b). -/
def execSatadd (f : FmtA) (s : State) : Host.Outcome State Fault Refusal :=
  intBin (.satadd f) f (fun t a b => t.clamp (a + b)) s
/-- SATSUB (R288): Clamp(a − b). -/
def execSatsub (f : FmtA) (s : State) : Host.Outcome State Fault Refusal :=
  intBin (.satsub f) f (fun t a b => t.clamp (a - b)) s
/-- AND (R288). -/
def execAnd (f : FmtA) (s : State) : Host.Outcome State Fault Refusal := patBin (.and f) f (fun _ a b => a &&& b) s
/-- OR (R288). -/
def execOr (f : FmtA) (s : State) : Host.Outcome State Fault Refusal := patBin (.or f) f (fun _ a b => a ||| b) s
/-- XOR (R288). -/
def execXor (f : FmtA) (s : State) : Host.Outcome State Fault Refusal := patBin (.xor f) f (fun _ a b => a ^^^ b) s
/-- ANDN (R288): pa and not pb. -/
def execAndn (f : FmtA) (s : State) : Host.Outcome State Fault Refusal :=
  patBin (.andn f) f (fun w a b => a &&& (2 ^ w - 1 - b)) s
/-- SHL (R216, R288). -/
def execShl (f : FmtA) (s : State) : Host.Outcome State Fault Refusal := patBin (.shl f) f shlP s
/-- SHR (R288). -/
def execShr (f : FmtA) (s : State) : Host.Outcome State Fault Refusal := patBin (.shr f) f shrP s
/-- SAR (R288). -/
def execSar (f : FmtA) (s : State) : Host.Outcome State Fault Refusal := patBin (.sar f) f sarP s
/-- ROT (R288). -/
def execRot (f : FmtA) (s : State) : Host.Outcome State Fault Refusal := patBin (.rot f) f rotP s
/-- CLZ (R288). -/
def execClz (f : FmtA) (s : State) : Host.Outcome State Fault Refusal := intUn (.clz f) f (fun t a => clz t.width a) s
/-- POPC (R288). -/
def execPopc (f : FmtA) (s : State) : Host.Outcome State Fault Refusal :=
  intUn (.popc f) f (fun t a => popc t.width a) s

/-- ADDC and SUBB (R289): the sum or difference to target0, the carry or borrow as n8 to target1, computed on the
unsigned patterns. -/
def carryOp (i : Instr) (f : FmtA) (g : Int → Int → Int → Int) (s : State) : Host.Outcome State Fault Refusal :=
  fireLocal i (fun c =>
    let ty := tyOf f.ty
    match scalarArg c.l ty, scalarArg (c.rOrImm f) ty, c.p with
    | some a, some b, some p =>
      let t := g a b (b2n (p.data.toNat.testBit 0))
      let out := decide (t < 0) || decide (t ≥ ((2 ^ ty.width : Nat) : Int))
      some ⟨some (intTok ty t), some (intTok .n8 (b2n out)), none, none, 0⟩
    | _, _, _ => none) s

/-- ADDC (R289). -/
def execAddc (f : FmtA) (s : State) : Host.Outcome State Fault Refusal :=
  carryOp (.addc f) f (fun a b k => a + b + k) s
/-- SUBB (R289). -/
def execSubb (f : FmtA) (s : State) : Host.Outcome State Fault Refusal :=
  carryOp (.subb f) f (fun a b k => a - b - k) s

/-- POS of a control word (R290). -/
def ctlPos (c : Nat) : Nat := bitsOf c 0 6
/-- LEN of a control word, at most 64 (R290). -/
def ctlLen (c : Nat) : Nat := min 64 (bitsOf c 6 7)

/-- The field that BFX extracts (R290). -/
def bfxField (ty : Ty) (a ctl : Nat) : Int :=
  let x := (ty.fill a).toNat
  let len := ctlLen ctl
  let fd := bitsOf x (ctlPos ctl) len
  if len = 0 then 0 else if ty.isSigned then signedOf len fd else fd

/-- The pattern that BFI makes (R290). -/
def bfiPat (ty : Ty) (a b ctl : Nat) : Nat :=
  let pos := ctlPos ctl
  let len := ctlLen ctl
  if pos ≥ ty.width ∨ len = 0 then a
  else
    let n := min (pos + len) ty.width - pos
    a - bitsOf a pos n * 2 ^ pos + b % 2 ^ n * 2 ^ pos

/-- BFX (R290): R is the control word, tagged n16. -/
def execBfx (f : FmtA) (s : State) : Host.Outcome State Fault Refusal :=
  fireLocal (.bfx f) (fun c =>
    let ty := tyOf f.ty
    match scalarArg c.l ty, scalarArg c.r .n16 with
    | some a, some k => some (Effect.both (intTok ty (bfxField ty a k)))
    | _, _ => none) s

/-- BFI (R290): P is the control word, tagged n16. -/
def execBfi (f : FmtA) (s : State) : Host.Outcome State Fault Refusal :=
  fireLocal (.bfi f) (fun c =>
    let ty := tyOf f.ty
    match scalarArg c.l ty, scalarArg c.r ty, scalarArg c.p .n16 with
    | some a, some b, some k => some (Effect.both (patTok ty (bfiPat ty a b k)))
    | _, _, _ => none) s

/-- EXT (R290): L carries TYPE2's tag; its value modulo 2^w, read as TYPE. -/
def execExt (f : FmtA) (s : State) : Host.Outcome State Fault Refusal :=
  fireLocal (.ext f) (fun c =>
    let src := tyOf f.body.ty2
    match scalarArg c.l src with
    | some a => some (Effect.both (intTok (tyOf f.ty) (src.readInt a)))
    | none => none) s

/-- The conditions of CMP: 0 EQ, 1 NE, 2 LT, 3 LE, 4 GT, 5 GE (R291). -/
def intCond (fn : Nat) (a b : Int) : Bool :=
  match fn with
  | 0 => a = b
  | 1 => a ≠ b
  | 2 => a < b
  | 3 => a ≤ b
  | 4 => b < a
  | _ => b ≤ a

/-- CMP (R291): n8 1 when the condition holds. -/
def execCmp (f : FmtA) (s : State) : Host.Outcome State Fault Refusal :=
  fireLocal (.cmp f) (fun c =>
    let ty := tyOf f.ty
    match scalarArg c.l ty, scalarArg (c.rOrImm f) ty with
    | some a, some b => some (Effect.both (intTok .n8 (b2n (intCond f.body.fn (ty.readInt a) (ty.readInt b)))))
    | _, _ => none) s

/-- ADDA (R292): (L + R) mod 2^57, R an s64 or an a57 immediate. -/
def execAdda (f : FmtA) (s : State) : Host.Outcome State Fault Refusal :=
  fireLocal (.adda f) (fun c =>
    let r : Option Int := match f.body.imm? with
      | some v => some v.toInt
      | none => (scalarArg c.r .s64).map Ty.s64.readInt
    match scalarArg c.l .a57, r with
    | some a, some b => some (Effect.both (intTok .a57 (a + b)))
    | _, _ => none) s

/-- MKADDR (R292): an address from L.DATA[47:0] and the control's DC, PKG and SELF. -/
def execMkaddr (f : FmtA) (s : State) : Host.Outcome State Fault Refusal :=
  fire (.mkaddr f) always (errToBoth (.mkaddr f)) (fun c s =>
    let ctl : Option Nat := match f.body.imm? with
      | some v => some (v.toNat % 65536)
      | none => scalarArg c.r .n16
    match scalarArg c.l .n64, ctl with
    | some a, some k =>
      let pkg := if k.testBit 15 then s.pkgNo else bitsOf k 4 6
      c.reply f.h (intTok .a57 (pkg * 2 ^ 51 + bitsOf k 0 3 * 2 ^ 48 + a % 2 ^ 48 : Nat)) s
    | _, _ => c.fail f.h cFormatTag s) s

/-- The live die that a context's DIEMAP gives a die code 0 to 3, if it is mapped (R70, R71). -/
def Ctx.dieOfCode (c : Ctx) (dc : Nat) : Option Nat :=
  match c.diemap[dc]? with
  | some d => if d < 4 then some d else none
  | none => none

/-- What DIEOF says of an address: DC, LOCAL, FAULTS and REMOTE (R292). -/
def dieofBits (pkg : Nat) (map : Nat → Option Nat) (siteDie a : Nat) : Nat :=
  let dc := bitsOf a 48 3
  let mapped := if dc < 4 then map dc else none
  dc + b2n (dc < 4 && mapped = some siteDie) * 8
    + b2n (dc = 5 || dc = 6 || (dc < 4 && mapped = none)) * 16
    + b2n (bitsOf a 51 6 ≠ pkg) * 32

/-- DIEOF (R292). -/
def execDieof (f : FmtA) (s : State) : Host.Outcome State Fault Refusal :=
  fire (.dieof f) always (errToBoth (.dieof f)) (fun c s =>
    match scalarArg c.l .a57 with
    | some a =>
      let map := fun dc => match s.ctx? c.lease.tid with
        | some x => x.dieOfCode dc
        | none => none
      c.reply f.h (intTok .n8 (dieofBits s.pkgNo map (c.lease.dieAt c.site.dx c.site.dy) a)) s
    | none => c.fail f.h cFormatTag s) s

end Sys2Proof.Machine
end

