-- ==== Sys2Proof/Machine/Flags.lean ====
section
/-! DEFINITION. The value and the float flags of every float operation (R143, R207, R212 to R215, R294 to R297): an
exact or truncated value with the flags its special results raise, then one rounding with the flags it raises. Integer
operations set no flag (R216). -/

namespace Sys2Proof.Machine

open Sys2Proof

/-- A value before its one rounding: exact, or a little above in magnitude when `sticky`, with flags raised so far. -/
structure FRes where
  v : FV
  sticky : Bool
  fl : Flags
deriving DecidableEq, Repr

/-- An exact value that raises nothing. -/
def FRes.exact (v : FV) : FRes := ⟨v, false, 0⟩

/-- NaN with NV. -/
def FRes.invalid : FRes := ⟨.nan true, false, flagNV⟩

/-- An infinity with DZ. -/
def FRes.divZero (neg : Bool) : FRes := ⟨.inf neg, false, flagDZ⟩

/-- A value with a sticky bit. -/
def FRes.of (r : FV × Bool) : FRes := ⟨r.1, r.2, 0⟩

/-- Raise further flags. -/
def FRes.raise (r : FRes) (f : Flags) : FRes := { r with fl := r.fl ||| f }

/-- Round once into a format: the code and all flags raised (R212, R214, R294). -/
def FRes.round (r : FRes) (f : FF) (mode : RMode) (sat : Bool) (st : Nat) : Nat × Flags :=
  let c := f.round mode sat r.v r.sticky st
  (c.1, r.fl ||| c.2)

/-- FADD (R295). -/
def fAdd (mode : RMode) (x y : FV) : FRes :=
  let r := FV.add mode x y
  ⟨r.1, false, r.2 ||| snanFlag [x, y]⟩

/-- FSUB (R295). -/
def fSub (mode : RMode) (x y : FV) : FRes := (fAdd mode x y.negate)

/-- FMUL (R295). -/
def fMul (x y : FV) : FRes :=
  let r := FV.mul x y
  ⟨r.1, false, r.2 ||| snanFlag [x, y]⟩

/-- Whether a product is ∞ · 0, which raises NV even beside a NaN addend (R295). -/
def infTimesZero (x y : FV) : Bool :=
  match x, y with
  | .inf _, .fin _ m _ => m = 0
  | .fin _ m _, .inf _ => m = 0
  | _, _ => false

/-- FFMA: x · y + z with one rounding (R295). -/
def fFma (mode : RMode) (x y z : FV) : FRes :=
  let p := FV.mul x y
  let r := FV.add mode p.1 z
  ⟨r.1, false, p.2 ||| r.2 ||| snanFlag [x, y, z]⟩

/-- FDIV (R295). -/
def fDiv (x y : FV) : FRes :=
  (match x, y with
   | .nan _, _ | _, .nan _ => FRes.exact (.nan true)
   | .inf _, .inf _ => FRes.invalid
   | .inf s, .fin t _ _ => FRes.exact (.inf (s != t))
   | .fin s _ _, .inf t => FRes.exact (.fin (s != t) 0 0)
   | .fin s m e, .fin t n g =>
     if n = 0 then (if m = 0 then FRes.invalid else FRes.divZero (s != t))
     else if m = 0 then FRes.exact (.fin (s != t) 0 0)
     else FRes.of (divV (s != t) m e n g)).raise (snanFlag [x, y])

/-- FSQRT (R295). -/
def fSqrt (x : FV) : FRes :=
  (match x with
   | .nan _ => FRes.exact (.nan true)
   | .inf s => if s then FRes.invalid else FRes.exact (.inf false)
   | .fin s m e => if m = 0 then FRes.exact x else if s then FRes.invalid else FRes.of (sqrtV m e)).raise (snanFlag [x])

/-- FMIN and FMAX: one NaN gives the other operand, −0 orders below +0 (R207, R295). -/
def fMinMax (isMax : Bool) (x y : FV) : FRes :=
  (match x.isNan, y.isNan with
   | true, true => FRes.exact (.nan true)
   | true, false => FRes.exact y
   | false, true => FRes.exact x
   | false, false =>
     if isMax then FRes.exact (if x.below y then y else x) else FRes.exact (if y.below x then y else x)).raise
    (snanFlag [x, y])

/-- FNEG (R295). -/
def fNeg (x : FV) : FRes := (FRes.exact x.negate).raise (snanFlag [x])

/-- FABS (R295). -/
def fAbs (x : FV) : FRes := (FRes.exact x.abs).raise (snanFlag [x])

/-- The integral magnitude that m·2^e rounds to, and whether it differs (R215, R295). -/
def roundIntegral (mode : RMode) (neg : Bool) (m : Nat) (e : Int) (st : Nat) : Nat × Bool :=
  if e ≥ 0 then (m * 2 ^ e.toNat, false)
  else
    let sh := (-e).toNat
    let n := m >>> sh
    let rem := m % 2 ^ sh
    (if roundsUp mode neg (n % 2 = 1) rem sh false st then n + 1 else n, decide (rem ≠ 0))

/-- FRND: x rounded to an integral value, the sign kept (R295). -/
def fRnd (mode : RMode) (x : FV) (st : Nat) : FRes :=
  (match x with
   | .nan _ => FRes.exact (.nan true)
   | .inf _ => FRes.exact x
   | .fin s m e =>
     if m = 0 then FRes.exact x
     else
       let r := roundIntegral mode s m e st
       ⟨.fin s r.1 0, false, flagIf r.2 flagNX⟩).raise (snanFlag [x])

/-- FSCALE: x · 2^y (R295). Beyond ±4,096 a further exponent changes no result of any format. -/
def fScale (x : FV) (y : Int) : FRes := (FRes.exact (x.scale (max (-4096) (min 4096 y)))).raise (snanFlag [x])

/-- FEXP2 (R212, R295). -/
def fExp2 (x : FV) : FRes :=
  (match x with
   | .nan _ => FRes.exact (.nan true)
   | .inf s => if s then FRes.exact (.fin false 0 0) else FRes.exact (.inf false)
   | .fin s m e => FRes.of (exp2V s m e)).raise (snanFlag [x])

/-- FLOG2 (R212, R295). -/
def fLog2 (x : FV) : FRes :=
  (match x with
   | .nan _ => FRes.exact (.nan true)
   | .inf s => if s then FRes.invalid else FRes.exact (.inf false)
   | .fin s m e => if m = 0 then FRes.divZero true else if s then FRes.invalid else FRes.of (log2V m e)).raise (snanFlag [x])

/-- FRCP (R212, R295). -/
def fRcp (x : FV) : FRes :=
  (match x with
   | .nan _ => FRes.exact (.nan true)
   | .inf s => FRes.exact (.fin s 0 0)
   | .fin s m e => if m = 0 then FRes.divZero s else FRes.of (divV s 1 0 m e)).raise (snanFlag [x])

/-- FRSQ (R212, R295). -/
def fRsq (x : FV) : FRes :=
  (match x with
   | .nan _ => FRes.exact (.nan true)
   | .inf s => if s then FRes.invalid else FRes.exact (.fin false 0 0)
   | .fin s m e => if m = 0 then FRes.divZero s else if s then FRes.invalid else FRes.of (rsqV m e)).raise (snanFlag [x])

/-- VSIGM (R212, R305). -/
def fSigm (x : FV) : FRes :=
  (match x with
   | .nan _ => FRes.exact (.nan true)
   | .inf s => if s then FRes.exact (.fin false 0 0) else FRes.exact (.fin false 1 0)
   | .fin s m e => FRes.of (sigmV s m e)).raise (snanFlag [x])

/-- The conditions of FCMP: 0 EQ, 1 NE, 2 LT, 3 LE, 4 GT, 5 GE, 6 UN, 7 OR (R296). -/
def fCond (fn : Nat) (x y : FV) : Bool :=
  let un := x.isNan || y.isNan
  let c := x.cmp y
  match fn with
  | 0 => !un && c = 0
  | 1 => un || c ≠ 0
  | 2 => !un && c < 0
  | 3 => !un && c ≤ 0
  | 4 => !un && c > 0
  | 5 => !un && c ≥ 0
  | 6 => un
  | _ => !un

/-- The class bit of FCLASS (R296). -/
def fClass (f : FF) (x : FV) : Nat :=
  match x with
  | .nan q => if q then 9 else 8
  | .inf s => if s then 0 else 7
  | .fin s m e =>
    if m = 0 then (if s then 3 else 4)
    else if f ≠ .tk8 ∧ (Nat.log2 m : Int) + e < f.emin then (if s then 2 else 5)
    else (if s then 1 else 6)

/-- A conversion between formats (R214, R297): equal formats return the code, a NaN made canonical. -/
def fCvt (dst src : FF) (mode : RMode) (sat : Bool) (c st : Nat) : Nat × Flags :=
  let x := src.read c
  if dst = src then (if x.isNan then (dst.nanCode, snanFlag [x]) else (c, 0))
  else ((FRes.exact x).raise (snanFlag [x])).round dst mode sat st

/-- Float to integer (R215): the value modulo 2^w and the flags. -/
def fToInt (dst : Ty) (mode : RMode) (x : FV) (st : Nat) : Int × Flags :=
  match x with
  | .nan _ => (0, flagNV)
  | .inf s => (if s then dst.minInt else dst.maxInt, flagNV)
  | .fin s m e =>
    if m = 0 then (0, 0)
    else
      let r := roundIntegral mode s m e st
      let v : Int := if s then -(r.1 : Int) else r.1
      if v < dst.minInt then (dst.minInt, flagNV)
      else if v > dst.maxInt then (dst.maxInt, flagNV)
      else (v, flagIf r.2 flagNX)

/-- Integer to float (R215, R297): a zero converts to +0. -/
def intToF (dst : FF) (mode : RMode) (sat : Bool) (v : Int) (st : Nat) : Nat × Flags :=
  (FRes.exact (FV.ofIntExp v 0 false)).round dst mode sat st

/-- k with its low 16 bits replaced by the seed (R213). -/
def withSeed (k : Word) (st : Nat) : Word := setField k 0 16 st

end Sys2Proof.Machine
end

