-- ==== Sys2Proof/Machine/ScalarFloat.lean ====
section
/-! DEFINITION. The scalar float instructions of group 0x40 (R293 to R298). -/

namespace Sys2Proof.Machine

open Sys2Proof

/-- The float format of TYPE; a type without one never passes the placer (R293). -/
def fmtOf (c : BitVec 5) : FF := ((Ty.ofCode c).bind Ty.ff).getD .f32

/-- A scalar float operand with a type's tag, as a value (R294). -/
def floatArg (o : Option Token) (ty : BitVec 5) : Option FV := (scalarArg o (tyOf ty)).map (fmtOf ty).read

/-- Under RSR, the keep register takes the seed after its step (R213); in other modes no register changes. -/
def seedKeep (c : Site) (b : ABody) (st : Nat) : Option (Nat × Word) :=
  if b.rm = .rsr then some (b.ksel, withSeed (c.cfg.k b.ksel) st) else none

/-- The seed that one scalar rounding takes (R213). -/
def seedOf (c : Site) (b : ABody) : Nat := rsrStep (rsrSeed (c.cfg.k b.ksel))

/-- The result of a scalar float instruction: a code of TYPE with its flags (R294). -/
def floatEffect (c : Site) (f : FmtA) (ty : Ty) (r : Nat × Flags) : Effect :=
  { Effect.both (patTok ty r.1) with keep := seedKeep c f.body (seedOf c f.body), flags := r.2 }

/-- A float instruction of L and R, rounded in RM (R294, R295). -/
def fpBin (i : Instr) (f : FmtA) (g : RMode → FV → FV → FRes) (s : State) : Host.Outcome State Fault Refusal :=
  fireLocal i (fun c =>
    match floatArg c.l f.ty, floatArg (c.rOrImm f) f.ty with
    | some x, some y => some (floatEffect c f (tyOf f.ty)
        ((g f.body.rm x y).round (fmtOf f.ty) f.body.rm false (seedOf c f.body)))
    | _, _ => none) s

/-- A float instruction of L, rounded in RM (R294, R295). -/
def fpUn (i : Instr) (f : FmtA) (g : RMode → FV → Nat → FRes) (s : State) : Host.Outcome State Fault Refusal :=
  fireLocal i (fun c =>
    match floatArg c.l f.ty with
    | some x => some (floatEffect c f (tyOf f.ty)
        ((g f.body.rm x (seedOf c f.body)).round (fmtOf f.ty) f.body.rm false (seedOf c f.body)))
    | none => none) s

/-- FADD (R295). -/
def execFadd (f : FmtA) (s : State) : Host.Outcome State Fault Refusal := fpBin (.fadd f) f fAdd s
/-- FSUB (R295). -/
def execFsub (f : FmtA) (s : State) : Host.Outcome State Fault Refusal := fpBin (.fsub f) f fSub s
/-- FMUL (R295). -/
def execFmul (f : FmtA) (s : State) : Host.Outcome State Fault Refusal := fpBin (.fmul f) f (fun _ => fMul) s
/-- FDIV (R295). -/
def execFdiv (f : FmtA) (s : State) : Host.Outcome State Fault Refusal := fpBin (.fdiv f) f (fun _ => fDiv) s
/-- FMIN (R295). -/
def execFmin (f : FmtA) (s : State) : Host.Outcome State Fault Refusal := fpBin (.fmin f) f (fun _ => fMinMax false) s
/-- FMAX (R295). -/
def execFmax (f : FmtA) (s : State) : Host.Outcome State Fault Refusal := fpBin (.fmax f) f (fun _ => fMinMax true) s

/-- FFMA (R295): x · y + P with one rounding. -/
def execFfma (f : FmtA) (s : State) : Host.Outcome State Fault Refusal :=
  fireLocal (.ffma f) (fun c =>
    match floatArg c.l f.ty, floatArg (c.rOrImm f) f.ty, floatArg c.p f.ty with
    | some x, some y, some z => some (floatEffect c f (tyOf f.ty)
        ((fFma f.body.rm x y z).round (fmtOf f.ty) f.body.rm false (seedOf c f.body)))
    | _, _, _ => none) s

/-- FSQRT (R295). -/
def execFsqrt (f : FmtA) (s : State) : Host.Outcome State Fault Refusal := fpUn (.fsqrt f) f (fun _ x _ => fSqrt x) s
/-- FNEG (R295). -/
def execFneg (f : FmtA) (s : State) : Host.Outcome State Fault Refusal := fpUn (.fneg f) f (fun _ x _ => fNeg x) s
/-- FABS (R295). -/
def execFabs (f : FmtA) (s : State) : Host.Outcome State Fault Refusal := fpUn (.fabs f) f (fun _ x _ => fAbs x) s
/-- FRND (R295). -/
def execFrnd (f : FmtA) (s : State) : Host.Outcome State Fault Refusal := fpUn (.frnd f) f fRnd s
/-- FEXP2 (R295). -/
def execFexp2 (f : FmtA) (s : State) : Host.Outcome State Fault Refusal := fpUn (.fexp2 f) f (fun _ x _ => fExp2 x) s
/-- FLOG2 (R295). -/
def execFlog2 (f : FmtA) (s : State) : Host.Outcome State Fault Refusal := fpUn (.flog2 f) f (fun _ x _ => fLog2 x) s
/-- FRCP (R295). -/
def execFrcp (f : FmtA) (s : State) : Host.Outcome State Fault Refusal := fpUn (.frcp f) f (fun _ x _ => fRcp x) s
/-- FRSQ (R295). -/
def execFrsq (f : FmtA) (s : State) : Host.Outcome State Fault Refusal := fpUn (.frsq f) f (fun _ x _ => fRsq x) s

/-- FSCALE (R295): R carries s32. -/
def execFscale (f : FmtA) (s : State) : Host.Outcome State Fault Refusal :=
  fireLocal (.fscale f) (fun c =>
    match floatArg c.l f.ty, scalarArg c.r .s32 with
    | some x, some y => some (floatEffect c f (tyOf f.ty)
        ((fScale x (Ty.s32.readInt y)).round (fmtOf f.ty) f.body.rm false (seedOf c f.body)))
    | _, _ => none) s

/-- FCMP (R296): n8 1 when the condition holds; only a NaN whose quiet bit is clear raises NV. -/
def execFcmp (f : FmtA) (s : State) : Host.Outcome State Fault Refusal :=
  fireLocal (.fcmp f) (fun c =>
    match floatArg c.l f.ty, floatArg (c.rOrImm f) f.ty with
    | some x, some y =>
      some ((Effect.both (intTok .n8 (b2n (fCond f.body.fn x y)))).withFlags (snanFlag [x, y]))
    | _, _ => none) s

/-- FCLASS (R296): n16 with one bit set; no flag. -/
def execFclass (f : FmtA) (s : State) : Host.Outcome State Fault Refusal :=
  fireLocal (.fclass f) (fun c =>
    match floatArg c.l f.ty with
    | some x => some (Effect.both (intTok .n16 (2 ^ fClass (fmtOf f.ty) x : Nat)))
    | none => none) s

/-- FCVT (R297): from TYPE2 to TYPE. -/
def execFcvt (f : FmtA) (s : State) : Host.Outcome State Fault Refusal :=
  fireLocal (.fcvt f) (fun c =>
    match scalarArg c.l (tyOf f.body.ty2) with
    | some a => some (floatEffect c f (tyOf f.ty)
        (fCvt (fmtOf f.ty) (fmtOf f.body.ty2) f.body.rm f.body.sat a (seedOf c f.body)))
    | none => none) s

/-- FTOI (R215, R297): from TYPE2 into an integer TYPE. -/
def execFtoi (f : FmtA) (s : State) : Host.Outcome State Fault Refusal :=
  fireLocal (.ftoi f) (fun c =>
    match floatArg c.l f.body.ty2 with
    | some x =>
      let r := fToInt (tyOf f.ty) f.body.rm x (seedOf c f.body)
      some (floatEffect c f (tyOf f.ty) (wrapN (tyOf f.ty).width r.1, r.2))
    | none => none) s

/-- ITOF (R215, R297): from integer TYPE2 into TYPE. -/
def execItof (f : FmtA) (s : State) : Host.Outcome State Fault Refusal :=
  fireLocal (.itof f) (fun c =>
    let src := tyOf f.body.ty2
    match scalarArg c.l src with
    | some a => some (floatEffect c f (tyOf f.ty)
        (intToF (fmtOf f.ty) f.body.rm f.body.sat (src.readInt a) (seedOf c f.body)))
    | none => none) s

/-- FFLAGS (R298): sends FLG[4:0] and, with an immediate, clears the flags of its mask. -/
def execFflags (f : FmtA) (s : State) : Host.Outcome State Fault Refusal :=
  fire (.fflags f) always (errToBoth (.fflags f)) (fun c s =>
    let mask : BitVec 64 := match f.body.imm? with
      | some v => (v.setWidth 5).setWidth 64
      | none => 0
    c.reply f.h (intTok .n64 (c.pe.cu.flg.toNat % 32 : Nat))
      (s.modPE c.site (fun pe => { pe with cu := { pe.cu with flg := pe.cu.flg &&& ~~~mask } }))) s

end Sys2Proof.Machine
end

