-- ==== Sys2Proof/Machine/Vector.lean ====
section
/-! DEFINITION. Vector operands and the vector arithmetic instructions of group 0x60 (R299 to R311). -/

namespace Sys2Proof.Machine

open Sys2Proof

/-- A vector keep register read as a token (R301). -/
def VReg.token (v : VReg) : Token := Token.vector v.tag v.scales v.data

/-- The operand that VR may replace by v[VIDX] (R301). -/
def Site.vk (c : Site) (f : FmtA) (o : Option Token) : Option Token :=
  if f.body.fn.testBit 4 then some (c.cfg.v (f.body.fn % 8)).token else o

/-- The lanes of a vector operand that must carry a type's tag (R303). -/
def vecArg (o : Option Token) (ty : Ty) : Option (List Nat) :=
  match o with
  | some t => if t.isVector ty then some (lanes ty.laneWidth t.data) else none
  | none => none

/-- The lanes of the R operand, or the immediate broadcast to every lane (R303). -/
def vecR (f : FmtA) (r : Option Token) : Option (List Nat) :=
  let ty := tyOf f.ty
  match f.body.imm? with
  | some v => some (List.replicate ty.laneCount ((immToken f.ty v).pat ty))
  | none => vecArg r ty

/-- A vector result of a type from its lanes, without scales (R303). -/
def laneTok (ty : Ty) (l : List Nat) : Token := Token.vector ty.tag 0 (ofLanes ty.laneWidth l)

/-- The keep write of VW: the result with its tag and scales (R301). -/
def vwOf (f : FmtA) (t : Token) : Option (Nat × VReg) :=
  if f.body.fn.testBit 5 then some (f.body.fn % 8, ⟨t.data, t.tag, t.scales⟩) else none

/-- A vector result to both targets, and to v[VIDX] under VW (R301). -/
def vkEffect (f : FmtA) (t : Token) : Effect := { Effect.both t with vreg := vwOf f t }

/-- The operations of R213 on a list of elements, lane 0 first: the results, all flags, and the seed after. -/
def seeded {α : Type} (g : α → Nat → Nat × Flags) : Nat → List α → List Nat × Flags × Nat
  | st, [] => ([], 0, st)
  | st, a :: l =>
    let st' := rsrStep st
    let r := g a st'
    let t := seeded g st' l
    (r.1 :: t.1, r.2 ||| t.2.1, t.2.2)

/-- The seed that an instruction starts from (R213). -/
def Site.seed (c : Site) (f : FmtA) : Nat := rsrSeed (c.cfg.k f.body.ksel)

/-- The lanes, flags and seed write of a float result of a type, each lane rounded once (R213, R303). -/
def roundLanes (c : Site) (f : FmtA) (fm : FF) (mode : RMode) (sat : Bool) (l : List FRes) :
    List Nat × Flags × Option (Nat × Word) :=
  let r := seeded (fun x st => x.round fm mode sat st) (c.seed f) l
  (r.1, r.2.1, seedKeep c f.body r.2.2)

/-- The effect of a float vector result (R303). -/
def floatLanes (c : Site) (f : FmtA) (mode : RMode) (l : List FRes) : Effect :=
  let ty := tyOf f.ty
  let r := roundLanes c f (fmtOf f.ty) mode false l
  { vkEffect f (laneTok ty r.1) with flags := r.2.1, keep := r.2.2 }

/-- An instruction of two vectors: integer lanes by value, float lanes in RM (R305). `mode` gives the rounding mode of
a row that names RM, and RNE of one that does not (its RM field is 0). -/
def vecBin (i : Instr) (f : FmtA) (gi : Ty → Int → Int → Int) (gf : RMode → FV → FV → FRes) (s : State) :
    Host.Outcome State Fault Refusal :=
  fireLocal i (fun c =>
    let ty := tyOf f.ty
    match vecArg c.l ty, vecR f (c.vk f c.r) with
    | some a, some b =>
      if ty.isInt then
        some (vkEffect f (laneTok ty (List.zipWith
          (fun x y => wrapN ty.width (gi ty (ty.readInt x) (ty.readInt y))) a b)))
      else
        let fm := fmtOf f.ty
        some (floatLanes c f f.body.rm (List.zipWith (fun x y => gf f.body.rm (fm.read x) (fm.read y)) a b))
    | _, _ => none) s

/-- An instruction of one vector, which VR may give (R305). -/
def vecUn (i : Instr) (f : FmtA) (gi : Ty → Int → Int) (gf : FV → FRes) (s : State) :
    Host.Outcome State Fault Refusal :=
  fireLocal i (fun c =>
    let ty := tyOf f.ty
    match vecArg (c.vk f c.l) ty with
    | some a =>
      if ty.isInt then some (vkEffect f (laneTok ty (a.map (fun x => wrapN ty.width (gi ty (ty.readInt x))))))
      else some (floatLanes c f f.body.rm (a.map (fun x => gf ((fmtOf f.ty).read x))))
    | none => none) s

/-- An instruction of two vectors of bit patterns (R305). -/
def vecPat (i : Instr) (f : FmtA) (g : Nat → Nat → Nat → Nat) (s : State) : Host.Outcome State Fault Refusal :=
  fireLocal i (fun c =>
    let ty := tyOf f.ty
    match vecArg c.l ty, vecR f (c.vk f c.r) with
    | some a, some b => some (vkEffect f (laneTok ty (List.zipWith (fun x y => g ty.laneWidth x y) a b)))
    | _, _ => none) s

/-- VADD (R305). -/
def execVadd (f : FmtA) (s : State) : Host.Outcome State Fault Refusal := vecBin (.vadd f) f (fun _ a b => a + b) fAdd s
/-- VSUB (R305). -/
def execVsub (f : FmtA) (s : State) : Host.Outcome State Fault Refusal := vecBin (.vsub f) f (fun _ a b => a - b) fSub s
/-- VMUL (R305). -/
def execVmul (f : FmtA) (s : State) : Host.Outcome State Fault Refusal :=
  vecBin (.vmul f) f (fun _ a b => a * b) (fun _ => fMul) s
/-- VMIN (R305). -/
def execVmin (f : FmtA) (s : State) : Host.Outcome State Fault Refusal :=
  vecBin (.vmin f) f (fun _ a b => min a b) (fun _ => fMinMax false) s
/-- VMAX (R305). -/
def execVmax (f : FmtA) (s : State) : Host.Outcome State Fault Refusal :=
  vecBin (.vmax f) f (fun _ a b => max a b) (fun _ => fMinMax true) s
/-- VSATADD (R305). -/
def execVsatadd (f : FmtA) (s : State) : Host.Outcome State Fault Refusal :=
  vecBin (.vsatadd f) f (fun t a b => t.clamp (a + b)) fAdd s
/-- VMULH (R305). -/
def execVmulh (f : FmtA) (s : State) : Host.Outcome State Fault Refusal :=
  vecBin (.vmulh f) f intMulh (fun _ => fMul) s
/-- VABS (R305). -/
def execVabs (f : FmtA) (s : State) : Host.Outcome State Fault Refusal :=
  vecUn (.vabs f) f (fun _ a => a.natAbs) fAbs s
/-- VNEG (R305). -/
def execVneg (f : FmtA) (s : State) : Host.Outcome State Fault Refusal := vecUn (.vneg f) f (fun _ a => -a) fNeg s
/-- VAND (R305). -/
def execVand (f : FmtA) (s : State) : Host.Outcome State Fault Refusal := vecPat (.vand f) f (fun _ a b => a &&& b) s
/-- VOR (R305). -/
def execVor (f : FmtA) (s : State) : Host.Outcome State Fault Refusal := vecPat (.vor f) f (fun _ a b => a ||| b) s
/-- VXOR (R305). -/
def execVxor (f : FmtA) (s : State) : Host.Outcome State Fault Refusal := vecPat (.vxor f) f (fun _ a b => a ^^^ b) s
/-- VSHL (R305). -/
def execVshl (f : FmtA) (s : State) : Host.Outcome State Fault Refusal := vecPat (.vshl f) f shlP s
/-- VSHR (R305). -/
def execVshr (f : FmtA) (s : State) : Host.Outcome State Fault Refusal := vecPat (.vshr f) f shrP s
/-- VSAR (R305). -/
def execVsar (f : FmtA) (s : State) : Host.Outcome State Fault Refusal := vecPat (.vsar f) f sarP s
/-- VEXP2 (R305). -/
def execVexp2 (f : FmtA) (s : State) : Host.Outcome State Fault Refusal := vecUn (.vexp2 f) f (fun _ a => a) fExp2 s
/-- VLOG2 (R305). -/
def execVlog2 (f : FmtA) (s : State) : Host.Outcome State Fault Refusal := vecUn (.vlog2 f) f (fun _ a => a) fLog2 s
/-- VRCP (R305). -/
def execVrcp (f : FmtA) (s : State) : Host.Outcome State Fault Refusal := vecUn (.vrcp f) f (fun _ a => a) fRcp s
/-- VRSQ (R305). -/
def execVrsq (f : FmtA) (s : State) : Host.Outcome State Fault Refusal := vecUn (.vrsq f) f (fun _ a => a) fRsq s
/-- VSIGM (R305). -/
def execVsigm (f : FmtA) (s : State) : Host.Outcome State Fault Refusal := vecUn (.vsigm f) f (fun _ a => a) fSigm s

/-- VFMA (R305): a·b + P lane i, one rounding; VR gives P. -/
def execVfma (f : FmtA) (s : State) : Host.Outcome State Fault Refusal :=
  fireLocal (.vfma f) (fun c =>
    let ty := tyOf f.ty
    let fm := fmtOf f.ty
    match vecArg c.l ty, vecR f c.r, vecArg (c.vk f c.p) ty with
    | some a, some b, some p =>
      some (floatLanes c f f.body.rm (List.zipWith
        (fun xy z => fFma f.body.rm (fm.read xy.1) (fm.read xy.2) (fm.read z)) (List.zip a b) p))
    | _, _, _ => none) s

/-- A lane mask: bit i is set where the i-th condition holds (R306). -/
def maskOf (l : List Bool) : Nat := packDigits 1 (l.map b2n)

/-- VCMP (R306): the lane mask of a condition. -/
def execVcmp (f : FmtA) (s : State) : Host.Outcome State Fault Refusal :=
  fireLocal (.vcmp f) (fun c =>
    let ty := tyOf f.ty
    let fm := fmtOf f.ty
    match vecArg c.l ty, vecR f c.r with
    | some a, some b =>
      if ty.isInt then
        some (Effect.both (intTok .n64 (maskOf (List.zipWith
          (fun x y => intCond f.body.fn (ty.readInt x) (ty.readInt y)) a b))))
      else
        some ((Effect.both (intTok .n64 (maskOf (List.zipWith
          (fun x y => fCond f.body.fn (fm.read x) (fm.read y)) a b)))).withFlags
          (snanFlag ((a ++ b).map fm.read)))
    | _, _ => none) s

/-- VSEL (R306): each lane from L or R by the bits of the scalar P. -/
def execVsel (f : FmtA) (s : State) : Host.Outcome State Fault Refusal :=
  fireLocal (.vsel f) (fun c =>
    let ty := tyOf f.ty
    match vecArg c.l ty, vecArg (c.vk f c.r) ty, c.p with
    | some a, some b, some p =>
      if p.vec then none
      else some (vkEffect f (laneTok ty ((List.range ty.laneCount).map
        (fun q => if p.data.toNat.testBit q then nth a q 0 else nth b q 0))))
    | _, _, _ => none) s

/-! ### Exact sums of products (R217, R307) -/

/-- An exact sum: a NaN among the terms gives NaN, infinities of both signs give NaN with NV, and an exactly zero sum
is +0. -/
def sumFV (l : List FV) : FV × Flags :=
  if l.any FV.isNan then (.nan true, 0)
  else
    let infs := l.filterMap (fun x => match x with
      | .inf s => some s
      | _ => none)
    if infs.contains true && infs.contains false then (.nan true, flagNV)
    else match infs with
      | s :: _ => (.inf s, 0)
      | [] =>
        let fins := l.filterMap (fun x => match x with
          | .fin s m e => if m = 0 then none else some (s, m, e)
          | _ => none)
        let lo : Int := fins.foldl (fun a x => min a x.2.2) 0
        (FV.ofIntExp (fins.foldl (fun a x => a + FV.scaledInt x.1 x.2.1 x.2.2 lo) 0) lo false, 0)

/-- The exact sum of products and further terms, with the flags that its NaN and infinity inputs raise (R217). -/
def dotFV (terms : List FV) (prods : List (FV × FV)) : FV × Flags :=
  let ps := prods.map (fun p => FV.mul p.1 p.2)
  let r := sumFV (terms ++ ps.map Prod.fst)
  (r.1, r.2 ||| ps.foldl (fun a p => a ||| p.2) 0 ||| snanFlag (terms ++ prods.map Prod.fst ++ prods.map Prod.snd))

/-- The value of an element under an E8M0 scale (R206, R208): 0xFF makes it a quiet NaN. -/
def scaled (x : FV) (scale : Nat) : FV := if scale = 255 then .nan true else x.scale ((scale : Int) - 127)

/-- Scale q of a token (R208). -/
def scaleOf (sc : BitVec 32) (q : Nat) : Nat := bitsOf sc.toNat (8 * q) 8

/-- The elements of a vector token as values, block scales applied (R208). -/
def elemValues (ty : Ty) (t : Token) : List FV :=
  match ty.ff with
  | none => []
  | some fm =>
    let ls := lanes ty.laneWidth t.data
    if ty.isMX then ls.mapIdx (fun e x => scaled (fm.read x) (scaleOf t.scales (e / 32)))
    else ls.map fm.read

/-- The pairs of formats whose products the multipliers form (R144). -/
def pairTags (a w : Ty) : Bool :=
  match a, w with
  | .bf16, .bf16 | .tk8, .tk8 | .mxf4, .mxf4 | .mxtk8, .mxtk8 => true
  | .e4m3, .e4m3 | .e4m3, .e5m2 | .e5m2, .e4m3 | .e5m2, .e5m2 => true
  | .mxe4m3, .mxe4m3 | .mxe4m3, .mxe5m2 | .mxe5m2, .mxe4m3 | .mxe5m2, .mxe5m2 => true
  | _, _ => false

/-- The type of R in VDOT: TYPE, or its partner (R307). -/
def dotPartner (ty : Ty) (t : Token) : Option Ty :=
  match Ty.ofCode t.tag with
  | some u => if t.vec && (u = ty || pairTags ty u) then some u else none
  | none => none

/-- The 16 results of VDOT over floats (R307). -/
def dotFloat (a b : List FV) (p : List Nat) : List (FRes) :=
  let g := a.length / 16
  (List.range 16).map (fun q =>
    let r := dotFV [FF.f32.read (nth p q 0)] (List.zip ((a.drop (g * q)).take g) ((b.drop (g * q)).take g))
    ⟨r.1, false, r.2⟩)

/-- The 16 results of VDOT over s8 or n8 (R307). -/
def dotInt (a b p : List Int) : List Int :=
  (List.range 16).map (fun q =>
    nth p q 0 + (List.zipWith (fun x y => x * y) ((a.drop (4 * q)).take 4) ((b.drop (4 * q)).take 4)).foldl (· + ·) 0)

/-- VDOT (R307); VR gives P. -/
def execVdot (f : FmtA) (s : State) : Host.Outcome State Fault Refusal :=
  fireLocal (.vdot f) (fun c =>
    let ty := tyOf f.ty
    if ty.isInt then
      match vecArg c.l ty, vecArg c.r ty, vecArg (c.vk f c.p) .s32 with
      | some a, some b, some p =>
        some (vkEffect f (laneTok .s32 ((dotInt (a.map ty.readInt) (b.map ty.readInt) (p.map Ty.s32.readInt)).map
          (wrapN 32))))
      | _, _, _ => none
    else
      match c.l, c.r, vecArg (c.vk f c.p) .f32 with
      | some a, some b, some p =>
        match dotPartner ty b with
        | some u =>
          if a.isVector ty then
            let r := roundLanes c f .f32 .rne false (dotFloat (elemValues ty a) (elemValues u b) p)
            some { vkEffect f (laneTok .f32 r.1) with flags := r.2.1 }
          else none
        | none => none
      | _, _, _ => none) s

/-! ### Conversions (R308 to R311) -/

/-- One lane of VCVT (R308). -/
def cvtLane (dst src : Ty) (mode : RMode) (sat : Bool) (x st : Nat) : Nat × Flags :=
  match dst.ff, src.ff with
  | some d, some u => fCvt d u mode sat x st
  | none, some u =>
    let r := fToInt dst mode (u.read x) st
    (wrapN dst.width r.1, r.2)
  | some d, none => intToF d mode sat (src.readInt x) st
  | none, none => (if sat then wrapN dst.width (dst.clamp (src.readInt x)) else x % 2 ^ dst.width, 0)

/-- VCVT (R308): from TYPE2 to TYPE, lane for lane. -/
def execVcvt (f : FmtA) (s : State) : Host.Outcome State Fault Refusal :=
  fireLocal (.vcvt f) (fun c =>
    let src := tyOf f.body.ty2
    let ty := tyOf f.ty
    match vecArg (c.vk f c.l) src with
    | some a =>
      let r := seeded (cvtLane ty src f.body.rm f.body.sat) (c.seed f) a
      some { vkEffect f (laneTok ty r.1) with flags := r.2.1, keep := seedKeep c f.body r.2.2 }
    | none => none) s

/-- Replace bits of a line. -/
def setLine (x : Line) (lo len v : Nat) : Line := setField x lo len v

/-- EMAX of an MX element format (R309). -/
def emaxOf : FF → Int
  | .e4m3 => 8
  | .e5m2 => 15
  | .tk8 => 6
  | _ => 2

/-- ⌊log2 a⌋ of a nonzero finite magnitude. -/
def floorLog2 (m : Nat) (e : Int) : Int := (Nat.log2 m : Int) + e

/-- VQUANT's block: the scale, the 32 element codes, the flags and the seed after (R309). -/
def quantBlock (fm : FF) (mode : RMode) (sat : Bool) (xs : List FV) (st : Nat) : Nat × List Nat × Flags × Nat :=
  if xs.any (fun x => match x with
      | .fin _ _ _ => false
      | _ => true) then (255, List.replicate 32 0, flagNV, st)
  else
    let logs := xs.filterMap (fun x => match x with
      | .fin _ m e => if m = 0 then none else some (floorLog2 m e)
      | _ => none)
    let x : Int := match logs with
      | [] => 0
      | a :: l => max 0 (min 254 (l.foldl max a - emaxOf fm + 127))
    let r := seeded (fun v st => fm.round mode sat (FV.scale v (127 - x)) false st) st xs
    (x.toNat, r.1, r.2.1, r.2.2)

/-- VQUANT (R309). -/
def execVquant (f : FmtA) (s : State) : Host.Outcome State Fault Refusal :=
  fireLocal (.vquant f) (fun c =>
    let ty := tyOf f.ty
    let src := tyOf f.body.ty2
    let part := f.body.fn
    let start : Option Token := if part = 0 then some (Token.vector ty.tag 0 0) else
      match c.r with
      | some t => if t.isVector ty then some t else none
      | none => none
    match vecArg c.l src, start, ty.ff with
    | some a, some t, some fm =>
      let r := quantBlock fm f.body.rm f.body.sat (a.map (fmtOf f.body.ty2).read) (c.seed f)
      let w := ty.laneWidth
      let sc := setField t.scales (8 * part) 8 r.1
      some { Effect.both (Token.vector ty.tag (if ty = .mxf4 then sc else sc &&& 0xFFFF)
          (setLine t.data (32 * w * part) (32 * w) (packDigits w r.2.1))) with
        flags := r.2.2.1, keep := seedKeep c f.body r.2.2.2 }
    | _, _, _ => none) s

/-- VDEQ (R310). -/
def execVdeq (f : FmtA) (s : State) : Host.Outcome State Fault Refusal :=
  fireLocal (.vdeq f) (fun c =>
    let ty := tyOf f.ty
    let src := tyOf f.body.ty2
    match c.l with
    | some t =>
      if t.isVector src then
        let n := ty.laneCount
        let xs := (((elemValues src t).drop (n * f.body.fn)).take n).map (fun x => (FRes.exact x).raise (snanFlag [x]))
        let r := roundLanes c f (fmtOf f.ty) f.body.rm f.body.sat xs
        some { Effect.both (laneTok ty r.1) with flags := r.2.1, keep := r.2.2 }
      else none
    | none => none) s

/-- One scale of an MX token moved by a power of two (R311). -/
def shiftScale (sc : Nat) (y : Int) : Nat × Flags :=
  if sc = 255 then (255, 0)
  else
    let v := (sc : Int) + y
    if v > 254 then (254, flagOF ||| flagNX) else if v < 0 then (0, flagUF ||| flagNX) else (v.toNat, 0)

/-- VSCALE (R311): R is a scalar s32. -/
def execVscale (f : FmtA) (s : State) : Host.Outcome State Fault Refusal :=
  fireLocal (.vscale f) (fun c =>
    let ty := tyOf f.ty
    match c.vk f c.l, scalarArg c.r .s32 with
    | some t, some yb =>
      let y := Ty.s32.readInt yb
      if !t.isVector ty then none
      else if ty.isMX then
        let used := if ty = .mxf4 then 4 else 2
        let r := (List.range used).map (fun q => shiftScale (scaleOf t.scales q) y)
        let t' := Token.vector ty.tag (BitVec.ofNat 32 (packDigits 8 (r.map Prod.fst))) t.data
        some { vkEffect f t' with flags := r.foldl (fun a x => a ||| x.2) 0 }
      else
        some (floatLanes c f f.body.rm ((lanes ty.laneWidth t.data).map (fun x => fScale ((fmtOf f.ty).read x) y)))
    | _, _ => none) s

end Sys2Proof.Machine
end

