-- ==== Sys2Proof/Machine/Dataflow.lean ====
section
/-! DEFINITION. The dataflow and control instructions of group 0x00 (R276 to R285). -/

namespace Sys2Proof.Machine

open Sys2Proof

/-- CH of a format D word. -/
def FmtD.ch (f : FmtD) : Nat :=
  match f.body with
  | .imm _ => 0
  | .regs ch _ _ => ch.toNat

/-- IDX of a format D word. -/
def FmtD.idx (f : FmtD) : Nat :=
  match f.body with
  | .imm _ => 0
  | .regs _ idx _ => idx.toNat

/-- N15 of a format D word. -/
def FmtD.n15 (f : FmtD) : Nat :=
  match f.body with
  | .imm _ => 0
  | .regs _ _ n => n.toNat

/-- Whether an input is one at which the running EOI handler sees a marker (R130, R277). -/
def Site.eoiInput (c : Site) (ch : Nat) : Bool := c.inst.eoi && c.cfg.inConn ch && !c.cfg.inLC ch

/-- Whether a DATA or ERR token stands at the head of an input. -/
def Site.tokenAt (c : Site) (ch : Nat) : Bool :=
  match c.pe.head ch with
  | some t => t.seen
  | none => false

/-- The marker's invocation number that RECV and PEEK send inside the EOI handler (R277). -/
def Site.markerTok (c : Site) (ch : Nat) : Token :=
  match c.pe.head ch with
  | some t => Token.scalar Ty.n64.tag t.low
  | none => Token.scalar Ty.n64.tag (BitVec.ofNat 64 c.pe.inv)

/-- Whether every RECV of a channel in a lower slot of the handler has fired (R277, assumption 11). -/
def Site.recvTurn (c : Site) (ch : Nat) : Bool :=
  (hSlots ((c.cfg.handlers[c.inst.entry]?).getD 0)).all (fun k =>
    !(decide (k < c.slot)) || c.inst.fired.contains k ||
    match decodeWord ((c.cfg.store[k]?).getD 0) with
    | .ok (.recv g) => decide (FmtD.ch g ≠ ch)
    | _ => true)

/-- Take the head token of an input into the running instance (R126, R277). -/
def PE.takeIn (pe : PE) (plane ch : Nat) : PE :=
  let p := pe.popIn plane ch
  { p with inst := p.inst.map (fun i => { i with took := true }) }

/-- NOP (R279): does nothing and sends nothing; it consumes a predicate. -/
def execNop (f : FmtD) (s : State) : Host.Outcome State Fault Refusal :=
  fire (.nop f) always (errToBoth (.nop f)) (fun _ s => s) s

/-- Whether an input is a feed, whose DATA and ERR tokens the systolic hardware takes and no handler (R323). -/
def Site.feed (c : Site) (ch : Nat) : Bool := isFeed c.pe c.lease.plane (c.lease.sysLeft c.lease.plane c.pe) ch

/-- RECV (R277): pops the head token and sends it unchanged; inside the EOI handler it sends the marker's number. A token of a
feed is not its to take (R323). -/
def execRecv (f : FmtD) (s : State) : Host.Outcome State Fault Refusal :=
  let ch := FmtD.ch f
  fire (.recv f) (fun c => c.eoiInput ch || (!c.feed ch && c.tokenAt ch && c.recvTurn ch)) (errToBoth (.recv f))
    (fun c s =>
      if c.eoiInput ch then c.reply f.h (c.markerTok ch) s
      else match c.pe.head ch with
        | some t => c.reply f.h t (s.modPE c.site (fun pe => pe.takeIn c.lease.plane ch))
        | none => s) s

/-- PEEK (R277): sends a copy of the head token and leaves it in place. -/
def execPeek (f : FmtD) (s : State) : Host.Outcome State Fault Refusal :=
  let ch := FmtD.ch f
  fire (.peek f) (fun c => c.eoiInput ch || c.tokenAt ch) (errToBoth (.peek f))
    (fun c s =>
      if c.eoiInput ch then c.reply f.h (c.markerTok ch) s
      else match c.pe.head ch with
        | some t => c.reply f.h t s
        | none => s) s

/-- DROP (R131, R279): discards L; an ERR in L raises its trap, since both targets are none (R273). -/
def execDrop (f : FmtD) (s : State) : Host.Outcome State Fault Refusal :=
  fire (.drop f) always (errToBoth (.drop f)) (fun _ s => s) s

/-- Push a token on an output channel that is not a target (R279). -/
def Site.pushTo (c : Site) (ch : Nat) (t : Token) (s : State) : State :=
  s.modPE c.site (fun pe => pe.pushOut c.lease.plane ch t)

/-- EMIT (R279): sends a CFG token on outCH; what is not a unit operation, or is not a scalar n64, goes as ERR. -/
def execEmit (f : FmtD) (s : State) : Host.Outcome State Fault Refusal :=
  let ch := FmtD.ch f
  fire (.emit f) (fun c => c.pe.outFree c.lease.plane ch ≥ 1) (fun c e s => c.pushTo ch e s)
    (fun c s =>
      match c.l with
      | none => s
      | some t =>
        if !t.isScalar .n64 then c.pushTo ch (c.ownErr cFormatTag) s
        else
          let op := bitsOf t.data.toNat 56 8
          if op < 2 || op > 0x7F then (c.pushTo ch (c.ownErr cPipeCheck) s).pipeAt c.lease c.site.dx c.site.dy
          else c.pushTo ch ⟨.cfg, c.cfg.outVec ch, Ty.n64.tag, 0, t.low.setWidth 512⟩ s) s

/-- MOV (R279): sends L unchanged. -/
def execMov (f : FmtD) (s : State) : Host.Outcome State Fault Refusal :=
  fireLocal (.mov f) (fun c => c.l.map Effect.both) s

/-- CONST (R279): sends the immediate tagged with TYPE. -/
def execConst (f : FmtD) (s : State) : Host.Outcome State Fault Refusal :=
  fireLocal (.const f) (fun _ =>
    match f.body with
    | .imm v => some (Effect.both (immToken f.ty v))
    | .regs _ _ _ => some (Effect.both (immToken f.ty 0))) s

/-- Send a token to one of the two targets only (R280, R281). -/
def Site.steer (c : Site) (h : Head) (first : Bool) (t : Token) (s : State) : State :=
  s.emit c.site c.lease.plane [(if first then h.t0 else h.t1, t)]

/-- The positions whose ERR stops STEER, MERGE and GATE: the selector or predicate P alone (R280, R281). -/
def onlyP (u : Uses) : Uses := ⟨false, false, u.p⟩

/-- STEER (R280): L to target0 when P.DATA[0] is 1, else to target1; an ERR in P goes to both and L is discarded; an
ERR in L goes to the chosen side only. -/
def execSteer (f : FmtD) (s : State) : Host.Outcome State Fault Refusal :=
  fireUsing (.steer f) (fun c => c.taken (Instr.steer f).uses) onlyP always (errToBoth (.steer f))
    (fun c s => match c.l, c.p with
      | some t, some p => c.steer f.h (p.data.toNat.testBit 0) t s
      | _, _ => s) s

/-- MERGE (R280): takes L if present, else R, and sends it to both targets, ERR or not. -/
def execMerge (f : FmtD) (s : State) : Host.Outcome State Fault Refusal :=
  fireUsing (.merge f) (fun c => ⟨c.l.isSome, c.l.isNone, (Instr.merge f).uses.p⟩) onlyP always
    (errToBoth (.merge f))
    (fun c s => match c.l, c.r with
      | some t, _ => c.reply f.h t s
      | none, some t => c.reply f.h t s
      | none, none => s) s

/-- SEL (R280): L when P.DATA[0] is 1, else R, to both targets. -/
def execSel (f : FmtD) (s : State) : Host.Outcome State Fault Refusal :=
  fireLocal (.sel f) (fun c =>
    match c.p with
    | some p => (if p.data.toNat.testBit 0 then c.l else c.r).map Effect.both
    | none => none) s

/-- GATE (R281): counts k[IDX] down and sends L to target0, or rearms it with N15 and sends L to target1; an ERR in L
is counted and sent like any other. -/
def execGate (f : FmtD) (s : State) : Host.Outcome State Fault Refusal :=
  fireUsing (.gate f) (fun c => c.taken (Instr.gate f).uses) onlyP always (errToBoth (.gate f))
    (fun c s => match c.l with
      | none => s
      | some t =>
        let k := c.cfg.k (FmtD.idx f)
        let k' := if k ≠ 0 then k - 1 else BitVec.ofNat 64 (FmtD.n15 f)
        c.steer f.h (k ≠ 0) t (s.modPE c.site (fun pe => pe.setKeep c.lease.plane (FmtD.idx f) k'))) s

/-- ITER (R281): sends the keep value taken to TYPE and adds N15 to it. -/
def execIter (f : FmtD) (s : State) : Host.Outcome State Fault Refusal :=
  fireLocal (.iter f) (fun c =>
    let k := c.cfg.k (FmtD.idx f)
    some { Effect.both (patTok (tyOf f.ty) k.toNat) with
      keep := some (FmtD.idx f, k + BitVec.ofNat 64 (FmtD.n15 f)) }) s

/-- KREAD (R282): sends k[IDX] as a token of TYPE. -/
def execKread (f : FmtD) (s : State) : Host.Outcome State Fault Refusal :=
  fireLocal (.kread f) (fun c => some (Effect.both (patTok (tyOf f.ty) (c.cfg.k (FmtD.idx f)).toNat))) s

/-- KWRITE (R282): sets k[IDX] to L.DATA[63:0] and sends L unchanged. -/
def execKwrite (f : FmtD) (s : State) : Host.Outcome State Fault Refusal :=
  fireLocal (.kwrite f) (fun c => c.l.map (fun t => { Effect.both t with keep := some (FmtD.idx f, t.low) })) s

/-- A scalar result of type n64. -/
def n64Tok (n : Nat) : Token := intTok .n64 n

/-- A scalar result of type n8. -/
def n8Tok (n : Nat) : Token := intTok .n8 n

/-- EOIQ (R278): 1 when the head of inCH is an EOI marker; always 0 on a loop-carried channel. -/
def execEoiq (f : FmtD) (s : State) : Host.Outcome State Fault Refusal :=
  fireLocal (.eoiq f) (fun c =>
    let ch := FmtD.ch f
    some (Effect.both (n8Tok (b2n (!c.cfg.inLC ch && (match c.pe.head ch with
      | some t => t.kind = .eoi
      | none => false)))))) s

/-- Send a control-network message to the placer and stay in flight for its reply (R283, R358). -/
def Site.control (c : Site) (m : CtrlMsg) (s : State) : State :=
  (c.fly .reply s).modLease c.site.lease (fun L => { L with ctrl := L.ctrl ++ [m] })

/-- DECIDE (R132, R283): sends the decision token that names plane IDX[1:0]. -/
def execDecide (f : FmtD) (s : State) : Host.Outcome State Fault Refusal :=
  fire (.decide f) always (errToBoth (.decide f))
    (fun c s => c.control (.decide c.site.dx c.site.dy c.slot (FmtD.idx f % 4)) s) s

/-- RETIRE (R283): asks the lease's INPUT patterns to end. -/
def execRetire (f : FmtD) (s : State) : Host.Outcome State Fault Refusal :=
  fire (.retire f) always (errToBoth (.retire f))
    (fun c s => c.control (.retire c.site.dx c.site.dy c.slot) s) s

/-- DATA and ERR tokens at the consumer end ahead of the first EOI, CFG or baton (R278). -/
def Site.ahead (c : Site) (ch : Nat) : Nat :=
  if c.eoiInput ch then 0 else ((c.pe.inEnd ch).q.takeWhile Token.seen).length

/-- What WAITC counts (R278). -/
def Site.waitCount (c : Site) (f : FmtD) : Nat :=
  if (FmtD.n15 f).testBit 14 then c.pe.outFree c.lease.plane (FmtD.ch f) else c.ahead (FmtD.ch f)

/-- The count WAITC waits for, at most the channel's depth (R278). -/
def Site.waitWant (c : Site) (f : FmtD) : Nat :=
  let vec := if (FmtD.n15 f).testBit 14 then c.cfg.outVec (FmtD.ch f) else c.cfg.inVec (FmtD.ch f)
  min (FmtD.n15 f % 8) (chDepth vec)

/-- WAITC (R278): waits until enough tokens, or free slots, are there, and sends the number counted. -/
def execWaitc (f : FmtD) (s : State) : Host.Outcome State Fault Refusal :=
  fire (.waitc f) (fun c => c.waitWant f ≤ c.waitCount f) (errToBoth (.waitc f))
    (fun c s => c.reply f.h (n64Tok (c.waitCount f)) s) s

/-- INVNUM (R285): the PE's current invocation number. -/
def execInvnum (f : FmtD) (s : State) : Host.Outcome State Fault Refusal :=
  fireLocal (.invnum f) (fun c => some (Effect.both (n64Tok c.pe.inv))) s

/-- The code of a kind in SITEID (R240, R285). -/
def kindCode : PEKind → Nat
  | .cu => 0
  | .mu => 1
  | .ag => 3

/-- SITEID (R285): relative coordinates, current plane and kind. -/
def execSiteid (f : FmtD) (s : State) : Host.Outcome State Fault Refusal :=
  fireLocal (.siteid f) (fun c => some (Effect.both (n64Tok
    (c.pe.dx % 128 + c.pe.dy % 64 * 2 ^ 8 + c.lease.plane % 4 * 2 ^ 16 + kindCode c.pe.kind * 2 ^ 18)))) s

/-- Write the MASK bit of a handler entry (R123, R284). -/
def PE.setMask (pe : PE) (plane h : Nat) (b : Bool) : PE :=
  pe.modCfg plane (fun c => { c with
    handlers := c.handlers.setIfInBounds h (setField ((c.handlers[h]?).getD 0) 30 1 (b2n b)) })

/-- HMASK and HUNMASK (R284): set or clear MASK of h[IDX] and send its previous value. -/
def maskOp (i : Instr) (f : FmtD) (b : Bool) (s : State) : Host.Outcome State Fault Refusal :=
  fire i always (errToBoth i)
    (fun c s => c.reply f.h (n8Tok (b2n (((c.cfg.handlers[FmtD.idx f]?).getD 0).toNat.testBit 30)))
      (s.modPE c.site (fun pe => pe.setMask c.lease.plane (FmtD.idx f) b))) s

/-- HMASK (R284). -/
def execHmask (f : FmtD) (s : State) : Host.Outcome State Fault Refusal := maskOp (.hmask f) f true s

/-- HUNMASK (R284). -/
def execHunmask (f : FmtD) (s : State) : Host.Outcome State Fault Refusal := maskOp (.hunmask f) f false s

/-- The code of a token kind (R129). -/
def Kind.code : Kind → Nat
  | .data => 0
  | .eoi => 1
  | .err => 2
  | .cfg => 3

/-- CHSTAT (R278): tokens and head kind of an input, or free slots of an output. -/
def execChstat (f : FmtD) (s : State) : Host.Outcome State Fault Refusal :=
  fireLocal (.chstat f) (fun c =>
    let ch := FmtD.ch f
    if (FmtD.n15 f).testBit 14 then some (Effect.both (n64Tok (c.pe.outFree c.lease.plane ch % 8)))
    else
      let q := (c.pe.inEnd ch).q
      let hd := match q.head? with
        | some t => t.kind.code * 16 + 64
        | none => 0
      some (Effect.both (n64Tok (q.length % 8 + hd)))) s

end Sys2Proof.Machine
end

