-- ==== Sys2Proof/Machine/InFlight.lean ====
section
/-! DEFINITION. Instructions in flight: finding one, answering one, and ending it (R126, R272). -/

namespace Sys2Proof.Machine

open Sys2Proof

/-- An instruction in flight, with what it needs of its site. -/
structure Air where
  site : SiteRef
  lease : Lease
  pe : PE
  inst : Instance
  fl : Flight
  h : Head
deriving DecidableEq, Repr

/-- The head of an instruction word; a word that decodes to nothing names no target. -/
def wordHead (w : IWord) : Head :=
  match decodeWord w with
  | .ok i => i.head
  | .error _ => ⟨0, tNone, tNone⟩

/-- The instruction in flight in a slot of a site. -/
def State.air? (s : State) (site : SiteRef) (slot : Nat) : Option Air :=
  match s.lease? site.lease with
  | none => none
  | some L =>
    match L.pe? site.dx site.dy with
    | none => none
    | some pe =>
      match pe.inst with
      | none => none
      | some i =>
        match i.flight.find? (fun fl => fl.slot = slot) with
        | none => none
        | some fl => some ⟨site, L, pe, i, fl, wordHead fl.word⟩

/-- Whether the targets have the slots for an answer (R126, R129). -/
def Air.free (a : Air) : Bool := a.pe.targetsFree a.lease.plane a.h.t0 a.h.t1

/-- Change the operation of an instruction in flight. -/
def State.setFlight (s : State) (site : SiteRef) (slot : Nat) (op : FlightOp) : State :=
  s.modPE site (fun pe => { pe with inst := pe.inst.map (fun i => { i with
    flight := updWhere (fun fl => fl.slot = slot) (fun fl => { fl with op := op }) i.flight }) })

/-- End an instruction in flight, sending nothing. -/
def State.endFlight (s : State) (site : SiteRef) (slot : Nat) : State :=
  (s.modPE site (fun pe => { pe with inst := pe.inst.map (fun i => { i with
    flight := i.flight.filter (fun fl => fl.slot ≠ slot) }) })).progress site.lease

/-- End an instruction in flight with its result to both targets (R272). -/
def State.land (s : State) (a : Air) (t : Token) : State :=
  (s.endFlight a.site a.fl.slot).emit a.site a.lease.plane [(a.h.t0, t), (a.h.t1, t)]

/-- An ERR whose origin is the slot of an instruction in flight (R224). -/
def Air.ownErr (a : Air) (cause : Nat) : Token := Token.ofErr (siteErr a.lease.plane a.pe cause a.fl.slot) false

/-- Answer an instruction in flight: its result goes to the targets, at once or when they have room. An instruction that
is no longer there takes no answer. -/
def State.answer (s : State) (site : SiteRef) (slot : Nat) (t : Air → Token) : State :=
  match s.air? site slot with
  | none => s
  | some a => if a.free then s.land a (t a) else s.setFlight site slot (.landing (t a))

/-- The progress of an answer that waits for room. -/
def progressLanding (a : Air) (t : Token) (s : State) : State := if a.free then s.land a t else s

end Sys2Proof.Machine
end

