-- ==== Sys2Proof/Machine/Port.lean ====
section
/-! DEFINITION. Stream ports: when a request may issue, issuing one, synchronisation-free regions, release waits and
acquire drops (R91, R151 to R153, R176, R179, R180, R183, R334, R335). -/

namespace Sys2Proof.Machine

open Sys2Proof

/-- The 64-byte line of an address. -/
def lineOf (a : Nat) : Nat := a / 64 * 64

/-- The 64 KiB page of an address. -/
def page64 (a : Nat) : Nat := a / 65536

/-- The die code of a virtual address (R160). -/
def vaDc (va : Nat) : Nat := bitsOf va 48 3

/-- The package of a virtual address (R160). -/
def vaPkg (va : Nat) : Nat := bitsOf va 51 6

/-- Requests that write, for SLSTOP and for a release (R176, R183, R335). -/
def ReqOp.writes : ReqOp → Bool
  | .store | .discard | .atomic _ | .reduce _ => true
  | _ => false

/-- Requests that retire into the side log when they are refused (R176). -/
def ReqOp.logged : ReqOp → Bool
  | .store | .discard | .reduce _ => true
  | _ => false

/-- Requests that deliver data in load order (R153, R156). -/
def ReqOp.loads : ReqOp → Bool
  | .load _ | .tfetch | .mstream | .pref => true
  | _ => false

/-- A pattern's EOI or ERR that stands among the loads, which is no request. -/
def ReqOp.isMarker : ReqOp → Bool
  | .marker _ => true
  | _ => false

/-- An atomic. -/
def ReqOp.isAtomic : ReqOp → Bool
  | .atomic _ => true
  | _ => false

/-- Whether a request has been performed. -/
def ReqStatus.performed : ReqStatus → Bool
  | .done _ _ => true
  | _ => false

/-- Whether a request stands refused at its port, or is about to (R176). -/
def ReqStatus.stuck : ReqStatus → Bool
  | .refused _ | .held _ _ | .cleared => true
  | _ => false

/-- RQN: retire-queue entries in use (R151). -/
def Port.rqn (p : Port) : Nat := (p.queue.filter (fun r => !r.op.isMarker)).length

/-- SLSTOP: the side log is full (R151, R152). -/
def Port.slstop (p : Port) : Bool := p.sideLog.length ≥ 64

/-- FHOLD: a load is held by a fault (R151, R176). -/
def Port.fhold (p : Port) : Bool := p.queue.any (fun r => (r.op.loads || r.op.isAtomic) && r.status.stuck)

/-- The requests of a port, side-log entries with them. -/
def Port.requests (p : Port) : List Req := p.queue ++ p.sideLog.map SideEntry.req

/-- Whether two requests touch a common byte (R153). -/
def Req.overlaps (a b : Req) : Bool := a.va < b.va + b.size && b.va < a.va + a.size

/-- Whether a request's bytes stand before another's in a side log, or, for a load, its page does (R152, R153, R176). -/
def Port.logBars (p : Port) (r : Req) : Bool :=
  p.sideLog.any (fun e => e.req.id < r.id && (e.req.overlaps r || ((r.op.loads || r.op.isAtomic) && page64 e.req.va = page64 r.va)))

/-- Whether the side log holds entries of a page (R152). -/
def Port.logsPage (p : Port) (va : Nat) : Bool := p.sideLog.any (fun e => page64 e.req.va = page64 va)

/-- The ports of a lease's MUs. -/
def State.leasePorts (s : State) (id : Nat) : List Port :=
  s.ports.filter (fun p => match p.owner with
    | .mu site => site.lease = id
    | .engine _ _ _ => false)

/-- Whether a lease is in steps 1 to 7 of a relocation or checkpoint: HOLD is set behind its exchange zone (R84). -/
def State.inMove (s : State) (L : Lease) : Bool :=
  match L.move with
  | some m => m.step ≥ 2 || (m.step = 1 && (s.leasePorts L.id).any (fun p => p.isIn && p.hold))
  | none => false

/-- The ports of a party. -/
def State.partyPorts (s : State) (party : Nat) : List Port := s.ports.filter (fun p => p.bound && p.party = party)

/-- Whether no acquire of the party still keeps later accesses from issuing (R183, R345). -/
def State.partyOpen (s : State) (party : Nat) : Bool :=
  (s.partyPorts party).all (fun p => p.queue.all (fun r => !r.acq))

/-- Whether the lease of a port issues nothing: it is parked, checkpointed or unwound (R99, R102, R230, R370). -/
def State.halted (s : State) (p : Port) : Bool :=
  match p.owner with
  | .mu site =>
    match s.lease? site.lease with
    | some L => L.stopIssue || L.parked.isSome
    | none => true
  | .engine _ _ _ => false

/-- Whether a port may issue a request of a kind to an address now (R91, R152, R176, R183, R335, R370,
R380). -/
def State.mayIssue (s : State) (p : Port) (op : ReqOp) (va : Nat) : Bool :=
  p.bound && !p.frozen && !s.halted p && p.fences = 0 && s.partyOpen p.party && p.rqn < 64
    && !p.queue.any (fun r => r.op.isAtomic && r.status.stuck)
    && !p.queue.any (fun r => r.status = .cleared) && !p.sideLog.any (fun e => e.req.status = .cleared)
    && !(op.writes && p.slstop)
    && (if op.logged then p.logsPage va || p.bucket ≥ 1 else !p.logsPage va && p.bucket ≥ 1)

/-! ### Synchronisation-free regions (R179, R180) -/

/-- The record of a live party. -/
def State.partyOf (s : State) (id : Nat) : Party :=
  (s.parties.find? (fun p => p.id = id)).getD ⟨id, 0, 0, false, false⟩

/-- The current SFR number of a party id. -/
def State.sfrOf (s : State) (id : Nat) : Nat := (s.partyOf id).sfr

/-- Set the record of a party id. -/
def State.setParty (s : State) (r : Party) : State :=
  if s.parties.any (fun p => p.id = r.id) then { s with parties := updWhere (fun p => p.id = r.id) (fun _ => r) s.parties }
  else { s with parties := r :: s.parties }

/-- Whether a race-tag store holds a record of a party id (R179). -/
def State.partyTagged (s : State) (id : Nat) : Bool :=
  s.raceTags.any (fun t => t.wparty = id || t.readers.any (fun r => r.1 = id) || t.spilled.any (fun r => r.1 = id))

/-- The least party id that no live party uses and that may be reused: one whose number ran out, not before no race tag
holds it (R179, assumption 12). -/
def State.freeParty (s : State) : Nat :=
  ((List.range 0xFFFE).find? (fun k =>
    let r := s.partyOf (k + 1)
    !r.live && !(r.wrapped && s.partyTagged (k + 1)))).getD 0xFFFE + 1

/-- A party begins on an id, at the SFR number that the CD keeps for it (R179). -/
def State.beginParty (s : State) (id : Nat) : State :=
  s.setParty ⟨id, (s.partyOf id).sfr, s.ticks, true, false⟩

/-- A party ends: the next number to give is the next one; where that ran out, the id is not reused while a race tag holds it, and its
number is 0 again meanwhile, so that a record of its number 0 counts as not stale: the manual does not say which number a used-up id
has (R179, R180; DESIGN CHOICE, assumption 81). -/
def State.endParty (s : State) (id : Nat) : State :=
  let r := s.partyOf id
  s.setParty ⟨id, (r.sfr + 1) % 2 ^ 32, r.began, false, r.sfr = 0xFFFFFFFF⟩

/-- End a party's SFR (R180): its number rises by one at every port; past 2^32 − 1 the party takes a new id. -/
def State.endSfr (s : State) (id : Nat) : State :=
  let r := s.partyOf id
  if r.sfr < 0xFFFFFFFF then
    let s' := s.setParty { r with sfr := r.sfr + 1, began := s.ticks }
    { s' with ports := updWhere (fun p => p.bound && p.party = id) (fun p => { p with sfr := r.sfr + 1 }) s'.ports }
  else
    let s1 := s.endParty id
    let id' := s1.freeParty
    let s2 := s1.beginParty id'
    { s2 with
      ports := updWhere (fun p => p.bound && p.party = id)
        (fun p => { p with party := id', sfr := (s2.partyOf id').sfr }) s2.ports }

/-! ### Releases and acquires (R183) -/

/-- Where a port's near cache stands: die and cluster of its MU. -/
def State.clusterAt (s : State) (p : Port) : Option (Nat × Nat) :=
  match p.owner with
  | .mu site =>
    match s.lease? site.lease with
    | some L =>
      let a := L.at_ site.dx site.dy
      some (dieOf a.1 a.2, clusterOf a.1 a.2)
    | none => none
  | .engine _ _ _ => none

/-- The number under which the near-cache hits of a cluster are counted (event 3 of R366). -/
def nearEvent (cluster : Nat) : Nat := 256 + cluster

/-- A near-cache line, if it is resident. -/
def State.near? (s : State) (at_ : Nat × Nat) (asid va : Nat) : Option NearLine :=
  s.near.find? (fun n => n.die = at_.1 && n.cluster = at_.2 && n.asid = asid && n.va = lineOf va)

/-- The writes that a release of a party waits for: every write of its ports that is not yet performed. A near cache takes a
write when its home performs it, so this holds at every scope (R183, R195, assumption 13). -/
def State.releaseWaits (s : State) (party : Nat) : List Nat :=
  (s.partyPorts party).flatMap (fun p =>
    ((p.queue.filter (fun r => r.op.writes && !r.status.performed)) ++ p.sideLog.map SideEntry.req).map Req.id)

/-- A request that has left its port and is neither performed nor refused. -/
def ReqStatus.away : ReqStatus → Bool
  | .sent | .abroad | .miss | .walking _ _ _ _ | .backInv | .raceWait _ | .satWait _ => true
  | _ => false

/-- What a release of a port waits for: the writes of its party, and the port's own loads that have not read their home, which
it follows in party order (R181 to R183). -/
def State.portWaits (s : State) (p : Port) : List Nat :=
  (p.queue.filter (fun r => r.op.loads && r.op ≠ .pref && r.status.away)).map Req.id ++ s.releaseWaits p.party

/-- The loads of a port that have not been returned. -/
def Port.loadsOut (p : Port) : List Nat :=
  (p.queue.filter (fun r => r.op.loads && r.op ≠ .pref)).map Req.id

/-- What a fence with an acquire half follows at its port: its loads, and its atomics, each of which reads (R184, R347). -/
def Port.readsOut (p : Port) : List Nat :=
  (p.queue.filter (fun r => (r.op.loads || r.op.isAtomic) && r.op ≠ .pref)).map Req.id

/-- Whether a request that a release waits for has been performed, or is a load that is refused (R183, R195). -/
def State.settled (s : State) (id : Nat) : Bool :=
  s.ports.all (fun p => p.queue.all (fun r => r.id ≠ id || r.status.performed || (r.op.loads && !r.status.away))
    && p.sideLog.all (fun e => e.req.id ≠ id))

/-- Whether what an acquire half of a fence follows has been performed: a load that its port holds has not (R184, R347). -/
def State.readNow (s : State) (id : Nat) : Bool := s.ports.all (fun p => p.queue.all (fun r => r.id ≠ id || r.status.performed))

/-- Whether a load has been returned (R348). -/
def State.returned (s : State) (id : Nat) : Bool := s.ports.all (fun p => p.queue.all (fun r => r.id ≠ id))

/-- The drops of an acquire of a party at a scope, on every die and near cache through which it issues (R183). -/
def State.acquire (s : State) (party : Nat) (scope : BitVec 3) : State :=
  let ps := s.partyPorts party
  let clusters := ps.filterMap (fun p => s.clusterAt p)
  let near := if scope = 0 then s.near
    else s.near.filter (fun n => n.ro || !clusters.contains (n.die, n.cluster))
  let rrc := if scope.toNat < 2 then s.rrc
    else s.rrc.filter (fun n => n.tracked || !ps.any (fun p => p.die = n.die && p.asid = n.asid))
  { s with near := near, rrc := rrc }

/-! ### Near caches (R171) -/

/-- Bytes of a line at an offset replaced by the low bytes of a value. -/
def lineSet (l : Line) (off n : Nat) (v : Nat) : Line := setField l (8 * off) (8 * n) v

/-- Bytes of a line at an offset. -/
def lineGet (l : Line) (off n : Nat) : Nat := bitsOf l.toNat (8 * off) (8 * n)

/-- The new value of a read-modify-write on bit patterns of a type (R344, R345). -/
def rmwValue (op : RmwOp) (ty : Ty) (old b expected : Nat) : Nat :=
  match op with
  | .add => wrapN ty.width (ty.readInt old + ty.readInt b)
  | .min => wrapN ty.width (min (ty.readInt old) (ty.readInt b))
  | .max => wrapN ty.width (max (ty.readInt old) (ty.readInt b))
  | .and => old &&& b
  | .or => old ||| b
  | .xor => old ^^^ b
  | .swap => b
  | .cas => if old = expected then b else old
  | .fadd =>
    match ty.ff with
    | some fm => (fm.round .rne false (FV.add .rne (fm.read old) (fm.read b)).1 false 0).1
    | none => old

/-- The line after a write-class request has acted on it. -/
def Req.apply (r : Req) (l : Line) : Line :=
  let off := r.va % 64
  let ty := (Ty.ofCode r.ty).getD .n64
  match r.op with
  | .store => lineSet l off r.size (r.data.toNat % 2 ^ (8 * r.size))
  | .discard => 0
  | .atomic op | .reduce op =>
    lineSet l off r.size (rmwValue op ty (lineGet l off r.size) (r.data.toNat % 2 ^ (8 * r.size))
      (r.expected.toNat % 2 ^ (8 * r.size)))
  | _ => l

/-! ### Requests, and held ones let go (R102, R176, R380) -/

/-- The request that a port issues for a site: a fresh number, the port's party and SFR, and the origin for traps
(R180, R374). -/
def Port.request (p : Port) (id : Nat) (origin : Word) (inv : Nat) (op : ReqOp) (va size : Nat) (ty : BitVec 5)
    (vec : Bool) (data : Line) (dest : Dest) : Req :=
  { id := id, origin := origin, after := [], op := op, va := va, size := size, ty := ty, vec := vec, data := data,
    expected := 0, poison := none, party := p.party, sfr := p.sfr, inv := inv, scope := 0, acq := false,
    toScratch := none, dest := dest, leaf := none, ownDie := false, ofPat := false, again := false, noFill := false, status := .sent }

/-- Whether a request stands refused with a cause. -/
def ReqStatus.heldFor : ReqStatus → Bool
  | .held c _ => c ≠ 0
  | _ => false

/-- A held request that raised no trap of its own goes on with those of its page (R176). -/
def Req.follow (r : Req) : Req :=
  match r.status with
  | .held 0 _ => { r with status := .cleared }
  | _ => r

/-- A side log whose entries replay in order: none behind an entry that is held for a cause goes on (R176). -/
def yields : List SideEntry → List SideEntry
  | [] => []
  | e :: l =>
    if e.req.status.heldFor then
      e :: l.map (fun x => if x.req.status = .cleared then { x with req := { x.req with status := .held 0 false } } else x)
    else e :: yields l

/-- The entries of a side log before the first that is held for a cause go on (R176, R380). -/
def follows : List SideEntry → List SideEntry
  | [] => []
  | e :: l => if e.req.status.heldFor then e :: l else { e with req := e.req.follow } :: follows l

/-- Whether a side log holds an entry of a page that is held for a cause. -/
def stopsPage (log : List SideEntry) (va : Nat) : Bool := log.any (fun e => page64 e.req.va = page64 va && e.req.status.heldFor)

/-- The condition of some requests of a port that REPLAY holds has cleared: they are issued again in their original order, and so are
those that waited for them without a trap of their own (R102, R176, R380). -/
def Port.release (p : Port) (clears : Req → Nat → Bool) : Port :=
  let go := fun (r : Req) => match r.status with
    | .held c true => if clears r c then { r with status := .cleared } else r
    | _ => r
  let log := yields (follows (p.sideLog.map (fun e => { e with req := go e.req })))
  { p with sideLog := log, queue := p.queue.map (fun r => if stopsPage log r.va then go r else (go r).follow) }

/-- The requests held for REPLAY, for causes of a kind, of a tenant's ports are let go (R102, R196, R380). -/
def State.releaseReplay (s : State) (tids : Nat → Bool) (causes : Nat → Bool) : State :=
  { s with ports := updWhere (fun p => tids p.ctx) (fun p => p.release (fun _ c => causes c)) s.ports }

/-- The translation and access causes that an XLFENCE, an XLINV or a late frame assignment clears (R102). -/
def replayAccess (c : Nat) : Bool := c = cPageFaultLoad || c = cPageFaultStore || c = cPerm || c = cUnbackedOverflow

/-- Change the fence count of the ports that a fence blocks: the party's for an acquire half, else its own port's
(R183, R347). -/
def State.fenceCount (s : State) (port party : Nat) (wide up : Bool) : State :=
  { s with
    ports := updWhere (fun p => if wide then p.bound && p.party = party else p.id = port)
      (fun p => { p with fences := if up then p.fences + 1 else p.fences - 1 }) s.ports }

/-! ### REDO regions (R227 to R229) -/

/-- An ERR word whose cause is filled in. -/
def withCause (origin : Word) (cause : Nat) : Word := setField origin 58 6 cause

/-- The open region of a lease that holds an invocation (R227). -/
def State.regionAt (s : State) (lease inv : Nat) : Option Region :=
  match s.lease? lease with
  | some L => L.region.filter (fun r => r.holds (inv % 65536))
  | none => none

/-- A REDO region degrades to KILL: the undo logs are discarded and CONTAIN_DEGRADED is raised (R229). -/
def State.degrade (s : State) (lease inv : Nat) (origin : Word) : State :=
  match s.lease? lease, s.regionAt lease inv with
  | some L, some r =>
    if !r.redo then s
    else
      let s1 := s.modLease lease (fun L => { L with region := L.region.map (fun r => { r with redo := false, degr := true }) })
      let s2 : State := { s1 with
        ports := updWhere (fun p => match p.owner with
          | .mu site => site.lease = lease
          | .engine _ _ _ => false) (fun p => { p with undo := [] }) s1.ports }
      s2.raise { Trap.ofErr L (withCause origin cContainDegraded) with degr := true }
  | _, _ => s

/-! ### Ports that are bound and unbound (R85, R89, R371) -/

/-- The least PORTID that no port of the package has: PORTIDs are package-unique, and there are fewer ports than their 16 bits number
(R151, assumption 66). -/
def State.freePort (s : State) : Nat :=
  ((List.range (s.ports.length + 1)).find? (fun k => !s.ports.any (fun p => p.id = k + 1))).getD s.ports.length + 1

/-- A port as it is bound: nothing issued, its bucket empty till the next refill, and pattern g0 the first of the rotation: R155 counts
from the pattern that issued last and gives no first one (R93, R151; DESIGN CHOICE, assumption 78). -/
def Port.fresh (id : Nat) (owner : PortOwner) (die tid asid party sfr pgrp : Nat) (isIn : Bool) : Port :=
  { id := id, owner := owner, die := die, bound := true, isIn := isIn, pgrp := pgrp, ctx := tid, asid := asid
    party := party, sfr := sfr, bucket := 0, frozen := false, hold := false, queue := [], sideLog := [], undo := []
    live := Vector.replicate 4 ⟨0, 0, 0, 0, false, 0, false⟩, lastPat := 3, snaps := []
    fetch := Vector.replicate 8 ⟨.empty, 0, [], [], [], 0, false⟩, fences := 0, issued := false }

/-- Tokens returned to a die's carry (R371). -/
def State.addCarry (s : State) (die n : Nat) : State :=
  { s with budgets := updWhere (fun b => b.die = die) (fun b => { b with carry := b.carry + n }) s.budgets }

/-- Unbind a port: its tokens go to the die's carry; what has left it goes on to its home, its reply discarded; what has
not is discarded; a side-log entry that has been sent again has left it (R89, R371). -/
def State.closePort (s : State) (id : Nat) : State :=
  match s.port? id with
  | none => s
  | some p =>
    let gone := fun (r : Req) => r.status.away && !r.op.isMarker && r.after.all s.settled
    let q := (p.requests.filter gone).map (fun r => { r with dest := .none, toScratch := none })
    let s1 := s.addCarry p.die p.bucket
    let s2 : State := { s1 with l2 := s1.l2.map (fun l => { l with pins := l.pins.filter (fun x => x.1 ≠ id) }) }
    if q.isEmpty then { s2 with ports := s2.ports.filter (fun p => p.id ≠ id) }
    else s2.modPort id (fun p => { p with
      bound := false, queue := q, sideLog := [], undo := [], bucket := 0, fences := 0, hold := false })

end Sys2Proof.Machine
end

