-- ==== Sys2Proof/Machine/Lines.lean ====
section
/-! DEFINITION. Physical lines: where a line lives, what it holds, the L2 slices and unbacked lines (R20, R21, R161,
R169, R172 to R174, R225). -/

namespace Sys2Proof.Machine

open Sys2Proof

/-! ### Physical addresses (R161) -/

/-- The DIE field of a physical address. -/
def paDie (pa : Nat) : Nat := bitsOf pa 43 3

/-- The PKG field of a physical address. -/
def paPkg (pa : Nat) : Nat := bitsOf pa 46 6

/-- The die-local offset of a physical address. -/
def paOff (pa : Nat) : Nat := pa % 2 ^ 43

/-- The physical address of an offset on a die of a package. -/
def paOf (pkg die off : Nat) : Nat := pkg * 2 ^ 46 + die * 2 ^ 43 + off

/-- Where a line is at home. -/
inductive HomeKind where
  | hbm | vault | cd | host
deriving DecidableEq, Repr

/-- Whether an offset is in a die's vault space (R161). -/
def inVaults (off : Nat) : Bool := 2 ^ 40 ≤ off && off < 2 ^ 40 + 2 ^ 30

/-- The kind of home of a valid physical address (R161). -/
def homeKind (pa : Nat) : HomeKind :=
  if paDie pa = 4 then .cd else if paDie pa = 5 then .host else if inVaults (paOff pa) then .vault else .hbm

/-- Whether a cluster of a live die is fused off (R2, R27). -/
def State.isHole (s : State) (die cluster : Nat) : Bool := ((s.fuses.holes[die]?).getD 0).toNat.testBit cluster

/-- Whether a physical address names memory that this part has (R18, R161). -/
def State.validPa (s : State) (pa : Nat) : Bool :=
  if paDie pa = 4 || paDie pa = 5 then true
  else paDie pa < s.fuses.nlive &&
    (paOff pa < 2 ^ 37 || (inVaults (paOff pa) && !s.isHole (paDie pa) ((paOff pa - 2 ^ 40) / 2 ^ 24)))

/-! ### Lines -/

/-- A home line as an access names it: the die whose L2 may hold it, its key, the kind of its home, and the key slot of the page
(R68). -/
structure Loc where
  die : Nat
  key : LineKey
  kind : HomeKind
  slot : Nat
deriving DecidableEq, Repr

/-- The location of a physical line, read in plain. -/
def locOf (pa : Nat) : Loc := ⟨paDie pa, .frame (lineOf pa), homeKind pa, 0⟩

/-- The physical address of a line that has one. -/
def LineKey.pa? : LineKey → Option Nat
  | .frame pa => some pa
  | .unb _ _ => none

/-- The die-local offset by which a line is placed (R20, R169, R173). -/
def LineKey.off : LineKey → Nat
  | .frame pa => paOff pa
  | .unb _ off => off

/-- A number for a line: its physical address, or one above every physical address for a line of an unbacked page, which
names its holding die too (R170, R173). -/
def Loc.num (l : Loc) : Nat :=
  match l.key with
  | .frame pa => pa
  | .unb tid off => 2 ^ 60 + l.die * 2 ^ 56 + tid * 2 ^ 44 + off

/-- The home die of a numbered line. -/
def numDie (n : Nat) : Nat := if n < 2 ^ 60 then paDie n else bitsOf n 56 3

/-- The die-local offset of a numbered line. -/
def numOff (n : Nat) : Nat := if n < 2 ^ 60 then paOff n else n % 2 ^ 44

/-- Whether a line belongs to an unbacked page. -/
def LineKey.isUnb : LineKey → Bool
  | .frame _ => false
  | .unb _ _ => true

/-- The home slice of an offset (R20). -/
def sliceOf (off : Nat) : Nat := off / 256 % 64

/-- The L2 set of an offset (R169). -/
def setOf (off : Nat) : Nat := (4 * (off / 2 ^ 14) + bitsOf off 6 2) % 8192

/-- The L2 line of a location. -/
def State.l2? (s : State) (die : Nat) (key : LineKey) : Option L2Line :=
  s.l2.find? (fun l => l.die = die && decide (l.key = key))

/-- Change an L2 line. -/
def State.modL2 (s : State) (die : Nat) (key : LineKey) (f : L2Line → L2Line) : State :=
  { s with l2 := updWhere (fun l => l.die = die && decide (l.key = key)) f s.l2 }

/-- Set or clear membership of a number in a list. -/
def setMember (l : List Nat) (k : Nat) (b : Bool) : List Nat :=
  let l' := l.filter (fun x => x ≠ k)
  if b then k :: l' else l'

/-- Write a line and its poison mark to memory. -/
def State.putMem (s : State) (pa : Nat) (v : Line) (poison : Bool) : State :=
  { s with mem := memPutLine s.mem pa v, poisoned := setMember s.poisoned pa poison }

/-- What a location holds: its bytes and its poison mark. A line of an unbacked page that is not resident reads as
zero (R174). -/
def State.getLine (s : State) (loc : Loc) : Line × Bool :=
  match s.l2? loc.die loc.key with
  | some l => (l.data, l.poison)
  | none =>
    match loc.key with
    | .frame pa => (memLine s.mem pa, s.poisoned.contains pa)
    | .unb _ _ => (0, false)

/-- What a physical line holds. -/
def State.peek (s : State) (pa : Nat) : Line × Bool := s.getLine (locOf pa)

/-! ### Key slots (R68) -/

/-- The keys that a slot of a die holds. -/
def State.keyOf (s : State) (die slot : Nat) : List Byte :=
  match s.keys.find? (fun k => k.1 = die && k.2.1 = slot) with
  | some k => k.2.2
  | none => []

/-- The key that a line of memory is encrypted under. -/
def State.sealOf (s : State) (pa : Nat) : Option (List Byte) := (s.sealed.find? (fun x => x.1 = pa)).map Prod.snd

/-- A line as memory holds it. -/
def State.cipherOf (s : State) (pa : Nat) (v : Line) : Line :=
  match s.sealOf pa with
  | some k => Config.xts k pa v
  | none => v

/-- The tag of a line of memory. -/
def State.tagOf (s : State) (pa : Nat) (v : Line) : BitVec 32 :=
  match s.sealOf pa with
  | some k => Config.integrityTag k pa (Config.xts k pa v)
  | none => lookupD s.tags pa (Config.bareTag pa)

/-- A line stands in memory under a key. -/
def State.sealUnder (s : State) (pa : Nat) (k : List Byte) : State :=
  { s with sealed := insertKV s.sealed pa k, tags := s.tags.filter (fun x => x.1 ≠ pa) }

/-- A line stands in memory as it is, beside a tag. -/
def State.bared (s : State) (pa : Nat) (t : BitVec 32) : State :=
  { s with sealed := s.sealed.filter (fun x => x.1 ≠ pa), tags := insertKV s.tags pa t }

/-- A line is written under the key slot of an access: encrypted, with a new tag, where the slot is not 0 (R68). -/
def State.sealLine (s : State) (loc : Loc) : State :=
  match loc.key with
  | .unb _ _ => s
  | .frame pa =>
    if loc.kind = .host then s
    else if loc.slot ≠ 0 then s.sealUnder pa (s.keyOf loc.die loc.slot)
    else if (s.sealOf pa).isNone then s
    else s.bared pa (s.tagOf pa (s.getLine loc).1)

/-- Write a line at its home, in its L2 line where one is resident, under the key slot of the access (R68). -/
def State.putLine (s0 : State) (loc : Loc) (v : Line) (poison : Bool) : State :=
  let s := s0.sealLine loc
  match s.l2? loc.die loc.key with
  | some _ => s.modL2 loc.die loc.key (fun l => { l with data := v, poison := poison, dirty := true })
  | none =>
    match loc.key with
    | .frame pa => s.putMem pa v poison
    | .unb _ _ => { s with l2 := ⟨loc.die, loc.key, v, true, poison, []⟩ :: s.l2 }

/-- A poison record (R225). -/
def poisonRecord (w : Word) : Line := w.setWidth 512

/-- Eight aligned bytes of physical memory, unless their line is poisoned. -/
def State.readWord (s : State) (pa : Nat) : Option Word :=
  let l := s.peek (lineOf pa)
  if l.2 then none else some (BitVec.ofNat 64 (lineGet l.1 (pa % 64) 8))

/-- Write eight aligned bytes of physical memory. -/
def State.writeWord (s : State) (pa : Nat) (w : Word) : State :=
  s.putLine (locOf pa) (lineSet (s.peek (lineOf pa)).1 (pa % 64) 8 w.toNat) (s.peek (lineOf pa)).2

/-! ### L2 ways (R156, R169, R173, R174) -/

/-- The ways of each set of a slice that are in use (R238). -/
def State.ways (s : State) (die slice : Nat) : Nat :=
  16 - (s.waysOut.filter (fun w => w.1 = die && w.2.1 = slice)).length

/-- The lines of the set of an offset. -/
def State.setLines (s : State) (die off : Nat) : List L2Line :=
  s.l2.filter (fun l => l.die = die && sliceOf l.key.off = sliceOf off && setOf l.key.off = setOf off)

/-- Remove a line from the L2, writing it back when it is a dirty line of a frame. -/
def State.evict (s : State) (l : L2Line) : State :=
  let s' := { s with l2 := s.l2.filter (fun x => !(x.die = l.die && decide (x.key = l.key))) }
  match l.key with
  | .frame pa => if l.dirty then s'.putMem pa l.data l.poison else s'
  | .unb _ _ => s'

/-- The ways of each set that contexts have reserved (R174). -/
def State.reservedWays (s : State) : Nat := sumN (s.ctxs.map Ctx.unbways)

/-- The ways of a set that pins and reservations leave to no ordinary line: the pinned ones, and the reserved ones or those that
unbacked lines hold, if more (R156, R174). -/
def State.fixedWays (s : State) (die off : Nat) : Nat :=
  let ls := s.setLines die off
  (ls.filter (fun l => !l.key.isUnb && !l.pins.isEmpty)).length + max s.reservedWays (ls.filter (fun l => l.key.isUnb)).length

/-- A free way in the set of an offset, made where a line that is neither pinned nor unbacked can go; which of them goes is the
machine's choice, `pick`. Where every way is pinned or reserved an ordinary line finds none (R156, R174). -/
def State.makeRoom (s : State) (die off pick : Nat) (unb : Bool) : Option State :=
  let ls := s.setLines die off
  if !unb && s.ways die (sliceOf off) ≤ s.fixedWays die off then none
  else if ls.length < s.ways die (sliceOf off) then some s
  else
    let vs := ls.filter (fun l => !l.key.isUnb && l.pins.isEmpty)
    match vs[pick % vs.length]? with
    | some v => some (s.evict v)
    | none => none

/-- The poison record of a line that memory does not give back, with the origin of its reader (R69, R225). -/
def codeRecord (cause : Nat) (origin : Word) (tagne : Bool) : Line :=
  poisonRecord (errWord cause 0 0 0 127 0 true ||| (origin &&& 0x03FFF80FFFF00000) ||| (if tagne then 0x40000 else 0))

/-- A line is read from memory under a key slot: in plain, as it stands; else under the slot's key, where its tag matches, and
poisoned where it does not (R68, R69). -/
def State.underSlot (s : State) (pa : Nat) (loc : Loc) (origin : Word) : State :=
  let v := memLine s.mem pa
  let k := s.keyOf loc.die loc.slot
  if loc.kind = .host || s.poisoned.contains pa || s.sealOf pa = (if loc.slot = 0 then none else some k) then s
  else if loc.slot = 0 then (s.putMem pa (s.cipherOf pa v) false).bared pa (s.tagOf pa v)
  else if Config.integrityTag k pa (s.cipherOf pa v) = s.tagOf pa v then
    (s.putMem pa (Config.unxts k pa (s.cipherOf pa v)) false).sealUnder pa k
  else s.putMem pa (codeRecord cIntegrity origin false) true

/-- A line is read at its home: one that fails ECC is poisoned, in its L2 line where one is resident, its tag then not evaluated, and
so is one read from memory whose integrity tag does not match; a poisoned line stays as it is (R68, R69, R222, R225). -/
def State.settleCode (s : State) (loc : Loc) (origin : Word) : State :=
  let broken := s.eccFailed.contains loc.num
  let t : State := { s with
    eccFailed := s.eccFailed.filter (fun x => x ≠ loc.num), tagFailed := s.tagFailed.filter (fun x => x ≠ loc.num) }
  if broken && (s.l2? loc.die loc.key).isSome then
    t.modL2 loc.die loc.key (fun l => { l with data := codeRecord cEccUncorr origin (loc.slot ≠ 0), poison := true, dirty := true })
  else match loc.key with
    | .unb _ _ => s
    | .frame pa =>
      if broken then t.putMem pa (codeRecord cEccUncorr origin (loc.slot ≠ 0)) true
      else if (s.l2? loc.die loc.key).isSome then s
      else if loc.slot ≠ 0 && s.tagFailed.contains pa && !s.poisoned.contains pa then t.putMem pa (codeRecord cIntegrity origin false) true
      else s.underSlot pa loc origin

/-- Bring a line of an HBM frame into its home slice's L2 where a way can be had, and count the hit or miss
(R100, R169). -/
def State.fillLine (s : State) (loc : Loc) (tid pick : Nat) : State :=
  match loc.kind, loc.key with
  | .hbm, .frame pa =>
    if (s.l2? loc.die loc.key).isSome then s.count tid loc.die 0 1
    else
      let s1 := s.count tid loc.die 1 1
      match s1.makeRoom loc.die (paOff pa) pick false with
      | some s2 => { s2 with l2 := ⟨loc.die, loc.key, memLine s2.mem pa, false, s2.poisoned.contains pa, []⟩ :: s2.l2 }
      | none => s1
  | _, _ => if loc.key.isUnb then s.count tid loc.die (if (s.l2? loc.die loc.key).isSome then 0 else 1) 1 else s

/-- Whether an unbacked line can be written: it is resident, or a reserved way of its set is free (R174). -/
def State.unbRoom (s : State) (loc : Loc) (tid : Nat) : Bool :=
  (s.l2? loc.die loc.key).isSome ||
  decide (((s.setLines loc.die loc.key.off).filter (fun l => match l.key with
      | .unb t _ => t = tid
      | .frame _ => false)).length
    < (match s.ctx? tid with
       | some c => c.unbways
       | none => 0))

/-- Allocate an unbacked line dirty, its bytes zero (R174). -/
def State.unbAlloc (s : State) (loc : Loc) (pick : Nat) : State :=
  if (s.l2? loc.die loc.key).isSome then s
  else
    let s1 := (s.makeRoom loc.die loc.key.off pick true).getD s
    { s1 with l2 := ⟨loc.die, loc.key, 0, true, false, []⟩ :: s1.l2 }

/-! ### Remote copies (R169, R170) -/

/-- The directory entry of a line. -/
def State.dir? (s : State) (pa : Nat) : Option DirEntry := s.dir.find? (fun d => d.pa = pa)

/-- Change a directory entry; an entry without sharers is free. -/
def State.modDir (s : State) (pa : Nat) (f : DirEntry → DirEntry) : State :=
  { s with dir := (updWhere (fun d => d.pa = pa) f s.dir).filter (fun d => !d.sharers.isEmpty) }

/-- Back-invalidate a sharer's copy of a line, and take the acknowledgement (R50, R170). -/
def State.dropSharer (s : State) (pa sharer : Nat) : State :=
  { s with rrc := s.rrc.filter (fun r => !(r.die = sharer && r.pa = pa && r.tracked)) }.modDir pa
    (fun d => { d with sharers := d.sharers.filter (fun x => x ≠ sharer), waiting := d.waiting.filter (fun x => x ≠ sharer) })

/-- A write by the CD at a line's home: every sharer is back-invalidated first, then the line is written (R170). -/
def State.cdPut (s : State) (loc : Loc) (v : Line) : State :=
  ((((s.dir? loc.num).map DirEntry.sharers).getD []).foldl (fun (s : State) d => s.dropSharer loc.num d) s).putLine loc v false

end Sys2Proof.Machine
end

