-- ==== Sys2Proof/Machine/Flits.lean ====
section
/-! DEFINITION. Flits and span ports: the header, the CRC, replay, and the port that a line's requests leave by (R39 to
R44). -/

namespace Sys2Proof.Machine

open Sys2Proof

/-! ### Flits (R40) -/

/-- The CRC-32 register after one more bit, most significant bit first (R40, assumption 23). -/
def crcBit (c : BitVec 32) (b : Bool) : BitVec 32 :=
  let fed := c.msb != b
  let sh := c <<< 1
  if fed then sh ^^^ 0x04C11DB7#32 else sh

/-- The CRC-32 register after one more byte. -/
def crcByte (c : BitVec 32) (b : Byte) : BitVec 32 :=
  (List.range 8).foldl (fun c i => crcBit c (b.toNat.testBit (7 - i))) c

/-- The CRC-32 of a byte string (R40). -/
def crc32 (bs : List Byte) : BitVec 32 := ~~~ (bs.foldl crcByte 0xFFFFFFFF#32)

/-- Whether a flit's CRC holds. -/
def flitOk (f : BitVec 2048) : Bool := (crc32 (toBytes 252 f.toNat)).toNat = bitsOf f.toNat 2016 32

/-- A flit with its CRC. -/
def sealFlit (f : BitVec 2048) : BitVec 2048 := setField f 2016 32 (crc32 (toBytes 252 f.toNat)).toNat

/-- SEQ. -/
def flitSeq (f : BitVec 2048) : BitVec 8 := f.setWidth 8
/-- ACKSEQ. -/
def flitAckseq (f : BitVec 2048) : BitVec 8 := f.extractLsb' 8 8
/-- ACKV. -/
def flitAckv (f : BitVec 2048) : Bool := f.toNat.testBit 16
/-- NAK. -/
def flitNak (f : BitVec 2048) : Bool := f.toNat.testBit 17
/-- KIND. -/
def flitKind (f : BitVec 2048) : Nat := bitsOf f.toNat 18 2
/-- SRCPKG. -/
def flitSrc (f : BitVec 2048) : Nat := bitsOf f.toNat 20 6
/-- DSTPKG. -/
def flitDst (f : BitVec 2048) : Nat := bitsOf f.toNat 26 6
/-- SLOTMAP. -/
def flitSlotmap (f : BitVec 2048) : Nat := bitsOf f.toNat 32 15
/-- The headers of the messages that begin in a flit's payload, slot by slot (R40). -/
def flitMessages (f : BitVec 2048) : List (BitVec 128) :=
  ((List.range 15).filter (fun i => (flitSlotmap f).testBit i)).map (fun i => f.extractLsb' (96 + 128 * i) 128)

/-- CREDITS: requests, replies, data. -/
def flitCredits (f : BitVec 2048) : Nat × Nat × Nat := (bitsOf f.toNat 55 4, bitsOf f.toNat 51 4, bitsOf f.toNat 47 4)

/-- A flit of KIND 0 that carries one message, from one package to another: a header in slot 0 and, with data, a line in slots
1 to 4 (R40). -/
def messageFlit (src dst : Nat) (header : BitVec 128) (data : Option Line) : BitVec 2048 :=
  BitVec.ofNat 2048 (src % 64 * 2 ^ 20 + dst % 64 * 2 ^ 26 + 2 ^ 32 + header.toNat * 2 ^ 96
    + (match data with
      | some v => v.toNat * 2 ^ 224
      | none => 0))

/-- Credits as a flit can return them at once: fifteen of each class at most (R40). -/
def creditsNow (c : Nat × Nat × Nat) : Nat × Nat × Nat := (min 15 c.1, min 15 c.2.1, min 15 c.2.2)

/-- An acknowledgement flit: KIND 1 with ACKV, NAK where one is sent, the credits that it returns, the package that sends it, and the
current SEQ, which it does not advance (R40, R42). Its DSTPKG is zero: it goes to the other end of the link, whose number the
package is not told (assumption 23). -/
def ackFlit (src : Nat) (seq ackseq : BitVec 8) (nak : Bool) (c : Nat × Nat × Nat) : BitVec 2048 :=
  sealFlit (BitVec.ofNat 2048 (seq.toNat + ackseq.toNat * 2 ^ 8 + 2 ^ 16 + b2n nak * 2 ^ 17 + 2 ^ 18 + src % 64 * 2 ^ 20
    + c.2.2 % 16 * 2 ^ 47 + c.2.1 % 16 * 2 ^ 51 + c.1 % 16 * 2 ^ 55))

/-! ### Replay (R42) -/

/-- The span port of a number. -/
def State.span (s : State) (n : Nat) : SpanPort := (s.spans[n]?).getD SpanPort.reset

/-- Change a span port. -/
def State.modSpan (s : State) (n : Nat) (f : SpanPort → SpanPort) : State :=
  { s with spans := s.spans.setIfInBounds n (f (s.span n)) }

/-- The held flits that an acknowledgement does not cover: those after the one it names. -/
def afterAck (ackseq : BitVec 8) (held : List (BitVec 2048)) : List (BitVec 2048) :=
  if held.any (fun f => flitSeq f = ackseq) then (held.dropWhile (fun f => flitSeq f ≠ ackseq)).tail else held

/-- The flits that a port may hold unacknowledged (R42). -/
def spanHeld : Nat := 255

/-- Put a flit under the next sequence number into the replay buffer and on its way. -/
def SpanPort.push (p : SpanPort) (f : BitVec 2048) : SpanPort :=
  let g := sealFlit (setField f 0 8 p.nextSeq.toNat)
  { p with nextSeq := p.nextSeq + 1, held := p.held ++ [g], sending := p.sending ++ [g] }

/-- Send a flit of a line over a port: behind others that wait, and once fewer than 255 are held (R42, R44). -/
def SpanPort.send (p : SpanPort) (line : Nat) (f : BitVec 2048) : SpanPort :=
  let q := { p with lines := p.lines ++ [line] }
  if p.pend.isEmpty && p.held.length < spanHeld then q.push f else { q with pend := p.pend ++ [f] }

/-- Flits that waited for room in the replay buffer are sent (R42). -/
def SpanPort.drain (p : SpanPort) : SpanPort :=
  let n := spanHeld - p.held.length
  (p.pend.take n).foldl SpanPort.push { p with pend := p.pend.drop n }

/-- Release the flits that an acknowledgement covers (R42). -/
def SpanPort.ack (p : SpanPort) (ackseq : BitVec 8) : SpanPort :=
  let left := afterAck ackseq p.held
  { p with held := left, lines := p.lines.drop (p.held.length - left.length) }.drain

/-- Take the credits that a flit returns (R40). -/
def SpanPort.credit (p : SpanPort) (f : BitVec 2048) : SpanPort :=
  let c := flitCredits f
  { p with credits := (p.credits.1 + c.1, p.credits.2.1 + c.2.1, p.credits.2.2 + c.2.2) }

/-- Ticks of device time within which replays are counted (R43). -/
def replayWindow : Nat := 1000000

/-- Count a replay (R42, R43, R45). -/
def SpanPort.countReplay (p : SpanPort) (now : Nat) : SpanPort :=
  { p with replays := satInc 0xFFFFFFFF p.replays, window := now :: p.window.filter (fun t => t + replayWindow > now) }

/-- On a NAK every held flit after ACKSEQ is sent again, in order, ahead of new flits (R42). -/
def SpanPort.nak (p : SpanPort) (now : Nat) (ackseq : BitVec 8) : SpanPort :=
  let q := (p.ack ackseq).countReplay now
  { q with sending := q.held ++ q.sending.filter (fun f => !q.held.contains f) }

/-- The acknowledgement flit that a port of a package makes now, with the credits that it owes (R40, R42). -/
def SpanPort.ackNow (p : SpanPort) (me : Nat) (ackseq : BitVec 8) (nak : Bool) : BitVec 2048 :=
  ackFlit me p.nextSeq ackseq nak (creditsNow p.owed)

/-- What a port still owes once a flit has returned its credits. -/
def SpanPort.repaid (p : SpanPort) : SpanPort :=
  let c := creditsNow p.owed
  { p with owed := (p.owed.1 - c.1, p.owed.2.1 - c.2.1, p.owed.2.2 - c.2.2) }

/-- An accepted flit has left its receive buffer: its credit is owed to the other end (R40, assumption 23). -/
def SpanPort.owes (p : SpanPort) (f : BitVec 2048) : SpanPort :=
  let k := Config.flitClass f % 3
  { p with owed := (p.owed.1 + b2n (k = 0), p.owed.2.1 + b2n (k = 1), p.owed.2.2 + b2n (k = 2)) }

/-- Discard a flit and send one NAK (R42). -/
def SpanPort.reject (p : SpanPort) (me : Nat) : SpanPort :=
  if p.naked then p else { p with naked := true, sending := p.sending ++ [p.ackNow me p.lastAcc true] }.repaid

/-- A port begins a training at a rate and width: it is counted, and keeps its replay buffer (R43, R45). -/
def SpanPort.train (p : SpanPort) (rate : Nat) (half : Bool) : SpanPort :=
  { p with st := .training, rate := rate, half := half, retrains := satInc 65535 p.retrains, fails := 0, window := [] }

/-- A good flit of KIND 0 or 2 by its sequence number: the next one is accepted and acknowledged, one ahead of it is discarded
with a NAK, and a duplicate is discarded (R42, assumption 23). -/
def SpanPort.sequence (p : SpanPort) (me : Nat) (f : BitVec 2048) : SpanPort :=
  let d := flitSeq f - (p.lastAcc + 1)
  if d = 0 then
    let o := if flitKind f = 0 then p.owes f else p
    let q := { o with lastAcc := flitSeq f, naked := false, sending := o.sending ++ [o.ackNow me (flitSeq f) false] }.repaid
    if flitKind f = 2 then q.train q.rate q.half else { q with received := q.received ++ [f] }
  else if d.toNat < 128 then p.reject me else p

/-- One flit of a pair: its CRC, its acknowledgement, its NAK, its sequence (R40 to R42). -/
def SpanPort.take (p : SpanPort) (me now : Nat) (good : Bool) (f : BitVec 2048) : SpanPort :=
  if !good || !flitOk f then p.reject me
  else if flitKind f = 3 then p.countReplay now
  else
    let c := p.credit f
    let q := if flitNak f then c.nak now (flitAckseq f) else if flitAckv f then c.ack (flitAckseq f) else c
    if flitKind f = 1 then q else q.sequence me f

/-- The next pair for the line: two flits, or one with an idle flit of KIND 1 (R41). -/
def SpanPort.transmit (p : SpanPort) (me : Nat) : SpanPort :=
  match p.sending with
  | a :: b :: rest => { p with sending := rest, pair := some (a, b) }
  | [a] => { p with sending := [], pair := some (a, p.ackNow me p.lastAcc false) }.repaid
  | [] => p

/-- The ports of a mask, in ascending number. -/
def maskPorts (mask : BitVec 16) : List Nat := (List.range 16).filter (fun i => mask.toNat.testBit i)

/-- The port of a mask by which the requests to a line leave, by a hash of the physical line address; the manual gives neither
the hash nor the address of a line not yet translated, so the hash is left free over the virtual line (R44, assumption 23). -/
def spanPortFor (mask : BitVec 16) (line : Nat) : Option Nat :=
  let ps := maskPorts mask
  if ps.isEmpty then none else ps[Config.spanHash line % ps.length]?

/-- A message for a line of another package goes out by the port of its route that the line hashes to, under a header that the manual
does not give the form of; none where the mask is empty (R40, R44). -/
def State.sendAbroad (s : State) (va : Nat) (data : Option Line) : Option State :=
  (spanPortFor ((s.routes[vaPkg va]?).getD 0) (lineOf va)).map (fun k =>
    { s with freeCount := s.freeCount + 1 }.modSpan k (fun q =>
      q.send (lineOf va) (messageFlit s.pkgNo (vaPkg va) ((Config.freeLine s.freeCount).setWidth 128) data)))

end Sys2Proof.Machine
end

