-- ==== Sys2Proof/Machine/Race.lean ====
section
/-! DEFINITION. Race tags: the records of checked lines, the check of an access against them, and the saturation wait
(R186 to R189). -/

namespace Sys2Proof.Machine

open Sys2Proof

/-- Whether a record is stale (R186). -/
def State.stale (s : State) (party sfr : Nat) : Bool := s.sfrOf party ≠ sfr

/-- Whether a record is another party's and not stale. -/
def State.rival (s : State) (me : Nat) (r : Nat × Nat) : Bool := r.1 ≠ me && !s.stale r.1 r.2

/-- Every reader record of an entry: slots a, b, c, then the spill block (R187). -/
def RaceTag.allReaders (t : RaceTag) : List (Nat × Nat) := t.readers ++ t.spilled

/-- The device time T of a saturated line: the latest instant, no later than now, whose bits [37:6] equal TLAST
(R189). -/
def satTime (now tlast : Nat) : Nat :=
  if bitsOf now 6 32 = tlast then now
  else
    let cand := now / 2 ^ 38 * 2 ^ 38 + tlast * 64 + 63
    if cand ≤ now then cand else cand - 2 ^ 38

/-- Whether the saturation wait of an entry is over (R189). -/
def State.satOver (s : State) (t : RaceTag) : Bool := s.oldest > satTime s.ticks t.tlast

/-- Whether an entry is free (R186). -/
def State.tagFree (s : State) (t : RaceTag) : Bool :=
  if t.sat then s.satOver t
  else (t.wparty = 0 || s.stale t.wparty t.wsfr) && t.allReaders.all (fun r => s.stale r.1 r.2)

/-- The set of a line's entry. -/
def tagSet (pa : Nat) : Nat := pa / 64 % 131072

/-- The entry of a line on its home die. -/
def State.tag? (s : State) (die pa : Nat) : Option RaceTag := s.raceTags.find? (fun t => t.die = die && t.pa = pa)

/-- An entry without records. -/
def RaceTag.empty (die pa : Nat) : RaceTag := ⟨die, pa, 0, 0, false, [], none, [], false, 0⟩

/-- The words of an entry's spill block: a header of 24 bytes that names the line, then the reader records, the party at [63:48]
and its SFR number at [47:16] (R186, assumption 64). -/
def RaceTag.spillWords (t : RaceTag) : List Word :=
  (List.range 3).map (Config.spillHeader t.pa) ++
    t.spilled.map (fun r => BitVec.ofNat 64 (r.1 * 2 ^ 48 + r.2 * 2 ^ 16))

/-- Write an entry's spill block in its die's pool (R186). -/
def State.putSpill (s : State) (t : RaceTag) : State :=
  match t.spill, s.racePools.find? (fun p => p.1 = t.die) with
  | some k, some p => (t.spillWords.zipIdx.foldl (fun (s : State) x => s.writeWord (p.2.1 + 512 * k + 8 * x.2) x.1) s)
  | _, _ => s

/-- Store the entry of a line, its spill block with it; one that holds nothing is dropped. -/
def State.putTag (s : State) (t : RaceTag) : State :=
  let rest := s.raceTags.filter (fun x => !(x.die = t.die && x.pa = t.pa))
  { s with raceTags := if t.wparty = 0 && t.allReaders.isEmpty && !t.sat then rest else t :: rest }.putSpill t

/-- The entry of a line, or a new one where its set of 8 ways has a place: none while it has not (R186, R187). -/
def State.tagFor (s : State) (die pa : Nat) : Option (RaceTag × State) :=
  match s.tag? die pa with
  | some t => some (t, s)
  | none =>
    let inSet := fun (t : RaceTag) => decide (t.die = die) && decide (tagSet t.pa = tagSet pa)
    if (s.raceTags.filter inSet).length < 8 then some (RaceTag.empty die pa, s)
    else match s.raceTags.find? (fun t => inSet t && s.tagFree t) with
      | some t => some (RaceTag.empty die pa, { s with raceTags := s.raceTags.filter (fun x => decide (x ≠ t)) })
      | none => none

/-- The first of a list of records that conflicts with a party. -/
def State.firstRival (s : State) (me : Nat) (l : List (Nat × Nat)) : Option Nat := (l.find? (s.rival me)).map Prod.fst

/-- The writer record of an entry. -/
def RaceTag.writer (t : RaceTag) : List (Nat × Nat) := if t.wparty = 0 then [] else [(t.wparty, t.wsfr)]

/-- What a checked access is to race detection (R187). -/
inductive RaceKind where
  | read | write | reduction | atomic
deriving DecidableEq, Repr

/-- The party with which an access conflicts (R187). -/
def State.conflictWith (s : State) (k : RaceKind) (me : Nat) (t : RaceTag) : Option Nat :=
  match k with
  | .read => s.firstRival me t.writer
  | .write => s.firstRival me (t.writer ++ t.allReaders)
  | .reduction | .atomic => s.firstRival me ((if t.wred then [] else t.writer) ++ t.allReaders)

/-- A spill block of a die's pool that no entry uses (R186). -/
def State.freeSpill (s : State) (die : Nat) : Option Nat :=
  match s.racePools.find? (fun p => p.1 = die) with
  | none => none
  | some p => (List.range (p.2.2 / 512)).find? (fun k => !s.raceTags.any (fun t => t.die = die && t.spill = some k))

/-- Record a read: refresh the party's own record, else take an empty or stale slot, else the spill block; else the line
becomes read-saturated (R187). -/
def State.recordRead (s : State) (me sfr : Nat) (t : RaceTag) : RaceTag :=
  let sat := fun (t : RaceTag) => { t with sat := true, tlast := bitsOf s.ticks 6 32 }
  let t1 :=
    if t.readers.any (fun r => r.1 = me) then
      { t with readers := t.readers.map (fun r => if r.1 = me then (me, sfr) else r) }
    else if t.spilled.any (fun r => r.1 = me) then
      { t with spilled := t.spilled.map (fun r => if r.1 = me then (me, sfr) else r) }
    else match t.readers.findIdx? (fun r => s.stale r.1 r.2) with
      | some i => { t with readers := modNth (fun _ => (me, sfr)) i t.readers }
      | none =>
        if t.readers.length < 3 then { t with readers := t.readers ++ [(me, sfr)] }
        else match t.spill with
        | some _ => if t.spilled.length < 61 then { t with spilled := t.spilled ++ [(me, sfr)] } else sat t
        | none =>
          match s.freeSpill t.die with
          | some k => { t with spill := some k, spilled := [(me, sfr)] }
          | none => sat t
  if t.sat then sat t1 else t1

/-- The entry after a checked access has been performed (R187). -/
def State.recordAccess (s : State) (k : RaceKind) (me sfr : Nat) (t : RaceTag) : RaceTag :=
  match k with
  | .read => s.recordRead me sfr t
  | .write => { RaceTag.empty t.die t.pa with wparty := me, wsfr := sfr }
  | .reduction => { RaceTag.empty t.die t.pa with wparty := me, wsfr := sfr, wred := true }
  | .atomic => RaceTag.empty t.die t.pa

/-- How the race check of an access comes out. -/
inductive RaceVerdict where
  /-- It may be performed; the state holds the updated record. -/
  | go (s : State)
  /-- It waits for an entry of the set. -/
  | noEntry
  /-- It waits out the readers of a saturated line. -/
  | saturated
  /-- It conflicts with a party. -/
  | lost (other : Nat)
deriving DecidableEq, Repr

/-- The race check of a checked access (R187, R189): a party's access against the line's records. Party 0 and the host are
neither checked nor recorded, and an RMW atomic, which leaves no record, needs no entry (R186, R187). -/
def State.raceCheck (s : State) (die pa : Nat) (k : RaceKind) (me sfr : Nat) : RaceVerdict :=
  if me = 0 || me = 0xFFFF || (k = .atomic && (s.tag? die pa).isNone) then .go s
  else match s.tagFor die pa with
    | none => .noEntry
    | some (t, s1) =>
      match s.conflictWith k me t with
      | some p => .lost p
      | none =>
        if k ≠ .read && t.sat && !s.satOver t then .saturated
        else .go (s1.putTag (s1.recordAccess k me sfr t))

end Sys2Proof.Machine
end

