-- ==== Sys2Proof/Machine/Walk.lean ====
section
/-! DEFINITION. Translation: page-table entries, walks, TLBs, hardware page-table writes, and the CD's own accesses
through a context's translation (R162 to R168, R173, R174, R196, R198, R203, R382). -/

namespace Sys2Proof.Machine

open Sys2Proof

/-! ### Page-table entries (R163, R164) -/

/-- The lowest VA bit that a level indexes, which is also the page size of a leaf there. -/
def levelShift (level : Nat) : Nat :=
  match level with
  | 0 => 16
  | 1 => 21
  | 2 => 30
  | _ => 39

/-- The index of an address at a level. -/
def levelIndex (level va : Nat) : Nat := bitsOf va (levelShift level) (if level = 0 then 5 else 9)

/-- V of an entry. -/
def entV (e : Word) : Bool := e.toNat.testBit 0
/-- L of an entry. -/
def entL (e : Word) : Bool := e.toNat.testBit 1
/-- A of a leaf. -/
def entA (e : Word) : Bool := e.toNat.testBit 5
/-- BACKING of a leaf. -/
def entBacking (e : Word) : Nat := bitsOf e.toNat 10 2
/-- CMODE of a leaf. -/
def entCmode (e : Word) : Nat := bitsOf e.toNat 7 2
/-- FRAME of a leaf, as an address. -/
def entFrame (e : Word) : Nat := bitsOf e.toNat 16 36 * 2 ^ 16
/-- NEXT of a pointer, as an address. -/
def entNext (e : Word) : Nat := bitsOf e.toNat 8 44 * 2 ^ 8

/-- An entry that no stage accepts at a level, V aside (R164). -/
def entBad (level : Nat) (e : Word) : Bool :=
  if entL e then
    level = 3 || bitsOf e.toNat 60 4 ≠ 0 || bitsOf e.toNat 14 2 ≠ 0 || entBacking e = 3 || entCmode e = 3
      || entFrame e % 2 ^ levelShift level ≠ 0
      || (e.toNat.testBit 12 && (level = 2 || entBacking e ≠ 0 || entCmode e ≠ 0 || e.toNat.testBit 9 || bitsOf e.toNat 52 8 ≠ 0))
  else level = 0 || bitsOf e.toNat 52 12 ≠ 0 || bitsOf e.toNat 2 6 ≠ 0 || (level ≥ 2 && bitsOf e.toNat 8 4 ≠ 0)

/-- The DIE of an unbacked leaf's FRAME. -/
def unbDie (frame : Nat) : Nat := bitsOf frame 49 3
/-- The POOL of an unbacked leaf's FRAME. -/
def unbPool (frame : Nat) : Nat := bitsOf frame 44 5
/-- The UPI of an unbacked leaf's FRAME. -/
def unbUpi (frame : Nat) : Nat := bitsOf frame 16 28

/-- The size of a leaf's page. -/
def Leaf.size (l : Leaf) : Nat := 2 ^ levelShift l.level

/-- Where the line of an address stands, under a leaf, for a tenant (R161, R173). -/
def Leaf.loc (l : Leaf) (tid va : Nat) : Loc :=
  if l.backing = 0 then { locOf (l.frame + va % l.size) with slot := l.key }
  else ⟨unbDie l.frame, .unb tid (unbUpi l.frame * 2 ^ 16 + lineOf (va % l.size)), .hbm, 0⟩

/-! ### Walks (R166, R168) -/

/-- A pointer that the walk cache holds. -/
def State.ptr? (s : State) (stage asid dc vmid level base : Nat) : Option WalkEntry :=
  s.walkCache.find? (fun w => w.stage = stage && w.asid = asid && w.dc = dc && w.vmid = vmid && w.level = level
    && w.base = base)

/-- Make a pointer entry the most recently used of the walk cache, 2 MiB of entries of 16 bytes (R167). -/
def State.keepPtr (s : State) (w : WalkEntry) : State :=
  { s with walkCache := (w :: s.walkCache.filter (fun x => decide (x ≠ w))).take 131072 }

/-- Whether a die's link carries memory traffic: its CD link is RUNNING or QUIESCING (R35). -/
def State.dieUp (s : State) (die : Nat) : Bool :=
  match s.links[4 + die]? with
  | some k => k.st = .running || k.st = .quiescing
  | none => false

/-- Whether the home of a page-table entry is not on a die whose link is down (R36, R196). -/
def State.entryUp (s : State) (pa : Nat) : Bool := paDie pa ≥ 4 || s.dieUp (paDie pa)

/-- The cause of an access whose walk found no leaf: DIE_DOWN where an entry's home is on a die that is down, else the fault of the
access (R36, R164, R196). -/
def walkCause (e fault : Nat) : Nat := if e = 0 then fault else e

/-- A walker's read of an entry at its home: DIE_DOWN where that is on a die that is down (R36, R196). -/
def State.readEnt (s : State) (pa : Nat) : Except Nat Word :=
  if !s.entryUp pa then .error cDieDown
  else match s.readWord pa with
    | some e => .ok e
    | none => .error 0

/-- The number of the second-stage id, by address: where an intermediate address lies, the leaf and its level, by a walk
of the levels below `n` (R166). -/
def State.walk2 (s : State) (vmid ipa : Nat) : Nat → Nat → Except Nat (Nat × Word × Nat) × State
  | 0, _ => (.error 0, s)
  | n + 1, node =>
    let base := ipa / 2 ^ levelShift n * 2 ^ levelShift n
    match s.ptr? 2 0 0 vmid n base with
    | some w => State.walk2 (s.keepPtr w) vmid ipa n w.next
    | none =>
      match s.readEnt (node + 8 * levelIndex n ipa) with
      | .error c => (.error c, s)
      | .ok e =>
        if !entV e || entBad n e then (.error 0, s)
        else if entL e then
          if entBacking e ≠ 0 then (.error 0, s) else (.ok (entFrame e + ipa % 2 ^ levelShift n, e, n), s)
        else State.walk2 (s.keepPtr ⟨2, 0, 0, vmid, n, base, entNext e⟩) vmid ipa n (entNext e)

/-- The physical address of an intermediate one, with its leaf and level; the identity for VMID 0 (R166). -/
def State.stage2 (s : State) (vmid ipa : Nat) : Except Nat (Nat × Word × Nat) × State :=
  if vmid = 0 then (.ok (ipa, 0, 3), s)
  else if ipa ≥ 2 ^ 48 then (.error 0, s)
  else match s.roots2.find? (fun r => r.1 = vmid) with
    | some r => s.walk2 vmid ipa 4 r.2
    | none => (.error 0, s)

/-- Whether a combined leaf is well formed under a die code (R164, R166, R382). -/
def State.leafOk (s : State) (va dc : Nat) (l : Leaf) : Bool :=
  if l.backing ≠ 0 then
    dc < 4 && l.level ≠ 2 && !l.vlt && unbDie l.frame < s.fuses.nlive
  else
    s.validPa l.frame && paPkg l.frame = vaPkg va &&
    (if dc < 4 then paDie l.frame < 4 && (l.vlt == inVaults (paOff l.frame))
        && (!l.vlt || (l.level ≠ 2 && l.cmode = 0 && !l.chk && l.key = 0))
     else paDie l.frame = (if dc = 4 then 4 else 5) && !l.vlt && !l.chk && l.key = 0)

/-- The leaf of an address from its first-stage leaf entry, the stages combined (R166). -/
def State.combine (s : State) (c : Ctx) (va level entryPa : Nat) (e : Word) : Except Nat Leaf × State :=
  let b := fun i => e.toNat.testBit i
  let one : Leaf :=
    { key := bitsOf e.toNat 52 8, frame := entFrame e, level := level, g := b 13, vlt := b 12, backing := entBacking e
      chk := b 9, cmode := entCmode e, d := b 6, at_ := b 4, wr := b 3, rd := b 2, entryPa := entryPa, entry := e }
  let fin := fun (l : Leaf) => if vaDc va < 4 then l else { l with cmode := 0 }
  if entBacking e ≠ 0 || c.vmid = 0 then (if s.leafOk va (vaDc va) one then .ok (fin one) else .error 0, s)
  else
    match s.stage2 c.vmid (entFrame e + va % 2 ^ levelShift level) with
    | (.error c, s') => (.error c, s')
    | (.ok (pa, e2, l2), s') =>
      let b2 := fun i => e2.toNat.testBit i
      let lv := min level l2
      let two : Leaf := { one with
        key := bitsOf e2.toNat 52 8, frame := pa / 2 ^ levelShift lv * 2 ^ levelShift lv, level := lv, vlt := b2 12
        chk := b 9 || b2 9, cmode := min (entCmode e) (entCmode e2), at_ := b 4 && b2 4, wr := b 3 && b2 3
        rd := b 2 && b2 2 }
      (if s.leafOk va (vaDc va) two then .ok (fin two) else .error 0, s')

/-- The walk of an address from a node, over the levels below `n` (R168). -/
def State.walk1 (s : State) (c : Ctx) (va : Nat) : Nat → Nat → Except Nat Leaf × State
  | 0, _ => (.error 0, s)
  | n + 1, node =>
    let base := va / 2 ^ levelShift n * 2 ^ levelShift n
    match s.ptr? 1 c.asid (vaDc va) c.vmid n base with
    | some w => State.walk1 (s.keepPtr w) c va n w.next
    | none =>
      match s.stage2 c.vmid (node + 8 * levelIndex n va) with
      | (.error c, s1) => (.error c, s1)
      | (.ok (pa, _, _), s1) =>
        match s1.readEnt pa with
        | .error c => (.error c, s1)
        | .ok e =>
          if !entV e || entBad n e then (.error 0, s1)
          else if entL e then s1.combine c va n pa e
          else State.walk1 (s1.keepPtr ⟨1, c.asid, vaDc va, c.vmid, n, base, entNext e⟩) c va n (entNext e)

/-- Write a page-table entry at its home (R198, R203). -/
def State.writeEntry (s : State) (pa : Nat) (e : Word) : State :=
  s.cdPut (locOf pa) (lineSet (s.peek (lineOf pa)).1 (pa % 64) 8 e.toNat)

/-- A walk (R168): where it faults, which installs nothing, 0, or the cause that its home's die is down; else the leaf, with A set in
its entry (R196, R198). -/
def State.walk (s : State) (c : Ctx) (die va : Nat) : Except Nat Leaf × State :=
  let s0 := s.count c.tid die 5 1
  match s0.roots.find? (fun r => r.1 = c.asid && r.2.1 = vaDc va) with
  | none => (.error 0, s0)
  | some r =>
    match s0.walk1 c va 4 r.2.2 with
    | (.error c, _) => (.error c, s0)
    | (.ok l, s1) =>
      if entA l.entry then (.ok l, s1)
      else (.ok { l with entry := l.entry ||| 0x20 }, s1.writeEntry l.entryPa (l.entry ||| 0x20))

/-! ### TLBs (R167) -/

/-- The die and slice numbers under which the CD keeps its own leaves (R382). -/
def cdDie : Nat := 8
/-- The slice number of a die's second-level TLB. -/
def l2Slice : Nat := 64
/-- The slice number of the CD's cached leaves. -/
def cdSlice : Nat := 65

/-- The slice that translates an address (R162). -/
def vaSlice (va : Nat) : Nat := bitsOf va 8 6

/-- Whether an entry maps an address for an ASID and VMID. -/
def TlbEntry.maps (t : TlbEntry) (vmid asid va : Nat) : Bool :=
  t.vmid = vmid && (t.leaf.g || t.asid = asid) && t.base ≤ va && va < t.base + t.leaf.size

/-- The set of an entry in its TLB: 64 sets at the first level and 1,024 at the second, by the lowest bits of its page number,
which for the second level is the model's choice; the CD's own cache has one (R167, R382, assumption 27). -/
def TlbEntry.set (t : TlbEntry) : Nat :=
  if t.slice = 65 then 0 else bitsOf t.base (levelShift t.leaf.level) (if t.slice = 64 then 10 else 6)

/-- The ways of each set of a TLB: 6 at the first level, 8 at the second; what the CD keeps is not bounded by the manual and
is as much as a second level holds (R167, assumption 27). -/
def tlbWays (slice : Nat) : Nat := if slice = 65 then 8192 else if slice = 64 then 8 else 6

/-- Remove the last entry that meets a condition. -/
def dropLast {α : Type} (p : α → Bool) : List α → List α
  | [] => []
  | a :: l => if p a && !l.any p then l else a :: dropLast p l

/-- Install an entry in its TLB, replacing the least recently used of its set where the set is full (R167). -/
def State.tlbPut (s : State) (t : TlbEntry) : State :=
  let l := s.tlb.filter (fun x => !(x.die = t.die && x.slice = t.slice && x.vmid = t.vmid && x.asid = t.asid
    && x.base = t.base && x.leaf.level = t.leaf.level))
  let near := fun (x : TlbEntry) => decide (x.die = t.die ∧ x.slice = t.slice ∧ x.set = t.set)
  { s with tlb := t :: (if (l.filter near).length ≥ tlbWays t.slice then dropLast near l else l) }

/-- Look an address up in one TLB, making the entry found its most recently used. -/
def State.tlbGet (s : State) (die slice : Nat) (c : Ctx) (va : Nat) : Option TlbEntry × State :=
  match s.tlb.find? (fun t => t.die = die && t.slice = slice && t.maps c.vmid c.asid va) with
  | some t => (some t, { s with tlb := t :: s.tlb.filter (fun x => decide (x ≠ t)) })
  | none => (none, s)

/-- The entry that a leaf makes for an address. -/
def Leaf.entryFor (l : Leaf) (c : Ctx) (die slice va : Nat) : TlbEntry :=
  ⟨die, slice, c.vmid, c.asid, vaDc va, va / l.size * l.size, l⟩

/-- Install a leaf at its translating slice and second-level TLB, or in the CD (R167, R382). -/
def State.install (s : State) (c : Ctx) (die va : Nat) (l : Leaf) : State :=
  if die = cdDie then s.tlbPut (l.entryFor c die cdSlice va)
  else (s.tlbPut (l.entryFor c die l2Slice va)).tlbPut (l.entryFor c die (vaSlice va) va)

/-- Look an address up as its translating slice does: first level, then second level, which fills the first
(R167, R382). -/
def State.lookup (s : State) (c : Ctx) (die va : Nat) : Option Leaf × State :=
  if die = cdDie then
    match s.tlbGet die cdSlice c va with
    | (t, s') => (t.map TlbEntry.leaf, s')
  else
    match s.tlbGet die (vaSlice va) c va with
    | (some t, s') => (some t.leaf, s')
    | (none, _) =>
      let s1 := s.count c.tid die 4 1
      match s1.tlbGet die l2Slice c va with
      | (some t, s2) => (some t.leaf, s2.tlbPut { t with slice := vaSlice va })
      | (none, _) => (none, s1)

/-- Drop the TLB entries of a die for a range: of one ASID, G entries with it, or of a whole VMID (R199). -/
def State.tlbDrop (s : State) (die : Nat) (vmid : Nat) (asid : Option Nat) (base size : Nat) : State :=
  { s with tlb := s.tlb.filter (fun t => !(t.die = die && t.vmid = vmid
      && (match asid with
          | some a => t.leaf.g || t.asid = a
          | none => true)
      && t.base < base + size && base < t.base + t.leaf.size)) }

/-- The die that translates an address of a context: a live die, the CD, or none (R71, R160). -/
def Ctx.xlatDie (c : Ctx) (va : Nat) : Option Nat :=
  let dc := vaDc va
  if dc = 4 || dc = 7 then some cdDie
  else if dc = 5 || dc = 6 then none
  else match c.diemap[dc]? with
    | some d => if d = 7 then none else some d
    | none => none

/-- Whether an invalidation of an ASID, or else of a VMID, names a context (R58, R199, R373). -/
def Ctx.named (vmid : Nat) (asid : Option Nat) (c : Ctx) : Bool :=
  match asid with
  | some a => c.asid = a
  | none => c.vmid = vmid

/-- Whether an invalidation blocks the install of a leaf for an address: its page overlaps the range (R199). -/
def Inval.blocks (v : Inval) (c : Ctx) (va : Nat) (l : Leaf) : Bool :=
  c.named v.vmid v.asid && (v.stage2 || (v.base < va / l.size * l.size + l.size && va / l.size * l.size < v.base + v.size))

/-- Whether installs of a leaf for an address are blocked by an invalidation in progress (R199). -/
def State.installBlocked (s : State) (c : Ctx) (va : Nat) (l : Leaf) : Bool := s.invals.any (fun v => v.blocks c va l)

/-- The samples of S1SEQ and S2SEQ that a walk takes for a context (R168). -/
def State.seqs (s : State) (c : Ctx) : Nat × Nat := (lookupD s.s1seq c.asid 0, lookupD s.s2seq c.vmid 0)

/-! ### Dirty updates (R198) -/

/-- A write that meets a leaf with D = 0: the leaf with D set, or none where its entry has changed, which drops the TLB
entries so that the access is translated again, as where its home is on a die that is down (R36, R198). -/
def State.setDirty (s : State) (c : Ctx) (die va : Nat) (l : Leaf) : Option Leaf × State :=
  if l.d then (some l, s)
  else if s.entryUp l.entryPa && s.readWord l.entryPa = some l.entry then
    let l' := { l with d := true, entry := l.entry ||| 0x40 }
    let s1 := s.writeEntry l.entryPa l'.entry
    (some l', { s1 with
      tlb := updWhere (fun t => decide (t.leaf = l) && t.die = die && t.maps c.vmid c.asid va)
        (fun t => { t with leaf := l' }) s1.tlb })
  else (none, s.tlbDrop die c.vmid (some c.asid) (lineOf va) 64)

/-! ### Moving the lines of an unbacked page (R174, R203) -/

/-- Whether a line belongs to an unbacked page on its die. -/
def unbIn (tid upi size die : Nat) (d : Nat) (k : LineKey) : Bool :=
  d = die && (match k with
    | .unb t off => t = tid && upi * 2 ^ 16 ≤ off && off < upi * 2 ^ 16 + size
    | .frame _ => false)

/-- A race tag moves to a line of a new number, its records with it: into the set of that line where it has a place, and under a spill
block of the new die's pool. Where the set has none the tag is lost; where that pool is empty the line is read-saturated, as on a
first spill (R174, R187; DESIGN CHOICE, assumption 79). -/
def State.moveTag (s : State) (die num : Nat) (t : RaceTag) : State :=
  match s.tagFor die num with
  | none => s
  | some (_, s1) =>
    let block := if t.spill.isSome then s1.freeSpill die else none
    s1.putTag { t with
      die := die, pa := num, spill := block, spilled := if block.isSome then t.spilled else []
      sat := t.sat || (t.spill.isSome && block.isNone)
      tlast := if t.spill.isSome && block.isNone then bitsOf s.ticks 6 32 else t.tlast }

/-- What follows the lines of a page to new numbers on a die: race tags and near-cache lines, which their VA names. The sharers that
the old home's directory records are back-invalidated, so that the new home's records none; LOOSE copies stay but those of the new
home's own die, which is no longer remote (R169, R170, R174, R187; DESIGN CHOICE, assumption 79). -/
def State.rekey (s : State) (old size newDie new : Nat) : State :=
  let hit := fun (pa : Nat) => decide (old ≤ pa) && decide (pa < old + size)
  let moved := s.raceTags.filter (fun t => hit t.pa)
  let s1 : State := { s with
    raceTags := s.raceTags.filter (fun t => !hit t.pa)
    near := updWhere (fun n => hit n.pa) (fun n => { n with pa := n.pa - old + new }) s.near
    rrc := updWhere (fun r => hit r.pa) (fun r => { r with pa := r.pa - old + new })
      (s.rrc.filter (fun r => !(hit r.pa && (r.tracked || r.die = newDie))))
    dir := s.dir.filter (fun d => !hit d.pa)
    eccFailed := s.eccFailed.map (fun k => if hit k then k - old + new else k) }
  moved.foldl (fun (s : State) t => s.moveTag newDie (t.pa - old + new) t) s1

/-- How a late frame assignment or a MIGR ends. -/
inductive PageMove where
  /-- Refused for want of a frame or of room; nothing moves. -/
  | noRoom
  /-- The leaf had changed: nothing is written, and the requests are translated again. -/
  | changed
  | moved
deriving DecidableEq, Repr

/-- Remove what memory holds of a range. -/
def State.clearMem (s : State) (a n : Nat) : State :=
  let out := fun (k : Nat) => decide (k < a) || decide (a + n ≤ k)
  { s with
    mem := s.mem.filter (fun c => out c.1), poisoned := s.poisoned.filter out, eccFailed := s.eccFailed.filter out
    tagFailed := s.tagFailed.filter out
    sealed := s.sealed.filter (fun x => out x.1)
    tags := s.tags.filter (fun x => out x.1)
    l2 := s.l2.filter (fun l => match l.key with
      | .frame pa => out pa
      | .unb _ _ => true) }

/-- The requests of a context to a page that wait at their homes on a leaf are released, to be translated again; a walk that has read
the leaf is begun again (R174, R203). -/
def State.releasePage (s : State) (c : Ctx) (l : Leaf) : State :=
  let go := fun (r : Req) => match r.status with
    | .walking _ _ _ m => if m.entryPa = l.entryPa then { r with status := .miss } else r
    | _ => if r.status.away && r.leaf.any (fun m => m.entryPa = l.entryPa) then { r with status := .sent, leaf := none } else r
  { s with ports := updWhere (fun p => p.ctx = c.tid) (fun p => { p with
      queue := p.queue.map go, sideLog := p.sideLog.map (fun e => { e with req := go e.req }) }) s.ports }

/-- Rewrite a leaf by a hardware page-table write, drop the page's TLB entries on the translating die, and release the requests
that were held (R203). -/
def State.hwLeaf (s : State) (c : Ctx) (tdie va : Nat) (l : Leaf) (e : Word) : State :=
  ((s.writeEntry l.entryPa e).tlbDrop tdie c.vmid (some c.asid) (va / l.size * l.size) l.size).releasePage c l

/-- A hardware page-table write whose leaf has changed writes nothing: the page's entries are dropped and the requests that were
held are released (R203). -/
def State.leafChanged (s : State) (c : Ctx) (tdie va : Nat) (l : Leaf) : State :=
  (s.tlbDrop tdie c.vmid (some c.asid) (va / l.size * l.size) l.size).releasePage c l

/-- A frame given to a page of a key slot holds its lines under that slot (R68, R174). -/
def State.sealFrame (s : State) (f : Nat) (l : Leaf) : State :=
  if l.key = 0 then s
  else { s with sealed := (List.range (l.size / 64)).map (fun i => (f + 64 * i, s.keyOf (paDie f) l.key)) ++ s.sealed }

/-- Whether the reliability monitor has taken a frame out of use, or a vault that it lies in (R238, assumption 57). -/
def State.frameOut (s : State) (pa : Nat) : Bool :=
  s.framesOut.contains (page64 pa) || ((locOf pa).kind = .vault && s.vaultsOut.contains (paDie pa, paOff pa / 2 ^ 24 % 64))

/-- A late frame assignment, of the first frame of the pool that is in use (R174, R203, R238). -/
def State.lateAssign (s : State) (c : Ctx) (tdie va : Nat) (l : Leaf) : PageMove × State :=
  match s.pools.find? (fun p => p.tid = c.tid && p.pool = unbPool l.frame && p.big == (l.level = 1)) with
  | none => (.noRoom, s)
  | some p =>
    match p.frames.filter (fun f => !s.frameOut f) with
    | [] => (.noRoom, s)
    | f :: _ =>
      let rest := p.frames.erase f
      if !s.entryUp l.entryPa || s.readWord l.entryPa ≠ some l.entry then
        (.changed, s.leafChanged c tdie va l)
      else
        let die := unbDie l.frame
        let upi := unbUpi l.frame
        let lines := s.l2.filter (fun x => unbIn c.tid upi l.size die x.die x.key)
        let s1 : State := { s with
          pools := updWhere (fun q => q.tid = c.tid && q.pool = p.pool) (fun q => { q with frames := rest }) s.pools
          l2 := s.l2.filter (fun x => !unbIn c.tid upi l.size die x.die x.key) }
        let s2 := (s1.clearMem f l.size).sealFrame f l
        let s3 := lines.foldl (fun (s : State) x =>
          let pa := f + (x.key.off - upi * 2 ^ 16)
          let s' := s.putMem pa x.data x.poison
          match s'.makeRoom (paDie f) (paOff pa) 0 false with
          | some s'' => { s'' with l2 := ⟨paDie f, .frame pa, x.data, false, x.poison, x.pins⟩ :: s''.l2 }
          | none => s') s2
        let s4 := s3.rekey (Loc.num ⟨die, .unb c.tid (upi * 2 ^ 16), .hbm, 0⟩) l.size (paDie f) f
        let e := setField (setField l.entry 16 36 (f / 2 ^ 16)) 10 2 0
        (.moved, (s4.hwLeaf c tdie va l e).releaseReplay (fun t => t = c.tid) replayAccess)

/-- MIGR of an unbacked page to a live die (R174, R203). -/
def State.migrate (s : State) (c : Ctx) (tdie va : Nat) (l : Leaf) (to_ : Nat) : PageMove × State :=
  if !s.entryUp l.entryPa || s.readWord l.entryPa ≠ some l.entry then
    (.changed, s.leafChanged c tdie va l)
  else
    let die := unbDie l.frame
    let upi := unbUpi l.frame
    let lines := s.l2.filter (fun x => unbIn c.tid upi l.size die x.die x.key)
    let s1 : State := { s with l2 := s.l2.filter (fun x => !unbIn c.tid upi l.size die x.die x.key) }
    let r := lines.foldl (fun (r : Option State) x =>
      match r with
      | none => none
      | some s =>
        let loc : Loc := ⟨to_, x.key, .hbm, 0⟩
        if s.unbRoom loc c.tid then some ((s.unbAlloc loc 0).modL2 to_ x.key (fun y =>
          { y with data := x.data, poison := x.poison, pins := x.pins }))
        else none) (some s1)
    match r with
    | none => (.noRoom, s)
    | some s2 =>
      let n := fun (d : Nat) => Loc.num ⟨d, .unb c.tid (upi * 2 ^ 16), .hbm, 0⟩
      (.moved, (s2.rekey (n die) l.size to_ (n to_)).hwLeaf c tdie va l (setField l.entry 49 3 to_))

/-! ### Frame owners (R175) -/

/-- The frame owner entry of the 64 KiB frame of a physical address. -/
def State.owner (s : State) (pa : Nat) : BitVec 16 := lookupD s.owners (page64 pa) 0

/-- Whether a tenant may reach a location: an unbacked line is its tenant's own, host memory meets no check (R175,
R382). -/
def State.ownerOk (s : State) (loc : Loc) (tid : Nat) : Bool :=
  match loc.key with
  | .unb _ _ => true
  | .frame pa =>
    loc.kind = .host || ((s.owner pa).toNat.testBit 15 && bitsOf (s.owner pa).toNat 0 10 = tid)

/-! ### The CD's accesses through a context's translation -/

/-- Translate an address for the CD: by the TLBs, else by a walk whose leaf is installed (R53, R168, R382). -/
def State.translate (s : State) (c : Ctx) (die va : Nat) : Except Nat Leaf × State :=
  match s.lookup c die va with
  | (some l, s1) => (.ok l, s1)
  | (none, s1) =>
    match s1.walk c die va with
    | (.ok l, s2) => (.ok l, if s2.installBlocked c va l then s2 else s2.install c die va l)
    | (.error e, s2) => (.error e, s2)

/-- The leaf of an access, its D set for a write; where the entry had changed, the access is translated again (R198). -/
def State.readyLeaf (s : State) (c : Ctx) (die va : Nat) (wr : Bool) (l : Leaf) : Except Nat Leaf × State :=
  if !wr then (.ok l, s)
  else match s.setDirty c die va l with
    | (some l', s1) => (.ok l', s1)
    | (none, s1) =>
      match s1.translate c die va with
      | (.ok l', s2) => (match s2.setDirty c die va l' with
        | (some l2, s3) => (.ok l2, s3)
        | (none, s3) => (.error 0, s3))
      | (.error e, s2) => (.error e, s2)

/-- An attempt at where a line of a context stands for an access that the CD makes for it, or the cause that refuses it: translation,
permission, the owner where `checked`, the D bit of a write, and room for an unbacked line; `again` is what follows where a late
assignment finds its leaf changed (R53, R165, R174, R175, R198, R203). -/
def State.cdTry (s : State) (tid va : Nat) (wr checked : Bool) (perm : Leaf → Bool) (again : State → Except Nat Loc × State) :
    Except Nat Loc × State :=
  let fault := if wr then cPageFaultStore else cPageFaultLoad
  match s.ctx? tid with
  | none => (.error fault, s)
  | some c =>
    if vaPkg va ≠ s.pkgNo then (.error cLinkPoison, s)
    else match c.xlatDie va with
    | none => (.error fault, s)
    | some die =>
      if die < 8 && !s.dieUp die then (.error cDieDown, s)
      else match s.translate c die va with
      | (.error e, s1) => (.error (walkCause e fault), s1)
      | (.ok l0, s1) =>
        if !perm l0 then (.error cPerm, s1)
        else
          match s1.readyLeaf c die va wr l0 with
          | (.error e, s2) => (.error (walkCause e fault), s2)
          | (.ok l, s2) =>
            let loc := l.loc tid va
            if loc.die < 4 && !s2.dieUp loc.die then (.error cDieDown, s2)
            else if checked && !s2.ownerOk loc tid then (.error cTenant, s2)
            else if wr && loc.key.isUnb && !s2.unbRoom loc tid then
              if l.backing = 2 then
                match s2.lateAssign c die va l with
                | (.moved, s3) =>
                  match s3.translate c die va with
                  | (.ok l', s4) => (.ok (l'.loc tid va), s4)
                  | (.error e, s4) => (.error (walkCause e fault), s4)
                | (.changed, s3) => again s3
                | (.noRoom, s3) => (.error cUnbackedOverflow, s3)
              else (.error cUnbackedOverflow, s2)
            else (.ok loc, if wr && loc.key.isUnb then s2.unbAlloc loc 0 else s2)

/-- Where a line of a context stands for an access of the CD, or the cause that refuses it: an access whose leaf had changed at a
late assignment is translated again, and then finds the leaf as it is (R203). -/
def State.cdLocFor (s : State) (tid va : Nat) (wr checked : Bool) (perm : Leaf → Bool) : Except Nat Loc × State :=
  s.cdTry tid va wr checked perm (fun s => s.cdTry tid va wr checked perm (fun s => (.error cUnbackedOverflow, s)))

/-- Where a line of a context stands for a read or write of the CD, or the cause that refuses it (R165). -/
def State.cdLoc (s : State) (tid va : Nat) (wr checked : Bool) : Except Nat Loc × State :=
  s.cdLocFor tid va wr checked (fun l => if wr then l.wr else l.rd)

/-- The causes with which a home refuses a request (R176). -/
def homeCauses : List Nat :=
  [cPageFaultLoad, cPageFaultStore, cPerm, cTenant, cCheckedRemote, cUnbackedOverflow, cDieDown, cLinkPoison]

/-- An access of the CD for a context to a line of another package crosses the span links: with an empty mask it is refused; else what
that package answers, and the line that it holds, are free values (R44, R160, assumption 82). -/
def State.cdAbroad (s : State) (tid va : Nat) (data : Option Line) : Except Nat Line × State :=
  if (s.ctx? tid).isNone then (.error (if data.isSome then cPageFaultStore else cPageFaultLoad), s)
  else match s.sendAbroad va data with
    | none => (.error cLinkPoison, s)
    | some s1 =>
      let s2 : State := { s1 with freeCount := s1.freeCount + 1 }
      match homeCauses[Config.foreignAnswer s1.freeCount]? with
      | some c => (.error c, s2)
      | none => (.ok (Config.freeLine s1.freeCount), s2)

/-- The cause that a poison record holds. -/
def poisonCause (l : Line) : Nat := errCause (l.setWidth 64)

/-- Read the line of an address of a context, of whatever package. -/
def State.cdReadLine (s : State) (tid va : Nat) (checked : Bool) : Except Nat Line × State :=
  if vaPkg va ≠ s.pkgNo then s.cdAbroad tid va none
  else match s.cdLoc tid va false checked with
    | (.error e, s1) => (.error e, s1)
    | (.ok loc, s1) =>
      let s2 := s1.settleCode loc 0
      let l := s2.getLine loc
      (if l.2 then .error (poisonCause l.1) else .ok l.1, s2)

/-- Write bytes into the line of an address of a context, of whatever package: a poisoned line stays as it is, unless all of it is
written (R225). -/
def State.cdWriteLine (s : State) (tid va : Nat) (checked : Bool) (bs : List Byte) : Except Nat Unit × State :=
  if vaPkg va ≠ s.pkgNo then
    (match s.cdAbroad tid va (some (lineSet 0 (va % 64) bs.length (ofBytes bs))) with
    | (.error e, s1) => (.error e, s1)
    | (.ok _, s1) => (.ok (), s1))
  else match s.cdLoc tid va true checked with
    | (.error e, s1) => (.error e, s1)
    | (.ok loc, s0) =>
      let s1 := s0.settleCode loc 0
      let l := s1.getLine loc
      (.ok (), if l.2 && bs.length < 64 then s1 else s1.cdPut loc (lineSet l.1 (va % 64) bs.length (ofBytes bs)))

/-- Read `n` bytes of a context from an address, line by line, `fuel` lines at most. -/
def State.cdReadLines (s : State) (tid : Nat) (checked : Bool) :
    Nat → Nat → Nat → Except Nat (List Byte) × State
  | 0, _, _ => (.ok [], s)
  | fuel + 1, va, n =>
    if n = 0 then (.ok [], s)
    else
      match s.cdReadLine tid va checked with
      | (.error e, s1) => (.error e, s1)
      | (.ok l, s1) =>
        let k := min n (64 - va % 64)
        match State.cdReadLines s1 tid checked fuel (wrapN 57 (va + k)) (n - k) with
        | (.ok bs, s2) => (.ok (toBytes k (lineGet l (va % 64) k) ++ bs), s2)
        | (.error e, s2) => (.error e, s2)

/-- Read bytes of a context. -/
def State.cdRead (s : State) (tid va n : Nat) (checked : Bool) : Except Nat (List Byte) × State :=
  s.cdReadLines tid checked (n / 64 + 2) va n

/-- Write bytes of a context from an address, line by line, `fuel` lines at most. -/
def State.cdWriteLines (s : State) (tid : Nat) (checked : Bool) :
    Nat → Nat → List Byte → Except Nat Unit × State
  | 0, _, _ => (.ok (), s)
  | fuel + 1, va, bs =>
    if bs.isEmpty then (.ok (), s)
    else
      let k := min bs.length (64 - va % 64)
      match s.cdWriteLine tid va checked (bs.take k) with
      | (.error e, s1) => (.error e, s1)
      | (.ok _, s1) => State.cdWriteLines s1 tid checked fuel (wrapN 57 (va + k)) (bs.drop k)

/-- Write bytes of a context. -/
def State.cdWrite (s : State) (tid va : Nat) (bs : List Byte) (checked : Bool) : Except Nat Unit × State :=
  s.cdWriteLines tid checked (bs.length / 64 + 2) va bs

/-! ### Issuing (R152, R160, R176, R183) -/

/-- The number of the line of an address of a tenant, as its tables have it now. -/
def State.lineNum (s : State) (tid va : Nat) : Option Nat :=
  match (s.ctx? tid).bind (fun c => (c.xlatDie va).map (fun td => (c, td))) with
  | some (c, td) => if vaPkg va ≠ s.pkgNo then none else (s.walk c td va).1.toOption.map (fun l => (l.loc tid va).num)
  | none => none

/-- Whether an address has die code 5 or 6, which no die translates (R160). -/
def deadCode (va : Nat) : Bool := vaDc va = 5 || vaDc va = 6

/-- Where a request begins: refused at its port for die codes 5 and 6, else on its way (R160). -/
def Req.firstStatus (r : Req) : ReqStatus :=
  if deadCode r.va then
    (if r.op = .pref then .done 0 none else .refused (if r.op.loads then cPageFaultLoad else cPageFaultStore))
  else .sent

/-- A write issues from a die: the copies of its line in the die's RRC go, under whatever address they stand, and what the die's loads
of the line in flight read is not installed there (R183). -/
def State.writeIssues (s : State) (p : Port) (va : Nat) : State :=
  let num := s.lineNum p.ctx va
  let same := fun (tid asid va' : Nat) => (asid = p.asid && lineOf va' = lineOf va) || (num.isSome && s.lineNum tid va' = num)
  { s with
    rrc := s.rrc.filter (fun n => !(n.die = p.die && ((n.asid = p.asid && n.va = lineOf va) || num = some n.pa)))
    ports := updWhere (fun q => q.die = p.die) (fun q => { q with queue := q.queue.map (fun x =>
      if x.op.loads && x.status.away && same q.ctx q.asid x.va then { x with noFill := true } else x) }) s.ports }

/-- Issue a request through a port: it takes a retire-queue entry and one token a line, or goes straight to the side
log behind its page's entries (R91, R152, R176). A write leaves no copy of its line in the RRC of its die (R183). A request that
a near cache will answer, or that its port refuses, pays its token like any other: the model's choice (assumption 28). -/
def State.issue (s : State) (port : Nat) (r : Req) : State :=
  match s.port? port with
  | none => s
  | some p =>
    let s1 := if r.op.writes then s.writeIssues p r.va else s
    if r.op.logged && p.logsPage r.va then
      s1.modPort port (fun p => { p with
        sideLog := p.sideLog ++ [⟨{ r with status := .held 0 false }, BitVec.ofNat 64 ((2 ^ r.size - 1) * 2 ^ (r.va % 64))⟩] })
    else
      (s1.modPort port (fun p => { p with
        queue := p.queue ++ [{ r with status := r.firstStatus }], bucket := p.bucket - 1, issued := true })).count p.ctx p.die 6 1

end Sys2Proof.Machine
end

