-- ==== Sys2Proof/Machine/MemIns.lean ====
section
/-! DEFINITION. The instructions of group 0xC0 that issue through a stream port (R333 to R339, R341, R344 to R349). -/

namespace Sys2Proof.Machine

open Sys2Proof

/-- Bytes of a scalar memory access of a type (R334). -/
def memSize (ty : Ty) : Nat := if ty = .a57 then 8 else ty.width / 8

/-- The request that an instruction would send. -/
structure Plan where
  op : ReqOp
  va : Nat
  size : Nat
  vec : Bool
  data : Line
  expected : Word
  poison : Option Word
  scope : BitVec 3
  rel : Bool
  acq : Bool
  scratch : Option Nat
  sync : Bool
deriving DecidableEq, Repr

/-- A plain access: no data, no ordering. -/
def Plan.plain (op : ReqOp) (va size : Nat) (vec : Bool) : Plan :=
  ⟨op, va, size, vec, 0, 0, none, 0, false, false, none, false⟩

/-- The effective address (R334). -/
def Site.ea (c : Site) (f : FmtM) : Option Nat :=
  (scalarArg c.l .a57).map (fun a => wrapN 57 ((a : Int) + f.off.toInt))

/-- Whether an operand is an ERR token. -/
def isErr (o : Option Token) : Bool :=
  match o with
  | some t => t.kind = .err
  | none => false

/-- Whether the predicate keeps the instruction from acting: an ERR, or the opposite value. -/
def Site.predStops (c : Site) (h : Head) : Bool := h.pred ≠ 0 && (isErr c.p || c.squashed h)

/-- The aligned effective address of an access, unless its address is an ERR (R334, R336). -/
def Site.alignedEa (c : Site) (f : FmtM) (size : Nat) : Option Nat :=
  if isErr c.l then none
  else match c.ea f with
    | some a => if a % size = 0 then some a else none
    | none => none

/-- The aligned effective address of an access, unless the address or the predicate stops it (R334, R336). -/
def Site.aligned (c : Site) (f : FmtM) (size : Nat) : Option Nat := if c.predStops f.h then none else c.alignedEa f size

/-- The cause of a memory instruction that issues nothing: FORMAT_TAG for a tag, PERM for the alignment (R334). -/
def Site.memCause (c : Site) (f : FmtM) (rOk : Bool) : Nat := if rOk && (c.ea f).isSome then cPerm else cFormatTag

/-- Whether the instruction's request may issue now; one that would issue nothing waits for nothing (R335). -/
def planReady (plan : Site → Option Plan) (s : State) (c : Site) : Bool :=
  match plan c with
  | none => true
  | some pl =>
    match s.portOf? c.site c.pe.kind with
    | some p => s.mayIssue p pl.op pl.va
    | none => false

/-- Issue a plan: a release waits for its party's writes, and a synchronising operation ends the SFR (R180, R183). -/
def Site.send (c : Site) (ty : BitVec 5) (pl : Plan) (dest : Dest) (s : State) : State :=
  match s.portOf? c.site c.pe.kind with
  | none => s
  | some p =>
    let n := s.fresh
    let r := p.request n.1 (siteErr c.lease.plane c.pe 0 c.slot) c.pe.inv pl.op pl.va pl.size ty pl.vec pl.data dest
    let s1 := n.2.issue p.id { r with
      after := if pl.rel then s.portWaits p else []
      expected := pl.expected, poison := pl.poison, scope := pl.scope, acq := pl.acq, toScratch := pl.scratch }
    if pl.sync then s1.endSfr p.party else s1

/-- Whether a target is named. -/
def hasTarget (h : Head) : Bool := h.t0 ≠ tNone || h.t1 ≠ tNone

/-- The place of an instruction's reply. -/
def Site.dest (c : Site) : Dest := .slot c.site c.slot

/-- Issue a request whose data or old value comes back (R335). -/
def Site.sendRead (c : Site) (f : FmtM) (pl : Plan) (s : State) : State := c.send f.ty pl c.dest (c.fly .reply s)

/-- Issue a write-class request: in flight only where a target is named (R335). -/
def Site.sendWrite (c : Site) (f : FmtM) (pl : Plan) (s : State) : State :=
  if hasTarget f.h then c.send f.ty pl c.dest (c.fly (.writes 1) s) else c.send f.ty pl .none s

/-- A load: its ERR operands and bad addresses answer at once, its request brings the value (R336, R338). -/
def loadIns (i : Instr) (f : FmtM) (size : Nat) (pl : Nat → Plan) (s : State) : Host.Outcome State Fault Refusal :=
  let plan := fun (c : Site) => (c.aligned f size).map pl
  fire i (planReady plan s) (errToBoth i) (fun c s =>
    match plan c with
    | some p => c.sendRead f p s
    | none => c.fail f.h (c.memCause f true) s) s

/-- The access size of a format M word (R334). -/
def FmtM.size (f : FmtM) (vec : Bool) : Nat := if vec then 64 else memSize (tyOf f.ty)

/-- VEC of LDRO, LDS and STS. -/
def FmtM.vecBit (f : FmtM) : Bool := f.idx.toNat.testBit 0

/-- LD (R338). -/
def execLd (f : FmtM) (s : State) : Host.Outcome State Fault Refusal :=
  loadIns (.ld f) f (FmtM.size f false) (fun a => Plan.plain (.load false) a (FmtM.size f false) false) s

/-- LDV (R338). -/
def execLdv (f : FmtM) (s : State) : Host.Outcome State Fault Refusal :=
  loadIns (.ldv f) f 64 (fun a => Plan.plain (.load false) a 64 true) s

/-- LDRO (R338). -/
def execLdro (f : FmtM) (s : State) : Host.Outcome State Fault Refusal :=
  let v := FmtM.vecBit f
  loadIns (.ldro f) f (FmtM.size f v) (fun a => Plan.plain (.load true) a (FmtM.size f v) v) s

/-- ACQ (R347): a load whose value is sent once the acquire drops of its scope are done. -/
def execAcq (f : FmtM) (s : State) : Host.Outcome State Fault Refusal :=
  loadIns (.acq f) f (FmtM.size f false) (fun a =>
    { Plan.plain (.load false) a (FmtM.size f false) false with scope := f.scope, acq := true, sync := true }) s

/-- PREF (R341): a prefetch of the line at EA; nothing is sent back. -/
def execPref (f : FmtM) (s : State) : Host.Outcome State Fault Refusal :=
  let plan := fun (c : Site) => (c.aligned f 1).map (fun a => Plan.plain .pref (lineOf a) 64 false)
  fire (.pref f) (planReady plan s) (errToBoth (.pref f)) (fun c s =>
    match plan c with
    | some p => c.send f.ty p .none s
    | none => c.fail f.h (c.memCause f true) s) s

/-- Raise the trap of an ERR operand (R131, R336). -/
def Site.trapOf (c : Site) (e : Token) (s : State) : State := s.raiseErr c.site.lease e.low

/-- The data operand of a store: its bytes, or the ERR that poisons the line (R225, R336, R339). -/
def storeData (r : Option Token) (ok : Token → Bool) : Option (Line × Option Word) :=
  match r with
  | some t => if t.kind = .err then some (0, some t.low) else if ok t then some (t.data, none) else none
  | none => none

/-- A store: an ERR address issues nothing, an ERR as data poisons the line, whatever the predicate is: R272 looks at ERRs before
it (R336, R339, assumption 69). -/
def storeIns (i : Instr) (f : FmtM) (size : Nat) (vec : Bool) (ok : Token → Bool) (rel : Bool) (s : State) :
    Host.Outcome State Fault Refusal :=
  let plan := fun (c : Site) => match if isErr c.r then c.alignedEa f size else c.aligned f size, storeData c.r ok with
    | some a, some d => some { Plan.plain .store a size vec with
        data := d.1, poison := d.2, scope := f.scope, rel := rel, sync := rel }
    | _, _ => none
  let go := fun (c : Site) (s : State) => match plan c with
    | some p => c.sendWrite f p s
    | none => c.fail f.h (c.memCause f (storeData c.r ok).isSome) s
  fire i (planReady plan s) (fun c e s =>
    if isErr c.l then c.reply f.h (n8Tok 0) (c.trapOf e s)
    else if isErr c.r then go c (c.trapOf e s)
    else c.reply f.h e s) go s

/-- ST (R339). -/
def execSt (f : FmtM) (s : State) : Host.Outcome State Fault Refusal :=
  storeIns (.st f) f (FmtM.size f false) false (fun t => t.isScalar (tyOf f.ty)) false s

/-- STV (R339): for raw512 any vector tag is accepted. -/
def execStv (f : FmtM) (s : State) : Host.Outcome State Fault Refusal :=
  storeIns (.stv f) f 64 true (fun t => t.vec && (tyOf f.ty = .raw512 || t.tag = (tyOf f.ty).tag)) false s

/-- REL (R347): waits as a release of its scope, then writes as ST does. -/
def execRel (f : FmtM) (s : State) : Host.Outcome State Fault Refusal :=
  storeIns (.rel f) f (FmtM.size f false) false (fun t => t.isScalar (tyOf f.ty)) true s

/-- Send an ERR whose trap has been raised: only to a target that holds a token (R131, R336). -/
def Site.passErr (c : Site) (h : Head) (e : Token) (s : State) : State :=
  s.emit c.site c.lease.plane (([h.t0, h.t1].filter (fun t => t ≠ tNone && t ≠ tDrop)).map (fun t => (t, e)))

/-- The plan of an atomic or reduction (R345). -/
def rmwPlan (f : FmtM) (op : ReqOp) (cas sync : Bool) (c : Site) : Option Plan :=
  let ty := tyOf f.ty
  let size := memSize ty
  match c.aligned f size, c.r with
  | some a, some r =>
    if !r.isScalar ty then none
    else
      let p := { Plan.plain op a size false with
        data := r.data, scope := f.scope, sync := sync, rel := sync && f.ord.toNat.testBit 1,
        acq := sync && f.ord.toNat.testBit 0 }
      if cas then
        match c.p with
        | some x => if x.isScalar ty then some { p with expected := x.low } else none
        | none => none
      else some p
  | _, _ => none

/-- Whether the data operands of an atomic carry TYPE's tag (R345). -/
def Site.rmwTags (c : Site) (f : FmtM) (cas : Bool) : Bool :=
  (scalarArg c.r (tyOf f.ty)).isSome && (!cas || (scalarArg c.p (tyOf f.ty)).isSome)

/-- An atomic (R336, R345): in flight until its old value returns. -/
def atomicIns (i : Instr) (f : FmtM) (op : RmwOp) (cas : Bool) (s : State) : Host.Outcome State Fault Refusal :=
  let plan := fun (c : Site) => if isErr c.r || (cas && isErr c.p) then none else rmwPlan f (.atomic op) cas true c
  fire i (planReady plan s) (fun c e s =>
    if isErr c.l || isErr c.r || cas then c.passErr f.h e (c.trapOf e s) else c.reply f.h e s)
    (fun c s => match plan c with
      | some p => c.sendRead f p s
      | none => c.fail f.h (c.memCause f (c.rmwTags f cas)) s) s

/-- AADD (R344). -/
def execAadd (f : FmtM) (s : State) : Host.Outcome State Fault Refusal := atomicIns (.aadd f) f .add false s
/-- AMIN (R344). -/
def execAmin (f : FmtM) (s : State) : Host.Outcome State Fault Refusal := atomicIns (.amin f) f .min false s
/-- AMAX (R344). -/
def execAmax (f : FmtM) (s : State) : Host.Outcome State Fault Refusal := atomicIns (.amax f) f .max false s
/-- AAND (R344). -/
def execAand (f : FmtM) (s : State) : Host.Outcome State Fault Refusal := atomicIns (.aand f) f .and false s
/-- AOR (R344). -/
def execAor (f : FmtM) (s : State) : Host.Outcome State Fault Refusal := atomicIns (.aor f) f .or false s
/-- AXOR (R344). -/
def execAxor (f : FmtM) (s : State) : Host.Outcome State Fault Refusal := atomicIns (.axor f) f .xor false s
/-- ASWP (R344). -/
def execAswp (f : FmtM) (s : State) : Host.Outcome State Fault Refusal := atomicIns (.aswp f) f .swap false s
/-- ACAS (R344, R345): compares bit patterns with P. -/
def execAcas (f : FmtM) (s : State) : Host.Outcome State Fault Refusal := atomicIns (.acas f) f .cas true s
/-- AFADD (R344). -/
def execAfadd (f : FmtM) (s : State) : Host.Outcome State Fault Refusal := atomicIns (.afadd f) f .fadd false s

/-- A reduction (R336, R345): no value comes back. -/
def reduceIns (i : Instr) (f : FmtM) (op : RmwOp) (s : State) : Host.Outcome State Fault Refusal :=
  let plan := fun (c : Site) => if isErr c.r then none else rmwPlan f (.reduce op) false false c
  fire i (planReady plan s) (fun c e s =>
    if isErr c.l || isErr c.r then c.reply f.h (n8Tok 0) (c.trapOf e s) else c.reply f.h e s)
    (fun c s => match plan c with
      | some p => c.sendWrite f p s
      | none => c.fail f.h (c.memCause f (c.rmwTags f false)) s) s

/-- REDADD (R344). -/
def execRedadd (f : FmtM) (s : State) : Host.Outcome State Fault Refusal := reduceIns (.redadd f) f .add s
/-- REDFADD (R344). -/
def execRedfadd (f : FmtM) (s : State) : Host.Outcome State Fault Refusal := reduceIns (.redfadd f) f .fadd s
/-- REDMAX (R344). -/
def execRedmax (f : FmtM) (s : State) : Host.Outcome State Fault Refusal := reduceIns (.redmax f) f .max s

/-- A range instruction (R349): a length of 0 sends 1 at once; else one request a line, issued in ascending order. -/
def rangeIns (i : Instr) (f : FmtM) (op : ReqOp) (s : State) : Host.Outcome State Fault Refusal :=
  fire i always (fun c e s =>
    if isErr c.l || isErr c.r then c.reply f.h (n8Tok 0) (c.trapOf e s) else c.reply f.h e s)
    (fun c s => match c.ea f, scalarArg c.r .n32 with
      | some a, some n =>
        if a % 64 ≠ 0 || n % 64 ≠ 0 then c.fail f.h cPerm s
        else if n = 0 then c.reply f.h (n8Tok 1) s
        else c.fly (.range op a (n / 64) 0) s
      | _, _ => c.fail f.h cFormatTag s) s

/-- DISCARD (R349). -/
def execDiscard (f : FmtM) (s : State) : Host.Outcome State Fault Refusal := rangeIns (.discard f) f .discard s
/-- FLUSHR (R349). -/
def execFlushr (f : FmtM) (s : State) : Host.Outcome State Fault Refusal := rangeIns (.flushr f) f .flushr s

/-- The progress of DISCARD and FLUSHR: the next line, then the completion token where a target is named (R349). -/
def progressRange (a : Air) (op : ReqOp) (va todo left : Nat) (s : State) : State :=
  if todo = 0 then
    (if left = 0 && a.free then s.land a (n8Tok 1) else s)
  else
    match s.portOf? a.site a.pe.kind with
    | none => s
    | some p =>
      if s.mayIssue p op va then
        let n := s.fresh
        let named := hasTarget a.h
        let r := p.request n.1 (siteErr a.lease.plane a.pe 0 a.fl.slot) a.pe.inv op va 64 0 true 0
          (if named then .slot a.site a.fl.slot else .none)
        let s1 := n.2.issue p.id r
        if todo = 1 && !named then s1.endFlight a.site a.fl.slot
        else s1.setFlight a.site a.fl.slot (.range op (wrapN 57 (va + 64)) (todo - 1) (if named then left + 1 else left))
      else s

/-- FENCE (R347): its release half waits for the party's writes, its acquire half for the loads and atomics of its port; till both
are done the port, or for an acquire the party, issues nothing. -/
def execFence (f : FmtM) (s : State) : Host.Outcome State Fault Refusal :=
  fire (.fence f) always (errToBoth (.fence f)) (fun c s =>
    match s.portOf? c.site c.pe.kind with
    | none => s
    | some p =>
      let acq := f.ord.toNat.testBit 0
      let waits := (if f.ord.toNat.testBit 1 then s.portWaits p else [])
        ++ (if acq then p.readsOut else [])
      let s1 := s.endSfr p.party
      match s1.port? p.id with
      | none => s
      | some q => c.fly (.release waits (.fence acq f.scope)) (s1.fenceCount p.id q.party acq true)) s

/-- NCINV (R348): waits for the loads of its port, then removes every line of its ASID. -/
def execNcinv (f : FmtM) (s : State) : Host.Outcome State Fault Refusal :=
  fire (.ncinv f) always (errToBoth (.ncinv f)) (fun c s =>
    match s.portOf? c.site c.pe.kind with
    | none => s
    | some p => c.fly (.ncinv p.loadsOut) (s.fenceCount p.id p.party false true)) s

/-- The progress of NCINV (R348). -/
def progressNcinv (a : Air) (loads : List Nat) (s : State) : State :=
  match s.portOf? a.site a.pe.kind with
  | none => s
  | some p =>
    if loads.all s.returned && a.free then
      let near := match s.clusterAt p with
        | some k => s.near.filter (fun n => !(n.die = k.1 && n.cluster = k.2 && n.asid = p.asid))
        | none => s.near
      ({ s with near := near }.fenceCount p.id p.party false false).land a (n8Tok 1)
    else s

end Sys2Proof.Machine
end

