-- ==== Sys2Proof/Machine/Scratch.lean ====
section
/-! DEFINITION. The scratchpad and circular-buffer instructions of an MU (R148 to R150, R340, R342, R343). -/

namespace Sys2Proof.Machine

open Sys2Proof

/-! ### Scratchpad (R148, R340) -/

/-- The scratchpad's bytes, as a number, from an offset. -/
def Mu.read (m : Mu) (off n : Nat) : Nat := ofBytes (memBytes m.sp off n)

/-- Words that a write covers whole can be corrected again; one that it covers in part stays as it is (R222). -/
def Mu.mend (m : Mu) (off n : Nat) : Mu := { m with bad := m.bad.filter (fun o => !(off ≤ o && o + 8 ≤ off + n)) }

/-- Whether an access meets a word that cannot be corrected (R222). -/
def Mu.broken (m : Mu) (off n : Nat) : Bool := m.bad.any (fun o => o < off + n && off < o + 8)

/-- Write bytes of a number into the scratchpad. -/
def Mu.write (m : Mu) (off n v : Nat) : Mu := { m with sp := memPutList m.sp off (toBytes n v) }.mend off n

/-- Change the MU of a site. -/
def State.modMu (s : State) (site : SiteRef) (f : Mu → Mu) : State := s.modPE site (fun pe => { pe with mu := f pe.mu })

/-- The scratchpad offset of LDS and STS (R340). -/
def Site.spOff (c : Site) (f : FmtM) : Option Nat :=
  (scalarArg c.l .n32).map (fun a => wrapN 18 ((a : Int) + f.off.toInt))

/-- Whether no line on its way from memory is still to be written over the bytes of an access (R340). -/
def Site.spClear (c : Site) (s : State) (off n : Nat) : Bool :=
  match s.portOf? c.site c.pe.kind with
  | none => true
  | some p => p.queue.all (fun r => match r.toScratch with
      | some o => o + 64 ≤ off || off + n ≤ o
      | none => true)

/-- Whether no line on its way from memory is still to be written into the MU's scratchpad: a circular-buffer instruction takes
effect after every scratchpad access issued before it (R340). -/
def Site.spIdle (c : Site) (s : State) : Bool :=
  match s.portOf? c.site c.pe.kind with
  | none => true
  | some p => p.queue.all (fun r => r.toScratch.isNone)

/-- MEM of LDS. -/
def FmtM.memBit (f : FmtM) : Bool := f.idx.toNat.testBit 1

/-- The scratchpad offset that LDS with MEM fills: an aligned n32 (R340). -/
def Site.fillOff (c : Site) : Option Nat :=
  match scalarArg c.r .n32 with
  | some o => if o % 64 = 0 then some (o % 2 ^ 18) else none
  | none => none

/-- LDS with MEM (R340): a memory line read through the port into the scratchpad. -/
def ldsMem (f : FmtM) (s : State) : Host.Outcome State Fault Refusal :=
  let plan := fun (c : Site) => match c.aligned f 64, c.fillOff with
    | some a, some o => if isErr c.r then none else some { Plan.plain (.load false) a 64 true with scratch := some o }
    | _, _ => none
  fire (.lds f) (planReady plan s) (errToBoth (.lds f)) (fun c s =>
    match plan c with
    | some p => c.sendRead f p s
    | none => c.fail f.h (c.memCause f (scalarArg c.r .n32).isSome) s) s

/-- LDS (R222, R340): reads the scratchpad into a token of TYPE; a word that cannot be corrected makes it ERR ECC_UNCORR. -/
def execLds (f : FmtM) (s : State) : Host.Outcome State Fault Refusal :=
  if FmtM.memBit f then ldsMem f s
  else
    let v := FmtM.vecBit f
    let n := FmtM.size f v
    let ty := tyOf f.ty
    fire (.lds f) (fun c => match c.spOff f with
        | some o => c.spClear s o n
        | none => true) (errToBoth (.lds f)) (fun c s =>
      match c.spOff f with
      | none => c.fail f.h cFormatTag s
      | some o =>
        if o % n ≠ 0 then c.fail f.h cPerm s
        else if c.pe.mu.broken o n then c.fail f.h cEccUncorr s
        else
          let x := c.pe.mu.read o n
          c.reply f.h (if v then Token.vector ty.tag 0 (BitVec.ofNat 512 x) else patTok ty x) s) s

/-- STS (R340): writes R into the scratchpad; an ERR writes nothing and raises its trap (R336). -/
def execSts (f : FmtM) (s : State) : Host.Outcome State Fault Refusal :=
  let v := FmtM.vecBit f
  let n := FmtM.size f v
  let ty := tyOf f.ty
  fire (.sts f) (fun c => match c.spOff f with
      | some o => c.spClear s o n
      | none => true)
    (fun c e s => if isErr c.l || isErr c.r then c.reply f.h (n8Tok 0) (c.trapOf e s) else c.reply f.h e s)
    (fun c s =>
      match c.spOff f, c.r with
      | some o, some t =>
        if !(if v then t.vec && (ty = .raw512 || t.tag = ty.tag) else t.isScalar ty) then c.fail f.h cFormatTag s
        else if o % n ≠ 0 then c.fail f.h cPerm s
        else c.reply f.h (n8Tok 1) (s.modMu c.site (fun m => m.write o n (t.data.toNat % 2 ^ (8 * n))))
      | _, _ => c.fail f.h cFormatTag s) s

/-! ### Circular buffers (R149, R150, R342) -/

/-- The descriptor that IDX names. -/
def Mu.cb (m : Mu) (k : Nat) : Cbd := (m.cbs[k]?).getD m.cbs[0]

/-- Change a descriptor. -/
def Mu.modCb (m : Mu) (k : Nat) (f : Cbd → Cbd) : Mu := { m with cbs := m.cbs.setIfInBounds k (f (m.cb k)) }

/-- CBD.lo (R149). -/
def Cbd.lo (d : Cbd) : Nat :=
  d.base.toNat + d.slots.toNat * 2 ^ 12 + d.slotsz.toNat * 2 ^ 24 + d.filled.toNat * 2 ^ 38 + d.free.toNat * 2 ^ 51

/-- CBD.hi (R149). -/
def Cbd.hi (d : Cbd) : Nat :=
  d.prodp.toNat + d.consp.toNat * 2 ^ 12 + b2n d.valid * 2 ^ 24 + d.pend.toNat * 2 ^ 25

/-- The scratchpad offset of a slot (R149). -/
def Cbd.offset (d : Cbd) (slot : Nat) : Nat := 64 * d.base.toNat + 64 * (d.slotsz.toNat + 1) * slot

/-- A descriptor from its two words (R149). -/
def Cbd.ofWords (lo hi : Word) : Cbd :=
  { free := BitVec.ofNat 13 (bitsOf lo.toNat 51 13), filled := BitVec.ofNat 13 (bitsOf lo.toNat 38 13)
    slotsz := BitVec.ofNat 12 (bitsOf lo.toNat 24 12), slots := BitVec.ofNat 12 (bitsOf lo.toNat 12 12)
    base := BitVec.ofNat 12 (bitsOf lo.toNat 0 12), pend := BitVec.ofNat 13 (bitsOf hi.toNat 25 13)
    valid := hi.toNat.testBit 24, consp := BitVec.ofNat 12 (bitsOf hi.toNat 12 12)
    prodp := BitVec.ofNat 12 (bitsOf hi.toNat 0 12), resv := [] }

/-- Whether a buffer of a base, slot count less one and slot size less one reaches past the scratchpad (R150). -/
def cbTooLarge (base slots sz : Nat) : Bool := 64 * (base + (slots + 1) * (sz + 1)) > 2 ^ 18

/-- A CB instruction ends its party's SFR: it is an acquire or a release at CLUSTER scope (R180, R193,
assumption 14). -/
def Site.cbSync (c : Site) (s : State) : State :=
  match s.portOf? c.site c.pe.kind with
  | some p => s.endSfr p.party
  | none => s

/-- The descriptor index of a CB instruction. -/
def FmtM.cbIdx (f : FmtM) : Nat := f.idx.toNat % 16

/-- The count of a CB instruction. -/
def FmtM.cbCount (f : FmtM) : Nat := f.off.toNat

/-- CBINIT (R150, R342). -/
def execCbinit (f : FmtM) (s : State) : Host.Outcome State Fault Refusal :=
  fire (.cbinit f) (fun c => c.spIdle s) (errToBoth (.cbinit f)) (fun c s =>
    match scalarArg c.l .n64 with
    | none => c.fail f.h cFormatTag s
    | some v =>
      let d := c.pe.mu.cb (FmtM.cbIdx f)
      let base := bitsOf v 0 12
      let slots := bitsOf v 12 12
      let sz := bitsOf v 24 12
      if v ≥ 2 ^ 36 || d.pend ≠ 0 || cbTooLarge base slots sz then c.fail f.h cCbMisuse s
      else
        let d' : Cbd := ⟨BitVec.ofNat 13 (slots + 1), 0, BitVec.ofNat 12 sz, BitVec.ofNat 12 slots, BitVec.ofNat 12 base,
          0, true, 0, 0, []⟩
        c.reply f.h (n64Tok d'.lo) (s.modMu c.site (fun m => m.modCb (FmtM.cbIdx f) (fun _ => d')))) s

/-- CBWAITF and CBWAITE (R150, R342): wait for a count, and send a slot's offset. -/
def cbWait (i : Instr) (f : FmtM) (count : Cbd → Nat) (ptr : Cbd → Nat) (s : State) :
    Host.Outcome State Fault Refusal :=
  fire i (fun c => c.spIdle s && (c.pe.mu.cb (FmtM.cbIdx f)).valid && FmtM.cbCount f ≤ count (c.pe.mu.cb (FmtM.cbIdx f)))
    (errToBoth i) (fun c s =>
      let d := c.pe.mu.cb (FmtM.cbIdx f)
      c.reply f.h (intTok .n32 (d.offset (ptr d) : Nat)) (c.cbSync s)) s

/-- CBWAITF (R342). -/
def execCbwaitf (f : FmtM) (s : State) : Host.Outcome State Fault Refusal :=
  cbWait (.cbwaitf f) f (fun d => d.filled.toNat) (fun d => d.consp.toNat) s
/-- CBWAITE (R342). -/
def execCbwaite (f : FmtM) (s : State) : Host.Outcome State Fault Refusal :=
  cbWait (.cbwaite f) f (fun d => d.free.toNat) (fun d => d.prodp.toNat) s

/-- A pointer advanced by a count, modulo SLOTS + 1 (R342). -/
def Cbd.advance (d : Cbd) (p : BitVec 12) (c : Nat) : BitVec 12 := BitVec.ofNat 12 ((p.toNat + c) % (d.slots.toNat + 1))

/-- CBPUSH and CBPOP (R150, R342): refused with CB_MISUSE where the count is not there. -/
def cbMove (i : Instr) (f : FmtM) (ready : Cbd → Bool) (from_ : Cbd → Nat) (g : Cbd → Cbd) (s : State) :
    Host.Outcome State Fault Refusal :=
  fire i (fun c => c.spIdle s && ready (c.pe.mu.cb (FmtM.cbIdx f))) (errToBoth i) (fun c s =>
    let d := c.pe.mu.cb (FmtM.cbIdx f)
    if !d.valid || from_ d < FmtM.cbCount f then c.fail f.h cCbMisuse s
    else
      c.reply f.h (n64Tok (g d).lo) (c.cbSync (s.modMu c.site (fun m => m.modCb (FmtM.cbIdx f) (fun _ => g d))))) s

/-- CBPUSH (R342): waits for engine slots, then publishes c slots. -/
def execCbpush (f : FmtM) (s : State) : Host.Outcome State Fault Refusal :=
  let c := FmtM.cbCount f
  cbMove (.cbpush f) f (fun d => d.pend = 0) (fun d => d.free.toNat)
    (fun d => { d with
      free := BitVec.ofNat 13 (d.free.toNat - c), filled := BitVec.ofNat 13 (d.filled.toNat + c)
      prodp := d.advance d.prodp c }) s

/-- CBPOP (R342): frees c slots. -/
def execCbpop (f : FmtM) (s : State) : Host.Outcome State Fault Refusal :=
  let c := FmtM.cbCount f
  cbMove (.cbpop f) f (fun _ => true) (fun d => d.filled.toNat)
    (fun d => { d with
      filled := BitVec.ofNat 13 (d.filled.toNat - c), free := BitVec.ofNat 13 (d.free.toNat + c)
      consp := d.advance d.consp c }) s

end Sys2Proof.Machine
end

