-- ==== Sys2Proof/Machine/Sync.lean ====
section
/-! DEFINITION. The paths between dies; teams, marks and synchronisation-free regions: the instructions of R350 to R352 and the
sync unit's operation (R28, R33 to R36, R135, R136). -/

namespace Sys2Proof.Machine

open Sys2Proof

/-! ### Paths (R28, R33 to R36) -/

/-- The seam between two live dies (R28). -/
def seamOf (a b : Nat) : Option Nat :=
  match min a b, max a b with
  | 0, 1 => some 0
  | 2, 3 => some 1
  | 0, 2 => some 2
  | 1, 3 => some 3
  | _, _ => none

/-- Whether a link carries memory traffic (R35). -/
def State.carries (s : State) (k : Nat) : Bool :=
  match s.links[k]? with
  | some l => l.st = .running || l.st = .quiescing
  | none => false

/-- Whether the seam between two dies carries memory traffic. -/
def State.seamUp (s : State) (a b : Nat) : Bool :=
  match seamOf a b with
  | some k => s.carries k
  | none => false

/-- The die that diagonal traffic between two dies passes (R33). -/
def State.via (s : State) (a b : Nat) : Nat :=
  if s.diagSwitched.contains (a, b) then Nat.xor a 2 else Nat.xor a 1

/-- Whether a request from a die reaches another die, or the CD (R33, R36). -/
def State.pathUp (s : State) (a b : Nat) : Bool :=
  if b = cdDie then s.dieUp a
  else if a = b then s.dieUp b
  else if Nat.xor a b = 3 then s.seamUp a (s.via a b) && s.seamUp (s.via a b) b && s.dieUp b
  else s.seamUp a b && s.dieUp b

/-! ### Teams (R135) -/

/-- A team of a context by its number; a dissolved one has no members. -/
def State.team? (s : State) (tid num : Nat) : Option Team :=
  s.teams.find? (fun t => t.tid = tid && t.num = num && !t.members.isEmpty)

/-- Whether a team number names a team dissolved with its die, which is still down (R387). -/
def State.teamLost (s : State) (tid num : Nat) : Bool :=
  s.teams.any (fun t => t.tid = tid && t.num = num && t.members.isEmpty && !s.dieUp t.die)

/-- Change a team. -/
def State.modTeam (s : State) (tid num : Nat) (f : Team → Team) : State :=
  { s with teams := updWhere (fun t => t.tid = tid && t.num = num && !t.members.isEmpty) f s.teams }

/-- Whether a PE in a plane is a member of a team (R135). -/
def Team.hasMember (t : Team) (site : SiteRef) (plane : Nat) : Bool :=
  t.members.any (fun m => m.site = site && m.plane = plane)

/-- A mark of a team. -/
def Team.mark (t : Team) (k : Nat) : Mark := (t.marks[k]?).getD ⟨0, 0, 0⟩

/-- Change a mark of a team. -/
def Team.setMark (t : Team) (k : Nat) (m : Mark) : Team := { t with marks := t.marks.setIfInBounds k m }

/-- The team number of an instruction: k[IDX][15:0] (R350). -/
def Site.teamNo (c : Site) (f : FmtM) : Nat := (c.cfg.k f.idx.toNat).toNat % 65536

/-- The mark number of an instruction (R350). -/
def FmtM.markNo (f : FmtM) : Nat := f.off.toNat

/-- Whether an operation ends as an acquire, before which its port issues no later access (R183, R192, assumption 31). -/
def SyncOp.acquires : SyncOp → Bool
  | .mwait _ _ | .arrive _ true => true
  | _ => false

/-- Send an operation to the sync unit of its team's die, or, for a new team, of the issuer's die, and stay in flight.
From a port, an arrival is a release and each mark operation ends the SFR (R351). -/
def Site.syncOp (c : Site) (f : FmtM) (op : SyncOp) (rel ends : Bool) (s : State) : State :=
  let num := c.teamNo f
  let die := match s.team? c.lease.tid num with
    | some t => t.die
    | none => c.lease.dieAt c.site.dx c.site.dy
  let port := s.portOf? c.site c.pe.kind
  let after := match port, rel with
    | some p, true => s.portWaits p
    | _, _ => []
  let s0 := match port, ends with
    | some p, true => s.endSfr p.party
    | _, _ => s
  let s1 := match port, op.acquires with
    | some p, true => s0.fenceCount p.id p.party false true
    | _, _ => s0
  let s2 := c.fly .reply s1
  { s2 with syncQ := s2.syncQ ++ [⟨die, c.lease.tid, num, c.site, c.lease.plane, c.slot, op, f.scope, after⟩] }

/-- TJOIN (R351). -/
def execTjoin (f : FmtM) (s : State) : Host.Outcome State Fault Refusal :=
  fire (.tjoin f) always (errToBoth (.tjoin f)) (fun c s => c.syncOp f .join false false s) s

/-- TLEAVE (R351). -/
def execTleave (f : FmtM) (s : State) : Host.Outcome State Fault Refusal :=
  fire (.tleave f) always (errToBoth (.tleave f)) (fun c s => c.syncOp f .leave false false s) s

/-- MARKINIT (R351): L carries n32. -/
def execMarkinit (f : FmtM) (s : State) : Host.Outcome State Fault Refusal :=
  fire (.markinit f) always (errToBoth (.markinit f)) (fun c s =>
    match scalarArg c.l .n32 with
    | some n => c.syncOp f (.markInit (FmtM.markNo f) n) false false s
    | none => c.fail f.h cFormatTag s) s

/-- ARRIVE (R351). -/
def execArrive (f : FmtM) (s : State) : Host.Outcome State Fault Refusal :=
  fire (.arrive f) always (errToBoth (.arrive f))
    (fun c s => c.syncOp f (.arrive (FmtM.markNo f) false) true true s) s

/-- MWAIT (R351): L carries n32. -/
def execMwait (f : FmtM) (s : State) : Host.Outcome State Fault Refusal :=
  fire (.mwait f) always (errToBoth (.mwait f)) (fun c s =>
    match scalarArg c.l .n32 with
    | some g => c.syncOp f (.mwait (FmtM.markNo f) (BitVec.ofNat 32 g)) false true s
    | none => c.fail f.h cFormatTag s) s

/-- ARRWAIT (R351). -/
def execArrwait (f : FmtM) (s : State) : Host.Outcome State Fault Refusal :=
  fire (.arrwait f) always (errToBoth (.arrwait f))
    (fun c s => c.syncOp f (.arrive (FmtM.markNo f) true) true true s) s

/-- SFREND (R352): ends the party's SFR and sends its new number. -/
def execSfrend (f : FmtM) (s : State) : Host.Outcome State Fault Refusal :=
  fire (.sfrend f) always (errToBoth (.sfrend f)) (fun c s =>
    match s.portOf? c.site c.pe.kind with
    | none => s
    | some p =>
      let s1 := s.endSfr p.party
      c.reply f.h (n64Tok (match s1.port? p.id with
        | some q => q.sfr
        | none => 0)) s1) s

/-! ### The sync unit (R135, R136) -/

/-- The port of the MU or AG that sent an operation. -/
def State.syncPort (s : State) (m : SyncMsg) : Option Port := (s.pe? m.site).bind (fun pe => s.portOf? m.site pe.kind)

/-- An operation that its sender still waits for has ended: its port issues again (R183). -/
def State.unhold (s : State) (m : SyncMsg) : State :=
  match s.syncPort m with
  | some p => if m.op.acquires && m.slot < 128 then s.fenceCount p.id p.party false false else s
  | none => s

/-- A member's answer: a scalar n64. -/
def State.syncReply (s : State) (m : SyncMsg) (n : Nat) : State := (s.unhold m).answer m.site m.slot (fun _ => n64Tok n)

/-- A refusal: ERR with a cause and the instruction's own slot as origin. -/
def State.syncErr (s : State) (m : SyncMsg) (cause : Nat) : State := (s.unhold m).answer m.site m.slot (fun a => a.ownErr cause)

/-- The acquire of a wait that ends, by the port's party of an MU or AG (R192, R351). -/
def State.waitAcquire (s : State) (m : SyncMsg) : State :=
  match s.syncPort m with
  | some p => s.acquire p.party m.scope
  | none => s

/-- A wait that ends with a generation (R136, R351). -/
def State.endWait (s : State) (m : SyncMsg) (gen : BitVec 32) : State := (s.waitAcquire m).syncReply m gen.toNat

/-- Release every waiter on an old generation of a mark (R136). -/
def State.releaseWaiters (s : State) (tid num mark : Nat) (gen : BitVec 32) : State :=
  let hit := fun (w : Waiter) => w.msg.tid = tid && w.msg.team = num && w.mark = mark && w.gen ≠ gen
  let ws := s.waiters.filter hit
  ws.foldl (fun s w => s.endWait w.msg gen) { s with waiters := s.waiters.filter (fun w => !hit w) }

/-- Count an arrival at a mark: the generation received, and the state with the mark advanced and its waiters released
(R136). -/
def State.arriveAt (s : State) (t : Team) (mark : Nat) : BitVec 32 × State :=
  let m := t.mark mark
  if m.count + 1 = m.expect then
    let g := m.gen + 1
    (m.gen, (s.modTeam t.tid t.num (fun t => t.setMark mark ⟨m.expect, 0, g⟩)).releaseWaiters t.tid t.num mark g)
  else (m.gen, s.modTeam t.tid t.num (fun t => t.setMark mark { m with count := m.count + 1 }))

/-- Wait on a generation, or answer at once (R136). -/
def State.waitOn (s : State) (m : SyncMsg) (mark : Nat) (gen : BitVec 32) : State :=
  match s.team? m.tid m.team with
  | none => s.syncErr m cMarkBusy
  | some t =>
    if (t.mark mark).gen ≠ gen then s.endWait m (t.mark mark).gen
    else { s with waiters := s.waiters ++ [⟨m, mark, gen⟩] }

/-- Whether an operation must wait at the sync unit: its release is not done, a collective of the team is open, the
team is full, or no entry is free for a new team (R135, R183, R351, R356). -/
def State.syncBlocked (s : State) (m : SyncMsg) : Bool :=
  !m.after.all s.settled ||
  match m.op, s.team? m.tid m.team with
  | .join, some t => !t.colls.isEmpty || (!t.hasMember m.site m.plane && t.members.length ≥ 65535)
  | .join, none => (s.teams.filter (fun t => t.die = m.die && !t.members.isEmpty)).length ≥ 1024
  | .leave, some t => !t.colls.isEmpty
  | _, _ => false

/-- A member leaves; the last one dissolves the team (R135). -/
def Team.without (t : Team) (site : SiteRef) (plane : Nat) : Team :=
  { t with members := t.members.filter (fun m => !(m.site = site && m.plane = plane)) }

/-- Remove teams that have no members and whose die is up. -/
def State.sweepTeams (s : State) : State :=
  { s with teams := s.teams.filter (fun t => !t.members.isEmpty || !s.dieUp t.die) }

/-- The trap of an engine's arrival that fails. -/
def SyncMsg.arrivalTrap (m : SyncMsg) (cause : Nat) : Trap :=
  { tid := m.tid, lease := some m.site.lease, cmd := none, err := errWord cause m.site.dx m.site.dy m.plane m.slot 0 false
    va := 0, partyA := 0, partyB := 0, unconf := false, degr := false, port := none, req := none }

/-- Apply an operation at its sync unit. A team that its die has lost is made anew by the first TJOIN, and no PE leaves it; mark
operations on it get DIE_DOWN (R135, R136, R351, R387). -/
def State.applySync (s : State) (m : SyncMsg) : State :=
  match s.team? m.tid m.team with
  | none =>
    match m.op with
    | .join =>
      ({ s with teams := ⟨m.tid, m.team, m.die, [⟨m.site, m.plane, 0⟩], Vector.replicate 24 ⟨0, 0, 0⟩, [], 0⟩
          :: s.teams.filter (fun t => !(t.tid = m.tid && t.num = m.team)) }).syncReply m (1 + 2 ^ 16)
    | .leave => s.syncErr m cMarkBusy
    | _ => s.syncErr m (if s.teamLost m.tid m.team then cDieDown else cMarkBusy)
  | some t =>
    let member := t.hasMember m.site m.plane
    match m.op with
    | .join =>
      if member then s.syncReply m (t.members.length + 2 ^ 17)
      else (s.modTeam m.tid m.team (fun t => { t with members := t.members ++ [⟨m.site, m.plane, t.opened⟩] })).syncReply m
        (t.members.length + 1)
    | .leave =>
      if !member then s.syncErr m cMarkBusy
      else (s.modTeam m.tid m.team (fun t => t.without m.site m.plane)).sweepTeams.syncReply m (t.members.length - 1)
    | .markInit mark n =>
      if n = 0 || n > 65535 || (t.mark mark).count ≠ 0 then s.syncErr m cMarkBusy
      else (s.modTeam m.tid m.team (fun t => t.setMark mark { t.mark mark with expect := n })).syncReply m n
    | .arrive mark wait =>
      if !member || (t.mark mark).expect = 0 then s.syncErr m cMarkBusy
      else
        let r := s.arriveAt t mark
        if wait then r.2.waitOn m mark r.1 else r.2.syncReply m r.1.toNat
    | .mwait mark g => if !member then s.syncErr m cMarkBusy else s.waitOn m mark g
    | .engineArrive mark =>
      if !member || (t.mark mark).expect = 0 then
        s.raise (m.arrivalTrap cMarkBusy)
      else (s.arriveAt t mark).2

/-- Whether an operation can reach its sync unit: the links between the die of its sender and that of the unit carry traffic
(R36). -/
def State.syncPath (s : State) (m : SyncMsg) : Bool :=
  match s.lease? m.site.lease with
  | some L => L.dieAt m.site.dx m.site.dy = m.die || s.pathUp (L.dieAt m.site.dx m.site.dy) m.die
  | none => true

/-- An operation that no link carries is answered with DIE_DOWN and not performed; an engine's arrival raises its trap (R36). -/
def State.syncLost (s : State) (m : SyncMsg) : State :=
  match m.op with
  | .engineArrive _ => s.raise (m.arrivalTrap cDieDown)
  | _ => s.syncErr m cDieDown

/-- The first operation of a sync unit that may be applied, and the rest: those of one member stay in the order issued
(R136). -/
def State.nextSync (s : State) (die : Nat) : List SyncMsg → List SyncMsg → Option (SyncMsg × List SyncMsg)
  | _, [] => none
  | passed, m :: l =>
    if m.die = die && !s.syncBlocked m && !passed.any (fun q => q.site = m.site && q.plane = m.plane && q.tid = m.tid)
    then some (m, passed.reverse ++ l)
    else s.nextSync die (m :: passed) l

/-- SYNC_UNIT_OP (R36, R136): the sync unit of a die applies the next operation that reaches it. -/
def execSyncUnitOp (s : State) : Host.Outcome State Fault Refusal :=
  match s.nextSync s.focus.die [] s.syncQ with
  | none => .next s
  | some (m, rest) =>
    let s1 : State := { s with syncQ := rest }
    .next (if s.syncPath m then s1.applySync m else s1.syncLost m)

end Sys2Proof.Machine
end

