-- ==== Sys2Proof/Machine/VectorData.lean ====
section
/-! DEFINITION. The vector data and reduction instructions of group 0x80 (R312 to R317). -/

namespace Sys2Proof.Machine

open Sys2Proof

/-- A movement of lanes of one vector of TYPE; `vw` tells whether the row's FN is register control (R301, R313). -/
def moveLanes (i : Instr) (f : FmtA) (vk : Bool) (g : Nat → List Nat → List Nat) (s : State) :
    Host.Outcome State Fault Refusal :=
  fireLocal i (fun c =>
    let ty := tyOf f.ty
    match vecArg (if vk then c.vk f c.l else c.l) ty with
    | some a =>
      let t := laneTok ty (g ty.laneCount a)
      some (if vk then vkEffect f t else Effect.both t)
    | none => none) s

/-- A movement of lanes of two vectors of TYPE (R313). -/
def moveLanes2 (i : Instr) (f : FmtA) (g : Nat → List Nat → List Nat → List Nat) (s : State) :
    Host.Outcome State Fault Refusal :=
  fireLocal i (fun c =>
    let ty := tyOf f.ty
    match vecArg c.l ty, vecArg c.r ty with
    | some a, some b => some (Effect.both (laneTok ty (g ty.laneCount a b)))
    | _, _ => none) s

/-- VBCAST (R313): the scalar L in every lane; only its class is checked (R211, R303). -/
def execVbcast (f : FmtA) (s : State) : Host.Outcome State Fault Refusal :=
  fireLocal (.vbcast f) (fun c =>
    let ty := tyOf f.ty
    match scalarBits c.l ty with
    | some a => some (vkEffect f (laneTok ty (List.replicate ty.laneCount a)))
    | none => none) s

/-- VEXTR (R313): lane FN of L, extended under R274. -/
def execVextr (f : FmtA) (s : State) : Host.Outcome State Fault Refusal :=
  fireLocal (.vextr f) (fun c =>
    let ty := tyOf f.ty
    match vecArg c.l ty with
    | some a => some (Effect.both (patTok ty (nth a f.body.fn 0)))
    | none => none) s

/-- VINS (R313): lane FN of L replaced by the scalar R, of which only the class is checked (R211, R303). -/
def execVins (f : FmtA) (s : State) : Host.Outcome State Fault Refusal :=
  fireLocal (.vins f) (fun c =>
    let ty := tyOf f.ty
    match vecArg c.l ty, scalarBits (c.rOrImm f) ty with
    | some a, some b => some (Effect.both (laneTok ty (a.set f.body.fn b)))
    | _, _ => none) s

/-- VSHUF (R313): R carries n8; byte i names the lane, and its bit 7 gives zero. -/
def execVshuf (f : FmtA) (s : State) : Host.Outcome State Fault Refusal :=
  fireLocal (.vshuf f) (fun c =>
    let ty := tyOf f.ty
    match vecArg (c.vk f c.l) ty, vecArg c.r .n8 with
    | some a, some b => some (vkEffect f (laneTok ty ((List.range ty.laneCount).map (fun q =>
        let x := nth b q 0
        if x ≥ 128 then 0 else nth a (x % ty.laneCount) 0))))
    | _, _ => none) s

/-- VROT (R313): lane (i + FN) mod n of L. -/
def execVrot (f : FmtA) (s : State) : Host.Outcome State Fault Refusal :=
  moveLanes (.vrot f) f false (fun n a => (List.range n).map (fun q => nth a ((q + f.body.fn) % n) 0)) s

/-- VSLIDE (R313): lane i + FN of the concatenation of L and R. -/
def execVslide (f : FmtA) (s : State) : Host.Outcome State Fault Refusal :=
  moveLanes2 (.vslide f) f (fun n a b => ((a ++ b).drop f.body.fn).take n) s

/-- VZIP (R313): half FN of L interleaved with that half of R. -/
def execVzip (f : FmtA) (s : State) : Host.Outcome State Fault Refusal :=
  moveLanes2 (.vzip f) f (fun n a b => (List.range n).map (fun q =>
    nth (if q % 2 = 0 then a else b) (q / 2 + f.body.fn * (n / 2)) 0)) s

/-- VUNZIP (R313): the even or odd lanes of L, then those of R. -/
def execVunzip (f : FmtA) (s : State) : Host.Outcome State Fault Refusal :=
  moveLanes2 (.vunzip f) f (fun n a b => (List.range n).map (fun q =>
    if q < n / 2 then nth a (2 * q + f.body.fn) 0 else nth b (2 * (q - n / 2) + f.body.fn) 0)) s

/-- VMASK (R313): lanes whose bit of the scalar n64 R is clear become zero. -/
def execVmask (f : FmtA) (s : State) : Host.Outcome State Fault Refusal :=
  fireLocal (.vmask f) (fun c =>
    let ty := tyOf f.ty
    match vecArg (c.vk f c.l) ty, scalarArg c.r .n64 with
    | some a, some m => some (vkEffect f (laneTok ty (a.mapIdx (fun q x => if m.testBit q then x else 0))))
    | _, _ => none) s

/-- VPACK (R314): L and R of TYPE2 narrowed into one vector of TYPE. -/
def execVpack (f : FmtA) (s : State) : Host.Outcome State Fault Refusal :=
  fireLocal (.vpack f) (fun c =>
    let src := tyOf f.body.ty2
    let ty := tyOf f.ty
    match vecArg c.l src, vecArg c.r src with
    | some a, some b =>
      let r := seeded (cvtLane ty src f.body.rm f.body.sat) (c.seed f) (a ++ b)
      some { Effect.both (laneTok ty r.1) with flags := r.2.1, keep := seedKeep c f.body r.2.2 }
    | _, _ => none) s

/-- VUNPACK (R314): half FN of L, of TYPE2, widened into TYPE. -/
def execVunpack (f : FmtA) (s : State) : Host.Outcome State Fault Refusal :=
  fireLocal (.vunpack f) (fun c =>
    let src := tyOf f.body.ty2
    let ty := tyOf f.ty
    match vecArg c.l src with
    | some a =>
      let half := (a.drop (f.body.fn * ty.laneCount)).take ty.laneCount
      if ty.isInt then some (Effect.both (laneTok ty (half.map (fun x => wrapN ty.width (src.readInt x)))))
      else
        let r := seeded (cvtLane ty src .rne false) 1 half
        some ((Effect.both (laneTok ty r.1)).withFlags r.2.1)
    | none => none) s

/-! ### Reductions and scans (R315) -/

/-- One level of the pairwise tree of R220. -/
def treeLevel (g : Nat → Nat → Nat × Flags) : List Nat → List Nat × Flags
  | a :: b :: l =>
    let r := g a b
    let t := treeLevel g l
    (r.1 :: t.1, r.2 ||| t.2)
  | l => (l, 0)

/-- The pairwise tree of R220, by levels. -/
def treeFold (g : Nat → Nat → Nat × Flags) : Nat → List Nat → Nat × Flags
  | 0, l => (nth l 0 0, 0)
  | k + 1, l =>
    if l.length ≤ 1 then (nth l 0 0, 0)
    else
      let r := treeLevel g l
      let t := treeFold g k r.1
      (t.1, r.2 ||| t.2)

/-- One node of a reduction or step of a scan: 0 add, 1 max, 2 min, on codes of a type (R315). -/
def nodeOp (ty : Ty) (op : Nat) (a b : Nat) : Nat × Flags :=
  match ty.ff with
  | some fm =>
    let x := fm.read a
    let y := fm.read b
    (match op with
     | 0 => fAdd .rne x y
     | 1 => fMinMax true x y
     | _ => fMinMax false x y).round fm .rne false 0
  | none =>
    let x := ty.readInt a
    let y := ty.readInt b
    (wrapN ty.width (match op with
     | 0 => x + y
     | 1 => max x y
     | _ => min x y), 0)

/-- VREDADD, VREDMAX and VREDMIN (R220, R315). -/
def reduceOp (i : Instr) (f : FmtA) (op : Nat) (s : State) : Host.Outcome State Fault Refusal :=
  fireLocal i (fun c =>
    let ty := tyOf f.ty
    match vecArg (c.vk f c.l) ty with
    | some a =>
      let r := treeFold (nodeOp ty op) 7 a
      some ((Effect.both (patTok ty r.1)).withFlags r.2)
    | none => none) s

/-- VREDADD (R315). -/
def execVredadd (f : FmtA) (s : State) : Host.Outcome State Fault Refusal := reduceOp (.vredadd f) f 0 s
/-- VREDMAX (R315). -/
def execVredmax (f : FmtA) (s : State) : Host.Outcome State Fault Refusal := reduceOp (.vredmax f) f 1 s
/-- VREDMIN (R315). -/
def execVredmin (f : FmtA) (s : State) : Host.Outcome State Fault Refusal := reduceOp (.vredmin f) f 2 s

/-- The running values of a scan, with all flags (R315). -/
def scanLanes (g : Nat → Nat → Nat × Flags) : Nat → List Nat → List Nat × Flags
  | _, [] => ([], 0)
  | y, a :: l =>
    let r := g y a
    let t := scanLanes g r.1 l
    (r.1 :: t.1, r.2 ||| t.2)

/-- VSCAN (R315): FN[1:0] chooses the operation, R gives the carry-in. -/
def execVscan (f : FmtA) (s : State) : Host.Outcome State Fault Refusal :=
  fireLocal (.vscan f) (fun c =>
    let ty := tyOf f.ty
    match vecArg c.l ty, scalarArg (c.rOrImm f) ty with
    | some a, some y =>
      let r := scanLanes (nodeOp ty (f.body.fn % 4)) y a
      some ((Effect.both (laneTok ty r.1)).withFlags r.2)
    | _, _ => none) s

/-! ### 2:4 compression (R219, R316) -/

/-- Whether a value's magnitude ranks strictly below another's: a NaN ranks above ∞ (R219, R316). -/
def magBelow (x y : FV) : Bool :=
  match x.isNan, y.isNan with
  | true, _ => false
  | false, true => true
  | false, false => decide (FV.cmp x.abs y.abs < 0)

/-- Whether one lane code ranks strictly below another (R219, R316). -/
def rankBelow (ty : Ty) (a b : Nat) : Bool :=
  match ty.ff with
  | some fm => magBelow (fm.read a) (fm.read b)
  | none => decide ((ty.readInt a).natAbs < (ty.readInt b).natAbs)

/-- The index of the greatest of some lanes, the lower index on a tie. -/
def bestOf (below : Nat → Nat → Bool) (l : List Nat) : List Nat → Nat
  | [] => 0
  | q :: qs => qs.foldl (fun b k => if below (nth l b 0) (nth l k 0) then k else b) q

/-- The two lane indices kept of a group of four, ascending (R219). -/
def keptOf (ty : Ty) (g : List Nat) : Nat × Nat :=
  let a := bestOf (rankBelow ty) g [0, 1, 2, 3]
  let b := bestOf (rankBelow ty) g ([0, 1, 2, 3].filter (fun q => q ≠ a))
  (min a b, max a b)

/-- VCOMPRESS (R219, R316): the kept values to target0, the metadata to target1. -/
def execVcompress (f : FmtA) (s : State) : Host.Outcome State Fault Refusal :=
  fireLocal (.vcompress f) (fun c =>
    let ty := tyOf f.ty
    match vecArg (c.vk f c.l) ty with
    | some a =>
      let groups := (List.range (ty.laneCount / 4)).map (fun g => (a.drop (4 * g)).take 4)
      let kept := groups.map (fun g => (g, keptOf ty g))
      let vals := kept.flatMap (fun k => [nth k.1 k.2.1 0, nth k.1 k.2.2 0])
      let meta_ := packDigits 4 (kept.map (fun k => k.2.1 + 4 * k.2.2))
      some ⟨some (laneTok ty vals), some (intTok .n64 meta_), none, none, 0⟩
    | none => none) s

/-- VEXPAND (R316): reverses VCOMPRESS with the metadata in R. -/
def execVexpand (f : FmtA) (s : State) : Host.Outcome State Fault Refusal :=
  fireLocal (.vexpand f) (fun c =>
    let ty := tyOf f.ty
    match vecArg c.l ty, scalarArg c.r .n64 with
    | some a, some m =>
      some (vkEffect f (laneTok ty ((List.range ty.laneCount).map (fun q =>
        let g := q / 4
        let lo := bitsOf m (4 * g) 2
        let hi := bitsOf m (4 * g + 2) 2
        if lo < hi then (if q % 4 = lo then nth a (2 * g) 0 else if q % 4 = hi then nth a (2 * g + 1) 0 else 0)
        else 0))))
    | _, _ => none) s

/-! ### Counts and tags (R317) -/

/-- Whether a lane code counts as nonzero: ±0 does not (R317). -/
def laneNonzero (ty : Ty) (x : Nat) : Bool :=
  match ty.ff with
  | some fm => !(fm.read x).isZero
  | none => x ≠ 0

/-- VPOPC (R317): the number of nonzero lanes. -/
def execVpopc (f : FmtA) (s : State) : Host.Outcome State Fault Refusal :=
  fireLocal (.vpopc f) (fun c =>
    let ty := tyOf f.ty
    match vecArg (c.vk f c.l) ty with
    | some a => some (Effect.both (intTok .n64 ((a.filter (laneNonzero ty)).length : Nat)))
    | none => none) s

/-- VTAGQ (R317): tag, class and scales. -/
def execVtagq (f : FmtA) (s : State) : Host.Outcome State Fault Refusal :=
  fireLocal (.vtagq f) (fun c =>
    match c.l with
    | some t => some (Effect.both (intTok .n64
        (t.tag.toNat + (if t.vec then 32 + 256 * t.scales.toNat else 0) : Nat)))
    | none => none) s

/-- VTAGSET (R317): L with its tag set to TYPE; a scalar L of an MX or raw512 TYPE is answered with FORMAT_TAG. -/
def execVtagset (f : FmtA) (s : State) : Host.Outcome State Fault Refusal :=
  fireLocal (.vtagset f) (fun c =>
    let ty := tyOf f.ty
    match c.vk f c.l with
    | some t =>
      if !t.vec && (ty.isMX || ty = .raw512) then none
      else some (vkEffect f { t with tag := ty.tag, scales := if ty.isMX then t.scales else 0 })
    | none => none) s

end Sys2Proof.Machine
end

