-- ==== Sys2Proof/Machine/Matrix.lean ====
section
/-! DEFINITION. The weight and accumulator instructions of group 0xA0 that a CU runs (R318 to R329), and the progress
of those that stay in flight. -/

namespace Sys2Proof.Machine

open Sys2Proof

/-! ### Tiles (R142) -/

/-- An accumulator tile. -/
def Cu.tile (u : Cu) (k : Nat) : Tile := (u.tiles[k]?).getD u.tiles[0]

/-- Change an accumulator tile. -/
def Cu.modTile (u : Cu) (k : Nat) (f : Tile → Tile) : Cu := { u with tiles := u.tiles.setIfInBounds k (f (u.tile k)) }

/-- BUSY. -/
def Tile.busy (t : Tile) : Bool := t.stat.toNat.testBit 8
/-- OWNV. -/
def Tile.ownv (t : Tile) : Bool := t.stat.toNat.testBit 7
/-- OWNER. -/
def Tile.owner (t : Tile) : Nat := bitsOf t.stat.toNat 5 2

/-- Set BUSY. -/
def Tile.setBusy (t : Tile) (b : Bool) : Tile := { t with stat := setField t.stat 8 1 (b2n b) }

/-- Set OWNER and OWNV. -/
def Tile.setOwner (t : Tile) (plane : Nat) : Tile := { t with stat := setField (setField t.stat 5 2 plane) 7 1 1 }

/-- Whether a plane may touch the tile (R142). -/
def Tile.admits (t : Tile) (plane : Nat) : Bool := !t.ownv || t.owner = plane

/-- The tile claimed by a plane that it admits (R142). -/
def Tile.claim (t : Tile) (plane : Nat) : Tile := if t.ownv then t else t.setOwner plane

/-- Half row h of row r. -/
def Tile.half (t : Tile) (k : Nat) : Line := (t.halves[k]?).getD 0

/-- Write a half row; the tag becomes f32 (R142). -/
def Tile.setHalf (t : Tile) (k : Nat) (v : Line) : Tile :=
  { t with halves := t.halves.setIfInBounds k v, stat := setField t.stat 0 5 10 }

/-- Whether an ASPILL or AFILL in flight holds a tile (R327). -/
def Instance.holdsTile (i : Instance) (k : Nat) : Bool :=
  i.flight.any (fun fl => match fl.op with
    | .spill t _ _ => t = k
    | .fill t _ _ _ => t = k
    | _ => false)

/-- Whether a tile is BUSY or held (R126, R327). -/
def Site.tileFree (c : Site) (k : Nat) : Bool := !(c.pe.cu.tile k).busy && !c.inst.holdsTile k

/-- Change the CU of a site. -/
def State.modCu (s : State) (site : SiteRef) (f : Cu → Cu) : State := s.modPE site (fun pe => { pe with cu := f pe.cu })

/-- The tile that IDX0 names. -/
def FmtX.tile (f : FmtX) : Nat := f.idx0.toNat % 4

/-- The half row that MODE[0] and N13[4:0] name. -/
def FmtX.halfRow (f : FmtX) : Nat := 2 * (f.n13.toNat % 32) + f.mode.toNat % 2

/-- ATSTAT as a token (R318). -/
def Tile.statTok (t : Tile) : Token := intTok .n16 (t.stat.toNat : Nat)

/-- A tile instruction of R327: it waits for the tile, a plane that does not own it is refused, and what it does ends
with the tile claimed; a bad operand performs nothing. -/
def tileOp (i : Instr) (f : FmtX) (okArg : Site → Bool) (body : Site → State → State) (s : State) :
    Host.Outcome State Fault Refusal :=
  fire i (fun c => c.tileFree (FmtX.tile f)) (errToBoth i) (fun c s =>
    if !okArg c || !(c.pe.cu.tile (FmtX.tile f)).admits c.lease.plane then c.fail i.head cFormatTag s
    else body c (s.modCu c.site (fun u => u.modTile (FmtX.tile f) (fun t => t.claim c.lease.plane)))) s

/-- Send a tile's ATSTAT as it stands in a state. -/
def Site.sendStat (c : Site) (h : Head) (k : Nat) (s : State) : State :=
  match s.pe? c.site with
  | some pe => c.reply h (pe.cu.tile k).statTok s
  | none => s

/-- Change the tile and send its ATSTAT. -/
def Site.tileThenStat (c : Site) (f : FmtX) (g : Tile → Tile) (s : State) : State :=
  c.sendStat f.h (FmtX.tile f) (s.modCu c.site (fun u => u.modTile (FmtX.tile f) g))

/-- AZERO (R327): every element +0.0, tag f32. -/
def execAzero (f : FmtX) (s : State) : Host.Outcome State Fault Refusal :=
  tileOp (.azero f) f (fun _ => true) (fun c s => c.tileThenStat f
    (fun t => { t with halves := Vector.replicate 64 0, stat := setField t.stat 0 5 10 }) s) s

/-- ALOAD (R327): half a row from a vector tagged f32. -/
def execAload (f : FmtX) (s : State) : Host.Outcome State Fault Refusal :=
  tileOp (.aload f) f (fun c => (vecArg c.l .f32).isSome) (fun c s => c.tileThenStat f
    (fun t => t.setHalf (FmtX.halfRow f) ((c.l.map Token.data).getD 0)) s) s

/-- ADRAIN (R327): sends half a row, and with CLEAR zeroes it. -/
def execAdrain (f : FmtX) (s : State) : Host.Outcome State Fault Refusal :=
  tileOp (.adrain f) f (fun _ => true) (fun c s =>
    let t := c.pe.cu.tile (FmtX.tile f)
    c.reply f.h (Token.vector Ty.f32.tag 0 (t.half (FmtX.halfRow f)))
      (s.modCu c.site (fun u => u.modTile (FmtX.tile f) (fun t =>
        if f.mode.toNat.testBit 1 then t.setHalf (FmtX.halfRow f) 0 else t)))) s

/-- ASPILL (R327): stays in flight until its 64 vectors have been sent. -/
def execAspill (f : FmtX) (s : State) : Host.Outcome State Fault Refusal :=
  tileOp (.aspill f) f (fun _ => true)
    (fun c s => c.fly (.spill (FmtX.tile f) 0 (f.mode.toNat.testBit 0)) s) s

/-- AFILL (R327): stays in flight until it has taken 64 tokens. -/
def execAfill (f : FmtX) (s : State) : Host.Outcome State Fault Refusal :=
  tileOp (.afill f) f (fun _ => true)
    (fun c s => c.fly (.fill (FmtX.tile f) f.idx1.toNat 0 none) s) s

/-- AOWN (R328): hands over or releases ownership. -/
def execAown (f : FmtX) (s : State) : Host.Outcome State Fault Refusal :=
  fire (.aown f) always (errToBoth (.aown f)) (fun c s =>
    if !(c.pe.cu.tile (FmtX.tile f)).admits c.lease.plane then c.fail f.h cFormatTag s
    else c.tileThenStat f (fun t =>
      if f.mode.toNat.testBit 0 then { t with stat := setField t.stat 7 1 0 }
      else t.setOwner (f.idx1.toNat % 4)) s) s

/-- The progress of ASPILL: one vector when target0 has a slot, then ATSTAT on target1 (R327). -/
def progressSpill (a : Air) (tile next : Nat) (clear : Bool) (s : State) : State :=
  if next < 64 then
    if a.pe.targetsFree a.lease.plane a.h.t0 tNone then
      let v := Token.vector Ty.f32.tag 0 ((a.pe.cu.tile tile).half next)
      (((s.modCu a.site (fun u => u.modTile tile (fun t => if clear then t.setHalf next 0 else t))).setFlight
        a.site a.fl.slot (.spill tile (next + 1) clear)).emit a.site a.lease.plane [(a.h.t0, v)]).progress a.site.lease
    else s
  else if a.pe.targetsFree a.lease.plane tNone a.h.t1 then
    (s.endFlight a.site a.fl.slot).emit a.site a.lease.plane [(a.h.t1, (a.pe.cu.tile tile).statTok)]
  else s

/-- The token that AFILL takes next, as RECV takes it, and whether it pops one; none from a feed (R277, R323, R327). -/
def fillTake (a : Air) (ch : Nat) : Option (Token × Bool) :=
  let cfg := a.pe.cfg a.lease.plane
  if a.inst.eoi && cfg.inConn ch && !cfg.inLC ch then some (Token.scalar Ty.n64.tag 0, false)
  else if isFeed a.pe a.lease.plane (a.lease.sysLeft a.lease.plane a.pe) ch then none
  else match a.pe.head ch with
    | some t => if t.seen then some (t, true) else none
    | none => none

/-- The progress of AFILL: one token, then ATSTAT or the first ERR (R327). -/
def progressFill (a : Air) (tile ch next : Nat) (bad : Option Word) (s : State) : State :=
  if next < 64 then
    match fillTake a ch with
    | none => s
    | some (t, pops) =>
      let wrong : Option Word :=
        if t.kind = .err then some t.low
        else if t.isVector .f32 then none
        else some (siteErr a.lease.plane a.pe cFormatTag a.fl.slot)
      let bad' := match bad with
        | some e => some e
        | none => wrong
      let s1 := if pops then s.modPE a.site (fun pe => pe.takeIn a.lease.plane ch) else s
      let s2 := if bad'.isSome then s1
        else s1.modCu a.site (fun u => u.modTile tile (fun k => k.setHalf next t.data))
      (s2.setFlight a.site a.fl.slot (.fill tile ch (next + 1) bad')).progress a.site.lease
  else if a.free then
    s.land a (match bad with
      | some e => Token.ofErr e false
      | none => (a.pe.cu.tile tile).statTok)
  else s

/-! ### Weights (R319 to R322) -/

/-- A weight buffer: w0 for false, w1 for true. -/
def Cu.buf (u : Cu) (b : Bool) : WBuf := if b then u.wbuf[1] else u.wbuf[0]

/-- Change a weight buffer. -/
def Cu.modBuf (u : Cu) (b : Bool) (f : WBuf → WBuf) : Cu := { u with wbuf := u.wbuf.setIfInBounds (b2n b) (f (u.buf b)) }

/-- Whether a vector in the array reads a buffer (R322). -/
def Cu.reads (u : Cu) (b : Bool) : Bool := u.array.any (fun v => v.buf == b)

/-- Whether WLOAD and WSPARSE may write the inactive buffer (R320). -/
def loadReady (c : Site) : Bool := c.pe.cu.wswap.isNone && !c.pe.cu.reads (!c.pe.cu.wact)

/-- Write WSC entries from an index on, modulo 128 (R147, R320, R322). -/
def WBuf.putScales (w : WBuf) (first : Nat) : List Nat → WBuf
  | [] => w
  | x :: xs => WBuf.putScales { w with wsc := setField w.wsc (8 * (first % 128)) 8 x } (first + 1) xs

/-- WLOAD (R320): one column of the inactive buffer, with its scales for an MX type. -/
def execWload (f : FmtX) (s : State) : Host.Outcome State Fault Refusal :=
  fire (.wload f) loadReady (errToBoth (.wload f)) (fun c s =>
    let ty := tyOf f.ty
    let n := f.n13.toNat % 32
    match c.l with
    | some t =>
      if t.isVector ty then
        let sc := if ty.isMX then (List.range (if ty = .mxf4 then 4 else 2)).map (scaleOf t.scales) else []
        c.reply f.h (n8Tok n) (s.modCu c.site (fun u => u.modBuf (!u.wact) (fun w =>
          WBuf.putScales { w with cols := w.cols.setIfInBounds n t.data, tag := ty.tag, sparse := false } (4 * n) sc)))
      else c.fail f.h cFormatTag s
    | none => s) s

/-- WSPARSE (R321): half a column in 2:4 form, with its metadata. -/
def execWsparse (f : FmtX) (s : State) : Host.Outcome State Fault Refusal :=
  fire (.wsparse f) loadReady (errToBoth (.wsparse f)) (fun c s =>
    let ty := tyOf f.ty
    let n := f.n13.toNat % 32
    let h := f.mode.toNat % 2
    let kb := ty.laneCount
    match vecArg c.l ty, scalarArg c.r .n64 with
    | some vals, some m =>
      c.reply f.h (n8Tok n) (s.modCu c.site (fun u => u.modBuf (!u.wact) (fun w =>
        { w with
          cols := w.cols.setIfInBounds n (setLine ((w.cols[n]?).getD 0) (256 * h) 256
            (packDigits ty.laneWidth (vals.take (kb / 2))))
          map := setField w.map (2 * kb * n + kb * h) kb m
          tag := ty.tag
          sparse := true })))
    | _, _ => c.fail f.h cFormatTag s) s

/-- WSWAP (R322): WACT inverts after N13 more vectors; it stays in flight while pending. -/
def execWswap (f : FmtX) (s : State) : Host.Outcome State Fault Refusal :=
  fire (.wswap f) (fun c => c.pe.cu.wswap.isNone) (errToBoth (.wswap f)) (fun c s =>
    c.fly .wswap (s.modCu c.site (fun u =>
      { u with wswap := some f.n13.toNat, wact := if f.n13 = 0 then !u.wact else u.wact }))) s

/-- The progress of WSWAP: it ends when no vector reads the buffer that was active (R322). -/
def progressWswap (a : Air) (s : State) : State :=
  if a.pe.cu.wswap = some 0 && !a.pe.cu.reads (!a.pe.cu.wact) && a.free then
    (s.modCu a.site (fun u => { u with wswap := none })).land a (n8Tok (b2n a.pe.cu.wact))
  else s

/-- WSCALE (R322): rewrites block scales from bytes of an n32. -/
def execWscale (f : FmtX) (s : State) : Host.Outcome State Fault Refusal :=
  let b := f.idx0.toNat.testBit 0
  fire (.wscale f) (fun c => c.pe.cu.wswap.isNone && !c.pe.cu.reads b) (errToBoth (.wscale f)) (fun c s =>
    match scalarArg c.l .n32 with
    | some v =>
      c.reply f.h (n8Tok (b2n b)) (s.modCu c.site (fun u => u.modBuf b (fun w =>
        w.putScales (f.n13.toNat % 128) ((List.range (f.mode.toNat % 4 + 1)).map (fun q => bitsOf v (8 * q) 8)))))
    | none => c.fail f.h cFormatTag s) s

/-! ### Batches, γ and status (R324, R325, R329) -/

/-- Queue a batch (R324). -/
def Cu.queueBatch (u : Cu) (mode tile len : Nat) : Cu :=
  { u with batches := u.batches ++ [⟨mode, tile, len, 0⟩], batchNo := u.batchNo + 1 }

/-- MACC (R324): queues a batch, claiming its tile, and sends its number. -/
def execMacc (f : FmtX) (s : State) : Host.Outcome State Fault Refusal :=
  fire (.macc f) (fun c => c.pe.cu.batches.length < 4) (errToBoth (.macc f)) (fun c s =>
    let mode := f.mode.toNat % 4
    if mode ≠ 0 && !(c.pe.cu.tile (FmtX.tile f)).admits c.lease.plane then c.fail f.h cFormatTag s
    else c.reply f.h (n64Tok c.pe.cu.batchNo) (s.modCu c.site (fun u =>
      (if mode ≠ 0 then u.modTile (FmtX.tile f) (fun t => t.claim c.lease.plane) else u).queueBatch mode (FmtX.tile f)
        (f.n13.toNat + 1)))) s

/-- ADECAY (R325): sets γ once no tile is BUSY, and sends the old one. -/
def execAdecay (f : FmtX) (s : State) : Host.Outcome State Fault Refusal :=
  fire (.adecay f) (fun c => (List.range 4).all (fun k => !(c.pe.cu.tile k).busy)) (errToBoth (.adecay f)) (fun c s =>
    match scalarArg c.l .f32 with
    | some v => c.reply f.h (patTok .f32 c.pe.cu.decayg.toNat)
        (s.modCu c.site (fun u => { u with decayg := BitVec.ofNat 32 v }))
    | none => c.fail f.h cFormatTag s) s

/-- MSTAT (R329): the four ATSTATs, or weight and batch state. -/
def execMstat (f : FmtX) (s : State) : Host.Outcome State Fault Refusal :=
  fireLocal (.mstat f) (fun c =>
    let u := c.pe.cu
    if f.mode.toNat.testBit 0 then
      some (Effect.both (n64Tok (b2n u.wact + (u.buf false).tag.toNat * 2 + (u.buf true).tag.toNat * 2 ^ 6
        + b2n (u.buf false).sparse * 2 ^ 11 + b2n (u.buf true).sparse * 2 ^ 12 + b2n u.wswap.isSome * 2 ^ 13
        + u.batches.length % 8 * 2 ^ 14 + u.decayg.toNat * 2 ^ 32)))
    else some (Effect.both (n64Tok (packDigits 16 ((List.range 4).map (fun k => (u.tile k).stat.toNat)))))) s

end Sys2Proof.Machine
end

