-- ==== Sys2Proof/Machine/Tiles.lean ====
section
/-! DEFINITION. Tile fetch and streaming in an AG (R155, R156, R330 to R332). -/

namespace Sys2Proof.Machine

open Sys2Proof

/-- The address of an element of a pattern (R155). -/
def patVa (d : BitVec 384) (i0 i1 i2 i3 : Nat) : Nat :=
  wrapN 57 ((patBase d : Int) + i0 * patStride d 0 + i1 * patStride d 1 + i2 * patStride d 2 + i3 * patStride d 3)

/-- The number of elements of a pattern. -/
def patTotal (d : BitVec 384) : Nat := patCount d 0 * patCount d 1 * patCount d 2 * patCount d 3

/-- The addresses of a pattern's elements in order (R155). -/
def patLines (d : BitVec 384) : List Nat :=
  (List.range (patTotal d)).map (fun k =>
    let k1 := k / patCount d 0
    let k2 := k1 / patCount d 1
    patVa d (k % patCount d 0) (k1 % patCount d 1) (k2 % patCount d 2) (k2 / patCount d 2))

/-- A pattern of a plane, and whether an argument count of 0 empties it (R154, R155). -/
def PlaneCfg.pat (c : PlaneCfg) (k : Nat) : BitVec 384 × Bool := ((c.pats[k]?).getD 0, (c.patZero[k]?).getD false)

/-- An empty fetch slot. -/
def FetchSlot.empty : FetchSlot := ⟨.empty, 0, [], [], [], 0, false⟩

/-- A fetch slot of a port. -/
def Port.fs (p : Port) (k : Nat) : FetchSlot := (p.fetch[k]?).getD FetchSlot.empty

/-- Change a fetch slot of a port. -/
def State.modFs (s : State) (port k : Nat) (f : FetchSlot → FetchSlot) : State :=
  s.modPort port (fun p => { p with fetch := p.fetch.setIfInBounds k (f (p.fs k)) })

/-- Release every pin of a fetch slot (R156). -/
def State.unpin (s : State) (port k : Nat) : State :=
  { s with l2 := s.l2.map (fun l => { l with pins := l.pins.filter (fun q => !(q.1 = port && q.2 % 8 = k)) }) }

/-- The elements of a fetch slot that are lines: a misaligned one issues and pins nothing (R155, R330). -/
def FetchSlot.whole64 (x : FetchSlot) : List Nat := x.lines.filter (fun va => va % 64 = 0)

/-- The lines that a pattern's fetch pins (R155, R330). -/
def patAligned (d : BitVec 384) : Nat :=
  if patBase d % 64 = 0 && (List.range 4).all (fun q => patStride d q % 64 = 0) then patTotal d
  else ((patLines d).filter (fun va => va % 64 = 0)).length

/-- The lines that a fetch slot pins or is to pin; of a STALE one those whose pins an invalidation has left (R156). -/
def FetchSlot.pins (x : FetchSlot) : Nat := if x.st = .stale then x.held.length else x.whole64.length

/-- Fetch a slot from its first line again (R156). -/
def FetchSlot.restart (x : FetchSlot) : FetchSlot := { x with st := .fetching, sent := 0, held := [], read := [], again := false }

/-- The lines that the fetch slots of a lease hold, one slot apart (R156). -/
def State.leasePins (s : State) (lease port k : Nat) : Nat :=
  sumN ((s.ports.filter (fun p => match p.owner with
      | .mu site => site.lease = lease
      | .engine _ _ _ => false)).map (fun p =>
    sumN ((List.range 8).map (fun j => if p.id = port && j = k then 0 else (p.fs j).pins))))

/-- Whether a TFETCH keeps the lease within its 65,536 lines (R156). -/
def fetchFits (f : FmtX) (s : State) (c : Site) : Bool :=
  match s.portOf? c.site c.pe.kind with
  | none => false
  | some p =>
    let d := c.cfg.pat (f.idx0.toNat % 4)
    (p.fs f.idx1.toNat).st ≠ .fetching
      && (if d.2 then 0 else patAligned d.1) + s.leasePins c.site.lease p.id f.idx1.toNat ≤ 65536

/-- TFETCH (R330): releases the slot's pins, then fetches and pins the pattern's lines; in flight till all are pinned. -/
def execTfetch (f : FmtX) (s : State) : Host.Outcome State Fault Refusal :=
  fire (.tfetch f) (fetchFits f s) (errToBoth (.tfetch f)) (fun c s =>
    match s.portOf? c.site c.pe.kind with
    | none => s
    | some p =>
      let d := c.cfg.pat (f.idx0.toNat % 4)
      let k := f.idx1.toNat
      c.fly (.tfetch k (f.idx0.toNat % 4)) ((s.unpin p.id k).modFs p.id k (fun _ =>
        ⟨.fetching, f.idx0.toNat % 4, if d.2 then [] else patLines d.1, [], [], 0, false⟩))) s

/-- TRELEASE (R330): releases every pin of the slot and sends how many. -/
def execTrelease (f : FmtX) (s : State) : Host.Outcome State Fault Refusal :=
  let k := f.idx1.toNat
  fire (.trelease f) (fun c => match s.portOf? c.site c.pe.kind with
      | some p => (p.fs k).st ≠ .fetching
      | none => false) (errToBoth (.trelease f)) (fun c s =>
    match s.portOf? c.site c.pe.kind with
    | none => s
    | some p => c.reply f.h (n64Tok (p.fs k).held.length) ((s.unpin p.id k).modFs p.id k (fun _ => FetchSlot.empty))) s

/-- Whether a STALE slot may be fetched again now: nothing of it is on its way, and its lines fit in the lease's 65,536 (R156). -/
def State.mayRefetch (s : State) (lease : Nat) (p : Port) (k : Nat) : Bool :=
  !p.queue.any (fun r => r.dest = .fetch k) && decide ((p.fs k).whole64.length + s.leasePins lease p.id k ≤ 65536)

/-- Issue the next line of a fetch in progress, in the name of an origin; a misaligned element is passed over, to be sent as
ERR by MSTREAM (R155, R330). -/
def fetchNext (origin : Word) (inv : Nat) (p : Port) (k : Nat) (s : State) : State :=
  let x := p.fs k
  match x.lines[x.sent]? with
  | none => s
  | some va =>
    if va % 64 ≠ 0 then s.modFs p.id k (fun y => { y with sent := y.sent + 1 })
    else if s.mayIssue p .tfetch va then
      let n := s.fresh
      let r := p.request n.1 origin inv .tfetch va 64 19 true 0 (.fetch k)
      (n.2.issue p.id r).modFs p.id k (fun y => { y with sent := y.sent + 1 })
    else s

/-- Whether every line of a fetch has been issued and pinned. -/
def FetchSlot.whole (x : FetchSlot) : Bool := x.sent ≥ x.lines.length && x.held.length ≥ x.whole64.length

/-- The progress of TFETCH (R330). -/
def progressTfetch (a : Air) (k : Nat) (s : State) : State :=
  match s.portOf? a.site a.pe.kind with
  | none => s
  | some p =>
    let x := p.fs k
    if x.st = .stale then
      (if s.mayRefetch a.site.lease p k then s.modFs p.id k FetchSlot.restart else s)
    else if x.whole then
      (if a.free then (s.modFs p.id k (fun y => { y with st := .pinned, sent := 0 })).land a (n64Tok x.whole64.length) else s)
    else fetchNext (siteErr a.lease.plane a.pe 0 a.fl.slot) a.pe.inv p k s

/-- MSTREAM (R331): an EMPTY slot sends ERR PERM; a FETCHING one waits; else it streams, fetching a STALE one again. -/
def execMstream (f : FmtX) (s : State) : Host.Outcome State Fault Refusal :=
  let k := f.idx1.toNat
  fire (.mstream f) (fun c => match s.portOf? c.site c.pe.kind with
      | some p => (p.fs k).st ≠ .fetching
          && ((p.fs k).st ≠ .stale || (p.fs k).whole64.length + s.leasePins c.site.lease p.id k ≤ 65536)
      | none => false) (errToBoth (.mstream f)) (fun c s =>
    match s.portOf? c.site c.pe.kind with
    | none => s
    | some p =>
      if (p.fs k).st = .empty then c.fail f.h cPerm s
      else c.fly (.mstream k f.ty (f.mode.toNat.testBit 0)) (s.modFs p.id k (fun y =>
        if y.st = .stale then y.restart else { y with read := [], sent := 0 }))) s

/-- The tokens that an MSTREAM of a type sends for a number of lines (R331). -/
def streamTokens (ty : Ty) (n : Nat) : Nat := if ty.isMX then n / 17 * 16 + n % 17 else n

/-- A line read as part of a token: an ERR of its poison, if it was poisoned. -/
def streamErr (l : Option Line × Option Word) : Option Token := l.2.map (fun w => Token.ofErr w true)

/-- The t-th token of an MSTREAM, once the lines it needs have been read (R331). -/
def streamToken (ty : Ty) (total : Nat) (read : List (Option Line × Option Word)) (t : Nat) : Option Token :=
  let full := total / 17 * 16
  let line := if !ty.isMX then t else if t < full then t / 16 * 17 + t % 16 else total / 17 * 17 + (t - full)
  match read[line]? with
  | none => none
  | some l =>
    match streamErr l with
    | some e => some e
    | none =>
      let data := l.1.getD 0
      if !ty.isMX then some (Token.vector ty.tag 0 data)
      else if t < full then
        match read[t / 16 * 17 + 16]? with
        | none => none
        | some sl =>
          match streamErr sl with
          | some e => some e
          | none =>
            let sc : BitVec 32 := BitVec.ofNat 32 (lineGet (sl.1.getD 0) (4 * (t % 16)) 4)
            some (Token.vector ty.tag (if ty = .mxf4 then sc else sc &&& 0xFFFF) data)
      else some (Token.vector ty.tag 0xFFFFFFFF data)

/-- Read the next line of a stream at its home (R331); a misaligned element gives ERR PERM in its place (R155). -/
def streamRead (a : Air) (p : Port) (k : Nat) (s : State) : State :=
  let x := p.fs k
  let out := (p.queue.filter (fun r => r.op = .mstream && r.dest = .fetch k)).length
  match x.lines[x.read.length + out]? with
  | none => s
  | some va =>
    if va % 64 ≠ 0 then
      (if out = 0 then s.modFs p.id k (fun y => { y with
          read := y.read ++ [(none, some (siteErr a.lease.plane a.pe cPerm 127))] }) else s)
    else if s.mayIssue p .mstream va then
      let n := s.fresh
      n.2.issue p.id (p.request n.1 (siteErr a.lease.plane a.pe 0 a.fl.slot) a.pe.inv .mstream va 64 19 true 0 (.fetch k))
    else s

/-- The progress of MSTREAM: the next token when its lines are read and the paired MU's channel has a slot, else the
next line read; at the end the pins are released unless KEEP is set, and the count is sent; a slot that goes STALE before the
first line is read is fetched again first (R156, R331). -/
def progressMstream (a : Air) (k : Nat) (tyc : BitVec 5) (keep : Bool) (s : State) : State :=
  match s.portOf? a.site a.pe.kind with
  | none => s
  | some p =>
    let x := p.fs k
    let ty := tyOf tyc
    if x.st = .stale && x.read.isEmpty then
      (if s.mayRefetch a.site.lease p k then s.modFs p.id k FetchSlot.restart else s)
    else if x.st = .fetching then
      (if x.whole then s.modFs p.id k (fun y => { y with st := .pinned, sent := 0 })
       else fetchNext (siteErr a.lease.plane a.pe 0 a.fl.slot) a.pe.inv p k s)
    else if x.sent ≥ streamTokens ty x.lines.length then
      (if a.free then
        (if keep then s.modFs p.id k (fun y => { y with read := [], sent := 0 })
         else (s.unpin p.id k).modFs p.id k (fun _ => FetchSlot.empty)).land a (n64Tok x.lines.length)
      else s)
    else
      let mu : SiteRef := ⟨a.site.lease, a.site.dx - 1, a.site.dy⟩
      let ch := patChan ((a.pe.cfg a.lease.plane).pat x.pat).1
      match streamToken ty x.lines.length x.read x.sent, s.pe? mu with
      | some t, some pe =>
        if pe.outFree a.lease.plane ch ≥ 1 then
          ((s.modPE mu (fun pe => pe.pushOut a.lease.plane ch t)).modFs p.id k
            (fun y => { y with sent := y.sent + 1 })).progress a.site.lease
        else s
      | _, _ => streamRead a p k s

end Sys2Proof.Machine
end

