-- ==== Sys2Proof/Machine/Engine.lean ====
section
/-! DEFINITION. Engine commands: the instructions that queue them, the virtual queues and their arbiter, the engines'
work, and completion (R95, R96, R150, R158, R159, R193, R200, R353 to R357). -/

namespace Sys2Proof.Machine

open Sys2Proof

/-! ### Commands -/

/-- The engine kind of a command. -/
def EngOp.kind : EngOp → EngKind
  | .cpy | .cpym => .copy
  | .zpack | .zunpack => .compress
  | .coll => .collective

/-- How many engines of a kind a die has (R158). -/
def engCount : EngKind → Nat
  | .copy => 32
  | .compress => 8
  | .collective => 4

/-- LEN of a control word. -/
def cwLen (w : Word) : Nat := bitsOf w.toNat 0 32
/-- TEAM of a control word. -/
def ctlTeam (w : Word) : Nat := bitsOf w.toNat 48 16
/-- MARK of a control word. -/
def ctlMark (w : Word) : Nat := bitsOf w.toNat 38 5
/-- ARR of a control word. -/
def ctlArr (w : Word) : Bool := w.toNat.testBit 37
/-- CBDST of a control word. -/
def ctlCb (w : Word) : Bool := w.toNat.testBit 36
/-- CBIDX of a control word. -/
def ctlCbIdx (w : Word) : Nat := bitsOf w.toNat 32 4
/-- KIND of COLL's control word. -/
def ctlKind (w : Word) : Nat := bitsOf w.toNat 32 2
/-- ROP of COLL's control word. -/
def ctlRop (w : Word) : Nat := bitsOf w.toNat 34 2
/-- ETYPE of COLL's control word. -/
def ctlEtype (w : Word) : Nat := bitsOf w.toNat 36 5
/-- ROOT of COLL's control word. -/
def ctlRoot (w : Word) : Bool := w.toNat.testBit 41

/-- Whether a command fills a circular buffer. -/
def EngCmd.toCb (c : EngCmd) : Bool := c.op ≠ .coll && c.site.isSome && ctlCb c.ctl

/-- Whether a command's segments run one after another: those of a circular buffer, which are filled in order, and those
of a compressed stream (R150, R159). -/
def EngCmd.inOrder (c : EngCmd) : Bool := c.toCb || c.op = .zpack || c.op = .zunpack

/-- The lease that issued a command. -/
def EngCmd.lease? (c : EngCmd) : Option Nat := c.site.map (fun x => x.1.lease)

/-- The MU whose circular buffer a command names: the issuing MU, or the MU paired with the issuing AG (R354). -/
def State.cbSite (s : State) (site : SiteRef) : Option SiteRef :=
  match s.pe? site with
  | none => none
  | some pe =>
    match pe.kind with
    | .mu => some site
    | .ag =>
      if site.dx = 0 then none
      else match s.pe? ⟨site.lease, site.dx - 1, site.dy⟩ with
        | some m => if m.kind = .mu then some ⟨site.lease, site.dx - 1, site.dy⟩ else none
        | none => none
    | .cu => none

/-- Bytes of a slot of a circular buffer. -/
def Cbd.slotBytes (d : Cbd) : Nat := 64 * (d.slotsz.toNat + 1)

/-- The check at queueing of CPY, CPYM, ZPACK and ZUNPACK: the cause with which it fails (R150, R354). -/
def State.queueCheck (s : State) (site : SiteRef) (op : EngOp) (w : Word) : Option Nat :=
  if bitsOf w.toNat 43 5 ≠ 0 || ctlMark w > 23 then some cPerm
  else if !ctlCb w then none
  else if op ≠ .cpy && op ≠ .cpym then some cPerm
  else match s.cbSite site with
    | none => some cPerm
    | some m =>
      match s.pe? m with
      | none => some cPerm
      | some pe =>
        let d := pe.mu.cb (ctlCbIdx w)
        if !d.valid || cwLen w % d.slotBytes ≠ 0 then some cCbMisuse else none

/-- An engine instruction (R336, R353, R354): a bad operand queues nothing; else the command's issue waits as a release,
and ends the party's SFR; a REDO region degrades (R229). -/
def engineIns (i : Instr) (f : FmtM) (op : EngOp) (s : State) : Host.Outcome State Fault Refusal :=
  fire i always (fun c e s => c.passErr f.h e (c.trapOf e s)) (fun c s =>
    match scalarArg c.l .a57, scalarArg c.p .n64 with
    | some src, some w0 =>
      let w : Word := BitVec.ofNat 64 w0
      let cb := op ≠ .coll && ctlCb w
      let dst := if cb then some 0 else scalarArg c.r .a57
      match dst with
      | none => c.fail f.h cFormatTag s
      | some d =>
        let bad := if op = .coll then (if src % 64 ≠ 0 || d % 64 ≠ 0 then some cPerm else none)
          else s.queueCheck c.site op w
        match bad with
        | some k => c.fail f.h k s
        | none =>
          let origin := siteErr c.lease.plane c.pe 0 c.slot
          let cmd : EngCmd :=
            { id := 0, op := op, tid := c.lease.tid, die := c.lease.dieAt c.site.dx c.site.dy, site := some (c.site, c.slot)
              plane := c.lease.plane, origin := origin, task := none, seq := 0, scope := f.scope, src := src, dst := d
              len := cwLen w, ctl := w, follow := if op = .cpym then c.cfg.k f.idx.toNat else 0, collNo := 0, rank := 0
              turn := 0, outLen := 0, cbSlot := none, segsLeft := 0, party := 0, stop := .running }
          let port := s.portOf? c.site c.pe.kind
          let waits := match port with
            | some p => s.portWaits p
            | none => []
          let s1 := match port with
            | some p => s.endSfr p.party
            | none => s
          (c.fly (.release waits (.engine cmd)) s1).degrade c.site.lease c.pe.inv origin
    | _, _ => c.fail f.h cFormatTag s) s

/-- CPY (R353 to R355). -/
def execCpy (f : FmtM) (s : State) : Host.Outcome State Fault Refusal := engineIns (.cpy f) f .cpy s
/-- CPYM (R353 to R355). -/
def execCpym (f : FmtM) (s : State) : Host.Outcome State Fault Refusal := engineIns (.cpym f) f .cpym s
/-- ZPACK (R353 to R355). -/
def execZpack (f : FmtM) (s : State) : Host.Outcome State Fault Refusal := engineIns (.zpack f) f .zpack s
/-- ZUNPACK (R353 to R355). -/
def execZunpack (f : FmtM) (s : State) : Host.Outcome State Fault Refusal := engineIns (.zunpack f) f .zunpack s
/-- COLL (R353, R356). -/
def execColl (f : FmtM) (s : State) : Host.Outcome State Fault Refusal := engineIns (.coll f) f .coll s

/-! ### Virtual queues (R95) -/

/-- The virtual queue of a context and kind on a die. -/
def State.vq? (s : State) (die tid : Nat) (kind : EngKind) : Option VQueue :=
  s.vqueues.find? (fun q => q.die = die && q.tid = tid && q.kind = kind)

/-- The commands that wait in a queue: its command entries in use (R95). -/
def VQueue.cmds (q : VQueue) : List Nat := (q.entries.map VEntry.cmd).dedup

/-- Command entries in use in a context's queue on a die. -/
def State.vqCount (s : State) (die tid : Nat) (kind : EngKind) : Nat :=
  match s.vq? die tid kind with
  | some q => q.cmds.length
  | none => 0

/-- The entries of a command: segments of 1 MiB, the last shorter; a collective is not split (R95). -/
def EngCmd.entries (c : EngCmd) : List VEntry :=
  if c.op = .coll then [⟨c.id, 0, c.len⟩]
  else (List.range (ceilDiv c.len (2 ^ 20))).map (fun k => ⟨c.id, k * 2 ^ 20, min (2 ^ 20) (c.len - k * 2 ^ 20)⟩)

/-- Put a command into its virtual queue. -/
def State.enqueue (s : State) (c : EngCmd) : State :=
  let es := c.entries
  let s1 : State := { s with cmds := s.cmds ++ [{ c with segsLeft := es.length }] }
  match s1.vq? c.die c.tid c.op.kind with
  | some _ => { s1 with
      vqueues := updWhere (fun q => q.die = c.die && q.tid = c.tid && q.kind = c.op.kind)
        (fun q => { q with entries := q.entries ++ es }) s1.vqueues }
  | none => { s1 with vqueues := s1.vqueues ++ [⟨c.die, c.tid, c.op.kind, es, 0⟩] }

/-- A virtual queue without the entries of some commands; one left empty has no deficit (R96). -/
def VQueue.without (q : VQueue) (out : Nat → Bool) : VQueue :=
  let es := q.entries.filter (fun v => !out v.cmd)
  { q with entries := es, deficit := if es.isEmpty then 0 else q.deficit }

/-- Remove a command's entries from its virtual queue. -/
def State.unqueue (s : State) (cmd : Nat) : State :=
  { s with vqueues := s.vqueues.map (fun q => q.without (fun k => decide (k = cmd))) }

/-- The arrival that a command's completion makes in the name of its issuer (R192, R354). -/
def State.cmdArrival (s : State) (c : EngCmd) : State :=
  match c.site with
  | some (site, slot) =>
    if c.op ≠ .coll && ctlArr c.ctl then
      let die := match s.team? c.tid (ctlTeam c.ctl) with
        | some t => t.die
        | none => c.die
      { s with syncQ := s.syncQ ++
          [⟨die, c.tid, ctlTeam c.ctl, site, c.plane, slot, .engineArrive (ctlMark c.ctl), c.scope, []⟩] }
    else s
  | none => s

/-- The party of a command ends, and the ports that its engines have left bound are unbound (R179, R371). -/
def State.endCmdParty (s : State) (party : Nat) : State :=
  if party = 0 then s
  else ((s.ports.filter (fun p => p.bound && decide (p.party = party) && (match p.owner with
      | .engine _ _ _ => true
      | .mu _ => false) && s.engines.all (fun e => e.port ≠ p.id))).foldl (fun (s : State) p => s.closePort p.id) s).endParty party

/-- A command ends: its party ends, a completed one arrives, and its site's watermark may rise. The command of a COPY
packet stays for TASK_COMPLETION to take (R179, R193, R357). -/
def State.endCmd (s : State) (c : EngCmd) (how : EngEnd) : State :=
  let s1 := s.endCmdParty c.party
  let s2 := if how = .done then s1.cmdArrival c else s1
  let s3 := match c.site with
    | some (site, _) => (s2.modPE site (fun pe => { pe with cmdsOpen := pe.cmdsOpen.filter (fun q => q ≠ c.seq) })).progress
        site.lease
    | none => s2
  match c.task with
  | some _ => s3.modCmd c.id (fun c => { c with stop := how, party := 0 })
  | none => { s3 with cmds := s3.cmds.filter (fun x => x.id ≠ c.id) }

/-! ### Collectives (R356) -/

/-- The element type of a collective, where it is one that R356 lists. -/
def collType (w : Word) : Option Ty :=
  if ctlEtype w = 2 then some .s32 else if ctlEtype w = 8 then some .bf16
  else if ctlEtype w = 10 then some .f32 else none

/-- Whether the words of a collective's members make it fail (R356). -/
def collBad (ws : List Word) : Bool :=
  match ws with
  | [] => true
  | w :: _ =>
    let plain := ctlKind w = 1 || ctlKind w = 3
    let esz := match collType w with
      | some t => memSize t
      | none => 1
    ws.any (fun v => bitsOf v.toNat 32 9 ≠ bitsOf w.toNat 32 9 || cwLen v ≠ cwLen w || bitsOf v.toNat 42 6 ≠ 0)
      || (if plain then ctlEtype w ≠ 0 || ctlRop w ≠ 0 else (collType w).isNone || ctlRop w = 3 || cwLen w % esz ≠ 0)
      || (ctlKind w = 2 && cwLen w % (ws.length * esz) ≠ 0)
      || (ctlKind w = 3 && (ws.filter ctlRoot).length ≠ 1)

/-- The commands of a collective in rank order. -/
def State.collCmds (s : State) (k : Coll) : List EngCmd :=
  k.members.filterMap (fun m => match k.cmds.find? (fun x => decide (x.1.site = m.site ∧ x.1.plane = m.plane)) with
    | some x => s.cmd? x.2
    | none => none)

/-- The collective that a command belongs to. -/
def State.collOf (s : State) (c : EngCmd) : Option Coll :=
  match s.team? c.tid (ctlTeam c.ctl) with
  | some t => t.colls.find? (fun k => k.no = c.collNo)
  | none => none

/-- Whether every member of a collective has issued its COLL (R96, R356). -/
def Coll.whole (k : Coll) : Bool := k.cmds.length = k.members.length

/-- Answer the slot that issued a command. -/
def State.answerCmd (s : State) (c : EngCmd) (t : Air → Token) : State :=
  match c.site with
  | some (site, slot) => s.answer site slot t
  | none => s

/-- The bytes of a member's destination that a collective writes (R356). -/
def EngCmd.collDst (c : EngCmd) (q : Nat) : Nat :=
  if ctlKind c.ctl = 1 then q * c.len else if ctlKind c.ctl = 2 then c.len / max 1 q else c.len

/-- Whether the release half of a collective's completion may be performed for a participant: no write of its party to the
buffers that its command names is still on its way (R193). -/
def State.collReleased (s : State) (c : EngCmd) (q : Nat) : Bool :=
  let hits := fun (r : Req) => (r.va < c.src + c.len && c.src < r.va + r.size)
    || (r.va < c.dst + c.collDst q && c.dst < r.va + r.size)
  match c.site with
  | none => true
  | some (site, _) => match (s.pe? site).bind (fun pe => s.portOf? site pe.kind) with
    | none => true
    | some p => (s.partyPorts p.party).all (fun x => x.requests.all (fun r => !r.op.writes || r.status.performed || !hits r))

/-- A collective is over: it closes, and each participant receives its number or ERR with a cause. A completed one acts, for the
buffers that its commands name, as a release, which `State.collReleased` waits for, and then an acquire at FABRIC scope (R193,
R356). -/
def State.endColl (s : State) (tid team : Nat) (k : Coll) (cause : Option Nat) : State :=
  let cs := s.collCmds k
  let s0 := s.modTeam tid team (fun t => { t with colls := t.colls.filter (fun x => x.no ≠ k.no) })
  let s1 : State := { s0 with
    vqueues := s0.vqueues.map (fun q => q.without (fun k => cs.any (fun c => c.id = k))) }
  cs.foldl (fun (s : State) c =>
    let s' := s.endCmd c (match cause with
      | some x => .failed x
      | none => .done)
    let s'' := match cause, c.site with
      | none, some (site, _) =>
        match s'.pe? site with
        | some pe => match s'.portOf? site pe.kind with
          | some p => (s'.acquire p.party 3).endSfr p.party
          | none => s'
        | none => s'
      | _, _ => s'
    s''.answerCmd c (fun a => match cause with
      | some x => a.ownErr x
      | none => n64Tok k.no)) s1

/-- COLL reaches the sync unit, unless no link carries it: a non-member is refused; else it opens its collective or joins it
(R36, R356, R387). -/
def State.issueColl (s : State) (a : Air) (c : EngCmd) : State :=
  let num := ctlTeam c.ctl
  match s.team? c.tid num with
  | none => s.answerCmd c (fun a => a.ownErr (if s.teamLost c.tid num then cDieDown else cMarkBusy))
  | some t =>
    if c.die ≠ t.die && !s.pathUp c.die t.die then s.answerCmd c (fun a => a.ownErr cDieDown)
    else match t.members.find? (fun m => decide (m.site = a.site ∧ m.plane = c.plane)) with
    | none => s.answerCmd c (fun a => a.ownErr cMarkBusy)
    | some m =>
      let no := m.colls
      let n := s.fresh
      let c' := { c with id := n.1, collNo := no }
      let s1 := (n.2.enqueue c').setFlight a.site a.fl.slot .reply
      let s2 := s1.modTeam c.tid num (fun t =>
        let cs := if t.colls.any (fun k => k.no = no) then t.colls else t.colls ++ [⟨no, t.members, []⟩]
        { t with
          members := updWhere (fun x => decide (x.site = m.site ∧ x.plane = m.plane)) (fun x => { x with colls := no + 1 })
            t.members
          colls := updWhere (fun k => k.no = no) (fun k => { k with cmds := k.cmds ++ [(m, n.1)] }) cs
          opened := max t.opened (no + 1) })
      match s2.collOf c' with
      | none => s2
      | some k =>
        if k.whole && collBad ((s2.collCmds k).map EngCmd.ctl) then s2.endColl c.tid num k (some cPerm)
        else { s2 with cmds := s2.cmds.map (fun x =>
          match k.members.findIdx? (fun y => decide (x.site = some (y.site, (x.site.map Prod.snd).getD 0))
              && y.plane = x.plane) with
          | some r => if k.cmds.any (fun q => q.2 = x.id) then { x with rank := r } else x
          | none => x) }

/-- A command's issue: its release done, it enters its virtual queue, or waits while that is full (R95, R353, R354). -/
def progressEngine (a : Air) (c : EngCmd) (s : State) : State :=
  if s.vqCount c.die c.tid c.op.kind ≥ 64 then s
  else if c.op = .coll then s.issueColl a c
  else if !a.free then s
  else
    let n := s.fresh
    let seq := (a.pe.cmdNo + 1) % 2 ^ 32
    let c' := { c with id := n.1, seq := seq }
    let s1 := n.2.modPE a.site (fun pe => { pe with cmdNo := seq, cmdsOpen := pe.cmdsOpen ++ [seq] })
    let s2 := if c.len = 0 then s1.endCmd c' .done else s1.enqueue c'
    s2.land a (n64Tok seq)

/-- The watermark of a site (R357). -/
def PE.watermark (pe : PE) : Nat :=
  match pe.cmdsOpen with
  | [] => pe.cmdNo
  | q :: _ => (q + 2 ^ 32 - 1) % 2 ^ 32

/-- ENGQ (R357): the watermark and the context's queue entries on this die; with ORD 1 an acquire. -/
def execEngq (f : FmtM) (s : State) : Host.Outcome State Fault Refusal :=
  fire (.engq f) always (errToBoth (.engq f)) (fun c s =>
    let die := c.lease.dieAt c.site.dx c.site.dy
    let q := fun k => min 255 (s.vqCount die c.lease.tid k)
    let s1 := if f.ord = 1 then
        (match s.portOf? c.site c.pe.kind with
        | some p => (s.acquire p.party f.scope).endSfr p.party
        | none => s) else s
    c.reply f.h (n64Tok (c.pe.watermark + q .copy * 2 ^ 32 + q .compress * 2 ^ 40 + q .collective * 2 ^ 48)) s1) s

/-! ### The arbiter (R96) -/

/-- Whether a queue's head may be dispatched. -/
def State.headReady (s : State) (q : VQueue) : Bool :=
  match q.entries with
  | [] => false
  | e :: _ =>
    match s.cmd? e.cmd with
    | none => false
    | some c =>
      if c.op = .coll then (match s.collOf c with
        | some k => k.whole
        | none => false)
      else true

/-- What a queue's head needs beyond its deficit. -/
def VQueue.need (q : VQueue) : Nat :=
  match q.entries with
  | [] => 0
  | e :: _ => e.len - q.deficit

/-- Four times a tenant's PACE (R96). -/
def State.quantum (s : State) (tid : Nat) : Nat :=
  match s.ctx? tid with
  | some c => max 1 (4 * c.pace)
  | none => 1

/-- The queue that the deficit round robin dispatches, and the rounds it takes: the first, in the order of the queues,
whose head fits after the fewest rounds (R96). -/
def State.arbitrate (s : State) (qs : List VQueue) : Option (VQueue × Nat) :=
  match minN? (qs.map (fun q => ceilDiv q.need (s.quantum q.tid))) with
  | none => none
  | some k => (qs.find? (fun q => ceilDiv q.need (s.quantum q.tid) ≤ k)).map (fun q => (q, k))

/-- The port that an engine has left bound for a command of which it ran an earlier segment (R371). -/
def State.keptPort (s : State) (die : Nat) (kind : EngKind) (idx party : Nat) : Option Port :=
  s.ports.find? (fun p => p.bound && decide (p.owner = .engine die kind idx) && decide (p.party = party)
    && s.engines.all (fun e => e.port ≠ p.id))

/-- ENGINE_DISPATCH (R96, R158, R179, R371): a free engine takes the head entry of the queue that the arbiter chooses, binds its
port, or goes on with the one it left bound for an earlier segment of the command, and, with a command's first segment, begins
its party. -/
def execEngineDispatch (s : State) : Host.Outcome State Fault Refusal :=
  let f := s.focus
  let all := s.vqueues.filter (fun q => q.die = f.die && q.kind = f.kind && !q.entries.isEmpty)
  let ready := all.filter s.headReady
  if s.uncoreStopped || !s.dieUp f.die || f.idx ≥ engCount f.kind
      || s.engines.any (fun e => e.die = f.die && e.kind = f.kind && e.idx = f.idx) then .next s
  else
    match s.arbitrate ready with
    | none => .next s
    | some (q, k) =>
      match q.entries with
      | [] => .next s
      | ent :: rest =>
        match s.cmd? ent.cmd, s.ctx? q.tid with
        | some c, some ctx =>
          let rounds := if all.length = 1 then 0 else k
          let q' := { q with entries := rest, deficit := if rest.isEmpty then 0
                                                       else q.deficit + rounds * s.quantum q.tid - ent.len }
          let same := fun (x : VQueue) => decide (x.die = q.die ∧ x.kind = q.kind ∧ x.tid = q.tid)
          let others := (s.vqueues.filter (fun x => !same x)).map (fun x =>
            if ready.any (fun y => decide (y.die = x.die ∧ y.kind = x.kind ∧ y.tid = x.tid)) then
              { x with deficit := x.deficit + rounds * s.quantum x.tid } else x)
          let s1 : State := { s with vqueues := others ++ [q'] }
          let s2 := if c.party ≠ 0 then s1
            else
              let id := s1.freeParty
              (s1.beginParty id).modCmd c.id (fun c => { c with party := id })
          let party := if c.party ≠ 0 then c.party else s1.freeParty
          match s2.keptPort f.die f.kind f.idx party with
          | some p => .next { s2 with
              engines := s2.engines ++ [⟨f.die, f.kind, f.idx, p.id, ent, ent.off, ent.off, [], [], ent.off, []⟩] }
          | none =>
          let p := Port.fresh s2.freePort (.engine f.die f.kind f.idx) f.die q.tid ctx.asid party (s2.sfrOf party) 0 false
          .next { s2 with
            ports := s2.ports ++ [p]
            engines := s2.engines ++ [⟨f.die, f.kind, f.idx, p.id, ent, ent.off, ent.off, [], [], ent.off, []⟩] }
        | _, _ => .next s

/-! ### Running a segment (R158, R159, R354, R355) -/

/-- Bytes up to the end of a line, at most `left`. -/
def cutLen (va left : Nat) : Nat := min left (64 - va % 64)

/-- The first ERR among bytes. -/
def errOf (l : List (Byte × Option Word)) : Option Word := (l.find? (fun b => b.2.isSome)).bind Prod.snd

/-- The end of an engine's segment, as an offset within the command. -/
def Engine.stopAt (e : Engine) : Nat := e.cur.off + e.cur.len

/-- Cut copied input into the lines of the destination (R355). -/
def copyOut (c : EngCmd) : Nat → Engine → Engine
  | 0, e => e
  | fuel + 1, e =>
    let k := cutLen (c.dst + e.opos) (e.stopAt - e.opos)
    if k = 0 || e.inb.length < k then e
    else copyOut c fuel { e with
      todo := e.todo ++ [⟨wrapN 57 (c.dst + e.opos), (e.inb.take k).map Prod.fst, errOf (e.inb.take k)⟩]
      inb := e.inb.drop k, opos := e.opos + k }

/-- The words of a dense block. -/
def blockWords (bs : List Byte) : List Nat :=
  (List.range 64).map (fun q => ofBytes ((bs.drop (4 * q)).take 4))

/-- The record of a dense block (R159). -/
def zRecord (bs : List Byte) : List Byte :=
  let ws := blockWords bs
  let z := sumN ((List.range 64).map (fun q => if ws.getD q 0 ≠ 0 then 2 ^ q else 0))
  let kept := ws.filter (fun w => w ≠ 0)
  toBytes 8 z ++ kept.flatMap (toBytes 4) ++ (if kept.length % 2 = 1 then toBytes 4 0 else [])

/-- The words of a bitmap, from the words kept (R159). -/
def zExpand : List Bool → List Nat → List Nat
  | [], _ => []
  | true :: z, w :: ws => w :: zExpand z ws
  | true :: z, [] => 0 :: zExpand z []
  | false :: z, ws => 0 :: zExpand z ws

/-- The length of a record whose bitmap is given (R159). -/
def zLength (z : Nat) : Nat :=
  let k := ((List.range 64).filter (fun q => z.testBit q)).length
  8 + 4 * k + 4 * (k % 2)

/-- The 256 bytes of a record (R159). -/
def zDense (rec_ : List Byte) : List Byte :=
  let z := ofBytes (rec_.take 8)
  let ws := (List.range 64).map (fun q => ofBytes (((rec_.drop 8).drop (4 * q)).take 4))
  (zExpand ((List.range 64).map (fun q => z.testBit q)) ws).flatMap (toBytes 4)

/-- Encode the whole blocks received (R355). -/
def zpackStep : Nat → Engine → Engine
  | 0, e => e
  | fuel + 1, e =>
    let k := min 256 (e.stopAt - e.opos)
    if k = 0 || e.inb.length < k then e
    else
      let b := e.inb.take k
      zpackStep fuel { e with
        out := e.out ++ (zRecord (b.map Prod.fst)).map (fun x => (x, errOf b)), inb := e.inb.drop k, opos := e.opos + k }

/-- Decode the whole records received (R355). -/
def zunpackStep : Nat → Engine → Engine
  | 0, e => e
  | fuel + 1, e =>
    let k := min 256 (e.stopAt - e.opos)
    let n := zLength (ofBytes ((e.inb.take 8).map Prod.fst))
    if k = 0 || e.inb.length < 8 || e.inb.length < n then e
    else
      let b := e.inb.take n
      zunpackStep fuel { e with
        out := e.out ++ ((zDense (b.map Prod.fst)).take k).map (fun x => (x, errOf b)), inb := e.inb.drop n
        opos := e.opos + k }

/-- Cut output into the lines of the destination; the last part goes when the segment's input is done. -/
def flushOut (base : Nat) (done : Bool) : Nat → Engine → Engine
  | 0, e => e
  | fuel + 1, e =>
    let k := cutLen (base + e.zpos) e.out.length
    if k = 0 || (!done && k < 64 - (base + e.zpos) % 64) then e
    else flushOut base done fuel { e with
      todo := e.todo ++ [⟨wrapN 57 (base + e.zpos), (e.out.take k).map Prod.fst, errOf (e.out.take k)⟩]
      out := e.out.drop k, zpos := e.zpos + k }

/-- An engine by its port. -/
def State.engineAt (s : State) (port : Nat) : Option Engine := s.engines.find? (fun e => e.port = port)

/-- Change an engine. -/
def State.modEngine (s : State) (port : Nat) (f : Engine → Engine) : State :=
  { s with engines := updWhere (fun e => e.port = port) f s.engines }

/-- Write received bytes into the slot of a circular buffer that a command fills; a slot filled whole has landed
(R150). A byte that an ERR stands for is not written, as STS writes none (R336). -/
def State.fillCb (s : State) (c : EngCmd) (port : Nat) (e : Engine) : State :=
  match c.site, c.cbSlot with
  | some (site, _), some slot =>
    match s.cbSite site with
    | none => s
    | some m =>
      match s.pe? m with
      | none => s
      | some pe =>
        let k := ctlCbIdx c.ctl
        let d := pe.mu.cb k
        let off := d.offset slot + e.opos % d.slotBytes
        let sp := (e.inb.zipIdx.filter (fun b => b.1.2.isNone)).foldl
          (fun sp b => memPut sp ((off + b.2) % 2 ^ 18) b.1.1) pe.mu.sp
        let pos := e.opos + e.inb.length
        let whole := pos % d.slotBytes = 0
        let land := fun (l : List CbSlot) => match l.findIdx? (fun r => r.cmd = c.id && !r.landed) with
          | some i => modNth (fun r => { r with landed := true }) i l
          | none => l
        let s1 := s.modMu m (fun u =>
          (if e.inb.all (fun b => b.2.isNone) then { u with sp := sp }.mend off e.inb.length else { u with sp := sp }).modCb k (fun d => if whole then { d with resv := land d.resv } else d))
        (s1.modCmd c.id (fun c => { c with turn := pos, cbSlot := if whole then none else c.cbSlot })).modEngine port
          (fun e => { e with opos := pos, inb := [] })
  | _, _ => s

/-- Input bytes reach an engine: it goes on as far as they let it. A poisoned line raises its trap once (R131, R225). -/
def State.engineTake (s : State) (port : Nat) (bs : List (Byte × Option Word)) : State :=
  match s.engineAt port with
  | none => s
  | some e0 =>
    match s.cmd? e0.cur.cmd with
    | none => s
    | some c =>
      let e := { e0 with inb := e0.inb ++ bs }
      let s0 := s.count c.tid c.die 10 bs.length
      let s1 := match errOf bs, c.op with
        | some _, .coll => s0
        | some w, _ => s0.raise
            { tid := c.tid, lease := c.lease?, cmd := some c.id, err := w, va := 0, partyA := c.party
              partyB := 0, unconf := w.toNat.testBit 17, degr := false, port := none, req := none }
        | none, _ => s0
      if c.toCb then s1.fillCb c port e
      else
        match c.op with
        | .coll => s1.modEngine port (fun _ => e)
        | .zpack =>
          let e1 := zpackStep 2 e
          s1.modEngine port (fun _ => flushOut (c.dst + 8) (e1.opos = e1.stopAt) 8 e1)
        | .zunpack =>
          let e1 := zunpackStep 16 e
          s1.modEngine port (fun _ => flushOut c.dst (e1.opos = e1.stopAt) 80 e1)
        | _ => s1.modEngine port (fun _ => copyOut c 3 e)

/-- Combine two element patterns of a collective (R207, R221, R356). -/
def combineElem (rop : Nat) (ty : Ty) (a b : Nat) : Nat :=
  match ty.ff with
  | some fm =>
    ((if rop = 0 then fAdd .rne (fm.read a) (fm.read b) else fMinMax (rop = 1) (fm.read a) (fm.read b)).round
      fm .rne false 0).1
  | none =>
    let x := ty.readInt a
    let y := ty.readInt b
    wrapN ty.width (if rop = 0 then x + y else if rop = 1 then max x y else min x y)

/-- The values that an element combines, in the order that arrival and topology give (R221, assumption 65). -/
def collOrder (no i : Nat) (vs : List Nat) : List Nat :=
  (vs.zipIdx.mergeSort (fun a b => Config.sumOrder no i a.2 ≤ Config.sumOrder no i b.2)).map Prod.fst

/-- Combine a list of inputs of equal length, element by element, in an order that is not fixed (R221, R356). -/
def combineBytes (no rop : Nat) (ty : Ty) (n : Nat) (xs : List (List Byte)) : List Byte :=
  let sz := memSize ty
  (List.range (n / sz)).flatMap (fun i =>
    let vs := collOrder no i (xs.map (fun x => ofBytes ((x.drop (sz * i)).take sz)))
    match vs with
    | [] => toBytes sz 0
    | v :: vs => toBytes sz (vs.foldl (combineElem rop ty) v))

/-- Cut a collective's result into destination lines; a line with a poisoned source is a poison record of the first such
poison in rank order. `srcs` gives the source bytes that each offset depends on, rank by rank (R356). -/
def collChunks (dst : Nat) (srcs : Nat → Nat → List (List (Byte × Option Word))) (bytes : List Byte) :
    Nat → Nat → List OutChunk
  | 0, _ => []
  | fuel + 1, pos =>
    let k := cutLen (dst + pos) (bytes.length - pos)
    if k = 0 then []
    else ⟨wrapN 57 (dst + pos), (bytes.drop pos).take k, (srcs pos k).findSome? errOf⟩
      :: collChunks dst srcs bytes fuel (pos + k)

/-- The writes of the member of a rank, from every member's input in rank order (R356). -/
def collWrites (c : EngCmd) (ins : List (List (Byte × Option Word))) (root : Nat) : List OutChunk :=
  let q := ins.length
  let n := c.len
  let ty := (collType c.ctl).getD .s32
  let slice := fun (p k : Nat) (x : List (Byte × Option Word)) => (x.drop p).take k
  let data := ins.map (fun x => x.map Prod.fst)
  match ctlKind c.ctl with
  | 0 => collChunks c.dst (fun p k => ins.map (slice p k)) (combineBytes c.collNo (ctlRop c.ctl) ty n data) (n / 64 + 2) 0
  | 1 => collChunks c.dst (fun p k => [((ins.flatten).drop p).take k]) data.flatten (q * n / 64 + 2) 0
  | 2 =>
    let m := n / q
    let part := ins.map (slice (c.rank * m) m)
    collChunks c.dst (fun p k => part.map (slice p k))
      (combineBytes c.collNo (ctlRop c.ctl) ty m (part.map (fun x => x.map Prod.fst))) (m / 64 + 2) 0
  | _ => collChunks c.dst (fun p k => [slice p k (ins.getD root [])]) (data.getD root []) (n / 64 + 2) 0

/-- Whether a member's source is read: every member's, or for a broadcast the root's alone (R356). -/
def EngCmd.collReads (c : EngCmd) : Bool := ctlKind c.ctl ≠ 3 || ctlRoot c.ctl

/-- The engine that runs a command. -/
def State.engineOf (s : State) (cmd : Nat) : Option Engine := s.engines.find? (fun e => e.cur.cmd = cmd)

/-- When every member of a collective runs and has its input, every member's writes are made, and each participant whose
destination receives a poison record traps (R356). -/
def State.makeColl (s : State) (k : Coll) : State :=
  let cs := s.collCmds k
  let es := cs.filterMap (fun c => s.engineOf c.id)
  let read := (cs.zip es).all (fun x => !x.1.collReads || x.2.inb.length = x.1.len)
  if es.length ≠ k.members.length || !read || es.any (fun e => e.opos ≠ 0) then s
  else
    let ins := es.map Engine.inb
    let root := (cs.findIdx? (fun c => ctlRoot c.ctl)).getD 0
    cs.foldl (fun (s : State) c =>
      let ws := collWrites c ins root
      let s1 := { s with engines := updWhere (fun e => e.cur.cmd = c.id) (fun e => { e with todo := ws, opos := 1 }) s.engines }
      match ws.findSome? OutChunk.poison with
      | none => s1
      | some w => s1.raise
          { tid := c.tid, lease := c.lease?, cmd := some c.id
            err := withCause c.origin (errCause w), va := 0, partyA := c.party, partyB := 0, unconf := false
            degr := false, port := none, req := none }) s

/-- Reserve the next slot of a command's circular buffer, if one is free (R150). -/
def State.reserveCb (s : State) (c : EngCmd) : Option State :=
  match c.site with
  | none => none
  | some (site, _) =>
    match s.cbSite site with
    | none => none
    | some m =>
      match s.pe? m with
      | none => none
      | some pe =>
        let k := ctlCbIdx c.ctl
        let d := pe.mu.cb k
        if !d.valid || d.free = 0 then none
        else
          let slot := (d.prodp.toNat + d.resv.length) % (d.slots.toNat + 1)
          some ((s.modMu m (fun u => u.modCb k (fun d => { d with
            free := d.free - 1, pend := d.pend + 1, resv := d.resv ++ [⟨c.id, false⟩] }))).modCmd c.id
              (fun c => { c with cbSlot := some slot }))

/-- The bytes of a slot of the buffer a command fills. -/
def State.cbBytes (s : State) (c : EngCmd) : Nat :=
  match c.site with
  | some (site, _) =>
    match (s.cbSite site).bind s.pe? with
    | some pe => (pe.mu.cb (ctlCbIdx c.ctl)).slotBytes
    | none => 64
  | none => 64

/-- The next read of an engine: its address and size (R354, R355). -/
def State.nextRead (s : State) (c : EngCmd) (e : Engine) (p : Port) : Option (Nat × Nat) :=
  if c.stop ≠ .running || (c.inOrder && e.rpos = e.cur.off && c.op ≠ .zunpack && c.turn ≠ e.cur.off) then none
  else if c.op = .coll then
    (if c.collReads && e.rpos < c.len then some (wrapN 57 (c.src + e.rpos), cutLen (c.src + e.rpos) (c.len - e.rpos)) else none)
  else if c.op = .zunpack then
    (if e.opos < e.stopAt && c.turn = e.cur.off && p.queue.isEmpty then
      some (wrapN 57 (c.src + 8 + e.rpos), 64 - (c.src + 8 + e.rpos) % 64) else none)
  else if e.rpos ≥ e.stopAt then none
  else if c.toCb then
    (if c.cbSlot.isNone || e.rpos / s.cbBytes c ≠ c.turn / s.cbBytes c then none
     else some (wrapN 57 (c.src + e.rpos),
       cutLen (c.src + e.rpos) (min (e.stopAt - e.rpos) (s.cbBytes c - e.rpos % s.cbBytes c))))
  else some (wrapN 57 (c.src + e.rpos), cutLen (c.src + e.rpos) (e.stopAt - e.rpos))

/-- Whether an engine's next step is to reserve a slot. -/
def State.wantsSlot (s : State) (c : EngCmd) (e : Engine) : Bool :=
  c.toCb && c.stop = .running && c.cbSlot.isNone && e.rpos < e.stopAt && c.turn = e.rpos && e.rpos % s.cbBytes c = 0

/-- The request of an engine. -/
def engineReq (c : EngCmd) (p : Port) (id : Nat) (op : ReqOp) (va size : Nat) (dest : Dest) (data : List Byte)
    (poison : Option Word) : Req :=
  { p.request id c.origin (bitsOf c.origin.toNat 20 16) op va size 0 true (BitVec.ofNat 512 (ofBytes data)) dest with
    poison := poison }

/-- A segment that begins takes its place in the stream: output after what came before it for ZPACK, input for
ZUNPACK. -/
def Engine.begin_ (c : EngCmd) (e : Engine) : Engine :=
  if e.rpos = e.cur.off && e.opos = e.cur.off && e.inb.isEmpty && e.out.isEmpty && c.turn = e.cur.off then
    (if c.op = .zpack then { e with zpos := c.outLen }
     else if c.op = .zunpack then { e with rpos := c.outLen } else e)
  else e

/-- ENGINE_ISSUE (R158, R200, R356): a running engine injects its next line request: a write that is ready, else its next
read, a collective's result once every member's input is there, or the byte count that ends a ZPACK. -/
def execEngineIssue (s : State) : Host.Outcome State Fault Refusal :=
  let f := s.focus
  match s.engines.find? (fun e => e.die = f.die && e.kind = f.kind && e.idx = f.idx) with
  | none => .next s
  | some e0 =>
    match s.cmd? e0.cur.cmd, s.port? e0.port with
    | some c, some p =>
      if s.uncoreStopped || c.stop ≠ .running then .next s
      else
        let e := e0.begin_ c
        match e.todo with
        | w :: rest =>
          if s.mayIssue p .store w.va then
            let n := s.fresh
            .next ((n.2.issue p.id (engineReq c p n.1 .store w.va w.bytes.length .none w.bytes w.poison)).modEngine p.id
              (fun _ => { e with todo := rest }))
          else .next s
        | [] =>
          if s.wantsSlot c e then
            (match s.reserveCb c with
            | some s1 => .next (s1.modEngine p.id (fun _ => e))
            | none => .next s)
          else
            match s.nextRead c e p with
            | some (va, k) =>
              if s.mayIssue p (.load false) va then
                let n := s.fresh
                .next ((n.2.issue p.id (engineReq c p n.1 (.load false) va k (.engine c.id e.rpos) [] none)).modEngine p.id
                  (fun _ => { e with rpos := e.rpos + k }))
              else .next s
            | none =>
              if c.op = .coll then
                (match s.collOf c with
                | some k => .next (s.makeColl k)
                | none => .next s)
              else if c.op = .zpack && e.opos = c.len && c.turn ≠ c.len + 1 && p.queue.isEmpty && p.sideLog.isEmpty then
                .next ((s.modCmd c.id (fun c => { c with turn := c.len + 1 })).modEngine p.id (fun _ =>
                  flushOut c.dst true 2 { e with
                    out := (toBytes 8 e.zpos).map (fun b => (b, none)), zpos := 0 }))
              else .next s
    | _, _ => .next s

/-- CB_SLOT_LANDED (R150): the slots at PRODP that have landed whole are published, in order. -/
def execCbSlotLanded (s : State) : Host.Outcome State Fault Refusal :=
  let k := s.focus.ch
  .next (s.modMu s.focus.site (fun u => u.modCb k (fun d =>
    let n := (d.resv.takeWhile CbSlot.landed).length
    { d with
      resv := d.resv.drop n, pend := d.pend - BitVec.ofNat 13 n, filled := d.filled + BitVec.ofNat 13 n
      prodp := d.advance d.prodp n })))

/-! ### Completion (R193, R354 to R356) -/

/-- Free an engine and its port. -/
def State.freeEngine (s : State) (port : Nat) : State :=
  { s with engines := s.engines.filter (fun e => e.port ≠ port) }.closePort port

/-- Free an engine whose port stays bound until its command completes (R371). -/
def State.leaveEngine (s : State) (port : Nat) : State := { s with engines := s.engines.filter (fun e => e.port ≠ port) }

/-- Whether an engine's port has nothing outstanding. -/
def State.drained (s : State) (port : Nat) : Bool :=
  match s.port? port with
  | some p => p.queue.isEmpty && p.sideLog.isEmpty
  | none => true

/-- A trap whose origin is the issuing instruction of a command. -/
def State.cmdTrap (s : State) (c : EngCmd) (cause : Nat) : State :=
  s.raise { tid := c.tid, lease := c.lease?, cmd := some c.id, err := withCause c.origin cause, va := 0
            partyA := c.party, partyB := 0, unconf := false, degr := false, port := none, req := none }

/-- The CU, batch and refusal of a CPYM's follow-on word: none while the CU's batch queue is full (R355). -/
def State.followOn (s : State) (c : EngCmd) : Option State :=
  let w := c.follow.toNat
  let unlisted := w - bitsOf w 0 7 - bitsOf w 8 6 * 2 ^ 8 - bitsOf w 16 4 * 2 ^ 16 - bitsOf w 32 13 * 2 ^ 32
  match c.site with
  | none => some s
  | some (site, _) =>
    match s.lease? site.lease with
    | none => some s
    | some L =>
      let at_ : SiteRef := ⟨site.lease, bitsOf w 0 7, bitsOf w 8 6⟩
      match s.pe? at_, L.sysAt L.plane at_.dx at_.dy with
      | some pe, some (g, _, _) =>
        let mode := bitsOf w 18 2
        let tile := bitsOf w 16 2
        if unlisted ≠ 0 || at_.dy ≠ g.dy || (mode = 0 && (tile ≠ 0 || !(pe.cfg L.plane).outConn 7)) then some (s.cmdTrap c cPerm)
        else if mode ≠ 0 && !(pe.cu.tile tile).admits L.plane then some (s.cmdTrap c cFormatTag)
        else if pe.cu.batches.length ≥ 4 then none
        else some (s.modCu at_ (fun u =>
          (if mode ≠ 0 then u.modTile tile (fun t => t.claim L.plane) else u).queueBatch mode tile (bitsOf w 32 13 + 1)))
      | _, _ => some (s.cmdTrap c cPerm)

/-- ENGINE_COMPLETION (R48, R95, R193, R354 to R356, R371): an engine whose entry is done is free; with its last segment the
command completes and its ports are unbound, a CPYM's after its follow-on batch; a collective completes for every member at once. -/
def execEngineCompletion (s : State) : Host.Outcome State Fault Refusal :=
  let f := s.focus
  match s.engines.find? (fun e => e.die = f.die && e.kind = f.kind && e.idx = f.idx) with
  | none => .next s
  | some e =>
    match s.cmd? e.cur.cmd with
    | none => .next (s.freeEngine e.port)
    | some c =>
      if s.uncoreStopped || !s.drained e.port then .next s
      else if c.op = .coll then
        match s.collOf c with
        | none => .next (s.freeEngine e.port)
        | some k =>
          let cs := s.collCmds k
          let es := cs.filterMap (fun c => s.engineOf c.id)
          let bad := cs.findSome? (fun c => match c.stop with
            | .failed x => some x
            | _ => none)
          if es.all (fun e => s.drained e.port) && (bad.isSome ||
              (es.length = k.members.length && es.all (fun e => e.opos ≠ 0 && e.todo.isEmpty)
                && cs.all (fun c => s.collReleased c k.members.length))) then
            .next ((es.foldl (fun (s : State) e => s.freeEngine e.port) s).endColl c.tid (ctlTeam c.ctl) k bad)
          else .next s
      else
        match c.stop with
        | .running =>
          let last := c.segsLeft ≤ 1
          if e.opos ≠ e.stopAt || !e.todo.isEmpty || !e.out.isEmpty
              || (last && c.op = .zpack && c.turn ≠ c.len + 1) then .next s
          else
            let c' := { c with
              segsLeft := c.segsLeft - 1
              turn := if c.op = .zpack && last then c.turn else max c.turn e.stopAt
              outLen := if c.op = .zpack then e.zpos else if c.op = .zunpack then e.rpos - e.inb.length else c.outLen }
            let done := fun (s : State) => s.freeEngine e.port
            if !last then .next ((s.modCmd c.id (fun _ => c')).leaveEngine e.port)
            else if c.op = .cpym then
              match s.followOn c with
              | none => .next s
              | some s1 => .next ((done s1).endCmd c' .done)
            else .next ((done s).endCmd c' .done)
        | .failed x =>
          let s1 := s.freeEngine e.port
          if s1.engines.any (fun e => e.cur.cmd = c.id) then .next s1
          else .next ((s1.unqueue c.id).endCmd c (.failed x))
        | .done | .killed => .next (s.freeEngine e.port)

end Sys2Proof.Machine
end

