-- ==== Sys2Proof/Machine/Image.lean ====
section
/-! DEFINITION. The parts of an image that a lease goes on reading: its header, exchange zones and carried state (R240 to
R243, R250). -/

namespace Sys2Proof.Machine

open Sys2Proof

/-- The payload of the header frame (R243). -/
def imageHeader (image : Image) : Nat := imageFrame image 4 0 0 0 0

/-- W of an image. -/
def imageW (image : Image) : Nat := bitsOf (imageHeader image) 176 8
/-- H of an image. -/
def imageH (image : Image) : Nat := bitsOf (imageHeader image) 168 8
/-- PARITY of an image. -/
def imageParity (image : Image) : Nat := bitsOf (imageHeader image) 166 2
/-- STRADDLE of an image. -/
def imageStraddle (image : Image) : Bool := (imageHeader image).testBit 165
/-- Whether an image defines a plane (R132, R243). -/
def imageDefines (image : Image) (plane : Nat) : Bool := plane < 4 && (imageHeader image).testBit (160 + plane)
/-- NARGW of an image. -/
def imageArgs (image : Image) : Nat := bitsOf (imageHeader image) 120 8

/-- Whether the boundary after an invocation is an exchange zone (R250). -/
def imageZone (image : Image) (i : Nat) : Bool :=
  match imageCut image with
  | some (first, every) => first ≤ i && (i - first) % every = 0
  | none => false

/-- The first exchange zone at or after an invocation (R83). -/
def imageNextZone (image : Image) (i : Nat) : Option Nat :=
  match imageCut image with
  | some (first, every) => some (if i ≤ first then first else first + ceilDiv (i - first) every * every)
  | none => none

/-- What a site carries: per plane KMASK and VMASK; AMASK, WMASK and CBMASK; and the scratchpad ranges (R250). -/
structure Carry where
  k : List Nat
  v : List Nat
  a : Nat
  w : Nat
  cb : Nat
  ranges : List (Nat × Nat)
deriving DecidableEq, Repr

/-- The carried state of a site (R83, R250). -/
def imageCarry (image : Image) (dx dy : Nat) : Carry :=
  let m := fun p => imageFrame image 6 dx dy p 0
  { k := (List.range 4).map (fun p => bitsOf (m p) 208 16)
    v := (List.range 4).map (fun p => bitsOf (m p) 200 8)
    a := bitsOf (m 0) 196 4
    w := bitsOf (m 0) 194 2
    cb := bitsOf (m 0) 178 16
    ranges := ((List.range 15).flatMap (fun i => (List.range 4).map (fun e =>
        let x := bitsOf (imageFrame image 6 dx dy 0 (i + 1)) (48 * e) 48
        (bitsOf x 0 18, bitsOf x 18 19)))).filter (fun r => r.2 ≠ 0) }

/-- Whether an image has a kind 6 mask or range frame for a site (R386). -/
def imageHasCarry (image : Image) (dx dy : Nat) : Bool :=
  image.any (fun f => let h := frameHead f; h.kind = 6 && h.dx = dx && h.dy = dy && h.word < 16)

end Sys2Proof.Machine
end

