-- ==== Sys2Proof/Machine/Home.lean ====
section
/-! DEFINITION. Requests at their homes: the checks, and performing a request whole (R36, R44,
R50, R153, R160 to R176, R185, R225, R228, R331, R341, R345, R349, R364). -/

namespace Sys2Proof.Machine

open Sys2Proof

/-! ### Requests by number -/

/-- A request of a port: in its retire queue, or the entry at the head of its side log. -/
def Port.req? (p : Port) (id : Nat) : Option Req :=
  match p.queue.find? (fun r => r.id = id) with
  | some r => some r
  | none => (p.sideLog.head?.map SideEntry.req).filter (fun r => r.id = id)

/-- Change a request of a port. -/
def State.modReq (s : State) (port id : Nat) (f : Req → Req) : State :=
  s.modPort port (fun p => { p with
    queue := updWhere (fun r => r.id = id) f p.queue
    sideLog := updWhere (fun e => e.req.id = id) (fun e => { e with req := f e.req }) p.sideLog })

/-- Keep the translation on which a request goes on to its home (R202). -/
def State.keepLeaf (s : State) (p : Port) (r : Req) (l : Option Leaf) : State := s.modReq p.id r.id (fun r => { r with leaf := l })

/-- Set where a request stands. -/
def State.setStatus (s : State) (p : Port) (r : Req) (st : ReqStatus) : State :=
  s.modReq p.id r.id (fun r => { r with status := st })

/-- The home refuses a request; a prefetch is dropped (R165, R176). -/
def State.refuse (s : State) (p : Port) (r : Req) (cause : Nat) : State :=
  s.setStatus p r (if r.op = .pref then .done 0 none else .refused cause)

/-! ### Queue occupancy (R94) -/

/-- The die and slice in whose queue a request waits: where it is translated, and then at its home. -/
def Req.queueAt (r : Req) (c : Ctx) : Option (Nat × Nat) :=
  match r.status with
  | .miss | .walking _ _ _ _ => (c.xlatDie r.va).map (fun d => (d, vaSlice r.va))
  | .backInv | .raceWait _ | .satWait _ => r.leaf.map (fun l => ((l.loc c.tid r.va).die, vaSlice r.va))
  | _ => none

/-- The requests of a tenant, but one, that wait in a slice's queue, with the die that injected each. -/
def State.inQueue (s : State) (c : Ctx) (die slice but : Nat) : List Nat :=
  s.ports.flatMap (fun p => if p.ctx ≠ c.tid then [] else
    (p.requests.filter (fun r => r.id ≠ but && r.queueAt c = some (die, slice))).map (fun _ => p.die))

/-- The entries of a slice's request queue (R94). -/
def queueEntries : Nat := 64

/-- Whether the queue of a slice has no entry left for a request: 64 others of whatever tenants wait there (R94). -/
def State.queueFull (s : State) (die slice but : Nat) : Bool :=
  decide (queueEntries ≤ sumN (s.ctxs.map (fun c => (s.inQueue c die slice but).length)))

/-- A request of a tenant stands in a slice's queue beside those that wait there: a tenant above its allowance is cut at the next
refill of the dies whose ports injected its requests (R94). -/
def State.publish (s : State) (p : Port) (r : Req) (c : Ctx) (die : Nat) : State :=
  let ds := p.die :: s.inQueue c die (vaSlice r.va) r.id
  if min queueEntries ds.length > max 2 (ceilDiv (64 * c.pace) 65536) then
    { s with
      budgets := updWhere (fun b => ds.contains b.die && !b.cut.contains c.tid) (fun b => { b with cut := c.tid :: b.cut })
        s.budgets }
  else s

/-! ### Copies (R169 to R171) -/

/-- Lines a near cache holds (R171). -/
def nearLines : Nat := 16384

/-- Allocate or refresh the near-cache line of a read under the number of its line; LDRO marks it RO (R171, R341). -/
def State.bringNear (s : State) (p : Port) (r : Req) (num : Nat) (v : Line) (poison : Bool) : State :=
  match s.clusterAt p, r.op with
  | none, _ => s
  | some a, .load _ | some a, .pref =>
    let mine := fun (n : NearLine) => decide (n.die = a.1) && decide (n.cluster = a.2)
    let here := fun (n : NearLine) => mine n && n.asid = p.asid && n.va = lineOf r.va
    let old := match s.near.find? here with
      | some n => n.ro
      | none => false
    let rest := s.near.filter (fun n => !here n)
    { s with near := ⟨a.1, a.2, p.asid, lineOf r.va, num, v, poison, r.op = .load true || old⟩ ::
        (if (rest.filter mine).length ≥ nearLines then dropLast mine rest else rest) }
  | some _, _ => s

/-- The near-cache line of a read returned from its home, unless the page is checked or a vault page (R171). -/
def State.fillNear (s : State) (p : Port) (r : Req) (l : Leaf) (loc : Loc) (v : Line) (poison : Bool) : State :=
  if l.chk || loc.kind = .vault then s else s.bringNear p r loc.num v poison

/-- A write performed at its home updates the copy of its line in its MU's near cache, RO or not: the one that its ASID and VA name,
and none that stands there under another (R171, R204). -/
def State.nearPut (s : State) (p : Port) (va : Nat) (v : Line) (poison : Bool) : State :=
  { s with
    near := updWhere (fun n => n.asid = p.asid && n.va = lineOf va && decide (s.clusterAt p = some (n.die, n.cluster)))
      (fun n => { n with data := v, poison := poison }) s.near }

/-- A party that reads or writes a line leaves no other copy of it, RO ones apart, in the near caches through which it issues, so that
no later read of its own returns an earlier value; `keep` is the copy that it read or wrote, if any (R182, R185). -/
def State.freshen (s : State) (p : Port) (num : Nat) (keep : Option NearLine) : State :=
  let cs := (s.partyPorts p.party).filterMap s.clusterAt
  { s with near := s.near.filter (fun n => n.ro || n.pa ≠ num || !cs.contains (n.die, n.cluster) || keep = some n) }

/-- The directory set of a line: its line number in its slice (R170). -/
def dirSet (num : Nat) : Nat := (numOff num / 16384 * 4 + bitsOf num 6 2) % 2048

/-- Whether two lines share a directory set. -/
def sameDirSet (a b : Nat) : Bool :=
  numDie a = numDie b && sliceOf (numOff a) = sliceOf (numOff b) && dirSet a = dirSet b

/-- Record a sharer of a line; where the set of 16 ways is full, its oldest entry's sharers are back-invalidated and the
read goes unrecorded (R170). -/
def State.share (s : State) (tid die pa sharer : Nat) : Option State × State :=
  match s.dir? pa with
  | some d =>
    if !d.waiting.isEmpty then (none, s)
    else (some (s.modDir pa (fun d => { d with sharers := sharer :: d.sharers.filter (fun x => x ≠ sharer) })), s)
  | none =>
    let set := s.dir.filter (fun d => sameDirSet d.pa pa)
    if set.length < 16 then (some { s with dir := ⟨pa, [sharer], []⟩ :: s.dir }, s)
    else match set.getLast? with
      | some d =>
        if d.waiting.isEmpty then
          (none, (s.modDir d.pa (fun d => { d with waiting := d.sharers })).count tid die 11 d.sharers.length)
        else (none, s)
      | none => (none, s)

/-- Lines that a die's remote-read cache of 64 MiB holds (R3, R18). -/
def rrcLines : Nat := 1048576

/-- Whether a write of a line by a virtual address is on its way from a die: no fill of the line is installed there (R183). -/
def State.writeOut (s : State) (die asid va : Nat) : Bool :=
  s.ports.any (fun p => p.die = die && p.asid = asid && (p.queue ++ p.sideLog.map SideEntry.req).any (fun r =>
    r.op.writes && !r.status.performed && lineOf r.va = lineOf va))

/-- Drop a die's RRC copies of a line, and its bit in the line's directory entry (R170, R183). -/
def State.dropRrc (s : State) (num die : Nat) : State :=
  { s with rrc := s.rrc.filter (fun r => !(r.die = die && r.pa = num)) }.modDir num
    (fun d => { d with sharers := d.sharers.filter (fun x => x ≠ die), waiting := d.waiting.filter (fun x => x ≠ die) })

/-- Allocate a copy of a remote line in the requester's RRC, TRACKED ones once recorded; the line least recently brought in goes
where it is full (R169, R170, R183, assumption 27). -/
def State.fillRrc (s : State) (p : Port) (r : Req) (l : Leaf) (loc : Loc) (v : Line) (poison : Bool) : State :=
  let pa := loc.num
  if l.chk || l.cmode = 0 || loc.kind ≠ .hbm || loc.die = p.die || r.noFill || s.writeOut p.die p.asid r.va || !(match r.op with
      | .load _ => true
      | _ => false) then s
  else
    let put := fun (s : State) (t : Bool) =>
      let mine := fun (x : RrcLine) => decide (x.die = p.die)
      let rest := s.rrc.filter (fun x => !(x.die = p.die && x.asid = p.asid && x.va = lineOf r.va))
      { s with rrc := ⟨p.die, p.asid, lineOf r.va, pa, v, poison, t⟩ ::
          (if (rest.filter mine).length ≥ rrcLines then dropLast mine rest else rest) }
    if l.cmode = 2 then put s false
    else match s.share p.ctx loc.die pa p.die with
      | (some s', _) => put s' true
      | (none, s') => s'

/-! ### Performing a request -/

/-- The ERR data of a poisoned line, as its reader receives it (R225). -/
def poisonErr (v : Line) : Word := v.setWidth 64 ||| 0x80000

/-- Pin a line that a tile fetch has brought in, under its port, fetch slot and VA (as slot + 8·VA), which has no way of its
own where the set's ways are all pinned or reserved (R156). -/
def State.pin (s : State) (loc : Loc) (port fs va : Nat) : State :=
  s.modL2 loc.die loc.key (fun l => { l with pins := (port, fs + 8 * va) :: l.pins.filter (fun q => q ≠ (port, fs + 8 * va)) })

/-- The origin of a memory reply to a request: the MU that delivers it, or for an engine the instruction that issued its command
(R224, R225). -/
def State.replyOrigin (s : State) (p : Port) (r : Req) : Word :=
  match p.owner with
  | .mu site => match s.lease? site.lease, s.pe? site with
    | some L, some pe => errWord 0 site.dx site.dy L.plane 127 pe.inv false
    | _, _ => r.origin
  | .engine _ _ _ => r.origin

/-- A read performed at its home (R169, R171, R225, R330, R331, R341). -/
def State.homeRead (s : State) (p : Port) (r : Req) (c : Ctx) (l : Leaf) (loc : Loc) : State :=
  let s1 := (s.settleCode loc (s.replyOrigin p r)).fillLine loc c.tid s.focus.idx
  let v := s1.getLine loc
  let s2 := match r.op, r.dest with
    | .tfetch, .fetch k => s1.pin loc p.id k (lineOf r.va)
    | _, _ => s1
  let s3 := ((s2.freshen p loc.num none).fillNear p r l loc v.1 v.2).fillRrc p r l loc v.1 v.2
  s3.setStatus p r (.done v.1 (if v.2 then some (poisonErr v.1) else none))

/-- FLUSHR at its home: a dirty line of a backed page is written to its frame and stays, clean (R349). -/
def State.homeFlush (s : State) (p : Port) (r : Req) (loc : Loc) : State :=
  let s1 := match s.l2? loc.die loc.key, loc.key with
    | some x, .frame pa =>
      if x.dirty then (s.putMem pa x.data x.poison).modL2 loc.die loc.key (fun x => { x with dirty := false }) else s
    | _, _ => s
  s1.setStatus p r (.done 0 none)

/-- The region's undo log takes the first write to a line through a port; where it has no room the region degrades
(R228, R229). -/
def State.undo (s : State) (p : Port) (r : Req) (pre : Line × Bool) : State :=
  match p.owner with
  | .engine _ _ _ => s
  | .mu site =>
    match s.regionAt site.lease r.inv with
    | none => s
    | some g =>
      if !g.redo || p.undo.any (fun u => u.va = lineOf r.va && u.asid = p.asid) then s
      else if p.undo.length ≥ 256 then s.degrade site.lease r.inv r.origin
      else s.modPort p.id (fun p => { p with undo := p.undo ++ [⟨lineOf r.va, p.asid, pre.1, pre.2⟩] })

/-- Whether a poisoned line stays as it is under a write that does not cover it whole (R225). -/
def Req.barred (r : Req) (pre : Line × Bool) : Bool := r.poison.isNone && pre.2 && !(r.op = .store && r.size = 64)

/-- The line and poison mark after a write that its home has performed (R225). -/
def Req.written (r : Req) (pre : Line × Bool) : Line × Bool :=
  match r.poison with
  | some w => (poisonRecord w, true)
  | none => if r.barred pre then pre else (r.apply pre.1, false)

/-- The copy of a line that a write of a port updates (R171). -/
def State.ownCopy (s : State) (p : Port) (va : Nat) : Option NearLine := (s.clusterAt p).bind (fun a => s.near? a p.asid va)

/-- A store, DISCARD, atomic or reduction performed at its home: the writer die's RRC copies go, and so do its party's near copies, but
for the one in the writer's cluster under its own ASID and VA, which takes the line (R171, R174, R182, R183, R185, R225, R345,
R349). -/
def State.homeWrite (s : State) (p : Port) (r : Req) (c : Ctx) (loc : Loc) : State :=
  let s0 := ((s.settleCode loc (s.replyOrigin p r)).dropRrc loc.num p.die).freshen p loc.num (s.ownCopy p r.va)
  let pre := s0.getLine loc
  if r.op = .discard then
    let s1 := if loc.key.isUnb then { s0 with l2 := s0.l2.filter (fun x => !(x.die = loc.die && decide (x.key = loc.key))) }
      else (s0.fillLine loc c.tid s.focus.idx).putLine loc 0 false
    ((s1.nearPut p r.va 0 false).undo p r pre).setStatus p r (.done 0 none)
  else
    let s1 := (s0.fillLine loc c.tid s.focus.idx)
    let s2 := if loc.key.isUnb then s1.unbAlloc loc s.focus.idx else s1
    let w := r.written pre
    let s3 := if r.barred pre then s2 else (s2.putLine loc w.1 w.2).undo p r pre
    (s3.nearPut p r.va w.1 w.2).setStatus p r
      (.done pre.1 (if r.barred pre && r.op.isAtomic then some (poisonErr pre.1) else none))

/-- The permission that a request needs (R165, R349, R364). -/
def Leaf.permits (l : Leaf) (op : ReqOp) : Bool :=
  match op with
  | .load _ | .tfetch | .mstream | .pref | .flushr | .marker _ => l.rd
  | .store | .discard | .migr _ => l.wr
  | .atomic _ | .reduce _ => l.at_

/-- What a request is to race detection, if it is checked at all (R187, R341, R349). -/
def ReqOp.race : ReqOp → Option RaceKind
  | .load _ | .mstream => some .read
  | .store | .discard => some .write
  | .reduce _ => some .reduction
  | .atomic _ => some .atomic
  | _ => none

/-- The cause of a translation fault of a request (R164). -/
def ReqOp.faultCause (op : ReqOp) : Nat := if op.loads then cPageFaultLoad else cPageFaultStore

/-- MIGR at its home: a destination on a die that is down gives DIE_DOWN (R36, R174, R364). -/
def State.homeMigr (s : State) (p : Port) (r : Req) (c : Ctx) (td : Nat) (l : Leaf) (e : Nat) : State :=
  if l.backing = 0 then s.refuse p r cPerm
  else match c.diemap[e]? with
    | none => s.refuse p r cPageFaultStore
    | some d =>
      if d = 7 then s.refuse p r cPageFaultStore
      else if d = unbDie l.frame then s.setStatus p r (.done 0 none)
      else if !s.pathUp td d then s.refuse p r cDieDown
      else match s.migrate c td r.va l d with
        | (.noRoom, s1) => s1.refuse p r cUnbackedOverflow
        | (.changed, s1) => s1
        | (.moved, s1) => s1.setStatus p r (.done 1 none)

/-- When a race wait of a request began. -/
def ReqStatus.since (now : Nat) : ReqStatus → Nat
  | .raceWait n | .satWait n => n
  | _ => now

/-- A request at the home of its line: room for an unbacked line, sharers, race check, then performed (R169, R170, R174,
R187). -/
def State.atHome (s : State) (p : Port) (r : Req) (c : Ctx) (td : Nat) (l : Leaf) (loc : Loc) : State :=
  let sharers := match s.dir? loc.num with
    | some d => d.sharers.filter (fun x => x ≠ p.die)
    | none => []
  if r.op.writes && r.op ≠ .discard && loc.key.isUnb && !s.unbRoom loc c.tid then
    (if l.backing = 1 then s.refuse p r cUnbackedOverflow
     else match s.lateAssign c td r.va l with
       | (.noRoom, s1) => s1.refuse p r cUnbackedOverflow
       | (_, s1) => s1)
  else if r.op.writes && !sharers.isEmpty then
    let s1 := s.modDir loc.num (fun d => { d with
      waiting := d.waiting ++ sharers.filter (fun x => !d.waiting.contains x) })
    (if r.status = .backInv then s1 else s1.count c.tid loc.die 11 sharers.length).setStatus p r .backInv
  else
    let go := fun (s : State) =>
      match r.op with
      | .flushr => s.homeFlush p r loc
      | .migr e => s.homeMigr p r c td l e
      | .store | .discard | .atomic _ | .reduce _ => s.homeWrite p r c loc
      | _ => s.homeRead p r c l loc
    match r.op.race, l.chk with
    | some k, true =>
      match s.raceCheck loc.die loc.num k r.party r.sfr with
      | .go s1 => go s1
      | .noEntry => s.setStatus p r (.raceWait (r.status.since s.fabric))
      | .saturated => s.setStatus p r (.satWait (r.status.since s.fabric))
      | .lost other => s.setStatus p r (.conflict ⟨cMmConflict, other, false⟩)
    | _, _ => go s

/-- A copy of a line in the requester's RRC (R169). -/
def State.rrc? (s : State) (p : Port) (va : Nat) : Option RrcLine :=
  s.rrc.find? (fun x => x.die = p.die && x.asid = p.asid && x.va = lineOf va)

/-- The resident line of a request's near cache. -/
def State.nearOf (s : State) (p : Port) (va : Nat) : Option NearLine := s.ownCopy p va

/-- The near-cache line that answers a load: one that is not RO, or any for LDRO (R171, R183, R341). -/
def State.nearHit (s : State) (p : Port) (r : Req) : Option NearLine :=
  match r.op with
  | .load ro => (s.nearOf p r.va).filter (fun n => ro || !n.ro)
  | _ => none

/-- The RRC line that answers a load: an ordinary load that finds an RO line reads its home instead (R169, R183). -/
def State.rrcHit (s : State) (p : Port) (r : Req) : Option RrcLine :=
  match r.op with
  | .load ro => if !ro && (s.nearOf p r.va).any NearLine.ro then none else s.rrc? p r.va
  | _ => none

/-- A load is answered on its own die; a copy that cannot be corrected takes the origin of its reader (R169, R171, R225). -/
def State.answerHere (s : State) (p : Port) (r : Req) (v : Line) (poison : Bool) : State :=
  let w := if poison && v = codeRecord cEccUncorr 0 false then codeRecord cEccUncorr (s.replyOrigin p r) false else v
  s.modReq p.id r.id (fun r => { r with status := .done w (if poison then some (poisonErr w) else none), ownDie := true })

/-- A load that a near cache answers; LDRO marks the line RO (R100, R171, R185). -/
def State.fromNear (s : State) (p : Port) (r : Req) (n : NearLine) : State :=
  let n' := { n with ro := n.ro || decide (r.op = .load true) }
  let s1 := { s with near := s.near.map (fun x => if x = n then n' else x) }
  ((s1.freshen p n.pa (some n')).count p.ctx p.die (nearEvent n.cluster) 1).answerHere p r n.data n.poison

/-- A load that a remote-read cache answers, which fills its near cache (R100, R169, R171). -/
def State.fromRrc (s : State) (p : Port) (r : Req) (l : Leaf) (loc : Loc) (x : RrcLine) : State :=
  (((s.freshen p loc.num none).fillNear p r l loc x.data x.poison).count p.ctx p.die 2 1).answerHere p r x.data x.poison

/-- A request with its leaf: permission, the copies on its own die, the D update of a write, the way to the frame's die, the
frame owner (R165, R169, R171, R175, R198, R202). -/
def State.withLeaf (s : State) (p : Port) (r : Req) (c : Ctx) (td : Nat) (l0 : Leaf) : State :=
  if !l0.permits r.op then s.refuse p r cPerm
  else match (if l0.chk then none else s.nearHit p r), (if l0.chk then none else s.rrcHit p r) with
  | some n, _ => s.fromNear p r n
  | none, some x => s.fromRrc p r l0 (l0.loc c.tid r.va) x
  | none, none =>
    match (if r.op.writes then s.setDirty c td r.va l0 else (some l0, s)) with
    | (none, s1) => (s1.keepLeaf p r none).setStatus p r .sent
    | (some l, s0) =>
      let s1 := s0.keepLeaf p r (some l)
      let loc := l.loc c.tid r.va
      if td < 4 && loc.die < 4 && loc.die ≠ td && !s1.pathUp td loc.die then s1.refuse p r cDieDown
      else if !s1.ownerOk loc c.tid then s1.refuse p r cTenant
      else if loc.die < 4 && s1.queueFull loc.die (vaSlice r.va) r.id then (s1.keepLeaf p r none).setStatus p r .sent
      else (if loc.die < 4 then s1.publish p r c loc.die else s1).atHome p r c td l loc

/-- Whether a request may be performed now: its release is done, and no earlier request of its port that touches one of
its bytes is outstanding, in its queue or in its side log (R152, R153, R176, R183). -/
def State.inTurn (s : State) (p : Port) (r : Req) : Bool :=
  r.after.all s.settled && !p.logBars r &&
  p.queue.all (fun q => q.id ≥ r.id || q.op.isMarker || q.op = .pref || r.op = .pref || !q.overlaps r
    || (match q.status with
        | .done _ _ | .conflict _ => true
        | _ => false))

/-- A request to another package crosses the span links untranslated, by a port of its route (R44, R160). -/
def State.goAbroad (s : State) (p : Port) (r : Req) : State :=
  match spanPortFor ((s.routes[vaPkg r.va]?).getD 0) (lineOf r.va) with
  | none => s.refuse p r cLinkPoison
  | some k =>
    if (s.span k).st ≠ .up then s
    else match s.sendAbroad r.va (if r.op.writes then some r.data else none) with
      | some s1 => s1.setStatus p r .abroad
      | none => s.refuse p r cLinkPoison

/-- A request goes to its home: to another package by its route, else to the translating die, where it is looked up, and
waits for a walk or goes on; one that waits at its home keeps its translation, and one that finds the queue of a slice full stays on
its way (R44, R71, R94, R160, R162, R167, R202). -/
def State.goHome (s : State) (p : Port) (r : Req) : State :=
  match s.ctx? p.ctx with
  | none => s.refuse p r r.op.faultCause
  | some c =>
    if deadCode r.va then s.refuse p r r.op.faultCause
    else if vaPkg r.va ≠ s.pkgNo then s.goAbroad p r
    else match c.xlatDie r.va, r.leaf with
      | none, _ => s.refuse p r r.op.faultCause
      | some td, some l => s.withLeaf p r c td l
      | some td, none =>
        if !s.pathUp p.die td then s.refuse p r cDieDown
        else if td < 4 && s.queueFull td (vaSlice r.va) r.id then s
        else
          let s0 := if td < 4 then s.publish p r c td else s
          match s0.lookup c td r.va with
          | (none, s1) => s1.setStatus p r .miss
          | (some l, s1) => s1.withLeaf p r c td l

/-- Whether a request is on its way or waits at its home for something that may have come about. -/
def ReqStatus.tries : ReqStatus → Bool
  | .sent | .backInv | .raceWait _ | .satWait _ => true
  | _ => false

/-- HOME_REQUEST (R153, R162, R169): a request reaches its home and is translated, checked and performed, or is refused,
or waits there. -/
def execHomeRequest (s : State) : Host.Outcome State Fault Refusal :=
  match s.port? s.focus.port with
  | none => .next s
  | some p =>
    match p.req? s.focus.req with
    | none => .next s
    | some r =>
      if s.uncoreStopped || !r.status.tries || !s.inTurn p r then .next s else .next (s.goHome p r)

/-- Perform the requests, of those issued, that reached their home before what cuts them off (R37, R109, R110, R117). -/
def State.reachHome (s : State) (l : List (Nat × Nat)) : State :=
  l.foldl (fun (s : State) x =>
    match s.port? x.1 with
    | none => s
    | some p => match p.req? x.2 with
      | none => s
      | some r => if r.status.tries && s.inTurn p r then s.goHome p r else s) s

/-- BACK_INVALIDATION_ACK (R50, R170): a sharer's copy of a line is gone, and its acknowledgement reaches the home. -/
def execBackInvalidationAck (s : State) : Host.Outcome State Fault Refusal :=
  match s.dir? s.focus.addr with
  | some d => if d.waiting.contains s.focus.die then .next (s.dropSharer s.focus.addr s.focus.die) else .next s
  | none => .next s

/-- A walk runs for a request, after a number of restarts: it samples the sequences, reads the tables, and sets A; it then has
its leaf, or has refused the request, with DIE_DOWN where an entry's home is on a die that is down (R36, R168, R196, R198). -/
def State.walkFor (s : State) (p : Port) (r : Req) (c : Ctx) (td restarts : Nat) : State :=
  match s.walk c td r.va with
  | (.error e, s1) => s1.refuse p r (walkCause e r.op.faultCause)
  | (.ok l, s1) => s1.setStatus p r (.walking (s.seqs c).1 (s.seqs c).2 restarts l)

/-- WALK (R168, R198, R199): one of the CD's walkers translates a request's address, in two moves: it reads the tables, or refuses
the request; and it installs the leaf, or starts again where a sequence has advanced, or waits while an invalidation blocks the
page. -/
def execWalk (s : State) : Host.Outcome State Fault Refusal :=
  match s.port? s.focus.port with
  | none => .next s
  | some p =>
    match p.req? s.focus.req, s.ctx? p.ctx with
    | some r, some c =>
      match c.xlatDie r.va with
      | none => .next (s.refuse p r r.op.faultCause)
      | some td =>
        if s.uncoreStopped then .next s
        else match r.status with
          | .miss => .next (s.walkFor p r c td 0)
          | .walking s1 s2 n l =>
            if s.seqs c ≠ (s1, s2) then .next (s.walkFor p r c td (n + 1))
            else if s.installBlocked c r.va l then .next s
            else .next ((s.install c td r.va l).setStatus p r .sent)
          | _ => .next s
    | some r, none => .next (s.refuse p r r.op.faultCause)
    | none, _ => .next s

/-! ### Race waits (R187, R189) -/

/-- SATURATION_WAIT_END (R189): OLDEST has passed T: the access goes on. -/
def execSaturationWaitEnd (s : State) : Host.Outcome State Fault Refusal :=
  match s.port? s.focus.port with
  | none => .next s
  | some p =>
    match p.req? s.focus.req with
    | none => .next s
    | some r =>
      match r.status with
      | .satWait _ => if s.uncoreStopped then .next s else .next (s.goHome p r)
      | _ => .next s

/-- RACE_SATURATION_TIMEOUT (R187, R189): a wait of 65,536 fabric cycles ends as a conflict, MM_SATURATED unconfirmed. -/
def execRaceSaturationTimeout (s : State) : Host.Outcome State Fault Refusal :=
  match s.port? s.focus.port with
  | none => .next s
  | some p =>
    match p.req? s.focus.req with
    | none => .next s
    | some r =>
      match r.status with
      | .satWait n | .raceWait n =>
        if s.fabric ≥ n + 65536 then .next (s.setStatus p r (.conflict ⟨cMmSaturated, 0, true⟩)) else .next s
      | _ => .next s

/-! ### The host's requests (R50) -/

/-- The bytes that a mask selects, taken from one line into another. -/
def maskLine (mask : BitVec 64) (new old : Line) : Line :=
  BitVec.ofNat 512 (packDigits 8 ((List.range 64).map (fun i =>
    if mask.toNat.testBit i then bitsOf new.toNat (8 * i) 8 else bitsOf old.toNat (8 * i) 8)))

/-- Whether an address lies in one of the HDM ranges that Bilsis has set (R49). -/
def State.inHdm (s : State) (pa : Nat) : Bool := s.hdm.any (fun r => r.1 ≤ pa && pa < r.1 + r.2)

/-- Whether the host may reach the frame of an address: exposed in an HDM range, HBM of a die that is up, valid, and open to the
host (R49, R50). -/
def State.hostFrame (s : State) (pa : Nat) : Bool :=
  s.inHdm pa && s.validPa pa && decide ((locOf pa).kind = .hbm) && s.dieUp (locOf pa).die
    && (s.owner pa).toNat.testBit 15 && (s.owner pa).toNat.testBit 14

/-- HOST_CXL_MEM_REQUEST (R49, R50, R170): performed only on a frame whose HOSTOK is set; else a read returns poison and a
write is dropped and counted. -/
def execHostCxlMemRequest (pa : Nat) (write : Bool) (data : BitVec 512) (mask : BitVec 64) (s : State) :
    Host.Outcome State Fault Refusal :=
  let loc := locOf pa
  if s.uncoreStopped then .next s
  else if !s.hostFrame pa then
    (if write then .next (s.logError 50)
     else .next { s with hostReply := ⟨1, [0]⟩ })
  else
    let others := match s.dir? (lineOf pa) with
      | some d => d.sharers.filter (fun x => x ≠ 8)
      | none => []
    if write then
      (if others.isEmpty then
        let s1 := s.settleCode loc 0
        let l := s1.getLine loc
        let s2 := if l.2 && mask ≠ BitVec.allOnes 64 then s1 else s1.putLine loc (maskLine mask data l.1) false
        .next { s2 with hostReply := ⟨0, []⟩ }
      else .next (s.modDir (lineOf pa) (fun d => { d with
        waiting := d.waiting ++ others.filter (fun x => !d.waiting.contains x) })))
    else
      let s1 := s.settleCode loc 0
      let l := s1.getLine loc
      let s2 := match s1.share 0 loc.die (lineOf pa) 8 with
        | (some s', _) => s'
        | (none, s') => s'
      .next { s2 with hostReply := ⟨if l.2 then 1 else 0, [l.1.setWidth 1280]⟩ }

end Sys2Proof.Machine
end

