-- ==== Sys2Proof/Machine/Reply.lean ====
section
/-! DEFINITION. What a port does with replies: loads delivered in order, acknowledgements, refusals and conflicts, and
requests issued again (R102, R152, R153, R176, R183, R188, R225, R335, R374, R380). -/

namespace Sys2Proof.Machine

open Sys2Proof

/-- The lease on whose behalf a port issues. -/
def State.portLease (s : State) (p : Port) : Option Nat :=
  match p.owner with
  | .mu site => some site.lease
  | .engine _ _ _ =>
    match s.engineAt p.id with
    | some e => (s.cmd? e.cur.cmd).bind EngCmd.lease?
    | none => none

/-- The command that a port's engine runs. -/
def State.portCmd (s : State) (p : Port) : Option Nat := (s.engineAt p.id).map (fun e => e.cur.cmd)

/-- The progress that a port's reply is to its lease (R140). -/
def State.portProgress (s : State) (p : Port) : State :=
  match s.portLease p with
  | some id => s.progress id
  | none => s

/-- The origin of a request with the current invocation of its site, where an instruction of the lease issued it (R374). -/
def State.originNow (s : State) (lease : Option Nat) (r : Req) : Word :=
  let w := r.origin
  match lease with
  | none => w
  | some id =>
    if r.ofPat then w
    else match s.pe? ⟨id, bitsOf w.toNat 51 7, bitsOf w.toNat 45 6⟩ with
      | some pe => setField w 20 16 pe.inv
      | none => w

/-- The trap of a request (R104, R176, R188, R374). -/
def State.reqTrap (s : State) (p : Port) (r : Req) (cause other : Nat) (unconf : Bool) : State :=
  let lease := s.portLease p
  s.raise { tid := p.ctx, lease := lease, cmd := s.portCmd p, err := withCause (s.originNow lease r) cause, va := r.va
            partyA := r.party, partyB := other, unconf := unconf, degr := false, port := some p.id, req := some r.id }

/-- A request without the translation it had and where it stands. -/
def Req.at_ (r : Req) (st : ReqStatus) : Req := { r with status := st, leaf := none }

/-- The requests of a port that side-log entries hold up wait at the port (R152, R176). -/
def Port.barred (p : Port) : Port :=
  { p with queue := p.queue.map (fun r =>
      if r.status.away && r.status ≠ .abroad && !r.op.isMarker && p.logBars r then r.at_ .behind else r) }

/-- The requests of a port that no side-log entry holds up any more go on their way (R152, R176). -/
def Port.unbarred (p : Port) : Port :=
  { p with queue := p.queue.map (fun r => if r.status = .behind && !p.logBars r then r.at_ r.firstStatus else r) }

/-- A port without a request. -/
def Port.without (p : Port) (id : Nat) : Port :=
  ({ p with queue := p.queue.filter (fun r => r.id ≠ id), sideLog := p.sideLog.filter (fun e => e.req.id ≠ id) } : Port).unbarred

/-- Free a request's retire-queue entry; the record of an unbound port goes with its last (R89, R152). -/
def State.freeReq (s : State) (p : Port) (id : Nat) : State :=
  if !p.bound && p.requests.all (fun r => r.id = id) then { s with ports := s.ports.filter (fun q => q.id ≠ p.id) }
  else s.modPort p.id (fun p => p.without id)

/-- The token that a load brings its instruction (R225, R338, R340). -/
def Req.value (r : Req) (data : Line) (err : Option Word) : Token :=
  match err, r.op with
  | some w, _ => Token.ofErr w r.vec
  | none, .migr _ => n8Tok (data.toNat % 2)
  | none, _ =>
    if r.toScratch.isSome then n8Tok 1
    else if r.vec then Token.vector (tyOf r.ty).tag 0 data
    else patTok (tyOf r.ty) (lineGet data (r.va % 64) r.size)

/-- The token that an element of a load pattern brings (R261): n8 to n64, or raw512 with the bytes in the lowest
lanes. -/
def patternTok (size : Nat) (v : Nat) : Token :=
  match size with
  | 1 => patTok .n8 v
  | 2 => patTok .n16 v
  | 4 => patTok .n32 v
  | 8 => patTok .n64 v
  | _ => Token.vector Ty.raw512.tag 0 (BitVec.ofNat 512 v)

/-- The ERR that takes the place of a reply to a request that lost a race (R188, R224): the origin is the delivering MU, MEM set,
PARTYB the other party. -/
def State.conflictErr (s : State) (p : Port) (c : Conflict) : Word :=
  let w := match p.owner with
    | .mu site => match s.lease? site.lease, s.pe? site with
      | some L, some pe => errWord c.cause site.dx site.dy L.plane 127 pe.inv false
      | _, _ => errWord c.cause 0 0 0 127 0 false
    | .engine _ _ _ => errWord c.cause 0 0 0 127 0 false
  setField w 0 20 (c.other + b2n c.unconf * 2 ^ 17 + 2 ^ 19)

/-- Deliver the data or ERR of a load, or a marker, to its place (R153, R156, R261, R331, R340): none where there is no
room yet. While a region is unwound it is discarded (R230 step 2). -/
def State.deliver (s : State) (p : Port) (r : Req) (data : Line) (err : Option Word) : Option State :=
  match r.dest with
  | .none => some s
  | .engine _ _ =>
    match err with
    | some w => some ({ s with freeCount := s.freeCount + 1 }.engineTake p.id
        ((toBytes r.size (Config.freeLine s.freeCount).toNat).map (fun b => (b, some w))))
    | none => some (s.engineTake p.id ((toBytes r.size (lineGet data (r.va % 64) r.size)).map (fun b => (b, none))))
  | .fetch k =>
    match r.op with
    | .tfetch => some (s.modFs p.id k (fun x => { x with held := x.held ++ [lineOf r.va] }))
    | _ => some (s.modFs p.id k (fun x => { x with read := x.read ++ [(some data, err)] }))
  | .chan site ch =>
    match s.lease? site.lease, s.pe? site with
    | some L, some pe =>
      if L.unwind.any (fun u => u.step < 5) then some s
      else if pe.outFree L.plane ch ≥ 1 then
        let t := match r.op, err with
          | .marker t, _ => t
          | _, some w => Token.ofErr w false
          | _, none => patternTok r.size (lineGet data (r.va % 64) r.size)
        some (s.modPE site (fun pe => if t.seen then pe.pushOut L.plane ch t else pe.pushMark L.plane ch t))
      else none
    | _, _ => some s
  | .slot site slot =>
    match s.air? site slot with
    | none => some s
    | some a =>
      if !a.free then none
      else
        let s1 := if r.acq then s.acquire p.party r.scope else s
        let s2 := match r.toScratch, err with
          | some o, none => s1.modMu ⟨site.lease, (if a.pe.kind = PEKind.ag then site.dx - 1 else site.dx), site.dy⟩
              (fun m => m.write o 64 data.toNat)
          | _, _ => s1
        some (s2.answer site slot (fun _ => r.value data err))

/-- Whether a load or marker of a port, or an atomic held as a load, one that is issued again with it, stands before a request in load
order (R153, R176, R345). -/
def Port.loadBefore (p : Port) (id : Nat) : Bool :=
  (p.queue.takeWhile (fun q => q.id ≠ id)).any (fun q => q.op.isMarker || (match q.op with
    | .load _ | .mstream => true
    | .atomic _ => q.status.stuck || q.again
    | _ => false))

/-- A command that loses a race issues no later line and completes with the cause recorded (R188). -/
def State.failCmd (s : State) (p : Port) (cause : Nat) : State :=
  match s.portCmd p with
  | some id => s.modCmd id (fun c => { c with stop := if c.stop = .running then .failed cause else c.stop })
  | none => s

/-- LOAD_REPLY (R153, R183, R188, R225): a load, prefetch, tile-fetch line or MIGR reply reaches its port; loads, stream
lines, and a pattern's EOIs and ERRs are delivered in issue order. -/
def execLoadReply (s : State) : Host.Outcome State Fault Refusal :=
  match s.port? s.focus.port with
  | none => .next s
  | some p =>
    match p.queue.find? (fun r => r.id = s.focus.req) with
    | none => .next s
    | some r =>
      let done := fun (data : Line) (err : Option Word) =>
        match (if p.bound then s.deliver p r data err else some s) with
        | some s1 => Host.Outcome.next ((s1.freeReq p r.id).portProgress p)
        | none => .next s
      if s.fabricStopped then .next s
      else match r.op, r.status with
        | .pref, .done _ _ => .next ((s.freeReq p r.id).portProgress p)
        | .tfetch, .done d e => done d e
        | .migr _, .done d _ =>
          (match r.dest with
          | .slot site slot => .next ((s.freeReq p r.id).answer site slot (fun _ => n8Tok d.toNat))
          | _ => .next (s.freeReq p r.id))
        | .load _, .done d e | .mstream, .done d e => if p.loadBefore r.id then .next s else done d e
        | .marker _, _ => if p.loadBefore r.id then .next s else done 0 none
        | .load _, .conflict c | .mstream, .conflict c =>
          if p.loadBefore r.id then .next s
          else match (match r.dest with
              | .engine _ _ => some (s.failCmd p c.cause)
              | _ => if p.bound then s.deliver p r 0 (some (s.conflictErr p c)) else some s) with
            | some s1 => .next (((s1.reqTrap p r c.cause c.other c.unconf).freeReq p r.id).portProgress p)
            | none => .next s
        | _, _ => .next s

/-- A line of a write-class instruction has been performed: its completion token goes when all have (R335). -/
def State.lineDone (s : State) (site : SiteRef) (slot : Nat) : State :=
  match s.air? site slot with
  | none => s
  | some a =>
    match a.fl.op with
    | .writes n => if n ≤ 1 then s.answer site slot (fun _ => n8Tok 1) else s.setFlight site slot (.writes (n - 1))
    | .range op va todo n => s.setFlight site slot (.range op va todo (n - 1))
    | _ => s

/-- WRITE_ACK (R152, R188, R225, R335, R345, R349): the acknowledgement of a store, DISCARD, FLUSHR line or reduction, or
the old value of an atomic, reaches its port; a write that lost a race is discarded and traps. -/
def execWriteAck (s : State) : Host.Outcome State Fault Refusal :=
  match s.port? s.focus.port with
  | none => .next s
  | some p =>
    match p.req? s.focus.req with
    | none => .next s
    | some r =>
      let fin := fun (s : State) => Host.Outcome.next ((s.freeReq p r.id).portProgress p)
      if s.fabricStopped then .next s
      else match r.op, r.status with
        | .atomic _, .done d e =>
          (match r.dest with
          | .slot site slot =>
            match s.air? site slot with
            | some a => if a.free then (match s.deliver p r d e with
                | some s1 => fin s1
                | none => .next s) else .next s
            | none => fin s
          | _ => fin s)
        | .store, .done _ _ | .discard, .done _ _ | .reduce _, .done _ _ | .flushr, .done _ _ =>
          (match r.dest with
          | .slot site slot => fin (s.lineDone site slot)
          | _ => fin s)
        | .atomic _, .conflict c =>
          if p.loadBefore r.id then .next s
          else (match s.deliver p r 0 (some (s.conflictErr p c)) with
          | some s1 => fin (s1.reqTrap p r c.cause c.other c.unconf)
          | none => .next s)
        | .store, .conflict c | .discard, .conflict c | .reduce _, .conflict c =>
          fin ((s.failCmd p c.cause).reqTrap p r c.cause c.other c.unconf)
        | _, _ => .next s

/-- Put a refused write into a side log, in issue order. One whose page has entries there raises no trap: in front of the entry that
is held for the page it takes that one's place, behind it it waits, and where the page's entries are replayed already it goes with
them (R152, R176). -/
def logged (n : SideEntry) (cause : Nat) (log : List SideEntry) : List SideEntry :=
  let page := fun (e : SideEntry) => page64 e.req.va = page64 n.req.va
  let put := fun (st : ReqStatus) (l : List SideEntry) =>
    l.filter (fun e => e.req.id < n.req.id) ++ { n with req := { n.req with status := st } } :: l.filter (fun e => e.req.id ≥ n.req.id)
  if !log.any page then put (.held cause false) log
  else match log.find? (fun e => page e && e.req.status.heldFor) with
    | none => put .cleared log
    | some h =>
      if h.req.id < n.req.id then put (.held 0 false) log
      else put h.req.status (updWhere (fun e => e.req.id = h.req.id) (fun e => { e with req := { e.req with status := .held 0 false } }) log)

/-- The byte mask of a side-log entry (R152). -/
def Req.logMask (r : Req) : BitVec 64 := if r.op = .discard then 0 else BitVec.ofNat 64 ((2 ^ r.size - 1) * 2 ^ (r.va % 64))

/-- A refused write leaves its queue for the side log, and later requests of the port that it bars wait at the port (R152, R153,
R176). -/
def State.toLog (s : State) (p : Port) (r : Req) (cause : Nat) : State :=
  s.modPort p.id (fun p => Port.barred { p with
    queue := p.queue.filter (fun q => q.id ≠ r.id), sideLog := yields (logged ⟨r, r.logMask⟩ cause p.sideLog) })

/-- PORT_REFUSAL (R36, R160, R176, R195, R200, R229, R364, R374): a refusal reaches its port. A load or atomic of a page whose log
entries wait raises no trap: it goes when they do. -/
def execPortRefusal (s : State) : Host.Outcome State Fault Refusal :=
  match s.port? s.focus.port with
  | none => .next s
  | some p =>
    match p.req? s.focus.req with
    | none => .next s
    | some r =>
      match r.status with
      | .refused c =>
        if s.fabricStopped then .next s
        else if !p.bound then .next (s.freeReq p r.id)
        else
          let held := s.setStatus p r (.held c false)
          if r.op.logged then
            if p.queue.any (fun q => q.id = r.id) then
              if p.slstop then .next s
              else
                let s1 := s.toLog p r c
                let s2 := if p.logsPage r.va then s1 else s1.reqTrap p r c 0 false
                let s3 := match p.owner with
                  | .mu site => s2.degrade site.lease r.inv r.origin
                  | .engine _ _ _ => s2
                .next (s3.portProgress p)
            else .next (((held.modPort p.id (fun p => { p with sideLog := yields p.sideLog })).reqTrap p r c 0 false).portProgress p)
          else match r.op with
            | .flushr =>
              let s1 := match r.dest with
                | .slot site slot => s.lineDone site slot
                | _ => s
              .next (((s1.reqTrap p r c 0 false).freeReq p r.id).portProgress p)
            | .migr _ =>
              (match r.dest with
              | .slot site slot => .next ((s.freeReq p r.id).answer site slot (fun a => a.ownErr c))
              | _ => .next (s.freeReq p r.id))
            | _ =>
              if p.logBars r then .next (s.setStatus p r .behind)
              else if stopsPage p.sideLog r.va then .next ((s.setStatus p r (.held 0 false)).portProgress p)
              else if p.logsPage r.va && !r.again then .next ((s.setStatus p r .cleared).portProgress p)
              else .next ((held.reqTrap p r c 0 false).portProgress p)
      | _ => .next s

/-! ### Requests issued again (R102, R176, R380) -/

/-- Whether a port may send its held requests again: its lease is not parked or stopped, but for an unwind, and the port is
not frozen. -/
def State.portRuns (s : State) (p : Port) : Bool :=
  p.bound && !p.frozen && (match s.portLease p with
    | some id => (match s.lease? id with
      | some L => L.parked.isNone && (!L.stopIssue || L.unwind.isSome)
      | none => true)
    | none => true)

/-- Send a held request again: translated afresh, its token charged; one that entries of the side log bar waits for them at the port
(R152, R380). -/
def State.resend (s : State) (p : Port) (r : Req) : State :=
  ((s.modReq p.id r.id (fun r => { r.at_ (if p.logBars r then .behind else r.firstStatus) with again := true })).modPort p.id (fun p => { p with bucket := p.bucket - 1, issued := true })).count p.ctx p.die 6 1

/-- The least number of the requests of a port that wait to be issued again (R380). -/
def Port.firstCleared (p : Port) : Option Nat := minN? ((p.requests.filter (fun r => r.status = .cleared)).map Req.id)

/-- Whether the dies that a request needs are reached again: the one that translates it, those of the tables, and that of its line
(R36, R102). -/
def State.wayUp (s : State) (p : Port) (r : Req) : Bool :=
  match (s.ctx? p.ctx).bind (fun c => (c.xlatDie r.va).map (fun td => (c, td))) with
  | none => true
  | some (c, td) => s.pathUp p.die td && (match r.leaf with
    | some l => let d := (l.loc c.tid r.va).die; decide (4 ≤ d) || decide (4 ≤ td) || s.pathUp td d
    | none => match (s.walk c td r.va).1 with
      | .error e => e ≠ cDieDown
      | .ok l => let d := (l.loc c.tid r.va).die; decide (4 ≤ d) || decide (4 ≤ td) || s.pathUp td d)

/-- The requests that a REPLAY action holds for DIE_DOWN at some ports are let go once the dies that they need run again (R102,
R380). -/
def State.releaseUp (s : State) (f : Port → Bool) : State :=
  { s with ports := updWhere f (fun p => p.release (fun r c => c = cDieDown && s.wayUp p r)) s.ports }

/-- Whether the lease of a port is being moved or checkpointed: its side log replays afterwards (R84 step 7, R86). -/
def State.portMoves (s : State) (p : Port) : Bool :=
  match p.owner with
  | .mu site => (s.lease? site.lease).any s.inMove
  | .engine _ _ _ => false

/-- SIDE_LOG_REPLAY (R86, R91, R176, R380): the entry at the head of a side log is issued again, when its condition has cleared
or it only waited behind others of its page, and its lease is not being moved. -/
def execSideLogReplay (s : State) : Host.Outcome State Fault Refusal :=
  match s.port? s.focus.port with
  | none => .next s
  | some p =>
    match p.sideLog with
    | [] => .next s
    | e :: _ =>
      let go := match e.req.status with
        | .cleared => p.firstCleared.all (fun k => e.req.id ≤ k)
        | .held c _ => c = 0
        | _ => false
      if go && s.portRuns p && !s.portMoves p && p.bucket ≥ 1 && !s.uncoreStopped then .next (s.resend p e.req) else .next s

/-- REPLAY_RELEASE (R102, R380): the first of the loads and atomics that a port held is issued again. -/
def execReplayRelease (s : State) : Host.Outcome State Fault Refusal :=
  match s.port? s.focus.port with
  | none => .next s
  | some p =>
    match p.queue.find? (fun r => r.status = .cleared) with
    | none => .next s
    | some r =>
      if p.firstCleared.all (fun k => r.id ≤ k) && s.portRuns p && p.bucket ≥ 1 && !s.uncoreStopped then
        .next (s.resend p r)
      else .next s

end Sys2Proof.Machine
end

