-- ==== Sys2Proof/Machine/Tasks.lean ====
section
/-! DEFINITION. Tasks: tiles, the dependency tables, completion actions and records, and how a task ends (R57, R62, R63,
R72 to R77, R89, R104, R135, R371, R385). -/

namespace Sys2Proof.Machine

open Sys2Proof

/-! ### Tiles (R57) -/

/-- BASE of a tile, in 64 KiB units. -/
def tileBase (t : BitVec 56) : Nat := bitsOf t.toNat 0 41
/-- The 64 KiB units of a tile. -/
def tileUnits (t : BitVec 56) : Nat := bitsOf t.toNat 41 15 + 1
/-- The die code of a tile. -/
def tileDc (t : BitVec 56) : Nat := bitsOf t.toNat 32 3

/-- Whether two used tiles overlap (R76); a zero tile never does (R73). -/
def tilesMeet (a b : BitVec 56) : Bool :=
  a ≠ 0 && b ≠ 0 && tileBase a < tileBase b + tileUnits b && tileBase b < tileBase a + tileUnits a

/-! ### Dies of a context -/

/-- The live die that a virtual die maps to (R71). -/
def Ctx.die? (c : Ctx) (v : Nat) : Option Nat :=
  match c.diemap[v]? with
  | some d => if d = 7 then none else some d
  | none => none

/-- Whether a live die is RUNNING (R35). -/
def State.running (s : State) (die : Nat) : Bool :=
  match s.links[4 + die]? with
  | some k => k.st = .running
  | none => false

/-- The first RUNNING die from a die on, round the live dies; the die itself if none is. -/
def State.runningFrom (s : State) (die : Nat) : Nat :=
  (((List.range s.fuses.nlive).map (fun i => (die + i) % s.fuses.nlive)).find? s.running).getD die

/-- The entry die of a task with given tiles (R74). -/
def State.entryDie (s : State) (c : Ctx) (itiles otiles : List (BitVec 56)) : Nat :=
  let byTile := ((otiles.take 1 ++ itiles).filter (fun t => t ≠ 0)).findSome? (fun t => c.die? (tileDc t))
  let lowest := (List.range 4).findSome? c.die?
  s.runningFrom (byTile.getD (lowest.getD 0))

/-! ### Dependency-table entries (R73, R75, R76) -/

/-- Entries of a die's dependency table (R73). -/
def tableSize : Nat := 4096

/-- A FREE entry of a die's dependency table. -/
def State.freeEntry (s : State) (die : Nat) : Option Nat :=
  if (s.tasks.filter (fun t => t.die = die)).length < tableSize then
    (List.range tableSize).find? (fun k => !s.tasks.any (fun t => t.die = die && t.idx = k))
  else none

/-- Whether a task still holds work back. -/
def Task.live (t : Task) : Bool := t.st ≠ .done && t.st ≠ .killed

/-- The initial counter of an input tile: the earlier entries of the start list whose output overlaps it (R76). -/
def State.waitCount (s : State) (slid order : Nat) (tile : BitVec 56) : Nat :=
  (s.tasks.filter (fun p => p.slid = slid && p.order < order && !p.devl && p.live
    && p.otiles.any (fun o => tilesMeet o tile))).length

/-- A task that has no counter left becomes READY (R77). -/
def State.readyIf (s : State) (die idx : Nat) : State :=
  match s.task? die idx with
  | none => s
  | some t =>
    if t.st = .waiting && t.waits.all (fun w => w = 0) then
      { s with readyNo := s.readyNo + 1 }.modTask die idx (fun t => { t with st := .ready, readyAt := s.readyNo })
    else s

/-- A context has had work admitted (R384). -/
def State.markAdmitted (s : State) (tid : Nat) : State := s.modCtx tid (fun c => { c with admitted := true })

/-- Put a new entry into the table of its die, READY at once if nothing is waited for (R72, R73, R77). -/
def State.addTask (s : State) (t : Task) : State :=
  { s.markAdmitted t.ctx with tasks := s.tasks ++ [t] }.readyIf t.die t.idx

/-- The code of a task's state in its entry (R73). -/
def TaskState.code : TaskState → Nat
  | .waiting => 1
  | .ready => 2
  | .placing => 3
  | .running => 4
  | .moving => 5
  | .saved => 6
  | .done => 7
  | .killed => 8

/-- The 128 bytes of a dependency-table entry (R73): DEVL is clear for a task that Bilsis made (assumption 25). -/
def Task.bytes (t : Task) : List Byte :=
  let tiles := fun (n : Nat) (l : List (BitVec 56)) => (List.range n).flatMap (fun i => toBytes 7 ((l.getD i 0).toNat))
  toBytes 8 (t.st.code * 2 ^ 60 + t.kind % 4 * 2 ^ 58 + t.cls % 4 * 2 ^ 56 + t.ctx % 2 ^ 10 * 2 ^ 46 + t.slid % 2 ^ 13 * 2 ^ 33
      + b2n (t.devl && !t.bilsis) * 2 ^ 32 + t.prio % 2 ^ 16 * 2 ^ 16 + t.h % 2 ^ 8 * 2 ^ 8 + t.w % 2 ^ 8)
    ++ toBytes 8 (t.image % 2 ^ 57) ++ toBytes 8 (t.args % 2 ^ 64)
    ++ toBytes 8 (t.seq % 2 ^ 32 * 2 ^ 32 + min t.skips 255 * 2 ^ 24 + t.rem % 2 ^ 24)
    ++ (List.range 8).flatMap (fun i => toBytes 1 (t.waits.getD i 0)) ++ tiles 8 t.itiles ++ tiles 4 t.otiles
    ++ toBytes 4 (t.order % 2 ^ 32)

/-- What Bilsis reads of a dependency-table entry through the mailbox (R73); of a FREE one the manual gives only STATE, and the
other bits are zero here (DESIGN CHOICE, assumption 68). -/
def State.readEntry (s : State) (die idx : Nat) : List Byte :=
  match s.task? die idx with
  | some t => t.bytes
  | none => zeros 128

/-- The counters of the dependents of an entry that ends (R76). -/
def State.lowerDeps (s : State) (p : Task) : State :=
  if p.devl then s
  else
    let low := fun (e : Task) =>
      if e.slid = p.slid && p.order < e.order && !e.devl then
        { e with waits := (e.waits.zip e.itiles).map (fun x =>
            if p.otiles.any (fun o => tilesMeet o x.2) then x.1 - 1 else x.1) }
      else e
    let s1 := { s with tasks := s.tasks.map low }
    s1.tasks.foldl (fun (s : State) e => s.readyIf e.die e.idx) s1

/-! ### Records and completion actions (R62 to R64, R104) -/

/-- Context time (R101). -/
def State.contextTime (s : State) (tid : Nat) : Nat :=
  (s.ticks + (match s.ctx? tid with
    | some c => c.offset
    | none => 0)) % 2 ^ 64

/-- A start list faults: FCAUSE keeps the first cause; a destroyed list never faults (R64, R65). -/
def State.slFault (s : State) (slot cause : Nat) : State :=
  s.modSl slot (fun l => if l.st = .faulted || l.st = .destroyed then l else { l with st := .faulted, fcause := cause })

/-- Write the next record of a start list: 24 bytes given and DETAIL, then CSTAMP last; a write that faults loses it
(R63, R64). A completion record that finds CRING full, as one of a replay's node or of a device launch may, is written over the
oldest entry (DESIGN CHOICE, assumption 76). -/
def State.putRecord (s : State) (l : StartList) (w0 w1 w2 w3 : Nat) : State :=
  let at_ := l.cring + 32 * (l.recs % l.size)
  match s.cdWrite l.tid at_ (toBytes 8 w0 ++ toBytes 8 w1 ++ toBytes 8 w2 ++ toBytes 4 w3) true with
  | (.error _, s1) => s1.slFault l.slot 2
  | (.ok _, s1) =>
    match s1.cdWrite l.tid (at_ + 28) (toBytes 4 (l.recs % 0xFFFFFFFF + 1)) true with
    | (.error _, s2) => s2.slFault l.slot 2
    | (.ok _, s2) => s2.modSl l.slot (fun l => { l with recs := l.recs + 1 })

/-- What a packet or task reports when it completes. -/
structure Report where
  tag : Nat
  kind : Nat
  n : Nat
  crec : Bool
  csem : Bool
  cmsi : Bool
  vec : Nat
  status : Nat
  detail : Nat
deriving DecidableEq, Repr

/-- The completion record of a report (R63). -/
def State.putCompletion (s : State) (l : StartList) (r : Report) : State :=
  s.putRecord l (r.kind * 2 ^ 8 + r.status * 2 ^ 16 + r.tag * 2 ^ 32) (r.n % 2 ^ 32 + l.slot * 2 ^ 32)
    (s.contextTime l.tid) (r.detail % 2 ^ 32)

/-- Add 1 to the completion semaphore of a start list (R62). -/
def State.addCsema (s : State) (l : StartList) : State :=
  match s.cdRead l.tid l.csema 8 true with
  | (.error _, s1) => s1.slFault l.slot 2
  | (.ok bs, s1) =>
    match s1.cdWrite l.tid l.csema (toBytes 8 ((ofBytes bs + 1) % 2 ^ 64)) true with
    | (.error _, s2) => s2.slFault l.slot 2
    | (.ok _, s2) => s2

/-- A 32-bit word of a function's MSI-X table; every vector is masked at reset, as in the MSI-X of PCI Express (PRESUMED,
assumption 45; R51). -/
def State.msixWord (s : State) (fn off : Nat) : BitVec 32 :=
  match s.msixTable.find? (fun e => e.1 = fn && e.2.1 = off) with
  | some e => e.2.2
  | none => if off % 16 = 12 then 1 else 0

/-- Whether a vector is masked: bit 0 of the last word of its entry (PRESUMED, assumption 45). -/
def State.msixMasked (s : State) (fn vec : Nat) : Bool := (s.msixWord fn (16 * vec + 12)).toNat.testBit 0

/-- Send an MSI-X message of a function, or leave it pending where its vector is masked (R51, R62, assumption 45). -/
def State.sendMsi (s : State) (fn vec : Nat) : State :=
  if !s.msixMasked fn vec then { s with msiSent := s.msiSent ++ [⟨fn, vec⟩] }
  else if s.msixPending.contains (fn, vec) then s
  else { s with msixPending := (fn, vec) :: s.msixPending }

/-- A pending message goes once its vector is not masked (R51, assumption 45). -/
def State.unmask (s : State) (fn vec : Nat) : State :=
  if s.msixPending.contains (fn, vec) && !s.msixMasked fn vec then
    { s with msixPending := s.msixPending.filter (fun x => x ≠ (fn, vec)), msiSent := s.msiSent ++ [⟨fn, vec⟩] }
  else s

/-- The completion actions of a report on its start list: record, semaphore, message, in this order (R62). -/
def State.report (s : State) (slot : Nat) (r : Report) : State :=
  match s.sl? slot with
  | none => s
  | some l =>
    let s1 := if r.crec then s.putCompletion l r else s
    let s2 := if r.csem then s1.addCsema l else s1
    if r.cmsi then s2.sendMsi l.fn r.vec else s2

/-- Free entries of a completion ring, counted from CHEAD (R63). -/
def StartList.ringFree (l : StartList) : Nat := l.size - (l.recs + 2 ^ 32 - l.chead.toNat) % 2 ^ 32

/-- Records owed on a start list: admitted packets and its tasks that will write one (R63). -/
def State.owed (s : State) (l : StartList) : Nat :=
  (l.pending.filter (fun p => p.crec && p.kind ≠ 1 && p.kind ≠ 7)).length
    + (s.tasks.filter (fun t => t.slid = l.slot && t.crec && t.live)).length
    + (l.nodes.filter (fun x => x.2.toNat.testBit 8)).length

/-- Write a trap record to a start list, or count it lost where the ring is full (R63, R104). -/
def State.trapRecord (s : State) (slot w0 w1 w2 w3 : Nat) : State :=
  match s.sl? slot with
  | none => s
  | some l =>
    if l.ringFree ≤ s.owed l then s.modSl slot (fun l => { l with lost := min (l.lost + 1) 0xFFFF })
    else s.putRecord l w0 w1 w2 w3

/-- Free the slot of a destroyed start list once none of its admitted work remains (R65). -/
def State.sweepSl (s : State) (slot : Nat) : State :=
  match s.sl? slot with
  | none => s
  | some l =>
    if l.st = .destroyed && l.pending.isEmpty && l.nodes.isEmpty && !s.tasks.any (fun t => t.slid = slot) then
      { s with startLists := s.startLists.filter (fun x => x.slot ≠ slot) }.modCtx l.tid (fun c =>
        { c with slots := c.slots.filter (fun k => k ≠ slot) })
    else s

/-! ### How a lease goes -/

/-- A relocation or checkpoint is called off: the lease runs on where it stands, HOLD is released, and the traps held are
raised (R82, R86). -/
def State.cancelMove (s : State) (id : Nat) : State :=
  match s.lease? id with
  | none => s
  | some L =>
    if L.move.isNone then s
    else
      let s1 := (s.modLease id (fun L => { L with
        move := none, baton := none, heldTraps := if L.unwind.isSome then L.heldTraps else [] })).modTask L.die L.entry
          (fun t => if t.st = .moving then { t with st := .running } else t)
      let s2 := if L.unwind.isSome then s1 else s1.holdInputs id false
      if L.unwind.isSome then s2 else s2.putBack L.heldTraps

/-- A task becomes READY and joins its queue (R77). -/
def State.becomeReady (s : State) (die idx : Nat) : State :=
  { s with readyNo := s.readyNo + 1 }.modTask die idx (fun t => { t with st := .ready, readyAt := s.readyNo })

/-- Release a reservation: its window and destinations are free again, the relocations it asked for are called off, and its
newcomer, if it still waits for it, returns to READY (R82). It then became READY at that moment, and goes behind those of its
priority that were READY before: R77 does not say whether the earlier time stands (DESIGN CHOICE, assumption 67). -/
def State.dropResv (s : State) (id : Nat) : State :=
  match s.resvs.find? (fun r => r.id = id) with
  | none => s
  | some r =>
    let ls := s.leases.filter (fun L => match L.move with
      | some m => m.resv = some id && (match m.job with
        | .move _ _ => true
        | _ => false)
      | none => false)
    let s1 := ls.foldl (fun (s : State) L => s.cancelMove L.id) { s with resvs := s.resvs.filter (fun x => x.id ≠ id) }
    match s1.task? r.die r.idx with
    | some t => if t.st = .placing then s1.becomeReady r.die r.idx else s1
    | none => s1

/-- Remove a command wholly: what waits and what its engines have not issued never happens (R89). -/
def State.stopCmd (s : State) (c : EngCmd) : State :=
  let s1 := s.unqueue c.id
  let s2 := (s1.engines.filter (fun e => e.cur.cmd = c.id)).foldl (fun (s : State) e => s.freeEngine e.port) s1
  let s3 := s2.endCmdParty c.party
  { s3 with cmds := s3.cmds.filter (fun x => x.id ≠ c.id) }

/-- Whether an engine port holds requests for a trap action (R176). -/
def Port.holdsAny (p : Port) : Bool := !p.sideLog.isEmpty || p.queue.any (fun r => r.status.stuck)

/-- The engine commands of a lease that goes: what waits is removed, what an engine has begun goes on without its issuer,
and a circular buffer that is gone, or a request held for a trap action, stops it (R89, R96). -/
def State.dropCmds (s : State) (id : Nat) : State :=
  let cs := s.cmds.filter (fun c => c.lease? = some id)
  cs.foldl (fun (s : State) c =>
    let s1 := s.unqueue c.id
    let es := s1.engines.filter (fun e => e.cur.cmd = c.id)
    let run := es.length
    if run = 0 then
      { s1.endCmdParty c.party with cmds := s1.cmds.filter (fun x => x.id ≠ c.id) }
    else if es.any (fun e => (s1.port? e.port).any Port.holdsAny) then s1.stopCmd c
    else s1.modCmd c.id (fun x => { x with
      site := none, segsLeft := run, stop := if x.toCb then .killed else x.stop })) s

/-- Write back a pre-image, mark and all, where its address now lies (R230 step 4, R235). -/
def State.undoWrite (s : State) (tid : Nat) (u : UndoEntry) : State :=
  match s.cdLoc tid u.va true false with
  | (.ok loc, s1) => (s1.cdPut loc u.pre).putLine loc u.pre u.prePoison
  | (.error _, s1) => s1

/-- Apply the undo logs of a lease's ports, newest first in each, and clear them (R230 step 4). -/
def State.applyUndo (s : State) (id : Nat) : State :=
  (s.leasePorts id).foldl (fun (s : State) p =>
    (p.undo.reverse.foldl (fun (s : State) u => s.undoWrite p.ctx u) s).modPort p.id (fun p => { p with undo := [] })) s

/-- A kill stops an unwind where it stands; what a REDO region has still to undo is undone (R232). -/
def State.undoAtKill (s : State) (id : Nat) : State :=
  match s.lease? id with
  | some L => if L.unwind.isSome && L.region.any Region.redo then s.applyUndo id else s
  | none => s

/-- Remove a lease: its ports are unbound and their tokens carried, its parties end, its PEs leave their teams, and its
sites are FREE (R79, R89, R135, R179, R371). -/
def State.dropLease (s0 : State) (id : Nat) : State :=
  let s := s0.undoAtKill id
  let ports := s.leasePorts id
  let parties := ((ports.filter Port.bound).map Port.party).dedup
  let s1 := s.dropCmds id
  let s2 := ports.foldl (fun (s : State) p => s.closePort p.id) s1
  let s3 := parties.foldl (fun (s : State) k => s.endParty k) s2
  let s4 : State := { s3 with
    leases := s3.leases.filter (fun L => L.id ≠ id)
    teams := s3.teams.map (fun t => { t with members := t.members.filter (fun m => m.site.lease ≠ id) })
    syncQ := s3.syncQ.filter (fun m => m.site.lease ≠ id)
    waiters := s3.waiters.filter (fun w => w.msg.site.lease ≠ id)
    traps := s3.traps.filter (fun t => t.lease ≠ some id)
    resvs := s3.resvs.map (fun r => { r with
      dests := r.dests.filter (fun d => d.1 ≠ id), drains := r.drains.filter (fun d => d.1 ≠ id) }) }
  s4.sweepTeams

/-- The lease of a task. -/
def State.leaseOf (s : State) (t : Task) : Option Lease := s.leases.find? (fun L => L.die = t.die && L.entry = t.idx)

/-! ### How a task ends (R89) -/

/-- What a task reports. -/
def Task.report (t : Task) (status detail : Nat) : Report :=
  ⟨t.tag, t.pktKind, t.seq, t.crec, t.csem, t.cmsi, t.vec, status, detail⟩

/-- One node of a replay, or the packet of a task, is complete (R59). -/
def State.packetDone (s : State) (t : Task) : State :=
  if t.devl then s
  else s.modSl t.slid (fun l => { l with
    pending := (l.pending.map (fun p =>
        if p.n = t.seq && p.kind = 3 then
          { p with nodesLeft := p.nodesLeft - 1, status := if p.nodesLeft ≤ 1 then some (0, 0) else p.status }
        else p)).filter (fun p => !(p.n = t.seq && p.kind ≠ 3)) })

/-- Clear USED of a save-area slot: its record has been restored, or its task killed (R234). -/
def State.freeSlot (s : State) (tid : Nat) (saved : Saved) : State :=
  match saved, s.ctx? tid with
  | .slot i _ _, some c => (s.cdWrite tid (wrapN 57 ((c.saveva + 64 * (i + 1) + 6 : Nat) : Int)) [0] false).2
  | _, _ => s

/-- What lives on with a saved context goes with a task that is killed: its parties, and its membership of teams (R135). -/
def State.dropSaved (s : State) (saved : Saved) : State :=
  match saved with
  | .slot _ id ps =>
    let s1 := ps.foldl (fun (s : State) k => s.endParty k) s
    let out := fun (t : Team) => { t with members := t.members.filter (fun m => m.site.lease ≠ id) }
    { s1 with teams := s1.teams.map out }.sweepTeams
  | _ => s

/-- A task ends: DONE or KILLED, its dependents' counters fall, its sites are freed, its completion actions are sent, and
its entry is FREE, in this order (R76, R89). -/
def State.finishTask (s : State) (t : Task) (killed : Bool) (status detail : Nat) : State :=
  let s1 := ((s.dropSaved t.saved).freeSlot t.ctx t.saved).modTask t.die t.idx
    (fun t => { t with st := if killed then .killed else .done })
  let s2 := s1.lowerDeps t
  let s3 := match s2.leaseOf t with
    | some L => s2.dropLease L.id
    | none => s2
  let s4 := (s3.resvs.filter (fun r => r.die = t.die && r.idx = t.idx)).foldl (fun (s : State) r => s.dropResv r.id) s3
  let s5 := s4.report t.slid (t.report status detail)
  ({ s5 with tasks := s5.tasks.filter (fun x => !(x.die = t.die && x.idx = t.idx)) }.packetDone t).sweepSl t.slid

/-- Kill a task with a reason: its record has status KILLED (R89, R385). -/
def State.killTask (s : State) (t : Task) (detail : Nat) : State := s.finishTask t true 4 detail

/-- Kill a task by the start list that launched it or by its context: a COPY not yet begun is DISCARDED, one begun runs on
(R65, R96). -/
def State.forceTask (s : State) (t : Task) (detail : Nat) : State :=
  match t.cmd with
  | none => s.killTask t detail
  | some c =>
    if s.engines.any (fun e => e.cur.cmd = c) then s
    else match s.cmd? c with
      | none => s
      | some k =>
        if k.stop ≠ .running || k.party ≠ 0 then s
        else
          let s1 := s.unqueue c
          { s1 with cmds := s1.cmds.filter (fun x => x.id ≠ c) }.finishTask t false 8 0

end Sys2Proof.Machine
end

