-- ==== Sys2Proof/Machine/Inval.lean ====
section
/-! DEFINITION. Invalidations: their beginning, the batons at the ports, and their acknowledgement (R133, R156, R199 to
R201, R373). -/

namespace Sys2Proof.Machine

open Sys2Proof

/-- The contexts that an invalidation names: those that hold an ASID, or all of a VMID (R58, R199, R373). -/
def State.namedCtxs (s : State) (vmid : Nat) (asid : Option Nat) : List Ctx := s.ctxs.filter (Ctx.named vmid asid)

/-- The ports of some contexts, engine ports included. -/
def State.ctxPorts (s : State) (cs : List Ctx) : List Port := s.ports.filter (fun p => cs.any (fun c => c.tid = p.ctx))

/-- Whether a request cannot go on before an invalidation ends: its walk has read a leaf whose page the invalidation blocks, or its
address, in the range, still wants its walk (R168, R199). -/
def State.walkHeld (s : State) (v : Inval) (p : Port) (r : Req) : Bool :=
  match r.status, s.ctx? p.ctx with
  | .walking _ _ _ l, some c => v.blocks c r.va l
  | .miss, some c => c.named v.vmid v.asid
    && (v.stage2 || (r.va < v.base + v.size && v.base < r.va + r.size))
  | _, _ => false

/-- Whether a request waits for one of some others: it follows one of its port that touches its bytes, or is a release that waits for
one (R153, R183). -/
def Port.waitsOn (p : Port) (ids : List Nat) (r : Req) : Bool :=
  r.status.away && (r.after.any ids.contains ||
    p.requests.any (fun q => decide (q.id < r.id) && ids.contains q.id && q.overlaps r))

/-- The requests that some others hold up, those with them: what waits for them, and what waits for that, as far as `n` such steps. -/
def State.heldBehind (s : State) : Nat → List Nat → List Nat
  | 0, ids => ids
  | n + 1, ids =>
    let more := s.ports.flatMap (fun p => (p.requests.filter (fun r => !ids.contains r.id && p.waitsOn ids r)).map Req.id)
    if more.isEmpty then ids else s.heldBehind n (more ++ ids)

/-- The requests that cannot go on before an invalidation ends (R168, R199, R201, assumption 30). -/
def State.stalledBy (s : State) (v : Inval) : List Nat :=
  s.heldBehind (sumN (s.ports.map (fun p => p.requests.length)))
    (s.ports.flatMap (fun p => (p.requests.filter (s.walkHeld v p)).map Req.id))

/-- Whether a request is one that an invalidation's baton follows: one in flight, replayed side-log entries with it (R199, R201). -/
def Req.followed (r : Req) : Bool := r.status.away && !r.op.isMarker

/-- The request numbers that a baton follows at a port. -/
def Port.followed (p : Port) : List Nat := (p.requests.filter Req.followed).map Req.id

/-- Whether a walk-cache entry covers part of a range. -/
def WalkEntry.covers (w : WalkEntry) (base size : Nat) : Bool :=
  w.base < base + size && base < w.base + 2 ^ levelShift w.level

/-- Whether step 1 of an invalidation drops a TLB entry: one of the range under a named ASID or VMID on the die that translates the
range for a context so named, G entries with it; of a second-stage one, every entry of the VMID (R199, R201, R373). -/
def TlbEntry.hit (e : TlbEntry) (cs : List Ctx) (vmid : Nat) (asid : Option Nat) (base size : Nat) (stage2 : Bool) : Bool :=
  if stage2 then e.vmid = vmid
  else cs.any (fun c => c.xlatDie base = some e.die && e.vmid = c.vmid && (asid.isNone || e.leaf.g || e.asid = c.asid))
    && e.base < base + size && base < e.base + e.leaf.size

/-- Begin an invalidation: step 1 drops what the TLBs, near caches, RRCs and walk cache hold of the range, and blocks
installs; step 2 sends a baton behind every port's requests in flight (R199, R201). A second-stage one drops every TLB
entry of its VMID, and, since its range is of intermediate addresses, every near-cache and RRC line of the VMID's
ASIDs. -/
def State.beginInval (s : State) (vmid : Nat) (asid : Option Nat) (base size : Nat) (stage2 : Bool)
    (packet : Option (Nat × Nat)) : Nat × State :=
  let cs := s.namedCtxs vmid asid
  let named := fun (a : Nat) => cs.any (fun c => c.asid = a)
  let hit := fun (va : Nat) => stage2 || (va < base + size && base < va + 64)
  let n := s.fresh
  let t := n.2
  let s1 : State := { t with
    tlb := t.tlb.filter (fun e => !e.hit cs vmid asid base size stage2)
    near := t.near.filter (fun x => !(named x.asid && hit x.va))
    rrc := t.rrc.filter (fun x => !(named x.asid && hit x.va))
    walkCache := t.walkCache.filter (fun w => !(w.covers base size
      && (if stage2 then w.stage = 2 && w.vmid = vmid
        else w.stage = 1 && cs.any (fun c => w.asid = c.asid && w.vmid = c.vmid)))) }
  (n.1, { s1 with
    invals := ⟨n.1, vmid, asid, base, size, (s1.ctxPorts cs).map (fun p => (p.id, p.followed)), stage2, packet⟩
      :: s1.invals })

/-- The requests that an invalidation's baton still waits for at a port: not for one that cannot go on before the invalidation ends,
which is translated afresh after it (R199, assumption 30). -/
def State.batonWaits (s : State) (v : Inval) (port : Nat) : List Nat :=
  match s.port? port, v.ports.find? (fun x => x.1 = port) with
  | some p, some x =>
    let out := s.stalledBy v
    x.2.filter (fun id => !out.contains id && p.requests.any (fun r => r.id = id && r.followed))
  | _, _ => []

/-- The pins of a port's fetch slots in a range are dropped, and the slots become STALE (R156). -/
def State.dropPins (s : State) (base size : Nat) (stage2 : Bool) (p : Port) : State :=
  let hit := fun (va : Nat) => stage2 || (base ≤ va && va < base + size)
  let s1 : State := { s with l2 := s.l2.map (fun l => { l with
                        pins := l.pins.filter (fun q => !(q.1 = p.id && hit (q.2 / 8))) }) }
  (List.range 8).foldl (fun (s : State) k =>
    s.modFs p.id k (fun x =>
      if x.st ≠ .empty && x.lines.any hit then
        { x with st := .stale, held := x.held.filter (fun va => !hit va) } else x)) s1

/-- INVALIDATION_BATON_ACK (R86, R156, R199): once every earlier request of a port has been performed or refused, its pins in the
range are dropped and the home slices acknowledge its baton. -/
def execInvalidationBatonAck (s : State) : Host.Outcome State Fault Refusal :=
  match s.invals.find? (fun v => v.id = s.focus.req) with
  | none => .next s
  | some v =>
    if (s.batonWaits v s.focus.port).isEmpty then
      let s1 := match s.port? s.focus.port with
        | some p => s.dropPins v.base v.size v.stage2 p
        | none => s
      .next { s1 with
        invals := updWhere (fun w => w.id = v.id)
          (fun w => { w with ports := w.ports.filter (fun x => x.1 ≠ s.focus.port) }) s1.invals }
    else .next s

/-- Number an invalidation sequence of a VMID or ASID forward. -/
def bump (l : List (Nat × Nat)) (k : Nat) : List (Nat × Nat) := insertKV l k (lookupD l k 0 + 1)

/-- Whether a walk of a VMID that an invalidation names has been restarted eight times and is not in a page that the invalidation blocks: its
completion is held till that walk has installed its result (R168, assumption 30). -/
def State.walkStarved (s : State) (v : Inval) : Bool :=
  s.ports.any (fun p => match s.ctx? p.ctx with
    | some c => (s.namedCtxs v.vmid v.asid).any (fun k => k.vmid = c.vmid) && p.requests.any (fun r => match r.status with
      | .walking _ _ n l => n ≥ 8 && !v.blocks c r.va l
      | _ => false)
    | none => false)

/-- INVALIDATION_ACK (R102, R168, R199, R201, R373): with every baton acknowledged the sequence advances, installs are unblocked,
held REPLAY requests of the named contexts are let go, and the packet that waits has its effect. An XLINV instruction sees the
invalidation gone. -/
def execInvalidationAck (s : State) : Host.Outcome State Fault Refusal :=
  match s.invals.find? (fun v => v.id = s.focus.req) with
  | none => .next s
  | some v =>
    if !v.ports.isEmpty || s.walkStarved v then .next s
    else
      let cs := s.namedCtxs v.vmid v.asid
      let s2 : State := { s with
        invals := s.invals.filter (fun w => w.id ≠ v.id)
        s1seq := if v.stage2 then s.s1seq else (cs.map Ctx.asid).dedup.foldl bump s.s1seq
        s2seq := if v.stage2 then bump s.s2seq v.vmid else s.s2seq }
      let s3 := if v.stage2 then s2 else s2.releaseReplay (fun t => cs.any (fun c => c.tid = t)) replayAccess
      match v.packet with
      | none => .next s3
      | some (slot, n) => .next (s3.modSl slot (fun l => { l with
        pending := updWhere (fun p => p.n = n) (fun p => { p with status := some (0, 0) }) l.pending }))

end Sys2Proof.Machine
end

