-- ==== Sys2Proof/Machine/System.lean ====
section
/-! DEFINITION. The system instructions of group 0xE0 (R194, R196, R227, R358 to R366). -/

namespace Sys2Proof.Machine

open Sys2Proof

/-- CROPEN (R227, R358): asks the placer to open a containment region; what L leaves unlisted is ignored
(assumption 15). -/
def execCropen (f : FmtM) (s : State) : Host.Outcome State Fault Refusal :=
  fire (.cropen f) always (errToBoth (.cropen f)) (fun c s =>
    match scalarArg c.l .n64 with
    | some t => c.control (.cropen c.site.dx c.site.dy c.slot (f.idx.toNat.testBit 0) (f.off.toNat % 256) (BitVec.ofNat 64 t)) s
    | none => c.fail f.h cFormatTag s) s

/-- CRCLOSE (R227, R358): the open region ends after the invocation in which it is issued; with no region open it
replies all ones. -/
def execCrclose (f : FmtM) (s : State) : Host.Outcome State Fault Refusal :=
  fire (.crclose f) always (errToBoth (.crclose f)) (fun c s =>
    match c.lease.region with
    | none => c.reply f.h (n64Tok (2 ^ 64 - 1)) s
    | some r =>
      if c.pe.inv < r.first then c.reply f.h (n64Tok (2 ^ 64 - 1)) s
      else
        let last := r.last.getD c.pe.inv
        c.reply f.h (n64Tok last) (s.modLease c.site.lease (fun L => { L with
          region := L.region.map (fun r => { r with last := some last }) }))) s

/-- The cause that TRAP makes (R226, R359). -/
def trapCause (n : Nat) : Nat := if causeListed (n % 64) && n % 64 ≠ cPowerFail then n % 64 else cSwTrap

/-- TRAP (R359): an ERR with a cause and its own slot as origin. -/
def execTrap (f : FmtM) (s : State) : Host.Outcome State Fault Refusal :=
  fire (.trap f) always (errToBoth (.trap f)) (fun c s => c.fail f.h (trapCause f.off.toNat) s) s

/-- ERRQ (R360): sends the 64 bits of an ERR in L as data, with no trap; any other L gives 0. -/
def execErrq (f : FmtM) (s : State) : Host.Outcome State Fault Refusal :=
  fireUsing (.errq f) (fun c => c.taken (Instr.errq f).uses) (fun u => { u with l := false }) always
    (errToBoth (.errq f))
    (fun c s => c.reply f.h (n64Tok (match c.l with
      | some t => if t.kind = .err then t.low.toNat else 0
      | none => 0)) s) s

/-! ### Tasks launched by programs (R361, R362) -/

/-- TASK (R361): its issue is a release at DEVICE scope; then the descriptor is read. -/
def execTask (f : FmtM) (s : State) : Host.Outcome State Fault Refusal :=
  fire (.task f) always (errToBoth (.task f)) (fun c s =>
    match scalarArg c.l .a57, scalarArg c.r .n64, s.portOf? c.site c.pe.kind with
    | some va, some w, some p =>
      c.fly (.release (s.portWaits p) (.task ⟨va, BitVec.ofNat 64 w, f.idx.toNat.testBit 0⟩)) (s.endSfr p.party)
    | some va, some w, none => c.fly (.release [] (.task ⟨va, BitVec.ofNat 64 w, f.idx.toNat.testBit 0⟩)) s
    | _, _, _ => c.fail f.h cFormatTag s) s

/-- A field of a 128-byte packet or descriptor, by byte offset and bytes. -/
def pktField (b : BitVec 1024) (off n : Nat) : Nat := bitsOf b.toNat (8 * off) (8 * n)

/-- The twelve tile slots of a LAUNCH packet (R57). -/
def pktTiles (b : BitVec 1024) : List (BitVec 56) :=
  (List.range 12).map (fun k => BitVec.ofNat 56 (pktField b (if k < 4 then 32 + 7 * k else 64 + 7 * (k - 4)) 7))

/-- The checks of R56 and R57 on the fields of a LAUNCH packet, but for bytes 120 to 123. -/
def launchOk (b : BitVec 1024) : Bool :=
  let hd := pktField b 0 8
  let sh := pktField b 24 8
  let nin := bitsOf sh 34 4
  let nout := bitsOf sh 38 3
  hd % 256 = 1 && bitsOf hd 11 5 = 0 && bitsOf hd 27 5 = 0 && bitsOf (pktField b 8 8) 57 7 = 0 && bitsOf (pktField b 16 8) 57 7 = 0
    && nin ≤ 8 && nout ≤ 4 && bitsOf sh 32 2 ≤ 1 && 1 ≤ bitsOf sh 8 8 && bitsOf sh 8 8 ≤ 64 && 1 ≤ sh % 256 && sh % 256 ≤ 128
    && ((pktTiles b).zipIdx.all (fun t => t.1 = 0 || t.2 < nin || (8 ≤ t.2 && t.2 < 8 + nout)))

/-- The entry that a LAUNCH packet or descriptor makes, without its counters (R57, R73). -/
def launchTask (b : BitVec 1024) (die idx ctx slid seq order : Nat) : Task :=
  let hd := pktField b 0 8
  let sh := pktField b 24 8
  { die := die, idx := idx, st := .waiting, kind := 0, cls := bitsOf sh 32 2, ctx := ctx, slid := slid, devl := false
    prio := bitsOf sh 16 16, h := bitsOf sh 8 8, w := sh % 256, image := pktField b 8 8, args := pktField b 16 8
    bilsis := false, seq := seq, skips := 0, rem := bitsOf sh 41 23, waits := List.replicate 8 0, itiles := (pktTiles b).take 8
    otiles := (pktTiles b).drop 8, order := order, tag := bitsOf hd 32 32, crec := hd.testBit 8, csem := hd.testBit 9
    cmsi := hd.testBit 10, vec := bitsOf hd 16 11, pktKind := 1, readyAt := 0, saved := .no, copy := none, cmd := none
    firmware := false, trapTag := bitsOf hd 32 32, replays := [] }

/-- The ready counters that TASK names, WAIT0 first. -/
def waitBytes (w : Word) : List Nat := (List.range 8).map (fun i => bitsOf w.toNat (8 * i) 8)

/-- The descriptor of TASK is checked and its entry made, once there is one (R56, R57, R74, R75, R361). A context that is being
destroyed is given none (R389). -/
def progressTask (a : Air) (m : TaskMsg) (s : State) : State :=
  if !a.free then s
  else
    let own := a.lease.tid
    if m.va % 128 ≠ 0 then s.land a (a.ownErr cPerm)
    else match s.cdRead own m.va 128 true with
      | (.error e, s1) => s1.land a (a.ownErr e)
      | (.ok bs, s1) =>
        let b : BitVec 1024 := BitVec.ofNat 1024 (ofBytes bs)
        let res := pktField b 120 4
        let tid := if m.system then res % 1024 else own
        let unused := ((pktTiles b).take 8).zip (waitBytes m.waits)
        if !launchOk b || (if m.system then res / 1024 ≠ 0 else res ≠ 0) || unused.any (fun x => x.1 = 0 && x.2 ≠ 0) then
          s1.land a (a.ownErr cPerm)
        else match s1.ctx? tid, s1.task? a.lease.die a.lease.entry with
          | some c, some t =>
            if c.closing then s1
            else
            let d := s1.entryDie c ((pktTiles b).take 8) ((pktTiles b).drop 8)
            (match s1.freeEntry d with
            | none => s1
            | some idx =>
              let order := match s1.sl? t.slid with
                | some l => l.order
                | none => 0
              let s2 := s1.modSl t.slid (fun l => { l with order := l.order + 1 })
              let e := launchTask b d idx tid t.slid t.seq order
              (s2.addTask { e with devl := true, waits := waitBytes m.waits, trapTag := t.trapTag }).land a
                (n64Tok (idx + d * 2 ^ 12 + order % 2 ^ 32 * 2 ^ 16)))
          | _, _ => s1.land a (a.ownErr cPerm)

/-- TASKDEP (R362): a release at DEVICE scope, then the counter. -/
def execTaskdep (f : FmtM) (s : State) : Host.Outcome State Fault Refusal :=
  fire (.taskdep f) always (errToBoth (.taskdep f)) (fun c s =>
    match scalarArg c.l .n64 with
    | none => c.fail f.h cFormatTag s
    | some l =>
      let op := fun (w : List Nat) => FlightOp.release w (.taskdep (BitVec.ofNat 64 l) (f.off.toNat % 8))
      match s.portOf? c.site c.pe.kind with
      | some p => c.fly (op (s.portWaits p)) (s.endSfr p.party)
      | none => c.fly (op []) s) s

/-- TASKDEP lowers the counter of the entry it names, if it is the one that TASK replied with (R362). -/
def progressTaskdep (a : Air) (l : Word) (i : Nat) (s : State) : State :=
  if !a.free then s
  else
    let w := l.toNat
    match s.task? (bitsOf w 12 3) (w % 4096) with
    | some t =>
      if t.st = .waiting && t.devl && t.ctx = a.lease.tid && t.order % 2 ^ 32 = bitsOf w 16 32 then
        let v := (t.waits.getD i 0) - 1
        ((s.modTask t.die t.idx (fun t => { t with waits := t.waits.set i v })).readyIf t.die t.idx).land a (n64Tok (v + 256))
      else s.land a (n64Tok 0)
    | none => s.land a (n64Tok 0)

/-! ### Translation (R363 to R365) -/

/-- MIGR (R174, R364): asks the home of the page of L to move it to a virtual die. -/
def execMigr (f : FmtM) (s : State) : Host.Outcome State Fault Refusal :=
  let plan := fun (c : Site) =>
    if c.predStops f.h || isErr c.l then none
    else (scalarArg c.l .a57).map (fun a => Plan.plain (.migr (f.off.toNat % 4)) (lineOf a) 1 false)
  fire (.migr f) (planReady plan s) (errToBoth (.migr f)) (fun c s =>
    match plan c with
    | some p => c.sendRead f p s
    | none => c.fail f.h cFormatTag s) s

/-- XLFENCE (R196, R364): waits for every earlier write of its party to be performed. -/
def execXlfence (f : FmtM) (s : State) : Host.Outcome State Fault Refusal :=
  fire (.xlfence f) always (errToBoth (.xlfence f)) (fun c s =>
    match s.portOf? c.site c.pe.kind with
    | some p => c.fly (.release (s.releaseWaits p.party) .xlfence) s
    | none => c.fly (.release [] .xlfence) s) s

/-- XLFENCE completes: requests of the context held for REPLAY are let go, and it sends 1 (R102, R196). -/
def progressXlfence (a : Air) (s : State) : State :=
  if a.free then (s.releaseReplay (fun t => t = a.lease.tid) replayAccess).land a (n8Tok 1) else s

/-- XLINV (R365, R373): invalidates the range from L of R units of 64 KiB under the lease's own ASID, or under those that
k[IDX] names. -/
def execXlinv (f : FmtM) (s : State) : Host.Outcome State Fault Refusal :=
  fire (.xlinv f) always (errToBoth (.xlinv f)) (fun c s =>
    match scalarArg c.l .a57, scalarArg c.r .n32, s.ctx? c.lease.tid with
    | some base, some n, some own =>
      let k := (c.cfg.k f.idx.toNat).toNat
      let size := 65536 * n
      if base % 65536 ≠ 0 || k / 2 ^ 26 ≠ 0 || (n ≠ 0 && (base + size - 1) / 2 ^ 48 ≠ base / 2 ^ 48) then c.fail f.h cPerm s
      else if n = 0 then c.reply f.h (n8Tok 1) s
      else
        let other := k.testBit 25
        let vmid := if other then bitsOf k 16 8 else own.vmid
        let asid := if other then (if k.testBit 24 then none else some (k % 65536)) else some own.asid
        if (s.namedCtxs vmid asid).isEmpty then c.fail f.h cPerm s
        else
          let r := s.beginInval vmid asid base size false none
          c.fly (.xlinv r.1) r.2
    | _, _, _ => c.fail f.h cFormatTag s) s

/-- XLINV completes when its invalidation is acknowledged (R365). -/
def progressXlinv (a : Air) (id : Nat) (s : State) : State :=
  if a.free && !s.invals.any (fun v => v.id = id) then s.land a (n8Tok 1) else s

/-! ### Time and counters (R366) -/

/-- CLOCK (R101, R366): context time, or the lease's fabric cycle count. -/
def execClock (f : FmtM) (s : State) : Host.Outcome State Fault Refusal :=
  fire (.clock f) always (errToBoth (.clock f)) (fun c s =>
    c.reply f.h (n64Tok (if f.off = 0 then s.contextTime c.lease.tid else c.lease.cyc)) s) s

/-- PERFC (R100, R366): the tenant's count of an event on a die; event 3 is that of the issuing cluster. -/
def execPerfc (f : FmtM) (s : State) : Host.Outcome State Fault Refusal :=
  fire (.perfc f) always (errToBoth (.perfc f)) (fun c s =>
    let at_ := c.lease.at_ c.site.dx c.site.dy
    let die := if f.idx.toNat.testBit 2 then some (dieOf at_.1 at_.2)
      else (s.ctx? c.lease.tid).bind (fun k => k.die? (f.idx.toNat % 4))
    let ev := if f.off = 3 then nearEvent (clusterOf at_.1 at_.2) else f.off.toNat
    c.reply f.h (n64Tok (match die with
      | some d => s.counter c.lease.tid d ev
      | none => 0)) s) s

end Sys2Proof.Machine
end

