-- ==== Sys2Proof/Machine/Progress.lean ====
section
/-! DEFINITION. How an instruction in flight goes on (R126). -/

namespace Sys2Proof.Machine

open Sys2Proof

/-- FENCE is done: an acquire half drops what it must, the ports issue again, and it sends 1 (R183, R347). -/
def progressFence (a : Air) (acq : Bool) (scope : BitVec 3) (s : State) : State :=
  if !a.free then s
  else match s.portOf? a.site a.pe.kind with
    | none => s.land a (n8Tok 1)
    | some p => ((if acq then s.acquire p.party scope else s).fenceCount p.id p.party acq false).land a (n8Tok 1)

/-- The progress of an instruction in flight by what it waits for. -/
def progressOp (a : Air) (s : State) : State :=
  match a.fl.op with
  | .reply | .writes _ => s
  | .range op va todo left => progressRange a op va todo left s
  | .release waits next =>
    if !waits.all s.settled then s
    else match next with
      | .fence acq scope => if acq && !waits.all s.readNow then s else progressFence a acq scope s
      | .engine c => progressEngine a c s
      | .task m => progressTask a m s
      | .taskdep l i => progressTaskdep a l i s
      | .xlfence => progressXlfence a s
  | .ncinv loads => progressNcinv a loads s
  | .wswap => progressWswap a s
  | .spill tile next clear => progressSpill a tile next clear s
  | .fill tile ch next bad => progressFill a tile ch next bad s
  | .tfetch k _ => progressTfetch a k s
  | .mstream k ty keep => progressMstream a k ty keep s
  | .xlinv id => progressXlinv a id s
  | .landing t => progressLanding a t s

/-- The progress of the instruction in flight in a slot: nothing moves while the fabric is stopped or the lease is
halted. -/
def State.progressAt (s : State) (site : SiteRef) (slot : Nat) : State :=
  match s.air? site slot with
  | none => s
  | some a => if s.fabricStopped || a.lease.stopIssue || a.lease.parked.isSome then s else progressOp a s

end Sys2Proof.Machine
end

