-- ==== Sys2Proof/Machine/Pattern.lean ====
section
/-! DEFINITION. Address patterns: which may issue, the next element, EOI markers, store channels, HOLD, the completion
baton, and invocation boundaries (R83, R130 to R133, R154, R155, R180, R227, R261, R283, R383). -/

namespace Sys2Proof.Machine

open Sys2Proof

/-! ### Which invocation a part of a lease stands in -/

/-- The live counters of a pattern index of a port. -/
def Port.liveOf (p : Port) (k : Nat) : Live := (p.live[k]?).getD ⟨0, 0, 0, 0, true, 0, false⟩

/-- Change the live counters of a pattern index. -/
def State.modLive (s : State) (port k : Nat) (f : Live → Live) : State :=
  s.modPort port (fun p => { p with live := p.live.setIfInBounds k (f (p.liveOf k)) })

/-- The AG paired with the MU of a port. -/
def State.agOf (s : State) (p : Port) : Option (Lease × PE) :=
  match p.owner with
  | .engine _ _ _ => none
  | .mu site =>
    match s.lease? site.lease with
    | none => none
    | some L => match L.pe? (site.dx + 1) site.dy with
      | some ag => if ag.kind = .ag then some (L, ag) else none
      | none => none

/-- The enabled patterns of a port in the current plane: index, descriptor, whether an argument of 0 empties it, and its
live counters. -/
def State.patsOf (s : State) (p : Port) : List (Nat × BitVec 384 × Bool × Live) :=
  match s.agOf p with
  | none => []
  | some (L, ag) => (List.range 4).filterMap (fun k =>
      let d := (ag.cfg L.plane).pat k
      if patOn d.1 then some (k, d.1, d.2, p.liveOf k) else none)

/-- Whether a pattern feeds the lease's invocations by loads. -/
def patFeeds (d : BitVec 384) : Bool := patOn d && patInput d && patDir d = 0

/-- The INPUT load patterns of a lease, with the port of each. -/
def State.feeders (s : State) (lease : Nat) : List (Port × Nat × BitVec 384 × Live) :=
  (s.leasePorts lease).flatMap (fun p => (s.patsOf p).filterMap (fun x =>
    if patFeeds x.2.1 then some (p, x.1, x.2.1, x.2.2.2) else none))

/-- The first invocation whose EOI has left no input port (R83, R132, R283). -/
def State.nextEoi (s : State) (L : Lease) : Nat :=
  match s.feeders L.id with
  | [] => L.inv
  | l => maxN (l.map (fun x => x.2.2.2.eois))

/-- The first invocation of which no token has left any input port (R227). -/
def State.nextBegin (s : State) (L : Lease) : Nat :=
  match s.feeders L.id with
  | [] => L.inv
  | l => maxN (l.map (fun x => x.2.2.2.eois + b2n x.2.2.2.begun))

/-- Whether a PE has a connected input that brings EOI markers: neither loop-carried nor a pattern's own (R130, R261,
R323). -/
def Lease.takesEoi (L : Lease) (pe : PE) (i : Nat) : Bool :=
  let c := pe.cfg L.plane
  c.inConn i && !c.inLC i && !L.inIsPattern L.plane pe i

/-- Whether a PE runs EOI processing (R130). -/
def Lease.runsEoi (L : Lease) (pe : PE) : Bool := (List.range 8).any (L.takesEoi pe)

/-- The invocations that have ended at every sink: those below the least of the sites and store channels (R227). -/
def State.sinkInv (s : State) (L : Lease) : Nat :=
  let sites := (L.pes.filter L.runsEoi).map PE.inv
  let stores := (s.leasePorts L.id).flatMap (fun p => (s.patsOf p).filterMap (fun x =>
    if patDir x.2.1 = 1 then some x.2.2.2.eois else none))
  (minN? (sites ++ stores)).getD L.inv

/-- The invocations that the ended load patterns of a port have reached (R180). -/
def State.portEnds (s : State) (p : Port) : List Nat :=
  (s.patsOf p).filterMap (fun x =>
    if patInput x.2.1 && patDir x.2.1 = 0 && x.2.2.2.done then some x.2.2.2.eois else none)

/-- The invocation up to which a port has issued every request: that of its load and store patterns, and of its MU and AG
where they take EOIs (R180). -/
def State.portInv (s : State) (p : Port) : List Nat :=
  let pats := (s.patsOf p).filterMap (fun x =>
    if patDir x.2.1 = 1 || (patInput x.2.1 && patDir x.2.1 = 0 && !x.2.2.2.done) then some x.2.2.2.eois else none)
  let pes := match p.owner with
    | .mu site => match s.lease? site.lease with
      | some L => (L.pes.filter (fun q => q.dy = site.dy && (q.dx = site.dx || q.dx = site.dx + 1 && q.kind = PEKind.ag)
          && L.runsEoi q)).map PE.inv
      | none => []
    | .engine _ _ _ => []
  pats ++ pes

/-- The invocation that every port of a party has reached: the last one, where nothing but ended patterns remains. -/
def State.partyInv (s : State) (party : Nat) : Option Nat :=
  match minN? ((s.partyPorts party).flatMap s.portInv) with
  | some n => some n
  | none => match (s.partyPorts party).flatMap s.portEnds with
    | [] => none
    | l => some (maxN l)

/-- An invocation that ends at every sink ends the retry of an open region: its errors are contained again (R232). -/
def State.endRetry (s before : State) (lease : Nat) : State :=
  match before.lease? lease, s.lease? lease with
  | some a, some b =>
    if before.sinkInv a < s.sinkInv b then
      s.modLease lease (fun L => { L with region := L.region.map (fun r => { r with retried := false }) })
    else s
  | _, _ => s

/-- An invocation boundary ends the SFR of the parties of a lease that have passed it (R180). -/
def State.endInvocations (s before : State) (lease : Nat) : State :=
  (((before.leasePorts lease).map Port.party).dedup).foldl (fun (s : State) k =>
    match before.partyInv k, s.partyInv k with
    | some a, some b => if a < b then s.endSfr k else s
    | _, _ => s) (s.endRetry before lease)

/-! ### HOLD (R83, R84, R132, R155) -/

/-- The invocations behind whose EOI HOLD is set: that of a plane switch and that of an exchange zone. -/
def Lease.holdPoints (L : Lease) : List Nat :=
  (L.pend.map Prod.snd).toList ++ (match L.move with
    | some m => if m.step ≥ 1 then [m.zone] else []
    | none => [])

/-- Whether a restored port has still to fetch a slot of its own accord, before the lease's first invocation (R156). -/
def State.refetching (s : State) (p : Port) : Bool :=
  (List.range 8).any (fun k => decide ((p.fs k).st = .fetching)) && (match s.agOf p with
    | some (_, ag) => ag.inst.isNone
    | none => true)

/-- Set HOLD on each input port of a lease whose INPUT patterns have issued the EOI it waits for, and clear it where none
is waited for (R84, R132, R155); a restored lease holds them until its slots are fetched again (R156), and an unwind holds
every input port. -/
def State.setHolds (s : State) (lease : Nat) : State :=
  match s.lease? lease with
  | none => s
  | some L =>
    if L.unwind.isSome then s
    else { s with
      ports := updWhere (fun p => p.isIn && (match p.owner with
          | .mu site => site.lease = lease
          | .engine _ _ _ => false))
        (fun p => { p with hold := (s.leasePorts lease).any s.refetching || L.holdPoints.any (fun j => (s.patsOf p).all (fun x =>
          !patFeeds x.2.1 || x.2.2.2.eois > j || x.2.2.2.done)) }) s.ports }

/-- A restored port goes on with the fetch of a slot, and the last one releases HOLD (R91, R156). -/
def State.refetchStep (s : State) (site : SiteRef) (k : Nat) : State :=
  match s.portOf? site .ag with
  | none => s
  | some p => match s.agOf p with
    | none => s
    | some (L, ag) =>
      let x := p.fs k
      if s.fabricStopped || L.stopIssue || L.parked.isSome || ag.inst.isSome || x.st ≠ .fetching then s
      else if x.whole then (s.modFs p.id k (fun y => { y with st := .pinned, sent := 0 })).setHolds L.id
      else fetchNext (siteErr L.plane ag 0 127) ag.inv p k s

/-- What goes on at a site: the instruction in flight in a slot, or, by a number from 128 on, a fetch slot of a restored
port. -/
def State.goOn (s : State) (site : SiteRef) (n : Nat) : State :=
  if n < 128 then s.progressAt site n else s.refetchStep site (n - 128)

/-! ### The next element of a pattern (R155) -/

/-- A live counter. -/
def Live.ctr (l : Live) (q : Nat) : Nat :=
  match q with
  | 0 => l.i0
  | 1 => l.i1
  | 2 => l.i2
  | _ => l.i3

/-- How many loops end when the loop of counter q does: it and those above whose last pass it was. -/
def loopsEnd (d : BitVec 384) (l : Live) : Nat → Nat → Nat
  | 0, q => q
  | fuel + 1, q => if q < 4 && l.ctr q + 1 ≥ patCount d q then loopsEnd d l fuel (q + 1) else q

/-- Clear the counters below q and step counter q; the pattern ends with the highest at its count. -/
def Live.bumpFrom (l : Live) (q : Nat) : Live :=
  match q with
  | 0 => { l with i0 := l.i0 + 1 }
  | 1 => { l with i0 := 0, i1 := l.i1 + 1 }
  | 2 => { l with i0 := 0, i1 := 0, i2 := l.i2 + 1 }
  | 3 => { l with i0 := 0, i1 := 0, i2 := 0, i3 := l.i3 + 1 }
  | _ => { l with i0 := 0, i1 := 0, i2 := 0, i3 := l.i3 + 1, done := true }

/-- Whether the end of the lowest q loops emits an EOI: that of counter EOIL ends, or the pattern does (R155). -/
def emitsEoi (d : BitVec 384) (q : Nat) : Bool := if patEoil d < 3 then patEoil d < q else q = 4

/-- The counters after the element they stand at, and whether an EOI follows it. -/
def Live.next (d : BitVec 384) (l : Live) : Live × Bool :=
  let q := loopsEnd d l 4 0
  (l.bumpFrom q, emitsEoi d q)

/-- The lowest counter that stands at or past its count, after a plane switch (R383). -/
def Live.over (d : BitVec 384) (l : Live) : Option Nat := (List.range 4).find? (fun q => patCount d q ≤ l.ctr q)

/-- The counters after a loop that ends at once because its counter is past its count, and whether an EOI follows (R383). -/
def Live.skip (l : Live) (q : Nat) (d : BitVec 384) : Live × Bool :=
  (if q = 3 then { l with i0 := 0, i1 := 0, i2 := 0, done := true } else l.bumpFrom (q + 1),
    if patEoil d < 3 then patEoil d = q else q = 3)

/-- The address of the element that a pattern's counters stand at. -/
def Live.va (l : Live) (d : BitVec 384) : Nat := patVa d l.i0 l.i1 l.i2 l.i3

/-! ### What a pattern issues -/

/-- An EOI marker of an invocation (R129). -/
def eoiTok (n : Nat) : Token := ⟨.eoi, false, Ty.n64.tag, 0, (BitVec.ofNat 64 n).setWidth 512⟩

/-- A baton of a job with a sequence number (R129). -/
def batonTok (job no : Nat) : Token :=
  ⟨.cfg, false, Ty.n64.tag, 0, BitVec.ofNat 512 (1 * 2 ^ 56 + job % 16 * 2 ^ 52 + no % 2 ^ 32)⟩

/-- CFGOP of a CFG token. -/
def Token.cfgOp (t : Token) : Nat := bitsOf t.data.toNat 56 8

/-- Whether a token is a baton. -/
def Token.isBaton (t : Token) : Bool := t.kind = .cfg && t.cfgOp = 1

/-- Put a marker among the loads of a port, to be delivered in its place on an output channel of the MU (R155, R261). -/
def State.pushMarker (s : State) (p : Port) (ch inv : Nat) (t : Token) : State :=
  match p.owner with
  | .engine _ _ _ => s
  | .mu site =>
    let n := s.fresh
    let r := { p.request n.1 0 inv (.marker t) 0 0 0 false 0 (.chan site ch) with status := .done 0 none }
    n.2.modPort p.id (fun p => { p with queue := p.queue ++ [r] })

/-- The ERR word of an AG whose origin is slot 127 (R155, R374). -/
def patErr (L : Lease) (ag : PE) (cause inv : Nat) : Word := errWord cause ag.dx ag.dy L.plane 127 inv false

/-- Whether HOLD, a parked lease, RETIRE or a ninth invocation inside a region stops a load pattern (R155, R227, R283). -/
def State.loadStops (s : State) (L : Lease) (p : Port) (k : Nat) (d : BitVec 384) (l : Live) : Bool :=
  p.hold || (patInput d && !l.begun &&
    (L.holdPoints.any (fun j => l.eois > j) || (match L.retireAt with
      | some j => l.eois > j
      | none => false)
    || (match L.region with
      | some r => r.first ≤ l.eois && (match r.last with
          | some j => l.eois ≤ j
          | none => true)
        && (p.snaps.filter (fun x => x.pat = k && x.inv ≥ s.sinkInv L)).length ≥ 8
      | none => false)))

/-- Keep an INPUT or store pattern's counters as they stand at the start of an invocation: of its eight most recent ones that have
not ended at every sink, and of a REDO region's first (R227, R230, R383). They are kept whether or not a region is open, so that
one that opens finds them (assumption 18). -/
def State.snapshot (s : State) (L : Lease) (p : Port) (k : Nat) (l : Live) : State :=
  if l.begun then s
  else s.modPort p.id (fun p =>
    let first := fun (x : Snapshot) => L.region.any (fun r => r.redo && decide (x.inv = r.first))
    let old := p.snaps.filter (fun x => x.pat ≠ k || ((x.inv ≥ s.sinkInv L || first x) && x.inv ≠ l.eois))
    let mine := (old.filter (fun x => x.pat = k && !first x)).length
    let kept := if mine < 8 then old else old.eraseP (fun x => x.pat = k && !first x)
    { p with snaps := kept ++ [⟨k, l.eois, l⟩] })

/-- The head of the input channel that supplies a store pattern. -/
def State.storeHead (s : State) (p : Port) (ch : Nat) : Option Token :=
  match p.owner with
  | .mu site => (s.pe? site).bind (fun pe => pe.head ch)
  | .engine _ _ _ => none

/-- Whether a baton is the lease's completion baton. -/
def Lease.isCompletion (L : Lease) (t : Token) : Bool :=
  L.baton = some 0 && t.low.toNat % 2 ^ 32 = L.batonNo % 2 ^ 32

/-- Whether a pattern has something to issue or take now, tokens and retire-queue entries apart. A store pattern takes the completion
baton once it has consumed its last element: one that waits for more leaves it in the channel (R155, R261, R367, R383,
assumption 72). -/
def State.patWants (s : State) (p : Port) (k : Nat) (d : BitVec 384) (zero : Bool) (l : Live) : Bool :=
  match s.agOf p with
  | none => false
  | some (L, _) =>
    if patDir d = 0 then
      !l.done && !s.loadStops L p k d l && (!zero || patInput d)
    else if patDir d = 1 then
      match s.storeHead p (patChan d) with
      | some t => if t.seen then !l.done && !zero else !(t.isBaton && L.isCompletion t) || l.done || zero
      | none => false
    else false

/-- The request that a pattern would issue next, if it issues one. -/
def State.patReq (s : State) (p : Port) (d : BitVec 384) (zero : Bool) (l : Live) : Option (ReqOp × Nat) :=
  let size := 2 ^ patEsize d
  if zero || (l.over d).isSome || l.va d % size ≠ 0 then none
  else if patDir d = 0 then some (.load false, l.va d)
  else match s.storeHead p (patChan d) with
    | some t => if t.seen then some (.store, l.va d) else none
    | none => none

/-- Whether a pattern can issue in this cycle (R155). -/
def State.patCan (s : State) (p : Port) (k : Nat) (d : BitVec 384) (zero : Bool) (l : Live) : Bool :=
  s.patWants p k d zero l && (match s.patReq p d zero l with
    | some (op, va) => s.mayIssue p op va
    | none => p.bound && !p.frozen && !s.halted p)

/-- Move a pattern on, with the EOI that follows (R155). -/
def State.patStep (s : State) (p : Port) (k : Nat) (d : BitVec 384) (l : Live) (x : Live × Bool) : State :=
  let eoi := x.2 && patInput d && patDir d = 0
  let s1 := s.modLive p.id k (fun _ => { x.1 with eois := if eoi then l.eois + 1 else l.eois, begun := !eoi })
  if eoi then s1.pushMarker p (patChan d) l.eois (eoiTok l.eois) else s1

/-- The request of a pattern's element (R155). -/
def patRequest (p : Port) (id : Nat) (L : Lease) (ag : PE) (inv : Nat) (op : ReqOp) (va : Nat) (d : BitVec 384) (data : Line)
    (dest : Dest) : Req :=
  { p.request id (patErr L ag 0 inv) inv op va (2 ^ patEsize d) 0 (patEsize d ≥ 4) data dest with ofPat := true }

/-- Why an element of a pattern issues nothing: its address adders failed their check, or it is misaligned (R155, R222). -/
def patFault (d : BitVec 384) (l : Live) (bad : Bool) : Option Nat :=
  if bad then some cPipeCheck else if l.va d % 2 ^ patEsize d ≠ 0 then some cPerm else none

/-- A load pattern's turn, its address adders failing their check or not (R155, R222, R383). -/
def State.patLoad (s : State) (L : Lease) (ag : PE) (p : Port) (k : Nat) (d : BitVec 384) (zero : Bool) (l : Live)
    (bad : Bool := false) : State :=
  let s0 := if patInput d then s.snapshot L p k l else s
  if zero then s0.patStep p k d l ({ l with done := true }, true)
  else match l.over d with
    | some q => s0.patStep p k d l (l.skip q d)
    | none =>
      let next := Live.next d l
      match patFault d l bad, p.owner with
        | some c, _ => (s0.pushMarker p (patChan d) l.eois (Token.ofErr (patErr L ag c l.eois) false)).patStep p k d l next
        | none, .engine _ _ _ => s
        | none, .mu site =>
          let n := s0.fresh
          (n.2.issue p.id (patRequest p n.1 L ag l.eois (.load false) (l.va d) d 0
            (.chan site (patChan d)))).patStep p k d l next

/-- Take the head of the input channel that supplies a store pattern. -/
def State.takeStore (s : State) (p : Port) (ch : Nat) : State :=
  match p.owner with
  | .engine _ _ _ => s
  | .mu site => match s.lease? site.lease with
    | some L => s.modPE site (fun pe => pe.popIn L.plane ch)
    | none => s

/-- A store pattern's turn: it takes EOI markers and batons at any time, and a DATA or ERR token for its next element; an
ERR poisons the line, and a misaligned element stores nothing; a loop whose counter is past its count ends and takes no token
(R131, R155, R222, R225, R261, R383). -/
def State.patStore (s : State) (L : Lease) (ag : PE) (p : Port) (k : Nat) (d : BitVec 384) (l : Live) (t : Token)
    (bad : Bool := false) : State :=
  let s1 := s.takeStore p (patChan d)
  if t.kind = .eoi then s1.modLive p.id k (fun l => { l with eois := t.low.toNat + 1, begun := false })
  else if !t.seen then s1
  else match l.over d with
  | some q => s.modLive p.id k (fun l => (l.skip q d).1)
  | none =>
    let s2 := (s1.snapshot L p k l).modLive p.id k (fun l => { (Live.next d l).1 with begun := true })
    match patFault d l bad with
    | some c => s2.raiseErr L.id (if t.kind = .err then t.low else patErr L ag c l.eois)
    | none =>
      let s3 := if t.kind = .err then s2.raiseErr L.id t.low else s2
      let n := s3.fresh
      n.2.issue p.id { patRequest p n.1 L ag l.eois .store (l.va d) d t.data .none with
        poison := if t.kind = .err then some t.low else none }

/-! ### The completion baton (R133) -/

/-- Whether an INPUT pattern issues nothing further: it has ended, or RETIRE has ended it (R155, R283). -/
def Lease.patEnded (L : Lease) (d : BitVec 384) (zero : Bool) (l : Live) : Bool :=
  !(patOn d && patInput d && patDir d < 2) || (l.done || (zero && patDir d = 1)) || (match L.retireAt with
    | some j => !l.begun && decide (l.eois > j)
    | none => false)

/-- Inject a fabric baton of a job: behind what every INPUT pattern has issued, and at once at each site with no input
(R133). -/
def State.injectBatons (s : State) (lease job : Nat) : State :=
  match s.lease? lease with
  | none => s
  | some L =>
    let no := L.batonNo + 1
    let s1 := s.modLease lease (fun L => { L with
      baton := some job, batonNo := no, pes := L.pes.map (fun p => { p with batonDone := false }) })
    (s.leasePorts lease).foldl (fun (s : State) p =>
      (((s.patsOf p).filter (fun x => patFeeds x.2.1)).map (fun x => patChan x.2.1)).dedup.foldl (fun (s : State) ch =>
        s.pushMarker p ch 0 (batonTok job no)) s) s1

/-- Inject the completion baton once every INPUT pattern of a lease has issued its last EOI; a relocation that would take
that boundary is cancelled (R86, R133, R368). -/
def State.completeInputs (s : State) (lease : Nat) : State :=
  match s.lease? lease with
  | none => s
  | some L =>
    let ps := s.leasePorts lease
    let ended := ps.all (fun p => (s.patsOf p).all (fun x => L.patEnded x.2.1 x.2.2.1 x.2.2.2))
    let switches := match L.pend, L.retireAt with
      | some (_, j), some r => decide (j < r)
      | some _, none => true
      | none, _ => false
    if ended && L.baton ≠ some 0 && L.unwind.isNone && !switches then ((s.cancelMove lease).setHolds lease).injectBatons lease 0 else s

/-! ### Standing checkpoints (R108) -/

/-- The task that a lease entry for an image VA covers: the earliest-admitted RUNNING one of the context; one that is MOVING keeps
its sites and is still covered (R108, assumption 24). -/
def State.coveredTask (s : State) (tid va : Nat) : Option Task :=
  s.tasks.find? (fun k => k.ctx = tid && k.image = va && k.cmd.isNone && (k.st = .running || k.st = .moving))

/-- The lease entries of the must-save set in force that cover a lease (R106, R108). -/
def State.mustEntries (s : State) (L : Lease) : List (Nat × Nat × Nat × Nat × Nat) :=
  match s.ctx? L.tid with
  | none => []
  | some c => ((c.must.map MustSave.entries).getD []).filter (fun e =>
      e.1 = 2 && (s.coveredTask L.tid e.2.2.1).any (fun k => k.die = L.die && k.idx = L.entry))

/-- Whether the boundary after an invocation is an INTERVAL-th exchange zone of an image (R108, R250). -/
def zoneDue (image : Image) (interval j : Nat) : Bool :=
  match imageCut image with
  | some (first, every) => imageZone image j && ((j - first) / every + 1) % interval = 0
  | none => false

/-- The slot pairs of the lease entries for which a lease takes a standing checkpoint after an invocation: the VA of the two slots and
the size of one (R106, R108). -/
def State.slotsDue (s : State) (L : Lease) (j : Nat) : List (Nat × Nat) :=
  (((s.mustEntries L).filter (fun e => zoneDue L.image e.2.2.2.1 j)).map (fun e => (e.2.2.2.2, 65536 * 2 ^ e.2.1))).dedup

/-- A standing checkpoint is due at the next invocation boundary: its zone is fixed, and its task is MOVING (R72, R108). -/
def State.standingDue (s : State) (L : Lease) : State :=
  let j := s.nextEoi L
  match (s.slotsDue L j).head? with
  | none => s
  | some e =>
    if L.move.isNone && L.unwind.isNone && L.baton.isNone then
      (s.modLease L.id (fun L => { L with
        move := some ⟨.standing e.1 e.2, 1, j, s.fabric, none⟩ })).modTask L.die L.entry (fun t => { t with st := .moving })
    else s

/-- The next element of the first pattern of an AG, counted from the one after the pattern that issued last, that can issue; `bad`
where the AG's address adders fail their check (R155, R222). -/
def patternIssue (s : State) (bad : Bool := false) : Host.Outcome State Fault Refusal :=
  match s.portOf? s.focus.site .ag with
  | none => .next s
  | some p =>
    match s.agOf p with
    | none => .next s
    | some (L, ag) =>
      let order := (List.range 4).map (fun i => (p.lastPat + 1 + i) % 4)
      let pick := order.findSome? (fun k => (s.patsOf p).find? (fun x => x.1 = k && s.patCan p k x.2.1 x.2.2.1 x.2.2.2))
      if s.fabricStopped then .next s
      else match pick with
        | none => .next (s.completeInputs L.id)
        | some (k, d, zero, l) =>
          let s0 := s.modPort p.id (fun p => { p with lastPat := k })
          let s1 := if patDir d = 0 then s0.patLoad L ag p k d zero l bad
            else match s.storeHead p (patChan d) with
              | some t => s0.patStore L ag p k d l t bad
              | none => s0
          .next ((((s1.endInvocations s L.id).setHolds L.id).completeInputs L.id).progress L.id)

/-- PATTERN_ISSUE (R108, R155): an AG's next element, with the zone of a standing checkpoint fixed first. -/
def execPatternIssue (s : State) : Host.Outcome State Fault Refusal :=
  match (s.portOf? s.focus.site .ag).bind s.agOf with
  | none => .next s
  | some (L, _) => patternIssue (if s.fabricStopped then s else s.standingDue L)

/-- The address adders of an AG fail their check on the next element of its patterns, which becomes ERR PIPE_CHECK (R155, R222,
R223). -/
def State.breakAddress (s : State) (site : SiteRef) : Host.Outcome State Fault Refusal :=
  match (s.portOf? site .ag).bind s.agOf with
  | none => .next s
  | some (L, _) => patternIssue (if s.fabricStopped then s
      else { (s.standingDue L).pipeAt L site.dx site.dy with focus := { s.focus with site := site } }) true

end Sys2Proof.Machine
end

