-- ==== Sys2Proof/Machine/Clock.lean ====
section
/-! DEFINITION. The passing of time (R22, R90, R92, R140, R366). -/

namespace Sys2Proof.Machine

open Sys2Proof

/-- Whether an instruction word sends requests through a port: the opcodes of loads, stores, atomics, reductions,
FLUSHR, DISCARD and MIGR (R333, R257). -/
def portWord (w : IWord) : Bool :=
  let op := (w.extractLsb' 48 8).toNat
  (0xC0 ≤ op && op ≤ 0xC4) || op = 0xC7 || (0xCD ≤ op && op ≤ 0xDA) || op = 0xDD || op = 0xDE || op = 0xF2

/-! ### Time (R22, R140) -/

/-- Whether some channel of a lease holds a token (R140). -/
def Lease.holdsToken (L : Lease) : Bool :=
  L.pes.any (fun p => p.ins.toList.any (fun e => !e.q.isEmpty) || p.outs.toList.any (fun e => !e.q.isEmpty))

/-- Whether the stall watchdog of a lease does not count (R140). -/
def State.stallHeld (s : State) (L : Lease) : Bool :=
  let ps := s.leasePorts L.id
  ps.any (fun p => p.hold || p.frozen
    || p.queue.any (fun r => match r.status with
        | .held _ true => true
        | _ => false)
    || p.sideLog.any (fun e => match e.req.status with
        | .held _ true => true
        | _ => false)) || L.parked.isSome || L.stalled

/-- Whether a word is an LDS that reads memory (R340). -/
def ldsReads (w : IWord) : Bool :=
  match decodeWord w with
  | .ok (.lds f) => FmtM.memBit f
  | _ => false

/-- Whether a fetch slot has a line to send for: one of a tile fetch, or one that an MSTREAM has still to read (R156, R330, R331). -/
def Port.fetchWants (p : Port) (k : Nat) (stream : Bool) : Bool :=
  let x := p.fs k
  match x.st with
  | .fetching => decide (x.sent < x.lines.length)
  | .pinned => stream && decide (x.read.length + (p.queue.filter (fun r => r.dest = .fetch k)).length < x.lines.length)
  | _ => false

/-- Whether the running instance of a PE has a request to send: a slot that holds its operands and whose instruction uses
the port, a range of lines still to issue, or lines still to fetch (R92, R126). -/
def PE.wantsPort (pe : PE) (p : Port) (plane : Nat) : Bool :=
  let c := pe.cfg plane
  match pe.inst with
  | none => false
  | some i =>
    (hSlots ((c.handlers[i.entry]?).getD 0)).any (fun k =>
      let w := (c.store[k]?).getD 0
      !i.fired.contains k && (portWord w || ldsReads w) && (match decodeWord w with
        | .ok ins => (!ins.uses.l || (i.operand 0 k).isSome) && (!ins.uses.r || (i.operand 1 k).isSome)
            && (!ins.uses.p || (i.operand 2 k).isSome)
        | .error _ => false))
    || i.flight.any (fun fl => match fl.op with
      | .range _ _ todo _ => decide (todo ≠ 0)
      | .tfetch fs _ => p.fetchWants fs false
      | .mstream fs _ _ => p.fetchWants fs true
      | _ => false)

/-- Whether a port has a request that waits at injection for want of tokens: one let go after a refusal, the head of its side log that
waited for others only, an engine's next line, one of the running instances of its MU and AG, or a pattern's (R91, R92, R158). -/
def State.waitsInjection (s : State) (p : Port) : Bool :=
  p.bound && !p.frozen && !s.halted p && p.bucket = 0 &&
  (p.queue.any (fun r => r.status = .cleared) || p.sideLog.any (fun e => e.req.status = .cleared) ||
   (!s.portMoves p && p.sideLog.head?.any (fun e => e.req.status = .held 0 false)) ||
   (match p.owner with
    | .engine _ _ _ =>
      (match s.engineAt p.id with
      | some e => (match s.cmd? e.cur.cmd with
        | some c => !e.todo.isEmpty || (s.nextRead c e p).isSome
        | none => false)
      | none => false)
    | .mu site =>
      (match s.lease? site.lease with
      | none => false
      | some L =>
        (s.patsOf p).any (fun x => s.patWants p x.1 x.2.1 x.2.2.1 x.2.2.2)
        || L.pes.any (fun q => q.dy = site.dy && (q.dx = site.dx || (q.dx = site.dx + 1 && q.kind = PEKind.ag))
          && q.wantsPort p L.plane)
        || (List.range 8).any (fun k => p.fetchWants k false))))

/-- Count a lease's fabric cycles, and those of a stall (R140, R366). -/
def State.leaseClock (s : State) (n : Nat) (L : Lease) : Lease :=
  let stalls := L.holdsToken && !s.stallHeld L
  { L with cyc := L.cyc + n, stall := if stalls then L.stall + n else L.stall }

/-- Count the cycles in which some port of a tenant waits at injection on a die (event 7 of R366). -/
def State.countWaits (s : State) (n : Nat) : State :=
  let ws := ((s.ports.filter s.waitsInjection).map (fun p => (p.ctx, p.die))).dedup
  ws.foldl (fun (s : State) k => s.count k.1 k.2 7 n) s

/-- The fabric cycles that pass out of a number: none of a live die after cycle F of a photo finish (R116). -/
def State.cyclesOf (s : State) (n : Nat) : Nat :=
  match s.freeze with
  | some z => min n (z.f - s.fabric)
  | none => n

/-- Time passes: as long as `n` fabric cycles take, while the package has power; device time has three ticks of State.time to the
nanosecond, as many as the fabric has cycles. At the end of cycle F of a photo finish the clocks of the dies stop (R6, R22,
R109, R116). -/
def State.pass (s : State) (n : Nat) : State :=
  if s.power = .off then s
  else
    let s1 : State := { s with time := s.time + n }
    if s.fabricStopped then s1
    else
      let k := s.cyclesOf n
      let stop := s.freeze.any (fun z => decide (z.f ≤ s.fabric + n))
      let s2 : State := { s1 with fabric := s1.fabric + k, leases := s1.leases.map (s1.leaseClock k) }
      { s2.countWaits k with fabricStopped := stop, uncoreStopped := s.uncoreStopped || stop }

end Sys2Proof.Machine
end

