-- ==== Sys2Proof/Machine/Fabric.lean ====
section
/-! DEFINITION. The fabric: tokens and credits, handler selection and quiescence, EOI processing, batons, plane
switches, control-network messages, unit operations and the stall watchdog (R119, R123 to R134, R137, R140, R147, R283,
R326, R332, R358). -/

namespace Sys2Proof.Machine

open Sys2Proof

/-! ### Channels (R29 to R31, R119, R129) -/

/-- An ERR of a site whose origin is no instruction (R224). -/
def Lease.siteErr (L : Lease) (pe : PE) (cause : Nat) (vec : Bool) : Token :=
  Token.ofErr (errWord cause pe.dx pe.dy L.plane 127 pe.inv false) vec

/-- Whether the data of a CFG token is what a unit of a kind accepts: a baton, or a unit operation of its own with no
other bit set (R129, R147). -/
def cfgOk (kind : PEKind) (t : Token) : Bool :=
  let d := t.low.toNat
  let op := t.cfgOp
  op = 1
  || (op = 2 && kind = .cu && d % 2 ^ 56 = bitsOf d 0 32 + bitsOf d 40 7 * 2 ^ 40 + bitsOf d 48 2 * 2 ^ 48 + bitsOf d 52 1 * 2 ^ 52)
  || (op = 3 && kind = .cu && d % 2 ^ 56 = bitsOf d 0 32)

/-- Whether every seam that a channel's route crosses carries traffic (R30, R33, R35). -/
def State.channelUp (s : State) (L : Lease) (dx dy out : Nat) : Bool :=
  let dies := (L.channelPath L.plane dx dy out).map (fun c => L.dieAt c.1 c.2)
  (dies.zip dies.tail).all (fun x => x.1 = x.2 || s.seamUp x.1 x.2)

/-- Put a token at the consumer end of a channel; one that reaches the head makes its declined entries runnable again (R124,
R129). -/
def PE.arrive (pe : PE) (plane i : Nat) (t : Token) : PE :=
  let e := pe.inEnd i
  let c := pe.cfg plane
  { pe with
    ins := pe.ins.setIfInBounds i { e with q := e.q ++ [t] }
    declined := if e.q.isEmpty then
        pe.declined.filter (fun h => !(hChmask ((c.handlers[h]?).getD 0)).testBit i) else pe.declined }

/-- TOKEN_ARRIVAL (R119, R129): the head of an output's queue moves to the consumer end, where a slot is free. A token that
meets another firewall is discarded, and its sender's ERR PIPE_CHECK goes in its place; one whose parity fails, and a CFG token
that the PE does not take, becomes the consumer's ERR PIPE_CHECK. -/
def execTokenArrival (bad : Bool) (s : State) : Host.Outcome State Fault Refusal :=
  let f := s.focus
  match s.lease? f.site.lease with
  | none => .next s
  | some L =>
    match L.pe? f.site.dx f.site.dy, L.consumer L.plane f.site.dx f.site.dy f.ch with
    | some pe, some (x, y, i) =>
      (match (pe.outEnd f.ch).q, L.pe? x y with
      | t :: rest, some to_ =>
        if s.fabricStopped || (pe.outEnd f.ch).credits = 0 || !s.channelUp L pe.dx pe.dy f.ch then .next s
        else
          let wall := L.walled L.plane pe.dx pe.dy f.ch
          let fails := wall || bad || (t.kind = .cfg && !cfgOk to_.kind t)
          let t' := if wall then L.siteErr pe cPipeCheck t.vec else if fails then L.siteErr to_ cPipeCheck t.vec else t
          let s1 := s.modPE f.site (fun pe =>
            { pe with outs := pe.outs.setIfInBounds f.ch ⟨rest, (pe.outEnd f.ch).credits - 1⟩ })
          let s2 := (s1.modPE ⟨f.site.lease, x, y⟩ (fun q => q.arrive L.plane i t')).progress L.id
          .next (if wall then s2.pipeAt L pe.dx pe.dy else if fails then s2.pipeAt L x y else s2)
      | _, _ => .next s)
    | _, _ => .next s

/-- CREDIT_RETURN (R35, R129): the credit of a freed slot reaches the producer end, over seams that carry traffic. -/
def execCreditReturn (s : State) : Host.Outcome State Fault Refusal :=
  let f := s.focus
  match s.lease? f.site.lease with
  | none => .next s
  | some L =>
    match L.consumer L.plane f.site.dx f.site.dy f.ch with
    | some (x, y, i) =>
      (match L.pe? x y with
      | some to_ =>
        if s.fabricStopped || (to_.inEnd i).freed = 0 || !s.channelUp L f.site.dx f.site.dy f.ch then .next s
        else
          let s1 := s.modPE ⟨f.site.lease, x, y⟩ (fun q =>
            { q with ins := q.ins.setIfInBounds i { q.inEnd i with freed := (q.inEnd i).freed - 1 } })
          .next (s1.modPE f.site (fun pe =>
            { pe with outs := pe.outs.setIfInBounds f.ch { pe.outEnd f.ch with credits := (pe.outEnd f.ch).credits + 1 } }))
      | none => .next s)
    | none => .next s

/-! ### Handlers (R123 to R126) -/

/-- VALID of a handler entry. -/
def hValid (h : BitVec 32) : Bool := h.toNat.testBit 31
/-- MASK of a handler entry. -/
def hMask (h : BitVec 32) : Bool := h.toNat.testBit 30
/-- PRIO of a handler entry. -/
def hPrio (h : BitVec 32) : Nat := bitsOf h.toNat 28 2
/-- TKIND of a handler entry: 0 ALL, 1 ANY, 2 EOI, 3 ERR. -/
def hKind (h : BitVec 32) : Nat := bitsOf h.toNat 26 2

/-- The token that a trigger sees at an input: not a pattern channel's, nor a row feed's (R124, R261, R323). -/
def Lease.trigger? (L : Lease) (pe : PE) (i : Nat) : Option Token :=
  if L.inIsPattern L.plane pe i || isFeed pe L.plane (L.sysLeft L.plane pe) i then none
  else (pe.head i).filter Token.seen

/-- Whether an entry of kind ERR is runnable. -/
def Lease.errRunnable (L : Lease) (pe : PE) (k : Nat) : Bool :=
  let h := ((pe.cfg L.plane).handlers[k]?).getD 0
  hValid h && !hMask h && hKind h = 3 && !pe.declined.contains k
    && (List.range 8).any (fun i => (hChmask h).testBit i && (match L.trigger? pe i with
      | some t => t.kind = .err
      | none => false))

/-- Whether a handler entry is runnable (R124). -/
def Lease.runnable (L : Lease) (pe : PE) (k : Nat) : Bool :=
  let c := pe.cfg L.plane
  let h := (c.handlers[k]?).getD 0
  let chans := (List.range 8).filter (fun i => (hChmask h).testBit i)
  if !hValid h || hMask h || pe.declined.contains k || pe.eoiRan then false
  else
    let taken := (List.range 16).any (fun e => L.errRunnable pe e &&
      chans.any (fun i => (hChmask ((c.handlers[e]?).getD 0)).testBit i && (match L.trigger? pe i with
        | some t => t.kind = .err
        | none => false)))
    match hKind h with
    | 0 => !taken && !chans.isEmpty && chans.all (fun i => (L.trigger? pe i).isSome)
    | 1 => !taken && chans.any (fun i => (L.trigger? pe i).isSome)
    | 2 => false
    | _ => L.errRunnable pe k

/-- Whether any entry of a PE is runnable. -/
def Lease.anyRunnable (L : Lease) (pe : PE) : Bool := (List.range 16).any (L.runnable pe)

/-- The entry that a PE selects: of the highest priority, the first after the one last selected at it (R125). -/
def Lease.select (L : Lease) (pe : PE) : Option (Nat × Nat) :=
  let c := pe.cfg L.plane
  [3, 2, 1, 0].findSome? (fun pr =>
    let after := (pe.rr[pr]?).getD 15
    (((List.range 16).map (fun i => (after + 1 + i) % 16)).find? (fun k =>
      hPrio ((c.handlers[k]?).getD 0) = pr && L.runnable pe k)).map (fun k => (pr, k)))

/-- An instance of an entry, with nothing fired. -/
def Instance.start (entry : Nat) (eoi : Bool) : Instance := ⟨entry, eoi, [], [], [], false⟩

/-- Whether a lease's sites may begin something: the fabric runs and the lease is not halted. -/
def State.leaseRuns (s : State) (L : Lease) : Bool := !s.fabricStopped && !L.stopIssue && L.parked.isNone

/-- HANDLER_SELECT (R125): with no instance running, a PE selects the highest-priority runnable entry. -/
def execHandlerSelect (s : State) : Host.Outcome State Fault Refusal :=
  match s.lease? s.focus.site.lease with
  | none => .next s
  | some L =>
    match L.pe? s.focus.site.dx s.focus.site.dy with
    | none => .next s
    | some pe =>
      if pe.inst.isSome || !s.leaseRuns L then .next s
      else match L.select pe with
        | none => .next s
        | some (pr, k) => .next (s.modPE s.focus.site (fun pe => { pe with
            inst := some (Instance.start k false), rr := pe.rr.setIfInBounds pr k }))

/-- Whether an unfired slot of a running instance is ready or waiting: it holds an operand in every position it uses; a RECV
or PEEK that lacks only a token is not waiting (R126). -/
def Site.pendingSlot (c : Site) : Bool :=
  match decodeWord ((c.cfg.store[c.slot]?).getD 0) with
  | .error _ => false
  | .ok i =>
    match i with
    | .merge _ => (c.l.isSome || c.r.isSome) && (!i.uses.p || c.p.isSome)
    | .recv f => c.present (c.taken i.uses) && (c.eoiInput (FmtD.ch f) || (c.tokenAt (FmtD.ch f) && c.recvTurn (FmtD.ch f)))
    | .peek f => c.present (c.taken i.uses) && (c.eoiInput (FmtD.ch f) || c.tokenAt (FmtD.ch f))
    | _ => c.present (c.taken i.uses)

/-- Whether a running instance has come to quiescence (R126). -/
def Lease.quiescent (L : Lease) (site : SiteRef) (pe : PE) (i : Instance) : Bool :=
  let c := pe.cfg L.plane
  i.flight.isEmpty && (hSlots ((c.handlers[i.entry]?).getD 0)).all (fun k => i.fired.contains k ||
    !Site.pendingSlot ⟨site, k, L, pe, c, i, i.operand 0 k, i.operand 1 k, i.operand 2 k⟩)

/-- HANDLER_QUIESCENCE (R124, R126, R273): the instance ends; operands still held are discarded, and an ERR among them
raises its trap; an entry that took no token waits for a new one. -/
def execHandlerQuiescence (s : State) : Host.Outcome State Fault Refusal :=
  match s.lease? s.focus.site.lease with
  | none => .next s
  | some L =>
    match L.pe? s.focus.site.dx s.focus.site.dy with
    | none => .next s
    | some pe =>
      match pe.inst with
      | none => .next s
      | some i =>
        if !s.leaseRuns L || !L.quiescent s.focus.site pe i then .next s
        else
          let s1 := s.modPE s.focus.site (fun pe => { pe with
            inst := none
            declined := if i.eoi || i.took then pe.declined else i.entry :: pe.declined })
          .next ((i.ops.filter (fun o => o.2.kind = .err)).foldl (fun (s : State) o => s.raiseErr L.id o.2.low) s1)

/-! ### EOI processing (R130, R332) -/

/-- The outputs on which a PE sends EOI markers and batons: its connected ones that their consumers do not mark
loop-carried and no pattern feeds, and for an AG the channels of its tile patterns (R130, R134, R261, R332). -/
def Lease.markOuts (L : Lease) (site : SiteRef) (pe : PE) : List (SiteRef × Nat) :=
  let c := pe.cfg L.plane
  let own := ((List.range 8).filter (fun o => c.outConn o && !L.outIsLC L.plane pe.dx pe.dy o && !L.outIsPattern L.plane pe o)).map
    (fun o => (site, o))
  let tiles := if pe.kind = .ag && 0 < pe.dx then
      ((c.pats.toList.filter (fun d => patOn d && patDir d = 2)).map patChan).dedup.filterMap (fun ch =>
        if L.outIsLC L.plane (pe.dx - 1) pe.dy ch then none else some (⟨site.lease, pe.dx - 1, pe.dy⟩, ch))
    else []
  own ++ tiles

/-- Every connected output of a PE, that no pattern feeds, with an AG's tile channels (R130). -/
def Lease.allOuts (L : Lease) (site : SiteRef) (pe : PE) : List (SiteRef × Nat) :=
  (((List.range 8).filter (fun o => (pe.cfg L.plane).outConn o && !L.outIsPattern L.plane pe o)).map (fun o => (site, o))
    ++ L.markOuts site pe).dedup

/-- Whether each of some outputs has a number of free slots. -/
def State.outsFree (s : State) (L : Lease) (n : Nat) (l : List (SiteRef × Nat)) : Bool :=
  l.all (fun x => match s.pe? x.1 with
    | some pe => pe.outFree L.plane x.2 ≥ n
    | none => true)

/-- Push a token on each of some outputs, as a marker or, if it is ERR, as a token. -/
def State.pushAll (s : State) (L : Lease) (t : Token) (l : List (SiteRef × Nat)) : State :=
  l.foldl (fun (s : State) x => s.modPE x.1 (fun pe =>
    if t.seen then pe.pushOut L.plane x.2 t else pe.pushMark L.plane x.2 t)) s

/-- The inputs of a PE that bring EOI markers and batons. -/
def Lease.markIns (L : Lease) (pe : PE) : List Nat := (List.range 8).filter (L.takesEoi pe)

/-- Whether the loop-carried inputs of a PE are empty and its loop occupancy is zero (R130, R134). -/
def PE.loopsEmpty (pe : PE) (plane : Nat) : Bool :=
  pe.loopOcc = 0 && (List.range 8).all (fun i => !(pe.cfg plane).inLC i || (pe.inEnd i).q.isEmpty)

/-- Whether the loop-carried channels that reach a PE are empty at both their ends, and its loop occupancy is zero. -/
def Lease.loopsEmpty (L : Lease) (pe : PE) : Bool :=
  pe.loopsEmpty L.plane && L.pes.all (fun q => (List.range 8).all (fun o => (q.outEnd o).q.isEmpty
    || (match L.consumer L.plane q.dx q.dy o with
      | some (x, y, i) => !(x = pe.dx && y = pe.dy && (pe.cfg L.plane).inLC i)
      | none => true)))

/-- The EOI markers at the heads of a PE's inputs, when EOI processing may begin, or goes on after the EOI handler has run
(R130). -/
def Lease.eoiHeads (L : Lease) (pe : PE) : Option (List Nat) :=
  let ins := L.markIns pe
  let hs := ins.filterMap (fun i => (pe.head i).filter (fun t => t.kind = .eoi))
  if ins.isEmpty || hs.length ≠ ins.length || (!pe.eoiRan && !L.loopsEmpty pe) then none else some (hs.map (fun t => t.low.toNat))

/-- The EOI entry of a PE, if it is valid and unmasked. -/
def PE.eoiEntry (pe : PE) (plane : Nat) : Option Nat :=
  (List.range 16).find? (fun k =>
    let h := ((pe.cfg plane).handlers[k]?).getD 0
    hValid h && !hMask h && hKind h = 2)

/-- EOI_PROCESSING (R130): the EOI handler runs first; then the markers are popped, EOI goes out on every output that is not
loop-carried, and the invocation number rises. Where the markers disagree, ERR PIPE_CHECK goes out on every output first. -/
def execEoiProcessing (s : State) : Host.Outcome State Fault Refusal :=
  let site := s.focus.site
  match s.lease? site.lease with
  | none => .next s
  | some L =>
    match L.pe? site.dx site.dy with
    | none => .next s
    | some pe =>
      match L.eoiHeads pe with
      | none => .next s
      | some ns =>
        if pe.inst.isSome || !s.leaseRuns L then .next s
        else
          match pe.eoiRan, pe.eoiEntry L.plane with
          | false, some k => .next (s.modPE site (fun pe => { pe with
              inst := some (Instance.start k true), eoiRan := true }))
          | _, _ =>
            let n := ns.headD pe.inv
            let bad := ns.any (fun x => x ≠ n)
            let outs := L.markOuts site pe
            if !s.outsFree L (if bad then 2 else 1) outs || (bad && !s.outsFree L 1 (L.allOuts site pe)) then .next s
            else
              let s1 := s.modPE site (fun pe => (L.markIns pe).foldl (fun (q : PE) i => q.popIn L.plane i) pe)
              let s2 := if bad then (s1.pushAll L (L.siteErr pe cPipeCheck false) (L.allOuts site pe)).pipeAt L site.dx site.dy else s1
              let s3 := (s2.pushAll L (eoiTok n) outs).modPE site (fun pe => { pe with inv := pe.inv + 1, eoiRan := false })
              let s4 := s3.modLease L.id (fun M => { M with
                inv := (minN? ((M.pes.filter M.runsEoi).map PE.inv)).getD M.inv })
              .next ((s4.endInvocations s L.id).progress L.id)

/-! ### Batons (R133, R134, R326) -/

/-- Whether no vector is in the array or on the chain of a CU (R326). -/
def Cu.arrayEmpty (u : Cu) : Bool := u.acts.isEmpty && u.chain.isEmpty && u.array.isEmpty

/-- Whether a request is held at its port. -/
def ReqStatus.isHeld : ReqStatus → Bool
  | .held _ _ | .cleared => true
  | _ => false

/-- Whether every store pattern of an MU's port has consumed its last element: for completion its last of all, for a relocation or
checkpoint that of the exchange zone's invocation, whose EOI it has taken (R134, R261). -/
def State.storesTaken (s : State) (L : Lease) (pe : PE) (p : Port) (job : Nat) : Bool :=
  (s.patsOf p).all (fun x => patDir x.2.1 ≠ 1 || ((if job = 0 then x.2.2.2.done || x.2.2.1
      else (match L.move with
        | some m => decide (x.2.2.2.eois > m.zone)
        | none => true)) && (pe.inEnd (patChan x.2.1)).q.all Token.isBaton))

/-- Whether a port lets a site forward a baton of a job: its loads have returned and its writes are acknowledged, or, for
a relocation, in the side log; a checkpoint leaves the loads that a fault holds, with what stands behind them (R99, R134). -/
def Port.settled (p : Port) (job : Nat) : Bool :=
  if job = 0 then
    p.queue.isEmpty && p.sideLog.isEmpty && (List.range 8).all (fun k => (p.fs k).st = .empty)
  else
    (match p.queue with
      | [] => true
      | r :: rest => job = 2 && r.status.isHeld && rest.all (fun x => x.status.isHeld || x.status.performed))
      && p.sideLog.all (fun e => match e.req.status with
        | .held _ _ | .cleared => true
        | _ => false)

/-- Whether a site may forward the baton of a job; only an MU whose inputs are all pattern channels waits for its store patterns
(R134, R261, R326). -/
def State.mayForward (s : State) (L : Lease) (pe : PE) (job : Nat) : Bool :=
  let site : SiteRef := ⟨L.id, pe.dx, pe.dy⟩
  pe.inst.isNone && !L.anyRunnable pe && L.loopsEmpty pe && !pe.eoiRan
    && (job ≠ 0 || pe.cmdsOpen.isEmpty)
    && (match s.portOf? site pe.kind with
      | some p => p.settled job && (pe.kind ≠ .mu || !(L.markIns pe).isEmpty || s.storesTaken L pe p job)
      | none => true)
    && (pe.kind ≠ .cu || (pe.cu.arrayEmpty && pe.cu.batches.isEmpty))

/-- The tokens of the channel that an input of a PE ends, at both its ends. -/
def Lease.channel (L : Lease) (pe : PE) (i : Nat) : List Token :=
  (pe.inEnd i).q ++ L.pes.flatMap (fun q => (List.range 8).flatMap (fun o =>
    if L.consumer L.plane q.dx q.dy o = some (pe.dx, pe.dy, i) then (q.outEnd o).q else []))

/-- Whether the batons of a job have reached the store patterns, which are sinks too: their channels hold nothing else, and for a
completion nothing at all (R133, R261, assumption 72). -/
def State.sinksReached (s : State) (L : Lease) (job : Nat) : Bool :=
  (s.leasePorts L.id).all (fun p => match p.owner with
    | .mu site => (s.patsOf p).all (fun x => patDir x.2.1 ≠ 1 || (match L.pe? site.dx site.dy with
        | some pe => (L.channel pe (patChan x.2.1)).all (fun t => job ≠ 0 && t.isBaton)
        | none => true))
    | .engine _ _ _ => true)

/-- Whether a baton belongs to the job in progress (R86). -/
def Lease.current (L : Lease) (t : Token) : Bool :=
  match L.baton with
  | some job => bitsOf t.low.toNat 52 4 = job && t.low.toNat % 2 ^ 32 = L.batonNo % 2 ^ 32
  | none => false

/-- BATON_FORWARD (R86, R133, R134): a baton of an abandoned job is dropped; with the current one at every input and every
condition of its job, a site pops them, sends it on and reports to the placer. -/
def execBatonForward (s : State) : Host.Outcome State Fault Refusal :=
  let site := s.focus.site
  match s.lease? site.lease with
  | none => .next s
  | some L =>
    match L.pe? site.dx site.dy with
    | none => .next s
    | some pe =>
      let ins := L.markIns pe
      let old := ins.filter (fun i => match pe.head i with
        | some t => t.isBaton && !L.current t
        | none => false)
      if s.fabricStopped then .next s
      else if !old.isEmpty then .next (s.modPE site (fun pe => old.foldl (fun (q : PE) i => q.popIn L.plane i) pe))
      else match L.baton with
        | none => .next s
        | some job =>
          let outs := L.markOuts site pe
          let there := ins.all (fun i => match pe.head i with
            | some t => t.isBaton
            | none => false)
          if pe.batonDone || !there || !s.mayForward L pe job || !s.outsFree L 1 outs then .next s
          else
            let s1 := s.modPE site (fun pe => { ins.foldl (fun (q : PE) i => q.popIn L.plane i) pe with batonDone := true })
            .next ((s1.pushAll L (batonTok job L.batonNo) outs).progress L.id)

/-! ### The completion of a task (R89) -/

/-- Whether a lease has come to its end: its completion baton has passed every site and reached every store pattern, and its ports
have nothing outstanding (R89, R133, R134, assumption 72). -/
def State.completes (s : State) (L : Lease) : Bool :=
  L.baton = some 0 && L.pes.all PE.batonDone && s.sinksReached L 0 && (s.leasePorts L.id).all (fun p => p.settled 0)

/-- TASK_COMPLETION (R62, R89, R194): the completion baton has passed every site of a task's lease, or its engine command
has ended. -/
def execTaskCompletion (s : State) : Host.Outcome State Fault Refusal :=
  match s.task? s.focus.die s.focus.idx with
  | none => .next s
  | some t =>
    match t.cmd with
    | some c =>
      (match s.cmd? c with
      | none => .next s
      | some k =>
        let s1 : State := { s with cmds := s.cmds.filter (fun x => x.id ≠ c) }
        match k.stop with
        | .running => .next s
        | .done => .next (s1.finishTask t false 0 0)
        | .failed x => .next (s1.finishTask t false 5 x)
        | .killed => .next (s1.finishTask t true 4 cDieDown))
    | none =>
      match s.leaseOf t with
      | none => .next s
      | some L =>
        if s.completes L && L.heldTraps.isEmpty
            && !s.traps.any (fun x => x.lease = some L.id) then .next (s.finishTask t false 0 0)
        else .next s

/-! ### Unit operations (R147) -/

/-- The CFG token of an operation at the head of an input of a CU where no instance runs. -/
def State.unitOp? (s : State) (op : Nat) : Option (Lease × PE × Token) :=
  let f := s.focus
  match s.lease? f.site.lease with
  | none => none
  | some L =>
    match L.pe? f.site.dx f.site.dy with
    | none => none
    | some pe =>
      match pe.head f.ch with
      | some t => if t.kind = .cfg && t.cfgOp = op && pe.kind = .cu && pe.inst.isNone && s.leaseRuns L then some (L, pe, t)
          else none
      | none => none

/-- WSREWRITE (R147): rewrites WSC entries of a weight buffer that no vector in flight reads. -/
def execWsrewrite (s : State) : Host.Outcome State Fault Refusal :=
  match s.unitOp? 2 with
  | none => .next s
  | some (L, pe, t) =>
    let d := t.low.toNat
    let b := d.testBit 52
    if pe.cu.reads b then .next s
    else .next ((s.modPE s.focus.site (fun pe =>
      let q := pe.popIn L.plane s.focus.ch
      { q with cu := q.cu.modBuf b (fun w => w.putScales (bitsOf d 40 7)
          ((List.range (bitsOf d 48 2 + 1)).map (fun k => bitsOf d (8 * k) 8))) })).progress L.id)

/-- GAMMA (R147): sets DECAYG once BUSY is clear on every tile. -/
def execGamma (s : State) : Host.Outcome State Fault Refusal :=
  match s.unitOp? 3 with
  | none => .next s
  | some (L, pe, t) =>
    if (List.range 4).any (fun k => (pe.cu.tile k).busy) then .next s
    else .next ((s.modPE s.focus.site (fun pe =>
      let q := pe.popIn L.plane s.focus.ch
      { q with cu := { q.cu with decayg := t.low.setWidth 32 } })).progress L.id)

/-! ### Plane switches and messages to the placer (R127, R132, R227, R283, R358) -/

/-- Make a plane pending for an invocation; the current plane means no switch (R132). -/
def Lease.setPend (L : Lease) (plane j : Nat) : Lease := { L with pend := if plane = L.plane then none else some (plane, j) }

/-- Close the batches of a CU and clear BUSY (R326). -/
def Cu.closeBatches (u : Cu) : Cu := { u with batches := [], tiles := u.tiles.map (fun t => t.setBusy false) }

/-- Whether every site has finished an invocation with nothing running or runnable, no vector is in a region, and every
store channel has given its EOI (R132, R326). -/
def State.invocationOver (s : State) (L : Lease) (j : Nat) : Bool :=
  L.pes.all (fun pe => (!L.runsEoi pe || pe.inv > j) && pe.inst.isNone && !L.anyRunnable pe && !pe.eoiRan
      && (pe.kind ≠ .cu || pe.cu.arrayEmpty))
    && (s.leasePorts L.id).all (fun p => (s.patsOf p).all (fun x => patDir x.2.1 ≠ 1 || x.2.2.2.eois > j))

/-- A PE after a switch to a plane: loop occupancy 0, batches closed, and its channels, empty, of the new plane's classes
(R128, R129, R132, R326). -/
def PE.switchTo (p : PE) (plane : Nat) : PE :=
  { p with
    loopOcc := 0
    declined := []
    ins := p.ins.map (fun e => { e with freed := 0 })
    outs := Vector.ofFn (fun o => { p.outEnd o.val with credits := chDepth ((p.cfg plane).outVec o.val) })
    cu := p.cu.closeBatches }

/-- The lease after a switch: the new plane at every site, and the next decision kept for a later invocation (R132). -/
def Lease.switchTo (L : Lease) (plane : Nat) : Lease :=
  let L1 := { L with
    plane := plane, pend := none
    pes := L.pes.map (fun p => p.switchTo plane) }
  match L.later with
  | [] => L1
  | (p, j) :: rest => { L1.setPend p j with later := rest }

/-- The live counters of a pattern index after a switch to a plane that runs from an invocation on: it goes on where its counters
stand, unless the new counts leave it nothing (R383). -/
def Live.resumed (l : Live) (d : BitVec 384) (zero : Bool) (from_ : Nat) : Live :=
  { l with eois := from_, begun := false, done := l.done && (zero || !patOn d || (l.over d).isSome) }

/-- The patterns of a lease's ports in the plane that is current, which runs from an invocation on (R132, R383). -/
def State.resumeLive (s : State) (lease from_ : Nat) : State :=
  { s with
    ports := updWhere (fun p => match p.owner with
        | .mu site => site.lease = lease
        | .engine _ _ _ => false)
      (fun p => { p with live := Vector.ofFn (fun k =>
        let d := match s.agOf p with
          | some (M, ag) => (ag.cfg M.plane).pat k.val
          | none => (0, false)
        p.live[k].resumed d.1 d.2 from_) }) s.ports }

/-- PLANE_SWITCH (R132, R283, R383): with invocation j over everywhere, the pending plane becomes current and HOLD is
released; the lease that ends at j does not switch. -/
def execPlaneSwitch (s : State) : Host.Outcome State Fault Refusal :=
  match s.lease? s.focus.site.lease with
  | none => .next s
  | some L =>
    match L.pend with
    | none => .next s
    | some (plane, j) =>
      if !s.invocationOver L j || !s.leaseRuns L || L.baton.isSome then .next s
      else if (match L.retireAt with
          | some r => decide (r ≤ j)
          | none => false) then .next ((s.modLease L.id (fun L => { L with pend := none, later := [] })).completeInputs L.id)
      else
        let s2 := (s.modLease L.id (fun L => L.switchTo plane)).resumeLive L.id (j + 1)
        .next (((s2.setHolds L.id).completeInputs L.id).progress L.id)

/-- Take the first message that reached a lease's placer. -/
def Lease.nextMsg (L : Lease) : Option (CtrlMsg × Lease) :=
  match L.ctrl with
  | [] => none
  | m :: rest => some (m, { L with ctrl := rest })

/-- Keep a decision for an invocation: at once, or until the switch before it has ended; of two for one invocation either
(R132). -/
def Lease.decide (L : Lease) (plane j : Nat) (replace : Bool) : Lease :=
  match L.pend with
  | some (_, pj) =>
    if pj < j then
      (if L.later.any (fun x => x.2 = j) then
        { L with later := L.later.map (fun x => if x.2 = j && replace then (plane, j) else x) }
      else { L with later := L.later ++ [(plane, j)] })
    else if replace then L.setPend plane j else L
  | none => L.setPend plane j

/-- DECISION_TOKEN (R127, R132, R283): a decision reaches the ports; `replace` chooses between two for one invocation. -/
def execDecisionToken (replace : Bool) (s : State) : Host.Outcome State Fault Refusal :=
  match s.lease? s.focus.site.lease with
  | none => .next s
  | some L =>
    match L.nextMsg with
    | some (.decide dx dy slot plane, L1) =>
      let site : SiteRef := ⟨L.id, dx, dy⟩
      let s1 := s.modLease L.id (fun _ => L1)
      if s.fabricStopped then .next s
      else if !imageDefines L.image plane then .next (s1.answer site slot (fun a => a.ownErr cHandlerEmpty))
      else
        let j := s.nextEoi L
        .next (((s1.modLease L.id (fun L => L.decide plane j replace)).setHolds L.id).answer site slot (fun _ => n64Tok j))
    | _ => .next s

/-- RETIRE_MESSAGE (R283): the invocation j is fixed, at whose EOI every INPUT pattern stops. -/
def execRetireMessage (s : State) : Host.Outcome State Fault Refusal :=
  match s.lease? s.focus.site.lease with
  | none => .next s
  | some L =>
    match L.nextMsg with
    | some (.retire dx dy slot, L1) =>
      if s.fabricStopped then .next s
      else
        let j := L.retireAt.getD (s.nextEoi L)
        let s1 := s.modLease L.id (fun _ => { L1 with retireAt := some j })
        .next ((s1.completeInputs L.id).answer ⟨L.id, dx, dy⟩ slot (fun _ => n64Tok j))
    | _ => .next s

/-- CROPEN_MESSAGE (R227, R358): the region opens at the first invocation of which no token has left an input port; it is
refused while one is open or pending, or where its target is not of the lease. -/
def execCropenMessage (s : State) : Host.Outcome State Fault Refusal :=
  match s.lease? s.focus.site.lease with
  | none => .next s
  | some L =>
    match L.nextMsg with
    | some (.cropen dx dy slot redo region target, L1) =>
      let site : SiteRef := ⟨L.id, dx, dy⟩
      let s1 := s.modLease L.id (fun _ => L1)
      let t := target.toNat
      if s.fabricStopped then .next s
      else if L.region.isSome then .next (s1.answer site slot (fun a => a.ownErr cSwTrap))
      else if bitsOf t 8 7 ≥ L.w || bitsOf t 16 6 ≥ L.h || !imageDefines L.image (bitsOf t 0 2) then
        .next (s1.answer site slot (fun a => a.ownErr cHandlerEmpty))
      else
        let j := s.nextBegin L
        let r : Region := ⟨region, redo, bitsOf t 0 2, bitsOf t 8 7, bitsOf t 16 6, bitsOf t 24 4, j, none, false, false⟩
        .next ((s1.modLease L.id (fun L => { L with region := some r })).answer site slot (fun _ => n64Tok j))
    | _ => .next s

/-! ### The stall watchdog (R140) -/

/-- STALL_WATCHDOG (R140): at 2^24 cycles without progress the lease raises its trap, once per stall. Its origin is the
site that holds a token in an input channel, the first in scan order; where tokens stand at producer ends only, the rule names none,
and the origin is the relative site (0, 0) with the lease's invocation (DESIGN CHOICE, assumption 78). -/
def execStallWatchdog (s : State) : Host.Outcome State Fault Refusal :=
  match s.lease? s.focus.site.lease with
  | none => .next s
  | some L =>
    if L.stall < 2 ^ 24 || L.stalled then .next s
    else
      let order := (List.range L.h).flatMap (fun y => (List.range L.w).map (fun x => (x, y)))
      let site := order.findSome? (fun c => match L.pe? c.1 c.2 with
        | some pe => if pe.ins.toList.any (fun e => !e.q.isEmpty) then some pe else none
        | none => none)
      let w := match site with
        | some pe => errWord cStallWatchdog pe.dx pe.dy L.plane 127 pe.inv false
        | none => errWord cStallWatchdog 0 0 L.plane 127 L.inv false
      .next ((s.modLease L.id (fun L => { L with stall := 0, stalled := true })).raise (Trap.ofErr L w))

end Sys2Proof.Machine
end

