-- ==== Sys2Proof/Machine/Systolic.lean ====
section
/-! DEFINITION. The systolic regions: an activation vector enters a CU's array, and a result leaves it (R144 to R146, R217,
R218, R322 to R324). -/

namespace Sys2Proof.Machine

open Sys2Proof

/-- A CU of a region with its place: the lease, the PE, the region, its row and its column. -/
structure SysCu where
  lease : Lease
  pe : PE
  region : SysRegion
  i : Nat
  j : Nat
deriving DecidableEq, Repr

/-- The CU at the focus, if it lies in a region of the current plane of a lease that runs, or whose regions an unwind drains
(R145, R233). -/
def State.sysCu? (s : State) : Option SysCu :=
  match s.lease? s.focus.site.lease with
  | none => none
  | some L =>
    if !s.leaseRuns L && !(L.unwind.isSome && L.parked.isNone && !s.fabricStopped) then none
    else match L.pe? s.focus.site.dx s.focus.site.dy, L.sysAt L.plane s.focus.site.dx s.focus.site.dy with
      | some pe, some (g, i, j) => if pe.kind = .cu && (pe.cfg L.plane).sysm then some ⟨L, pe, g, i, j⟩ else none
      | _, _ => none

/-- The site of another CU of the region (R145). -/
def SysCu.siteOf (c : SysCu) (i j : Nat) : SiteRef := ⟨c.lease.id, c.region.dx + j, c.region.dy + 2 * c.region.m - 2 - 2 * i⟩

/-- The CU state at another place of the region. -/
def SysCu.cuAt? (c : SysCu) (i j : Nat) : Option Cu :=
  (c.lease.pe? (c.siteOf i j).dx (c.siteOf i j).dy).map PE.cu

/-- A DATA or ERR token at the head of a feed (R323). -/
def PE.feed? (pe : PE) (ch : Nat) : Option Token := (pe.head ch).filter Token.seen

/-- The activation that waits at a CU: at column 0 the feeds' heads, two of them in a sparse row; elsewhere what the CU to
the left passed on (R146, R323). No activation enters while a region is unwound (R233). -/
def SysCu.activation? (c : SysCu) : Option Activation :=
  if c.j ≠ 0 then c.pe.cu.acts.head?
  else if c.lease.unwind.isSome then none
  else match c.pe.feed? 7 with
    | none => none
    | some t =>
      if (c.pe.cu.buf c.pe.cu.wact).sparse then (c.pe.feed? 6).map (fun l => ⟨t, some l⟩)
      else some ⟨t, none⟩

/-- The partial that comes from above: +0.0 in every column at the top row (R146, R217). -/
def SysCu.above? (c : SysCu) : Option Partial :=
  if c.i = 0 then some (.vals (Vector.replicate 32 0)) else c.pe.cu.chain.head?

/-! ### The sums within a CU (R144, R217, R319, R321) -/

/-- The scale of an element of a column: WSC entry 4·c + b of its block for the formats that have one (R144). -/
def WBuf.scaleAt (w : WBuf) (col row : Nat) : Nat := bitsOf w.wsc.toNat (8 * (4 * col + row / 32)) 8

/-- The weights of a column: row numbers with their values. A sparse column holds two kept rows of each four, and none
where the lower index is not below the higher (R319, R321). -/
def WBuf.column (w : WBuf) (ty : Ty) (fm : FF) (c : Nat) : List (Nat × FV) :=
  let xs := lanes ty.laneWidth ((w.cols[c]?).getD 0)
  let kb := ty.laneCount
  if w.sparse then
    (List.range (kb / 2)).flatMap (fun g =>
      let m := bitsOf w.map.toNat (2 * kb * c + 4 * g) 4
      if m % 4 < m / 4 then
        [(4 * g + m % 4, fm.read (nth xs (2 * g) 0)), (4 * g + m / 4, fm.read (nth xs (2 * g + 1) 0))]
      else [])
  else xs.mapIdx (fun r x => (r, if ty.isMX then scaled (fm.read x) (w.scaleAt c r) else fm.read x))

/-- The tag that an activation token's type pairs with (R144). -/
def pairedTypes (t : Token) (w : WBuf) : Option (Ty × Ty) :=
  match Ty.ofCode t.tag, Ty.ofCode w.tag with
  | some a, some b => if t.kind = .data && t.vec && pairTags a b then some (a, b) else none
  | _, _ => none

/-- What a vector gives in a CU: the exact sum of each column, MX block by MX block, or the ERR that takes its place (R144,
R217, R323). -/
def SysCu.sums (c : SysCu) (w : WBuf) (a : Activation) : Except Word (Vector ExactSum 32) :=
  let tokens := a.low.toList ++ [a.main]
  match tokens.find? (fun t => t.kind = .err) with
  | some e => .error e.low
  | none =>
    let bad := .error (errWord cFormatTag c.pe.dx c.pe.dy c.lease.plane 127 c.pe.inv false)
    if w.sparse ≠ a.low.isSome then bad
    else match tokens.mapM (fun t => pairedTypes t w) with
      | none => bad
      | some tys =>
        match tys.head? with
        | none => bad
        | some (_, wt) =>
          match wt.ff with
          | none => bad
          | some fm =>
            let xs := ((List.zip tokens tys).map (fun p => elemValues p.2.1 p.1)).flatten
            .ok (Vector.ofFn (fun col =>
              let ps := w.column wt fm col.val
              let blocks := (List.range 8).map (fun b =>
                dotFV [] ((ps.filter (fun p => if wt.isMX then p.1 / 32 = b else b = 0)).map (fun p =>
                  (nth xs p.1 (.fin false 0 0), p.2))))
              let r := sumFV (blocks.map Prod.fst)
              ⟨r.1, blocks.foldl (fun f x => f ||| x.2) r.2⟩))

/-- A vector enters a CU's array: it reads the active buffer, and WACT inverts after the last vector that a pending WSWAP
leaves to it (R322). -/
def Cu.enter (u : Cu) (above : Partial) (sums : Except Word (Vector ExactSum 32)) : Cu :=
  let v : InArray := match above, sums with
    | .err w, _ => ⟨u.wact, above, none, some w⟩
    | _, .error w => ⟨u.wact, above, none, some w⟩
    | _, .ok x => ⟨u.wact, above, some x, none⟩
  match u.wswap with
  | some (n + 1) => { u with array := u.array ++ [v], wswap := some n, wact := if n = 0 then !u.wact else u.wact }
  | _ => { u with array := u.array ++ [v] }

/-- Take the activation of a CU: pop the feeds, or what came from the left. -/
def SysCu.takeActivation (c : SysCu) (a : Activation) (pe : PE) : PE :=
  if c.j ≠ 0 then { pe with cu := { pe.cu with acts := pe.cu.acts.tail } }
  else
    let p := pe.popIn c.lease.plane 7
    if a.low.isSome then p.popIn c.lease.plane 6 else p

/-- A vector enters the CU's array and passes right, with an activation and a partial present, and room to the right and in
the array. A CU holds one activation from the left, one partial from above and up to four vectors in its array
(assumption 16). -/
def State.sysTake (s : State) : Option State :=
  match s.sysCu? with
  | none => none
  | some c =>
    match c.activation?, c.above? with
    | some a, some p =>
      let room := match c.cuAt? c.i (c.j + 1) with
        | some r => c.j + 1 ≥ c.region.n || r.acts.isEmpty
        | none => true
      if !room || c.pe.cu.array.length ≥ 4 then none
      else
        let sums := c.sums (c.pe.cu.buf c.pe.cu.wact) a
        let s1 := s.modPE s.focus.site (fun pe =>
          let q := c.takeActivation a pe
          { q with cu := ({ q.cu with chain := q.cu.chain.tail }).enter p sums })
        let s2 := if c.j + 1 < c.region.n then s1.modCu (c.siteOf c.i (c.j + 1)) (fun u => { u with acts := u.acts ++ [a] }) else s1
        some (s2.progress c.lease.id)
    | _, _ => none

/-- SYSTOLIC_ACTIVATION (R146, R323): the activation that waits at a CU enters its array. -/
def execSystolicActivation (s : State) : Host.Outcome State Fault Refusal := .next (s.sysTake.getD s)

/-! ### Results (R146, R217, R218, R324) -/

/-- The partial of a column with the sum of its own CU, rounded once to FP32 with some further terms and products (R217,
R218). -/
def roundResult (x : ExactSum) (terms : List FV) (prods : List (FV × FV)) : Nat × Flags :=
  let r := dotFV (x.v :: terms) prods
  let c := FF.f32.round .rne false r.1 false 0
  (c.1, x.fl ||| r.2 ||| c.2)

/-- Every column's p + S with further terms, as codes and the flags raised. -/
def InArray.results (v : InArray) (more : Nat → List FV × List (FV × FV)) : List Nat × Flags :=
  match v.above, v.sums with
  | .vals ps, some xs =>
    let rs := (List.range 32).map (fun c =>
      let m := more c
      roundResult ((xs[c]?).getD ⟨.fin false 0 0, 0⟩) (FF.f32.read ((ps[c]?).getD 0).toNat :: m.1) m.2)
    (rs.map Prod.fst, rs.foldl (fun f r => f ||| r.2) 0)
  | _, _ => ([], 0)

/-- The partial that a middle or top row sends down, with its flags (R217 step 4). -/
def InArray.down (v : InArray) : Partial × Flags :=
  match v.err with
  | some w => (.err w, 0)
  | none =>
    let r := v.results (fun _ => ([], []))
    (.vals (Vector.ofFn (fun c => BitVec.ofNat 32 (nth r.1 c.val 0))), r.2)

/-- An element of a tile. -/
def Tile.elem (t : Tile) (row c : Nat) : Nat := bitsOf (t.half (2 * row + c / 16)).toNat (32 * (c % 16)) 32

/-- The row of a tile as a batch updates it: ZERO, ACC or DECAY (R218). -/
def InArray.update (v : InArray) (mode : Nat) (gamma : Nat) (t : Tile) (row : Nat) : List Nat × Flags :=
  v.results (fun c =>
    let old := FF.f32.read (t.elem row c)
    if mode = 1 then ([], []) else if mode = 2 then ([old], []) else ([], [(FF.f32.read gamma, old)]))

/-- Write a row of a tile from 32 codes. -/
def Tile.setRow (t : Tile) (row : Nat) (xs : List Nat) : Tile :=
  (t.setHalf (2 * row) (ofLanes 32 (xs.take 16))).setHalf (2 * row + 1) (ofLanes 32 (xs.drop 16))

/-- Count a result for the head batch; its last one removes the batch and clears BUSY (R324). -/
def Cu.countResult (u : Cu) : Cu :=
  match u.batches with
  | [] => u
  | b :: rest =>
    if b.got + 1 ≥ b.len then
      { (if b.mode = 0 then u else u.modTile b.tile (fun t => t.setBusy false)) with batches := rest }
    else { u with batches := { b with got := b.got + 1 } :: rest }

/-- Whether the tile of a batch is held by ASPILL or AFILL (R327). -/
def PE.holdsTile (pe : PE) (k : Nat) : Bool :=
  match pe.inst with
  | some i => i.holdsTile k
  | none => false

/-- A result that the bottom row emits (R146, R218). -/
def sysEmit (c : SysCu) (v : InArray) (s : State) : State :=
  let site := s.focus.site
  match v.err with
  | some w => s.modPE site (fun pe => (pe.pushOut c.lease.plane 7 (Token.ofErr w true)).pushOut c.lease.plane 7 (Token.ofErr w true))
  | none =>
    let r := v.results (fun _ => ([], []))
    s.modPE site (fun pe => ((pe.raiseFlags r.2).pushOut c.lease.plane 7 (Token.vector Ty.f32.tag 0 (ofLanes 32 (r.1.take 16)))).pushOut
      c.lease.plane 7 (Token.vector Ty.f32.tag 0 (ofLanes 32 (r.1.drop 16))))

/-- A result that the bottom row accumulates: an ERR leaves the row unchanged and goes out on out7, or raises its trap where
that is not connected; during an unwind, which empties the channels, it is discarded (R131, R218, R230, R233, R324). -/
def sysAccumulate (c : SysCu) (b : Batch) (v : InArray) (s : State) : State :=
  let site := s.focus.site
  let s1 := s.modCu site (fun u => u.modTile b.tile (fun t => { t.setBusy true with stat := setField (t.setBusy true).stat 0 5 10 }))
  match v.err with
  | some w =>
    if c.lease.unwind.isSome then s1
    else if (c.pe.cfg c.lease.plane).outConn 7 then s1.modPE site (fun pe => pe.pushOut c.lease.plane 7 (Token.ofErr w true))
    else s1.raiseErr c.lease.id w
  | none =>
    let row := b.got % 32
    let r := v.update b.mode c.pe.cu.decayg.toNat (c.pe.cu.tile b.tile) row
    s1.modPE site (fun pe => let q := pe.raiseFlags r.2
      { q with cu := q.cu.modTile b.tile (fun t => t.setRow row r.1) })

/-- The oldest vector of a CU's array leaves it: its partial goes down, or at the bottom row its result goes to the head
batch, once its channel, its tile or the row below has room. An unwind discards results to be emitted (R233). -/
def State.sysLeave (s : State) : Option State :=
  match s.sysCu? with
  | none => none
  | some c =>
    match c.pe.cu.array with
    | [] => none
    | v :: rest =>
      let s0 := s.modCu s.focus.site (fun u => { u with array := rest })
      if c.i + 1 < c.region.m then
        (match c.cuAt? (c.i + 1) c.j with
        | none => none
        | some below =>
          if !below.chain.isEmpty then none
          else
            let d := v.down
            let s1 := s0.modPE s.focus.site (fun pe => pe.raiseFlags d.2)
            some ((s1.modCu (c.siteOf (c.i + 1) c.j) (fun u => { u with chain := u.chain ++ [d.1] })).progress c.lease.id))
      else match c.pe.cu.batches with
        | [] => none
        | b :: _ =>
          let free := c.pe.outFree c.lease.plane 7
          let out := (c.pe.cfg c.lease.plane).outConn 7
          if b.mode = 0 then
            (if c.lease.unwind.isSome then some (s0.modCu s.focus.site Cu.countResult)
            else if free < 2 then none
            else some (((sysEmit c v s0).modCu s.focus.site Cu.countResult).progress c.lease.id))
          else if c.lease.unwind.isNone && (c.pe.holdsTile b.tile || (v.err.isSome && out && free = 0)) then none
          else some (((sysAccumulate c b v s0).modCu s.focus.site Cu.countResult).progress c.lease.id)

/-- SYSTOLIC_RESULT (R146, R217, R218, R324): the oldest vector of a CU's array leaves it. -/
def execSystolicResult (s : State) : Host.Outcome State Fault Refusal := .next (s.sysLeave.getD s)

/-- Whether a vector can still move in some region of a lease (R233). -/
def State.sysMoves (s : State) (L : Lease) : Bool :=
  L.pes.any (fun pe => pe.kind = PEKind.cu &&
    (let t : State := { s with focus := Focus.slotAt ⟨L.id, pe.dx, pe.dy⟩ 0 }
     t.sysTake.isSome || t.sysLeave.isSome))

end Sys2Proof.Machine
end

