-- ==== Sys2Proof/Machine/Traps.lean ====
section
/-! DEFINITION. Traps at the CD: the trap action table and its actions, trap records, and the mailbox commands that resume or
kill a task (R102 to R104, R380, R385). -/

namespace Sys2Proof.Machine

open Sys2Proof

/-- A mailbox reply of a status (R384). -/
def State.replyStatus (s : State) (status : Nat) : State := { s with reply := ⟨status, []⟩ }

/-! ### The trap action table (R102) -/

/-- The actions of the table; KILL stands for each entry that acts as KILL. -/
inductive TrapAct where
  | kill
  | replay (limit : Nat)
  | park (list : Nat)
  | parkOwn
  | forward (recov : Option Nat) (list : Nat)
deriving DecidableEq, Repr

/-- The causes whose refused operation REPLAY holds: translation and access, DIE_DOWN and LINK_POISON (R102). -/
def replayable (cause : Nat) : Bool := replayAccess cause || cause = cDieDown || cause = cLinkPoison

/-- The action that an entry's byte gives a cause (R102). -/
def trapAct (b cause : Nat) : TrapAct :=
  let p := b % 64
  match b / 64 % 4 with
  | 0 => .kill
  | 1 => if replayable cause then .replay p else .parkOwn
  | 2 => if p ≥ 8 then .kill else .park p
  | _ => .forward (if p.testBit 5 then some (bitsOf p 3 2) else none) (p % 8)

/-- The action of the table for a trap: an entry that cannot be read acts as KILL (R102). -/
def State.trapAction (s : State) (tid cause : Nat) : TrapAct × State :=
  match s.ctx? tid with
  | none => (.kill, s)
  | some c =>
    match s.cdRead tid (wrapN 57 ((c.trapva + cause : Nat) : Int)) 1 true with
    | (.ok bs, s1) => (trapAct (ofBytes bs) cause, s1)
    | (.error _, s1) => (.kill, s1)

/-- The start list that a context's creation order names (R102). -/
def State.listOf (s : State) (tid i : Nat) : Option Nat := (s.ctx? tid).bind (fun c => c.slots[i]?)

/-! ### Trap records (R104) -/

/-- The party that trapped: the request's, else that of the port at the origin's site. -/
def State.trapParty (s : State) (t : Trap) : Nat :=
  if t.partyA ≠ 0 then t.partyA
  else match t.lease with
    | none => 0
    | some id =>
      let site : SiteRef := ⟨id, bitsOf t.err.toNat 51 7, bitsOf t.err.toNat 45 6⟩
      match s.pe? site with
      | none => 0
      | some pe => ((s.portOf? site pe.kind).map Port.party).getD 0

/-- The record of a trap with the action applied and a status, for its task, written to a start list (R103, R104). An engine
task has no site. -/
def State.recordTrap (s : State) (t : Trap) (k : Task) (slot action status : Nat) : State :=
  let e := t.err.toNat
  let site := fun (lo len : Nat) => if k.cmd.isSome then 0 else bitsOf e lo len
  let cause := errCause t.err
  let partyB := if cause = cMmConflict then t.partyB else 0
  s.trapRecord slot (1 + k.pktKind * 2 ^ 8 + status * 2 ^ 16 + k.trapTag * 2 ^ 32)
    (cause * 2 ^ 57 + t.va % 2 ^ 57)
    (s.trapParty t * 2 ^ 48 + partyB * 2 ^ 32 + site 20 16 * 2 ^ 16 + site 36 7 * 2 ^ 9 + site 43 2 * 2 ^ 7 + site 51 7)
    (site 45 6 * 2 ^ 26 + k.slid % 2 ^ 13 * 2 ^ 13 + action * 2 ^ 11 + b2n t.unconf * 2 ^ 10 + b2n (e.testBit 18) * 2 ^ 9
      + b2n t.degr * 2 ^ 8)

/-! ### The actions -/

/-- The task that a trap is of: its lease's, or that of its engine command. -/
def State.trapTask (s : State) (t : Trap) : Option Task :=
  match t.lease.bind s.lease? with
  | some L => s.task? L.die L.entry
  | none => ((t.cmd.bind s.cmd?).bind EngCmd.task).bind (fun x => s.task? x.1 x.2)

/-- Hold the refused request of a trap for REPLAY, or the side-log entry that has taken its place in front of its page's: it is issued
again when the condition clears, at once where that is DIE_DOWN and the die runs again (R102, R176). -/
def State.holdForReplay (s : State) (t : Trap) : State :=
  match t.port, t.req with
  | some p, some r =>
    let hold := fun (x : Req) => match x.status with
      | .held c _ => { x with status := .held c true }
      | _ => x
    (s.modPort p (fun p => { p with
      queue := updWhere (fun x => x.id = r) hold p.queue
      sideLog := updWhere (fun e => e.req.id = r || (e.req.status.heldFor && page64 e.req.va = page64 t.va))
        (fun e => { e with req := hold e.req }) p.sideLog })).releaseUp (fun q => q.id = p)
  | _, _ => s

/-- Kill the task of a trap for its cause. A parked lease's record of the KILL goes to the start list that received the
record of its PARK (R102, R103). A COPY whose SRC or DST is refused ends with FAULT and the cause (R58). -/
def State.trapKill (s : State) (t : Trap) (k : Task) : State :=
  let s1 := match (t.lease.bind s.lease?).bind Lease.parked with
    | some slot => s.recordTrap t k slot 0 4
    | none => s
  let s2 := match t.cmd.bind s1.cmd? with
    | some c => s1.stopCmd c
    | none => s1
  let s3 : State := { s2 with traps := s2.traps.filter (fun x => x.cmd.isNone || x.cmd ≠ t.cmd) }
  if k.pktKind = 7 then s3.finishTask k true 5 (errCause t.err) else s3.killTask k (errCause t.err)

/-- Park a lease: issue stops, and the start list that received the record is kept; a lease parked already stays as it is
(R102, R103). -/
def State.parkLease (s : State) (t : Trap) (slot : Nat) : State :=
  match t.lease with
  | none => s
  | some id => s.modLease id (fun L => { L with parked := some (L.parked.getD slot) })

/-- How often a task has replayed a cause. -/
def Task.replayCount (k : Task) (cause : Nat) : Nat := lookupD k.replays cause 0

/-- The lease switches to a recovery plane at the next invocation boundary, as by a decision (R102, R132). -/
def State.recoverTo (s : State) (t : Trap) (plane : Option Nat) : State :=
  match plane, t.lease.bind s.lease? with
  | some p, some L =>
    if imageDefines L.image p then
      (s.modLease L.id (fun M => M.decide p (s.nextEoi L) true)).setHolds L.id
    else s
  | _, _ => s

/-- A trap of a COPY packet: the failed read or write of SRC or DST completes the packet with FAULT and the cause whatever the
action is, and a PARK or FORWARD writes its trap record first (R58, R102, assumption 42). -/
def State.copyTrap (s : State) (t : Trap) (k : Task) : TrapAct → State
  | .park i =>
    (match s.listOf k.ctx i with
    | some slot => s.recordTrap t k slot 2 0
    | none => s.logError 51).trapKill t k
  | .forward _ i =>
    (match s.listOf k.ctx i with
    | some slot => s.recordTrap t k slot 3 0
    | none => s.logError 51).trapKill t k
  | _ => s.trapKill t k

/-- Apply an action to a trap of a task that is no COPY (R102, R103, R359). A trap without a refused operation has nothing to replay, and REPLAY
acts as PARK on it. The operation that a FORWARD finds refused is held as under REPLAY with RECOV set or not: the rule says it
for a clear RECOV only, and the other is the model's choice (DESIGN CHOICE, assumption 67). -/
def State.applyLease (s : State) (t : Trap) (k : Task) : TrapAct → State
  | .kill => s.trapKill t k
  | .replay limit =>
    let c := errCause t.err
    if t.req.isNone then (s.recordTrap t k k.slid 2 0).parkLease t k.slid
    else if limit ≠ 0 && k.replayCount c ≥ limit then s.trapKill t k
    else (s.modTask k.die k.idx (fun k => { k with replays := insertKV k.replays c (k.replayCount c + 1) })).holdForReplay t
  | .parkOwn => (s.recordTrap t k k.slid 2 0).parkLease t k.slid
  | .park i =>
    match s.listOf k.ctx i with
    | some slot => (s.recordTrap t k slot 2 0).parkLease t slot
    | none => (s.logError 51).trapKill t k
  | .forward recov i =>
    match s.listOf k.ctx i with
    | some slot => ((s.recordTrap t k slot 3 0).holdForReplay t).recoverTo t recov
    | none => (s.logError 51).trapKill t k

/-- Apply an action to a trap of a task (R58, R102). -/
def State.applyAction (s : State) (t : Trap) (k : Task) (a : TrapAct) : State :=
  if k.pktKind = 7 then s.copyTrap t k a else s.applyLease t k a

/-- Whether a relocation or standing checkpoint of a lease holds its traps: it has reached its exchange zone and is in steps
1 to 3 (R86). The traps of a lease that is pre-empted are applied at once (R103). -/
def State.holdsTraps (s : State) (L : Lease) : Bool :=
  s.inMove L && (match L.move with
    | some ⟨.checkpoint _, _, _, _, _⟩ | none => false
    | some _ => true)

/-- TRAP_ACTION (R86, R102, R103, R232): the first trap that reached the CD. One of a lease that is being relocated or unwound
is held; one of a command without its task stops the command. -/
def execTrapAction (s : State) : Host.Outcome State Fault Refusal :=
  match s.traps with
  | [] => .next s
  | t :: rest =>
    let s0 : State := { s with traps := rest }
    if s.uncoreStopped then .next s
    else match t.lease.bind s0.lease? with
      | some L =>
        if s0.holdsTraps L || L.unwind.any (fun u => decide (u.step < 5)) then
          .next (s0.modLease L.id (fun L => { L with heldTraps := L.heldTraps ++ [t] }))
        else (match s0.task? L.die L.entry with
          | none => .next s0
          | some k =>
            let r := s0.trapAction k.ctx (errCause t.err)
            .next (r.2.applyAction t k r.1))
      | none =>
        match s0.trapTask t with
        | some k =>
          let r := s0.trapAction k.ctx (errCause t.err)
          .next (r.2.applyAction t k r.1)
        | none => match t.cmd.bind s0.cmd? with
          | some c => .next (s0.stopCmd c)
          | none => .next s0

/-! ### The mailbox commands of a task (R102, R385) -/

/-- A held request let go (R102, R380). -/
def Req.letGo (r : Req) : Req :=
  match r.status with
  | .held _ _ => { r with status := .cleared }
  | _ => r

/-- Issue again what a set of ports hold for traps (R102, R380). -/
def State.letGoWhere (s : State) (f : Port → Bool) : State :=
  { s with ports := updWhere f (fun p => { p with
      queue := p.queue.map Req.letGo, sideLog := p.sideLog.map (fun e => { e with req := e.req.letGo }) }) s.ports }

/-- Whether a lap boundary has come and has not been taken yet (R90). -/
def State.lapDue (s : State) : Bool := s.power = .run && !s.uncoreStopped && 1024 * (s.lap + 1) ≤ s.fabric

/-- TASK_RESUME (R102): the parked lease goes on, and what its ports hold for traps is issued again. It takes effect after a lap
boundary of the same cycle, whose refill does not see the resumed ports as waiting (R370). A task that is not there, or is not
parked, is left as it is (assumption 17). -/
def execTaskResume (die entry : Nat) (s : State) : Host.Outcome State Fault Refusal :=
  if s.power ≠ .run || s.uncoreStopped || s.lapDue then .next s
  else match s.task? die entry with
  | none => .next (s.replyStatus 0)
  | some k =>
    match s.leaseOf k, k.cmd with
    | some L, _ =>
      if L.parked.isNone then .next (s.replyStatus 0)
      else
        let s1 := s.modLease L.id (fun L => { L with parked := none })
        .next ((s1.letGoWhere (fun p => s.portLease p = some L.id)).replyStatus 0)
    | none, some c => .next ((s.letGoWhere (fun p => s.portCmd p = some c)).replyStatus 0)
    | none, none => .next (s.replyStatus 0)

/-- TASK_KILL (R89, R96, R102, R385): the task is killed with DETAIL 0xFFFF_FFFB; a COPY that still waits in its queue is removed
from it and reports DISCARDED. It waits, as TASK_RESUME does, while a photo finish holds the dies (R116). -/
def execTaskKill (die entry : Nat) (s : State) : Host.Outcome State Fault Refusal :=
  if s.power ≠ .run || s.uncoreStopped then .next s
  else match s.task? die entry with
  | none => .next (s.replyStatus 0)
  | some k =>
    .next ((match k.cmd.bind s.cmd? with
      | some c => if c.party = 0 && c.stop = EngEnd.running && !s.engines.any (fun e => e.cur.cmd = c.id) then s.forceTask k 0xFFFFFFFB
        else (s.stopCmd c).killTask k 0xFFFFFFFB
      | none => s.killTask k 0xFFFFFFFB).replyStatus 0)

end Sys2Proof.Machine
end

