-- ==== Sys2Proof/Machine/Contain.lean ====
section
/-! DEFINITION. Containment regions: the unwind of a region and its commit (R227 to R233). -/

namespace Sys2Proof.Machine

open Sys2Proof

/-- Whether every request of a lease's ports is settled: loads returned, writes acknowledged or in the side log. A load or atomic
that a fault holds does not come back while its trap is held, and what it would bring is discarded (R230 step 2, R232,
assumption 18). -/
def State.portsSettled (s : State) (lease : Nat) : Bool := (s.leasePorts lease).all (fun p => p.settled 2)

/-- FIRSTINV: the region's first invocation for REDO; for KILL, the oldest that had not ended at every sink (R230). -/
def State.firstInv (s : State) (L : Lease) (r : Region) : Nat := if r.redo then r.first else s.sinkInv L

/-- Whether a trap held during an unwind is absorbed by it: of a containable cause, its invocation at or after FIRSTINV
(R232). -/
def Trap.absorbed (t : Trap) (first : Nat) : Bool :=
  containable (errCause t.err) && decide ((errInv t.err + 65536 - first % 65536) % 65536 < 32768)

/-- A PE emptied: every channel, slot operand, handler state and vector of its array; its invocation is FIRSTINV (R230 step 3,
R326). A WSWAP whose vectors are gone is no longer pending (assumption 18). -/
def PE.emptied (p : PE) (plane first : Nat) : PE :=
  { p with
    ins := Vector.replicate 8 ⟨[], 0⟩
    outs := Vector.ofFn (fun o => ⟨[], chDepth ((p.cfg plane).outVec o.val)⟩)
    inv := first
    loopOcc := 0
    declined := []
    inst := none
    eoiRan := false
    batonDone := false
    cu := { p.cu.closeBatches with wswap := none, acts := [], chain := [], array := [] } }

/-- Drop the replies that the stopped instances of a lease wait for: a sync operation still counts, and its wait is gone. -/
def State.forgetSlots (s : State) (lease : Nat) : State :=
  { s with
    syncQ := s.syncQ.map (fun m => if m.site.lease = lease then { m with slot := 128 } else m)
    waiters := s.waiters.filter (fun w => w.msg.site.lease ≠ lease) }

/-- A message to the placer whose sender is gone. -/
def CtrlMsg.orphan (m : CtrlMsg) : CtrlMsg :=
  match m with
  | .decide x y _ p => .decide x y 128 p
  | .retire x y _ => .retire x y 128
  | .cropen x y _ k r t => .cropen x y 128 k r t

/-- The live counters of a pattern index rewound to the start of FIRSTINV, whatever plane is current: those it had when it began its
first invocation from FIRSTINV on, or where they stand if it has begun none (R227, R230 step 5, R383). -/
def Port.rewound (p : Port) (k first : Nat) : Live :=
  let xs := p.snaps.filter (fun x => x.pat = k && x.inv ≥ first)
  let l := match minN? (xs.map (fun (x : Snapshot) => x.inv)) with
    | some j => match xs.find? (fun (x : Snapshot) => x.inv = j) with
      | some x => x.live
      | none => p.liveOf k
    | none => p.liveOf k
  { l with eois := min l.eois first, begun := false }

/-- A port at steps 3 and 5: side-log entries of the region's invocations are discarded, its patterns rewound, and what a stopped
instance had begun to fetch is given up (R230, R383). A load pattern without INPUT belongs to no invocation and goes on where it
stands (assumption 18). -/
def Port.unwound (p : Port) (r : Region) (free : List Nat) (first : Nat) : Port :=
  let side := p.sideLog.filter (fun e => !r.holds (e.req.inv % 65536))
  { p with
    queue := []
    sideLog := side.map (fun e => { e with req := { e.req with dest := .none } })
    fences := 0
    snaps := []
    live := Vector.ofFn (fun k => if free.contains k.val then p.liveOf k.val else p.rewound k.val first)
    fetch := p.fetch.map (fun f => if f.st = .fetching then FetchSlot.empty else f) }

/-- The status token of an unwind (R231). -/
def statusToken (r : Region) (err : Word) (first : Nat) : Token :=
  let e := err.toNat
  Token.scalar Ty.n64.tag (BitVec.ofNat 64 (r.id % 256 * 2 ^ 56 + errCause err * 2 ^ 50 + b2n r.degr * 2 ^ 49 + b2n r.redo * 2 ^ 48
    + bitsOf e 51 7 * 2 ^ 41 + bitsOf e 45 6 * 2 ^ 35 + bitsOf e 43 2 * 2 ^ 33 + bitsOf e 36 7 * 2 ^ 26 + first % 2 ^ 26))

/-- The lease on the recovery plane (R231). -/
def Lease.toPlane (L : Lease) (plane : Nat) : Lease :=
  if plane = L.plane then L
  else { L with
    plane := plane
    pend := L.pend.filter (fun x => x.1 ≠ plane)
    pes := L.pes.map (fun p => p.switchTo plane) }

/-- The live counters of a lease's ports on the recovery plane, where that is another (R132, R231, R383). -/
def State.toPlane (s : State) (L : Lease) (plane first : Nat) : State :=
  if plane = L.plane then s else s.resumeLive L.id first

/-- Put the status token at the head of the recovery handler's lowest channel, taking the slot's credit, and start the handler
(R231). -/
def Lease.deliverStatus (L : Lease) (r : Region) (t : Token) : Lease :=
  match L.pe? r.dx r.dy with
  | none => L
  | some pe =>
    let h := ((pe.cfg L.plane).handlers[r.handler]?).getD 0
    let ch := ((List.range 8).find? (fun i => (hChmask h).testBit i)).getD 0
    let pay := fun (q : PE) => { q with outs := Vector.ofFn (fun o =>
      let e := q.outEnd o.val
      if L.consumer L.plane q.dx q.dy o.val = some (r.dx, r.dy, ch) then { e with credits := e.credits - 1 } else e) }
    { L with pes := L.pes.map pay }.modPE r.dx r.dy (fun q => { q with
      ins := q.ins.setIfInBounds ch ⟨[t], 0⟩
      inst := some (Instance.start r.handler false) })

/-- Whether the recovery handler's entry is empty (R231). -/
def Lease.noHandler (L : Lease) (r : Region) : Bool :=
  match L.pe? r.dx r.dy with
  | some pe => !hValid (((pe.cfg r.plane).handlers[r.handler]?).getD 0)
  | none => true

/-- The unwind has ended: held traps are applied, HOLD is as its other reasons have it (R230 step 5, R232). -/
def State.endUnwind (s : State) (lease : Nat) : State :=
  let held := ((s.lease? lease).map Lease.heldTraps).getD []
  let s1 := s.modLease lease (fun L => { L with unwind := none, stopIssue := false, heldTraps := [] })
  ((s1.setHolds lease).progress lease).putBack held

/-- Steps 3 to 5 of an unwind: the lease is emptied, a REDO region undone, the patterns rewound, and the recovery handler
started; if there is none the ERR is trapped, and HANDLER_EMPTY with it. Traps of other causes stay held till step 5 has ended
(R230 to R232). -/
def State.unwindLease (s : State) (L : Lease) (r : Region) (u : Unwind) : State :=
  let first := s.firstInv L r
  let free := fun (p : Port) => ((s.patsOf p).filter (fun x => !patInput x.2.1 && patDir x.2.1 ≠ 1)).map Prod.fst
  let mine := fun (p : Port) => match p.owner with
    | .mu site => decide (site.lease = L.id)
    | .engine _ _ _ => false
  let fetching := (s.leasePorts L.id).flatMap (fun p =>
    ((List.range 8).filter (fun k => (p.fs k).st = .fetching)).map (fun k => (p.id, k)))
  let s1 := fetching.foldl (fun (s : State) x => s.unpin x.1 x.2) ((s.forgetSlots L.id).applyUndo L.id)
  let s2 : State := { s1 with ports := updWhere mine (fun p => p.unwound r (free p) first) s1.ports }
  let held := L.heldTraps.filter (fun t => !t.absorbed first)
  let s3 := s2.modLease L.id (fun L =>
    let L1 := { L with
      inv := first
      ctrl := L.ctrl.map CtrlMsg.orphan
      baton := none
      move := L.move.map (fun m => { m with step := 0 })
      heldTraps := held
      region := L.region.map (fun r => { r with retried := true })
      unwind := some { u with step := 5 }
      pes := L.pes.map (fun p => p.emptied L.plane first) }
    if L.noHandler r then L1
    else { (L1.toPlane r.plane).deliverStatus r (statusToken r u.err first) with stopIssue := false })
  if L.noHandler r then
    let s4 := s3.endUnwind L.id
    (s4.raiseErr L.id u.err).raiseErr L.id (errWord cHandlerEmpty r.dx r.dy r.plane 127 first false)
  else s3.toPlane L r.plane first

/-- Whether the recovery instance of an unwind still runs. -/
def Lease.recovering (L : Lease) (r : Region) : Bool :=
  match L.pe? r.dx r.dy with
  | some pe => match pe.inst with
    | some i => i.entry = r.handler
    | none => false
  | none => false

/-- CONTAINMENT_UNWIND (R230 to R233): once the ports are settled and the systolic regions drained, steps 3 to 5; and at the
end of the recovery handler's instance, HOLD is released. -/
def execContainmentUnwind (s : State) : Host.Outcome State Fault Refusal :=
  match s.lease? s.focus.site.lease with
  | none => .next s
  | some L =>
    match L.unwind, L.region with
    | some u, some r =>
      if s.fabricStopped || s.uncoreStopped || L.parked.isSome then .next s
      else if u.step < 5 then
        (if s.portsSettled L.id && !s.sysMoves L then .next ((s.unwindLease L r u).progress L.id) else .next s)
      else if L.recovering r then .next s
      else .next (s.endUnwind L.id)
    | _, _ => .next s

/-- Whether a write of an invocation of a region is not yet acknowledged (R227). -/
def Port.holdsCommit (p : Port) (r : Region) : Bool :=
  p.queue.any (fun q => q.op.writes && r.holds (q.inv % 65536)) || p.sideLog.any (fun e => r.holds (e.req.inv % 65536))

/-- REGION_COMMIT (R227, R228): the EOI of the region's last invocation has been processed everywhere and its writes are
acknowledged: the region is gone and its undo logs are cleared. -/
def execRegionCommit (s : State) : Host.Outcome State Fault Refusal :=
  match s.lease? s.focus.site.lease with
  | none => .next s
  | some L =>
    match L.region with
    | none => .next s
    | some r =>
      match r.last with
      | none => .next s
      | some j =>
        if L.unwind.isSome || s.sinkInv L ≤ j || (s.leasePorts L.id).any (fun p => p.holdsCommit r) then .next s
        else
          let s1 := s.modLease L.id (fun L => { L with region := none })
          .next { s1 with
            ports := updWhere (fun p => match p.owner with
                | .mu site => decide (site.lease = L.id)
                | .engine _ _ _ => false) (fun p => { p with undo := [] }) s1.ports }

end Sys2Proof.Machine
end

