-- ==== Sys2Proof/Machine/StartList.lean ====
section
/-! DEFINITION. Start lists: doorbells, SLCTL commands, the reading and checking of packets, and the completion of packets
(R52 to R56, R58, R59, R62 to R65, R388). -/

namespace Sys2Proof.Machine

open Sys2Proof

/-! ### Doorbells and the life of a start list (R55, R63 to R65) -/

/-- A value is written to SLTAIL: one that overruns SIZE is not accepted and faults the start list; a destroyed or absent list
ignores it (R55, R64). -/
def State.writeTail (s : State) (slot : Nat) (tail : BitVec 32) : State :=
  match s.sl? slot with
  | none => s
  | some l =>
    if l.st = .destroyed then s
    else if (tail - l.head).toNat > l.size then s.slFault slot 3
    else s.modSl slot (fun l => { l with tail := tail, retryAt := if l.held.isSome then l.retryAt else none })

/-- An ACTIVE start list stops reading packets (R64). -/
def State.stopSl (s : State) (slot : Nat) : State :=
  s.modSl slot (fun l => if l.st = .active then { l with st := .stopping } else l)

/-- A STOPPED or FAULTED start list is ACTIVE again (R64). -/
def State.startSl (s : State) (slot : Nat) : State :=
  s.modSl slot (fun l =>
    if l.st = .stopped || l.st = .faulted then
      { l with st := .active, fcause := if l.st = .faulted then 0 else l.fcause, retryAt := none }
    else l)

/-- How many completion entries the host has consumed (R63). -/
def State.writeChead (s : State) (slot : Nat) (v : BitVec 32) : State := s.modSl slot (fun l => { l with chead := v })

/-- DOORBELL (R55, R64): a write to SLTAIL. -/
def execDoorbell (slot : Nat) (tail : BitVec 32) (s : State) : Host.Outcome State Fault Refusal := .next (s.writeTail slot tail)

/-- SLCHEAD (R63): a write to SLCHEAD. -/
def execSlchead (slot : Nat) (v : BitVec 32) (s : State) : Host.Outcome State Fault Refusal := .next (s.writeChead slot v)

/-- STOP (R64): an ACTIVE start list begins no new packet read. -/
def execStop (slot : Nat) (s : State) : Host.Outcome State Fault Refusal := .next (s.stopSl slot)

/-- START (R64): a STOPPED or FAULTED start list is ACTIVE again, and reading resumes at HEAD. -/
def execStart (slot : Nat) (s : State) : Host.Outcome State Fault Refusal := .next (s.startSl slot)

/-- The report of a node that a DESTROY with FORCE keeps from entering (R60, R65). -/
def killedNode (x : Nat × BitVec 1024) : Report :=
  let hd := pktField x.2 0 8
  ⟨bitsOf hd 32 32, 1, x.1, hd.testBit 8, hd.testBit 9, hd.testBit 10, bitsOf hd 16 11, 4, 0xFFFFFFFC⟩

/-- The admitted work of a start list is killed, and its nodes that have not entered complete as KILLED (R65). -/
def State.forceSl (s : State) (slot : Nat) (nodes : List (Nat × BitVec 1024)) : State :=
  let s2 := nodes.foldl (fun (s : State) x =>
    (s.report slot (killedNode x)).modSl slot (fun l => { l with
      nodes := l.nodes.drop 1
      pending := l.pending.map (fun p => if p.n = x.1 && p.kind = 3 then
        { p with nodesLeft := p.nodesLeft - 1, status := if p.nodesLeft ≤ 1 then some (0, 0) else p.status } else p) })) s
  let ts := s2.tasks.filter (fun t => t.slid = slot)
  (ts.foldl (fun (s : State) t => s.forceTask t 0xFFFFFFFC) s2).sweepSl slot

/-- A start list is destroyed: reading stops, what is held is discarded; with FORCE its admitted tasks are killed, and nodes
that have not entered complete as KILLED (R65, R388). A device launch whose SLID names the start list is work of it like any
other (R73). The record of a REPLAY packet whose last nodes this kills reports DONE, as that packet does when its nodes have
completed: R65 names the status of a task's record only (DESIGN CHOICE, assumption 68). -/
def State.destroySl (s : State) (slot : Nat) (force : Bool) : State :=
  match s.sl? slot with
  | none => s
  | some l =>
    if l.st = .destroyed then s
    else
      let s1 := s.modSl slot (fun l => { l with st := .destroyed, held := none, retryAt := none, force := force })
      if force then s1.forceSl slot l.nodes else s1.sweepSl slot

/-- Step 1 of CTX_DESTROY on a start list: it is destroyed as by DESTROY with FORCE, one that a DESTROY without FORCE has destroyed
already included (R65, R389). -/
def State.endSl (s : State) (slot : Nat) : State :=
  match s.sl? slot with
  | none => s
  | some l =>
    if l.st = .destroyed && !l.force then (s.modSl slot (fun l => { l with force := true })).forceSl slot l.nodes
    else s.destroySl slot true

/-- DESTROY (R65): admitted work runs on, then the slot is freed. -/
def execDestroy (slot : Nat) (s : State) : Host.Outcome State Fault Refusal := .next (s.destroySl slot false)

/-- DESTROY_FORCE (R65): admitted work is killed, then the slot is freed. -/
def execDestroyForce (slot : Nat) (s : State) : Host.Outcome State Fault Refusal := .next (s.destroySl slot true)

/-! ### Reading a packet (R54, R55) -/

/-- Whether the CD runs: the package is in RUN and its uncore clock is not stopped. -/
def State.cdRuns (s : State) : Bool := s.power = .run && !s.uncoreStopped

/-- The stamp of packet n (R54). -/
def stampOf (n : Nat) : Nat := n % 0xFFFFFFFF + 1

/-- KIND of a packet. -/
def pktKind (b : BitVec 1024) : Nat := pktField b 0 1

/-- Read the packet that HEAD stands on: a read that faults faults the start list, and where a stamp differs nothing is taken
and the packet is read again after 1,000 ticks (R54, R55, R64). -/
def State.fetchPacket (s : State) (l : StartList) : Option (BitVec 1024) × State :=
  match s.cdRead l.tid (wrapN 57 ((l.ring + 128 * (l.nextN % l.size) : Nat) : Int)) 128 true with
  | (.error _, s1) => (none, (s1.modSl l.slot (fun l => { l with held := none })).slFault l.slot 1)
  | (.ok bs, s1) =>
    let b : BitVec 1024 := BitVec.ofNat 1024 (ofBytes bs)
    if pktField b 60 4 = stampOf l.nextN && pktField b 124 4 = stampOf l.nextN then (some b, s1)
    else (none, s1.modSl l.slot (fun l => { l with held := none, retryAt := some (s.ticks + 1000) }))

/-! ### The check of a packet (R56 to R58) -/

/-- Whether the fields of a packet that is no LAUNCH lie within their limits and its reserved bits are zero; in PATCH, bytes 32
to 59 and 64 to 123 are not reserved (R56, R58). -/
def packetOk (b : BitVec 1024) : Bool :=
  let hd := pktField b 0 8
  let x := pktField b 8 8
  let y := pktField b 16 8
  let z := pktField b 24 8
  let rest := pktField b 32 28 = 0 && pktField b 64 60 = 0
  let va := fun (v : Nat) => decide (v < 2 ^ 57)
  let off := bitsOf x 32 7
  let len := bitsOf x 40 6 + 1
  bitsOf hd 11 5 = 0 && bitsOf hd 27 5 = 0 && (match hd % 256 with
    | 0 | 8 => x = 0 && y = 0 && z = 0 && rest
    | 2 => va x && y % 64 + bitsOf y 16 10 * 2 ^ 16 = y && z = 0 && rest
    | 3 => x < 64 && y = 0 && z = 0 && rest
    | 4 => x % 64 + bitsOf x 16 10 * 2 ^ 16 + off * 2 ^ 32 + (len - 1) * 2 ^ 40 = x && y = 0 && z = 0
        && 8 ≤ off && off + len ≤ 124 && len ≤ 56
    | 5 => va x && x % 8 = 0 && z < 2 && rest
    | 6 => va x && x % 8 = 0 && z < 3 && rest
    | 7 => va x && va y && 0 < z && z < 2 ^ 40 && rest
    | 9 => va x && x % 65536 = 0 && y < 2 ^ 32 && z < 2 ^ 25 && rest
    | _ => false)

/-- The refusal of a consumed packet: its record's STATUS and the start list's FCAUSE (R56). -/
def packetRefusal (b : BitVec 1024) (fn : Nat) : Option (Nat × Nat) :=
  if !(if pktKind b = 1 then launchOk b && pktField b 120 4 = 0 else packetOk b) then some (1, 4)
  else if pktKind b = 9 && fn ≠ 0 then some (7, 5)
  else none

/-- What a packet reports, with a status and detail. -/
def pktReport (b : BitVec 1024) (n status detail : Nat) : Report :=
  let hd := pktField b 0 8
  ⟨bitsOf hd 32 32, hd % 256, n, hd.testBit 8, hd.testBit 9, hd.testBit 10, bitsOf hd 16 11, status, detail⟩

/-- HEAD moves past a packet. -/
def StartList.passPacket (l : StartList) : StartList :=
  { l with head := l.head + 1, nextN := l.nextN + 1, held := none, retryAt := none }

/-- A refused packet: its record is written whatever CREC says, the start list is FAULTED, and HEAD advances (R55, R56). -/
def State.refusePacket (s : State) (l : StartList) (b : BitVec 1024) (r : Nat × Nat) : State :=
  ((s.slFault l.slot r.2).putCompletion l (pktReport b l.nextN r.1 0)).modSl l.slot StartList.passPacket

/-- Consume the packet that HEAD stands on: it is refused, or held (R55). -/
def State.consumePacket (s : State) (l : StartList) : State :=
  match s.fetchPacket l with
  | (none, s1) => s1
  | (some b, s1) =>
    match packetRefusal b l.fn with
    | some r => s1.refusePacket l b r
    | none => s1.modSl l.slot (fun l => { l with held := some ⟨l.nextN, b⟩, retryAt := none })

/-- A STOPPING start list whose read has ended is STOPPED; a packet that it holds stays held and unadmitted (R64). A read is one
step here, so that a STOP never falls within one. -/
def StartList.settle (l : StartList) : StartList := if l.st = .stopping then { l with st := .stopped } else l

/-- PACKET_READ (R55, R64): an ACTIVE start list with a packet to read consumes it or takes nothing; a STOPPING one becomes
STOPPED. -/
def execPacketRead (s : State) : Host.Outcome State Fault Refusal :=
  match s.sl? s.focus.slot with
  | none => .next s
  | some l =>
    if l.st = .stopping then .next (s.modSl l.slot StartList.settle)
    else if !s.cdRuns || l.st ≠ .active || l.head = l.tail || l.held.isSome || l.retryAt.isSome then .next s
    else .next (s.consumePacket l)

/-- PACKET_STAMP_RETRY (R55): 1,000 ticks after a stamp mismatch, an ACTIVE start list reads the packet again. -/
def execPacketStampRetry (s : State) : Host.Outcome State Fault Refusal :=
  match s.sl? s.focus.slot with
  | none => .next s
  | some l =>
    if !s.cdRuns || l.st ≠ .active || l.head = l.tail || l.held.isSome || !l.retryAt.any (fun t => decide (t ≤ s.ticks)) then .next s
    else .next (s.consumePacket l)

/-! ### The completion of a packet (R59, R62) -/

/-- PACKET_COMPLETION (R59, R62): an admitted packet that is complete, and is no task, has its completion actions performed in
order: record, semaphore, message. -/
def execPacketCompletion (s : State) : Host.Outcome State Fault Refusal :=
  match s.sl? s.focus.slot with
  | none => .next s
  | some l =>
    match l.pending.find? (fun p => p.n = s.focus.req) with
    | none => .next s
    | some p =>
      match p.status with
      | none => .next s
      | some (status, detail) =>
        if !s.cdRuns then .next s
        else
          let s1 := s.modSl l.slot (fun l => { l with pending := l.pending.filter (fun q => q.n ≠ p.n) })
          .next ((s1.report l.slot ⟨p.tag, p.kind, p.n, p.crec, p.csem, p.cmsi, p.vec, status, detail⟩).sweepSl l.slot)

end Sys2Proof.Machine
end

