-- ==== Sys2Proof/Machine/Load.lean ====
section
/-! DEFINITION. Loading an image into the sites of a lease (R120, R141, R148, R149, R155, R242 to R249). -/

namespace Sys2Proof.Machine

open Sys2Proof

/-- The frame kind of a site's PE (R240). -/
def PEKind.frame : PEKind → Nat
  | .cu => 0
  | .mu => 1
  | .ag => 3

/-- The instruction slots of a PE in a plane (R245). -/
def imageStore (image : Image) (kind : PEKind) (dx dy plane : Nat) : Vector IWord 128 :=
  let fr := (List.range 32).map (fun w => imageFrame image kind.frame dx dy plane w)
  Vector.ofFn (fun i => BitVec.ofNat 56 (bitsOf (nth fr (i.val / 4) 0) (56 * (i.val % 4)) 56))

/-- The handler entries of a PE in a plane (R245). -/
def imageHandlers (image : Image) (kind : PEKind) (dx dy plane : Nat) : Vector (BitVec 32) 16 :=
  Vector.ofFn (fun i => BitVec.ofNat 32 (bitsOf (imageFrame image kind.frame dx dy plane (32 + i.val / 4)) (32 * (i.val % 4)) 32))

/-- A pattern descriptor (R247). -/
def imagePat (image : Image) (dx dy plane q : Nat) : BitVec 384 :=
  BitVec.ofNat 384 (imageFrame image 3 dx dy plane (48 + 2 * q) + imageFrame image 3 dx dy plane (49 + 2 * q) % 2 ^ 160 * 2 ^ 224)

/-- Whether COUNTq is taken from an argument (R154). -/
def patCarg (d : BitVec 384) (q : Nat) : Bool := d.toNat.testBit (303 + q)

/-- An argument word of a launch; a word it does not have is never named (R247). -/
def argOf (args : List Word) (i : Nat) : Nat := (args.getD i 0).toNat

/-- A pattern with the launch's arguments applied (R155). -/
def patArgs (d : BitVec 384) (args : List Word) : BitVec 384 :=
  let w := patField d 296 6
  let d1 := if d.toNat.testBit 302 then setField d 224 57 ((patBase d + argOf args w) % 2 ^ 57) else d
  (List.range 4).foldl (fun x q =>
    if patCarg d q then setField x (128 + 24 * q) 24 (min (argOf args (w + 1 + q)) (2 ^ 24) - 1) else x) d1

/-- Whether a pattern took a count of 0 from an argument, so that it issues nothing (R155). -/
def patIsZero (d : BitVec 384) (args : List Word) : Bool :=
  (List.range 4).any (fun q => patCarg d q && argOf args (patField d 296 6 + 1 + q) = 0)

/-- The configuration of a PE in a plane at load (R120, R123, R128, R141, R154, R157, R242). -/
def PlaneCfg.ofImage (image : Image) (args : List Word) (fwid : BitVec 16) (kind : PEKind) (dx dy plane : Nat) : PlaneCfg :=
  let f := fun w => imageFrame image kind.frame dx dy plane w
  let pat := fun q => if kind = .ag then imagePat image dx dy plane q else 0
  { fwid := fwid
    store := imageStore image kind dx dy plane
    handlers := imageHandlers image kind dx dy plane
    chcfg := BitVec.ofNat 64 (f 36)
    sysm := (f 36).testBit 64
    keep := Vector.ofFn (fun i => BitVec.ofNat 64 (bitsOf (f (40 + i.val / 2)) (64 * (i.val % 2)) 64))
    vkeep := Vector.replicate 8 VReg.load
    routes := Vector.ofFn (fun i => BitVec.ofNat 32 (bitsOf (imageFrame image 2 dx dy plane (i.val / 7)) (32 * (i.val % 7)) 32))
    pats := Vector.ofFn (fun q => patArgs (pat q.val) args)
    patZero := Vector.ofFn (fun q => patIsZero (pat q.val) args) }

/-- An accumulator tile at load: +0.0 with tag f32 (R141, R142). -/
def Tile.load : Tile := ⟨Vector.replicate 64 0, 10⟩

/-- A weight buffer at load (R141): scales of 1.0. -/
def WBuf.load : WBuf := ⟨Vector.replicate 32 0, 19, false, 0, BitVec.ofNat 1024 (packDigits 8 (List.replicate 128 0x7F))⟩

/-- The CU state at load (R141). -/
def Cu.load : Cu where
  tiles := Vector.replicate 4 Tile.load
  wbuf := Vector.replicate 2 WBuf.load
  wact := false
  decayg := 0x3F800000
  flg := 0
  batches := []
  batchNo := 0
  wswap := none
  acts := []
  chain := []
  array := []

/-- The scratchpad at load: the constants in image order, zero elsewhere (R249). -/
def imageScratch (image : Image) (dx dy : Nat) : List Host.Cell :=
  (image.filter (fun f => (frameHead f).kind = 5 && (frameHead f).dx = dx && (frameHead f).dy = dy)).foldl (fun m f =>
    let p := framePay f
    memPutList m (bitsOf p 200 18) (toBytes (bitsOf p 192 8) p)) []

/-- The MU state at load (R148, R149, R246, R249). -/
def Mu.ofImage (image : Image) (dx dy : Nat) : Mu where
  sp := imageScratch image dx dy
  bad := []
  cbs := Vector.ofFn (fun i =>
    let p := imageFrame image 1 dx dy 0 (48 + i.val)
    Cbd.ofWords (BitVec.ofNat 64 p) (BitVec.ofNat 64 (bitsOf p 64 64)))

/-- A processing element as an image loads it: empty channels with every credit at the producer (R129, R241). -/
def PE.ofImage (image : Image) (args : List Word) (fwid : BitVec 16) (kind : PEKind) (dx dy : Nat) : PE :=
  let planes := Vector.ofFn (fun p => PlaneCfg.ofImage image args fwid kind dx dy p.val)
  { dx := dx
    dy := dy
    kind := kind
    planes := planes
    ins := Vector.replicate 8 ⟨[], 0⟩
    outs := Vector.ofFn (fun i => ⟨[], chDepth (planes[0].outVec i.val)⟩)
    inv := 0
    loopOcc := 0
    rr := Vector.replicate 4 15
    declined := []
    inst := none
    eoiRan := false
    batonDone := false
    cmdNo := 0
    cmdsOpen := []
    cu := Cu.load
    mu := if kind = .mu then Mu.ofImage image dx dy else ⟨[], [], Vector.replicate 16 (Cbd.ofWords 0 0)⟩ }

/-- The PEs of a rectangle at package coordinates (x, y), rows first, under a firewall id (R157). -/
def loadSites (image : Image) (args : List Word) (fwid : BitVec 16) (x y w h : Nat) : List PE :=
  (List.range h).flatMap (fun dy => (List.range w).map (fun dx => PE.ofImage image args fwid (kindAt (x + dx) (y + dy)) dx dy))

/-- A lease as the placer grants it, in P0 and at invocation 0 (R119, R120, R121). -/
def Lease.grant (id tid die entry x y w h : Nat) (firmware : Bool) (image : Image) (args : List Word) : Lease where
  id := id
  tid := tid
  die := die
  entry := entry
  x := x
  y := y
  w := w
  h := h
  heldPrio := 0
  firmware := firmware
  image := image
  args := args
  plane := 0
  pend := none
  later := []
  inv := 0
  retireAt := none
  stopIssue := false
  parked := none
  ctrl := []
  region := none
  unwind := none
  heldTraps := []
  move := none
  baton := none
  batonNo := 0
  lastMove := 0
  stall := 0
  stalled := false
  cyc := 0
  pes := loadSites image args (BitVec.ofNat 16 id) x y w h

/-- The PGRP of an MU's port (R246). -/
def imagePgrp (image : Image) (dx dy : Nat) : Nat := imageFrame image 1 dx dy 0 64 % 4

/-- Whether the port of the MU at a site is an input stream port: its paired AG runs an INPUT pattern in some plane
(R151). -/
def Lease.isInput (L : Lease) (dx dy : Nat) : Bool :=
  match L.pe? (dx + 1) dy with
  | some ag => ag.kind = .ag && ag.planes.toList.any (fun c => c.pats.toList.any (fun d => patOn d && patInput d))
  | none => false

end Sys2Proof.Machine
end

