-- ==== Sys2Proof/Machine/Validate.lean ====
section
/-! DEFINITION. The validation of an image before it is loaded: the frame checks and the whole-image checks (R81, R123, R128,
R145, R154, R157, R240 to R250, R257 to R261, R264, R277 to R279, R323, R324, R327, R330 to R332). -/

namespace Sys2Proof.Machine

open Sys2Proof

/-! ### Pass 1: each frame alone (R259) -/

/-- PMASK of an image's header. -/
def imagePmask (image : Image) : Nat := bitsOf (imageHeader image) 160 4

/-- NFRAMES of a first frame (R243). -/
def frameCount (f : BitVec 256) : Nat := bitsOf (framePay f) 128 32

/-- The kind of a site of an image (R264). -/
def imageKind (image : Image) (dx dy : Nat) : PEKind := kindAt (imageParity image % 2 + dx) (imageParity image / 2 + dy)

/-- Whether a word index is assigned to a frame kind, and then whether it stands in plane 0 only (R242). -/
def wordRule (kind word : Nat) : Option Bool :=
  match kind with
  | 0 => if word ≤ 36 || (40 ≤ word && word ≤ 47) then some false else none
  | 1 => if word ≤ 36 || (40 ≤ word && word ≤ 47) then some false else if 48 ≤ word && word ≤ 64 then some true else none
  | 2 => if word ≤ 4 then some false else none
  | 3 => if word ≤ 36 || (40 ≤ word && word ≤ 55) then some false else none
  | 4 => if word ≤ 2 then some true else if 16 ≤ word && word ≤ 31 then some false else none
  | 5 => some false
  | 6 => if word = 0 then some false else if word ≤ 15 || word = 255 then some true else none
  | _ => none

/-- Whether a first frame is no image header that counts frames (R241, R243). -/
def firstBad (f : BitVec 256) : Bool :=
  frameHead f ≠ ⟨4, 0, 0, 0, 0, 0⟩ || bitsOf (framePay f) 192 32 ≠ 0x314C4941 || bitsOf (framePay f) 184 8 ≠ 1 || frameCount f = 0

/-- Whether a frame fails FRAMEKIND, apart from a repeated key (R240 to R243). -/
def frameKindBad (image : Image) (f : BitVec 256) : Bool :=
  let h := frameHead f
  h.zero ≠ 0
    || (match wordRule h.kind h.word with
        | none => true
        | some p0 => p0 && h.plane ≠ 0)
    || ((h.kind = 4 || (h.kind = 6 && h.word = 255)) && (h.dx ≠ 0 || h.dy ≠ 0))
    || (h.kind ≠ 5 && !(imagePmask image).testBit h.plane)
    || (h.kind = 4 && h.word = 0 && firstBad f)

/-- Whether a frame stands at a site that the image does not have, or of another kind (R259). -/
def frameSiteBad (image : Image) (f : BitVec 256) : Bool :=
  let h := frameHead f
  let k := (imageKind image h.dx h.dy).frame
  h.dx ≥ imageW image || h.dy ≥ imageH image || ((h.kind = 0 || h.kind = 1 || h.kind = 3) && h.kind ≠ k)
    || (h.kind = 5 && k ≠ 1)

/-- The faults of a circular-buffer descriptor frame (R149, R246). -/
def cbFaults (p : Nat) : List Nat :=
  let free := bitsOf p 51 13
  let filled := bitsOf p 38 13
  let slots := bitsOf p 12 12
  let size := bitsOf p 24 12
  let base := bitsOf p 0 12
  failIf (bitsOf p 128 96 ≠ 0 || bitsOf p 36 2 ≠ 0 || bitsOf p 102 26 ≠ 0) 6
    ++ (if !p.testBit 88 then failIf (p ≠ 0) 6
        else failIf (bitsOf p 89 13 ≠ 0 || filled + free ≠ slots + 1) 6
          ++ failIf (64 * (base + (slots + 1) * (size + 1)) > 2 ^ 18) 3)

/-- The faults of a pattern descriptor (R154, R247). -/
def patFaults (d : BitVec 384) (nargw : Nat) : List Nat :=
  if !patOn d then failIf (d ≠ 0) 6
  else
    let w := patField d 296 6
    failIf (patField d 307 77 ≠ 0 || patField d 294 2 ≠ 0 || patEoil d ≥ 4 || (!patInput d && patEoil d ≠ 0)
      || patDir d = 3 || patEsize d = 7 || (patDir d = 2 && patEsize d ≠ 6) || (d.toNat.testBit 302 && w ≥ nargw)
      || (List.range 4).any (fun q => patCarg d q && w + 1 + q ≥ nargw)) 6

/-- The faults of the payload of a processing element's frame (R123, R128, R245 to R247). A fault of a pattern descriptor is one of
the frame that holds the bits at fault: the first half's where its descriptor has ENABLE clear and it is not zero (R258,
assumption 71). -/
def peFrameFaults (image : Image) (firmware : Bool) (h : FrameHead) (p : Nat) : List Nat :=
  if h.word < 32 then
    (List.range 4).flatMap (fun i =>
      slotFaults (h.kind = 0) (h.kind = 1) (h.kind = 3) firmware (BitVec.ofNat 56 (bitsOf p (56 * i) 56)))
  else if h.word < 36 then
    failIf (bitsOf p 128 96 ≠ 0 || (List.range 4).any (fun i => bitsOf p (32 * i) 4 ≠ 0)) 6
  else if h.word = 36 then
    failIf (bitsOf p 65 159 ≠ 0 || bitsOf p 48 16 ≠ 0 || (p.testBit 64 && h.kind ≠ 0)
      || (List.range 8).any (fun i => (p.testBit (16 + i) && !p.testBit (24 + i)) || (p.testBit i && !p.testBit (8 + i)))) 6
  else if h.word < 48 then failIf (bitsOf p 128 96 ≠ 0) 6
  else if h.kind = 1 then (if h.word = 64 then failIf (p / 4 ≠ 0) 6 else cbFaults p)
  else if h.word % 2 = 0 then failIf (!patOn (imagePat image h.dx h.dy h.plane ((h.word - 48) / 2)) && p ≠ 0) 6
  else failIf (bitsOf p 160 64 ≠ 0) 6 ++ patFaults (BitVec.ofNat 384 (bitsOf p 0 160 * 2 ^ 224)) (imageArgs image)

/-- The faults of a switch frame (R157, R248). -/
def swFrameFaults (h : FrameHead) (p : Nat) : List Nat :=
  failIf ((List.range 7).any (fun i =>
    let e := bitsOf p (32 * i) 32
    (h.word = 4 && i ≥ 4 && e ≠ 0) || bitsOf e 0 14 ≠ 0 || bitsOf e 27 3 > 4 || bitsOf e 19 3 > 4)) 6

/-- Whether bytes of a name are nonzero after its first zero byte, which may stand before them (R244). -/
def nameBad (ended : Bool) (bs : List Byte) : Bool := (if ended then bs else bs.dropWhile (fun b => b ≠ 0)).any (fun b => b ≠ 0)

/-- The faults of the header, name and region frames, each for the bytes it holds (R243, R244, R258, assumption 71). -/
def headFrameFaults (image : Image) (h : FrameHead) (p : Nat) : List Nat :=
  if h.word = 0 then failIf (p.testBit 164 || bitsOf p 0 120 ≠ 0 || imageArgs image > 64) 6
  else if h.word < 3 then
    failIf (nameBad (h.word = 2 && (toBytes 28 (imageFrame image 4 0 0 0 1)).contains 0) (toBytes 28 p)) 6
  else failIf (bitsOf p 0 200 ≠ 0) 6

/-- The faults of a constants frame (R249). -/
def constFaults (p : Nat) : List Nat :=
  let len := bitsOf p 192 8
  failIf (bitsOf p 218 6 ≠ 0 || len = 0 || len > 24 || bitsOf p 0 192 / 2 ^ (8 * len) ≠ 0) 6
    ++ failIf (bitsOf p 200 18 + len > 2 ^ 18) 3

/-- The faults of a kind 6 frame (R250). -/
def carryFaults (image : Image) (h : FrameHead) (p : Nat) : List Nat :=
  let k := imageKind image h.dx h.dy
  if h.word = 0 then
    let shared := bitsOf p 178 22
    failIf (bitsOf p 0 178 ≠ 0 || (h.plane ≠ 0 && shared ≠ 0)) 6
      ++ failIf ((k ≠ .cu && (bitsOf p 200 8 ≠ 0 || bitsOf p 194 6 ≠ 0)) || (k ≠ .mu && bitsOf p 178 16 ≠ 0)) 12
  else if h.word = 255 then failIf (bitsOf p 0 159 ≠ 0 || (p.testBit 223 && bitsOf p 159 32 = 0)) 6
  else
    let es := (List.range 4).map (fun i => bitsOf p (48 * i) 48)
    failIf (bitsOf p 192 32 ≠ 0 || es.any (fun e => bitsOf e 37 11 ≠ 0)) 6
      ++ failIf (es.any (fun e => bitsOf e 18 19 ≠ 0
        && (k ≠ .mu || bitsOf e 0 18 % 64 ≠ 0 || bitsOf e 18 19 % 64 ≠ 0 || bitsOf e 0 18 + bitsOf e 18 19 > 2 ^ 18))) 12

/-- The statuses that a frame fails, its key apart (R259). -/
def frameFaults (image : Image) (firmware : Bool) (f : BitVec 256) : List Nat :=
  let h := frameHead f
  let p := framePay f
  failIf (frameKindBad image f) 2 ++ failIf (frameSiteBad image f) 3 ++
  match h.kind with
  | 0 | 1 | 3 => peFrameFaults image firmware h p
  | 2 => swFrameFaults h p
  | 4 => headFrameFaults image h p
  | 5 => constFaults p
  | _ => carryFaults image h p

/-- Pass 1: the lowest status of the first frame with a fault, a repeated key being FRAMEKIND (R258). -/
def pass1 (image : Image) (firmware : Bool) : Option Nat :=
  (List.range image.length).findSome? (fun i =>
    let f := image.getD i 0
    let again := (image.take i).any (fun g => decide (frameHead g = frameHead f))
    minN? (failIf again 2 ++ frameFaults image firmware f))

/-! ### Pass 2: the image as a whole (R260) -/

/-- A lease that an image would make at the lowest origin of its class. -/
def imageLease (image : Image) : Lease :=
  Lease.grant 0 0 0 0 (imageParity image % 2) (imageParity image / 2) (imageW image) (imageH image) false image []

/-- The instruction in a slot of a plane. -/
def PlaneCfg.instr? (c : PlaneCfg) (k : Nat) : Option Instr :=
  match decodeWord ((c.store[k]?).getD 0) with
  | .ok i => some i
  | .error _ => none

/-- Whether a slot holds a word other than the empty one. -/
def PlaneCfg.filled (c : PlaneCfg) (k : Nat) : Bool := (c.store[k]?).getD 0 ≠ 0

/-- The valid handler entries of a plane. -/
def PlaneCfg.entries (c : PlaneCfg) : List (BitVec 32) := c.handlers.toList.filter (fun h => h.toNat.testBit 31)

/-- The targets of a handler's slots: slot, which target, and its code. -/
def PlaneCfg.targets (c : PlaneCfg) (h : BitVec 32) : List (Nat × Bool × Nat) :=
  (hSlots h).flatMap (fun k => match c.instr? k with
    | some i => [(k, false, i.head.t0.toNat), (k, true, i.head.t1.toNat)]
    | none => [])

/-- Whether an instruction sends the token it takes in L, or in L and R, on unchanged in class (R274, R317). -/
def insMoves (i : Instr) : List Nat :=
  match i with
  | .mov _ | .steer _ | .gate _ | .kwrite _ => [0]
  | .merge _ | .sel _ => [0, 1]
  | .vtagset f => if f.body.fn.testBit 4 then [] else [0]
  | _ => []

/-- Whether the result that an instruction sends to a target is a vector, for one that moves no token (R276, R304, R312, R318,
R337). -/
def insVec (i : Instr) (second : Bool) : Bool :=
  match i with
  | .vcmp _ | .vextr _ | .vredadd _ | .vredmax _ | .vredmin _ | .vpopc _ | .vtagq _ => false
  | .vcompress _ | .aspill _ => !second
  | .adrain _ | .ldv _ => true
  | .ldro f => f.idx.toNat.testBit 0
  | .lds f => f.idx.toNat.testBit 0 && !f.idx.toNat.testBit 1
  | _ => match i.row with
    | .a _ r => match encode i with
      | some w => decide (0x60 ≤ (w.extractLsb' 48 8).toNat) && r.units = .cuOnly
      | none => false
    | _ => false

/-- Whether RECV or PEEK of a channel brings a vector: in the EOI handler the marker of a channel that is not loop-carried is a
scalar (R277). -/
def PlaneCfg.recvVec (c : PlaneCfg) (h : BitVec 32) (ch : Nat) : Bool := (bitsOf h.toNat 26 2 ≠ 2 || c.inLC ch) && c.inVec ch

/-- The classes that a slot's results have, as (slot, whether it is the second target, whether a vector), given those known so far:
that of a channel, that of the instruction's result, or those of the producers of every operand it may move (R260, R274). -/
def PlaneCfg.slotClasses (c : PlaneCfg) (h : BitVec 32) (known : List (Nat × Bool × Bool)) (k : Nat) : List (Nat × Bool × Bool) :=
  match c.instr? k with
  | none => []
  | some i => [false, true].flatMap (fun second =>
      match i with
      | .recv f | .peek f => [(k, second, c.recvVec h (match f.body with
          | .regs ch _ _ => ch.toNat
          | .imm _ => 0))]
      | _ =>
        if insMoves i = [] then [(k, second, insVec i second)]
        else (insMoves i).flatMap (fun pos => ((c.targets h).filter (fun t => t.2.2 = 128 * pos + k)).flatMap (fun t =>
          (known.filter (fun x => x.1 = t.1 && x.2.1 = t.2.1)).map (fun x => (k, second, x.2.2)))))

/-- The classes of the results of a handler's slots, after as many rounds as it has slots (R260, R274). -/
def PlaneCfg.classes (c : PlaneCfg) (h : BitVec 32) : Nat → List (Nat × Bool × Bool)
  | 0 => []
  | n + 1 => ((hSlots h).flatMap (c.slotClasses h (c.classes h n))).dedup

/-- Whether an instruction names a trigger in L (R271). -/
def insTrigger (i : Instr) : Bool :=
  match i.row with
  | .a _ r => decide (r.uses = ⟨false, false, false⟩)
  | .d _ r => decide (r.uses = ⟨false, false, false⟩)
  | .m _ r => decide (r.uses = ⟨false, false, false⟩)
  | .x _ r => decide (r.uses = ⟨false, false, false⟩)
  | .event => false

/-- Whether an instruction uses an operand position that a target may name. -/
def insTakes (i : Instr) (pos : Nat) : Bool :=
  match pos with
  | 0 => i.uses.l || insTrigger i
  | 1 => i.uses.r
  | _ => i.uses.p

/-- CH of a format D word, and whether a CHSTAT or WAITC names an output. -/
def insChan (i : Instr) : Option (Nat × Bool) :=
  let d := fun (f : FmtD) (dir : Bool) => match f.body with
    | .regs ch _ n => some (ch.toNat, dir && n.toNat.testBit 14)
    | .imm _ => none
  match i with
  | .recv f | .peek f | .eoiq f => d f false
  | .waitc f | .chstat f => d f true
  | _ => none

/-- The target faults of one handler (R253, R260). -/
def handlerTargetsBad (c : PlaneCfg) (h : BitVec 32) : Bool :=
  let ts := c.targets h
  let slotTs := (ts.map (fun t => t.2.2)).filter (fun n => n < 384)
  let cls := c.classes h (hSlots h).length
  !slotTs.Nodup || ts.any (fun t =>
    if t.2.2 < 384 then
      let to_ := t.2.2 % 128
      to_ = t.1 || !hOwns h to_ || (match c.instr? to_ with
        | some i => !insTakes i (t.2.2 / 128)
        | none => true)
    else if t.2.2 < 392 then
      !c.outConn (t.2.2 - 384) || cls.any (fun x => x.1 = t.1 && x.2.1 = t.2.1 && x.2.2 ≠ c.outVec (t.2.2 - 384))
    else false)

/-- The inputs of a PE that are no pattern channels, nor row feeds of a region. -/
def Lease.plainIn (L : Lease) (plane : Nat) (pe : PE) (i : Nat) : Bool :=
  !L.inIsPattern plane pe i && !(i = 7 && L.sysLeft plane pe)

/-- The faults of a slot's instruction in its plane (R154, R277 to R279, R324, R327, R330). -/
def slotFaults2 (L : Lease) (plane : Nat) (pe : PE) (c : PlaneCfg) (k : Nat) : List Nat :=
  match c.instr? k with
  | none => []
  | some i =>
    let chBad := match insChan i with
      | some (ch, true) => !c.outConn ch
      | some (ch, false) => !c.inConn ch || L.inIsPattern plane pe ch
      | none => false
    let own := match i with
      | .emit f => failIf (match f.body with
          | .regs ch _ _ => !c.outConn ch.toNat
          | .imm _ => false) 7
      | .aspill f => failIf (match targetOut f.h.t0 with
          | some o => !c.outConn o || !c.outVec o
          | none => true) 7
      | .afill f => let n := f.idx1.toNat
        failIf (!c.inConn n || !c.inVec n || !L.plainIn plane pe n) 7
      | .macc f =>
        (match L.sysAt plane pe.dx pe.dy with
        | some (g, row, _) => failIf (row + 1 ≠ g.m || (f.mode = 0 && !c.outConn 7)) 3
        | none => [3])
      | .tfetch f => let d := (c.pats[f.idx0.toNat]?).getD 0
        failIf (!patOn d || patDir d ≠ 2 || patInput d) 6
      | _ => []
    failIf chBad 7 ++ own
      ++ failIf (pe.kind = .ag && pe.dx = 0 && (i.units = .agOnly || i.units = .muAg)) 3

/-- The faults of the handler entries of a site (R123, R260, R323). -/
def handlersFaults (L : Lease) (plane : Nat) (pe : PE) (c : PlaneCfg) : List Nat :=
  let hs := c.entries
  let conn := (List.range 8).filter c.inConn
  let named := fun (i : Nat) => hs.any (fun h => (hChmask h).testBit i)
  let eois := hs.filter (fun h => bitsOf h.toNat 26 2 = 2)
  let slots := hs.flatMap hSlots
  failIf (conn.any (fun i => !named i && L.plainIn plane pe i) || hs.any (fun h => hChmask h = 0) || eois.length > 1
      || eois.any (fun h => (List.range 8).any (fun i => (hChmask h).testBit i ≠ (c.inConn i && !c.inLC i)))
      || !slots.Nodup || (List.range 128).any (fun k => c.filled k && !slots.contains k)
      || (L.sysLeft plane pe && hs.any (fun h => bitsOf h.toNat 26 2 ≠ 2 && (hChmask h).testBit 7))) 10
    ++ failIf (hs.any (handlerTargetsBad c)) 7

/-- The faults of an AG's patterns (R154, R261, R331, R332). -/
def agFaults (L : Lease) (plane : Nat) (pe : PE) (c : PlaneCfg) : List Nat :=
  let ds := c.pats.toList.filter patOn
  let mu := ((L.pe? (pe.dx - 1) pe.dy).map (fun q => q.cfg plane))
  let out := fun (ch : Nat) => mu.any (fun m => m.outVec ch)
  let conn := fun (ch : Nat) => mu.any (fun m => m.outConn ch)
  failIf (pe.dx = 0 && !ds.isEmpty) 3
    ++ failIf (pe.dx ≠ 0 && ds.any (fun d => (patDir d = 0 && out (patChan d) ≠ decide (patEsize d ≥ 4))
        || (patDir d = 2 && !(out (patChan d) && conn (patChan d))))) 7
    ++ failIf (ds.any (fun d => patDir d = 2) && !(List.range 8).any c.inConn) 10

/-- Whether a site of a region's plane breaks R145 and R323: SYSM, feeds and emit channels. -/
def sysBad (L : Lease) (plane : Nat) (pe : PE) (c : PlaneCfg) : Bool :=
  match L.sysAt plane pe.dx pe.dy with
  | none => c.sysm
  | some (g, row, col) =>
    !c.sysm || (col = 0 && (!c.inConn 7 || !c.inVec 7)) || (row + 1 = g.m && c.outConn 7 && !c.outVec 7)

/-- A route entry read: class, source side and lane, destination side and lane (R157). -/
def routeOf (r : BitVec 32) : Option (Bool × Nat × Nat × Nat × Nat) :=
  let n := r.toNat
  if n.testBit 31 then some (n.testBit 30, bitsOf n 27 3, bitsOf n 22 5, bitsOf n 19 3, bitsOf n 14 5) else none

/-- The valid route entries of a plane of a site. -/
def PlaneCfg.routeList (c : PlaneCfg) : List (Bool × Nat × Nat × Nat × Nat) := c.routes.toList.filterMap routeOf

/-- Whether the routes of a site break R157. -/
def routesBad (L : Lease) (plane : Nat) (pe : PE) (c : PlaneCfg) : Bool :=
  let rs := c.routeList
  let lane := fun (vec : Bool) (side lane : Nat) => decide (lane < if side = 0 || !vec then 8 else 4)
  let end_ := fun (vec : Bool) (side lane : Nat) => (side, lane, vec && side ≠ 0)
  let sends := fun (x y dir ln : Nat) (vec : Bool) => match L.pe? x y with
    | some q => (q.cfg plane).routeList.any (fun r => r.1 = vec && r.2.2.2.1 = dir && r.2.2.2.2 = ln)
    | none => false
  !(rs.map (fun r => end_ r.1 r.2.1 r.2.2.1)).Nodup || !(rs.map (fun r => end_ r.1 r.2.2.2.1 r.2.2.2.2)).Nodup
    || rs.any (fun r =>
      match r with
      | (vec, ind, inl, outd, outl) =>
        !lane vec ind inl || !lane vec outd outl || (ind = 0 && vec ≠ c.outVec inl) || (outd = 0 && vec ≠ c.inVec outl)
          || (L.follow plane vec (32 * L.pes.length) pe.dx pe.dy ind inl).isNone
          || (ind ≠ 0 && (match neighbour pe.dx pe.dy ind with
              | some (x, y) => !sends x y (opposite ind) inl vec
              | none => true)))

/-- Whether the regions of a plane break R145. -/
def regionsBad (L : Lease) (plane : Nat) : Bool :=
  let gs := imageRegions L.image plane
  let right := fun (g : SysRegion) => g.dx + g.n
  let top := fun (g : SysRegion) => g.dy + 2 * g.m - 1
  gs.any (fun g => right g > L.w || top g > L.h || (L.y + g.dy) % 2 ≠ 0)
    || (List.range gs.length).any (fun i => (gs.take i).any (fun a => match gs[i]? with
        | some b => a.dx < right b && b.dx < right a && a.dy < top b && b.dy < top a
        | none => false))

/-- The faults of a plane of an image (R260). -/
def planeFaults (L : Lease) (plane : Nat) : List Nat :=
  failIf (regionsBad L plane) 3 ++ failIf (L.pes.all (fun q => (q.cfg plane).entries.isEmpty)) 10
    ++ L.pes.flatMap (fun q =>
      let c := q.cfg plane
      failIf (sysBad L plane q c || routesBad L plane q c) 3 ++ handlersFaults L plane q c
        ++ (List.range 128).flatMap (slotFaults2 L plane q c) ++ (if q.kind = .ag then agFaults L plane q c else []))

/-- The width of the package grid in sites (R14). -/
def gridW (nlive : Nat) : Nat := if nlive ≥ 2 then 128 else 64
/-- The height of the package grid in sites (R14). -/
def gridH (nlive : Nat) : Nat := if nlive ≥ 4 then 64 else 32

/-- Pass 2: the lowest status among the whole-image checks (R258, R260). -/
def pass2 (image : Image) (nlive : Nat) : Option Nat :=
  let L := imageLease image
  let planes := (List.range 4).filter (imageDefines image)
  let inputs := L.pes.any (fun q => planes.any (fun p => (q.cfg p).pats.toList.any (fun d => patOn d && patInput d)))
  minN? (failIf (L.w = 0 || L.h = 0 || ((L.w > 64 || L.h > 32) && !imageStraddle image) || L.w > gridW nlive || L.h > gridH nlive) 3
    ++ failIf ((imageCut image).isNone && image.any (fun f => (frameHead f).kind = 6 && (frameHead f).word ≠ 255)) 12
    ++ failIf (!inputs) 10 ++ planes.flatMap (planeFaults L))

/-- The status with which the placer rejects an image that it has read, if it does (R258). -/
def imageStatus (image : Image) (firmware : Bool) (nlive : Nat) : Option Nat :=
  match pass1 image firmware with
  | some st => some st
  | none => pass2 image nlive

/-! ### Reading an image (R241, R243) -/

/-- Read an image of a context: its frames, or the status that rejects it with the cause of a read that faults (R81, R241). -/
def State.readImage (s : State) (tid va : Nat) : Except (Nat × Nat) Image × State :=
  match s.cdRead tid va 32 true with
  | (.error e, s1) => (.error (1, e), s1)
  | (.ok b, s1) =>
    let f : BitVec 256 := BitVec.ofNat 256 (ofBytes b)
    if firstBad f then (.error (2, 0), s1)
    else match s1.cdRead tid va (32 * frameCount f) true with
      | (.error e, s2) => (.error (1, e), s2)
      | (.ok bs, s2) =>
        (.ok ((List.range (frameCount f)).map (fun k => BitVec.ofNat 256 (ofBytes ((bs.drop (32 * k)).take 32)))), s2)

/-- Read the argument words of a launch (R243). -/
def State.readArgs (s : State) (tid va n : Nat) : Except Nat (List Word) × State :=
  if n = 0 then (.ok [], s)
  else match s.cdRead tid va (8 * n) true with
    | (.error e, s1) => (.error e, s1)
    | (.ok bs, s1) => (.ok ((List.range n).map (fun k => BitVec.ofNat 64 (ofBytes ((bs.drop (8 * k)).take 8)))), s1)

end Sys2Proof.Machine
end

