-- ==== Sys2Proof/Machine/Placer.lean ====
section
/-! DEFINITION. The placer's map, the firing die, and the scans for a place: on one die, straddling, by compaction and by
pre-emption (R14, R16, R31, R32, R78 to R80, R82, R97, R236). -/

namespace Sys2Proof.Machine

open Sys2Proof

/-! ### The occupancy map (R79) -/

/-- A rectangle of package sites. -/
structure Rect where
  x : Nat
  y : Nat
  w : Nat
  h : Nat
deriving DecidableEq, Repr

/-- Whether two rectangles share a site. -/
def Rect.meets (a b : Rect) : Bool := a.x < b.x + b.w && b.x < a.x + a.w && a.y < b.y + b.h && b.y < a.y + a.h

/-- The sites of a rectangle, rows first. -/
def Rect.cells (r : Rect) : List (Nat × Nat) := (List.range r.h).flatMap (fun j => (List.range r.w).map (fun i => (r.x + i, r.y + j)))

/-- The dies that a rectangle has sites on. -/
def Rect.dies (r : Rect) : List Nat := (r.cells.map (fun c => dieOf c.1 c.2)).dedup

/-- The sites of a lease. -/
def Lease.rect (L : Lease) : Rect := ⟨L.x, L.y, L.w, L.h⟩

/-- The window of a reservation. -/
def Resv.window (r : Resv) : Rect := ⟨r.x, r.y, r.w, r.h⟩

/-- Whether a place is no site: off the grid, or a hole (R14, R79). -/
def State.noSite (s : State) (x y : Nat) : Bool :=
  x ≥ gridW s.fuses.nlive || y ≥ gridH s.fuses.nlive || s.isHole (dieOf x y) (clusterOf x y)

/-- Whether no lease may be placed on a site: a hole, a retired site, or no site at all; one whose cell is RETIRED when its lease
leaves is barred at once, since the lease that stands there is the last (R79, R223). -/
def State.barred (s : State) (x y : Nat) : Bool := s.noSite x y || s.retired.contains (x, y)

/-- Whether a retired site's cell is RETIRED yet: not while a lease that was not movable when the site was retired still runs on
there (R223). -/
def State.retiredNow (s : State) (c : Nat × Nat) : Bool :=
  s.retired.contains c && !s.leases.any (fun L => L.stands c.1 c.2 && s.runOn.contains (c.1, c.2, L.id))

/-- The RESERVED rectangles: the windows, and the destinations that relocations move to (R82, R84, R97, R237). -/
def State.reservedRects (s : State) : List Rect :=
  s.resvs.map Resv.window ++ s.leases.filterMap (fun L => match L.move with
    | some ⟨.move x y, _, _, _, _⟩ => some ⟨x, y, L.w, L.h⟩
    | _ => none)

/-- The leased and reserved rectangles. -/
def State.takenRects (s : State) : List Rect := s.leases.map Lease.rect ++ s.reservedRects

/-- Whether every site of a rectangle is FREE, other rectangles counted as taken. -/
def State.rectFree (s : State) (taken : List Rect) (r : Rect) : Bool :=
  taken.all (fun t => !t.meets r) && r.cells.all (fun c => !s.barred c.1 c.2)

/-- The rectangle of a die's sites (R14). -/
def dieRect (d : Nat) : Rect := ⟨64 * (d % 2), 32 * (d / 2), 64, 32⟩

/-- FreeSites of a die (R78). -/
def State.freeSites (s : State) (d : Nat) : Nat :=
  let taken := s.takenRects
  ((dieRect d).cells.filter (fun c => s.rectFree taken ⟨c.1, c.2, 1, 1⟩)).length

/-- The origins of an image's parity class whose rectangle lies in a box, in scan order (R16, R80). -/
def origins (image : Image) (box : Rect) : List Rect :=
  (List.range (box.h + 1 - imageH image)).flatMap (fun j => (List.range (box.w + 1 - imageW image)).filterMap (fun i =>
    if (box.x + i) % 2 = imageParity image % 2 && (box.y + j) % 2 = imageParity image / 2 then
      some ⟨box.x + i, box.y + j, imageW image, imageH image⟩ else none))

/-! ### The firing die (R78) -/

/-- The die of the frame or the L2 that a page is in, and the page's size; no accessed bit is set and nothing is installed. -/
def State.frameDie (s : State) (c : Ctx) (va : Nat) : Option Nat × Nat :=
  if vaPkg va ≠ s.pkgNo || vaDc va ≥ 4 then (none, 65536)
  else match c.xlatDie va with
    | none => (none, 65536)
    | some die =>
      if !s.dieUp die then (none, 65536)
      else match (s.translate c die va).1 with
        | .error _ => (none, 65536)
        | .ok l => let d := (l.loc c.tid va).die; (if d < s.fuses.nlive then some d else none, l.size)

/-- The bytes of a range on each die, page by page, each page clipped to the range. -/
def State.rangeDies (s : State) (c : Ctx) : Nat → Nat → Nat → List (Nat × Nat)
  | 0, _, _ => []
  | fuel + 1, va, stop =>
    if va ≥ stop then []
    else
      let p := s.frameDie c va
      let nxt := min stop ((va / p.2 + 1) * p.2)
      (match p.1 with
      | some d => [(d, nxt - va)]
      | none => []) ++ State.rangeDies s c fuel nxt stop

/-- The bytes of a task's input tiles on each die. -/
def State.tileDies (s : State) (c : Ctx) (t : Task) : List (Nat × Nat) :=
  (t.itiles.filter (fun x => x ≠ 0)).flatMap (fun x =>
    s.rangeDies c (tileUnits x) (65536 * tileBase x) (65536 * (tileBase x + tileUnits x)))

/-- The first of a list of dies with the greatest of a measure. -/
def bestDie (f : Nat → Nat × Nat) : List Nat → Option Nat
  | [] => none
  | d :: ds => match bestDie f ds with
    | none => some d
    | some e => if (f e).1 > (f d).1 || ((f e).1 = (f d).1 && (f e).2 > (f d).2) then some e else some d

/-- The firing die of a task: most bytes, then most free sites, then the lowest number; the entry die where no byte counts. A
task whose entry die does not run fires on the next one that does. -/
def State.firingDie (s : State) (c : Ctx) (t : Task) : Nat :=
  let l := s.tileDies c t
  let bytes := fun d => sumN ((l.filter (fun x => x.1 = d)).map Prod.snd)
  let home := s.runningFrom t.die
  if (List.range s.fuses.nlive).all (fun d => bytes d = 0) then home
  else (bestDie (fun d => (bytes d, s.freeSites d)) ((List.range s.fuses.nlive).filter s.running)).getD home

/-! ### Straddling (R31, R32, R80, R145) -/

/-- The units that an image at a position takes of a seam's direction, from one die to another, in a plane. -/
def Lease.planeUnits (L : Lease) (x y a b plane : Nat) : Nat :=
  sumN (L.pes.map (fun p => sumN ((p.cfg plane).routeList.map (fun r =>
    match r with
    | (vec, _, _, dir, _) => match neighbour p.dx p.dy dir with
      | some (u, v) => if dieOf (x + p.dx) (y + p.dy) = a && dieOf (x + u) (y + v) = b then (if vec then 4 else 1) else 0
      | none => 0))))

/-- The units that an image at a position takes of a seam's direction: those of the plane that takes most, since one plane at
a time has channels (assumption 22). -/
def Lease.seamUnits (L : Lease) (x y a b : Nat) : Nat := maxN ((List.range 4).map (L.planeUnits x y a b))

/-- The places of a lease: where it stands, and where a relocation takes it. -/
def Lease.places (L : Lease) : List (Nat × Nat) :=
  (L.x, L.y) :: (match L.move with
    | some ⟨.move x y, _, _, _, _⟩ => [(x, y)]
    | _ => [])

/-- The units in force on a seam's direction, destinations of relocations with them. -/
def State.seamLoad (s : State) (a b : Nat) : Nat :=
  sumN (s.leases.map (fun L => sumN (L.places.map (fun c =>
    if 1 < (Rect.dies ⟨c.1, c.2, L.w, L.h⟩).length then L.seamUnits c.1 c.2 a b else 0))))

/-! ### Seams that have lost modules (R34) -/

/-- The link of a number. -/
def State.link (s : State) (k : Nat) : Link := (s.links[k]?).getD ⟨.absent, 0, 0, 0, 0, 0, false⟩

/-- Change a link. -/
def State.modLink (s : State) (k : Nat) (f : Link → Link) : State :=
  { s with links := s.links.setIfInBounds k (f (s.link k)) }

/-- The dies that a seam joins (R28). -/
def seamDies (k : Nat) : Nat × Nat :=
  match k with
  | 0 => (0, 1)
  | 1 => (2, 3)
  | 2 => (0, 2)
  | _ => (1, 3)

/-- The units in force on a seam, in the direction that has more: R34 does not say which direction's reservations it compares
with half the remaining capacity (DESIGN CHOICE, assumption 67). -/
def State.seamUse (s : State) (k : Nat) : Nat :=
  max (s.seamLoad (seamDies k).1 (seamDies k).2) (s.seamLoad (seamDies k).2 (seamDies k).1)

/-- Move alone to QUIESCING each RUNNING seam whose reservations exceed half its remaining capacity (R34). -/
def State.tightenSeams (s : State) : State :=
  (List.range 4).foldl (fun (s : State) k =>
    if (s.link k).st = .running && s.seamUse k * 24 * 2 > (s.link k).mods * 256 then
      s.modLink k (fun l => { l with st := .quiescing, alone := true })
    else s) s

/-- The ordered pairs of adjacent dies among some. -/
def seamPairs (ds : List Nat) : List (Nat × Nat) :=
  ds.flatMap (fun a => (ds.filter (fun b => (seamOf a b).isSome)).map (fun b => (a, b)))

/-- Whether a seam is RUNNING, so that new fabric channels may cross it (R35). -/
def State.seamRunning (s : State) (a b : Nat) : Bool :=
  match (seamOf a b).bind (fun k => s.links[k]?) with
  | some l => l.st = .running
  | none => false

/-- The reservation limit of a seam (R32, R34). -/
def State.seamLimit (s : State) (a b : Nat) : Nat :=
  match (seamOf a b).bind (fun k => s.links[k]?) with
  | some l => l.limit
  | none => 0

/-- Whether an image may straddle at a rectangle: its dies and their seams RUNNING, every seam within its limit, and every
systolic region on one die. -/
def State.straddleOk (s : State) (img : Lease) (r : Rect) : Bool :=
  let ds := r.dies
  ds.all s.running && (seamPairs ds).all (fun p => s.seamRunning p.1 p.2
      && s.seamLoad p.1 p.2 + img.seamUnits r.x r.y p.1 p.2 ≤ s.seamLimit p.1 p.2)
    && (List.range 4).all (fun plane => (imageRegions img.image plane).all (fun g =>
      (Rect.dies ⟨r.x + g.dx, r.y + g.dy, g.n, 2 * g.m - 1⟩).length = 1))

/-- The first of the rectangles with the least of a measure. -/
def leastRect (f : Rect → Nat) : List Rect → Option Rect
  | [] => none
  | r :: rs => match leastRect f rs with
    | none => some r
    | some q => if f q < f r then some q else some r

/-! ### Where a lease goes without moving another (R80 steps 1 and 2) -/

/-- Step 1: the first FREE origin on a die. -/
def State.onDie (s : State) (image : Image) (taken : List Rect) (d : Nat) : Option Rect :=
  if s.running d then (origins image (dieRect d)).find? (s.rectFree taken) else none

/-- Step 2: the straddling origin that crosses the fewest seams. -/
def State.straddling (s : State) (image : Image) (d : Nat) : Option Rect :=
  if !imageStraddle image then none
  else
    let img := imageLease image
    let taken := s.takenRects
    let box : Rect := ⟨0, 0, gridW s.fuses.nlive, gridH s.fuses.nlive⟩
    leastRect (fun r => (seamPairs r.dies).length) ((origins image box).filter (fun r =>
      r.dies.contains d && s.rectFree taken r && s.straddleOk img r))

/-- Whether an image has an origin whose cells are all neither HOLE nor RETIRED, leases aside (R236). -/
def State.fitsAtAll (s : State) (image : Image) : Bool :=
  let boxes := if imageStraddle image then [(⟨0, 0, gridW s.fuses.nlive, gridH s.fuses.nlive⟩ : Rect)]
    else (List.range s.fuses.nlive).map dieRect
  boxes.any (fun b => (origins image b).any (fun r => r.cells.all (fun c => !s.noSite c.1 c.2 && !s.retiredNow c)))

/-! ### Compaction (R82) -/

/-- Leases by their origin, in scan order. -/
def byOrigin (ls : List Lease) : List Lease := ls.mergeSort (fun a b => a.y < b.y || (a.y = b.y && a.x ≤ b.x))

/-- The leases that a window holds, if it is free of anything else, they meet a condition, and there are at most four. -/
def State.windowLeases (s : State) (ok : Lease → Bool) (r : Rect) : Option (List Lease) :=
  let ls := s.leases.filter (fun L => L.rect.meets r)
  if ls.length ≤ 4 && ls.all ok && s.rectFree s.reservedRects r then some (byOrigin ls) else none

/-- The destination of each of some leases on a die, in turn, outside a window and the destinations before it. -/
def State.destinations (s : State) (d : Nat) (taken : List Rect) : List Lease → Option (List (Nat × Nat × Nat))
  | [] => some []
  | L :: rest =>
    match s.onDie L.image taken d with
    | none => none
    | some r => match s.destinations d (r :: taken) rest with
      | none => none
      | some l => some ((L.id, r.x, r.y) :: l)

/-- Step 3: the first acceptable window, with its leases' destinations; the lease of the task that is placed, if it has one, does
not move for itself (R223). -/
def State.compaction (s : State) (t : Task) (image : Image) (d : Nat) : Option (Rect × List (Nat × Nat × Nat)) :=
  if !s.running d || s.freeSites d < imageW image * imageH image then none
  else (origins image (dieRect d)).findSome? (fun r =>
    match s.windowLeases (fun L => s.movable L && !(L.die = t.die && L.entry = t.idx)) r with
    | none => none
    | some ls => (s.destinations d (r :: s.takenRects) ls).map (fun ds => (r, ds)))

/-! ### Pre-emption (R97) -/

/-- Whether a lease may be a victim of a newcomer: RUNNING, its held priority strictly lower. -/
def State.mayPreempt (s : State) (held : Nat) (L : Lease) : Bool :=
  L.heldPrio < held && L.move.isNone && (s.task? L.die L.entry).any (fun t => decide (t.st = .running))

/-- Step 4: the first window that holds nothing but victims, with them. -/
def State.preemption (s : State) (image : Image) (held d : Nat) : Option (Rect × List Lease) :=
  if !s.running d || held = 0 then none
  else (origins image (dieRect d)).findSome? (fun r => (s.windowLeases (s.mayPreempt held) r).map (fun ls => (r, ls)))

end Sys2Proof.Machine
end

