-- ==== Sys2Proof/Machine/Mailbox.lean ====
section
/-! DEFINITION. Mailbox commands on contexts, start lists, pools and budgets (R53, R70, R71, R90, R105 to R107, R163, R174,
R186, R201, R223, R384). -/

namespace Sys2Proof.Machine

open Sys2Proof

/-- A mailbox command: it is answered in RUN, with what it returns; a refused one changes nothing (R384). -/
def State.mailCmd (s : State) (r : Except Nat State) : Host.Outcome State Fault Refusal :=
  if s.power ≠ .run then .next s
  else match r with
    | .error st => .next (s.replyStatus st)
    | .ok t => .next (t.replyStatus 0)

/-- A mailbox command that the manual gives no effect and no status: it changes nothing, and its status is a free value
(assumption 19). -/
def State.mailUnstated (s : State) : Host.Outcome State Fault Refusal :=
  if s.power ≠ .run then .next s
  else .next ({ s with freeCount := s.freeCount + 1 }.replyStatus (Config.freeWord s.freeCount).toNat)

/-- The first status of a list of refusals that applies (R384). -/
def firstRefusal (l : List (Nat × Bool)) : Option Nat := (l.find? (fun x => x.2)).map Prod.fst

/-- Refuse with the first status that applies, else go on. -/
def refusing (l : List (Nat × Bool)) (ok : State) : Except Nat State :=
  match firstRefusal l with
  | some st => .error st
  | none => .ok ok

/-- Whether configuration traffic of the CD crosses to where an address or a die number stands: a die's link carries it in RUNNING,
QUIESCING and READMITTING, and none in DOWN or TRAINING (R35). -/
def State.configUp (s : State) (die : Nat) : Bool :=
  die ≥ 4 || (match (s.link (4 + die)).st with
    | .running | .quiescing | .readmitting => true
    | .down | .training | .absent => false)

/-! ### Contexts (R70, R71, R90, R105, R174) -/

/-- Whether a live die has a number. -/
def State.live (s : State) (d : Nat) : Bool := d < s.fuses.nlive

/-- Whether a DIEMAP is allowed: four entries, each 7 or a live die, no live die twice (R71). -/
def State.diemapOk (s : State) (m : List Nat) : Bool :=
  m.length = 4 && m.all (fun d => d = 7 || s.live d) && (m.filter (fun d => d ≠ 7)).Nodup

/-- The sum of a number over the contexts but one. -/
def State.sumOthers (s : State) (tid : Nat) (f : Ctx → Nat) : Nat := sumN ((s.ctxs.filter (fun c => c.tid ≠ tid)).map f)

/-- Whether a pace is refused (R90). -/
def State.paceBad (s : State) (tid pace : Nat) : Bool := pace = 0 || s.sumOthers tid Ctx.pace + pace > 65536

/-! ### Must-save declarations (R106, R107) -/

/-- One entry of a declaration: EKIND, SZ, VA, INTERVAL, LENVA (R106). -/
def msEntry (b : List Byte) (i : Nat) : Nat × Nat × Nat × Nat × Nat :=
  let a := ofBytes ((b.drop (16 * i)).take 8)
  let c := ofBytes ((b.drop (16 * i + 8)).take 8)
  (bitsOf a 62 2, bitsOf a 57 5, bitsOf a 0 57, bitsOf c 57 7, bitsOf c 0 57)

/-- The bytes that an entry adds to the cost: a range's length, or one slot (R107). -/
def msCost (e : Nat × Nat × Nat × Nat × Nat) : Nat :=
  match e with
  | (kind, sz, _, _, lenva) => if kind = 1 then 65536 * (lenva % 2 ^ 32) else 65536 * 2 ^ sz

/-- Whether an entry breaks its layout, or a VA of it carries die code 4 to 7 (R106, R107). -/
def msBad (e : Nat × Nat × Nat × Nat × Nat) : Bool :=
  match e with
  | (kind, sz, va, interval, lenva) =>
    (kind ≠ 1 && kind ≠ 2) || vaDc va ≥ 4
    || (kind = 1 && (sz ≠ 0 || va % 65536 ≠ 0 || interval ≠ 0 || lenva / 2 ^ 32 ≠ 0 || lenva = 0))
    || (kind = 2 && (interval = 0 || lenva % 65536 ≠ 0 || vaDc lenva ≥ 4))

/-- Whether two range entries overlap (R107). -/
def msOverlap : List (Nat × Nat × Nat × Nat × Nat) → Bool
  | [] => false
  | e :: l =>
    l.any (fun f => e.1 = 1 && f.1 = 1 && e.2.2.1 < f.2.2.1 + msCost f && f.2.2.1 < e.2.2.1 + msCost e) || msOverlap l

/-- Read a must-save declaration: the set, or the status that refuses it (R106, R107). -/
def State.readMustSave (s : State) (tid va : Nat) : Except Nat MustSave × State :=
  match s.cdRead tid va 16 true with
  | (.error _, s1) => (.error 8, s1)
  | (.ok h, s1) =>
    let w := ofBytes (h.take 8)
    let n := bitsOf w 56 8
    if n = 0 || n > 64 then (.error 9, s1)
    else match s1.cdRead tid (wrapN 57 ((va + 16 : Nat) : Int)) (16 * n) true with
      | (.error _, s2) => (.error 8, s2)
      | (.ok b, s2) =>
        let es := (List.range n).map (msEntry b)
        let cost := sumN (es.map msCost) + 4096
        if bitsOf w 0 48 ≠ 0 || ofBytes (h.drop 8) ≠ 0 || es.any msBad || msOverlap es then (.error 9, s2)
        else if s2.sumOthers tid (fun c => (c.must.map MustSave.cost).getD 0) + cost > 1610612736 then (.error 10, s2)
        else (.ok ⟨bitsOf w 48 8, es, cost⟩, s2)

/-- The set that a command declares: none with DECL clear (R106). -/
def State.declare (s : State) (tid va : Nat) (decl : Bool) : Except Nat (Option MustSave) × State :=
  if !decl then (.ok none, s)
  else match s.readMustSave tid va with
    | (.ok m, s1) => (.ok (some m), s1)
    | (.error e, s1) => (.error e, s1)

/-- A new context's table entry, each field of the width it has there; DRAIN is 600,000 unless the command sets it (R70). -/
def ctxOfArgs (a : CtxArgs) (must : Option MustSave) : Ctx :=
  { tid := a.tid, asid := a.asid % 2 ^ 16, vmid := a.vmid % 2 ^ 8, diemap := a.diemap, pace := a.pace
    pbudget := a.pbudget % 2 ^ 16, drain := a.drain.getD 600000 % 2 ^ 32, saveva := a.saveva % 2 ^ 57
    trapva := a.trapva % 2 ^ 57, mustsave := a.mustsave % 2 ^ 57, unbways := a.unbways, offset := 0, must := must
    slots := [], admitted := false, closing := false }

/-- Create a context, or the status that refuses it. A tenant id that is in use or out of range is answered as a full table
(R70, R71, R90, R105, R107, R174, assumption 19). -/
def State.createCtx (s : State) (a : CtxArgs) : Except Nat State :=
  match firstRefusal [(2, s.ctxs.length ≥ 1024 || a.tid ≥ 1024 || (s.ctx? a.tid).isSome), (3, !s.energyReady),
      (4, !s.diemapOk a.diemap), (6, s.paceBad a.tid a.pace), (7, s.sumOthers a.tid Ctx.unbways + a.unbways > 12)] with
  | some st => .error st
  | none =>
    let s0 : State := { s with ctxs := s.ctxs ++ [ctxOfArgs a none] }
    match s0.declare a.tid (a.mustsave % 2 ^ 57) a.decl with
    | (.error st, _) => .error st
    | (.ok m, s1) => .ok { s1.modCtx a.tid (fun c => { c with must := m }) with everAdmitted := true }

/-- CTX_CREATE (R70, R105): it waits until the energy reserve is ready, unless the layer is logged as failed, and one that reads a
declaration while a photo finish holds the home slices (R116). -/
def execCtxCreate (a : CtxArgs) (s : State) : Host.Outcome State Fault Refusal :=
  if s.power = .run && !s.energyReady && !s.holdupFailed then .next { s with waitingCreates := s.waitingCreates ++ [a] }
  else if a.decl && s.uncoreStopped then .next s
  else s.mailCmd (s.createCtx a)

/-- Run a command on an existing context, or answer NOCTX (R384). -/
def State.onCtx (s : State) (tid : Nat) (f : Ctx → Except Nat State) : Host.Outcome State Fault Refusal :=
  s.mailCmd (match s.ctx? tid with
    | some c => f c
    | none => .error 1)

/-- Whether work of a context uses a live die: a lease with a site there, a task entered there, or an engine command on it (R71).
That these are the uses, and not the addresses in tile sets or in code, is the model's choice (DESIGN CHOICE, assumption 68). -/
def State.usesDie (s : State) (tid die : Nat) : Bool :=
  s.leases.any (fun L => L.tid = tid && L.pes.any (fun p => L.dieAt p.dx p.dy = die))
    || s.tasks.any (fun t => t.ctx = tid && t.die = die) || s.cmds.any (fun c => c.tid = tid && c.die = die)

/-- CTX_DIEMAP (R71): rewrites a DIEMAP entry that no work of the context uses. -/
def execCtxDiemap (tid vdie die : Nat) (s : State) : Host.Outcome State Fault Refusal :=
  s.onCtx tid (fun c => refusing
    [(4, vdie ≥ 4 || !s.diemapOk (c.diemap.set vdie die)),
     (5, match c.diemap[vdie]? with
       | some d => d ≠ 7 && s.usesDie tid d
       | none => false)]
    (s.modCtx tid (fun c => { c with diemap := c.diemap.set vdie die })))

/-- CTX_PACE (R90). -/
def execCtxPace (tid pace : Nat) (s : State) : Host.Outcome State Fault Refusal :=
  s.onCtx tid (fun _ => refusing [(6, s.paceBad tid pace)] (s.modCtx tid (fun c => { c with pace := pace })))

/-- CTX_ROOT (R163): sets the first-stage root of an ASID for a die code. The manual gives no status for a die code that has no tables, or
for a node that is not aligned: the model keeps the root, and answers OK (DESIGN CHOICE, assumption 80). -/
def execCtxRoot (asid dc addr : Nat) (s : State) : Host.Outcome State Fault Refusal :=
  s.mailCmd (.ok { s with roots := (asid, dc, addr) :: s.roots.filter (fun r => !(r.1 = asid && r.2.1 = dc)) })

/-- MS_UPDATE (R106, R107): a refused one leaves the set in force. -/
def execMsUpdate (tid : Nat) (decl : Bool) (s : State) : Host.Outcome State Fault Refusal :=
  if decl && s.uncoreStopped then .next s else s.onCtx tid (fun c =>
    match s.declare tid c.mustsave decl with
    | (.error st, _) => .error st
    | (.ok m, s1) => .ok (s1.modCtx tid (fun c => { c with must := m })))

/-! ### Start lists (R53) -/

/-- Whether a ring size is allowed (R53). -/
def slSizeOk (n : Nat) : Bool := (List.range 11).any (fun k => n = 64 * 2 ^ k)

/-- A new start list: ACTIVE, with HEAD, TAIL and CHEAD at zero (R53). -/
def slOfArgs (a : SlArgs) : StartList :=
  { slot := 64 * a.fn + a.slot, tid := a.tid, fn := a.fn, ring := a.ring, size := a.size, cring := a.cring, csema := a.csema
    head := 0, tail := 0, chead := 0, st := .active, fcause := 0, lost := 0, recs := 0, held := none, retryAt := none
    nextN := 0, order := 0, nodes := [], pending := [], force := false }

/-- Add a start list. -/
def State.addSl (s : State) (l : StartList) : State := { s with startLists := s.startLists ++ [l] }

/-- SL_CREATE (R52, R53, R384): the start list of a function's slot. A context that is being destroyed is answered NOCTX, as one
that no longer exists: R384 names no status of its own for it (DESIGN CHOICE, assumption 68). -/
def execSlCreate (a : SlArgs) (s : State) : Host.Outcome State Fault Refusal :=
  let slot := 64 * a.fn + a.slot
  s.onCtx a.tid (fun c => if c.closing then .error 1 else refusing
    [(11, decide (c.slots.length ≥ 8)), (12, !slSizeOk a.size || a.fn > 127 || a.slot ≥ 64 || (s.sl? slot).isSome)]
    ((s.addSl (slOfArgs a)).modCtx a.tid (fun c => { c with slots := c.slots ++ [slot] })))

/-! ### Budgets, pools and invalidations (R90, R174, R186, R201) -/

/-- BW_BUDGET (R90): B from 1 to 42,666, in force at the next lap boundary; another value changes nothing
(assumption 19). -/
def execBwBudget (die b : Nat) (s : State) : Host.Outcome State Fault Refusal :=
  if b = 0 || b > 42666 || !s.live die then s.mailUnstated
  else s.mailCmd (.ok { s with budgets := updWhere (fun x => x.die = die) (fun x => { x with next := some b }) s.budgets })

/-- The frame owner entry of a frame of a context: VALID, HOSTOK clear (R174, R175). -/
def ownedBy (tid : Nat) : BitVec 16 := BitVec.ofNat 16 (0x8000 + tid % 1024)

/-- The pool of a context by its number. -/
def State.pool? (s : State) (tid pool : Nat) : Option Pool := s.pools.find? (fun p => p.tid = tid && p.pool = pool)

/-- Whether POOL_ADD refuses a frame (R174, R384). -/
def State.poolBad (s : State) (tid pool pa : Nat) (big : Bool) : Bool :=
  pool ≥ 32 || pa % (if big then 2 ^ 21 else 65536) ≠ 0 || (s.pool? tid pool).any (fun p => !p.frames.isEmpty && p.big ≠ big)
    || !s.validPa pa || (locOf pa).kind ≠ .hbm || paPkg pa ≠ s.pkgNo

/-- POOL_ADD (R174): adds a frame to a pool of a context and gives its units to the context. The owner entries of a die whose link is
down cannot be written, and a frame that is out of use is not given: the manual gives no status for either (R35, R238,
assumption 19). -/
def execPoolAdd (tid pool pa : Nat) (big : Bool) (s : State) : Host.Outcome State Fault Refusal :=
  if (s.ctx? tid).isNone then s.mailCmd (.error 1)
  else if s.poolBad tid pool pa big then s.mailCmd (.error 16)
  else if !s.configUp (paDie pa) || s.frameOut pa then s.mailUnstated
  else
    let old := ((s.pool? tid pool).map Pool.frames).getD []
    s.mailCmd (.ok { s with
      pools := ⟨tid, pool, big, old ++ [pa]⟩ :: s.pools.filter (fun p => !(p.tid = tid && p.pool = pool))
      owners := (List.range ((if big then 2 ^ 21 else 65536) / 65536)).foldl
        (fun o i => insertKV o (pa / 65536 + i) (ownedBy tid)) s.owners })

/-- S2INV (R201): begins a second-stage invalidation of a VMID's range of `count` units of 64 KiB; it waits while a photo
finish holds the home slices (R116). -/
def execS2inv (vmid base count : Nat) (s : State) : Host.Outcome State Fault Refusal :=
  if s.uncoreStopped then .next s else s.mailCmd (.ok (s.beginInval vmid none base (65536 * count) true none).2)

/-- RACE_POOL (R186): gives a die its spill pool of 512-byte blocks; one that no link reaches gets none (R35, assumption 19). -/
def execRacePool (die base size : Nat) (s : State) : Host.Outcome State Fault Refusal :=
  if !s.configUp die then s.mailUnstated else s.mailCmd (.ok { s with racePools := (die, base, size) :: s.racePools.filter (fun p => p.1 ≠ die) })

/-! ### Sites and counts (R223) -/

/-- SITE_THRESH (R223): the check-counter threshold, 1 to 255; another value changes nothing (assumption 19). -/
def execSiteThresh (v : Nat) (s : State) : Host.Outcome State Fault Refusal :=
  if v = 0 || v > 255 then s.mailUnstated else s.mailCmd (.ok { s with siteThresh := v })

/-- SITE_LIST (R223): the sites that are RETIRED now, as package coordinates. -/
def execSiteList (s : State) : Host.Outcome State Fault Refusal :=
  if s.power ≠ .run then .next s
  else .next { s with reply := ⟨0, (s.retired.filter s.retiredNow).map (fun x => BitVec.ofNat 1280 (x.1 + x.2 * 2 ^ 8))⟩ }

/-- ERR_COUNTS (R223): the corrected and uncorrectable counts of each array kind per die. -/
def execErrCounts (s : State) : Host.Outcome State Fault Refusal :=
  if s.power ≠ .run then .next s
  else .next { s with reply := ⟨0, s.errCounts.map (fun x =>
    BitVec.ofNat 1280 (x.1 + x.2.1 * 2 ^ 8 + x.2.2.1 % 2 ^ 64 * 2 ^ 64 + x.2.2.2 % 2 ^ 64 * 2 ^ 128))⟩ }

/-! ### Spans (R44) -/

/-- ROUTE_TABLE_WRITE (R44, R102): the port mask of a destination package; requests held for LINK_POISON are let go. -/
def execRouteTableWrite (dst : Nat) (mask : BitVec 16) (s : State) : Host.Outcome State Fault Refusal :=
  if s.power ≠ .run then .next s
  else .next ({ s with routes := s.routes.setIfInBounds dst mask }.releaseReplay (fun _ => true) (fun c => c = cLinkPoison))

end Sys2Proof.Machine
end

