-- ==== Sys2Proof/Machine/Packets.lean ====
section
/-! DEFINITION. The admission of each packet kind, the entry of replay nodes, and CTX_DESTROY (R55, R57 to R61, R63, R74 to R76,
R95, R389). -/

namespace Sys2Proof.Machine

open Sys2Proof

/-- Whether a packet may be admitted as far as every kind goes: no node of an earlier replay waits, and a packet with a
completion action finds ring entries beyond those owed and the eight held back; while no die runs, none is (R55, R63, R75,
R117). -/
def State.mayAdmit (s : State) (l : StartList) (b : BitVec 1024) : Bool :=
  (List.range s.fuses.nlive).any s.running && l.nodes.isEmpty && (bitsOf (pktField b 0 8) 8 3 = 0 || decide (l.ringFree > 8 + s.owed l))

/-- A packet as admitted: what it waits for and its completion actions (R59, R62). -/
def pendingOf (b : BitVec 1024) (n order nodes : Nat) (status : Option (Nat × Nat)) : Pending :=
  let hd := pktField b 0 8
  { n := n, order := some order, tag := bitsOf hd 32 32, kind := hd % 256, crec := hd.testBit 8, csem := hd.testBit 9
    cmsi := hd.testBit 10, vec := bitsOf hd 16 11, status := status, nodesLeft := nodes }

/-- Admit a packet: HEAD advances, and it is pending with its status, if its effect is over (R55, R59). -/
def State.takePacket (s : State) (slot : Nat) (b : BitVec 1024) (status : Option (Nat × Nat)) (nodes : List (BitVec 1024)) :
    State :=
  let t := match s.sl? slot with
    | some l => s.markAdmitted l.tid
    | none => s
  t.modSl slot (fun l => { l.passPacket with
    order := l.order + 1
    nodes := l.nodes ++ nodes.map (fun x => (l.nextN, x))
    pending := l.pending ++ [pendingOf b l.nextN l.order nodes.length status] })

/-- The status of a packet after a read or write of the CD: DONE, or FAULT with the cause (R58). -/
def statusOf {α : Type} : Except Nat α → Nat × Nat
  | .ok _ => (0, 0)
  | .error c => (5, c)

/-! ### The kinds -/

/-- The counters of a new entry, if none passes 255 (R76). -/
def State.counts (s : State) (slid order : Nat) (tiles : List (BitVec 56)) : Option (List Nat) :=
  let ws := tiles.map (fun t => if t = 0 then 0 else s.waitCount slid order t)
  if ws.all (fun w => decide (w ≤ 255)) then some ws else none

/-- LAUNCH: one entry on its entry die, once that has a FREE one (R57, R74 to R76). -/
def State.admitLaunch (s : State) (l : StartList) (b : BitVec 1024) : State :=
  match s.ctx? l.tid with
  | none => s
  | some c =>
    let d := s.entryDie c ((pktTiles b).take 8) ((pktTiles b).drop 8)
    match s.freeEntry d, s.counts l.slot l.order ((pktTiles b).take 8) with
    | some idx, some ws =>
      (s.takePacket l.slot b none []).addTask { launchTask b d idx l.tid l.slot l.nextN l.order with waits := ws }
    | _, _ => s

/-- GRAPH: the node records are copied into CD memory (R58). -/
def State.admitGraph (s : State) (l : StartList) (b : BitVec 1024) : State :=
  let n := bitsOf (pktField b 16 8) 16 10 + 1
  let gid := pktField b 16 8 % 64
  match s.cdRead l.tid (pktField b 8 8) (128 * n) true with
  | (.error e, s1) => s1.takePacket l.slot b (some (5, e)) []
  | (.ok bs, s1) =>
    let nodes := (List.range n).map (fun k => BitVec.ofNat 1024 (ofBytes ((bs.drop (128 * k)).take 128)))
    { s1 with graphs := ⟨l.tid, gid, nodes⟩ :: s1.graphs.filter (fun g => !(g.tid = l.tid && g.gid = gid)) }.takePacket
      l.slot b (some (0, 0)) []

/-- The graph of a context with a GID. -/
def State.graph? (s : State) (tid gid : Nat) : Option Graph := s.graphs.find? (fun g => g.tid = tid && g.gid = gid)

/-- REPLAY: every node is snapshot, to enter its entry die in node order (R58, R61, R75). -/
def State.admitReplay (s : State) (l : StartList) (b : BitVec 1024) : State :=
  match s.graph? l.tid (pktField b 8 8 % 64) with
  | none => s.takePacket l.slot b (some (6, 0)) []
  | some g => s.takePacket l.slot b none g.nodes

/-- The bytes of a node with some of them replaced. -/
def patchNode (node : BitVec 1024) (off len v : Nat) : BitVec 1024 := setField node (8 * off) (8 * len) v

/-- PATCH: bytes of a stored node are replaced whole; an absent graph or node is NOGRAPH (R58, R61). -/
def State.admitPatch (s : State) (l : StartList) (b : BitVec 1024) : State :=
  let x := pktField b 8 8
  let k := bitsOf x 16 10
  match s.graph? l.tid (x % 64) with
  | none => s.takePacket l.slot b (some (6, 0)) []
  | some g =>
    if k ≥ g.nodes.length then s.takePacket l.slot b (some (6, 0)) []
    else
      let len := bitsOf x 40 6 + 1
      let put := fun (h : Graph) =>
        { h with nodes := modNth (fun nd => patchNode nd (bitsOf x 32 7) len (pktField b 64 len)) k h.nodes }
      { s with graphs := updWhere (fun h => h.tid = l.tid && h.gid = g.gid) put s.graphs }.takePacket l.slot b (some (0, 0)) []

/-- SIGSEM: sets or adds to a semaphore (R58). -/
def State.admitSigsem (s : State) (l : StartList) (b : BitVec 1024) : State :=
  let a := pktField b 8 8
  let old : Except Nat Nat × State :=
    if pktField b 24 8 = 1 then (match s.cdRead l.tid a 8 true with
      | (.ok bs, s1) => (.ok (ofBytes bs), s1)
      | (.error e, s1) => (.error e, s1))
    else (.ok 0, s)
  match old with
  | (.error e, s1) => s1.takePacket l.slot b (some (5, e)) []
  | (.ok v, s1) =>
    let r := s1.cdWrite l.tid a (toBytes 8 ((v + pktField b 16 8) % 2 ^ 64)) true
    r.2.takePacket l.slot b (some (statusOf r.1)) []

/-- WAITSEM: admitted when its condition holds; until then its semaphore is read again after 1,000 ticks or on a snoop (R58). -/
def State.admitWaitsem (s : State) (l : StartList) (b : BitVec 1024) : State :=
  match s.cdRead l.tid (pktField b 8 8) 8 true with
    | (.error e, s1) => s1.takePacket l.slot b (some (5, e)) []
    | (.ok bs, s1) =>
      let v := ofBytes bs
      let w := pktField b 16 8
      if (match pktField b 24 8 with
          | 0 => decide (v ≥ w)
          | 1 => decide (v = w)
          | _ => decide (v ≠ w)) then s1.takePacket l.slot b (some (0, 0)) []
      else s1.modSl l.slot (fun l => { l with retryAt := some (s.ticks + 1000) })

/-- The die whose queue a COPY packet goes to: the one that homes DST, or the entry die where no live die does, as with another
package's; or the cause for which DST has no translation (R58, R160). -/
def State.homeDie (s : State) (c : Ctx) (va : Nat) : Except Nat Nat × State :=
  if vaPkg va ≠ s.pkgNo then (.ok (s.entryDie c [] []), s)
  else match c.xlatDie va with
    | none => (.error cPageFaultStore, s)
    | some die =>
      match s.translate c die va with
      | (.error e, s1) => (.error (walkCause e cPageFaultStore), s1)
      | (.ok l, s1) =>
        let d := (l.loc c.tid va).die
        (.ok (if d < 4 then d else s1.entryDie c [] []), s1)

/-- The engine command of a COPY packet (R58). -/
def copyCmd (b : BitVec 1024) (id tid die entryDie entry : Nat) : EngCmd :=
  { id := id, op := .cpy, tid := tid, die := die, site := none, plane := 0, origin := errWord 0 0 0 0 127 0 false
    task := some (entryDie, entry), seq := 0, scope := 4, src := pktField b 8 8, dst := pktField b 16 8, len := pktField b 24 8
    ctl := 0, follow := 0, collNo := 0, rank := 0, turn := 0, outLen := 0, cbSlot := none, segsLeft := 0, party := 0
    stop := .running }

/-- The address of the packet that HEAD stands on (R54). -/
def StartList.packetVa (l : StartList) : Nat := wrapN 57 ((l.ring + 128 * (l.nextN % l.size) : Nat) : Int)

/-- The entry of a COPY packet: an engine task, RUNNING at once, whose IMAGE is the address of its packet (R72, R73). -/
def copyTask (b : BitVec 1024) (die idx ctx slid seq order cmd va : Nat) : Task :=
  { launchTask b die idx ctx slid seq order with
    st := .running, kind := 1, cls := 0, prio := 0, h := 0, w := 0, image := va, args := 0, rem := 0
    itiles := List.replicate 8 0, otiles := List.replicate 4 0, pktKind := 7, cmd := some cmd }

/-- COPY: an engine task, and its command in the virtual queue of the die that homes DST, once both have room (R55, R58, R75,
R95). -/
def State.admitCopy (s : State) (l : StartList) (b : BitVec 1024) : State :=
  match s.ctx? l.tid with
  | none => s
  | some c =>
    match s.homeDie c (pktField b 16 8) with
    | (.error e, s1) => s1.takePacket l.slot b (some (5, e)) []
    | (.ok d, s1) =>
      let ed := s1.entryDie c [] []
      match s1.freeEntry ed with
      | none => s1
      | some idx =>
        if s1.vqCount d l.tid .copy ≥ 64 then s1
        else
          let n := s1.fresh
          let s2 := (n.2.takePacket l.slot b none []).enqueue (copyCmd b n.1 l.tid d ed idx)
          s2.addTask (copyTask b ed idx l.tid l.slot l.nextN l.order n.1 l.packetVa)

/-- XLINV: an invalidation of another context's range; a COUNT of 0 completes with DONE whatever else the packet names, which R58
says of it without a condition (assumption 39; R58, R365, R373). -/
def State.admitXlinv (s : State) (l : StartList) (b : BitVec 1024) : State :=
  let base := pktField b 8 8
  let size := 65536 * pktField b 16 8
  let z := pktField b 24 8
  let asid := if z.testBit 24 then none else some (z % 65536)
  if size = 0 then s.takePacket l.slot b (some (0, 0)) []
  else if (s.namedCtxs (bitsOf z 16 8) asid).isEmpty || (base + size - 1) / 2 ^ 48 ≠ base / 2 ^ 48 then
    s.takePacket l.slot b (some (5, cPerm)) []
  else ((s.beginInval (bitsOf z 16 8) asid base size false (some (l.slot, l.nextN))).2).takePacket l.slot b none []

/-- Admit a packet by its kind, or leave it held (R55, R58). -/
def State.admitKind (s : State) (l : StartList) (b : BitVec 1024) : State :=
  match pktKind b with
  | 1 => s.admitLaunch l b
  | 2 => s.admitGraph l b
  | 3 => s.admitReplay l b
  | 4 => s.admitPatch l b
  | 5 => s.admitSigsem l b
  | 6 => s.admitWaitsem l b
  | 7 => s.admitCopy l b
  | 8 => if l.pending.isEmpty then s.takePacket l.slot b (some (0, 0)) [] else s
  | 9 => s.admitXlinv l b
  | _ => s.takePacket l.slot b (some (0, 0)) []

/-- An attempt to admit the held packet of the start list in focus, where its kind is one of some: an ACTIVE start list reads and
checks it again, and it is admitted if every condition holds; a STOPPING one is STOPPED, and what it holds stays held (R55,
R64). A packet held at HEAD stays held, and is read again and admitted, where the host has written TAIL back to HEAD (DESIGN CHOICE,
assumption 75). -/
def State.attempt (s : State) (kinds : Nat → Bool) : Host.Outcome State Fault Refusal :=
  match s.sl? s.focus.slot with
  | none => .next s
  | some l =>
    if !s.cdRuns || !l.held.any (fun p => kinds (pktKind p.body)) then .next s
    else if l.st ≠ .active then .next (s.modSl l.slot StartList.settle)
    else
      let s1 := s.consumePacket l
      .next (match s1.sl? l.slot with
        | none => s1
        | some m => match m.held with
          | none => s1
          | some p => if kinds (pktKind p.body) && s1.mayAdmit m p.body then s1.admitKind m p.body else s1)

/-! ### The rows of the table -/

/-- HELD_PACKET_RETRY (R55): an attempt to admit a held packet of any kind. -/
def execHeldPacketRetry (s : State) : Host.Outcome State Fault Refusal := s.attempt (fun _ => true)

/-- NOP_PACKET (R58). -/
def execNopPacket (s : State) : Host.Outcome State Fault Refusal := s.attempt (fun k => k = 0)

/-- LAUNCH (R57). -/
def execLaunch (s : State) : Host.Outcome State Fault Refusal := s.attempt (fun k => k = 1)

/-- GRAPH (R58). -/
def execGraph (s : State) : Host.Outcome State Fault Refusal := s.attempt (fun k => k = 2)

/-- REPLAY_PACKET (R58, R61). -/
def execReplayPacket (s : State) : Host.Outcome State Fault Refusal := s.attempt (fun k => k = 3)

/-- PATCH (R58, R61). -/
def execPatch (s : State) : Host.Outcome State Fault Refusal := s.attempt (fun k => k = 4)

/-- SIGSEM (R58). -/
def execSigsem (s : State) : Host.Outcome State Fault Refusal := s.attempt (fun k => k = 5)

/-- WAITSEM (R58). -/
def execWaitsem (s : State) : Host.Outcome State Fault Refusal := s.attempt (fun k => k = 6)

/-- WAITSEM_POLL (R58): a pending WAITSEM reads its semaphore again on a snoop of the line, or after 1,000 ticks. -/
def execWaitsemPoll (s : State) : Host.Outcome State Fault Refusal := s.attempt (fun k => k = 6)

/-- COPY (R58). -/
def execCopy (s : State) : Host.Outcome State Fault Refusal := s.attempt (fun k => k = 7)

/-- FENCE_PACKET (R55, R58): admitted once every earlier packet of the start list has completed. -/
def execFencePacket (s : State) : Host.Outcome State Fault Refusal := s.attempt (fun k => k = 8)

/-- XLINV_PACKET (R58). -/
def execXlinvPacket (s : State) : Host.Outcome State Fault Refusal := s.attempt (fun k => k = 9)

/-- A node of a replay is complete without an entry. -/
def State.nodeDone (s : State) (slot n : Nat) : State :=
  s.modSl slot (fun l => { l with pending := l.pending.map (fun p => if p.n = n && p.kind = 3 then
    { p with nodesLeft := p.nodesLeft - 1, status := if p.nodesLeft ≤ 1 then some (0, 0) else p.status } else p) })

/-- REPLAY_NODE_ENTRY (R60, R61, R75): the next node of a replay enters its entry die once that has a FREE entry. A record that
no LAUNCH packet could hold completes with BADPKT. The record of a node is not held back for room in CRING (assumption 76). -/
def execReplayNodeEntry (s : State) : Host.Outcome State Fault Refusal :=
  match s.sl? s.focus.slot with
  | none => .next s
  | some l =>
    match l.nodes, s.ctx? l.tid with
    | (n, b) :: rest, some c =>
      let s1 := s.modSl l.slot (fun l => { l with nodes := rest })
      if !s.cdRuns then .next s
      else if !launchOk b || pktField b 120 4 ≠ 0 then
        .next (((s1.report l.slot (pktReport b n 1 0)).nodeDone l.slot n).sweepSl l.slot)
      else
        let d := s.entryDie c ((pktTiles b).take 8) ((pktTiles b).drop 8)
        (match s.freeEntry d, s.counts l.slot l.order ((pktTiles b).take 8) with
        | some idx, some ws =>
          .next ((s1.modSl l.slot (fun l => { l with order := l.order + 1 })).addTask
            { launchTask b d idx l.tid l.slot n l.order with kind := 2, waits := ws })
        | _, _ => .next s)
    | _, _ => .next s

/-! ### CTX_DESTROY (R389) -/

/-- Remove the queued entries of a context, each DISCARDED, and the commands that no engine has begun (R96, R389). -/
def State.discardQueued (s : State) (tid : Nat) : State :=
  let cs := s.cmds.filter (fun c => c.tid = tid && c.party = 0)
  let s1 : State := { s with vqueues := s.vqueues.map (fun q => if q.tid = tid then
    q.without (fun k => cs.any (fun c => c.id = k)) else q) }
  { s1 with cmds := s1.cmds.filter (fun c => !(cs.any (fun x => x.id = c.id) && c.task.isNone)) }

/-- The last step of CTX_DESTROY: what is left of a context goes with its table entry. -/
def State.dropCtx (s : State) (tid : Nat) : State :=
  { s with
    l2 := s.l2.filter (fun l => match l.key with
      | .unb t _ => decide (t ≠ tid)
      | .frame _ => true)
    graphs := s.graphs.filter (fun g => g.tid ≠ tid)
    vqueues := s.vqueues.filter (fun q => q.tid ≠ tid)
    pools := s.pools.filter (fun p => p.tid ≠ tid)
    counters := s.counters.filter (fun c => c.1 ≠ tid)
    standing := s.standing.filter (fun x => x.1 ≠ tid)
    ctxs := s.ctxs.filter (fun c => c.tid ≠ tid) }

/-- Whether requests of a context that had left their ports when its tasks were killed have not been performed or refused yet: the
last step of CTX_DESTROY waits for them, which R89 has performed as if the task lived (assumption 68). -/
def State.inFlightOf (s : State) (tid : Nat) : Bool := s.ports.any (fun p => p.ctx = tid && !p.requests.isEmpty)

/-- CTX_DESTROY (R389): its steps, repeated until nothing of the context remains; only then is it answered. It
waits while a photo finish holds the dies (R116). -/
def execCtxDestroy (tid : Nat) (s : State) : Host.Outcome State Fault Refusal :=
  if s.power ≠ .run || s.uncoreStopped then .next s
  else match s.ctx? tid with
    | none => .next (s.replyStatus 1)
    | some c =>
      let s1 := c.slots.foldl (fun (s : State) k => s.endSl k) (s.modCtx tid (fun c => { c with closing := true }))
      let s2 := (s1.tasks.filter (fun t => t.ctx = tid)).foldl (fun (s : State) t => s.forceTask t 0xFFFFFFFC) s1
      let s3 := s2.discardQueued tid
      let s4 : State := { s3 with teams := s3.teams.filter (fun t => t.tid ≠ tid) }
      if s4.tasks.any (fun t => t.ctx = tid) || s4.leases.any (fun L => L.tid = tid) || s4.cmds.any (fun c => c.tid = tid)
          || s4.startLists.any (fun l => l.tid = tid) || s4.inFlightOf tid then .next s4
      else .next ((s4.dropCtx tid).replyStatus 0)

end Sys2Proof.Machine
end

