-- ==== Sys2Proof/Machine/Record.lean ====
section
/-! DEFINITION. Carried state and saved context: what a lease takes with it, the bytes of a checkpoint record, the save area,
and the record found again (R83, R84, R88, R98, R234, R235, R250, R386). -/

namespace Sys2Proof.Machine

open Sys2Proof

/-! ### Carried state (R83, R250) -/

/-- The items that a mask names, of the old registers; the rest of the new. -/
def carryVec {α : Type} {n : Nat} (mask : Nat) (old new : Vector α n) : Vector α n :=
  Vector.ofFn (fun i => if mask.testBit i.val then old[i] else new[i])

/-- The registers of a plane that are carried. -/
def PlaneCfg.carried (old new : PlaneCfg) (k v : Nat) : PlaneCfg :=
  { new with keep := carryVec k old.keep new.keep, vkeep := carryVec v old.vkeep new.vkeep }

/-- The CU state that is carried: tiles, weight buffers with WACT, DECAYG and FLG (R83, R235, assumption 21). -/
def Cu.carried (old : Cu) (c : Carry) : Cu :=
  { Cu.load with
    tiles := carryVec c.a old.tiles Cu.load.tiles
    wbuf := carryVec c.w old.wbuf Cu.load.wbuf
    wact := c.w ≠ 0 && old.wact
    decayg := old.decayg
    flg := old.flg }

/-- A descriptor as the image gives it, with the pointers and counts that it has reached (R84 step 6). -/
def Cbd.withPointers (new old : Cbd) : Cbd :=
  { new with
    free := old.free, filled := old.filled, pend := old.pend, consp := old.consp, prodp := old.prodp, resv := old.resv }

/-- The MU state that is carried: what is not carried of the scratchpad reads as zero, its constants with it (R83, R249). A
relocation (`move`) keeps the pointers of a descriptor that is not carried, since they move with the port (R84 step 6,
assumption 66). -/
def Mu.carried (old new : Mu) (c : Carry) (move : Bool) : Mu :=
  { sp := c.ranges.foldl (fun m r => memPutList m r.1 (memBytes old.sp r.1 r.2)) []
    bad := old.bad.filter (fun o => c.ranges.any (fun r => r.1 ≤ o && o < r.1 + r.2))
    cbs := Vector.ofFn (fun i =>
      if c.cb.testBit i.val then old.cbs[i] else if move then new.cbs[i].withPointers old.cbs[i] else new.cbs[i]) }

/-- A PE at its new place: as the image loads it, with what it carries, its invocation number and its command numbers. -/
def PE.carried (old new : PE) (c : Carry) (plane : Nat) (move : Bool) : PE :=
  { new with
    planes := Vector.ofFn (fun p => (old.planes[p]).carried new.planes[p] (nth c.k p.val 0) (nth c.v p.val 0))
    outs := Vector.ofFn (fun o => ⟨[], chDepth ((new.cfg plane).outVec o.val)⟩)
    inv := old.inv
    cmdNo := old.cmdNo
    cmdsOpen := old.cmdsOpen
    cu := old.cu.carried c
    mu := old.mu.carried new.mu c move }

/-- A lease at a new origin, its sites loaded from the image and given what they carry (R84 steps 4 to 6, R85); `move` tells a
relocation from a restore. -/
def Lease.carriedTo (L : Lease) (x y : Nat) (move : Bool) : Lease :=
  { L with
    x := x
    y := y
    pes := (loadSites L.image L.args (BitVec.ofNat 16 L.id) x y L.w L.h).map (fun n => match L.pe? n.dx n.dy with
      | some o => o.carried n (imageCarry L.image n.dx n.dy) L.plane move
      | none => n) }

/-- A PE at its new place when its lease was recorded in the middle of an invocation: what had finished is as after any checkpoint,
what had not stands as it stood, and the tokens in the channels stay (R99, assumption 73). -/
def PE.heldOver (old new : PE) (c : Carry) (plane : Nat) : PE :=
  if old.batonDone then { old.carried new c plane false with ins := old.ins, outs := old.outs }
  else { old with planes := Vector.ofFn (fun p => { old.planes[p] with fwid := new.planes[p].fwid }) }

/-- A lease restored at an origin in the middle of an invocation (R99, assumption 73). -/
def Lease.heldOverTo (L : Lease) (x y : Nat) : Lease :=
  { L with
    x := x
    y := y
    pes := (loadSites L.image L.args (BitVec.ofNat 16 L.id) x y L.w L.h).map (fun n => match L.pe? n.dx n.dy with
      | some o => { o.heldOver n (imageCarry L.image n.dx n.dy) L.plane with batonDone := false }
      | none => n) }

/-! ### The carried-state section (R386) -/

/-- The items of a list that a mask names. -/
def maskedList {α : Type} (mask : Nat) (l : List α) : List α := (l.zipIdx.filter (fun x => mask.testBit x.2)).map Prod.fst

/-- A vector keep register in a record. -/
def VReg.bytes (v : VReg) : List Byte :=
  toBytes 64 v.data.toNat ++ toBytes 4 v.tag.toNat ++ toBytes 4 v.scales.toNat ++ zeros 56

/-- An accumulator tile in a record. -/
def Tile.bytes (t : Tile) : List Byte :=
  t.halves.toList.flatMap (fun h => toBytes 64 h.toNat) ++ toBytes 2 t.stat.toNat ++ zeros 62

/-- A weight buffer in a record. -/
def WBuf.bytes (b : WBuf) : List Byte :=
  b.cols.toList.flatMap (fun c => toBytes 64 c.toNat) ++ toBytes 128 b.wsc.toNat ++ toBytes 512 b.map.toNat
    ++ toBytes 1 b.tag.toNat ++ toBytes 1 (b2n b.sparse) ++ zeros 62

/-- Bytes followed by zeros up to a multiple. -/
def padded (k : Nat) (l : List Byte) : List Byte := l ++ zeros (roundUp k l.length - l.length)

/-- The header of a site entry. -/
def siteHeader (p : PE) (c : Carry) : List Byte :=
  let cu := decide (p.kind = .cu)
  toBytes 1 p.dx ++ toBytes 1 p.dy ++ toBytes 1 p.kind.frame ++ zeros 1
    ++ toBytes 4 (if cu then p.cu.decayg.toNat else 0) ++ toBytes 1 (if cu then p.cu.flg.toNat % 32 else 0)
    ++ toBytes 1 (if c.w ≠ 0 then b2n p.cu.wact else 0) ++ zeros 6
    ++ (List.range 4).flatMap (fun q => toBytes 2 (nth c.k q 0) ++ toBytes 1 (nth c.v q 0) ++ zeros 1)
    ++ toBytes 1 (c.a + 16 * c.w) ++ zeros 1 ++ toBytes 2 c.cb ++ zeros 28

/-- A site entry. -/
def siteEntry (p : PE) (c : Carry) : List Byte :=
  padded 64 (siteHeader p c
    ++ p.planes.toList.zipIdx.flatMap (fun q => (maskedList (nth c.k q.2 0) q.1.keep.toList).flatMap (fun w => toBytes 8 w.toNat))
    ++ p.planes.toList.zipIdx.flatMap (fun q => (maskedList (nth c.v q.2 0) q.1.vkeep.toList).flatMap VReg.bytes)
    ++ (maskedList c.a p.cu.tiles.toList).flatMap Tile.bytes ++ (maskedList c.w p.cu.wbuf.toList).flatMap WBuf.bytes
    ++ (maskedList c.cb p.mu.cbs.toList).flatMap (fun d => toBytes 8 d.lo ++ toBytes 8 d.hi)
    ++ c.ranges.flatMap (fun r => memBytes p.mu.sp r.1 r.2))

/-- The carried-state section of a lease. -/
def Lease.carriedBytes (L : Lease) : List Byte :=
  (L.pes.filter (fun p => p.kind = .cu || imageHasCarry L.image p.dx p.dy)).flatMap (fun p =>
    siteEntry p (imageCarry L.image p.dx p.dy))

/-! ### The record (R235) -/

/-- The teams whose every member is in a lease. -/
def State.ownTeams (s : State) (L : Lease) : List Team :=
  s.teams.filter (fun t => t.tid = L.tid && !t.members.isEmpty && t.members.all (fun m => m.site.lease = L.id))

/-- The engine commands of a lease. -/
def State.leaseCmds (s : State) (id : Nat) : List EngCmd := s.cmds.filter (fun c => c.lease? = some id)

/-- The sync operations of a lease on their way. -/
def State.leaseSync (s : State) (id : Nat) : List SyncMsg := s.syncQ.filter (fun m => m.site.lease = id)

/-- PREC.w0: PARTY, ASID, CTX, PGRP, IN, BOUND and PORTID (R151, assumption 66). -/
def Port.prec0 (p : Port) : Nat :=
  p.party % 2 ^ 16 * 2 ^ 48 + p.asid % 2 ^ 16 * 2 ^ 32 + p.ctx % 2 ^ 10 * 2 ^ 22 + p.pgrp % 4 * 2 ^ 18 + b2n p.isIn * 2 ^ 17
    + b2n p.bound * 2 ^ 16 + p.id % 2 ^ 16

/-- PREC.w1: SFR and BUCKET (R151). -/
def Port.prec1 (p : Port) : Nat := p.sfr % 2 ^ 32 * 2 ^ 32 + p.bucket % 2 ^ 32

/-- PREC.w2: SLSTOP, FHOLD, FROZEN, HOLD, SLN and RQN (R151). -/
def Port.prec2 (p : Port) : Nat :=
  b2n p.slstop * 2 ^ 21 + b2n p.fhold * 2 ^ 20 + b2n p.frozen * 2 ^ 19 + b2n p.hold * 2 ^ 18 + p.sideLog.length * 2 ^ 8 + p.rqn

/-- The bytes of a port record that the manual gives: its three words. -/
def Port.precBytes (p : Port) : List Byte := toBytes 8 p.prec0 ++ toBytes 8 p.prec1 ++ toBytes 8 p.prec2

/-- The sections of a record, each in pieces: bytes that the manual gives, and how many follow that it does not. At the decision
of R98, before the lease is quiet, each request in flight, engine command and sync operation counts as a replay entry: the
model's choice (assumption 66). -/
def State.recordSections (s : State) (L : Lease) : List (List (List Byte × Nat)) :=
  let ps := s.leasePorts L.id
  let held := sumN (ps.map (fun p => (p.queue.filter (fun r => !r.op.isMarker)).length))
  [[([], 256)], [(L.image.flatMap (fun f => toBytes 32 f.toNat), 0)], [(L.carriedBytes, 0)], ps.map (fun p => (p.precBytes, 488)),
   [([], 96 * sumN (ps.map (fun p => p.sideLog.length)))], [([], 80 * sumN (ps.map (fun p => p.undo.length)))],
   [([], 96 * (held + (s.leaseCmds L.id).length + (s.leaseSync L.id).length))], [([], 128 * (s.ownTeams L).length)]]

/-- The bytes of a section. -/
def sectionSize (l : List (List Byte × Nat)) : Nat := sumN (l.map (fun x => x.1.length + x.2))

/-- S: the bytes of a record, each section aligned to 256 bytes. -/
def State.recordSize (s : State) (L : Lease) : Nat := sumN ((s.recordSections L).map (fun x => roundUp 256 (sectionSize x)))

/-- Bytes that the manual gives no value for, from the k-th free line on (assumption 7). -/
def freeBytes (k n : Nat) : List Byte :=
  ((List.range (ceilDiv n 64)).flatMap (fun i => toBytes 64 (Config.freeLine (k + i)).toNat)).take n

/-- A section with the bytes that align the next. -/
def closeSection (l : List (List Byte × Nat)) : List (List Byte × Nat) :=
  l ++ [([], roundUp 256 (sectionSize l) - sectionSize l)]

/-- The bytes of some pieces, and the number of the free line that follows. -/
def pieceBytes : Nat → List (List Byte × Nat) → List Byte × Nat
  | k, [] => ([], k)
  | k, (known, more) :: rest =>
    let r := pieceBytes (k + ceilDiv more 64) rest
    (known ++ freeBytes k more ++ r.1, r.2)

/-- A lease as it is saved: nothing of a move or of the places it stands in. -/
def Lease.toSave (L : Lease) : Lease :=
  { L with move := none, baton := none, stopIssue := false, ctrl := [], heldTraps := [], heldPrio := 0, lastMove := 0 }

/-- A request as it is saved: a load that has returned behind a held one is a replay entry with it (R99). -/
def Req.toSave (r : Req) : Req :=
  if r.op.loads && r.status.performed then { r with status := .held 0 false, leaf := none } else { r with leaf := none }

/-- A port as it is saved: its batons gone, and each fetch slot EMPTY with its pattern, `again` telling that it is to be
fetched again (R99, R156). -/
def Port.toSave (p : Port) : Port :=
  { p with
    frozen := false, hold := false
    queue := (p.queue.filter (fun r => match r.op with
      | .marker t => !t.isBaton
      | .tfetch => false
      | _ => true)).map Req.toSave
    fetch := p.fetch.map (fun f => if f.st = .empty then f else { f with st := .empty, held := [], read := [], sent := 0, again := true }) }

/-- The virtual die that a context maps to a live die; 7 where none is (R71). -/
def Ctx.virtual (c : Ctx) (d : Nat) : Nat := (c.diemap.findIdx? (fun x => x = d)).getD 7

/-- A live die as a record names it, by the context's DIEMAP (R71, R235). -/
def State.virtualDie (s : State) (tid d : Nat) : Nat := ((s.ctx? tid).map (fun c => c.virtual d)).getD 7

/-- The record of a lease as it stands, and what it stands for. -/
def State.makeRecord (s : State) (L : Lease) : Save × State :=
  let r := pieceBytes s.freeCount ((s.recordSections L).flatMap closeSection)
  ({ bytes := r.1, lease := L.toSave, ports := (s.leasePorts L.id).map Port.toSave, teams := s.ownTeams L
     sync := (s.leaseSync L.id).map (fun m => { m with die := s.virtualDie L.tid m.die })
     cmds := (s.leaseCmds L.id).map (fun c => { c with die := s.virtualDie L.tid c.die }), offset := ((s.ctx? L.tid).map Ctx.offset).getD 0
     ctime := s.contextTime L.tid, top := s.nextId, whole := !L.pes.all PE.batonDone }, { s with freeCount := r.2 })

/-! ### The save area (R98, R234) -/

/-- The slots of a context's save area: how many and how large, if its header is well formed. -/
def State.saveArea (s : State) (c : Ctx) : Option (Nat × Nat) :=
  match (s.cdRead c.tid c.saveva 8 false).1 with
  | .error _ => none
  | .ok b =>
    let h := ofBytes b
    if h ≠ bitsOf h 0 6 + bitsOf h 8 5 * 2 ^ 8 || bitsOf h 8 5 > 14 then none else some (bitsOf h 0 6 + 1, 65536 * 2 ^ bitsOf h 8 5)

/-- The VA of a directory entry. -/
def Ctx.dirVa (c : Ctx) (i : Nat) : Nat := wrapN 57 ((c.saveva + 64 * (i + 1) : Nat) : Int)

/-- The VA of a slot of a size. -/
def Ctx.slotVa (c : Ctx) (size i : Nat) : Nat := wrapN 57 ((c.saveva + 8192 + i * size : Nat) : Int)

/-- The lowest slot that a record of a size can take: its index and VA. -/
def State.openSlot (s : State) (c : Ctx) (need : Nat) : Option (Nat × Nat) :=
  match s.saveArea c with
  | none => none
  | some (n, size) =>
    if need > size then none
    else match (List.range n).find? (fun i => match (s.cdRead c.tid (wrapN 57 ((c.dirVa i + 6 : Nat) : Int)) 1 false).1 with
        | .ok b => ofBytes b % 2 = 0
        | .error _ => true) with
      | none => none
      | some i => match (s.cdRead c.tid (wrapN 57 ((c.dirVa i + 6 : Nat) : Int)) 1 false).1 with
        | .ok _ => some (i, c.slotVa size i)
        | .error _ => none

/-- C: the cost of a checkpoint in fabric cycles, if it is finite (R98, R234). -/
def State.checkpointCost (s : State) (L : Lease) : Option Nat :=
  match s.ctx? L.tid with
  | none => none
  | some c => (s.openSlot c (s.recordSize L)).map (fun _ => ceilDiv (s.recordSize L) 128 + 2048)

/-! ### A record found again (R88, R114) -/

/-- The first of some records whose bytes stand at an address of a context. -/
def State.findSave (s : State) (tid va : Nat) (l : List Save) : Option Save :=
  l.find? (fun b => match (s.cdRead tid va b.bytes.length false).1 with
    | .ok bs => decide (bs = b.bytes)
    | .error _ => false)

/-- The address of a saved context. -/
def State.savedVa (s : State) (c : Ctx) : Saved → Option Nat
  | .no => none
  | .lease va => some va
  | .slot i _ _ => (s.saveArea c).map (fun a => c.slotVa a.2 i)

/-! ### Numbers made fresh at a restore -/

/-- A site under a new lease number. -/
def SiteRef.shift (k : Nat) (r : SiteRef) : SiteRef := { r with lease := r.lease + k }

/-- A destination under new numbers. -/
def Dest.shift (k : Nat) : Dest → Dest
  | .none => .none
  | .slot site n => .slot (site.shift k) n
  | .chan site ch => .chan (site.shift k) ch
  | .fetch fs => .fetch fs
  | .engine c off => .engine (c + k) off

/-- A request under new numbers. -/
def Req.shift (k : Nat) (r : Req) : Req := { r with id := r.id + k, after := r.after.map (· + k), dest := r.dest.shift k }

/-- A port under new numbers. -/
def Port.shift (k : Nat) (p : Port) : Port :=
  { p with
    id := p.id + k
    owner := match p.owner with
      | .mu site => .mu (site.shift k)
      | o => o
    queue := p.queue.map (Req.shift k)
    sideLog := p.sideLog.map (fun e => { e with req := e.req.shift k }) }

/-- A team under new numbers. -/
def Team.shift (k : Nat) (t : Team) : Team := { t with members := t.members.map (fun m => { m with site := m.site.shift k }), colls := [] }

/-- A sync operation under new numbers. -/
def SyncMsg.shift (k : Nat) (m : SyncMsg) : SyncMsg := { m with site := m.site.shift k, after := m.after.map (· + k) }

/-- A command under new numbers. -/
def EngCmd.shift (k : Nat) (c : EngCmd) : EngCmd :=
  { c with id := c.id + k, site := c.site.map (fun x => (x.1.shift k, x.2)), party := 0, cbSlot := none }

/-- What a release goes on to, under new numbers. -/
def AfterRelease.shift (k : Nat) : AfterRelease → AfterRelease
  | .engine c => .engine { c with site := c.site.map (fun x => (x.1.shift k, x.2)) }
  | a => a

/-- An instruction in flight under new numbers. -/
def Flight.shift (k : Nat) (f : Flight) : Flight :=
  { f with op := match f.op with
      | .release w a => .release (w.map (· + k)) (a.shift k)
      | .ncinv l => .ncinv (l.map (· + k))
      | o => o }

/-- A lease under new numbers. -/
def Lease.shift (k : Nat) (L : Lease) : Lease :=
  { L with
    id := L.id + k
    pes := L.pes.map (fun p => { p with
      inst := p.inst.map (fun i => { i with flight := i.flight.map (Flight.shift k) })
      mu := { p.mu with cbs := p.mu.cbs.map (fun d => { d with resv := d.resv.map (fun r => { r with cmd := r.cmd + k }) }) } }) }

end Sys2Proof.Machine
end

