-- ==== Sys2Proof/Machine/Placement.lean ====
section
/-! DEFINITION. Placing a lease: its ports and parties, a restore, the requests that make room, and the placer's steps (R81,
R82, R88, R97, R98, R101, R151, R179, R180, R194, R236). -/

namespace Sys2Proof.Machine

open Sys2Proof

/-! ### Ports and parties (R151, R179, R194) -/

/-- The parties of some groups, each begun on an id of its own. -/
def State.beginGroups (s : State) : List Nat → List (Nat × Nat) × State
  | [] => ([], s)
  | g :: gs =>
    let id := s.freeParty
    let r := (s.beginParty id).beginGroups gs
    ((g, id) :: r.1, r.2)

/-- The clusters of a lease. -/
def Lease.clusters (L : Lease) : List (Nat × Nat) := (L.rect.cells.map (fun c => (dieOf c.1 c.2, clusterOf c.1 c.2))).dedup

/-- A launch or restore acquires at DEVICE scope for every party of the lease, and removes every near-cache line of the clusters
it occupies (R194). -/
def State.launchAcquire (s : State) (L : Lease) (parties : List Nat) : State :=
  let s1 := parties.foldl (fun (s : State) k => s.acquire k 2) s
  { s1 with near := s1.near.filter (fun n => !L.clusters.contains (n.die, n.cluster)) }

/-- The MUs of a lease. -/
def Lease.mus (L : Lease) : List PE := L.pes.filter (fun p => p.kind = .mu)

/-- Bind a port for each of some MUs. -/
def State.bindPorts (s : State) (L : Lease) (asid : Nat) (groups : List (Nat × Nat)) : List PE → State
  | [] => s
  | p :: ps =>
    let party := lookupD groups (imagePgrp L.image p.dx p.dy) 0
    let q := Port.fresh s.freePort (.mu ⟨L.id, p.dx, p.dy⟩) (L.dieAt p.dx p.dy) L.tid asid party (s.sfrOf party)
      (imagePgrp L.image p.dx p.dy) (L.isInput p.dx p.dy)
    State.bindPorts { s with ports := s.ports ++ [q] } L asid groups ps

/-- Place a lease task at a rectangle: the image loaded, the ports bound, the task RUNNING (R80, R81, R151, R194). -/
def State.placeLease (s : State) (t : Task) (image : Image) (args : List Word) (r : Rect) (held : Nat) : State :=
  let n := s.fresh
  let L := { Lease.grant n.1 t.ctx t.die t.idx r.x r.y r.w r.h t.firmware image args with heldPrio := held }
  let g := { n.2 with leases := n.2.leases ++ [L] }.beginGroups (L.mus.map (fun (p : PE) => imagePgrp image p.dx p.dy)).dedup
  let asid := ((s.ctx? t.ctx).map Ctx.asid).getD 0
  ((g.2.bindPorts L asid g.1 L.mus).launchAcquire L (g.1.map Prod.snd)).modTask t.die t.idx (fun t => { t with st := .running })

/-! ### A restore (R88, R101, R156, R235) -/

/-- The party that a restored port goes on with: its own, unless another party lives under that id now, since an id is unique
while its party lives (R88, R179, assumption 21). -/
def State.keepParty (s : State) (k sfr : Nat) : Nat × State :=
  let taken := s.ports.any (fun p => p.bound && p.party = k) || s.cmds.any (fun c => c.party = k)
  if taken then (s.freeParty, s.beginParty s.freeParty)
  else if (s.partyOf k).live then (k, s)
  else (k, s.setParty ⟨k, max (s.partyOf k).sfr sfr, s.ticks, true, false⟩)

/-- The parties of some restored ports, each with the id it goes on with. -/
def State.keepParties (s : State) : List (Nat × Nat) → List (Nat × Nat) × State
  | [] => ([], s)
  | (k, sfr) :: rest =>
    let r := s.keepParty k sfr
    let q := r.2.keepParties rest
    ((k, r.1) :: q.1, q.2)

/-- The live die that a record's virtual die is bound to: what DIEMAP then holds, or another where it maps it to none (R71,
assumption 21). -/
def State.bindDie (s : State) (tid v other : Nat) : Nat := (((s.ctx? tid).bind (fun c => c.die? v))).getD other

/-- The saved teams join the sync unit of the lease's die again, or the team of their number that there is by now. -/
def State.restoreTeam (s : State) (die : Nat) (t : Team) : State :=
  if s.teams.any (fun u => u.tid = t.tid && u.num = t.num) then
    s.modTeam t.tid t.num (fun u => { u with members := u.members ++ t.members })
  else { s with teams := s.teams ++ [{ t with die := die }] }

/-- The memberships that a saved lease kept in the teams of others are its again, under its new number. -/
def State.rejoin (s : State) (saved : Saved) (k : Nat) : State :=
  match saved with
  | .slot _ id _ =>
    let f := fun (m : Member) => if m.site.lease = id then { m with site := m.site.shift k } else m
    { s with teams := s.teams.map (fun t => { t with members := t.members.map f }) }
  | _ => s

/-- An engine replay entry is queued again, from the bytes it has done (R99). -/
def State.requeueCmd (s : State) (c : EngCmd) : State :=
  let es := (c.entries.filter (fun e => c.turn < e.off + e.len)).map (fun e =>
    if e.off < c.turn then ⟨e.cmd, c.turn, e.off + e.len - c.turn⟩ else e)
  let s1 : State := { s with cmds := s.cmds ++ [{ c with segsLeft := es.length }] }
  match s1.vq? c.die c.tid c.op.kind with
  | some _ => { s1 with
      vqueues := updWhere (fun q => q.die = c.die && q.tid = c.tid && q.kind = c.op.kind)
        (fun q => { q with entries := q.entries ++ es }) s1.vqueues }
  | none => { s1 with vqueues := s1.vqueues ++ [⟨c.die, c.tid, c.op.kind, es, 0⟩] }

/-- The context's offset after a restore (R101). -/
def restoreOffset (saved ctime now : Nat) : Nat := wrapN 64 (max (saved : Int) ((ctime : Int) + 1 - (now : Int)))

/-- A restored port: bound to the context and place it has now, with its party; what it held for traps is issued again before
any new request, and its slots are fetched again (R84 step 6, R99, R156, R380). -/
def Port.restored (p : Port) (L : Lease) (asid : Nat) (parties : List (Nat × Nat)) (sfr : Nat → Nat) : Port :=
  let party := lookupD parties p.party p.party
  { p with
    ctx := L.tid, asid := asid, party := party, sfr := sfr party
    die := match p.owner with
      | .mu site => L.dieAt site.dx site.dy
      | .engine d _ _ => d
    queue := p.queue.map Req.letGo
    fetch := p.fetch.map (fun f => if f.again then f.restart else f)
    sideLog := p.sideLog.map (fun e => { e with req := e.req.letGo }) }

/-- Restore a saved lease at a rectangle, which counts as a relocation of it (R82, R84 steps 5 to 7, R88). -/
def State.restoreLease (s : State) (t : Task) (b : Save) (r : Rect) (held : Nat) : State :=
  let k := s.nextId
  let asid := ((s.ctx? t.ctx).map Ctx.asid).getD 0
  let L := { (if b.whole then (b.lease.shift k).heldOverTo r.x r.y else (b.lease.shift k).carriedTo r.x r.y false) with
    tid := t.ctx, die := t.die, entry := t.idx, heldPrio := held, firmware := t.firmware, lastMove := s.fabric + 1 }
  let unit := fun (m : SyncMsg) => match s.team? t.ctx m.team with
    | some u => u.die
    | none => s.bindDie t.ctx m.die (L.dieAt 0 0)
  let g := { s with nextId := k + b.top + 1, leases := s.leases ++ [L] }.keepParties
    (b.ports.map (fun (p : Port) => (p.party, p.sfr))).dedup
  let ps := b.ports.map (fun p => (p.shift k).restored L asid g.1 (fun q => (g.2.partyOf q).sfr))
  let s1 : State := { g.2 with
    ports := g.2.ports ++ ps
    syncQ := g.2.syncQ ++ b.sync.map (fun (m : SyncMsg) => { m.shift k with tid := t.ctx, die := unit m }) }
  let s2 := b.teams.foldl (fun (s : State) u => s.restoreTeam (L.dieAt 0 0) { u.shift k with tid := t.ctx }) (s1.rejoin t.saved k)
  let s3 := b.cmds.foldl (fun (s : State) c => s.requeueCmd { c.shift k with
    tid := t.ctx, die := s.bindDie t.ctx c.die (L.dieAt 0 0) }) s2
  let s5 := (g.1.map Prod.snd).foldl (fun (s : State) q => s.endSfr q) (s3.launchAcquire L (g.1.map Prod.snd))
  let s6 := (s5.modCtx t.ctx (fun c => { c with offset := restoreOffset b.offset b.ctime s.ticks })).freeSlot t.ctx t.saved
  (s6.modTask t.die t.idx (fun t => { t with st := .running, saved := .no, w := L.w, h := L.h })).setHolds L.id

/-- Place a task: a new lease, or the one that it restores; a seam that this overloads is quiesced (R34). -/
def State.settleTask (s : State) (t : Task) (image : Image) (args : List Word) (save : Option Save) (r : Rect) (held : Nat) : State :=
  (match save with
  | none => s.placeLease t image args r held
  | some b => s.restoreLease t b r held).tightenSeams

/-! ### What a task loads (R81, R88, R243, R377) -/

/-- What the placer finds when it reads a task's image, or its saved context. -/
inductive TaskLoad where
  | reject (status detail : Nat)
  | wait
  | ok (image : Image) (args : List Word) (save : Option Save)

/-- Whether the dies that hold some bytes of a context are RUNNING, as far as they are mapped: one line of each 64 KiB stands for its
page, which lies on one die (R161, R377). -/
def State.holdersRun (s : State) (tid va n : Nat) : Bool :=
  (List.range (n / 65536 + 2)).all (fun i => match (s.cdLoc tid (wrapN 57 ((va + min (65536 * i) (n - 1) : Nat) : Int)) false false).1 with
    | .ok loc => loc.die ≥ 4 || s.running loc.die
    | .error e => decide (e ≠ cDieDown))

/-- Read a saved context: one that no record stands behind cannot be read as an image (assumption 21); one of which a die that holds it,
or the save area's header, is not RUNNING waits (R377). -/
def State.loadSaved (s : State) (c : Ctx) (v : Saved) : TaskLoad :=
  let head := match v with
    | .slot _ _ _ => s.holdersRun c.tid c.saveva 8
    | _ => true
  if !head then .wait
  else match s.savedVa c v with
  | none => .reject 2 1
  | some va => match (s.cdRead c.tid va 64 false).1 with
    | .error e => if e = cDieDown then .wait else .reject 2 (1 + e * 2 ^ 8)
    | .ok _ => match s.findSave c.tid va s.keep.saves with
      | none => if s.keep.saves.all (fun b => s.holdersRun c.tid va b.bytes.length) then .reject 2 1 else .wait
      | some b => if s.holdersRun c.tid va b.bytes.length then .ok b.lease.image b.lease.args (some b) else .wait

/-- Read what a READY task loads. -/
def State.loadTask (s : State) (c : Ctx) (t : Task) : TaskLoad × State :=
  if t.saved ≠ .no then (s.loadSaved c t.saved, s)
  else match s.readImage t.ctx t.image with
    | (.error e, s1) => (.reject 2 (e.1 + e.2 * 2 ^ 8), s1)
    | (.ok image, s1) =>
      match imageStatus image t.firmware s.fuses.nlive with
      | some st => (.reject 2 st, s1)
      | none =>
        if t.w ≠ imageW image || t.h ≠ imageH image then (.reject 3 0, s1)
        else match s1.readArgs t.ctx t.args (imageArgs image) with
          | (.error e, s2) => (.reject 2 (1 + e * 2 ^ 8), s2)
          | (.ok args, s2) => (.ok image args none, s2)

/-! ### Requests to move and victims (R82, R97, R98) -/

/-- Ask a lease to move at the first exchange zone whose EOI has entered no input port (R83). One that completes is not
asked; one that unwinds fixes its zone afterwards (R232). -/
def State.requestMove (s : State) (id : Nat) (job : MoveJob) (resv : Option Nat) : State :=
  match s.lease? id with
  | none => s
  | some L =>
    if L.move.isSome || L.baton = some 0 then s
    else
      let zone := if L.unwind.isSome then none else imageNextZone L.image (s.nextEoi L)
      let m : Move := ⟨job, b2n zone.isSome, zone.getD 0, s.fabric, resv⟩
      ((s.modLease id (fun L => { L with move := some m })).modTask L.die L.entry (fun t => { t with st := .moving })).setHolds id

/-- A victim is killed and queued again: its entry goes through MOVING to SAVED with no save-area content, and from there to
READY; it restarts from its image's beginning (R72, R98 row 3). -/
def State.requeueTask (s : State) (t : Task) (id : Nat) : State :=
  (s.dropLease id).modTask t.die t.idx (fun t => { t with st := .saved, saved := .no })

/-- The action that a victim takes, from a row of the table of R98 on. -/
def State.victim (s : State) (id row resv : Nat) : State :=
  match s.lease? id with
  | none => s
  | some L =>
    match s.task? L.die L.entry, s.ctx? L.tid with
    | some t, some c =>
      let cost := s.checkpointCost L
      let drain := fun (r : Resv) => { r with drains := r.drains ++ [(id, s.fabric + 2 * c.drain)] }
      if row ≤ 1 && L.parked.isNone && 1024 * t.rem ≤ c.drain then
        { s with resvs := updWhere (fun r => r.id = resv) drain s.resvs }
      else if row ≤ 2 && (imageCut L.image).isSome && cost.any (fun n => decide (n < 1024 * t.rem)) then
        s.requestMove id (.checkpoint none) (some resv)
      else if t.cls = 1 then s.requeueTask t id
      else if cost.isNone then s.killTask t 0xFFFFFFFF
      else s.requestMove id (.checkpoint (some (s.fabric + 2 * c.drain))) (some resv)
    | _, _ => s

/-- Reserve a window for a newcomer, which is PLACING until every cell of it is FREE, or for a lease that must leave its place. -/
def State.reserve (s : State) (t : Task) (image : Image) (args : List Word) (save : Option Save) (r : Rect) (held : Nat)
    (dests : List (Nat × Nat × Nat)) : Nat × State :=
  let n := s.fresh
  let q : Resv := ⟨n.1, t.die, t.idx, r.x, r.y, r.w, r.h, held, image, args, save, dests, []⟩
  (n.1, { n.2 with resvs := n.2.resvs ++ [q] }.modTask t.die t.idx (fun t => if t.st = TaskState.ready then { t with st := TaskState.placing } else t))

/-! ### The steps of the placer (R77 to R80) -/

/-- The held priority of a task that enters PLACING (R97). -/
def State.heldPriority (s : State) (c : Ctx) (t : Task) : Nat :=
  let leases := sumN ((s.leases.filter (fun L => L.tid = c.tid)).map Lease.heldPrio)
  let resvs := sumN ((s.resvs.filter (fun r => (s.task? r.die r.idx).any (fun k => k.ctx = c.tid && (s.leaseOf k).isNone))).map Resv.heldPrio)
  min t.prio (c.pbudget - (leases + resvs))

/-- Make room for a task by compaction, else by pre-emption (R80 steps 3 and 4). -/
def State.makeWay (s : State) (t : Task) (image : Image) (args : List Word) (save : Option Save) (held d : Nat) : Option State :=
  match s.compaction t image d with
  | some (r, ds) =>
    let q := s.reserve t image args save r held ds
    some (ds.foldl (fun (s : State) x => s.requestMove x.1 (.move x.2.1 x.2.2) (some q.1)) q.2)
  | none => (s.preemption image held d).map (fun x =>
      let q := s.reserve t image args save x.1 held []
      x.2.foldl (fun (s : State) L => s.victim L.id 1 q.1) q.2)

/-- Try to place a READY task: none where every step fails, or a restore must wait. -/
def State.tryPlace (s : State) (t : Task) : Option State :=
  match s.ctx? t.ctx with
  | none => none
  | some c =>
    match s.loadTask c t with
    | (.wait, _) => none
    | (.reject st detail, s1) => some (s1.finishTask t false st detail)
    | (.ok image args save, s1) =>
      if save.isSome && !s1.fitsAtAll image then some (s1.finishTask t false 2 13)
      else
        let held := s1.heldPriority c t
        let d := s1.firingDie c t
        match (s1.onDie image s1.takenRects d) <|> (s1.straddling image d) with
        | some r => some (s1.settleTask t image args save r held)
        | none => s1.makeWay t image args save held d

/-- A die's ready queue: PRIO, highest first, then the time each became READY (R77). -/
def State.readyQueue (s : State) (die : Nat) : List Task :=
  (s.tasks.filter (fun t => t.die = die && t.st = .ready && t.cmd.isNone)).mergeSort
    (fun a b => a.prio > b.prio || (a.prio = b.prio && a.readyAt ≤ b.readyAt))

/-- Go along a ready queue until one is placed: each that is not has its SKIPS raised, and one with 64 of them lets none behind
it be placed (R80). -/
def State.placeFirst (s : State) : List Task → State
  | [] => s
  | t :: rest =>
    match s.tryPlace t with
    | some s1 => s1
    | none =>
      let n := min 255 (t.skips + 1)
      let s1 := s.modTask t.die t.idx (fun t => { t with skips := n })
      if n ≥ 64 then s1 else s1.placeFirst rest

/-! ### Leases that must leave their place (R34, R223, R237) -/

/-- Whether a lease stands on a die that a warm reset evacuates. -/
def State.evacuating (s : State) (L : Lease) : Bool := s.resets.any (fun r => r.step = 2 && L.rect.dies.contains r.die)

/-- Whether a lease has channels across a seam that is quiesced alone. -/
def State.crossesQuiet (s : State) (L : Lease) : Bool :=
  (seamPairs L.rect.dies).any (fun p => L.seamUnits L.x L.y p.1 p.2 ≠ 0
    && ((seamOf p.1 p.2).bind (fun k => s.links[k]?)).any (fun l => l.alone))

/-- Whether a lease has an exchange zone at which it may be asked to leave, and no window is held for it yet: it is movable, or
its die is evacuated. -/
def State.mayLeave (s : State) (L : Lease) : Bool :=
  if s.resvs.any (fun r => r.die = L.die && r.idx = L.entry) then false
  else if s.evacuating L then
    (imageCut L.image).isSome && L.move.isNone && (s.task? L.die L.entry).any (fun t => decide (t.st = .running))
  else s.movable L && (s.crossesQuiet L || L.rect.cells.any s.retiredNow)

/-- Ask a lease to leave: for the place that R80 finds it on its firing die, compaction and pre-emption with it, or, where its
die is evacuated, into a checkpoint; it runs on where it can have neither (R223, R237). -/
def State.askToLeave (s : State) (L : Lease) : State :=
  match s.ctx? L.tid, s.task? L.die L.entry with
  | some c, some t =>
    let d := s.firingDie c t
    match (s.onDie L.image s.takenRects d) <|> (s.straddling L.image d) with
    | some r => s.requestMove L.id (.move r.x r.y) none
    | none => match s.makeWay t L.image L.args none L.heldPrio d with
      | some s1 => s1
      | none => if s.evacuating L && (s.checkpointCost L).isSome then s.requestMove L.id (.checkpoint none) none else s
  | _, _ => s

/-- Ask every lease that must leave its place and may. -/
def State.evacuate (s : State) : State :=
  s.leases.foldl (fun (s : State) L => if s.mayLeave L then s.askToLeave L else s) s

/-- PLACER_PLACEMENT (R34, R79, R80, R88, R223, R237): the placer asks leases that must leave their place to
move, and serves the next die in turn: its SAVED tasks join the ready queue again, and one placement is made from its head,
unless one of that die is still under way. -/
def execPlacerPlacement (s : State) : Host.Outcome State Fault Refusal :=
  if !s.cdRuns then .next s
  else
    let die := s.dieTurn % max 1 s.fuses.nlive
    let saved := s.tasks.filter (fun t => t.die = die && t.st = .saved)
    let s1 := saved.foldl (fun (s : State) t => s.becomeReady t.die t.idx) s.evacuate
    let s2 := if s1.resvs.any (fun r => r.die = die) then s1 else s1.placeFirst (s1.readyQueue die)
    .next { s2 with dieTurn := (die + 1) % max 1 s.fuses.nlive }

/-- RESERVED_WINDOW_PLACE (R82, R97, R223): no lease stands in a reserved window any more: its newcomer is placed there, or the
lease that it is held for is asked to move there. A site of it that has been retired, or a die of it that no longer runs,
releases the reservation instead. -/
def execReservedWindowPlace (s : State) : Host.Outcome State Fault Refusal :=
  match s.resvs.find? (fun r => r.id = s.focus.req) with
  | none => .next s
  | some r =>
    if !s.cdRuns || s.leases.any (fun L => L.rect.meets r.window) then .next s
    else if r.window.cells.any (fun c => s.barred c.1 c.2) || !r.window.dies.all s.running then .next (s.dropResv r.id)
    else match s.task? r.die r.idx with
      | none => .next (s.dropResv r.id)
      | some t =>
        let s1 : State := { s with resvs := s.resvs.filter (fun x => x.id ≠ r.id) }
        match s.leaseOf t with
        | some L => .next (s1.requestMove L.id (.move r.x r.y) none)
        | none => .next (s1.settleTask t r.image r.args r.save r.window r.heldPrio)

/-- DRAIN_DEADLINE (R98): a DRAIN victim that still runs is decided again by rows 2 to 4, after a standing checkpoint that it
takes just then. -/
def execDrainDeadline (s : State) : Host.Outcome State Fault Refusal :=
  match s.resvs.find? (fun r => r.id = s.focus.req) with
  | none => .next s
  | some r =>
    match r.drains.find? (fun x => x.1 = s.focus.site.lease) with
    | none => .next s
    | some (id, deadline) =>
      if !s.cdRuns || s.fabric < deadline || (s.lease? id).any (fun L => L.move.isSome) then .next s
      else
        let s1 : State := { s with
          resvs := updWhere (fun x => x.id = r.id) (fun x => { x with drains := x.drains.filter (fun d => d.1 ≠ id) }) s.resvs }
        match s.lease? id with
        | none => .next s1
        | some L =>
          if (s.task? L.die L.entry).any (fun t => decide (t.st ≠ .running)) then .next s1
          else .next (s1.victim id 2 r.id)

end Sys2Proof.Machine
end

