-- ==== Sys2Proof/Machine/Relocate.lean ====
section
/-! DEFINITION. Relocations, checkpoints and standing checkpoints: reaching the exchange zone, the move, the record, and what
abandons them (R83 to R88, R98, R99, R108, R234, R235, R368, R377). -/

namespace Sys2Proof.Machine

open Sys2Proof

/-! ### Abandoning (R82, R86, R377) -/

/-- Forget a standing checkpoint in a slot. -/
def State.forgetStanding (s : State) (tid va : Nat) : State :=
  { s with standing := s.standing.filter (fun x => !(x.1 = tid && x.2.1 = va)) }

/-- A move is abandoned: the lease runs on at its source; a compaction's reservation is released, and a victim is decided again
by rows 3 and 4 (R82, R86, R377). -/
def State.abandonMove (s : State) (id : Nat) : State :=
  match (s.lease? id).bind Lease.move with
  | none => s
  | some m =>
    let s1 := (s.cancelMove id).setHolds id
    match m.job, m.resv with
    | .move _ _, some r => s1.dropResv r
    | .checkpoint _, some r => s1.victim id 3 r
    | _, _ => s1

/-! ### Steps 1 to 3 (R83, R84, R368) -/

/-- The baton job of a move (R129, R133). -/
def MoveJob.baton : MoveJob → Nat
  | .move _ _ => 1
  | .checkpoint _ | .standing _ _ => 2

/-- Whether every input port of a lease stands in HOLD. -/
def State.allHeld (s : State) (id : Nat) : Bool := (s.leasePorts id).all (fun p => !p.isIn || p.hold)

/-- Whether the boundary that the input ports stand at is the one after the lease's last invocation: every INPUT load pattern has
issued its last EOI, and the plane pending for that boundary, if any, gives none anything more to issue. Where no INPUT pattern
loads, the store patterns decide (R283, R368, R383). -/
def State.lastBoundary (s : State) (L : Lease) : Bool :=
  let pats := fun (s : State) => (s.leasePorts L.id).flatMap s.patsOf
  let ended := fun (M : Lease) (xs : List (Nat × BitVec 384 × Bool × Live)) =>
    let ins := xs.filter (fun x => patInput x.2.1 && patDir x.2.1 < 2)
    let loads := ins.filter (fun x => patDir x.2.1 = 0)
    (if loads.isEmpty then ins else loads).all (fun x => M.patEnded x.2.1 x.2.2.1 x.2.2.2)
  ended L (pats s) && (match L.pend with
    | none => true
    | some (plane, j) => L.retireAt.any (fun r => decide (r ≤ j)) ||
      (let s1 := (s.modLease L.id (fun L => { L with plane := plane })).resumeLive L.id (j + 1)
       ended L (pats s1)))

/-- RELOCATION_START (R83, R84, R368): a move whose zone is not fixed, after an unwind, fixes it; one whose zone's EOI has left
every input port has its batons injected behind it. Where that boundary ends the lease, the move is cancelled instead. -/
def execRelocationStart (s : State) : Host.Outcome State Fault Refusal :=
  let id := s.focus.site.lease
  match s.lease? id with
  | none => .next s
  | some L =>
    match L.move with
    | none => .next s
    | some m =>
      if !s.cdRuns || s.fabricStopped || L.unwind.isSome || L.parked.isSome then .next s
      else if m.step = 0 then
        (match imageNextZone L.image (s.nextEoi L) with
        | none => .next s
        | some z => .next ((s.modLease id (fun L => { L with move := some { m with step := 1, zone := z } })).setHolds id))
      else if m.step = 1 && s.allHeld id then
        (if s.lastBoundary L then .next (((s.cancelMove id).setHolds id).completeInputs id)
         else .next ((s.modLease id (fun L => { L with
            move := some { m with step := 2, since := s.fabric } })).injectBatons id m.job.baton))
      else .next s

/-- Whether the batons of a move have reached every sink, store patterns with them, and every port has drained (R84 step 3, R133,
R134). -/
def State.drainedFor (s : State) (L : Lease) : Bool :=
  L.unwind.isNone && L.pes.all PE.batonDone && (match L.move with
    | some m => m.step = 2 && L.baton = some m.job.baton && s.sinksReached L m.job.baton
        && (s.leasePorts L.id).all (fun p => p.settled 1)
    | none => false)

/-- Whether a move is a pre-emption or evacuation checkpoint. -/
def MoveJob.preempts : MoveJob → Bool
  | .checkpoint _ => true
  | .move _ _ | .standing _ _ => false

/-- RELOCATION_TIMEOUT (R86, R99): step 3 is not reached within 2^20 fabric cycles of step 2, and it is no load held by a fault
that keeps a checkpoint from it. -/
def execRelocationTimeout (s : State) : Host.Outcome State Fault Refusal :=
  match s.lease? s.focus.site.lease with
  | none => .next s
  | some L =>
    match L.move with
    | none => .next s
    | some m =>
      let exempt := m.job.preempts && (s.leasePorts L.id).any Port.fhold
      if s.cdRuns && m.step = 2 && s.fabric ≥ m.since + 2 ^ 20 && !exempt then .next (s.abandonMove L.id) else .next s

/-! ### A relocation (R84 steps 4 to 8, R85, R86) -/

/-- The party of a lease that has moved finds no line of its ASID in the near caches that it now issues through, RO ones apart: one
brought in there before could be older than what it has read or written already (R182, R185). -/
def State.arriveNear (s : State) (id : Nat) : State :=
  let ps := (s.leasePorts id).filterMap (fun p => (s.clusterAt p).map (fun a => (a, p.asid)))
  { s with near := s.near.filter (fun n => n.ro || !ps.contains ((n.die, n.cluster), n.asid)) }

/-- The lease stands at its new origin: its ports moved with it, HOLD released, the traps held raised, its source FREE. -/
def State.finishMove (s : State) (L : Lease) (x y : Nat) : State :=
  let N := { L.carriedTo x y true with move := none, baton := none, lastMove := s.fabric + 1, heldTraps := [] }
  let rebind := fun (p : Port) => match p.owner with
    | .mu site => if site.lease = L.id then { p with die := N.dieAt site.dx site.dy } else p
    | .engine _ _ _ => p
  let s1 := (s.modLease L.id (fun _ => N)).modTask L.die L.entry (fun t => { t with st := .running })
  let s2 : State := { s1 with
    ports := s1.ports.map rebind
    resvs := s1.resvs.map (fun r => { r with dests := r.dests.filter (fun d => d.1 ≠ L.id) }) }
  (((s2.arriveNear L.id).setHolds L.id).putBack L.heldTraps).tightenSeams

/-- RELOCATION_DRAINED (R35, R84 to R86): steps 4 to 8; a destination that has left RUNNING, has a retired site or would bring
channels across a seam that is not RUNNING abandons the move. -/
def execRelocationDrained (s : State) : Host.Outcome State Fault Refusal :=
  match s.lease? s.focus.site.lease with
  | none => .next s
  | some L =>
    match L.move with
    | some ⟨.move x y, _, _, _, _⟩ =>
      let r : Rect := ⟨x, y, L.w, L.h⟩
      if !s.cdRuns || s.fabricStopped || !s.drainedFor L then .next s
      else if !r.dies.all s.running || r.cells.any (fun c => s.barred c.1 c.2)
          || (seamPairs r.dies).any (fun p => L.seamUnits x y p.1 p.2 ≠ 0 && !s.seamRunning p.1 p.2) then
        .next (s.abandonMove L.id)
      else .next (s.finishMove L x y)
    | _ => .next s

/-! ### A checkpoint (R87, R98, R99, R234, R235, R377) -/

/-- Whether an engine has stopped at a slot of its command's circular buffer, with nothing under way (R99). -/
def State.engineStopped (s : State) (c : EngCmd) (e : Engine) : Bool :=
  s.drained e.port && e.todo.isEmpty && e.out.isEmpty && c.cbSlot.isNone && e.rpos < e.stopAt

/-- Whether the engine commands of a lease have completed, or wait for its circular buffers (R99). -/
def State.enginesQuiet (s : State) (id : Nat) : Bool :=
  (s.leaseCmds id).all (fun c => c.toCb && (s.engines.filter (fun e => e.cur.cmd = c.id)).all (s.engineStopped c))

/-- Whether an instruction in flight can be recorded as it stands: it waits for a request that its port holds, or for nothing that
the machine still has under way for it (R99, R335). -/
def State.flightKept (s : State) (site : SiteRef) (kind : PEKind) (f : Flight) : Bool :=
  match f.op with
  | .reply => (s.portOf? site kind).any (fun p => p.queue.any (fun r => decide (r.dest = .slot site f.slot)))
  | .mstream _ _ _ | .xlinv _ | .release _ .xlfence => false
  | _ => true

/-- Whether a checkpoint of pre-emption need wait no longer, though loads or atomics that a fault holds keep its batons from the
lease's sinks: its issue has stopped at the exchange zone, every other request has been resolved, and what an instance still
waits for is recorded with the request that brings it (R99, assumption 73). -/
def State.heldQuiet (s : State) (L : Lease) : Bool :=
  L.unwind.isNone && (match L.move with
    | some m => m.step = 2 && m.job.preempts
    | none => false) && (s.leasePorts L.id).any Port.fhold && (s.leasePorts L.id).all (fun p => p.settled 2)
    && L.ctrl.isEmpty && !s.waiters.any (fun w => w.msg.site.lease = L.id)
    && L.pes.all (fun p => match p.inst with
      | none => true
      | some i => i.flight.all (s.flightKept ⟨L.id, p.dx, p.dy⟩ p.kind))

/-- Whether nothing of a lease is outstanding but what a record can hold (R99). -/
def State.quietFor (s : State) (L : Lease) : Bool :=
  (s.drainedFor L || s.heldQuiet L) && s.enginesQuiet L.id && (s.leaseSync L.id).all (fun m => !s.running m.die)
    && !s.traps.any (fun t => t.lease = some L.id)

/-- The lease leaves its sites, its task SAVED: its ports release their pins, its commands stop, and its parties live on (R87
step 8, R88, R156, R235). -/
def State.leaveSaved (s : State) (L : Lease) (i : Nat) (b : Save) : State :=
  let ps := (s.leasePorts L.id).map Port.id
  let parties := (((s.leasePorts L.id).filter Port.bound).map Port.party).dedup
  let s1 := (s.leaseCmds L.id).foldl (fun (s : State) c => s.stopCmd c) s
  let s2 : State := { s1 with
    leases := s1.leases.filter (fun M => M.id ≠ L.id)
    ports := s1.ports.filter (fun p => !ps.contains p.id)
    l2 := s1.l2.map (fun l => { l with pins := l.pins.filter (fun q => !ps.contains q.1) })
    teams := s1.teams.filter (fun t => !b.teams.contains t)
    syncQ := s1.syncQ.filter (fun m => m.site.lease ≠ L.id)
    resvs := s1.resvs.map (fun r => { r with
      dests := r.dests.filter (fun d => d.1 ≠ L.id), drains := r.drains.filter (fun d => d.1 ≠ L.id) })
    keep := { s1.keep with saves := b :: s1.keep.saves } }
  s2.modTask L.die L.entry (fun t => { t with st := .saved, saved := .slot i L.id parties })

/-- A directory entry of the save area. -/
def dirEntry (t : Task) (len : Nat) : List Byte :=
  toBytes 4 t.seq ++ toBytes 2 (t.slid % 2 ^ 13) ++ [1, 0] ++ toBytes 8 len ++ zeros 48

/-- CHECKPOINT_DRAINED (R87, R99, R234, R235, R377): the record and its directory entry are written and the task is SAVED; a
write that is refused, or a slot that cannot be had, abandons the checkpoint. -/
def execCheckpointDrained (s : State) : Host.Outcome State Fault Refusal :=
  match s.lease? s.focus.site.lease with
  | none => .next s
  | some L =>
    match L.move, s.task? L.die L.entry, s.ctx? L.tid with
    | some ⟨.checkpoint _, _, _, _, _⟩, some t, some c =>
      if !s.cdRuns || s.fabricStopped || !s.quietFor L then .next s
      else
        (match s.openSlot c (s.recordSize L) with
        | none => .next (s.abandonMove L.id)
        | some (i, va) =>
          let b := s.makeRecord L
          match b.2.cdWrite c.tid va b.1.bytes false with
          | (.error _, s1) => .next (s1.abandonMove L.id)
          | (.ok _, s1) => match s1.cdWrite c.tid (c.dirVa i) (dirEntry t b.1.bytes.length) false with
            | (.error _, s2) => .next (s2.abandonMove L.id)
            | (.ok _, s2) => .next (s2.leaveSaved L i b.1))
    | _, _, _ => .next s

/-- CHECKPOINT_DEADLINE (R98): a row-4 victim that has reached no exchange zone by its deadline is killed. -/
def execCheckpointDeadline (s : State) : Host.Outcome State Fault Refusal :=
  match s.lease? s.focus.site.lease with
  | none => .next s
  | some L =>
    match L.move, s.task? L.die L.entry with
    | some ⟨.checkpoint (some d), step, _, _, _⟩, some t =>
      if s.cdRuns && step < 2 && s.fabric ≥ d then .next (s.killTask t 0xFFFFFFFF) else .next s
    | _, _ => .next s

/-! ### Standing checkpoints (R108) -/

/-- The invocation number of the standing checkpoint in a slot, if it is complete. -/
def State.standingAt (s : State) (tid va : Nat) : Option Nat :=
  (s.standing.find? (fun x => x.1 = tid && x.2.1 = va)).map (fun x => x.2.2.1)

/-- The newer of the complete standing checkpoints in two slots, by when they were written: its slot and CKINV (R108, R110). -/
def State.newestSlot (s : State) (tid va size : Nat) : Option (Nat × Nat) :=
  let vb := wrapN 57 ((va + size : Nat) : Int)
  (s.standing.find? (fun x => x.1 = tid && (x.2.1 = va || x.2.1 = vb))).map (fun x => (x.2.1, x.2.2.1))

/-- The older of two slots: the one that does not hold the newer checkpoint, and the first where neither holds one (R108). -/
def State.olderSlot (s : State) (tid va size : Nat) : Nat :=
  match s.newestSlot tid va size with
  | some x => if x.1 = va then wrapN 57 ((va + size : Nat) : Int) else va
  | none => va

/-- A standing checkpoint into the slots at an address has ended: that of the next lease entry that is due at the same zone follows,
and after the last the lease runs on (R108). -/
def State.endStanding (s : State) (L : Lease) (zone va : Nat) : State :=
  match (((s.slotsDue L zone).dropWhile (fun e => e.1 ≠ va)).drop 1).head? with
  | some e => s.modLease L.id (fun L => { L with move := some ⟨.standing e.1 e.2, 2, zone, s.fabric, none⟩ })
  | none => s.abandonMove L.id

/-- STANDING_CHECKPOINT (R86, R108): the record of the lease and its completion word, which holds the invocation that the zone
ends, go into the older slot, and the lease runs on. A record that does not fit is not written, and no slot of the lease stands
for it any longer, so that it is reported absent. The completion word is 8 bytes directly behind the record and counts as part of what
must fit the slot (DESIGN CHOICE, assumption 77). -/
def execStandingCheckpoint (s : State) : Host.Outcome State Fault Refusal :=
  match s.lease? s.focus.site.lease with
  | none => .next s
  | some L =>
    match L.move with
    | some ⟨.standing slot size, _, zone, _, _⟩ =>
      if !s.cdRuns || s.fabricStopped || !s.quietFor L || !(s.leasePorts L.id).all (fun p => p.settled 1) then .next s
      else if s.recordSize L + 8 > size then
        .next (((s.forgetStanding L.tid slot).forgetStanding L.tid (wrapN 57 ((slot + size : Nat) : Int))).endStanding L zone slot)
      else
        let va := s.olderSlot L.tid slot size
        let s0 := s.forgetStanding L.tid va
        let b := s0.makeRecord L
        let len := b.1.bytes.length
        match b.2.cdWrite L.tid va b.1.bytes false with
        | (.error _, s1) => .next (s1.endStanding L zone slot)
        | (.ok _, s1) => match s1.cdWrite L.tid (wrapN 57 ((va + len : Nat) : Int)) (toBytes 8 zone) false with
          | (.error _, s2) => .next (s2.endStanding L zone slot)
          | (.ok _, s2) =>
            .next ({ s2 with
              standing := (L.tid, va, zone, len) :: s2.standing
              keep := { s2.keep with saves := b.1 :: s2.keep.saves } }.endStanding L zone slot)
    | _ => .next s

end Sys2Proof.Machine
end

