-- ==== Sys2Proof/Machine/Links.lean ====
section
/-! DEFINITION. Die links: their states, failures and training, and what a die that is lost takes with it (R28, R33 to R38,
R387). -/

namespace Sys2Proof.Machine

open Sys2Proof

/-! ### States (R35, R38) -/

/-- A link enters a state: an entry into DOWN is counted (R38). -/
def Link.enter (l : Link) (st : LinkState) : Link :=
  { l with st := st, alone := false, downs := if st = .down && l.st ≠ .down then satInc 65535 l.downs else l.downs }

/-- How far a link state is from RUNNING. -/
def LinkState.rank : LinkState → Nat
  | .absent | .down => 0
  | .training => 1
  | .readmitting => 2
  | .quiescing => 3
  | .running => 4

/-- The lesser of two link states. -/
def LinkState.least (a b : LinkState) : LinkState := if a.rank ≤ b.rank then a else b

/-- The seams of a die. -/
def seamsOf (d : Nat) : List Nat := (List.range 4).filter (fun k => (seamDies k).1 = d || (seamDies k).2 = d)

/-- The state that a seam takes when a die's CD link enters a state: the die's, or that of the die at its other end if that is
further from RUNNING; a seam that is not RUNNING does not become QUIESCING (R35). -/
def seamNext (old st other : LinkState) : LinkState :=
  if old = .absent then .absent
  else match st with
    | .quiescing => if old = .running || old = .quiescing then .quiescing else old
    | _ => LinkState.least st other

/-- Abandon each relocation whose destination has sites on a die that is not RUNNING (R86). -/
def State.dropMoves (s : State) : State :=
  s.leases.foldl (fun (s : State) L => match L.move with
    | some ⟨.move x y, _, _, _, _⟩ => if (Rect.dies ⟨x, y, L.w, L.h⟩).all s.running then s else s.abandonMove L.id
    | _ => s) s

/-- A die's CD link enters a state, and its seams follow it; a relocation to a die that leaves RUNNING is abandoned (R35, R86,
R237). -/
def State.setDie (s : State) (d : Nat) (st : LinkState) : State :=
  ((seamsOf d).foldl (fun (s : State) k =>
    let e := if (seamDies k).1 = d then (seamDies k).2 else (seamDies k).1
    s.modLink k (fun l => l.enter (seamNext l.st st (s.link (4 + e)).st))) (s.modLink (4 + d) (fun l => l.enter st))).dropMoves

/-! ### Requests that cross a link (R33, R37) -/

/-- The links between two dies, or a die and the CD. -/
def State.hopLinks (s : State) (a b : Nat) : List Nat :=
  if a = b then []
  else if b = cdDie then [4 + a]
  else if a = cdDie then [4 + b]
  else if Nat.xor a b = 3 then (seamOf a (s.via a b)).toList ++ (seamOf (s.via a b) b).toList
  else (seamOf a b).toList

/-- Whether a request has left its port and has no reply there. -/
def ReqStatus.unanswered : ReqStatus → Bool
  | .held _ _ | .cleared | .behind => false
  | _ => true

/-- The ways from die to die that a request without a reply has taken: to the die that translates it, and on to the die of its
line. One that a cache of its own die answers has taken none, and one that left by a span takes spans. -/
def State.reqHops (s : State) (p : Port) (r : Req) : List (Nat × Nat) :=
  match (s.ctx? p.ctx).bind (fun c => (c.xlatDie r.va).map (fun td => (c, td))) with
  | none => []
  | some (c, td) =>
    if !r.status.unanswered || r.op.isMarker || r.ownDie || r.status = .abroad then []
    else (p.die, td) :: (match r.leaf with
      | some l => [(td, (l.loc c.tid r.va).die)]
      | none => [])

/-- The requests without a reply that crossed some links, as their ports and numbers. -/
def State.crossing (s : State) (links : List Nat) : List (Nat × Nat) :=
  s.ports.flatMap (fun p =>
    ((p.queue ++ (p.sideLog.map SideEntry.req)).filter (fun r =>
      (s.reqHops p r).any (fun h => (s.hopLinks h.1 h.2).any links.contains))).map (fun r => (p.id, r.id)))

/-- Answer requests with DIE_DOWN (R36, R37). -/
def State.downSome (s : State) (l : List (Nat × Nat)) : State :=
  l.foldl (fun (s : State) x =>
    match s.port? x.1 with
    | none => s
    | some p => match p.req? x.2 with
      | none => s
      | some r => s.refuse p r cDieDown) s

/-- The way of a sync operation to its sync unit. -/
def State.syncHop (s : State) (m : SyncMsg) : Option (Nat × Nat) :=
  (s.lease? m.site.lease).map (fun L => (L.dieAt m.site.dx m.site.dy, m.die))

/-- Whether a sync operation without a reply crossed some links. -/
def State.syncCrosses (s : State) (links : List Nat) (m : SyncMsg) : Bool :=
  (s.syncHop m).any (fun h => (s.hopLinks h.1 h.2).any links.contains)

/-- Links fail under sync operations: each that crossed them was performed or not and gets DIE_DOWN, one that waits for a mark's
generation among them. One that `performed` names, by port 0 and its place among those on their way, reached its unit first (R37). -/
def State.failSync (s : State) (links : List Nat) (performed : List (Nat × Nat)) : State :=
  let hit := s.syncQ.zipIdx.filter (fun x => s.syncCrosses links x.1)
  let waits := s.waiters.filter (fun w => s.syncCrosses links w.msg)
  let s1 : State := { s with syncQ := s.syncQ.filter (fun m => !s.syncCrosses links m) }
  let s2 := hit.foldl (fun (s : State) x =>
    if performed.contains (0, x.2) && !s.syncBlocked x.1 then s.applySync { x.1 with slot := 128 } else s) s1
  let s3 : State := { s2 with waiters := s2.waiters.filter (fun w => !s2.syncCrosses links w.msg) }
  (hit.map Prod.fst ++ waits.map Waiter.msg).foldl (fun (s : State) m => s.syncLost m) s3

/-- Links fail: each request that crossed them was performed or not, and gets DIE_DOWN (R37). -/
def State.failLinks (s : State) (links : List Nat) (performed : List (Nat × Nat)) : State :=
  let hit := s.crossing links
  ((s.reachHome (performed.filter hit.contains)).downSome hit).failSync links performed

/-- The CD switches a diagonal route whose intermediate die is not RUNNING, and switches it back, once no request on the path
it leaves, side-log entry or sync operation with them, lacks a reply (R33). -/
def State.reroute (s : State) : State :=
  [(0, 3), (3, 0), (1, 2), (2, 1)].foldl (fun (s : State) (x : Nat × Nat) =>
    let want := !s.running (Nat.xor x.1 1) && s.running (Nat.xor x.1 2)
    let busy := s.ports.any (fun p => p.requests.any (fun r => (s.reqHops p r).contains x))
      || (s.syncQ ++ s.waiters.map Waiter.msg).any (fun m => s.syncHop m = some x)
    if s.diagSwitched.contains x == want || busy then s
    else { s with diagSwitched := if want then x :: s.diagSwitched else s.diagSwitched.filter (fun y => y ≠ x) }) s

/-! ### Failures (R37, R387) -/

/-- Whether a link carries traffic of any kind, configuration traffic in READMITTING with it (R35, R38). -/
def State.linkActive (s : State) (k : Nat) : Bool := s.power = .run && (s.carries k || (s.link k).st = .readmitting)

/-- Whether a link carries traffic that its failure cuts. -/
def State.linkLive (s : State) (k : Nat) : Bool := s.power = .run && s.carries k

/-- The teams of a die are dissolved: their collectives, their waiters and what is addressed to them get DIE_DOWN (R387). -/
def State.dissolveTeams (s : State) (d : Nat) : State :=
  let ts := s.teams.filter (fun t => t.die = d)
  let s1 := ts.foldl (fun (s : State) t => t.colls.foldl (fun (s : State) k => s.endColl t.tid t.num k (some cDieDown)) s) s
  let ws := s1.waiters.filter (fun w => w.msg.die = d)
  let s2 := ws.foldl (fun (s : State) w => s.syncErr w.msg cDieDown) { s1 with waiters := s1.waiters.filter (fun w => w.msg.die ≠ d) }
  { s2 with teams := s2.teams.map (fun t => if t.die = d then { t with members := [], colls := [] } else t) }

/-- Whether a task's entry, lease or engine command lies on a die (R387). -/
def State.taskOn (s : State) (d : Nat) (t : Task) : Bool :=
  t.die = d
    || (s.leaseOf t).any (fun L => L.rect.dies.contains d || s.cmds.any (fun c => c.lease? = some L.id && c.die = d))
    || s.cmds.any (fun c => c.task = some (t.die, t.idx) && c.die = d)

/-- A task is killed, its engine command stopped with it (R102, R117, R387). -/
def State.killHard (s : State) (t : Task) (detail : Nat) : State :=
  (match t.cmd.bind s.cmd? with
    | some c => s.stopCmd c
    | none => s).killTask t detail

/-- Every task of a die that is lost is killed with DETAIL 33 (R385, R387). -/
def State.killDie (s : State) (d : Nat) : State :=
  let s1 := (s.tasks.filter (s.taskOn d)).foldl (fun (s : State) t =>
    match s.task? t.die t.idx with
    | some t => s.killHard t cDieDown
    | none => s) s
  (s1.cmds.filter (fun c => c.die = d)).foldl (fun (s : State) c => s.stopCmd c) s1

/-- The CD link of a die fails: the die goes DOWN and its work is disposed of (R37, R387). -/
def State.dieFails (s : State) (d : Nat) (performed : List (Nat × Nat)) : State :=
  let s1 := (s.failLinks ((4 + d) :: seamsOf d) performed).setDie d .down
  let s2 := (s1.killDie d).dissolveTeams d
  { s2 with resets := s2.resets.filter (fun r => r.die ≠ d) }.reroute

/-- CD_LINK_FAILURE (R387). -/
def execCdLinkFailure (die : Nat) (performed : List (Nat × Nat)) (s : State) : Host.Outcome State Fault Refusal :=
  if s.linkLive (4 + die) then .next (s.dieFails die performed) else .next s

/-- LINK_FAILURE (R35, R37): a seam that carries traffic goes DOWN; a CD link takes its die with it. -/
def execLinkFailure (link : Nat) (performed : List (Nat × Nat)) (s : State) : Host.Outcome State Fault Refusal :=
  if !s.linkLive link then .next s
  else if link ≥ 4 then .next (s.dieFails (link - 4) performed)
  else .next ((s.failLinks [link] performed).modLink link (fun l => l.enter .down)).reroute

/-! ### Modules and reservations (R32, R34) -/

/-- The reservation limit of a seam with some modules: half their capacity in units of 24 GB/s, at most 64 (R34). -/
def seamCap (mods : Nat) : Nat := min 64 (mods * 256 / 2 / 24)

/-- SEAM_MODULE_LOSS (R34, R38): a link goes on with the modules it has left; a seam alone becomes QUIESCING where its
reservations exceed half their capacity. -/
def execSeamModuleLoss (link lost : Nat) (s : State) : Host.Outcome State Fault Refusal :=
  if !s.linkActive link || lost = 0 || lost ≥ (s.link link).mods then .next s
  else .next (s.modLink link (fun l => { l with mods := l.mods - lost })).tightenSeams

/-- An adapter retry is counted on its link (R29, R38). -/
def State.adapterRetry (s : State) (k : Nat) : State :=
  if s.linkActive k then s.modLink k (fun l => { l with retries := satInc 0xFFFFFFFF l.retries }) else s

/-- SEAM_RETURN_RUNNING (R34): no channel crosses a seam quiesced alone: it runs again under a lower limit. -/
def execSeamReturnRunning (s : State) : Host.Outcome State Fault Refusal :=
  let k := s.focus.idx
  let l := s.link k
  if k ≥ 4 || s.power ≠ .run || l.st ≠ .quiescing || !l.alone || s.seamUse k ≠ 0 then .next s
  else .next (s.modLink k (fun l => { l with st := .running, alone := false, limit := seamCap l.mods }))

/-- SEAM_RETRAIN (R34, R35): Bilsis retrains a RUNNING seam, or takes a DOWN one between dies that run through TRAINING; with
all 16 modules its limit is 64 again. That a RUNNING seam is retrained in place, without leaving RUNNING, and that nothing comes of the
command on a seam that is QUIESCING, is the model's choice: the manual gives no states for it (DESIGN CHOICE, assumption 74). Attempts
that failed in READMITTING count on, till the third has failed. -/
def execSeamRetrain (seam : Nat) (ok : Bool) (s : State) : Host.Outcome State Fault Refusal :=
  let l := s.link seam
  let both := s.dieUp (seamDies seam).1 && s.dieUp (seamDies seam).2
  let whole := fun (l : Link) => if ok then { l with mods := 16, limit := 64 } else l
  if seam ≥ 4 || s.power ≠ .run || !both then .next s
  else if l.st = .running then .next (s.modLink seam whole)
  else if l.st = .down then .next (s.modLink seam (fun l => { (whole l).enter .training with fails := if l.fails ≥ 3 then 0 else l.fails }))
  else .next s

/-! ### Training (R35, R237) -/

/-- A die or seam is RUNNING again: what was held under REPLAY for DIE_DOWN, and needs no die that is still down, is let go (R102,
R237 step 9). -/
def State.runAgain (s : State) : State := (s.releaseUp (fun _ => true)).reroute

/-- A link, with a die's seams where it is a CD link, enters a state. -/
def State.advanceLink (s : State) (k : Nat) (st : LinkState) : State :=
  if k ≥ 4 then s.setDie (k - 4) st else s.modLink k (fun l => l.enter st)

/-- A failed attempt of a link's training: the third leaves it DOWN; one of readmission takes it back to DOWN (R35). -/
def State.trainingFails (s : State) (k : Nat) : State :=
  let n := (s.link k).fails + 1
  let s1 := s.modLink k (fun l => { l with fails := n })
  let s2 := if n ≥ 3 || (s.link k).st = .readmitting then s1.advanceLink k .down else s1
  if n ≥ 3 && k ≥ 4 then { s2 with resets := s2.resets.filter (fun r => r.die ≠ k - 4) } else s2

/-- Whether a link trains by itself: a CD link, or a seam both of whose dies run; a seam of a die in a reset follows it (R35, R237). -/
def State.trainsAlone (s : State) (k : Nat) : Bool := k ≥ 4 || (s.dieUp (seamDies k).1 && s.dieUp (seamDies k).2)

/-- LINK_TRAINING_RESULT (R35, R237): an attempt succeeds, and the link goes from TRAINING to READMITTING and from there to
RUNNING, or fails. -/
def execLinkTrainingResult (link : Nat) (ok : Bool) (s : State) : Host.Outcome State Fault Refusal :=
  if s.power ≠ .run || s.uncoreStopped || !s.trainsAlone link then .next s
  else match (s.link link).st with
    | .training => if ok then .next (s.advanceLink link .readmitting) else .next (s.trainingFails link)
    | .readmitting =>
      if !ok then .next (s.trainingFails link)
      else
        let s1 := (s.advanceLink link .running).modLink link (fun l => { l with fails := 0 })
        let s2 : State := if link ≥ 4 then { s1 with resets := s1.resets.filter (fun r => r.die ≠ link - 4) } else s1
        .next s2.runAgain
    | _ => .next s

end Sys2Proof.Machine
end

