-- ==== Sys2Proof/Machine/Reset.lean ====
section
/-! DEFINITION. The warm reset of one die, and what a die loses by a reset (R13, R174, R202, R237). -/

namespace Sys2Proof.Machine

open Sys2Proof

/-! ### What a reset loses, and what comes before it (R13, R237 steps 5 and 7) -/

/-- Home slices write back those of their dirty lines of frames that meet a condition. -/
def State.writeBackWhere (s : State) (f : L2Line → Bool) : State :=
  let ls := s.l2.filter (fun l => f l && l.dirty && !l.key.isUnb)
  let s1 := ls.foldl (fun (s : State) l => match l.key with
    | .frame pa => s.putMem pa l.data l.poison
    | .unb _ _ => s) s
  { s1 with l2 := s1.l2.map (fun l => if f l && !l.key.isUnb then { l with dirty := false } else l) }

/-- Home slices of a die write back their dirty lines of frames. -/
def State.writeBack (s : State) (d : Nat) : State := s.writeBackWhere (fun l => decide (l.die = d))

/-- The directories of a die back-invalidate every sharer of its lines, its remote-read cache is emptied, and it is dropped
from the directories of the others (R237 step 5). -/
def State.recallShares (s : State) (d : Nat) : State :=
  let s1 := s.dir.foldl (fun (s : State) e =>
    (if numDie e.pa = d then e.sharers else e.sharers.filter (fun x => x = d)).foldl
      (fun (s : State) x => s.dropSharer e.pa x) s) s
  { s1 with rrc := s1.rrc.filter (fun r => r.die ≠ d) }

/-- A die loses everything but its HBM; its vaults read as zero when it runs again. Fetch slots that had lines pinned there are
fetched again (R13, R156, R237 steps 7 and 8). -/
def State.dieLoses (s : State) (d : Nat) : State :=
  let pins := (s.l2.filter (fun l => l.die = d)).flatMap L2Line.pins
  let stale := fun (p : Port) => { p with
    fetch := Vector.ofFn (fun (k : Fin 8) => if pins.any (fun q => q.1 = p.id && q.2 % 8 = k.val) then
      { p.fetch[k.val] with
        st := .stale, held := p.fetch[k.val].held.filter (fun va => !pins.contains (p.id, k.val + 8 * va)) }
      else p.fetch[k.val]) }
  { s.clearMem (paOf s.pkgNo d (2 ^ 40)) (2 ^ 30) with
    l2 := s.l2.filter (fun l => l.die ≠ d)
    near := s.near.filter (fun l => l.die ≠ d)
    rrc := s.rrc.filter (fun l => l.die ≠ d && numDie l.pa ≠ d)
    dir := ((s.dir.filter (fun e => numDie e.pa ≠ d)).map (fun e => { e with
      sharers := e.sharers.filter (fun x => x ≠ d), waiting := e.waiting.filter (fun x => x ≠ d) })).filter (fun e => !e.sharers.isEmpty)
    tlb := s.tlb.filter (fun t => t.die ≠ d)
    raceTags := s.raceTags.filter (fun t => t.die ≠ d)
    engines := s.engines.filter (fun e => e.die ≠ d)
    vqueues := s.vqueues.filter (fun q => q.die ≠ d)
    siteChecks := s.siteChecks.filter (fun c => dieOf c.1 c.2.1 ≠ d)
    ports := s.ports.map stale }

/-! ### Step 3: entries that move (R74, R95, R135) -/

/-- The next RUNNING live die after a die. -/
def State.nextRunning (s : State) (d : Nat) : Option Nat :=
  ((List.range (s.fuses.nlive - 1)).map (fun i => (d + 1 + i) % s.fuses.nlive)).find? s.running

/-- Give a dependency-table entry another die and index. -/
def State.rehome (s : State) (t : Task) (die idx : Nat) : State :=
  { s.modTask t.die t.idx (fun t => { t with die := die, idx := idx }) with
    leases := updWhere (fun L => L.die = t.die && L.entry = t.idx) (fun L => { L with die := die, entry := idx }) s.leases
    resvs := updWhere (fun r => r.die = t.die && r.idx = t.idx) (fun r => { r with die := die, idx := idx }) s.resvs
    cmds := updWhere (fun c => c.task = some (t.die, t.idx)) (fun c => { c with task := some (die, idx) }) s.cmds }

/-- An entry moves to the die that R74 gives, or the first RUNNING one after it with a FREE entry; else it stays. -/
def State.moveTask (s : State) (t : Task) : State :=
  match s.ctx? t.ctx with
  | none => s
  | some c =>
    let e := s.entryDie c t.itiles t.otiles
    let dies := ((List.range s.fuses.nlive).map (fun i => (e + i) % s.fuses.nlive)).filter (fun d => s.running d && d ≠ t.die)
    match dies.findSome? (fun d => (s.freeEntry d).map (fun i => (d, i))) with
    | some (d, i) => s.rehome t d i
    | none => s

/-- The queued entries of one command move to the same queue of another die. -/
def State.moveCmd (s : State) (q : VQueue) (e cmd : Nat) : State :=
  let es := q.entries.filter (fun v => v.cmd = cmd)
  let s1 := (s.unqueue cmd).modCmd cmd (fun c => { c with die := e })
  match s1.vq? e q.tid q.kind with
  | some _ => { s1 with
      vqueues := updWhere (fun x => x.die = e && x.tid = q.tid && x.kind = q.kind) (fun x => { x with entries := x.entries ++ es })
        s1.vqueues }
  | none => { s1 with vqueues := s1.vqueues ++ [⟨e, q.tid, q.kind, es, 0⟩] }

/-- Commands move in queue order while the queue that takes them is not full (R95). -/
def State.moveCmds (s : State) (q : VQueue) (e : Nat) : List Nat → State
  | [] => s
  | k :: ks => if s.vqCount e q.tid q.kind ≥ 64 then s else (s.moveCmd q e k).moveCmds q e ks

/-- A team entry moves to another sync unit that has a free entry, with what is addressed to it. -/
def State.moveTeam (s : State) (t : Team) (e : Nat) : State :=
  if (s.teams.filter (fun x => x.die = e)).length ≥ 1024 then s
  else
    let mine := fun (m : SyncMsg) => m.tid = t.tid && m.team = t.num
    { s.modTeam t.tid t.num (fun t => { t with die := e }) with
      syncQ := updWhere mine (fun m => { m with die := e }) s.syncQ
      waiters := updWhere (fun w => mine w.msg) (fun w => { w with msg := { w.msg with die := e } }) s.waiters }

/-- What of a die's entries can move now, moves (R237 step 3). -/
def State.moveEntries (s : State) (d : Nat) : State :=
  let s1 := (s.tasks.filter (fun t => t.die = d)).foldl (fun (s : State) t => s.moveTask t) s
  match s.nextRunning d with
  | none => s1
  | some e =>
    let s2 := (s1.vqueues.filter (fun q => q.die = d)).foldl (fun (s : State) q => s.moveCmds q e q.cmds) s1
    (s2.teams.filter (fun t => t.die = d)).foldl (fun (s : State) t => s.moveTeam t e) s2

/-- Whether nothing of step 3 is left on a die. -/
def State.entriesGone (s : State) (d : Nat) : Bool :=
  !s.tasks.any (fun t => t.die = d) && !s.vqueues.any (fun q => q.die = d && !q.entries.isEmpty)
    && !s.engines.any (fun e => e.die = d) && !s.teams.any (fun t => t.die = d && !t.members.isEmpty)

/-! ### Step 4: unbacked pages that stay (R174, R202) -/

/-- The valid leaf entries of a context's tables below a node: address, where the entry stands, the entry. -/
def State.leavesFrom (s : State) (c : Ctx) : Nat → Nat → Nat → List (Nat × Nat × Word)
  | 0, _, _ => []
  | n + 1, node, va => (List.range (if n = 0 then 32 else 512)).flatMap (fun i =>
    match (s.stage2 c.vmid (node + 8 * i)).1 with
    | .error _ => []
    | .ok (pa, _, _) => match s.readWord pa with
      | none => []
      | some e =>
        let at_ := va + i * 2 ^ levelShift n
        if !entV e || entBad n e then []
        else if entL e then [(at_, pa, e)]
        else s.leavesFrom c n (entNext e) at_)

/-- The unbacked pages that a context holds on a die: address, level size, where the entry stands, the entry. -/
def State.unbackedOn (s : State) (c : Ctx) (d : Nat) : List (Nat × Nat × Word) :=
  (s.roots.filter (fun r => r.1 = c.asid)).flatMap (fun r =>
    (s.leavesFrom c 4 r.2.2 (s.pkgNo * 2 ^ 51 + r.2.1 * 2 ^ 48)).filter (fun x =>
      entBacking x.2.2 ≠ 0 && unbDie (entFrame x.2.2) = d))

/-- Bilsis writes V = 0 in the leaf of an unbacked page that neither moved nor was given a frame, and invalidates it. -/
def State.dropUnbacked (s : State) (c : Ctx) (x : Nat × Nat × Word) : State :=
  ((s.writeEntry x.2.1 (x.2.2 &&& ~~~1#64)).beginInval c.vmid (some c.asid) x.1 (2 ^ 21) false none).2

/-- An unbacked page that PG_MIGR has not moved is given a frame, as a late frame assignment does, where its kind and the pool allow
one; else it is given up (R174, R203, R237). -/
def State.settlePage (s : State) (c : Ctx) (x : Nat × Nat × Word) : State :=
  match c.xlatDie x.1 with
  | none => s.dropUnbacked c x
  | some td => match s.translate c td x.1 with
    | (.error _, _) => s.dropUnbacked c x
    | (.ok l, s1) =>
      if l.backing ≠ 2 then s.dropUnbacked c x
      else match s1.lateAssign c td x.1 l with
        | (.noRoom, _) => s.dropUnbacked c x
        | (_, s2) => s2

/-- Every unbacked page still held on a die is given a frame, or given up. -/
def State.settleUnbacked (s : State) (d : Nat) : State :=
  s.ctxs.foldl (fun (s : State) c => (s.unbackedOn c d).foldl (fun (s : State) x => s.settlePage c x) s) s

/-! ### The steps (R237) -/

/-- The reset of a die that is in progress. -/
def State.reset? (s : State) (d : Nat) : Option Reset := s.resets.find? (fun r => r.die = d)

/-- A reset begins a step. -/
def State.resetStep (s : State) (d step : Nat) : State :=
  { s with resets := updWhere (fun r => r.die = d) (fun r => { r with step := step, since := s.fabric }) s.resets }

/-- DIE_RESET (R237, R384): begins at step 1, whose links are QUIESCING when step 2 begins; that of a DOWN die begins at
step 7. A number that no live die has
changes nothing (assumption 19). -/
def execDieReset (die : Nat) (s : State) : Host.Outcome State Fault Refusal :=
  if !s.live die then s.mailUnstated
  else s.mailCmd (if (s.reset? die).isSome then .error 15
    else if (s.link (4 + die)).st = .down then .ok { s with resets := s.resets ++ [⟨die, 7, s.fabric⟩] }
    else .ok { s.setDie die .quiescing with resets := s.resets ++ [⟨die, 2, s.fabric⟩] })

/-- Whether every home slice of a die has returned the die-quiesce batons of the ports still bound on it: each baton follows the
requests of its port in flight there. Those of the seam endpoints follow what has crossed the links (R133). -/
def State.batonsReturned (s : State) (d : Nat) : Bool :=
  s.ports.all (fun p => p.die ≠ d || p.requests.all (fun r => !r.status.away || r.op.isMarker))

/-- One step of a reset that may have ended (R133, R237). What requests in flight wrote in step 6 is written back before the links go
DOWN, since no warm reset loses it (R381, assumption 68). -/
def State.advanceReset (s : State) (d : Nat) : Nat → State
  | 2 => if s.leases.any (fun L => L.rect.dies.contains d) then s else s.resetStep d 3
  | 3 =>
    let s1 := s.moveEntries d
    if s1.entriesGone d then s1.resetStep d 4 else s1
  | 4 =>
    if s.ctxs.any (fun c => !(s.unbackedOn c d).isEmpty) then s.settleUnbacked d
    else if s.invals.isEmpty then s.resetStep d 5 else s
  | 5 => ((s.writeBack d).recallShares d).resetStep d 6
  | 6 =>
    if (s.crossing ((4 + d) :: seamsOf d)).isEmpty && s.batonsReturned d
        && !(s.syncQ ++ s.waiters.map Waiter.msg).any (s.syncCrosses ((4 + d) :: seamsOf d)) then
      ((((s.writeBack d).recallShares d).setDie d .down).resetStep d 7).reroute else s
  | 7 => ((s.dieLoses d).modLink (4 + d) (fun l => { l with fails := 0 })).setDie d .training |>.resetStep d 8
  | 8 => if (s.link (4 + d)).st = .down then s.setDie d .training else s
  | _ => s

/-- DIE_RESET_ADVANCE (R237): the step of a die's reset ends, if it may, and the next begins. A number that no live die has
changes nothing (assumption 19). -/
def execDieResetAdvance (s : State) : Host.Outcome State Fault Refusal :=
  match s.reset? s.focus.die with
  | none => .next s
  | some r => if s.power ≠ .run || s.uncoreStopped then .next s else .next (s.advanceReset r.die r.step)

/-- DIE_RESET_DRAIN_DEADLINE (R98, R237): a lease still on a die 2·DRAIN fabric cycles after step 2 began is killed with DETAIL 33,
or killed and queued again if its task is idempotent. A number that no live die has
changes nothing (assumption 19). -/
def execDieResetDrainDeadline (s : State) : Host.Outcome State Fault Refusal :=
  match s.reset? s.focus.die, s.lease? s.focus.site.lease with
  | some r, some L =>
    (match s.task? L.die L.entry, s.ctx? L.tid with
    | some t, some c =>
      if !s.cdRuns || r.step ≠ 2 || !L.rect.dies.contains r.die || s.fabric < r.since + 2 * c.drain then .next s
      else if t.cls = 1 then .next (s.requeueTask t L.id)
      else .next (s.killTask t cDieDown)
    | _, _ => .next s)
  | _, _ => .next s

/-- An attempt at PG_MIGR's move: of an unbacked page held on another die, to a RUNNING live die with room; `again` is what
follows where the leaf had changed (R174, R203, R237). -/
def State.pageTry (s : State) (c : Ctx) (va die : Nat) (again : State → Option State) : Option State :=
  match c.xlatDie va with
  | none => none
  | some td => match s.translate c td va with
    | (.error _, _) => none
    | (.ok l, s1) =>
      if l.backing = 0 || !s1.running die || unbDie l.frame = die then none
      else match s1.migrate c td va l die with
        | (.moved, s2) => some s2
        | (.changed, s2) => again s2
        | (.noRoom, _) => none

/-- PG_MIGR's move, where it comes about: the page is translated again where its leaf had changed (R174, R203, R237). -/
def State.pageMove (s : State) (c : Ctx) (va die : Nat) : Option State :=
  s.pageTry c va die (fun s => s.pageTry c va die (fun _ => none))

/-- PG_MIGR (R174, R237): Bilsis moves an unbacked page to a RUNNING live die; a page that cannot move stays (assumption 19).
It waits while a photo finish holds the home slices (R116). -/
def execPgMigr (tid va die : Nat) (s : State) : Host.Outcome State Fault Refusal :=
  if s.uncoreStopped then .next s else match s.ctx? tid with
  | none => s.mailCmd (.error 1)
  | some c => match s.pageMove c va die with
    | some t => s.mailCmd (.ok t)
    | none => s.mailUnstated

end Sys2Proof.Machine
end

