-- ==== Sys2Proof/Machine/Freeze.lean ====
section
/-! DEFINITION. Debug authorisation and the photo finish (R115 to R118). -/

namespace Sys2Proof.Machine

open Sys2Proof

/-! ### Tokens (R115) -/

/-- DBG_NONCE (R115): a new nonce is issued and returned. -/
def execDbgNonce (fresh : BitVec 128) (s : State) : Host.Outcome State Fault Refusal :=
  if s.power ≠ .run then .next s
  else .next { s with nonce := some fresh, reply := ⟨0, [fresh.setWidth 1280]⟩ }

/-- A field of a token, in bytes. -/
def tokenField (t : BitVec 1280) (off n : Nat) : Nat := bitsOf t.toNat (8 * off) (8 * n)

/-- Whether a debug token verifies: its certificate digest, its nonce, its expiry, its ACTION, its zero bytes and its signature,
of which `sigOk` tells (R115, assumption 8). -/
def State.tokenOk (s : State) (t : BitVec 1280) (sigOk : Bool) : Bool :=
  sigOk && decide (tokenField t 0 32 = (Config.sha384 Config.identityCert).toNat % 2 ^ 256)
    && s.nonce.any (fun n => tokenField t 32 16 = n.toNat) && s.ticks ≤ tokenField t 48 8
    && tokenField t 56 1 ≤ 1 && tokenField t 57 7 = 0

/-- DBG_FREEZE (R115, R116): a token that verifies is used up, and names the freeze; the CD names a cycle F at least 4,096 cycles
ahead. -/
def execDbgFreeze (token : BitVec 1280) (sigOk : Bool) (f buf : Nat) (s : State) : Host.Outcome State Fault Refusal :=
  if !s.tokenOk token sigOk || f < s.fabric + 4096 || s.freeze.isSome then s.mailUnstated
  else s.mailCmd (.ok { s with nonce := none, freeze := some ⟨f, tokenField token 56 1, buf⟩ })

/-! ### The reset of every die (R117) -/

/-- DETAIL of a task that a photo finish's reset kills (R117). -/
def detailPhoto : Nat := 0xFFFFFFFE

/-- The replays that have not completed, as start list and packet number. -/
def State.openReplays (s : State) : List (Nat × Nat) :=
  s.startLists.flatMap (fun l => (l.pending.filter (fun p => p.kind = 3 && p.status.isNone)).map (fun p => (l.slot, p.n)))

/-- A task is disposed of: a copy whose first segment has not been dispatched is DISCARDED, every other task is killed, one whose
command has ended and whose completion is still owed with it; a save area stays in memory (R117). -/
def State.photoKill (s : State) (t : Task) : State :=
  match t.cmd.bind s.cmd? with
  | some c =>
    if c.party = 0 && c.stop = .running && !s.engines.any (fun e => e.cur.cmd = c.id) then s.forceTask t detailPhoto
    else s.killHard t detailPhoto
  | none => ((s.dropSaved t.saved).modTask t.die t.idx (fun t => { t with saved := .no })).killHard { t with saved := .no } detailPhoto

/-- A REPLAY enters no more nodes, and completes with status KILLED (R117). -/
def State.killReplays (s : State) (rs : List (Nat × Nat)) : State :=
  { s with startLists := s.startLists.map (fun l => { l with
      nodes := []
      pending := l.pending.map (fun p => if rs.contains (l.slot, p.n) then { p with status := some (4, detailPhoto), nodesLeft := 0 }
        else p) }) }

/-- The work held on the compute dies is disposed of (R117). -/
def State.disposeAll (s : State) : State :=
  let rs := s.openReplays
  let s1 := s.tasks.foldl (fun (s : State) t =>
    match s.task? t.die t.idx with
    | some t => s.photoKill t
    | none => s) s
  let s2 := s1.cmds.foldl (fun (s : State) c => s.stopCmd c) s1
  { s2.killReplays rs with
    teams := [], syncQ := [], waiters := [], traps := [], resvs := [], invals := s2.invals.map (fun v => { v with ports := [] }) }

/-- The reset of a photo finish: each request in flight is performed or not, the work is disposed of, dirty lines go to HBM, with the
records and semaphores that this wrote, every live die loses its state, and its links go through DOWN to TRAINING (R116,
R117). -/
def State.photoReset (s : State) (performed : List (Nat × Nat)) : State :=
  let dies := List.range s.fuses.nlive
  let s1 := (s.reachHome performed).disposeAll
  let s2 := dies.foldl (fun (s : State) d => s.writeBack d) { s1 with ports := [] }
  let s3 := dies.foldl (fun (s : State) d => (s.setDie d .down).dieLoses d) s2
  let s4 := dies.foldl (fun (s : State) d => (s.modLink (4 + d) (fun l => { l with fails := 0 })).setDie d .training) s3
  { s4 with resets := dies.map (fun d => ⟨d, 8, s.fabric⟩) }

/-- What a photo finish reads out into the buffer that DBG_FREEZE names: everything architectural of the live dies, as it stands
(R116). Its layout in the buffer is not in the manual (assumption 54). -/
def State.readOutTo (s : State) (buf : Nat) : ReadOut :=
  ⟨buf, s.leases, s.ports, s.teams, s.syncQ, s.waiters, s.tasks, s.engines, s.vqueues, s.cmds, s.links.toList⟩

/-- PHOTO_FINISH_FREEZE (R116 to R118): at the end of cycle F every live die stops its clocks; once it stands still and has been
read out, the ACTION is completed: a thaw, or a reset. -/
def execPhotoFinishFreeze (performed : List (Nat × Nat)) (s : State) : Host.Outcome State Fault Refusal :=
  match s.freeze with
  | none => .next s
  | some z =>
    if s.power ≠ .run || s.fabric < z.f then .next s
    else if !s.uncoreStopped then .next { s with fabricStopped := true, uncoreStopped := true }
    else
      let t : State := { s with
        freeze := none, fabricStopped := false, uncoreStopped := false, readOut := some (s.readOutTo z.buf) }
      .next (if z.action = 0 then t else t.photoReset performed)

end Sys2Proof.Machine
end

