-- ==== Sys2Proof/Machine/Holdup.lean ====
section
/-! DEFINITION. The supply, the power-fail hold-up, the keep store, and what it gives back (R25, R66, R105, R108 to R114). -/

namespace Sys2Proof.Machine

open Sys2Proof

/-! ### Supply and BOOT (R22, R25, R66, R105) -/

/-- The package has no power: what R25 says is lost is lost. -/
def State.powerOff (s : State) : State :=
  { State.unpowered s.fuses s.keep with
    agenda := s.agenda, focus := s.focus, nextId := s.nextId, freeCount := s.freeCount, supply := s.supply }

/-- A measurement register that one measurement has extended (R66, assumption 8). -/
def extended (m : BitVec 384) : BitVec 384 := Config.sha384 (zeros 48 ++ toBytes 48 m.toNat)

/-- The full budget of a live die, in force from the end of BOOT (R90). -/
def Budget.boot (die : Nat) : Budget := ⟨die, 42666, none, 0, []⟩

/-- The package has booted: Bilsis has released the live dies (R25, R66). -/
def State.booted (s : State) (measures : List (BitVec 384)) : State :=
  { s with
    power := .run
    measurements := measures.map extended
    bootEnd := s.ticks
    fabricStopped := false
    uncoreStopped := false
    links := s.links.map (fun l => if l.st = .absent then l else { l with st := .running })
    budgets := (List.range s.fuses.nlive).map Budget.boot }

/-- SUPPLY_PRESENT (R25, R46, R66, R109): a package in OFF goes through BOOT to RUN, under the number that Bilsis gives it; one whose
Bilsis image does not verify stays in BOOT, and its identity registers report it. During a hold-up, and before its trap, supply
only returns. -/
def execSupplyPresent (verified : Bool) (measures : List (BitVec 384)) (s : State) : Host.Outcome State Fault Refusal :=
  if s.power ≠ .off then .next { s with supply := true }
  else
    let b : State := { s.powerOff with supply := true, pkgNo := s.pkgNo }
    if verified then .next (b.booted measures)
    else .next { b with
      power := .boot, bootFailed := true, measurements := measures.map extended
      identity := Vector.ofFn (fun i => Config.bootFailure i.val) }

/-- SUPPLY_LOSS (R25, R105): in BOOT, or in RUN before a context was admitted, the package goes to OFF; else the rail is watched
(R109), and a hold-up runs on stored energy. -/
def execSupplyLoss (s : State) : Host.Outcome State Fault Refusal :=
  let t : State := { s with supply := false, lossAt := if s.supply then s.ticks else s.lossAt }
  match s.power with
  | .off | .holdup => .next t
  | .boot => .next t.powerOff
  | .run => if s.everAdmitted then .next t else .next t.powerOff

/-- ENERGY_RESERVE_READY (R105): the layer holds 48 J usable: the commands that waited are admitted in turn. -/
def execEnergyReserveReady (s : State) : Host.Outcome State Fault Refusal :=
  if s.power ≠ .run || s.energyReady then .next s
  else .next (s.waitingCreates.foldl (fun (s : State) a => match s.createCtx a with
    | .ok t => t.replyStatus 0
    | .error e => s.replyStatus e) { s with energyReady := true, holdupFailed := false, waitingCreates := [] })

/-- HOLDUP_CHARGE_TIMEOUT (R105): 30 s after BOOT the layer is not charged: it is logged as failed, and the commands that wait get
NOHOLDUP. -/
def execHoldupChargeTimeout (s : State) : Host.Outcome State Fault Refusal :=
  if s.power ≠ .run || s.energyReady || s.holdupFailed || s.ticks < s.bootEnd + 30 * 10 ^ 9 then .next s
  else
    let t : State := { s.logError 52 with holdupFailed := true, waitingCreates := [] }
    .next (if s.waitingCreates.isEmpty then t else t.replyStatus 3)

/-! ### Manifests (R112 to R114) -/

/-- The newest manifest whose signature verifies, and whether it stands in area A (R113, R114). -/
def Keep.newest (k : Keep) : Option (Bool × Manifest) :=
  match k.areaA.filter Manifest.valid, k.areaB.filter Manifest.valid with
  | some a, some b => if b.mseq > a.mseq then some (false, b) else some (true, a)
  | some a, none => some (true, a)
  | none, some b => some (false, b)
  | none, none => none

/-- The data half that a hold-up writes (R112). -/
def Keep.nextHalf (k : Keep) : Nat :=
  match k.newest with
  | some (_, m) => 1 - m.half
  | none => 0

/-- The byte offsets of the keep store's areas: header, manifest areas A and B, and the data halves (R112). -/
def keepHeaderAt : Nat := 0
def keepAreaAt (b : Bool) : Nat := if b then 0x110000 else 0x10000
def keepHalfSize : Nat := (2 ^ 35 - 2 ^ 22) / 2
def keepHalfAt (n : Nat) : Nat := 0x400000 + n * keepHalfSize

/-- Change the seal records of a data half: the sets streamed whole (R109). -/
def Keep.setSeals (k : Keep) (n : Nat) (l : List Nat) : Keep := if n = 0 then { k with seals0 := l } else { k with seals1 := l }

/-- The seal records of a data half. -/
def Keep.seals (k : Keep) (n : Nat) : List Nat := if n = 0 then k.seals0 else k.seals1

/-- The pages of a data half. -/
def Keep.half (k : Keep) (n : Nat) : List SavedPage := if n = 0 then k.half0 else k.half1

/-- Change the pages of a data half. -/
def Keep.setHalf (k : Keep) (n : Nat) (l : List SavedPage) : Keep := if n = 0 then { k with half0 := l } else { k with half1 := l }

/-- Change the lease words of a data half: set, entry, and CKINV and LASTINV, or that the entry has no complete slot (R108, R110). -/
def Keep.setInv (k : Keep) (n : Nat) (l : List (Nat × Nat × Option (Nat × Nat))) : Keep :=
  if n = 0 then { k with inv0 := l } else { k with inv1 := l }

/-- A set record as its 128 bytes (R113). -/
def SetRec.bytes (r : SetRec) : List Byte :=
  toBytes 2 (r.tid % 1024) ++ toBytes 1 r.st ++ zeros 5 ++ toBytes 8 r.off ++ toBytes 8 r.len ++ toBytes 8 r.seq
    ++ toBytes 48 r.digest.toNat ++ zeros 48

/-- A manifest's bytes before its SIG (R113). -/
def manifestBytes (mseq tcut half : Nat) (sets : List SetRec) : List Byte :=
  toBytes 8 mseq ++ toBytes 8 tcut ++ toBytes 2 sets.length ++ toBytes 1 half ++ zeros 45 ++ sets.flatMap SetRec.bytes

/-- Write a manifest in the area that does not hold the newest valid one (R113). -/
def Keep.putManifest (k : Keep) (m : Manifest) : Keep :=
  match k.newest with
  | some (true, _) => { k with areaB := some m }
  | _ => { k with areaA := some m }

/-- The sequence number of the next manifest (R113). The first of a keep store has number 1, goes to area A and uses data half 0
(DESIGN CHOICE, assumption 77). -/
def Keep.nextSeq (k : Keep) : Nat :=
  match k.newest with
  | some (_, m) => m.mseq + 1
  | none => 1

/-! ### Saving a set (R106, R110, R111) -/

/-- What a page of a range is to the hold-up controller (R110). -/
inductive PartOf where
  /-- Unmapped, or its entry malformed. -/
  | hole
  /-- Homed on a die that is not up, or on another package. -/
  | down
  | page (l : Leaf)
deriving DecidableEq, Repr

/-- Locate a page through its context's translation, without permission or owner check (R110). A page whose virtual die maps to no
live die is taken for a hole, as one that no entry can map, and one whose translating die is not up makes the set torn wherever
its frame lies, as one that cannot be read: R110 names neither case (DESIGN CHOICE, assumption 24). -/
def State.partOf (s : State) (c : Ctx) (va : Nat) : PartOf × State :=
  if vaPkg va ≠ s.pkgNo then (.down, s)
  else match c.xlatDie va with
    | none => (.hole, s)
    | some die =>
      if !s.dieUp die then (.down, s)
      else match s.translate c die va with
        | (.error e, s1) => (if e = 0 then .hole else .down, s1)
        | (.ok l, s1) =>
          let d := (l.loc c.tid va).die
          (if d < 4 && !s1.dieUp d then .down else .page l, s1)

/-- Read one line of a page, one that fails its code as its poison record. -/
def State.saveLine (s : State) (c : Ctx) (l : Leaf) (va : Nat) : (Line × Bool) × State :=
  let loc := l.loc c.tid va
  let s1 := s.settleCode loc 0
  (s1.getLine loc, s1)

/-- The lines of a page that are not zero, by number. -/
def State.saveLines (s : State) (c : Ctx) (l : Leaf) (va : Nat) : List (Nat × Line × Bool) × State :=
  (List.range 1024).foldr (fun i (r : List (Nat × Line × Bool) × State) =>
    let x := r.2.saveLine c l (va + 64 * i)
    (if x.1.1 = 0 && !x.1.2 then r.1 else (i, x.1.1, x.1.2) :: r.1, x.2)) ([], s)

/-- What saving a set has come to: its pages, its lease words, and whether it is torn. -/
structure SetData where
  pages : List SavedPage
  inv : List (Nat × Nat × Option (Nat × Nat))
  torn : Bool
deriving DecidableEq, Repr

/-- Save one page, to be restored at an address (R110). -/
def State.savePage (s : State) (c : Ctx) (set entry src dst : Nat) (d : SetData) : SetData × State :=
  match s.partOf c src with
  | (.hole, s1) => ({ d with pages := d.pages ++ [⟨set, entry, dst, true, []⟩] }, s1)
  | (.down, s1) => ({ d with torn := true }, s1)
  | (.page l, s1) =>
    let x := s1.saveLines c l src
    ({ d with pages := d.pages ++ [⟨set, entry, dst, false, x.1⟩] }, x.2)

/-- Save a run of 64 KiB pages. -/
def State.savePages (s : State) (c : Ctx) (set entry src dst n : Nat) (d : SetData) : SetData × State :=
  (List.range n).foldl (fun (r : SetData × State) i => r.2.savePage c set entry
    (wrapN 57 ((src + 65536 * i : Nat) : Int)) (wrapN 57 ((dst + 65536 * i : Nat) : Int)) r.1) (d, s)

/-- LASTINV of the lease that an entry covers: the last invocation whose EOI reached every sink; CKINV where no lease runs
(R110). -/
def State.lastInv (s : State) (tid va ckinv : Nat) : Nat :=
  match (s.coveredTask tid va).bind s.leaseOf with
  | some L => s.sinkInv L - 1
  | none => ckinv

/-- Save one entry of a declaration: a range, or the newest slot of a lease, which is recorded as absent where there is none (R106,
R108, R110). -/
def State.saveEntry (s : State) (c : Ctx) (set entry : Nat) (e : Nat × Nat × Nat × Nat × Nat) (d : SetData) : SetData × State :=
  match e with
  | (kind, sz, va, _, lenva) =>
    if kind = 1 then s.savePages c set entry va va (lenva % 2 ^ 32) d
    else match s.newestSlot c.tid lenva (65536 * 2 ^ sz) with
      | none => ({ d with inv := d.inv ++ [(set, entry, none)] }, s)
      | some (slot, ckinv) =>
        s.savePages c set entry slot lenva (2 ^ sz)
          { d with inv := d.inv ++ [(set, entry, some (ckinv, s.lastInv c.tid va ckinv))] }

/-- The number under which a set directory stands among the entries of its set. -/
def dirEntryNo : Nat := 64

/-- The set directory: 4 KiB whose layout the manual does not give (R107, assumption 24). -/
def State.setDirectory (s : State) (set : Nat) : SavedPage × State :=
  (⟨set, dirEntryNo, 0, false, (List.range 64).map (fun i => (i, Config.freeLine (s.freeCount + i), false))⟩,
   { s with freeCount := s.freeCount + 64 })

/-- The bytes of a saved part: 4 KiB of a set directory, 64 KiB of a page, none of a hole. -/
def SavedPage.bytes (p : SavedPage) : List Byte :=
  if p.hole then []
  else (List.range (if p.entry = dirEntryNo then 64 else 1024)).flatMap (fun i =>
    toBytes 64 (match p.lines.find? (fun x => x.1 = i) with
      | some x => x.2.1.toNat
      | none => 0))

/-- The data of a set, as it is streamed (R111). -/
def setBytes (ps : List SavedPage) : List Byte := ps.flatMap SavedPage.bytes

/-- What a hold-up has streamed so far. -/
structure Stream where
  recs : List SetRec
  pages : List SavedPage
  inv : List (Nat × Nat × Option (Nat × Nat))
  off : Nat
deriving DecidableEq, Repr

/-- Stream one set: the directory, then the entries in order (R111, R113). -/
def State.saveSet (s : State) (c : Ctx) (m : MustSave) (x : Stream) : Stream × State :=
  let j := x.recs.length
  let dir := s.setDirectory j
  let r := m.entries.zipIdx.foldl (fun (r : SetData × State) e => r.2.saveEntry c j e.2 e.1 r.1) (⟨[dir.1], [], false⟩, dir.2)
  let bytes := setBytes r.1.pages
  let rec_ : SetRec := ⟨c.tid, b2n r.1.torn, x.off, bytes.length, j, Config.sha384 bytes⟩
  (⟨x.recs ++ [rec_], x.pages ++ r.1.pages, x.inv ++ r.1.inv, x.off + bytes.length⟩, r.2)

/-- The sets in force, in the order of R111: SPRIO, highest first, then tenant id. -/
def State.setsInOrder (s : State) : List (Ctx × MustSave) :=
  (s.ctxs.filterMap (fun c => c.must.map (fun m => (c, m)))).mergeSort (fun a b =>
    a.2.sprio > b.2.sprio || (a.2.sprio = b.2.sprio && a.1.tid ≤ b.1.tid))

/-- The 64 KiB pages of the must-save ranges, and of the slots that are saved, each with its context (R106, R110). -/
def State.mustPages (s : State) : List (Ctx × Nat) :=
  s.setsInOrder.flatMap (fun x => x.2.entries.flatMap (fun e =>
    let run := fun (va n : Nat) => (List.range n).map (fun i => (x.1, wrapN 57 ((va + 65536 * i : Nat) : Int)))
    if e.1 = 1 then run e.2.2.1 (e.2.2.2.2 % 2 ^ 32)
    else match s.newestSlot x.1.tid e.2.2.2.2 (65536 * 2 ^ e.2.1) with
      | some y => run y.1 (2 ^ e.2.1)
      | none => []))

/-- Step 3 of a hold-up: the home slices write back the dirty lines of the backed pages that are saved (R109). -/
def State.writeBackMust (s : State) : State :=
  s.mustPages.foldl (fun (s : State) x => match s.partOf x.1 x.2 with
    | (.page l, s1) => (match (l.loc x.1.tid x.2).key with
      | .frame pa => s1.writeBackWhere (fun y => page64 y.key.off = page64 (paOff pa) && decide (y.die = paDie pa))
      | .unb _ _ => s1)
    | (_, s1) => s1) s

/-- POWER_FAIL_TRAP (R109 to R111, R118): issue and the fabric clocks stop, requests that reach their homes are performed, dirty lines
of the must-save ranges are written back, and every set is streamed to the data half that the previous manifest does not use. A photo finish is abandoned. -/
def execPowerFailTrap (performed : List (Nat × Nat)) (s : State) : Host.Outcome State Fault Refusal :=
  if s.power ≠ .run || s.supply || !s.everAdmitted || s.ticks < s.lossAt + 2000 then .next s
  else
    let s1 : State := { s with fabricStopped := true, uncoreStopped := false, freeze := none }
    let s2 := (s1.reachHome performed).writeBackMust
    let half := s2.keep.nextHalf
    let r := s2.setsInOrder.foldl (fun (r : Stream × State) x => r.2.saveSet x.1 x.2 r.1) (⟨[], [], [], 0⟩, s2)
    .next { r.2 with
      power := .holdup
      keep := ((r.2.keep.setHalf half r.1.pages).setInv half r.1.inv).setSeals half (r.1.recs.map SetRec.seq)
      holdup := some ⟨s.ticks, half, r.1.recs, false⟩ }

/-! ### The end of a hold-up (R109, R111, R113) -/

/-- A record of a set that was being streamed when the energy ran low: torn, its length and digest not given (R111,
assumption 24). -/
def tornRec (k : Nat) (r : SetRec) : SetRec :=
  { r with st := 1, len := (Config.freeWord k).toNat % (r.len + 1), digest := (Config.freeLine k).setWidth 384 }

/-- A record of a set that had not begun (R111). Its offset, length and digest, which the manual does not give, are zero (DESIGN
CHOICE, assumption 24). -/
def absentRec (r : SetRec) : SetRec := { r with st := 2, off := 0, len := 0, digest := 0 }

/-- HOLDUP_ENERGY_LOW (R111): after `whole` sets 1 J is left: streaming stops, the set in progress is torn and those after it are
absent. -/
def execHoldupEnergyLow (whole : Nat) (s : State) : Host.Outcome State Fault Refusal :=
  match s.holdup with
  | none => .next s
  | some h =>
    if s.power ≠ .holdup || h.low then .next s
    else
      let recs := h.recs.map (fun r => if r.seq < whole then r else if r.seq = whole then tornRec s.freeCount r else absentRec r)
      let keep := (s.keep.setHalf h.half ((s.keep.half h.half).filter (fun p => p.set < whole))).setSeals h.half
        ((s.keep.seals h.half).filter (fun k => k < whole))
      .next { s with freeCount := s.freeCount + 1, keep := keep, holdup := some { h with recs := recs, low := true } }

/-- HOLDUP_MANIFEST (R109, R113): the manifest is written and signed, and the package goes to OFF. -/
def execHoldupManifest (s : State) : Host.Outcome State Fault Refusal :=
  match s.holdup with
  | none => .next s
  | some h =>
    if s.power ≠ .holdup then .next s
    else
      let seq := s.keep.nextSeq
      let m : Manifest := ⟨seq, h.tcut, h.half, h.recs, Config.sign (manifestBytes seq h.tcut h.half h.recs), true⟩
      .next { s with keep := s.keep.putManifest m }.powerOff

/-- HOLDUP_ENERGY_EXHAUSTED (R111): the energy ends before the manifest is whole: what stands in its area does not verify, and
the package goes to OFF. Every set record stands there with a SIG of zero, so that its sets are reported as torn (DESIGN CHOICE,
assumption 77). -/
def execHoldupEnergyExhausted (s : State) : Host.Outcome State Fault Refusal :=
  match s.holdup with
  | none => .next s
  | some h =>
    if s.power ≠ .holdup then .next s
    else
      let m : Manifest := ⟨s.keep.nextSeq, h.tcut, h.half, h.recs, 0, false⟩
      .next { s with keep := s.keep.putManifest m }.powerOff

/-! ### After restart (R88, R114) -/

/-- The manifest that Bilsis reports sets of: the newest valid one, unless it is consumed (R114). -/
def Keep.reported (k : Keep) : Option Manifest :=
  match k.newest with
  | some (_, m) => if m.mseq > k.consumed then some m else none
  | none => none

/-- Whether a set of a manifest is whole (R114). -/
def Keep.whole (k : Keep) (m : Manifest) (set : Nat) : Bool :=
  match m.sets.find? (fun r => r.seq = set) with
  | some r => r.st = 0 && decide (r.digest = Config.sha384 (setBytes ((k.half m.half).filter (fun p => p.set = set))))
  | none => false

/-- The state in which a set is reported (R114). -/
inductive SetReport where
  | whole | torn | absent
deriving DecidableEq, Repr

/-- The state of a set of a manifest: torn under one whose signature fails, and absent where it is not recorded (R114). -/
def Keep.stateOf (k : Keep) (m : Manifest) (set : Nat) : SetReport :=
  match m.sets.find? (fun r => r.seq = set) with
  | none => .absent
  | some r => if !m.valid then .torn else if r.st = 2 then .absent else if k.whole m set then .whole else .torn

/-- What Bilsis reports at BOOT: the sets of the newest valid manifest and those of a manifest above the consumed one whose signature
fails, each as MSEQ, tenant id, set and state; nothing where the newest valid manifest is consumed (R114). -/
def Keep.reports (k : Keep) : List (Nat × Nat × Nat × SetReport) :=
  if k.newest.isSome && k.reported.isNone then []
  else
    let bad := (k.areaA.toList ++ k.areaB.toList).filter (fun m => !m.valid && decide (m.mseq > k.consumed))
    (k.reported.toList ++ bad).flatMap (fun m => m.sets.map (fun r => (m.mseq, r.tid, r.seq, k.stateOf m r.seq)))

/-- The lease entries that Bilsis reports as absent: those of the reported manifest with no complete slot, as MSEQ, set and entry
(R108, R114). -/
def Keep.absentLeases (k : Keep) : List (Nat × Nat × Nat) :=
  k.reported.toList.flatMap (fun m => ((if m.half = 0 then k.inv0 else k.inv1).filter (fun x => x.2.2.isNone)).map
    (fun x => (m.mseq, x.1, x.2.1)))

/-- The lease slots of a set as they stand once it is written back: the newest slot, with its completion word, is at LENVA (R110,
R114). -/
def Keep.slotsOf (k : Keep) (m : Manifest) (set tid : Nat) : List (Nat × Nat × Nat × Nat) :=
  (if m.half = 0 then k.inv0 else k.inv1).filterMap (fun x =>
    if x.1 ≠ set then none
    else match x.2.2 with
      | some w => ((k.half m.half).find? (fun p => p.set = set && p.entry = x.2.1)).map (fun p => (tid, p.va, w.1, 0))
      | none => none)

/-- The pages of a set that are written back: those saved, the set directory aside. -/
def Keep.pagesOf (k : Keep) (m : Manifest) (set : Nat) : List SavedPage :=
  (k.half m.half).filter (fun p => p.set = set && p.entry ≠ dirEntryNo && !p.hole)

/-- Whether a page is mapped in a context, be its home up or not. -/
def State.mapped (s : State) (c : Ctx) (va : Nat) : Bool := decide ((s.partOf c va).1 ≠ .hole)

/-- Whether a page is mapped in a context, and its home can take it. -/
def State.reachable (s : State) (c : Ctx) (va : Nat) : Bool := s.mapped c va && decide ((s.partOf c va).1 ≠ .down)

/-- Write a line of a restored page, with its mark; a zero line of an unbacked page is left not resident. -/
def State.restoreLine (s : State) (c : Ctx) (l : Leaf) (va : Nat) (v : Line) (poison : Bool) : State :=
  let loc := l.loc c.tid va
  if loc.key.isUnb && v = 0 && !poison && (s.l2? loc.die loc.key).isNone then s
  else (s.cdPut loc v).putLine loc v poison

/-- Write a saved page back, its leaf's D set (R114, R198). -/
def State.restorePage (s : State) (c : Ctx) (p : SavedPage) : State :=
  match s.partOf c p.va with
  | (.page l, s1) =>
    let s2 := match c.xlatDie p.va with
      | some die => (s1.readyLeaf c die p.va true l).2
      | none => s1
    (List.range 1024).foldl (fun (s : State) i =>
      match p.lines.find? (fun x => x.1 = i) with
      | some x => s.restoreLine c l (p.va + 64 * i) x.2.1 x.2.2
      | none => s.restoreLine c l (p.va + 64 * i) 0 false) s2
  | (_, s1) => s1

/-- Whether a context has admitted work: any that is there, or that came and is over (R384). -/
def State.hasWork (s : State) (tid : Nat) : Bool :=
  (s.ctx? tid).any Ctx.admitted || s.tasks.any (fun t => t.ctx = tid) || s.cmds.any (fun c => c.tid = tid)

/-- KS_RESTORE (R114, R384): a whole set is written back under the same addresses into a new context, all of whose pages must be
mapped; the slot of a lease is written to LENVA. It waits while a photo finish holds the home slices, and where a page is mapped whose
home is not up the manual gives no status (R116, assumption 19). -/
def execKsRestore (set tid : Nat) (s : State) : Host.Outcome State Fault Refusal :=
  if s.uncoreStopped then .next s
  else match s.ctx? tid, s.keep.reported with
  | none, _ => s.mailCmd (.error 1)
  | some _, none => s.mailCmd (.error 14)
  | some c, some m =>
    let ps := s.keep.pagesOf m set
    (match firstRefusal [(13, !ps.all (fun p => s.mapped c p.va)), (14, !s.keep.whole m set || s.hasWork tid)] with
    | some st => s.mailCmd (.error st)
    | none =>
      if !ps.all (fun p => s.reachable c p.va) then s.mailUnstated
      else
        let t := ps.foldl (fun (s : State) p => s.restorePage c p) s
        s.mailCmd (.ok { t with standing := s.keep.slotsOf m set tid ++ t.standing }))

/-- KS_CONSUME (R114): the newest valid manifest is recorded as consumed. -/
def execKsConsume (s : State) : Host.Outcome State Fault Refusal :=
  s.mailCmd (.ok (match s.keep.newest with
    | some (_, m) => { s with keep := { s.keep with consumed := m.mseq } }
    | none => s))

/-- A task that Bilsis makes, with no completion actions, which no start list admitted: it stands outside the order of its start
list as a device launch does, and its entry has DEVL clear (R73, R114, R251, assumption 25). -/
def bilsisTask (c : Ctx) (die idx : Nat) : Task :=
  { die := die, idx := idx, st := .waiting, kind := 0, cls := 0, ctx := c.tid, slid := (c.slots.head?).getD 8192, devl := true
    prio := 0, h := 1, w := 1, image := 0, args := 0, bilsis := true, seq := 0, skips := 0, rem := 0, waits := List.replicate 8 0
    itiles := List.replicate 8 0, otiles := List.replicate 4 0, order := 0, tag := 0, crec := false, csem := false
    cmsi := false, vec := 0, pktKind := 1, readyAt := 0, saved := .no, copy := none, cmd := none, firmware := false
    trapTag := 0, replays := [] }

/-- TASK_RESTORE (R88, R114): a SAVED task of a restored must-save slot; with no FREE entry nothing is made (assumptions 19,
25). A context that is being destroyed takes no more work, and is answered NOCTX (R389, assumption 68). -/
def execTaskRestore (tid slotVa : Nat) (s : State) : Host.Outcome State Fault Refusal :=
  match (s.ctx? tid).filter (fun c => !c.closing) with
  | none => s.mailCmd (.error 1)
  | some c =>
    let d := s.entryDie c [] []
    match s.freeEntry d with
    | none => s.mailUnstated
    | some i => s.mailCmd (.ok { s.markAdmitted tid with
        tasks := s.tasks ++ [{ bilsisTask c d i with
          st := .saved, saved := .lease slotVa
          w := ((s.findSave tid slotVa s.keep.saves).map (fun b => b.lease.w)).getD 1
          h := ((s.findSave tid slotVa s.keep.saves).map (fun b => b.lease.h)).getD 1 }] })

/-- The task that FW_LAUNCH makes (R57, R251). -/
def fwTask (a : FwArgs) (c : Ctx) (ins outs : List (BitVec 56)) (die idx : Nat) : Task :=
  { bilsisTask c die idx with
    cls := b2n a.idem, prio := a.prio, h := a.h, w := a.w, image := a.image, args := a.args, rem := a.est
    itiles := ins, otiles := outs, tag := a.tag, trapTag := a.tag, firmware := true }

/-- FW_LAUNCH (R57, R251): Bilsis launches an image with firmware privilege (assumptions 19, 25). A context that is being destroyed
takes no more work, and is answered NOCTX (R389, assumption 68). -/
def execFwLaunch (a : FwArgs) (s : State) : Host.Outcome State Fault Refusal :=
  match (s.ctx? a.tid).filter (fun c => !c.closing) with
  | none => s.mailCmd (.error 1)
  | some c =>
    let ins := a.itiles ++ List.replicate (8 - a.itiles.length) 0
    let outs := a.otiles ++ List.replicate (4 - a.otiles.length) 0
    let d := s.entryDie c ins outs
    match s.freeEntry d with
    | none => s.mailUnstated
    | some i => s.mailCmd (.ok (s.addTask (fwTask a c ins outs d i)))

end Sys2Proof.Machine
end

