-- ==== Sys2Proof/Machine/Laps.lean ====
section
/-! DEFINITION. The bandwidth controller's laps, and what checkers and the reliability monitor find (R90 to R94, R189, R222,
R223, R238). -/

namespace Sys2Proof.Machine

open Sys2Proof

/-! ### Laps (R90 to R94, R100, R189) -/

/-- Fabric cycles of a lap (R90). -/
def lapCycles : Nat := 1024

/-- The ports bound on a die that are not frozen (R93). -/
def State.lapPorts (s : State) (die : Nat) : List Port := s.ports.filter (fun p => p.bound && p.die = die && !p.frozen)

/-- Whether a port is bound to a lease that runs, or to an engine that executes a command (R92). A lease in the first steps of a
move still runs: its ports go on with what they have issued until step 4 freezes them (DEDUCED, assumption 70). -/
def State.portServes (s : State) (p : Port) : Bool :=
  match p.owner with
  | .mu site => (s.lease? site.lease).isSome
  | .engine _ _ _ => (s.engineAt p.id).isSome

/-- Whether a port is active for the lap that begins (R92). -/
def State.portActive (s : State) (p : Port) : Bool := s.portServes p && (p.issued || s.waitsInjection p)

/-- The pace of a tenant (R90). -/
def State.paceOf (s : State) (tid : Nat) : Nat := ((s.ctx? tid).map Ctx.pace).getD 0

/-- One tenant's share of a refill: what it has cut, its base, and its extra from the pool (R93). -/
structure Share where
  tid : Nat
  cut : Nat
  base : Nat
  extra : Nat
  ports : List Nat
deriving DecidableEq, Repr

/-- The tokens of the k-th of n active ports (R93). -/
def portTokens (total n k : Nat) : Nat := total / n + b2n (decide (k < total % n))

/-- The tokens that a share gives each of its ports, lowest PORTID first (R93). -/
def Share.grants (x : Share) : List (Nat × Nat) :=
  x.ports.zipIdx.map (fun p => (p.1, portTokens (x.base + x.extra) x.ports.length p.2))

/-- The shares of a die's refill with a budget and a pool (R93). -/
def State.shares (s : State) (b : Budget) (budget pool : Nat) : List Share :=
  let ps := s.lapPorts b.die
  let act := fun (t : Nat) => ((ps.filter (fun p => p.ctx = t && s.portActive p)).map Port.id).mergeSort (fun x y => x ≤ y)
  let tenants := (ps.map Port.ctx).dedup
  let sp := sumN ((tenants.filter (fun t => !(act t).isEmpty)).map s.paceOf)
  tenants.map (fun t =>
    let base := budget * s.paceOf t / 65536
    let cut := if b.cut.contains t then base / 8 else 0
    ⟨t, cut, base - cut, if (act t).isEmpty then 0 else pool * s.paceOf t / sp, act t⟩)

/-- The refill of one die at a lap boundary (R93). -/
def State.refill (s : State) (b : Budget) : State :=
  let budget := b.next.getD b.b
  let pool := sumN ((s.lapPorts b.die).map Port.bucket) + b.carry
  let xs := s.shares b budget pool
  let carry := sumN (xs.map (fun x => x.cut + if x.ports.isEmpty then x.base else 0)) + pool - sumN (xs.map Share.extra)
  let grants := xs.flatMap Share.grants
  let s1 : State := { s with
    ports := updWhere (fun p => p.bound && p.die = b.die && !p.frozen)
      (fun p => { p with bucket := lookupD grants p.id 0, issued := false }) s.ports
    budgets := updWhere (fun x => x.die = b.die)
      (fun x => { x with b := budget, next := none, carry := carry, cut := [] }) s.budgets }
  xs.foldl (fun (s : State) x => (s.count x.tid b.die 9 x.extra).count x.tid b.die 8 (b2n (b.cut.contains x.tid))) s1

/-- The occupancy of the slices' queues with which a lap begins counts for it too: a tenant that stands above its allowance is cut at the
refill that ends the lap (R94). -/
def State.recordQueues (s : State) : State :=
  s.ports.foldl (fun (s : State) p => match s.ctx? p.ctx with
    | none => s
    | some c => p.requests.foldl (fun (s : State) r => match r.queueAt c with
      | some q => if q.1 < 4 then s.publish p r c q.1 else s
      | none => s) s) s

/-- OLDEST: when the earliest SFR still open began, or now (R189). -/
def State.oldestNow (s : State) : Nat :=
  (minN? ((s.parties.filter Party.live).map Party.began)).getD s.ticks

/-- LAP_BOUNDARY (R33, R90, R93, R189): every 1,024 fabric cycles every live die's ports are refilled, OLDEST is published, and
the CD looks at the diagonal routes. -/
def execLapBoundary (s : State) : Host.Outcome State Fault Refusal :=
  if s.power ≠ .run || s.uncoreStopped || s.fabric < lapCycles * (s.lap + 1) then .next s
  else .next { (s.budgets.foldl (fun (s : State) b => s.refill b) s).recordQueues with
    lap := s.lap + 1, oldest := s.oldestNow }.reroute

/-! ### Checkers (R222, R223) -/

/-- Count a corrected or an uncorrectable error of an array (R223). -/
def State.countErr (s : State) (die array corr unc : Nat) : State :=
  let old := (s.errCounts.find? (fun c => c.1 = die && c.2.1 = array)).map (fun c => c.2.2)
  { s with errCounts := (die, array, (old.map Prod.fst).getD 0 + corr, (old.map Prod.snd).getD 0 + unc)
      :: s.errCounts.filter (fun c => !(c.1 = die && c.2.1 = array)) }

/-- The numbers of the array kinds in ERR_COUNTS, which the manual does not give: remote-read cache, near cache and scratchpad
(DESIGN CHOICE, assumption 68). -/
def arrayRrc : Nat := 2
def arrayNear : Nat := 3
def arrayScratch : Nat := 5

/-- Whether a number is that of a resident line of an unbacked page (R173, R174). -/
def State.unbackedLine (s : State) (num : Nat) : Bool :=
  s.l2.any (fun l => l.key.isUnb && decide (Loc.num ⟨l.die, l.key, .hbm, 0⟩ = lineOf num))

/-- A line one of whose words, or whose race tag, cannot be corrected is poisoned when it is next read (R222, R225). -/
def State.breakLine (s : State) (pa : Nat) : State := { s with eccFailed := setMember s.eccFailed (lineOf pa) true }

/-- Whether an opcode computes in an adder, multiplier or shifter that a checker watches: the scalar and vector arithmetic, the matrix
instructions, and the addresses of memory instructions (R222, R257). -/
def checkedOp (op : Nat) : Bool :=
  (0x20 ≤ op && op ≤ 0xAF) || (0xC0 ≤ op && op ≤ 0xC7) || (0xCD ≤ op && op ≤ 0xD8) || op = 0xDD || op = 0xDE

/-- The poison record of a cached copy with a word that cannot be corrected, whose reader fills in its origin (R222, R225). -/
def cacheRecord : Line := codeRecord cEccUncorr 0 false

/-- A scratchpad word of an MU cannot be corrected (R222). -/
def State.breakScratch (s : State) (site : SiteRef) (off : Nat) : State :=
  match s.lease? site.lease with
  | none => s
  | some L => (s.countErr (L.dieAt site.dx site.dy) arrayScratch 0 1).modMu site (fun m => { m with bad := 8 * (off / 8) :: m.bad })

/-- A near-cache line of a cluster has a word that cannot be corrected (R222). -/
def State.breakNear (s : State) (die cluster asid va : Nat) : State :=
  { s.countErr die arrayNear 0 1 with
    near := updWhere (fun n => n.die = die && n.cluster = cluster && n.asid = asid && n.va = lineOf va)
      (fun n => { n with data := cacheRecord, poison := true }) s.near }

/-- A remote-read-cache line has a word that cannot be corrected (R222). -/
def State.breakRrc (s : State) (die asid va : Nat) : State :=
  { s.countErr die arrayRrc 0 1 with
    rrc := updWhere (fun n => n.die = die && n.asid = asid && n.va = lineOf va)
      (fun n => { n with data := cacheRecord, poison := true }) s.rrc }

/-- A mismatch in the products and sums of a systolic CU: what the vector at the head of its array makes is ERR PIPE_CHECK, whose
origin is no instruction (R217, R222, R223, R224). -/
def State.breakSums (s : State) (site : SiteRef) : State :=
  match s.lease? site.lease, s.pe? site with
  | some L, some pe =>
    (match pe.cu.array with
    | [] => s
    | v :: rest =>
      let w := errWord cPipeCheck site.dx site.dy L.plane 127 pe.inv false
      (s.modPE site (fun pe => { pe with cu := { pe.cu with
        array := { v with sums := none, err := some (v.err.getD w) } :: rest } })).pipeAt L site.dx site.dy)
  | _, _ => s

/-- A datapath mismatch of a slot that issues: it fires, and what it sends is ERR PIPE_CHECK (R222, R223). -/
def State.pipeCheck (s : State) (site : SiteRef) (slot : Nat) : Host.Outcome State Fault Refusal :=
  let w := s.slotWord site slot
  match decodeWord w with
  | .error _ => .next s
  | .ok i =>
    if !checkedOp (w.extractLsb' 48 8).toNat then .next s
    else fire i always (errToBoth i)
      (fun c s => (c.fail i.head cPipeCheck s).pipeAt c.lease c.site.dx c.site.dy) { s with focus := Focus.slotAt site slot }

/-- CHECKER_MISMATCH (R69, R222): a datapath's result becomes ERR PIPE_CHECK; a single-bit error is corrected and counted; a line,
a scratchpad word or a cached copy that cannot be corrected is poisoned, and so is a protected line whose tag does not match. -/
def execCheckerMismatch (c : CheckEvent) (s : State) : Host.Outcome State Fault Refusal :=
  match c with
  | .pipe lease dx dy slot => s.pipeCheck ⟨lease, dx, dy⟩ slot
  | .systolic lease dx dy => .next (if s.fabricStopped then s else s.breakSums ⟨lease, dx, dy⟩)
  | .address lease dx dy => s.breakAddress ⟨lease, dx, dy⟩
  | .scratch lease dx dy off => .next (if s.power = .off then s else s.breakScratch ⟨lease, dx, dy⟩ off)
  | .near die cluster asid va => .next (if s.power = .off then s else s.breakNear die cluster asid va)
  | .rrc die asid va => .next (if s.power = .off then s else s.breakRrc die asid va)
  | .integrity pa =>
    .next (if s.power = .off || !s.validPa pa then s else { s with tagFailed := setMember s.tagFailed (lineOf pa) true })
  | .corrected die array => .next (if s.power = .off then s else s.countErr die array 1 0)
  | .uncorrectable die array pa =>
    .next (if s.power = .off || !(s.validPa pa || s.unbackedLine pa) then s else (s.countErr die array 0 1).breakLine pa)

/-- CHECK_COUNTER_HALVING (R223): every 2^30 fabric cycles each site's check counter is halved. -/
def execCheckCounterHalving (s : State) : Host.Outcome State Fault Refusal :=
  if s.power ≠ .run || s.uncoreStopped || s.fabric < 2 ^ 30 * (s.halvings + 1) then .next s
  else .next { s with
    halvings := s.halvings + 1
    siteChecks := (s.siteChecks.map (fun (c : Nat × Nat × Nat) => (c.1, c.2.1, c.2.2 / 2))).filter (fun c => c.2.2 ≠ 0) }

/-- SITE_RETIRE (R223): a list of retired sites that the host supplies. -/
def execSiteRetire (sites : List (Nat × Nat)) (s : State) : Host.Outcome State Fault Refusal :=
  s.mailCmd (.ok (sites.foldl (fun (s : State) c => s.retire c.1 c.2) s))

/-! ### The reliability monitor (R238) -/

/-- Take a flagged array out of use: a site is retired, a frame spared, a vault or a way of an L2 slice taken out (R238). The near and
remote-read caches have no ways in the manual. -/
def State.takeOut (s : State) : FlagWhat → State
  | .site x y => s.retire x y
  | .frame pa => { s with framesOut := setMember s.framesOut (page64 pa) true }
  | .vault die index => { s with
      vaultsOut := if s.vaultsOut.contains (die, index) then s.vaultsOut else (die, index) :: s.vaultsOut }
  | .way die array index => { s with
      waysOut := if s.waysOut.contains (die, array, index) then s.waysOut else (die, array, index) :: s.waysOut }

/-- Keep the corrected-error rate of an array (R238). -/
def State.keepRate (s : State) (what : FlagWhat) (rate : Nat) : State :=
  { s with rates := (what, rate) :: s.rates.filter (fun x => decide (x.1 ≠ what)) }

/-- RELIABILITY_MONITOR (R238): the corrected errors of an array of a voltage domain in one second are kept, and held against its
predictive-failure threshold, which the manual does not give in numbers (assumption 57). A crossing under an undervolt offset withdraws the offset and is measured for one second more; one that holds at nominal
voltage takes the array out of use. -/
def execReliabilityMonitor (domain rate : Nat) (what : FlagWhat) (s0 : State) : Host.Outcome State Fault Refusal :=
  let s := s0.keepRate what rate
  let above := decide (rate > Config.rateLimit what.kind)
  if s0.power ≠ .run || s0.uncoreStopped then .next s0
  else match s.measuring.find? (fun m => m.1 = domain) with
    | some m =>
      if s.ticks < m.2 then .next s
      else
        let s1 : State := { s with measuring := s.measuring.filter (fun x => x.1 ≠ domain) }
        .next (if above then s1.takeOut what else s1)
    | none =>
      if !above then .next s
      else if s.withheld.contains domain then .next (s.takeOut what)
      else .next { s with withheld := domain :: s.withheld, measuring := (domain, s.ticks + 10 ^ 9) :: s.measuring }

end Sys2Proof.Machine
end

