-- ==== Sys2Proof/Machine/Registers.lean ====
section
/-! DEFINITION. The host's registers and their reads and writes, SPDM, and Bilsis's writes of frame owner entries and key slots
(R7, R26, R27, R38, R45, R51, R52, R67, R68, R175, R388). -/

namespace Sys2Proof.Machine

open Sys2Proof

/-- The functions of the device: the PF and 127 VFs (R49). -/
def functions : Nat := 128

/-! ### Fuses (R1, R2, R26, R27) -/

/-- How many bits of a hole register are set. -/
def holeCount (h : BitVec 64) : Nat := ((List.range 64).filter (fun i => h.toNat.testBit i)).length

/-- Whether two physical positions are edge-adjacent: positions 0 and 1, 2 and 3 are x neighbours, 0 and 2, 1 and 3 y neighbours
(R26, R28). -/
def posAdjacent (a b : Nat) : Bool := a ≠ b && (a / 2 = b / 2 || a % 2 = b % 2)

/-- Whether a harvest is one that a part can have: the live dies of its grade at different positions, the two of an OZ4-P2
edge-adjacent with the lower position first, and at most four fused-off clusters on a live die (R1, R2, R26). -/
def Fuses.ok (f : Fuses) : Bool :=
  f.grade < 4 && f.nlive = [4, 2, 1, 4].getD f.grade 0 && f.pos.length = f.nlive && f.pos.Nodup && f.pos.all (fun p => decide (p < 4))
    && (f.grade ≠ 1 || (posAdjacent (f.pos.getD 0 0) (f.pos.getD 1 0) && f.pos.getD 0 0 < f.pos.getD 1 0))
    && f.stepping < 256 && f.holes.length ≤ 4
    && f.holes.zipIdx.all (fun h => holeCount h.1 ≤ (if h.2 < f.nlive then 4 else 0))

/-- PKGINFO (R27). -/
def Fuses.pkginfo (f : Fuses) : BitVec 64 :=
  BitVec.ofNat 64 (f.stepping % 2 ^ 8 * 2 ^ 24
    + sumN ((List.range 4).map (fun d => if d < f.nlive then f.pos.getD d 0 % 4 * 2 ^ (16 + 2 * d) else 0))
    + f.grade % 16 * 2 ^ 8 + f.nlive % 16 * 2 ^ 4 + (2 ^ f.nlive - 1) % 16)

/-- CLHOLE of a die (R27). -/
def Fuses.clhole (f : Fuses) (d : Nat) : BitVec 64 := if d < f.nlive then f.holes.getD d 0 else 0

/-! ### Register reads (R7, R27, R38, R45, R51, R52) -/

/-- The code of a link's state (R38). -/
def LinkState.code : LinkState → Nat
  | .down => 0
  | .training => 1
  | .readmitting => 2
  | .running => 3
  | .quiescing => 4
  | .absent => 7

/-- DLSTAT of a link (R38). -/
def Link.dlstat (l : Link) : BitVec 64 :=
  BitVec.ofNat 64 (min l.retries 0xFFFFFFFF * 2 ^ 32 + min l.downs 0xFFFF * 2 ^ 16 + l.mods % 2 ^ 8 * 2 ^ 8 + l.st.code)

/-- SXSTAT of a span port (R45). -/
def SpanPort.sxstat (p : SpanPort) : BitVec 64 :=
  let st := match p.st with
    | .down => 0
    | .training => 1
    | .up => 2
  BitVec.ofNat 64 (min p.retrains 0xFFFF * 2 ^ 48 + min p.replays 0xFFFFFFFF * 2 ^ 16 + p.laneFail.toNat * 2 ^ 8
    + p.rate % 4 * 2 ^ 4 + b2n p.half * 2 ^ 3 + st)

/-- Eight bytes of a region. -/
def eightBytes (r : Vector Byte 256) (off : Nat) : BitVec 64 :=
  BitVec.ofNat 64 (ofBytes ((List.range 8).map (fun i => (r[off + i]?).getD 0)))

/-- Sixty-four bits of a function's pending bit array (R51). -/
def State.pendingBits (s : State) (fn off : Nat) : BitVec 64 :=
  BitVec.ofNat 64 (sumN ((List.range 64).map (fun i => if s.msixPending.contains (fn, 8 * off + i) then 2 ^ i else 0)))

/-- A read of eight aligned bytes of BAR0 (R27, R38, R45, R51): what is reserved, or the PF's alone to a VF, reads as zero. -/
def State.readBar0 (s : State) (fn off : Nat) : BitVec 64 :=
  if off < 0x100 then eightBytes s.identity off
  else if off = 0x100 then s.fuses.pkginfo
  else if off < 0x128 then s.fuses.clhole ((off - 0x108) / 8)
  else if off < 0x200 then 0
  else if off < 0x300 then (if fn = 0 then eightBytes s.mailbox (off - 0x200) else 0)
  else if off < 0x340 then (match s.links[(off - 0x300) / 8]? with
    | some l => l.dlstat
    | none => 0)
  else if off < 0x400 then 0
  else if off < 0x500 then (if fn = 0 && off % 16 = 0 then (s.span ((off - 0x400) / 16)).sxstat else 0)
  else if off < 0x7F00 then 0
  else if off < 0x8000 then s.pendingBits fn (off - 0x7F00)
  else if off < 0x10000 then s.msixWord fn (off - 0x8000 + 4) ++ s.msixWord fn (off - 0x8000)
  else 0

/-- The code of a start list's state (R52). -/
def SlState.code : SlState → Nat
  | .active => 0
  | .stopping => 1
  | .stopped => 2
  | .faulted => 3
  | .destroyed => 4

/-- SLSTAT of a start list (R52). -/
def StartList.slstat (l : StartList) : BitVec 64 :=
  BitVec.ofNat 64 (min l.lost 0xFFFF * 2 ^ 48 + l.fcause % 2 ^ 8 * 2 ^ 8 + l.st.code)

/-- A read of eight aligned bytes of BAR2 (R52): a page without a start list reads as zero, but for SLSTAT, whose STATE is 7; SLCTL
and offsets not listed read as zero. -/
def State.readBar2 (s : State) (fn off : Nat) : BitVec 64 :=
  if off / 0x1000 ≥ 64 then 0
  else match off % 0x1000, s.sl? (64 * fn + off / 0x1000) with
    | 0x000, some l => l.tail.setWidth 64
    | 0x008, some l => l.head.setWidth 64
    | 0x010, some l => l.chead.setWidth 64
    | 0x020, some l => l.slstat
    | 0x020, none => 7
    | _, _ => 0

/-- What eight aligned bytes of a BAR of a function read as (R7, R51, R52). -/
def State.readRegister (s : State) (fn bar off : Nat) : BitVec 64 :=
  if bar = 0 then s.readBar0 fn off else if bar = 2 then s.readBar2 fn off else 0

/-! ### Register writes (R7, R51, R52, R388) -/

/-- Write eight bytes of the Bilsis mailbox region (R51). -/
def State.writeMailbox (s : State) (off : Nat) (v : BitVec 64) : State :=
  { s with mailbox := (List.range 8).foldl (fun (m : Vector Byte 256) i =>
      m.setIfInBounds (off + i) (BitVec.ofNat 8 (bitsOf v.toNat (8 * i) 8))) s.mailbox }

/-- Write eight bytes of a function's MSI-X table, as two 32-bit words; a pending message of the entry goes if this unmasks its
vector (R51, assumption 45). -/
def State.writeMsix (s : State) (fn off : Nat) (v : BitVec 64) : State :=
  let put := fun (l : List (Nat × Nat × BitVec 32)) (o x : Nat) =>
    (fn, o, BitVec.ofNat 32 x) :: l.filter (fun e => !(e.1 = fn && e.2.1 = o))
  { s with msixTable := put (put s.msixTable off (bitsOf v.toNat 0 32)) (off + 4) (bitsOf v.toNat 32 32) }.unmask fn (off / 16)

/-- One write to SLCTL is one command: DESTROY, with FORCE, before STOP and START, which together do nothing (R388). -/
def State.writeSlctl (s : State) (slot : Nat) (v : BitVec 64) : State :=
  let b := fun i => v.toNat.testBit i
  if b 2 then s.destroySl slot (b 3)
  else if b 0 && b 1 then s
  else if b 0 then s.stopSl slot
  else if b 1 then s.startSl slot
  else s

/-- A write to BAR0: the PF's mailbox region and the MSI-X table take it; what is read-only, reserved, or not the VF's ignores it
(R7, R51). -/
def State.writeBar0 (s : State) (fn off : Nat) (v : BitVec 64) : State :=
  if 0x200 ≤ off && off < 0x300 then (if fn = 0 then s.writeMailbox (off - 0x200) v else s)
  else if 0x8000 ≤ off && off < 0x10000 then s.writeMsix fn (off - 0x8000) v
  else s

/-- A write to BAR2: a register of the doorbell page of a slot (R52). -/
def State.writeBar2 (s : State) (fn off : Nat) (v : BitVec 64) : State :=
  let slot := 64 * fn + off / 0x1000
  if off / 0x1000 ≥ 64 then s
  else match off % 0x1000 with
    | 0x000 => s.writeTail slot (v.setWidth 32)
    | 0x010 => s.writeChead slot (v.setWidth 32)
    | 0x018 => s.writeSlctl slot v
    | _ => s

/-- REGISTER_WRITE (R7, R51, R52, R388): eight aligned bytes written to a BAR of a function, as each register's access type
states. -/
def execRegisterWrite (fn bar off : Nat) (v : BitVec 64) (s : State) : Host.Outcome State Fault Refusal :=
  if s.power = .off || s.power = .holdup || fn ≥ functions || off % 8 ≠ 0 then .next s
  else match bar with
    | 0 => .next (s.writeBar0 fn off v)
    | 2 => .next (s.writeBar2 fn off v)
    | _ => .next s

/-! ### SPDM (R67) -/

/-- A byte string in values of 160 bytes. -/
def chunks (bs : List Byte) : List (BitVec 1280) :=
  (List.range (ceilDiv bs.length 160)).map (fun i => BitVec.ofNat 1280 (ofBytes ((bs.drop (160 * i)).take 160)))

/-- An SPDM reply whose contents the manual does not give (assumption 8). -/
def State.spdmFree (s : State) : State :=
  { s with freeCount := s.freeCount + 1, spdmReply := ⟨0, [(Config.freeLine s.freeCount).setWidth 1280]⟩ }

/-- SPDM_REQUEST (R67): the device answers; a requester that does not accept its algorithm gets an SPDM error. -/
def execSpdmRequest (fn : Nat) (req : SpdmReq) (s : State) : Host.Outcome State Fault Refusal :=
  let ans := fun (vs : List (BitVec 1280)) => nextS { s with spdmReply := ⟨0, vs⟩ }
  if s.power = .off || s.power = .holdup || fn ≥ functions then .next s
  else match req with
    | .version | .capabilities => .next s.spdmFree
    | .algorithms accept => if accept then ans [] else .next { s with spdmReply := ⟨1, []⟩ }
    | .digests => ans [(Config.sha384 (Config.certChain s.measurements)).setWidth 1280]
    | .certificate => ans (chunks (Config.certChain s.measurements))
    | .challenge nonce => ans [(Config.sign (toBytes 32 nonce.toNat)).setWidth 1280]
    | .measurements => ans (s.measurements.map (fun (m : BitVec 384) => m.setWidth 1280))

/-! ### Frame owners and key slots (R68, R175) -/

/-- FRAME_OWNER_WRITE (R175): VALID, HOSTOK and OWNER of a 64 KiB frame; the reserved bits are zero. A frame that no die of the
part has faults; one of a die that configuration traffic does not reach stays as it is, and one that is out of use is not made VALID
(R35, R238, assumption 19). -/
def execFrameOwnerWrite (frame : Nat) (v : BitVec 16) (s : State) : Host.Outcome State Fault Refusal :=
  let k := (locOf (65536 * frame)).kind
  if s.power ≠ .run then .next s
  else if !s.validPa (65536 * frame) || k = .host || paPkg (65536 * frame) ≠ s.pkgNo then .fault .noSuchEntry
  else if !s.configUp (paDie (65536 * frame)) || (v.getLsbD 15 && s.frameOut (65536 * frame)) then s.mailUnstated
  else .next { s with owners := insertKV s.owners frame (v &&& 0xC3FF#16) }

/-- KEY_SLOT_LOAD (R68): a wrapped key pair and tag key go into a key slot of a live die, 1 to 255; any other faults. A die that
configuration traffic does not reach takes none (R35, assumption 19). -/
def execKeySlotLoad (die slot : Nat) (wrapped : List (BitVec 8)) (s : State) : Host.Outcome State Fault Refusal :=
  if s.power ≠ .run then .next s
  else if !s.live die || slot = 0 || slot > 255 then .fault .noSuchEntry
  else if !s.configUp die then s.mailUnstated
  else .next { s with keys := (die, slot, wrapped) :: s.keys.filter (fun k => !(k.1 = die && k.2.1 = slot)) }

end Sys2Proof.Machine
end

