-- ==== Sys2Proof/Machine/Spans.lean ====
section
/-! DEFINITION. The events of the span ports: flits received, replays, retraining and degradation (R39 to R45). -/

namespace Sys2Proof.Machine

open Sys2Proof

/-- The symbol errors of a codeword that the Reed-Solomon code corrects (R41). -/
def rsCorrects : Nat := 15

/-- SPAN_FLIT_RECEIVE (R40 to R42): a port that is UP takes a pair of flits, as its code has corrected it; a pair with more than 15
symbol errors counts as two CRC failures (assumption 23). -/
def execSpanFlitReceive (port : Nat) (flits : List (BitVec 2048)) (errors : Nat) (s : State) :
    Host.Outcome State Fault Refusal :=
  if s.power ≠ .run || (s.span port).st ≠ .up then .next s
  else .next (s.modSpan port (fun p =>
    (flits.take 2).foldl (fun (p : SpanPort) f => p.take s.pkgNo s.ticks (decide (errors ≤ rsCorrects)) f) p))

/-- SPAN_NAK (R42): a port that is UP receives a NAK. -/
def execSpanNak (port : Nat) (ackseq : BitVec 8) (s : State) : Host.Outcome State Fault Refusal :=
  if s.power ≠ .run || (s.span port).st ≠ .up then .next s
  else .next (s.modSpan port (fun p => p.nak s.ticks ackseq))

/-! ### Retraining and degradation (R43, R44) -/

/-- The requests that have left for a package which no port reaches any longer are refused with LINK_POISON (R44, assumption 23). -/
def State.poisonAbroad (s : State) : State :=
  s.ports.foldl (fun (s : State) p => p.queue.foldl (fun (s : State) r =>
    if r.status = .abroad && (s.routes[vaPkg r.va]?).getD 0 = 0 then s.refuse p r cLinkPoison else s) s) s

/-- A span port goes DOWN: it leaves every mask, and its held flits and those that wait to be sent go over their destinations'
remaining ports, those of one line by the port that its requests leave by from now on (R43, R44). -/
def State.spanDown (s : State) (n : Nat) : State :=
  let held := ((s.span n).held ++ (s.span n).pend).zip (s.span n).lines
  let s1 : State := { s with routes := s.routes.map (fun m => m &&& ~~~ (1#16 <<< n)) }
  let s2 := s1.modSpan n (fun p => { p with
    st := .down, held := [], sending := [], pend := [], lines := [], window := [], naked := false, fails := 0, pair := none })
  (held.foldl (fun (s : State) f => match spanPortFor ((s.routes[flitDst f.1]?).getD 0) f.2 with
    | some k => s.modSpan k (fun p => p.send f.2 f.1)
    | none => s) s2).poisonAbroad

/-- SPAN_PORT_RETRAIN (R43): Bilsis has a port train at a rate, with eight lanes or four; with eight, its lanes are whole
again (assumption 23). -/
def execSpanPortRetrain (port rate : Nat) (half : Bool) (s : State) : Host.Outcome State Fault Refusal :=
  if s.power ≠ .run || rate > 2 || port ≥ 16 then .next s
  else .next (s.modSpan port (fun p => { p.train rate half with laneFail := if half then p.laneFail else 0 }))

/-- SPAN_PORT_TRAINED (R43): the port is UP and sends again, with what it holds first. -/
def execSpanPortTrained (s : State) : Host.Outcome State Fault Refusal :=
  if s.power ≠ .run || (s.span s.focus.port).st ≠ .training then .next s
  else .next (s.modSpan s.focus.port (fun p => { p with
    st := .up, fails := 0, naked := false, sending := p.held ++ p.sending.filter (fun f => !p.held.contains f) }))

/-- SPAN_TRAINING_FAIL (R43): a training attempt fails; the third in a row takes the port DOWN. -/
def execSpanTrainingFail (s : State) : Host.Outcome State Fault Refusal :=
  let n := s.focus.port
  if s.power ≠ .run || (s.span n).st ≠ .training then .next s
  else if (s.span n).fails ≥ 2 then .next (s.spanDown n)
  else .next (s.modSpan n (fun p => { p with fails := p.fails + 1 }))

/-- SPAN_REPLAY_LIMIT (R43): more than 64 replays within 1 ms: the port trains at the next lower rate, or goes DOWN at the
lowest. -/
def execSpanReplayLimit (s : State) : Host.Outcome State Fault Refusal :=
  let n := s.focus.port
  let p := s.span n
  if s.power ≠ .run || p.st ≠ .up || (p.window.filter (fun t => t + replayWindow > s.ticks)).length ≤ 64 then .next s
  else if p.rate ≥ 2 then .next (s.spanDown n)
  else .next (s.modSpan n (fun p => p.train (p.rate + 1) p.half))

/-- SPAN_LANE_FAILURE (R43, R45): a lane fails: four lanes are left, or none where both halves hold a failed lane. -/
def execSpanLaneFailure (s : State) : Host.Outcome State Fault Refusal :=
  let n := s.focus.port
  if s.power ≠ .run || (s.span n).st = .down || s.focus.ch ≥ 8 then .next s
  else
    let bad := (s.span n).laneFail ||| (1#8 <<< s.focus.ch)
    let s1 := s.modSpan n (fun p => { p with laneFail := bad, half := true })
    if bad.toNat % 16 ≠ 0 && bad.toNat / 16 ≠ 0 then .next (s1.spanDown n) else .next s1

end Sys2Proof.Machine
end

