-- ==== Sys2Proof/Machine/Dispatch.lean ====
section
/-! DEFINITION. The meaning of every step: one arm per constructor of `Instr`, each one call of a meaning. -/

namespace Sys2Proof.Machine

open Sys2Proof

def exec (i : Instr) (s : State) : Host.Outcome State Fault Refusal :=
  match i with
  | .supplyPresent verified measures => Sys2Proof.Machine.execSupplyPresent verified measures s
  | .powerFailTrap performed => Sys2Proof.Machine.execPowerFailTrap performed s
  | .holdupEnergyLow whole => Sys2Proof.Machine.execHoldupEnergyLow whole s
  | .ctxCreate a => Sys2Proof.Machine.execCtxCreate a s
  | .ctxDestroy tid => Sys2Proof.Machine.execCtxDestroy tid s
  | .ctxDiemap tid vdie die => Sys2Proof.Machine.execCtxDiemap tid vdie die s
  | .ctxPace tid pace => Sys2Proof.Machine.execCtxPace tid pace s
  | .ctxRoot asid dc addr => Sys2Proof.Machine.execCtxRoot asid dc addr s
  | .slCreate a => Sys2Proof.Machine.execSlCreate a s
  | .bwBudget die b => Sys2Proof.Machine.execBwBudget die b s
  | .msUpdate tid decl => Sys2Proof.Machine.execMsUpdate tid decl s
  | .ksRestore set tid => Sys2Proof.Machine.execKsRestore set tid s
  | .taskRestore tid slotVa => Sys2Proof.Machine.execTaskRestore tid slotVa s
  | .taskResume die entry => Sys2Proof.Machine.execTaskResume die entry s
  | .taskKill die entry => Sys2Proof.Machine.execTaskKill die entry s
  | .dieReset die => Sys2Proof.Machine.execDieReset die s
  | .poolAdd tid pool pa big => Sys2Proof.Machine.execPoolAdd tid pool pa big s
  | .pgMigr tid va die => Sys2Proof.Machine.execPgMigr tid va die s
  | .s2inv vmid base count => Sys2Proof.Machine.execS2inv vmid base count s
  | .racePool die base size => Sys2Proof.Machine.execRacePool die base size s
  | .siteThresh v => Sys2Proof.Machine.execSiteThresh v s
  | .siteRetire sites => Sys2Proof.Machine.execSiteRetire sites s
  | .fwLaunch a => Sys2Proof.Machine.execFwLaunch a s
  | .dbgNonce fresh => Sys2Proof.Machine.execDbgNonce fresh s
  | .dbgFreeze token sigOk f buf => Sys2Proof.Machine.execDbgFreeze token sigOk f buf s
  | .photoFinishFreeze performed => Sys2Proof.Machine.execPhotoFinishFreeze performed s
  | .routeTableWrite dst mask => Sys2Proof.Machine.execRouteTableWrite dst mask s
  | .doorbell slot tail => Sys2Proof.Machine.execDoorbell slot tail s
  | .slchead slot v => Sys2Proof.Machine.execSlchead slot v s
  | .stop slot => Sys2Proof.Machine.execStop slot s
  | .start slot => Sys2Proof.Machine.execStart slot s
  | .destroy slot => Sys2Proof.Machine.execDestroy slot s
  | .destroyForce slot => Sys2Proof.Machine.execDestroyForce slot s
  | .registerWrite fn bar off v => Sys2Proof.Machine.execRegisterWrite fn bar off v s
  | .hostCxlMemRequest pa write data mask => Sys2Proof.Machine.execHostCxlMemRequest pa write data mask s
  | .tokenArrival bad => Sys2Proof.Machine.execTokenArrival bad s
  | .decisionToken replace => Sys2Proof.Machine.execDecisionToken replace s
  | .checkerMismatch c => Sys2Proof.Machine.execCheckerMismatch c s
  | .reliabilityMonitor domain rate what => Sys2Proof.Machine.execReliabilityMonitor domain rate what s
  | .seamModuleLoss seam lost => Sys2Proof.Machine.execSeamModuleLoss seam lost s
  | .linkFailure link performed => Sys2Proof.Machine.execLinkFailure link performed s
  | .cdLinkFailure die performed => Sys2Proof.Machine.execCdLinkFailure die performed s
  | .linkTrainingResult link ok => Sys2Proof.Machine.execLinkTrainingResult link ok s
  | .spanFlitReceive port flits errors => Sys2Proof.Machine.execSpanFlitReceive port flits errors s
  | .spanNak port ackseq => Sys2Proof.Machine.execSpanNak port ackseq s
  | .nop f => Sys2Proof.Machine.execNop f s
  | .recv f => Sys2Proof.Machine.execRecv f s
  | .peek f => Sys2Proof.Machine.execPeek f s
  | .drop f => Sys2Proof.Machine.execDrop f s
  | .emit f => Sys2Proof.Machine.execEmit f s
  | .mov f => Sys2Proof.Machine.execMov f s
  | .const f => Sys2Proof.Machine.execConst f s
  | .steer f => Sys2Proof.Machine.execSteer f s
  | .merge f => Sys2Proof.Machine.execMerge f s
  | .sel f => Sys2Proof.Machine.execSel f s
  | .gate f => Sys2Proof.Machine.execGate f s
  | .iter f => Sys2Proof.Machine.execIter f s
  | .kread f => Sys2Proof.Machine.execKread f s
  | .kwrite f => Sys2Proof.Machine.execKwrite f s
  | .eoiq f => Sys2Proof.Machine.execEoiq f s
  | .decide f => Sys2Proof.Machine.execDecide f s
  | .retire f => Sys2Proof.Machine.execRetire f s
  | .waitc f => Sys2Proof.Machine.execWaitc f s
  | .invnum f => Sys2Proof.Machine.execInvnum f s
  | .siteid f => Sys2Proof.Machine.execSiteid f s
  | .hmask f => Sys2Proof.Machine.execHmask f s
  | .hunmask f => Sys2Proof.Machine.execHunmask f s
  | .chstat f => Sys2Proof.Machine.execChstat f s
  | .add f => Sys2Proof.Machine.execAdd f s
  | .sub f => Sys2Proof.Machine.execSub f s
  | .addc f => Sys2Proof.Machine.execAddc f s
  | .subb f => Sys2Proof.Machine.execSubb f s
  | .mul f => Sys2Proof.Machine.execMul f s
  | .mulh f => Sys2Proof.Machine.execMulh f s
  | .div f => Sys2Proof.Machine.execDiv f s
  | .rem f => Sys2Proof.Machine.execRem f s
  | .neg f => Sys2Proof.Machine.execNeg f s
  | .abs f => Sys2Proof.Machine.execAbs f s
  | .min f => Sys2Proof.Machine.execMin f s
  | .max f => Sys2Proof.Machine.execMax f s
  | .satadd f => Sys2Proof.Machine.execSatadd f s
  | .satsub f => Sys2Proof.Machine.execSatsub f s
  | .and f => Sys2Proof.Machine.execAnd f s
  | .or f => Sys2Proof.Machine.execOr f s
  | .xor f => Sys2Proof.Machine.execXor f s
  | .andn f => Sys2Proof.Machine.execAndn f s
  | .shl f => Sys2Proof.Machine.execShl f s
  | .shr f => Sys2Proof.Machine.execShr f s
  | .sar f => Sys2Proof.Machine.execSar f s
  | .rot f => Sys2Proof.Machine.execRot f s
  | .clz f => Sys2Proof.Machine.execClz f s
  | .popc f => Sys2Proof.Machine.execPopc f s
  | .bfx f => Sys2Proof.Machine.execBfx f s
  | .bfi f => Sys2Proof.Machine.execBfi f s
  | .ext f => Sys2Proof.Machine.execExt f s
  | .cmp f => Sys2Proof.Machine.execCmp f s
  | .adda f => Sys2Proof.Machine.execAdda f s
  | .mkaddr f => Sys2Proof.Machine.execMkaddr f s
  | .dieof f => Sys2Proof.Machine.execDieof f s
  | .fadd f => Sys2Proof.Machine.execFadd f s
  | .fsub f => Sys2Proof.Machine.execFsub f s
  | .fmul f => Sys2Proof.Machine.execFmul f s
  | .ffma f => Sys2Proof.Machine.execFfma f s
  | .fdiv f => Sys2Proof.Machine.execFdiv f s
  | .fsqrt f => Sys2Proof.Machine.execFsqrt f s
  | .fmin f => Sys2Proof.Machine.execFmin f s
  | .fmax f => Sys2Proof.Machine.execFmax f s
  | .fneg f => Sys2Proof.Machine.execFneg f s
  | .fabs f => Sys2Proof.Machine.execFabs f s
  | .fcmp f => Sys2Proof.Machine.execFcmp f s
  | .fclass f => Sys2Proof.Machine.execFclass f s
  | .fcvt f => Sys2Proof.Machine.execFcvt f s
  | .ftoi f => Sys2Proof.Machine.execFtoi f s
  | .itof f => Sys2Proof.Machine.execItof f s
  | .frnd f => Sys2Proof.Machine.execFrnd f s
  | .fscale f => Sys2Proof.Machine.execFscale f s
  | .fexp2 f => Sys2Proof.Machine.execFexp2 f s
  | .flog2 f => Sys2Proof.Machine.execFlog2 f s
  | .frcp f => Sys2Proof.Machine.execFrcp f s
  | .frsq f => Sys2Proof.Machine.execFrsq f s
  | .fflags f => Sys2Proof.Machine.execFflags f s
  | .vadd f => Sys2Proof.Machine.execVadd f s
  | .vsub f => Sys2Proof.Machine.execVsub f s
  | .vmul f => Sys2Proof.Machine.execVmul f s
  | .vfma f => Sys2Proof.Machine.execVfma f s
  | .vmin f => Sys2Proof.Machine.execVmin f s
  | .vmax f => Sys2Proof.Machine.execVmax f s
  | .vabs f => Sys2Proof.Machine.execVabs f s
  | .vneg f => Sys2Proof.Machine.execVneg f s
  | .vand f => Sys2Proof.Machine.execVand f s
  | .vor f => Sys2Proof.Machine.execVor f s
  | .vxor f => Sys2Proof.Machine.execVxor f s
  | .vshl f => Sys2Proof.Machine.execVshl f s
  | .vshr f => Sys2Proof.Machine.execVshr f s
  | .vsar f => Sys2Proof.Machine.execVsar f s
  | .vcmp f => Sys2Proof.Machine.execVcmp f s
  | .vsel f => Sys2Proof.Machine.execVsel f s
  | .vsatadd f => Sys2Proof.Machine.execVsatadd f s
  | .vmulh f => Sys2Proof.Machine.execVmulh f s
  | .vdot f => Sys2Proof.Machine.execVdot f s
  | .vcvt f => Sys2Proof.Machine.execVcvt f s
  | .vquant f => Sys2Proof.Machine.execVquant f s
  | .vdeq f => Sys2Proof.Machine.execVdeq f s
  | .vscale f => Sys2Proof.Machine.execVscale f s
  | .vexp2 f => Sys2Proof.Machine.execVexp2 f s
  | .vlog2 f => Sys2Proof.Machine.execVlog2 f s
  | .vrcp f => Sys2Proof.Machine.execVrcp f s
  | .vrsq f => Sys2Proof.Machine.execVrsq f s
  | .vsigm f => Sys2Proof.Machine.execVsigm f s
  | .vbcast f => Sys2Proof.Machine.execVbcast f s
  | .vextr f => Sys2Proof.Machine.execVextr f s
  | .vins f => Sys2Proof.Machine.execVins f s
  | .vshuf f => Sys2Proof.Machine.execVshuf f s
  | .vrot f => Sys2Proof.Machine.execVrot f s
  | .vslide f => Sys2Proof.Machine.execVslide f s
  | .vzip f => Sys2Proof.Machine.execVzip f s
  | .vunzip f => Sys2Proof.Machine.execVunzip f s
  | .vpack f => Sys2Proof.Machine.execVpack f s
  | .vunpack f => Sys2Proof.Machine.execVunpack f s
  | .vredadd f => Sys2Proof.Machine.execVredadd f s
  | .vredmax f => Sys2Proof.Machine.execVredmax f s
  | .vredmin f => Sys2Proof.Machine.execVredmin f s
  | .vscan f => Sys2Proof.Machine.execVscan f s
  | .vcompress f => Sys2Proof.Machine.execVcompress f s
  | .vexpand f => Sys2Proof.Machine.execVexpand f s
  | .vmask f => Sys2Proof.Machine.execVmask f s
  | .vpopc f => Sys2Proof.Machine.execVpopc f s
  | .vtagq f => Sys2Proof.Machine.execVtagq f s
  | .vtagset f => Sys2Proof.Machine.execVtagset f s
  | .wload f => Sys2Proof.Machine.execWload f s
  | .wscale f => Sys2Proof.Machine.execWscale f s
  | .wswap f => Sys2Proof.Machine.execWswap f s
  | .wsparse f => Sys2Proof.Machine.execWsparse f s
  | .mstream f => Sys2Proof.Machine.execMstream f s
  | .macc f => Sys2Proof.Machine.execMacc f s
  | .adecay f => Sys2Proof.Machine.execAdecay f s
  | .azero f => Sys2Proof.Machine.execAzero f s
  | .aload f => Sys2Proof.Machine.execAload f s
  | .adrain f => Sys2Proof.Machine.execAdrain f s
  | .aspill f => Sys2Proof.Machine.execAspill f s
  | .afill f => Sys2Proof.Machine.execAfill f s
  | .aown f => Sys2Proof.Machine.execAown f s
  | .mstat f => Sys2Proof.Machine.execMstat f s
  | .tfetch f => Sys2Proof.Machine.execTfetch f s
  | .trelease f => Sys2Proof.Machine.execTrelease f s
  | .ld f => Sys2Proof.Machine.execLd f s
  | .st f => Sys2Proof.Machine.execSt f s
  | .ldv f => Sys2Proof.Machine.execLdv f s
  | .stv f => Sys2Proof.Machine.execStv f s
  | .ldro f => Sys2Proof.Machine.execLdro f s
  | .lds f => Sys2Proof.Machine.execLds f s
  | .sts f => Sys2Proof.Machine.execSts f s
  | .pref f => Sys2Proof.Machine.execPref f s
  | .cbinit f => Sys2Proof.Machine.execCbinit f s
  | .cbwaitf f => Sys2Proof.Machine.execCbwaitf f s
  | .cbwaite f => Sys2Proof.Machine.execCbwaite f s
  | .cbpush f => Sys2Proof.Machine.execCbpush f s
  | .cbpop f => Sys2Proof.Machine.execCbpop f s
  | .aadd f => Sys2Proof.Machine.execAadd f s
  | .amin f => Sys2Proof.Machine.execAmin f s
  | .amax f => Sys2Proof.Machine.execAmax f s
  | .aand f => Sys2Proof.Machine.execAand f s
  | .aor f => Sys2Proof.Machine.execAor f s
  | .axor f => Sys2Proof.Machine.execAxor f s
  | .aswp f => Sys2Proof.Machine.execAswp f s
  | .acas f => Sys2Proof.Machine.execAcas f s
  | .afadd f => Sys2Proof.Machine.execAfadd f s
  | .redadd f => Sys2Proof.Machine.execRedadd f s
  | .redfadd f => Sys2Proof.Machine.execRedfadd f s
  | .redmax f => Sys2Proof.Machine.execRedmax f s
  | .acq f => Sys2Proof.Machine.execAcq f s
  | .rel f => Sys2Proof.Machine.execRel f s
  | .fence f => Sys2Proof.Machine.execFence f s
  | .ncinv f => Sys2Proof.Machine.execNcinv f s
  | .discard f => Sys2Proof.Machine.execDiscard f s
  | .flushr f => Sys2Proof.Machine.execFlushr f s
  | .tjoin f => Sys2Proof.Machine.execTjoin f s
  | .tleave f => Sys2Proof.Machine.execTleave f s
  | .markinit f => Sys2Proof.Machine.execMarkinit f s
  | .arrive f => Sys2Proof.Machine.execArrive f s
  | .mwait f => Sys2Proof.Machine.execMwait f s
  | .arrwait f => Sys2Proof.Machine.execArrwait f s
  | .sfrend f => Sys2Proof.Machine.execSfrend f s
  | .cpy f => Sys2Proof.Machine.execCpy f s
  | .cpym f => Sys2Proof.Machine.execCpym f s
  | .zpack f => Sys2Proof.Machine.execZpack f s
  | .zunpack f => Sys2Proof.Machine.execZunpack f s
  | .coll f => Sys2Proof.Machine.execColl f s
  | .engq f => Sys2Proof.Machine.execEngq f s
  | .cropen f => Sys2Proof.Machine.execCropen f s
  | .crclose f => Sys2Proof.Machine.execCrclose f s
  | .trap f => Sys2Proof.Machine.execTrap f s
  | .task f => Sys2Proof.Machine.execTask f s
  | .taskdep f => Sys2Proof.Machine.execTaskdep f s
  | .migr f => Sys2Proof.Machine.execMigr f s
  | .xlfence f => Sys2Proof.Machine.execXlfence f s
  | .xlinv f => Sys2Proof.Machine.execXlinv f s
  | .clock f => Sys2Proof.Machine.execClock f s
  | .perfc f => Sys2Proof.Machine.execPerfc f s
  | .errq f => Sys2Proof.Machine.execErrq f s
  | .spanPortRetrain port rate half => Sys2Proof.Machine.execSpanPortRetrain port rate half s
  | .seamRetrain seam ok => Sys2Proof.Machine.execSeamRetrain seam ok s
  | .frameOwnerWrite frame v => Sys2Proof.Machine.execFrameOwnerWrite frame v s
  | .keySlotLoad die slot wrapped => Sys2Proof.Machine.execKeySlotLoad die slot wrapped s
  | .spdmRequest fn req => Sys2Proof.Machine.execSpdmRequest fn req s
  | .supplyLoss => Sys2Proof.Machine.execSupplyLoss s
  | .holdupManifest => Sys2Proof.Machine.execHoldupManifest s
  | .energyReserveReady => Sys2Proof.Machine.execEnergyReserveReady s
  | .holdupChargeTimeout => Sys2Proof.Machine.execHoldupChargeTimeout s
  | .ksConsume => Sys2Proof.Machine.execKsConsume s
  | .dieResetAdvance => Sys2Proof.Machine.execDieResetAdvance s
  | .dieResetDrainDeadline => Sys2Proof.Machine.execDieResetDrainDeadline s
  | .siteList => Sys2Proof.Machine.execSiteList s
  | .errCounts => Sys2Proof.Machine.execErrCounts s
  | .packetRead => Sys2Proof.Machine.execPacketRead s
  | .packetStampRetry => Sys2Proof.Machine.execPacketStampRetry s
  | .heldPacketRetry => Sys2Proof.Machine.execHeldPacketRetry s
  | .nopPacket => Sys2Proof.Machine.execNopPacket s
  | .launch => Sys2Proof.Machine.execLaunch s
  | .graph => Sys2Proof.Machine.execGraph s
  | .replayPacket => Sys2Proof.Machine.execReplayPacket s
  | .replayNodeEntry => Sys2Proof.Machine.execReplayNodeEntry s
  | .patch => Sys2Proof.Machine.execPatch s
  | .sigsem => Sys2Proof.Machine.execSigsem s
  | .waitsem => Sys2Proof.Machine.execWaitsem s
  | .waitsemPoll => Sys2Proof.Machine.execWaitsemPoll s
  | .copy => Sys2Proof.Machine.execCopy s
  | .fencePacket => Sys2Proof.Machine.execFencePacket s
  | .xlinvPacket => Sys2Proof.Machine.execXlinvPacket s
  | .packetCompletion => Sys2Proof.Machine.execPacketCompletion s
  | .placerPlacement => Sys2Proof.Machine.execPlacerPlacement s
  | .reservedWindowPlace => Sys2Proof.Machine.execReservedWindowPlace s
  | .drainDeadline => Sys2Proof.Machine.execDrainDeadline s
  | .checkpointDeadline => Sys2Proof.Machine.execCheckpointDeadline s
  | .relocationStart => Sys2Proof.Machine.execRelocationStart s
  | .relocationDrained => Sys2Proof.Machine.execRelocationDrained s
  | .checkpointDrained => Sys2Proof.Machine.execCheckpointDrained s
  | .standingCheckpoint => Sys2Proof.Machine.execStandingCheckpoint s
  | .relocationTimeout => Sys2Proof.Machine.execRelocationTimeout s
  | .batonForward => Sys2Proof.Machine.execBatonForward s
  | .taskCompletion => Sys2Proof.Machine.execTaskCompletion s
  | .lapBoundary => Sys2Proof.Machine.execLapBoundary s
  | .engineDispatch => Sys2Proof.Machine.execEngineDispatch s
  | .engineCompletion => Sys2Proof.Machine.execEngineCompletion s
  | .cbSlotLanded => Sys2Proof.Machine.execCbSlotLanded s
  | .handlerSelect => Sys2Proof.Machine.execHandlerSelect s
  | .handlerQuiescence => Sys2Proof.Machine.execHandlerQuiescence s
  | .eoiProcessing => Sys2Proof.Machine.execEoiProcessing s
  | .wsrewrite => Sys2Proof.Machine.execWsrewrite s
  | .gamma => Sys2Proof.Machine.execGamma s
  | .planeSwitch => Sys2Proof.Machine.execPlaneSwitch s
  | .systolicActivation => Sys2Proof.Machine.execSystolicActivation s
  | .systolicResult => Sys2Proof.Machine.execSystolicResult s
  | .patternIssue => Sys2Proof.Machine.execPatternIssue s
  | .loadReply => Sys2Proof.Machine.execLoadReply s
  | .writeAck => Sys2Proof.Machine.execWriteAck s
  | .portRefusal => Sys2Proof.Machine.execPortRefusal s
  | .sideLogReplay => Sys2Proof.Machine.execSideLogReplay s
  | .replayRelease => Sys2Proof.Machine.execReplayRelease s
  | .homeRequest => Sys2Proof.Machine.execHomeRequest s
  | .backInvalidationAck => Sys2Proof.Machine.execBackInvalidationAck s
  | .raceSaturationTimeout => Sys2Proof.Machine.execRaceSaturationTimeout s
  | .saturationWaitEnd => Sys2Proof.Machine.execSaturationWaitEnd s
  | .walk => Sys2Proof.Machine.execWalk s
  | .invalidationBatonAck => Sys2Proof.Machine.execInvalidationBatonAck s
  | .invalidationAck => Sys2Proof.Machine.execInvalidationAck s
  | .checkCounterHalving => Sys2Proof.Machine.execCheckCounterHalving s
  | .stallWatchdog => Sys2Proof.Machine.execStallWatchdog s
  | .trapAction => Sys2Proof.Machine.execTrapAction s
  | .containmentUnwind => Sys2Proof.Machine.execContainmentUnwind s
  | .regionCommit => Sys2Proof.Machine.execRegionCommit s
  | .seamReturnRunning => Sys2Proof.Machine.execSeamReturnRunning s
  | .spanReplayLimit => Sys2Proof.Machine.execSpanReplayLimit s
  | .spanLaneFailure => Sys2Proof.Machine.execSpanLaneFailure s
  | .spanTrainingFail => Sys2Proof.Machine.execSpanTrainingFail s
  | .syncUnitOp => Sys2Proof.Machine.execSyncUnitOp s
  | .holdupEnergyExhausted => Sys2Proof.Machine.execHoldupEnergyExhausted s
  | .spanPortTrained => Sys2Proof.Machine.execSpanPortTrained s
  | .engineIssue => Sys2Proof.Machine.execEngineIssue s
  | .creditReturn => Sys2Proof.Machine.execCreditReturn s
  | .retireMessage => Sys2Proof.Machine.execRetireMessage s
  | .cropenMessage => Sys2Proof.Machine.execCropenMessage s

end Sys2Proof.Machine
end

