-- ==== Sys2Proof/Machine/Outside.lean ====
section
/-! DEFINITION. What happens to the package for which the table has no row: domain set-up, HDM ranges, adapter retries, faults of a
switch, and traffic with other packages (R29, R44, R46, R49, R119, R160, R165, R176; assumption 63). -/

namespace Sys2Proof.Machine

open Sys2Proof

/-- Bilsis gives the package its number, which does not change in RUN: before a BOOT, which is one step here, stands for during it
(R46, assumption 63). -/
def State.setPackage (s : State) (n : Nat) : State := if s.power = .run || n ≥ 64 then s else { s with pkgNo := n }

/-- Bilsis sets the HDM ranges, at most four (R49). -/
def State.setHdm (s : State) (rs : List (Nat × Nat)) : State :=
  if s.power ≠ .run || rs.length > 4 then s else { s with hdm := rs }

/-- The switch of a site holds another firewall id in a plane (R119, R157). -/
def State.setFwid (s : State) (site : SiteRef) (plane : Nat) (fwid : BitVec 16) : State :=
  s.modPE site (fun p => p.modCfg plane (fun c => { c with fwid := fwid }))

/-- The causes with which a home refuses a request (R176). -/
def refusalCause (c : Nat) : Bool := homeCauses.contains c

/-- What a reply of another package leaves in the near cache of its port, as one of a home here would: a read allocates its line, whose
page is not checked there, and a write updates the copy of its own ASID and VA (R160, R171, R182, R185). A line of another package has
no number here: it goes under one above those of this package's lines, by its VA. -/
def State.fillAbroad (s : State) (p : Port) (r : Req) (data : Line) (err : Option Word) : State :=
  let num := 2 ^ 62 + lineOf r.va
  if r.op.writes then
    let s1 := s.freshen p num (s.ownCopy p r.va)
    match s.ownCopy p r.va with
    | some n => if r.barred (n.data, n.poison) then s1 else s1.nearPut p r.va (r.written (n.data, n.poison)).1 (r.written (n.data, n.poison)).2
    | none => s1
  else
    (s.freshen p num none).bringNear p r num data err.isSome

/-- Another package answers a request of a port: it is performed there, or refused (R44, R160, R176). -/
def State.foreignReply (s : State) (port req : Nat) (cause : Option Nat) (data : Line) (err : Option Word) : State :=
  match s.port? port with
  | none => s
  | some p =>
    match p.req? req with
    | none => s
    | some r =>
      if r.status ≠ .abroad then s
      else match cause with
        | none => (s.fillAbroad p r data err).setStatus p r (.done data err)
        | some c => if refusalCause c then s.refuse p r c else s

/-- What a request of another package comes to here: the line as it stood, with the ERR data of a poisoned one, or the cause that refuses
it. The context is the one of the same tenant id, the die is the one that DC names, and a checked page is refused (R160, R165, R175,
R225, R345). -/
def State.serveForeign (s : State) (tid : Nat) (r : Req) : Except Nat (Line × Option Word) × State :=
  let fault := r.op.faultCause
  match (s.ctx? tid).bind (fun c => (c.xlatDie r.va).map (fun d => (c, d))) with
  | none => (.error fault, s)
  | some (c, die) =>
    if die < 4 && !s.dieUp die then (.error cDieDown, s)
    else match s.translate c die r.va with
      | (.error e, s1) => (.error (walkCause e fault), s1)
      | (.ok l, s1) =>
        if !l.permits r.op then (.error cPerm, s1)
        else if l.chk then (.error cCheckedRemote, s1)
        else match s1.cdLocFor tid (lineOf r.va) r.op.writes true (fun l => l.permits r.op) with
          | (.error e, s2) => (.error (if e = cPageFaultLoad || e = cPageFaultStore then fault else e), s2)
          | (.ok loc, s2) =>
            let s3 := s2.settleCode loc 0
            let pre := s3.getLine loc
            let w := r.written pre
            (.ok (pre.1, if pre.2 && !r.op.logged then some (poisonErr pre.1) else none),
              if !r.op.writes || r.barred pre then s3
              else if r.op = .discard && loc.key.isUnb then
                { s3 with l2 := s3.l2.filter (fun x => !(x.die = loc.die && decide (x.key = loc.key))) }
              else if r.op = .discard then s3.cdPut loc 0
              else (s3.cdPut loc w.1).putLine loc w.1 w.2)

/-- A request of another package reaches this one, as its home: a repeated message tag is discarded (R44, R160). -/
def State.foreignRequest (s : State) (src tag tid : Nat) (r : Req) : State :=
  if s.power ≠ .run || s.uncoreStopped || vaPkg r.va ≠ s.pkgNo || s.foreign.any (fun x => x.src = src && x.tag = tag) then s
  else match s.serveForeign tid r with
    | (.ok v, s1) => { s1 with foreign := ⟨src, tag, none, v.1, v.2⟩ :: s1.foreign }
    | (.error e, s1) => { s1 with foreign := ⟨src, tag, some e, 0, none⟩ :: s1.foreign }

/-- The request that another package sends: its party and port are that package's. -/
def foreignReq (va : Nat) (op : ReqOp) (size : Nat) (ty : BitVec 5) (data : Line) (expected : Word) (poison : Option Word) : Req :=
  { id := 0, origin := 0, after := [], op := op, va := va, size := size, ty := ty, vec := size = 64, data := data
    expected := expected, poison := poison, party := 0, sfr := 0, inv := 0, scope := 0, acq := false, toScratch := none
    dest := .none, leaf := none, ownDie := false, ofPat := false, again := false, noFill := false, status := .sent }

/-- A span port that is UP puts its next pair of flits on the line (R41). -/
def State.spanTransmit (s : State) (n : Nat) : State :=
  if s.power ≠ .run || (s.span n).st ≠ .up then s else s.modSpan n (fun p => p.transmit s.pkgNo)

/-- What comes from outside the table (assumption 63). -/
def State.fromOutside (s : State) : Outside → State
  | .adapterRetry k => s.adapterRetry k
  | .packageNumber n => s.setPackage n
  | .hdmRanges rs => s.setHdm rs
  | .firewallFault site plane fwid => s.setFwid site plane fwid
  | .spanTransmit n => s.spanTransmit n
  | .foreignReply port req cause data err => s.foreignReply port req cause data err
  | .foreignRequest src tag tid va op size ty data expected poison =>
    s.foreignRequest src tag tid (foreignReq va op size ty data expected poison)

end Sys2Proof.Machine
end

