-- ==== Sys2Proof/Machine/Issue.lean ====
section
/-! DEFINITION. The issue of a PE's lowest-numbered slot that can fire, the entries of the agenda, and the placing of one
instruction as the next to issue (R126, assumption 1). -/

namespace Sys2Proof.Machine

open Sys2Proof

/-- The slots that a PE's running instance may still fire, in ascending number (R126). -/
def State.unfired (s : State) (site : SiteRef) : List Nat :=
  match s.lease? site.lease with
  | none => []
  | some L =>
    match L.pe? site.dx site.dy with
    | none => []
    | some pe =>
      match pe.inst with
      | none => []
      | some i => (hSlots (((pe.cfg L.plane).handlers[i.entry]?).getD 0)).filter (fun k => !i.fired.contains k)

/-- Whether a slot has fired: it is among the fired slots, or an unwind that it began has stopped the instance (R126,
R230). -/
def State.hasFired (s : State) (site : SiteRef) (slot : Nat) : Bool :=
  match s.pe? site with
  | none => true
  | some pe =>
    match pe.inst with
    | none => true
    | some i => i.fired.contains slot

/-- Issue the first of some slots that fires (R126); an empty slot never does. -/
def State.issueFrom (s : State) (site : SiteRef) : List Nat → Host.Outcome State Fault Refusal
  | [] => .next s
  | k :: ks =>
    match decodeWord (s.slotWord site k) with
    | .error _ => s.issueFrom site ks
    | .ok i =>
      match exec i { s with focus := Focus.slotAt site k } with
      | .next t => if t.hasFired site k then .next t else s.issueFrom site ks
      | .fault r => .fault r
      | .refused r => .refused r

/-- The issue of a site: its lowest-numbered ready slot fires (R126). -/
def State.issueSite (s : State) (site : SiteRef) : Host.Outcome State Fault Refusal := s.issueFrom site (s.unfired site)

/-- One entry of the agenda. An instruction of an image issues at its site only: an entry that names one as an event is
dropped (assumption 1). -/
def State.act (s : State) : Action → Host.Outcome State Fault Refusal
  | .issue site => s.issueSite site
  | .progress site n => .next (s.goOn site n)
  | .wait n => .next (s.pass n)
  | .event i f => if (encode i).isSome then .next s else exec i { s with focus := f }
  | .outside e => .next (s.fromOutside e)

/-! ### Placing one instruction as the next to issue (assumption 1) -/

/-- The relative site, of a 2 by 2 lease at the origin, of a PE that may hold a word. -/
def placeFor (w : IWord) : Nat × Nat :=
  match decodeWord w with
  | .ok i => if i.units.allows true false false then (0, 0) else if i.units.allows false true false then (0, 1) else (1, 1)
  | .error _ => (0, 0)

/-- The operands that a word uses, in slot 0: zeros of its TYPE, and a predicate that does not squash it. -/
def operandsFor (w : IWord) : List (Nat × Token) :=
  match decodeWord w with
  | .error _ => []
  | .ok i =>
    let op := (w.extractLsb' 48 8).toNat
    let t : Token := ⟨.data, decide (0x60 ≤ op ∧ op < 0xA0), w.extractLsb' 23 5, 0, 0⟩
    let p : Token := Token.scalar Ty.n8.tag (if i.head.pred = 2 then 0 else 1)
    (if i.uses.l then [(0, t)] else []) ++ (if i.uses.r then [(128, t)] else []) ++ (if i.uses.p then [(256, p)] else [])

/-- A PE that runs a handler of one slot, whose word and operands are given, with every channel connected and a token at
each input. -/
def PE.running (pe : PE) (w : IWord) : PE :=
  { pe.modCfg 0 (fun c => { c with
      store := c.store.setIfInBounds 0 w
      handlers := c.handlers.setIfInBounds 0 0x80040000#32
      chcfg := 0xFF00FF00#64 }) with
    ins := Vector.replicate 8 ⟨[Token.scalar Ty.n64.tag 0], 0⟩
    inst := some { Instance.start 0 false with ops := operandsFor w } }

/-- The package with power, one context and one lease of 2 by 2 sites whose port is bound, about to issue a word. -/
def State.placeWord (s : State) (w : IWord) : State :=
  let p := placeFor w
  let L := Lease.grant 1 1 0 0 0 0 2 2 false [] []
  { s with
    power := .run
    supply := true
    fabricStopped := false
    uncoreStopped := false
    ctxs := [⟨1, 1, 1, [0, 7, 7, 7], 1, 0, 0, 0, 0, 0, 0, 0, none, [], true, false⟩]
    leases := [L.modPE p.1 p.2 (fun pe => pe.running w)]
    ports := [{ Port.fresh 1 (.mu ⟨1, 0, 1⟩) 0 1 1 1 0 0 false with bucket := 256 }]
    parties := [⟨1, 0, 0, true, false⟩]
    nextId := 2
    agenda := [.issue ⟨1, p.1, p.2⟩] }

end Sys2Proof.Machine
end

