-- ==== Sys2Proof/Machine/Step.lean ====
section
/-! DEFINITION. One step of the package: the next entry of its agenda; with none, a fabric cycle passes (assumption 1). -/

namespace Sys2Proof.Machine

open Sys2Proof

/-- One step. -/
def step (s : State) : Host.Outcome State Fault Refusal :=
  match s.agenda with
  | [] => .next (s.pass 1)
  | a :: rest => State.act { s with agenda := rest } a

/-- The state with an instruction word placed where the next step issues: slot 0 of the only lease's running handler
(assumption 1). A word longer than 56 bits is none. -/
def State.withFetchWord (s : State) (_nbits w : Nat) : State := s.placeWord (BitVec.ofNat 56 w)

end Sys2Proof.Machine
end

