-- ==== Sys2Proof/WellFormed.lean ====
section
/-! DEFINITION. When an instruction is well formed: an instruction of an image passes the checks of R259 on its own
fields; an operation or event names nothing that the fields of its command or registers cannot express. -/

namespace Sys2Proof

/-- Whether an operation or event names a number that its command or register can carry: a slot of 8,192 (R52), a span port
of 16 and at most one flit pair (R42, R45), a route table row of 64 (R44), a die link of 8 and a seam of 4 with modules of
16 (R34, R38), a function of 128 and an aligned register (R49, R51), a check threshold that is a byte (R223), and a rate of
three (R45). -/
def Instr.eventOk (i : Instr) : Bool :=
  match i with
  | .doorbell slot _ => slot < 8192
  | .slchead slot _ => slot < 8192
  | .stop slot => slot < 8192
  | .start slot => slot < 8192
  | .destroy slot => slot < 8192
  | .destroyForce slot => slot < 8192
  | .spanFlitReceive port flits _ => port < 16 && flits.length ≤ 2
  | .spanNak port _ => port < 16
  | .spanPortRetrain port rate _ => port < 16 && rate < 3
  | .routeTableWrite dst _ => dst < 64
  | .linkFailure link _ => link < 8
  | .linkTrainingResult link _ => link < 8
  | .seamModuleLoss link lost => link < 8 && lost ≤ 16
  | .seamRetrain seam _ => seam < 4
  | .registerWrite fn _ off _ => fn < 128 && off % 8 = 0
  | .siteThresh v => v < 256
  | _ => true

/-- Whether an instruction is well formed. -/
def Instr.wf (i : Instr) : Bool := i.faults.isEmpty && i.eventOk

end Sys2Proof
end

