-- ==== Sys2Proof/Safety.lean ====
section
/-! DEFINITION. What counts as a safe run, and the words in which the statements speak of a step: when a slot fires, and what
the package holds once it has fired. -/

namespace Sys2Proof.Safety

open Sys2Proof Sys2Proof.Machine

/-- The invariant of a safe run: memory keeps its canonical form. -/
def Inv (s : State) : Prop := Memory.wf s.mem = true

/-- The slot in focus fires and acts (R126, R272): the site runs an instance that may fire it, every position taken holds
an operand, the targets' outputs have slots, no operand whose ERR would stop it is an ERR, and its predicate lets it act.
`u` gives the positions taken and `checked` those whose ERR stops the instruction. -/
structure FiresUsing (i : Instr) (u checked : Uses) (s : State) (c : Site) : Prop where
  site : s.site? = some c
  present : c.present u = true
  room : c.pe.targetsFree c.lease.plane i.head.t0 i.head.t1 = true
  clean : c.firstErr checked = none
  acts : c.squashed i.head = false

/-- `FiresUsing` with the positions that the instruction's word takes (R271). -/
abbrev Fires (i : Instr) (s : State) (c : Site) : Prop := FiresUsing i (c.taken i.uses) (c.taken i.uses) s c

/-- What a firing does: the positions it takes, the tokens it sends, in order, to targets, what it does to its own PE's
registers and to its lease, what it leaves in flight, and the package with every change that is not of its lease. -/
structure Deed where
  uses : Uses
  sends : List (BitVec 9 × Token)
  pe : PE → PE
  lease : Lease → Lease
  flies : List Flight
  base : State

/-- A firing that only sends. -/
def Deed.sending (s : State) (c : Site) (i : Instr) (l : List (BitVec 9 × Token)) : Deed :=
  ⟨c.taken i.uses, l, fun pe => pe, fun L => L, [], s⟩

/-- The same token to both targets (R272). -/
def both (h : Head) (t : Token) : List (BitVec 9 × Token) := [(h.t0, t), (h.t1, t)]

/-- What an effect does to the registers of its own PE. -/
def effectRegs (plane : Nat) (e : Effect) (pe : PE) : PE :=
  let p1 := match e.keep with
    | some (k, v) => pe.setKeep plane k v
    | none => pe
  let p2 := match e.vreg with
    | some (k, v) => p1.setVReg plane k v
    | none => p1
  p2.raiseFlags e.flags

/-- The tokens that an effect sends. -/
def effectSends (h : Head) (e : Effect) : List (BitVec 9 × Token) :=
  (e.out0.map (fun t => (h.t0, t))).toList ++ (e.out1.map (fun t => (h.t1, t))).toList

/-- A firing that does what an effect says. -/
def Deed.effect (s : State) (c : Site) (i : Instr) (e : Effect) : Deed :=
  ⟨c.taken i.uses, effectSends i.head e, effectRegs c.lease.plane e, fun L => L, [], s⟩

/-- The tokens among those sent that an output takes, in its class (R129). -/
def sentTo (vec : Bool) (o : Nat) (l : List (BitVec 9 × Token)) : List Token :=
  (l.filter (fun p => targetOut p.1 = some o)).map (fun p => p.2.inClass vec)

/-- How many tokens among those sent enter a loop (R128). -/
def loopSends (cfg : PlaneCfg) (l : List (BitVec 9 × Token)) : Nat :=
  (l.filter (fun p => match targetOut p.1 with
    | some o => cfg.outLE o
    | none => false)).length

/-- The token among those sent that a position of the handler holds in the end. -/
def heldAt (k : Nat) (l : List (BitVec 9 × Token)) : Option Token :=
  ((l.filter (fun p => p.1.toNat = k)).getLast?).map Prod.snd

/-- The operand that an instance holds in a position of its slots, by the code of the target that names it (R253). -/
def operandAt (i : Instance) (k : Nat) : Option Token := (i.ops.find? (fun o => o.1 = k)).map Prod.snd

/-- Whether a position is one that a firing of a slot takes. -/
def takes (u : Uses) (slot k : Nat) : Bool :=
  (u.l && k = slot) || (u.r && k = 128 + slot) || (u.p && k = 256 + slot)

/-- The PE after a firing: its registers as the deed says; the slot fired, and in flight what the deed leaves there; every
position holds what was sent to it, else nothing if it was taken, else what it held; each output's queue is longer by what
was sent to it and the loop occupancy by what entered a loop; all else as it was (R126, R128, R129). -/
def PEAfter (d : Deed) (c : Site) (p : PE) : Prop :=
  ∃ i : Instance,
    p = { d.pe c.pe with outs := p.outs, loopOcc := p.loopOcc, inst := some i } ∧
    i = { ((d.pe c.pe).inst.getD c.inst) with
          fired := c.slot :: c.inst.fired, ops := i.ops, flight := d.flies ++ c.inst.flight } ∧
    (∀ k, k < 384 → operandAt i k =
      (heldAt k d.sends).or (if takes d.uses c.slot k then none else operandAt c.inst k)) ∧
    (∀ o, o < 8 → p.outEnd o = { c.pe.outEnd o with q := (c.pe.outEnd o).q ++ sentTo (c.cfg.outVec o) o d.sends }) ∧
    p.loopOcc = (satInc 65535)^[loopSends c.cfg d.sends] (d.pe c.pe).loopOcc

/-- The package after a firing: nothing but the deed's changes, its lease, and of the lease nothing but the deed's changes,
the PE, and a stall count that begins anew (R140). -/
def Ran (d : Deed) (s : State) (c : Site) (t : State) : Prop :=
  t = { d.base with leases := t.leases } ∧
  (∀ id, id ≠ c.site.lease → t.lease? id = s.lease? id) ∧
  ∃ L, t.lease? c.site.lease = some L ∧
    L = { d.lease c.lease with stall := 0, stalled := false, pes := L.pes } ∧
    (∀ x y, ¬(x = c.site.dx ∧ y = c.site.dy) → L.pe? x y = c.lease.pe? x y) ∧
    ∃ p, L.pe? c.site.dx c.site.dy = some p ∧ PEAfter d c p

/-- The instruction completes: it answers a next state, in which the deed is done. -/
def Completes (i : Instr) (s : State) (c : Site) (d : Deed) : Prop := ∃ t, exec i s = .next t ∧ Ran d s c t

/-- Nothing but leases, ports and traps on their way differs: what a firing that sends, or raises a trap, may touch. -/
def FabricOnly (s t : State) : Prop := t = { s with leases := t.leases, ports := t.ports, traps := t.traps }

/-- The registers of a PE: its configuration planes with their keep registers, its unit state and its invocation number. -/
def PE.regs (p : PE) : Vector PlaneCfg 4 × Cu × Mu × Nat := (p.planes, p.cu, p.mu, p.inv)

/-- The same registers at every site but one. -/
def SameRegsBut (site : SiteRef) (s t : State) : Prop :=
  ∀ x : SiteRef, x ≠ site → (t.pe? x).map PE.regs = (s.pe? x).map PE.regs

end Sys2Proof.Safety
end

