-- ==== Sys2Proof/Certificates/Slice0/Obligations.lean ====
section
/-! DEFINITION. The statements for the provers. -/

open Sys2Proof Sys2Proof.Machine Sys2Proof.Safety

namespace Sys2Proof.Claims

/-! ### Shorthands of the statements -/

/-- The instruction completes and sends some tokens, and does nothing else. -/
abbrev Sends (i : Instr) (s : State) (c : Site) (l : List (BitVec 9 × Token)) : Prop :=
  Completes i s c (Deed.sending s c i l)

/-- The instruction completes and sends one token to both targets, and does nothing else. -/
abbrev Gives (i : Instr) (s : State) (c : Site) (t : Token) : Prop := Sends i s c (both i.head t)

/-- The instruction completes, sends one token to both targets, and does something to the registers of its PE. -/
abbrev GivesAnd (i : Instr) (s : State) (c : Site) (t : Token) (g : PE → PE) : Prop :=
  Completes i s c { Deed.sending s c i (both i.head t) with pe := g }

/-- The instruction completes as an effect on its own PE. -/
abbrev Acts (i : Instr) (s : State) (c : Site) (e : Effect) : Prop := Completes i s c (Deed.effect s c i e)

/-- An ERR may be sent to the targets without being dropped there: neither is the target drop, and not both are none
(R131, R273). -/
def Lands (h : Head) : Prop := h.t0 ≠ tDrop ∧ h.t1 ≠ tDrop ∧ (h.t0 ≠ tNone ∨ h.t1 ≠ tNone)

/-- An ERR among the operands taken, the first in the order L, R, P, goes to both targets, and nothing else happens. -/
abbrev ErrsThrough (i : Instr) : Prop :=
  ∀ s c e, s.site? = some c → c.present (c.taken i.uses) = true →
    c.pe.targetsFree c.lease.plane i.head.t0 i.head.t1 = true → c.firstErr (c.taken i.uses) = some e → Lands i.head →
    Gives i s c e

/-- The slot in flight with an operation. -/
def flight (c : Site) (op : FlightOp) : Flight := ⟨c.slot, (c.cfg.store[c.slot]?).getD 0, op⟩

/-- The instruction stays in flight with an operation, sending nothing yet, over a package changed as given. -/
abbrev Flies (i : Instr) (s : State) (c : Site) (op : FlightOp) (base : State) : Prop :=
  Completes i s c { Deed.sending base c i [] with flies := [flight c op] }

end Sys2Proof.Claims

open Sys2Proof.Claims

/-! ### Encoding -/

/-- R252, R254, R257: every well-formed instruction of an image has a word, and the word decodes to it, with every operand at
every value. -/
def Obligations.ImageWordsRoundTrip : Prop :=
  ∀ i : Instr, i.wf = true → i.row ≠ .event → ∃ w, encode i = some w ∧ decodeWord w = .ok i

/-- R252, R254, R257: no bit of a word is dropped: a word that decodes is the word of the instruction it decodes to; a word of zeros is an
empty slot, and an opcode that no table assigns is no instruction. -/
def Obligations.DecodedWordsEncodeBack : Prop :=
  (∀ (w : IWord) (i : Instr), decodeWord w = .ok i → encode i = some w) ∧
  decodeWord 0 = .error .emptySlot ∧
  ∀ w : IWord, w ≠ 0 →
    (let op := (w.extractLsb' 48 8).toNat
     (0x17 ≤ op ∧ op ≤ 0x1F) ∨ op = 0x3F ∨ (0x56 ≤ op ∧ op ≤ 0x5F) ∨ (0x7C ≤ op ∧ op ≤ 0x7F)
      ∨ (0x94 ≤ op ∧ op ≤ 0x9F) ∨ (0xB0 ≤ op ∧ op ≤ 0xBF) ∨ op = 0xDF ∨ 0xF8 ≤ op) → decodeWord w = .error .unassigned

/-- Words written out bit by bit from the layouts of R252 and R254 decode to the instructions they stand for: RECV of channel 3 to slot 0's L,
ADD of n32 with the immediate 7, MUL of n64, KREAD of k2, LD with OFF14 8, MACC of tile 1. -/
def Obligations.WrittenWordsDecode : Prop :=
  decodeWord 0x01_003F_F000_0000#56 = .ok (.recv ⟨⟨0, 1, 511⟩, 0, .regs 0 0 0⟩) ∧
  decodeWord 0x20_301F_F340_0007#56 = .ok (.add ⟨⟨0, 384, 511⟩, 6, .imm 7⟩) ∧
  decodeWord 0x24_007F_F300_0000#56 = .ok (.mul ⟨⟨0, 3, 511⟩, 6, .regs 0 0 0 0 0 0⟩) ∧
  decodeWord 0x0C_107F_F300_0000#56 = .ok (.kread ⟨⟨0, 131, 511⟩, 6, .regs 0 0 0⟩) ∧
  decodeWord 0xC0_003F_F300_0008#56 = .ok (.ld ⟨⟨0, 1, 511⟩, 6, 0, 0, 0, 8⟩) ∧
  decodeWord 0xA5_3FFF_F010_4003#56 = .ok (.macc ⟨⟨0, 511, 511⟩, 0, 1, 0, 2, 3⟩)

/-! ### Dataflow instructions (R276 to R285) -/

/-- R279: NOP and DROP take their operands and send nothing; MOV sends L unchanged; CONST sends its immediate under TYPE. -/
def Obligations.SimpleTokensMove : Prop :=
  (∀ f s c, Fires (.nop f) s c → Sends (.nop f) s c []) ∧
  (∀ f s c, Fires (.drop f) s c → Sends (.drop f) s c []) ∧
  (∀ f s c t, Fires (.mov f) s c → c.l = some t → Gives (.mov f) s c t) ∧
  (∀ f s c v, Fires (.const f) s c → f.body = .imm v → Gives (.const f) s c (immToken f.ty v))

/-- R277, R323: RECV sends the DATA or ERR token at the head of its channel and pops it, when lower slots' RECVs of the channel have had their turn, and
leaves a feed's token to the systolic hardware; PEEK sends it and leaves it; inside the EOI handler both send the marker's number and pop nothing. -/
def Obligations.RecvTakesTheHeadAndPeekLeavesIt : Prop :=
  (∀ f s c t, Fires (.recv f) s c → c.eoiInput (FmtD.ch f) = false → c.feed (FmtD.ch f) = false →
    c.recvTurn (FmtD.ch f) = true → c.pe.head (FmtD.ch f) = some t → (t.kind = .data ∨ (t.kind = .err ∧ Lands f.h)) →
    GivesAnd (.recv f) s c t (fun p => p.takeIn c.lease.plane (FmtD.ch f))) ∧
  (∀ f s c t, Fires (.peek f) s c → c.eoiInput (FmtD.ch f) = false →
    c.pe.head (FmtD.ch f) = some t → (t.kind = .data ∨ (t.kind = .err ∧ Lands f.h)) → Gives (.peek f) s c t) ∧
  (∀ f s c, s.site? = some c → c.eoiInput (FmtD.ch f) = false → c.feed (FmtD.ch f) = true → exec (.recv f) s = .next s) ∧
  (∀ f s c, Fires (.recv f) s c → c.eoiInput (FmtD.ch f) = true → Gives (.recv f) s c (c.markerTok (FmtD.ch f))) ∧
  (∀ f s c, Fires (.peek f) s c → c.eoiInput (FmtD.ch f) = true → Gives (.peek f) s c (c.markerTok (FmtD.ch f)))

/-- R280: STEER sends L to target0 when bit 0 of P is 1, else to target1, an ERR in L to the chosen side only, and an ERR in P to both; MERGE sends L if it is
there, else R, ERR or not; SEL sends L or R to both targets, and the first ERR among its operands in their place. -/
def Obligations.SteeringChoosesByThePredicate : Prop :=
  (∀ f s c t p, FiresUsing (.steer f) (c.taken (Instr.steer f).uses) (onlyP (c.taken (Instr.steer f).uses)) s c →
    c.l = some t → c.p = some p →
    (let side := if p.data.toNat.testBit 0 then f.h.t0 else f.h.t1
     (t.kind = .err → side ≠ tDrop ∧ side ≠ tNone) → Sends (.steer f) s c [(side, t)])) ∧
  (∀ f s c e, s.site? = some c → c.present (c.taken (Instr.steer f).uses) = true →
    c.pe.targetsFree c.lease.plane f.h.t0 f.h.t1 = true → c.p = some e → e.kind = .err → Lands f.h →
    Gives (.steer f) s c e) ∧
  (∀ f s c t, FiresUsing (.merge f) ⟨true, false, (Instr.merge f).uses.p⟩ ⟨false, false, (Instr.merge f).uses.p⟩ s c →
    c.l = some t → (t.kind = .err → Lands f.h) →
    Completes (.merge f) s c { Deed.sending s c (.merge f) (both f.h t) with
      uses := ⟨true, false, (Instr.merge f).uses.p⟩ }) ∧
  (∀ f s c t, FiresUsing (.merge f) ⟨false, true, (Instr.merge f).uses.p⟩ ⟨false, false, (Instr.merge f).uses.p⟩ s c →
    c.l = none → c.r = some t → (t.kind = .err → Lands f.h) →
    Completes (.merge f) s c { Deed.sending s c (.merge f) (both f.h t) with
      uses := ⟨false, true, (Instr.merge f).uses.p⟩ }) ∧
  (∀ f s c a b p, Fires (.sel f) s c → c.l = some a → c.r = some b → c.p = some p →
    Gives (.sel f) s c (if p.data.toNat.testBit 0 then a else b)) ∧
  (∀ f, ErrsThrough (.sel f))

/-- R281: GATE counts k[IDX] down and sends L to target0, or, at 0, rearms it with N15 and sends L to target1, an ERR in L like any other; ITER sends
k[IDX] taken to TYPE and adds N15 to it. -/
def Obligations.GatesAndIndicesCount : Prop :=
  (∀ f s c t, FiresUsing (.gate f) (c.taken (Instr.gate f).uses) (onlyP (c.taken (Instr.gate f).uses)) s c →
    c.l = some t →
    (let k := c.cfg.k (FmtD.idx f)
     let side := if k ≠ 0 then f.h.t0 else f.h.t1
     (t.kind = .err → side ≠ tDrop ∧ side ≠ tNone) →
     Completes (.gate f) s c { Deed.sending s c (.gate f) [(side, t)] with
       pe := fun p => p.setKeep c.lease.plane (FmtD.idx f) (if k ≠ 0 then k - 1 else BitVec.ofNat 64 (FmtD.n15 f)) })) ∧
  (∀ f s c, Fires (.iter f) s c →
    GivesAnd (.iter f) s c (patTok (tyOf f.ty) (c.cfg.k (FmtD.idx f)).toNat)
      (fun p => p.setKeep c.lease.plane (FmtD.idx f) (c.cfg.k (FmtD.idx f) + BitVec.ofNat 64 (FmtD.n15 f))))

/-- R282: KREAD sends k[IDX] as a token of TYPE, for every TYPE; KWRITE sets k[IDX] to the low 64 bits of L and sends L unchanged. -/
def Obligations.KeepRegistersAreReadAndWritten : Prop :=
  (∀ f s c, Fires (.kread f) s c → Gives (.kread f) s c (patTok (tyOf f.ty) (c.cfg.k (FmtD.idx f)).toNat)) ∧
  (∀ f s c t, Fires (.kwrite f) s c → c.l = some t →
    GivesAnd (.kwrite f) s c t (fun p => p.setKeep c.lease.plane (FmtD.idx f) t.low))

/-- R278, R284, R285: EOIQ, CHSTAT and WAITC report what stands in a channel, WAITC once enough does; INVNUM sends the invocation
number and SITEID the relative position, plane and kind; HMASK sets and HUNMASK clears the MASK bit of h[IDX], and each sends its
previous value. -/
def Obligations.QueriesReportAndMasksAreSet : Prop :=
  (∀ f s c, Fires (.eoiq f) s c → c.cfg.inLC (FmtD.ch f) = false →
    Gives (.eoiq f) s c (n8Tok (match c.pe.head (FmtD.ch f) with
      | some t => if t.kind = .eoi then 1 else 0
      | none => 0))) ∧
  (∀ f s c, Fires (.eoiq f) s c → c.cfg.inLC (FmtD.ch f) = true → Gives (.eoiq f) s c (n8Tok 0)) ∧
  (∀ f s c, Fires (.chstat f) s c → (FmtD.n15 f).testBit 14 = true →
    Gives (.chstat f) s c (n64Tok (c.pe.outFree c.lease.plane (FmtD.ch f) % 8))) ∧
  (∀ f s c, Fires (.chstat f) s c → (FmtD.n15 f).testBit 14 = false →
    (c.pe.inEnd (FmtD.ch f)).q = [] → Gives (.chstat f) s c (n64Tok 0)) ∧
  (∀ f s c t q, Fires (.chstat f) s c → (FmtD.n15 f).testBit 14 = false →
    (c.pe.inEnd (FmtD.ch f)).q = t :: q →
    Gives (.chstat f) s c (n64Tok ((q.length + 1) % 8 + 16 * t.kind.code + 64))) ∧
  (∀ f s c, Fires (.waitc f) s c → c.waitWant f ≤ c.waitCount f → Gives (.waitc f) s c (n64Tok (c.waitCount f))) ∧
  (∀ f s c, Fires (.invnum f) s c → Gives (.invnum f) s c (n64Tok c.pe.inv)) ∧
  (∀ f s c, Fires (.siteid f) s c → Gives (.siteid f) s c (n64Tok (c.pe.dx % 128 + c.pe.dy % 64 * 2 ^ 8
    + c.lease.plane % 4 * 2 ^ 16 + (match c.pe.kind with
      | .cu => 0
      | .mu => 1
      | .ag => 3) * 2 ^ 18))) ∧
  (∀ f s c, Fires (.hmask f) s c →
    GivesAnd (.hmask f) s c (n8Tok (b2n (((c.cfg.handlers[FmtD.idx f]?).getD 0).toNat.testBit 30)))
      (fun p => p.setMask c.lease.plane (FmtD.idx f) true)) ∧
  (∀ f s c, Fires (.hunmask f) s c →
    GivesAnd (.hunmask f) s c (n8Tok (b2n (((c.cfg.handlers[FmtD.idx f]?).getD 0).toNat.testBit 30)))
      (fun p => p.setMask c.lease.plane (FmtD.idx f) false))

/-- R279, R283, R358: EMIT puts a CFG token that holds a unit operation on its output channel; DECIDE, RETIRE and CROPEN put
their message behind the others that their lease has sent to the placer, and stay in flight for its reply. -/
def Obligations.ControlMessagesAreSent : Prop :=
  (∀ f s c t, Fires (.emit f) s c → 1 ≤ c.pe.outFree c.lease.plane (FmtD.ch f) → c.l = some t →
    t.isScalar .n64 = true → 2 ≤ bitsOf t.data.toNat 56 8 → bitsOf t.data.toNat 56 8 ≤ 0x7F →
    Sends (.emit f) s c [(BitVec.ofNat 9 (384 + FmtD.ch f),
      ⟨.cfg, c.cfg.outVec (FmtD.ch f), Ty.n64.tag, 0, t.low.setWidth 512⟩)]) ∧
  (∀ f s c, Fires (.decide f) s c →
    Completes (.decide f) s c { Deed.sending s c (.decide f) [] with
      flies := [flight c .reply]
      lease := fun L => { L with
        ctrl := L.ctrl ++ [.decide c.site.dx c.site.dy c.slot (FmtD.idx f % 4)] } }) ∧
  (∀ f s c, Fires (.retire f) s c →
    Completes (.retire f) s c { Deed.sending s c (.retire f) [] with
      flies := [flight c .reply]
      lease := fun L => { L with ctrl := L.ctrl ++ [.retire c.site.dx c.site.dy c.slot] } }) ∧
  (∀ f s c v, Fires (.cropen f) s c → scalarArg c.l .n64 = some v →
    Completes (.cropen f) s c { Deed.sending s c (.cropen f) [] with
      flies := [flight c .reply]
      lease := fun L => { L with
        ctrl := L.ctrl ++ [.cropen c.site.dx c.site.dy c.slot (f.idx.toNat.testBit 0) (f.off.toNat % 256)
          (BitVec.ofNat 64 v)] } })

/-! ### Integer and address instructions (R286 to R292) -/

namespace Sys2Proof.Claims

/-- L holds a scalar of TYPE with a bit pattern (R287). -/
abbrev PatL (c : Site) (f : FmtA) (a : Nat) : Prop := scalarArg c.l (tyOf f.ty) = some a

/-- L holds a scalar of TYPE, and so does R or the immediate, with these bit patterns (R255, R287). -/
abbrev PatLR (c : Site) (f : FmtA) (a b : Nat) : Prop := PatL c f a ∧ scalarArg (c.rOrImm f) (tyOf f.ty) = some b

/-- The instruction, given two patterns of TYPE and their values, sends a number taken to TYPE to both targets. -/
abbrev IntResult (mk : FmtA → Instr) (g : Ty → Nat → Nat → Int → Int → Int) : Prop :=
  ∀ f s c a b, Fires (mk f) s c → PatLR c f a b →
    (let ty := tyOf f.ty
     Completes (mk f) s c (Deed.sending s c (mk f) (both f.h (intTok ty (g ty a b (ty.readInt a) (ty.readInt b))))))

end Sys2Proof.Claims

/-- R216, R288: the sums, products, quotients, bounds and clamped sums of two integers of TYPE, wrapped to TYPE. -/
def Obligations.IntegerArithmeticOfTwoOperands : Prop :=
  IntResult .add (fun _ _ _ x y => x + y) ∧
  IntResult .sub (fun _ _ _ x y => x - y) ∧
  IntResult .mul (fun _ _ _ x y => x * y) ∧
  IntResult .mulh (fun t _ _ x y => x * y / ((2 ^ t.width : Nat) : Int)) ∧
  IntResult .div (fun t _ _ x y =>
    if y = 0 then -1 else if x = t.minInt ∧ y = -1 then t.minInt else Int.tdiv x y) ∧
  IntResult .rem (fun t _ _ x y => if y = 0 then x else if x = t.minInt ∧ y = -1 then 0 else Int.tmod x y) ∧
  IntResult .min (fun _ _ _ x y => if x ≤ y then x else y) ∧
  IntResult .max (fun _ _ _ x y => if x ≤ y then y else x) ∧
  IntResult .satadd (fun t _ _ x y =>
    if x + y < t.minInt then t.minInt else if t.maxInt < x + y then t.maxInt else x + y) ∧
  IntResult .satsub (fun t _ _ x y =>
    if x - y < t.minInt then t.minInt else if t.maxInt < x - y then t.maxInt else x - y)

/-- R216, R288: the pattern operations, shifts and rotates of two patterns of TYPE, counts taken modulo w, and NEG, ABS, CLZ and
POPC of one. -/
def Obligations.PatternAndUnaryIntegerOperations : Prop :=
  IntResult .and (fun _ a b _ _ => (a &&& b : Nat)) ∧
  IntResult .or (fun _ a b _ _ => (a ||| b : Nat)) ∧
  IntResult .xor (fun _ a b _ _ => (a ^^^ b : Nat)) ∧
  IntResult .andn (fun t a b _ _ => (a &&& (2 ^ t.width - 1 - b) : Nat)) ∧
  IntResult .shl (fun t a b _ _ => (a * 2 ^ (b % t.width) : Nat)) ∧
  IntResult .shr (fun t a b _ _ => (a / 2 ^ (b % t.width) : Nat)) ∧
  IntResult .sar (fun t a b _ _ => signedOf t.width a / ((2 ^ (b % t.width) : Nat) : Int)) ∧
  IntResult .rot (fun t a b _ _ => (a * 2 ^ (b % t.width) + a / 2 ^ (t.width - b % t.width) : Nat)) ∧
  (∀ f s c a, Fires (.neg f) s c → PatL c f a → Gives (.neg f) s c (intTok (tyOf f.ty) (-(tyOf f.ty).readInt a))) ∧
  (∀ f s c a, Fires (.abs f) s c → PatL c f a →
    Gives (.abs f) s c (intTok (tyOf f.ty)
      (if (tyOf f.ty).readInt a < 0 then -(tyOf f.ty).readInt a else (tyOf f.ty).readInt a))) ∧
  (∀ f s c a, Fires (.clz f) s c → PatL c f a →
    Gives (.clz f) s c (intTok (tyOf f.ty) (if a = 0 then (tyOf f.ty).width else (tyOf f.ty).width - 1 - Nat.log2 a : Nat))) ∧
  (∀ f s c a, Fires (.popc f) s c → PatL c f a →
    Gives (.popc f) s c (intTok (tyOf f.ty) (((List.range (tyOf f.ty).width).filter (fun q => a.testBit q)).length : Nat)))

/-- R289: ADDC and SUBB send the sum or difference with the carry or borrow of P, whatever P's tag, to target0, and the carry or
borrow out, computed on the unsigned patterns, to target1, so that the two together hold the exact sum; an ERR goes to both. -/
def Obligations.CarriesAndBorrowsChain : Prop :=
  (∀ f s c a b p, Fires (.addc f) s c → PatLR c f a b → c.p = some p →
    (let t := a + b + (if p.data.toNat.testBit 0 then 1 else 0)
     Sends (.addc f) s c [(f.h.t0, intTok (tyOf f.ty) t),
       (f.h.t1, intTok .n8 (if 2 ^ (tyOf f.ty).width ≤ t then 1 else 0))] ∧
     t = t % 2 ^ (tyOf f.ty).width + 2 ^ (tyOf f.ty).width * (if 2 ^ (tyOf f.ty).width ≤ t then 1 else 0))) ∧
  (∀ f s c a b p, Fires (.subb f) s c → PatLR c f a b → c.p = some p →
    (let t : Int := (a : Int) - b - (if p.data.toNat.testBit 0 then 1 else 0)
     Sends (.subb f) s c [(f.h.t0, intTok (tyOf f.ty) t), (f.h.t1, intTok .n8 (if t < 0 then 1 else 0))])) ∧
  (∀ f, ErrsThrough (.addc f)) ∧ (∀ f, ErrsThrough (.subb f))

/-- R291: CMP sends n8 1 when the condition that FN names holds of the two values of TYPE, a57 unsigned, else 0; FN 6 to 63 is RESERVED;
an immediate form has FN 0. -/
def Obligations.CompareSendsItsCondition : Prop :=
  (∀ f s c a b, Fires (.cmp f) s c → PatLR c f a b →
    (let x := (tyOf f.ty).readInt a
     let y := (tyOf f.ty).readInt b
     let sends := fun p : Bool => Gives (.cmp f) s c (intTok .n8 (if p then 1 else 0))
     (f.body.fn = 0 → sends (decide (x = y))) ∧ (f.body.fn = 1 → sends (decide (x ≠ y))) ∧
     (f.body.fn = 2 → sends (decide (x < y))) ∧ (f.body.fn = 3 → sends (decide (x ≤ y))) ∧
     (f.body.fn = 4 → sends (decide (x > y))) ∧ (f.body.fn = 5 → sends (decide (x ≥ y))))) ∧
  (∀ a : Nat, Ty.a57.readInt a = (a % 2 ^ 57 : Nat)) ∧
  (∀ f : FmtA, 6 ≤ f.body.fn → 6 ∈ (Instr.cmp f).faults) ∧
  (∀ (f : FmtA) v, f.body = .imm v → f.body.fn = 0)

/-- R290, R292: BFX, BFI and EXT extract, insert and convert; ADDA adds modulo 2^57; MKADDR puts a VA together; DIEOF says where one
points. -/
def Obligations.FieldsAndAddresses : Prop :=
  (∀ f s c a k, Fires (.bfx f) s c → PatL c f a → scalarArg c.r .n16 = some k →
    (let ty := tyOf f.ty
     let len := min 64 (k / 64 % 128)
     let fd := (ty.fill a).toNat / 2 ^ (k % 64) % 2 ^ len
     Gives (.bfx f) s c (intTok ty (if len = 0 then 0
       else if ty.isSigned = true ∧ 2 ^ (len - 1) ≤ fd then (fd : Int) - (2 ^ len : Nat) else fd)))) ∧
  (∀ f s c a b k, Fires (.bfi f) s c → PatL c f a → scalarArg c.r (tyOf f.ty) = some b →
    scalarArg c.p .n16 = some k →
    (let w := (tyOf f.ty).width
     let pos := k % 64
     let len := min 64 (k / 64 % 128)
     let top := min (pos + len) w
     Gives (.bfi f) s c (intTok (tyOf f.ty) ((if w ≤ pos ∨ len = 0 then a
       else a / 2 ^ top * 2 ^ top + b % 2 ^ (top - pos) * 2 ^ pos + a % 2 ^ pos) : Nat)))) ∧
  (∀ f s c a, Fires (.ext f) s c → scalarArg c.l (tyOf f.body.ty2) = some a →
    Gives (.ext f) s c (intTok (tyOf f.ty) ((tyOf f.body.ty2).readInt a))) ∧
  (∀ f s c a b, Fires (.adda f) s c → f.body.imm? = none → scalarArg c.l .a57 = some a →
    scalarArg c.r .s64 = some b →
    Gives (.adda f) s c (intTok .a57 ((a : Int) + Ty.s64.readInt b))) ∧
  (∀ f s c a v, Fires (.adda f) s c → f.body.imm? = some v → scalarArg c.l .a57 = some a →
    Gives (.adda f) s c (intTok .a57 ((a : Int) + v.toInt))) ∧
  (∀ f s c a k, Fires (.mkaddr f) s c → scalarArg c.l .n64 = some a →
    ((f.body.imm? = none ∧ scalarArg c.r .n16 = some k) ∨ ∃ v, f.body.imm? = some v ∧ k = v.toNat % 65536) →
    Gives (.mkaddr f) s c (intTok .a57 ((if k.testBit 15 then s.pkgNo else k / 16 % 64) * 2 ^ 51
      + k % 8 * 2 ^ 48 + a % 2 ^ 48 : Nat))) ∧
  (∀ f s c a, Fires (.dieof f) s c → scalarArg c.l .a57 = some a →
    (let dc := a / 2 ^ 48 % 8
     let die := if dc < 4 then (s.ctx? c.lease.tid).bind (fun x => x.dieOfCode dc) else none
     Gives (.dieof f) s c (intTok .n8 (dc
       + (if die = some (c.lease.dieAt c.site.dx c.site.dy) then 8 else 0)
       + (if dc = 5 ∨ dc = 6 ∨ (dc < 4 ∧ die = none) then 16 else 0)
       + (if a / 2 ^ 51 % 64 = s.pkgNo then 0 else 32) : Nat))))

/-! ### Scalar float instructions (R293 to R298) -/

namespace Sys2Proof.Claims

/-- A float result (R213, R294): the code of a format rounded once, in RM, from a value, sent under TYPE to both targets; its flags
raised in FLG; and, under RSR, the seed after its step left in k[KSEL]. -/
abbrev Rounded (c : Site) (f : FmtA) (x : FRes) : Effect :=
  let r := (fmtOf f.ty).round f.body.rm false x.v x.sticky (seedOf c f.body)
  let t := patTok (tyOf f.ty) r.1
  ⟨some t, some t,
    if f.body.rm = .rsr then some (f.body.ksel, setField (c.cfg.k f.body.ksel) 0 16 (seedOf c f.body)) else none, none,
    x.fl ||| r.2⟩

/-- A float instruction of L and R: what it rounds. -/
abbrev FloatResult2 (mk : FmtA → Instr) (g : RMode → FV → FV → FRes) : Prop :=
  ∀ f s c x y, Fires (mk f) s c → floatArg c.l f.ty = some x → floatArg (c.rOrImm f) f.ty = some y →
    Acts (mk f) s c (Rounded c f (g f.body.rm x y))

/-- A float instruction of L: what it rounds. -/
abbrev FloatResult1 (mk : FmtA → Instr) (g : RMode → FV → Nat → FRes) : Prop :=
  ∀ f s c x, Fires (mk f) s c → floatArg c.l f.ty = some x →
    Acts (mk f) s c (Rounded c f (g f.body.rm x (seedOf c f.body)))

end Sys2Proof.Claims

/-- R212 to R214, R294, R295: scalar float arithmetic rounds the exact value of its operation once, in RM, raises its flags, and
under RSR steps the seed. -/
def Obligations.ScalarFloatArithmeticRoundsOnce : Prop :=
  FloatResult2 .fadd fAdd ∧ FloatResult2 .fsub (fun m x y => fAdd m x y.negate) ∧ FloatResult2 .fmul (fun _ => fMul) ∧
  FloatResult2 .fdiv (fun _ => fDiv) ∧ FloatResult2 .fmin (fun _ => fMinMax false) ∧
  FloatResult2 .fmax (fun _ => fMinMax true) ∧
  (∀ f s c x y z, Fires (.ffma f) s c → floatArg c.l f.ty = some x → floatArg (c.rOrImm f) f.ty = some y →
    floatArg c.p f.ty = some z → Acts (.ffma f) s c (Rounded c f (fFma f.body.rm x y z))) ∧
  (∀ f s c x y, Fires (.fscale f) s c → floatArg c.l f.ty = some x → scalarArg c.r .s32 = some y →
    Acts (.fscale f) s c (Rounded c f (fScale x (Ty.s32.readInt y)))) ∧
  FloatResult1 .fsqrt (fun _ x _ => fSqrt x) ∧ FloatResult1 .fneg (fun _ x _ => fNeg x) ∧
  FloatResult1 .fabs (fun _ x _ => fAbs x) ∧ FloatResult1 .frnd fRnd ∧ FloatResult1 .fexp2 (fun _ x _ => fExp2 x) ∧
  FloatResult1 .flog2 (fun _ x _ => fLog2 x) ∧ FloatResult1 .frcp (fun _ x _ => fRcp x) ∧
  FloatResult1 .frsq (fun _ x _ => fRsq x)

/-- R295 to R298: FCMP, FCLASS, FCVT, FTOI and ITOF compare, classify and convert; FFLAGS sends FLG[4:0] and clears the flags of its mask. -/
def Obligations.FloatsAreComparedAndConverted : Prop :=
  (∀ f s c x y, Fires (.fcmp f) s c → floatArg c.l f.ty = some x → floatArg (c.rOrImm f) f.ty = some y →
    (let un := x.isNan || y.isNan
     let holds := match f.body.fn with
      | 0 => !un && decide (x.cmp y = 0)
      | 1 => un || decide (x.cmp y ≠ 0)
      | 2 => !un && decide (x.cmp y < 0)
      | 3 => !un && decide (x.cmp y ≤ 0)
      | 4 => !un && decide (0 < x.cmp y)
      | 5 => !un && decide (0 ≤ x.cmp y)
      | 6 => un
      | _ => !un
     let t := intTok .n8 (if holds then 1 else 0)
     Acts (.fcmp f) s c ⟨some t, some t, none, none, if x.isSnan || y.isSnan then flagNV else 0⟩)) ∧
  (∀ f s c x, Fires (.fclass f) s c → floatArg c.l f.ty = some x →
    Gives (.fclass f) s c (intTok .n16 (2 ^ fClass (fmtOf f.ty) x : Nat))) ∧
  (∀ f s c a, Fires (.fcvt f) s c → scalarArg c.l (tyOf f.body.ty2) = some a →
    Acts (.fcvt f) s c (floatEffect c f (tyOf f.ty)
      (fCvt (fmtOf f.ty) (fmtOf f.body.ty2) f.body.rm f.body.sat a (seedOf c f.body)))) ∧
  (∀ f s c x, Fires (.ftoi f) s c → floatArg c.l f.body.ty2 = some x →
    (let r := fToInt (tyOf f.ty) f.body.rm x (seedOf c f.body)
     Acts (.ftoi f) s c (floatEffect c f (tyOf f.ty) (wrapN (tyOf f.ty).width r.1, r.2)))) ∧
  (∀ f s c a, Fires (.itof f) s c → scalarArg c.l (tyOf f.body.ty2) = some a →
    Acts (.itof f) s c (floatEffect c f (tyOf f.ty)
      (intToF (fmtOf f.ty) f.body.rm f.body.sat ((tyOf f.body.ty2).readInt a) (seedOf c f.body)))) ∧
  (∀ f s c, Fires (.fflags f) s c → f.body.imm? = none →
    Gives (.fflags f) s c (intTok .n64 (c.pe.cu.flg.toNat % 32 : Nat))) ∧
  (∀ f s c v, Fires (.fflags f) s c → f.body.imm? = some v →
    GivesAnd (.fflags f) s c (intTok .n64 (c.pe.cu.flg.toNat % 32 : Nat))
      (fun p => { p with cu := { p.cu with flg := p.cu.flg &&& ~~~BitVec.ofNat 64 (v.toNat % 32) } }))

/-- R207, R212, R214, R215, R295: the special results of float arithmetic and of conversions: every NaN is canonical, and infinities, zeros and
negative values give the values and flags of the tables. -/
def Obligations.FloatSpecialResults : Prop :=
  (∀ fm mode sat q st, (FF.round fm mode sat (.nan q) false st).1 = fm.nanCode) ∧
  FF.nanCode .f32 = 0x7FC00000 ∧ FF.nanCode .bf16 = 0x7FC0 ∧ FF.nanCode .f16 = 0x7E00 ∧ FF.nanCode .e5m2 = 0x7E ∧
  FF.nanCode .e4m3 = 0x7F ∧ FF.nanCode .tk8 = 0x80 ∧
  (∀ m s, fAdd m (.inf s) (.inf !s) = ⟨.nan true, false, flagNV⟩) ∧
  (∀ s t e, fMul (.inf s) (.fin t 0 e) = ⟨.nan true, false, flagNV⟩ ∧ fMul (.fin t 0 e) (.inf s) = ⟨.nan true, false, flagNV⟩) ∧
  (∀ m s t e, fFma m (.inf s) (.fin t 0 e) (.nan true) = ⟨.nan true, false, flagNV⟩) ∧
  (∀ s t m e g, m ≠ 0 → fDiv (.fin s m e) (.fin t 0 g) = ⟨.inf (s != t), false, flagDZ⟩) ∧
  (∀ s t e g, fDiv (.fin s 0 e) (.fin t 0 g) = ⟨.nan true, false, flagNV⟩) ∧
  (∀ s t, fDiv (.inf s) (.inf t) = ⟨.nan true, false, flagNV⟩) ∧
  (∀ e, fSqrt (.fin true 0 e) = ⟨.fin true 0 e, false, 0⟩) ∧
  (∀ m e, m ≠ 0 → fSqrt (.fin true m e) = ⟨.nan true, false, flagNV⟩) ∧
  fSqrt (.inf false) = ⟨.inf false, false, 0⟩ ∧
  (∀ b x, x.isNan = false → (fMinMax b (.nan true) x).v = x ∧ (fMinMax b x (.nan true)).v = x) ∧
  (∀ e g, (fMinMax false (.fin false 0 e) (.fin true 0 g)).v = .fin true 0 g ∧
    (fMinMax true (.fin true 0 e) (.fin false 0 g)).v = .fin false 0 g) ∧
  (∀ s e, fLog2 (.fin s 0 e) = ⟨.inf true, false, flagDZ⟩ ∧ fRcp (.fin s 0 e) = ⟨.inf s, false, flagDZ⟩ ∧
    fRsq (.fin s 0 e) = ⟨.inf s, false, flagDZ⟩) ∧
  (∀ m e, m ≠ 0 → fLog2 (.fin true m e) = ⟨.nan true, false, flagNV⟩ ∧
    fRsq (.fin true m e) = ⟨.nan true, false, flagNV⟩) ∧
  fExp2 (.inf true) = ⟨.fin false 0 0, false, 0⟩ ∧ fExp2 (.inf false) = ⟨.inf false, false, 0⟩ ∧
  (∀ t m q st, fToInt t m (.nan q) st = (0, flagNV)) ∧
  (∀ t m st, fToInt t m (.inf false) st = (t.maxInt, flagNV) ∧ fToInt t m (.inf true) st = (t.minInt, flagNV)) ∧
  (∀ t m s e st, fToInt t m (.fin s 0 e) st = (0, 0)) ∧
  (∀ fm mode sat st, (intToF fm mode sat 0 st).1 = 0)

/-! ### Vector instructions (R299 to R317) -/

namespace Sys2Proof.Claims

/-- Vector instructions of two operands on integer lanes: each lane is the operation's value, wrapped to TYPE, on L and R, the
immediate or, under VR, v[VIDX]; under VW the result is also written there (R301, R303). -/
abbrev IntLanes2 (mk : FmtA → Instr) (g : Ty → Int → Int → Int) : Prop :=
  ∀ f s c a b, Fires (mk f) s c → (tyOf f.ty).isInt = true → vecArg c.l (tyOf f.ty) = some a →
    vecR f (c.vk f c.r) = some b →
    (let ty := tyOf f.ty
     Acts (mk f) s c (vkEffect f (laneTok ty (List.zipWith
       (fun x y => wrapN ty.width (g ty (ty.readInt x) (ty.readInt y))) a b))))

/-- Vector instructions of two operands on float lanes: each lane rounded once in the row's mode, lane 0 first. -/
abbrev FloatLanes2 (mk : FmtA → Instr) (g : RMode → FV → FV → FRes) : Prop :=
  ∀ f s c a b, Fires (mk f) s c → (tyOf f.ty).isInt = false → vecArg c.l (tyOf f.ty) = some a →
    vecR f (c.vk f c.r) = some b →
    Acts (mk f) s c (floatLanes c f f.body.rm (List.zipWith
      (fun x y => g f.body.rm ((fmtOf f.ty).read x) ((fmtOf f.ty).read y)) a b))

/-- Vector instructions of two operands on bit patterns. -/
abbrev PatLanes2 (mk : FmtA → Instr) (g : Nat → Nat → Nat → Nat) : Prop :=
  ∀ f s c a b, Fires (mk f) s c → vecArg c.l (tyOf f.ty) = some a → vecR f (c.vk f c.r) = some b →
    Acts (mk f) s c (vkEffect f (laneTok (tyOf f.ty) (List.zipWith (fun x y => g (tyOf f.ty).laneWidth x y) a b)))

/-- Vector instructions of L, or of v[VIDX] under VR, on integer lanes. -/
abbrev IntLanes1 (mk : FmtA → Instr) (g : Int → Int) : Prop :=
  ∀ f s c a, Fires (mk f) s c → (tyOf f.ty).isInt = true → vecArg (c.vk f c.l) (tyOf f.ty) = some a →
    (let ty := tyOf f.ty
     Acts (mk f) s c (vkEffect f (laneTok ty (a.map (fun x => wrapN ty.width (g (ty.readInt x)))))))

/-- Vector instructions of L, or of v[VIDX] under VR, on float lanes. -/
abbrev FloatLanes1 (mk : FmtA → Instr) (g : FV → FRes) : Prop :=
  ∀ f s c a, Fires (mk f) s c → (tyOf f.ty).isInt = false → vecArg (c.vk f c.l) (tyOf f.ty) = some a →
    Acts (mk f) s c (floatLanes c f f.body.rm (a.map (fun x => g ((fmtOf f.ty).read x))))

/-- A float vector effect whose lanes are rounded with a saturate bit into a format: flags and the seed as of all lanes. -/
abbrev RoundedLanes (c : Site) (f : FmtA) (ty : Ty) (sat : Bool) (l : List FRes) : Effect :=
  let r := roundLanes c f (fmtOf f.ty) f.body.rm sat l
  { Effect.both (laneTok ty r.1) with flags := r.2.1, keep := r.2.2 }

end Sys2Proof.Claims

/-- R301, R303, R305: vector arithmetic works lane by lane, on integers by value and on floats with one rounding each, with v[VIDX] as an
operand under VR and as a copy of the result under VW. -/
def Obligations.VectorArithmeticWorksLaneByLane : Prop :=
  IntLanes2 .vadd (fun _ x y => x + y) ∧ IntLanes2 .vsub (fun _ x y => x - y) ∧ IntLanes2 .vmul (fun _ x y => x * y) ∧
  IntLanes2 .vmin (fun _ x y => if x ≤ y then x else y) ∧ IntLanes2 .vmax (fun _ x y => if x ≤ y then y else x) ∧
  IntLanes2 .vsatadd (fun t x y =>
    if x + y < t.minInt then t.minInt else if t.maxInt < x + y then t.maxInt else x + y) ∧
  IntLanes2 .vmulh (fun t x y => x * y / ((2 ^ t.width : Nat) : Int)) ∧
  FloatLanes2 .vadd fAdd ∧ FloatLanes2 .vsub (fun m x y => fAdd m x y.negate) ∧ FloatLanes2 .vmul (fun _ => fMul) ∧
  FloatLanes2 .vmin (fun _ => fMinMax false) ∧ FloatLanes2 .vmax (fun _ => fMinMax true) ∧
  PatLanes2 .vand (fun _ x y => x &&& y) ∧ PatLanes2 .vor (fun _ x y => x ||| y) ∧
  PatLanes2 .vxor (fun _ x y => x ^^^ y) ∧ PatLanes2 .vshl shlP ∧ PatLanes2 .vshr shrP ∧ PatLanes2 .vsar sarP ∧
  IntLanes1 .vabs (fun x => if x < 0 then -x else x) ∧ IntLanes1 .vneg (fun x => -x) ∧
  FloatLanes1 .vabs fAbs ∧ FloatLanes1 .vneg fNeg ∧ FloatLanes1 .vexp2 fExp2 ∧ FloatLanes1 .vlog2 fLog2 ∧
  FloatLanes1 .vrcp fRcp ∧ FloatLanes1 .vrsq fRsq ∧ FloatLanes1 .vsigm fSigm ∧
  (∀ f s c a b p, Fires (.vfma f) s c → vecArg c.l (tyOf f.ty) = some a → vecR f c.r = some b →
    vecArg (c.vk f c.p) (tyOf f.ty) = some p →
    Acts (.vfma f) s c (floatLanes c f f.body.rm (List.zipWith (fun xy z => fFma f.body.rm ((fmtOf f.ty).read xy.1)
      ((fmtOf f.ty).read xy.2) ((fmtOf f.ty).read z)) (List.zip a b) p)))

/-- R306 to R311: VCMP gives a lane mask, VSEL chooses lanes, VDOT adds 16 dot products to P, and VCVT, VQUANT, VDEQ and VSCALE
convert formats. -/
def Obligations.VectorsAreComparedDottedAndConverted : Prop :=
  (∀ f s c a b, Fires (.vcmp f) s c → (tyOf f.ty).isInt = true → vecArg c.l (tyOf f.ty) = some a →
    vecR f c.r = some b →
    Gives (.vcmp f) s c (intTok .n64 (packDigits 1 ((List.zipWith
      (fun x y => intCond f.body.fn ((tyOf f.ty).readInt x) ((tyOf f.ty).readInt y)) a b).map b2n)))) ∧
  (∀ f s c a b, Fires (.vcmp f) s c → (tyOf f.ty).isInt = false → vecArg c.l (tyOf f.ty) = some a →
    vecR f c.r = some b →
    (let fm := fmtOf f.ty
     let t := intTok .n64 (packDigits 1 ((List.zipWith
       (fun x y => fCond f.body.fn (fm.read x) (fm.read y)) a b).map b2n))
     Acts (.vcmp f) s c ⟨some t, some t, none, none, snanFlag ((a ++ b).map fm.read)⟩)) ∧
  (∀ f s c a b p, Fires (.vsel f) s c → vecArg c.l (tyOf f.ty) = some a → vecArg (c.vk f c.r) (tyOf f.ty) = some b →
    c.p = some p → p.vec = false →
    Acts (.vsel f) s c (vkEffect f (laneTok (tyOf f.ty) ((List.range (tyOf f.ty).laneCount).map
      (fun q => if p.data.toNat.testBit q then nth a q 0 else nth b q 0))))) ∧
  (∀ f s c a b p, Fires (.vdot f) s c → (tyOf f.ty).isInt = true → vecArg c.l (tyOf f.ty) = some a →
    vecArg c.r (tyOf f.ty) = some b → vecArg (c.vk f c.p) .s32 = some p →
    Acts (.vdot f) s c (vkEffect f (laneTok .s32 ((dotInt (a.map (tyOf f.ty).readInt) (b.map (tyOf f.ty).readInt)
      (p.map Ty.s32.readInt)).map (wrapN 32))))) ∧
  (∀ f s c a b u p, Fires (.vdot f) s c → (tyOf f.ty).isInt = false → c.l = some a → a.isVector (tyOf f.ty) = true →
    c.r = some b → dotPartner (tyOf f.ty) b = some u → vecArg (c.vk f c.p) .f32 = some p →
    (let r := roundLanes c f .f32 .rne false (dotFloat (elemValues (tyOf f.ty) a) (elemValues u b) p)
     Acts (.vdot f) s c { vkEffect f (laneTok .f32 r.1) with flags := r.2.1 })) ∧
  (∀ f s c a, Fires (.vcvt f) s c → vecArg (c.vk f c.l) (tyOf f.body.ty2) = some a →
    (let r := seeded (cvtLane (tyOf f.ty) (tyOf f.body.ty2) f.body.rm f.body.sat) (c.seed f) a
     Acts (.vcvt f) s c { vkEffect f (laneTok (tyOf f.ty) r.1) with
       flags := r.2.1, keep := seedKeep c f.body r.2.2 })) ∧
  (∀ f s c a fm t, Fires (.vquant f) s c → vecArg c.l (tyOf f.body.ty2) = some a → (tyOf f.ty).ff = some fm →
    ((f.body.fn = 0 ∧ t = Token.vector (tyOf f.ty).tag 0 0) ∨
      (f.body.fn ≠ 0 ∧ c.r = some t ∧ t.isVector (tyOf f.ty) = true)) →
    (let r := quantBlock fm f.body.rm f.body.sat (a.map (fmtOf f.body.ty2).read) (c.seed f)
     let w := (tyOf f.ty).laneWidth
     let sc := setField t.scales (8 * f.body.fn) 8 r.1
     Acts (.vquant f) s c { Effect.both (Token.vector (tyOf f.ty).tag (if tyOf f.ty = .mxf4 then sc else sc &&& 0xFFFF)
         (setField t.data (32 * w * f.body.fn) (32 * w) (packDigits w r.2.1))) with
       flags := r.2.2.1, keep := seedKeep c f.body r.2.2.2 })) ∧
  (∀ f s c t, Fires (.vdeq f) s c → c.l = some t → t.isVector (tyOf f.body.ty2) = true →
    Acts (.vdeq f) s c (RoundedLanes c f (tyOf f.ty) f.body.sat
      ((((elemValues (tyOf f.body.ty2) t).drop ((tyOf f.ty).laneCount * f.body.fn)).take (tyOf f.ty).laneCount).map
        (fun x => (FRes.exact x).raise (snanFlag [x]))))) ∧
  (∀ f s c t y, Fires (.vscale f) s c → (tyOf f.ty).isMX = false → c.vk f c.l = some t → t.isVector (tyOf f.ty) = true →
    scalarArg c.r .s32 = some y →
    Acts (.vscale f) s c (floatLanes c f f.body.rm ((lanes (tyOf f.ty).laneWidth t.data).map
      (fun x => fScale ((fmtOf f.ty).read x) (Ty.s32.readInt y))))) ∧
  (∀ f s c t y, Fires (.vscale f) s c → (tyOf f.ty).isMX = true → c.vk f c.l = some t → t.isVector (tyOf f.ty) = true →
    scalarArg c.r .s32 = some y →
    (let r := (List.range (if tyOf f.ty = .mxf4 then 4 else 2)).map
       (fun q => shiftScale (scaleOf t.scales q) (Ty.s32.readInt y))
     Acts (.vscale f) s c { vkEffect f (Token.vector (tyOf f.ty).tag (BitVec.ofNat 32 (packDigits 8 (r.map Prod.fst))) t.data) with
       flags := r.foldl (fun a x => a ||| x.2) 0 }))

/-- R313: the lane movements put every lane where the table says: broadcast, extract, insert, shuffle, rotate, slide, zip, unzip and
mask. -/
def Obligations.LanesMoveAsTold : Prop :=
  (∀ f s c a, Fires (.vbcast f) s c → scalarArg c.l (tyOf f.ty) = some a →
    Acts (.vbcast f) s c (vkEffect f (laneTok (tyOf f.ty) (List.replicate (tyOf f.ty).laneCount a)))) ∧
  (∀ f s c a, Fires (.vextr f) s c → vecArg c.l (tyOf f.ty) = some a →
    Gives (.vextr f) s c (patTok (tyOf f.ty) (nth a f.body.fn 0))) ∧
  (∀ f s c a b, Fires (.vins f) s c → vecArg c.l (tyOf f.ty) = some a → scalarArg (c.rOrImm f) (tyOf f.ty) = some b →
    Gives (.vins f) s c (laneTok (tyOf f.ty) (a.set f.body.fn b))) ∧
  (∀ f s c a b, Fires (.vshuf f) s c → vecArg (c.vk f c.l) (tyOf f.ty) = some a → vecArg c.r .n8 = some b →
    Acts (.vshuf f) s c (vkEffect f (laneTok (tyOf f.ty) ((List.range (tyOf f.ty).laneCount).map (fun q =>
      if 128 ≤ nth b q 0 then 0 else nth a (nth b q 0 % (tyOf f.ty).laneCount) 0))))) ∧
  (∀ f s c a, Fires (.vrot f) s c → vecArg c.l (tyOf f.ty) = some a →
    Gives (.vrot f) s c (laneTok (tyOf f.ty) ((List.range (tyOf f.ty).laneCount).map (fun q =>
      nth a ((q + f.body.fn) % (tyOf f.ty).laneCount) 0)))) ∧
  (∀ f s c a b, Fires (.vslide f) s c → vecArg c.l (tyOf f.ty) = some a → vecArg c.r (tyOf f.ty) = some b →
    Gives (.vslide f) s c (laneTok (tyOf f.ty) (((a ++ b).drop f.body.fn).take (tyOf f.ty).laneCount))) ∧
  (∀ f s c a b, Fires (.vzip f) s c → vecArg c.l (tyOf f.ty) = some a → vecArg c.r (tyOf f.ty) = some b →
    Gives (.vzip f) s c (laneTok (tyOf f.ty) ((List.range (tyOf f.ty).laneCount).map (fun q =>
      nth (if q % 2 = 0 then a else b) (q / 2 + f.body.fn * ((tyOf f.ty).laneCount / 2)) 0)))) ∧
  (∀ f s c a b, Fires (.vunzip f) s c → vecArg c.l (tyOf f.ty) = some a → vecArg c.r (tyOf f.ty) = some b →
    (let n := (tyOf f.ty).laneCount
     Gives (.vunzip f) s c (laneTok (tyOf f.ty) ((List.range n).map (fun q =>
       if q < n / 2 then nth a (2 * q + f.body.fn) 0 else nth b (2 * (q - n / 2) + f.body.fn) 0))))) ∧
  (∀ f s c a m, Fires (.vmask f) s c → vecArg (c.vk f c.l) (tyOf f.ty) = some a → scalarArg c.r .n64 = some m →
    Acts (.vmask f) s c (vkEffect f (laneTok (tyOf f.ty) (a.mapIdx (fun q x => if m.testBit q then x else 0)))))

/-- R219, R220, R314 to R317: packing, reductions in the pairwise tree, scans, 2:4 compression and expansion, counts and tags. -/
def Obligations.VectorsArePackedReducedAndCounted : Prop :=
  (∀ f s c a b, Fires (.vpack f) s c → vecArg c.l (tyOf f.body.ty2) = some a → vecArg c.r (tyOf f.body.ty2) = some b →
    (let r := seeded (cvtLane (tyOf f.ty) (tyOf f.body.ty2) f.body.rm f.body.sat) (c.seed f) (a ++ b)
     Acts (.vpack f) s c { Effect.both (laneTok (tyOf f.ty) r.1) with
       flags := r.2.1, keep := seedKeep c f.body r.2.2 })) ∧
  (∀ f s c a, Fires (.vunpack f) s c → (tyOf f.ty).isInt = true → vecArg c.l (tyOf f.body.ty2) = some a →
    Gives (.vunpack f) s c (laneTok (tyOf f.ty)
      (((a.drop (f.body.fn * (tyOf f.ty).laneCount)).take (tyOf f.ty).laneCount).map
        (fun x => wrapN (tyOf f.ty).width ((tyOf f.body.ty2).readInt x))))) ∧
  (∀ f s c a, Fires (.vunpack f) s c → (tyOf f.ty).isInt = false → vecArg c.l (tyOf f.body.ty2) = some a →
    (let r := seeded (cvtLane (tyOf f.ty) (tyOf f.body.ty2) .rne false) 1
       ((a.drop (f.body.fn * (tyOf f.ty).laneCount)).take (tyOf f.ty).laneCount)
     Acts (.vunpack f) s c ((Effect.both (laneTok (tyOf f.ty) r.1)).withFlags r.2.1))) ∧
  (∀ f s c a, Fires (.vredadd f) s c → vecArg (c.vk f c.l) (tyOf f.ty) = some a →
    (let r := treeFold (nodeOp (tyOf f.ty) 0) 7 a
     Acts (.vredadd f) s c ((Effect.both (patTok (tyOf f.ty) r.1)).withFlags r.2))) ∧
  (∀ f s c a, Fires (.vredmax f) s c → vecArg (c.vk f c.l) (tyOf f.ty) = some a →
    (let r := treeFold (nodeOp (tyOf f.ty) 1) 7 a
     Acts (.vredmax f) s c ((Effect.both (patTok (tyOf f.ty) r.1)).withFlags r.2))) ∧
  (∀ f s c a, Fires (.vredmin f) s c → vecArg (c.vk f c.l) (tyOf f.ty) = some a →
    (let r := treeFold (nodeOp (tyOf f.ty) 2) 7 a
     Acts (.vredmin f) s c ((Effect.both (patTok (tyOf f.ty) r.1)).withFlags r.2))) ∧
  (∀ f s c a y, Fires (.vscan f) s c → vecArg c.l (tyOf f.ty) = some a → scalarArg (c.rOrImm f) (tyOf f.ty) = some y →
    (let r := scanLanes (nodeOp (tyOf f.ty) (f.body.fn % 4)) y a
     Acts (.vscan f) s c ((Effect.both (laneTok (tyOf f.ty) r.1)).withFlags r.2))) ∧
  (∀ f s c a, Fires (.vcompress f) s c → vecArg (c.vk f c.l) (tyOf f.ty) = some a →
    (let kept := (List.range ((tyOf f.ty).laneCount / 4)).map
       (fun g => ((a.drop (4 * g)).take 4, keptOf (tyOf f.ty) ((a.drop (4 * g)).take 4)))
     Sends (.vcompress f) s c
       [(f.h.t0, laneTok (tyOf f.ty) (kept.flatMap (fun k => [nth k.1 k.2.1 0, nth k.1 k.2.2 0]))),
        (f.h.t1, intTok .n64 (packDigits 4 (kept.map (fun k => k.2.1 + 4 * k.2.2)) : Nat))])) ∧
  (∀ f s c a m, Fires (.vexpand f) s c → vecArg c.l (tyOf f.ty) = some a → scalarArg c.r .n64 = some m →
    Acts (.vexpand f) s c (vkEffect f (laneTok (tyOf f.ty) ((List.range (tyOf f.ty).laneCount).map (fun q =>
      let lo := m / 2 ^ (4 * (q / 4)) % 4
      let hi := m / 2 ^ (4 * (q / 4) + 2) % 4
      if hi ≤ lo then 0
      else if q % 4 = lo then nth a (2 * (q / 4)) 0 else if q % 4 = hi then nth a (2 * (q / 4) + 1) 0 else 0))))) ∧
  (∀ f s c a, Fires (.vpopc f) s c → vecArg (c.vk f c.l) (tyOf f.ty) = some a →
    Gives (.vpopc f) s c (intTok .n64 ((a.filter (laneNonzero (tyOf f.ty))).length : Nat))) ∧
  (∀ f s c t, Fires (.vtagq f) s c → c.l = some t →
    Gives (.vtagq f) s c (intTok .n64 (t.tag.toNat + (if t.vec then 32 + 256 * t.scales.toNat else 0) : Nat))) ∧
  (∀ f s c t, Fires (.vtagset f) s c → c.vk f c.l = some t →
    (t.vec = true ∨ ((tyOf f.ty).isMX = false ∧ tyOf f.ty ≠ .raw512)) →
    Acts (.vtagset f) s c (vkEffect f { t with
      tag := (tyOf f.ty).tag, scales := if (tyOf f.ty).isMX then t.scales else 0 })) ∧
  (∀ f s c t, Fires (.vtagset f) s c → c.vk f c.l = some t → t.vec = false →
    ((tyOf f.ty).isMX = true ∨ tyOf f.ty = .raw512) → Lands f.h → Gives (.vtagset f) s c (c.ownErr cFormatTag))

/-! ### What every instruction of an image does alike (R126, R131, R211, R272, R273) -/

namespace Sys2Proof.Claims

/-- Where a condition of its own holds, an instruction that is squashed takes its operands and does nothing else (R272). -/
abbrev SquashesWhen (ok : State → Site → Prop) (i : Instr) : Prop :=
  ∀ s c, s.site? = some c → c.present (c.taken i.uses) = true → c.pe.targetsFree c.lease.plane i.head.t0 i.head.t1 = true →
    ok s c → c.firstErr (c.taken i.uses) = none → c.squashed i.head = true → Sends i s c []

/-- Where a condition of its own holds, an instruction sends the first ERR among its operands to both targets and does nothing
else, and squashed it does nothing but take its operands (R272). -/
abbrev PassesWhen (ok : State → Site → Prop) (i : Instr) : Prop :=
  (∀ s c e, s.site? = some c → c.present (c.taken i.uses) = true →
    c.pe.targetsFree c.lease.plane i.head.t0 i.head.t1 = true → ok s c → c.firstErr (c.taken i.uses) = some e →
    Lands i.head → Gives i s c e) ∧ SquashesWhen ok i

/-- No condition. -/
abbrev ever : State → Site → Prop := fun _ _ => True

/-- An ERR that only the predicate holds goes to both targets, whatever the instruction does with an ERR in its other operands
(R272, R336). -/
abbrev PredicateErrs (ok : State → Site → Prop) (i : Instr) : Prop :=
  ∀ s c e, s.site? = some c → c.present (c.taken i.uses) = true →
    c.pe.targetsFree c.lease.plane i.head.t0 i.head.t1 = true → ok s c → c.firstErr (c.taken i.uses) = some e →
    isErr c.l = false → isErr c.r = false → Lands i.head → Gives i s c e

/-- The dataflow instructions that wait for their operands and targets alone, and treat an ERR as R272 says. -/
abbrev plainD : List (FmtD → Instr) :=
  [.nop, .mov, .const, .sel, .iter, .kread, .kwrite, .eoiq, .invnum, .siteid, .chstat, .decide, .retire, .hmask, .hunmask]

/-- The same of format M: those that R336 leaves to R272 and that issue nothing on an ERR. -/
abbrev plainM : List (FmtM → Instr) :=
  [.ld, .ldv, .ldro, .acq, .pref, .migr, .fence, .ncinv, .sfrend, .tjoin, .tleave, .markinit, .arrive, .mwait, .arrwait, .engq,
    .cropen, .crclose, .trap, .task, .taskdep, .xlfence, .xlinv, .clock, .perfc]

/-- The writing instructions of format M, whose ERRs in the address or the data R336 treats on its own. -/
abbrev writesM : List (FmtM → Instr) :=
  [.st, .stv, .rel, .redadd, .redfadd, .redmax, .aadd, .amin, .amax, .aand, .aor, .axor, .aswp, .afadd, .discard, .flushr]

/-- The engine commands, and the compare and swap, whose P is data too. -/
abbrev commandsM : List (FmtM → Instr) := [.acas, .cpy, .cpym, .zpack, .zunpack, .coll]

/-- The instructions of the tiles that wait for what holds the tile. -/
abbrev tilesX : List (FmtX → Instr) := [.azero, .aload, .adrain, .aspill, .afill]

/-- The scratchpad bytes of an access are not awaited from memory (R340). -/
abbrev ScratchClear (f : FmtM) (s : State) (c : Site) : Prop :=
  ∀ o, c.spOff f = some o → c.spClear s o (FmtM.size f (FmtM.vecBit f)) = true

/-- The descriptor that IDX names is valid, and nothing on its way from memory is awaited. -/
abbrev CbReady (f : FmtM) (n : Cbd → Nat) (s : State) (c : Site) : Prop :=
  c.spIdle s = true ∧ (c.pe.mu.cb (FmtM.cbIdx f)).valid = true ∧ FmtM.cbCount f ≤ n (c.pe.mu.cb (FmtM.cbIdx f))

/-- The fetch slot that IDX1 names has a state. -/
abbrev SlotHas (f : FmtX) (q : FetchState → Prop) (s : State) (c : Site) : Prop :=
  ∃ p, s.portOf? c.site c.pe.kind = some p ∧ q (p.fs f.idx1.toNat).st

/-- The instructions named answer with FORMAT_TAG, on both targets, what a test of their operands tells. -/
abbrev AnswersTag (l : List (FmtA → Instr)) (bad : FmtA → Site → Prop) : Prop :=
  ∀ mk ∈ l, ∀ f s c, Fires (mk f) s c → bad f c → Lands f.h →
    Completes (mk f) s c (Deed.sending s c (mk f) (both f.h (c.ownErr cFormatTag)))

/-- The scalar instructions of two operands of TYPE. -/
abbrev scalarTwo : List (FmtA → Instr) :=
  [.add, .sub, .addc, .subb, .mul, .mulh, .div, .rem, .min, .max, .satadd, .satsub, .and, .or, .xor, .andn, .shl, .shr, .sar,
    .rot, .cmp, .fadd, .fsub, .fmul, .ffma, .fdiv, .fmin, .fmax, .fcmp]

/-- The vector instructions of two operands of TYPE, of which VR may give R. -/
abbrev vectorTwo : List (FmtA → Instr) :=
  [.vadd, .vsub, .vmul, .vmin, .vmax, .vand, .vor, .vxor, .vshl, .vshr, .vsar, .vsatadd, .vmulh]

/-- The vector instructions of one operand of TYPE, which VR may give. -/
abbrev vectorOne : List (FmtA → Instr) :=
  [.vabs, .vneg, .vexp2, .vlog2, .vrcp, .vrsq, .vsigm, .vredadd, .vredmax, .vredmin, .vcompress, .vpopc, .vshuf, .vmask, .vscale]

/-- The instruction answers an L that is no scalar of TYPE, vector or otherwise tagged, with FORMAT_TAG. -/
abbrev ChecksScalarL (mk : FmtA → Instr) : Prop :=
  ∀ f s c, Fires (mk f) s c → scalarArg c.l (tyOf f.ty) = none → Lands f.h →
    Completes (mk f) s c (Deed.sending s c (mk f) (both f.h (c.ownErr cFormatTag)))

/-- The same of an L that is no vector of TYPE. -/
abbrev ChecksVectorL (mk : FmtA → Instr) : Prop :=
  ∀ f s c, Fires (mk f) s c → vecArg c.l (tyOf f.ty) = none → Lands f.h →
    Completes (mk f) s c (Deed.sending s c (mk f) (both f.h (c.ownErr cFormatTag)))

end Sys2Proof.Claims

/-- R272: in every format, an ERR operand that the instruction does not take as a value goes to both targets, that of EMIT to its channel, and
nothing else happens; a squashed instruction takes its operands and does nothing else; each when the instruction may fire; and one whose site runs
no instance that may fire it waits. The ERRs that a store, reduction, atomic or engine command takes are those of R336. -/
def Obligations.ErrorsPassAndPredicatesSquash : Prop :=
  (∀ i f r, i.row = .a f r → ErrsThrough i) ∧
  (∀ i f r s c, i.row = .a f r → s.site? = some c → c.present (c.taken i.uses) = true →
    c.pe.targetsFree c.lease.plane i.head.t0 i.head.t1 = true → c.firstErr (c.taken i.uses) = none →
    c.squashed i.head = true → Sends i s c []) ∧
  (∀ i s, i.row ≠ .event → s.site? = none → exec i s = .next s) ∧
  (∀ mk ∈ plainD, ∀ f, PassesWhen ever (mk f)) ∧
  (∀ mk ∈ plainM, ∀ f, PassesWhen ever (mk f)) ∧
  (∀ f, PassesWhen (fun _ c => c.eoiInput (FmtD.ch f) = true ∨
    (c.feed (FmtD.ch f) = false ∧ c.tokenAt (FmtD.ch f) = true ∧ c.recvTurn (FmtD.ch f) = true)) (.recv f)) ∧
  (∀ f, PassesWhen (fun _ c => c.eoiInput (FmtD.ch f) = true ∨ c.tokenAt (FmtD.ch f) = true) (.peek f)) ∧
  (∀ f, PassesWhen (fun _ c => c.waitWant f ≤ c.waitCount f) (.waitc f)) ∧
  (∀ f, SquashesWhen (fun _ c => 1 ≤ c.pe.outFree c.lease.plane (FmtD.ch f)) (.emit f)) ∧
  (∀ f s c e, s.site? = some c → c.present (c.taken (Instr.emit f).uses) = true →
    c.pe.targetsFree c.lease.plane f.h.t0 f.h.t1 = true → 1 ≤ c.pe.outFree c.lease.plane (FmtD.ch f) →
    c.firstErr (c.taken (Instr.emit f).uses) = some e →
    Sends (.emit f) s c [(BitVec.ofNat 9 (384 + FmtD.ch f), e)]) ∧
  (∀ f, SquashesWhen ever (.steer f)) ∧ (∀ f, SquashesWhen ever (.gate f)) ∧ (∀ f, SquashesWhen ever (.errq f)) ∧
  (∀ f s c e, s.site? = some c → c.present (c.taken (Instr.gate f).uses) = true →
    c.pe.targetsFree c.lease.plane f.h.t0 f.h.t1 = true → (Instr.gate f).uses.p = true → c.p = some e → e.kind = .err →
    Lands f.h → Gives (.gate f) s c e) ∧
  (∀ f s c e, s.site? = some c → c.present ⟨c.l.isSome, c.l.isNone, (Instr.merge f).uses.p⟩ = true →
    c.pe.targetsFree c.lease.plane f.h.t0 f.h.t1 = true → (Instr.merge f).uses.p = true → c.p = some e → e.kind = .err →
    Lands f.h → Completes (.merge f) s c { Deed.sending s c (.merge f) (both f.h e) with
      uses := ⟨c.l.isSome, c.l.isNone, (Instr.merge f).uses.p⟩ }) ∧
  (∀ f, FmtM.memBit f = true → PassesWhen ever (.lds f)) ∧
  (∀ f, FmtM.memBit f = false → PassesWhen (ScratchClear f) (.lds f)) ∧
  (∀ f, SquashesWhen (ScratchClear f) (.sts f)) ∧ (∀ f, PredicateErrs (ScratchClear f) (.sts f)) ∧
  (∀ f, PassesWhen (fun s c => c.spIdle s = true) (.cbinit f)) ∧
  (∀ f, PassesWhen (CbReady f (fun d => d.filled.toNat)) (.cbwaitf f)) ∧
  (∀ f, PassesWhen (CbReady f (fun d => d.free.toNat)) (.cbwaite f)) ∧
  (∀ f, PassesWhen (fun s c => c.spIdle s = true ∧ (c.pe.mu.cb (FmtM.cbIdx f)).pend = 0) (.cbpush f)) ∧
  (∀ f, PassesWhen (fun s c => c.spIdle s = true) (.cbpop f)) ∧
  (∀ mk ∈ writesM ++ commandsM, ∀ f, SquashesWhen ever (mk f)) ∧ (∀ mk ∈ writesM, ∀ f, PredicateErrs ever (mk f)) ∧
  (∀ mk ∈ tilesX, ∀ f, PassesWhen (fun _ c => c.tileFree (FmtX.tile f) = true) (mk f)) ∧
  (∀ f, PassesWhen ever (.aown f)) ∧ (∀ f, PassesWhen ever (.mstat f)) ∧
  (∀ mk ∈ [Instr.wload, Instr.wsparse], ∀ f, PassesWhen (fun _ c => loadReady c = true) (mk f)) ∧
  (∀ f, PassesWhen (fun _ c => c.pe.cu.wswap = none) (.wswap f)) ∧
  (∀ f, PassesWhen (fun _ c => c.pe.cu.wswap = none ∧ c.pe.cu.reads (f.idx0.toNat.testBit 0) = false) (.wscale f)) ∧
  (∀ f, PassesWhen (fun _ c => c.pe.cu.batches.length < 4) (.macc f)) ∧
  (∀ f, PassesWhen (fun _ c => ∀ k, k < 4 → (c.pe.cu.tile k).busy = false) (.adecay f)) ∧
  (∀ f, PassesWhen (fun s c => fetchFits f s c = true) (.tfetch f)) ∧
  (∀ f, PassesWhen (SlotHas f (fun x => x ≠ .fetching)) (.trelease f)) ∧
  (∀ f, PassesWhen (SlotHas f (fun x => x ≠ .fetching ∧ x ≠ .stale)) (.mstream f))

/-- R211, R272, R301, R303: an operand of the wrong tag or class, in L, R or P, is answered with FORMAT_TAG on both targets, and the instruction does
nothing else; where an instruction only moves a scalar, its class alone counts (R211). -/
def Obligations.WrongTagsAreAnswered : Prop :=
  ChecksScalarL .add ∧ ChecksScalarL .sub ∧ ChecksScalarL .addc ∧ ChecksScalarL .subb ∧ ChecksScalarL .mul ∧
  ChecksScalarL .mulh ∧ ChecksScalarL .div ∧ ChecksScalarL .rem ∧ ChecksScalarL .neg ∧ ChecksScalarL .abs ∧
  ChecksScalarL .min ∧ ChecksScalarL .max ∧ ChecksScalarL .satadd ∧ ChecksScalarL .satsub ∧ ChecksScalarL .and ∧
  ChecksScalarL .or ∧ ChecksScalarL .xor ∧ ChecksScalarL .andn ∧ ChecksScalarL .shl ∧ ChecksScalarL .shr ∧
  ChecksScalarL .sar ∧ ChecksScalarL .rot ∧ ChecksScalarL .clz ∧ ChecksScalarL .popc ∧ ChecksScalarL .bfx ∧
  ChecksScalarL .bfi ∧ ChecksScalarL .cmp ∧ ChecksScalarL .fadd ∧ ChecksScalarL .fsub ∧ ChecksScalarL .fmul ∧
  ChecksScalarL .ffma ∧ ChecksScalarL .fdiv ∧ ChecksScalarL .fsqrt ∧ ChecksScalarL .fmin ∧ ChecksScalarL .fmax ∧
  ChecksScalarL .fneg ∧ ChecksScalarL .fabs ∧ ChecksScalarL .fcmp ∧ ChecksScalarL .fclass ∧ ChecksScalarL .frnd ∧
  ChecksScalarL .fscale ∧ ChecksScalarL .fexp2 ∧ ChecksScalarL .flog2 ∧ ChecksScalarL .frcp ∧ ChecksScalarL .frsq ∧
  ChecksVectorL .vadd ∧ ChecksVectorL .vsub ∧ ChecksVectorL .vmul ∧ ChecksVectorL .vfma ∧ ChecksVectorL .vmin ∧
  ChecksVectorL .vmax ∧ ChecksVectorL .vand ∧ ChecksVectorL .vor ∧ ChecksVectorL .vxor ∧ ChecksVectorL .vshl ∧
  ChecksVectorL .vshr ∧ ChecksVectorL .vsar ∧ ChecksVectorL .vcmp ∧ ChecksVectorL .vsel ∧ ChecksVectorL .vsatadd ∧
  ChecksVectorL .vmulh ∧ ChecksVectorL .vextr ∧ ChecksVectorL .vins ∧ ChecksVectorL .vrot ∧ ChecksVectorL .vslide ∧
  ChecksVectorL .vzip ∧ ChecksVectorL .vunzip ∧ ChecksVectorL .vscan ∧ ChecksVectorL .vexpand ∧
  AnswersTag [.vbcast] (fun f c => scalarBits c.l (tyOf f.ty) = none) ∧
  AnswersTag scalarTwo (fun f c => scalarArg (c.rOrImm f) (tyOf f.ty) = none) ∧
  AnswersTag [.ffma] (fun f c => scalarArg c.p (tyOf f.ty) = none) ∧
  AnswersTag [.bfx] (fun _ c => scalarArg c.r .n16 = none) ∧
  AnswersTag [.bfi] (fun f c => scalarArg c.r (tyOf f.ty) = none ∨ scalarArg c.p .n16 = none) ∧
  AnswersTag [.ext, .fcvt, .ftoi, .itof] (fun f c => scalarArg c.l (tyOf f.body.ty2) = none) ∧
  AnswersTag [.adda] (fun f c => scalarArg c.l .a57 = none ∨ (f.body.imm? = none ∧ scalarArg c.r .s64 = none)) ∧
  AnswersTag [.mkaddr] (fun f c => scalarArg c.l .n64 = none ∨ (f.body.imm? = none ∧ scalarArg c.r .n16 = none)) ∧
  AnswersTag [.dieof] (fun _ c => scalarArg c.l .a57 = none) ∧
  AnswersTag [.fscale] (fun _ c => scalarArg c.r .s32 = none) ∧
  AnswersTag vectorTwo (fun f c => vecR f (c.vk f c.r) = none) ∧
  AnswersTag [.vfma, .vcmp] (fun f c => vecR f c.r = none) ∧
  AnswersTag [.vfma] (fun f c => vecArg (c.vk f c.p) (tyOf f.ty) = none) ∧
  AnswersTag vectorOne (fun f c => vecArg (c.vk f c.l) (tyOf f.ty) = none) ∧
  AnswersTag [.vsel] (fun f c => vecArg (c.vk f c.r) (tyOf f.ty) = none ∨ ∃ p, c.p = some p ∧ p.vec = true) ∧
  AnswersTag [.vdot] (fun f c => vecArg c.l (tyOf f.ty) = none) ∧
  AnswersTag [.vdot] (fun f c => (tyOf f.ty).isInt = true ∧
    (vecArg c.r (tyOf f.ty) = none ∨ vecArg (c.vk f c.p) .s32 = none)) ∧
  AnswersTag [.vdot] (fun f c => (tyOf f.ty).isInt = false ∧
    (c.r.bind (dotPartner (tyOf f.ty)) = none ∨ vecArg (c.vk f c.p) .f32 = none)) ∧
  AnswersTag [.vcvt] (fun f c => vecArg (c.vk f c.l) (tyOf f.body.ty2) = none) ∧
  AnswersTag [.vdeq, .vpack, .vunpack, .vquant] (fun f c => vecArg c.l (tyOf f.body.ty2) = none) ∧
  AnswersTag [.vpack] (fun f c => vecArg c.r (tyOf f.body.ty2) = none) ∧
  AnswersTag [.vquant] (fun f c => f.body.fn ≠ 0 ∧ vecArg c.r (tyOf f.ty) = none) ∧
  AnswersTag [.vscale] (fun _ c => scalarArg c.r .s32 = none) ∧
  AnswersTag [.vins] (fun f c => scalarBits (c.rOrImm f) (tyOf f.ty) = none) ∧
  AnswersTag [.vshuf] (fun _ c => vecArg c.r .n8 = none) ∧
  AnswersTag [.vslide, .vzip, .vunzip] (fun f c => vecArg c.r (tyOf f.ty) = none) ∧
  AnswersTag [.vmask, .vexpand] (fun _ c => scalarArg c.r .n64 = none) ∧
  AnswersTag [.vscan] (fun f c => scalarArg (c.rOrImm f) (tyOf f.ty) = none) ∧
  AnswersTag [.vtagset] (fun f c => ∃ t, c.vk f c.l = some t ∧ t.vec = false ∧
    ((tyOf f.ty).isMX = true ∨ tyOf f.ty = .raw512))

namespace Sys2Proof.Claims

/-- No region of the lease contains an ERR (R230): none is open, its cause is not one that unwinds, its invocation lies outside, or the
region has been retried; and nothing unwinds. -/
abbrev NotContained (L : Lease) (w : Word) : Prop :=
  L.unwind = none ∧ ∀ r, L.region = some r → (containable (errCause w) && r.holds (errInv w) && !r.retried) = false

end Sys2Proof.Claims

/-- R131, R230, R273: an ERR that DROP takes, or that an instruction sends to two targets of none, is not lost: its trap joins those on their
way to the CD, with the tenant and lease of its site, and so does one that a squashed GATE or MERGE takes (assumption 61); but one that an open region contains begins an unwind instead, which stops every running
instance. -/
def Obligations.DroppedErrorsRaiseTheirTrap : Prop :=
  (∀ f s c e, s.site? = some c → c.present (c.taken (Instr.drop f).uses) = true →
    c.pe.targetsFree c.lease.plane f.h.t0 f.h.t1 = true → c.firstErr (c.taken (Instr.drop f).uses) = some e →
    f.h.t0 = tNone → f.h.t1 = tNone → NotContained c.lease e.low →
    ∃ t, exec (.drop f) s = .next t ∧ t.traps = s.traps ++ [Trap.ofErr c.lease e.low] ∧ FabricOnly s t ∧ t.ports = s.ports) ∧
  (∀ f s c, Fires (.trap f) s c → f.h.t0 = tNone → f.h.t1 = tNone →
    NotContained c.lease (siteErr c.lease.plane c.pe (trapCause f.off.toNat) c.slot) →
    ∃ t, exec (.trap f) s = .next t ∧
      t.traps = s.traps ++ [Trap.ofErr c.lease (siteErr c.lease.plane c.pe (trapCause f.off.toNat) c.slot)] ∧
      FabricOnly s t ∧ t.ports = s.ports) ∧
  (∀ f s c e, s.site? = some c → c.present (c.taken (Instr.gate f).uses) = true →
    c.pe.targetsFree c.lease.plane f.h.t0 f.h.t1 = true → c.l = some e → e.kind = .err → isErr c.p = false →
    c.squashed f.h = true → NotContained c.lease e.low →
    ∃ t, exec (.gate f) s = .next t ∧ t.traps = s.traps ++ [Trap.ofErr c.lease e.low] ∧ FabricOnly s t ∧ t.ports = s.ports) ∧
  (∀ f s c e, s.site? = some c → c.present ⟨c.l.isSome, c.l.isNone, (Instr.merge f).uses.p⟩ = true →
    c.pe.targetsFree c.lease.plane f.h.t0 f.h.t1 = true → c.l.or c.r = some e → e.kind = .err → isErr c.p = false →
    c.squashed f.h = true → NotContained c.lease e.low →
    ∃ t, exec (.merge f) s = .next t ∧ t.traps = s.traps ++ [Trap.ofErr c.lease e.low] ∧ FabricOnly s t ∧ t.ports = s.ports) ∧
  (∀ f s c e r, s.site? = some c → c.present (c.taken (Instr.drop f).uses) = true →
    c.pe.targetsFree c.lease.plane f.h.t0 f.h.t1 = true → c.firstErr (c.taken (Instr.drop f).uses) = some e →
    f.h.t0 = tNone → f.h.t1 = tNone → c.lease.unwind = none → c.lease.region = some r → containable (errCause e.low) = true →
    r.holds (errInv e.low) = true → r.retried = false →
    ∃ t, exec (.drop f) s = .next t ∧ t.traps = s.traps ∧ FabricOnly s t ∧ ∃ M, t.lease? c.site.lease = some M ∧
      M.unwind = some ⟨e.low, 1⟩ ∧ M.stopIssue = true ∧ ∀ p ∈ M.pes, p.inst = none)

/-- The frame of the arithmetic and vector instructions: whatever they answer, nothing but their own lease's dataflow, the HOLD of ports
and traps on their way may differ, and no other PE's registers. -/
def Obligations.ArithmeticTouchesItsOwnSiteOnly : Prop :=
  ∀ i f r s t, i.row = .a f r → exec i s = .next t → FabricOnly s t ∧ SameRegsBut s.focus.site s t ∧
    (∀ id, id ≠ s.focus.site.lease → t.lease? id = s.lease? id) ∧
    t.ports.map (fun p => { p with hold := false }) = s.ports.map (fun p => { p with hold := false })

/-- The frame of memory: no instruction of an image changes a byte of memory when it issues; its stores reach memory as requests that the home
performs, later. -/
def Obligations.IssuingChangesNoByteOfMemory : Prop :=
  ∀ i s t, i.row ≠ .event → exec i s = .next t → ∀ a, memByte t.mem a = memByte s.mem a

/-! ### Tiles, weights, batches and tile fetch (R318 to R332) -/

namespace Sys2Proof.Claims

/-- A tile instruction may act: nothing holds the tile that IDX0 names, and its owner is this plane or none (R142, R327). -/
abbrev TileOpen (c : Site) (f : FmtX) : Prop :=
  c.tileFree (FmtX.tile f) = true ∧ (c.pe.cu.tile (FmtX.tile f)).admits c.lease.plane = true

/-- The tile that IDX0 names, claimed by this plane. -/
abbrev claimed (c : Site) (f : FmtX) : Tile := (c.pe.cu.tile (FmtX.tile f)).claim c.lease.plane

/-- The PE with the tile that IDX0 names replaced. -/
abbrev setTile (f : FmtX) (t : Tile) (p : PE) : PE := { p with cu := p.cu.modTile (FmtX.tile f) (fun _ => t) }

/-- The half row that MODE[0] and N13[4:0] name. -/
abbrev halfOf (f : FmtX) : Nat := 2 * (f.n13.toNat % 32) + f.mode.toNat % 2

/-- A slot stays in flight with an operation, over a package changed as given, and its PE is changed as given. -/
abbrev FliesAnd (i : Instr) (s : State) (c : Site) (op : FlightOp) (g : PE → PE) : Prop :=
  Completes i s c { Deed.sending s c i [] with flies := [flight c op], pe := g }

/-- The PE with the weight buffer of a number changed. -/
abbrev setBuf (b : Bool) (g : WBuf → WBuf) (p : PE) : PE := { p with cu := p.cu.modBuf b g }

end Sys2Proof.Claims

/-- R142, R327, R328: AZERO, ALOAD and ADRAIN write or read a tile, claim it and send its ATSTAT or half row; ASPILL and AFILL stay in flight for
their 64 half rows; AOWN hands ownership over or releases it; a plane that does not own the tile is answered with FORMAT_TAG. -/
def Obligations.TilesAreReadWrittenAndOwned : Prop :=
  (∀ f s c, Fires (.azero f) s c → TileOpen c f →
    (let t := { claimed c f with halves := Vector.replicate 64 0, stat := setField (claimed c f).stat 0 5 10 }
     GivesAnd (.azero f) s c (intTok .n16 t.stat.toNat) (setTile f t))) ∧
  (∀ f s c x, Fires (.aload f) s c → TileOpen c f → c.l = some x → x.isVector .f32 = true →
    (let t := { claimed c f with
        halves := (claimed c f).halves.setIfInBounds (halfOf f) x.data, stat := setField (claimed c f).stat 0 5 10 }
     GivesAnd (.aload f) s c (intTok .n16 t.stat.toNat) (setTile f t))) ∧
  (∀ f s c, Fires (.adrain f) s c → TileOpen c f →
    (let v := ((c.pe.cu.tile (FmtX.tile f)).halves[halfOf f]?).getD 0
     let t := if f.mode.toNat.testBit 1 then { claimed c f with
        halves := (claimed c f).halves.setIfInBounds (halfOf f) 0, stat := setField (claimed c f).stat 0 5 10 }
       else claimed c f
     GivesAnd (.adrain f) s c (Token.vector Ty.f32.tag 0 v) (setTile f t))) ∧
  (∀ f s c, Fires (.aspill f) s c → TileOpen c f →
    FliesAnd (.aspill f) s c (.spill (FmtX.tile f) 0 (f.mode.toNat.testBit 0)) (setTile f (claimed c f))) ∧
  (∀ f s c, Fires (.afill f) s c → TileOpen c f →
    FliesAnd (.afill f) s c (.fill (FmtX.tile f) f.idx1.toNat 0 none) (setTile f (claimed c f))) ∧
  (∀ f s c, Fires (.aown f) s c → (c.pe.cu.tile (FmtX.tile f)).admits c.lease.plane = true →
    (let old := c.pe.cu.tile (FmtX.tile f)
     let t := if f.mode.toNat.testBit 0 then { old with stat := setField old.stat 7 1 0 }
       else { old with stat := setField (setField old.stat 5 2 f.idx1.toNat) 7 1 1 }
     GivesAnd (.aown f) s c (intTok .n16 t.stat.toNat) (setTile f t))) ∧
  (∀ f s c, Fires (.aown f) s c → (c.pe.cu.tile (FmtX.tile f)).admits c.lease.plane = false → Lands f.h →
    Gives (.aown f) s c (c.ownErr cFormatTag)) ∧
  (∀ f s c, Fires (.azero f) s c → c.tileFree (FmtX.tile f) = true →
    (c.pe.cu.tile (FmtX.tile f)).admits c.lease.plane = false → Lands f.h →
    Gives (.azero f) s c (c.ownErr cFormatTag))

/-- R320 to R325, R329: WLOAD, WSPARSE and WSCALE write weight columns, metadata and block scales, WSWAP makes the other buffer active after N13 vectors, MACC queues a
batch, ADECAY sets γ, MSTAT reports, and all but WSWAP answer at once. -/
def Obligations.WeightsAndBatchesAreSet : Prop :=
  (∀ f s c t, Fires (.wload f) s c → c.pe.cu.wswap = none → c.pe.cu.reads (!c.pe.cu.wact) = false → c.l = some t →
    t.isVector (tyOf f.ty) = true →
    GivesAnd (.wload f) s c (n8Tok (f.n13.toNat % 32)) (setBuf (!c.pe.cu.wact) (fun w =>
      WBuf.putScales { w with
        cols := w.cols.setIfInBounds (f.n13.toNat % 32) t.data, tag := (tyOf f.ty).tag, sparse := false }
        (4 * (f.n13.toNat % 32))
        (if (tyOf f.ty).isMX then (List.range (if tyOf f.ty = .mxf4 then 4 else 2)).map (scaleOf t.scales) else [])))) ∧
  (∀ f s c v m, Fires (.wsparse f) s c → c.pe.cu.wswap = none → c.pe.cu.reads (!c.pe.cu.wact) = false →
    vecArg c.l (tyOf f.ty) = some v → scalarArg c.r .n64 = some m →
    (let n := f.n13.toNat % 32
     let h := f.mode.toNat % 2
     let kb := (tyOf f.ty).laneCount
     GivesAnd (.wsparse f) s c (n8Tok n) (setBuf (!c.pe.cu.wact) (fun w =>
       { w with
         cols := w.cols.setIfInBounds n (setField ((w.cols[n]?).getD 0) (256 * h) 256
           (packDigits (tyOf f.ty).laneWidth (v.take (kb / 2))))
         map := setField w.map (2 * kb * n + kb * h) kb m
         tag := (tyOf f.ty).tag
         sparse := true })))) ∧
  (∀ f s c v, Fires (.wscale f) s c → c.pe.cu.wswap = none → c.pe.cu.reads (f.idx0.toNat.testBit 0) = false →
    scalarArg c.l .n32 = some v →
    GivesAnd (.wscale f) s c (n8Tok (f.idx0.toNat % 2)) (setBuf (f.idx0.toNat.testBit 0) (fun w =>
      w.putScales (f.n13.toNat % 128) ((List.range (f.mode.toNat % 4 + 1)).map (fun q => v / 2 ^ (8 * q) % 256))))) ∧
  (∀ f s c, Fires (.wswap f) s c → c.pe.cu.wswap = none →
    FliesAnd (.wswap f) s c .wswap (fun p => { p with cu := { p.cu with
      wswap := some f.n13.toNat, wact := if f.n13 = 0 then !p.cu.wact else p.cu.wact } })) ∧
  (∀ f s c, Fires (.macc f) s c → c.pe.cu.batches.length < 4 → f.mode.toNat % 4 = 0 →
    GivesAnd (.macc f) s c (n64Tok c.pe.cu.batchNo)
      (fun p => { p with cu := p.cu.queueBatch 0 (FmtX.tile f) (f.n13.toNat + 1) })) ∧
  (∀ f s c, Fires (.macc f) s c → c.pe.cu.batches.length < 4 → f.mode.toNat % 4 ≠ 0 →
    (c.pe.cu.tile (FmtX.tile f)).admits c.lease.plane = true →
    GivesAnd (.macc f) s c (n64Tok c.pe.cu.batchNo) (fun p => { p with
      cu := (setTile f (claimed c f) p).cu.queueBatch (f.mode.toNat % 4) (FmtX.tile f) (f.n13.toNat + 1) })) ∧
  (∀ f s c v, Fires (.adecay f) s c → (∀ k, k < 4 → (c.pe.cu.tile k).busy = false) → scalarArg c.l .f32 = some v →
    GivesAnd (.adecay f) s c (patTok .f32 c.pe.cu.decayg.toNat)
      (fun p => { p with cu := { p.cu with decayg := BitVec.ofNat 32 v } })) ∧
  (∀ f s c, Fires (.mstat f) s c → f.mode.toNat.testBit 0 = false →
    Gives (.mstat f) s c (n64Tok ((c.pe.cu.tile 0).stat.toNat + (c.pe.cu.tile 1).stat.toNat * 2 ^ 16
      + (c.pe.cu.tile 2).stat.toNat * 2 ^ 32 + (c.pe.cu.tile 3).stat.toNat * 2 ^ 48))) ∧
  (∀ f s c, Fires (.mstat f) s c → f.mode.toNat.testBit 0 = true →
    (let u := c.pe.cu
     Gives (.mstat f) s c (n64Tok (b2n u.wact + (u.buf false).tag.toNat * 2 + (u.buf true).tag.toNat * 2 ^ 6
       + b2n (u.buf false).sparse * 2 ^ 11 + b2n (u.buf true).sparse * 2 ^ 12 + b2n u.wswap.isSome * 2 ^ 13
       + u.batches.length % 8 * 2 ^ 14 + u.decayg.toNat * 2 ^ 32))))

/-- R330, R331: TFETCH takes the pattern's lines into its slot and stays in flight till they are pinned; TRELEASE frees the slot and sends how
many were; MSTREAM begins to stream a pinned slot, fetches a stale one again, and answers an empty one with PERM. -/
def Obligations.TilesAreFetchedReleasedAndStreamed : Prop :=
  (∀ f s c p, Fires (.tfetch f) s c → s.portOf? c.site c.pe.kind = some p → fetchFits f s c = true →
    (let d := c.cfg.pat (f.idx0.toNat % 4)
     Flies (.tfetch f) s c (.tfetch f.idx1.toNat (f.idx0.toNat % 4))
       ((s.unpin p.id f.idx1.toNat).modFs p.id f.idx1.toNat (fun _ =>
         ⟨.fetching, f.idx0.toNat % 4, if d.2 then [] else patLines d.1, [], [], 0, false⟩)))) ∧
  (∀ f s c p, Fires (.trelease f) s c → s.portOf? c.site c.pe.kind = some p → (p.fs f.idx1.toNat).st ≠ .fetching →
    Completes (.trelease f) s c (Deed.sending
      ((s.unpin p.id f.idx1.toNat).modFs p.id f.idx1.toNat (fun _ => FetchSlot.empty)) c (.trelease f)
      (both f.h (n64Tok (p.fs f.idx1.toNat).held.length)))) ∧
  (∀ f s c p, Fires (.mstream f) s c → s.portOf? c.site c.pe.kind = some p →
    (p.fs f.idx1.toNat).st = .pinned →
    Flies (.mstream f) s c (.mstream f.idx1.toNat f.ty (f.mode.toNat.testBit 0))
      (s.modFs p.id f.idx1.toNat (fun y => if y.st = .stale then y.restart else { y with read := [], sent := 0 }))) ∧
  (∀ f s c p, Fires (.mstream f) s c → s.portOf? c.site c.pe.kind = some p → (p.fs f.idx1.toNat).st = .stale →
    (p.fs f.idx1.toNat).whole64.length + s.leasePins c.site.lease p.id f.idx1.toNat ≤ 65536 →
    Flies (.mstream f) s c (.mstream f.idx1.toNat f.ty (f.mode.toNat.testBit 0))
      (s.modFs p.id f.idx1.toNat (fun y => if y.st = .stale then y.restart else { y with read := [], sent := 0 }))) ∧
  (∀ f s c p, Fires (.mstream f) s c → s.portOf? c.site c.pe.kind = some p → (p.fs f.idx1.toNat).st = .empty →
    Lands f.h → Gives (.mstream f) s c (c.ownErr cPerm))

/-! ### Memory instructions (R333 to R349) -/

namespace Sys2Proof.Claims

/-- A PE may issue a request of a kind to an address: it has this port, and the port may (R335). -/
abbrev Port.may (s : State) (c : Site) (p : Port) (op : ReqOp) (va : Nat) : Prop :=
  s.portOf? c.site c.pe.kind = some p ∧ s.mayIssue p op va = true

/-- The effective address of a format M word is this one, aligned to a size (R334). -/
abbrev EA (c : Site) (f : FmtM) (size va : Nat) : Prop :=
  (∃ a, scalarArg c.l .a57 = some a ∧ va = wrapN 57 ((a : Int) + f.off.toInt)) ∧ va % size = 0

/-- The bytes that a scalar access of TYPE reads or writes (R334). -/
abbrev bytesOf (f : FmtM) : Nat := if tyOf f.ty = .a57 then 8 else (tyOf f.ty).width / 8

/-- A load: one request goes out through the port, and the slot stays in flight for its reply. -/
abbrev LoadsWith (i : Instr) (s : State) (c : Site) (ty : BitVec 5) (pl : Plan) : Prop :=
  Flies i s c .reply (c.send ty pl (.slot c.site c.slot) s)

/-- A write: one request goes out; with a target named the slot stays in flight for its completion token (R335). -/
abbrev StoresWith (i : Instr) (s : State) (c : Site) (ty : BitVec 5) (pl : Plan) : Prop :=
  ((i.head.t0 ≠ tNone ∨ i.head.t1 ≠ tNone) → Flies i s c (.writes 1) (c.send ty pl (.slot c.site c.slot) s)) ∧
  (i.head.t0 = tNone → i.head.t1 = tNone →
    Completes i s c (Deed.sending (c.send ty pl .none s) c i []))

/-- An atomic of an operation on TYPE. -/
abbrev AtomicOf (mk : FmtM → Instr) (op : RmwOp) : Prop :=
  ∀ f s c p va b, Fires (mk f) s c → Port.may s c p (.atomic op) va → EA c f (bytesOf f) va → c.r = some b →
    b.isScalar (tyOf f.ty) = true →
    Flies (mk f) s c .reply (c.send f.ty
      ⟨.atomic op, va, bytesOf f, false, b.data, 0, none, f.scope, f.ord.toNat.testBit 1, f.ord.toNat.testBit 0, none, true⟩
      (.slot c.site c.slot) s)

/-- A reduction of an operation on TYPE. -/
abbrev ReductionOf (mk : FmtM → Instr) (op : RmwOp) : Prop :=
  ∀ f s c p va b, Fires (mk f) s c → Port.may s c p (.reduce op) va → EA c f (bytesOf f) va → c.r = some b →
    b.isScalar (tyOf f.ty) = true →
    StoresWith (mk f) s c f.ty ⟨.reduce op, va, bytesOf f, false, b.data, 0, none, f.scope, false, false, none, false⟩

/-- An access that is not aligned is answered with PERM, and nothing is issued. -/
abbrev RefusesMisaligned (mk : FmtM → Instr) (size : FmtM → Nat) : Prop :=
  ∀ f s c a, Fires (mk f) s c → scalarArg c.l .a57 = some a → wrapN 57 ((a : Int) + f.off.toInt) % size f ≠ 0 → Lands (mk f).head →
    Completes (mk f) s c (Deed.sending s c (mk f) (both (mk f).head (c.ownErr cPerm)))

end Sys2Proof.Claims

/-- R152, R160, R335: a request that a port issues joins the end of its queue and takes a token, refused at once where its address has die code 5 or
6; a write to a page that the side log already holds joins the side log instead; no byte of memory changes. That a request refused at once takes
its token and its queue entry is the model's choice (assumption 28). -/
def Obligations.IssuedRequestsQueueAtTheirPort : Prop :=
  (∀ (s : State) id p (r : Req), s.port? id = some p → (r.op.logged && p.logsPage r.va) = false →
    (s.issue id r).port? id = some { p with
      queue := p.queue ++ [{ r with status := r.firstStatus }], bucket := p.bucket - 1, issued := true }) ∧
  (∀ (s : State) id p (r : Req), s.port? id = some p → (r.op.logged && p.logsPage r.va) = true →
    (s.issue id r).port? id = some { p with
      sideLog := p.sideLog ++ [⟨{ r with status := .held 0 false }, BitVec.ofNat 64 ((2 ^ r.size - 1) * 2 ^ (r.va % 64))⟩] }) ∧
  (∀ (r : Req), (vaDc r.va = 5 ∨ vaDc r.va = 6) → r.op ≠ .pref →
    r.firstStatus = .refused (if r.op.loads then cPageFaultLoad else cPageFaultStore)) ∧
  (∀ (r : Req), (vaDc r.va = 5 ∨ vaDc r.va = 6) → r.op = .pref → r.firstStatus = .done 0 none) ∧
  (∀ (r : Req), vaDc r.va ≠ 5 → vaDc r.va ≠ 6 → r.firstStatus = .sent) ∧
  (∀ (s : State) id (r : Req) a, memByte (s.issue id r).mem a = memByte s.mem a)

/-- R334, R338, R340, R341, R347: LD, LDV, LDRO, ACQ, LDS from memory and PREF send one request for the aligned effective address and, PREF apart, wait for
its reply. -/
def Obligations.LoadsSendOneRequest : Prop :=
  (∀ f s c p va, Fires (.ld f) s c → Port.may s c p (.load false) va → EA c f (bytesOf f) va →
    LoadsWith (.ld f) s c f.ty ⟨.load false, va, bytesOf f, false, 0, 0, none, 0, false, false, none, false⟩) ∧
  (∀ f s c p va, Fires (.ldv f) s c → Port.may s c p (.load false) va → EA c f 64 va →
    LoadsWith (.ldv f) s c f.ty ⟨.load false, va, 64, true, 0, 0, none, 0, false, false, none, false⟩) ∧
  (∀ f s c p va, Fires (.ldro f) s c → Port.may s c p (.load true) va → f.idx.toNat.testBit 0 = false →
    EA c f (bytesOf f) va →
    LoadsWith (.ldro f) s c f.ty ⟨.load true, va, bytesOf f, false, 0, 0, none, 0, false, false, none, false⟩) ∧
  (∀ f s c p va, Fires (.ldro f) s c → Port.may s c p (.load true) va → f.idx.toNat.testBit 0 = true → EA c f 64 va →
    LoadsWith (.ldro f) s c f.ty ⟨.load true, va, 64, true, 0, 0, none, 0, false, false, none, false⟩) ∧
  (∀ f s c p va, Fires (.acq f) s c → Port.may s c p (.load false) va → EA c f (bytesOf f) va →
    LoadsWith (.acq f) s c f.ty ⟨.load false, va, bytesOf f, false, 0, 0, none, f.scope, false, true, none, true⟩) ∧
  (∀ f s c p va o, Fires (.lds f) s c → f.idx.toNat.testBit 1 = true → Port.may s c p (.load false) va → EA c f 64 va →
    scalarArg c.r .n32 = some o → o % 64 = 0 →
    LoadsWith (.lds f) s c f.ty ⟨.load false, va, 64, true, 0, 0, none, 0, false, false, some (o % 2 ^ 18), false⟩) ∧
  (∀ f s c p a, Fires (.pref f) s c → scalarArg c.l .a57 = some a →
    (let va := wrapN 57 ((a : Int) + f.off.toInt)
     Port.may s c p .pref (va / 64 * 64) →
     Completes (.pref f) s c (Deed.sending
       (c.send f.ty ⟨.pref, va / 64 * 64, 64, false, 0, 0, none, 0, false, false, none, false⟩ .none s) c (.pref f) [])))

/-- R335, R339, R344, R345, R347: ST, STV, REL, the reductions and the atomics send one request with their data for the aligned effective address; an atomic, and
a write that names a target, stays in flight for its answer. -/
def Obligations.StoresAndAtomicsSendOneRequest : Prop :=
  (∀ f s c p va b, Fires (.st f) s c → Port.may s c p .store va → EA c f (bytesOf f) va → c.r = some b →
    b.isScalar (tyOf f.ty) = true →
    StoresWith (.st f) s c f.ty ⟨.store, va, bytesOf f, false, b.data, 0, none, f.scope, false, false, none, false⟩) ∧
  (∀ f s c p va b, Fires (.stv f) s c → Port.may s c p .store va → EA c f 64 va → c.r = some b → b.vec = true →
    (tyOf f.ty = .raw512 ∨ b.tag = (tyOf f.ty).tag) →
    StoresWith (.stv f) s c f.ty ⟨.store, va, 64, true, b.data, 0, none, f.scope, false, false, none, false⟩) ∧
  (∀ f s c p va b, Fires (.rel f) s c → Port.may s c p .store va → EA c f (bytesOf f) va → c.r = some b →
    b.isScalar (tyOf f.ty) = true →
    StoresWith (.rel f) s c f.ty ⟨.store, va, bytesOf f, false, b.data, 0, none, f.scope, true, false, none, true⟩) ∧
  ReductionOf .redadd .add ∧ ReductionOf .redfadd .fadd ∧ ReductionOf .redmax .max ∧
  AtomicOf .aadd .add ∧ AtomicOf .amin .min ∧ AtomicOf .amax .max ∧ AtomicOf .aand .and ∧ AtomicOf .aor .or ∧
  AtomicOf .axor .xor ∧ AtomicOf .aswp .swap ∧ AtomicOf .afadd .fadd ∧
  (∀ f s c p va b x, Fires (.acas f) s c → Port.may s c p (.atomic .cas) va → EA c f (bytesOf f) va → c.r = some b →
    b.isScalar (tyOf f.ty) = true → c.p = some x → x.isScalar (tyOf f.ty) = true →
    Flies (.acas f) s c .reply (c.send f.ty
      ⟨.atomic .cas, va, bytesOf f, false, b.data, x.low, none, f.scope, f.ord.toNat.testBit 1, f.ord.toNat.testBit 0, none,
        true⟩ (.slot c.site c.slot) s))

namespace Sys2Proof.Claims

/-- An ERR that the instruction takes where R336 says so raises its trap, tokens that may depend on it are sent, and nothing is issued
or written. -/
abbrev ErrTraps (ok : State → Site → Prop) (l : Head → Token → List (BitVec 9 × Token)) (i : Instr) : Prop :=
  ∀ s c e, s.site? = some c → c.present (c.taken i.uses) = true →
    c.pe.targetsFree c.lease.plane i.head.t0 i.head.t1 = true → ok s c → c.firstErr (c.taken i.uses) = some e →
    NotContained c.lease e.low →
    Completes i s c (Deed.sending { s with traps := s.traps ++ [Trap.ofErr c.lease e.low] } c i (l i.head e))

/-- A completion token of 0 to both targets. -/
abbrev notDone (h : Head) (_ : Token) : List (BitVec 9 × Token) := both h (n8Tok 0)

end Sys2Proof.Claims

/-- R334, R336, R339: a misaligned access is answered with PERM and issues nothing; a store whose data is an ERR issues a write that
poisons its line, and the ERR's trap is raised; an ERR in another address, length or datum raises its trap, issues nothing, and is answered
with the completion token 0 or, of an atomic or an engine command, with the ERR. -/
def Obligations.BadAddressesIssueNothingAndErrorsPoison : Prop :=
  RefusesMisaligned .ld bytesOf ∧ RefusesMisaligned .ldv (fun _ => 64) ∧ RefusesMisaligned .acq bytesOf ∧
  (∀ f s c a b, Fires (.st f) s c → scalarArg c.l .a57 = some a → c.r = some b → b.isScalar (tyOf f.ty) = true →
    wrapN 57 ((a : Int) + f.off.toInt) % bytesOf f ≠ 0 → Lands f.h → Gives (.st f) s c (c.ownErr cPerm)) ∧
  (∀ f s c p va e, s.site? = some c → c.present (c.taken (Instr.st f).uses) = true →
    c.pe.targetsFree c.lease.plane f.h.t0 f.h.t1 = true → f.h.pred = 0 → (c.l.map Token.kind) = some .data →
    c.r = some e → e.kind = .err → Port.may s c p .store va → EA c f (bytesOf f) va →
    NotContained c.lease e.low →
    (let named := f.h.t0 ≠ tNone ∨ f.h.t1 ≠ tNone
     Completes (.st f) s c { Deed.sending (c.send f.ty
         ⟨.store, va, bytesOf f, false, 0, 0, some e.low, f.scope, false, false, none, false⟩
         (if named then .slot c.site c.slot else .none)
         { s with traps := s.traps ++ [Trap.ofErr c.lease e.low] }) c (.st f) [] with
       flies := if named then [flight c (.writes 1)] else [] })) ∧
  (∀ mk ∈ [Instr.st, Instr.stv, Instr.rel], ∀ f, ErrTraps (fun _ c => isErr c.l = true) notDone (mk f)) ∧
  (∀ mk ∈ [Instr.redadd, Instr.redfadd, Instr.redmax, Instr.discard, Instr.flushr], ∀ f,
    ErrTraps (fun _ c => (isErr c.l || isErr c.r) = true) notDone (mk f)) ∧
  (∀ f, ErrTraps (fun s c => (isErr c.l || isErr c.r) = true ∧ ScratchClear f s c) notDone (.sts f)) ∧
  (∀ mk ∈ [Instr.aadd, Instr.amin, Instr.amax, Instr.aand, Instr.aor, Instr.axor, Instr.aswp, Instr.afadd], ∀ f,
    ErrTraps (fun _ c => (isErr c.l || isErr c.r) = true) both (mk f)) ∧
  (∀ mk ∈ commandsM, ∀ f, ErrTraps ever both (mk f))

namespace Sys2Proof.Claims

/-- The descriptor that IDX names, and the PE with it replaced. -/
abbrev cbOf (c : Site) (f : FmtM) : Cbd := c.pe.mu.cb (f.idx.toNat % 16)

/-- The PE with the descriptor that IDX names replaced. -/
abbrev setCb (f : FmtM) (d : Cbd) (p : PE) : PE := { p with mu := p.mu.modCb (f.idx.toNat % 16) (fun _ => d) }

/-- The offset of LDS and STS in the scratchpad (R340). -/
abbrev SpOff (c : Site) (f : FmtM) (n o : Nat) : Prop :=
  (∃ a, scalarArg c.l .n32 = some a ∧ o = wrapN 18 ((a : Int) + f.off.toInt)) ∧ o % n = 0

/-- The bytes of LDS and STS: a line with VEC, else a scalar of TYPE. -/
abbrev spBytes (f : FmtM) : Nat := if f.idx.toNat.testBit 0 then 64 else bytesOf f

/-- What a release of a site waits for: the writes of its port's party and the loads of its port that have not read their home; nothing where
it has no port (R180 to R183). -/
abbrev writesBefore (s : State) (c : Site) : List Nat :=
  match s.portOf? c.site c.pe.kind with
  | some p => s.portWaits p
  | none => []

/-- The package in which the SFR of a site's party, if it has a port, has ended. -/
abbrev sfrEnded (s : State) (c : Site) : State :=
  match s.portOf? c.site c.pe.kind with
  | some p => s.endSfr p.party
  | none => s

/-- A release-class instruction stays in flight for the writes of its party before it, and ends the party's SFR (R180, R183). -/
abbrev WaitsAsRelease (i : Instr) (s : State) (c : Site) (next : AfterRelease) : Prop :=
  Flies i s c (.release (writesBefore s c) next) (sfrEnded s c)

/-- A sync operation stays in flight for its reply and joins the end of the queue to the sync unit of its team's die; from a port, an arrival
waits as a release, each mark operation ends the SFR, and one that ends as an acquire keeps its port from issuing till then (R136, R183, R351). -/
abbrev AsksSyncUnit (i : Instr) (s : State) (c : Site) (f : FmtM) (op : SyncOp) (rel ends acquires : Bool) : Prop :=
  let num := (c.cfg.k f.idx.toNat).toNat % 65536
  let die := match s.team? c.lease.tid num with
    | some t => t.die
    | none => c.lease.dieAt c.site.dx c.site.dy
  let after := if rel then writesBefore s c else []
  let s0 := if ends then sfrEnded s c else s
  let s1 := match s.portOf? c.site c.pe.kind with
    | some p => if acquires then s0.fenceCount p.id p.party false true else s0
    | none => s0
  Flies i s c .reply { s1 with syncQ := s1.syncQ ++ [⟨die, c.lease.tid, num, c.site, c.lease.plane, c.slot, op, f.scope, after⟩] }

end Sys2Proof.Claims

/-- R148, R149, R340, R342: LDS and STS read and write the scratchpad little-endian; CBINIT sets a descriptor up, CBWAITF and CBWAITE send a slot's offset
once enough is there, and CBPUSH and CBPOP move its counts and pointers, none of them before the lines that earlier LDS await from memory; each CB
instruction that synchronises ends its party's SFR: which ones do is the model's reading of R180 and R193 (assumption 14). -/
def Obligations.ScratchpadAndCircularBuffers : Prop :=
  (∀ f s c o, Fires (.lds f) s c → f.idx.toNat.testBit 1 = false → SpOff c f (spBytes f) o →
    c.spClear s o (spBytes f) = true → c.pe.mu.broken o (spBytes f) = false →
    (let x := ofBytes (memBytes c.pe.mu.sp o (spBytes f))
     Gives (.lds f) s c (if f.idx.toNat.testBit 0 then Token.vector (tyOf f.ty).tag 0 (BitVec.ofNat 512 x)
       else patTok (tyOf f.ty) x))) ∧
  (∀ f s c o t, Fires (.sts f) s c → SpOff c f (spBytes f) o → c.spClear s o (spBytes f) = true → c.r = some t →
    (if f.idx.toNat.testBit 0 then t.vec = true ∧ (tyOf f.ty = .raw512 ∨ t.tag = (tyOf f.ty).tag)
     else t.isScalar (tyOf f.ty) = true) →
    GivesAnd (.sts f) s c (n8Tok 1) (fun p => { p with mu := { p.mu with
      sp := memPutList p.mu.sp o (toBytes (spBytes f) (t.data.toNat % 2 ^ (8 * spBytes f)))
      bad := p.mu.bad.filter (fun w => !(o ≤ w && w + 8 ≤ o + spBytes f)) } })) ∧
  (∀ f s c o w, Fires (.lds f) s c → f.idx.toNat.testBit 1 = false → SpOff c f (spBytes f) o →
    c.spClear s o (spBytes f) = true → w ∈ c.pe.mu.bad → w < o + spBytes f → o < w + 8 → Lands f.h →
    Gives (.lds f) s c (c.ownErr cEccUncorr)) ∧
  (∀ f s c v, Fires (.cbinit f) s c → c.spIdle s = true → scalarArg c.l .n64 = some v → v < 2 ^ 36 → (cbOf c f).pend = 0 →
    64 * (v % 4096 + (v / 4096 % 4096 + 1) * (v / 2 ^ 24 % 4096 + 1)) ≤ 2 ^ 18 →
    (let d : Cbd := ⟨BitVec.ofNat 13 (v / 4096 % 4096 + 1), 0, BitVec.ofNat 12 (v / 2 ^ 24), BitVec.ofNat 12 (v / 4096),
       BitVec.ofNat 12 v, 0, true, 0, 0, []⟩
     GivesAnd (.cbinit f) s c (n64Tok d.lo) (setCb f d))) ∧
  (∀ f s c p, Fires (.cbwaitf f) s c → c.spIdle s = true → s.portOf? c.site c.pe.kind = some p → (cbOf c f).valid = true →
    f.off.toNat ≤ (cbOf c f).filled.toNat →
    Completes (.cbwaitf f) s c (Deed.sending (s.endSfr p.party) c (.cbwaitf f) (both f.h (intTok .n32
      (64 * (cbOf c f).base.toNat + 64 * ((cbOf c f).slotsz.toNat + 1) * (cbOf c f).consp.toNat : Nat))))) ∧
  (∀ f s c p, Fires (.cbwaite f) s c → c.spIdle s = true → s.portOf? c.site c.pe.kind = some p → (cbOf c f).valid = true →
    f.off.toNat ≤ (cbOf c f).free.toNat →
    Completes (.cbwaite f) s c (Deed.sending (s.endSfr p.party) c (.cbwaite f) (both f.h (intTok .n32
      (64 * (cbOf c f).base.toNat + 64 * ((cbOf c f).slotsz.toNat + 1) * (cbOf c f).prodp.toNat : Nat))))) ∧
  (∀ f s c p, Fires (.cbpush f) s c → c.spIdle s = true → s.portOf? c.site c.pe.kind = some p → (cbOf c f).valid = true →
    (cbOf c f).pend = 0 → f.off.toNat ≤ (cbOf c f).free.toNat →
    (let d := { cbOf c f with
        free := BitVec.ofNat 13 ((cbOf c f).free.toNat - f.off.toNat)
        filled := BitVec.ofNat 13 ((cbOf c f).filled.toNat + f.off.toNat)
        prodp := BitVec.ofNat 12 (((cbOf c f).prodp.toNat + f.off.toNat) % ((cbOf c f).slots.toNat + 1)) }
     Completes (.cbpush f) s c { Deed.sending (s.endSfr p.party) c (.cbpush f) (both f.h (n64Tok d.lo)) with
       pe := setCb f d })) ∧
  (∀ f s c p, Fires (.cbpop f) s c → c.spIdle s = true → s.portOf? c.site c.pe.kind = some p → (cbOf c f).valid = true →
    f.off.toNat ≤ (cbOf c f).filled.toNat →
    (let d := { cbOf c f with
        filled := BitVec.ofNat 13 ((cbOf c f).filled.toNat - f.off.toNat)
        free := BitVec.ofNat 13 ((cbOf c f).free.toNat + f.off.toNat)
        consp := BitVec.ofNat 12 (((cbOf c f).consp.toNat + f.off.toNat) % ((cbOf c f).slots.toNat + 1)) }
     Completes (.cbpop f) s c { Deed.sending (s.endSfr p.party) c (.cbpop f) (both f.h (n64Tok d.lo)) with
       pe := setCb f d })) ∧
  (∀ f s c, Fires (.cbpop f) s c → c.spIdle s = true → (cbOf c f).filled.toNat < f.off.toNat → Lands f.h →
    Gives (.cbpop f) s c (c.ownErr cCbMisuse)) ∧
  (∀ mk ∈ [Instr.cbinit, Instr.cbwaitf, Instr.cbwaite, Instr.cbpush, Instr.cbpop], ∀ f s c, s.site? = some c → c.spIdle s = false →
    exec (mk f) s = .next s)

/-- R180, R183, R347 to R349, R352: DISCARD and FLUSHR take a range a line at a time, one of length 0 completing at once; FENCE waits for its party's writes and its port's
loads and atomics, NCINV for its port's loads; SFREND ends the SFR and sends its new number. That a release waits for its port's loads too, and that a FENCE
keeps its port, or for an acquire its party, from issuing in the count of `fenceCount`, are the model's choices (assumptions 13 and 31). -/
def Obligations.RangesFencesAndRegionsEnd : Prop :=
  (∀ f s c a n, Fires (.discard f) s c → scalarArg c.l .a57 = some a → scalarArg c.r .n32 = some n →
    (let va := wrapN 57 ((a : Int) + f.off.toInt)
     va % 64 = 0 → n % 64 = 0 →
     (n = 0 → Gives (.discard f) s c (n8Tok 1)) ∧
     (n ≠ 0 → Flies (.discard f) s c (.range .discard va (n / 64) 0) s))) ∧
  (∀ f s c a n, Fires (.flushr f) s c → scalarArg c.l .a57 = some a → scalarArg c.r .n32 = some n →
    (let va := wrapN 57 ((a : Int) + f.off.toInt)
     va % 64 = 0 → n % 64 = 0 →
     (n = 0 → Gives (.flushr f) s c (n8Tok 1)) ∧
     (n ≠ 0 → Flies (.flushr f) s c (.range .flushr va (n / 64) 0) s))) ∧
  (∀ f s c p q, Fires (.fence f) s c → s.portOf? c.site c.pe.kind = some p → (s.endSfr p.party).port? p.id = some q →
    (let acq := f.ord.toNat.testBit 0
     let waits := (if f.ord.toNat.testBit 1 then s.portWaits p else [])
       ++ (if acq then p.readsOut else [])
     Flies (.fence f) s c (.release waits (.fence acq f.scope)) ((s.endSfr p.party).fenceCount p.id q.party acq true))) ∧
  (∀ f s c p, Fires (.ncinv f) s c → s.portOf? c.site c.pe.kind = some p →
    Flies (.ncinv f) s c (.ncinv p.loadsOut) (s.fenceCount p.id p.party false true)) ∧
  (∀ f s c p q, Fires (.sfrend f) s c → s.portOf? c.site c.pe.kind = some p → (s.endSfr p.party).port? p.id = some q →
    Completes (.sfrend f) s c (Deed.sending (s.endSfr p.party) c (.sfrend f) (both f.h (n64Tok q.sfr)))) ∧
  (∀ (s : State) id p q, s.port? id = some p → p.bound = true → (s.endSfr p.party).port? id = some q →
    (s.sfrOf p.party < 0xFFFFFFFF → q.sfr = s.sfrOf p.party + 1 ∧ q.party = p.party))

/-- R135, R136, R350, R351: TJOIN, TLEAVE, MARKINIT, ARRIVE, MWAIT and ARRWAIT ask the sync unit of their team's die, in order, and stay in flight for
its reply. That an arrival's release waits for its port's loads too, and that MWAIT and ARRWAIT hold back their own port, are the model's choices
(assumptions 13 and 31). -/
def Obligations.TeamsAndMarksAskTheSyncUnit : Prop :=
  (∀ f s c, Fires (.tjoin f) s c → AsksSyncUnit (.tjoin f) s c f .join false false false) ∧
  (∀ f s c, Fires (.tleave f) s c → AsksSyncUnit (.tleave f) s c f .leave false false false) ∧
  (∀ f s c n, Fires (.markinit f) s c → scalarArg c.l .n32 = some n →
    AsksSyncUnit (.markinit f) s c f (.markInit f.off.toNat n) false false false) ∧
  (∀ f s c, Fires (.arrive f) s c → AsksSyncUnit (.arrive f) s c f (.arrive f.off.toNat false) true true false) ∧
  (∀ f s c g, Fires (.mwait f) s c → scalarArg c.l .n32 = some g →
    AsksSyncUnit (.mwait f) s c f (.mwait f.off.toNat (BitVec.ofNat 32 g)) false true true) ∧
  (∀ f s c, Fires (.arrwait f) s c → AsksSyncUnit (.arrwait f) s c f (.arrive f.off.toNat true) true true true)

namespace Sys2Proof.Claims

/-- The command that an engine instruction makes of its operands (R353, R354). -/
abbrev commandOf (c : Site) (f : FmtM) (op : EngOp) (src dst : Nat) (w : Word) : EngCmd :=
  { id := 0, op := op, tid := c.lease.tid, die := c.lease.dieAt c.site.dx c.site.dy, site := some (c.site, c.slot)
    plane := c.lease.plane, origin := siteErr c.lease.plane c.pe 0 c.slot, task := none, seq := 0, scope := f.scope
    src := src, dst := dst, len := w.toNat % 2 ^ 32, ctl := w
    follow := if op = .cpym then c.cfg.k f.idx.toNat else 0, collNo := 0, rank := 0, turn := 0, outLen := 0
    cbSlot := none, segsLeft := 0, party := 0, stop := .running }

/-- An engine instruction waits as a release, its command to be queued then, after which a REDO region that is open degrades (R183,
R229, R354). -/
abbrev Queues (i : Instr) (s : State) (c : Site) (cmd : EngCmd) : Prop :=
  ∃ u, exec i s = .next (u.degrade c.site.lease c.pe.inv cmd.origin) ∧
    Ran { Deed.sending (sfrEnded s c) c i [] with flies := [flight c (.release (writesBefore s c) (.engine cmd))] } s c u

/-- An engine instruction whose destination is R queues its command (R353, R354). -/
abbrev QueuesCommand (mk : FmtM → Instr) (op : EngOp) : Prop :=
  ∀ f s c src dst w, Fires (mk f) s c → scalarArg c.l .a57 = some src →
    scalarArg c.r .a57 = some dst → scalarArg c.p .n64 = some w → w.testBit 36 = false →
    s.queueCheck c.site op (BitVec.ofNat 64 w) = none →
    Queues (mk f) s c (commandOf c f op src dst (BitVec.ofNat 64 w))

/-- The same with CBDST set: the destination is the circular buffer, and R is ignored (R150, R354). -/
abbrev FillsBuffer (mk : FmtM → Instr) (op : EngOp) : Prop :=
  ∀ f s c src w, Fires (mk f) s c → scalarArg c.l .a57 = some src →
    scalarArg c.p .n64 = some w → w.testBit 36 = true →
    s.queueCheck c.site op (BitVec.ofNat 64 w) = none →
    Queues (mk f) s c (commandOf c f op src 0 (BitVec.ofNat 64 w))

end Sys2Proof.Claims

/-- R353, R354, R356, R357: CPY, CPYM, ZPACK, ZUNPACK and COLL wait as releases with the command they will queue; a field that must be zero is refused with PERM;
ENGQ sends the site's watermark and the queue lengths. That the release waits for the port's loads too, and what a COLL checks of its addresses, are the model's
choices (assumptions 13 and 33). -/
def Obligations.EngineInstructionsQueueCommands : Prop :=
  QueuesCommand .cpy .cpy ∧ QueuesCommand .cpym .cpym ∧ QueuesCommand .zpack .zpack ∧ QueuesCommand .zunpack .zunpack ∧
  FillsBuffer .cpy .cpy ∧ FillsBuffer .cpym .cpym ∧
  (∀ f s c src dst w, Fires (.coll f) s c → scalarArg c.l .a57 = some src →
    scalarArg c.r .a57 = some dst → scalarArg c.p .n64 = some w → src % 64 = 0 → dst % 64 = 0 →
    Queues (.coll f) s c (commandOf c f .coll src dst (BitVec.ofNat 64 w))) ∧
  (∀ (s : State) lease inv o, s.regionAt lease inv = none → s.degrade lease inv o = s) ∧
  (∀ f s c src dst w, Fires (.cpy f) s c → scalarArg c.l .a57 = some src → scalarArg c.r .a57 = some dst →
    scalarArg c.p .n64 = some w → w / 2 ^ 43 % 32 ≠ 0 → Lands f.h →
    Gives (.cpy f) s c (c.ownErr cPerm)) ∧
  (∀ f s c, Fires (.engq f) s c → f.ord ≠ 1 →
    (let q := fun k => min 255 (s.vqCount (c.lease.dieAt c.site.dx c.site.dy) c.lease.tid k)
     Gives (.engq f) s c (n64Tok (c.pe.watermark + q .copy * 2 ^ 32 + q .compress * 2 ^ 40
       + q .collective * 2 ^ 48)))) ∧
  (∀ f s c, Fires (.engq f) s c → f.ord = 1 →
    (let q := fun k => min 255 (s.vqCount (c.lease.dieAt c.site.dx c.site.dy) c.lease.tid k)
     Completes (.engq f) s c (Deed.sending (match s.portOf? c.site c.pe.kind with
       | some p => (s.acquire p.party f.scope).endSfr p.party
       | none => s) c (.engq f) (both f.h (n64Tok
       (c.pe.watermark + q .copy * 2 ^ 32 + q .compress * 2 ^ 40 + q .collective * 2 ^ 48))))))

/-- R227, R359 to R366: CRCLOSE, TRAP, ERRQ, CLOCK and PERFC answer at once; TASK, TASKDEP and XLFENCE answer a next state in which they wait for
their party's writes, MIGR one in which its request has gone out, and XLINV one in which its invalidation has begun; TASKDEP, XLFENCE and XLINV
send their results when what they wait for is done. That the release waits for the port's loads too, and which of these end an SFR (TASK and TASKDEP, not MIGR and
XLFENCE), are the model's choices (assumptions 13 and 35). -/
def Obligations.SystemInstructionsActAndWait : Prop :=
  (∀ f s c, Fires (.crclose f) s c → (∀ r, c.lease.region = some r → c.pe.inv < r.first) →
    ∃ t, exec (.crclose f) s = .next t ∧ Ran (Deed.sending s c (.crclose f) (both f.h (n64Tok (2 ^ 64 - 1)))) s c t) ∧
  (∀ f s c r, Fires (.crclose f) s c → c.lease.region = some r → r.first ≤ c.pe.inv →
    ∃ t, exec (.crclose f) s = .next t ∧
      Ran { Deed.sending s c (.crclose f) (both f.h (n64Tok (r.last.getD c.pe.inv))) with
        lease := fun L => { L with region := L.region.map (fun r => { r with last := some (r.last.getD c.pe.inv) }) } } s c t) ∧
  (∀ f s c, Fires (.trap f) s c → Lands f.h →
    (let n := f.off.toNat % 64
     ∃ t, exec (.trap f) s = .next t ∧ Ran (Deed.sending s c (.trap f) (both f.h (c.ownErr
       (if n ∈ [1, 2, 3, 4, 5, 6, 8, 9, 16, 17, 18, 19, 24, 25, 26, 32, 33, 40, 41, 48] then n else 48)))) s c t)) ∧
  (∀ f s c l, FiresUsing (.errq f) (c.taken (Instr.errq f).uses) { c.taken (Instr.errq f).uses with l := false } s c →
    c.l = some l → ∃ t, exec (.errq f) s = .next t ∧
      Ran (Deed.sending s c (.errq f) (both f.h (n64Tok (if l.kind = .err then l.low.toNat else 0)))) s c t) ∧
  (∀ f s c, Fires (.clock f) s c → ∃ t, exec (.clock f) s = .next t ∧
    Ran (Deed.sending s c (.clock f) (both f.h (n64Tok (if f.off = 0 then s.contextTime c.lease.tid else c.lease.cyc)))) s c t) ∧
  (∀ f s c, Fires (.perfc f) s c →
    (let x := c.lease.x + c.site.dx
     let y := c.lease.y + c.site.dy
     let die := if f.idx.toNat.testBit 2 then some (dieOf x y)
       else (s.ctx? c.lease.tid).bind (fun k => k.die? (f.idx.toNat % 4))
     let n := match die with
       | some d => s.counter c.lease.tid d (if f.off.toNat = 3 then 256 + clusterOf x y else f.off.toNat)
       | none => 0
     ∃ t, exec (.perfc f) s = .next t ∧ Ran (Deed.sending s c (.perfc f) (both f.h (n64Tok n))) s c t)) ∧
  (∀ f s c va w, Fires (.task f) s c → scalarArg c.l .a57 = some va → scalarArg c.r .n64 = some w →
    ∃ t, exec (.task f) s = .next t ∧ Ran { Deed.sending (sfrEnded s c) c (.task f) [] with
      flies := [flight c (.release (writesBefore s c) (.task ⟨va, BitVec.ofNat 64 w, f.idx.toNat.testBit 0⟩))] } s c t) ∧
  (∀ f s c l, Fires (.taskdep f) s c → scalarArg c.l .n64 = some l →
    ∃ t, exec (.taskdep f) s = .next t ∧ Ran { Deed.sending (sfrEnded s c) c (.taskdep f) [] with
      flies := [flight c (.release (writesBefore s c) (.taskdep (BitVec.ofNat 64 l) (f.off.toNat % 8)))] } s c t) ∧
  (∀ f s c, Fires (.xlfence f) s c → ∃ t, exec (.xlfence f) s = .next t ∧
    Ran { Deed.sending s c (.xlfence f) [] with flies := [flight c (.release (match s.portOf? c.site c.pe.kind with
      | some p => s.releaseWaits p.party
      | none => []) .xlfence)] } s c t) ∧
  (∀ f s c p a, Fires (.migr f) s c → scalarArg c.l .a57 = some a →
    Port.may s c p (.migr (f.off.toNat % 4)) (a / 64 * 64) →
    (let pl : Plan := ⟨.migr (f.off.toNat % 4), a / 64 * 64, 1, false, 0, 0, none, 0, false, false, none, false⟩
     ∃ t, exec (.migr f) s = .next t ∧ Ran { Deed.sending (c.send f.ty pl (.slot c.site c.slot) s) c (.migr f) [] with
       flies := [flight c .reply] } s c t)) ∧
  (∀ f s c base n x, Fires (.xlinv f) s c → scalarArg c.l .a57 = some base → scalarArg c.r .n32 = some n →
    s.ctx? c.lease.tid = some x → base % 65536 = 0 → 0 < n → (base + 65536 * n - 1) / 2 ^ 48 = base / 2 ^ 48 →
    (let k := (c.cfg.k f.idx.toNat).toNat
     let vmid := if k.testBit 25 then k / 2 ^ 16 % 256 else x.vmid
     let asid := if k.testBit 25 then (if k.testBit 24 then none else some (k % 65536)) else some x.asid
     let r := s.beginInval vmid asid base (65536 * n) false none
     k < 2 ^ 26 → (s.namedCtxs vmid asid).isEmpty = false → ∃ t, exec (.xlinv f) s = .next t ∧
       Ran { Deed.sending r.2 c (.xlinv f) [] with flies := [flight c (.xlinv r.1)] } s c t)) ∧
  (∀ f s c base x, Fires (.xlinv f) s c → scalarArg c.l .a57 = some base → scalarArg c.r .n32 = some 0 →
    s.ctx? c.lease.tid = some x → base % 65536 = 0 → (c.cfg.k f.idx.toNat).toNat < 2 ^ 26 →
    ∃ t, exec (.xlinv f) s = .next t ∧ Ran (Deed.sending s c (.xlinv f) (both f.h (n8Tok 1))) s c t) ∧
  (∀ (a : Air) (s : State), a.free = true →
    (∀ id, (∀ v ∈ s.invals, v.id ≠ id) → progressXlinv a id s = s.land a (n8Tok 1)) ∧
    progressXlfence a s = (s.releaseReplay (fun t => t = a.lease.tid) replayAccess).land a (n8Tok 1) ∧
    (∀ l i, (∀ x, s.task? (bitsOf (BitVec.toNat l) 12 3) (l.toNat % 4096) = some x →
      x.st ≠ .waiting ∨ x.devl = false ∨ x.ctx ≠ a.lease.tid ∨ x.order % 2 ^ 32 ≠ bitsOf l.toNat 16 32) →
      progressTaskdep a l i s = s.land a (n64Tok 0)) ∧
    (∀ l i x, s.task? (bitsOf (BitVec.toNat l) 12 3) (l.toNat % 4096) = some x → x.st = .waiting → x.devl = true →
      x.ctx = a.lease.tid → x.order % 2 ^ 32 = bitsOf l.toNat 16 32 → progressTaskdep a l i s =
        ((s.modTask x.die x.idx (fun x => { x with waits := x.waits.set i (x.waits.getD i 0 - 1) })).readyIf x.die x.idx).land a
          (n64Tok (x.waits.getD i 0 - 1 + 256))))

/-! ### Reset and the step -/

namespace Sys2Proof.Claims

/-- The event answers a next state of which something holds. -/
abbrev Leads (i : Instr) (s : State) (P : State → Prop) : Prop := ∃ t, exec i s = .next t ∧ P t

/-- A package with the values that the manual gives it before its supply is present (R22, R25, R35, R38, R45, R47, R70, R174, R188). -/
def AtPowerOff (s : State) : Prop :=
  s.power = .off ∧ s.time = 0 ∧ s.fabricStopped = true ∧ s.ctxs = [] ∧ s.startLists = [] ∧ s.tasks = [] ∧ s.leases = [] ∧
  s.ports = [] ∧ s.cmds = [] ∧ s.teams = [] ∧ s.pools = [] ∧ s.graphs = [] ∧ s.traps = [] ∧ s.invals = [] ∧
  (∀ k, k < 4 → (s.links[k]?).map Link.st = some .down) ∧ (∀ p, p < 16 → (s.spans[p]?).map SpanPort.st = some .down)

end Sys2Proof.Claims

/-- R25, R38, R45: the package after reset is in OFF, with every link and span port DOWN and no context, work or traps; the invariant of every
step holds there, and its memory reads as 0 (assumption 3: the model's choice for what nothing has written). -/
def Obligations.ResetIsTheOffPackage : Prop :=
  AtPowerOff State.reset ∧ Safety.Inv State.reset ∧ ∀ a, memByte State.reset.mem a = 0

/-- The agenda (assumption 1) is what moves next: the issue of a site's lowest-numbered slot that fires (R126), an instruction in flight, an
event of the table, time, or what comes from outside; and a step does nothing else. A slot whose word decodes to an instruction runs exec of that instruction. Time passes while the package
has power, and fabric cycles while the fabric clock runs, which stops with cycle F of a photo finish (R22, R90, R116). -/
def Obligations.StepRunsTheDecodedInstruction : Prop :=
  (∀ s, s.agenda = [] → step s = .next (s.pass 1)) ∧
  (∀ s site rest, s.agenda = .issue site :: rest →
    step s = ({ s with agenda := rest } : State).issueFrom site (({ s with agenda := rest } : State).unfired site)) ∧
  (∀ (s : State) site, s.issueFrom site [] = .next s) ∧
  (∀ (s : State) site k ks e, decodeWord (s.slotWord site k) = .error e → s.issueFrom site (k :: ks) = s.issueFrom site ks) ∧
  (∀ (s : State) site k ks i t, decodeWord (s.slotWord site k) = .ok i → exec i { s with focus := Focus.slotAt site k } = .next t →
    s.issueFrom site (k :: ks) = if t.hasFired site k then .next t else s.issueFrom site ks) ∧
  (∀ s site slot rest, s.agenda = .progress site slot :: rest →
    step s = .next (({ s with agenda := rest } : State).goOn site slot)) ∧
  (∀ s n rest, s.agenda = .wait n :: rest → step s = .next (({ s with agenda := rest } : State).pass n)) ∧
  (∀ s i f rest, s.agenda = .event i f :: rest → encode i = none →
    step s = exec i { s with agenda := rest, focus := f }) ∧
  (∀ s i f rest, s.agenda = .event i f :: rest → encode i ≠ none → step s = .next { s with agenda := rest }) ∧
  (∀ (s : State) n, (s.power = .off → s.pass n = s) ∧
    (s.power ≠ .off → (s.pass n).time = s.time + n) ∧
    (s.power ≠ .off → s.fabricStopped = true → (s.pass n).fabric = s.fabric ∧ (s.pass n).leases = s.leases) ∧
    (s.power ≠ .off → s.fabricStopped = false → s.freeze = none → (s.pass n).fabric = s.fabric + n ∧
      ∀ id L, s.lease? id = some L → ((s.pass n).lease? id).map Lease.cyc = some (L.cyc + n)) ∧
    (∀ z, s.power ≠ .off → s.fabricStopped = false → s.freeze = some z → z.f ≤ s.fabric + n →
      (s.pass n).fabric = max s.fabric z.f ∧ (s.pass n).fabricStopped = true ∧ (s.pass n).uncoreStopped = true)) ∧
  (∀ s e rest, s.agenda = .outside e :: rest → step s = .next (({ s with agenda := rest } : State).fromOutside e))

/-- Memory keeps its canonical form at every step, whatever the agent that moves: addresses rise and no entry is what an unlisted address
reads as. -/
def Obligations.EveryStepKeepsMemoryCanonical : Prop :=
  ∀ s t, Safety.Inv s → step s = .next t → Safety.Inv t

/-! ### Power, the hold-up and the keep store -/

namespace Sys2Proof.Claims

/-- What energyReserveReady does with the commands that waited: each is tried in turn, and answered. -/
def admitInTurn : List CtxArgs → State → State
  | [], s => s
  | a :: l, s => match s.createCtx a with
    | .ok t => admitInTurn l (t.replyStatus 0)
    | .error e => admitInTurn l (s.replyStatus e)

end Sys2Proof.Claims

/-- R22, R25, R66, R90, R105, R109: a supply takes the package from OFF through BOOT to RUN, where every live die has its full budget, or leaves
it in BOOT where Bilsis's image does not verify, which its identity registers report; its loss takes it to OFF unless a context was ever admitted; the energy reserve lets the
commands that waited go on, and 30 s without it refuse them. That memory lists nothing after the supply returns (assumption 3), that the package keeps its number
(assumptions 6 and 63), and what the identity registers hold after a failed BOOT (assumption 8) are the model's choices. -/
def Obligations.PowerComesAndGoes : Prop :=
  (∀ s ms, s.power = .off → Leads (.supplyPresent true ms) s (fun t =>
    t.power = .run ∧ t.supply = true ∧ t.fabricStopped = false ∧ t.time = 0 ∧ t.mem = [] ∧ t.ctxs = [] ∧ t.leases = [] ∧
    t.keep = s.keep ∧ t.fuses = s.fuses ∧ t.pkgNo = s.pkgNo ∧ t.measurements = ms.map extended ∧
    (∀ d, d < s.fuses.nlive → ∃ b ∈ t.budgets, b.die = d ∧ b.b = 42666) ∧
    (∀ (k : Nat) (l : Link), t.links[k]? = some l → l.st = .running ∨ l.st = .absent))) ∧
  (∀ s ms, s.power = .off → Leads (.supplyPresent false ms) s (fun t =>
    t.power = .boot ∧ t.bootFailed = true ∧ t.supply = true ∧ t.keep = s.keep ∧ t.measurements = ms.map extended ∧
    t.identity = Vector.ofFn (fun i => Config.bootFailure i.val))) ∧
  (∀ s v ms, s.power ≠ .off → exec (.supplyPresent v ms) s = .next { s with supply := true }) ∧
  (∀ s, s.power = .boot ∨ (s.power = .run ∧ s.everAdmitted = false) → Leads .supplyLoss s (fun t =>
    t.power = .off ∧ t.supply = false ∧ t.mem = [] ∧ t.ctxs = [] ∧ t.keep = s.keep ∧ t.fuses = s.fuses ∧ Memory.wf t.mem = true)) ∧
  (∀ s, s.power = .run → s.everAdmitted = true → s.supply = true →
    exec .supplyLoss s = .next { s with supply := false, lossAt := s.ticks }) ∧
  (∀ s, s.power = .run → s.energyReady = false → exec .energyReserveReady s =
    .next (admitInTurn s.waitingCreates { s with energyReady := true, holdupFailed := false, waitingCreates := [] })) ∧
  (∀ s, s.power = .run → s.energyReady = false → s.holdupFailed = false → s.bootEnd + 30000000000 ≤ s.ticks →
    Leads .holdupChargeTimeout s (fun t => t.holdupFailed = true ∧ t.waitingCreates = [] ∧
      (s.waitingCreates ≠ [] → t.reply = ⟨3, []⟩) ∧ (s.waitingCreates = [] → t.reply = s.reply) ∧
      t = { s with holdupFailed := true, waitingCreates := [], reply := t.reply, errorLog := t.errorLog }))

/-- R109 to R114: a power failure stops the fabric and records every must-save set in the order of R111; a low reserve tears the set in progress
and leaves out those after it, a seal standing after each whole set; a manifest that is whole becomes the newest valid one, one that is not leaves the one before it; and after
restart a whole set of the reported manifest is written back, and a consumed manifest is reported no more. The length of an absent record, that of a torn
one, and that the sets are streamed and sealed in one step are the model's choices (assumption 24), and so are the answers of TASK_RESTORE and FW_LAUNCH
(assumptions 19 and 25). -/
def Obligations.AHoldUpSavesAndRestores : Prop :=
  (∀ s l, s.power = .run → s.supply = false → s.everAdmitted = true → s.lossAt + 2000 ≤ s.ticks →
    Leads (.powerFailTrap l) s (fun t => t.power = .holdup ∧ ∃ half recs,
      t.holdup = some ⟨s.ticks, half, recs, false⟩ ∧ recs.map SetRec.seq = List.range recs.length ∧
      t.keep.seals half = List.range recs.length ∧
      recs.map SetRec.tid = ((({ s with fabricStopped := true, uncoreStopped := false, freeze := none } : State).reachHome
        l).setsInOrder).map (fun x => x.1.tid))) ∧
  (∀ s h whole, s.power = .holdup → s.holdup = some h → h.low = false →
    Leads (.holdupEnergyLow whole) s (fun t => ∃ recs : List SetRec, t.holdup = some { h with recs := recs, low := true } ∧
      recs.length = h.recs.length ∧ t.keep.seals h.half = (s.keep.seals h.half).filter (fun k => k < whole) ∧ ∀ (k : Nat) (r q : SetRec), h.recs[k]? = some r → recs[k]? = some q →
        (r.seq < whole → q = r) ∧ (r.seq = whole → q.st = 1 ∧ q.len ≤ r.len ∧ q.tid = r.tid) ∧
        (whole < r.seq → q.st = 2 ∧ q.len = 0 ∧ q.tid = r.tid))) ∧
  (∀ s h, s.power = .holdup → s.holdup = some h → Leads .holdupManifest s (fun t => t.power = .off ∧
    t.keep.newest.map Prod.snd = some ⟨s.keep.nextSeq, h.tcut, h.half, h.recs,
      Config.sign (manifestBytes s.keep.nextSeq h.tcut h.half h.recs), true⟩)) ∧
  (∀ s h, s.power = .holdup → s.holdup = some h → Leads .holdupEnergyExhausted s (fun t => t.power = .off ∧
    t.keep.newest.map Prod.snd = s.keep.newest.map Prod.snd)) ∧
  (∀ s, s.power = .run → Leads .ksConsume s (fun t => t.keep.reported = none ∧ t.reply = ⟨0, []⟩ ∧
    t = { s with keep := { s.keep with consumed := t.keep.consumed }, reply := ⟨0, []⟩ })) ∧
  (∀ (s : State) set tid c m, s.power = .run → s.uncoreStopped = false → s.ctx? tid = some c →
    s.keep.reported = some m → s.keep.whole m set = true → (∀ p ∈ s.keep.pagesOf m set, s.reachable c p.va = true) → s.hasWork tid = false → exec (.ksRestore set tid) s =
      .next (let t := (s.keep.pagesOf m set).foldl (fun (s : State) p => s.restorePage c p) s
        ({ t with standing := s.keep.slotsOf m set tid ++ t.standing } : State).replyStatus 0)) ∧
  (∀ (s : State) set tid, s.uncoreStopped = true → exec (.ksRestore set tid) s = .next s) ∧
  (∀ (s : State) set tid c m, s.power = .run → s.uncoreStopped = false → s.ctx? tid = some c → s.keep.reported = some m →
    (∃ p ∈ s.keep.pagesOf m set, s.mapped c p.va = false) → exec (.ksRestore set tid) s = .next (s.replyStatus 13)) ∧
  (∀ (s : State) tid slot c i, s.power = .run → s.ctx? tid = some c → c.closing = false → s.freeEntry (s.entryDie c [] []) = some i →
    Leads (.taskRestore tid slot) s (fun t => t.reply = ⟨0, []⟩ ∧ ∃ x, t.task? (s.entryDie c [] []) i = some x ∧
      x.st = .saved ∧ x.saved = .lease slot ∧ x.ctx = tid)) ∧
  (∀ (s : State) a c d i, s.power = .run → s.ctx? a.tid = some c → c.closing = false →
    s.entryDie c (a.itiles ++ List.replicate (8 - a.itiles.length) 0) (a.otiles ++ List.replicate (4 - a.otiles.length) 0) = d →
    s.freeEntry d = some i → Leads (.fwLaunch a) s (fun t => t.reply = ⟨0, []⟩ ∧ ∃ x, t.task? d i = some x ∧ x.st = .ready ∧
      x.firmware = true ∧ x.image = a.image ∧ x.args = a.args ∧ x.prio = a.prio ∧ x.ctx = a.tid)) ∧
  (∀ (k : Keep) m set r, m.sets.find? (fun r => r.seq = set) = some r →
    (m.valid = false → k.stateOf m set = .torn) ∧ (m.valid = true → r.st = 2 → k.stateOf m set = .absent) ∧
    (m.valid = true → r.st = 1 → k.stateOf m set = .torn)) ∧
  (∀ (k : Keep) m r, k.reported = some m → r ∈ m.sets → (m.mseq, r.tid, r.seq, k.stateOf m r.seq) ∈ k.reports) ∧
  (∀ (k : Keep), k.newest.isSome = true → k.reported = none → k.reports = [])

/-! ### The Bilsis mailbox, debug and the start-list registers -/

/-- R70, R71, R90, R105 to R107, R163, R384, R389: a context is created, changed and destroyed by mailbox commands, which change nothing else
of another context, and a start list is added to one; a command that is refused answers its status and changes nothing. -/
def Obligations.ContextsAreMadeChangedAndDestroyed : Prop :=
  (∀ (s : State) a, s.power = .run → s.energyReady = true → a.decl = false → s.ctxs.length < 1024 → a.tid < 1024 →
    s.ctx? a.tid = none → s.diemapOk a.diemap = true → a.pace ≠ 0 → s.sumOthers a.tid Ctx.pace + a.pace ≤ 65536 →
    s.sumOthers a.tid Ctx.unbways + a.unbways ≤ 12 → Leads (.ctxCreate a) s (fun t =>
      t.ctx? a.tid = some (ctxOfArgs a none) ∧ (∀ k, k ≠ a.tid → t.ctx? k = s.ctx? k) ∧
      t = { s with ctxs := t.ctxs, everAdmitted := true, reply := ⟨0, []⟩ })) ∧
  (∀ (a : CtxArgs) m, (a.drain = none → (ctxOfArgs a m).drain = 600000) ∧
    (∀ d, a.drain = some d → d < 2 ^ 32 → (ctxOfArgs a m).drain = d) ∧ (a.asid < 2 ^ 16 → (ctxOfArgs a m).asid = a.asid) ∧
    (a.vmid < 2 ^ 8 → (ctxOfArgs a m).vmid = a.vmid) ∧ (ctxOfArgs a m).closing = false) ∧
  (∀ (s : State) a, s.power = .run → s.energyReady = false → s.holdupFailed = false →
    exec (.ctxCreate a) s = .next { s with waitingCreates := s.waitingCreates ++ [a] }) ∧
  (∀ (s : State) a, s.power = .run → s.energyReady = false → s.holdupFailed = true → s.ctxs.length < 1024 → a.tid < 1024 →
    s.ctx? a.tid = none → exec (.ctxCreate a) s = .next { s with reply := ⟨3, []⟩ }) ∧
  (∀ (s : State) a, s.power = .run → s.energyReady = true → 1024 ≤ s.ctxs.length →
    exec (.ctxCreate a) s = .next { s with reply := ⟨2, []⟩ }) ∧
  (∀ (s : State) tid pace c, s.power = .run → s.ctx? tid = some c → pace ≠ 0 → s.sumOthers tid Ctx.pace + pace ≤ 65536 →
    Leads (.ctxPace tid pace) s (fun t => t.ctx? tid = some { c with pace := pace } ∧ (∀ k, k ≠ tid → t.ctx? k = s.ctx? k) ∧
      t = { s with ctxs := t.ctxs, reply := ⟨0, []⟩ })) ∧
  (∀ (s : State) tid pace c, s.power = .run → s.ctx? tid = some c → pace = 0 ∨ 65536 < s.sumOthers tid Ctx.pace + pace →
    exec (.ctxPace tid pace) s = .next { s with reply := ⟨6, []⟩ }) ∧
  (∀ (s : State) tid pace, s.power = .run → s.ctx? tid = none → exec (.ctxPace tid pace) s = .next { s with reply := ⟨1, []⟩ }) ∧
  (∀ (s : State) tid vdie die c, s.power = .run → s.ctx? tid = some c → vdie < 4 → s.diemapOk (c.diemap.set vdie die) = true →
    c.diemap[vdie]? = some 7 ∨ (∃ d, c.diemap[vdie]? = some d ∧ s.usesDie tid d = false) →
    Leads (.ctxDiemap tid vdie die) s (fun t => t.ctx? tid = some { c with diemap := c.diemap.set vdie die } ∧
      (∀ k, k ≠ tid → t.ctx? k = s.ctx? k) ∧ t = { s with ctxs := t.ctxs, reply := ⟨0, []⟩ })) ∧
  (∀ (s : State) asid dc addr, s.power = .run → Leads (.ctxRoot asid dc addr) s (fun t =>
    t.roots.find? (fun r => r.1 = asid && r.2.1 = dc) = some (asid, dc, addr) ∧
    (∀ a d, (a, d) ≠ (asid, dc) → t.roots.find? (fun r => r.1 = a && r.2.1 = d) = s.roots.find? (fun r => r.1 = a && r.2.1 = d)) ∧
    t = { s with roots := t.roots, reply := ⟨0, []⟩ })) ∧
  (∀ (s : State) tid c, s.power = .run → s.ctx? tid = some c → Leads (.msUpdate tid false) s (fun t =>
    t.ctx? tid = some { c with must := none } ∧ t = { s with ctxs := t.ctxs, reply := ⟨0, []⟩ })) ∧
  (∀ (s s1 : State) tid c m, s.power = .run → s.uncoreStopped = false → s.ctx? tid = some c → s.readMustSave tid c.mustsave = (.ok m, s1) →
    exec (.msUpdate tid true) s = .next ((s1.modCtx tid (fun c => { c with must := some m })).replyStatus 0)) ∧
  (∀ (s s1 : State) tid c e, s.power = .run → s.uncoreStopped = false → s.ctx? tid = some c → s.readMustSave tid c.mustsave = (.error e, s1) →
    exec (.msUpdate tid true) s = .next { s with reply := ⟨e, []⟩ }) ∧
  (∀ (s : State) a c, s.power = .run → s.ctx? a.tid = some c → c.closing = false → c.slots.length < 8 → slSizeOk a.size = true →
    a.fn < 128 → a.slot < 64 → s.sl? (64 * a.fn + a.slot) = none → Leads (.slCreate a) s (fun t =>
      t.sl? (64 * a.fn + a.slot) = some (slOfArgs a) ∧ t.ctx? a.tid = some { c with slots := c.slots ++ [64 * a.fn + a.slot] } ∧
      (∀ k, k ≠ 64 * a.fn + a.slot → t.sl? k = s.sl? k) ∧
      t = { s with ctxs := t.ctxs, startLists := t.startLists, reply := ⟨0, []⟩ })) ∧
  (∀ (s : State) tid, s.power ≠ .run ∨ s.uncoreStopped = true → exec (.ctxDestroy tid) s = .next s) ∧
  (∀ (s : State) tid c, s.power = .run → s.uncoreStopped = false → s.ctx? tid = some c → c.slots = [] → (∀ x ∈ s.tasks, x.ctx ≠ tid) →
    (∀ L ∈ s.leases, L.tid ≠ tid) → (∀ x ∈ s.cmds, x.tid ≠ tid) → (∀ l ∈ s.startLists, l.tid ≠ tid) →
    (∀ p ∈ s.ports, p.ctx = tid → p.requests = []) →
    Leads (.ctxDestroy tid) s (fun t => t.ctx? tid = none ∧ (∀ k, k ≠ tid → t.ctx? k = s.ctx? k) ∧ t.reply = ⟨0, []⟩ ∧
      (∀ g ∈ t.graphs, g.tid ≠ tid) ∧ (∀ p ∈ t.pools, p.tid ≠ tid) ∧ (∀ x ∈ t.teams, x.tid ≠ tid) ∧
      (∀ l ∈ t.l2, ∀ o, l.key ≠ .unb tid o)))

/-- R44, R90, R174, R186, R201, R223, R384: the mailbox commands on budgets, pools, invalidations, race pools, sites, counts and routes, each
answered with status 0, and what each leaves unchanged; a site retired under a lease that may not move counts as RETIRED once that lease has left. That
S2INV is answered when its invalidation begins is the model's choice (assumption 39). -/
def Obligations.BudgetsPoolsSitesAndRoutesAreSet : Prop :=
  (∀ (s : State) die b, s.power = .run → 1 ≤ b → b ≤ 42666 → die < s.fuses.nlive → Leads (.bwBudget die b) s (fun t =>
    (∀ x ∈ t.budgets, x.die = die → x.next = some b) ∧
    t.budgets.filter (fun x => x.die ≠ die) = s.budgets.filter (fun x => x.die ≠ die) ∧
    t = { s with budgets := t.budgets, reply := ⟨0, []⟩ })) ∧
  (∀ (s : State) tid pool pa big c, s.power = .run → s.ctx? tid = some c → pool < 32 → s.configUp (paDie pa) = true →
    s.frameOut pa = false → pa % (if big then 2 ^ 21 else 65536) = 0 → s.validPa pa = true → (locOf pa).kind = .hbm →
    paPkg pa = s.pkgNo → (∀ p, s.pools.find? (fun p => p.tid = tid && p.pool = pool) = some p → p.frames = [] ∨ p.big = big) →
    Leads (.poolAdd tid pool pa big) s (fun t => t.reply = ⟨0, []⟩ ∧
      t.pools.find? (fun p => p.tid = tid && p.pool = pool) = some ⟨tid, pool, big,
        ((s.pools.find? (fun p => p.tid = tid && p.pool = pool)).map Pool.frames).getD [] ++ [pa]⟩ ∧
      (∀ k, k < (if big then 2 ^ 21 else 65536) / 65536 → lookupD t.owners (pa / 65536 + k) 0 = ownedBy tid) ∧
      t = { s with pools := t.pools, owners := t.owners, reply := ⟨0, []⟩ })) ∧
  (∀ (s t0 : State) tid va die c, s.power = .run → s.uncoreStopped = false → s.ctx? tid = some c →
    s.pageMove c va die = some t0 →
    exec (.pgMigr tid va die) s = .next (t0.replyStatus 0)) ∧
  (∀ (s : State) vmid base count, s.power = .run → s.uncoreStopped = false → Leads (.s2inv vmid base count) s (fun t => t.reply = ⟨0, []⟩ ∧
    (∃ v ∈ t.invals, v.id = s.nextId ∧ v.vmid = vmid ∧ v.stage2 = true ∧ v.base = base ∧ v.size = 65536 * count) ∧
    (∀ e ∈ t.tlb, e.vmid ≠ vmid) ∧ (∀ e ∈ t.tlb, e ∈ s.tlb))) ∧
  (∀ (s : State) die base size, s.power = .run → s.configUp die = true → Leads (.racePool die base size) s (fun t =>
    t.racePools.find? (fun p => p.1 = die) = some (die, base, size) ∧ t = { s with racePools := t.racePools, reply := ⟨0, []⟩ })) ∧
  (∀ (s : State) v, s.power = .run → 1 ≤ v → v ≤ 255 →
    exec (.siteThresh v) s = .next { s with siteThresh := v, reply := ⟨0, []⟩ }) ∧
  (∀ (s : State) l, s.power = .run → Leads (.siteRetire l) s (fun t =>
    (∀ x, x ∈ t.retired ↔ x ∈ s.retired ∨ x ∈ l) ∧ (∀ x ∈ s.runOn, x ∈ t.runOn) ∧
    (∀ x y L, (x, y) ∈ l → (x, y) ∉ s.retired → L ∈ s.leases → L.stands x y = true → s.movable L = false → (x, y, L.id) ∈ t.runOn) ∧
    t = { s with retired := t.retired, runOn := t.runOn, reply := ⟨0, []⟩ })) ∧
  (∀ (s : State), s.power = .run → Leads .siteList s (fun t => t.reply.status = 0 ∧
    t.reply.values.length = (s.retired.filter s.retiredNow).length ∧ (∀ x y, (x, y) ∈ s.retired →
      (∀ L ∈ s.leases, L.stands x y = true → (x, y, L.id) ∉ s.runOn) → BitVec.ofNat 1280 (x + 256 * y) ∈ t.reply.values) ∧
    t = { s with reply := t.reply })) ∧
  (∀ (s : State), s.power = .run → Leads .errCounts s (fun t => t.reply.status = 0 ∧
    t.reply.values.length = s.errCounts.length ∧ t = { s with reply := t.reply })) ∧
  (∀ (s : State) dst mask, s.power = .run → dst < 64 → Leads (.routeTableWrite dst mask) s (fun t =>
    t.routes[dst]? = some mask ∧ ∀ k, k ≠ dst → t.routes[k]? = s.routes[k]?))

/-- R89, R102, R115 to R117, R237, R384, R385: a nonce is issued and used up by a token that verifies; a photo finish stops the clocks at its
cycle, reads the dies out, and then thaws them or resets every die; a parked task goes on or is killed; and a die's reset begins. That the read-out changes no byte
of memory, that it takes two events, and that a nonce is used up by success are the model's choices (assumption 54). -/
def Obligations.DebugTasksAndResetsAreCommanded : Prop :=
  (∀ (s : State) n, s.power = .run → exec (.dbgNonce n) s = .next { s with nonce := some n, reply := ⟨0, [n.setWidth 1280]⟩ }) ∧
  (∀ (s : State) tok f buf, s.power = .run → s.tokenOk tok true = true → s.fabric + 4096 ≤ f → s.freeze = none →
    exec (.dbgFreeze tok true f buf) s =
      .next { s with nonce := none, freeze := some ⟨f, tokenField tok 56 1, buf⟩, reply := ⟨0, []⟩ }) ∧
  (∀ (s : State) tok f buf, s.power = .run → Leads (.dbgFreeze tok false f buf) s (fun t =>
    t.nonce = s.nonce ∧ t.freeze = s.freeze ∧ t.fabricStopped = s.fabricStopped)) ∧
  (∀ (s : State) l z, s.power = .run → s.freeze = some z → z.f ≤ s.fabric → s.uncoreStopped = false →
    exec (.photoFinishFreeze l) s = .next { s with fabricStopped := true, uncoreStopped := true }) ∧
  (∀ (s : State) l z, s.power = .run → s.freeze = some z → z.f ≤ s.fabric → s.uncoreStopped = true → z.action = 0 →
    exec (.photoFinishFreeze l) s = .next { s with
      freeze := none, fabricStopped := false, uncoreStopped := false, readOut := some (s.readOutTo z.buf) }) ∧
  (∀ (s : State) buf, (let r := s.readOutTo buf
    r.buf = buf ∧ r.leases = s.leases ∧ r.ports = s.ports ∧ r.teams = s.teams ∧ r.tasks = s.tasks ∧ r.engines = s.engines ∧
      r.cmds = s.cmds ∧ r.links = s.links.toList)) ∧
  (∀ (s : State) l z, s.power = .run → s.freeze = some z → z.f ≤ s.fabric → s.uncoreStopped = true → z.action ≠ 0 →
    Leads (.photoFinishFreeze l) s (fun t => t.resets = (List.range s.fuses.nlive).map (fun d => ⟨d, 8, s.fabric⟩))) ∧
  (∀ (s : State) die entry k L, s.power = .run → s.uncoreStopped = false → s.lapDue = false → s.task? die entry = some k →
    s.leaseOf k = some L → L.parked ≠ none →
    Leads (.taskResume die entry) s (fun t => t.reply = ⟨0, []⟩ ∧ (t.lease? L.id).map Lease.parked = some none ∧
      t = { s with leases := t.leases, ports := t.ports, reply := ⟨0, []⟩ })) ∧
  (∀ (s : State) die entry, s.power ≠ .run ∨ s.uncoreStopped = true ∨ s.lapDue = true →
    exec (.taskResume die entry) s = .next s) ∧
  (∀ (s : State) die entry k, s.power = .run → s.uncoreStopped = false → s.task? die entry = some k →
    Leads (.taskKill die entry) s (fun t => t.reply = ⟨0, []⟩ ∧ t.task? die entry = none)) ∧
  (∀ (s : State) d, s.power = .run → d < s.fuses.nlive → d < 4 → s.reset? d = none → (s.link (4 + d)).st ≠ .down →
    Leads (.dieReset d) s (fun t => t.reply = ⟨0, []⟩ ∧ t.reset? d = some ⟨d, 2, s.fabric⟩ ∧
      ((∀ L ∈ s.leases, L.move = none) → (t.link (4 + d)).st = .quiescing ∧
        t = { s with links := t.links, resets := t.resets, reply := ⟨0, []⟩ }))) ∧
  (∀ (s : State) d, s.power = .run → d < s.fuses.nlive → s.reset? d = none → (s.link (4 + d)).st = .down →
    Leads (.dieReset d) s (fun t => t.reset? d = some ⟨d, 7, s.fabric⟩ ∧
      t = { s with resets := t.resets, reply := ⟨0, []⟩ })) ∧
  (∀ (s : State) d, s.power = .run → d < s.fuses.nlive → s.reset? d ≠ none →
    exec (.dieReset d) s = .next { s with reply := ⟨15, []⟩ })

/-- R7, R27, R38, R45, R51, R52, R55, R63 to R65, R388: what a write to a doorbell page, to SLCTL, or to a register of a BAR does to a start list,
the mailbox and the MSI-X table, and what the registers of both BARs read as. -/
def Obligations.StartListRegistersAreWritten : Prop :=
  (∀ (s : State) slot tail l, s.sl? slot = some l → l.st ≠ .destroyed → (tail - l.head).toNat ≤ l.size →
    Leads (.doorbell slot tail) s (fun t => (t.sl? slot).map StartList.tail = some tail ∧
      (t.sl? slot).map StartList.st = some l.st ∧ t = { s with startLists := t.startLists })) ∧
  (∀ (s : State) slot tail l, s.sl? slot = some l → l.st ≠ .destroyed → l.st ≠ .faulted → l.size < (tail - l.head).toNat →
    Leads (.doorbell slot tail) s (fun t => t.sl? slot = some { l with st := .faulted, fcause := 3 } ∧
      t = { s with startLists := t.startLists })) ∧
  (∀ (s : State) slot tail, (∀ l, s.sl? slot = some l → l.st = .destroyed) → exec (.doorbell slot tail) s = .next s) ∧
  (∀ (s : State) slot v l, s.sl? slot = some l → Leads (.slchead slot v) s (fun t => t.sl? slot = some { l with chead := v } ∧
    t = { s with startLists := t.startLists })) ∧
  (∀ (s : State) slot l, s.sl? slot = some l → l.st = .active → Leads (.stop slot) s (fun t =>
    t.sl? slot = some { l with st := .stopping } ∧ t = { s with startLists := t.startLists })) ∧
  (∀ (s : State) slot l, s.sl? slot = some l → l.st = .stopped ∨ l.st = .faulted → Leads (.start slot) s (fun t =>
    (t.sl? slot).map StartList.st = some .active ∧ (t.sl? slot).map StartList.head = some l.head ∧
    (l.st = .faulted → (t.sl? slot).map StartList.fcause = some 0) ∧ t = { s with startLists := t.startLists })) ∧
  (∀ (s : State) slot l x, s.sl? slot = some l → l.st ≠ .destroyed → x ∈ s.tasks → x.slid = slot →
    Leads (.destroy slot) s (fun t => t.sl? slot = some { l with st := .destroyed, held := none, retryAt := none, force := false } ∧
      t = { s with startLists := t.startLists })) ∧
  (∀ (s : State) slot l, s.sl? slot = some l → l.st ≠ .destroyed → l.pending = [] → l.nodes = [] → (∀ x ∈ s.tasks, x.slid ≠ slot) →
    Leads (.destroy slot) s (fun t => t.sl? slot = none) ∧ Leads (.destroyForce slot) s (fun t => t.sl? slot = none)) ∧
  (∀ (s : State) off v, s.power = .run → off % 8 = 0 → 0x200 ≤ off → off < 0x300 →
    Leads (.registerWrite 0 0 off v) s (fun t => (∀ k, k < 8 → t.mailbox[off - 0x200 + k]? = some (v.extractLsb' (8 * k) 8)) ∧
      (∀ k, k < off - 0x200 ∨ off - 0x200 + 8 ≤ k → t.mailbox[k]? = s.mailbox[k]?) ∧ t = { s with mailbox := t.mailbox })) ∧
  (∀ (s : State) f off v, s.power = .run → f < 128 → off % 8 = 0 → 0x8000 ≤ off → off < 0x10000 →
    (f, (off - 0x8000) / 16) ∉ s.msixPending →
    Leads (.registerWrite f 0 off v) s (fun t =>
      (f, off - 0x8000, v.setWidth 32) ∈ t.msixTable ∧ (f, off - 0x8000 + 4, v.extractLsb' 32 32) ∈ t.msixTable ∧
      (∀ x ∈ s.msixTable, x.1 ≠ f → x ∈ t.msixTable) ∧ t = { s with msixTable := t.msixTable })) ∧
  (∀ (s : State) f off v, f < 128 → off < 0x200 ∨ (0x300 ≤ off ∧ off < 0x8000) ∨ 0x10000 ≤ off ∨ (f ≠ 0 ∧ off < 0x300) →
    exec (.registerWrite f 0 off v) s = .next s) ∧
  (∀ (s : State) f k v, s.power = .run → f < 128 → k < 64 →
    exec (.registerWrite f 2 (0x1000 * k) v) s = exec (.doorbell (64 * f + k) (v.setWidth 32)) s ∧
    exec (.registerWrite f 2 (0x1000 * k + 0x10) v) s = exec (.slchead (64 * f + k) (v.setWidth 32)) s ∧
    exec (.registerWrite f 2 (0x1000 * k + 0x18) 1) s = exec (.stop (64 * f + k)) s ∧
    exec (.registerWrite f 2 (0x1000 * k + 0x18) 2) s = exec (.start (64 * f + k)) s ∧
    exec (.registerWrite f 2 (0x1000 * k + 0x18) 3) s = .next s ∧
    exec (.registerWrite f 2 (0x1000 * k + 0x18) 4) s = exec (.destroy (64 * f + k)) s ∧
    exec (.registerWrite f 2 (0x1000 * k + 0x18) 12) s = exec (.destroyForce (64 * f + k)) s) ∧
  (∀ (s : State) f, s.readRegister f 0 0x100 = s.fuses.pkginfo ∧
    (∀ d, d < 4 → s.readRegister f 0 (0x108 + 8 * d) = s.fuses.clhole d) ∧
    (∀ off, 0x128 ≤ off → off < 0x200 → s.readRegister f 0 off = 0) ∧
    (∀ k l, k < 8 → s.links[k]? = some l → s.readRegister f 0 (0x300 + 8 * k) = l.dlstat) ∧
    (∀ n, n < 16 → s.readRegister 0 0 (0x400 + 16 * n) = (s.span n).sxstat) ∧
    (∀ off, f ≠ 0 → (0x200 ≤ off ∧ off < 0x300) ∨ (0x400 ≤ off ∧ off < 0x500) → s.readRegister f 0 off = 0)) ∧
  (∀ (s : State) f k l, k < 64 → s.sl? (64 * f + k) = some l →
    s.readRegister f 2 (0x1000 * k) = l.tail.setWidth 64 ∧ s.readRegister f 2 (0x1000 * k + 8) = l.head.setWidth 64 ∧
    s.readRegister f 2 (0x1000 * k + 0x10) = l.chead.setWidth 64 ∧ s.readRegister f 2 (0x1000 * k + 0x18) = 0 ∧
    s.readRegister f 2 (0x1000 * k + 0x20) = l.slstat) ∧
  (∀ (s : State) f k, k < 64 → s.sl? (64 * f + k) = none →
    s.readRegister f 2 (0x1000 * k) = 0 ∧ s.readRegister f 2 (0x1000 * k + 0x20) = 7)

/-! ### Packets -/

namespace Sys2Proof.Claims

/-- A packet is admitted once the one held, read again, is `p` in the start list `m`, over the package `s1`, and every condition of R55
holds. -/
structure MayEnter (s : State) (kind : Nat) (s1 : State) (m : StartList) (p : Packet) : Prop where
  runs : s.cdRuns = true
  held : ∃ l q, s.sl? s.focus.slot = some l ∧ l.st = .active ∧ l.held = some q ∧ pktKind q.body = kind ∧
    s1 = s.consumePacket l
  again : s1.sl? s.focus.slot = some m
  packet : m.held = some p
  kind : pktKind p.body = kind
  admitted : s1.mayAdmit m p.body = true

/-- The start list after a packet is admitted: HEAD and the packet number one on, the packet pending with its status (R55, R59). -/
def entered (m : StartList) (b : BitVec 1024) (status : Option (Nat × Nat)) (nodes : List (BitVec 1024)) : StartList :=
  { m with
    head := m.head + 1, nextN := m.nextN + 1, held := none, retryAt := none, order := m.order + 1
    nodes := m.nodes ++ nodes.map (fun x => (m.nextN, x))
    pending := m.pending ++ [pendingOf b m.nextN m.order nodes.length status] }

/-- The event admits the packet; nothing but start lists, and that the context has admitted work, differs from the package in which it was
read. -/
abbrev Enters (i : Instr) (s s1 : State) (m : StartList) (b : BitVec 1024) (status : Option (Nat × Nat))
    (nodes : List (BitVec 1024)) : Prop :=
  Leads i s (fun t => t.sl? s.focus.slot = some (entered m b status nodes) ∧
    t = { s1.markAdmitted m.tid with startLists := t.startLists })

/-- The CD reads a packet's bytes. -/
def reads (s : State) (l : StartList) (r : Except Nat (List Byte)) (s1 : State) : Prop :=
  s.cdRead l.tid (wrapN 57 ((l.ring + 128 * (l.nextN % l.size) : Nat) : Int)) 128 true = (r, s1) ∧ s1.sl? l.slot = some l

/-- The start list in focus may read its next packet: at once, or after a stamp mismatch 1,000 ticks ago. -/
def mayRead (s : State) (l : StartList) (retry : Bool) : Prop :=
  s.cdRuns = true ∧ s.sl? s.focus.slot = some l ∧ l.st = .active ∧ l.head ≠ l.tail ∧ l.held = none ∧
    if retry then ∃ t, l.retryAt = some t ∧ t ≤ s.ticks else l.retryAt = none

/-- What reading the next packet does, by what the CD reads (R54 to R56, R64). -/
abbrev ReadsPacket (i : Instr) (retry : Bool) : Prop :=
  ∀ (s : State) l s1, mayRead s l retry →
    (∀ e, reads s l (.error e) s1 → Leads i s (fun t => t.sl? l.slot = some { l with held := none, st := .faulted, fcause := 1 })) ∧
    (∀ bs b, reads s l (.ok bs) s1 → b = BitVec.ofNat 1024 (ofBytes bs) →
      (¬(pktField b 60 4 = stampOf l.nextN ∧ pktField b 124 4 = stampOf l.nextN) → Leads i s (fun t =>
        t.sl? l.slot = some { l with held := none, retryAt := some (s.ticks + 1000) } ∧ t = { s1 with startLists := t.startLists })) ∧
      (pktField b 60 4 = stampOf l.nextN → pktField b 124 4 = stampOf l.nextN → packetRefusal b l.fn = none → Leads i s (fun t =>
        t.sl? l.slot = some { l with held := some ⟨l.nextN, b⟩, retryAt := none } ∧ t = { s1 with startLists := t.startLists })))

end Sys2Proof.Claims

/-- R54 to R56, R62, R64: an ACTIVE start list reads the packet at HEAD: a read that faults faults the list, a stamp that differs takes nothing
and is read again 1,000 ticks later, and a packet within its limits is held; a STOPPING one is STOPPED, and what it holds stays held; and a packet that is complete leaves its
start list once its actions are performed. The masking and the pending bits of MSI-X are the model's, from PCI Express (assumption 45). -/
def Obligations.PacketsAreReadAndComplete : Prop :=
  ReadsPacket .packetRead false ∧ ReadsPacket .packetStampRetry true ∧
  (∀ (s : State) l, s.sl? s.focus.slot = some l → l.st = .stopping → Leads .packetRead s (fun t =>
    t.sl? l.slot = some { l with st := .stopped } ∧ t = { s with startLists := t.startLists })) ∧
  (∀ (s : State) l q, s.cdRuns = true → s.sl? s.focus.slot = some l → l.st = .stopping → l.held = some q →
    Leads .heldPacketRetry s (fun t =>
      t.sl? l.slot = some { l with st := .stopped } ∧ t = { s with startLists := t.startLists })) ∧
  (∀ (s : State) l p st d, s.cdRuns = true → s.sl? s.focus.slot = some l → l.st ≠ .destroyed →
    l.pending.find? (fun p => p.n = s.focus.req) = some p → p.status = some (st, d) → p.crec = false → p.csem = false →
    Leads .packetCompletion s (fun t => t.sl? l.slot = some { l with pending := l.pending.filter (fun q => q.n ≠ p.n) } ∧
      (p.cmsi = true → s.msixMasked l.fn p.vec = false → t.msiSent = s.msiSent ++ [⟨l.fn, p.vec⟩]) ∧
      (p.cmsi = true → s.msixMasked l.fn p.vec = true → (l.fn, p.vec) ∈ t.msixPending ∧ t.msiSent = s.msiSent) ∧
      (p.cmsi = false → t.msiSent = s.msiSent)))

/-- R55, R57 to R61, R73 to R76: what each kind of packet does when it is admitted, by its own event or by another attempt at the one held: NOP
and FENCE complete; LAUNCH makes a task, READY if it waits for nothing; GRAPH stores nodes and PATCH rewrites one; REPLAY has its nodes enter;
SIGSEM and WAITSEM write and test a semaphore; COPY makes an engine task; and XLINV begins an invalidation. That an XLINV with COUNT 0 is DONE whatever
else it names is the model's reading of R58 (assumption 39). -/
def Obligations.PacketsAreAdmitted : Prop :=
  (∀ s k s1 m p, MayEnter s k s1 m p →
    (k = 0 → Enters .nopPacket s s1 m p.body (some (0, 0)) []) ∧
    (k = 8 → m.pending = [] → Enters .fencePacket s s1 m p.body (some (0, 0)) []) ∧
    (k = 3 → s1.graph? m.tid (pktField p.body 8 8 % 64) = none → Enters .replayPacket s s1 m p.body (some (6, 0)) []) ∧
    (k = 3 → ∀ g, s1.graph? m.tid (pktField p.body 8 8 % 64) = some g → Enters .replayPacket s s1 m p.body none g.nodes) ∧
    (k = 4 → s1.graph? m.tid (pktField p.body 8 8 % 64) = none → Enters .patch s s1 m p.body (some (6, 0)) []) ∧
    (k = 9 → pktField p.body 16 8 = 0 → Enters .xlinvPacket s s1 m p.body (some (0, 0)) []) ∧
    (k = 8 → m.pending ≠ [] → m.st = .active → Leads .fencePacket s (fun t =>
      t.sl? s.focus.slot = some m ∧ t = { s1 with startLists := t.startLists }))) ∧
  (∀ s s1 m p c d idx ws, MayEnter s 1 s1 m p → s1.ctx? m.tid = some c →
    s1.entryDie c ((pktTiles p.body).take 8) ((pktTiles p.body).drop 8) = d → s1.freeEntry d = some idx →
    s1.counts m.slot m.order ((pktTiles p.body).take 8) = some ws → Leads .launch s (fun t =>
      t.sl? s.focus.slot = some (entered m p.body none []) ∧ ∃ x, t.task? d idx = some x ∧ x.waits = ws ∧ x.ctx = m.tid ∧
      x.image = pktField p.body 8 8 ∧ x.args = pktField p.body 16 8 ∧ x.st = (if ws.all (fun w => w = 0) then .ready else .waiting))) ∧
  (∀ s s1 s2 m p bs, MayEnter s 2 s1 m p →
    s1.cdRead m.tid (pktField p.body 8 8) (128 * (bitsOf (pktField p.body 16 8) 16 10 + 1)) true = (.ok bs, s2) →
    Leads .graph s (fun t => ∃ g, t.graph? m.tid (pktField p.body 16 8 % 64) = some g ∧
      g.nodes.length = bitsOf (pktField p.body 16 8) 16 10 + 1)) ∧
  (∀ s s1 m p g, MayEnter s 4 s1 m p → s1.graph? m.tid (pktField p.body 8 8 % 64) = some g →
    bitsOf (pktField p.body 8 8) 16 10 < g.nodes.length → Leads .patch s (fun t =>
      t.sl? s.focus.slot = some (entered m p.body (some (0, 0)) []) ∧
      t.graph? m.tid (pktField p.body 8 8 % 64) = some { g with nodes := modNth (fun nd => patchNode nd
        (bitsOf (pktField p.body 8 8) 32 7) (bitsOf (pktField p.body 8 8) 40 6 + 1)
        (pktField p.body 64 (bitsOf (pktField p.body 8 8) 40 6 + 1))) (bitsOf (pktField p.body 8 8) 16 10) g.nodes })) ∧
  (∀ s s1 s2 m p r, MayEnter s 5 s1 m p → pktField p.body 24 8 = 0 →
    s1.cdWrite m.tid (pktField p.body 8 8) (toBytes 8 (pktField p.body 16 8)) true = (r, s2) → s2.sl? m.slot = some m →
    Enters .sigsem s s2 m p.body (some (statusOf r)) []) ∧
  (∀ s s1 s2 m p bs, MayEnter s 6 s1 m p → m.st = .active → s1.cdRead m.tid (pktField p.body 8 8) 8 true = (.ok bs, s2) →
    s2.sl? m.slot = some m → pktField p.body 24 8 = 0 →
    (pktField p.body 16 8 ≤ ofBytes bs → Enters .waitsem s s2 m p.body (some (0, 0)) [] ∧
      Enters .waitsemPoll s s2 m p.body (some (0, 0)) []) ∧
    (ofBytes bs < pktField p.body 16 8 → Leads .waitsem s (fun t =>
      t.sl? m.slot = some { m with retryAt := some (s1.ticks + 1000) } ∧ t = { s2 with startLists := t.startLists }))) ∧
  (∀ s s1 s2 m p c d idx, MayEnter s 7 s1 m p → s1.ctx? m.tid = some c → s1.homeDie c (pktField p.body 16 8) = (.ok d, s2) →
    s2.freeEntry (s2.entryDie c [] []) = some idx → s2.vqCount d m.tid .copy < 64 → Leads .copy s (fun t =>
      (∃ x, t.task? (s2.entryDie c [] []) idx = some x ∧ x.kind = 1 ∧ x.st = .running ∧ x.cmd = some s2.nextId ∧ x.image = m.packetVa) ∧
      ∃ k ∈ t.cmds, k.id = s2.nextId ∧ k.src = pktField p.body 8 8 ∧ k.dst = pktField p.body 16 8 ∧ k.len = pktField p.body 24 8 ∧
        k.die = d ∧ k.tid = m.tid)) ∧
  (∀ s s1 m p base size z, MayEnter s 9 s1 m p → pktField p.body 8 8 = base → 65536 * pktField p.body 16 8 = size →
    pktField p.body 24 8 = z → 0 < size → (base + size - 1) / 2 ^ 48 = base / 2 ^ 48 →
    s1.namedCtxs (bitsOf z 16 8) (if z.testBit 24 then none else some (z % 65536)) ≠ [] → Leads .xlinvPacket s (fun t =>
      t.sl? s.focus.slot = some (entered m p.body none []) ∧
      ∃ v ∈ t.invals, v.base = base ∧ v.size = size ∧ v.vmid = bitsOf z 16 8 ∧ v.packet = some (m.slot, m.nextN))) ∧
  (∀ s k s1 m p, MayEnter s k s1 m p →
    (k = 1 → exec .heldPacketRetry s = exec .launch s) ∧ (k = 6 → exec .heldPacketRetry s = exec .waitsem s) ∧
    (k = 7 → exec .heldPacketRetry s = exec .copy s) ∧ (k = 8 → exec .heldPacketRetry s = exec .fencePacket s) ∧
    (k = 0 → exec .heldPacketRetry s = exec .nopPacket s)) ∧
  (∀ (s : State) l n b rest c d idx ws, s.cdRuns = true → s.sl? s.focus.slot = some l → l.nodes = (n, b) :: rest →
    s.ctx? l.tid = some c → launchOk b = true → pktField b 120 4 = 0 →
    s.entryDie c ((pktTiles b).take 8) ((pktTiles b).drop 8) = d → s.freeEntry d = some idx →
    s.counts l.slot l.order ((pktTiles b).take 8) = some ws → Leads .replayNodeEntry s (fun t =>
      t.sl? l.slot = some { l with nodes := rest, order := l.order + 1 } ∧
      ∃ x, t.task? d idx = some x ∧ x.kind = 2 ∧ x.waits = ws ∧ x.seq = n ∧ x.image = pktField b 8 8))

/-! ### The placer, tasks and moves -/

namespace Sys2Proof.Claims

/-- A new lease stands at a rectangle, of a task and its image. -/
def Placed (t : State) (k : Task) (image : Image) (r : Rect) : Prop :=
  ∃ L ∈ t.leases, L.x = r.x ∧ L.y = r.y ∧ L.image = image ∧ L.tid = k.ctx ∧ L.die = k.die ∧ L.entry = k.idx

/-- The first message that a lease's placer holds. -/
def Asked (s : State) (L : Lease) (m : CtrlMsg) (rest : List CtrlMsg) : Prop :=
  s.lease? s.focus.site.lease = some L ∧ L.ctrl = m :: rest ∧ s.fabricStopped = false

/-- What a placement of a die goes on from: the leases that must leave their place have been asked to, and the die's SAVED tasks are READY
again (R77, R79, R223). -/
def readied (s : State) (die : Nat) : State :=
  (s.tasks.filter (fun x => x.die = die && x.st = .saved)).foldl (fun (s : State) x => s.becomeReady x.die x.idx) s.evacuate

/-- The placer runs, and a die's turn has come, with no placement of that die under way. -/
def Serves (s : State) (die : Nat) : Prop :=
  s.cdRuns = true ∧ die = s.dieTurn % max 1 s.fuses.nlive ∧ ∀ r ∈ (readied s die).resvs, r.die ≠ die

/-- The next die's turn. -/
def turned (s t : State) (die : Nat) : State := { t with dieTurn := (die + 1) % max 1 s.fuses.nlive }

/-- The placer has passed over some tasks, each one's SKIPS raised (R80). -/
def passed (s : State) (l : List Task) : State :=
  l.foldl (fun (s : State) k => s.modTask k.die k.idx (fun x => { x with skips := min 255 (k.skips + 1) })) s

/-- Each of some tasks at the head of the ready queue finds no place when it is tried, and lets those behind it be tried (R80). -/
def PassedOver (s : State) (pre : List Task) : Prop :=
  ∀ a x b, pre = a ++ x :: b → (passed s a).tryPlace x = none ∧ x.skips + 1 < 64

/-- A DRAIN victim has come to its deadline and still runs: its reservation, its lease, its task and its context (R98). -/
structure DrainEnds (s : State) (r : Resv) (L : Lease) (k : Task) (c : Ctx) : Prop where
  runs : s.cdRuns = true
  resv : s.resvs.find? (fun r => r.id = s.focus.req) = some r
  due : ∃ d, r.drains.find? (fun x => x.1 = s.focus.site.lease) = some (s.focus.site.lease, d) ∧ d ≤ s.fabric
  lease : s.lease? s.focus.site.lease = some L
  stays : L.move = none
  task : s.task? L.die L.entry = some k
  running : k.st = .running
  ctx : s.ctx? L.tid = some c

/-- The state in which that victim is no DRAIN victim any more. -/
def undrained (s : State) (r : Resv) : State :=
  { s with resvs := updWhere (fun x => x.id = r.id) (fun x => { x with
      drains := x.drains.filter (fun d => d.1 ≠ s.focus.site.lease) }) s.resvs }

/-- A checkpoint of a victim costs less than what is left of it (R98 row 2). -/
def CheaperToSave (s : State) (L : Lease) (k : Task) : Prop :=
  (imageCut L.image).isSome = true ∧ ∃ n, s.checkpointCost L = some n ∧ n < 1024 * k.rem

/-- What a reservation leaves. -/
def unreserved (s : State) (r : Resv) : State := { s with resvs := s.resvs.filter (fun x => x.id ≠ r.id) }

/-- What is taken for all of a die's share list: what its tenants have cut, and the base of a tenant with no active port (R93). -/
def keptBack (xs : List Share) : Nat := sumN (xs.map (fun x => x.cut + if x.ports.isEmpty then x.base else 0))

end Sys2Proof.Claims

/-- R77 to R80, R82, R89, R90 to R93, R97, R98, R189, R223, R236: the placer places the first task of a ready queue that fits, in a place on its firing
die, passes over those that do not and stops at one passed over 64 times, one placement at a time on each die; a lease that must leave its place is asked
to; a restore that fits nowhere is NO_FIT; a reserved window is filled once no lease stands in it, or given up if a site of it is retired; a DRAIN victim at
its deadline is decided again by rows 2 to 4, and a row-4 victim is killed; a task whose lease or command is done ends; and a lap boundary refills the ports
of each die from its budget and pool and publishes OLDEST. -/
def Obligations.TasksArePlacedEndedAndPaced : Prop :=
  (∀ (s s1 : State) die pre k rest, Serves s die → (readied s die).readyQueue die = pre ++ k :: rest → PassedOver (readied s die) pre →
    (passed (readied s die) pre).tryPlace k = some s1 → exec .placerPlacement s = .next (turned s s1 die)) ∧
  (∀ (s : State) die pre, Serves s die → (readied s die).readyQueue die = pre → PassedOver (readied s die) pre →
    exec .placerPlacement s = .next (turned s (passed (readied s die) pre) die)) ∧
  (∀ (s : State) die pre k rest, Serves s die → (readied s die).readyQueue die = pre ++ k :: rest → PassedOver (readied s die) pre →
    (passed (readied s die) pre).tryPlace k = none → 63 ≤ k.skips →
    exec .placerPlacement s = .next (turned s (passed (readied s die) (pre ++ [k])) die)) ∧
  (∀ (s : State) die r, s.cdRuns = true → die = s.dieTurn % max 1 s.fuses.nlive → r ∈ (readied s die).resvs → r.die = die →
    exec .placerPlacement s = .next (turned s (readied s die) die)) ∧
  (∀ s : State, (∀ L ∈ s.leases, s.mayLeave L = false) → s.evacuate = s) ∧
  (∀ (s : State) pre L c k r, s.leases = pre ++ [L] → (∀ M ∈ pre, s.mayLeave M = false) → s.mayLeave L = true →
    s.ctx? L.tid = some c → s.task? L.die L.entry = some k → s.onDie L.image s.takenRects (s.firingDie c k) = some r →
    s.evacuate = s.requestMove L.id (.move r.x r.y) none) ∧
  (∀ (s : State) k c st detail s1, s.ctx? k.ctx = some c → s.loadTask c k = (.reject st detail, s1) →
    s.tryPlace k = some (s1.finishTask k false st detail)) ∧
  (∀ (s s1 : State) k c, s.ctx? k.ctx = some c → s.loadTask c k = (.wait, s1) → s.tryPlace k = none) ∧
  (∀ (s s1 : State) k c image args r, s.ctx? k.ctx = some c → s.loadTask c k = (.ok image args none, s1) →
    s1.onDie image s1.takenRects (s1.firingDie c k) = some r → ∃ t, s.tryPlace k = some t ∧ Placed t k image r) ∧
  (∀ (s s1 : State) k c image args b r, s.ctx? k.ctx = some c → s.loadTask c k = (.ok image args (some b), s1) →
    s1.fitsAtAll image = true → s1.onDie image s1.takenRects (s1.firingDie c k) = some r →
    s.tryPlace k = some (s1.settleTask k image args (some b) r (s1.heldPriority c k))) ∧
  (∀ (s s1 : State) k c image args b, s.ctx? k.ctx = some c → s.loadTask c k = (.ok image args (some b), s1) →
    s1.fitsAtAll image = false → s.tryPlace k = some (s1.finishTask k false 2 13)) ∧
  (∀ (s s1 : State) k c image args r, s.ctx? k.ctx = some c → s.loadTask c k = (.ok image args none, s1) →
    s1.onDie image s1.takenRects (s1.firingDie c k) = none → s1.straddling image (s1.firingDie c k) = some r →
    ∃ t, s.tryPlace k = some t ∧ Placed t k image r) ∧
  (∀ (s s1 : State) k c image args r ds, s.ctx? k.ctx = some c → s.loadTask c k = (.ok image args none, s1) →
    s1.onDie image s1.takenRects (s1.firingDie c k) = none → s1.straddling image (s1.firingDie c k) = none →
    s1.compaction k image (s1.firingDie c k) = some (r, ds) → ∃ t q, s.tryPlace k = some t ∧ t.resvs = s1.resvs ++ [q] ∧
      q.window = r ∧ q.dests = ds ∧ q.die = k.die ∧ q.idx = k.idx) ∧
  (∀ (s : State) r k, s.cdRuns = true → s.resvs.find? (fun r => r.id = s.focus.req) = some r →
    (∀ L ∈ s.leases, L.rect.meets r.window = false) → (∀ c ∈ r.window.cells, s.barred c.1 c.2 = false) →
    (∀ d ∈ r.window.dies, s.running d = true) → s.task? r.die r.idx = some k → s.leaseOf k = none →
    exec .reservedWindowPlace s = .next ((unreserved s r).settleTask k r.image r.args r.save r.window r.heldPrio) ∧
    (r.save = none → Leads .reservedWindowPlace s (fun t => Placed t k r.image r.window))) ∧
  (∀ (s : State) r k L, s.cdRuns = true → s.resvs.find? (fun r => r.id = s.focus.req) = some r →
    (∀ L ∈ s.leases, L.rect.meets r.window = false) → (∀ c ∈ r.window.cells, s.barred c.1 c.2 = false) →
    (∀ d ∈ r.window.dies, s.running d = true) → s.task? r.die r.idx = some k → s.leaseOf k = some L →
    exec .reservedWindowPlace s = .next ((unreserved s r).requestMove L.id (.move r.x r.y) none)) ∧
  (∀ (s : State) r c, s.cdRuns = true → s.resvs.find? (fun r => r.id = s.focus.req) = some r →
    (∀ L ∈ s.leases, L.rect.meets r.window = false) → c ∈ r.window.cells → s.barred c.1 c.2 = true →
    exec .reservedWindowPlace s = .next (s.dropResv r.id)) ∧
  (∀ (s : State) r id d, s.cdRuns = true → s.resvs.find? (fun r => r.id = s.focus.req) = some r →
    r.drains.find? (fun x => x.1 = s.focus.site.lease) = some (id, d) → d ≤ s.fabric → s.lease? id = none →
    Leads .drainDeadline s (fun t => t = { s with resvs := t.resvs } ∧
      (t.resvs.find? (fun q => q.id = r.id)).map Resv.drains = some (r.drains.filter (fun x => x.1 ≠ id)))) ∧
  (∀ s r L k c, DrainEnds s r L k c → CheaperToSave (undrained s r) L k →
    exec .drainDeadline s = .next ((undrained s r).requestMove L.id (.checkpoint none) (some r.id))) ∧
  (∀ s r L k c, DrainEnds s r L k c → ¬CheaperToSave (undrained s r) L k → k.cls = 1 →
    exec .drainDeadline s = .next ((undrained s r).requeueTask k L.id)) ∧
  (∀ s r L k c, DrainEnds s r L k c → ¬CheaperToSave (undrained s r) L k → k.cls ≠ 1 → (undrained s r).checkpointCost L = none →
    exec .drainDeadline s = .next ((undrained s r).killTask k 0xFFFFFFFF)) ∧
  (∀ s r L k c, DrainEnds s r L k c → ¬CheaperToSave (undrained s r) L k → k.cls ≠ 1 → (undrained s r).checkpointCost L ≠ none →
    exec .drainDeadline s = .next ((undrained s r).requestMove L.id (.checkpoint (some (s.fabric + 2 * c.drain))) (some r.id))) ∧
  (∀ (s : State) L m d k, s.cdRuns = true → s.lease? s.focus.site.lease = some L → L.move = some m → m.job = .checkpoint (some d) →
    m.step < 2 → d ≤ s.fabric → s.task? L.die L.entry = some k →
    Leads .checkpointDeadline s (fun t => t.task? L.die L.entry = none)) ∧
  (∀ (s : State) k L, s.task? s.focus.die s.focus.idx = some k → k.cmd = none → s.leaseOf k = some L → L.baton = some 0 →
    (∀ p ∈ L.pes, p.batonDone = true) → s.sinksReached L 0 = true → (∀ p ∈ s.leasePorts L.id, p.settled 0 = true) →
    L.heldTraps = [] → (∀ x ∈ s.traps, x.lease ≠ some L.id) →
    Leads .taskCompletion s (fun t => t.task? s.focus.die s.focus.idx = none)) ∧
  (∀ (s s1 : State) k id c, s.task? s.focus.die s.focus.idx = some k → k.cmd = some id → s.cmd? id = some c →
    s1 = { s with cmds := s.cmds.filter (fun x => x.id ≠ id) } →
    (c.stop = .done → exec .taskCompletion s = .next (s1.finishTask k false 0 0)) ∧
    (∀ x, c.stop = .failed x → exec .taskCompletion s = .next (s1.finishTask k false 5 x)) ∧
    (c.stop = .killed → exec .taskCompletion s = .next (s1.finishTask k true 4 cDieDown))) ∧
  (∀ (s s1 : State) l1 b l2 budget pool xs, s.power = .run → s.uncoreStopped = false → 1024 * (s.lap + 1) ≤ s.fabric →
    s.budgets = l1 ++ b :: l2 → (∀ x ∈ l1 ++ l2, x.die ≠ b.die) → s1 = l1.foldl (fun (s : State) b => s.refill b) s →
    budget = b.next.getD b.b → pool = sumN ((s1.lapPorts b.die).map Port.bucket) + b.carry → xs = s1.shares b budget pool →
    Leads .lapBoundary s (fun t => t.lap = s.lap + 1 ∧
      (∃ x ∈ t.budgets, x.die = b.die ∧ x.b = budget ∧ x.next = none ∧ x.carry = keptBack xs + pool - sumN (xs.map Share.extra)) ∧
      (∀ p ∈ t.ports, p.bound = true → p.die = b.die → p.frozen = false → p.issued = false ∧
        p.bucket = lookupD (xs.flatMap Share.grants) p.id 0))) ∧
  (∀ (s : State), s.power = .run → s.uncoreStopped = false → 1024 * (s.lap + 1) ≤ s.fabric → Leads .lapBoundary s (fun t =>
    (∀ p ∈ s.parties, p.live = true → t.oldest ≤ p.began) ∧
    ((∃ p ∈ s.parties, p.live = true ∧ t.oldest = p.began) ∨ ((∀ p ∈ s.parties, p.live = false) ∧ t.oldest = s.ticks))))

/-- R127, R132, R227, R283, R358: the messages that a lease's PEs send to the placer, in order: a decision for a plane that the image defines
waits for its invocation, RETIRE fixes the last one, and CROPEN opens a region if none is open; each is answered where it was sent. A switch makes
the pending plane current. -/
def Obligations.ThePlacerAnswersPEs : Prop :=
  (∀ (s : State) L x y k plane rest b, Asked s L (.decide x y k plane) rest → imageDefines L.image plane = true →
    exec (.decisionToken b) s = .next ((((s.modLease L.id (fun _ => { L with ctrl := rest })).modLease L.id (fun M =>
      M.decide plane (s.nextEoi L) b)).setHolds L.id).answer ⟨L.id, x, y⟩ k (fun _ => n64Tok (s.nextEoi L)))) ∧
  (∀ (s : State) L x y k plane rest b, Asked s L (.decide x y k plane) rest → imageDefines L.image plane = false →
    exec (.decisionToken b) s = .next ((s.modLease L.id (fun _ => { L with ctrl := rest })).answer ⟨L.id, x, y⟩ k
      (fun a => a.ownErr cHandlerEmpty))) ∧
  (∀ (s : State) L x y k rest, Asked s L (.retire x y k) rest →
    exec .retireMessage s = .next (((s.modLease L.id (fun _ => { L with ctrl := rest, retireAt := some (L.retireAt.getD (s.nextEoi L))
      })).completeInputs L.id).answer ⟨L.id, x, y⟩ k (fun _ => n64Tok (L.retireAt.getD (s.nextEoi L))))) ∧
  (∀ (s : State) L x y k redo n v rest, Asked s L (.cropen x y k redo n v) rest → L.region = none →
    bitsOf v.toNat 8 7 < L.w → bitsOf v.toNat 16 6 < L.h → imageDefines L.image (bitsOf v.toNat 0 2) = true →
    exec .cropenMessage s = .next ((s.modLease L.id (fun _ => { L with ctrl := rest, region := some ⟨n, redo, bitsOf v.toNat 0 2,
      bitsOf v.toNat 8 7, bitsOf v.toNat 16 6, bitsOf v.toNat 24 4, s.nextBegin L, none, false, false⟩ })).answer ⟨L.id, x, y⟩ k
      (fun _ => n64Tok (s.nextBegin L)))) ∧
  (∀ (s : State) L x y k redo n v rest, Asked s L (.cropen x y k redo n v) rest → L.region ≠ none →
    exec .cropenMessage s = .next ((s.modLease L.id (fun _ => { L with ctrl := rest })).answer ⟨L.id, x, y⟩ k
      (fun a => a.ownErr cSwTrap))) ∧
  (∀ (s : State) L plane j, s.lease? s.focus.site.lease = some L → L.pend = some (plane, j) → s.invocationOver L j = true →
    s.leaseRuns L = true → L.baton = none → (∀ r, L.retireAt = some r → j < r) → ∃ s1 : State, exec .planeSwitch s =
      .next (((s1.setHolds L.id).completeInputs L.id).progress L.id) ∧ (s1.lease? L.id) = some (L.switchTo plane) ∧
      (L.switchTo plane).plane = plane ∧ s1 = { s with leases := s1.leases, ports := s1.ports })

/-- R83 to R87, R98, R99, R108, R129, R133, R134, R368: a move fixes its zone after an unwind, injects its batons once every input port holds, takes
the lease to its destination or into a record once they have passed, and is cancelled where the boundary they would be injected at is the lease's last, and is abandoned when they have not passed in 2^20 cycles, unless a checkpoint waits for loads that a fault holds; a standing checkpoint goes into the older slot, and the next one due follows it; a site with the
current baton at every input forwards it. -/
def Obligations.LeasesMoveAndAreSaved : Prop :=
  (∀ (s : State) L m z, s.cdRuns = true → s.fabricStopped = false → s.lease? s.focus.site.lease = some L → L.move = some m →
    L.unwind = none → L.parked = none → m.step = 0 → imageNextZone L.image (s.nextEoi L) = some z →
    exec .relocationStart s = .next ((s.modLease L.id (fun L => { L with move := some { m with step := 1, zone := z } })).setHolds L.id)) ∧
  (∀ (s : State) L m, s.cdRuns = true → s.fabricStopped = false → s.lease? s.focus.site.lease = some L → L.move = some m →
    L.unwind = none → L.parked = none → m.step = 1 → s.allHeld L.id = true → s.lastBoundary L = false →
    exec .relocationStart s = .next ((s.modLease L.id (fun L => { L with
      move := some { m with step := 2, since := s.fabric } })).injectBatons L.id m.job.baton)) ∧
  (∀ (s : State) L m, s.cdRuns = true → s.fabricStopped = false → s.lease? s.focus.site.lease = some L → L.move = some m →
    L.unwind = none → L.parked = none → m.step = 1 → s.allHeld L.id = true → s.lastBoundary L = true →
    exec .relocationStart s = .next (((s.cancelMove L.id).setHolds L.id).completeInputs L.id)) ∧
  (∀ (s : State) L m, s.cdRuns = true → s.lease? s.focus.site.lease = some L → L.move = some m → m.step = 2 →
    m.since + 1048576 ≤ s.fabric → ((∀ d, m.job ≠ .checkpoint d) ∨ ∀ p ∈ s.leasePorts L.id, p.fhold = false) →
    exec .relocationTimeout s = .next (s.abandonMove L.id)) ∧
  (∀ (s : State) L m d p, s.lease? s.focus.site.lease = some L → L.move = some m → m.job = .checkpoint d → p ∈ s.leasePorts L.id →
    p.fhold = true → exec .relocationTimeout s = .next s) ∧
  (∀ (s : State) L m x y, s.cdRuns = true → s.fabricStopped = false → s.lease? s.focus.site.lease = some L → L.move = some m →
    m.job = .move x y → s.drainedFor L = true → (∀ d ∈ (⟨x, y, L.w, L.h⟩ : Rect).dies, s.running d = true) →
    (∀ c ∈ (⟨x, y, L.w, L.h⟩ : Rect).cells, s.barred c.1 c.2 = false) →
    (∀ p ∈ seamPairs (⟨x, y, L.w, L.h⟩ : Rect).dies, L.seamUnits x y p.1 p.2 ≠ 0 → s.seamRunning p.1 p.2 = true) → L.heldTraps = [] → Leads .relocationDrained s (fun t =>
      ∃ M, t.lease? L.id = some M ∧ M.x = x ∧ M.y = y ∧ M.move = none ∧ M.baton = none ∧ M.lastMove = s.fabric + 1 ∧ M.w = L.w ∧
        M.h = L.h ∧ M.image = L.image ∧ M.inv = L.inv)) ∧
  (∀ (s s1 s2 : State) L m k c i va, s.cdRuns = true → s.fabricStopped = false → s.lease? s.focus.site.lease = some L →
    L.move = some m → (∃ d, m.job = .checkpoint d) → s.task? L.die L.entry = some k → s.ctx? L.tid = some c → s.quietFor L = true →
    s.openSlot c (s.recordSize L) = some (i, va) →
    (s.makeRecord L).2.cdWrite c.tid va (s.makeRecord L).1.bytes false = (.ok (), s1) →
    s1.cdWrite c.tid (c.dirVa i) (dirEntry k (s.makeRecord L).1.bytes.length) false = (.ok (), s2) →
    exec .checkpointDrained s = .next (s2.leaveSaved L i (s.makeRecord L).1) ∧
    ∀ M ∈ (s2.leaveSaved L i (s.makeRecord L).1).leases, M.id ≠ L.id) ∧
  (∀ (s : State) L m va n, s.cdRuns = true → s.fabricStopped = false → s.lease? s.focus.site.lease = some L → L.move = some m →
    m.job = .standing va n → s.quietFor L = true → (∀ p ∈ s.leasePorts L.id, p.settled 1 = true) → n < s.recordSize L + 8 →
    exec .standingCheckpoint s = .next (((s.forgetStanding L.tid va).forgetStanding L.tid (wrapN 57 ((va + n : Nat) : Int))).endStanding
      L m.zone va)) ∧
  (∀ (s s0 s1 s2 : State) L m va n slot b, s.cdRuns = true → s.fabricStopped = false → s.lease? s.focus.site.lease = some L →
    L.move = some m → m.job = .standing va n → s.quietFor L = true → (∀ p ∈ s.leasePorts L.id, p.settled 1 = true) →
    s.recordSize L + 8 ≤ n → slot = s.olderSlot L.tid va n → (s.forgetStanding L.tid slot).makeRecord L = (b, s0) →
    s0.cdWrite L.tid slot b.bytes false = (.ok (), s1) →
    s1.cdWrite L.tid (wrapN 57 ((slot + b.bytes.length : Nat) : Int)) (toBytes 8 m.zone) false = (.ok (), s2) →
    exec .standingCheckpoint s = .next (({ s2 with
      standing := (L.tid, slot, m.zone, b.bytes.length) :: s2.standing
      keep := { s2.keep with saves := b :: s2.keep.saves } } : State).endStanding L m.zone va)) ∧
  (∀ (s : State) L pe job, s.fabricStopped = false → s.lease? s.focus.site.lease = some L →
    L.pe? s.focus.site.dx s.focus.site.dy = some pe → L.baton = some job → pe.batonDone = false →
    (∀ i ∈ L.markIns pe, ∃ k, pe.head i = some k ∧ k.isBaton = true ∧ L.current k = true) → s.mayForward L pe job = true →
    s.outsFree L 1 (L.markOuts s.focus.site pe) = true → exec .batonForward s =
      .next (((s.modPE s.focus.site (fun q => { (L.markIns pe).foldl (fun (q : PE) i => q.popIn L.plane i) q with
        batonDone := true })).pushAll L (batonTok job L.batonNo) (L.markOuts s.focus.site pe)).progress L.id))

/-! ### The fabric, its units and the patterns -/

namespace Sys2Proof.Claims

/-- The lease, the PE and its place, of the site in focus. -/
def AtFocus (s : State) (L : Lease) (pe : PE) : Prop :=
  s.lease? s.focus.site.lease = some L ∧ L.pe? s.focus.site.dx s.focus.site.dy = some pe

/-- The channel in focus, from its producer `pe` to input `i` of its consumer `q` at relative coordinates x and y. -/
def Channel (s : State) (L : Lease) (pe : PE) (x y i : Nat) (q : PE) : Prop :=
  AtFocus s L pe ∧ s.fabricStopped = false ∧ L.consumer L.plane s.focus.site.dx s.focus.site.dy s.focus.ch = some (x, y, i) ∧
    L.pe? x y = some q ∧ i < 8 ∧ s.focus.ch < 8

/-- The element that a load pattern's turn issues, of a pattern that has no zero count and no counter past its count. -/
def FeedsOne (s t : State) (p : Port) (d : BitVec 384) (l : Live) : Prop :=
  ∃ q r, t.port? p.id = some q ∧ r ∈ q.queue ∧ r.id = s.nextId ∧ r.op = .load false ∧ r.va = l.va d ∧ r.size = 2 ^ patEsize d ∧
    r.party = p.party ∧ r.inv = l.eois

end Sys2Proof.Claims

/-- R119, R123 to R126, R129, R130, R140, R147: a token crosses its channel where a slot is free and every seam it crosses carries traffic, a foreign firewall putting its sender's ERR in its place, and its credit comes back; a PE selects a handler and
its instance ends at quiescence, its ERRs trapped; EOI processing runs the EOI entry first and then passes the markers on; GAMMA and WSREWRITE
act on their CU; a lease that makes no progress for 2^24 cycles traps once. That a token whose channel crosses a seam that carries no traffic waits there is the model's reading (DEDUCED, assumption 47). -/
def Obligations.TheFabricMovesTokensAndRunsHandlers : Prop :=
  (∀ s L pe x y i q k rest, Channel s L pe x y i q → (pe.outEnd s.focus.ch).q = k :: rest → (pe.outEnd s.focus.ch).credits ≠ 0 →
    s.channelUp L pe.dx pe.dy s.focus.ch = true → L.walled L.plane pe.dx pe.dy s.focus.ch = false → k.kind ≠ .cfg ∨ cfgOk q.kind k = true → Leads (.tokenArrival false) s (fun t =>
      (t.pe? s.focus.site).map (fun a => a.outEnd s.focus.ch) = some ⟨rest, (pe.outEnd s.focus.ch).credits - 1⟩ ∧
      (t.pe? ⟨s.focus.site.lease, x, y⟩).map (fun b => (b.inEnd i).q) = some ((q.inEnd i).q ++ [k]) ∧
      t = { s with leases := t.leases })) ∧
  (∀ s L pe x y i q k rest, Channel s L pe x y i q → (pe.outEnd s.focus.ch).q = k :: rest → (pe.outEnd s.focus.ch).credits ≠ 0 →
    s.channelUp L pe.dx pe.dy s.focus.ch = true → L.walled L.plane pe.dx pe.dy s.focus.ch = false → ∃ u : State, exec (.tokenArrival true) s = .next (u.pipeAt L x y) ∧
      (u.pe? ⟨s.focus.site.lease, x, y⟩).map (fun b => (b.inEnd i).q) =
        some ((q.inEnd i).q ++ [L.siteErr q cPipeCheck k.vec]) ∧ u = { s with leases := u.leases }) ∧
  (∀ s L pe x y i q k rest bad, Channel s L pe x y i q → (pe.outEnd s.focus.ch).q = k :: rest → (pe.outEnd s.focus.ch).credits ≠ 0 →
    s.channelUp L pe.dx pe.dy s.focus.ch = true → L.walled L.plane pe.dx pe.dy s.focus.ch = true →
    ∃ u : State, exec (.tokenArrival bad) s = .next (u.pipeAt L pe.dx pe.dy) ∧
      (u.pe? ⟨s.focus.site.lease, x, y⟩).map (fun b => (b.inEnd i).q) =
        some ((q.inEnd i).q ++ [L.siteErr pe cPipeCheck k.vec]) ∧ u = { s with leases := u.leases }) ∧
  (∀ s L pe x y i q bad, Channel s L pe x y i q → s.channelUp L pe.dx pe.dy s.focus.ch = false →
    exec (.tokenArrival bad) s = .next s) ∧
  (∀ s L pe x y i q, Channel s L pe x y i q → (q.inEnd i).freed ≠ 0 →
    s.channelUp L s.focus.site.dx s.focus.site.dy s.focus.ch = true → Leads .creditReturn s (fun t =>
    (t.pe? s.focus.site).map (fun a => (a.outEnd s.focus.ch).credits) = some ((pe.outEnd s.focus.ch).credits + 1) ∧
    (t.pe? ⟨s.focus.site.lease, x, y⟩).map (fun b => b.inEnd i) = some { q.inEnd i with freed := (q.inEnd i).freed - 1 } ∧
    t = { s with leases := t.leases })) ∧
  (∀ s L pe pr k, AtFocus s L pe → pe.inst = none → s.leaseRuns L = true → L.select pe = some (pr, k) →
    L.runnable pe k = true ∧ Leads .handlerSelect s (fun t =>
      (t.pe? s.focus.site).map PE.inst = some (some ⟨k, false, [], [], [], false⟩) ∧ t = { s with leases := t.leases })) ∧
  (∀ s L pe i, AtFocus s L pe → pe.inst = some i → s.leaseRuns L = true → L.quiescent s.focus.site pe i = true →
    L.region = none → L.unwind = none → Leads .handlerQuiescence s (fun t =>
      (t.pe? s.focus.site).map PE.inst = some none ∧
      t.traps = s.traps ++ (i.ops.filter (fun o => o.2.kind = .err)).map (fun o => Trap.ofErr L o.2.low) ∧
      t = { s with leases := t.leases, traps := t.traps })) ∧
  (∀ s L pe ns k, AtFocus s L pe → L.eoiHeads pe = some ns → pe.inst = none → s.leaseRuns L = true → pe.eoiRan = false →
    pe.eoiEntry L.plane = some k → Leads .eoiProcessing s (fun t =>
      (t.pe? s.focus.site).map PE.inst = some (some ⟨k, true, [], [], [], false⟩) ∧
      (t.pe? s.focus.site).map PE.eoiRan = some true ∧ t = { s with leases := t.leases })) ∧
  (∀ s L pe n ns, AtFocus s L pe → L.eoiHeads pe = some (n :: ns) → (∀ m ∈ ns, m = n) → pe.inst = none → s.leaseRuns L = true →
    pe.eoiRan = true ∨ pe.eoiEntry L.plane = none → s.outsFree L 1 (L.markOuts s.focus.site pe) = true →
    exec .eoiProcessing s = .next ((((((s.modPE s.focus.site (fun pe => (L.markIns pe).foldl (fun (q : PE) i =>
      q.popIn L.plane i) pe)).pushAll L (eoiTok n) (L.markOuts s.focus.site pe)).modPE s.focus.site (fun pe => { pe with
      inv := pe.inv + 1, eoiRan := false })).modLease L.id (fun M => { M with
      inv := (minN? ((M.pes.filter M.runsEoi).map PE.inv)).getD M.inv })).endInvocations s L.id).progress L.id)) ∧
  (∀ (s : State) L pe k, s.unitOp? 3 = some (L, pe, k) → (∀ n, n < 4 → (pe.cu.tile n).busy = false) → Leads .gamma s (fun t =>
    (t.pe? s.focus.site).map (fun q => q.cu.decayg) = some (k.low.setWidth 32) ∧ t = { s with leases := t.leases })) ∧
  (∀ (s : State) L pe k d, s.unitOp? 2 = some (L, pe, k) → k.low.toNat = d → pe.cu.reads (d.testBit 52) = false →
    exec .wsrewrite s = .next ((s.modPE s.focus.site (fun pe => { pe.popIn L.plane s.focus.ch with
      cu := (pe.popIn L.plane s.focus.ch).cu.modBuf (d.testBit 52) (fun w => w.putScales (bitsOf d 40 7)
        ((List.range (bitsOf d 48 2 + 1)).map (fun k => bitsOf d (8 * k) 8))) })).progress L.id)) ∧
  (∀ (s : State) L, s.lease? s.focus.site.lease = some L → 16777216 ≤ L.stall → L.stalled = false → L.region = none → L.unwind = none →
    Leads .stallWatchdog s (fun t => (∃ x, t.traps = s.traps ++ [x] ∧ x.lease = some L.id ∧ x.tid = L.tid ∧ errCause x.err = 26) ∧
      (t.lease? L.id).map Lease.stalled = some true ∧ (t.lease? L.id).map Lease.stall = some 0 ∧
      t = { s with leases := t.leases, traps := t.traps }))

/-- R144 to R146, R155, R217, R218, R222, R223, R261, R322 to R324: a vector enters the array of a CU and leaves it downwards, or at the bottom row to the
head batch; an AG's pattern issues its next element as a load of its port; and what a checker finds becomes PIPE_CHECK, a count, or poison. That
the operation of a mismatch makes neither its result nor its register writes, and which opcodes a checker watches, are the model's reading
(DEDUCED, assumption 51). -/
def Obligations.RegionsPatternsAndCheckersAct : Prop :=
  (∀ (s : State) c a p, s.sysCu? = some c → c.activation? = some a → c.above? = some p → c.pe.cu.array.length < 4 →
    c.cuAt? c.i (c.j + 1) = none ∨ c.region.n ≤ c.j + 1 ∨ (∃ r, c.cuAt? c.i (c.j + 1) = some r ∧ r.acts = []) →
    Leads .systolicActivation s (fun t =>
      (t.pe? s.focus.site).map (fun q => q.cu.array.length) = some (c.pe.cu.array.length + 1) ∧ t = { s with leases := t.leases })) ∧
  (∀ (s : State) c v rest below, s.sysCu? = some c → c.pe.cu.array = v :: rest → c.i + 1 < c.region.m → c.cuAt? (c.i + 1) c.j = some below →
    below.chain = [] → Leads .systolicResult s (fun t =>
      (t.pe? s.focus.site).map (fun q => q.cu.array) = some rest ∧
      (t.pe? (c.siteOf (c.i + 1) c.j)).map (fun q => q.cu.chain) = some [v.down.1] ∧ t = { s with leases := t.leases })) ∧
  (∀ (s : State) c v rest b bs, s.sysCu? = some c → c.pe.cu.array = v :: rest → c.region.m ≤ c.i + 1 → c.pe.cu.batches = b :: bs →
    b.mode = 0 → c.lease.unwind = none → 2 ≤ c.pe.outFree c.lease.plane 7 → Leads .systolicResult s (fun t =>
      (t.pe? s.focus.site).map (fun q => (q.outEnd 7).q.length) = some ((c.pe.outEnd 7).q.length + 2) ∧
      t = { s with leases := t.leases })) ∧
  (∀ (s : State) c v rest b bs, s.sysCu? = some c → c.pe.cu.array = v :: rest → c.region.m ≤ c.i + 1 → c.pe.cu.batches = b :: bs →
    b.mode ≠ 0 → c.pe.holdsTile b.tile = false → v.err = none → exec .systolicResult s =
      .next (((sysAccumulate c b v (s.modCu s.focus.site (fun u => { u with array := rest }))).modCu s.focus.site
        Cu.countResult).progress c.lease.id)) ∧
  (∀ (s : State) p L ag k d l, s.portOf? s.focus.site .ag = some p → s.agOf p = some (L, ag) → s.fabricStopped = false →
    s.slotsDue L (s.nextEoi L) = [] → ((List.range 4).map (fun i => (p.lastPat + 1 + i) % 4)).findSome? (fun k =>
      (s.patsOf p).find? (fun x => x.1 = k && s.patCan p k x.2.1 x.2.2.1 x.2.2.2)) = some (k, d, false, l) → patDir d = 0 →
    exec .patternIssue s = .next (((((((s.modPort p.id (fun p => { p with lastPat := k })).patLoad L ag p k d false l).endInvocations
      s L.id).setHolds L.id).completeInputs L.id)).progress L.id)) ∧
  (∀ (s : State) p q L ag k d l site, s.port? p.id = some q → p.owner = .mu site → l.over d = none →
    l.va d % 2 ^ patEsize d = 0 → FeedsOne s (s.patLoad L ag p k d false l) p d l) ∧
  (∀ (s : State) die array, s.power ≠ .off → Leads (.checkerMismatch (.corrected die array)) s (fun t =>
    t = { s with errCounts := t.errCounts } ∧
    (t.errCounts.find? (fun c => c.1 = die && c.2.1 = array)).map (fun c => c.2.2) =
      some ((((s.errCounts.find? (fun c => c.1 = die && c.2.1 = array)).map (fun c => c.2.2.1)).getD 0) + 1,
        ((s.errCounts.find? (fun c => c.1 = die && c.2.1 = array)).map (fun c => c.2.2.2)).getD 0))) ∧
  (∀ (s : State) die array pa, s.power ≠ .off → s.validPa pa = true →
    Leads (.checkerMismatch (.uncorrectable die array pa)) s (fun t => lineOf pa ∈ t.eccFailed ∧
      t = { s with errCounts := t.errCounts, eccFailed := t.eccFailed })) ∧
  (∀ (s : State) pa, s.power ≠ .off → s.validPa pa = true → Leads (.checkerMismatch (.integrity pa)) s (fun t =>
    lineOf pa ∈ t.tagFailed ∧ t = { s with tagFailed := t.tagFailed })) ∧
  (∀ (s : State) x dx dy off L pe, s.power ≠ .off → s.lease? x = some L → L.pe? dx dy = some pe →
    Leads (.checkerMismatch (.scratch x dx dy off)) s (fun t => t = { s with errCounts := t.errCounts, leases := t.leases } ∧
      (t.pe? ⟨x, dx, dy⟩).map (fun p => p.mu.broken off 1) = some true)) ∧
  (∀ (s : State) x dx dy k i c, decodeWord (s.slotWord ⟨x, dx, dy⟩ k) = .ok i →
    checkedOp ((s.slotWord ⟨x, dx, dy⟩ k).extractLsb' 48 8).toNat = true → Lands i.head →
    Fires i { s with focus := Focus.slotAt ⟨x, dx, dy⟩ k } c → ∃ u, exec (.checkerMismatch (.pipe x dx dy k)) s =
      .next (u.pipeAt c.lease c.site.dx c.site.dy) ∧ Ran (Deed.sending { s with focus := Focus.slotAt ⟨x, dx, dy⟩ k } c i
        (both i.head (c.ownErr cPipeCheck))) { s with focus := Focus.slotAt ⟨x, dx, dy⟩ k } c u)

/-! ### Ports, homes, translation, engines and sync units -/

namespace Sys2Proof.Claims

/-- The port and the request in focus. -/
def PortReq (s : State) (p : Port) (r : Req) : Prop := s.port? s.focus.port = some p ∧ p.req? s.focus.req = some r

/-- The port in focus, and a request of its retire queue, as a reply reaches it while the fabric runs. -/
def AtPort (s : State) (p : Port) (r : Req) : Prop :=
  s.port? s.focus.port = some p ∧ p.queue.find? (fun r => r.id = s.focus.req) = some r ∧ s.fabricStopped = false

/-- The status of a request of a port in a state. -/
def statusIn (t : State) (p : Port) (id : Nat) : Option ReqStatus := ((t.port? p.id).bind (fun p => p.req? id)).map Req.status

/-- Nothing but a retire-queue or side-log entry's freeing differs at the port. -/
def Freed (t : State) (p : Port) (id : Nat) : Prop :=
  ∃ q, t.port? p.id = some q ∧ (∀ r ∈ q.queue, r.id ≠ id) ∧ (∀ e ∈ q.sideLog, e.req.id ≠ id)

/-- A request of a port that goes on from its translation to its home, with nothing in its way: its leaf permits it, the links to its
line's die carry traffic, its tenant owns the frame, and a slice's queue there has room (R153, R165, R169, R175). -/
structure Homed (s : State) (p : Port) (r : Req) (c : Ctx) (td : Nat) (l : Leaf) : Prop where
  req : PortReq s p r
  up : s.uncoreStopped = false
  tries : r.status.tries = true
  turn : s.inTurn p r = true
  ctx : s.ctx? p.ctx = some c
  here : vaPkg r.va = s.pkgNo
  code : deadCode r.va = false
  die : c.xlatDie r.va = some td
  leaf : r.leaf = some l
  may : l.permits r.op = true
  home : (l.loc c.tid r.va).die < 4
  way : td = (l.loc c.tid r.va).die ∨ 4 ≤ td ∨ s.pathUp td (l.loc c.tid r.va).die = true
  owner : s.ownerOk (l.loc c.tid r.va) c.tid = true
  room : s.queueFull (l.loc c.tid r.va).die (vaSlice r.va) r.id = false

/-- The port in focus of such a request has no other sharer of its line to wait for (R170). -/
def Unshared (s : State) (p : Port) (num : Nat) : Prop := ∀ d, s.dir? num = some d → ∀ x ∈ d.sharers, x = p.die

/-- The line stands in its home's L2, and no check of it has failed. -/
def Resident (s : State) (loc : Loc) (x : L2Line) : Prop := s.l2? loc.die loc.key = some x ∧ loc.num ∉ s.eccFailed

/-- The L2 of the package is as before but for one line. -/
def OnlyLine (s t : State) (loc : Loc) : Prop :=
  (∀ d k, ¬(d = loc.die ∧ k = loc.key) → t.l2? d k = s.l2? d k) ∧ t.mem = s.mem

/-- The port may send a request that it holds again. -/
def Resends (s : State) (p : Port) (id : Nat) : Prop :=
  p.firstCleared.all (fun k => id ≤ k) = true ∧ s.portRuns p = true ∧ 1 ≤ p.bucket ∧ s.uncoreStopped = false

end Sys2Proof.Claims

/-- R102, R152, R153, R176, R183, R188, R225, R261, R335, R380: a load's data or ERR is delivered in load order and its entry freed; an acknowledged
write frees its own; a refused load stays held and traps, or waits behind the side log, a refused write goes to the side log; and what a port holds is sent again. -/
def Obligations.RepliesReachTheirPorts : Prop :=
  (∀ s p r ro d e s1, AtPort s p r → r.op = .load ro → r.status = .done d e → p.loadBefore r.id = false → p.bound = true →
    s.deliver p r d e = some s1 → exec .loadReply s = .next ((s1.freeReq p r.id).portProgress p)) ∧
  (∀ s p r d e site ch L pe, AtPort s p r → r.op = .load false → r.status = .done d e → p.loadBefore r.id = false → p.bound = true →
    r.dest = .chan site ch → s.lease? site.lease = some L → s.pe? site = some pe → L.unwind = none → 1 ≤ pe.outFree L.plane ch →
    ch < 8 → p.owner = .mu site → Leads .loadReply s (fun t => Freed t p r.id ∧
      (t.pe? site).map (fun q => (q.outEnd ch).q) = some ((pe.outEnd ch).q ++ [(match e with
        | some w => Token.ofErr w false
        | none => patternTok r.size (lineGet d (r.va % 64) r.size)).inClass ((pe.cfg L.plane).outVec ch)]))) ∧
  (∀ s p r d e, AtPort s p r → r.op = .pref → r.status = .done d e → p.bound = true → Leads .loadReply s (fun t => Freed t p r.id)) ∧
  (∀ s p r d e, AtPort s p r → r.op = .store → r.status = .done d e → r.dest = .none → p.bound = true →
    Leads .writeAck s (fun t => Freed t p r.id)) ∧
  (∀ s p r c, AtPort s p r → r.op = .load false → r.status = .refused c → p.bound = true → p.logBars r = true →
    exec .portRefusal s = .next (s.setStatus p r .behind)) ∧
  (∀ s p r c site, AtPort s p r → r.op = .load false → r.status = .refused c → p.bound = true → p.owner = .mu site →
    p.logBars r = false → p.logsPage r.va = false →
    (∃ L, s.lease? site.lease = some L ∧ L.region = none ∧ L.unwind = none) → Leads .portRefusal s (fun t =>
      statusIn t p r.id = some (.held c false) ∧ ∃ x, t.traps = s.traps ++ [x] ∧ x.lease = some site.lease ∧ x.tid = p.ctx ∧
        errCause x.err = c % 64 ∧ x.va = r.va ∧ x.port = some p.id ∧ x.req = some r.id)) ∧
  (∀ s p r c site, AtPort s p r → r.op = .store → r.status = .refused c → p.bound = true → p.owner = .mu site → p.slstop = false →
    p.logsPage r.va = false → (∃ L, s.lease? site.lease = some L ∧ L.region = none ∧ L.unwind = none) →
    Leads .portRefusal s (fun t => (∃ q, t.port? p.id = some q ∧ (∀ x ∈ q.queue, x.id ≠ r.id) ∧
      (⟨{ r with status := .held c false }, BitVec.ofNat 64 ((2 ^ r.size - 1) * 2 ^ (r.va % 64))⟩ : SideEntry) ∈ q.sideLog ∧
      q.sideLog.map (fun e => e.req.id) = (p.sideLog.map (fun e => e.req.id)).filter (fun k => k < r.id) ++
        r.id :: (p.sideLog.map (fun e => e.req.id)).filter (fun k => r.id ≤ k)) ∧
      ∃ x, t.traps = s.traps ++ [x] ∧ x.va = r.va)) ∧
  (∀ (s : State) p e rest, s.port? s.focus.port = some p → p.sideLog = e :: rest →
    (e.req.status = .cleared ∨ ∃ b, e.req.status = .held 0 b) → Resends s p e.req.id → s.portMoves p = false →
    Leads .sideLogReplay s (fun t => ∃ q, t.port? p.id = some q ∧ q.bucket = p.bucket - 1 ∧
      q.sideLog.head?.map (fun e => e.req.status) = some (if p.logBars e.req then .behind else e.req.firstStatus))) ∧
  (∀ (s : State) p, s.port? s.focus.port = some p → s.portMoves p = true → exec .sideLogReplay s = .next s) ∧
  (∀ (s : State) p r, s.port? s.focus.port = some p → p.queue.find? (fun r => r.status = .cleared) = some r → Resends s p r.id →
    Leads .replayRelease s (fun t => ∃ q, t.port? p.id = some q ∧ q.bucket = p.bucket - 1 ∧ ∃ x ∈ q.queue, x.id = r.id ∧ x.status = (if p.logBars r then .behind else r.firstStatus)))

/-- R50, R160, R162, R164, R167 to R170, R175, R186 to R189, R198, R199, R201, R373: a request in turn goes to its home, where one of an unmapped or
remote address is refused and one without a translation waits for a walk; there a load reads the line, or the copy in its near cache, a store, reduction or
atomic changes it, one to a line with sharers has them back-invalidated first, a poisoned line stays as it is, and a load of a line that another party
writes in the same region of time is a conflict; a walk installs its leaf, or refuses; waits end; back-invalidations and invalidations are acknowledged, and
S1SEQ or S2SEQ advances, but not while a walk restarted eight times waits to install (which walks those are, and which requests a baton does not wait for, is the model's reading: DEDUCED, assumption 30); the host reads and writes lines of the frames that an HDM range exposes and that are open to it, and no others. -/
def Obligations.RequestsAreTranslatedAndPerformed : Prop :=
  (∀ s p r, PortReq s p r → s.uncoreStopped = false → r.status.tries = true → s.inTurn p r = true →
    exec .homeRequest s = .next (s.goHome p r)) ∧
  (∀ s p r c, PortReq s p r → r.status = .sent → s.ctx? p.ctx = some c → vaPkg r.va = s.pkgNo → c.xlatDie r.va = none → r.op ≠ .pref →
    s.goHome p r = s.setStatus p r (.refused (if r.op.loads then 1 else 2)) ∧
    statusIn (s.goHome p r) p r.id = some (.refused (if r.op.loads then 1 else 2))) ∧
  (∀ s p r c, PortReq s p r → s.ctx? p.ctx = some c → vaPkg r.va ≠ s.pkgNo → vaDc r.va ≠ 5 → vaDc r.va ≠ 6 →
    s.routes[vaPkg r.va]? = some 0 → r.op ≠ .pref →
    statusIn (s.goHome p r) p r.id = some (.refused 32)) ∧
  (∀ s p r c td, PortReq s p r → s.uncoreStopped = false → r.status.tries = true → s.inTurn p r = true → s.ctx? p.ctx = some c →
    vaPkg r.va = s.pkgNo → deadCode r.va = false → c.xlatDie r.va = some td → r.leaf = none → s.pathUp p.die td = true →
    (td < 4 → s.queueFull td (vaSlice r.va) r.id = false) → (s.lookup c td r.va).1 = none →
    Leads .homeRequest s (fun t => statusIn t p r.id = some .miss)) ∧
  (∀ s p r c td l n, PortReq s p r → s.uncoreStopped = false → r.status.tries = true → s.inTurn p r = true → s.ctx? p.ctx = some c →
    vaPkg r.va = s.pkgNo → deadCode r.va = false → c.xlatDie r.va = some td → r.leaf = some l → l.permits r.op = true → l.chk = false →
    s.nearHit p r = some n → n.poison = false →
    Leads .homeRequest s (fun t => statusIn t p r.id = some (.done n.data none) ∧ t.l2 = s.l2 ∧ t.mem = s.mem)) ∧
  (∀ s p r c td l ro x, Homed s p r c td l → r.op = .load ro → l.chk = false → s.nearHit p r = none → s.rrcHit p r = none →
    Resident s (l.loc c.tid r.va) x → Leads .homeRequest s (fun t =>
      statusIn t p r.id = some (.done x.data (if x.poison then some (poisonErr x.data) else none)) ∧ t.l2 = s.l2 ∧ t.mem = s.mem)) ∧
  (∀ s p r c td l ro loc pa, Homed s p r c td l → r.op = .load ro → l.chk = false → s.nearHit p r = none → s.rrcHit p r = none →
    loc = l.loc c.tid r.va → loc.key = .frame pa → loc.kind = .hbm → loc.slot = 0 → s.sealOf pa = none →
    s.l2? loc.die loc.key = none → loc.num ∉ s.eccFailed → (s.setLines loc.die (paOff pa)).length < s.ways loc.die (sliceOf (paOff pa)) →
    s.fixedWays loc.die (paOff pa) < s.ways loc.die (sliceOf (paOff pa)) → Leads .homeRequest s (fun t =>
      statusIn t p r.id = some (.done (memLine s.mem pa) (if s.poisoned.contains pa then some (poisonErr (memLine s.mem pa)) else none)) ∧
      t.mem = s.mem)) ∧
  (∀ s p r c td l loc x, Homed s p r c td l → r.op.writes = true → r.op ≠ .discard → l.chk = false → l.d = true →
    loc = l.loc c.tid r.va → Unshared s p loc.num → Resident s loc x → x.poison = false → r.poison = none →
    Leads .homeRequest s (fun t => statusIn t p r.id = some (.done x.data none) ∧ OnlyLine s t loc ∧
      t.l2? loc.die loc.key = some { x with data := r.apply x.data, dirty := true })) ∧
  (∀ (r : Req) (v : Line), (r.op = .store → r.apply v = lineSet v (r.va % 64) r.size (r.data.toNat % 2 ^ (8 * r.size))) ∧
    (∀ op, r.op = .reduce op ∨ r.op = .atomic op → r.apply v = lineSet v (r.va % 64) r.size (rmwValue op ((Ty.ofCode r.ty).getD .n64)
      (lineGet v (r.va % 64) r.size) (r.data.toNat % 2 ^ (8 * r.size)) (r.expected.toNat % 2 ^ (8 * r.size))))) ∧
  (∀ s p r c td l loc x w, Homed s p r c td l → r.op = .store → l.chk = false → l.d = true → loc = l.loc c.tid r.va →
    Unshared s p loc.num → Resident s loc x → r.poison = some w → Leads .homeRequest s (fun t => OnlyLine s t loc ∧
      t.l2? loc.die loc.key = some { x with data := poisonRecord w, poison := true, dirty := true })) ∧
  (∀ s p r c td l loc x, Homed s p r c td l → r.op.writes = true → r.op ≠ .discard → ¬(r.op = .store ∧ r.size = 64) → l.chk = false →
    l.d = true → loc = l.loc c.tid r.va → Unshared s p loc.num → Resident s loc x → x.poison = true → r.poison = none →
    Leads .homeRequest s (fun t => t.l2 = s.l2 ∧ t.mem = s.mem)) ∧
  (∀ s p r c td l loc x e, Homed s p r c td l → r.op.writes = true → l.d = true → loc = l.loc c.tid r.va → Resident s loc x →
    s.dir? loc.num = some e → (∃ q ∈ e.sharers, q ≠ p.die) → Leads .homeRequest s (fun t => statusIn t p r.id = some .backInv ∧
      t.l2 = s.l2 ∧ t.mem = s.mem ∧ ∀ q ∈ e.sharers, q ≠ p.die → ∃ f, t.dir? loc.num = some f ∧ q ∈ f.waiting)) ∧
  (∀ s p r c td l loc ro g, Homed s p r c td l → r.op = .load ro → l.chk = true → loc = l.loc c.tid r.va →
    s.tag? loc.die loc.num = some g → g.wparty ≠ 0 → g.wparty ≠ r.party → s.stale g.wparty g.wsfr = false → r.party ≠ 0 →
    r.party ≠ 0xFFFF → Leads .homeRequest s (fun t => statusIn t p r.id = some (.conflict ⟨8, g.wparty, false⟩) ∧
      t.l2 = s.l2 ∧ t.mem = s.mem)) ∧
  (∀ s p r c td, PortReq s p r → r.status = .miss → s.ctx? p.ctx = some c → c.xlatDie r.va = some td → s.uncoreStopped = false →
    (∀ l s1, s.walk c td r.va = (.ok l, s1) →
      exec .walk s = .next (s1.setStatus p r (.walking (s.seqs c).1 (s.seqs c).2 0 l))) ∧
    (∀ e s1, s.walk c td r.va = (.error e, s1) → exec .walk s = .next (s1.refuse p r (walkCause e r.op.faultCause)))) ∧
  (∀ s p r c td a b n l, PortReq s p r → r.status = .walking a b n l → s.ctx? p.ctx = some c → c.xlatDie r.va = some td →
    s.uncoreStopped = false →
    (s.seqs c = (a, b) → s.installBlocked c r.va l = false → exec .walk s = .next ((s.install c td r.va l).setStatus p r .sent)) ∧
    (s.seqs c = (a, b) → s.installBlocked c r.va l = true → exec .walk s = .next s) ∧
    (∀ k s1, s.seqs c ≠ (a, b) → s.walk c td r.va = (.ok k, s1) →
      exec .walk s = .next (s1.setStatus p r (.walking (s.seqs c).1 (s.seqs c).2 (n + 1) k)))) ∧
  (∀ s p r n, PortReq s p r → r.status = .satWait n ∨ r.status = .raceWait n → n + 65536 ≤ s.fabric →
    Leads .raceSaturationTimeout s (fun t => statusIn t p r.id = some (.conflict ⟨9, 0, true⟩) ∧
      t = { s with ports := t.ports })) ∧
  (∀ s p r n, PortReq s p r → r.status = .satWait n → s.uncoreStopped = false → exec .saturationWaitEnd s = .next (s.goHome p r)) ∧
  (∀ (s : State) d, s.dir? s.focus.addr = some d → s.focus.die ∈ d.waiting → (∀ x ∈ d.sharers, x = s.focus.die) →
    (∀ e ∈ s.dir, e.pa = s.focus.addr → e = d) → Leads .backInvalidationAck s (fun t =>
    t.dir? s.focus.addr = none ∧ t = { s with dir := t.dir, rrc := t.rrc })) ∧
  (∀ (s : State) d, s.dir? s.focus.addr = some d → s.focus.die ∈ d.waiting → (∃ x ∈ d.sharers, x ≠ s.focus.die) →
    Leads .backInvalidationAck s (fun t =>
    (t.dir? s.focus.addr).map DirEntry.waiting = some (d.waiting.filter (fun x => x ≠ s.focus.die)) ∧
    (t.dir? s.focus.addr).map DirEntry.sharers = some (d.sharers.filter (fun x => x ≠ s.focus.die)) ∧
    t = { s with dir := t.dir, rrc := t.rrc })) ∧
  (∀ (s : State) v, s.invals.find? (fun v => v.id = s.focus.req) = some v → s.batonWaits v s.focus.port = [] →
    Leads .invalidationBatonAck s (fun t => (t.invals.find? (fun v => v.id = s.focus.req)).map Inval.ports =
      some (v.ports.filter (fun x => x.1 ≠ s.focus.port)) ∧
      (∀ p, s.port? s.focus.port = some p → ∀ l ∈ t.l2, ∀ q ∈ l.pins, q.1 = p.id → v.stage2 = false ∧
        ¬(v.base ≤ q.2 / 8 ∧ q.2 / 8 < v.base + v.size)) ∧
      t = { s with invals := t.invals, l2 := t.l2, ports := t.ports })) ∧
  (∀ (s : State) v, s.invals.find? (fun v => v.id = s.focus.req) = some v → v.ports = [] → v.packet = none → s.walkStarved v = false → Leads .invalidationAck s (fun t => (∀ w ∈ t.invals, w.id ≠ v.id) ∧
      (v.stage2 = true → lookupD t.s2seq v.vmid 0 = lookupD s.s2seq v.vmid 0 + 1) ∧
      (v.stage2 = false → ∀ c ∈ s.namedCtxs v.vmid v.asid, lookupD t.s1seq c.asid 0 = lookupD s.s1seq c.asid 0 + 1) ∧
      t = { s with invals := t.invals, s1seq := t.s1seq, s2seq := t.s2seq, ports := t.ports })) ∧
  (∀ (s : State) v, s.invals.find? (fun v => v.id = s.focus.req) = some v → s.walkStarved v = true →
    exec .invalidationAck s = .next s) ∧
  (∀ (s : State) pa d m, s.uncoreStopped = false → s.inHdm pa = false →
    exec (.hostCxlMemRequest pa false d m) s = .next { s with hostReply := ⟨1, [0]⟩ } ∧
    exec (.hostCxlMemRequest pa true d m) s = .next (s.logError 50)) ∧
  (∀ (s : State) pa d m, s.uncoreStopped = false → s.validPa pa = true → (s.owner pa).toNat.testBit 14 = false →
    exec (.hostCxlMemRequest pa false d m) s = .next { s with hostReply := ⟨1, [0]⟩ } ∧
    exec (.hostCxlMemRequest pa true d m) s = .next (s.logError 50)) ∧
  (∀ (s : State) pa d m, s.uncoreStopped = false → s.hostFrame pa = true →
    (∀ e, s.dir? (lineOf pa) = some e → ∀ x ∈ e.sharers, x = 8) →
    ∃ t, exec (.hostCxlMemRequest pa true d m) s = .next t ∧ t.hostReply = ⟨0, []⟩ ∧ t.ports = s.ports ∧ t.leases = s.leases) ∧
  (∀ (s : State) pa d x, s.uncoreStopped = false → s.hostFrame pa = true → (∀ e, s.dir? (lineOf pa) = some e → ∀ x ∈ e.sharers, x = 8) →
    s.l2? (locOf pa).die (locOf pa).key = some x → lineOf pa ∉ s.eccFailed →
    ∃ t, exec (.hostCxlMemRequest pa true d (BitVec.allOnes 64)) s = .next t ∧
      t.l2? (locOf pa).die (locOf pa).key = some { x with data := d, poison := false, dirty := true }) ∧
  (∀ (s : State) pa d m e, s.uncoreStopped = false → s.hostFrame pa = true → s.dir? (lineOf pa) = some e → (∃ x ∈ e.sharers, x ≠ 8) →
    ∃ t, exec (.hostCxlMemRequest pa true d m) s = .next t ∧ t = { s with dir := t.dir } ∧
      ∀ x ∈ e.sharers, x ≠ 8 → ∃ f, t.dir? (lineOf pa) = some f ∧ x ∈ f.waiting) ∧
  (∀ (s : State) pa d m, s.uncoreStopped = false → s.hostFrame pa = true →
    ∃ t, exec (.hostCxlMemRequest pa false d m) s = .next t ∧ t.ports = s.ports ∧ t.leases = s.leases ∧
      t.hostReply = ⟨if ((s.settleCode (locOf pa) 0).getLine (locOf pa)).2 then 1 else 0,
        [((s.settleCode (locOf pa) 0).getLine (locOf pa)).1.setWidth 1280]⟩) ∧
  (∀ (s : State) pa, s.hostFrame pa = true ↔ (s.inHdm pa = true ∧ s.validPa pa = true ∧ (locOf pa).kind = .hbm ∧
    s.dieUp (locOf pa).die = true ∧ (s.owner pa).toNat.testBit 15 = true ∧ (s.owner pa).toNat.testBit 14 = true))

/-- R95, R96, R135, R136, R150, R158, R179, R183, R353 to R356: a free engine takes the queue's head and binds a port for it, with the command's party;
it issues its ready writes; an engine leaves a command at the end of each segment, and its port is unbound with the last (R371); slots that landed whole are published; and a sync unit applies the next
operation that may be, or answers DIE_DOWN where no link carries it: a join makes a team, an arrival that completes a mark advances its generation. -/
def Obligations.EnginesAndSyncUnitsWork : Prop :=
  (∀ (s : State) q e rest c x, s.uncoreStopped = false → s.dieUp s.focus.die = true → s.focus.idx < engCount s.focus.kind →
    (∀ g ∈ s.engines, ¬(g.die = s.focus.die ∧ g.kind = s.focus.kind ∧ g.idx = s.focus.idx)) →
    s.vqueues = [q] → q.die = s.focus.die → q.kind = s.focus.kind → q.entries = e :: rest → s.headReady q = true →
    s.cmd? e.cmd = some c → s.ctx? q.tid = some x → c.party ≠ 0 →
    s.keptPort s.focus.die s.focus.kind s.focus.idx c.party = none → Leads .engineDispatch s (fun t =>
      (∃ p, t.ports = s.ports ++ [p] ∧ p.owner = .engine s.focus.die s.focus.kind s.focus.idx ∧ p.ctx = q.tid ∧ p.asid = x.asid ∧
        p.party = c.party ∧ p.id = s.freePort) ∧
      (∃ g, t.engines = s.engines ++ [g] ∧ g.cur = e ∧ g.port = s.freePort) ∧
      t.vqueues.map VQueue.entries = [rest])) ∧
  (∀ (s : State) q e rest c x p, s.uncoreStopped = false → s.dieUp s.focus.die = true → s.focus.idx < engCount s.focus.kind →
    (∀ g ∈ s.engines, ¬(g.die = s.focus.die ∧ g.kind = s.focus.kind ∧ g.idx = s.focus.idx)) →
    s.vqueues = [q] → q.die = s.focus.die → q.kind = s.focus.kind → q.entries = e :: rest → s.headReady q = true →
    s.cmd? e.cmd = some c → s.ctx? q.tid = some x → c.party ≠ 0 →
    s.keptPort s.focus.die s.focus.kind s.focus.idx c.party = some p → Leads .engineDispatch s (fun t => t.ports = s.ports ∧
      (∃ g, t.engines = s.engines ++ [g] ∧ g.cur = e ∧ g.port = p.id) ∧ t.vqueues.map VQueue.entries = [rest])) ∧
  (∀ (s : State) g c p w rest, s.uncoreStopped = false →
    s.engines.find? (fun e => e.die = s.focus.die && e.kind = s.focus.kind && e.idx = s.focus.idx) = some g →
    s.cmd? g.cur.cmd = some c → s.port? g.port = some p → c.stop = .running → (g.begin_ c).todo = w :: rest →
    s.mayIssue p .store w.va = true → exec .engineIssue s = .next ((({ s with nextId := s.nextId + 1 } : State).issue p.id
      (engineReq c p s.nextId .store w.va w.bytes.length .none w.bytes w.poison)).modEngine p.id
      (fun _ => { g.begin_ c with todo := rest }))) ∧
  (∀ (s : State) g c, s.uncoreStopped = false →
    s.engines.find? (fun e => e.die = s.focus.die && e.kind = s.focus.kind && e.idx = s.focus.idx) = some g →
    s.cmd? g.cur.cmd = some c → s.drained g.port = true → c.op = .cpy → c.stop = .running → g.opos = g.stopAt → g.todo = [] →
    g.out = [] → (c.segsLeft ≤ 1 → exec .engineCompletion s = .next ((s.freeEngine g.port).endCmd { c with
      segsLeft := c.segsLeft - 1, turn := max c.turn g.stopAt } .done)) ∧
    (1 < c.segsLeft → exec .engineCompletion s = .next ((s.modCmd c.id (fun _ => { c with
      segsLeft := c.segsLeft - 1, turn := max c.turn g.stopAt })).leaveEngine g.port))) ∧
  (∀ (s : State) pe k d rest, s.pe? s.focus.site = some pe → s.focus.ch = k → k < 16 →
    (pe.mu.cb k).resv = ⟨d, true⟩ :: rest → (∀ x ∈ rest, x.landed = false) → Leads .cbSlotLanded s (fun t =>
      (t.pe? s.focus.site).map (fun q => ((q.mu.cb k).resv, (q.mu.cb k).filled, (q.mu.cb k).pend)) =
        some (rest, (pe.mu.cb k).filled + 1, (pe.mu.cb k).pend - 1) ∧ t = { s with leases := t.leases })) ∧
  (∀ (s : State) m rest, s.nextSync s.focus.die [] s.syncQ = some (m, rest) →
    ({ s with syncQ := rest } : State).syncPath m = true →
    exec .syncUnitOp s = .next (({ s with syncQ := rest } : State).applySync m)) ∧
  (∀ (s : State) m rest, s.nextSync s.focus.die [] s.syncQ = some (m, rest) → ({ s with syncQ := rest } : State).syncPath m = false →
    exec .syncUnitOp s = .next (({ s with syncQ := rest } : State).syncLost m)) ∧
  (∀ (s : State) m, m.op = .join → s.team? m.tid m.team = none →
    s.applySync m = ({ s with teams := ⟨m.tid, m.team, m.die, [⟨m.site, m.plane, 0⟩], Vector.replicate 24 ⟨0, 0, 0⟩, [], 0⟩ ::
      (s.teams.filter (fun t => !(t.tid = m.tid && t.num = m.team))) } : State).syncReply m 65537) ∧
  (∀ (s : State) m, m.op = .leave → s.team? m.tid m.team = none → s.applySync m = s.syncErr m 25) ∧
  (∀ (s : State) m k x, m.op = .arrive k false → k < 24 → s.team? m.tid m.team = some x → x.hasMember m.site m.plane = true →
    (x.mark k).expect ≠ 0 → (x.mark k).count + 1 ≠ (x.mark k).expect → s.applySync m =
      (s.modTeam x.tid x.num (fun t => t.setMark k { x.mark k with count := (x.mark k).count + 1 })).syncReply m (x.mark k).gen.toNat) ∧
  (∀ (s : State) x k, k < 24 → s.team? x.tid x.num = some x → (x.mark k).count + 1 = (x.mark k).expect → s.waiters = [] →
    (s.arriveAt x k).1 = (x.mark k).gen ∧ ((s.arriveAt x k).2.team? x.tid x.num).map (fun t => t.mark k) =
      some ⟨(x.mark k).expect, 0, (x.mark k).gen + 1⟩)

/-! ### Traps, containment, links, spans and warm resets -/

namespace Sys2Proof.Claims

/-- The first trap that reached the CD, of a lease's task, and what the tenant's table gives it. -/
def Traps (s : State) (x : Trap) (rest : List Trap) (L : Lease) (k : Task) (a : TrapAct) (s1 : State) : Prop :=
  s.traps = x :: rest ∧ s.uncoreStopped = false ∧ (∃ id, x.lease = some id ∧ s.lease? id = some L) ∧
    ({ s with traps := rest } : State).holdsTraps L = false ∧
    L.unwind = none ∧ s.task? L.die L.entry = some k ∧
    ({ s with traps := rest } : State).trapAction k.ctx (errCause x.err) = (a, s1)

/-- A request of a trap that a port holds, of a cause that no die's return clears by itself. -/
def HeldAt (s : State) (x : Trap) (p : Port) (r : Req) (c : Nat) : Prop :=
  x.port = some p.id ∧ x.req = some r.id ∧ s.port? p.id = some p ∧ p.queue.find? (fun q => q.id = r.id) = some r ∧
    r.status = .held c false ∧ c ≠ 0 ∧ c ≠ cDieDown

end Sys2Proof.Claims

/-- R58, R86, R102 to R104, R227, R228, R230 to R233: the CD applies the tenant's action to the first trap that reached it. KILL ends the task with status
KILLED and its cause as DETAIL, PARK writes the record and stops what the lease issues, REPLAY counts, holds the request, and kills at its limit, and a failed access of a COPY
ends it with FAULT and the cause. That a trap without a request has nothing to replay and parks is the model's reading (DEDUCED, assumption 48). One of a lease that moves or unwinds is held; an unwind runs its steps once the ports are settled,
and ends with its recovery handler; and a region whose last invocation has ended everywhere is committed. -/
def Obligations.TrapsActAndRegionsUnwind : Prop :=
  (∀ (s : State) x rest L k a s1, Traps s x rest L k a s1 → exec .trapAction s = .next (s1.applyAction x k a)) ∧
  (∀ b cause, trapAct b cause = (if b / 64 % 4 = 0 then .kill
    else if b / 64 % 4 = 1 then (if replayable cause then .replay (b % 64) else .parkOwn)
    else if b / 64 % 4 = 2 then (if b % 64 < 8 then .park (b % 64) else .kill)
    else .forward (if (b % 64).testBit 5 then some (bitsOf (b % 64) 3 2) else none) (b % 8))) ∧
  (∀ (s : State) x k, s.task? k.die k.idx = some k → ∀ t, t = s.applyAction x k .kill → t.task? k.die k.idx = none) ∧
  (∀ (s : State) x k limit, k.pktKind ≠ 7 → x.req = none →
    s.applyAction x k (.replay limit) = (s.recordTrap x k k.slid 2 0).parkLease x k.slid) ∧
  (∀ (s : State) x k L, k.pktKind ≠ 7 → x.lease.bind s.lease? = some L → L.parked = none → x.cmd = none →
    s.applyAction x k .kill = s.finishTask k true 4 (errCause x.err)) ∧
  (∀ (s : State) x k c e a, k.pktKind = 7 → x.lease = none → x.cmd = some c → s.cmd? c = some e →
    a = .kill ∨ a = .parkOwn ∨ (∃ n, a = .replay n) →
    s.applyAction x k a = ({ s.stopCmd e with traps := (s.stopCmd e).traps.filter (fun y => y.cmd ≠ some c) } : State).finishTask
      k true 5 (errCause x.err)) ∧
  (∀ (s : State) x k id L i slot t, k.pktKind ≠ 7 → x.lease = some id → s.lease? id = some L → L.parked = none →
    s.listOf k.ctx i = some slot → t = s.applyAction x k (.park i) → t = (s.recordTrap x k slot 2 0).parkLease x slot ∧
    (t.lease? L.id).map Lease.parked = some (some slot)) ∧
  (∀ (s : State) L, L.parked ≠ none → s.leaseRuns L = false ∧ (s.lease? s.focus.site.lease = some L →
    exec .handlerSelect s = .next s ∧ exec .eoiProcessing s = .next s) ∧
    ∀ (p : Port) site op va, p.owner = .mu site → s.lease? site.lease = some L → s.mayIssue p op va = false) ∧
  (∀ (s : State) x k n c t, k.pktKind ≠ 7 → s.task? k.die k.idx = some k → x.req ≠ none → c = errCause x.err →
    n = 0 ∨ k.replayCount c < n → t = s.applyAction x k (.replay n) →
    (t.task? k.die k.idx).map (fun q => q.replayCount c) = some (k.replayCount c + 1)) ∧
  (∀ (s : State) x k n p r c t, k.pktKind ≠ 7 → HeldAt s x p r c → n = 0 ∨ k.replayCount (errCause x.err) < n →
    t = s.applyAction x k (.replay n) → statusIn t p r.id = some (.held c true)) ∧
  (∀ (s : State) x k n, x.req ≠ none → n ≠ 0 → n ≤ k.replayCount (errCause x.err) →
    s.applyAction x k (.replay n) = s.applyAction x k .kill) ∧
  (∀ (s : State) x rest L id, s.traps = x :: rest → s.uncoreStopped = false → x.lease = some id → s.lease? id = some L →
    ({ s with traps := rest } : State).holdsTraps L = true → Leads .trapAction s (fun t => t.traps = rest ∧
      (t.lease? L.id).map Lease.heldTraps = some (L.heldTraps ++ [x]) ∧ t = { s with traps := rest, leases := t.leases })) ∧
  (∀ (s : State) L u r, s.lease? s.focus.site.lease = some L → L.unwind = some u → L.region = some r → s.fabricStopped = false →
    s.uncoreStopped = false → L.parked = none → u.step < 5 → s.portsSettled L.id = true → s.sysMoves L = false →
    exec .containmentUnwind s = .next ((s.unwindLease L r u).progress L.id)) ∧
  (∀ (s : State) L u r, s.lease? s.focus.site.lease = some L → L.unwind = some u → L.region = some r → s.fabricStopped = false →
    s.uncoreStopped = false → L.parked = none → 5 ≤ u.step → L.recovering r = false → L.heldTraps = [] →
    Leads .containmentUnwind s (fun t => (t.lease? L.id).map Lease.unwind = some none ∧
      (t.lease? L.id).map Lease.stopIssue = some false ∧ t = { s with leases := t.leases, ports := t.ports })) ∧
  (∀ (s : State) L r j, s.lease? s.focus.site.lease = some L → L.region = some r → r.last = some j → L.unwind = none →
    j < s.sinkInv L → (∀ p ∈ s.leasePorts L.id, p.holdsCommit r = false) → Leads .regionCommit s (fun t =>
      (t.lease? L.id).map Lease.region = some none ∧ (∀ p ∈ t.leasePorts L.id, p.undo = []) ∧
      t = { s with leases := t.leases, ports := t.ports }))

/-- R33 to R38, R40 to R45, R67, R68, R98, R174, R175, R222, R223, R237, R238, R387: links lose modules, fail, train and run again; span ports take
flits, replay, retrain and fail; counters halve, arrays flagged at nominal voltage are taken out; a die's reset goes on step by step; and Bilsis
writes frame owner entries and key slots that the part has. What an acknowledgement flit says, and that accepted flits return credits, is the model's
reading (DEDUCED, assumption 23), and that a RUNNING seam is retrained in place and takes its whole limit back its choice (assumptions 67, 74). -/
def Obligations.LinksSpansAndResetsGoOn : Prop :=
  (∀ (s : State) k n, k < 8 → s.linkActive k = true → 0 < n → n < (s.link k).mods → Leads (.seamModuleLoss k n) s (fun t =>
    (t.link k).mods = (s.link k).mods - n ∧ t = { s with links := t.links } ∧
    (k < 4 → (s.link k).st = .running → (t.link k).st =
      (if s.seamUse k * 48 > ((s.link k).mods - n) * 256 then LinkState.quiescing else LinkState.running)))) ∧
  (∀ (s : State) k l, k < 4 → s.linkLive k = true → ∃ u : State, exec (.linkFailure k l) s = .next u.reroute ∧ (u.link k).st = .down) ∧
  (∀ (s : State) d l, d < 4 → s.linkLive (4 + d) = true →
    exec (.cdLinkFailure d l) s = .next (s.dieFails d l) ∧ exec (.linkFailure (4 + d) l) s = .next (s.dieFails d l)) ∧
  (∀ (s : State) k, k < 4 → s.power = .run → s.uncoreStopped = false → s.trainsAlone k = true → (s.link k).st = .training →
    Leads (.linkTrainingResult k true) s (fun t => (t.link k).st = .readmitting ∧ t = { s with links := t.links }) ∧
    ((s.link k).fails < 2 → Leads (.linkTrainingResult k false) s (fun t => (t.link k).st = .training ∧
      (t.link k).fails = (s.link k).fails + 1)) ∧
    ((s.link k).fails = 2 → Leads (.linkTrainingResult k false) s (fun t => (t.link k).st = .down))) ∧
  (∀ (s : State) k, k < 4 → s.power = .run → s.uncoreStopped = false → s.trainsAlone k = true → (s.link k).st = .readmitting →
    Leads (.linkTrainingResult k true) s (fun t => (t.link k).st = .running ∧ (t.link k).fails = 0) ∧
    Leads (.linkTrainingResult k false) s (fun t => (t.link k).st = .down ∧ (t.link k).fails = (s.link k).fails + 1)) ∧
  (∀ (s : State) k ok, k < 4 → s.trainsAlone k = false → exec (.linkTrainingResult k ok) s = .next s) ∧
  (∀ (s : State), s.focus.idx < 4 → s.power = .run → (s.link s.focus.idx).st = .quiescing → (s.link s.focus.idx).alone = true →
    s.seamUse s.focus.idx = 0 → Leads .seamReturnRunning s (fun t => (t.link s.focus.idx).st = .running ∧
      (t.link s.focus.idx).limit = min 64 ((s.link s.focus.idx).mods * 256 / 2 / 24) ∧ t = { s with links := t.links })) ∧
  (∀ (s : State) k, k < 4 → s.power = .run → s.dieUp (seamDies k).1 = true → s.dieUp (seamDies k).2 = true → (s.link k).st = .running →
    Leads (.seamRetrain k true) s (fun t => (t.link k).mods = 16 ∧ (t.link k).limit = 64 ∧ (t.link k).st = .running)) ∧
  (∀ (s : State) k ok, k < 4 → s.power = .run → s.dieUp (seamDies k).1 = true → s.dieUp (seamDies k).2 = true → (s.link k).st = .down →
    Leads (.seamRetrain k ok) s (fun t => (t.link k).st = .training ∧
      (t.link k).fails = (if 3 ≤ (s.link k).fails then 0 else (s.link k).fails))) ∧
  (∀ (s : State) n f p e, s.power = .run → n < 16 → s.span n = p → p.st = .up → e ≤ 15 → flitOk f = true → flitKind f = 0 →
    flitNak f = false → flitAckv f = false → flitSeq f = p.lastAcc + 1 → Leads (.spanFlitReceive n [f] e) s (fun t =>
      (t.span n).received = p.received ++ [f] ∧ (t.span n).lastAcc = flitSeq f ∧
      (t.span n).credits = (p.credits.1 + (flitCredits f).1, p.credits.2.1 + (flitCredits f).2.1, p.credits.2.2 + (flitCredits f).2.2) ∧
      (t.span n).sending = p.sending ++ [ackFlit s.pkgNo p.nextSeq (flitSeq f) false (creditsNow (p.owes f).owed)] ∧
      (t.span n).owed = (p.owes f).repaid.owed ∧ t = { s with spans := t.spans })) ∧
  (∀ (s : State) n f p e, s.power = .run → n < 16 → s.span n = p → p.st = .up → p.naked = false → 15 < e →
    Leads (.spanFlitReceive n [f] e) s (fun t =>
    (t.span n).received = p.received ∧ (t.span n).naked = true ∧ (t.span n).sending = p.sending ++ [ackFlit s.pkgNo p.nextSeq p.lastAcc true (creditsNow p.owed)])) ∧
  (∀ (me : Nat) (f : BitVec 2048) (seq ack : BitVec 8) nak c, f = ackFlit me seq ack nak c → c.1 ≤ 15 → c.2.1 ≤ 15 → c.2.2 ≤ 15 →
    flitOk f = true ∧ flitKind f = 1 ∧ flitSeq f = seq ∧ flitAckseq f = ack ∧ flitAckv f = true ∧ flitNak f = nak ∧
    flitSrc f = me % 64 ∧ flitCredits f = c) ∧
  (∀ (s : State) n a, s.power = .run → n < 16 → (s.span n).st = .up → Leads (.spanNak n a) s (fun t =>
    afterAck a (s.span n).held <+: (t.span n).held ∧ ((s.span n).pend = [] → (t.span n).held = afterAck a (s.span n).held) ∧
    (t.span n).held <+: (t.span n).sending ∧ t = { s with spans := t.spans })) ∧
  (∀ (p : SpanPort) line f, p.pend = [] → 255 ≤ p.held.length → p.send line f = { p with pend := [f], lines := p.lines ++ [line] }) ∧
  (∀ (p : SpanPort) line f, p.pend = [] → p.held.length < 255 → (p.send line f).nextSeq = p.nextSeq + 1 ∧
    (p.send line f).held.length = p.held.length + 1 ∧ (p.send line f).sending.length = p.sending.length + 1) ∧
  (∀ (s : State) n r h, s.power = .run → n < 16 → r ≤ 2 → Leads (.spanPortRetrain n r h) s (fun t =>
    (t.span n).st = .training ∧ (t.span n).rate = r ∧ (t.span n).half = h ∧ (t.span n).held = (s.span n).held)) ∧
  (∀ (s : State), s.power = .run → s.focus.port < 16 → (s.span s.focus.port).st = .training →
    Leads .spanPortTrained s (fun t => (t.span s.focus.port).st = .up ∧ (t.span s.focus.port).held <+: (t.span s.focus.port).sending) ∧
    ((s.span s.focus.port).fails < 2 → Leads .spanTrainingFail s (fun t =>
      (t.span s.focus.port).fails = (s.span s.focus.port).fails + 1 ∧ (t.span s.focus.port).st = .training)) ∧
    (2 ≤ (s.span s.focus.port).fails → exec .spanTrainingFail s = .next (s.spanDown s.focus.port))) ∧
  (∀ (s : State), s.power = .run → s.focus.port < 16 → (s.span s.focus.port).st = .up → (s.span s.focus.port).rate < 2 →
    64 < ((s.span s.focus.port).window.filter (fun t => t + 1000000 > s.ticks)).length → Leads .spanReplayLimit s (fun t =>
      (t.span s.focus.port).st = .training ∧ (t.span s.focus.port).rate = (s.span s.focus.port).rate + 1)) ∧
  (∀ (s : State), s.power = .run → s.focus.port < 16 → (s.span s.focus.port).st = .up → (s.span s.focus.port).laneFail = 0 →
    s.focus.ch < 8 → Leads .spanLaneFailure s (fun t => (t.span s.focus.port).half = true ∧
      (t.span s.focus.port).laneFail = 1#8 <<< s.focus.ch ∧ (t.span s.focus.port).st = .up)) ∧
  (∀ (s : State), s.power = .run → s.uncoreStopped = false → 1073741824 * (s.halvings + 1) ≤ s.fabric →
    Leads .checkCounterHalving s (fun t => t.halvings = s.halvings + 1 ∧
      (∀ x y n, (x, y, n) ∈ s.siteChecks → 2 ≤ n → (x, y, n / 2) ∈ t.siteChecks) ∧
      t = { s with halvings := s.halvings + 1, siteChecks := t.siteChecks })) ∧
  (∀ (s : State) d n x y, s.power = .run → s.uncoreStopped = false → s.measuring.find? (fun m => m.1 = d) = none → d ∈ s.withheld →
    Config.rateLimit 0 < n → Leads (.reliabilityMonitor d n (.site x y)) s (fun t => (x, y) ∈ t.retired ∧
      t.rates.find? (fun r => r.1 = .site x y) = some (.site x y, n) ∧
      t = { s with retired := t.retired, runOn := t.runOn, rates := t.rates })) ∧
  (∀ (s : State) d n w, s.power = .run → s.uncoreStopped = false → s.measuring.find? (fun m => m.1 = d) = none → d ∉ s.withheld →
    Config.rateLimit w.kind < n → Leads (.reliabilityMonitor d n w) s (fun t => d ∈ t.withheld ∧
      t.measuring.find? (fun m => m.1 = d) = some (d, s.ticks + 1000000000) ∧
      t = { s with withheld := t.withheld, measuring := t.measuring, rates := t.rates })) ∧
  (∀ (s : State) d n w, s.power = .run → s.uncoreStopped = false → s.measuring.find? (fun m => m.1 = d) = none → n ≤ Config.rateLimit w.kind →
    exec (.reliabilityMonitor d n w) s = .next (s.keepRate w n)) ∧
  (∀ (s : State) r, s.reset? s.focus.die = some r → s.power = .run → s.uncoreStopped = false →
    (r.step = 2 → (∀ L ∈ s.leases, r.die ∉ L.rect.dies) → Leads .dieResetAdvance s (fun t =>
      (t.reset? r.die).map Reset.step = some 3 ∧ t = { s with resets := t.resets })) ∧
    (r.step = 2 → (∃ L ∈ s.leases, r.die ∈ L.rect.dies) → exec .dieResetAdvance s = .next s) ∧
    (r.step = 7 → (∀ L ∈ s.leases, L.move = none) → Leads .dieResetAdvance s (fun t => (t.reset? r.die).map Reset.step = some 8 ∧
      (∀ x ∈ t.l2, x.die ≠ r.die) ∧ (∀ x ∈ t.tlb, x.die ≠ r.die) ∧ (∀ x ∈ t.raceTags, x.die ≠ r.die)))) ∧
  (∀ (s : State) r L k c, s.reset? s.focus.die = some r → s.lease? s.focus.site.lease = some L → s.task? L.die L.entry = some k →
    s.ctx? L.tid = some c → s.cdRuns = true → r.step = 2 → r.die ∈ L.rect.dies → r.since + 2 * c.drain ≤ s.fabric → k.cls ≠ 1 →
    Leads .dieResetDrainDeadline s (fun t => t.task? L.die L.entry = none)) ∧
  (∀ (s : State) f v, s.power = .run → s.validPa (65536 * f) = true → (locOf (65536 * f)).kind ≠ .host →
    paPkg (65536 * f) = s.pkgNo → s.configUp (paDie (65536 * f)) = true → (v.getLsbD 15 = true → s.frameOut (65536 * f) = false) →
    Leads (.frameOwnerWrite f v) s (fun t => lookupD t.owners f 0 = v &&& 0xC3FF#16 ∧
      (∀ g, g ≠ f → lookupD t.owners g 0 = lookupD s.owners g 0) ∧ t = { s with owners := t.owners })) ∧
  (∀ (s : State) d k w, s.power = .run → d < s.fuses.nlive → 1 ≤ k → k ≤ 255 → s.configUp d = true → Leads (.keySlotLoad d k w) s (fun t =>
    t.keys.find? (fun x => x.1 = d && x.2.1 = k) = some (d, k, w) ∧ t = { s with keys := t.keys })) ∧
  (∀ (s : State) f n, s.power = .run → f < 128 → Leads (.spdmRequest f .measurements) s (fun t =>
    t.spdmReply.values = s.measurements.map (fun m => m.setWidth 1280) ∧ t = { s with spdmReply := t.spdmReply }) ∧
    exec (.spdmRequest f (.algorithms false)) s = .next { s with spdmReply := ⟨1, []⟩ } ∧
    Leads (.spdmRequest f (.challenge n)) s (fun t => t = { s with spdmReply := t.spdmReply } ∧ t.spdmReply.status = 0))
end

