-- ==== Sys2Proof/Laws/Encoding.lean ====
section
/-! SUPPORT. Each field of an instruction word is read back from where the encoder puts it (R252, R254). -/

namespace Sys2Proof

open BitVec

/-- The opcode of a word is the one the encoder put there. -/
theorem headWord_opcode (op : BitVec 8) (h : Head) (f : BitVec 28) : (headWord op h f).extractLsb' 48 8 = op := by
  show @BitVec.extractLsb' (8 + 2 + 9 + 9 + 28) 48 8 (op ++ h.pred ++ h.t0 ++ h.t1 ++ f) = op
  simp (disch := omega) only [extractLsb'_append_eq_of_le]
  simp

/-- PRED and the targets of a word are the ones the encoder put there. -/
theorem headOf_headWord (op : BitVec 8) (h : Head) (f : BitVec 28) : headOf (headWord op h f) = h := by
  obtain ⟨p, a, b⟩ := h
  have h1 : @BitVec.extractLsb' (8 + 2 + 9 + 9 + 28) 46 2 (op ++ p ++ a ++ b ++ f) = p := by
    simp (disch := omega) only [extractLsb'_append_eq_of_le, extractLsb'_append_eq_of_add_le]
    simp
  have h2 : @BitVec.extractLsb' (8 + 2 + 9 + 9 + 28) 37 9 (op ++ p ++ a ++ b ++ f) = a := by
    simp (disch := omega) only [extractLsb'_append_eq_of_le, extractLsb'_append_eq_of_add_le]
    simp
  have h3 : @BitVec.extractLsb' (8 + 2 + 9 + 9 + 28) 28 9 (op ++ p ++ a ++ b ++ f) = b := by
    simp (disch := omega) only [extractLsb'_append_eq_of_le, extractLsb'_append_eq_of_add_le]
    simp
  exact congr (congr (congrArg Head.mk h1) h2) h3

/-- The format bits of a word are the ones the encoder put there. -/
theorem headWord_low (op : BitVec 8) (h : Head) (f : BitVec 28) (lo n : Nat) (hn : lo + n ≤ 28) :
    (headWord op h f).extractLsb' lo n = f.extractLsb' lo n := by
  show @BitVec.extractLsb' (8 + 2 + 9 + 9 + 28) lo n (op ++ h.pred ++ h.t0 ++ h.t1 ++ f) = _
  exact extractLsb'_append_eq_of_add_le hn

/-- Format M is read back. -/
theorem fmtM_wordM (op : BitVec 8) (f : FmtM) : fmtM (wordM op f) = f := by
  obtain ⟨h, ty, sc, o, i, off⟩ := f
  have e : ∀ lo n, lo + n ≤ 28 → (wordM op ⟨h, ty, sc, o, i, off⟩).extractLsb' lo n
      = @BitVec.extractLsb' (5 + 3 + 2 + 4 + 14) lo n (ty ++ sc ++ o ++ i ++ off) := headWord_low op h _
  simp (disch := omega) only [fmtM, e, extractLsb'_append_eq_of_le, extractLsb'_append_eq_of_add_le,
    FmtM.mk.injEq]
  exact ⟨headOf_headWord _ _ _, by simp, by simp, by simp, by simp, by simp⟩

/-- Format X is read back. -/
theorem fmtX_wordX (op : BitVec 8) (f : FmtX) : fmtX (wordX op f) = f := by
  obtain ⟨h, ty, a, b, m, n⟩ := f
  have e : ∀ lo k, lo + k ≤ 28 → (wordX op ⟨h, ty, a, b, m, n⟩).extractLsb' lo k
      = @BitVec.extractLsb' (5 + 3 + 3 + 4 + 13) lo k (ty ++ a ++ b ++ m ++ n) := headWord_low op h _
  simp (disch := omega) only [fmtX, e, extractLsb'_append_eq_of_le, extractLsb'_append_eq_of_add_le,
    FmtX.mk.injEq]
  exact ⟨headOf_headWord _ _ _, by simp, by simp, by simp, by simp, by simp⟩

/-- Format D is read back. -/
theorem fmtD_wordD (op : BitVec 8) (f : FmtD) : fmtD (wordD op f) = f := by
  obtain ⟨h, ty, body⟩ := f
  cases body with
  | imm v =>
    have e : ∀ lo k, lo + k ≤ 28 → (wordD op ⟨h, ty, .imm v⟩).extractLsb' lo k
        = @BitVec.extractLsb' (5 + 1 + 22) lo k (ty ++ 1#1 ++ v) := headWord_low op h _
    simp (disch := omega) only [fmtD, e, extractLsb'_append_eq_of_le, extractLsb'_append_eq_of_add_le,
      FmtD.mk.injEq]
    exact ⟨headOf_headWord _ _ _, by simp, by simp⟩
  | regs ch idx n =>
    have e : ∀ lo k, lo + k ≤ 28 → (wordD op ⟨h, ty, .regs ch idx n⟩).extractLsb' lo k
        = @BitVec.extractLsb' (5 + 1 + 3 + 4 + 15) lo k (ty ++ 0#1 ++ ch ++ idx ++ n) := headWord_low op h _
    simp (disch := omega) only [fmtD, e, extractLsb'_append_eq_of_le, extractLsb'_append_eq_of_add_le,
      FmtD.mk.injEq]
    exact ⟨headOf_headWord _ _ _, by simp, by simp⟩

/-- Format A is read back. -/
theorem fmtA_wordA (op : BitVec 8) (f : FmtA) : fmtA (wordA op f) = f := by
  obtain ⟨h, ty, body⟩ := f
  cases body with
  | imm v =>
    have e : ∀ lo k, lo + k ≤ 28 → (wordA op ⟨h, ty, .imm v⟩).extractLsb' lo k
        = @BitVec.extractLsb' (5 + 1 + 22) lo k (ty ++ 1#1 ++ v) := headWord_low op h _
    simp (disch := omega) only [fmtA, e, extractLsb'_append_eq_of_le, extractLsb'_append_eq_of_add_le,
      FmtA.mk.injEq]
    exact ⟨headOf_headWord _ _ _, by simp, by simp⟩
  | regs fn rm sat ty2 ksel z =>
    have e : ∀ lo k, lo + k ≤ 28 → (wordA op ⟨h, ty, .regs fn rm sat ty2 ksel z⟩).extractLsb' lo k
        = @BitVec.extractLsb' (5 + 1 + 6 + 3 + 1 + 5 + 4 + 3) lo k
          (ty ++ 0#1 ++ fn ++ rm ++ sat ++ ty2 ++ ksel ++ z) := headWord_low op h _
    simp (disch := omega) only [fmtA, e, extractLsb'_append_eq_of_le, extractLsb'_append_eq_of_add_le,
      FmtA.mk.injEq]
    exact ⟨headOf_headWord _ _ _, by simp, by simp⟩

/-- The opcode of a format M word. -/
theorem wordM_opcode (op : BitVec 8) (f : FmtM) : (wordM op f).extractLsb' 48 8 = op := headWord_opcode _ _ _
/-- The opcode of a format X word. -/
theorem wordX_opcode (op : BitVec 8) (f : FmtX) : (wordX op f).extractLsb' 48 8 = op := headWord_opcode _ _ _
/-- The opcode of a format D word. -/
theorem wordD_opcode (op : BitVec 8) (f : FmtD) : (wordD op f).extractLsb' 48 8 = op := headWord_opcode _ _ _
/-- The opcode of a format A word. -/
theorem wordA_opcode (op : BitVec 8) (f : FmtA) : (wordA op f).extractLsb' 48 8 = op := headWord_opcode _ _ _

/-- A word that is not all zeros decodes to what its opcode selects. -/
theorem decodeWord_of_opcode {w : IWord} {op : BitVec 8} {i : Instr} (h0 : w ≠ 0#56) (hw : w.extractLsb' 48 8 = op)
    (hi : decodeOp op.toNat w = some i) : decodeWord w = .ok i := by
  simp only [decodeWord, h0, if_false, hw, hi]

end Sys2Proof
end

