-- ==== Sys2Proof/Laws/Lists.lean ====
section
/-! SUPPORT. What the list helpers answer: a changed entry is found changed, every other entry as it was; and what leases, PEs and
ports read after an update of one of them. -/

namespace Sys2Proof.Machine

open Sys2Proof

/-- An entry found by what selects the change is found changed. -/
theorem find?_updWhere {α : Type} (q : α → Bool) (f : α → α) (h : ∀ a, q a = true → q (f a) = true) (l : List α) :
    (updWhere q f l).find? q = (l.find? q).map f := by
  induction l with
  | nil => rfl
  | cons a l ih =>
    simp only [updWhere, List.map_cons] at ih ⊢
    by_cases ha : q a = true
    · simp [ha, h a ha]
    · simp only [Bool.not_eq_true] at ha
      simp [ha, ih]

/-- An entry that the change does not select is found as it was. -/
theorem find?_updWhere_other {α : Type} (q p : α → Bool) (f : α → α) (h : ∀ a, p a = true → q a = false)
    (hf : ∀ a, p a = true → q (f a) = false) (l : List α) : (updWhere p f l).find? q = l.find? q := by
  induction l with
  | nil => rfl
  | cons a l ih =>
    simp only [updWhere, List.map_cons] at ih ⊢
    by_cases ha : p a = true
    · simp only [ha, if_true, List.find?_cons, h a ha, hf a ha, ih]
    · simp only [Bool.not_eq_true] at ha
      simp only [ha, Bool.false_eq_true, if_false, List.find?_cons, ih]

/-- Two changes of the same entries are one change. -/
theorem updWhere_updWhere {α : Type} (q : α → Bool) (f g : α → α) (h : ∀ a, q a = true → q (f a) = true) (l : List α) :
    updWhere q g (updWhere q f l) = updWhere q (fun a => g (f a)) l := by
  simp only [updWhere, List.map_map]
  apply List.map_congr_left
  intro a _
  by_cases ha : q a = true
  · simp [ha, h a ha]
  · simp [ha]

/-- The value set under a key is found there. -/
theorem find?_insertKV {κ α : Type} [DecidableEq κ] (l : List (κ × α)) (k : κ) (v : α) :
    (insertKV l k v).find? (fun p => p.1 = k) = some (k, v) := by
  unfold insertKV
  by_cases h : l.any (fun p => p.1 = k) = true
  · rw [if_pos h]
    induction l with
    | nil => simp at h
    | cons a l ih =>
      by_cases ha : a.1 = k
      · simp [ha]
      · simp only [List.any_cons, ha, decide_false, Bool.false_or] at h
        simp [ha, ih h]
  · rw [if_neg h]
    simp

/-- What stands under another key stays. -/
theorem find?_insertKV_other {κ α : Type} [DecidableEq κ] (l : List (κ × α)) {k j : κ} (v : α) (hj : j ≠ k) :
    (insertKV l k v).find? (fun p => p.1 = j) = l.find? (fun p => p.1 = j) := by
  have hk : ¬k = j := fun e => hj e.symm
  unfold insertKV
  by_cases h : l.any (fun p => p.1 = k) = true
  · rw [if_pos h]
    clear h
    induction l with
    | nil => rfl
    | cons a l ih =>
      by_cases ha : a.1 = k
      · have : ¬a.1 = j := fun e => hk (ha.symm.trans e)
        simp [ha, hk, ih]
      · by_cases hj' : a.1 = j
        · simp [hj', hj]
        · simp [ha, hj', ih]
  · rw [if_neg h]
    simp [hk]

/-- What a filter drops is not found. -/
theorem find?_filter_none {α : Type} (q p : α → Bool) (h : ∀ a, q a = true → p a = false) (l : List α) :
    (l.filter p).find? q = none := by
  rw [List.find?_eq_none]
  intro x hx hq
  have := (List.mem_filter.mp hx).2
  rw [h x hq] at this
  cases this

/-- What a filter keeps is found as it was. -/
theorem find?_filter_some {α : Type} (q p : α → Bool) (h : ∀ a, q a = true → p a = true) (l : List α) :
    (l.filter p).find? q = l.find? q := by
  induction l with
  | nil => rfl
  | cons a l ih =>
    by_cases hq : q a = true
    · simp [h a hq, hq]
    · simp only [Bool.not_eq_true] at hq
      by_cases hp : p a = true
      · simp [hp, hq, ih]
      · simp [hp, hq, ih]

/-- The lease changed, by its number. -/
theorem lease?_modLease (s : State) (id : Nat) (f : Lease → Lease) (hf : ∀ L, (f L).id = L.id) :
    (s.modLease id f).lease? id = (s.lease? id).map f :=
  find?_updWhere _ _ (by intro a h; simpa [hf] using h) _

/-- Every other lease. -/
theorem lease?_modLease_other (s : State) {id j : Nat} (f : Lease → Lease) (hf : ∀ L, (f L).id = L.id) (hj : j ≠ id) :
    (s.modLease id f).lease? j = s.lease? j :=
  find?_updWhere_other _ _ _ (by intro a h; simp at h ⊢; omega) (by intro a h; simp [hf] at h ⊢; omega) _

/-- The PE changed, by its place. -/
theorem pe?_modPE (L : Lease) (dx dy : Nat) (f : PE → PE) (hf : ∀ p, (f p).dx = p.dx ∧ (f p).dy = p.dy) :
    (L.modPE dx dy f).pe? dx dy = (L.pe? dx dy).map f :=
  find?_updWhere _ _ (by intro a h; simpa [hf] using h) _

/-- Every other PE of the lease. -/
theorem pe?_modPE_other (L : Lease) {dx dy x y : Nat} (f : PE → PE) (hf : ∀ p, (f p).dx = p.dx ∧ (f p).dy = p.dy)
    (h : ¬(x = dx ∧ y = dy)) : (L.modPE dx dy f).pe? x y = L.pe? x y :=
  find?_updWhere_other _ _ _ (by intro a ha; simp at ha ⊢; omega) (by intro a ha; simp [hf] at ha ⊢; omega) _

/-- Two changes of one PE of a lease are one change. -/
theorem modPE_modPE (s : State) (site : SiteRef) (f g : PE → PE) (hf : ∀ p, (f p).dx = p.dx ∧ (f p).dy = p.dy) :
    (s.modPE site f).modPE site g = s.modPE site (fun p => g (f p)) := by
  have h1 : ∀ L : Lease, (L.modPE site.dx site.dy f).modPE site.dx site.dy g
      = L.modPE site.dx site.dy (fun p => g (f p)) := by
    intro L
    simp only [Lease.modPE, updWhere_updWhere (fun p : PE => p.dx = site.dx && p.dy = site.dy) f g
      (by intro a h; simpa [hf] using h)]
  have h2 := updWhere_updWhere (fun L : Lease => decide (L.id = site.lease)) (fun L => L.modPE site.dx site.dy f)
    (fun L => L.modPE site.dx site.dy g) (by intro a h; exact h) s.leases
  simp only [State.modPE, State.modLease, h2, h1]

/-- The port changed, by its PORTID. -/
theorem port?_modPort (s : State) (id : Nat) (f : Port → Port) (hf : ∀ p, (f p).id = p.id) :
    (s.modPort id f).port? id = (s.port? id).map f :=
  find?_updWhere _ _ (by intro a h; simpa [hf] using h) _

/-- Every other port. -/
theorem port?_modPort_other (s : State) {id j : Nat} (f : Port → Port) (hf : ∀ p, (f p).id = p.id) (hj : j ≠ id) :
    (s.modPort id f).port? j = s.port? j :=
  find?_updWhere_other _ _ _ (by intro a h; simp at h ⊢; omega) (by intro a h; simp [hf] at h ⊢; omega) _

/-- The context changed, by its tenant. -/
theorem ctx?_modCtx (s : State) (tid : Nat) (f : Ctx → Ctx) (hf : ∀ c, (f c).tid = c.tid) :
    (s.modCtx tid f).ctx? tid = (s.ctx? tid).map f :=
  find?_updWhere _ _ (by intro a h; simpa [hf] using h) _

/-- Every other context. -/
theorem ctx?_modCtx_other (s : State) {tid j : Nat} (f : Ctx → Ctx) (hf : ∀ c, (f c).tid = c.tid) (hj : j ≠ tid) :
    (s.modCtx tid f).ctx? j = s.ctx? j :=
  find?_updWhere_other _ _ _ (by intro a h; simp at h ⊢; omega) (by intro a h; simp [hf] at h ⊢; omega) _

/-- The dependency-table entry changed, by its die and index. -/
theorem task?_modTask (s : State) (die idx : Nat) (f : Task → Task) (hf : ∀ t, (f t).die = t.die ∧ (f t).idx = t.idx) :
    (s.modTask die idx f).task? die idx = (s.task? die idx).map f :=
  find?_updWhere _ _ (by intro a h; simpa [hf] using h) _

/-- The start list changed, by its slot. -/
theorem sl?_modSl (s : State) (slot : Nat) (f : StartList → StartList) (hf : ∀ l, (f l).slot = l.slot) :
    (s.modSl slot f).sl? slot = (s.sl? slot).map f :=
  find?_updWhere _ _ (by intro a h; simpa [hf] using h) _

/-- Every other start list. -/
theorem sl?_modSl_other (s : State) {slot j : Nat} (f : StartList → StartList) (hf : ∀ l, (f l).slot = l.slot)
    (hj : j ≠ slot) : (s.modSl slot f).sl? j = s.sl? j :=
  find?_updWhere_other _ _ _ (by intro a h; simp at h ⊢; omega) (by intro a h; simp [hf] at h ⊢; omega) _

/-- The command changed, by its number. -/
theorem cmd?_modCmd (s : State) (id : Nat) (f : EngCmd → EngCmd) (hf : ∀ c, (f c).id = c.id) :
    (s.modCmd id f).cmd? id = (s.cmd? id).map f :=
  find?_updWhere _ _ (by intro a h; simpa [hf] using h) _

end Sys2Proof.Machine
end

