-- ==== Sys2Proof/Laws/State.lean ====
section
/-! SUPPORT. What each named update of the state leaves as it is, field by field, and as one equation. -/

namespace Sys2Proof.Machine

open Sys2Proof

/-- Changing a lease changes nothing but `leases`. -/
theorem State.modLease_only (s : State) (id : Nat) (f : Lease → Lease) : s.modLease id f = { s with leases := (s.modLease id f).leases } := rfl
@[simp] theorem State.modLease_agenda (s : State) (id : Nat) (f : Lease → Lease) : (s.modLease id f).agenda = s.agenda := rfl
@[simp] theorem State.modLease_focus (s : State) (id : Nat) (f : Lease → Lease) : (s.modLease id f).focus = s.focus := rfl
@[simp] theorem State.modLease_nextId (s : State) (id : Nat) (f : Lease → Lease) : (s.modLease id f).nextId = s.nextId := rfl
@[simp] theorem State.modLease_freeCount (s : State) (id : Nat) (f : Lease → Lease) : (s.modLease id f).freeCount = s.freeCount := rfl
@[simp] theorem State.modLease_fuses (s : State) (id : Nat) (f : Lease → Lease) : (s.modLease id f).fuses = s.fuses := rfl
@[simp] theorem State.modLease_power (s : State) (id : Nat) (f : Lease → Lease) : (s.modLease id f).power = s.power := rfl
@[simp] theorem State.modLease_supply (s : State) (id : Nat) (f : Lease → Lease) : (s.modLease id f).supply = s.supply := rfl
@[simp] theorem State.modLease_lossAt (s : State) (id : Nat) (f : Lease → Lease) : (s.modLease id f).lossAt = s.lossAt := rfl
@[simp] theorem State.modLease_bootFailed (s : State) (id : Nat) (f : Lease → Lease) : (s.modLease id f).bootFailed = s.bootFailed := rfl
@[simp] theorem State.modLease_measurements (s : State) (id : Nat) (f : Lease → Lease) : (s.modLease id f).measurements = s.measurements := rfl
@[simp] theorem State.modLease_energyReady (s : State) (id : Nat) (f : Lease → Lease) : (s.modLease id f).energyReady = s.energyReady := rfl
@[simp] theorem State.modLease_holdupFailed (s : State) (id : Nat) (f : Lease → Lease) : (s.modLease id f).holdupFailed = s.holdupFailed := rfl
@[simp] theorem State.modLease_everAdmitted (s : State) (id : Nat) (f : Lease → Lease) : (s.modLease id f).everAdmitted = s.everAdmitted := rfl
@[simp] theorem State.modLease_bootEnd (s : State) (id : Nat) (f : Lease → Lease) : (s.modLease id f).bootEnd = s.bootEnd := rfl
@[simp] theorem State.modLease_time (s : State) (id : Nat) (f : Lease → Lease) : (s.modLease id f).time = s.time := rfl
@[simp] theorem State.modLease_fabric (s : State) (id : Nat) (f : Lease → Lease) : (s.modLease id f).fabric = s.fabric := rfl
@[simp] theorem State.modLease_fabricStopped (s : State) (id : Nat) (f : Lease → Lease) : (s.modLease id f).fabricStopped = s.fabricStopped := rfl
@[simp] theorem State.modLease_uncoreStopped (s : State) (id : Nat) (f : Lease → Lease) : (s.modLease id f).uncoreStopped = s.uncoreStopped := rfl
@[simp] theorem State.modLease_lap (s : State) (id : Nat) (f : Lease → Lease) : (s.modLease id f).lap = s.lap := rfl
@[simp] theorem State.modLease_waitingCreates (s : State) (id : Nat) (f : Lease → Lease) : (s.modLease id f).waitingCreates = s.waitingCreates := rfl
@[simp] theorem State.modLease_links (s : State) (id : Nat) (f : Lease → Lease) : (s.modLease id f).links = s.links := rfl
@[simp] theorem State.modLease_diagSwitched (s : State) (id : Nat) (f : Lease → Lease) : (s.modLease id f).diagSwitched = s.diagSwitched := rfl
@[simp] theorem State.modLease_spans (s : State) (id : Nat) (f : Lease → Lease) : (s.modLease id f).spans = s.spans := rfl
@[simp] theorem State.modLease_routes (s : State) (id : Nat) (f : Lease → Lease) : (s.modLease id f).routes = s.routes := rfl
@[simp] theorem State.modLease_pkgNo (s : State) (id : Nat) (f : Lease → Lease) : (s.modLease id f).pkgNo = s.pkgNo := rfl
@[simp] theorem State.modLease_hdm (s : State) (id : Nat) (f : Lease → Lease) : (s.modLease id f).hdm = s.hdm := rfl
@[simp] theorem State.modLease_foreign (s : State) (id : Nat) (f : Lease → Lease) : (s.modLease id f).foreign = s.foreign := rfl
@[simp] theorem State.modLease_identity (s : State) (id : Nat) (f : Lease → Lease) : (s.modLease id f).identity = s.identity := rfl
@[simp] theorem State.modLease_mailbox (s : State) (id : Nat) (f : Lease → Lease) : (s.modLease id f).mailbox = s.mailbox := rfl
@[simp] theorem State.modLease_msixTable (s : State) (id : Nat) (f : Lease → Lease) : (s.modLease id f).msixTable = s.msixTable := rfl
@[simp] theorem State.modLease_msixPending (s : State) (id : Nat) (f : Lease → Lease) : (s.modLease id f).msixPending = s.msixPending := rfl
@[simp] theorem State.modLease_msiSent (s : State) (id : Nat) (f : Lease → Lease) : (s.modLease id f).msiSent = s.msiSent := rfl
@[simp] theorem State.modLease_hostReply (s : State) (id : Nat) (f : Lease → Lease) : (s.modLease id f).hostReply = s.hostReply := rfl
@[simp] theorem State.modLease_spdmReply (s : State) (id : Nat) (f : Lease → Lease) : (s.modLease id f).spdmReply = s.spdmReply := rfl
@[simp] theorem State.modLease_reply (s : State) (id : Nat) (f : Lease → Lease) : (s.modLease id f).reply = s.reply := rfl
@[simp] theorem State.modLease_ctxs (s : State) (id : Nat) (f : Lease → Lease) : (s.modLease id f).ctxs = s.ctxs := rfl
@[simp] theorem State.modLease_startLists (s : State) (id : Nat) (f : Lease → Lease) : (s.modLease id f).startLists = s.startLists := rfl
@[simp] theorem State.modLease_graphs (s : State) (id : Nat) (f : Lease → Lease) : (s.modLease id f).graphs = s.graphs := rfl
@[simp] theorem State.modLease_tasks (s : State) (id : Nat) (f : Lease → Lease) : (s.modLease id f).tasks = s.tasks := rfl
@[simp] theorem State.modLease_readyNo (s : State) (id : Nat) (f : Lease → Lease) : (s.modLease id f).readyNo = s.readyNo := rfl
@[simp] theorem State.modLease_retired (s : State) (id : Nat) (f : Lease → Lease) : (s.modLease id f).retired = s.retired := rfl
@[simp] theorem State.modLease_resvs (s : State) (id : Nat) (f : Lease → Lease) : (s.modLease id f).resvs = s.resvs := rfl
@[simp] theorem State.modLease_dieTurn (s : State) (id : Nat) (f : Lease → Lease) : (s.modLease id f).dieTurn = s.dieTurn := rfl
@[simp] theorem State.modLease_ports (s : State) (id : Nat) (f : Lease → Lease) : (s.modLease id f).ports = s.ports := rfl
@[simp] theorem State.modLease_cmds (s : State) (id : Nat) (f : Lease → Lease) : (s.modLease id f).cmds = s.cmds := rfl
@[simp] theorem State.modLease_vqueues (s : State) (id : Nat) (f : Lease → Lease) : (s.modLease id f).vqueues = s.vqueues := rfl
@[simp] theorem State.modLease_engines (s : State) (id : Nat) (f : Lease → Lease) : (s.modLease id f).engines = s.engines := rfl
@[simp] theorem State.modLease_teams (s : State) (id : Nat) (f : Lease → Lease) : (s.modLease id f).teams = s.teams := rfl
@[simp] theorem State.modLease_syncQ (s : State) (id : Nat) (f : Lease → Lease) : (s.modLease id f).syncQ = s.syncQ := rfl
@[simp] theorem State.modLease_waiters (s : State) (id : Nat) (f : Lease → Lease) : (s.modLease id f).waiters = s.waiters := rfl
@[simp] theorem State.modLease_mem (s : State) (id : Nat) (f : Lease → Lease) : (s.modLease id f).mem = s.mem := rfl
@[simp] theorem State.modLease_poisoned (s : State) (id : Nat) (f : Lease → Lease) : (s.modLease id f).poisoned = s.poisoned := rfl
@[simp] theorem State.modLease_l2 (s : State) (id : Nat) (f : Lease → Lease) : (s.modLease id f).l2 = s.l2 := rfl
@[simp] theorem State.modLease_near (s : State) (id : Nat) (f : Lease → Lease) : (s.modLease id f).near = s.near := rfl
@[simp] theorem State.modLease_rrc (s : State) (id : Nat) (f : Lease → Lease) : (s.modLease id f).rrc = s.rrc := rfl
@[simp] theorem State.modLease_dir (s : State) (id : Nat) (f : Lease → Lease) : (s.modLease id f).dir = s.dir := rfl
@[simp] theorem State.modLease_tlb (s : State) (id : Nat) (f : Lease → Lease) : (s.modLease id f).tlb = s.tlb := rfl
@[simp] theorem State.modLease_walkCache (s : State) (id : Nat) (f : Lease → Lease) : (s.modLease id f).walkCache = s.walkCache := rfl
@[simp] theorem State.modLease_roots (s : State) (id : Nat) (f : Lease → Lease) : (s.modLease id f).roots = s.roots := rfl
@[simp] theorem State.modLease_roots2 (s : State) (id : Nat) (f : Lease → Lease) : (s.modLease id f).roots2 = s.roots2 := rfl
@[simp] theorem State.modLease_s1seq (s : State) (id : Nat) (f : Lease → Lease) : (s.modLease id f).s1seq = s.s1seq := rfl
@[simp] theorem State.modLease_s2seq (s : State) (id : Nat) (f : Lease → Lease) : (s.modLease id f).s2seq = s.s2seq := rfl
@[simp] theorem State.modLease_owners (s : State) (id : Nat) (f : Lease → Lease) : (s.modLease id f).owners = s.owners := rfl
@[simp] theorem State.modLease_keys (s : State) (id : Nat) (f : Lease → Lease) : (s.modLease id f).keys = s.keys := rfl
@[simp] theorem State.modLease_sealed (s : State) (id : Nat) (f : Lease → Lease) : (s.modLease id f).sealed = s.sealed := rfl
@[simp] theorem State.modLease_tags (s : State) (id : Nat) (f : Lease → Lease) : (s.modLease id f).tags = s.tags := rfl
@[simp] theorem State.modLease_tagFailed (s : State) (id : Nat) (f : Lease → Lease) : (s.modLease id f).tagFailed = s.tagFailed := rfl
@[simp] theorem State.modLease_eccFailed (s : State) (id : Nat) (f : Lease → Lease) : (s.modLease id f).eccFailed = s.eccFailed := rfl
@[simp] theorem State.modLease_pools (s : State) (id : Nat) (f : Lease → Lease) : (s.modLease id f).pools = s.pools := rfl
@[simp] theorem State.modLease_invals (s : State) (id : Nat) (f : Lease → Lease) : (s.modLease id f).invals = s.invals := rfl
@[simp] theorem State.modLease_raceTags (s : State) (id : Nat) (f : Lease → Lease) : (s.modLease id f).raceTags = s.raceTags := rfl
@[simp] theorem State.modLease_racePools (s : State) (id : Nat) (f : Lease → Lease) : (s.modLease id f).racePools = s.racePools := rfl
@[simp] theorem State.modLease_oldest (s : State) (id : Nat) (f : Lease → Lease) : (s.modLease id f).oldest = s.oldest := rfl
@[simp] theorem State.modLease_parties (s : State) (id : Nat) (f : Lease → Lease) : (s.modLease id f).parties = s.parties := rfl
@[simp] theorem State.modLease_budgets (s : State) (id : Nat) (f : Lease → Lease) : (s.modLease id f).budgets = s.budgets := rfl
@[simp] theorem State.modLease_counters (s : State) (id : Nat) (f : Lease → Lease) : (s.modLease id f).counters = s.counters := rfl
@[simp] theorem State.modLease_traps (s : State) (id : Nat) (f : Lease → Lease) : (s.modLease id f).traps = s.traps := rfl
@[simp] theorem State.modLease_errorLog (s : State) (id : Nat) (f : Lease → Lease) : (s.modLease id f).errorLog = s.errorLog := rfl
@[simp] theorem State.modLease_siteChecks (s : State) (id : Nat) (f : Lease → Lease) : (s.modLease id f).siteChecks = s.siteChecks := rfl
@[simp] theorem State.modLease_siteThresh (s : State) (id : Nat) (f : Lease → Lease) : (s.modLease id f).siteThresh = s.siteThresh := rfl
@[simp] theorem State.modLease_halvings (s : State) (id : Nat) (f : Lease → Lease) : (s.modLease id f).halvings = s.halvings := rfl
@[simp] theorem State.modLease_errCounts (s : State) (id : Nat) (f : Lease → Lease) : (s.modLease id f).errCounts = s.errCounts := rfl
@[simp] theorem State.modLease_measuring (s : State) (id : Nat) (f : Lease → Lease) : (s.modLease id f).measuring = s.measuring := rfl
@[simp] theorem State.modLease_withheld (s : State) (id : Nat) (f : Lease → Lease) : (s.modLease id f).withheld = s.withheld := rfl
@[simp] theorem State.modLease_standing (s : State) (id : Nat) (f : Lease → Lease) : (s.modLease id f).standing = s.standing := rfl
@[simp] theorem State.modLease_holdup (s : State) (id : Nat) (f : Lease → Lease) : (s.modLease id f).holdup = s.holdup := rfl
@[simp] theorem State.modLease_keep (s : State) (id : Nat) (f : Lease → Lease) : (s.modLease id f).keep = s.keep := rfl
@[simp] theorem State.modLease_nonce (s : State) (id : Nat) (f : Lease → Lease) : (s.modLease id f).nonce = s.nonce := rfl
@[simp] theorem State.modLease_freeze (s : State) (id : Nat) (f : Lease → Lease) : (s.modLease id f).freeze = s.freeze := rfl
@[simp] theorem State.modLease_readOut (s : State) (id : Nat) (f : Lease → Lease) : (s.modLease id f).readOut = s.readOut := rfl
@[simp] theorem State.modLease_resets (s : State) (id : Nat) (f : Lease → Lease) : (s.modLease id f).resets = s.resets := rfl
@[simp] theorem State.modLease_waysOut (s : State) (id : Nat) (f : Lease → Lease) : (s.modLease id f).waysOut = s.waysOut := rfl
@[simp] theorem State.modLease_framesOut (s : State) (id : Nat) (f : Lease → Lease) : (s.modLease id f).framesOut = s.framesOut := rfl

/-- Changing a PE changes nothing but `leases`. -/
theorem State.modPE_only (s : State) (site : SiteRef) (f : PE → PE) : s.modPE site f = { s with leases := (s.modPE site f).leases } := rfl
@[simp] theorem State.modPE_agenda (s : State) (site : SiteRef) (f : PE → PE) : (s.modPE site f).agenda = s.agenda := rfl
@[simp] theorem State.modPE_focus (s : State) (site : SiteRef) (f : PE → PE) : (s.modPE site f).focus = s.focus := rfl
@[simp] theorem State.modPE_nextId (s : State) (site : SiteRef) (f : PE → PE) : (s.modPE site f).nextId = s.nextId := rfl
@[simp] theorem State.modPE_freeCount (s : State) (site : SiteRef) (f : PE → PE) : (s.modPE site f).freeCount = s.freeCount := rfl
@[simp] theorem State.modPE_fuses (s : State) (site : SiteRef) (f : PE → PE) : (s.modPE site f).fuses = s.fuses := rfl
@[simp] theorem State.modPE_power (s : State) (site : SiteRef) (f : PE → PE) : (s.modPE site f).power = s.power := rfl
@[simp] theorem State.modPE_supply (s : State) (site : SiteRef) (f : PE → PE) : (s.modPE site f).supply = s.supply := rfl
@[simp] theorem State.modPE_lossAt (s : State) (site : SiteRef) (f : PE → PE) : (s.modPE site f).lossAt = s.lossAt := rfl
@[simp] theorem State.modPE_bootFailed (s : State) (site : SiteRef) (f : PE → PE) : (s.modPE site f).bootFailed = s.bootFailed := rfl
@[simp] theorem State.modPE_measurements (s : State) (site : SiteRef) (f : PE → PE) : (s.modPE site f).measurements = s.measurements := rfl
@[simp] theorem State.modPE_energyReady (s : State) (site : SiteRef) (f : PE → PE) : (s.modPE site f).energyReady = s.energyReady := rfl
@[simp] theorem State.modPE_holdupFailed (s : State) (site : SiteRef) (f : PE → PE) : (s.modPE site f).holdupFailed = s.holdupFailed := rfl
@[simp] theorem State.modPE_everAdmitted (s : State) (site : SiteRef) (f : PE → PE) : (s.modPE site f).everAdmitted = s.everAdmitted := rfl
@[simp] theorem State.modPE_bootEnd (s : State) (site : SiteRef) (f : PE → PE) : (s.modPE site f).bootEnd = s.bootEnd := rfl
@[simp] theorem State.modPE_time (s : State) (site : SiteRef) (f : PE → PE) : (s.modPE site f).time = s.time := rfl
@[simp] theorem State.modPE_fabric (s : State) (site : SiteRef) (f : PE → PE) : (s.modPE site f).fabric = s.fabric := rfl
@[simp] theorem State.modPE_fabricStopped (s : State) (site : SiteRef) (f : PE → PE) : (s.modPE site f).fabricStopped = s.fabricStopped := rfl
@[simp] theorem State.modPE_uncoreStopped (s : State) (site : SiteRef) (f : PE → PE) : (s.modPE site f).uncoreStopped = s.uncoreStopped := rfl
@[simp] theorem State.modPE_lap (s : State) (site : SiteRef) (f : PE → PE) : (s.modPE site f).lap = s.lap := rfl
@[simp] theorem State.modPE_waitingCreates (s : State) (site : SiteRef) (f : PE → PE) : (s.modPE site f).waitingCreates = s.waitingCreates := rfl
@[simp] theorem State.modPE_links (s : State) (site : SiteRef) (f : PE → PE) : (s.modPE site f).links = s.links := rfl
@[simp] theorem State.modPE_diagSwitched (s : State) (site : SiteRef) (f : PE → PE) : (s.modPE site f).diagSwitched = s.diagSwitched := rfl
@[simp] theorem State.modPE_spans (s : State) (site : SiteRef) (f : PE → PE) : (s.modPE site f).spans = s.spans := rfl
@[simp] theorem State.modPE_routes (s : State) (site : SiteRef) (f : PE → PE) : (s.modPE site f).routes = s.routes := rfl
@[simp] theorem State.modPE_pkgNo (s : State) (site : SiteRef) (f : PE → PE) : (s.modPE site f).pkgNo = s.pkgNo := rfl
@[simp] theorem State.modPE_hdm (s : State) (site : SiteRef) (f : PE → PE) : (s.modPE site f).hdm = s.hdm := rfl
@[simp] theorem State.modPE_foreign (s : State) (site : SiteRef) (f : PE → PE) : (s.modPE site f).foreign = s.foreign := rfl
@[simp] theorem State.modPE_identity (s : State) (site : SiteRef) (f : PE → PE) : (s.modPE site f).identity = s.identity := rfl
@[simp] theorem State.modPE_mailbox (s : State) (site : SiteRef) (f : PE → PE) : (s.modPE site f).mailbox = s.mailbox := rfl
@[simp] theorem State.modPE_msixTable (s : State) (site : SiteRef) (f : PE → PE) : (s.modPE site f).msixTable = s.msixTable := rfl
@[simp] theorem State.modPE_msixPending (s : State) (site : SiteRef) (f : PE → PE) : (s.modPE site f).msixPending = s.msixPending := rfl
@[simp] theorem State.modPE_msiSent (s : State) (site : SiteRef) (f : PE → PE) : (s.modPE site f).msiSent = s.msiSent := rfl
@[simp] theorem State.modPE_hostReply (s : State) (site : SiteRef) (f : PE → PE) : (s.modPE site f).hostReply = s.hostReply := rfl
@[simp] theorem State.modPE_spdmReply (s : State) (site : SiteRef) (f : PE → PE) : (s.modPE site f).spdmReply = s.spdmReply := rfl
@[simp] theorem State.modPE_reply (s : State) (site : SiteRef) (f : PE → PE) : (s.modPE site f).reply = s.reply := rfl
@[simp] theorem State.modPE_ctxs (s : State) (site : SiteRef) (f : PE → PE) : (s.modPE site f).ctxs = s.ctxs := rfl
@[simp] theorem State.modPE_startLists (s : State) (site : SiteRef) (f : PE → PE) : (s.modPE site f).startLists = s.startLists := rfl
@[simp] theorem State.modPE_graphs (s : State) (site : SiteRef) (f : PE → PE) : (s.modPE site f).graphs = s.graphs := rfl
@[simp] theorem State.modPE_tasks (s : State) (site : SiteRef) (f : PE → PE) : (s.modPE site f).tasks = s.tasks := rfl
@[simp] theorem State.modPE_readyNo (s : State) (site : SiteRef) (f : PE → PE) : (s.modPE site f).readyNo = s.readyNo := rfl
@[simp] theorem State.modPE_retired (s : State) (site : SiteRef) (f : PE → PE) : (s.modPE site f).retired = s.retired := rfl
@[simp] theorem State.modPE_resvs (s : State) (site : SiteRef) (f : PE → PE) : (s.modPE site f).resvs = s.resvs := rfl
@[simp] theorem State.modPE_dieTurn (s : State) (site : SiteRef) (f : PE → PE) : (s.modPE site f).dieTurn = s.dieTurn := rfl
@[simp] theorem State.modPE_ports (s : State) (site : SiteRef) (f : PE → PE) : (s.modPE site f).ports = s.ports := rfl
@[simp] theorem State.modPE_cmds (s : State) (site : SiteRef) (f : PE → PE) : (s.modPE site f).cmds = s.cmds := rfl
@[simp] theorem State.modPE_vqueues (s : State) (site : SiteRef) (f : PE → PE) : (s.modPE site f).vqueues = s.vqueues := rfl
@[simp] theorem State.modPE_engines (s : State) (site : SiteRef) (f : PE → PE) : (s.modPE site f).engines = s.engines := rfl
@[simp] theorem State.modPE_teams (s : State) (site : SiteRef) (f : PE → PE) : (s.modPE site f).teams = s.teams := rfl
@[simp] theorem State.modPE_syncQ (s : State) (site : SiteRef) (f : PE → PE) : (s.modPE site f).syncQ = s.syncQ := rfl
@[simp] theorem State.modPE_waiters (s : State) (site : SiteRef) (f : PE → PE) : (s.modPE site f).waiters = s.waiters := rfl
@[simp] theorem State.modPE_mem (s : State) (site : SiteRef) (f : PE → PE) : (s.modPE site f).mem = s.mem := rfl
@[simp] theorem State.modPE_poisoned (s : State) (site : SiteRef) (f : PE → PE) : (s.modPE site f).poisoned = s.poisoned := rfl
@[simp] theorem State.modPE_l2 (s : State) (site : SiteRef) (f : PE → PE) : (s.modPE site f).l2 = s.l2 := rfl
@[simp] theorem State.modPE_near (s : State) (site : SiteRef) (f : PE → PE) : (s.modPE site f).near = s.near := rfl
@[simp] theorem State.modPE_rrc (s : State) (site : SiteRef) (f : PE → PE) : (s.modPE site f).rrc = s.rrc := rfl
@[simp] theorem State.modPE_dir (s : State) (site : SiteRef) (f : PE → PE) : (s.modPE site f).dir = s.dir := rfl
@[simp] theorem State.modPE_tlb (s : State) (site : SiteRef) (f : PE → PE) : (s.modPE site f).tlb = s.tlb := rfl
@[simp] theorem State.modPE_walkCache (s : State) (site : SiteRef) (f : PE → PE) : (s.modPE site f).walkCache = s.walkCache := rfl
@[simp] theorem State.modPE_roots (s : State) (site : SiteRef) (f : PE → PE) : (s.modPE site f).roots = s.roots := rfl
@[simp] theorem State.modPE_roots2 (s : State) (site : SiteRef) (f : PE → PE) : (s.modPE site f).roots2 = s.roots2 := rfl
@[simp] theorem State.modPE_s1seq (s : State) (site : SiteRef) (f : PE → PE) : (s.modPE site f).s1seq = s.s1seq := rfl
@[simp] theorem State.modPE_s2seq (s : State) (site : SiteRef) (f : PE → PE) : (s.modPE site f).s2seq = s.s2seq := rfl
@[simp] theorem State.modPE_owners (s : State) (site : SiteRef) (f : PE → PE) : (s.modPE site f).owners = s.owners := rfl
@[simp] theorem State.modPE_keys (s : State) (site : SiteRef) (f : PE → PE) : (s.modPE site f).keys = s.keys := rfl
@[simp] theorem State.modPE_sealed (s : State) (site : SiteRef) (f : PE → PE) : (s.modPE site f).sealed = s.sealed := rfl
@[simp] theorem State.modPE_tags (s : State) (site : SiteRef) (f : PE → PE) : (s.modPE site f).tags = s.tags := rfl
@[simp] theorem State.modPE_tagFailed (s : State) (site : SiteRef) (f : PE → PE) : (s.modPE site f).tagFailed = s.tagFailed := rfl
@[simp] theorem State.modPE_eccFailed (s : State) (site : SiteRef) (f : PE → PE) : (s.modPE site f).eccFailed = s.eccFailed := rfl
@[simp] theorem State.modPE_pools (s : State) (site : SiteRef) (f : PE → PE) : (s.modPE site f).pools = s.pools := rfl
@[simp] theorem State.modPE_invals (s : State) (site : SiteRef) (f : PE → PE) : (s.modPE site f).invals = s.invals := rfl
@[simp] theorem State.modPE_raceTags (s : State) (site : SiteRef) (f : PE → PE) : (s.modPE site f).raceTags = s.raceTags := rfl
@[simp] theorem State.modPE_racePools (s : State) (site : SiteRef) (f : PE → PE) : (s.modPE site f).racePools = s.racePools := rfl
@[simp] theorem State.modPE_oldest (s : State) (site : SiteRef) (f : PE → PE) : (s.modPE site f).oldest = s.oldest := rfl
@[simp] theorem State.modPE_parties (s : State) (site : SiteRef) (f : PE → PE) : (s.modPE site f).parties = s.parties := rfl
@[simp] theorem State.modPE_budgets (s : State) (site : SiteRef) (f : PE → PE) : (s.modPE site f).budgets = s.budgets := rfl
@[simp] theorem State.modPE_counters (s : State) (site : SiteRef) (f : PE → PE) : (s.modPE site f).counters = s.counters := rfl
@[simp] theorem State.modPE_traps (s : State) (site : SiteRef) (f : PE → PE) : (s.modPE site f).traps = s.traps := rfl
@[simp] theorem State.modPE_errorLog (s : State) (site : SiteRef) (f : PE → PE) : (s.modPE site f).errorLog = s.errorLog := rfl
@[simp] theorem State.modPE_siteChecks (s : State) (site : SiteRef) (f : PE → PE) : (s.modPE site f).siteChecks = s.siteChecks := rfl
@[simp] theorem State.modPE_siteThresh (s : State) (site : SiteRef) (f : PE → PE) : (s.modPE site f).siteThresh = s.siteThresh := rfl
@[simp] theorem State.modPE_halvings (s : State) (site : SiteRef) (f : PE → PE) : (s.modPE site f).halvings = s.halvings := rfl
@[simp] theorem State.modPE_errCounts (s : State) (site : SiteRef) (f : PE → PE) : (s.modPE site f).errCounts = s.errCounts := rfl
@[simp] theorem State.modPE_measuring (s : State) (site : SiteRef) (f : PE → PE) : (s.modPE site f).measuring = s.measuring := rfl
@[simp] theorem State.modPE_withheld (s : State) (site : SiteRef) (f : PE → PE) : (s.modPE site f).withheld = s.withheld := rfl
@[simp] theorem State.modPE_standing (s : State) (site : SiteRef) (f : PE → PE) : (s.modPE site f).standing = s.standing := rfl
@[simp] theorem State.modPE_holdup (s : State) (site : SiteRef) (f : PE → PE) : (s.modPE site f).holdup = s.holdup := rfl
@[simp] theorem State.modPE_keep (s : State) (site : SiteRef) (f : PE → PE) : (s.modPE site f).keep = s.keep := rfl
@[simp] theorem State.modPE_nonce (s : State) (site : SiteRef) (f : PE → PE) : (s.modPE site f).nonce = s.nonce := rfl
@[simp] theorem State.modPE_freeze (s : State) (site : SiteRef) (f : PE → PE) : (s.modPE site f).freeze = s.freeze := rfl
@[simp] theorem State.modPE_readOut (s : State) (site : SiteRef) (f : PE → PE) : (s.modPE site f).readOut = s.readOut := rfl
@[simp] theorem State.modPE_resets (s : State) (site : SiteRef) (f : PE → PE) : (s.modPE site f).resets = s.resets := rfl
@[simp] theorem State.modPE_waysOut (s : State) (site : SiteRef) (f : PE → PE) : (s.modPE site f).waysOut = s.waysOut := rfl
@[simp] theorem State.modPE_framesOut (s : State) (site : SiteRef) (f : PE → PE) : (s.modPE site f).framesOut = s.framesOut := rfl

/-- Changing a port changes nothing but `ports`. -/
theorem State.modPort_only (s : State) (id : Nat) (f : Port → Port) : s.modPort id f = { s with ports := (s.modPort id f).ports } := rfl
@[simp] theorem State.modPort_agenda (s : State) (id : Nat) (f : Port → Port) : (s.modPort id f).agenda = s.agenda := rfl
@[simp] theorem State.modPort_focus (s : State) (id : Nat) (f : Port → Port) : (s.modPort id f).focus = s.focus := rfl
@[simp] theorem State.modPort_nextId (s : State) (id : Nat) (f : Port → Port) : (s.modPort id f).nextId = s.nextId := rfl
@[simp] theorem State.modPort_freeCount (s : State) (id : Nat) (f : Port → Port) : (s.modPort id f).freeCount = s.freeCount := rfl
@[simp] theorem State.modPort_fuses (s : State) (id : Nat) (f : Port → Port) : (s.modPort id f).fuses = s.fuses := rfl
@[simp] theorem State.modPort_power (s : State) (id : Nat) (f : Port → Port) : (s.modPort id f).power = s.power := rfl
@[simp] theorem State.modPort_supply (s : State) (id : Nat) (f : Port → Port) : (s.modPort id f).supply = s.supply := rfl
@[simp] theorem State.modPort_lossAt (s : State) (id : Nat) (f : Port → Port) : (s.modPort id f).lossAt = s.lossAt := rfl
@[simp] theorem State.modPort_bootFailed (s : State) (id : Nat) (f : Port → Port) : (s.modPort id f).bootFailed = s.bootFailed := rfl
@[simp] theorem State.modPort_measurements (s : State) (id : Nat) (f : Port → Port) : (s.modPort id f).measurements = s.measurements := rfl
@[simp] theorem State.modPort_energyReady (s : State) (id : Nat) (f : Port → Port) : (s.modPort id f).energyReady = s.energyReady := rfl
@[simp] theorem State.modPort_holdupFailed (s : State) (id : Nat) (f : Port → Port) : (s.modPort id f).holdupFailed = s.holdupFailed := rfl
@[simp] theorem State.modPort_everAdmitted (s : State) (id : Nat) (f : Port → Port) : (s.modPort id f).everAdmitted = s.everAdmitted := rfl
@[simp] theorem State.modPort_bootEnd (s : State) (id : Nat) (f : Port → Port) : (s.modPort id f).bootEnd = s.bootEnd := rfl
@[simp] theorem State.modPort_time (s : State) (id : Nat) (f : Port → Port) : (s.modPort id f).time = s.time := rfl
@[simp] theorem State.modPort_fabric (s : State) (id : Nat) (f : Port → Port) : (s.modPort id f).fabric = s.fabric := rfl
@[simp] theorem State.modPort_fabricStopped (s : State) (id : Nat) (f : Port → Port) : (s.modPort id f).fabricStopped = s.fabricStopped := rfl
@[simp] theorem State.modPort_uncoreStopped (s : State) (id : Nat) (f : Port → Port) : (s.modPort id f).uncoreStopped = s.uncoreStopped := rfl
@[simp] theorem State.modPort_lap (s : State) (id : Nat) (f : Port → Port) : (s.modPort id f).lap = s.lap := rfl
@[simp] theorem State.modPort_waitingCreates (s : State) (id : Nat) (f : Port → Port) : (s.modPort id f).waitingCreates = s.waitingCreates := rfl
@[simp] theorem State.modPort_links (s : State) (id : Nat) (f : Port → Port) : (s.modPort id f).links = s.links := rfl
@[simp] theorem State.modPort_diagSwitched (s : State) (id : Nat) (f : Port → Port) : (s.modPort id f).diagSwitched = s.diagSwitched := rfl
@[simp] theorem State.modPort_spans (s : State) (id : Nat) (f : Port → Port) : (s.modPort id f).spans = s.spans := rfl
@[simp] theorem State.modPort_routes (s : State) (id : Nat) (f : Port → Port) : (s.modPort id f).routes = s.routes := rfl
@[simp] theorem State.modPort_pkgNo (s : State) (id : Nat) (f : Port → Port) : (s.modPort id f).pkgNo = s.pkgNo := rfl
@[simp] theorem State.modPort_hdm (s : State) (id : Nat) (f : Port → Port) : (s.modPort id f).hdm = s.hdm := rfl
@[simp] theorem State.modPort_foreign (s : State) (id : Nat) (f : Port → Port) : (s.modPort id f).foreign = s.foreign := rfl
@[simp] theorem State.modPort_identity (s : State) (id : Nat) (f : Port → Port) : (s.modPort id f).identity = s.identity := rfl
@[simp] theorem State.modPort_mailbox (s : State) (id : Nat) (f : Port → Port) : (s.modPort id f).mailbox = s.mailbox := rfl
@[simp] theorem State.modPort_msixTable (s : State) (id : Nat) (f : Port → Port) : (s.modPort id f).msixTable = s.msixTable := rfl
@[simp] theorem State.modPort_msixPending (s : State) (id : Nat) (f : Port → Port) : (s.modPort id f).msixPending = s.msixPending := rfl
@[simp] theorem State.modPort_msiSent (s : State) (id : Nat) (f : Port → Port) : (s.modPort id f).msiSent = s.msiSent := rfl
@[simp] theorem State.modPort_hostReply (s : State) (id : Nat) (f : Port → Port) : (s.modPort id f).hostReply = s.hostReply := rfl
@[simp] theorem State.modPort_spdmReply (s : State) (id : Nat) (f : Port → Port) : (s.modPort id f).spdmReply = s.spdmReply := rfl
@[simp] theorem State.modPort_reply (s : State) (id : Nat) (f : Port → Port) : (s.modPort id f).reply = s.reply := rfl
@[simp] theorem State.modPort_ctxs (s : State) (id : Nat) (f : Port → Port) : (s.modPort id f).ctxs = s.ctxs := rfl
@[simp] theorem State.modPort_startLists (s : State) (id : Nat) (f : Port → Port) : (s.modPort id f).startLists = s.startLists := rfl
@[simp] theorem State.modPort_graphs (s : State) (id : Nat) (f : Port → Port) : (s.modPort id f).graphs = s.graphs := rfl
@[simp] theorem State.modPort_tasks (s : State) (id : Nat) (f : Port → Port) : (s.modPort id f).tasks = s.tasks := rfl
@[simp] theorem State.modPort_readyNo (s : State) (id : Nat) (f : Port → Port) : (s.modPort id f).readyNo = s.readyNo := rfl
@[simp] theorem State.modPort_retired (s : State) (id : Nat) (f : Port → Port) : (s.modPort id f).retired = s.retired := rfl
@[simp] theorem State.modPort_resvs (s : State) (id : Nat) (f : Port → Port) : (s.modPort id f).resvs = s.resvs := rfl
@[simp] theorem State.modPort_dieTurn (s : State) (id : Nat) (f : Port → Port) : (s.modPort id f).dieTurn = s.dieTurn := rfl
@[simp] theorem State.modPort_leases (s : State) (id : Nat) (f : Port → Port) : (s.modPort id f).leases = s.leases := rfl
@[simp] theorem State.modPort_cmds (s : State) (id : Nat) (f : Port → Port) : (s.modPort id f).cmds = s.cmds := rfl
@[simp] theorem State.modPort_vqueues (s : State) (id : Nat) (f : Port → Port) : (s.modPort id f).vqueues = s.vqueues := rfl
@[simp] theorem State.modPort_engines (s : State) (id : Nat) (f : Port → Port) : (s.modPort id f).engines = s.engines := rfl
@[simp] theorem State.modPort_teams (s : State) (id : Nat) (f : Port → Port) : (s.modPort id f).teams = s.teams := rfl
@[simp] theorem State.modPort_syncQ (s : State) (id : Nat) (f : Port → Port) : (s.modPort id f).syncQ = s.syncQ := rfl
@[simp] theorem State.modPort_waiters (s : State) (id : Nat) (f : Port → Port) : (s.modPort id f).waiters = s.waiters := rfl
@[simp] theorem State.modPort_mem (s : State) (id : Nat) (f : Port → Port) : (s.modPort id f).mem = s.mem := rfl
@[simp] theorem State.modPort_poisoned (s : State) (id : Nat) (f : Port → Port) : (s.modPort id f).poisoned = s.poisoned := rfl
@[simp] theorem State.modPort_l2 (s : State) (id : Nat) (f : Port → Port) : (s.modPort id f).l2 = s.l2 := rfl
@[simp] theorem State.modPort_near (s : State) (id : Nat) (f : Port → Port) : (s.modPort id f).near = s.near := rfl
@[simp] theorem State.modPort_rrc (s : State) (id : Nat) (f : Port → Port) : (s.modPort id f).rrc = s.rrc := rfl
@[simp] theorem State.modPort_dir (s : State) (id : Nat) (f : Port → Port) : (s.modPort id f).dir = s.dir := rfl
@[simp] theorem State.modPort_tlb (s : State) (id : Nat) (f : Port → Port) : (s.modPort id f).tlb = s.tlb := rfl
@[simp] theorem State.modPort_walkCache (s : State) (id : Nat) (f : Port → Port) : (s.modPort id f).walkCache = s.walkCache := rfl
@[simp] theorem State.modPort_roots (s : State) (id : Nat) (f : Port → Port) : (s.modPort id f).roots = s.roots := rfl
@[simp] theorem State.modPort_roots2 (s : State) (id : Nat) (f : Port → Port) : (s.modPort id f).roots2 = s.roots2 := rfl
@[simp] theorem State.modPort_s1seq (s : State) (id : Nat) (f : Port → Port) : (s.modPort id f).s1seq = s.s1seq := rfl
@[simp] theorem State.modPort_s2seq (s : State) (id : Nat) (f : Port → Port) : (s.modPort id f).s2seq = s.s2seq := rfl
@[simp] theorem State.modPort_owners (s : State) (id : Nat) (f : Port → Port) : (s.modPort id f).owners = s.owners := rfl
@[simp] theorem State.modPort_keys (s : State) (id : Nat) (f : Port → Port) : (s.modPort id f).keys = s.keys := rfl
@[simp] theorem State.modPort_sealed (s : State) (id : Nat) (f : Port → Port) : (s.modPort id f).sealed = s.sealed := rfl
@[simp] theorem State.modPort_tags (s : State) (id : Nat) (f : Port → Port) : (s.modPort id f).tags = s.tags := rfl
@[simp] theorem State.modPort_tagFailed (s : State) (id : Nat) (f : Port → Port) : (s.modPort id f).tagFailed = s.tagFailed := rfl
@[simp] theorem State.modPort_eccFailed (s : State) (id : Nat) (f : Port → Port) : (s.modPort id f).eccFailed = s.eccFailed := rfl
@[simp] theorem State.modPort_pools (s : State) (id : Nat) (f : Port → Port) : (s.modPort id f).pools = s.pools := rfl
@[simp] theorem State.modPort_invals (s : State) (id : Nat) (f : Port → Port) : (s.modPort id f).invals = s.invals := rfl
@[simp] theorem State.modPort_raceTags (s : State) (id : Nat) (f : Port → Port) : (s.modPort id f).raceTags = s.raceTags := rfl
@[simp] theorem State.modPort_racePools (s : State) (id : Nat) (f : Port → Port) : (s.modPort id f).racePools = s.racePools := rfl
@[simp] theorem State.modPort_oldest (s : State) (id : Nat) (f : Port → Port) : (s.modPort id f).oldest = s.oldest := rfl
@[simp] theorem State.modPort_parties (s : State) (id : Nat) (f : Port → Port) : (s.modPort id f).parties = s.parties := rfl
@[simp] theorem State.modPort_budgets (s : State) (id : Nat) (f : Port → Port) : (s.modPort id f).budgets = s.budgets := rfl
@[simp] theorem State.modPort_counters (s : State) (id : Nat) (f : Port → Port) : (s.modPort id f).counters = s.counters := rfl
@[simp] theorem State.modPort_traps (s : State) (id : Nat) (f : Port → Port) : (s.modPort id f).traps = s.traps := rfl
@[simp] theorem State.modPort_errorLog (s : State) (id : Nat) (f : Port → Port) : (s.modPort id f).errorLog = s.errorLog := rfl
@[simp] theorem State.modPort_siteChecks (s : State) (id : Nat) (f : Port → Port) : (s.modPort id f).siteChecks = s.siteChecks := rfl
@[simp] theorem State.modPort_siteThresh (s : State) (id : Nat) (f : Port → Port) : (s.modPort id f).siteThresh = s.siteThresh := rfl
@[simp] theorem State.modPort_halvings (s : State) (id : Nat) (f : Port → Port) : (s.modPort id f).halvings = s.halvings := rfl
@[simp] theorem State.modPort_errCounts (s : State) (id : Nat) (f : Port → Port) : (s.modPort id f).errCounts = s.errCounts := rfl
@[simp] theorem State.modPort_measuring (s : State) (id : Nat) (f : Port → Port) : (s.modPort id f).measuring = s.measuring := rfl
@[simp] theorem State.modPort_withheld (s : State) (id : Nat) (f : Port → Port) : (s.modPort id f).withheld = s.withheld := rfl
@[simp] theorem State.modPort_standing (s : State) (id : Nat) (f : Port → Port) : (s.modPort id f).standing = s.standing := rfl
@[simp] theorem State.modPort_holdup (s : State) (id : Nat) (f : Port → Port) : (s.modPort id f).holdup = s.holdup := rfl
@[simp] theorem State.modPort_keep (s : State) (id : Nat) (f : Port → Port) : (s.modPort id f).keep = s.keep := rfl
@[simp] theorem State.modPort_nonce (s : State) (id : Nat) (f : Port → Port) : (s.modPort id f).nonce = s.nonce := rfl
@[simp] theorem State.modPort_freeze (s : State) (id : Nat) (f : Port → Port) : (s.modPort id f).freeze = s.freeze := rfl
@[simp] theorem State.modPort_readOut (s : State) (id : Nat) (f : Port → Port) : (s.modPort id f).readOut = s.readOut := rfl
@[simp] theorem State.modPort_resets (s : State) (id : Nat) (f : Port → Port) : (s.modPort id f).resets = s.resets := rfl
@[simp] theorem State.modPort_waysOut (s : State) (id : Nat) (f : Port → Port) : (s.modPort id f).waysOut = s.waysOut := rfl
@[simp] theorem State.modPort_framesOut (s : State) (id : Nat) (f : Port → Port) : (s.modPort id f).framesOut = s.framesOut := rfl

/-- Changing a context changes nothing but `ctxs`. -/
theorem State.modCtx_only (s : State) (tid : Nat) (f : Ctx → Ctx) : s.modCtx tid f = { s with ctxs := (s.modCtx tid f).ctxs } := rfl
@[simp] theorem State.modCtx_agenda (s : State) (tid : Nat) (f : Ctx → Ctx) : (s.modCtx tid f).agenda = s.agenda := rfl
@[simp] theorem State.modCtx_focus (s : State) (tid : Nat) (f : Ctx → Ctx) : (s.modCtx tid f).focus = s.focus := rfl
@[simp] theorem State.modCtx_nextId (s : State) (tid : Nat) (f : Ctx → Ctx) : (s.modCtx tid f).nextId = s.nextId := rfl
@[simp] theorem State.modCtx_freeCount (s : State) (tid : Nat) (f : Ctx → Ctx) : (s.modCtx tid f).freeCount = s.freeCount := rfl
@[simp] theorem State.modCtx_fuses (s : State) (tid : Nat) (f : Ctx → Ctx) : (s.modCtx tid f).fuses = s.fuses := rfl
@[simp] theorem State.modCtx_power (s : State) (tid : Nat) (f : Ctx → Ctx) : (s.modCtx tid f).power = s.power := rfl
@[simp] theorem State.modCtx_supply (s : State) (tid : Nat) (f : Ctx → Ctx) : (s.modCtx tid f).supply = s.supply := rfl
@[simp] theorem State.modCtx_lossAt (s : State) (tid : Nat) (f : Ctx → Ctx) : (s.modCtx tid f).lossAt = s.lossAt := rfl
@[simp] theorem State.modCtx_bootFailed (s : State) (tid : Nat) (f : Ctx → Ctx) : (s.modCtx tid f).bootFailed = s.bootFailed := rfl
@[simp] theorem State.modCtx_measurements (s : State) (tid : Nat) (f : Ctx → Ctx) : (s.modCtx tid f).measurements = s.measurements := rfl
@[simp] theorem State.modCtx_energyReady (s : State) (tid : Nat) (f : Ctx → Ctx) : (s.modCtx tid f).energyReady = s.energyReady := rfl
@[simp] theorem State.modCtx_holdupFailed (s : State) (tid : Nat) (f : Ctx → Ctx) : (s.modCtx tid f).holdupFailed = s.holdupFailed := rfl
@[simp] theorem State.modCtx_everAdmitted (s : State) (tid : Nat) (f : Ctx → Ctx) : (s.modCtx tid f).everAdmitted = s.everAdmitted := rfl
@[simp] theorem State.modCtx_bootEnd (s : State) (tid : Nat) (f : Ctx → Ctx) : (s.modCtx tid f).bootEnd = s.bootEnd := rfl
@[simp] theorem State.modCtx_time (s : State) (tid : Nat) (f : Ctx → Ctx) : (s.modCtx tid f).time = s.time := rfl
@[simp] theorem State.modCtx_fabric (s : State) (tid : Nat) (f : Ctx → Ctx) : (s.modCtx tid f).fabric = s.fabric := rfl
@[simp] theorem State.modCtx_fabricStopped (s : State) (tid : Nat) (f : Ctx → Ctx) : (s.modCtx tid f).fabricStopped = s.fabricStopped := rfl
@[simp] theorem State.modCtx_uncoreStopped (s : State) (tid : Nat) (f : Ctx → Ctx) : (s.modCtx tid f).uncoreStopped = s.uncoreStopped := rfl
@[simp] theorem State.modCtx_lap (s : State) (tid : Nat) (f : Ctx → Ctx) : (s.modCtx tid f).lap = s.lap := rfl
@[simp] theorem State.modCtx_waitingCreates (s : State) (tid : Nat) (f : Ctx → Ctx) : (s.modCtx tid f).waitingCreates = s.waitingCreates := rfl
@[simp] theorem State.modCtx_links (s : State) (tid : Nat) (f : Ctx → Ctx) : (s.modCtx tid f).links = s.links := rfl
@[simp] theorem State.modCtx_diagSwitched (s : State) (tid : Nat) (f : Ctx → Ctx) : (s.modCtx tid f).diagSwitched = s.diagSwitched := rfl
@[simp] theorem State.modCtx_spans (s : State) (tid : Nat) (f : Ctx → Ctx) : (s.modCtx tid f).spans = s.spans := rfl
@[simp] theorem State.modCtx_routes (s : State) (tid : Nat) (f : Ctx → Ctx) : (s.modCtx tid f).routes = s.routes := rfl
@[simp] theorem State.modCtx_pkgNo (s : State) (tid : Nat) (f : Ctx → Ctx) : (s.modCtx tid f).pkgNo = s.pkgNo := rfl
@[simp] theorem State.modCtx_hdm (s : State) (tid : Nat) (f : Ctx → Ctx) : (s.modCtx tid f).hdm = s.hdm := rfl
@[simp] theorem State.modCtx_foreign (s : State) (tid : Nat) (f : Ctx → Ctx) : (s.modCtx tid f).foreign = s.foreign := rfl
@[simp] theorem State.modCtx_identity (s : State) (tid : Nat) (f : Ctx → Ctx) : (s.modCtx tid f).identity = s.identity := rfl
@[simp] theorem State.modCtx_mailbox (s : State) (tid : Nat) (f : Ctx → Ctx) : (s.modCtx tid f).mailbox = s.mailbox := rfl
@[simp] theorem State.modCtx_msixTable (s : State) (tid : Nat) (f : Ctx → Ctx) : (s.modCtx tid f).msixTable = s.msixTable := rfl
@[simp] theorem State.modCtx_msixPending (s : State) (tid : Nat) (f : Ctx → Ctx) : (s.modCtx tid f).msixPending = s.msixPending := rfl
@[simp] theorem State.modCtx_msiSent (s : State) (tid : Nat) (f : Ctx → Ctx) : (s.modCtx tid f).msiSent = s.msiSent := rfl
@[simp] theorem State.modCtx_hostReply (s : State) (tid : Nat) (f : Ctx → Ctx) : (s.modCtx tid f).hostReply = s.hostReply := rfl
@[simp] theorem State.modCtx_spdmReply (s : State) (tid : Nat) (f : Ctx → Ctx) : (s.modCtx tid f).spdmReply = s.spdmReply := rfl
@[simp] theorem State.modCtx_reply (s : State) (tid : Nat) (f : Ctx → Ctx) : (s.modCtx tid f).reply = s.reply := rfl
@[simp] theorem State.modCtx_startLists (s : State) (tid : Nat) (f : Ctx → Ctx) : (s.modCtx tid f).startLists = s.startLists := rfl
@[simp] theorem State.modCtx_graphs (s : State) (tid : Nat) (f : Ctx → Ctx) : (s.modCtx tid f).graphs = s.graphs := rfl
@[simp] theorem State.modCtx_tasks (s : State) (tid : Nat) (f : Ctx → Ctx) : (s.modCtx tid f).tasks = s.tasks := rfl
@[simp] theorem State.modCtx_readyNo (s : State) (tid : Nat) (f : Ctx → Ctx) : (s.modCtx tid f).readyNo = s.readyNo := rfl
@[simp] theorem State.modCtx_retired (s : State) (tid : Nat) (f : Ctx → Ctx) : (s.modCtx tid f).retired = s.retired := rfl
@[simp] theorem State.modCtx_resvs (s : State) (tid : Nat) (f : Ctx → Ctx) : (s.modCtx tid f).resvs = s.resvs := rfl
@[simp] theorem State.modCtx_dieTurn (s : State) (tid : Nat) (f : Ctx → Ctx) : (s.modCtx tid f).dieTurn = s.dieTurn := rfl
@[simp] theorem State.modCtx_leases (s : State) (tid : Nat) (f : Ctx → Ctx) : (s.modCtx tid f).leases = s.leases := rfl
@[simp] theorem State.modCtx_ports (s : State) (tid : Nat) (f : Ctx → Ctx) : (s.modCtx tid f).ports = s.ports := rfl
@[simp] theorem State.modCtx_cmds (s : State) (tid : Nat) (f : Ctx → Ctx) : (s.modCtx tid f).cmds = s.cmds := rfl
@[simp] theorem State.modCtx_vqueues (s : State) (tid : Nat) (f : Ctx → Ctx) : (s.modCtx tid f).vqueues = s.vqueues := rfl
@[simp] theorem State.modCtx_engines (s : State) (tid : Nat) (f : Ctx → Ctx) : (s.modCtx tid f).engines = s.engines := rfl
@[simp] theorem State.modCtx_teams (s : State) (tid : Nat) (f : Ctx → Ctx) : (s.modCtx tid f).teams = s.teams := rfl
@[simp] theorem State.modCtx_syncQ (s : State) (tid : Nat) (f : Ctx → Ctx) : (s.modCtx tid f).syncQ = s.syncQ := rfl
@[simp] theorem State.modCtx_waiters (s : State) (tid : Nat) (f : Ctx → Ctx) : (s.modCtx tid f).waiters = s.waiters := rfl
@[simp] theorem State.modCtx_mem (s : State) (tid : Nat) (f : Ctx → Ctx) : (s.modCtx tid f).mem = s.mem := rfl
@[simp] theorem State.modCtx_poisoned (s : State) (tid : Nat) (f : Ctx → Ctx) : (s.modCtx tid f).poisoned = s.poisoned := rfl
@[simp] theorem State.modCtx_l2 (s : State) (tid : Nat) (f : Ctx → Ctx) : (s.modCtx tid f).l2 = s.l2 := rfl
@[simp] theorem State.modCtx_near (s : State) (tid : Nat) (f : Ctx → Ctx) : (s.modCtx tid f).near = s.near := rfl
@[simp] theorem State.modCtx_rrc (s : State) (tid : Nat) (f : Ctx → Ctx) : (s.modCtx tid f).rrc = s.rrc := rfl
@[simp] theorem State.modCtx_dir (s : State) (tid : Nat) (f : Ctx → Ctx) : (s.modCtx tid f).dir = s.dir := rfl
@[simp] theorem State.modCtx_tlb (s : State) (tid : Nat) (f : Ctx → Ctx) : (s.modCtx tid f).tlb = s.tlb := rfl
@[simp] theorem State.modCtx_walkCache (s : State) (tid : Nat) (f : Ctx → Ctx) : (s.modCtx tid f).walkCache = s.walkCache := rfl
@[simp] theorem State.modCtx_roots (s : State) (tid : Nat) (f : Ctx → Ctx) : (s.modCtx tid f).roots = s.roots := rfl
@[simp] theorem State.modCtx_roots2 (s : State) (tid : Nat) (f : Ctx → Ctx) : (s.modCtx tid f).roots2 = s.roots2 := rfl
@[simp] theorem State.modCtx_s1seq (s : State) (tid : Nat) (f : Ctx → Ctx) : (s.modCtx tid f).s1seq = s.s1seq := rfl
@[simp] theorem State.modCtx_s2seq (s : State) (tid : Nat) (f : Ctx → Ctx) : (s.modCtx tid f).s2seq = s.s2seq := rfl
@[simp] theorem State.modCtx_owners (s : State) (tid : Nat) (f : Ctx → Ctx) : (s.modCtx tid f).owners = s.owners := rfl
@[simp] theorem State.modCtx_keys (s : State) (tid : Nat) (f : Ctx → Ctx) : (s.modCtx tid f).keys = s.keys := rfl
@[simp] theorem State.modCtx_sealed (s : State) (tid : Nat) (f : Ctx → Ctx) : (s.modCtx tid f).sealed = s.sealed := rfl
@[simp] theorem State.modCtx_tags (s : State) (tid : Nat) (f : Ctx → Ctx) : (s.modCtx tid f).tags = s.tags := rfl
@[simp] theorem State.modCtx_tagFailed (s : State) (tid : Nat) (f : Ctx → Ctx) : (s.modCtx tid f).tagFailed = s.tagFailed := rfl
@[simp] theorem State.modCtx_eccFailed (s : State) (tid : Nat) (f : Ctx → Ctx) : (s.modCtx tid f).eccFailed = s.eccFailed := rfl
@[simp] theorem State.modCtx_pools (s : State) (tid : Nat) (f : Ctx → Ctx) : (s.modCtx tid f).pools = s.pools := rfl
@[simp] theorem State.modCtx_invals (s : State) (tid : Nat) (f : Ctx → Ctx) : (s.modCtx tid f).invals = s.invals := rfl
@[simp] theorem State.modCtx_raceTags (s : State) (tid : Nat) (f : Ctx → Ctx) : (s.modCtx tid f).raceTags = s.raceTags := rfl
@[simp] theorem State.modCtx_racePools (s : State) (tid : Nat) (f : Ctx → Ctx) : (s.modCtx tid f).racePools = s.racePools := rfl
@[simp] theorem State.modCtx_oldest (s : State) (tid : Nat) (f : Ctx → Ctx) : (s.modCtx tid f).oldest = s.oldest := rfl
@[simp] theorem State.modCtx_parties (s : State) (tid : Nat) (f : Ctx → Ctx) : (s.modCtx tid f).parties = s.parties := rfl
@[simp] theorem State.modCtx_budgets (s : State) (tid : Nat) (f : Ctx → Ctx) : (s.modCtx tid f).budgets = s.budgets := rfl
@[simp] theorem State.modCtx_counters (s : State) (tid : Nat) (f : Ctx → Ctx) : (s.modCtx tid f).counters = s.counters := rfl
@[simp] theorem State.modCtx_traps (s : State) (tid : Nat) (f : Ctx → Ctx) : (s.modCtx tid f).traps = s.traps := rfl
@[simp] theorem State.modCtx_errorLog (s : State) (tid : Nat) (f : Ctx → Ctx) : (s.modCtx tid f).errorLog = s.errorLog := rfl
@[simp] theorem State.modCtx_siteChecks (s : State) (tid : Nat) (f : Ctx → Ctx) : (s.modCtx tid f).siteChecks = s.siteChecks := rfl
@[simp] theorem State.modCtx_siteThresh (s : State) (tid : Nat) (f : Ctx → Ctx) : (s.modCtx tid f).siteThresh = s.siteThresh := rfl
@[simp] theorem State.modCtx_halvings (s : State) (tid : Nat) (f : Ctx → Ctx) : (s.modCtx tid f).halvings = s.halvings := rfl
@[simp] theorem State.modCtx_errCounts (s : State) (tid : Nat) (f : Ctx → Ctx) : (s.modCtx tid f).errCounts = s.errCounts := rfl
@[simp] theorem State.modCtx_measuring (s : State) (tid : Nat) (f : Ctx → Ctx) : (s.modCtx tid f).measuring = s.measuring := rfl
@[simp] theorem State.modCtx_withheld (s : State) (tid : Nat) (f : Ctx → Ctx) : (s.modCtx tid f).withheld = s.withheld := rfl
@[simp] theorem State.modCtx_standing (s : State) (tid : Nat) (f : Ctx → Ctx) : (s.modCtx tid f).standing = s.standing := rfl
@[simp] theorem State.modCtx_holdup (s : State) (tid : Nat) (f : Ctx → Ctx) : (s.modCtx tid f).holdup = s.holdup := rfl
@[simp] theorem State.modCtx_keep (s : State) (tid : Nat) (f : Ctx → Ctx) : (s.modCtx tid f).keep = s.keep := rfl
@[simp] theorem State.modCtx_nonce (s : State) (tid : Nat) (f : Ctx → Ctx) : (s.modCtx tid f).nonce = s.nonce := rfl
@[simp] theorem State.modCtx_freeze (s : State) (tid : Nat) (f : Ctx → Ctx) : (s.modCtx tid f).freeze = s.freeze := rfl
@[simp] theorem State.modCtx_readOut (s : State) (tid : Nat) (f : Ctx → Ctx) : (s.modCtx tid f).readOut = s.readOut := rfl
@[simp] theorem State.modCtx_resets (s : State) (tid : Nat) (f : Ctx → Ctx) : (s.modCtx tid f).resets = s.resets := rfl
@[simp] theorem State.modCtx_waysOut (s : State) (tid : Nat) (f : Ctx → Ctx) : (s.modCtx tid f).waysOut = s.waysOut := rfl
@[simp] theorem State.modCtx_framesOut (s : State) (tid : Nat) (f : Ctx → Ctx) : (s.modCtx tid f).framesOut = s.framesOut := rfl

/-- Changing a dependency-table entry changes nothing but `tasks`. -/
theorem State.modTask_only (s : State) (die idx : Nat) (f : Task → Task) : s.modTask die idx f = { s with tasks := (s.modTask die idx f).tasks } := rfl
@[simp] theorem State.modTask_agenda (s : State) (die idx : Nat) (f : Task → Task) : (s.modTask die idx f).agenda = s.agenda := rfl
@[simp] theorem State.modTask_focus (s : State) (die idx : Nat) (f : Task → Task) : (s.modTask die idx f).focus = s.focus := rfl
@[simp] theorem State.modTask_nextId (s : State) (die idx : Nat) (f : Task → Task) : (s.modTask die idx f).nextId = s.nextId := rfl
@[simp] theorem State.modTask_freeCount (s : State) (die idx : Nat) (f : Task → Task) : (s.modTask die idx f).freeCount = s.freeCount := rfl
@[simp] theorem State.modTask_fuses (s : State) (die idx : Nat) (f : Task → Task) : (s.modTask die idx f).fuses = s.fuses := rfl
@[simp] theorem State.modTask_power (s : State) (die idx : Nat) (f : Task → Task) : (s.modTask die idx f).power = s.power := rfl
@[simp] theorem State.modTask_supply (s : State) (die idx : Nat) (f : Task → Task) : (s.modTask die idx f).supply = s.supply := rfl
@[simp] theorem State.modTask_lossAt (s : State) (die idx : Nat) (f : Task → Task) : (s.modTask die idx f).lossAt = s.lossAt := rfl
@[simp] theorem State.modTask_bootFailed (s : State) (die idx : Nat) (f : Task → Task) : (s.modTask die idx f).bootFailed = s.bootFailed := rfl
@[simp] theorem State.modTask_measurements (s : State) (die idx : Nat) (f : Task → Task) : (s.modTask die idx f).measurements = s.measurements := rfl
@[simp] theorem State.modTask_energyReady (s : State) (die idx : Nat) (f : Task → Task) : (s.modTask die idx f).energyReady = s.energyReady := rfl
@[simp] theorem State.modTask_holdupFailed (s : State) (die idx : Nat) (f : Task → Task) : (s.modTask die idx f).holdupFailed = s.holdupFailed := rfl
@[simp] theorem State.modTask_everAdmitted (s : State) (die idx : Nat) (f : Task → Task) : (s.modTask die idx f).everAdmitted = s.everAdmitted := rfl
@[simp] theorem State.modTask_bootEnd (s : State) (die idx : Nat) (f : Task → Task) : (s.modTask die idx f).bootEnd = s.bootEnd := rfl
@[simp] theorem State.modTask_time (s : State) (die idx : Nat) (f : Task → Task) : (s.modTask die idx f).time = s.time := rfl
@[simp] theorem State.modTask_fabric (s : State) (die idx : Nat) (f : Task → Task) : (s.modTask die idx f).fabric = s.fabric := rfl
@[simp] theorem State.modTask_fabricStopped (s : State) (die idx : Nat) (f : Task → Task) : (s.modTask die idx f).fabricStopped = s.fabricStopped := rfl
@[simp] theorem State.modTask_uncoreStopped (s : State) (die idx : Nat) (f : Task → Task) : (s.modTask die idx f).uncoreStopped = s.uncoreStopped := rfl
@[simp] theorem State.modTask_lap (s : State) (die idx : Nat) (f : Task → Task) : (s.modTask die idx f).lap = s.lap := rfl
@[simp] theorem State.modTask_waitingCreates (s : State) (die idx : Nat) (f : Task → Task) : (s.modTask die idx f).waitingCreates = s.waitingCreates := rfl
@[simp] theorem State.modTask_links (s : State) (die idx : Nat) (f : Task → Task) : (s.modTask die idx f).links = s.links := rfl
@[simp] theorem State.modTask_diagSwitched (s : State) (die idx : Nat) (f : Task → Task) : (s.modTask die idx f).diagSwitched = s.diagSwitched := rfl
@[simp] theorem State.modTask_spans (s : State) (die idx : Nat) (f : Task → Task) : (s.modTask die idx f).spans = s.spans := rfl
@[simp] theorem State.modTask_routes (s : State) (die idx : Nat) (f : Task → Task) : (s.modTask die idx f).routes = s.routes := rfl
@[simp] theorem State.modTask_pkgNo (s : State) (die idx : Nat) (f : Task → Task) : (s.modTask die idx f).pkgNo = s.pkgNo := rfl
@[simp] theorem State.modTask_hdm (s : State) (die idx : Nat) (f : Task → Task) : (s.modTask die idx f).hdm = s.hdm := rfl
@[simp] theorem State.modTask_foreign (s : State) (die idx : Nat) (f : Task → Task) : (s.modTask die idx f).foreign = s.foreign := rfl
@[simp] theorem State.modTask_identity (s : State) (die idx : Nat) (f : Task → Task) : (s.modTask die idx f).identity = s.identity := rfl
@[simp] theorem State.modTask_mailbox (s : State) (die idx : Nat) (f : Task → Task) : (s.modTask die idx f).mailbox = s.mailbox := rfl
@[simp] theorem State.modTask_msixTable (s : State) (die idx : Nat) (f : Task → Task) : (s.modTask die idx f).msixTable = s.msixTable := rfl
@[simp] theorem State.modTask_msixPending (s : State) (die idx : Nat) (f : Task → Task) : (s.modTask die idx f).msixPending = s.msixPending := rfl
@[simp] theorem State.modTask_msiSent (s : State) (die idx : Nat) (f : Task → Task) : (s.modTask die idx f).msiSent = s.msiSent := rfl
@[simp] theorem State.modTask_hostReply (s : State) (die idx : Nat) (f : Task → Task) : (s.modTask die idx f).hostReply = s.hostReply := rfl
@[simp] theorem State.modTask_spdmReply (s : State) (die idx : Nat) (f : Task → Task) : (s.modTask die idx f).spdmReply = s.spdmReply := rfl
@[simp] theorem State.modTask_reply (s : State) (die idx : Nat) (f : Task → Task) : (s.modTask die idx f).reply = s.reply := rfl
@[simp] theorem State.modTask_ctxs (s : State) (die idx : Nat) (f : Task → Task) : (s.modTask die idx f).ctxs = s.ctxs := rfl
@[simp] theorem State.modTask_startLists (s : State) (die idx : Nat) (f : Task → Task) : (s.modTask die idx f).startLists = s.startLists := rfl
@[simp] theorem State.modTask_graphs (s : State) (die idx : Nat) (f : Task → Task) : (s.modTask die idx f).graphs = s.graphs := rfl
@[simp] theorem State.modTask_readyNo (s : State) (die idx : Nat) (f : Task → Task) : (s.modTask die idx f).readyNo = s.readyNo := rfl
@[simp] theorem State.modTask_retired (s : State) (die idx : Nat) (f : Task → Task) : (s.modTask die idx f).retired = s.retired := rfl
@[simp] theorem State.modTask_resvs (s : State) (die idx : Nat) (f : Task → Task) : (s.modTask die idx f).resvs = s.resvs := rfl
@[simp] theorem State.modTask_dieTurn (s : State) (die idx : Nat) (f : Task → Task) : (s.modTask die idx f).dieTurn = s.dieTurn := rfl
@[simp] theorem State.modTask_leases (s : State) (die idx : Nat) (f : Task → Task) : (s.modTask die idx f).leases = s.leases := rfl
@[simp] theorem State.modTask_ports (s : State) (die idx : Nat) (f : Task → Task) : (s.modTask die idx f).ports = s.ports := rfl
@[simp] theorem State.modTask_cmds (s : State) (die idx : Nat) (f : Task → Task) : (s.modTask die idx f).cmds = s.cmds := rfl
@[simp] theorem State.modTask_vqueues (s : State) (die idx : Nat) (f : Task → Task) : (s.modTask die idx f).vqueues = s.vqueues := rfl
@[simp] theorem State.modTask_engines (s : State) (die idx : Nat) (f : Task → Task) : (s.modTask die idx f).engines = s.engines := rfl
@[simp] theorem State.modTask_teams (s : State) (die idx : Nat) (f : Task → Task) : (s.modTask die idx f).teams = s.teams := rfl
@[simp] theorem State.modTask_syncQ (s : State) (die idx : Nat) (f : Task → Task) : (s.modTask die idx f).syncQ = s.syncQ := rfl
@[simp] theorem State.modTask_waiters (s : State) (die idx : Nat) (f : Task → Task) : (s.modTask die idx f).waiters = s.waiters := rfl
@[simp] theorem State.modTask_mem (s : State) (die idx : Nat) (f : Task → Task) : (s.modTask die idx f).mem = s.mem := rfl
@[simp] theorem State.modTask_poisoned (s : State) (die idx : Nat) (f : Task → Task) : (s.modTask die idx f).poisoned = s.poisoned := rfl
@[simp] theorem State.modTask_l2 (s : State) (die idx : Nat) (f : Task → Task) : (s.modTask die idx f).l2 = s.l2 := rfl
@[simp] theorem State.modTask_near (s : State) (die idx : Nat) (f : Task → Task) : (s.modTask die idx f).near = s.near := rfl
@[simp] theorem State.modTask_rrc (s : State) (die idx : Nat) (f : Task → Task) : (s.modTask die idx f).rrc = s.rrc := rfl
@[simp] theorem State.modTask_dir (s : State) (die idx : Nat) (f : Task → Task) : (s.modTask die idx f).dir = s.dir := rfl
@[simp] theorem State.modTask_tlb (s : State) (die idx : Nat) (f : Task → Task) : (s.modTask die idx f).tlb = s.tlb := rfl
@[simp] theorem State.modTask_walkCache (s : State) (die idx : Nat) (f : Task → Task) : (s.modTask die idx f).walkCache = s.walkCache := rfl
@[simp] theorem State.modTask_roots (s : State) (die idx : Nat) (f : Task → Task) : (s.modTask die idx f).roots = s.roots := rfl
@[simp] theorem State.modTask_roots2 (s : State) (die idx : Nat) (f : Task → Task) : (s.modTask die idx f).roots2 = s.roots2 := rfl
@[simp] theorem State.modTask_s1seq (s : State) (die idx : Nat) (f : Task → Task) : (s.modTask die idx f).s1seq = s.s1seq := rfl
@[simp] theorem State.modTask_s2seq (s : State) (die idx : Nat) (f : Task → Task) : (s.modTask die idx f).s2seq = s.s2seq := rfl
@[simp] theorem State.modTask_owners (s : State) (die idx : Nat) (f : Task → Task) : (s.modTask die idx f).owners = s.owners := rfl
@[simp] theorem State.modTask_keys (s : State) (die idx : Nat) (f : Task → Task) : (s.modTask die idx f).keys = s.keys := rfl
@[simp] theorem State.modTask_sealed (s : State) (die idx : Nat) (f : Task → Task) : (s.modTask die idx f).sealed = s.sealed := rfl
@[simp] theorem State.modTask_tags (s : State) (die idx : Nat) (f : Task → Task) : (s.modTask die idx f).tags = s.tags := rfl
@[simp] theorem State.modTask_tagFailed (s : State) (die idx : Nat) (f : Task → Task) : (s.modTask die idx f).tagFailed = s.tagFailed := rfl
@[simp] theorem State.modTask_eccFailed (s : State) (die idx : Nat) (f : Task → Task) : (s.modTask die idx f).eccFailed = s.eccFailed := rfl
@[simp] theorem State.modTask_pools (s : State) (die idx : Nat) (f : Task → Task) : (s.modTask die idx f).pools = s.pools := rfl
@[simp] theorem State.modTask_invals (s : State) (die idx : Nat) (f : Task → Task) : (s.modTask die idx f).invals = s.invals := rfl
@[simp] theorem State.modTask_raceTags (s : State) (die idx : Nat) (f : Task → Task) : (s.modTask die idx f).raceTags = s.raceTags := rfl
@[simp] theorem State.modTask_racePools (s : State) (die idx : Nat) (f : Task → Task) : (s.modTask die idx f).racePools = s.racePools := rfl
@[simp] theorem State.modTask_oldest (s : State) (die idx : Nat) (f : Task → Task) : (s.modTask die idx f).oldest = s.oldest := rfl
@[simp] theorem State.modTask_parties (s : State) (die idx : Nat) (f : Task → Task) : (s.modTask die idx f).parties = s.parties := rfl
@[simp] theorem State.modTask_budgets (s : State) (die idx : Nat) (f : Task → Task) : (s.modTask die idx f).budgets = s.budgets := rfl
@[simp] theorem State.modTask_counters (s : State) (die idx : Nat) (f : Task → Task) : (s.modTask die idx f).counters = s.counters := rfl
@[simp] theorem State.modTask_traps (s : State) (die idx : Nat) (f : Task → Task) : (s.modTask die idx f).traps = s.traps := rfl
@[simp] theorem State.modTask_errorLog (s : State) (die idx : Nat) (f : Task → Task) : (s.modTask die idx f).errorLog = s.errorLog := rfl
@[simp] theorem State.modTask_siteChecks (s : State) (die idx : Nat) (f : Task → Task) : (s.modTask die idx f).siteChecks = s.siteChecks := rfl
@[simp] theorem State.modTask_siteThresh (s : State) (die idx : Nat) (f : Task → Task) : (s.modTask die idx f).siteThresh = s.siteThresh := rfl
@[simp] theorem State.modTask_halvings (s : State) (die idx : Nat) (f : Task → Task) : (s.modTask die idx f).halvings = s.halvings := rfl
@[simp] theorem State.modTask_errCounts (s : State) (die idx : Nat) (f : Task → Task) : (s.modTask die idx f).errCounts = s.errCounts := rfl
@[simp] theorem State.modTask_measuring (s : State) (die idx : Nat) (f : Task → Task) : (s.modTask die idx f).measuring = s.measuring := rfl
@[simp] theorem State.modTask_withheld (s : State) (die idx : Nat) (f : Task → Task) : (s.modTask die idx f).withheld = s.withheld := rfl
@[simp] theorem State.modTask_standing (s : State) (die idx : Nat) (f : Task → Task) : (s.modTask die idx f).standing = s.standing := rfl
@[simp] theorem State.modTask_holdup (s : State) (die idx : Nat) (f : Task → Task) : (s.modTask die idx f).holdup = s.holdup := rfl
@[simp] theorem State.modTask_keep (s : State) (die idx : Nat) (f : Task → Task) : (s.modTask die idx f).keep = s.keep := rfl
@[simp] theorem State.modTask_nonce (s : State) (die idx : Nat) (f : Task → Task) : (s.modTask die idx f).nonce = s.nonce := rfl
@[simp] theorem State.modTask_freeze (s : State) (die idx : Nat) (f : Task → Task) : (s.modTask die idx f).freeze = s.freeze := rfl
@[simp] theorem State.modTask_readOut (s : State) (die idx : Nat) (f : Task → Task) : (s.modTask die idx f).readOut = s.readOut := rfl
@[simp] theorem State.modTask_resets (s : State) (die idx : Nat) (f : Task → Task) : (s.modTask die idx f).resets = s.resets := rfl
@[simp] theorem State.modTask_waysOut (s : State) (die idx : Nat) (f : Task → Task) : (s.modTask die idx f).waysOut = s.waysOut := rfl
@[simp] theorem State.modTask_framesOut (s : State) (die idx : Nat) (f : Task → Task) : (s.modTask die idx f).framesOut = s.framesOut := rfl

/-- Changing a start list changes nothing but `startLists`. -/
theorem State.modSl_only (s : State) (slot : Nat) (f : StartList → StartList) : s.modSl slot f = { s with startLists := (s.modSl slot f).startLists } := rfl
@[simp] theorem State.modSl_agenda (s : State) (slot : Nat) (f : StartList → StartList) : (s.modSl slot f).agenda = s.agenda := rfl
@[simp] theorem State.modSl_focus (s : State) (slot : Nat) (f : StartList → StartList) : (s.modSl slot f).focus = s.focus := rfl
@[simp] theorem State.modSl_nextId (s : State) (slot : Nat) (f : StartList → StartList) : (s.modSl slot f).nextId = s.nextId := rfl
@[simp] theorem State.modSl_freeCount (s : State) (slot : Nat) (f : StartList → StartList) : (s.modSl slot f).freeCount = s.freeCount := rfl
@[simp] theorem State.modSl_fuses (s : State) (slot : Nat) (f : StartList → StartList) : (s.modSl slot f).fuses = s.fuses := rfl
@[simp] theorem State.modSl_power (s : State) (slot : Nat) (f : StartList → StartList) : (s.modSl slot f).power = s.power := rfl
@[simp] theorem State.modSl_supply (s : State) (slot : Nat) (f : StartList → StartList) : (s.modSl slot f).supply = s.supply := rfl
@[simp] theorem State.modSl_lossAt (s : State) (slot : Nat) (f : StartList → StartList) : (s.modSl slot f).lossAt = s.lossAt := rfl
@[simp] theorem State.modSl_bootFailed (s : State) (slot : Nat) (f : StartList → StartList) : (s.modSl slot f).bootFailed = s.bootFailed := rfl
@[simp] theorem State.modSl_measurements (s : State) (slot : Nat) (f : StartList → StartList) : (s.modSl slot f).measurements = s.measurements := rfl
@[simp] theorem State.modSl_energyReady (s : State) (slot : Nat) (f : StartList → StartList) : (s.modSl slot f).energyReady = s.energyReady := rfl
@[simp] theorem State.modSl_holdupFailed (s : State) (slot : Nat) (f : StartList → StartList) : (s.modSl slot f).holdupFailed = s.holdupFailed := rfl
@[simp] theorem State.modSl_everAdmitted (s : State) (slot : Nat) (f : StartList → StartList) : (s.modSl slot f).everAdmitted = s.everAdmitted := rfl
@[simp] theorem State.modSl_bootEnd (s : State) (slot : Nat) (f : StartList → StartList) : (s.modSl slot f).bootEnd = s.bootEnd := rfl
@[simp] theorem State.modSl_time (s : State) (slot : Nat) (f : StartList → StartList) : (s.modSl slot f).time = s.time := rfl
@[simp] theorem State.modSl_fabric (s : State) (slot : Nat) (f : StartList → StartList) : (s.modSl slot f).fabric = s.fabric := rfl
@[simp] theorem State.modSl_fabricStopped (s : State) (slot : Nat) (f : StartList → StartList) : (s.modSl slot f).fabricStopped = s.fabricStopped := rfl
@[simp] theorem State.modSl_uncoreStopped (s : State) (slot : Nat) (f : StartList → StartList) : (s.modSl slot f).uncoreStopped = s.uncoreStopped := rfl
@[simp] theorem State.modSl_lap (s : State) (slot : Nat) (f : StartList → StartList) : (s.modSl slot f).lap = s.lap := rfl
@[simp] theorem State.modSl_waitingCreates (s : State) (slot : Nat) (f : StartList → StartList) : (s.modSl slot f).waitingCreates = s.waitingCreates := rfl
@[simp] theorem State.modSl_links (s : State) (slot : Nat) (f : StartList → StartList) : (s.modSl slot f).links = s.links := rfl
@[simp] theorem State.modSl_diagSwitched (s : State) (slot : Nat) (f : StartList → StartList) : (s.modSl slot f).diagSwitched = s.diagSwitched := rfl
@[simp] theorem State.modSl_spans (s : State) (slot : Nat) (f : StartList → StartList) : (s.modSl slot f).spans = s.spans := rfl
@[simp] theorem State.modSl_routes (s : State) (slot : Nat) (f : StartList → StartList) : (s.modSl slot f).routes = s.routes := rfl
@[simp] theorem State.modSl_pkgNo (s : State) (slot : Nat) (f : StartList → StartList) : (s.modSl slot f).pkgNo = s.pkgNo := rfl
@[simp] theorem State.modSl_hdm (s : State) (slot : Nat) (f : StartList → StartList) : (s.modSl slot f).hdm = s.hdm := rfl
@[simp] theorem State.modSl_foreign (s : State) (slot : Nat) (f : StartList → StartList) : (s.modSl slot f).foreign = s.foreign := rfl
@[simp] theorem State.modSl_identity (s : State) (slot : Nat) (f : StartList → StartList) : (s.modSl slot f).identity = s.identity := rfl
@[simp] theorem State.modSl_mailbox (s : State) (slot : Nat) (f : StartList → StartList) : (s.modSl slot f).mailbox = s.mailbox := rfl
@[simp] theorem State.modSl_msixTable (s : State) (slot : Nat) (f : StartList → StartList) : (s.modSl slot f).msixTable = s.msixTable := rfl
@[simp] theorem State.modSl_msixPending (s : State) (slot : Nat) (f : StartList → StartList) : (s.modSl slot f).msixPending = s.msixPending := rfl
@[simp] theorem State.modSl_msiSent (s : State) (slot : Nat) (f : StartList → StartList) : (s.modSl slot f).msiSent = s.msiSent := rfl
@[simp] theorem State.modSl_hostReply (s : State) (slot : Nat) (f : StartList → StartList) : (s.modSl slot f).hostReply = s.hostReply := rfl
@[simp] theorem State.modSl_spdmReply (s : State) (slot : Nat) (f : StartList → StartList) : (s.modSl slot f).spdmReply = s.spdmReply := rfl
@[simp] theorem State.modSl_reply (s : State) (slot : Nat) (f : StartList → StartList) : (s.modSl slot f).reply = s.reply := rfl
@[simp] theorem State.modSl_ctxs (s : State) (slot : Nat) (f : StartList → StartList) : (s.modSl slot f).ctxs = s.ctxs := rfl
@[simp] theorem State.modSl_graphs (s : State) (slot : Nat) (f : StartList → StartList) : (s.modSl slot f).graphs = s.graphs := rfl
@[simp] theorem State.modSl_tasks (s : State) (slot : Nat) (f : StartList → StartList) : (s.modSl slot f).tasks = s.tasks := rfl
@[simp] theorem State.modSl_readyNo (s : State) (slot : Nat) (f : StartList → StartList) : (s.modSl slot f).readyNo = s.readyNo := rfl
@[simp] theorem State.modSl_retired (s : State) (slot : Nat) (f : StartList → StartList) : (s.modSl slot f).retired = s.retired := rfl
@[simp] theorem State.modSl_resvs (s : State) (slot : Nat) (f : StartList → StartList) : (s.modSl slot f).resvs = s.resvs := rfl
@[simp] theorem State.modSl_dieTurn (s : State) (slot : Nat) (f : StartList → StartList) : (s.modSl slot f).dieTurn = s.dieTurn := rfl
@[simp] theorem State.modSl_leases (s : State) (slot : Nat) (f : StartList → StartList) : (s.modSl slot f).leases = s.leases := rfl
@[simp] theorem State.modSl_ports (s : State) (slot : Nat) (f : StartList → StartList) : (s.modSl slot f).ports = s.ports := rfl
@[simp] theorem State.modSl_cmds (s : State) (slot : Nat) (f : StartList → StartList) : (s.modSl slot f).cmds = s.cmds := rfl
@[simp] theorem State.modSl_vqueues (s : State) (slot : Nat) (f : StartList → StartList) : (s.modSl slot f).vqueues = s.vqueues := rfl
@[simp] theorem State.modSl_engines (s : State) (slot : Nat) (f : StartList → StartList) : (s.modSl slot f).engines = s.engines := rfl
@[simp] theorem State.modSl_teams (s : State) (slot : Nat) (f : StartList → StartList) : (s.modSl slot f).teams = s.teams := rfl
@[simp] theorem State.modSl_syncQ (s : State) (slot : Nat) (f : StartList → StartList) : (s.modSl slot f).syncQ = s.syncQ := rfl
@[simp] theorem State.modSl_waiters (s : State) (slot : Nat) (f : StartList → StartList) : (s.modSl slot f).waiters = s.waiters := rfl
@[simp] theorem State.modSl_mem (s : State) (slot : Nat) (f : StartList → StartList) : (s.modSl slot f).mem = s.mem := rfl
@[simp] theorem State.modSl_poisoned (s : State) (slot : Nat) (f : StartList → StartList) : (s.modSl slot f).poisoned = s.poisoned := rfl
@[simp] theorem State.modSl_l2 (s : State) (slot : Nat) (f : StartList → StartList) : (s.modSl slot f).l2 = s.l2 := rfl
@[simp] theorem State.modSl_near (s : State) (slot : Nat) (f : StartList → StartList) : (s.modSl slot f).near = s.near := rfl
@[simp] theorem State.modSl_rrc (s : State) (slot : Nat) (f : StartList → StartList) : (s.modSl slot f).rrc = s.rrc := rfl
@[simp] theorem State.modSl_dir (s : State) (slot : Nat) (f : StartList → StartList) : (s.modSl slot f).dir = s.dir := rfl
@[simp] theorem State.modSl_tlb (s : State) (slot : Nat) (f : StartList → StartList) : (s.modSl slot f).tlb = s.tlb := rfl
@[simp] theorem State.modSl_walkCache (s : State) (slot : Nat) (f : StartList → StartList) : (s.modSl slot f).walkCache = s.walkCache := rfl
@[simp] theorem State.modSl_roots (s : State) (slot : Nat) (f : StartList → StartList) : (s.modSl slot f).roots = s.roots := rfl
@[simp] theorem State.modSl_roots2 (s : State) (slot : Nat) (f : StartList → StartList) : (s.modSl slot f).roots2 = s.roots2 := rfl
@[simp] theorem State.modSl_s1seq (s : State) (slot : Nat) (f : StartList → StartList) : (s.modSl slot f).s1seq = s.s1seq := rfl
@[simp] theorem State.modSl_s2seq (s : State) (slot : Nat) (f : StartList → StartList) : (s.modSl slot f).s2seq = s.s2seq := rfl
@[simp] theorem State.modSl_owners (s : State) (slot : Nat) (f : StartList → StartList) : (s.modSl slot f).owners = s.owners := rfl
@[simp] theorem State.modSl_keys (s : State) (slot : Nat) (f : StartList → StartList) : (s.modSl slot f).keys = s.keys := rfl
@[simp] theorem State.modSl_sealed (s : State) (slot : Nat) (f : StartList → StartList) : (s.modSl slot f).sealed = s.sealed := rfl
@[simp] theorem State.modSl_tags (s : State) (slot : Nat) (f : StartList → StartList) : (s.modSl slot f).tags = s.tags := rfl
@[simp] theorem State.modSl_tagFailed (s : State) (slot : Nat) (f : StartList → StartList) : (s.modSl slot f).tagFailed = s.tagFailed := rfl
@[simp] theorem State.modSl_eccFailed (s : State) (slot : Nat) (f : StartList → StartList) : (s.modSl slot f).eccFailed = s.eccFailed := rfl
@[simp] theorem State.modSl_pools (s : State) (slot : Nat) (f : StartList → StartList) : (s.modSl slot f).pools = s.pools := rfl
@[simp] theorem State.modSl_invals (s : State) (slot : Nat) (f : StartList → StartList) : (s.modSl slot f).invals = s.invals := rfl
@[simp] theorem State.modSl_raceTags (s : State) (slot : Nat) (f : StartList → StartList) : (s.modSl slot f).raceTags = s.raceTags := rfl
@[simp] theorem State.modSl_racePools (s : State) (slot : Nat) (f : StartList → StartList) : (s.modSl slot f).racePools = s.racePools := rfl
@[simp] theorem State.modSl_oldest (s : State) (slot : Nat) (f : StartList → StartList) : (s.modSl slot f).oldest = s.oldest := rfl
@[simp] theorem State.modSl_parties (s : State) (slot : Nat) (f : StartList → StartList) : (s.modSl slot f).parties = s.parties := rfl
@[simp] theorem State.modSl_budgets (s : State) (slot : Nat) (f : StartList → StartList) : (s.modSl slot f).budgets = s.budgets := rfl
@[simp] theorem State.modSl_counters (s : State) (slot : Nat) (f : StartList → StartList) : (s.modSl slot f).counters = s.counters := rfl
@[simp] theorem State.modSl_traps (s : State) (slot : Nat) (f : StartList → StartList) : (s.modSl slot f).traps = s.traps := rfl
@[simp] theorem State.modSl_errorLog (s : State) (slot : Nat) (f : StartList → StartList) : (s.modSl slot f).errorLog = s.errorLog := rfl
@[simp] theorem State.modSl_siteChecks (s : State) (slot : Nat) (f : StartList → StartList) : (s.modSl slot f).siteChecks = s.siteChecks := rfl
@[simp] theorem State.modSl_siteThresh (s : State) (slot : Nat) (f : StartList → StartList) : (s.modSl slot f).siteThresh = s.siteThresh := rfl
@[simp] theorem State.modSl_halvings (s : State) (slot : Nat) (f : StartList → StartList) : (s.modSl slot f).halvings = s.halvings := rfl
@[simp] theorem State.modSl_errCounts (s : State) (slot : Nat) (f : StartList → StartList) : (s.modSl slot f).errCounts = s.errCounts := rfl
@[simp] theorem State.modSl_measuring (s : State) (slot : Nat) (f : StartList → StartList) : (s.modSl slot f).measuring = s.measuring := rfl
@[simp] theorem State.modSl_withheld (s : State) (slot : Nat) (f : StartList → StartList) : (s.modSl slot f).withheld = s.withheld := rfl
@[simp] theorem State.modSl_standing (s : State) (slot : Nat) (f : StartList → StartList) : (s.modSl slot f).standing = s.standing := rfl
@[simp] theorem State.modSl_holdup (s : State) (slot : Nat) (f : StartList → StartList) : (s.modSl slot f).holdup = s.holdup := rfl
@[simp] theorem State.modSl_keep (s : State) (slot : Nat) (f : StartList → StartList) : (s.modSl slot f).keep = s.keep := rfl
@[simp] theorem State.modSl_nonce (s : State) (slot : Nat) (f : StartList → StartList) : (s.modSl slot f).nonce = s.nonce := rfl
@[simp] theorem State.modSl_freeze (s : State) (slot : Nat) (f : StartList → StartList) : (s.modSl slot f).freeze = s.freeze := rfl
@[simp] theorem State.modSl_readOut (s : State) (slot : Nat) (f : StartList → StartList) : (s.modSl slot f).readOut = s.readOut := rfl
@[simp] theorem State.modSl_resets (s : State) (slot : Nat) (f : StartList → StartList) : (s.modSl slot f).resets = s.resets := rfl
@[simp] theorem State.modSl_waysOut (s : State) (slot : Nat) (f : StartList → StartList) : (s.modSl slot f).waysOut = s.waysOut := rfl
@[simp] theorem State.modSl_framesOut (s : State) (slot : Nat) (f : StartList → StartList) : (s.modSl slot f).framesOut = s.framesOut := rfl

/-- Changing an engine command changes nothing but `cmds`. -/
theorem State.modCmd_only (s : State) (id : Nat) (f : EngCmd → EngCmd) : s.modCmd id f = { s with cmds := (s.modCmd id f).cmds } := rfl
@[simp] theorem State.modCmd_agenda (s : State) (id : Nat) (f : EngCmd → EngCmd) : (s.modCmd id f).agenda = s.agenda := rfl
@[simp] theorem State.modCmd_focus (s : State) (id : Nat) (f : EngCmd → EngCmd) : (s.modCmd id f).focus = s.focus := rfl
@[simp] theorem State.modCmd_nextId (s : State) (id : Nat) (f : EngCmd → EngCmd) : (s.modCmd id f).nextId = s.nextId := rfl
@[simp] theorem State.modCmd_freeCount (s : State) (id : Nat) (f : EngCmd → EngCmd) : (s.modCmd id f).freeCount = s.freeCount := rfl
@[simp] theorem State.modCmd_fuses (s : State) (id : Nat) (f : EngCmd → EngCmd) : (s.modCmd id f).fuses = s.fuses := rfl
@[simp] theorem State.modCmd_power (s : State) (id : Nat) (f : EngCmd → EngCmd) : (s.modCmd id f).power = s.power := rfl
@[simp] theorem State.modCmd_supply (s : State) (id : Nat) (f : EngCmd → EngCmd) : (s.modCmd id f).supply = s.supply := rfl
@[simp] theorem State.modCmd_lossAt (s : State) (id : Nat) (f : EngCmd → EngCmd) : (s.modCmd id f).lossAt = s.lossAt := rfl
@[simp] theorem State.modCmd_bootFailed (s : State) (id : Nat) (f : EngCmd → EngCmd) : (s.modCmd id f).bootFailed = s.bootFailed := rfl
@[simp] theorem State.modCmd_measurements (s : State) (id : Nat) (f : EngCmd → EngCmd) : (s.modCmd id f).measurements = s.measurements := rfl
@[simp] theorem State.modCmd_energyReady (s : State) (id : Nat) (f : EngCmd → EngCmd) : (s.modCmd id f).energyReady = s.energyReady := rfl
@[simp] theorem State.modCmd_holdupFailed (s : State) (id : Nat) (f : EngCmd → EngCmd) : (s.modCmd id f).holdupFailed = s.holdupFailed := rfl
@[simp] theorem State.modCmd_everAdmitted (s : State) (id : Nat) (f : EngCmd → EngCmd) : (s.modCmd id f).everAdmitted = s.everAdmitted := rfl
@[simp] theorem State.modCmd_bootEnd (s : State) (id : Nat) (f : EngCmd → EngCmd) : (s.modCmd id f).bootEnd = s.bootEnd := rfl
@[simp] theorem State.modCmd_time (s : State) (id : Nat) (f : EngCmd → EngCmd) : (s.modCmd id f).time = s.time := rfl
@[simp] theorem State.modCmd_fabric (s : State) (id : Nat) (f : EngCmd → EngCmd) : (s.modCmd id f).fabric = s.fabric := rfl
@[simp] theorem State.modCmd_fabricStopped (s : State) (id : Nat) (f : EngCmd → EngCmd) : (s.modCmd id f).fabricStopped = s.fabricStopped := rfl
@[simp] theorem State.modCmd_uncoreStopped (s : State) (id : Nat) (f : EngCmd → EngCmd) : (s.modCmd id f).uncoreStopped = s.uncoreStopped := rfl
@[simp] theorem State.modCmd_lap (s : State) (id : Nat) (f : EngCmd → EngCmd) : (s.modCmd id f).lap = s.lap := rfl
@[simp] theorem State.modCmd_waitingCreates (s : State) (id : Nat) (f : EngCmd → EngCmd) : (s.modCmd id f).waitingCreates = s.waitingCreates := rfl
@[simp] theorem State.modCmd_links (s : State) (id : Nat) (f : EngCmd → EngCmd) : (s.modCmd id f).links = s.links := rfl
@[simp] theorem State.modCmd_diagSwitched (s : State) (id : Nat) (f : EngCmd → EngCmd) : (s.modCmd id f).diagSwitched = s.diagSwitched := rfl
@[simp] theorem State.modCmd_spans (s : State) (id : Nat) (f : EngCmd → EngCmd) : (s.modCmd id f).spans = s.spans := rfl
@[simp] theorem State.modCmd_routes (s : State) (id : Nat) (f : EngCmd → EngCmd) : (s.modCmd id f).routes = s.routes := rfl
@[simp] theorem State.modCmd_pkgNo (s : State) (id : Nat) (f : EngCmd → EngCmd) : (s.modCmd id f).pkgNo = s.pkgNo := rfl
@[simp] theorem State.modCmd_hdm (s : State) (id : Nat) (f : EngCmd → EngCmd) : (s.modCmd id f).hdm = s.hdm := rfl
@[simp] theorem State.modCmd_foreign (s : State) (id : Nat) (f : EngCmd → EngCmd) : (s.modCmd id f).foreign = s.foreign := rfl
@[simp] theorem State.modCmd_identity (s : State) (id : Nat) (f : EngCmd → EngCmd) : (s.modCmd id f).identity = s.identity := rfl
@[simp] theorem State.modCmd_mailbox (s : State) (id : Nat) (f : EngCmd → EngCmd) : (s.modCmd id f).mailbox = s.mailbox := rfl
@[simp] theorem State.modCmd_msixTable (s : State) (id : Nat) (f : EngCmd → EngCmd) : (s.modCmd id f).msixTable = s.msixTable := rfl
@[simp] theorem State.modCmd_msixPending (s : State) (id : Nat) (f : EngCmd → EngCmd) : (s.modCmd id f).msixPending = s.msixPending := rfl
@[simp] theorem State.modCmd_msiSent (s : State) (id : Nat) (f : EngCmd → EngCmd) : (s.modCmd id f).msiSent = s.msiSent := rfl
@[simp] theorem State.modCmd_hostReply (s : State) (id : Nat) (f : EngCmd → EngCmd) : (s.modCmd id f).hostReply = s.hostReply := rfl
@[simp] theorem State.modCmd_spdmReply (s : State) (id : Nat) (f : EngCmd → EngCmd) : (s.modCmd id f).spdmReply = s.spdmReply := rfl
@[simp] theorem State.modCmd_reply (s : State) (id : Nat) (f : EngCmd → EngCmd) : (s.modCmd id f).reply = s.reply := rfl
@[simp] theorem State.modCmd_ctxs (s : State) (id : Nat) (f : EngCmd → EngCmd) : (s.modCmd id f).ctxs = s.ctxs := rfl
@[simp] theorem State.modCmd_startLists (s : State) (id : Nat) (f : EngCmd → EngCmd) : (s.modCmd id f).startLists = s.startLists := rfl
@[simp] theorem State.modCmd_graphs (s : State) (id : Nat) (f : EngCmd → EngCmd) : (s.modCmd id f).graphs = s.graphs := rfl
@[simp] theorem State.modCmd_tasks (s : State) (id : Nat) (f : EngCmd → EngCmd) : (s.modCmd id f).tasks = s.tasks := rfl
@[simp] theorem State.modCmd_readyNo (s : State) (id : Nat) (f : EngCmd → EngCmd) : (s.modCmd id f).readyNo = s.readyNo := rfl
@[simp] theorem State.modCmd_retired (s : State) (id : Nat) (f : EngCmd → EngCmd) : (s.modCmd id f).retired = s.retired := rfl
@[simp] theorem State.modCmd_resvs (s : State) (id : Nat) (f : EngCmd → EngCmd) : (s.modCmd id f).resvs = s.resvs := rfl
@[simp] theorem State.modCmd_dieTurn (s : State) (id : Nat) (f : EngCmd → EngCmd) : (s.modCmd id f).dieTurn = s.dieTurn := rfl
@[simp] theorem State.modCmd_leases (s : State) (id : Nat) (f : EngCmd → EngCmd) : (s.modCmd id f).leases = s.leases := rfl
@[simp] theorem State.modCmd_ports (s : State) (id : Nat) (f : EngCmd → EngCmd) : (s.modCmd id f).ports = s.ports := rfl
@[simp] theorem State.modCmd_vqueues (s : State) (id : Nat) (f : EngCmd → EngCmd) : (s.modCmd id f).vqueues = s.vqueues := rfl
@[simp] theorem State.modCmd_engines (s : State) (id : Nat) (f : EngCmd → EngCmd) : (s.modCmd id f).engines = s.engines := rfl
@[simp] theorem State.modCmd_teams (s : State) (id : Nat) (f : EngCmd → EngCmd) : (s.modCmd id f).teams = s.teams := rfl
@[simp] theorem State.modCmd_syncQ (s : State) (id : Nat) (f : EngCmd → EngCmd) : (s.modCmd id f).syncQ = s.syncQ := rfl
@[simp] theorem State.modCmd_waiters (s : State) (id : Nat) (f : EngCmd → EngCmd) : (s.modCmd id f).waiters = s.waiters := rfl
@[simp] theorem State.modCmd_mem (s : State) (id : Nat) (f : EngCmd → EngCmd) : (s.modCmd id f).mem = s.mem := rfl
@[simp] theorem State.modCmd_poisoned (s : State) (id : Nat) (f : EngCmd → EngCmd) : (s.modCmd id f).poisoned = s.poisoned := rfl
@[simp] theorem State.modCmd_l2 (s : State) (id : Nat) (f : EngCmd → EngCmd) : (s.modCmd id f).l2 = s.l2 := rfl
@[simp] theorem State.modCmd_near (s : State) (id : Nat) (f : EngCmd → EngCmd) : (s.modCmd id f).near = s.near := rfl
@[simp] theorem State.modCmd_rrc (s : State) (id : Nat) (f : EngCmd → EngCmd) : (s.modCmd id f).rrc = s.rrc := rfl
@[simp] theorem State.modCmd_dir (s : State) (id : Nat) (f : EngCmd → EngCmd) : (s.modCmd id f).dir = s.dir := rfl
@[simp] theorem State.modCmd_tlb (s : State) (id : Nat) (f : EngCmd → EngCmd) : (s.modCmd id f).tlb = s.tlb := rfl
@[simp] theorem State.modCmd_walkCache (s : State) (id : Nat) (f : EngCmd → EngCmd) : (s.modCmd id f).walkCache = s.walkCache := rfl
@[simp] theorem State.modCmd_roots (s : State) (id : Nat) (f : EngCmd → EngCmd) : (s.modCmd id f).roots = s.roots := rfl
@[simp] theorem State.modCmd_roots2 (s : State) (id : Nat) (f : EngCmd → EngCmd) : (s.modCmd id f).roots2 = s.roots2 := rfl
@[simp] theorem State.modCmd_s1seq (s : State) (id : Nat) (f : EngCmd → EngCmd) : (s.modCmd id f).s1seq = s.s1seq := rfl
@[simp] theorem State.modCmd_s2seq (s : State) (id : Nat) (f : EngCmd → EngCmd) : (s.modCmd id f).s2seq = s.s2seq := rfl
@[simp] theorem State.modCmd_owners (s : State) (id : Nat) (f : EngCmd → EngCmd) : (s.modCmd id f).owners = s.owners := rfl
@[simp] theorem State.modCmd_keys (s : State) (id : Nat) (f : EngCmd → EngCmd) : (s.modCmd id f).keys = s.keys := rfl
@[simp] theorem State.modCmd_sealed (s : State) (id : Nat) (f : EngCmd → EngCmd) : (s.modCmd id f).sealed = s.sealed := rfl
@[simp] theorem State.modCmd_tags (s : State) (id : Nat) (f : EngCmd → EngCmd) : (s.modCmd id f).tags = s.tags := rfl
@[simp] theorem State.modCmd_tagFailed (s : State) (id : Nat) (f : EngCmd → EngCmd) : (s.modCmd id f).tagFailed = s.tagFailed := rfl
@[simp] theorem State.modCmd_eccFailed (s : State) (id : Nat) (f : EngCmd → EngCmd) : (s.modCmd id f).eccFailed = s.eccFailed := rfl
@[simp] theorem State.modCmd_pools (s : State) (id : Nat) (f : EngCmd → EngCmd) : (s.modCmd id f).pools = s.pools := rfl
@[simp] theorem State.modCmd_invals (s : State) (id : Nat) (f : EngCmd → EngCmd) : (s.modCmd id f).invals = s.invals := rfl
@[simp] theorem State.modCmd_raceTags (s : State) (id : Nat) (f : EngCmd → EngCmd) : (s.modCmd id f).raceTags = s.raceTags := rfl
@[simp] theorem State.modCmd_racePools (s : State) (id : Nat) (f : EngCmd → EngCmd) : (s.modCmd id f).racePools = s.racePools := rfl
@[simp] theorem State.modCmd_oldest (s : State) (id : Nat) (f : EngCmd → EngCmd) : (s.modCmd id f).oldest = s.oldest := rfl
@[simp] theorem State.modCmd_parties (s : State) (id : Nat) (f : EngCmd → EngCmd) : (s.modCmd id f).parties = s.parties := rfl
@[simp] theorem State.modCmd_budgets (s : State) (id : Nat) (f : EngCmd → EngCmd) : (s.modCmd id f).budgets = s.budgets := rfl
@[simp] theorem State.modCmd_counters (s : State) (id : Nat) (f : EngCmd → EngCmd) : (s.modCmd id f).counters = s.counters := rfl
@[simp] theorem State.modCmd_traps (s : State) (id : Nat) (f : EngCmd → EngCmd) : (s.modCmd id f).traps = s.traps := rfl
@[simp] theorem State.modCmd_errorLog (s : State) (id : Nat) (f : EngCmd → EngCmd) : (s.modCmd id f).errorLog = s.errorLog := rfl
@[simp] theorem State.modCmd_siteChecks (s : State) (id : Nat) (f : EngCmd → EngCmd) : (s.modCmd id f).siteChecks = s.siteChecks := rfl
@[simp] theorem State.modCmd_siteThresh (s : State) (id : Nat) (f : EngCmd → EngCmd) : (s.modCmd id f).siteThresh = s.siteThresh := rfl
@[simp] theorem State.modCmd_halvings (s : State) (id : Nat) (f : EngCmd → EngCmd) : (s.modCmd id f).halvings = s.halvings := rfl
@[simp] theorem State.modCmd_errCounts (s : State) (id : Nat) (f : EngCmd → EngCmd) : (s.modCmd id f).errCounts = s.errCounts := rfl
@[simp] theorem State.modCmd_measuring (s : State) (id : Nat) (f : EngCmd → EngCmd) : (s.modCmd id f).measuring = s.measuring := rfl
@[simp] theorem State.modCmd_withheld (s : State) (id : Nat) (f : EngCmd → EngCmd) : (s.modCmd id f).withheld = s.withheld := rfl
@[simp] theorem State.modCmd_standing (s : State) (id : Nat) (f : EngCmd → EngCmd) : (s.modCmd id f).standing = s.standing := rfl
@[simp] theorem State.modCmd_holdup (s : State) (id : Nat) (f : EngCmd → EngCmd) : (s.modCmd id f).holdup = s.holdup := rfl
@[simp] theorem State.modCmd_keep (s : State) (id : Nat) (f : EngCmd → EngCmd) : (s.modCmd id f).keep = s.keep := rfl
@[simp] theorem State.modCmd_nonce (s : State) (id : Nat) (f : EngCmd → EngCmd) : (s.modCmd id f).nonce = s.nonce := rfl
@[simp] theorem State.modCmd_freeze (s : State) (id : Nat) (f : EngCmd → EngCmd) : (s.modCmd id f).freeze = s.freeze := rfl
@[simp] theorem State.modCmd_readOut (s : State) (id : Nat) (f : EngCmd → EngCmd) : (s.modCmd id f).readOut = s.readOut := rfl
@[simp] theorem State.modCmd_resets (s : State) (id : Nat) (f : EngCmd → EngCmd) : (s.modCmd id f).resets = s.resets := rfl
@[simp] theorem State.modCmd_waysOut (s : State) (id : Nat) (f : EngCmd → EngCmd) : (s.modCmd id f).waysOut = s.waysOut := rfl
@[simp] theorem State.modCmd_framesOut (s : State) (id : Nat) (f : EngCmd → EngCmd) : (s.modCmd id f).framesOut = s.framesOut := rfl

/-- Changing HOLD changes nothing but `ports`. -/
theorem State.holdInputs_only (s : State) (lease : Nat) (b : Bool) : s.holdInputs lease b = { s with ports := (s.holdInputs lease b).ports } := rfl
@[simp] theorem State.holdInputs_agenda (s : State) (lease : Nat) (b : Bool) : (s.holdInputs lease b).agenda = s.agenda := rfl
@[simp] theorem State.holdInputs_focus (s : State) (lease : Nat) (b : Bool) : (s.holdInputs lease b).focus = s.focus := rfl
@[simp] theorem State.holdInputs_nextId (s : State) (lease : Nat) (b : Bool) : (s.holdInputs lease b).nextId = s.nextId := rfl
@[simp] theorem State.holdInputs_freeCount (s : State) (lease : Nat) (b : Bool) : (s.holdInputs lease b).freeCount = s.freeCount := rfl
@[simp] theorem State.holdInputs_fuses (s : State) (lease : Nat) (b : Bool) : (s.holdInputs lease b).fuses = s.fuses := rfl
@[simp] theorem State.holdInputs_power (s : State) (lease : Nat) (b : Bool) : (s.holdInputs lease b).power = s.power := rfl
@[simp] theorem State.holdInputs_supply (s : State) (lease : Nat) (b : Bool) : (s.holdInputs lease b).supply = s.supply := rfl
@[simp] theorem State.holdInputs_lossAt (s : State) (lease : Nat) (b : Bool) : (s.holdInputs lease b).lossAt = s.lossAt := rfl
@[simp] theorem State.holdInputs_bootFailed (s : State) (lease : Nat) (b : Bool) : (s.holdInputs lease b).bootFailed = s.bootFailed := rfl
@[simp] theorem State.holdInputs_measurements (s : State) (lease : Nat) (b : Bool) : (s.holdInputs lease b).measurements = s.measurements := rfl
@[simp] theorem State.holdInputs_energyReady (s : State) (lease : Nat) (b : Bool) : (s.holdInputs lease b).energyReady = s.energyReady := rfl
@[simp] theorem State.holdInputs_holdupFailed (s : State) (lease : Nat) (b : Bool) : (s.holdInputs lease b).holdupFailed = s.holdupFailed := rfl
@[simp] theorem State.holdInputs_everAdmitted (s : State) (lease : Nat) (b : Bool) : (s.holdInputs lease b).everAdmitted = s.everAdmitted := rfl
@[simp] theorem State.holdInputs_bootEnd (s : State) (lease : Nat) (b : Bool) : (s.holdInputs lease b).bootEnd = s.bootEnd := rfl
@[simp] theorem State.holdInputs_time (s : State) (lease : Nat) (b : Bool) : (s.holdInputs lease b).time = s.time := rfl
@[simp] theorem State.holdInputs_fabric (s : State) (lease : Nat) (b : Bool) : (s.holdInputs lease b).fabric = s.fabric := rfl
@[simp] theorem State.holdInputs_fabricStopped (s : State) (lease : Nat) (b : Bool) : (s.holdInputs lease b).fabricStopped = s.fabricStopped := rfl
@[simp] theorem State.holdInputs_uncoreStopped (s : State) (lease : Nat) (b : Bool) : (s.holdInputs lease b).uncoreStopped = s.uncoreStopped := rfl
@[simp] theorem State.holdInputs_lap (s : State) (lease : Nat) (b : Bool) : (s.holdInputs lease b).lap = s.lap := rfl
@[simp] theorem State.holdInputs_waitingCreates (s : State) (lease : Nat) (b : Bool) : (s.holdInputs lease b).waitingCreates = s.waitingCreates := rfl
@[simp] theorem State.holdInputs_links (s : State) (lease : Nat) (b : Bool) : (s.holdInputs lease b).links = s.links := rfl
@[simp] theorem State.holdInputs_diagSwitched (s : State) (lease : Nat) (b : Bool) : (s.holdInputs lease b).diagSwitched = s.diagSwitched := rfl
@[simp] theorem State.holdInputs_spans (s : State) (lease : Nat) (b : Bool) : (s.holdInputs lease b).spans = s.spans := rfl
@[simp] theorem State.holdInputs_routes (s : State) (lease : Nat) (b : Bool) : (s.holdInputs lease b).routes = s.routes := rfl
@[simp] theorem State.holdInputs_pkgNo (s : State) (lease : Nat) (b : Bool) : (s.holdInputs lease b).pkgNo = s.pkgNo := rfl
@[simp] theorem State.holdInputs_hdm (s : State) (lease : Nat) (b : Bool) : (s.holdInputs lease b).hdm = s.hdm := rfl
@[simp] theorem State.holdInputs_foreign (s : State) (lease : Nat) (b : Bool) : (s.holdInputs lease b).foreign = s.foreign := rfl
@[simp] theorem State.holdInputs_identity (s : State) (lease : Nat) (b : Bool) : (s.holdInputs lease b).identity = s.identity := rfl
@[simp] theorem State.holdInputs_mailbox (s : State) (lease : Nat) (b : Bool) : (s.holdInputs lease b).mailbox = s.mailbox := rfl
@[simp] theorem State.holdInputs_msixTable (s : State) (lease : Nat) (b : Bool) : (s.holdInputs lease b).msixTable = s.msixTable := rfl
@[simp] theorem State.holdInputs_msixPending (s : State) (lease : Nat) (b : Bool) : (s.holdInputs lease b).msixPending = s.msixPending := rfl
@[simp] theorem State.holdInputs_msiSent (s : State) (lease : Nat) (b : Bool) : (s.holdInputs lease b).msiSent = s.msiSent := rfl
@[simp] theorem State.holdInputs_hostReply (s : State) (lease : Nat) (b : Bool) : (s.holdInputs lease b).hostReply = s.hostReply := rfl
@[simp] theorem State.holdInputs_spdmReply (s : State) (lease : Nat) (b : Bool) : (s.holdInputs lease b).spdmReply = s.spdmReply := rfl
@[simp] theorem State.holdInputs_reply (s : State) (lease : Nat) (b : Bool) : (s.holdInputs lease b).reply = s.reply := rfl
@[simp] theorem State.holdInputs_ctxs (s : State) (lease : Nat) (b : Bool) : (s.holdInputs lease b).ctxs = s.ctxs := rfl
@[simp] theorem State.holdInputs_startLists (s : State) (lease : Nat) (b : Bool) : (s.holdInputs lease b).startLists = s.startLists := rfl
@[simp] theorem State.holdInputs_graphs (s : State) (lease : Nat) (b : Bool) : (s.holdInputs lease b).graphs = s.graphs := rfl
@[simp] theorem State.holdInputs_tasks (s : State) (lease : Nat) (b : Bool) : (s.holdInputs lease b).tasks = s.tasks := rfl
@[simp] theorem State.holdInputs_readyNo (s : State) (lease : Nat) (b : Bool) : (s.holdInputs lease b).readyNo = s.readyNo := rfl
@[simp] theorem State.holdInputs_retired (s : State) (lease : Nat) (b : Bool) : (s.holdInputs lease b).retired = s.retired := rfl
@[simp] theorem State.holdInputs_resvs (s : State) (lease : Nat) (b : Bool) : (s.holdInputs lease b).resvs = s.resvs := rfl
@[simp] theorem State.holdInputs_dieTurn (s : State) (lease : Nat) (b : Bool) : (s.holdInputs lease b).dieTurn = s.dieTurn := rfl
@[simp] theorem State.holdInputs_leases (s : State) (lease : Nat) (b : Bool) : (s.holdInputs lease b).leases = s.leases := rfl
@[simp] theorem State.holdInputs_cmds (s : State) (lease : Nat) (b : Bool) : (s.holdInputs lease b).cmds = s.cmds := rfl
@[simp] theorem State.holdInputs_vqueues (s : State) (lease : Nat) (b : Bool) : (s.holdInputs lease b).vqueues = s.vqueues := rfl
@[simp] theorem State.holdInputs_engines (s : State) (lease : Nat) (b : Bool) : (s.holdInputs lease b).engines = s.engines := rfl
@[simp] theorem State.holdInputs_teams (s : State) (lease : Nat) (b : Bool) : (s.holdInputs lease b).teams = s.teams := rfl
@[simp] theorem State.holdInputs_syncQ (s : State) (lease : Nat) (b : Bool) : (s.holdInputs lease b).syncQ = s.syncQ := rfl
@[simp] theorem State.holdInputs_waiters (s : State) (lease : Nat) (b : Bool) : (s.holdInputs lease b).waiters = s.waiters := rfl
@[simp] theorem State.holdInputs_mem (s : State) (lease : Nat) (b : Bool) : (s.holdInputs lease b).mem = s.mem := rfl
@[simp] theorem State.holdInputs_poisoned (s : State) (lease : Nat) (b : Bool) : (s.holdInputs lease b).poisoned = s.poisoned := rfl
@[simp] theorem State.holdInputs_l2 (s : State) (lease : Nat) (b : Bool) : (s.holdInputs lease b).l2 = s.l2 := rfl
@[simp] theorem State.holdInputs_near (s : State) (lease : Nat) (b : Bool) : (s.holdInputs lease b).near = s.near := rfl
@[simp] theorem State.holdInputs_rrc (s : State) (lease : Nat) (b : Bool) : (s.holdInputs lease b).rrc = s.rrc := rfl
@[simp] theorem State.holdInputs_dir (s : State) (lease : Nat) (b : Bool) : (s.holdInputs lease b).dir = s.dir := rfl
@[simp] theorem State.holdInputs_tlb (s : State) (lease : Nat) (b : Bool) : (s.holdInputs lease b).tlb = s.tlb := rfl
@[simp] theorem State.holdInputs_walkCache (s : State) (lease : Nat) (b : Bool) : (s.holdInputs lease b).walkCache = s.walkCache := rfl
@[simp] theorem State.holdInputs_roots (s : State) (lease : Nat) (b : Bool) : (s.holdInputs lease b).roots = s.roots := rfl
@[simp] theorem State.holdInputs_roots2 (s : State) (lease : Nat) (b : Bool) : (s.holdInputs lease b).roots2 = s.roots2 := rfl
@[simp] theorem State.holdInputs_s1seq (s : State) (lease : Nat) (b : Bool) : (s.holdInputs lease b).s1seq = s.s1seq := rfl
@[simp] theorem State.holdInputs_s2seq (s : State) (lease : Nat) (b : Bool) : (s.holdInputs lease b).s2seq = s.s2seq := rfl
@[simp] theorem State.holdInputs_owners (s : State) (lease : Nat) (b : Bool) : (s.holdInputs lease b).owners = s.owners := rfl
@[simp] theorem State.holdInputs_keys (s : State) (lease : Nat) (b : Bool) : (s.holdInputs lease b).keys = s.keys := rfl
@[simp] theorem State.holdInputs_sealed (s : State) (lease : Nat) (b : Bool) : (s.holdInputs lease b).sealed = s.sealed := rfl
@[simp] theorem State.holdInputs_tags (s : State) (lease : Nat) (b : Bool) : (s.holdInputs lease b).tags = s.tags := rfl
@[simp] theorem State.holdInputs_tagFailed (s : State) (lease : Nat) (b : Bool) : (s.holdInputs lease b).tagFailed = s.tagFailed := rfl
@[simp] theorem State.holdInputs_eccFailed (s : State) (lease : Nat) (b : Bool) : (s.holdInputs lease b).eccFailed = s.eccFailed := rfl
@[simp] theorem State.holdInputs_pools (s : State) (lease : Nat) (b : Bool) : (s.holdInputs lease b).pools = s.pools := rfl
@[simp] theorem State.holdInputs_invals (s : State) (lease : Nat) (b : Bool) : (s.holdInputs lease b).invals = s.invals := rfl
@[simp] theorem State.holdInputs_raceTags (s : State) (lease : Nat) (b : Bool) : (s.holdInputs lease b).raceTags = s.raceTags := rfl
@[simp] theorem State.holdInputs_racePools (s : State) (lease : Nat) (b : Bool) : (s.holdInputs lease b).racePools = s.racePools := rfl
@[simp] theorem State.holdInputs_oldest (s : State) (lease : Nat) (b : Bool) : (s.holdInputs lease b).oldest = s.oldest := rfl
@[simp] theorem State.holdInputs_parties (s : State) (lease : Nat) (b : Bool) : (s.holdInputs lease b).parties = s.parties := rfl
@[simp] theorem State.holdInputs_budgets (s : State) (lease : Nat) (b : Bool) : (s.holdInputs lease b).budgets = s.budgets := rfl
@[simp] theorem State.holdInputs_counters (s : State) (lease : Nat) (b : Bool) : (s.holdInputs lease b).counters = s.counters := rfl
@[simp] theorem State.holdInputs_traps (s : State) (lease : Nat) (b : Bool) : (s.holdInputs lease b).traps = s.traps := rfl
@[simp] theorem State.holdInputs_errorLog (s : State) (lease : Nat) (b : Bool) : (s.holdInputs lease b).errorLog = s.errorLog := rfl
@[simp] theorem State.holdInputs_siteChecks (s : State) (lease : Nat) (b : Bool) : (s.holdInputs lease b).siteChecks = s.siteChecks := rfl
@[simp] theorem State.holdInputs_siteThresh (s : State) (lease : Nat) (b : Bool) : (s.holdInputs lease b).siteThresh = s.siteThresh := rfl
@[simp] theorem State.holdInputs_halvings (s : State) (lease : Nat) (b : Bool) : (s.holdInputs lease b).halvings = s.halvings := rfl
@[simp] theorem State.holdInputs_errCounts (s : State) (lease : Nat) (b : Bool) : (s.holdInputs lease b).errCounts = s.errCounts := rfl
@[simp] theorem State.holdInputs_measuring (s : State) (lease : Nat) (b : Bool) : (s.holdInputs lease b).measuring = s.measuring := rfl
@[simp] theorem State.holdInputs_withheld (s : State) (lease : Nat) (b : Bool) : (s.holdInputs lease b).withheld = s.withheld := rfl
@[simp] theorem State.holdInputs_standing (s : State) (lease : Nat) (b : Bool) : (s.holdInputs lease b).standing = s.standing := rfl
@[simp] theorem State.holdInputs_holdup (s : State) (lease : Nat) (b : Bool) : (s.holdInputs lease b).holdup = s.holdup := rfl
@[simp] theorem State.holdInputs_keep (s : State) (lease : Nat) (b : Bool) : (s.holdInputs lease b).keep = s.keep := rfl
@[simp] theorem State.holdInputs_nonce (s : State) (lease : Nat) (b : Bool) : (s.holdInputs lease b).nonce = s.nonce := rfl
@[simp] theorem State.holdInputs_freeze (s : State) (lease : Nat) (b : Bool) : (s.holdInputs lease b).freeze = s.freeze := rfl
@[simp] theorem State.holdInputs_readOut (s : State) (lease : Nat) (b : Bool) : (s.holdInputs lease b).readOut = s.readOut := rfl
@[simp] theorem State.holdInputs_resets (s : State) (lease : Nat) (b : Bool) : (s.holdInputs lease b).resets = s.resets := rfl
@[simp] theorem State.holdInputs_waysOut (s : State) (lease : Nat) (b : Bool) : (s.holdInputs lease b).waysOut = s.waysOut := rfl
@[simp] theorem State.holdInputs_framesOut (s : State) (lease : Nat) (b : Bool) : (s.holdInputs lease b).framesOut = s.framesOut := rfl

/-- Changing a stall count changes nothing but `leases`. -/
theorem State.progress_only (s : State) (lease : Nat) : s.progress lease = { s with leases := (s.progress lease).leases } := rfl
@[simp] theorem State.progress_agenda (s : State) (lease : Nat) : (s.progress lease).agenda = s.agenda := rfl
@[simp] theorem State.progress_focus (s : State) (lease : Nat) : (s.progress lease).focus = s.focus := rfl
@[simp] theorem State.progress_nextId (s : State) (lease : Nat) : (s.progress lease).nextId = s.nextId := rfl
@[simp] theorem State.progress_freeCount (s : State) (lease : Nat) : (s.progress lease).freeCount = s.freeCount := rfl
@[simp] theorem State.progress_fuses (s : State) (lease : Nat) : (s.progress lease).fuses = s.fuses := rfl
@[simp] theorem State.progress_power (s : State) (lease : Nat) : (s.progress lease).power = s.power := rfl
@[simp] theorem State.progress_supply (s : State) (lease : Nat) : (s.progress lease).supply = s.supply := rfl
@[simp] theorem State.progress_lossAt (s : State) (lease : Nat) : (s.progress lease).lossAt = s.lossAt := rfl
@[simp] theorem State.progress_bootFailed (s : State) (lease : Nat) : (s.progress lease).bootFailed = s.bootFailed := rfl
@[simp] theorem State.progress_measurements (s : State) (lease : Nat) : (s.progress lease).measurements = s.measurements := rfl
@[simp] theorem State.progress_energyReady (s : State) (lease : Nat) : (s.progress lease).energyReady = s.energyReady := rfl
@[simp] theorem State.progress_holdupFailed (s : State) (lease : Nat) : (s.progress lease).holdupFailed = s.holdupFailed := rfl
@[simp] theorem State.progress_everAdmitted (s : State) (lease : Nat) : (s.progress lease).everAdmitted = s.everAdmitted := rfl
@[simp] theorem State.progress_bootEnd (s : State) (lease : Nat) : (s.progress lease).bootEnd = s.bootEnd := rfl
@[simp] theorem State.progress_time (s : State) (lease : Nat) : (s.progress lease).time = s.time := rfl
@[simp] theorem State.progress_fabric (s : State) (lease : Nat) : (s.progress lease).fabric = s.fabric := rfl
@[simp] theorem State.progress_fabricStopped (s : State) (lease : Nat) : (s.progress lease).fabricStopped = s.fabricStopped := rfl
@[simp] theorem State.progress_uncoreStopped (s : State) (lease : Nat) : (s.progress lease).uncoreStopped = s.uncoreStopped := rfl
@[simp] theorem State.progress_lap (s : State) (lease : Nat) : (s.progress lease).lap = s.lap := rfl
@[simp] theorem State.progress_waitingCreates (s : State) (lease : Nat) : (s.progress lease).waitingCreates = s.waitingCreates := rfl
@[simp] theorem State.progress_links (s : State) (lease : Nat) : (s.progress lease).links = s.links := rfl
@[simp] theorem State.progress_diagSwitched (s : State) (lease : Nat) : (s.progress lease).diagSwitched = s.diagSwitched := rfl
@[simp] theorem State.progress_spans (s : State) (lease : Nat) : (s.progress lease).spans = s.spans := rfl
@[simp] theorem State.progress_routes (s : State) (lease : Nat) : (s.progress lease).routes = s.routes := rfl
@[simp] theorem State.progress_pkgNo (s : State) (lease : Nat) : (s.progress lease).pkgNo = s.pkgNo := rfl
@[simp] theorem State.progress_hdm (s : State) (lease : Nat) : (s.progress lease).hdm = s.hdm := rfl
@[simp] theorem State.progress_foreign (s : State) (lease : Nat) : (s.progress lease).foreign = s.foreign := rfl
@[simp] theorem State.progress_identity (s : State) (lease : Nat) : (s.progress lease).identity = s.identity := rfl
@[simp] theorem State.progress_mailbox (s : State) (lease : Nat) : (s.progress lease).mailbox = s.mailbox := rfl
@[simp] theorem State.progress_msixTable (s : State) (lease : Nat) : (s.progress lease).msixTable = s.msixTable := rfl
@[simp] theorem State.progress_msixPending (s : State) (lease : Nat) : (s.progress lease).msixPending = s.msixPending := rfl
@[simp] theorem State.progress_msiSent (s : State) (lease : Nat) : (s.progress lease).msiSent = s.msiSent := rfl
@[simp] theorem State.progress_hostReply (s : State) (lease : Nat) : (s.progress lease).hostReply = s.hostReply := rfl
@[simp] theorem State.progress_spdmReply (s : State) (lease : Nat) : (s.progress lease).spdmReply = s.spdmReply := rfl
@[simp] theorem State.progress_reply (s : State) (lease : Nat) : (s.progress lease).reply = s.reply := rfl
@[simp] theorem State.progress_ctxs (s : State) (lease : Nat) : (s.progress lease).ctxs = s.ctxs := rfl
@[simp] theorem State.progress_startLists (s : State) (lease : Nat) : (s.progress lease).startLists = s.startLists := rfl
@[simp] theorem State.progress_graphs (s : State) (lease : Nat) : (s.progress lease).graphs = s.graphs := rfl
@[simp] theorem State.progress_tasks (s : State) (lease : Nat) : (s.progress lease).tasks = s.tasks := rfl
@[simp] theorem State.progress_readyNo (s : State) (lease : Nat) : (s.progress lease).readyNo = s.readyNo := rfl
@[simp] theorem State.progress_retired (s : State) (lease : Nat) : (s.progress lease).retired = s.retired := rfl
@[simp] theorem State.progress_resvs (s : State) (lease : Nat) : (s.progress lease).resvs = s.resvs := rfl
@[simp] theorem State.progress_dieTurn (s : State) (lease : Nat) : (s.progress lease).dieTurn = s.dieTurn := rfl
@[simp] theorem State.progress_ports (s : State) (lease : Nat) : (s.progress lease).ports = s.ports := rfl
@[simp] theorem State.progress_cmds (s : State) (lease : Nat) : (s.progress lease).cmds = s.cmds := rfl
@[simp] theorem State.progress_vqueues (s : State) (lease : Nat) : (s.progress lease).vqueues = s.vqueues := rfl
@[simp] theorem State.progress_engines (s : State) (lease : Nat) : (s.progress lease).engines = s.engines := rfl
@[simp] theorem State.progress_teams (s : State) (lease : Nat) : (s.progress lease).teams = s.teams := rfl
@[simp] theorem State.progress_syncQ (s : State) (lease : Nat) : (s.progress lease).syncQ = s.syncQ := rfl
@[simp] theorem State.progress_waiters (s : State) (lease : Nat) : (s.progress lease).waiters = s.waiters := rfl
@[simp] theorem State.progress_mem (s : State) (lease : Nat) : (s.progress lease).mem = s.mem := rfl
@[simp] theorem State.progress_poisoned (s : State) (lease : Nat) : (s.progress lease).poisoned = s.poisoned := rfl
@[simp] theorem State.progress_l2 (s : State) (lease : Nat) : (s.progress lease).l2 = s.l2 := rfl
@[simp] theorem State.progress_near (s : State) (lease : Nat) : (s.progress lease).near = s.near := rfl
@[simp] theorem State.progress_rrc (s : State) (lease : Nat) : (s.progress lease).rrc = s.rrc := rfl
@[simp] theorem State.progress_dir (s : State) (lease : Nat) : (s.progress lease).dir = s.dir := rfl
@[simp] theorem State.progress_tlb (s : State) (lease : Nat) : (s.progress lease).tlb = s.tlb := rfl
@[simp] theorem State.progress_walkCache (s : State) (lease : Nat) : (s.progress lease).walkCache = s.walkCache := rfl
@[simp] theorem State.progress_roots (s : State) (lease : Nat) : (s.progress lease).roots = s.roots := rfl
@[simp] theorem State.progress_roots2 (s : State) (lease : Nat) : (s.progress lease).roots2 = s.roots2 := rfl
@[simp] theorem State.progress_s1seq (s : State) (lease : Nat) : (s.progress lease).s1seq = s.s1seq := rfl
@[simp] theorem State.progress_s2seq (s : State) (lease : Nat) : (s.progress lease).s2seq = s.s2seq := rfl
@[simp] theorem State.progress_owners (s : State) (lease : Nat) : (s.progress lease).owners = s.owners := rfl
@[simp] theorem State.progress_keys (s : State) (lease : Nat) : (s.progress lease).keys = s.keys := rfl
@[simp] theorem State.progress_sealed (s : State) (lease : Nat) : (s.progress lease).sealed = s.sealed := rfl
@[simp] theorem State.progress_tags (s : State) (lease : Nat) : (s.progress lease).tags = s.tags := rfl
@[simp] theorem State.progress_tagFailed (s : State) (lease : Nat) : (s.progress lease).tagFailed = s.tagFailed := rfl
@[simp] theorem State.progress_eccFailed (s : State) (lease : Nat) : (s.progress lease).eccFailed = s.eccFailed := rfl
@[simp] theorem State.progress_pools (s : State) (lease : Nat) : (s.progress lease).pools = s.pools := rfl
@[simp] theorem State.progress_invals (s : State) (lease : Nat) : (s.progress lease).invals = s.invals := rfl
@[simp] theorem State.progress_raceTags (s : State) (lease : Nat) : (s.progress lease).raceTags = s.raceTags := rfl
@[simp] theorem State.progress_racePools (s : State) (lease : Nat) : (s.progress lease).racePools = s.racePools := rfl
@[simp] theorem State.progress_oldest (s : State) (lease : Nat) : (s.progress lease).oldest = s.oldest := rfl
@[simp] theorem State.progress_parties (s : State) (lease : Nat) : (s.progress lease).parties = s.parties := rfl
@[simp] theorem State.progress_budgets (s : State) (lease : Nat) : (s.progress lease).budgets = s.budgets := rfl
@[simp] theorem State.progress_counters (s : State) (lease : Nat) : (s.progress lease).counters = s.counters := rfl
@[simp] theorem State.progress_traps (s : State) (lease : Nat) : (s.progress lease).traps = s.traps := rfl
@[simp] theorem State.progress_errorLog (s : State) (lease : Nat) : (s.progress lease).errorLog = s.errorLog := rfl
@[simp] theorem State.progress_siteChecks (s : State) (lease : Nat) : (s.progress lease).siteChecks = s.siteChecks := rfl
@[simp] theorem State.progress_siteThresh (s : State) (lease : Nat) : (s.progress lease).siteThresh = s.siteThresh := rfl
@[simp] theorem State.progress_halvings (s : State) (lease : Nat) : (s.progress lease).halvings = s.halvings := rfl
@[simp] theorem State.progress_errCounts (s : State) (lease : Nat) : (s.progress lease).errCounts = s.errCounts := rfl
@[simp] theorem State.progress_measuring (s : State) (lease : Nat) : (s.progress lease).measuring = s.measuring := rfl
@[simp] theorem State.progress_withheld (s : State) (lease : Nat) : (s.progress lease).withheld = s.withheld := rfl
@[simp] theorem State.progress_standing (s : State) (lease : Nat) : (s.progress lease).standing = s.standing := rfl
@[simp] theorem State.progress_holdup (s : State) (lease : Nat) : (s.progress lease).holdup = s.holdup := rfl
@[simp] theorem State.progress_keep (s : State) (lease : Nat) : (s.progress lease).keep = s.keep := rfl
@[simp] theorem State.progress_nonce (s : State) (lease : Nat) : (s.progress lease).nonce = s.nonce := rfl
@[simp] theorem State.progress_freeze (s : State) (lease : Nat) : (s.progress lease).freeze = s.freeze := rfl
@[simp] theorem State.progress_readOut (s : State) (lease : Nat) : (s.progress lease).readOut = s.readOut := rfl
@[simp] theorem State.progress_resets (s : State) (lease : Nat) : (s.progress lease).resets = s.resets := rfl
@[simp] theorem State.progress_waysOut (s : State) (lease : Nat) : (s.progress lease).waysOut = s.waysOut := rfl
@[simp] theorem State.progress_framesOut (s : State) (lease : Nat) : (s.progress lease).framesOut = s.framesOut := rfl

/-- Changing the error log changes nothing but `errorLog`. -/
theorem State.logError_only (s : State) (k : Nat) : s.logError k = { s with errorLog := (s.logError k).errorLog } := rfl
@[simp] theorem State.logError_agenda (s : State) (k : Nat) : (s.logError k).agenda = s.agenda := rfl
@[simp] theorem State.logError_focus (s : State) (k : Nat) : (s.logError k).focus = s.focus := rfl
@[simp] theorem State.logError_nextId (s : State) (k : Nat) : (s.logError k).nextId = s.nextId := rfl
@[simp] theorem State.logError_freeCount (s : State) (k : Nat) : (s.logError k).freeCount = s.freeCount := rfl
@[simp] theorem State.logError_fuses (s : State) (k : Nat) : (s.logError k).fuses = s.fuses := rfl
@[simp] theorem State.logError_power (s : State) (k : Nat) : (s.logError k).power = s.power := rfl
@[simp] theorem State.logError_supply (s : State) (k : Nat) : (s.logError k).supply = s.supply := rfl
@[simp] theorem State.logError_lossAt (s : State) (k : Nat) : (s.logError k).lossAt = s.lossAt := rfl
@[simp] theorem State.logError_bootFailed (s : State) (k : Nat) : (s.logError k).bootFailed = s.bootFailed := rfl
@[simp] theorem State.logError_measurements (s : State) (k : Nat) : (s.logError k).measurements = s.measurements := rfl
@[simp] theorem State.logError_energyReady (s : State) (k : Nat) : (s.logError k).energyReady = s.energyReady := rfl
@[simp] theorem State.logError_holdupFailed (s : State) (k : Nat) : (s.logError k).holdupFailed = s.holdupFailed := rfl
@[simp] theorem State.logError_everAdmitted (s : State) (k : Nat) : (s.logError k).everAdmitted = s.everAdmitted := rfl
@[simp] theorem State.logError_bootEnd (s : State) (k : Nat) : (s.logError k).bootEnd = s.bootEnd := rfl
@[simp] theorem State.logError_time (s : State) (k : Nat) : (s.logError k).time = s.time := rfl
@[simp] theorem State.logError_fabric (s : State) (k : Nat) : (s.logError k).fabric = s.fabric := rfl
@[simp] theorem State.logError_fabricStopped (s : State) (k : Nat) : (s.logError k).fabricStopped = s.fabricStopped := rfl
@[simp] theorem State.logError_uncoreStopped (s : State) (k : Nat) : (s.logError k).uncoreStopped = s.uncoreStopped := rfl
@[simp] theorem State.logError_lap (s : State) (k : Nat) : (s.logError k).lap = s.lap := rfl
@[simp] theorem State.logError_waitingCreates (s : State) (k : Nat) : (s.logError k).waitingCreates = s.waitingCreates := rfl
@[simp] theorem State.logError_links (s : State) (k : Nat) : (s.logError k).links = s.links := rfl
@[simp] theorem State.logError_diagSwitched (s : State) (k : Nat) : (s.logError k).diagSwitched = s.diagSwitched := rfl
@[simp] theorem State.logError_spans (s : State) (k : Nat) : (s.logError k).spans = s.spans := rfl
@[simp] theorem State.logError_routes (s : State) (k : Nat) : (s.logError k).routes = s.routes := rfl
@[simp] theorem State.logError_pkgNo (s : State) (k : Nat) : (s.logError k).pkgNo = s.pkgNo := rfl
@[simp] theorem State.logError_hdm (s : State) (k : Nat) : (s.logError k).hdm = s.hdm := rfl
@[simp] theorem State.logError_foreign (s : State) (k : Nat) : (s.logError k).foreign = s.foreign := rfl
@[simp] theorem State.logError_identity (s : State) (k : Nat) : (s.logError k).identity = s.identity := rfl
@[simp] theorem State.logError_mailbox (s : State) (k : Nat) : (s.logError k).mailbox = s.mailbox := rfl
@[simp] theorem State.logError_msixTable (s : State) (k : Nat) : (s.logError k).msixTable = s.msixTable := rfl
@[simp] theorem State.logError_msixPending (s : State) (k : Nat) : (s.logError k).msixPending = s.msixPending := rfl
@[simp] theorem State.logError_msiSent (s : State) (k : Nat) : (s.logError k).msiSent = s.msiSent := rfl
@[simp] theorem State.logError_hostReply (s : State) (k : Nat) : (s.logError k).hostReply = s.hostReply := rfl
@[simp] theorem State.logError_spdmReply (s : State) (k : Nat) : (s.logError k).spdmReply = s.spdmReply := rfl
@[simp] theorem State.logError_reply (s : State) (k : Nat) : (s.logError k).reply = s.reply := rfl
@[simp] theorem State.logError_ctxs (s : State) (k : Nat) : (s.logError k).ctxs = s.ctxs := rfl
@[simp] theorem State.logError_startLists (s : State) (k : Nat) : (s.logError k).startLists = s.startLists := rfl
@[simp] theorem State.logError_graphs (s : State) (k : Nat) : (s.logError k).graphs = s.graphs := rfl
@[simp] theorem State.logError_tasks (s : State) (k : Nat) : (s.logError k).tasks = s.tasks := rfl
@[simp] theorem State.logError_readyNo (s : State) (k : Nat) : (s.logError k).readyNo = s.readyNo := rfl
@[simp] theorem State.logError_retired (s : State) (k : Nat) : (s.logError k).retired = s.retired := rfl
@[simp] theorem State.logError_resvs (s : State) (k : Nat) : (s.logError k).resvs = s.resvs := rfl
@[simp] theorem State.logError_dieTurn (s : State) (k : Nat) : (s.logError k).dieTurn = s.dieTurn := rfl
@[simp] theorem State.logError_leases (s : State) (k : Nat) : (s.logError k).leases = s.leases := rfl
@[simp] theorem State.logError_ports (s : State) (k : Nat) : (s.logError k).ports = s.ports := rfl
@[simp] theorem State.logError_cmds (s : State) (k : Nat) : (s.logError k).cmds = s.cmds := rfl
@[simp] theorem State.logError_vqueues (s : State) (k : Nat) : (s.logError k).vqueues = s.vqueues := rfl
@[simp] theorem State.logError_engines (s : State) (k : Nat) : (s.logError k).engines = s.engines := rfl
@[simp] theorem State.logError_teams (s : State) (k : Nat) : (s.logError k).teams = s.teams := rfl
@[simp] theorem State.logError_syncQ (s : State) (k : Nat) : (s.logError k).syncQ = s.syncQ := rfl
@[simp] theorem State.logError_waiters (s : State) (k : Nat) : (s.logError k).waiters = s.waiters := rfl
@[simp] theorem State.logError_mem (s : State) (k : Nat) : (s.logError k).mem = s.mem := rfl
@[simp] theorem State.logError_poisoned (s : State) (k : Nat) : (s.logError k).poisoned = s.poisoned := rfl
@[simp] theorem State.logError_l2 (s : State) (k : Nat) : (s.logError k).l2 = s.l2 := rfl
@[simp] theorem State.logError_near (s : State) (k : Nat) : (s.logError k).near = s.near := rfl
@[simp] theorem State.logError_rrc (s : State) (k : Nat) : (s.logError k).rrc = s.rrc := rfl
@[simp] theorem State.logError_dir (s : State) (k : Nat) : (s.logError k).dir = s.dir := rfl
@[simp] theorem State.logError_tlb (s : State) (k : Nat) : (s.logError k).tlb = s.tlb := rfl
@[simp] theorem State.logError_walkCache (s : State) (k : Nat) : (s.logError k).walkCache = s.walkCache := rfl
@[simp] theorem State.logError_roots (s : State) (k : Nat) : (s.logError k).roots = s.roots := rfl
@[simp] theorem State.logError_roots2 (s : State) (k : Nat) : (s.logError k).roots2 = s.roots2 := rfl
@[simp] theorem State.logError_s1seq (s : State) (k : Nat) : (s.logError k).s1seq = s.s1seq := rfl
@[simp] theorem State.logError_s2seq (s : State) (k : Nat) : (s.logError k).s2seq = s.s2seq := rfl
@[simp] theorem State.logError_owners (s : State) (k : Nat) : (s.logError k).owners = s.owners := rfl
@[simp] theorem State.logError_keys (s : State) (k : Nat) : (s.logError k).keys = s.keys := rfl
@[simp] theorem State.logError_sealed (s : State) (k : Nat) : (s.logError k).sealed = s.sealed := rfl
@[simp] theorem State.logError_tags (s : State) (k : Nat) : (s.logError k).tags = s.tags := rfl
@[simp] theorem State.logError_tagFailed (s : State) (k : Nat) : (s.logError k).tagFailed = s.tagFailed := rfl
@[simp] theorem State.logError_eccFailed (s : State) (k : Nat) : (s.logError k).eccFailed = s.eccFailed := rfl
@[simp] theorem State.logError_pools (s : State) (k : Nat) : (s.logError k).pools = s.pools := rfl
@[simp] theorem State.logError_invals (s : State) (k : Nat) : (s.logError k).invals = s.invals := rfl
@[simp] theorem State.logError_raceTags (s : State) (k : Nat) : (s.logError k).raceTags = s.raceTags := rfl
@[simp] theorem State.logError_racePools (s : State) (k : Nat) : (s.logError k).racePools = s.racePools := rfl
@[simp] theorem State.logError_oldest (s : State) (k : Nat) : (s.logError k).oldest = s.oldest := rfl
@[simp] theorem State.logError_parties (s : State) (k : Nat) : (s.logError k).parties = s.parties := rfl
@[simp] theorem State.logError_budgets (s : State) (k : Nat) : (s.logError k).budgets = s.budgets := rfl
@[simp] theorem State.logError_counters (s : State) (k : Nat) : (s.logError k).counters = s.counters := rfl
@[simp] theorem State.logError_traps (s : State) (k : Nat) : (s.logError k).traps = s.traps := rfl
@[simp] theorem State.logError_siteChecks (s : State) (k : Nat) : (s.logError k).siteChecks = s.siteChecks := rfl
@[simp] theorem State.logError_siteThresh (s : State) (k : Nat) : (s.logError k).siteThresh = s.siteThresh := rfl
@[simp] theorem State.logError_halvings (s : State) (k : Nat) : (s.logError k).halvings = s.halvings := rfl
@[simp] theorem State.logError_errCounts (s : State) (k : Nat) : (s.logError k).errCounts = s.errCounts := rfl
@[simp] theorem State.logError_measuring (s : State) (k : Nat) : (s.logError k).measuring = s.measuring := rfl
@[simp] theorem State.logError_withheld (s : State) (k : Nat) : (s.logError k).withheld = s.withheld := rfl
@[simp] theorem State.logError_standing (s : State) (k : Nat) : (s.logError k).standing = s.standing := rfl
@[simp] theorem State.logError_holdup (s : State) (k : Nat) : (s.logError k).holdup = s.holdup := rfl
@[simp] theorem State.logError_keep (s : State) (k : Nat) : (s.logError k).keep = s.keep := rfl
@[simp] theorem State.logError_nonce (s : State) (k : Nat) : (s.logError k).nonce = s.nonce := rfl
@[simp] theorem State.logError_freeze (s : State) (k : Nat) : (s.logError k).freeze = s.freeze := rfl
@[simp] theorem State.logError_readOut (s : State) (k : Nat) : (s.logError k).readOut = s.readOut := rfl
@[simp] theorem State.logError_resets (s : State) (k : Nat) : (s.logError k).resets = s.resets := rfl
@[simp] theorem State.logError_waysOut (s : State) (k : Nat) : (s.logError k).waysOut = s.waysOut := rfl
@[simp] theorem State.logError_framesOut (s : State) (k : Nat) : (s.logError k).framesOut = s.framesOut := rfl

end Sys2Proof.Machine
end

