-- ==== Sys2Proof/Laws/Fire.lean ====
section
/-! SUPPORT. What a firing does, said once: the tokens it sends reach the positions and the outputs that its targets name, and
nothing but its lease differs (R126, R253, R272). -/

namespace Sys2Proof.Machine

open Sys2Proof Sys2Proof.Safety

/-! ### Sending -/

/-- Changing a PE by nothing changes nothing. -/
theorem modPE_id (s : State) (site : SiteRef) : s.modPE site (fun p => p) = s := by
  have h : ∀ L : Lease, L.modPE site.dx site.dy (fun p => p) = L := by
    intro L
    simp [Lease.modPE, updWhere]
  simp [State.modPE, State.modLease, h, updWhere]

/-- What a target that names nothing keeps. -/
theorem put_tDrop (pe : PE) (plane : Nat) (t : Token) : pe.put plane tDrop t = pe := rfl

/-- A token that is no ERR is sent by changing the PE alone. -/
theorem sendOne_data (s : State) (site : SiteRef) (plane : Nat) (t : BitVec 9) (tok : Token) (h : tok.kind ≠ .err) :
    s.sendOne site plane t tok = s.modPE site (fun pe => pe.put plane t tok) := by
  unfold State.sendOne
  by_cases ht : t = tDrop
  · subst ht
    simp [h, put_tDrop, modPE_id]
  · simp [ht]

/-- A PE to which tokens have been sent. -/
def PE.putAll (pe : PE) (plane : Nat) (l : List (BitVec 9 × Token)) : PE := l.foldl (fun pe p => pe.put plane p.1 p.2) pe

/-- A PE keeps its place when tokens are put. -/
theorem put_place (pe : PE) (plane : Nat) (t : BitVec 9) (tok : Token) :
    (pe.put plane t tok).dx = pe.dx ∧ (pe.put plane t tok).dy = pe.dy := by
  unfold PE.put
  split
  · split <;> simp
  · split <;> simp [PE.pushOut]

/-- A PE keeps its place when tokens are put. -/
theorem putAll_place (pe : PE) (plane : Nat) (l : List (BitVec 9 × Token)) :
    (PE.putAll pe plane l).dx = pe.dx ∧ (PE.putAll pe plane l).dy = pe.dy := by
  induction l generalizing pe with
  | nil => exact ⟨rfl, rfl⟩
  | cons a l ih =>
    have h1 := ih (pe.put plane a.1 a.2)
    have h2 := put_place pe plane a.1 a.2
    exact ⟨h1.1.trans h2.1, h1.2.trans h2.2⟩

/-- Tokens that are no ERRs are sent by changing the PE alone. -/
theorem emit_data (s : State) (site : SiteRef) (plane : Nat) (l : List (BitVec 9 × Token))
    (h : ∀ p ∈ l, p.2.kind ≠ .err) : s.emit site plane l = s.modPE site (fun pe => PE.putAll pe plane l) := by
  have h1 : l.filter (fun p => decide (p.2.kind = .err)) = [] := by
    rw [List.filter_eq_nil_iff]
    intro p hp
    simp [h p hp]
  have h2 : ∀ (l : List (BitVec 9 × Token)) (s : State), (∀ p ∈ l, p.2.kind ≠ .err) →
      l.foldl (fun s p => s.sendOne site plane p.1 p.2) s = s.modPE site (fun pe => PE.putAll pe plane l) := by
    intro l
    induction l with
    | nil => intro s _; exact (modPE_id s site).symm
    | cons a l ih =>
      intro s ha
      rw [List.foldl_cons, sendOne_data _ _ _ _ _ (ha a (by simp)), ih _ (fun p hp => ha p (by simp [hp])),
        modPE_modPE _ _ _ _ (fun p => put_place p plane a.1 a.2)]
      rfl
  unfold State.emit
  rw [h2 l s h]
  simp [h1]

/-! ### What a PE holds after tokens are put -/

/-- The configuration and unit state are none of what a put changes. -/
theorem put_only (pe : PE) (plane : Nat) (t : BitVec 9) (tok : Token) {i : Instance} (hi : pe.inst = some i) :
    ∃ j : Instance, pe.put plane t tok = { pe with
        outs := (pe.put plane t tok).outs, loopOcc := (pe.put plane t tok).loopOcc, inst := some j } ∧
      j = { i with ops := j.ops } ∧
      (∀ k, operandAt j k = if t.toNat < 384 ∧ t.toNat = k then some tok else operandAt i k) := by
  unfold PE.put
  by_cases h : t.toNat < 384
  · simp only [h, if_true, hi]
    refine ⟨{ i with ops := insertKV i.ops t.toNat tok }, rfl, rfl, fun k => ?_⟩
    by_cases hk : t.toNat = k
    · subst hk
      simp [operandAt, find?_insertKV]
    · have hk' : k ≠ t.toNat := fun e => hk e.symm
      simp [operandAt, hk, find?_insertKV_other i.ops tok hk']
  · simp only [h, if_false]
    refine ⟨i, ?_, rfl, fun k => by simp⟩
    split
    · simp only [PE.pushOut, ← hi]
    · cases pe; simp_all

/-- A put keeps the planes. -/
theorem put_planes (pe : PE) (plane : Nat) (t : BitVec 9) (tok : Token) : (pe.put plane t tok).planes = pe.planes := by
  unfold PE.put
  split
  · split <;> rfl
  · split <;> rfl

/-- A put keeps the current configuration. -/
theorem put_cfg (pe : PE) (plane : Nat) (t : BitVec 9) (tok : Token) : (pe.put plane t tok).cfg plane = pe.cfg plane := by
  simp only [PE.cfg, put_planes]

/-- A put to an output makes its queue longer, and no other. -/
theorem put_outEnd (pe : PE) (plane : Nat) (t : BitVec 9) (tok : Token) (o : Nat) (ho : o < 8) :
    (pe.put plane t tok).outEnd o = { pe.outEnd o with
      q := (pe.outEnd o).q ++ sentTo ((pe.cfg plane).outVec o) o [(t, tok)] } := by
  unfold PE.put sentTo
  by_cases h : t.toNat < 384
  · have hn : targetOut t = none := by
      unfold targetOut
      rw [if_neg (by omega)]
    simp only [h, if_true]
    split <;> simp [PE.outEnd, hn]
  · simp only [h, if_false]
    split
    · rename_i m hm
      have hm8 : m < 8 := by
        unfold targetOut at hm
        split at hm
        · simp at hm; omega
        · cases hm
      by_cases hmo : m = o
      · subst hmo
        simp [PE.pushOut, PE.outEnd, hm, hm8]
      · simp [PE.pushOut, PE.outEnd, hm, hmo]
    · rename_i hn
      simp [PE.outEnd, hn]

/-- A put that enters a loop raises the loop occupancy by one. -/
theorem put_loopOcc (pe : PE) (plane : Nat) (t : BitVec 9) (tok : Token) :
    (pe.put plane t tok).loopOcc = (satInc 65535)^[loopSends (pe.cfg plane) [(t, tok)]] pe.loopOcc := by
  unfold PE.put loopSends
  by_cases h : t.toNat < 384
  · have hn : targetOut t = none := by
      unfold targetOut
      rw [if_neg (by omega)]
    simp only [h, if_true]
    split <;> simp [hn]
  · simp only [h, if_false]
    split
    · rename_i m hm
      by_cases hl : (pe.cfg plane).outLE m = true
      · simp [PE.pushOut, hm, hl]
      · simp [PE.pushOut, hm, hl]
    · rename_i hn
      simp [hn]

/-- What tokens put one after the other leave. -/
theorem putAll_only (plane : Nat) (l : List (BitVec 9 × Token)) (pe : PE) {i : Instance} (hi : pe.inst = some i) :
    ∃ j : Instance, PE.putAll pe plane l = { pe with
        outs := (PE.putAll pe plane l).outs, loopOcc := (PE.putAll pe plane l).loopOcc, inst := some j } ∧
      j = { i with ops := j.ops } ∧
      (∀ k, k < 384 → operandAt j k = (heldAt k l).or (operandAt i k)) ∧
      (∀ o, o < 8 → (PE.putAll pe plane l).outEnd o = { pe.outEnd o with
        q := (pe.outEnd o).q ++ sentTo ((pe.cfg plane).outVec o) o l }) ∧
      (PE.putAll pe plane l).loopOcc = (satInc 65535)^[loopSends (pe.cfg plane) l] pe.loopOcc := by
  induction l generalizing pe i with
  | nil =>
    refine ⟨i, ?_, rfl, fun k _ => rfl, fun o _ => ?_, rfl⟩
    · simp [PE.putAll, ← hi]
    · simp [PE.putAll, sentTo]
  | cons a l ih =>
    obtain ⟨j, hj1, hj2, hj3⟩ := put_only pe plane a.1 a.2 hi
    have hji : (pe.put plane a.1 a.2).inst = some j := by rw [hj1]
    obtain ⟨m, hm1, hm2, hm3, hm4, hm5⟩ := ih (pe.put plane a.1 a.2) hji
    have hp : PE.putAll pe plane (a :: l) = PE.putAll (pe.put plane a.1 a.2) plane l := rfl
    refine ⟨m, ?_, ?_, fun k hk => ?_, fun o ho => ?_, ?_⟩
    · rw [hp, hm1, hj1]
    · rw [hm2, hj2]
    · rw [hm3 k hk]
      unfold heldAt
      by_cases hak : a.1.toNat = k
      · simp only [List.filter_cons, hak, decide_true, if_true, List.getLast?_cons]
        cases hl : (l.filter (fun p => decide (p.1.toNat = k))).getLast? with
        | none =>
          have : a.1.toNat < 384 ∧ a.1.toNat = k := ⟨by omega, hak⟩
          simp [hj3 k, hak, hk]
        | some x => simp
      · have hne : ¬(a.1.toNat < 384 ∧ a.1.toNat = k) := fun h => hak h.2
        simp only [List.filter_cons, hak, decide_false, Bool.false_eq_true, if_false, hj3 k, and_false]
    · rw [hp, hm4 o ho, put_outEnd pe plane a.1 a.2 o ho, put_cfg]
      simp only [sentTo, List.filter_cons, List.filter_nil, List.append_assoc]
      split <;> simp
    · rw [hp, hm5, put_loopOcc, put_cfg]
      have hs : loopSends (pe.cfg plane) (a :: l) = loopSends (pe.cfg plane) l + loopSends (pe.cfg plane) [a] := by
        cases ht : targetOut a.1 with
        | none => simp [loopSends, ht]
        | some o => cases hb : (pe.cfg plane).outLE o <;> simp [loopSends, ht, hb]
      rw [hs, Function.iterate_add_apply]

/-! ### A firing as a whole -/

/-- What the slot in focus sees is what the state holds. -/
theorem site?_some {s : State} {c : Site} (h : s.site? = some c) :
    c.site = s.focus.site ∧ c.slot = s.focus.slot ∧ s.lease? c.site.lease = some c.lease ∧
      c.lease.pe? c.site.dx c.site.dy = some c.pe ∧ c.pe.inst = some c.inst ∧ c.cfg = c.pe.cfg c.lease.plane := by
  unfold State.site? at h
  split at h
  · cases h
  · rename_i L hL
    split at h
    · cases h
    · rename_i pe hpe
      split at h
      · cases h
      · rename_i i hi
        simp only at h
        split at h
        · cases h
        · cases h
          exact ⟨rfl, rfl, hL, hpe, hi, rfl⟩

/-- A change of a PE's registers: it leaves its place, instance, outputs and loop occupancy, asks nothing of its instance, and
keeps the channels' configuration. -/
structure RegChange (plane : Nat) (g : PE → PE) : Prop where
  place : ∀ p, (g p).dx = p.dx ∧ (g p).dy = p.dy
  inst : ∀ p j, g { p with inst := j } = { g p with inst := j }
  outs : ∀ p, (g p).outs = p.outs
  chcfg : ∀ p, ((g p).cfg plane).chcfg = (p.cfg plane).chcfg

/-- Changing nothing is a change of registers. -/
theorem RegChange.none (plane : Nat) : RegChange plane (fun p => p) :=
  ⟨fun _ => ⟨rfl, rfl⟩, fun _ _ => rfl, fun _ => rfl, fun _ => rfl⟩

/-- The instance after its slot has taken its operands. -/
def Instance.taken (i : Instance) (u : Uses) (slot : Nat) (fl : List Flight) : Instance :=
  { i with
    fired := slot :: i.fired
    ops := i.ops.filter (fun o => !((u.l && o.1 = slot) || (u.r && o.1 = 128 + slot) || (u.p && o.1 = 256 + slot)))
    flight := fl ++ i.flight }

/-- What an instance holds after its slot has taken its operands. -/
theorem operandAt_taken (i : Instance) (u : Uses) (slot : Nat) (fl : List Flight) (k : Nat) :
    operandAt (i.taken u slot fl) k = if takes u slot k then none else operandAt i k := by
  unfold operandAt Instance.taken
  by_cases h : takes u slot k = true
  · rw [if_pos h, find?_filter_none _ _ ?_ i.ops]
    · rfl
    · intro a ha
      simp only [decide_eq_true_eq] at ha
      subst ha
      show (!takes u slot a.1) = false
      rw [h]
      rfl
  · rw [if_neg h, find?_filter_some _ _ ?_ i.ops]
    intro a ha
    simp only [decide_eq_true_eq] at ha
    subst ha
    show (!takes u slot a.1) = true
    rw [Bool.not_eq_true] at h
    rw [h]
    rfl

/-- A lease that keeps its number through a change of one of its PEs. -/
theorem Lease.modPE_id (L : Lease) (x y : Nat) (f : PE → PE) : (L.modPE x y f).id = L.id := rfl

/-- A state in which one PE has taken its operands, changed its registers and put its tokens, its lease's stall count begun
anew, is what a deed leaves. -/
theorem ran_of_lease {s t : State} {c : Site} {d : Deed} (hs : s.site? = some c)
    (h0 : t = { d.base with leases := t.leases })
    (hoth : ∀ id, id ≠ c.site.lease → t.lease? id = s.lease? id)
    (hg : RegChange c.lease.plane d.pe)
    (ht : t.lease? c.site.lease = some ({ (d.lease c.lease) with stall := 0, stalled := false, pes :=
      (c.lease.modPE c.site.dx c.site.dy (fun p => PE.putAll (d.pe { p with inst := p.inst.map (fun i =>
        i.taken d.uses c.slot d.flies) }) c.lease.plane d.sends)).pes })) :
    Ran d s c t := by
  obtain ⟨-, -, -, hpe, hi, hcfg⟩ := site?_some hs
  refine ⟨h0, hoth, _, ht, rfl, fun x y hxy => ?_, ?_⟩
  · refine (pe?_modPE_other c.lease _ (fun p => ?_) hxy :)
    have h1 := putAll_place (d.pe { p with inst := p.inst.map (fun i => i.taken d.uses c.slot d.flies) }) c.lease.plane d.sends
    have h2 := hg.place { p with inst := p.inst.map (fun i => i.taken d.uses c.slot d.flies) }
    exact ⟨h1.1.trans h2.1, h1.2.trans h2.2⟩
  · have hplace : ∀ p : PE, (PE.putAll (d.pe { p with inst := p.inst.map (fun i => i.taken d.uses c.slot d.flies) })
        c.lease.plane d.sends).dx = p.dx ∧ (PE.putAll (d.pe { p with inst := p.inst.map (fun i =>
          i.taken d.uses c.slot d.flies) }) c.lease.plane d.sends).dy = p.dy := by
      intro p
      have h1 := putAll_place (d.pe { p with inst := p.inst.map (fun i => i.taken d.uses c.slot d.flies) }) c.lease.plane d.sends
      have h2 := hg.place { p with inst := p.inst.map (fun i => i.taken d.uses c.slot d.flies) }
      exact ⟨h1.1.trans h2.1, h1.2.trans h2.2⟩
    have hp := pe?_modPE c.lease c.site.dx c.site.dy _ hplace
    rw [hpe] at hp
    refine ⟨_, hp, ?_⟩
    have hq : (d.pe { c.pe with inst := c.pe.inst.map (fun i => i.taken d.uses c.slot d.flies) })
        = { d.pe c.pe with inst := some (c.inst.taken d.uses c.slot d.flies) } := by
      rw [hg.inst, hi]
      rfl
    have hgi : (d.pe c.pe).inst = some c.inst := by
      have h1 : d.pe c.pe = { d.pe c.pe with inst := c.pe.inst } := hg.inst c.pe c.pe.inst
      exact (congrArg PE.inst h1).trans hi
    have hput := putAll_only c.lease.plane d.sends _ (i := c.inst.taken d.uses c.slot d.flies)
      (show (d.pe { c.pe with inst := c.pe.inst.map (fun i => i.taken d.uses c.slot d.flies) }).inst = _ by rw [hq])
    obtain ⟨j, hj1, hj2, hj3, hj4, hj5⟩ := hput
    have hch : ∀ p : PE, ((d.pe p).cfg c.lease.plane).chcfg = (p.cfg c.lease.plane).chcfg := hg.chcfg
    have hcc : ((d.pe { c.pe with inst := c.pe.inst.map (fun i => i.taken d.uses c.slot d.flies) }).cfg c.lease.plane).chcfg
        = c.cfg.chcfg := by
      rw [hch, hcfg]
      rfl
    refine ⟨j, ?_, ?_, fun k hk => ?_, fun o ho => ?_, ?_⟩
    · beta_reduce
      rw [hj1, hq]
    · rw [hgi, hj2]
      rfl
    · exact (hj3 k hk).trans (by rw [operandAt_taken])
    · have hv : ((d.pe { c.pe with inst := c.pe.inst.map (fun i => i.taken d.uses c.slot d.flies) }).cfg
          c.lease.plane).outVec o = c.cfg.outVec o := by
        simp only [PlaneCfg.outVec, PlaneCfg.chBit, hcc]
      have ho' : (d.pe { c.pe with inst := c.pe.inst.map (fun i => i.taken d.uses c.slot d.flies) }).outEnd o
          = c.pe.outEnd o := by
        simp only [PE.outEnd, hg.outs]
      exact (hj4 o ho).trans (by rw [hv, ho'])
    · have hl : loopSends ((d.pe { c.pe with inst := c.pe.inst.map (fun i => i.taken d.uses c.slot d.flies) }).cfg
          c.lease.plane) d.sends = loopSends c.cfg d.sends := by
        simp only [loopSends, PlaneCfg.outLE, PlaneCfg.chBit, hcc]
      have ho' : (d.pe { c.pe with inst := c.pe.inst.map (fun i => i.taken d.uses c.slot d.flies) }).loopOcc
          = (d.pe c.pe).loopOcc := by
        rw [hq]
      exact hj5.trans (by rw [hl, ho'])

/-! ### The shared operations of a firing -/

/-- Changes of one lease, one after the other. -/
theorem modLease_modLease (s : State) (id : Nat) (f g : Lease → Lease) (hf : ∀ L, (f L).id = L.id) :
    (s.modLease id f).modLease id g = s.modLease id (fun L => g (f L)) := by
  simp only [State.modLease, updWhere_updWhere (fun L : Lease => decide (L.id = id)) f g
    (by intro a h; simpa [hf] using h)]

/-- The lease that a deed leaves of one. -/
def Deed.onLease (d : Deed) (c : Site) (L : Lease) : Lease :=
  { (d.lease L) with stall := 0, stalled := false, pes :=
      (L.modPE c.site.dx c.site.dy (fun p => PE.putAll (d.pe { p with inst := p.inst.map (fun i =>
        i.taken d.uses c.slot d.flies) }) c.lease.plane d.sends)).pes }

/-- A change of a lease that only its PEs, stall count and what a deed may change see is what a deed leaves. -/
theorem ran_modLease {s : State} {c : Site} {d : Deed} (hs : s.site? = some c) (hb : d.base.leases = s.leases)
    (hg : RegChange c.lease.plane d.pe) (hl : ∀ L, (d.lease L).id = L.id) :
    Ran d s c (d.base.modLease c.site.lease (Deed.onLease d c)) := by
  obtain ⟨-, -, hL, -, -, -⟩ := site?_some hs
  have hb' : ∀ id, d.base.lease? id = s.lease? id := by
    intro id
    simp only [State.lease?, hb]
  refine ran_of_lease hs rfl (fun id hid => ?_) hg ?_
  · rw [lease?_modLease_other d.base (Deed.onLease d c) hl hid, hb']
  · rw [lease?_modLease d.base _ (Deed.onLease d c) hl, hb', hL]
    rfl

/-- How `fireUsing` goes when the slot fires and acts. -/
theorem fireUsing_acts {i : Instr} {uses : Site → Uses} {checked : Uses → Uses} {ready : Site → Bool}
    {onErr : Site → Token → State → State} {body : Site → State → State} {s : State} {c : Site}
    (h : FiresUsing i (uses c) (checked (uses c)) s c) (hr : ready c = true) :
    fireUsing i uses checked ready onErr body s = .next (body c (c.consume (uses c) s)) := by
  obtain ⟨hs, hp, hf, hc, ha⟩ := h
  simp only [fireUsing, hs, hp, hf, hr, hc, ha, Bool.not_true, Bool.or_self, Bool.false_eq_true, if_false]

/-- `fireUsing` answers a next state. -/
theorem fireUsing_next (i : Instr) (uses : Site → Uses) (checked : Uses → Uses) (ready : Site → Bool)
    (onErr : Site → Token → State → State) (body : Site → State → State) (s : State) :
    ∃ t, fireUsing i uses checked ready onErr body s = .next t := by
  unfold fireUsing
  split
  · exact ⟨_, rfl⟩
  · dsimp only
    split
    · exact ⟨_, rfl⟩
    · split
      · exact ⟨_, rfl⟩
      · split <;> exact ⟨_, rfl⟩

/-- What a slot's firing takes, as one change of its lease. -/
theorem consume_eq (c : Site) (u : Uses) (s : State) :
    c.consume u s = s.modLease c.site.lease (fun L => { L.modPE c.site.dx c.site.dy (fun p =>
      { p with inst := p.inst.map (fun i => i.taken u c.slot []) }) with stall := 0, stalled := false }) := by
  unfold Site.consume State.progress State.modPE
  rw [modLease_modLease]
  · rfl
  · intro L
    rfl

/-- A change of a PE of a lease whose stall count has begun anew. -/
theorem stall_modPE (L : Lease) (x y : Nat) (f g : PE → PE) (hf : ∀ p, (f p).dx = p.dx ∧ (f p).dy = p.dy) :
    Lease.modPE { L.modPE x y f with stall := 0, stalled := false } x y g
      = { L with stall := 0, stalled := false, pes := (L.modPE x y (fun p => g (f p))).pes } := by
  simp only [Lease.modPE, updWhere_updWhere (fun p : PE => p.dx = x && p.dy = y) f g
    (by intro a h; simpa [hf] using h)]

/-- Taking, changing registers and sending what is no ERR is a deed that only sends and changes registers. -/
theorem ran_sends {s s0 : State} {c : Site} {u : Uses} {g : PE → PE} {l : List (BitVec 9 × Token)} (hs : s.site? = some c)
    (hb : s0.leases = s.leases) (hg : RegChange c.lease.plane g) (hl : ∀ p ∈ l, p.2.kind ≠ .err) :
    Ran ⟨u, l, g, fun L => L, [], s0⟩ s c (((c.consume u s0).modPE c.site g).emit c.site c.lease.plane l) := by
  have h : ((c.consume u s0).modPE c.site g).emit c.site c.lease.plane l
      = s0.modLease c.site.lease (Deed.onLease ⟨u, l, g, fun L => L, [], s0⟩ c) := by
    rw [emit_data _ _ _ _ hl, modPE_modPE _ _ _ _ hg.place, consume_eq]
    unfold State.modPE
    rw [modLease_modLease]
    · congr 1
      funext L
      exact stall_modPE L c.site.dx c.site.dy (fun p => { p with inst := p.inst.map (fun i => i.taken u c.slot []) })
        (fun p => PE.putAll (g p) c.lease.plane l) (fun p => ⟨rfl, rfl⟩)
    · intro L
      rfl
  rw [h]
  exact ran_modLease (d := ⟨u, l, g, fun L => L, [], s0⟩) hs hb hg (fun L => rfl)

/-- Taking operands and staying in flight. -/
theorem ran_flies {s s0 : State} {c : Site} {u : Uses} {g : PE → PE} (op : FlightOp) (hs : s.site? = some c)
    (hb : s0.leases = s.leases) (hg : RegChange c.lease.plane g) :
    Ran ⟨u, [], g, fun L => L, [⟨c.slot, (c.cfg.store[c.slot]?).getD 0, op⟩], s0⟩ s c
      (c.fly op ((c.consume u s0).modPE c.site g)) := by
  have h : c.fly op ((c.consume u s0).modPE c.site g) = s0.modLease c.site.lease
      (Deed.onLease ⟨u, [], g, fun L => L, [⟨c.slot, (c.cfg.store[c.slot]?).getD 0, op⟩], s0⟩ c) := by
    unfold Site.fly
    rw [modPE_modPE _ _ _ _ hg.place, consume_eq]
    unfold State.modPE
    rw [modLease_modLease]
    · congr 1
      funext L
      rw [stall_modPE L c.site.dx c.site.dy (fun p => { p with inst := p.inst.map (fun i => i.taken u c.slot []) }) _
        (fun p => ⟨rfl, rfl⟩)]
      have hp : ∀ p : PE, (let q := g { p with inst := p.inst.map (fun i => i.taken u c.slot []) }
          { q with inst := q.inst.map (fun i => { i with
            flight := ⟨c.slot, (c.cfg.store[c.slot]?).getD 0, op⟩ :: i.flight }) })
          = g { p with inst := p.inst.map (fun i => i.taken u c.slot [⟨c.slot, (c.cfg.store[c.slot]?).getD 0, op⟩]) } := by
        intro p
        rw [hg.inst p (p.inst.map (fun i => i.taken u c.slot [])),
          hg.inst p (p.inst.map (fun i => i.taken u c.slot [⟨c.slot, (c.cfg.store[c.slot]?).getD 0, op⟩]))]
        simp only [Option.map_map]
        rfl
      exact congrArg (fun f => ({ L with
        stall := 0, stalled := false, pes := (L.modPE c.site.dx c.site.dy f).pes } : Lease)) (funext hp)
    · intro L
      rfl
  rw [h]
  exact ran_modLease (d := ⟨u, [], g, fun L => L, [⟨c.slot, (c.cfg.store[c.slot]?).getD 0, op⟩], s0⟩) hs hb hg
    (fun L => rfl)

/-- Changing a plane's configuration within the same channels. -/
theorem modCfg_chcfg (p : PE) (plane : Nat) (f : PlaneCfg → PlaneCfg) (h : ∀ c, (f c).chcfg = c.chcfg) :
    ((p.modCfg plane f).cfg plane).chcfg = (p.cfg plane).chcfg := by
  by_cases hp : plane < 4
  · simp [PE.modCfg, PE.cfg, hp, h]
  · have h0 : ¬plane = 0 := by omega
    simp [PE.modCfg, PE.cfg, hp, h0]

/-- An effect is a change of registers. -/
theorem Effect.regChange (plane : Nat) (e : Effect) : RegChange plane (effectRegs plane e) := by
  refine ⟨fun p => ?_, fun p j => ?_, fun p => ?_, fun p => ?_⟩
  · unfold effectRegs PE.raiseFlags
    rcases e.keep with _ | k <;> rcases e.vreg with _ | v <;> exact ⟨rfl, rfl⟩
  · unfold effectRegs PE.raiseFlags
    rcases e.keep with _ | k <;> rcases e.vreg with _ | v <;> rfl
  · unfold effectRegs PE.raiseFlags
    rcases e.keep with _ | k <;> rcases e.vreg with _ | v <;> rfl
  · have h1 : ∀ q : PE, ((q.raiseFlags e.flags).cfg plane).chcfg = (q.cfg plane).chcfg := fun _ => rfl
    have h2 : ∀ (q : PE) k v, ((q.setKeep plane k v).cfg plane).chcfg = (q.cfg plane).chcfg :=
      fun q k v => modCfg_chcfg q plane _ (fun _ => rfl)
    have h3 : ∀ (q : PE) k v, ((q.setVReg plane k v).cfg plane).chcfg = (q.cfg plane).chcfg :=
      fun q k v => modCfg_chcfg q plane _ (fun _ => rfl)
    unfold effectRegs
    rcases e.keep with _ | ⟨k, v⟩ <;> rcases e.vreg with _ | ⟨k', v'⟩ <;> simp only [h1, h2, h3]

/-- Performing an effect writes the registers and sends the results. -/
theorem perform_eq (c : Site) (h : Head) (e : Effect) (s : State) :
    c.perform h e s = (s.modPE c.site (effectRegs c.lease.plane e)).emit c.site c.lease.plane (effectSends h e) := rfl

/-- An instruction of its own PE that has an effect completes: its registers are written and its results sent (R272). -/
theorem fireLocal_acts {i : Instr} {eff : Site → Option Effect} {s : State} {c : Site} {e : Effect} (h : Fires i s c)
    (he : eff c = some e) (hd : ∀ p ∈ effectSends i.head e, p.2.kind ≠ .err) :
    ∃ t, fireLocal i eff s = .next t ∧ Ran (Deed.effect s c i e) s c t := by
  refine ⟨((c.consume (c.taken i.uses) s).modPE c.site (effectRegs c.lease.plane e)).emit c.site c.lease.plane (effectSends i.head e),
    ?_, ran_sends h.site rfl (e.regChange c.lease.plane) hd⟩
  unfold fireLocal fire
  rw [fireUsing_acts h rfl]
  simp only [he, perform_eq]

end Sys2Proof.Machine
end

