-- ==== Sys2Proof/Laws/Memory.lean ====
section
/-! SUPPORT. Memory is a list in one canonical form: every operation keeps the form, a read after a write gives what was
written, and memories that read alike are equal. -/

namespace Sys2Proof.Machine

open Sys2Proof

/-- A canonical list from a bound is canonical from any lower one. -/
theorem memWfFrom_mono {m : List Host.Cell} {lo lo' : Nat} (h : lo' ≤ lo) (hm : memWfFrom lo m = true) :
    memWfFrom lo' m = true := by
  cases m with
  | nil => rfl
  | cons c m =>
    obtain ⟨a, b⟩ := c
    simp only [memWfFrom, Bool.and_eq_true, decide_eq_true_eq] at hm ⊢
    exact ⟨⟨by omega, hm.1.2⟩, hm.2⟩

/-- Below its least address a canonical list reads 0. -/
theorem memByte_below {m : List Host.Cell} {lo a : Nat} (hm : memWfFrom lo m = true) (h : a < lo) : memByte m a = 0 := by
  induction m generalizing lo with
  | nil => rfl
  | cons c m ih =>
    obtain ⟨k, b⟩ := c
    simp only [memWfFrom, Bool.and_eq_true, decide_eq_true_eq] at hm
    have : k ≠ a := by omega
    simp only [memByte, this, if_false]
    exact ih hm.2 (by omega)

/-- Writing a byte keeps the form. -/
theorem memPut_wfFrom {m : List Host.Cell} {lo a : Nat} {b : Byte} (hm : memWfFrom lo m = true) (h : lo ≤ a) :
    memWfFrom lo (memPut m a b) = true := by
  induction m generalizing lo with
  | nil =>
    by_cases hb : b = 0
    · simp [memPut, hb, memWfFrom]
    · simp only [memPut, hb, if_false, memWfFrom, h, decide_true, Bool.true_and, Bool.and_true]
      simpa using hb
  | cons c m ih =>
    obtain ⟨k, v⟩ := c
    have hm' := hm
    simp only [memWfFrom, Bool.and_eq_true, decide_eq_true_eq] at hm
    unfold memPut
    by_cases h1 : a < k
    · by_cases hb : b = 0
      · simpa [h1, hb] using hm'
      · simp only [h1, hb, if_true, if_false, memWfFrom, Bool.and_eq_true, decide_eq_true_eq]
        exact ⟨⟨h, by simpa using hb⟩, ⟨by omega, hm.1.2⟩, hm.2⟩
    · by_cases h2 : a = k
      · subst h2
        by_cases hb : b = 0
        · simp only [hb, lt_irrefl, if_true, if_false]
          exact memWfFrom_mono (by omega) hm.2
        · simp only [hb, lt_irrefl, if_true, if_false, memWfFrom, Bool.and_eq_true, decide_eq_true_eq]
          exact ⟨⟨h, by simpa using hb⟩, hm.2⟩
      · simp only [h1, h2, if_false, memWfFrom, Bool.and_eq_true, decide_eq_true_eq]
        exact ⟨hm.1, ih hm.2 (by omega)⟩

/-- Writing a byte keeps the canonical form. -/
theorem memPut_wf {m : List Host.Cell} (a : Nat) (b : Byte) (hm : Memory.wf m = true) : Memory.wf (memPut m a b) = true :=
  memPut_wfFrom hm (Nat.zero_le a)

/-- Writing bytes keeps the canonical form. -/
theorem memPutList_wf {m : List Host.Cell} (a : Nat) (bs : List Byte) (hm : Memory.wf m = true) :
    Memory.wf (memPutList m a bs) = true := by
  induction bs generalizing m a with
  | nil => exact hm
  | cons b bs ih => exact ih (a + 1) (memPut_wf a b hm)

/-- Writing a line keeps the canonical form. -/
theorem memPutLine_wf {m : List Host.Cell} (a : Nat) (v : Line) (hm : Memory.wf m = true) :
    Memory.wf (memPutLine m a v) = true := memPutList_wf a _ hm

/-- Dropping cells keeps the form. -/
theorem memWfFrom_filter {m : List Host.Cell} {lo : Nat} (p : Host.Cell → Bool) (hm : memWfFrom lo m = true) :
    memWfFrom lo (m.filter p) = true := by
  induction m generalizing lo with
  | nil => rfl
  | cons c m ih =>
    obtain ⟨k, v⟩ := c
    simp only [memWfFrom, Bool.and_eq_true, decide_eq_true_eq] at hm
    by_cases hp : p (k, v) = true
    · simp only [List.filter_cons, hp, if_true, memWfFrom, Bool.and_eq_true, decide_eq_true_eq]
      exact ⟨hm.1, ih hm.2⟩
    · simp only [List.filter_cons, hp]
      exact memWfFrom_mono (by omega) (ih hm.2)

/-- Dropping cells keeps the canonical form. -/
theorem memory_wf_filter {m : List Host.Cell} (p : Host.Cell → Bool) (hm : Memory.wf m = true) :
    Memory.wf (m.filter p) = true := memWfFrom_filter p hm

/-- A read of the byte written gives it. -/
theorem memByte_memPut_same {m : List Host.Cell} {lo a : Nat} {b : Byte} (hm : memWfFrom lo m = true) :
    memByte (memPut m a b) a = b := by
  induction m generalizing lo with
  | nil =>
    by_cases hb : b = 0
    · simp [memPut, hb, memByte]
    · simp only [memPut, hb, if_false, memByte, if_true]
  | cons c m ih =>
    obtain ⟨k, v⟩ := c
    simp only [memWfFrom, Bool.and_eq_true, decide_eq_true_eq] at hm
    unfold memPut
    by_cases h1 : a < k
    · by_cases hb : b = 0
      · have hk : k ≠ a := by omega
        simp only [h1, hb, if_true, memByte, hk, if_false]
        exact memByte_below hm.2 (by omega)
      · simp only [h1, hb, if_false, memByte, if_true]
    · by_cases h2 : a = k
      · subst h2
        by_cases hb : b = 0
        · simp only [hb, lt_irrefl, if_true, if_false]
          exact memByte_below hm.2 (by omega)
        · simp only [hb, lt_irrefl, if_false, memByte, if_true]
      · have h3 : k ≠ a := fun e => h2 e.symm
        simp only [h1, h2, if_false, memByte, h3]
        exact ih hm.2

/-- A read of another byte gives what it gave. -/
theorem memByte_memPut_other (m : List Host.Cell) {a x : Nat} (b : Byte) (h : x ≠ a) :
    memByte (memPut m a b) x = memByte m x := by
  have hax : a ≠ x := fun e => h e.symm
  induction m with
  | nil => by_cases hb : b = 0 <;> simp only [memPut, hb, memByte, hax, if_true, if_false]
  | cons c m ih =>
    obtain ⟨k, v⟩ := c
    unfold memPut
    by_cases h1 : a < k
    · by_cases hb : b = 0 <;> simp only [h1, hb, memByte, hax, if_true, if_false]
    · by_cases h2 : a = k
      · subst h2
        by_cases hb : b = 0 <;> simp only [hb, lt_irrefl, memByte, hax, if_true, if_false]
      · simp only [h1, h2, if_false, memByte, ih]

/-- Bytes outside a stored range read as before. -/
theorem memByte_memPutList_other (m : List Host.Cell) {a x : Nat} (bs : List Byte) (h : x < a ∨ a + bs.length ≤ x) :
    memByte (memPutList m a bs) x = memByte m x := by
  induction bs generalizing m a with
  | nil => rfl
  | cons b bs ih =>
    simp only [List.length_cons] at h
    have h1 : x < a + 1 ∨ a + 1 + bs.length ≤ x := by omega
    have h2 : x ≠ a := by omega
    exact (ih (memPut m a b) h1).trans (memByte_memPut_other m b h2)

/-- A number has as many bytes as are asked for. -/
theorem toBytes_length (n x : Nat) : (toBytes n x).length = n := by
  induction n generalizing x with
  | zero => rfl
  | succ n ih => simp [toBytes, ih]

/-- Bytes outside a stored line read as before. -/
theorem memByte_memPutLine_other (m : List Host.Cell) {a x : Nat} (v : Line) (h : x < a ∨ a + 64 ≤ x) :
    memByte (memPutLine m a v) x = memByte m x :=
  memByte_memPutList_other m _ (by rw [toBytes_length]; exact h)

/-- A read of the bytes written gives them. -/
theorem memBytes_memPutList {m : List Host.Cell} (hm : Memory.wf m = true) (a : Nat) (bs : List Byte) :
    memBytes (memPutList m a bs) a bs.length = bs := by
  induction bs generalizing m a with
  | nil => rfl
  | cons b bs ih =>
    have h1 : memByte (memPutList (memPut m a b) (a + 1) bs) a = b := by
      rw [memByte_memPutList_other _ _ (Or.inl (by omega))]
      exact memByte_memPut_same (lo := 0) hm
    simp only [memPutList, List.length_cons, memBytes, h1]
    exact congrArg _ (ih (memPut_wf a b hm) (a + 1))

/-- Canonical memories that read alike are equal. -/
theorem memory_ext {m n : List Host.Cell} {lo : Nat} (hm : memWfFrom lo m = true) (hn : memWfFrom lo n = true)
    (h : ∀ a, memByte m a = memByte n a) : m = n := by
  induction m generalizing n lo with
  | nil =>
    cases n with
    | nil => rfl
    | cons d n =>
      obtain ⟨k, v⟩ := d
      simp only [memWfFrom, Bool.and_eq_true, decide_eq_true_eq] at hn
      have := h k
      simp only [memByte, if_true] at this
      exact absurd this.symm (by simpa using hn.1.2)
  | cons c m ih =>
    obtain ⟨k, v⟩ := c
    have hm' := hm
    simp only [memWfFrom, Bool.and_eq_true, decide_eq_true_eq] at hm
    cases n with
    | nil =>
      have := h k
      simp only [memByte, if_true] at this
      exact absurd this (by simpa using hm.1.2)
    | cons d n =>
      obtain ⟨j, w⟩ := d
      have hn' := hn
      simp only [memWfFrom, Bool.and_eq_true, decide_eq_true_eq] at hn
      have hkj : k = j := by
        rcases Nat.lt_trichotomy k j with hlt | heq | hgt
        · have h1 := h k
          have h2 : memByte ((j, w) :: n) k = 0 :=
            memByte_below (lo := j) (by simp only [memWfFrom, Bool.and_eq_true, decide_eq_true_eq]; exact ⟨⟨le_refl j, hn.1.2⟩, hn.2⟩) hlt
          rw [h2] at h1
          simp only [memByte, if_true] at h1
          exact absurd h1 (by simpa using hm.1.2)
        · exact heq
        · have h1 := h j
          have h2 : memByte ((k, v) :: m) j = 0 :=
            memByte_below (lo := k) (by simp only [memWfFrom, Bool.and_eq_true, decide_eq_true_eq]; exact ⟨⟨le_refl k, hm.1.2⟩, hm.2⟩) hgt
          rw [h2] at h1
          simp only [memByte, if_true] at h1
          exact absurd h1.symm (by simpa using hn.1.2)
      subst hkj
      have hvw : v = w := by simpa [memByte] using h k
      subst hvw
      refine congrArg _ (ih hm.2 hn.2 (fun a => ?_))
      by_cases hak : k = a
      · subst hak
        rw [memByte_below hm.2 (by omega), memByte_below hn.2 (by omega)]
      · have := h a
        simpa only [memByte, hak, if_false] using this

/-- The line written is the line read. -/
theorem ofBytes_toBytes (n x : Nat) : ofBytes (toBytes n x) = x % 256 ^ n := by
  induction n generalizing x with
  | zero => simp [toBytes, ofBytes, Nat.mod_one]
  | succ n ih =>
    rw [Nat.pow_succ', Nat.mod_mul, ← ih]
    rfl

/-- A read of the line written gives it. -/
theorem memLine_memPutLine {m : List Host.Cell} (hm : Memory.wf m = true) (a : Nat) (v : Line) :
    memLine (memPutLine m a v) a = v := by
  have h := memBytes_memPutList hm a (toBytes 64 v.toNat)
  rw [toBytes_length] at h
  have hv : v.toNat < 256 ^ 64 := lt_of_lt_of_eq v.isLt (by rw [show 256 = 2 ^ 8 from rfl, ← Nat.pow_mul])
  simp only [memLine, memPutLine, h, ofBytes_toBytes, Nat.mod_eq_of_lt hv, BitVec.ofNat_toNat, BitVec.setWidth_eq]

end Sys2Proof.Machine
end

