-- ==== Sys2Proof/Laws/PerInstr.lean ====
section
/-! SUPPORT. Per instruction: the word that the encoder gives an instruction decodes to it, but for the word of all zeros,
which is an empty slot (R252). -/

namespace Sys2Proof.Laws.RoundTrip

open Sys2Proof

/-- The word of an instruction decodes to it. -/
def Statement (i : Instr) : Prop := ∀ w, encode i = some w → w ≠ 0#56 → decodeWord w = .ok i

/-- An operation or event has no word. -/
theorem of_none {i : Instr} (h : encode i = none) : Statement i := by
  intro w hw
  rw [h] at hw
  cases hw

/-- An instruction of format A. -/
theorem of_a {i : Instr} {op : BitVec 8} {f : FmtA} (he : encode i = some (wordA op f))
    (hd : decodeOp op.toNat (wordA op f) = some i) : Statement i := by
  intro w hw h0
  cases he.symm.trans hw
  exact decodeWord_of_opcode h0 (wordA_opcode op f) hd

/-- An instruction of format D. -/
theorem of_d {i : Instr} {op : BitVec 8} {f : FmtD} (he : encode i = some (wordD op f))
    (hd : decodeOp op.toNat (wordD op f) = some i) : Statement i := by
  intro w hw h0
  cases he.symm.trans hw
  exact decodeWord_of_opcode h0 (wordD_opcode op f) hd

/-- An instruction of format M. -/
theorem of_m {i : Instr} {op : BitVec 8} {f : FmtM} (he : encode i = some (wordM op f))
    (hd : decodeOp op.toNat (wordM op f) = some i) : Statement i := by
  intro w hw h0
  cases he.symm.trans hw
  exact decodeWord_of_opcode h0 (wordM_opcode op f) hd

/-- An instruction of format X. -/
theorem of_x {i : Instr} {op : BitVec 8} {f : FmtX} (he : encode i = some (wordX op f))
    (hd : decodeOp op.toNat (wordX op f) = some i) : Statement i := by
  intro w hw h0
  cases he.symm.trans hw
  exact decodeWord_of_opcode h0 (wordX_opcode op f) hd

theorem supplyPresent (verified : Bool) (measures : List (BitVec 384)) : Statement (.supplyPresent verified measures) := of_none rfl
theorem powerFailTrap (performed : List (Nat × Nat)) : Statement (.powerFailTrap performed) := of_none rfl
theorem holdupEnergyLow (whole : Nat) : Statement (.holdupEnergyLow whole) := of_none rfl
theorem ctxCreate (a : CtxArgs) : Statement (.ctxCreate a) := of_none rfl
theorem ctxDestroy (tid : Nat) : Statement (.ctxDestroy tid) := of_none rfl
theorem ctxDiemap (tid vdie die : Nat) : Statement (.ctxDiemap tid vdie die) := of_none rfl
theorem ctxPace (tid pace : Nat) : Statement (.ctxPace tid pace) := of_none rfl
theorem ctxRoot (asid dc addr : Nat) : Statement (.ctxRoot asid dc addr) := of_none rfl
theorem slCreate (a : SlArgs) : Statement (.slCreate a) := of_none rfl
theorem bwBudget (die b : Nat) : Statement (.bwBudget die b) := of_none rfl
theorem msUpdate (tid : Nat) (decl : Bool) : Statement (.msUpdate tid decl) := of_none rfl
theorem ksRestore (set tid : Nat) : Statement (.ksRestore set tid) := of_none rfl
theorem taskRestore (tid slotVa : Nat) : Statement (.taskRestore tid slotVa) := of_none rfl
theorem taskResume (die entry : Nat) : Statement (.taskResume die entry) := of_none rfl
theorem taskKill (die entry : Nat) : Statement (.taskKill die entry) := of_none rfl
theorem dieReset (die : Nat) : Statement (.dieReset die) := of_none rfl
theorem poolAdd (tid pool pa : Nat) (big : Bool) : Statement (.poolAdd tid pool pa big) := of_none rfl
theorem pgMigr (tid va die : Nat) : Statement (.pgMigr tid va die) := of_none rfl
theorem s2inv (vmid base count : Nat) : Statement (.s2inv vmid base count) := of_none rfl
theorem racePool (die base size : Nat) : Statement (.racePool die base size) := of_none rfl
theorem siteThresh (v : Nat) : Statement (.siteThresh v) := of_none rfl
theorem siteRetire (sites : List (Nat × Nat)) : Statement (.siteRetire sites) := of_none rfl
theorem fwLaunch (a : FwArgs) : Statement (.fwLaunch a) := of_none rfl
theorem dbgNonce (fresh : BitVec 128) : Statement (.dbgNonce fresh) := of_none rfl
theorem dbgFreeze (token : BitVec 1280) (sigOk : Bool) (f buf : Nat) : Statement (.dbgFreeze token sigOk f buf) := of_none rfl
theorem photoFinishFreeze (performed : List (Nat × Nat)) : Statement (.photoFinishFreeze performed) := of_none rfl
theorem routeTableWrite (dst : Nat) (mask : BitVec 16) : Statement (.routeTableWrite dst mask) := of_none rfl
theorem doorbell (slot : Nat) (tail : BitVec 32) : Statement (.doorbell slot tail) := of_none rfl
theorem slchead (slot : Nat) (v : BitVec 32) : Statement (.slchead slot v) := of_none rfl
theorem stop (slot : Nat) : Statement (.stop slot) := of_none rfl
theorem start (slot : Nat) : Statement (.start slot) := of_none rfl
theorem destroy (slot : Nat) : Statement (.destroy slot) := of_none rfl
theorem destroyForce (slot : Nat) : Statement (.destroyForce slot) := of_none rfl
theorem registerWrite (fn bar off : Nat) (v : BitVec 64) : Statement (.registerWrite fn bar off v) := of_none rfl
theorem hostCxlMemRequest (pa : Nat) (write : Bool) (data : BitVec 512) (mask : BitVec 64) : Statement (.hostCxlMemRequest pa write data mask) := of_none rfl
theorem tokenArrival (bad : Bool) : Statement (.tokenArrival bad) := of_none rfl
theorem decisionToken (replace : Bool) : Statement (.decisionToken replace) := of_none rfl
theorem checkerMismatch (c : CheckEvent) : Statement (.checkerMismatch c) := of_none rfl
theorem reliabilityMonitor (domain rate : Nat) (what : FlagWhat) : Statement (.reliabilityMonitor domain rate what) := of_none rfl
theorem seamModuleLoss (seam lost : Nat) : Statement (.seamModuleLoss seam lost) := of_none rfl
theorem linkFailure (link : Nat) (performed : List (Nat × Nat)) : Statement (.linkFailure link performed) := of_none rfl
theorem cdLinkFailure (die : Nat) (performed : List (Nat × Nat)) : Statement (.cdLinkFailure die performed) := of_none rfl
theorem linkTrainingResult (link : Nat) (ok : Bool) : Statement (.linkTrainingResult link ok) := of_none rfl
theorem spanFlitReceive (port : Nat) (flits : List (BitVec 2048)) (errors : Nat) : Statement (.spanFlitReceive port flits errors) := of_none rfl
theorem spanNak (port : Nat) (ackseq : BitVec 8) : Statement (.spanNak port ackseq) := of_none rfl
theorem nop (f : FmtD) : Statement (.nop f) := of_d (op := 0x00#8) rfl (congrArg (fun g => some (Instr.nop g)) (fmtD_wordD 0x00#8 f))
theorem recv (f : FmtD) : Statement (.recv f) := of_d (op := 0x01#8) rfl (congrArg (fun g => some (Instr.recv g)) (fmtD_wordD 0x01#8 f))
theorem peek (f : FmtD) : Statement (.peek f) := of_d (op := 0x02#8) rfl (congrArg (fun g => some (Instr.peek g)) (fmtD_wordD 0x02#8 f))
theorem drop (f : FmtD) : Statement (.drop f) := of_d (op := 0x03#8) rfl (congrArg (fun g => some (Instr.drop g)) (fmtD_wordD 0x03#8 f))
theorem emit (f : FmtD) : Statement (.emit f) := of_d (op := 0x04#8) rfl (congrArg (fun g => some (Instr.emit g)) (fmtD_wordD 0x04#8 f))
theorem mov (f : FmtD) : Statement (.mov f) := of_d (op := 0x05#8) rfl (congrArg (fun g => some (Instr.mov g)) (fmtD_wordD 0x05#8 f))
theorem const (f : FmtD) : Statement (.const f) := of_d (op := 0x06#8) rfl (congrArg (fun g => some (Instr.const g)) (fmtD_wordD 0x06#8 f))
theorem steer (f : FmtD) : Statement (.steer f) := of_d (op := 0x07#8) rfl (congrArg (fun g => some (Instr.steer g)) (fmtD_wordD 0x07#8 f))
theorem merge (f : FmtD) : Statement (.merge f) := of_d (op := 0x08#8) rfl (congrArg (fun g => some (Instr.merge g)) (fmtD_wordD 0x08#8 f))
theorem sel (f : FmtD) : Statement (.sel f) := of_d (op := 0x09#8) rfl (congrArg (fun g => some (Instr.sel g)) (fmtD_wordD 0x09#8 f))
theorem gate (f : FmtD) : Statement (.gate f) := of_d (op := 0x0A#8) rfl (congrArg (fun g => some (Instr.gate g)) (fmtD_wordD 0x0A#8 f))
theorem iter (f : FmtD) : Statement (.iter f) := of_d (op := 0x0B#8) rfl (congrArg (fun g => some (Instr.iter g)) (fmtD_wordD 0x0B#8 f))
theorem kread (f : FmtD) : Statement (.kread f) := of_d (op := 0x0C#8) rfl (congrArg (fun g => some (Instr.kread g)) (fmtD_wordD 0x0C#8 f))
theorem kwrite (f : FmtD) : Statement (.kwrite f) := of_d (op := 0x0D#8) rfl (congrArg (fun g => some (Instr.kwrite g)) (fmtD_wordD 0x0D#8 f))
theorem eoiq (f : FmtD) : Statement (.eoiq f) := of_d (op := 0x0E#8) rfl (congrArg (fun g => some (Instr.eoiq g)) (fmtD_wordD 0x0E#8 f))
theorem decide (f : FmtD) : Statement (.decide f) := of_d (op := 0x0F#8) rfl (congrArg (fun g => some (Instr.decide g)) (fmtD_wordD 0x0F#8 f))
theorem retire (f : FmtD) : Statement (.retire f) := of_d (op := 0x10#8) rfl (congrArg (fun g => some (Instr.retire g)) (fmtD_wordD 0x10#8 f))
theorem waitc (f : FmtD) : Statement (.waitc f) := of_d (op := 0x11#8) rfl (congrArg (fun g => some (Instr.waitc g)) (fmtD_wordD 0x11#8 f))
theorem invnum (f : FmtD) : Statement (.invnum f) := of_d (op := 0x12#8) rfl (congrArg (fun g => some (Instr.invnum g)) (fmtD_wordD 0x12#8 f))
theorem siteid (f : FmtD) : Statement (.siteid f) := of_d (op := 0x13#8) rfl (congrArg (fun g => some (Instr.siteid g)) (fmtD_wordD 0x13#8 f))
theorem hmask (f : FmtD) : Statement (.hmask f) := of_d (op := 0x14#8) rfl (congrArg (fun g => some (Instr.hmask g)) (fmtD_wordD 0x14#8 f))
theorem hunmask (f : FmtD) : Statement (.hunmask f) := of_d (op := 0x15#8) rfl (congrArg (fun g => some (Instr.hunmask g)) (fmtD_wordD 0x15#8 f))
theorem chstat (f : FmtD) : Statement (.chstat f) := of_d (op := 0x16#8) rfl (congrArg (fun g => some (Instr.chstat g)) (fmtD_wordD 0x16#8 f))
theorem add (f : FmtA) : Statement (.add f) := of_a (op := 0x20#8) rfl (congrArg (fun g => some (Instr.add g)) (fmtA_wordA 0x20#8 f))
theorem sub (f : FmtA) : Statement (.sub f) := of_a (op := 0x21#8) rfl (congrArg (fun g => some (Instr.sub g)) (fmtA_wordA 0x21#8 f))
theorem addc (f : FmtA) : Statement (.addc f) := of_a (op := 0x22#8) rfl (congrArg (fun g => some (Instr.addc g)) (fmtA_wordA 0x22#8 f))
theorem subb (f : FmtA) : Statement (.subb f) := of_a (op := 0x23#8) rfl (congrArg (fun g => some (Instr.subb g)) (fmtA_wordA 0x23#8 f))
theorem mul (f : FmtA) : Statement (.mul f) := of_a (op := 0x24#8) rfl (congrArg (fun g => some (Instr.mul g)) (fmtA_wordA 0x24#8 f))
theorem mulh (f : FmtA) : Statement (.mulh f) := of_a (op := 0x25#8) rfl (congrArg (fun g => some (Instr.mulh g)) (fmtA_wordA 0x25#8 f))
theorem div (f : FmtA) : Statement (.div f) := of_a (op := 0x26#8) rfl (congrArg (fun g => some (Instr.div g)) (fmtA_wordA 0x26#8 f))
theorem rem (f : FmtA) : Statement (.rem f) := of_a (op := 0x27#8) rfl (congrArg (fun g => some (Instr.rem g)) (fmtA_wordA 0x27#8 f))
theorem neg (f : FmtA) : Statement (.neg f) := of_a (op := 0x28#8) rfl (congrArg (fun g => some (Instr.neg g)) (fmtA_wordA 0x28#8 f))
theorem abs (f : FmtA) : Statement (.abs f) := of_a (op := 0x29#8) rfl (congrArg (fun g => some (Instr.abs g)) (fmtA_wordA 0x29#8 f))
theorem min (f : FmtA) : Statement (.min f) := of_a (op := 0x2A#8) rfl (congrArg (fun g => some (Instr.min g)) (fmtA_wordA 0x2A#8 f))
theorem max (f : FmtA) : Statement (.max f) := of_a (op := 0x2B#8) rfl (congrArg (fun g => some (Instr.max g)) (fmtA_wordA 0x2B#8 f))
theorem satadd (f : FmtA) : Statement (.satadd f) := of_a (op := 0x2C#8) rfl (congrArg (fun g => some (Instr.satadd g)) (fmtA_wordA 0x2C#8 f))
theorem satsub (f : FmtA) : Statement (.satsub f) := of_a (op := 0x2D#8) rfl (congrArg (fun g => some (Instr.satsub g)) (fmtA_wordA 0x2D#8 f))
theorem and (f : FmtA) : Statement (.and f) := of_a (op := 0x2E#8) rfl (congrArg (fun g => some (Instr.and g)) (fmtA_wordA 0x2E#8 f))
theorem or (f : FmtA) : Statement (.or f) := of_a (op := 0x2F#8) rfl (congrArg (fun g => some (Instr.or g)) (fmtA_wordA 0x2F#8 f))
theorem xor (f : FmtA) : Statement (.xor f) := of_a (op := 0x30#8) rfl (congrArg (fun g => some (Instr.xor g)) (fmtA_wordA 0x30#8 f))
theorem andn (f : FmtA) : Statement (.andn f) := of_a (op := 0x31#8) rfl (congrArg (fun g => some (Instr.andn g)) (fmtA_wordA 0x31#8 f))
theorem shl (f : FmtA) : Statement (.shl f) := of_a (op := 0x32#8) rfl (congrArg (fun g => some (Instr.shl g)) (fmtA_wordA 0x32#8 f))
theorem shr (f : FmtA) : Statement (.shr f) := of_a (op := 0x33#8) rfl (congrArg (fun g => some (Instr.shr g)) (fmtA_wordA 0x33#8 f))
theorem sar (f : FmtA) : Statement (.sar f) := of_a (op := 0x34#8) rfl (congrArg (fun g => some (Instr.sar g)) (fmtA_wordA 0x34#8 f))
theorem rot (f : FmtA) : Statement (.rot f) := of_a (op := 0x35#8) rfl (congrArg (fun g => some (Instr.rot g)) (fmtA_wordA 0x35#8 f))
theorem clz (f : FmtA) : Statement (.clz f) := of_a (op := 0x36#8) rfl (congrArg (fun g => some (Instr.clz g)) (fmtA_wordA 0x36#8 f))
theorem popc (f : FmtA) : Statement (.popc f) := of_a (op := 0x37#8) rfl (congrArg (fun g => some (Instr.popc g)) (fmtA_wordA 0x37#8 f))
theorem bfx (f : FmtA) : Statement (.bfx f) := of_a (op := 0x38#8) rfl (congrArg (fun g => some (Instr.bfx g)) (fmtA_wordA 0x38#8 f))
theorem bfi (f : FmtA) : Statement (.bfi f) := of_a (op := 0x39#8) rfl (congrArg (fun g => some (Instr.bfi g)) (fmtA_wordA 0x39#8 f))
theorem ext (f : FmtA) : Statement (.ext f) := of_a (op := 0x3A#8) rfl (congrArg (fun g => some (Instr.ext g)) (fmtA_wordA 0x3A#8 f))
theorem cmp (f : FmtA) : Statement (.cmp f) := of_a (op := 0x3B#8) rfl (congrArg (fun g => some (Instr.cmp g)) (fmtA_wordA 0x3B#8 f))
theorem adda (f : FmtA) : Statement (.adda f) := of_a (op := 0x3C#8) rfl (congrArg (fun g => some (Instr.adda g)) (fmtA_wordA 0x3C#8 f))
theorem mkaddr (f : FmtA) : Statement (.mkaddr f) := of_a (op := 0x3D#8) rfl (congrArg (fun g => some (Instr.mkaddr g)) (fmtA_wordA 0x3D#8 f))
theorem dieof (f : FmtA) : Statement (.dieof f) := of_a (op := 0x3E#8) rfl (congrArg (fun g => some (Instr.dieof g)) (fmtA_wordA 0x3E#8 f))
theorem fadd (f : FmtA) : Statement (.fadd f) := of_a (op := 0x40#8) rfl (congrArg (fun g => some (Instr.fadd g)) (fmtA_wordA 0x40#8 f))
theorem fsub (f : FmtA) : Statement (.fsub f) := of_a (op := 0x41#8) rfl (congrArg (fun g => some (Instr.fsub g)) (fmtA_wordA 0x41#8 f))
theorem fmul (f : FmtA) : Statement (.fmul f) := of_a (op := 0x42#8) rfl (congrArg (fun g => some (Instr.fmul g)) (fmtA_wordA 0x42#8 f))
theorem ffma (f : FmtA) : Statement (.ffma f) := of_a (op := 0x43#8) rfl (congrArg (fun g => some (Instr.ffma g)) (fmtA_wordA 0x43#8 f))
theorem fdiv (f : FmtA) : Statement (.fdiv f) := of_a (op := 0x44#8) rfl (congrArg (fun g => some (Instr.fdiv g)) (fmtA_wordA 0x44#8 f))
theorem fsqrt (f : FmtA) : Statement (.fsqrt f) := of_a (op := 0x45#8) rfl (congrArg (fun g => some (Instr.fsqrt g)) (fmtA_wordA 0x45#8 f))
theorem fmin (f : FmtA) : Statement (.fmin f) := of_a (op := 0x46#8) rfl (congrArg (fun g => some (Instr.fmin g)) (fmtA_wordA 0x46#8 f))
theorem fmax (f : FmtA) : Statement (.fmax f) := of_a (op := 0x47#8) rfl (congrArg (fun g => some (Instr.fmax g)) (fmtA_wordA 0x47#8 f))
theorem fneg (f : FmtA) : Statement (.fneg f) := of_a (op := 0x48#8) rfl (congrArg (fun g => some (Instr.fneg g)) (fmtA_wordA 0x48#8 f))
theorem fabs (f : FmtA) : Statement (.fabs f) := of_a (op := 0x49#8) rfl (congrArg (fun g => some (Instr.fabs g)) (fmtA_wordA 0x49#8 f))
theorem fcmp (f : FmtA) : Statement (.fcmp f) := of_a (op := 0x4A#8) rfl (congrArg (fun g => some (Instr.fcmp g)) (fmtA_wordA 0x4A#8 f))
theorem fclass (f : FmtA) : Statement (.fclass f) := of_a (op := 0x4B#8) rfl (congrArg (fun g => some (Instr.fclass g)) (fmtA_wordA 0x4B#8 f))
theorem fcvt (f : FmtA) : Statement (.fcvt f) := of_a (op := 0x4C#8) rfl (congrArg (fun g => some (Instr.fcvt g)) (fmtA_wordA 0x4C#8 f))
theorem ftoi (f : FmtA) : Statement (.ftoi f) := of_a (op := 0x4D#8) rfl (congrArg (fun g => some (Instr.ftoi g)) (fmtA_wordA 0x4D#8 f))
theorem itof (f : FmtA) : Statement (.itof f) := of_a (op := 0x4E#8) rfl (congrArg (fun g => some (Instr.itof g)) (fmtA_wordA 0x4E#8 f))
theorem frnd (f : FmtA) : Statement (.frnd f) := of_a (op := 0x4F#8) rfl (congrArg (fun g => some (Instr.frnd g)) (fmtA_wordA 0x4F#8 f))
theorem fscale (f : FmtA) : Statement (.fscale f) := of_a (op := 0x50#8) rfl (congrArg (fun g => some (Instr.fscale g)) (fmtA_wordA 0x50#8 f))
theorem fexp2 (f : FmtA) : Statement (.fexp2 f) := of_a (op := 0x51#8) rfl (congrArg (fun g => some (Instr.fexp2 g)) (fmtA_wordA 0x51#8 f))
theorem flog2 (f : FmtA) : Statement (.flog2 f) := of_a (op := 0x52#8) rfl (congrArg (fun g => some (Instr.flog2 g)) (fmtA_wordA 0x52#8 f))
theorem frcp (f : FmtA) : Statement (.frcp f) := of_a (op := 0x53#8) rfl (congrArg (fun g => some (Instr.frcp g)) (fmtA_wordA 0x53#8 f))
theorem frsq (f : FmtA) : Statement (.frsq f) := of_a (op := 0x54#8) rfl (congrArg (fun g => some (Instr.frsq g)) (fmtA_wordA 0x54#8 f))
theorem fflags (f : FmtA) : Statement (.fflags f) := of_a (op := 0x55#8) rfl (congrArg (fun g => some (Instr.fflags g)) (fmtA_wordA 0x55#8 f))
theorem vadd (f : FmtA) : Statement (.vadd f) := of_a (op := 0x60#8) rfl (congrArg (fun g => some (Instr.vadd g)) (fmtA_wordA 0x60#8 f))
theorem vsub (f : FmtA) : Statement (.vsub f) := of_a (op := 0x61#8) rfl (congrArg (fun g => some (Instr.vsub g)) (fmtA_wordA 0x61#8 f))
theorem vmul (f : FmtA) : Statement (.vmul f) := of_a (op := 0x62#8) rfl (congrArg (fun g => some (Instr.vmul g)) (fmtA_wordA 0x62#8 f))
theorem vfma (f : FmtA) : Statement (.vfma f) := of_a (op := 0x63#8) rfl (congrArg (fun g => some (Instr.vfma g)) (fmtA_wordA 0x63#8 f))
theorem vmin (f : FmtA) : Statement (.vmin f) := of_a (op := 0x64#8) rfl (congrArg (fun g => some (Instr.vmin g)) (fmtA_wordA 0x64#8 f))
theorem vmax (f : FmtA) : Statement (.vmax f) := of_a (op := 0x65#8) rfl (congrArg (fun g => some (Instr.vmax g)) (fmtA_wordA 0x65#8 f))
theorem vabs (f : FmtA) : Statement (.vabs f) := of_a (op := 0x66#8) rfl (congrArg (fun g => some (Instr.vabs g)) (fmtA_wordA 0x66#8 f))
theorem vneg (f : FmtA) : Statement (.vneg f) := of_a (op := 0x67#8) rfl (congrArg (fun g => some (Instr.vneg g)) (fmtA_wordA 0x67#8 f))
theorem vand (f : FmtA) : Statement (.vand f) := of_a (op := 0x68#8) rfl (congrArg (fun g => some (Instr.vand g)) (fmtA_wordA 0x68#8 f))
theorem vor (f : FmtA) : Statement (.vor f) := of_a (op := 0x69#8) rfl (congrArg (fun g => some (Instr.vor g)) (fmtA_wordA 0x69#8 f))
theorem vxor (f : FmtA) : Statement (.vxor f) := of_a (op := 0x6A#8) rfl (congrArg (fun g => some (Instr.vxor g)) (fmtA_wordA 0x6A#8 f))
theorem vshl (f : FmtA) : Statement (.vshl f) := of_a (op := 0x6B#8) rfl (congrArg (fun g => some (Instr.vshl g)) (fmtA_wordA 0x6B#8 f))
theorem vshr (f : FmtA) : Statement (.vshr f) := of_a (op := 0x6C#8) rfl (congrArg (fun g => some (Instr.vshr g)) (fmtA_wordA 0x6C#8 f))
theorem vsar (f : FmtA) : Statement (.vsar f) := of_a (op := 0x6D#8) rfl (congrArg (fun g => some (Instr.vsar g)) (fmtA_wordA 0x6D#8 f))
theorem vcmp (f : FmtA) : Statement (.vcmp f) := of_a (op := 0x6E#8) rfl (congrArg (fun g => some (Instr.vcmp g)) (fmtA_wordA 0x6E#8 f))
theorem vsel (f : FmtA) : Statement (.vsel f) := of_a (op := 0x6F#8) rfl (congrArg (fun g => some (Instr.vsel g)) (fmtA_wordA 0x6F#8 f))
theorem vsatadd (f : FmtA) : Statement (.vsatadd f) := of_a (op := 0x70#8) rfl (congrArg (fun g => some (Instr.vsatadd g)) (fmtA_wordA 0x70#8 f))
theorem vmulh (f : FmtA) : Statement (.vmulh f) := of_a (op := 0x71#8) rfl (congrArg (fun g => some (Instr.vmulh g)) (fmtA_wordA 0x71#8 f))
theorem vdot (f : FmtA) : Statement (.vdot f) := of_a (op := 0x72#8) rfl (congrArg (fun g => some (Instr.vdot g)) (fmtA_wordA 0x72#8 f))
theorem vcvt (f : FmtA) : Statement (.vcvt f) := of_a (op := 0x73#8) rfl (congrArg (fun g => some (Instr.vcvt g)) (fmtA_wordA 0x73#8 f))
theorem vquant (f : FmtA) : Statement (.vquant f) := of_a (op := 0x74#8) rfl (congrArg (fun g => some (Instr.vquant g)) (fmtA_wordA 0x74#8 f))
theorem vdeq (f : FmtA) : Statement (.vdeq f) := of_a (op := 0x75#8) rfl (congrArg (fun g => some (Instr.vdeq g)) (fmtA_wordA 0x75#8 f))
theorem vscale (f : FmtA) : Statement (.vscale f) := of_a (op := 0x76#8) rfl (congrArg (fun g => some (Instr.vscale g)) (fmtA_wordA 0x76#8 f))
theorem vexp2 (f : FmtA) : Statement (.vexp2 f) := of_a (op := 0x77#8) rfl (congrArg (fun g => some (Instr.vexp2 g)) (fmtA_wordA 0x77#8 f))
theorem vlog2 (f : FmtA) : Statement (.vlog2 f) := of_a (op := 0x78#8) rfl (congrArg (fun g => some (Instr.vlog2 g)) (fmtA_wordA 0x78#8 f))
theorem vrcp (f : FmtA) : Statement (.vrcp f) := of_a (op := 0x79#8) rfl (congrArg (fun g => some (Instr.vrcp g)) (fmtA_wordA 0x79#8 f))
theorem vrsq (f : FmtA) : Statement (.vrsq f) := of_a (op := 0x7A#8) rfl (congrArg (fun g => some (Instr.vrsq g)) (fmtA_wordA 0x7A#8 f))
theorem vsigm (f : FmtA) : Statement (.vsigm f) := of_a (op := 0x7B#8) rfl (congrArg (fun g => some (Instr.vsigm g)) (fmtA_wordA 0x7B#8 f))
theorem vbcast (f : FmtA) : Statement (.vbcast f) := of_a (op := 0x80#8) rfl (congrArg (fun g => some (Instr.vbcast g)) (fmtA_wordA 0x80#8 f))
theorem vextr (f : FmtA) : Statement (.vextr f) := of_a (op := 0x81#8) rfl (congrArg (fun g => some (Instr.vextr g)) (fmtA_wordA 0x81#8 f))
theorem vins (f : FmtA) : Statement (.vins f) := of_a (op := 0x82#8) rfl (congrArg (fun g => some (Instr.vins g)) (fmtA_wordA 0x82#8 f))
theorem vshuf (f : FmtA) : Statement (.vshuf f) := of_a (op := 0x83#8) rfl (congrArg (fun g => some (Instr.vshuf g)) (fmtA_wordA 0x83#8 f))
theorem vrot (f : FmtA) : Statement (.vrot f) := of_a (op := 0x84#8) rfl (congrArg (fun g => some (Instr.vrot g)) (fmtA_wordA 0x84#8 f))
theorem vslide (f : FmtA) : Statement (.vslide f) := of_a (op := 0x85#8) rfl (congrArg (fun g => some (Instr.vslide g)) (fmtA_wordA 0x85#8 f))
theorem vzip (f : FmtA) : Statement (.vzip f) := of_a (op := 0x86#8) rfl (congrArg (fun g => some (Instr.vzip g)) (fmtA_wordA 0x86#8 f))
theorem vunzip (f : FmtA) : Statement (.vunzip f) := of_a (op := 0x87#8) rfl (congrArg (fun g => some (Instr.vunzip g)) (fmtA_wordA 0x87#8 f))
theorem vpack (f : FmtA) : Statement (.vpack f) := of_a (op := 0x88#8) rfl (congrArg (fun g => some (Instr.vpack g)) (fmtA_wordA 0x88#8 f))
theorem vunpack (f : FmtA) : Statement (.vunpack f) := of_a (op := 0x89#8) rfl (congrArg (fun g => some (Instr.vunpack g)) (fmtA_wordA 0x89#8 f))
theorem vredadd (f : FmtA) : Statement (.vredadd f) := of_a (op := 0x8A#8) rfl (congrArg (fun g => some (Instr.vredadd g)) (fmtA_wordA 0x8A#8 f))
theorem vredmax (f : FmtA) : Statement (.vredmax f) := of_a (op := 0x8B#8) rfl (congrArg (fun g => some (Instr.vredmax g)) (fmtA_wordA 0x8B#8 f))
theorem vredmin (f : FmtA) : Statement (.vredmin f) := of_a (op := 0x8C#8) rfl (congrArg (fun g => some (Instr.vredmin g)) (fmtA_wordA 0x8C#8 f))
theorem vscan (f : FmtA) : Statement (.vscan f) := of_a (op := 0x8D#8) rfl (congrArg (fun g => some (Instr.vscan g)) (fmtA_wordA 0x8D#8 f))
theorem vcompress (f : FmtA) : Statement (.vcompress f) := of_a (op := 0x8E#8) rfl (congrArg (fun g => some (Instr.vcompress g)) (fmtA_wordA 0x8E#8 f))
theorem vexpand (f : FmtA) : Statement (.vexpand f) := of_a (op := 0x8F#8) rfl (congrArg (fun g => some (Instr.vexpand g)) (fmtA_wordA 0x8F#8 f))
theorem vmask (f : FmtA) : Statement (.vmask f) := of_a (op := 0x90#8) rfl (congrArg (fun g => some (Instr.vmask g)) (fmtA_wordA 0x90#8 f))
theorem vpopc (f : FmtA) : Statement (.vpopc f) := of_a (op := 0x91#8) rfl (congrArg (fun g => some (Instr.vpopc g)) (fmtA_wordA 0x91#8 f))
theorem vtagq (f : FmtA) : Statement (.vtagq f) := of_a (op := 0x92#8) rfl (congrArg (fun g => some (Instr.vtagq g)) (fmtA_wordA 0x92#8 f))
theorem vtagset (f : FmtA) : Statement (.vtagset f) := of_a (op := 0x93#8) rfl (congrArg (fun g => some (Instr.vtagset g)) (fmtA_wordA 0x93#8 f))
theorem wload (f : FmtX) : Statement (.wload f) := of_x (op := 0xA0#8) rfl (congrArg (fun g => some (Instr.wload g)) (fmtX_wordX 0xA0#8 f))
theorem wscale (f : FmtX) : Statement (.wscale f) := of_x (op := 0xA1#8) rfl (congrArg (fun g => some (Instr.wscale g)) (fmtX_wordX 0xA1#8 f))
theorem wswap (f : FmtX) : Statement (.wswap f) := of_x (op := 0xA2#8) rfl (congrArg (fun g => some (Instr.wswap g)) (fmtX_wordX 0xA2#8 f))
theorem wsparse (f : FmtX) : Statement (.wsparse f) := of_x (op := 0xA3#8) rfl (congrArg (fun g => some (Instr.wsparse g)) (fmtX_wordX 0xA3#8 f))
theorem mstream (f : FmtX) : Statement (.mstream f) := of_x (op := 0xA4#8) rfl (congrArg (fun g => some (Instr.mstream g)) (fmtX_wordX 0xA4#8 f))
theorem macc (f : FmtX) : Statement (.macc f) := of_x (op := 0xA5#8) rfl (congrArg (fun g => some (Instr.macc g)) (fmtX_wordX 0xA5#8 f))
theorem adecay (f : FmtX) : Statement (.adecay f) := of_x (op := 0xA6#8) rfl (congrArg (fun g => some (Instr.adecay g)) (fmtX_wordX 0xA6#8 f))
theorem azero (f : FmtX) : Statement (.azero f) := of_x (op := 0xA7#8) rfl (congrArg (fun g => some (Instr.azero g)) (fmtX_wordX 0xA7#8 f))
theorem aload (f : FmtX) : Statement (.aload f) := of_x (op := 0xA8#8) rfl (congrArg (fun g => some (Instr.aload g)) (fmtX_wordX 0xA8#8 f))
theorem adrain (f : FmtX) : Statement (.adrain f) := of_x (op := 0xA9#8) rfl (congrArg (fun g => some (Instr.adrain g)) (fmtX_wordX 0xA9#8 f))
theorem aspill (f : FmtX) : Statement (.aspill f) := of_x (op := 0xAA#8) rfl (congrArg (fun g => some (Instr.aspill g)) (fmtX_wordX 0xAA#8 f))
theorem afill (f : FmtX) : Statement (.afill f) := of_x (op := 0xAB#8) rfl (congrArg (fun g => some (Instr.afill g)) (fmtX_wordX 0xAB#8 f))
theorem aown (f : FmtX) : Statement (.aown f) := of_x (op := 0xAC#8) rfl (congrArg (fun g => some (Instr.aown g)) (fmtX_wordX 0xAC#8 f))
theorem mstat (f : FmtX) : Statement (.mstat f) := of_x (op := 0xAD#8) rfl (congrArg (fun g => some (Instr.mstat g)) (fmtX_wordX 0xAD#8 f))
theorem tfetch (f : FmtX) : Statement (.tfetch f) := of_x (op := 0xAE#8) rfl (congrArg (fun g => some (Instr.tfetch g)) (fmtX_wordX 0xAE#8 f))
theorem trelease (f : FmtX) : Statement (.trelease f) := of_x (op := 0xAF#8) rfl (congrArg (fun g => some (Instr.trelease g)) (fmtX_wordX 0xAF#8 f))
theorem ld (f : FmtM) : Statement (.ld f) := of_m (op := 0xC0#8) rfl (congrArg (fun g => some (Instr.ld g)) (fmtM_wordM 0xC0#8 f))
theorem st (f : FmtM) : Statement (.st f) := of_m (op := 0xC1#8) rfl (congrArg (fun g => some (Instr.st g)) (fmtM_wordM 0xC1#8 f))
theorem ldv (f : FmtM) : Statement (.ldv f) := of_m (op := 0xC2#8) rfl (congrArg (fun g => some (Instr.ldv g)) (fmtM_wordM 0xC2#8 f))
theorem stv (f : FmtM) : Statement (.stv f) := of_m (op := 0xC3#8) rfl (congrArg (fun g => some (Instr.stv g)) (fmtM_wordM 0xC3#8 f))
theorem ldro (f : FmtM) : Statement (.ldro f) := of_m (op := 0xC4#8) rfl (congrArg (fun g => some (Instr.ldro g)) (fmtM_wordM 0xC4#8 f))
theorem lds (f : FmtM) : Statement (.lds f) := of_m (op := 0xC5#8) rfl (congrArg (fun g => some (Instr.lds g)) (fmtM_wordM 0xC5#8 f))
theorem sts (f : FmtM) : Statement (.sts f) := of_m (op := 0xC6#8) rfl (congrArg (fun g => some (Instr.sts g)) (fmtM_wordM 0xC6#8 f))
theorem pref (f : FmtM) : Statement (.pref f) := of_m (op := 0xC7#8) rfl (congrArg (fun g => some (Instr.pref g)) (fmtM_wordM 0xC7#8 f))
theorem cbinit (f : FmtM) : Statement (.cbinit f) := of_m (op := 0xC8#8) rfl (congrArg (fun g => some (Instr.cbinit g)) (fmtM_wordM 0xC8#8 f))
theorem cbwaitf (f : FmtM) : Statement (.cbwaitf f) := of_m (op := 0xC9#8) rfl (congrArg (fun g => some (Instr.cbwaitf g)) (fmtM_wordM 0xC9#8 f))
theorem cbwaite (f : FmtM) : Statement (.cbwaite f) := of_m (op := 0xCA#8) rfl (congrArg (fun g => some (Instr.cbwaite g)) (fmtM_wordM 0xCA#8 f))
theorem cbpush (f : FmtM) : Statement (.cbpush f) := of_m (op := 0xCB#8) rfl (congrArg (fun g => some (Instr.cbpush g)) (fmtM_wordM 0xCB#8 f))
theorem cbpop (f : FmtM) : Statement (.cbpop f) := of_m (op := 0xCC#8) rfl (congrArg (fun g => some (Instr.cbpop g)) (fmtM_wordM 0xCC#8 f))
theorem aadd (f : FmtM) : Statement (.aadd f) := of_m (op := 0xCD#8) rfl (congrArg (fun g => some (Instr.aadd g)) (fmtM_wordM 0xCD#8 f))
theorem amin (f : FmtM) : Statement (.amin f) := of_m (op := 0xCE#8) rfl (congrArg (fun g => some (Instr.amin g)) (fmtM_wordM 0xCE#8 f))
theorem amax (f : FmtM) : Statement (.amax f) := of_m (op := 0xCF#8) rfl (congrArg (fun g => some (Instr.amax g)) (fmtM_wordM 0xCF#8 f))
theorem aand (f : FmtM) : Statement (.aand f) := of_m (op := 0xD0#8) rfl (congrArg (fun g => some (Instr.aand g)) (fmtM_wordM 0xD0#8 f))
theorem aor (f : FmtM) : Statement (.aor f) := of_m (op := 0xD1#8) rfl (congrArg (fun g => some (Instr.aor g)) (fmtM_wordM 0xD1#8 f))
theorem axor (f : FmtM) : Statement (.axor f) := of_m (op := 0xD2#8) rfl (congrArg (fun g => some (Instr.axor g)) (fmtM_wordM 0xD2#8 f))
theorem aswp (f : FmtM) : Statement (.aswp f) := of_m (op := 0xD3#8) rfl (congrArg (fun g => some (Instr.aswp g)) (fmtM_wordM 0xD3#8 f))
theorem acas (f : FmtM) : Statement (.acas f) := of_m (op := 0xD4#8) rfl (congrArg (fun g => some (Instr.acas g)) (fmtM_wordM 0xD4#8 f))
theorem afadd (f : FmtM) : Statement (.afadd f) := of_m (op := 0xD5#8) rfl (congrArg (fun g => some (Instr.afadd g)) (fmtM_wordM 0xD5#8 f))
theorem redadd (f : FmtM) : Statement (.redadd f) := of_m (op := 0xD6#8) rfl (congrArg (fun g => some (Instr.redadd g)) (fmtM_wordM 0xD6#8 f))
theorem redfadd (f : FmtM) : Statement (.redfadd f) := of_m (op := 0xD7#8) rfl (congrArg (fun g => some (Instr.redfadd g)) (fmtM_wordM 0xD7#8 f))
theorem redmax (f : FmtM) : Statement (.redmax f) := of_m (op := 0xD8#8) rfl (congrArg (fun g => some (Instr.redmax g)) (fmtM_wordM 0xD8#8 f))
theorem acq (f : FmtM) : Statement (.acq f) := of_m (op := 0xD9#8) rfl (congrArg (fun g => some (Instr.acq g)) (fmtM_wordM 0xD9#8 f))
theorem rel (f : FmtM) : Statement (.rel f) := of_m (op := 0xDA#8) rfl (congrArg (fun g => some (Instr.rel g)) (fmtM_wordM 0xDA#8 f))
theorem fence (f : FmtM) : Statement (.fence f) := of_m (op := 0xDB#8) rfl (congrArg (fun g => some (Instr.fence g)) (fmtM_wordM 0xDB#8 f))
theorem ncinv (f : FmtM) : Statement (.ncinv f) := of_m (op := 0xDC#8) rfl (congrArg (fun g => some (Instr.ncinv g)) (fmtM_wordM 0xDC#8 f))
theorem discard (f : FmtM) : Statement (.discard f) := of_m (op := 0xDD#8) rfl (congrArg (fun g => some (Instr.discard g)) (fmtM_wordM 0xDD#8 f))
theorem flushr (f : FmtM) : Statement (.flushr f) := of_m (op := 0xDE#8) rfl (congrArg (fun g => some (Instr.flushr g)) (fmtM_wordM 0xDE#8 f))
theorem tjoin (f : FmtM) : Statement (.tjoin f) := of_m (op := 0xE0#8) rfl (congrArg (fun g => some (Instr.tjoin g)) (fmtM_wordM 0xE0#8 f))
theorem tleave (f : FmtM) : Statement (.tleave f) := of_m (op := 0xE1#8) rfl (congrArg (fun g => some (Instr.tleave g)) (fmtM_wordM 0xE1#8 f))
theorem markinit (f : FmtM) : Statement (.markinit f) := of_m (op := 0xE2#8) rfl (congrArg (fun g => some (Instr.markinit g)) (fmtM_wordM 0xE2#8 f))
theorem arrive (f : FmtM) : Statement (.arrive f) := of_m (op := 0xE3#8) rfl (congrArg (fun g => some (Instr.arrive g)) (fmtM_wordM 0xE3#8 f))
theorem mwait (f : FmtM) : Statement (.mwait f) := of_m (op := 0xE4#8) rfl (congrArg (fun g => some (Instr.mwait g)) (fmtM_wordM 0xE4#8 f))
theorem arrwait (f : FmtM) : Statement (.arrwait f) := of_m (op := 0xE5#8) rfl (congrArg (fun g => some (Instr.arrwait g)) (fmtM_wordM 0xE5#8 f))
theorem sfrend (f : FmtM) : Statement (.sfrend f) := of_m (op := 0xE6#8) rfl (congrArg (fun g => some (Instr.sfrend g)) (fmtM_wordM 0xE6#8 f))
theorem cpy (f : FmtM) : Statement (.cpy f) := of_m (op := 0xE7#8) rfl (congrArg (fun g => some (Instr.cpy g)) (fmtM_wordM 0xE7#8 f))
theorem cpym (f : FmtM) : Statement (.cpym f) := of_m (op := 0xE8#8) rfl (congrArg (fun g => some (Instr.cpym g)) (fmtM_wordM 0xE8#8 f))
theorem zpack (f : FmtM) : Statement (.zpack f) := of_m (op := 0xE9#8) rfl (congrArg (fun g => some (Instr.zpack g)) (fmtM_wordM 0xE9#8 f))
theorem zunpack (f : FmtM) : Statement (.zunpack f) := of_m (op := 0xEA#8) rfl (congrArg (fun g => some (Instr.zunpack g)) (fmtM_wordM 0xEA#8 f))
theorem coll (f : FmtM) : Statement (.coll f) := of_m (op := 0xEB#8) rfl (congrArg (fun g => some (Instr.coll g)) (fmtM_wordM 0xEB#8 f))
theorem engq (f : FmtM) : Statement (.engq f) := of_m (op := 0xEC#8) rfl (congrArg (fun g => some (Instr.engq g)) (fmtM_wordM 0xEC#8 f))
theorem cropen (f : FmtM) : Statement (.cropen f) := of_m (op := 0xED#8) rfl (congrArg (fun g => some (Instr.cropen g)) (fmtM_wordM 0xED#8 f))
theorem crclose (f : FmtM) : Statement (.crclose f) := of_m (op := 0xEE#8) rfl (congrArg (fun g => some (Instr.crclose g)) (fmtM_wordM 0xEE#8 f))
theorem trap (f : FmtM) : Statement (.trap f) := of_m (op := 0xEF#8) rfl (congrArg (fun g => some (Instr.trap g)) (fmtM_wordM 0xEF#8 f))
theorem task (f : FmtM) : Statement (.task f) := of_m (op := 0xF0#8) rfl (congrArg (fun g => some (Instr.task g)) (fmtM_wordM 0xF0#8 f))
theorem taskdep (f : FmtM) : Statement (.taskdep f) := of_m (op := 0xF1#8) rfl (congrArg (fun g => some (Instr.taskdep g)) (fmtM_wordM 0xF1#8 f))
theorem migr (f : FmtM) : Statement (.migr f) := of_m (op := 0xF2#8) rfl (congrArg (fun g => some (Instr.migr g)) (fmtM_wordM 0xF2#8 f))
theorem xlfence (f : FmtM) : Statement (.xlfence f) := of_m (op := 0xF3#8) rfl (congrArg (fun g => some (Instr.xlfence g)) (fmtM_wordM 0xF3#8 f))
theorem xlinv (f : FmtM) : Statement (.xlinv f) := of_m (op := 0xF4#8) rfl (congrArg (fun g => some (Instr.xlinv g)) (fmtM_wordM 0xF4#8 f))
theorem clock (f : FmtM) : Statement (.clock f) := of_m (op := 0xF5#8) rfl (congrArg (fun g => some (Instr.clock g)) (fmtM_wordM 0xF5#8 f))
theorem perfc (f : FmtM) : Statement (.perfc f) := of_m (op := 0xF6#8) rfl (congrArg (fun g => some (Instr.perfc g)) (fmtM_wordM 0xF6#8 f))
theorem errq (f : FmtM) : Statement (.errq f) := of_m (op := 0xF7#8) rfl (congrArg (fun g => some (Instr.errq g)) (fmtM_wordM 0xF7#8 f))
theorem spanPortRetrain (port rate : Nat) (half : Bool) : Statement (.spanPortRetrain port rate half) := of_none rfl
theorem seamRetrain (seam : Nat) (ok : Bool) : Statement (.seamRetrain seam ok) := of_none rfl
theorem frameOwnerWrite (frame : Nat) (v : BitVec 16) : Statement (.frameOwnerWrite frame v) := of_none rfl
theorem keySlotLoad (die slot : Nat) (wrapped : List (BitVec 8)) : Statement (.keySlotLoad die slot wrapped) := of_none rfl
theorem spdmRequest (fn : Nat) (req : SpdmReq) : Statement (.spdmRequest fn req) := of_none rfl
theorem supplyLoss : Statement .supplyLoss := of_none rfl
theorem holdupManifest : Statement .holdupManifest := of_none rfl
theorem energyReserveReady : Statement .energyReserveReady := of_none rfl
theorem holdupChargeTimeout : Statement .holdupChargeTimeout := of_none rfl
theorem ksConsume : Statement .ksConsume := of_none rfl
theorem dieResetAdvance : Statement .dieResetAdvance := of_none rfl
theorem dieResetDrainDeadline : Statement .dieResetDrainDeadline := of_none rfl
theorem siteList : Statement .siteList := of_none rfl
theorem errCounts : Statement .errCounts := of_none rfl
theorem packetRead : Statement .packetRead := of_none rfl
theorem packetStampRetry : Statement .packetStampRetry := of_none rfl
theorem heldPacketRetry : Statement .heldPacketRetry := of_none rfl
theorem nopPacket : Statement .nopPacket := of_none rfl
theorem launch : Statement .launch := of_none rfl
theorem graph : Statement .graph := of_none rfl
theorem replayPacket : Statement .replayPacket := of_none rfl
theorem replayNodeEntry : Statement .replayNodeEntry := of_none rfl
theorem patch : Statement .patch := of_none rfl
theorem sigsem : Statement .sigsem := of_none rfl
theorem waitsem : Statement .waitsem := of_none rfl
theorem waitsemPoll : Statement .waitsemPoll := of_none rfl
theorem copy : Statement .copy := of_none rfl
theorem fencePacket : Statement .fencePacket := of_none rfl
theorem xlinvPacket : Statement .xlinvPacket := of_none rfl
theorem packetCompletion : Statement .packetCompletion := of_none rfl
theorem placerPlacement : Statement .placerPlacement := of_none rfl
theorem reservedWindowPlace : Statement .reservedWindowPlace := of_none rfl
theorem drainDeadline : Statement .drainDeadline := of_none rfl
theorem checkpointDeadline : Statement .checkpointDeadline := of_none rfl
theorem relocationStart : Statement .relocationStart := of_none rfl
theorem relocationDrained : Statement .relocationDrained := of_none rfl
theorem checkpointDrained : Statement .checkpointDrained := of_none rfl
theorem standingCheckpoint : Statement .standingCheckpoint := of_none rfl
theorem relocationTimeout : Statement .relocationTimeout := of_none rfl
theorem batonForward : Statement .batonForward := of_none rfl
theorem taskCompletion : Statement .taskCompletion := of_none rfl
theorem lapBoundary : Statement .lapBoundary := of_none rfl
theorem engineDispatch : Statement .engineDispatch := of_none rfl
theorem engineCompletion : Statement .engineCompletion := of_none rfl
theorem cbSlotLanded : Statement .cbSlotLanded := of_none rfl
theorem handlerSelect : Statement .handlerSelect := of_none rfl
theorem handlerQuiescence : Statement .handlerQuiescence := of_none rfl
theorem eoiProcessing : Statement .eoiProcessing := of_none rfl
theorem wsrewrite : Statement .wsrewrite := of_none rfl
theorem gamma : Statement .gamma := of_none rfl
theorem planeSwitch : Statement .planeSwitch := of_none rfl
theorem systolicActivation : Statement .systolicActivation := of_none rfl
theorem systolicResult : Statement .systolicResult := of_none rfl
theorem patternIssue : Statement .patternIssue := of_none rfl
theorem loadReply : Statement .loadReply := of_none rfl
theorem writeAck : Statement .writeAck := of_none rfl
theorem portRefusal : Statement .portRefusal := of_none rfl
theorem sideLogReplay : Statement .sideLogReplay := of_none rfl
theorem replayRelease : Statement .replayRelease := of_none rfl
theorem homeRequest : Statement .homeRequest := of_none rfl
theorem backInvalidationAck : Statement .backInvalidationAck := of_none rfl
theorem raceSaturationTimeout : Statement .raceSaturationTimeout := of_none rfl
theorem saturationWaitEnd : Statement .saturationWaitEnd := of_none rfl
theorem walk : Statement .walk := of_none rfl
theorem invalidationBatonAck : Statement .invalidationBatonAck := of_none rfl
theorem invalidationAck : Statement .invalidationAck := of_none rfl
theorem checkCounterHalving : Statement .checkCounterHalving := of_none rfl
theorem stallWatchdog : Statement .stallWatchdog := of_none rfl
theorem trapAction : Statement .trapAction := of_none rfl
theorem containmentUnwind : Statement .containmentUnwind := of_none rfl
theorem regionCommit : Statement .regionCommit := of_none rfl
theorem seamReturnRunning : Statement .seamReturnRunning := of_none rfl
theorem spanReplayLimit : Statement .spanReplayLimit := of_none rfl
theorem spanLaneFailure : Statement .spanLaneFailure := of_none rfl
theorem spanTrainingFail : Statement .spanTrainingFail := of_none rfl
theorem syncUnitOp : Statement .syncUnitOp := of_none rfl
theorem holdupEnergyExhausted : Statement .holdupEnergyExhausted := of_none rfl
theorem spanPortTrained : Statement .spanPortTrained := of_none rfl
theorem engineIssue : Statement .engineIssue := of_none rfl
theorem creditReturn : Statement .creditReturn := of_none rfl
theorem retireMessage : Statement .retireMessage := of_none rfl
theorem cropenMessage : Statement .cropenMessage := of_none rfl

end Sys2Proof.Laws.RoundTrip
end

