-- ==== Sys2Proof/Tests/Slice0.lean ====
section
/-! SUPPORT. Tests of the model's own: well-formedness, decoding, small single steps, and for each statement with
hypotheses a state and operands that meet them. -/

namespace Sys2Proof.Tests

set_option Elab.async false

open Sys2Proof Sys2Proof.Machine Sys2Proof.Safety Sys2Proof.Claims

/-! ### Words and tokens of the tests -/

/-- Both targets none but for output 0. -/
def out : Head := ⟨0, 384, 511⟩

/-- A register word of format A with a type. -/
def fA (t : Ty) : FmtA := ⟨out, t.tag, .regs 0 0 0 0 0 0⟩

/-- A register word of format A with FN. -/
def fAn (t : Ty) (fn : Nat) : FmtA := ⟨out, t.tag, .regs (BitVec.ofNat 6 fn) 0 0 0 0 0⟩

/-- A register word of format A with TYPE2. -/
def fA2 (t u : Ty) : FmtA := ⟨out, t.tag, .regs 0 0 0 u.tag 0 0⟩

/-- An immediate word of format A. -/
def fAi (t : Ty) (v : Nat) : FmtA := ⟨out, t.tag, .imm (BitVec.ofNat 22 v)⟩

/-- A register word of format D with a channel, an index and N15. -/
def fD (t : Ty) (ch idx n : Nat) : FmtD := ⟨out, t.tag, .regs (BitVec.ofNat 3 ch) (BitVec.ofNat 4 idx) (BitVec.ofNat 15 n)⟩

/-- A word of format X. -/
def fX (t : Ty) (i0 i1 mode n : Nat) : FmtX :=
  ⟨out, t.tag, BitVec.ofNat 3 i0, BitVec.ofNat 3 i1, BitVec.ofNat 4 mode, BitVec.ofNat 13 n⟩

/-- A word of format M. -/
def fM (t : Ty) (scope ord idx off : Nat) : FmtM :=
  ⟨out, t.tag, BitVec.ofNat 3 scope, BitVec.ofNat 2 ord, BitVec.ofNat 4 idx, BitVec.ofNat 14 off⟩

/-- A scalar of a type. -/
def sc (t : Ty) (v : Nat) : Token := patTok t v

/-- A vector of a type. -/
def ve (t : Ty) (v : Nat) : Token := Token.vector t.tag 0 (BitVec.ofNat 512 v)

/-- Operands L, R and P of slot 0. -/
def ops (l r p : Option Token) : List (Nat × Token) :=
  (l.map (fun t => (0, t))).toList ++ (r.map (fun t => (128, t))).toList ++ (p.map (fun t => (256, t))).toList

/-- Operand L alone. -/
def opL (l : Token) : List (Nat × Token) := ops (some l) none none

/-- Operands L and R. -/
def opLR (l r : Token) : List (Nat × Token) := ops (some l) (some r) none

/-- Operands L, R and P. -/
def opLRP (l r p : Token) : List (Nat × Token) := ops (some l) (some r) (some p)

/-- The package that is about to issue an instruction, its only lease's running instance holding given operands. -/
def stands (i : Instr) (l : List (Nat × Token)) : State :=
  let w := (encode i).getD 0
  let p := placeFor w
  let s := (State.reset.placeWord w).modPE ⟨1, p.1, p.2⟩ (fun q => { q with inst := q.inst.map (fun n => { n with ops := l }) })
  { s with focus := Focus.slotAt ⟨1, p.1, p.2⟩ 0 }

/-- The same at the MU of the lease. -/
def standsMu (i : Instr) (l : List (Nat × Token)) : State :=
  let s := (State.reset.placeWord 0).modPE ⟨1, 0, 1⟩ (fun q => let p := q.running ((encode i).getD 0)
    { p with inst := p.inst.map (fun n => { n with ops := l }) })
  { s with focus := Focus.slotAt ⟨1, 0, 1⟩ 0 }

/-- Whether an instruction fires in a state, taking positions and checking positions as given, at a site that has a property. -/
def firesIn (i : Instr) (u checked : Site → Uses) (s : State) (q : State → Site → Bool) : Bool :=
  match s.site? with
  | none => false
  | some c => c.present (u c) && c.pe.targetsFree c.lease.plane i.head.t0 i.head.t1 && (c.firstErr (checked c)).isNone
      && !c.squashed i.head && q s c

/-- What `firesIn` shows. -/
theorem firesIn_fires {i : Instr} {u checked : Site → Uses} {s : State} {q : State → Site → Bool} (h : firesIn i u checked s q = true) :
    ∃ c, FiresUsing i (u c) (checked c) s c ∧ q s c = true := by
  unfold firesIn at h
  split at h
  · cases h
  · rename_i c hc
    simp only [Bool.and_eq_true, Bool.not_eq_true', Option.isNone_iff_eq_none] at h
    exact ⟨c, ⟨hc, h.1.1.1.1, h.1.1.1.2, h.1.1.2, h.1.2⟩, h.2⟩

/-- An instruction fires in a state, taking and checking positions as given, at a site that has a property. -/
def MeetsUsing (i : Instr) (u checked : Site → Uses) (s : State) (q : State → Site → Bool) : Prop :=
  ∃ c, FiresUsing i (u c) (checked c) s c ∧ q s c = true

/-- An instruction fires in a state at a site that has a property: the premises of its statement can be met. -/
def MeetsIn (i : Instr) (s : State) (q : State → Site → Bool) : Prop :=
  MeetsUsing i (fun c => c.taken i.uses) (fun c => c.taken i.uses) s q

/-- The same in a package that holds given operands. -/
def Meets (i : Instr) (l : List (Nat × Token)) (q : State → Site → Bool) : Prop := MeetsIn i (stands i l) q

/-- `MeetsUsing` decided by evaluation. -/
theorem meetsUsing {i : Instr} {u checked : Site → Uses} {s : State} {q : State → Site → Bool}
    (h : firesIn i u checked s q = true) : MeetsUsing i u checked s q := firesIn_fires h

/-- `Meets` decided by evaluation. -/
theorem meets {i : Instr} {l : List (Nat × Token)} {q : State → Site → Bool}
    (h : firesIn i (fun c => c.taken i.uses) (fun c => c.taken i.uses) (stands i l) q = true) : Meets i l q := firesIn_fires h

/-- `MeetsIn` decided by evaluation. -/
theorem meetsIn {i : Instr} {s : State} {q : State → Site → Bool}
    (h : firesIn i (fun c => c.taken i.uses) (fun c => c.taken i.uses) s q = true) : MeetsIn i s q := firesIn_fires h

/-- The state with the PE in focus changed. -/
def withPE (s : State) (g : PE → PE) : State := s.modPE s.focus.site g

/-- No property asked. -/
def any : State → Site → Bool := fun _ _ => true

/-- Every instruction of a list fires with the same operands, at a site that has a property. -/
def MeetsAll (l : List Instr) (o : List (Nat × Token)) (q : State → Site → Bool) : Prop := ∀ i ∈ l, Meets i o q

/-- `MeetsAll` decided by evaluation. -/
theorem meetsAll {l : List Instr} {o : List (Nat × Token)} {q : State → Site → Bool}
    (h : l.all (fun i => firesIn i (fun c => c.taken i.uses) (fun c => c.taken i.uses) (stands i o) q) = true) : MeetsAll l o q :=
  fun i hi => meets (List.all_eq_true.mp h i hi)

/-- L is a scalar of a type; and R too. -/
def sL (t : Ty) : State → Site → Bool := fun _ c => (scalarArg c.l t).isSome
def sLR (t u : Ty) : State → Site → Bool := fun _ c => (scalarArg c.l t).isSome && (scalarArg c.r u).isSome
def sLRP (t u v : Ty) : State → Site → Bool := fun _ c =>
  (scalarArg c.l t).isSome && (scalarArg c.r u).isSome && (scalarArg c.p v).isSome

/-- L is a vector of a type; and R too. -/
def vL (t : Ty) : State → Site → Bool := fun _ c => (vecArg c.l t).isSome
def vLR (t u : Ty) : State → Site → Bool := fun _ c => (vecArg c.l t).isSome && (vecArg c.r u).isSome
def vLRP (t u v : Ty) : State → Site → Bool := fun _ c =>
  (vecArg c.l t).isSome && (vecArg c.r u).isSome && (vecArg c.p v).isSome

/-- The site has a port. -/
def hasPort : State → Site → Bool := fun s c => (s.portOf? c.site c.pe.kind).isSome

/-- The targets of the tests' words take an ERR. -/
theorem lands : Lands out := ⟨by decide, by decide, .inl (by decide)⟩

/-- Whether an outcome is a next state. -/
def isNext (o : Host.Outcome State Fault Refusal) : Bool :=
  match o with
  | .next _ => true
  | .fault _ => false
  | .refused _ => false

/-- What `isNext` shows. -/
theorem answers {o : Host.Outcome State Fault Refusal} (h : isNext o = true) : ∃ t, o = .next t := by
  cases o with
  | next t => exact ⟨t, rfl⟩
  | fault _ => cases h
  | refused _ => cases h

/-- The state's site has a property. -/
def SiteHas (s : State) (q : State → Site → Bool) : Prop := ∃ c, s.site? = some c ∧ q s c = true

/-- `SiteHas` decided by evaluation. -/
theorem siteHas {s : State} {q : State → Site → Bool} (h : (s.site?).any (q s) = true) : SiteHas s q := by
  unfold SiteHas
  cases hs : s.site? with
  | none => rw [hs] at h; cases h
  | some c => rw [hs] at h; exact ⟨c, rfl, h⟩

/-- The operands and targets of an instruction are there, and the first ERR among the operands is one with given data. -/
def errIn (i : Instr) (w : Word) : State → Site → Bool := fun _ c => c.present (c.taken i.uses) &&
  c.pe.targetsFree c.lease.plane i.head.t0 i.head.t1 && (c.firstErr (c.taken i.uses)).any (fun e => e.kind = .err && e.low = w)

/-- No region is open and nothing unwinds. -/
def noRegion : State → Site → Bool := fun _ c => c.lease.region.isNone && c.lease.unwind.isNone

/-! ### Well-formedness: a term for each check, which the check refuses -/

/-- An instruction whose fields all pass is well formed. -/
theorem test_wf_accepts : (Instr.add (fA .n32)).wf = true ∧ (Instr.ld (fM .n64 0 0 0 8)).wf = true ∧
    (Instr.doorbell 8191 0).wf = true := by decide

/-- R252, R253, R271: PRED 3; PRED not 0 beside a use of P; a target code that names nothing; a target of an instruction without
a result. -/
theorem test_wf_heads : (Instr.add ⟨⟨3, 384, 511⟩, Ty.n32.tag, .regs 0 0 0 0 0 0⟩).wf = false ∧
    (Instr.addc ⟨⟨1, 384, 511⟩, Ty.n32.tag, .regs 0 0 0 0 0 0⟩).wf = false ∧
    (Instr.add ⟨⟨0, 392, 511⟩, Ty.n32.tag, .regs 0 0 0 0 0 0⟩).wf = false ∧
    (Instr.pref ⟨⟨0, 384, 511⟩, 0, 0, 0, 0, 0⟩).wf = false := by decide

/-- R254 to R256: a reserved TYPE; a TYPE that a row does not accept; a TYPE field that is unused and not 0; a TYPE2 not accepted;
a pair of types of different widths; an immediate where no form has one, or of a type that takes none. -/
theorem test_wf_types : (Instr.add ⟨out, 20, .regs 0 0 0 0 0 0⟩).wf = false ∧ (Instr.add (fA .f32)).wf = false ∧
    (Instr.nop (fD .n8 0 0 0)).wf = false ∧ (Instr.ext (fA2 .n64 .f32)).wf = false ∧ (Instr.vcvt (fA2 .f32 .bf16)).wf = false ∧
    (Instr.bfx (fAi .n32 1)).wf = false ∧ (Instr.add (fAi .a57 1)).wf = false := by decide

/-- R255, R259: RM 5, KSEL without RSR, SAT where unused, must-be-zero bits, an FN too large, a lane past the last, a flag mask
past bit 4. -/
theorem test_wf_bodies : (Instr.fadd ⟨out, Ty.f32.tag, .regs 0 5 0 0 0 0⟩).wf = false ∧
    (Instr.fadd ⟨out, Ty.f32.tag, .regs 0 0 0 0 1 0⟩).wf = false ∧ (Instr.add ⟨out, Ty.n32.tag, .regs 0 0 1 0 0 0⟩).wf = false ∧
    (Instr.add ⟨out, Ty.n32.tag, .regs 0 0 0 0 0 1⟩).wf = false ∧ (Instr.cmp (fAn .n32 6)).wf = false ∧
    (Instr.vextr (fAn .f32 16)).wf = false ∧ (Instr.fflags ⟨out, 0, .imm 32⟩).wf = false := by decide

/-- R276 to R285, R318, R324, R334 to R366: fields of formats D, X and M that a row does not allow. -/
theorem test_wf_fields : (Instr.waitc (fD .s8 0 0 5)).wf = false ∧ (Instr.chstat (fD .s8 0 0 1)).wf = false ∧
    (Instr.mov (fD .s8 1 0 0)).wf = false ∧ (Instr.decide (fD .s8 0 4 0)).wf = false ∧ (Instr.azero (fX .s8 4 0 0 0)).wf = false ∧
    (Instr.macc (fX .s8 1 0 0 0)).wf = false ∧ (Instr.ld (fM .n64 1 0 0 0)).wf = false ∧ (Instr.rel (fM .n64 5 0 0 0)).wf = false ∧
    (Instr.fence (fM .s8 0 0 0 0)).wf = false ∧ (Instr.lds (fM .n64 0 0 2 0)).wf = false ∧ (Instr.perfc (fM .s8 0 0 5 0)).wf = false := by
  decide

/-- R34, R38, R42, R44, R45, R49, R51, R52, R223: numbers that no command or register can carry. -/
theorem test_wf_events : (Instr.doorbell 8192 0).wf = false ∧ (Instr.slchead 8192 0).wf = false ∧ (Instr.stop 8192).wf = false ∧
    (Instr.start 8192).wf = false ∧ (Instr.destroy 8192).wf = false ∧ (Instr.destroyForce 8192).wf = false ∧
    (Instr.spanFlitReceive 16 [] 0).wf = false ∧ (Instr.spanFlitReceive 0 [0, 0, 0] 0).wf = false ∧
    (Instr.spanNak 16 0).wf = false ∧ (Instr.spanPortRetrain 16 0 false).wf = false ∧ (Instr.spanPortRetrain 0 3 false).wf = false ∧
    (Instr.routeTableWrite 64 0).wf = false ∧ (Instr.linkFailure 8 []).wf = false ∧ (Instr.linkTrainingResult 8 true).wf = false ∧
    (Instr.seamModuleLoss 8 1).wf = false ∧ (Instr.seamModuleLoss 0 17).wf = false ∧ (Instr.seamRetrain 4 true).wf = false ∧
    (Instr.registerWrite 128 0 0 0).wf = false ∧ (Instr.registerWrite 0 0 4 0).wf = false ∧ (Instr.siteThresh 256).wf = false := by
  decide

/-! ### Words written out from the layouts of R252 and R254, one or more of every family -/

/-- Groups 0x00 and 0x20 (R276, R286): RECV, KREAD, INVNUM, ADD with an immediate, MUL, CMP with FN 2. -/
theorem test_words_scalar : decodeWord 0x01_003F_F000_0000#56 = .ok (.recv ⟨⟨0, 1, 511⟩, 0, .regs 0 0 0⟩) ∧
    decodeWord 0x0C_107F_F300_0000#56 = .ok (.kread ⟨⟨0, 131, 511⟩, 6, .regs 0 0 0⟩) ∧
    decodeWord 0x12_00BF_F000_0000#56 = .ok (.invnum ⟨⟨0, 5, 511⟩, 0, .regs 0 0 0⟩) ∧
    decodeWord 0x20_301F_F340_0007#56 = .ok (.add ⟨⟨0, 384, 511⟩, 6, .imm 7⟩) ∧
    decodeWord 0x24_007F_F300_0000#56 = .ok (.mul ⟨⟨0, 3, 511⟩, 6, .regs 0 0 0 0 0 0⟩) ∧
    decodeWord 0x3B_20DF_F302_0000#56 = .ok (.cmp ⟨⟨0, 262, 511⟩, 6, .regs 2 0 0 0 0 0⟩) := by decide

/-- Groups 0x40, 0x60 and 0x80 (R293, R304, R312): FADD of f32, VFMA of f32, VXOR of raw512, VTAGSET. -/
theorem test_words_float : decodeWord 0x40_301F_F500_0000#56 = .ok (.fadd ⟨⟨0, 384, 511⟩, 10, .regs 0 0 0 0 0 0⟩) ∧
    decodeWord 0x63_301F_F500_0000#56 = .ok (.vfma ⟨⟨0, 384, 511⟩, 10, .regs 0 0 0 0 0 0⟩) ∧
    decodeWord 0x6A_3FFF_F980_0000#56 = .ok (.vxor ⟨⟨0, 511, 511⟩, 19, .regs 0 0 0 0 0 0⟩) ∧
    decodeWord 0x93_3000_3980_0000#56 = .ok (.vtagset ⟨⟨0, 384, 3⟩, 19, .regs 0 0 0 0 0 0⟩) := by decide

/-- Group 0xA0 (R318): MACC on tile 1 with MODE 2 and N13 3. -/
theorem test_words_matrix : decodeWord 0xA5_3FFF_F010_4003#56 = .ok (.macc ⟨⟨0, 511, 511⟩, 0, 1, 0, 2, 3⟩) := by decide

/-- Groups 0xC0 and 0xE0 (R337, R346, R350, R353, R363): LD with OFF14 8, REL, ARRIVE, COLL, MARKINIT, ARRWAIT and TRAP 48. -/
theorem test_words_memory : decodeWord 0xC0_003F_F300_0008#56 = .ok (.ld ⟨⟨0, 1, 511⟩, 6, 0, 0, 0, 8⟩) ∧
    decodeWord 0xDA_3FFF_F3A0_0000#56 = .ok (.rel ⟨⟨0, 511, 511⟩, 7, 2, 0, 0, 0⟩) ∧
    decodeWord 0xE3_3FFF_F020_4004#56 = .ok (.arrive ⟨⟨0, 511, 511⟩, 0, 2, 0, 1, 4⟩) ∧
    decodeWord 0xEB_3FFF_F000_0000#56 = .ok (.coll ⟨⟨0, 511, 511⟩, 0, 0, 0, 0, 0⟩) ∧
    decodeWord 0xE2_015F_F000_4000#56 = .ok (.markinit ⟨⟨0, 10, 511⟩, 0, 0, 0, 1, 0⟩) ∧
    decodeWord 0xE5_019F_F020_4000#56 = .ok (.arrwait ⟨⟨0, 12, 511⟩, 0, 2, 0, 1, 0⟩) ∧
    decodeWord 0xEF_7FFF_F000_0030#56 = .ok (.trap ⟨⟨1, 511, 511⟩, 0, 0, 0, 0, 48⟩) := by decide

/-- R252, R257: an empty slot, and opcodes that no table assigns. -/
theorem test_words_refused : decodeWord 0 = .error .emptySlot ∧ decodeWord 0x17_003F_F000_0000#56 = .error .unassigned ∧
    decodeWord 0xFF_FFFF_FFFF_FFFF#56 = .error .unassigned := by decide

/-! ### Premises that can be met: the statements about instructions -/

theorem witness_SimpleTokensMove : Meets (.nop (fD .s8 0 0 0)) [] any ∧ Meets (.drop (fD .s8 0 0 0)) (opL (sc .n64 5)) any ∧
    Meets (.mov (fD .s8 0 0 0)) (opL (sc .n64 5)) (fun _ c => c.l.isSome) ∧ Meets (.const ⟨out, Ty.n32.tag, .imm 7⟩) [] any :=
  ⟨meets (by decide +kernel), meets (by decide +kernel), meets (by decide +kernel), meets (by decide +kernel)⟩

/-- The package with the running instance an EOI handler's. -/
def inEoi (i : Instr) : State := withPE (stands i []) (fun p => { p with inst := p.inst.map (fun n => { n with eoi := true }) })

theorem witness_RecvTakesTheHeadAndPeekLeavesIt :
    Meets (.recv (fD .s8 3 0 0)) [] (fun _ c => !c.eoiInput 3 && c.recvTurn 3 && (c.pe.head 3).map Token.kind = some .data) ∧
    Meets (.peek (fD .s8 7 0 0)) [] (fun _ c => !c.eoiInput 7 && (c.pe.head 7).map Token.kind = some .data) ∧
    MeetsIn (.recv (fD .s8 3 0 0)) (inEoi (.recv (fD .s8 3 0 0))) (fun _ c => c.eoiInput 3) ∧
    MeetsIn (.peek (fD .s8 3 0 0)) (inEoi (.peek (fD .s8 3 0 0))) (fun _ c => c.eoiInput 3) :=
  ⟨meets (by decide +kernel), meets (by decide +kernel), meetsIn (by decide +kernel), meetsIn (by decide +kernel)⟩

theorem witness_SteeringChoosesByThePredicate :
    MeetsUsing (.steer (fD .s8 0 0 0)) (fun c => c.taken (Instr.steer (fD .s8 0 0 0)).uses)
      (fun c => onlyP (c.taken (Instr.steer (fD .s8 0 0 0)).uses))
      (stands (.steer (fD .s8 0 0 0)) (ops (some (Token.ofErr 1 false)) none (some (sc .n8 1)))) (fun _ c => c.l.isSome && c.p.isSome) ∧
    SiteHas (stands (.steer (fD .s8 0 0 0)) (ops (some (sc .n8 1)) none (some (Token.ofErr 1 false)))) (errIn (.steer (fD .s8 0 0 0)) 1) ∧
    MeetsUsing (.merge (fD .s8 0 0 0)) (fun _ => ⟨true, false, false⟩) (fun _ => ⟨false, false, false⟩)
      (stands (.merge (fD .s8 0 0 0)) (opL (sc .n8 1))) (fun _ c => c.l.isSome) ∧
    MeetsUsing (.merge (fD .s8 0 0 0)) (fun _ => ⟨false, true, false⟩) (fun _ => ⟨false, false, false⟩)
      (stands (.merge (fD .s8 0 0 0)) (ops none (some (sc .n8 1)) none)) (fun _ c => c.l.isNone && c.r.isSome) ∧
    Meets (.sel (fD .s8 0 0 0)) (opLRP (sc .n8 1) (sc .n64 2) (sc .n8 0)) (fun _ c => c.l.isSome && c.r.isSome && c.p.isSome) :=
  ⟨meetsUsing (by decide +kernel), siteHas (by decide +kernel), meetsUsing (by decide +kernel),
    meetsUsing (by decide +kernel), meets (by decide +kernel)⟩

theorem witness_GatesAndIndicesCount :
    MeetsUsing (.gate (fD .s8 0 2 5)) (fun c => c.taken (Instr.gate (fD .s8 0 2 5)).uses)
      (fun c => onlyP (c.taken (Instr.gate (fD .s8 0 2 5)).uses)) (stands (.gate (fD .s8 0 2 5)) (opL (sc .n8 1))) (fun _ c => c.l.isSome) ∧
    Meets (.iter (fD .n16 0 15 32767)) (opL (sc .n8 1)) any := ⟨meetsUsing (by decide +kernel), meets (by decide +kernel)⟩

theorem witness_KeepRegistersAreReadAndWritten : Meets (.kread (fD .n32 0 15 0)) [] any ∧
    Meets (.kwrite (fD .s8 0 0 0)) (opL (ve .f32 5)) (fun _ c => c.l.isSome) := ⟨meets (by decide +kernel), meets (by decide +kernel)⟩

/-- The package with an empty queue at input 2. -/
def noTokens (i : Instr) : State := withPE (stands i []) (fun p => { p with ins := Vector.replicate 8 ⟨[], 0⟩ })

theorem witness_QueriesReportAndMasksAreSet : Meets (.eoiq (fD .s8 2 0 0)) [] (fun _ c => !c.cfg.inLC 2) ∧
    Meets (.chstat (fD .s8 2 0 16384)) [] any ∧ MeetsIn (.chstat (fD .s8 2 0 0)) (noTokens (.chstat (fD .s8 2 0 0))) (fun _ c =>
      (c.pe.inEnd 2).q = []) ∧ Meets (.chstat (fD .s8 2 0 0)) [] (fun _ c => (c.pe.inEnd 2).q.length = 1) ∧
    Meets (.waitc (fD .s8 2 0 1)) [] (fun _ c => c.waitWant (fD .s8 2 0 1) ≤ c.waitCount (fD .s8 2 0 1)) ∧
    Meets (.waitc (fD .s8 2 0 16388)) [] (fun _ c => c.waitWant (fD .s8 2 0 16388) ≤ c.waitCount (fD .s8 2 0 16388)) ∧
    MeetsAll [.invnum (fD .s8 0 0 0), .siteid (fD .s8 0 0 0), .hmask (fD .s8 0 15 0), .hunmask (fD .s8 0 15 0)] [] any :=
  ⟨meets (by decide +kernel), meets (by decide +kernel), meetsIn (by decide +kernel), meets (by decide +kernel),
    meets (by decide +kernel), meets (by decide +kernel), meetsAll (by decide +kernel)⟩

theorem witness_ControlMessagesAreSent :
    Meets (.emit (fD .s8 7 0 0)) (opL (sc .n64 (2 ^ 57))) (fun _ c => 1 ≤ c.pe.outFree c.lease.plane 7 &&
      (scalarArg c.l .n64).isSome && bitsOf ((c.l.map Token.low).getD 0).toNat 56 8 = 2) ∧
    Meets (.decide (fD .s8 0 3 0)) [] any ∧ Meets (.retire (fD .s8 0 0 0)) [] any ∧
    Meets (.cropen (fM .s8 0 0 1 255)) (opL (sc .n64 0)) (sL .n64) :=
  ⟨meets (by decide +kernel), meets (by decide +kernel), meets (by decide +kernel), meets (by decide +kernel)⟩

/-- The integer instructions of L and R. -/
def int2 (f : FmtA) : List Instr := [.add f, .sub f, .mul f, .mulh f, .div f, .rem f, .min f, .max f, .satadd f, .satsub f, .and f,
  .or f, .xor f, .andn f, .shl f, .shr f, .sar f, .rot f, .cmp f]

/-- The integer instructions of L. -/
def int1 (f : FmtA) : List Instr := [.neg f, .abs f, .clz f, .popc f]

theorem witness_IntegerArithmeticOfTwoOperands : MeetsAll (int2 (fA .s32)) (opLR (sc .s32 (2 ^ 31)) (sc .s32 0)) (sLR .s32 .s32) ∧
    Meets (.div (fAi .n8 0)) (opL (sc .n8 255)) (fun _ c => (scalarArg (c.rOrImm (fAi .n8 0)) .n8).isSome) :=
  ⟨meetsAll (by decide +kernel), meets (by decide +kernel)⟩

theorem witness_PatternAndUnaryIntegerOperations : MeetsAll (int2 (fA .n8)) (opLR (sc .n8 255) (sc .n8 9)) (sLR .n8 .n8) ∧
    MeetsAll (int1 (fA .s64)) (opL (sc .s64 (2 ^ 63))) (sL .s64) := ⟨meetsAll (by decide +kernel), meetsAll (by decide +kernel)⟩

theorem witness_CarriesAndBorrowsChain : MeetsAll [.addc (fA .n64), .subb (fA .n64)] (opLRP (sc .n64 (2 ^ 64 - 1)) (sc .n64 0)
    (sc .n8 1)) (fun s c => sLR .n64 .n64 s c && c.p.isSome) := meetsAll (by decide +kernel)

theorem witness_CompareSendsItsCondition : MeetsAll [.cmp (fAn .s8 0), .cmp (fAn .s8 1), .cmp (fAn .s8 2), .cmp (fAn .s8 3),
    .cmp (fAn .s8 4), .cmp (fAn .s8 5)] (opLR (sc .s8 128) (sc .s8 127)) (sLR .s8 .s8) ∧
    (6 ≤ (fAn .n32 6).body.fn ∧ (fAi .n32 5).body = .imm 5) := ⟨meetsAll (by decide +kernel), by decide⟩

theorem witness_FieldsAndAddresses : Meets (.bfx (fA .n32)) (opLR (sc .n32 255) (sc .n16 (4 + 64 * 4))) (sLR .n32 .n16) ∧
    Meets (.bfi (fA .n32)) (opLRP (sc .n32 255) (sc .n32 1) (sc .n16 (31 + 64 * 64))) (sLRP .n32 .n32 .n16) ∧
    Meets (.ext (fA2 .s64 .n8)) (opL (sc .n8 128)) (sL .n8) ∧
    Meets (.adda (fA .a57)) (opLR (sc .a57 0) (sc .s64 (2 ^ 64 - 1))) (sLR .a57 .s64) ∧
    Meets (.adda (fAi .a57 (2 ^ 22 - 1))) (opL (sc .a57 0)) (sL .a57) ∧
    Meets (.mkaddr (fA .a57)) (opLR (sc .n64 5) (sc .n16 (2 ^ 15))) (sLR .n64 .n16) ∧
    Meets (.mkaddr (fAi .a57 3)) (opL (sc .n64 5)) (sL .n64) ∧ Meets (.dieof (fA .s8)) (opL (sc .a57 (2 ^ 48))) (sL .a57) :=
  ⟨meets (by decide +kernel), meets (by decide +kernel), meets (by decide +kernel), meets (by decide +kernel),
    meets (by decide +kernel), meets (by decide +kernel), meets (by decide +kernel), meets (by decide +kernel)⟩

/-- The float instructions of L, or of L and R. -/
def float2 (f : FmtA) : List Instr := [.fadd f, .fsub f, .fmul f, .fdiv f, .fmin f, .fmax f]
def float1 (f : FmtA) : List Instr := [.fsqrt f, .fneg f, .fabs f, .frnd f, .fexp2 f, .flog2 f, .frcp f, .frsq f]

theorem witness_ScalarFloatArithmeticRoundsOnce : MeetsAll (float2 (fA .f32)) (opLR (sc .f32 0x7F800000) (sc .f32 0xFF800000))
      (fun _ c => (floatArg c.l Ty.f32.tag).isSome && (floatArg c.r Ty.f32.tag).isSome) ∧
    MeetsAll (float1 (fA .bf16)) (opL (sc .bf16 0x3F80)) (fun _ c => (floatArg c.l Ty.bf16.tag).isSome) ∧
    Meets (.ffma (fA .f16)) (opLRP (sc .f16 1) (sc .f16 0x3C00) (sc .f16 0x7E00)) (fun _ c => (floatArg c.l Ty.f16.tag).isSome &&
      (floatArg c.r Ty.f16.tag).isSome && (floatArg c.p Ty.f16.tag).isSome) ∧
    Meets (.fscale (fA .f32)) (opLR (sc .f32 0x3F800000) (sc .s32 (2 ^ 32 - 1))) (fun _ c => (floatArg c.l Ty.f32.tag).isSome &&
      (scalarArg c.r .s32).isSome) :=
  ⟨meetsAll (by decide +kernel), meetsAll (by decide +kernel), meets (by decide +kernel), meets (by decide +kernel)⟩

theorem witness_FloatsAreComparedAndConverted : MeetsAll ((List.range 8).map (fun k => .fcmp (fAn .f32 k)))
      (opLR (sc .f32 0x7FC00000) (sc .f32 0)) (sLR .f32 .f32) ∧ Meets (.fclass (fA .f32)) (opL (sc .f32 1)) (sL .f32) ∧
    Meets (.fcvt (fA2 .f16 .f32)) (opL (sc .f32 0x477FF000)) (sL .f32) ∧
    Meets (.ftoi (fA2 .s32 .f32)) (opL (sc .f32 0x7F800000)) (sL .f32) ∧
    Meets (.itof (fA2 .f16 .s32)) (opL (sc .s32 (2 ^ 31))) (sL .s32) ∧
    Meets (.fflags (fA .s8)) (opL (sc .n8 0)) any ∧ Meets (.fflags (fAi .s8 31)) (opL (sc .n8 0)) any :=
  ⟨meetsAll (by decide +kernel), meets (by decide +kernel), meets (by decide +kernel), meets (by decide +kernel),
    meets (by decide +kernel), meets (by decide +kernel), meets (by decide +kernel)⟩

/-- The vector instructions of L and R, and of L. -/
def vec2 (f : FmtA) : List Instr := [.vadd f, .vsub f, .vmul f, .vmin f, .vmax f]
def vec1 (f : FmtA) : List Instr := [.vabs f, .vneg f]

theorem witness_VectorArithmeticWorksLaneByLane :
    MeetsAll (vec2 (fA .s8) ++ [.vsatadd (fA .s8), .vmulh (fA .s8), .vand (fA .s8), .vor (fA .s8), .vxor (fA .s8), .vshl (fA .s8),
      .vshr (fA .s8), .vsar (fA .s8)]) (opLR (ve .s8 0x80) (ve .s8 0xFF)) (vLR .s8 .s8) ∧
    MeetsAll (vec2 (fA .f32)) (opLR (ve .f32 0x7F800000) (ve .f32 0xFF800000)) (vLR .f32 .f32) ∧
    MeetsAll (vec1 (fA .s16) ++ [.vadd (fAi .s16 5)]) (opL (ve .s16 0x8000)) (vL .s16) ∧
    MeetsAll (vec1 (fA .f32) ++ [.vexp2 (fA .f32), .vlog2 (fA .f32), .vrcp (fA .f32), .vrsq (fA .f32), .vsigm (fA .f32)])
      (opL (ve .f32 0x3F800000)) (vL .f32) ∧
    Meets (.vfma (fA .bf16)) (opLRP (ve .bf16 1) (ve .bf16 2) (ve .bf16 3)) (vLRP .bf16 .bf16 .bf16) :=
  ⟨meetsAll (by decide +kernel), meetsAll (by decide +kernel), meetsAll (by decide +kernel), meetsAll (by decide +kernel),
    meets (by decide +kernel)⟩

theorem witness_VectorsAreComparedDottedAndConverted :
    Meets (.vcmp (fAn .n64 5)) (opLR (ve .n64 1) (ve .n64 1)) (vLR .n64 .n64) ∧
    Meets (.vcmp (fAn .f32 7)) (opLR (ve .f32 1) (ve .f32 1)) (vLR .f32 .f32) ∧
    Meets (.vsel (fA .s8)) (opLRP (ve .s8 1) (ve .s8 2) (sc .n64 1)) (fun s c => vLR .s8 .s8 s c && (scalarArg c.p .n64).isSome) ∧
    Meets (.vdot (fA .s8)) (opLRP (ve .s8 1) (ve .s8 2) (ve .s32 3)) (vLRP .s8 .s8 .s32) ∧
    Meets (.vdot (fA .e4m3)) (opLRP (ve .e4m3 1) (ve .e5m2 2) (ve .f32 3)) (fun _ c => (vecArg c.l .e4m3).isSome &&
      (c.r.bind (dotPartner .e4m3)) = some .e5m2 && (vecArg c.p .f32).isSome) ∧
    Meets (.vcvt (fA2 .bf16 .f16)) (opL (ve .f16 0x7C00)) (vL .f16) ∧
    Meets (.vquant (fA2 .mxe4m3 .f32)) (opL (ve .f32 0x3F800000)) (fun s c => vL .f32 s c && (tyOf Ty.mxe4m3.tag).ff.isSome) ∧
    Meets (.vquant ⟨out, Ty.mxe4m3.tag, .regs 1 0 0 Ty.f32.tag 0 0⟩) (opLR (ve .f32 5) (ve .mxe4m3 1)) (vLR .f32 .mxe4m3) ∧
    Meets (.vdeq (fA2 .f32 .mxe4m3)) (opL (ve .mxe4m3 0x38)) (vL .mxe4m3) ∧
    Meets (.vscale (fA .f32)) (opLR (ve .f32 0x3F800000) (sc .s32 1)) (fun s c => vL .f32 s c && (scalarArg c.r .s32).isSome) ∧
    Meets (.vscale (fA .mxf4)) (opLR (ve .mxf4 1) (sc .s32 1)) (fun s c => vL .mxf4 s c && (scalarArg c.r .s32).isSome) :=
  ⟨meets (by decide +kernel), meets (by decide +kernel), meets (by decide +kernel), meets (by decide +kernel), meets (by decide +kernel),
    meets (by decide +kernel), meets (by decide +kernel), meets (by decide +kernel), meets (by decide +kernel), meets (by decide +kernel),
    meets (by decide +kernel)⟩

theorem witness_LanesMoveAsTold : Meets (.vbcast (fA .f16)) (opL (sc .f16 5)) (sL .f16) ∧
    MeetsAll [.vextr (fAn .n32 15), .vrot (fAn .n32 15)] (opL (ve .n32 5)) (vL .n32) ∧
    Meets (.vins (fAn .n32 15)) (opLR (ve .n32 5) (sc .n32 6)) (fun s c => vL .n32 s c && (scalarArg c.r .n32).isSome) ∧
    Meets (.vshuf (fA .n32)) (opLR (ve .n32 5) (ve .n8 128)) (vLR .n32 .n8) ∧
    MeetsAll [.vslide (fAn .n32 16), .vzip (fAn .n32 1), .vunzip (fAn .n32 1)] (opLR (ve .n32 5) (ve .n32 6)) (vLR .n32 .n32) ∧
    Meets (.vmask (fA .n8)) (opLR (ve .n8 5) (sc .n64 1)) (fun s c => vL .n8 s c && (scalarArg c.r .n64).isSome) :=
  ⟨meets (by decide +kernel), meetsAll (by decide +kernel), meets (by decide +kernel), meets (by decide +kernel),
    meetsAll (by decide +kernel), meets (by decide +kernel)⟩

theorem witness_VectorsArePackedReducedAndCounted : Meets (.vpack (fA2 .bf16 .f32)) (opLR (ve .f32 1) (ve .f32 2)) (vLR .f32 .f32) ∧
    Meets (.vunpack ⟨out, Ty.s16.tag, .regs 1 0 0 Ty.s8.tag 0 0⟩) (opL (ve .s8 0x80)) (vL .s8) ∧
    Meets (.vunpack (fA2 .f32 .bf16)) (opL (ve .bf16 0x80)) (vL .bf16) ∧
    MeetsAll [.vredadd (fA .s16), .vredmax (fA .s16), .vredmin (fA .s16), .vcompress (fA .s16), .vpopc (fA .s16)] (opL (ve .s16 0x8000))
      (vL .s16) ∧
    MeetsAll [.vscan (fAn .s16 0), .vscan (fAn .s16 2)] (opLR (ve .s16 5) (sc .s16 1)) (fun s c => vL .s16 s c && (scalarArg c.r .s16).isSome) ∧
    Meets (.vexpand (fA .s16)) (opLR (ve .s16 5) (sc .n64 4)) (fun s c => vL .s16 s c && (scalarArg c.r .n64).isSome) ∧
    MeetsAll [.vtagq (fA .s8), .vtagset (fA .mxf4)] (opL (ve .mxf4 5)) (fun _ c => (c.l.map Token.vec) = some true) ∧
    Meets (.vtagset (fA .raw512)) (opL (sc .n64 5)) (fun _ c => (c.l.map Token.vec) = some false) :=
  ⟨meets (by decide +kernel), meets (by decide +kernel), meets (by decide +kernel), meetsAll (by decide +kernel),
    meetsAll (by decide +kernel), meets (by decide +kernel), meetsAll (by decide +kernel), meets (by decide +kernel)⟩

theorem witness_ErrorsPassAndPredicatesSquash :
    SiteHas (stands (.add (fA .n32)) (opLR (sc .n32 1) (Token.ofErr 7 false))) (errIn (.add (fA .n32)) 7) ∧
    SiteHas (stands (.add ⟨{ out with pred := 1 }, Ty.n32.tag, .regs 0 0 0 0 0 0⟩) (opLRP (sc .n32 1) (sc .n32 2) (sc .n8 0)))
      (fun _ c => c.squashed { out with pred := 1 } && c.l.isSome && c.r.isSome) ∧ State.reset.site? = none :=
  ⟨siteHas (by decide +kernel), siteHas (by decide +kernel), rfl⟩

/-- One instruction of each shape of operands that the statement names; the premises of the others of that shape are the same. -/
theorem witness_WrongTagsAreAnswered :
    MeetsAll [.add (fA .n32), .neg (fA .n32)] (opLR (ve .n32 1) (sc .n32 2)) (fun _ c => (scalarArg c.l .n32).isNone) ∧
    MeetsAll [.fadd (fA .f32), .fsqrt (fA .f32)] (opLR (sc .n32 1) (sc .f32 2)) (fun _ c => (scalarArg c.l .f32).isNone) ∧
    Meets (.bfi (fA .n32)) (opLRP (ve .n32 1) (sc .n32 2) (sc .n32 1)) (fun _ c => (scalarArg c.l .n32).isNone) ∧
    MeetsAll [.vadd (fA .n32), .vextr (fA .n32)] (opLR (sc .n32 1) (ve .n32 2)) (fun _ c => (vecArg c.l .n32).isNone) ∧
    Meets (.vfma (fA .f32)) (opLRP (sc .f32 1) (ve .f32 2) (sc .n64 0)) (fun _ c => (vecArg c.l .f32).isNone) :=
  ⟨meetsAll (by decide +kernel), meetsAll (by decide +kernel), meets (by decide +kernel), meetsAll (by decide +kernel),
    meets (by decide +kernel)⟩

/-- A drop and a trap with no targets. -/
def dropWord : FmtD := ⟨⟨0, 511, 511⟩, 0, .regs 0 0 0⟩
def trapWord : FmtM := ⟨⟨0, 511, 511⟩, 0, 0, 0, 0, 48⟩

/-- An ERR of cause ECC_UNCORR, in a region open from invocation 0. -/
def contained : State := (stands (.drop dropWord) (opL (Token.ofErr (BitVec.ofNat 64 (16 * 2 ^ 58)) false))).modLease 1 (fun L => { L with
  region := some ⟨1, true, 0, 0, 0, 0, 0, none, false, false⟩ })

theorem witness_DroppedErrorsRaiseTheirTrap :
    SiteHas (stands (.drop dropWord) (opL (Token.ofErr 7 false))) (fun s c => errIn (.drop dropWord) 7 s c && noRegion s c) ∧
    Meets (.trap trapWord) [] noRegion ∧
    SiteHas contained (fun s c => errIn (.drop dropWord) (BitVec.ofNat 64 (16 * 2 ^ 58)) s c && c.lease.region.any (fun r =>
      containable 16 && r.holds 0 && !r.retried) && c.lease.unwind.isNone) :=
  ⟨siteHas (by decide +kernel), meets (by decide +kernel), siteHas (by decide +kernel)⟩

/-- An ADD that fires answers a next state: the frames are about states that are reached. -/
theorem witness_ArithmeticTouchesItsOwnSiteOnly : ∃ f r t, (Instr.add (fA .n32)).row = .a f r ∧
    exec (.add (fA .n32)) (stands (.add (fA .n32)) (opLR (sc .n32 1) (sc .n32 2))) = .next t :=
  have ⟨t, h⟩ := answers (by decide +kernel)
  ⟨_, _, t, rfl, h⟩

theorem witness_IssuingChangesNoByteOfMemory : ∃ t, (Instr.st (fM .n64 0 0 0 0)).row ≠ .event ∧
    exec (.st (fM .n64 0 0 0 0)) (stands (.st (fM .n64 0 0 0 0)) (opLR (sc .a57 64) (sc .n64 5))) = .next t :=
  have ⟨t, h⟩ := answers (by decide +kernel)
  ⟨t, by decide, h⟩

/-! ### Premises that can be met: tiles, memory, synchronisation, engines and system instructions -/

/-- The tile that a word names is free and its owner admits the plane. -/
def tileOpen (f : FmtX) : State → Site → Bool := fun _ c =>
  c.tileFree (FmtX.tile f) && (c.pe.cu.tile (FmtX.tile f)).admits c.lease.plane

/-- The package in which plane 1 owns tile 3. -/
def owned (i : Instr) : State := withPE (stands i []) (fun p => { p with
  cu := p.cu.modTile 3 (fun t => { t with stat := 0xA0 }) })

theorem witness_TilesAreReadWrittenAndOwned : Meets (.azero (fX .s8 3 0 0 0)) [] (tileOpen (fX .s8 3 0 0 0)) ∧
    Meets (.aload (fX .f32 3 0 1 31)) (opL (ve .f32 5)) (fun s c => tileOpen (fX .f32 3 0 1 31) s c && (c.l.map (fun t =>
      t.isVector .f32)) = some true) ∧ Meets (.adrain (fX .s8 3 0 3 31)) [] (tileOpen (fX .s8 3 0 3 31)) ∧
    Meets (.aspill (fX .s8 3 0 1 0)) [] (tileOpen (fX .s8 3 0 1 0)) ∧ Meets (.afill (fX .s8 3 7 0 0)) [] (tileOpen (fX .s8 3 7 0 0)) ∧
    Meets (.aown (fX .s8 3 3 0 0)) [] (tileOpen (fX .s8 3 3 0 0)) ∧
    MeetsIn (.aown (fX .s8 3 0 0 0)) (owned (.aown (fX .s8 3 0 0 0))) (fun _ c => !(c.pe.cu.tile 3).admits c.lease.plane) ∧
    MeetsIn (.azero (fX .s8 3 0 0 0)) (owned (.azero (fX .s8 3 0 0 0))) (fun _ c => c.tileFree 3 && !(c.pe.cu.tile 3).admits c.lease.plane) :=
  ⟨meets (by decide +kernel), meets (by decide +kernel), meets (by decide +kernel), meets (by decide +kernel), meets (by decide +kernel),
    meets (by decide +kernel), meetsIn (by decide +kernel), meetsIn (by decide +kernel)⟩

/-- Weights may be written: no swap is under way and nothing reads the inactive buffer. -/
def weightsOpen : State → Site → Bool := fun _ c => c.pe.cu.wswap.isNone && !c.pe.cu.reads (!c.pe.cu.wact)

theorem witness_WeightsAndBatchesAreSet :
    Meets (.wload (fX .mxf4 0 0 0 31)) (opL (ve .mxf4 5)) (fun s c => weightsOpen s c && (c.l.map (fun t => t.isVector .mxf4)) = some true) ∧
    Meets (.wsparse (fX .bf16 0 0 1 31)) (opLR (ve .bf16 5) (sc .n64 1)) (fun s c => weightsOpen s c && vL .bf16 s c &&
      (scalarArg c.r .n64).isSome) ∧
    Meets (.wscale (fX .n32 1 0 3 127)) (opL (sc .n32 5)) (fun s c => sL .n32 s c && c.pe.cu.wswap.isNone && !c.pe.cu.reads true) ∧
    MeetsAll [.wswap (fX .s8 0 0 0 0), .wswap (fX .s8 0 0 0 8191)] [] (fun _ c => c.pe.cu.wswap.isNone) ∧
    Meets (.macc (fX .s8 0 0 0 8191)) [] (fun _ c => decide (c.pe.cu.batches.length < 4)) ∧
    Meets (.macc (fX .s8 3 0 2 0)) [] (fun _ c => decide (c.pe.cu.batches.length < 4) && (c.pe.cu.tile 3).admits c.lease.plane) ∧
    Meets (.adecay (fX .f32 0 0 0 0)) (opL (sc .f32 0x3F800000)) (fun s c => sL .f32 s c && (List.range 4).all (fun k =>
      !(c.pe.cu.tile k).busy)) ∧ MeetsAll [.mstat (fX .s8 0 0 0 0), .mstat (fX .s8 0 0 1 0)] [] any :=
  ⟨meets (by decide +kernel), meets (by decide +kernel), meets (by decide +kernel), meetsAll (by decide +kernel),
    meets (by decide +kernel), meets (by decide +kernel), meets (by decide +kernel), meetsAll (by decide +kernel)⟩

/-- The package with a fetch slot of the port in a state. -/
def slotIn (i : Instr) (k : Nat) (st : FetchState) : State :=
  (stands i []).modFs 1 k (fun _ => ⟨st, 0, [0, 64], [0, 64], [], 0, false⟩)

/-- The port's fetch slot has this state. -/
def slotIs (k : Nat) (st : FetchState) : State → Site → Bool := fun s c =>
  (s.portOf? c.site c.pe.kind).any (fun p => (p.fs k).st = st)

theorem witness_TilesAreFetchedReleasedAndStreamed :
    Meets (.tfetch (fX .s8 3 7 0 0)) [] (fun s c => hasPort s c && fetchFits (fX .s8 3 7 0 0) s c) ∧
    MeetsIn (.trelease (fX .s8 0 7 0 0)) (slotIn (.trelease (fX .s8 0 7 0 0)) 7 .pinned) (slotIs 7 .pinned) ∧
    MeetsIn (.mstream (fX .s8 0 7 0 0)) (slotIn (.mstream (fX .s8 0 7 0 0)) 7 .pinned) (slotIs 7 .pinned) ∧
    MeetsIn (.mstream (fX .s8 0 7 0 0)) (slotIn (.mstream (fX .s8 0 7 0 0)) 7 .stale) (slotIs 7 .stale) ∧
    Meets (.mstream (fX .s8 0 7 0 0)) [] (slotIs 7 .empty) :=
  ⟨meets (by decide +kernel), meetsIn (by decide +kernel), meetsIn (by decide +kernel), meetsIn (by decide +kernel),
    meets (by decide +kernel)⟩

/-- A request of the tests. -/
def aReq (id : Nat) (op : ReqOp) (va : Nat) (st : ReqStatus) : Req :=
  ⟨id, 0, [], op, va, 8, Ty.n64.tag, false, 0, 0, none, 1, 0, 0, 0, false, none, .none, none, false, false, false, false, st⟩

/-- The running package with one port, with a queue and a side log. -/
def withQueue (q : List Req) (l : List SideEntry) : State :=
  let s := State.reset.placeWord 0
  { s with ports := s.ports.map (fun p => { p with queue := q, sideLog := l }) }

theorem witness_IssuedRequestsQueueAtTheirPort :
    (∃ s p r, s = withQueue [] [] ∧ s.port? 1 = some p ∧ r = aReq 5 .store 64 .sent ∧ (r.op.logged && p.logsPage r.va) = false) ∧
    (∃ s p r, s = withQueue [] [⟨aReq 3 .store 0 (.held 1 false), 255⟩] ∧ s.port? 1 = some p ∧ r = aReq 5 .store 64 .sent ∧
      (r.op.logged && p.logsPage r.va) = true) ∧
    (vaDc (5 * 2 ^ 48) = 5 ∧ vaDc (6 * 2 ^ 48) = 6) :=
  ⟨⟨_, _, _, rfl, rfl, rfl, by decide +kernel⟩, ⟨_, _, _, rfl, rfl, rfl, by decide +kernel⟩, by decide⟩

/-- The port may issue a request of a kind to an aligned effective address of the word. -/
def mayTo (f : FmtM) (op : ReqOp) (size : Nat) : State → Site → Bool := fun s c =>
  match scalarArg c.l .a57, s.portOf? c.site c.pe.kind with
  | some a, some p => let va := wrapN 57 ((a : Int) + f.off.toInt); decide (va % size = 0) && s.mayIssue p op va
  | _, _ => false

theorem witness_LoadsSendOneRequest :
    MeetsAll [.ld (fM .n64 0 0 0 8), .acq (fM .n64 4 0 0 8)] (opL (sc .a57 0)) (mayTo (fM .n64 0 0 0 8) (.load false) 8) ∧
    Meets (.ldv (fM .f32 0 0 0 16320)) (opL (sc .a57 0)) (mayTo (fM .f32 0 0 0 16320) (.load false) 64) ∧
    Meets (.ldro (fM .n8 0 0 0 7)) (opL (sc .a57 0)) (mayTo (fM .n8 0 0 0 7) (.load true) 1) ∧
    Meets (.ldro (fM .f32 0 0 1 64)) (opL (sc .a57 0)) (mayTo (fM .f32 0 0 1 64) (.load true) 64) ∧
    Meets (.lds (fM .raw512 0 0 3 64)) (opLR (sc .a57 0) (sc .n32 64)) (fun s c => mayTo (fM .raw512 0 0 3 64) (.load false) 64 s c &&
      (scalarArg c.r .n32).isSome) ∧
    Meets (.pref (fM .s8 0 0 0 1)) (opL (sc .a57 0)) (fun s c => hasPort s c && (s.portOf? c.site c.pe.kind).any (fun p =>
      s.mayIssue p .pref 0)) :=
  ⟨meetsAll (by decide +kernel), meets (by decide +kernel), meets (by decide +kernel), meets (by decide +kernel), meets (by decide +kernel),
    meets (by decide +kernel)⟩

theorem witness_StoresAndAtomicsSendOneRequest : let f := fM .n64 2 0 0 8
    (∀ x ∈ [(Instr.st f, ReqOp.store), (.rel f, .store), (.redadd f, .reduce .add), (.redmax f, .reduce .max), (.aadd f, .atomic .add),
      (.amin f, .atomic .min), (.amax f, .atomic .max), (.aand f, .atomic .and), (.aor f, .atomic .or), (.axor f, .atomic .xor),
      (.aswp f, .atomic .swap)], Meets x.1 (opLR (sc .a57 0) (sc .n64 5)) (fun s c => mayTo f x.2 8 s c && (scalarArg c.r .n64).isSome)) ∧
    (∀ x ∈ [(Instr.redfadd (fM .f32 2 0 0 8), ReqOp.reduce .fadd), (.afadd (fM .f32 2 0 0 8), .atomic .fadd)],
      Meets x.1 (opLR (sc .a57 0) (sc .f32 5)) (fun s c => mayTo f x.2 4 s c && (scalarArg c.r .f32).isSome)) ∧
    Meets (.stv (fM .raw512 0 0 0 64)) (opLR (sc .a57 0) (ve .f32 5)) (fun s c => mayTo (fM .raw512 0 0 0 64) .store 64 s c &&
      (c.r.map Token.vec) = some true) ∧
    Meets (.acas f) (opLRP (sc .a57 0) (sc .n64 5) (sc .n64 6)) (fun s c => mayTo f (.atomic .cas) 8 s c && (scalarArg c.r .n64).isSome &&
      (scalarArg c.p .n64).isSome) := by
  refine ⟨?_, ?_, meets (by decide +kernel), meets (by decide +kernel)⟩ <;> intro x hx <;>
    simp only [List.mem_cons, List.not_mem_nil, or_false] at hx
  · rcases hx with h | h | h | h | h | h | h | h | h | h | h <;> subst h <;> exact meets (by decide +kernel)
  · rcases hx with h | h <;> subst h <;> exact meets (by decide +kernel)

theorem witness_BadAddressesIssueNothingAndErrorsPoison :
    MeetsAll [.ld (fM .n64 0 0 0 1), .acq (fM .n64 0 0 0 1), .ldv (fM .f32 0 0 0 1)] (opL (sc .a57 0)) (fun _ c =>
      (scalarArg c.l .a57).any (fun a => wrapN 57 ((a : Int) + 1) % 8 ≠ 0)) ∧
    Meets (.st (fM .n64 0 0 0 1)) (opLR (sc .a57 0) (sc .n64 5)) (fun s c => sLR .a57 .n64 s c && (scalarArg c.l .a57).any (fun a =>
      wrapN 57 ((a : Int) + 1) % 8 ≠ 0)) ∧
    SiteHas (stands (.st (fM .n64 0 0 0 8)) (opLR (sc .a57 0) (Token.ofErr 7 false))) (fun s c => errIn (.st (fM .n64 0 0 0 8)) 7 s c &&
      (c.l.map Token.kind) = some .data && mayTo (fM .n64 0 0 0 8) .store 8 s c && noRegion s c) :=
  ⟨meetsAll (by decide +kernel), meets (by decide +kernel), siteHas (by decide +kernel)⟩

/-- The package with descriptor 15 valid: 3 of 5 slots of 1 line filled. -/
def withCb (i : Instr) (l : List (Nat × Token)) : State := withPE (standsMu i l) (fun p => { p with
  mu := p.mu.modCb 15 (fun _ => ⟨2, 3, 0, 4, 0, 0, true, 0, 3, []⟩) })

/-- The descriptor that IDX names is valid, with slots enough. -/
def cbFilled (f : FmtM) : State → Site → Bool := fun s c => hasPort s c && (cbOf c f).valid && decide (f.off.toNat ≤ (cbOf c f).filled.toNat)
def cbFree (f : FmtM) : State → Site → Bool := fun s c => hasPort s c && (cbOf c f).valid && decide (f.off.toNat ≤ (cbOf c f).free.toNat)

theorem witness_ScratchpadAndCircularBuffers :
    Meets (.lds (fM .n16 0 0 0 16382)) (opL (sc .n32 4)) (fun s c => sL .n32 s c && c.spClear s 2 2 && !c.pe.mu.broken 2 2) ∧
    MeetsIn (.lds (fM .n16 0 0 0 8)) (withPE (standsMu (.lds (fM .n16 0 0 0 8)) (opL (sc .n32 0))) (fun p => { p with mu := { p.mu with bad := [8] } })) (fun s c =>
      sL .n32 s c && c.spClear s 8 2 && c.pe.mu.bad.contains 8) ∧
    Meets (.sts (fM .n16 0 0 0 2)) (opLR (sc .n32 (2 ^ 18 - 4)) (sc .n16 9)) (fun s c => sLR .n32 .n16 s c && c.spClear s (2 ^ 18 - 2) 2) ∧
    Meets (.cbinit (fM .s8 0 0 15 0)) (opL (sc .n64 (4096 * 4))) (fun s c => sL .n64 s c && (cbOf c (fM .s8 0 0 15 0)).pend = 0) ∧
    (let f := fM .s8 0 0 15 3
     MeetsIn (.cbwaitf f) (withCb (.cbwaitf f) []) (cbFilled f) ∧ MeetsIn (.cbpop f) (withCb (.cbpop f) (opL (sc .n8 0))) (cbFilled f)) ∧
    (let f := fM .s8 0 0 15 2
     MeetsIn (.cbwaite f) (withCb (.cbwaite f) []) (cbFree f) ∧ MeetsIn (.cbpush f) (withCb (.cbpush f) (opL (sc .n8 0))) (fun s c => cbFree f s c &&
       (cbOf c f).pend = 0)) ∧
    Meets (.cbpop (fM .s8 0 0 15 1)) (opL (sc .n8 0)) (fun _ c => decide ((cbOf c (fM .s8 0 0 15 1)).filled.toNat < 1)) :=
  ⟨meets (by decide +kernel), meetsIn (by decide +kernel), meets (by decide +kernel), meets (by decide +kernel), ⟨meetsIn (by decide +kernel), meetsIn (by decide +kernel)⟩,
    ⟨meetsIn (by decide +kernel), meetsIn (by decide +kernel)⟩, meets (by decide +kernel)⟩

theorem witness_RangesFencesAndRegionsEnd :
    MeetsAll [.discard (fM .s8 0 0 0 64), .flushr (fM .s8 0 0 0 64)] (opLR (sc .a57 0) (sc .n32 0)) (sLR .a57 .n32) ∧
    MeetsAll [.discard (fM .s8 0 0 0 64), .flushr (fM .s8 0 0 0 64)] (opLR (sc .a57 0) (sc .n32 128)) (sLR .a57 .n32) ∧
    MeetsAll [.fence (fM .s8 4 3 0 0), .ncinv (fM .s8 0 0 0 0), .sfrend (fM .s8 0 0 0 0)] (opL (sc .n8 0)) (fun s c => (s.portOf? c.site c.pe.kind).any (fun p =>
      ((s.endSfr p.party).port? p.id).isSome && p.bound && decide (s.sfrOf p.party < 0xFFFFFFFF))) :=
  ⟨meetsAll (by decide +kernel), meetsAll (by decide +kernel), meetsAll (by decide +kernel)⟩

theorem witness_TeamsAndMarksAskTheSyncUnit :
    MeetsAll [.tjoin (fM .s8 0 0 15 0), .tleave (fM .s8 0 0 15 0), .arrive (fM .s8 2 0 15 23), .arrwait (fM .s8 2 0 15 23)] (opL (sc .n8 0)) any ∧
    MeetsAll [.markinit (fM .s8 0 0 15 23), .mwait (fM .s8 2 0 15 23)] (opL (sc .n32 2)) (sL .n32) :=
  ⟨meetsAll (by decide +kernel), meetsAll (by decide +kernel)⟩

/-- The operands of a command, of its length and flags. -/
def cmdOps (w : Nat) : List (Nat × Token) := opLRP (sc .a57 0) (sc .a57 4096) (sc .n64 w)

/-- What the statements about commands ask of the operands; CBDST clear or set. -/
def cmdAsk (op : EngOp) (cb : Bool) : State → Site → Bool := fun s c => (scalarArg c.l .a57).isSome &&
  (scalarArg c.p .n64).any (fun w => w.testBit 36 == cb && (s.queueCheck c.site op (BitVec.ofNat 64 w)).isNone)

theorem witness_EngineInstructionsQueueCommands : let f := fM .s8 2 0 0 0
    Meets (.cpy f) (cmdOps 64) (cmdAsk .cpy false) ∧ Meets (.cpym f) (cmdOps 64) (cmdAsk .cpym false) ∧
    Meets (.zpack f) (cmdOps 64) (cmdAsk .zpack false) ∧ Meets (.zunpack f) (cmdOps 64) (cmdAsk .zunpack false) ∧
    MeetsIn (.cpy f) (withCb (.cpy f) (cmdOps (64 + 31 * 2 ^ 32))) (cmdAsk .cpy true) ∧
    MeetsIn (.cpym f) (withCb (.cpym f) (cmdOps (64 + 31 * 2 ^ 32))) (cmdAsk .cpym true) ∧
    Meets (.coll f) (cmdOps 64) (sLRP .a57 .a57 .n64) ∧
    Meets (.cpy f) (cmdOps (2 ^ 43)) (fun _ c => (scalarArg c.p .n64).any (fun w => w / 2 ^ 43 % 32 ≠ 0)) ∧
    (State.reset.regionAt 1 0 = none) ∧ MeetsAll [.engq (fM .s8 0 0 0 0), .engq (fM .s8 2 1 0 0)] (opL (sc .n8 0)) any :=
  ⟨meets (by decide +kernel), meets (by decide +kernel), meets (by decide +kernel), meets (by decide +kernel), meetsIn (by decide +kernel),
    meetsIn (by decide +kernel), meets (by decide +kernel), meets (by decide +kernel), rfl, meetsAll (by decide +kernel)⟩

/-- The package whose lease has a region open from invocation 0. -/
def inRegion (i : Instr) : State := (stands i []).modLease 1 (fun L => { L with region := some ⟨1, true, 0, 0, 0, 0, 0, none, false, false⟩ })

/-- The package whose region opens at a later invocation. -/
def inRegion9 (i : Instr) : State := (stands i []).modLease 1 (fun L => { L with region := some ⟨1, true, 0, 0, 0, 0, 9, none, false, false⟩ })

/-- An instance in flight with nothing in its way, and the entry that a TASKDEP of its lease names. -/
def air0 : Air := ⟨⟨1, 0, 1⟩, Lease.grant 1 1 0 0 0 0 2 2 false [] [], (Lease.grant 1 1 0 0 0 0 2 2 false [] []).pes.head (by decide +kernel), ⟨0, false, [], [], [], false⟩, ⟨0, 0, .reply⟩, out⟩
def depTask : Task := { launchTask 0 0 0 1 0 0 0 with devl := true }

theorem witness_SystemInstructionsActAndWait_2 :
    (∃ (a : Air) (s : State) (id : Nat), a.free = true ∧ ∀ v ∈ s.invals, v.id ≠ id) ∧
    (∃ (a : Air) (s : State) (l : Word), a.free = true ∧ s.task? (bitsOf l.toNat 12 3) (l.toNat % 4096) = none) ∧
    (∃ (a : Air) (s : State) (l : Word) (x : Task), a.free = true ∧ s.task? (bitsOf l.toNat 12 3) (l.toNat % 4096) = some x ∧
      x.st = .waiting ∧ x.devl = true ∧ x.ctx = a.lease.tid ∧ x.order % 2 ^ 32 = bitsOf l.toNat 16 32) :=
  ⟨⟨air0, State.reset, 0, by decide +kernel, by decide +kernel⟩, ⟨air0, State.reset, 0, by decide +kernel, by decide +kernel⟩,
    ⟨air0, { State.reset with tasks := [depTask] }, 0, depTask, by decide +kernel, by decide +kernel, rfl, rfl, rfl, rfl⟩⟩

theorem witness_SystemInstructionsActAndWait :
    MeetsIn (.crclose (fM .s8 0 0 0 0)) (inRegion9 (.crclose (fM .s8 0 0 0 0))) (fun _ c => c.lease.region.any (fun r => decide (c.pe.inv < r.first))) ∧
    Meets (.crclose (fM .s8 0 0 0 0)) [] (fun _ c => c.lease.region.isNone) ∧
    MeetsIn (.crclose (fM .s8 0 0 0 0)) (inRegion (.crclose (fM .s8 0 0 0 0))) (fun _ c => c.lease.region.any (fun r =>
      decide (r.first ≤ c.pe.inv))) ∧
    MeetsAll [.trap (fM .s8 0 0 0 0), .trap (fM .s8 0 0 0 48), .clock (fM .s8 0 0 0 0), .clock (fM .s8 0 0 0 1), .perfc (fM .s8 0 0 4 255),
      .xlfence (fM .s8 0 0 0 0)] [] any ∧
    MeetsUsing (.errq (fM .s8 0 0 0 0)) (fun c => c.taken (Instr.errq (fM .s8 0 0 0 0)).uses) (fun c => { c.taken (Instr.errq (fM .s8 0 0 0 0)).uses with
      l := false }) (stands (.errq (fM .s8 0 0 0 0)) (opL (Token.ofErr 7 false))) (fun _ c => c.l.isSome) ∧
    Meets (.task (fM .s8 0 0 0 0)) (opLR (sc .a57 0) (sc .n64 0)) (sLR .a57 .n64) ∧
    Meets (.taskdep (fM .s8 0 0 0 7)) (opL (sc .n64 0)) (sL .n64) ∧
    Meets (.migr (fM .s8 0 0 0 3)) (opL (sc .a57 0)) (fun s c => (s.portOf? c.site c.pe.kind).any (fun p => s.mayIssue p (.migr 3) 0)) ∧
    Meets (.xlinv (fM .s8 0 0 0 0)) (opLR (sc .a57 0) (sc .n32 (2 ^ 32 - 1))) (fun s c => sLR .a57 .n32 s c && (s.ctx? c.lease.tid).isSome &&
      (c.cfg.k 0) = 0 && !(s.namedCtxs 1 (some 1)).isEmpty) ∧
    Meets (.xlinv (fM .s8 0 0 0 0)) (opLR (sc .a57 65536) (sc .n32 0)) (fun s c => sLR .a57 .n32 s c && (s.ctx? c.lease.tid).isSome) :=
  ⟨meetsIn (by decide +kernel), meets (by decide +kernel), meetsIn (by decide +kernel), meetsAll (by decide +kernel), meetsUsing (by decide +kernel),
    meets (by decide +kernel), meets (by decide +kernel), meets (by decide +kernel), meets (by decide +kernel), meets (by decide +kernel)⟩

/-! ### Premises that can be met: ERR operands, predicates, tags -/

/-- The targets of the tests' words, under the predicate that bit 0 of P is set. -/
def pOut : Head := { out with pred := 1 }

theorem landsP : Lands pOut := ⟨by decide, by decide, .inl (by decide)⟩

/-- Predicated words of each format. -/
def pD : FmtD := ⟨pOut, Ty.n64.tag, .regs 3 0 1⟩
def pM (idx off : Nat) : FmtM := ⟨pOut, Ty.n64.tag, 0, 0, BitVec.ofNat 4 idx, BitVec.ofNat 14 off⟩
def pX : FmtX := ⟨pOut, Ty.n64.tag, 3, 7, 0, 0⟩

/-- The package about to issue an instruction whose L and R are there, with a predicate. -/
def preds (i : Instr) (p : Token) : State := stands i (opLRP (sc .a57 64) (sc .n64 5) p)

/-- The operands and targets of an instruction are there, none of them is an ERR, and it is squashed. -/
def squashIn (i : Instr) : State → Site → Bool := fun _ c => c.present (c.taken i.uses) &&
  c.pe.targetsFree c.lease.plane i.head.t0 i.head.t1 && (c.firstErr (c.taken i.uses)).isNone && c.squashed i.head

/-- Of every instruction of a list, the premises of passing an ERR on and of being squashed can be met, with a property of the site, in a package
that is changed. -/
def PassAll (l : List Instr) (q : State → Site → Bool) (g : State → State) : Prop := ∀ i ∈ l,
  SiteHas (g (preds i (Token.ofErr 7 false))) (fun s c => errIn i 7 s c && q s c) ∧
  SiteHas (g (preds i (sc .n8 0))) (fun s c => squashIn i s c && q s c)

/-- `PassAll` decided by evaluation. -/
theorem passAll {l : List Instr} {q : State → Site → Bool} {g : State → State} (h : l.all (fun i =>
    ((g (preds i (Token.ofErr 7 false))).site?).any (fun c => errIn i 7 (g (preds i (Token.ofErr 7 false))) c && q (g (preds i (Token.ofErr 7 false))) c) &&
    ((g (preds i (sc .n8 0))).site?).any (fun c => squashIn i (g (preds i (sc .n8 0))) c && q (g (preds i (sc .n8 0))) c)) = true) :
    PassAll l q g := by
  intro i hi
  have := List.all_eq_true.mp h i hi
  rw [Bool.and_eq_true] at this
  exact ⟨siteHas this.1, siteHas this.2⟩

/-- The package whose PE's unit is changed. -/
def withCbs (s : State) : State := withPE s (fun p => { p with mu := p.mu.modCb 15 (fun _ => ⟨2, 3, 0, 4, 0, 0, true, 0, 3, []⟩) })
def withSlot (s : State) : State := s.modFs 1 7 (fun _ => ⟨.pinned, 0, [0, 64], [0, 64], [], 0, false⟩)

theorem witness_ErrorsPassAndPredicatesSquash_d : Lands pOut ∧
    PassAll (plainD.map (fun mk => mk pD)) any id ∧
    PassAll [.recv pD] (fun _ c => !c.eoiInput 3 && !c.feed 3 && c.tokenAt 3 && c.recvTurn 3) id ∧
    PassAll [.peek pD] (fun _ c => c.tokenAt 3) id ∧ PassAll [.waitc pD] (fun _ c => decide (c.waitWant pD ≤ c.waitCount pD)) id ∧
    PassAll [.emit pD] (fun _ c => decide (1 ≤ c.pe.outFree c.lease.plane 3)) id ∧ PassAll [.steer pD, .gate pD, .errq (pM 0 8)] any id :=
  ⟨landsP, passAll (by decide +kernel), passAll (by decide +kernel), passAll (by decide +kernel), passAll (by decide +kernel),
    passAll (by decide +kernel), passAll (by decide +kernel)⟩

/-- A MERGE whose predicate is an ERR. -/
theorem witness_ErrorsPassAndPredicatesSquash_merge :
    SiteHas (stands (.merge pD) (opLRP (sc .n64 1) (sc .n64 2) (Token.ofErr 7 false))) (fun _ c =>
      c.present ⟨c.l.isSome, c.l.isNone, (Instr.merge pD).uses.p⟩ && c.pe.targetsFree c.lease.plane pOut.t0 pOut.t1 && (Instr.merge pD).uses.p
        && c.p.any (fun e => e.kind = .err)) := siteHas (by decide +kernel)

theorem witness_ErrorsPassAndPredicatesSquash_m :
    PassAll (plainM.map (fun mk => mk (pM 0 8))) any id ∧ PassAll ((writesM ++ commandsM).map (fun mk => mk (pM 0 8))) any id ∧
    PassAll [.lds (pM 2 8)] (fun _ _ => FmtM.memBit (pM 2 8)) id ∧
    PassAll [.lds (pM 0 8), .sts (pM 0 8)] (fun s c => !FmtM.memBit (pM 0 8) && (c.spOff (pM 0 8)).all (fun o => c.spClear s o 8)) id ∧
    PassAll [.cbinit (pM 15 3), .cbpop (pM 15 3)] (fun s c => c.spIdle s) id ∧
    PassAll [.cbwaitf (pM 15 3)] (fun s c => c.spIdle s && (c.pe.mu.cb 15).valid && decide (FmtM.cbCount (pM 15 3) ≤ (c.pe.mu.cb 15).filled.toNat)) withCbs ∧
    PassAll [.cbwaite (pM 15 2)] (fun s c => c.spIdle s && (c.pe.mu.cb 15).valid && decide (FmtM.cbCount (pM 15 2) ≤ (c.pe.mu.cb 15).free.toNat)) withCbs ∧
    PassAll [.cbpush (pM 15 3)] (fun s c => c.spIdle s && decide ((c.pe.mu.cb 15).pend = 0)) id :=
  ⟨passAll (by decide +kernel), passAll (by decide +kernel), passAll (by decide +kernel), passAll (by decide +kernel),
    passAll (by decide +kernel), passAll (by decide +kernel), passAll (by decide +kernel), passAll (by decide +kernel)⟩

theorem witness_ErrorsPassAndPredicatesSquash_x :
    PassAll (tilesX.map (fun mk => mk pX)) (fun _ c => c.tileFree 3) id ∧ PassAll [.aown pX, .mstat pX] any id ∧
    PassAll [.wload pX, .wsparse pX, .wswap pX] (fun _ c => loadReady c && c.pe.cu.wswap.isNone) id ∧
    PassAll [.wscale pX] (fun _ c => c.pe.cu.wswap.isNone && !c.pe.cu.reads true) id ∧
    PassAll [.macc pX] (fun _ c => decide (c.pe.cu.batches.length < 4)) id ∧
    PassAll [.adecay pX] (fun _ c => (List.range 4).all (fun k => !(c.pe.cu.tile k).busy)) id ∧
    PassAll [.tfetch pX] (fun s c => fetchFits pX s c) id ∧
    PassAll [.trelease pX, .mstream pX] (slotIs 7 .pinned) withSlot :=
  ⟨passAll (by decide +kernel), passAll (by decide +kernel), passAll (by decide +kernel), passAll (by decide +kernel),
    passAll (by decide +kernel), passAll (by decide +kernel), passAll (by decide +kernel), passAll (by decide +kernel)⟩

/-- The package about to issue an instruction that takes an input whose head is an ERR. -/
def errHead (i : Instr) : State := withPE (stands i []) (fun p => { p with ins := p.ins.set 3 ⟨[Token.ofErr 5 false], 0⟩ })

theorem witness_RecvTakesTheHeadAndPeekLeavesIt_2 :
    MeetsIn (.recv (fD .s8 3 0 0)) (errHead (.recv (fD .s8 3 0 0))) (fun _ c => !c.eoiInput 3 && !c.feed 3 && c.recvTurn 3 &&
      (c.pe.head 3).map Token.kind = some .err) ∧
    Meets (.recv (fD .s8 3 0 0)) [] (fun _ c => !c.eoiInput 3 && !c.feed 3 && c.recvTurn 3 && (c.pe.head 3).map Token.kind = some .data) ∧
    MeetsIn (.peek (fD .s8 3 0 0)) (errHead (.peek (fD .s8 3 0 0))) (fun _ c => !c.eoiInput 3 && (c.pe.head 3).map Token.kind = some .err) ∧
    SiteHas (stands (.sel (fD .s8 0 0 0)) (opLRP (sc .n8 1) (Token.ofErr 7 false) (sc .n8 0))) (errIn (.sel (fD .s8 0 0 0)) 7) :=
  ⟨meetsIn (by decide +kernel), meets (by decide +kernel), meetsIn (by decide +kernel), siteHas (by decide +kernel)⟩

/-- Of every instruction of a list, a property of the site can be met in its own package. -/
def SiteAll (l : List Instr) (w : Instr → State) (q : Instr → State → Site → Bool) : Prop := ∀ i ∈ l, SiteHas (w i) (q i)

/-- `SiteAll` decided by evaluation. -/
theorem siteAll {l : List Instr} {w : Instr → State} {q : Instr → State → Site → Bool}
    (h : l.all (fun i => ((w i).site?).any (q i (w i))) = true) : SiteAll l w q := fun i hi => siteHas (List.all_eq_true.mp h i hi)

theorem witness_BadAddressesIssueNothingAndErrorsPoison_2 : (let f : FmtM := fM .n64 0 0 0 8
    let e := fun (i : Instr) (s : State) (c : Site) => errIn i 7 s c && noRegion s c
    SiteAll ([Instr.st f, .stv f, .rel f, .redadd f, .redfadd f, .redmax f, .discard f, .flushr f, .sts f, .aadd f, .amin f, .amax f, .aand f, .aor f,
      .axor f, .aswp f, .afadd f] ++ commandsM.map (fun mk => mk f))
      (fun i => stands i (opLRP (Token.ofErr 7 false) (sc .n64 5) (sc .n64 6))) (fun i s c => e i s c && isErr c.l) ∧
    SiteAll [Instr.redadd f, .redfadd f, .redmax f, .discard f, .flushr f, .sts f, .aadd f, .amin f, .amax f, .aand f, .aor f, .axor f, .aswp f,
      .afadd f] (fun i => stands i (opLRP (sc .a57 0) (Token.ofErr 7 false) (sc .n64 6))) (fun i s c => e i s c && isErr c.r) ∧
    SiteHas (stands (.sts f) (opLRP (sc .n32 0) (Token.ofErr 7 false) (sc .n64 6))) (fun s c => e (.sts f) s c && isErr c.r &&
      (c.spOff f).all (fun o => c.spClear s o 8))) :=
  ⟨siteAll (by decide +kernel), siteAll (by decide +kernel), siteHas (by decide +kernel)⟩

/-- One word for each shape of operands that are of a wrong tag or class. -/
theorem witness_WrongTagsAreAnswered_2 :
    Meets (.vbcast (fA .n32)) (opL (ve .n32 1)) (fun _ c => (scalarBits c.l .n32).isNone) ∧
    MeetsAll (scalarTwo.map (fun mk => mk (fA .n32))) (opLRP (sc .n32 1) (ve .n32 2) (sc .n32 0)) (fun _ c => (scalarArg c.r .n32).isNone) ∧
    Meets (.ffma (fA .f32)) (opLRP (sc .f32 1) (sc .f32 2) (sc .n64 0)) (fun _ c => (scalarArg c.p .f32).isNone) ∧
    Meets (.bfx (fA .n32)) (opLR (sc .n32 1) (sc .n32 2)) (fun _ c => (scalarArg c.r .n16).isNone) ∧
    Meets (.bfi (fA .n32)) (opLRP (sc .n32 1) (ve .n32 2) (sc .n16 1)) (fun _ c => (scalarArg c.r .n32).isNone) ∧
    Meets (.bfi (fA .n32)) (opLRP (sc .n32 1) (sc .n32 2) (sc .n32 1)) (fun _ c => (scalarArg c.p .n16).isNone) ∧
    MeetsAll [.ext (fA2 .n64 .n32), .fcvt (fA2 .f32 .f16), .ftoi (fA2 .s32 .f32), .itof (fA2 .f32 .s32)] (opL (sc .n8 1)) (fun _ c =>
      (scalarArg c.l .n32).isNone && (scalarArg c.l .f16).isNone && (scalarArg c.l .f32).isNone && (scalarArg c.l .s32).isNone) ∧
    Meets (.adda (fA .n64)) (opLR (sc .n64 1) (sc .s64 2)) (fun _ c => (scalarArg c.l .a57).isNone) ∧
    Meets (.adda (fA .n64)) (opLR (sc .a57 1) (sc .n64 2)) (fun _ c => (fA .n64).body.imm?.isNone && (scalarArg c.r .s64).isNone) ∧
    Meets (.mkaddr (fA .n64)) (opLR (sc .a57 1) (sc .n16 2)) (fun _ c => (scalarArg c.l .n64).isNone) ∧
    Meets (.mkaddr (fA .n64)) (opLR (sc .n64 1) (sc .n32 2)) (fun _ c => (fA .n64).body.imm?.isNone && (scalarArg c.r .n16).isNone) ∧
    Meets (.dieof (fA .n64)) (opL (sc .n64 1)) (fun _ c => (scalarArg c.l .a57).isNone) ∧
    Meets (.fscale (fA .f32)) (opLR (sc .f32 1) (sc .n32 1)) (fun _ c => (scalarArg c.r .s32).isNone) :=
  ⟨meets (by decide +kernel), meetsAll (by decide +kernel), meets (by decide +kernel), meets (by decide +kernel), meets (by decide +kernel),
    meets (by decide +kernel), meetsAll (by decide +kernel), meets (by decide +kernel), meets (by decide +kernel), meets (by decide +kernel),
    meets (by decide +kernel), meets (by decide +kernel), meets (by decide +kernel)⟩

theorem witness_WrongTagsAreAnswered_3 :
    MeetsAll (vectorTwo.map (fun mk => mk (fA .n32))) (opLR (ve .n32 1) (sc .n32 2)) (fun _ c => (vecR (fA .n32) (c.vk (fA .n32) c.r)).isNone) ∧
    MeetsAll [.vfma (fA .f32), .vcmp (fA .f32)] (opLRP (ve .f32 1) (sc .f32 2) (ve .f32 0)) (fun _ c => (vecR (fA .f32) c.r).isNone) ∧
    Meets (.vfma (fA .f32)) (opLRP (ve .f32 1) (ve .f32 2) (sc .f32 0)) (fun _ c => (vecArg (c.vk (fA .f32) c.p) .f32).isNone) ∧
    MeetsAll (vectorOne.map (fun mk => mk (fA .n32))) (opLR (sc .n32 1) (ve .n8 2)) (fun _ c => (vecArg (c.vk (fA .n32) c.l) .n32).isNone) ∧
    Meets (.vsel (fA .n32)) (opLRP (ve .n32 1) (sc .n32 2) (sc .n64 0)) (fun _ c => (vecArg (c.vk (fA .n32) c.r) .n32).isNone) ∧
    Meets (.vsel (fA .n32)) (opLRP (ve .n32 1) (ve .n32 2) (ve .n64 0)) (fun _ c => c.p.map Token.vec = some true) ∧
    Meets (.vdot (fA .s8)) (opLRP (sc .s8 1) (ve .s8 2) (ve .s32 0)) (fun _ c => (vecArg c.l .s8).isNone) ∧
    Meets (.vdot (fA .s8)) (opLRP (ve .s8 1) (sc .s8 2) (ve .s32 0)) (fun _ c => (vecArg c.r .s8).isNone) ∧
    Meets (.vdot (fA .s8)) (opLRP (ve .s8 1) (ve .s8 2) (ve .f32 0)) (fun _ c => (vecArg (c.vk (fA .s8) c.p) .s32).isNone) ∧
    Meets (.vdot (fA .e4m3)) (opLRP (ve .e4m3 1) (ve .f16 2) (ve .f32 0)) (fun _ c => (c.r.bind (dotPartner .e4m3)).isNone) ∧
    Meets (.vdot (fA .e4m3)) (opLRP (ve .e4m3 1) (ve .e4m3 2) (ve .s32 0)) (fun _ c => (vecArg (c.vk (fA .e4m3) c.p) .f32).isNone) :=
  ⟨meetsAll (by decide +kernel), meetsAll (by decide +kernel), meets (by decide +kernel), meetsAll (by decide +kernel), meets (by decide +kernel),
    meets (by decide +kernel), meets (by decide +kernel), meets (by decide +kernel), meets (by decide +kernel), meets (by decide +kernel),
    meets (by decide +kernel)⟩

theorem witness_WrongTagsAreAnswered_4 :
    Meets (.vcvt (fA2 .bf16 .f16)) (opL (ve .f32 1)) (fun _ c => (vecArg (c.vk (fA2 .bf16 .f16) c.l) .f16).isNone) ∧
    MeetsAll [.vdeq (fA2 .f32 .mxf4), .vpack (fA2 .f32 .mxf4), .vunpack (fA2 .f32 .mxf4), .vquant (fA2 .f32 .mxf4)] (opLR (sc .n8 1) (ve .f32 2))
      (fun _ c => (vecArg c.l .mxf4).isNone) ∧
    Meets (.vpack (fA2 .bf16 .f32)) (opLR (ve .f32 1) (ve .f16 2)) (fun _ c => (vecArg c.r .f32).isNone) ∧
    Meets (.vquant ⟨out, Ty.mxe4m3.tag, .regs 1 0 0 Ty.f32.tag 0 0⟩) (opLR (ve .f32 1) (ve .f32 2)) (fun _ c => (vecArg c.r .mxe4m3).isNone) ∧
    Meets (.vscale (fA .f32)) (opLR (ve .f32 1) (sc .n32 2)) (fun _ c => (scalarArg c.r .s32).isNone) ∧
    Meets (.vins (fA .n32)) (opLR (ve .n32 1) (ve .n32 2)) (fun _ c => (scalarBits (c.rOrImm (fA .n32)) .n32).isNone) ∧
    Meets (.vshuf (fA .n32)) (opLR (ve .n32 1) (ve .n16 2)) (fun _ c => (vecArg c.r .n8).isNone) ∧
    MeetsAll [.vslide (fA .n32), .vzip (fA .n32), .vunzip (fA .n32)] (opLR (ve .n32 1) (ve .n16 2)) (fun _ c => (vecArg c.r .n32).isNone) ∧
    MeetsAll [.vmask (fA .n32), .vexpand (fA .n32)] (opLR (ve .n32 1) (sc .n32 2)) (fun _ c => (scalarArg c.r .n64).isNone) ∧
    Meets (.vscan (fAn .s16 0)) (opLR (ve .s16 1) (sc .s32 2)) (fun _ c => (scalarArg c.r .s16).isNone) ∧
    Meets (.vtagset (fA .mxf4)) (opL (sc .n64 5)) (fun _ c => (c.l.map Token.vec) = some false) :=
  ⟨meets (by decide +kernel), meetsAll (by decide +kernel), meets (by decide +kernel), meets (by decide +kernel), meets (by decide +kernel),
    meets (by decide +kernel), meets (by decide +kernel), meetsAll (by decide +kernel), meetsAll (by decide +kernel), meets (by decide +kernel),
    meets (by decide +kernel)⟩

/-- A GATE and a MERGE that are squashed and take an ERR. -/
theorem witness_DroppedErrorsRaiseTheirTrap_2 :
    SiteHas (stands (.gate pD) (ops (some (Token.ofErr 7 false)) none (some (sc .n8 0)))) (fun s c => c.present (c.taken (Instr.gate pD).uses) &&
      c.pe.targetsFree c.lease.plane pOut.t0 pOut.t1 && isErr c.l && !isErr c.p && c.squashed pOut && noRegion s c) ∧
    SiteHas (stands (.merge pD) (ops none (some (Token.ofErr 7 false)) (some (sc .n8 0)))) (fun s c =>
      c.present ⟨c.l.isSome, c.l.isNone, (Instr.merge pD).uses.p⟩ && c.pe.targetsFree c.lease.plane pOut.t0 pOut.t1 && isErr (c.l.or c.r) &&
      !isErr c.p && c.squashed pOut && noRegion s c) := ⟨siteHas (by decide +kernel), siteHas (by decide +kernel)⟩

/-! ### Packages of the tests -/

/-- The package in RUN, 10^8 fabric cycles on, with every link RUNNING and full budgets. -/
def up : State := { State.reset with
  power := .run, supply := true, energyReady := true, fabricStopped := false, uncoreStopped := false
  time := 10 ^ 12, fabric := 10 ^ 8, lap := 10 ^ 5, nextId := 100
  links := Vector.map (fun l => { l with st := .running }) (Link.resetAll 4)
  budgets := [⟨0, 42666, none, 0, []⟩] }

/-- A context of four dies. -/
def ctx1 : Ctx := ⟨1, 1, 1, [0, 1, 2, 3], 100, 0, 1000, 0, 0, 0, 0, 0, none, [], true, false⟩

/-- The package with that context; VAs below 2^30 are mapped to the first GiB of die 0's HBM, whose first frames it owns. -/
def up1 : State := { up with
  ctxs := [ctx1]
  tlb := [⟨0, 64, 1, 1, 0, 0, ⟨0, 0, 2, false, false, 0, false, 0, true, true, true, true, 0, 0⟩⟩]
  owners := [(0, 0x8001), (1, 0x8001), (2, 0x8001)] }

/-- A package that holds up since a cycle. -/
def holding : State := { up1 with power := .holdup, supply := false, everAdmitted := true, fabricStopped := true
                                  holdup := some ⟨5, 0, [⟨1, 0, 0, 8, 0, 0⟩, ⟨1, 0, 8, 8, 1, 0⟩], false⟩ }

/-- The arguments of CTX_CREATE of a second context. -/
def args2 : CtxArgs := ⟨2, 2, 2, [0, 1, 7, 7], 65436, 0, some 1000, 0, 0, 0, false, 12⟩

/-- A start list of context 1 in slot 0, with its ring at VA 0. -/
def list0 : StartList := { slOfArgs ⟨1, 0, 0, 0, 64, 4096, 8192⟩ with tail := 1 }

/-- A task of context 1 in entry 0 of die 0. -/
def task0 : Task :=
  { die := 0, idx := 0, st := .ready, kind := 0, cls := 0, ctx := 1, slid := 0, devl := false, prio := 3, h := 2, w := 2, image := 0
    args := 0, seq := 0, skips := 0, rem := 0, waits := [], itiles := [], otiles := [], bilsis := false, order := 0, tag := 0, crec := false
    csem := false, cmsi := false, vec := 0, pktKind := 1, readyAt := 0, saved := .no, copy := none, cmd := none, firmware := false
    trapTag := 0, replays := [] }

/-- A lease of that task: 2 by 2 sites at the origin. -/
def lease0 : Lease := Lease.grant 1 1 0 0 0 0 2 2 false [] []

/-- The package that runs the task in the lease, with a port at its MU. -/
def running0 : State := { up1 with
  tasks := [{ task0 with st := .running }], leases := [lease0]
  ports := [{ Port.fresh 1 (.mu ⟨1, 0, 1⟩) 0 1 1 1 0 0 false with bucket := 256 }], parties := [⟨1, 0, 0, true, false⟩] }

/-- A manifest of one whole set of no page. -/
def set0 : SetRec := ⟨1, 0, 0, 0, 0, Config.sha384 (setBytes [])⟩
def manifest0 : Manifest := ⟨1, 5, 0, [set0], 0, true⟩

/-- The package with it reported. -/
def reported : State := { up1 with ctxs := [{ ctx1 with admitted := false }], keep := { Keep.reset with areaA := some manifest0 } }

/-- The set is whole: its digest is that of its bytes. -/
theorem reported_whole : reported.keep.whole manifest0 0 = true := by
  show (true && decide (Config.sha384 (setBytes []) = Config.sha384 (setBytes []))) = true
  simp

/-- A set with a saved page that no page of the context maps. -/
def reportedFar : State := { up1 with keep := { Keep.reset with areaA := some manifest0, half0 := [⟨0, 0, 2 ^ 40, false, []⟩] } }

/-- A must-save declaration of one entry at VA 0 (R106). -/
def mustUp : State := { up1 with mem := [(6, 1), (7, 1), (23, 0x40), (24, 1)] }

/-- The package whose page at VA 0 is unbacked on die 0. -/
def unbUp : State := { up1 with
  tlb := [⟨0, 64, 1, 1, 0, 0, ⟨0, 0, 0, false, false, 1, false, 0, true, true, true, true, 4096, 0⟩⟩] }

/-- The package whose lease is parked. -/
def parked0 : State := { running0 with leases := [{ lease0 with parked := some 0 }] }

/-- The package with one start list. -/
def listed : State := { up1 with startLists := [list0] }

/-- A packet of fields, each a byte offset and a value, with the stamps of packet 0. -/
def pktOf (l : List (Nat × Nat)) : BitVec 1024 :=
  BitVec.ofNat 1024 (sumN (((60, 1) :: (124, 1) :: l).map (fun (f : Nat × Nat) => f.2 * 2 ^ (8 * f.1))))

/-- The bytes of a packet at PA 0. -/
def cellsOf (b : BitVec 1024) : List Host.Cell :=
  (List.range 128).filterMap (fun k => if b.extractLsb' (8 * k) 8 = 0 then none else some (k, b.extractLsb' (8 * k) 8))

/-- The start list with a packet in its ring. -/
def ringed (b : BitVec 1024) : State := { listed with mem := cellsOf b }

/-- The start list that holds the packet. -/
def held (b : BitVec 1024) : State := { ringed b with startLists := [{ list0 with held := some ⟨0, b⟩ }] }

/-- The start list after a packet is consumed. -/
def consumed (s : State) : State := ((s.sl? s.focus.slot).map s.consumePacket).getD s

/-- What stands in the start list then. -/
def again (s : State) : StartList := ((consumed s).sl? s.focus.slot).getD list0

/-- The premises of an admission, as a Bool. -/
def enters (s : State) (kind : Nat) (s1 : State) (m : StartList) (p : Packet) : Bool :=
  s.cdRuns && (s.sl? s.focus.slot).any (fun l => decide (l.st = .active) &&
    l.held.any (fun q => pktKind q.body = kind)) && decide (s1.sl? s.focus.slot = some m) &&
    decide (m.held = some p) && pktKind p.body = kind && s1.mayAdmit m p.body

theorem mayEnter {s : State} {kind : Nat} {m : StartList} {p : Packet} (h : enters s kind (consumed s) m p = true) :
    Claims.MayEnter s kind (consumed s) m p := by
  simp only [enters, Bool.and_eq_true, Option.any_eq_true, decide_eq_true_eq] at h
  obtain ⟨⟨⟨⟨⟨a, l, hl, b, q, hq, hk⟩, d⟩, e⟩, f⟩, g⟩ := h
  exact ⟨a, ⟨l, q, hl, b, hq, hk, by simp [consumed, hl]⟩, d, e, f, g⟩

def nopPkt : BitVec 1024 := pktOf []
def launchPkt : BitVec 1024 := pktOf [(0, 1), (8, 0x10000), (16, 0x20000), (24, 2 + 2 * 256)]
def graphPkt : BitVec 1024 := pktOf [(0, 2), (8, 0x10000), (16, 5)]
def replayPkt : BitVec 1024 := pktOf [(0, 3), (8, 5)]
def patchPkt : BitVec 1024 := pktOf [(0, 4), (8, 5 + 8 * 2 ^ 32 + 7 * 2 ^ 40), (64, 0xABCD)]
def sigsemPkt : BitVec 1024 := pktOf [(0, 5), (8, 0x10008), (16, 77)]
def waitsemPkt (v : Nat) : BitVec 1024 := pktOf [(0, 6), (8, 0x10008), (16, v)]
def copyPkt : BitVec 1024 := pktOf [(0, 7), (8, 0x10000), (16, 0x18000), (24, 4096)]
def fencePkt : BitVec 1024 := pktOf [(0, 8)]
def xlinvPkt (n : Nat) : BitVec 1024 := pktOf [(0, 9), (8, 0x10000), (16, n), (24, 1 + 2 ^ 16)]

/-- Graph 5 of context 1, one LAUNCH node. -/
def graph5 : Graph := ⟨1, 5, [launchPkt]⟩

/-- A package that holds a packet and has the graph. -/
def graphed (b : BitVec 1024) : State := { held b with graphs := [graph5] }

/-- A package whose start list has a packet that is complete. -/
def complete0 : State := { listed with
  startLists := [{ list0 with pending := [pendingOf (pktOf [(0, 0x40000400)]) 3 0 0 (some (0, 0))] }]
  focus := { listed.focus with req := 3 } }

/-- A replay whose node has not entered. -/
def replaying : State := { listed with startLists := [{ list0 with nodes := [(0, pktOf [(0, 1), (8, 0x10000), (24, 2 + 2 * 256), (60, 0), (120, 0)])] }] }

/-- A frame of an image (R240), by kind, dx, dy, plane, word and payload. -/
def frameOf (kind dx dy plane word pay : Nat) : BitVec 256 :=
  BitVec.ofNat 256 (pay + (kind * 2 ^ 29 + dx * 2 ^ 22 + dy * 2 ^ 16 + plane * 2 ^ 14 + word * 2 ^ 6) * 2 ^ 224)

/-- An image of 2 by 2 sites, of seven frames: a load pattern feeds the MU's out0, which a handler of that MU takes at in0; every boundary
is an exchange zone. -/
def image0 : List (BitVec 256) :=
  [frameOf 4 0 0 0 0 (0x314C4941 * 2 ^ 192 + 2 ^ 184 + 2 * 2 ^ 176 + 2 * 2 ^ 168 + 2 ^ 160 + 8 * 2 ^ 128),
   frameOf 1 0 1 0 0 ((encode (.recv ⟨⟨0, 511, 511⟩, 0, .regs 0 0 0⟩)).getD 0).toNat,
   frameOf 1 0 1 0 32 (2 ^ 31 + 2 ^ 18),
   frameOf 1 0 1 0 36 (2 ^ 24 + 2 ^ 8),
   frameOf 2 0 1 0 0 (2 ^ 31),
   frameOf 3 1 1 0 48 0,
   frameOf 3 1 1 0 49 (2 ^ (293 - 224) + 2 ^ (292 - 224) + 3 * 2 ^ (281 - 224)),
   frameOf 6 0 0 0 255 (2 ^ 223 + 2 ^ 159)]

/-- Bytes at a place of memory. -/
def cellsAt (a : Nat) (bs : List Byte) : List Host.Cell :=
  (List.range bs.length).filterMap (fun k => if (bs.getD k 0) = 0 then none else some (a + k, bs.getD k 0))

/-- The task that runs `image0`, which stands at VA 0x10000. -/
def taskI : Task := { task0 with image := 0x10000 }

/-- The package with that task READY. -/
def placing : State := { up1 with mem := cellsAt 0x10000 (image0.flatMap (fun f => toBytes 32 f.toNat)), tasks := [taskI] }

/-- The package all of whose sites are holes, with a READY task. -/
def crowded : State := { placing with fuses := { placing.fuses with holes := List.replicate 4 (BitVec.allOnes 64) } }

/-- A focus on a reservation and a lease. -/
def at5 : Focus := { Focus.none with req := 5, site := ⟨1, 0, 0⟩ }

/-- A window reserved for the task. -/
def resv5 : Resv := ⟨5, 0, 0, 0, 0, 2, 2, 0, image0, [], none, [], []⟩

/-- The package with that reservation. -/
def reserved : State := { placing with resvs := [resv5], focus := at5 }

/-- A lease of `image0` on the running task, granted at the origin. -/
def leaseI : Lease := Lease.grant 1 1 0 0 0 0 2 2 false image0 []

/-- The package that runs that lease, with its two ports. -/
def run1 (g : Lease → Lease) : State := { placing with
  tasks := [{ taskI with st := .running }], leases := [g leaseI], focus := at5
  ports := [{ Port.fresh 1 (.mu ⟨1, 0, 1⟩) 0 1 1 1 0 0 true with bucket := 256 }], parties := [⟨1, 0, 0, true, false⟩] }

theorem pair_of_fst {α β : Type} {p : α × β} {a : α} (h : p.1 = a) : p = (a, p.2) := by cases p; cases h; rfl

theorem loads_fresh {s s1 : State} {c : Ctx} {t : Task} {image : Image} (h0 : t.saved = .no)
    (h1 : s.readImage t.ctx t.image = (.ok image, s1)) (h2 : imageStatus image t.firmware s.fuses.nlive = none)
    (h3 : t.w = imageW image) (h4 : t.h = imageH image) (h5 : imageArgs image = 0) :
    s.loadTask c t = (.ok image [] none, s1) := by
  simp [State.loadTask, h0, h1, h2, h3, h4, State.readArgs, h5]

theorem image0_valid : imageStatus image0 false 4 = none := by decide +kernel

theorem placing_reads : (placing.readImage taskI.ctx taskI.image).1 = .ok image0 := by decide +kernel

theorem placing_loads : placing.loadTask ctx1 taskI = (.ok image0 [] none, (placing.readImage taskI.ctx taskI.image).2) :=
  loads_fresh rfl (pair_of_fst placing_reads) image0_valid (by decide +kernel) (by decide +kernel) (by decide +kernel)

/-- A ready queue of one task needs no sorting. -/
theorem readyQueue_one {s : State} {die : Nat} {k : Task}
    (h : s.tasks.filter (fun t => t.die = die && t.st = .ready && t.cmd.isNone) = [k]) : s.readyQueue die = [k] := by
  unfold State.readyQueue
  rw [h, List.mergeSort_singleton]

theorem some_getD {α : Type} {o : Option α} {d : α} (h : o.isSome = true) : o = some (o.getD d) := by
  cases o with
  | none => cases h
  | some a => rfl

/-- The lease of `image0` drained for a job. -/
def drainedL (job : MoveJob) : Lease :=
  { leaseI with move := some ⟨job, 2, 0, 0, none⟩, baton := some job.baton, pes := leaseI.pes.map (fun p => { p with batonDone := true }) }

/-- The package with it. -/
def drained (job : MoveJob) : State := run1 (fun _ => drainedL job)

/-- The record of its checkpoint, and the two writes that store it. -/
def ckRec : Save × State := (drained (.checkpoint none)).makeRecord (drainedL (.checkpoint none))
def ckWrite : Except Nat Unit × State := ckRec.2.cdWrite 1 8192 ckRec.1.bytes false
def ckEntry : Except Nat Unit × State :=
  ckWrite.2.cdWrite 1 64 (dirEntry { taskI with st := .running } ckRec.1.bytes.length) false

/-- The record of its standing checkpoint at VA 0x20000, and the two writes that store it. -/
def stRec : Save × State :=
  ((drained (.standing 0x20000 65536)).forgetStanding 1 0x20000).makeRecord (drainedL (.standing 0x20000 65536))
def stWrite : Except Nat Unit × State := stRec.2.cdWrite 1 0x20000 stRec.1.bytes false
def stInv : Except Nat Unit × State :=
  stWrite.2.cdWrite 1 (wrapN 57 ((0x20000 + stRec.1.bytes.length : Nat) : Int)) (toBytes 8 0) false

/-- The MU of the lease of `image0`, which passes its out0 to its in0. -/
def muPe : PE := (leaseI.pe? 0 1).getD (leaseI.pes.head (by decide +kernel))

/-- The lease with that MU changed. -/
def fabL (g : PE → PE) : Lease := { leaseI with pes := leaseI.pes.map (fun p => if p.dx = 0 ∧ p.dy = 1 then g p else p) }

/-- The package that runs it, with its channel 0 in focus. -/
def fab (g : PE → PE) : State := { run1 (fun _ => fabL g) with focus := { Focus.none with site := ⟨1, 0, 1⟩ } }

def outHas (q : List Token) (p : PE) : PE := { p with outs := p.outs.set 0 ⟨q, 3⟩ }
def inHas (q : List Token) (p : PE) : PE := { p with ins := p.ins.set 0 ⟨q, 1⟩ }
def withInst (i : Instance) (p : PE) : PE := { p with inst := some i }

/-- The MU with an EOI entry h1 too. -/
def withEoi (p : PE) : PE :=
  { p with planes := p.planes.map (fun c => { c with handlers := c.handlers.set 1 (BitVec.ofNat 32 (2 ^ 31 + 2 ^ 27 + 2 ^ 18)) }) }

/-- An instance that has fired its slot and holds an ERR that no slot takes. -/
def instDone : Instance := ⟨0, false, [0], [(200, Token.ofErr 5 false)], [], true⟩

/-- A CFG token of an operation with data. -/
def cfgOf (op d : Nat) : Token := ⟨.cfg, false, Ty.n64.tag, 0, BitVec.ofNat 512 (op * 2 ^ 56 + d)⟩

/-- The CU at the origin of the lease with a token at its in0. -/
def cuL (k : Token) : Lease := { leaseI with pes := leaseI.pes.map (fun p => if p.dx = 0 ∧ p.dy = 0 then inHas [k] p else p) }
def cuS (k : Token) : State := { run1 (fun _ => cuL k) with focus := { Focus.none with site := ⟨1, 0, 0⟩ } }
def cuPe (k : Token) : PE := ((cuL k).pe? 0 0).getD muPe

/-- An image of 2 by 3 sites with a region of one column and two CUs. -/
def imageS : List (BitVec 256) :=
  [frameOf 4 0 0 0 0 (0x314C4941 * 2 ^ 192 + 2 ^ 184 + 2 * 2 ^ 176 + 3 * 2 ^ 168 + 2 ^ 160 + 4 * 2 ^ 128),
   frameOf 4 0 0 0 16 (2 ^ 223 + 2 ^ 200),
   frameOf 0 0 0 0 36 (2 ^ 64 + 2 ^ 47 + 2 ^ 39 + 2 ^ 31 + 2 ^ 15), frameOf 0 0 2 0 36 (2 ^ 64 + 2 ^ 47 + 2 ^ 31)]

/-- Its lease, with the CUs changed, and the package that runs it, with the CU of a row in focus. -/
def sysL (g : PE → PE) : Lease :=
  let L := Lease.grant 1 1 0 0 0 0 2 3 false imageS []
  { L with pes := L.pes.map (fun p => if p.kind = .cu then g p else p) }
def sysS (g : PE → PE) (dy : Nat) : State := { run1 (fun _ => sysL g) with focus := { Focus.none with site := ⟨1, 0, dy⟩ } }
def sysC (g : PE → PE) (dy : Nat) : SysCu := ((sysS g dy).sysCu?).getD ⟨leaseI, muPe, ⟨0, 0, 0, 0⟩, 0, 0⟩

def feeds (p : PE) : PE := { p with ins := p.ins.set 7 ⟨[ve .bf16 1], 0⟩ }
def vec0 : InArray := ⟨false, .vals (Vector.replicate 32 0), none, none⟩
def arrayed (bs : List Batch) (p : PE) : PE := { p with cu := { p.cu with array := [vec0], batches := bs } }

/-- The package with the AG of the lease in focus. -/
def agS : State := { run1 id with focus := { Focus.none with site := ⟨1, 1, 1⟩ } }
def agPe : PE := (leaseI.pe? 1 1).getD muPe
def portI : Port := { Port.fresh 1 (.mu ⟨1, 0, 1⟩) 0 1 1 1 0 0 true with bucket := 256 }
def agPat : BitVec 384 := ((agPe.cfg 0).pats[0]?).getD 0

def gammaTok : Token := cfgOf 3 7
def rewriteTok : Token := cfgOf 2 (5 * 2 ^ 40 + 9)
/-- The lease, CU and token that a unit operation acts on. -/
def unitX (op : Nat) (t : Token) : Lease × PE × Token := ((cuS t).unitOp? op).getD (leaseI, muPe, t)
theorem unitX_of {op : Nat} {t : Token} (h : ((cuS t).unitOp? op).isSome = true) :
    (cuS t).unitOp? op = some ((unitX op t).1, (unitX op t).2.1, (unitX op t).2.2) := some_getD h

/-- Request 7 of the MU's port. -/
def reqI (op : ReqOp) (va : Nat) (dest : Dest) (st : ReqStatus) : Req :=
  ⟨7, errWord 0 0 1 0 0 0 false, [], op, va, 8, Ty.n64.tag, false, 0xABCD, 0, none, 1, 0, 0, 0, false, none, dest, none, false, false, false, false, st⟩

/-- The MU's port with requests in its retire queue, and the package with the port and request 7 in focus. -/
def portQ (rs : List Req) : Port := { portI with queue := rs }
def queued (rs : List Req) : State := { run1 id with ports := [portQ rs], focus := { Focus.none with port := 1, req := 7 } }

def loaded : Req := reqI (.load false) 64 (.chan ⟨1, 0, 1⟩ 0) (.done 0x1234 none)
def prefetched : Req := reqI .pref 64 .none (.done 0 none)
def stored : Req := reqI .store 64 .none (.done 0 none)
def refusedLoad : Req := reqI (.load false) 64 (.chan ⟨1, 0, 1⟩ 0) (.refused 1)
def refusedStore : Req := reqI .store 64 .none (.refused 2)
def clearedLoad : Req := reqI (.load false) 64 (.chan ⟨1, 0, 1⟩ 0) .cleared
def sideEntry : SideEntry := ⟨reqI .store 64 .none .cleared, 0xFF⟩
def sidePort : Port := { portI with sideLog := [sideEntry] }
def sideS : State := { queued [] with ports := [sidePort] }
def sentLoad (va : Nat) : Req := reqI (.load false) va (.chan ⟨1, 0, 1⟩ 0) .sent
def waitingLoad (st : ReqStatus) : Req := reqI .store 64 .none st

/-- A context without a second stage, tables at PA 0x100000 that map the first GiB, and a request that waits for a walk. -/
def ctx0 : Ctx := { ctx1 with vmid := 0 }
def walking (entry : Nat) : State := { queued [reqI (.load false) 64 (.chan ⟨1, 0, 1⟩ 0) .miss] with
  ctxs := [ctx0], tlb := [], roots := [(1, 0, 0x100000)]
  mem := cellsAt 0x100000 (toBytes 8 (0x101000 + 1)) ++ cellsAt 0x101000 (toBytes 8 entry) }

/-- A copy command, its queue, and the engine that runs it. -/
def cmd9 : EngCmd := { copyCmd copyPkt 9 1 0 0 0 with party := 1 }
def queue9 : VQueue := ⟨0, 1, .copy, [⟨9, 0, 4096⟩], 0⟩
def engine9 : Engine := ⟨0, .copy, 0, 1, ⟨9, 0, 4096⟩, 4096, 0, [], [], 0, [⟨0x18000, List.replicate 64 7, none⟩]⟩
def engineDone : Engine := ⟨0, .copy, 0, 1, ⟨9, 0, 4096⟩, 4096, 4096, [], [], 0, []⟩
def portE : Port := { Port.fresh 1 (.engine 0 .copy 0) 0 1 1 1 0 0 false with bucket := 256 }
def copying (g : List Engine) (n : Nat) : State := { up1 with
  cmds := [{ cmd9 with segsLeft := n }], engines := g, ports := [portE], parties := [⟨1, 0, 0, true, false⟩] }
def dispatching : State := { up1 with cmds := [cmd9], vqueues := [queue9], parties := [⟨1, 0, 0, true, false⟩] }

/-- The MU with a slot of its cb0 that an engine has filled. -/
def landedSlot (p : PE) : PE := { p with mu := { p.mu with cbs := p.mu.cbs.set 0 ⟨3, 0, 1, 3, 0, 1, true, 0, 0, [⟨9, true⟩]⟩ } }

/-- A team of one member with a mark that expects arrivals, and messages to its sync unit. -/
def team3 (expect count : Nat) : Team := ⟨1, 3, 0, [⟨⟨1, 0, 1⟩, 0, 0⟩], Vector.replicate 24 ⟨expect, count, 5⟩, [], 0⟩
def msg (op : SyncOp) : SyncMsg := ⟨0, 1, 3, ⟨1, 0, 1⟩, 0, 0, op, 0, []⟩
def teamed (expect count : Nat) : State := { run1 id with teams := [team3 expect count] }

/-- A trap of the lease, of cause PAGE_FAULT_LOAD at its MU. -/
def trapI : Trap := ⟨1, some 1, none, errWord 1 0 1 0 0 0 false, 0x40, 0, 0, false, false, none, none⟩
def trapped (g : Lease → Lease) : State := { run1 g with traps := [trapI] }
def kills : TrapAct × State := ({ trapped id with traps := [] } : State).trapAction ({ taskI with st := .running } : Task).ctx (errCause trapI.err)
def regionI (last : Option Nat) : Region := ⟨2, true, 0, 0, 1, 0, 0, last, false, false⟩
def unwindL (step : Nat) : Lease := { leaseI with region := some (regionI none), unwind := some ⟨errWord 1 0 1 0 0 0 true, step⟩ }
def commitL : Lease := { leaseI with region := some (regionI (some 0)), inv := 1, pes := leaseI.pes.map (fun p => { p with inv := 1 }) }

/-- The package with a link in a state. -/
def linked (k : Nat) (g : Link → Link) : State := { up1 with links := up1.links.mapIdx (fun i l => if i = k then g l else l) }

/-- The package with every span port in a state, port 3 in focus. -/
def spanned (g : SpanPort → SpanPort) : State := { up1 with spans := up1.spans.map g, focus := { Focus.none with port := 3 } }
def upSpan (p : SpanPort) : SpanPort := { p with st := .up }
def trainingSpan (p : SpanPort) : SpanPort := { p with st := .training }
def noisySpan (p : SpanPort) : SpanPort := { p with st := .up, window := List.replicate 65 up1.ticks }
/-- A data flit with SEQ 0 and nothing else, and its CRC. -/
def flit1 : BitVec 2048 := BitVec.ofNat 2048 (0x8F9AC665 * 2 ^ 2016)

/-- The CRC register over 21 more bytes of zeros. -/
def zeros21 (c : BitVec 32) : BitVec 32 := (List.replicate 21 (0 : Byte)).foldl crcByte c

theorem crc_0 : zeros21 0xFFFFFFFF#32 = 0x2E5CDF7D#32 := by decide +kernel
theorem crc_1 : zeros21 0x2E5CDF7D#32 = 0x20EB09D8#32 := by decide +kernel
theorem crc_2 : zeros21 0x20EB09D8#32 = 0xD8A4AAE8#32 := by decide +kernel
theorem crc_3 : zeros21 0xD8A4AAE8#32 = 0x91A8CCD1#32 := by decide +kernel
theorem crc_4 : zeros21 0x91A8CCD1#32 = 0x944CDF61#32 := by decide +kernel
theorem crc_5 : zeros21 0x944CDF61#32 = 0x3B59D4AF#32 := by decide +kernel
theorem crc_6 : zeros21 0x3B59D4AF#32 = 0x4A5EA896#32 := by decide +kernel
theorem crc_7 : zeros21 0x4A5EA896#32 = 0xD6C3688F#32 := by decide +kernel
theorem crc_8 : zeros21 0xD6C3688F#32 = 0xBE5D5553#32 := by decide +kernel
theorem crc_9 : zeros21 0xBE5D5553#32 = 0x2F908481#32 := by decide +kernel
theorem crc_10 : zeros21 0x2F908481#32 = 0xA0152602#32 := by decide +kernel
theorem crc_11 : zeros21 0xA0152602#32 = 0x7065399A#32 := by decide +kernel

theorem zeros_split (n : Nat) (c : BitVec 32) :
    (List.replicate (21 + n) (0 : Byte)).foldl crcByte c = (List.replicate n (0 : Byte)).foldl crcByte (zeros21 c) := by
  rw [← List.replicate_append_replicate, List.foldl_append]; rfl

theorem flit1_ok : flitOk flit1 = true := by
  unfold flitOk crc32
  rw [show toBytes 252 flit1.toNat = List.replicate (21 + (21 + (21 + (21 + (21 + (21 + (21 + (21 + (21 + (21 + (21 + (21 + 0)))))))))))) 0
    from by decide +kernel]
  simp only [zeros_split, crc_0, crc_1, crc_2, crc_3, crc_4, crc_5, crc_6, crc_7, crc_8, crc_9, crc_10, crc_11, List.replicate_zero, List.foldl_nil]
  decide +kernel

/-- A reset of die 0 at a step. -/
def resetting (step : Nat) : State := { up1 with resets := [⟨0, step, 0⟩] }

/-! ### Premises that can be met: the statements about events -/

def wPower4s : State := { up with everAdmitted := true }

def wPower5s : State := { up with energyReady := false, waitingCreates := [args2] }

def wPower6s : State := { up with energyReady := false, waitingCreates := [args2] }

theorem witness_PowerComesAndGoes :
    (∃ (s : State), s.power = .off) ∧
    (∃ (s : State), s.power = .off) ∧
    (∃ (s : State), s.power ≠ .off) ∧
    (∃ (s : State), (s.power = .boot ∨ (s.power = .run ∧ s.everAdmitted = false))) ∧
    (∃ (s : State), s.power = .run ∧ s.everAdmitted = true ∧ s.supply = true) :=
  ⟨⟨State.reset, by decide +kernel⟩,
    ⟨State.reset, by decide +kernel⟩,
    ⟨up, by decide +kernel⟩,
    ⟨up, by decide +kernel⟩,
    ⟨wPower4s, by decide +kernel⟩⟩

theorem witness_PowerComesAndGoes_2 :
    (∃ (s : State), s.power = .run ∧ s.energyReady = false) ∧
    (∃ (s : State), s.power = .run ∧ s.energyReady = false ∧ s.holdupFailed = false ∧ s.bootEnd + 30000000000 ≤ s.ticks) :=
  ⟨⟨wPower5s, by decide +kernel⟩,
    ⟨wPower6s, by decide +kernel⟩⟩

def wHold0s : State := { up1 with supply := false, everAdmitted := true }

theorem witness_AHoldUpSavesAndRestores :
    (∃ (s : State), s.power = .run ∧ s.supply = false ∧ s.everAdmitted = true ∧ s.lossAt + 2000 ≤ s.ticks) ∧
    (∃ (s : State) (h : _), s.power = .holdup ∧ s.holdup = some h ∧ h.low = false) ∧
    (∃ (s : State) (h : _), s.power = .holdup ∧ s.holdup = some h) ∧
    (∃ (s : State) (h : _), s.power = .holdup ∧ s.holdup = some h) ∧
    (∃ (s : State), s.power = .run) :=
  ⟨⟨wHold0s, by decide +kernel⟩,
    ⟨holding, ⟨5, 0, [⟨1, 0, 0, 8, 0, 0⟩, ⟨1, 0, 8, 8, 1, 0⟩], false⟩, by decide +kernel⟩,
    ⟨holding, ⟨5, 0, [⟨1, 0, 0, 8, 0, 0⟩, ⟨1, 0, 8, 8, 1, 0⟩], false⟩, by decide +kernel⟩,
    ⟨holding, ⟨5, 0, [⟨1, 0, 0, 8, 0, 0⟩, ⟨1, 0, 8, 8, 1, 0⟩], false⟩, by decide +kernel⟩,
    ⟨reported, by decide +kernel⟩⟩

theorem witness_AHoldUpSavesAndRestores_2 :
    (∃ (s : State) (set : _) (tid : _) (c : _) (m : Manifest), s.power = .run ∧ s.ctx? tid = some c ∧ s.keep.reported = some m ∧ s.keep.whole m set = true ∧ (∀ p ∈ s.keep.pagesOf m set, s.mapped c p.va = true) ∧ s.hasWork tid = false) ∧
    (∃ (s : State) (set : _) (tid : _) (c : _) (m : Manifest), s.power = .run ∧ s.ctx? tid = some c ∧ s.keep.reported = some m ∧ (∃ p ∈ s.keep.pagesOf m set, s.mapped c p.va = false)) ∧
    (∃ (s : State) (tid : _) (c : _) (i : _), s.power = .run ∧ s.ctx? tid = some c ∧ c.closing = false ∧ s.freeEntry (s.entryDie c [] []) = some i) ∧
    (∃ (s : State) (a : FwArgs) (c : _) (d : _) (i : _), s.power = .run ∧ s.ctx? a.tid = some c ∧ c.closing = false ∧ s.entryDie c (a.itiles ++ List.replicate (8 - a.itiles.length) 0) (a.otiles ++ List.replicate (4 - a.otiles.length) 0) = d ∧ s.freeEntry d = some i) :=
  ⟨⟨reported, 0, 1, { ctx1 with admitted := false }, manifest0, ⟨rfl, rfl, rfl, reported_whole, by decide +kernel, by decide +kernel⟩⟩,
    ⟨reportedFar, 0, 1, ctx1, manifest0, ⟨rfl, rfl, rfl, by decide +kernel⟩⟩,
    ⟨up1, 1, ctx1, 0, by decide +kernel⟩,
    ⟨up1, ⟨1, 0, 0, 0, 2, 2, 3, 0, false, [], []⟩, ctx1, 0, 0, by decide +kernel⟩⟩

theorem witness_AHoldUpSavesAndRestores_3 :
    (∃ (m : Manifest) (set : _) (r : SetRec), m.sets.find? (fun r => r.seq = set) = some r) ∧
    (∃ (m : Manifest) (set : _) (r : SetRec), m.sets.find? (fun r => r.seq = set) = some r ∧ m.valid = false) ∧
    (∃ (m : Manifest) (set : _) (r : SetRec), m.sets.find? (fun r => r.seq = set) = some r ∧ m.valid = true ∧ r.st = 2) ∧
    (∃ (m : Manifest) (set : _) (r : SetRec), m.sets.find? (fun r => r.seq = set) = some r ∧ m.valid = true ∧ r.st = 1) ∧
    (∃ (k : Keep) (m : Manifest) (r : SetRec), k.reported = some m ∧ r ∈ m.sets) :=
  ⟨⟨manifest0, 0, set0, rfl⟩, ⟨{ manifest0 with valid := false }, 0, set0, rfl, rfl⟩,
    ⟨{ manifest0 with sets := [{ set0 with st := 2 }] }, 0, { set0 with st := 2 }, rfl, rfl, rfl⟩,
    ⟨{ manifest0 with sets := [{ set0 with st := 1 }] }, 0, { set0 with st := 1 }, rfl, rfl, rfl⟩,
    ⟨reported.keep, manifest0, set0, rfl, List.mem_singleton.mpr rfl⟩⟩

def wCtx1s : State := { up with energyReady := false }

def wCtx2s : State := { up with energyReady := false, holdupFailed := true }

def wCtx3s : State := { up with ctxs := List.replicate 1024 ctx1 }

theorem witness_ContextsAreMadeChangedAndDestroyed :
    (∃ (s : State) (a : CtxArgs), s.power = .run ∧ s.energyReady = true ∧ a.decl = false ∧ s.ctxs.length < 1024 ∧ a.tid < 1024 ∧ s.ctx? a.tid = none ∧ s.diemapOk a.diemap = true ∧ a.pace ≠ 0 ∧ s.sumOthers a.tid Ctx.pace + a.pace ≤ 65536 ∧ s.sumOthers a.tid Ctx.unbways + a.unbways ≤ 12) ∧
    (∃ (s : State), s.power = .run ∧ s.energyReady = false ∧ s.holdupFailed = false) ∧
    (∃ (s : State) (a : CtxArgs), s.power = .run ∧ s.energyReady = false ∧ s.holdupFailed = true ∧ s.ctxs.length < 1024 ∧ a.tid < 1024 ∧ s.ctx? a.tid = none) ∧
    (∃ (s : State), s.power = .run ∧ s.energyReady = true ∧ 1024 ≤ s.ctxs.length) ∧
    (∃ (s : State) (tid : _) (pace : _) (c : _), s.power = .run ∧ s.ctx? tid = some c ∧ pace ≠ 0 ∧ s.sumOthers tid Ctx.pace + pace ≤ 65536) :=
  ⟨⟨up1, args2, by decide +kernel⟩,
    ⟨wCtx1s, by decide +kernel⟩,
    ⟨wCtx2s, args2, by decide +kernel⟩,
    ⟨wCtx3s, by decide +kernel⟩,
    ⟨up1, 1, 65536, ctx1, by decide +kernel⟩⟩

theorem witness_ContextsAreMadeChangedAndDestroyed_2 :
    (∃ (s : State) (tid : _) (pace : _) (c : _), s.power = .run ∧ s.ctx? tid = some c ∧ (pace = 0 ∨ 65536 < s.sumOthers tid Ctx.pace + pace)) ∧
    (∃ (s : State) (tid : _), s.power = .run ∧ s.ctx? tid = none) ∧
    (∃ (s : State) (tid : _) (vdie : _) (die : _) (c : _), s.power = .run ∧ s.ctx? tid = some c ∧ vdie < 4 ∧ s.diemapOk (c.diemap.set vdie die) = true ∧ (c.diemap[vdie]? = some 7 ∨ (∃ d, c.diemap[vdie]? = some d ∧ s.usesDie tid d = false))) ∧
    (∃ (s : State), s.power = .run) ∧
    (∃ (s : State) (tid : _) (c : _), s.power = .run ∧ s.ctx? tid = some c) :=
  ⟨⟨up1, 1, 65537, ctx1, by decide +kernel⟩,
    ⟨up1, 2, by decide +kernel⟩,
    ⟨up1, 1, 3, 7, ctx1, by decide +kernel⟩,
    ⟨up1, by decide +kernel⟩,
    ⟨up1, 1, ctx1, by decide +kernel⟩⟩

theorem witness_ContextsAreMadeChangedAndDestroyed_3 :
    (∃ (s : State) (s1 : State) (tid : _) (c : _) (m : MustSave), s.power = .run ∧ s.ctx? tid = some c ∧ s.readMustSave tid c.mustsave = (.ok m, s1)) ∧
    (∃ (s : State) (s1 : State) (tid : _) (c : _) (e : _), s.power = .run ∧ s.ctx? tid = some c ∧ s.readMustSave tid c.mustsave = (.error e, s1)) ∧
    (∃ (s : State) (a : SlArgs) (c : _), s.power = .run ∧ s.ctx? a.tid = some c ∧ c.closing = false ∧ c.slots.length < 8 ∧ slSizeOk a.size = true ∧ a.fn < 128 ∧ a.slot < 64 ∧ s.sl? (64 * a.fn + a.slot) = none) ∧
    (∃ (s : State) (tid : _) (c : _), s.power = .run ∧ s.ctx? tid = some c ∧ c.slots = [] ∧ (∀ x ∈ s.tasks, x.ctx ≠ tid) ∧ (∀ L ∈ s.leases, L.tid ≠ tid) ∧ (∀ x ∈ s.cmds, x.tid ≠ tid) ∧ (∀ l ∈ s.startLists, l.tid ≠ tid)) :=
  ⟨⟨mustUp, (mustUp.readMustSave 1 0).2, 1, ctx1, ⟨1, [(1, 0, 0, 0, 1)], 69632⟩, ⟨rfl, rfl, pair_of_fst (by decide +kernel)⟩⟩,
    ⟨up1, (up1.readMustSave 1 0).2, 1, ctx1, 9, ⟨rfl, rfl, pair_of_fst (by decide +kernel)⟩⟩,
    ⟨up1, ⟨1, 127, 63, 0, 65536, 0, 0⟩, ctx1, by decide +kernel⟩,
    ⟨up1, 1, ctx1, by decide +kernel⟩⟩

def wBilsis7s : State := { up1 with retired := [(127, 63)] }

def wBilsis8s : State := { up1 with errCounts := [(0, 0, 1, 0)] }

theorem witness_BudgetsPoolsSitesAndRoutesAreSet :
    (∃ (s : State) (die : _) (b : _), s.power = .run ∧ 1 ≤ b ∧ b ≤ 42666 ∧ die < s.fuses.nlive) ∧
    (∃ (s : State) (tid : _) (pool : _) (pa : _) (big : _) (c : _), s.power = .run ∧ s.ctx? tid = some c ∧ pool < 32 ∧ pa % (if big then 2 ^ 21 else 65536) = 0 ∧ s.validPa pa = true ∧ (locOf pa).kind = .hbm ∧ paPkg pa = s.pkgNo ∧ (∀ p, s.pools.find? (fun p => p.tid = tid && p.pool = pool) = some p → p.frames = [] ∨ p.big = big)) ∧
    (∃ (s : State), s.power = .run) ∧
    (∃ (s : State), s.power = .run) ∧
    (∃ (s : State) (v : _), s.power = .run ∧ 1 ≤ v ∧ v ≤ 255) :=
  ⟨⟨up1, 3, 42666, by decide +kernel⟩,
    ⟨up1, 1, 31, 2 ^ 21, true, ctx1, by decide +kernel⟩,
    ⟨up1, by decide +kernel⟩,
    ⟨up1, by decide +kernel⟩,
    ⟨up1, 255, by decide +kernel⟩⟩

theorem witness_BudgetsPoolsSitesAndRoutesAreSet_2 :
    (∃ (s : State), s.power = .run) ∧
    (∃ (s : State), s.power = .run) ∧
    (∃ (s : State), s.power = .run) ∧
    (∃ (s : State) (dst : _), s.power = .run ∧ dst < 64) :=
  ⟨⟨up1, by decide +kernel⟩,
    ⟨wBilsis7s, by decide +kernel⟩,
    ⟨wBilsis8s, by decide +kernel⟩,
    ⟨up1, 63, by decide +kernel⟩⟩

def wDebug3s : State := { up1 with freeze := some ⟨5, 0, 0⟩ }

def wDebug4s : State := { up1 with freeze := some ⟨5, 0, 0⟩, fabricStopped := true, uncoreStopped := true }

def wDebug5s : State := { up1 with freeze := some ⟨5, 1, 0⟩, fabricStopped := true, uncoreStopped := true }

def wDebug6L : Lease := { lease0 with parked := some 0 }

def wDebug9s : State := { up1 with links := Link.resetAll 4 }

def wDebug10s : State := { up1 with resets := [⟨3, 2, 0⟩] }

theorem witness_DebugTasksAndResetsAreCommanded :
    (∃ (s : State), s.power = .run) ∧
    (∃ (s : State), s.power = .run) ∧
    (∃ (s : State) (z : _), s.power = .run ∧ s.freeze = some z ∧ z.f ≤ s.fabric ∧ s.uncoreStopped = false) ∧
    (∃ (s : State) (z : _), s.power = .run ∧ s.freeze = some z ∧ z.f ≤ s.fabric ∧ s.uncoreStopped = true ∧ z.action = 0) ∧
    (∃ (s : State) (z : _), s.power = .run ∧ s.freeze = some z ∧ z.f ≤ s.fabric ∧ s.uncoreStopped = true ∧ z.action ≠ 0) :=
  ⟨⟨up1, by decide +kernel⟩,
    ⟨up1, by decide +kernel⟩,
    ⟨wDebug3s, ⟨5, 0, 0⟩, by decide +kernel⟩,
    ⟨wDebug4s, ⟨5, 0, 0⟩, by decide +kernel⟩,
    ⟨wDebug5s, ⟨5, 1, 0⟩, by decide +kernel⟩⟩

theorem witness_DebugTasksAndResetsAreCommanded_2 :
    (∃ (s : State) (die : _) (entry : _) (k : _) (L : Lease), s.power = .run ∧ s.task? die entry = some k ∧ s.leaseOf k = some L ∧ L.parked ≠ none) ∧
    (∃ (s : State) (die : _) (entry : _) (k : _), s.power = .run ∧ s.task? die entry = some k) ∧
    (∃ (s : State) (d : _), s.power = .run ∧ d < s.fuses.nlive ∧ d < 4 ∧ s.reset? d = none ∧ (s.link (4 + d)).st ≠ .down) ∧
    (∃ (s : State) (d : _), s.power = .run ∧ d < s.fuses.nlive ∧ s.reset? d = none ∧ (s.link (4 + d)).st = .down) ∧
    (∃ (s : State) (d : _), s.power = .run ∧ d < s.fuses.nlive ∧ s.reset? d ≠ none) :=
  ⟨⟨parked0, 0, 0, { task0 with st := .running }, wDebug6L, ⟨by decide +kernel, rfl, rfl, by decide +kernel⟩⟩,
    ⟨parked0, 0, 0, { task0 with st := .running }, ⟨by decide +kernel, rfl⟩⟩,
    ⟨up1, 3, by decide +kernel⟩,
    ⟨wDebug9s, 3, by decide +kernel⟩,
    ⟨wDebug10s, 3, by decide +kernel⟩⟩

def wList5s : State := { listed with startLists := [{ list0 with st := .faulted, fcause := 3 }] }

def wList6s : State := { listed with tasks := [task0] }

theorem witness_StartListRegistersAreWritten :
    (∃ (s : State) (slot : _) (tail : _) (l : _), s.sl? slot = some l ∧ l.st ≠ .destroyed ∧ (tail - l.head).toNat ≤ l.size) ∧
    (∃ (s : State) (slot : _) (tail : _) (l : _), s.sl? slot = some l ∧ l.st ≠ .destroyed ∧ l.st ≠ .faulted ∧ l.size < (tail - l.head).toNat) ∧
    (∃ (s : State) (slot : _), (∀ l, s.sl? slot = some l → l.st = .destroyed)) ∧
    (∃ (s : State) (slot : _) (l : _), s.sl? slot = some l) ∧
    (∃ (s : State) (slot : _) (l : _), s.sl? slot = some l ∧ l.st = .active) :=
  ⟨⟨listed, 0, 64, list0, by decide +kernel⟩,
    ⟨listed, 0, 65, list0, by decide +kernel⟩,
    ⟨listed, 1, by decide +kernel⟩,
    ⟨listed, 0, list0, by decide +kernel⟩,
    ⟨listed, 0, list0, by decide +kernel⟩⟩

theorem witness_StartListRegistersAreWritten_2 :
    (∃ (s : State) (slot : _) (l : _), s.sl? slot = some l ∧ (l.st = .stopped ∨ l.st = .faulted)) ∧
    (∃ (s : State) (slot : _) (l : _) (x : _), s.sl? slot = some l ∧ l.st ≠ .destroyed ∧ x ∈ s.tasks ∧ x.slid = slot) ∧
    (∃ (s : State) (slot : _) (l : _), s.sl? slot = some l ∧ l.st ≠ .destroyed ∧ l.pending = [] ∧ l.nodes = [] ∧ (∀ x ∈ s.tasks, x.slid ≠ slot)) ∧
    (∃ (s : State) (off : _), s.power = .run ∧ off % 8 = 0 ∧ 0x200 ≤ off ∧ off < 0x300) ∧
    (∃ (s : State) (f : _) (off : _), s.power = .run ∧ f < 128 ∧ off % 8 = 0 ∧ 0x8000 ≤ off ∧ off < 0x10000 ∧ (f, (off - 0x8000) / 16) ∉ s.msixPending) :=
  ⟨⟨wList5s, 0, { list0 with st := .faulted, fcause := 3 }, by decide +kernel⟩,
    ⟨wList6s, 0, list0, task0, by decide +kernel⟩,
    ⟨listed, 0, list0, by decide +kernel⟩,
    ⟨up, 0x2F8, by decide +kernel⟩,
    ⟨up, 127, 0xFFF8, by decide +kernel⟩⟩

theorem witness_StartListRegistersAreWritten_3 :
    (∃ (f : _) (off : _), f < 128 ∧ (off < 0x200 ∨ (0x300 ≤ off ∧ off < 0x8000) ∨ 0x10000 ≤ off ∨ (f ≠ 0 ∧ off < 0x300))) ∧
    (∃ (s : State) (f : _) (k : _), s.power = .run ∧ f < 128 ∧ k < 64) ∧
    (∃ (s : State) (f : _) (k : _) (l : _), k < 64 ∧ s.sl? (64 * f + k) = some l) ∧
    (∃ (s : State) (f : _) (k : _), k < 64 ∧ s.sl? (64 * f + k) = none) :=
  ⟨⟨1, 0x200, by decide +kernel⟩,
    ⟨listed, 0, 0, by decide +kernel⟩, ⟨listed, 0, 0, list0, by decide +kernel⟩, ⟨listed, 1, 0, by decide +kernel⟩⟩

def wRead2s : State := { listed with startLists := [{ list0 with st := .stopping, held := some ⟨0, nopPkt⟩ }] }

def wRead3p : Pending := pendingOf (pktOf [(0, 0x40000400)]) 3 0 0 (some (0, 0))

theorem witness_PacketsAreReadAndComplete :
    ((∃ (s : State) (l : StartList), Claims.mayRead s l false ∧ (s.cdRead l.tid (wrapN 57 ((l.ring + 128 * (l.nextN % l.size) : Nat) : Int)) 128 true).1 = .ok (List.replicate 128 0)) ∧ (∃ (s : State) (l : StartList), Claims.mayRead s l false ∧ (s.cdRead l.tid (wrapN 57 ((l.ring + 128 * (l.nextN % l.size) : Nat) : Int)) 128 true).1 = .error 1) ∧ (∃ (s : State) (l : StartList) (b : BitVec 1024), Claims.mayRead s l false ∧ (s.cdRead l.tid (wrapN 57 ((l.ring + 128 * (l.nextN % l.size) : Nat) : Int)) 128 true).1 = .ok (toBytes 128 b.toNat) ∧ pktField b 60 4 = stampOf l.nextN ∧ pktField b 124 4 = stampOf l.nextN ∧ packetRefusal b l.fn = none)) ∧
    ((∃ (s : State) (l : StartList), Claims.mayRead s l true ∧ (s.cdRead l.tid (wrapN 57 ((l.ring + 128 * (l.nextN % l.size) : Nat) : Int)) 128 true).1 = .ok (List.replicate 128 0)) ∧ (∃ (s : State) (l : StartList), Claims.mayRead s l true ∧ (s.cdRead l.tid (wrapN 57 ((l.ring + 128 * (l.nextN % l.size) : Nat) : Int)) 128 true).1 = .error 1) ∧ (∃ (s : State) (l : StartList) (b : BitVec 1024), Claims.mayRead s l true ∧ (s.cdRead l.tid (wrapN 57 ((l.ring + 128 * (l.nextN % l.size) : Nat) : Int)) 128 true).1 = .ok (toBytes 128 b.toNat) ∧ pktField b 60 4 = stampOf l.nextN ∧ pktField b 124 4 = stampOf l.nextN ∧ packetRefusal b l.fn = none)) ∧
    (∃ (s : State) (l : _) (q : _), s.cdRuns = true ∧ s.sl? s.focus.slot = some l ∧ l.st = .stopping ∧ l.held = some q) ∧
    (∃ (s : State) (l : _) (p : Pending) (st : _) (d : _), s.cdRuns = true ∧ s.sl? s.focus.slot = some l ∧ l.st ≠ .destroyed ∧ l.pending.find? (fun p => p.n = s.focus.req) = some p ∧ p.status = some (st, d) ∧ p.crec = false ∧ p.csem = false) :=
  ⟨⟨⟨{ listed with startLists := [list0] }, list0, ⟨by decide +kernel, by decide +kernel, rfl, by decide +kernel, rfl, rfl⟩, by decide +kernel⟩, ⟨{ listed with startLists := [{ list0 with ring := 2 ^ 40 }] }, { list0 with ring := 2 ^ 40 }, ⟨by decide +kernel, by decide +kernel, rfl, by decide +kernel, rfl, rfl⟩, by decide +kernel⟩, ⟨{ ringed nopPkt with startLists := [list0] }, list0, nopPkt, ⟨by decide +kernel, by decide +kernel, rfl, by decide +kernel, rfl, rfl⟩, by decide +kernel⟩⟩,
    ⟨⟨{ listed with startLists := [{ list0 with retryAt := some 0 }] }, { list0 with retryAt := some 0 }, ⟨by decide +kernel, by decide +kernel, rfl, by decide +kernel, rfl, 0, rfl, by decide +kernel⟩, by decide +kernel⟩, ⟨{ listed with startLists := [{ { list0 with retryAt := some 0 } with ring := 2 ^ 40 }] }, { { list0 with retryAt := some 0 } with ring := 2 ^ 40 }, ⟨by decide +kernel, by decide +kernel, rfl, by decide +kernel, rfl, 0, rfl, by decide +kernel⟩, by decide +kernel⟩, ⟨{ ringed nopPkt with startLists := [{ list0 with retryAt := some 0 }] }, { list0 with retryAt := some 0 }, nopPkt, ⟨by decide +kernel, by decide +kernel, rfl, by decide +kernel, rfl, 0, rfl, by decide +kernel⟩, by decide +kernel⟩⟩,
    ⟨wRead2s, { list0 with st := .stopping, held := some ⟨0, nopPkt⟩ }, ⟨0, nopPkt⟩, by decide +kernel⟩,
    ⟨complete0, complete0.startLists.headD list0, wRead3p, 0, 0, by decide +kernel⟩⟩

theorem witness_PacketsAreAdmitted :
    (∃ (s s1 : State) (m : StartList) (p : Packet), Claims.MayEnter s 0 s1 m p ∧ True) ∧
    (∃ (s s1 : State) (m : StartList) (p : Packet), Claims.MayEnter s 8 s1 m p ∧ m.pending = []) ∧
    (∃ (s s1 : State) (m : StartList) (p : Packet), Claims.MayEnter s 8 s1 m p ∧ m.pending ≠ [] ∧ m.st = .active) ∧
    (∃ (s s1 : State) (m : StartList) (p : Packet), Claims.MayEnter s 3 s1 m p ∧ s1.graph? m.tid (pktField p.body 8 8 % 64) = none) ∧
    (∃ (s s1 : State) (m : StartList) (p : Packet), Claims.MayEnter s 3 s1 m p ∧ s1.graph? m.tid (pktField p.body 8 8 % 64) = some graph5) :=
  ⟨⟨(held nopPkt), consumed (held nopPkt), again (held nopPkt), ⟨0, nopPkt⟩, mayEnter (by decide +kernel), trivial⟩,
    ⟨(held fencePkt), consumed (held fencePkt), again (held fencePkt), ⟨0, fencePkt⟩, mayEnter (by decide +kernel), by decide +kernel⟩,
    ⟨({ held fencePkt with startLists := [{ list0 with held := some ⟨0, fencePkt⟩, pending := [pendingOf nopPkt 5 0 0 none] }] } : State), consumed ({ held fencePkt with startLists := [{ list0 with held := some ⟨0, fencePkt⟩, pending := [pendingOf nopPkt 5 0 0 none] }] } : State), again ({ held fencePkt with startLists := [{ list0 with held := some ⟨0, fencePkt⟩, pending := [pendingOf nopPkt 5 0 0 none] }] } : State), ⟨0, fencePkt⟩, mayEnter (by decide +kernel), by decide +kernel⟩,
    ⟨(held replayPkt), consumed (held replayPkt), again (held replayPkt), ⟨0, replayPkt⟩, mayEnter (by decide +kernel), by decide +kernel⟩,
    ⟨(graphed replayPkt), consumed (graphed replayPkt), again (graphed replayPkt), ⟨0, replayPkt⟩, mayEnter (by decide +kernel), by decide +kernel⟩⟩

theorem witness_PacketsAreAdmitted_2 :
    (∃ (s s1 : State) (m : StartList) (p : Packet), Claims.MayEnter s 4 s1 m p ∧ s1.graph? m.tid (pktField p.body 8 8 % 64) = none) ∧
    (∃ (s s1 : State) (m : StartList) (p : Packet), Claims.MayEnter s 9 s1 m p ∧ pktField p.body 16 8 = 0) ∧
    (∃ (s s1 : State) (m : StartList) (p : Packet), Claims.MayEnter s 1 s1 m p ∧ s1.ctx? m.tid = some ctx1 ∧ s1.entryDie ctx1 ((pktTiles p.body).take 8) ((pktTiles p.body).drop 8) = 0 ∧ s1.freeEntry 0 = some 0 ∧ s1.counts m.slot m.order ((pktTiles p.body).take 8) = some [0, 0, 0, 0, 0, 0, 0, 0]) ∧
    (∃ (s s1 : State) (m : StartList) (p : Packet), Claims.MayEnter s 2 s1 m p ∧ (s1.cdRead m.tid (pktField p.body 8 8) (128 * (bitsOf (pktField p.body 16 8) 16 10 + 1)) true).1 = .ok (List.replicate 128 0)) ∧
    (∃ (s s1 : State) (m : StartList) (p : Packet), Claims.MayEnter s 4 s1 m p ∧ s1.graph? m.tid (pktField p.body 8 8 % 64) = some graph5 ∧ bitsOf (pktField p.body 8 8) 16 10 < graph5.nodes.length) :=
  ⟨⟨(held patchPkt), consumed (held patchPkt), again (held patchPkt), ⟨0, patchPkt⟩, mayEnter (by decide +kernel), by decide +kernel⟩,
    ⟨(held (xlinvPkt 0)), consumed (held (xlinvPkt 0)), again (held (xlinvPkt 0)), ⟨0, (xlinvPkt 0)⟩, mayEnter (by decide +kernel), by decide +kernel⟩,
    ⟨(held launchPkt), consumed (held launchPkt), again (held launchPkt), ⟨0, launchPkt⟩, mayEnter (by decide +kernel), by decide +kernel⟩,
    ⟨(held graphPkt), consumed (held graphPkt), again (held graphPkt), ⟨0, graphPkt⟩, mayEnter (by decide +kernel), by decide +kernel⟩,
    ⟨(graphed patchPkt), consumed (graphed patchPkt), again (graphed patchPkt), ⟨0, patchPkt⟩, mayEnter (by decide +kernel), by decide +kernel⟩⟩

theorem witness_PacketsAreAdmitted_3 :
    (∃ (s s1 : State) (m : StartList) (p : Packet), Claims.MayEnter s 5 s1 m p ∧ pktField p.body 24 8 = 0 ∧ (s1.cdWrite m.tid (pktField p.body 8 8) (toBytes 8 (pktField p.body 16 8)) true).2.sl? m.slot = some m) ∧
    (∃ (s s1 : State) (m : StartList) (p : Packet), Claims.MayEnter s 6 s1 m p ∧ m.st = .active ∧ (s1.cdRead m.tid (pktField p.body 8 8) 8 true).1 = .ok (List.replicate 8 0) ∧ (s1.cdRead m.tid (pktField p.body 8 8) 8 true).2.sl? m.slot = some m ∧ pktField p.body 24 8 = 0 ∧ pktField p.body 16 8 ≤ ofBytes (List.replicate 8 0)) ∧
    (∃ (s s1 : State) (m : StartList) (p : Packet), Claims.MayEnter s 6 s1 m p ∧ m.st = .active ∧ (s1.cdRead m.tid (pktField p.body 8 8) 8 true).1 = .ok (List.replicate 8 0) ∧ (s1.cdRead m.tid (pktField p.body 8 8) 8 true).2.sl? m.slot = some m ∧ pktField p.body 24 8 = 0 ∧ ofBytes (List.replicate 8 0) < pktField p.body 16 8) ∧
    (∃ (s s1 : State) (m : StartList) (p : Packet), Claims.MayEnter s 7 s1 m p ∧ s1.ctx? m.tid = some ctx1 ∧ (s1.homeDie ctx1 (pktField p.body 16 8)).1 = .ok 0 ∧ (s1.homeDie ctx1 (pktField p.body 16 8)).2.freeEntry ((s1.homeDie ctx1 (pktField p.body 16 8)).2.entryDie ctx1 [] []) = some 0 ∧ (s1.homeDie ctx1 (pktField p.body 16 8)).2.vqCount 0 m.tid .copy < 64) ∧
    (∃ (s s1 : State) (m : StartList) (p : Packet), Claims.MayEnter s 9 s1 m p ∧ 0 < 65536 * pktField p.body 16 8 ∧ (pktField p.body 8 8 + 65536 * pktField p.body 16 8 - 1) / 2 ^ 48 = pktField p.body 8 8 / 2 ^ 48 ∧ s1.namedCtxs (bitsOf (pktField p.body 24 8) 16 8) (if (pktField p.body 24 8).testBit 24 then none else some (pktField p.body 24 8 % 65536)) ≠ []) :=
  ⟨⟨(held sigsemPkt), consumed (held sigsemPkt), again (held sigsemPkt), ⟨0, sigsemPkt⟩, mayEnter (by decide +kernel), by decide +kernel⟩,
    ⟨(held (waitsemPkt 0)), consumed (held (waitsemPkt 0)), again (held (waitsemPkt 0)), ⟨0, (waitsemPkt 0)⟩, mayEnter (by decide +kernel), by decide +kernel⟩,
    ⟨(held (waitsemPkt 9)), consumed (held (waitsemPkt 9)), again (held (waitsemPkt 9)), ⟨0, (waitsemPkt 9)⟩, mayEnter (by decide +kernel), by decide +kernel⟩,
    ⟨(held copyPkt), consumed (held copyPkt), again (held copyPkt), ⟨0, copyPkt⟩, mayEnter (by decide +kernel), by decide +kernel⟩,
    ⟨(held (xlinvPkt 1)), consumed (held (xlinvPkt 1)), again (held (xlinvPkt 1)), ⟨0, (xlinvPkt 1)⟩, mayEnter (by decide +kernel), by decide +kernel⟩⟩

theorem witness_PacketsAreAdmitted_4 :
    (∃ (l : StartList) (b : BitVec 1024), replaying.cdRuns = true ∧ replaying.sl? replaying.focus.slot = some l ∧ l.nodes = [(0, b)] ∧ replaying.ctx? l.tid = some ctx1 ∧ launchOk b = true ∧ pktField b 120 4 = 0 ∧ replaying.entryDie ctx1 ((pktTiles b).take 8) ((pktTiles b).drop 8) = 0 ∧ replaying.freeEntry 0 = some 0 ∧ replaying.counts l.slot l.order ((pktTiles b).take 8) = some [0, 0, 0, 0, 0, 0, 0, 0]) :=
  ⟨replaying.startLists.headD list0, ((replaying.startLists.headD list0).nodes.headD (0, 0)).2, by decide +kernel⟩

def wAsks0s : State := run1 (fun L => { L with ctrl := [.decide 0 1 0 0] })

def wAsks0L : Lease := { leaseI with ctrl := [.decide 0 1 0 0] }

def wAsks1s : State := run1 (fun L => { L with ctrl := [.decide 0 1 0 1] })

def wAsks1L : Lease := { leaseI with ctrl := [.decide 0 1 0 1] }

def wAsks2s : State := run1 (fun L => { L with ctrl := [.retire 0 1 0] })

def wAsks2L : Lease := { leaseI with ctrl := [.retire 0 1 0] }

def wAsks3s : State := run1 (fun L => { L with ctrl := [.cropen 0 1 0 true 3 0] })

def wAsks3L : Lease := { leaseI with ctrl := [.cropen 0 1 0 true 3 0] }

def wAsks4s : State := run1 (fun L => { L with ctrl := [.cropen 0 1 0 true 3 0], region := some ⟨2, true, 0, 0, 0, 0, 0, none, false, false⟩ })

def wAsks4L : Lease := { leaseI with ctrl := [.cropen 0 1 0 true 3 0], region := some ⟨2, true, 0, 0, 0, 0, 0, none, false, false⟩ }

def wAsks5s : State := run1 (fun L => { L with pend := some (0, 0), inv := 1, pes := (L.pes.map (fun p => { p with inv := 1 })) })

def wAsks5L : Lease := { leaseI with pend := some (0, 0), inv := 1, pes := (leaseI.pes.map (fun p => { p with inv := 1 })) }

theorem witness_ThePlacerAnswersPEs :
    (∃ (s : State) (L : Lease) (x : _) (y : _) (k : _) (plane : _) (rest : _), Asked s L (.decide x y k plane) rest ∧ imageDefines L.image plane = true) :=
  ⟨wAsks0s, wAsks0L, 0, 1, 0, 0, [], ⟨⟨rfl, rfl, rfl⟩, by decide +kernel⟩⟩

theorem witness_ThePlacerAnswersPEs_2 :
    (∃ (s : State) (L : Lease) (x : _) (y : _) (k : _) (plane : _) (rest : _), Asked s L (.decide x y k plane) rest ∧ imageDefines L.image plane = false) :=
  ⟨wAsks1s, wAsks1L, 0, 1, 0, 1, [], ⟨⟨rfl, rfl, rfl⟩, by decide +kernel⟩⟩

theorem witness_ThePlacerAnswersPEs_3 :
    (∃ (s : State) (L : Lease) (x : _) (y : _) (k : _) (rest : _), Asked s L (.retire x y k) rest) :=
  ⟨wAsks2s, wAsks2L, 0, 1, 0, [], ⟨rfl, rfl, rfl⟩⟩

theorem witness_ThePlacerAnswersPEs_4 :
    (∃ (s : State) (L : Lease) (x : _) (y : _) (k : _) (redo : _) (n : _) (v : _) (rest : _), Asked s L (.cropen x y k redo n v) rest ∧ L.region = none ∧ bitsOf v.toNat 8 7 < L.w ∧ bitsOf v.toNat 16 6 < L.h ∧ imageDefines L.image (bitsOf v.toNat 0 2) = true) :=
  ⟨wAsks3s, wAsks3L, 0, 1, 0, true, 3, 0, [], ⟨⟨rfl, rfl, rfl⟩, by decide +kernel, by decide +kernel, by decide +kernel, by decide +kernel⟩⟩

theorem witness_ThePlacerAnswersPEs_5 :
    (∃ (s : State) (L : Lease) (x : _) (y : _) (k : _) (redo : _) (n : _) (v : _) (rest : _), Asked s L (.cropen x y k redo n v) rest ∧ L.region ≠ none) :=
  ⟨wAsks4s, wAsks4L, 0, 1, 0, true, 3, 0, [], ⟨⟨rfl, rfl, rfl⟩, by decide +kernel⟩⟩

theorem witness_ThePlacerAnswersPEs_6 :
    (∃ (s : State) (L : Lease) (plane : _) (j : _), s.lease? s.focus.site.lease = some L ∧ L.pend = some (plane, j) ∧ s.invocationOver L j = true ∧ s.leaseRuns L = true ∧ L.baton = none ∧ (∀ r, L.retireAt = some r → j < r)) :=
  ⟨wAsks5s, wAsks5L, 0, 0, ⟨rfl, by decide +kernel, by decide +kernel, by decide +kernel, by decide +kernel, by decide +kernel⟩⟩

def wMoves0s : State := run1 (fun L => { L with move := some ⟨.move 2 0, 0, 0, 0, none⟩ })

def wMoves0L : Lease := { leaseI with move := some ⟨.move 2 0, 0, 0, 0, none⟩ }

def wMoves1s : State := ({ run1 (fun L => { L with move := some ⟨.move 2 0, 1, 0, 0, none⟩ }) with ports := [{ Port.fresh 1 (.mu ⟨1, 0, 1⟩) 0 1 1 1 0 0 true with bucket := 256, hold := true }] } : State)

def wMoves1s1 : State := (({ run1 (fun L => { L with move := some ⟨.move 2 0, 1, 0, 0, none⟩ }) with ports := [{ Port.fresh 1 (.mu ⟨1, 0, 1⟩) 0 1 1 1 0 0 true with bucket := 256, hold := true }] } : State).completeInputs 1)

def wMoves1L : Lease := { leaseI with move := some ⟨.move 2 0, 1, 0, 0, none⟩ }

def wMoves2s : State := run1 (fun L => { L with move := some ⟨.move 2 0, 2, 0, 0, none⟩ })

def wMoves2L : Lease := { leaseI with move := some ⟨.move 2 0, 2, 0, 0, none⟩ }

def wMoves3s : State := run1 (fun L => { L with move := some ⟨.move 2 0, 2, 0, 0, none⟩, baton := some 1, pes := leaseI.pes.map (fun p => { p with batonDone := true }) })

def wMoves3L : Lease := { leaseI with move := some ⟨.move 2 0, 2, 0, 0, none⟩, baton := some 1, pes := leaseI.pes.map (fun p => { p with batonDone := true }) }

def wMoves7s : State := run1 (fun L => { L with baton := some 2 })

def wMoves7L : Lease := { leaseI with baton := some 2 }

def wMoves8p : Port := portQ [{ sentLoad 64 with status := .held 1 false }]

def wMoves8s : State := { drained (.checkpoint none) with ports := [wMoves8p] }

def wMoves4k : Task := { taskI with st := .running }

theorem witness_LeasesMoveAndAreSaved :
    (∃ (s : State) (L : Lease) (m : Move) (z : _), s.cdRuns = true ∧ s.fabricStopped = false ∧ s.lease? s.focus.site.lease = some L ∧ L.move = some m ∧ L.unwind = none ∧ L.parked = none ∧ m.step = 0 ∧ imageNextZone L.image (s.nextEoi L) = some z) :=
  ⟨wMoves0s, wMoves0L, ⟨.move 2 0, 0, 0, 0, none⟩, 0, ⟨rfl, rfl, rfl, rfl, rfl, rfl, rfl, by decide +kernel⟩⟩

theorem witness_LeasesMoveAndAreSaved_2 :
    (∃ (s : State) (s1 : State) (L : Lease) (m : Move) (n : Move), s.cdRuns = true ∧ s.fabricStopped = false ∧ s.lease? s.focus.site.lease = some L ∧ L.move = some m ∧ L.unwind = none ∧ L.parked = none ∧ m.step = 1 ∧ s.allHeld L.id = true ∧ s.completeInputs L.id = s1 ∧ (s1.lease? L.id).bind Lease.move = some n) :=
  ⟨wMoves1s, wMoves1s1, wMoves1L, ⟨.move 2 0, 1, 0, 0, none⟩, ⟨.move 2 0, 1, 0, 0, none⟩, ⟨rfl, rfl, rfl, rfl, rfl, rfl, rfl, by decide +kernel, rfl, by decide +kernel⟩⟩

theorem witness_LeasesMoveAndAreSaved_3 :
    (∃ (s : State) (L : Lease) (m : Move), s.cdRuns = true ∧ s.lease? s.focus.site.lease = some L ∧ L.move = some m ∧ m.step = 2 ∧ m.since + 1048576 ≤ s.fabric ∧ ((∀ d, m.job ≠ .checkpoint d) ∨ ∀ p ∈ s.leasePorts L.id, p.fhold = false)) ∧
    (∃ (s : State) (L : Lease) (m : Move) (d : _) (p : Port), s.lease? s.focus.site.lease = some L ∧ L.move = some m ∧ m.job = .checkpoint d ∧ p ∈ s.leasePorts L.id ∧ p.fhold = true) :=
  ⟨⟨wMoves2s, wMoves2L, ⟨.move 2 0, 2, 0, 0, none⟩, ⟨by decide +kernel, rfl, rfl, by decide +kernel, by decide +kernel, .inr (by decide +kernel)⟩⟩,
    ⟨wMoves8s, drainedL (.checkpoint none), ⟨.checkpoint none, 2, 0, 0, none⟩, none, wMoves8p, ⟨rfl, rfl, rfl, by decide +kernel, by decide +kernel⟩⟩⟩

theorem witness_LeasesMoveAndAreSaved_4 :
    (∃ (s : State) (L : Lease) (m : Move) (x : _) (y : _), s.cdRuns = true ∧ s.fabricStopped = false ∧ s.lease? s.focus.site.lease = some L ∧ L.move = some m ∧ m.job = .move x y ∧ s.drainedFor L = true ∧ (∀ d ∈ (⟨x, y, L.w, L.h⟩ : Rect).dies, s.running d = true) ∧ (∀ c ∈ (⟨x, y, L.w, L.h⟩ : Rect).cells, s.barred c.1 c.2 = false) ∧ (∀ p ∈ seamPairs (⟨x, y, L.w, L.h⟩ : Rect).dies, L.seamUnits x y p.1 p.2 ≠ 0 → s.seamRunning p.1 p.2 = true) ∧ L.heldTraps = []) :=
  ⟨wMoves3s, wMoves3L, ⟨.move 2 0, 2, 0, 0, none⟩, 2, 0, ⟨by decide +kernel, by decide +kernel, rfl, rfl, by decide +kernel, by decide +kernel, by decide +kernel, by decide +kernel, by decide +kernel, by decide +kernel⟩⟩

theorem witness_LeasesMoveAndAreSaved_5 :
    (∃ (s : State) (L : Lease) (pe : PE) (job : _), s.fabricStopped = false ∧ s.lease? s.focus.site.lease = some L ∧ L.pe? s.focus.site.dx s.focus.site.dy = some pe ∧ L.baton = some job ∧ pe.batonDone = false ∧ (∀ i ∈ L.markIns pe, ∃ k, pe.head i = some k ∧ k.isBaton = true ∧ L.current k = true) ∧ s.mayForward L pe job = true ∧ s.outsFree L 1 (L.markOuts s.focus.site pe) = true) :=
  ⟨wMoves7s, wMoves7L, (leaseI.pes.head (by decide +kernel)), 2, ⟨by decide +kernel, rfl, rfl, rfl, by decide +kernel, by decide +kernel, by decide +kernel, by decide +kernel⟩⟩

theorem witness_LeasesMoveAndAreSaved_6 :
    (∃ (s : State) (s1 : State) (s2 : State) (L : Lease) (m : Move) (k : Task) (c : Ctx) (i : _) (va : _), s.cdRuns = true ∧ s.fabricStopped = false ∧ s.lease? s.focus.site.lease = some L ∧ L.move = some m ∧ (∃ d, m.job = .checkpoint d) ∧ s.task? L.die L.entry = some k ∧ s.ctx? L.tid = some c ∧ s.quietFor L = true ∧ s.openSlot c (s.recordSize L) = some (i, va) ∧ (s.makeRecord L).2.cdWrite c.tid va (s.makeRecord L).1.bytes false = (.ok (), s1) ∧ s1.cdWrite c.tid (c.dirVa i) (dirEntry k (s.makeRecord L).1.bytes.length) false = (.ok (), s2)) :=
  ⟨drained (.checkpoint none), ckWrite.2, ckEntry.2, drainedL (.checkpoint none), ⟨.checkpoint none, 2, 0, 0, none⟩, wMoves4k, ctx1, 0, 8192, ⟨rfl, rfl, rfl, rfl, ⟨none, rfl⟩, rfl, rfl, by decide +kernel, by decide +kernel, pair_of_fst (by decide +kernel), pair_of_fst (by decide +kernel)⟩⟩

theorem witness_LeasesMoveAndAreSaved_7 :
    (∃ (s : State) (L : Lease) (m : Move) (va : _) (n : _), s.cdRuns = true ∧ s.fabricStopped = false ∧ s.lease? s.focus.site.lease = some L ∧ L.move = some m ∧ m.job = .standing va n ∧ s.quietFor L = true ∧ (∀ p ∈ s.leasePorts L.id, p.settled 1 = true) ∧ n < s.recordSize L + 8) :=
  ⟨drained (.standing 0x20000 8), drainedL (.standing 0x20000 8), ⟨.standing 0x20000 8, 2, 0, 0, none⟩, 0x20000, 8, ⟨rfl, rfl, rfl, rfl, rfl, by decide +kernel, by decide +kernel, by decide +kernel⟩⟩

theorem witness_LeasesMoveAndAreSaved_8 :
    (∃ (s : State) (s0 : State) (s1 : State) (s2 : State) (L : Lease) (m : Move) (va : _) (n : _) (slot : _) (b : Save), s.cdRuns = true ∧ s.fabricStopped = false ∧ s.lease? s.focus.site.lease = some L ∧ L.move = some m ∧ m.job = .standing va n ∧ s.quietFor L = true ∧ (∀ p ∈ s.leasePorts L.id, p.settled 1 = true) ∧ s.recordSize L + 8 ≤ n ∧ slot = s.olderSlot L.tid va n ∧ (s.forgetStanding L.tid slot).makeRecord L = (b, s0) ∧ s0.cdWrite L.tid slot b.bytes false = (.ok (), s1) ∧ s1.cdWrite L.tid (wrapN 57 ((slot + b.bytes.length : Nat) : Int)) (toBytes 8 m.zone) false = (.ok (), s2)) :=
  ⟨drained (.standing 0x20000 65536), stRec.2, stWrite.2, stInv.2, drainedL (.standing 0x20000 65536), ⟨.standing 0x20000 65536, 2, 0, 0, none⟩, 0x20000, 65536, 0x20000, stRec.1, ⟨rfl, rfl, rfl, rfl, rfl, by decide +kernel, by decide +kernel, by decide +kernel, by decide +kernel, rfl, pair_of_fst (by decide +kernel), pair_of_fst (by decide +kernel)⟩⟩

def wFab5s : State := fab (fun p => inHas [eoiTok 0] (withEoi p))

def wFab5L : Lease := fabL (fun p => inHas [eoiTok 0] (withEoi p))

def wFab5pe : PE := ((fun p => inHas [eoiTok 0] (withEoi p)) muPe)

def wFab9s : State := run1 (fun L => { L with stall := 16777216 })

def wFab9L : Lease := { leaseI with stall := 16777216 }

theorem witness_TheFabricMovesTokensAndRunsHandlers :
    (∃ (s : State) (L : Lease) (pe : PE) (x : _) (y : _) (i : _) (q : PE) (k : Token) (rest : _), Channel s L pe x y i q ∧ (pe.outEnd s.focus.ch).q = k :: rest ∧ (pe.outEnd s.focus.ch).credits ≠ 0 ∧ s.channelUp L pe.dx pe.dy s.focus.ch = true ∧ L.walled L.plane pe.dx pe.dy s.focus.ch = false ∧ (k.kind ≠ .cfg ∨ cfgOk q.kind k = true)) :=
  ⟨fab (outHas [n64Tok 5]), fabL (outHas [n64Tok 5]), ((outHas [n64Tok 5]) muPe), 0, 1, 0, ((outHas [n64Tok 5]) muPe), n64Tok 5, [], ⟨⟨⟨rfl, rfl⟩, rfl, by decide +kernel, rfl, by decide +kernel, by decide +kernel⟩, rfl, by decide +kernel, by decide +kernel, by decide +kernel, by decide +kernel⟩⟩

theorem witness_TheFabricMovesTokensAndRunsHandlers_2 :
    (∃ (s : State) (L : Lease) (pe : PE) (x : _) (y : _) (i : _) (q : PE) (k : Token) (rest : _), Channel s L pe x y i q ∧ (pe.outEnd s.focus.ch).q = k :: rest ∧ (pe.outEnd s.focus.ch).credits ≠ 0 ∧ s.channelUp L pe.dx pe.dy s.focus.ch = true ∧ L.walled L.plane pe.dx pe.dy s.focus.ch = false) :=
  ⟨fab (outHas [n64Tok 5]), fabL (outHas [n64Tok 5]), ((outHas [n64Tok 5]) muPe), 0, 1, 0, ((outHas [n64Tok 5]) muPe), n64Tok 5, [], ⟨⟨⟨rfl, rfl⟩, rfl, by decide +kernel, rfl, by decide +kernel, by decide +kernel⟩, rfl, by decide +kernel, by decide +kernel, by decide +kernel⟩⟩

/-- A switch with one route, from lane 0 of a side to lane 0 of another. -/
def routed (indir outdir : Nat) (p : PE) : PE :=
  p.modCfg 0 (fun c => { c with routes := c.routes.set 0 (BitVec.ofNat 32 (2 ^ 31 + indir * 2 ^ 27 + outdir * 2 ^ 19)) })

/-- The lease of `imageS` with a route from the CU of row 0 to that of row 2 over the MU between them, whose switch holds another id. -/
def wFab11L (id : Nat) : Lease :=
  let L := Lease.grant 1 1 0 0 0 0 2 3 false imageS []
  { L with pes := L.pes.map (fun p => if p.dx ≠ 0 then p else if p.dy = 0 then outHas [n64Tok 5] (routed 0 1 p)
    else if p.dy = 1 then (routed 3 1 p).modCfg 0 (fun c => { c with fwid := BitVec.ofNat 16 id }) else routed 3 0 p) }

def wFab11s : State := { run1 (fun _ => wFab11L 9) with focus := { Focus.none with site := ⟨1, 0, 0⟩ } }

def wFab11p (id y : Nat) : PE := ((wFab11L id).pe? 0 y).getD muPe

theorem witness_TheFabricMovesTokensAndRunsHandlers_11 :
    (∃ (s : State) (L : Lease) (pe : PE) (x : _) (y : _) (i : _) (q : PE) (k : Token) (rest : _), Channel s L pe x y i q ∧ (pe.outEnd s.focus.ch).q = k :: rest ∧ (pe.outEnd s.focus.ch).credits ≠ 0 ∧ s.channelUp L pe.dx pe.dy s.focus.ch = true ∧ L.walled L.plane pe.dx pe.dy s.focus.ch = true) :=
  ⟨wFab11s, wFab11L 9, wFab11p 9 0, 0, 2, 0, wFab11p 9 2, n64Tok 5, [], ⟨⟨⟨rfl, rfl⟩, rfl, by decide +kernel, by decide +kernel, by decide +kernel, by decide +kernel⟩, by decide +kernel, by decide +kernel, by decide +kernel, by decide +kernel⟩⟩

/-- A lease across dies 0 and 2, whose seam does not run. -/
def wFab12L : Lease := { wFab11L 0 with y := 31 }

def wFab12s : State := { run1 (fun _ => wFab12L) with focus := { Focus.none with site := ⟨1, 0, 0⟩ }, links := Link.resetAll 4 }

theorem witness_TheFabricMovesTokensAndRunsHandlers_12 :
    (∃ (s : State) (L : Lease) (pe : PE) (x : _) (y : _) (i : _) (q : PE), Channel s L pe x y i q ∧ s.channelUp L pe.dx pe.dy s.focus.ch = false) :=
  ⟨wFab12s, wFab12L, wFab11p 0 0, 0, 2, 0, wFab11p 0 2, ⟨⟨⟨rfl, rfl⟩, rfl, by decide +kernel, by decide +kernel, by decide +kernel, by decide +kernel⟩, by decide +kernel⟩⟩

theorem witness_TheFabricMovesTokensAndRunsHandlers_3 :
    (∃ (s : State) (L : Lease) (pe : PE) (x : _) (y : _) (i : _) (q : PE), Channel s L pe x y i q ∧ (q.inEnd i).freed ≠ 0 ∧ s.channelUp L s.focus.site.dx s.focus.site.dy s.focus.ch = true) :=
  ⟨fab (inHas []), fabL (inHas []), ((inHas []) muPe), 0, 1, 0, ((inHas []) muPe), ⟨⟨⟨rfl, rfl⟩, rfl, by decide +kernel, rfl, by decide +kernel, by decide +kernel⟩, by decide +kernel, by decide +kernel⟩⟩

theorem witness_TheFabricMovesTokensAndRunsHandlers_4 :
    (∃ (s : State) (L : Lease) (pe : PE) (pr : _) (k : Nat), AtFocus s L pe ∧ pe.inst = none ∧ s.leaseRuns L = true ∧ L.select pe = some (pr, k)) :=
  ⟨fab (inHas [n64Tok 5]), fabL (inHas [n64Tok 5]), ((inHas [n64Tok 5]) muPe), 0, 0, ⟨⟨rfl, rfl⟩, rfl, rfl, by decide +kernel⟩⟩

theorem witness_TheFabricMovesTokensAndRunsHandlers_5 :
    (∃ (s : State) (L : Lease) (pe : PE) (i : Instance), AtFocus s L pe ∧ pe.inst = some i ∧ s.leaseRuns L = true ∧ L.quiescent s.focus.site pe i = true ∧ L.region = none ∧ L.unwind = none) :=
  ⟨fab (withInst instDone), fabL (withInst instDone), ((withInst instDone) muPe), instDone, ⟨⟨rfl, rfl⟩, rfl, rfl, by decide +kernel, rfl, rfl⟩⟩

theorem witness_TheFabricMovesTokensAndRunsHandlers_6 :
    (∃ (s : State) (L : Lease) (pe : PE) (ns : _) (k : Nat), AtFocus s L pe ∧ L.eoiHeads pe = some ns ∧ pe.inst = none ∧ s.leaseRuns L = true ∧ pe.eoiRan = false ∧ pe.eoiEntry L.plane = some k) :=
  ⟨wFab5s, wFab5L, wFab5pe, [0], 1, ⟨⟨rfl, rfl⟩, by decide +kernel, rfl, rfl, rfl, by decide +kernel⟩⟩

theorem witness_TheFabricMovesTokensAndRunsHandlers_7 :
    (∃ (s : State) (L : Lease) (pe : PE) (n : _) (ns : _), AtFocus s L pe ∧ L.eoiHeads pe = some (n :: ns) ∧ (∀ m ∈ ns, m = n) ∧ pe.inst = none ∧ s.leaseRuns L = true ∧ (pe.eoiRan = true ∨ pe.eoiEntry L.plane = none) ∧ s.outsFree L 1 (L.markOuts s.focus.site pe) = true) :=
  ⟨fab (inHas [eoiTok 0]), fabL (inHas [eoiTok 0]), ((inHas [eoiTok 0]) muPe), 0, [], ⟨⟨rfl, rfl⟩, by decide +kernel, by decide +kernel, rfl, rfl, by decide +kernel, by decide +kernel⟩⟩

theorem witness_TheFabricMovesTokensAndRunsHandlers_8 :
    (∃ (s : State) (L : Lease) (pe : PE) (k : Token), s.unitOp? 3 = some (L, pe, k) ∧ (∀ n, n < 4 → (pe.cu.tile n).busy = false)) :=
  ⟨(cuS gammaTok), (unitX 3 gammaTok).1, (unitX 3 gammaTok).2.1, (unitX 3 gammaTok).2.2, ⟨unitX_of (by decide +kernel), by decide +kernel⟩⟩

theorem witness_TheFabricMovesTokensAndRunsHandlers_9 :
    (∃ (s : State) (L : Lease) (pe : PE) (k : Token) (d : _), s.unitOp? 2 = some (L, pe, k) ∧ k.low.toNat = d ∧ pe.cu.reads (d.testBit 52) = false) :=
  ⟨(cuS rewriteTok), (unitX 2 rewriteTok).1, (unitX 2 rewriteTok).2.1, (unitX 2 rewriteTok).2.2, (unitX 2 rewriteTok).2.2.low.toNat, ⟨unitX_of (by decide +kernel), rfl, by decide +kernel⟩⟩

theorem witness_TheFabricMovesTokensAndRunsHandlers_10 :
    (∃ (s : State) (L : Lease), s.lease? s.focus.site.lease = some L ∧ 16777216 ≤ L.stall ∧ L.stalled = false ∧ L.region = none ∧ L.unwind = none) :=
  ⟨wFab9s, wFab9L, ⟨rfl, by decide +kernel, rfl, rfl, rfl⟩⟩

def wAct0a : Activation := ((sysC feeds 2).activation?.getD ⟨ve .bf16 1, none⟩)

def wAct1below : Cu := ((sysC (arrayed []) 2).cuAt? 1 0).getD muPe.cu

theorem witness_RegionsPatternsAndCheckersAct :
    (∃ (s : State) (c : SysCu) (a : Activation) (p : Partial), s.sysCu? = some c ∧ c.activation? = some a ∧ c.above? = some p ∧ c.pe.cu.array.length < 4 ∧ (c.cuAt? c.i (c.j + 1) = none ∨ c.region.n ≤ c.j + 1 ∨ (∃ r, c.cuAt? c.i (c.j + 1) = some r ∧ r.acts = []))) :=
  ⟨sysS feeds 2, sysC feeds 2, wAct0a, .vals (Vector.replicate 32 0), ⟨some_getD (d := ⟨leaseI, muPe, ⟨0, 0, 0, 0⟩, 0, 0⟩) (by decide +kernel), some_getD (by decide +kernel), by decide +kernel, by decide +kernel, by decide +kernel⟩⟩

theorem witness_RegionsPatternsAndCheckersAct_2 :
    (∃ (s : State) (c : SysCu) (v : InArray) (rest : _) (below : Cu), s.sysCu? = some c ∧ c.pe.cu.array = v :: rest ∧ c.i + 1 < c.region.m ∧ c.cuAt? (c.i + 1) c.j = some below ∧ below.chain = []) :=
  ⟨sysS (arrayed []) 2, sysC (arrayed []) 2, vec0, [], wAct1below, ⟨some_getD (d := ⟨leaseI, muPe, ⟨0, 0, 0, 0⟩, 0, 0⟩) (by decide +kernel), by decide +kernel, by decide +kernel, some_getD (by decide +kernel), by decide +kernel⟩⟩

theorem witness_RegionsPatternsAndCheckersAct_3 :
    (∃ (s : State) (c : SysCu) (v : InArray) (rest : _) (b : Batch) (bs : _), s.sysCu? = some c ∧ c.pe.cu.array = v :: rest ∧ c.region.m ≤ c.i + 1 ∧ c.pe.cu.batches = b :: bs ∧ b.mode = 0 ∧ c.lease.unwind = none ∧ 2 ≤ c.pe.outFree c.lease.plane 7) :=
  ⟨sysS (arrayed [⟨0, 0, 4, 0⟩]) 0, sysC (arrayed [⟨0, 0, 4, 0⟩]) 0, vec0, [], ⟨0, 0, 4, 0⟩, [], ⟨some_getD (d := ⟨leaseI, muPe, ⟨0, 0, 0, 0⟩, 0, 0⟩) (by decide +kernel), by decide +kernel, by decide +kernel, by decide +kernel, by decide +kernel, by decide +kernel, by decide +kernel⟩⟩

theorem witness_RegionsPatternsAndCheckersAct_4 :
    (∃ (s : State) (c : SysCu) (v : InArray) (rest : _) (b : Batch) (bs : _), s.sysCu? = some c ∧ c.pe.cu.array = v :: rest ∧ c.region.m ≤ c.i + 1 ∧ c.pe.cu.batches = b :: bs ∧ b.mode ≠ 0 ∧ c.pe.holdsTile b.tile = false ∧ v.err = none) :=
  ⟨sysS (arrayed [⟨1, 0, 4, 0⟩]) 0, sysC (arrayed [⟨1, 0, 4, 0⟩]) 0, vec0, [], ⟨1, 0, 4, 0⟩, [], ⟨some_getD (d := ⟨leaseI, muPe, ⟨0, 0, 0, 0⟩, 0, 0⟩) (by decide +kernel), by decide +kernel, by decide +kernel, by decide +kernel, by decide +kernel, by decide +kernel, by decide +kernel⟩⟩

theorem witness_RegionsPatternsAndCheckersAct_5 :
    (∃ (s : State) (p : Port) (L : Lease) (ag : PE) (k : _) (d : BitVec 384) (l : Live), s.portOf? s.focus.site .ag = some p ∧ s.agOf p = some (L, ag) ∧ s.fabricStopped = false ∧ s.slotsDue L (s.nextEoi L) = [] ∧ ((List.range 4).map (fun i => (p.lastPat + 1 + i) % 4)).findSome? (fun k => (s.patsOf p).find? (fun x => x.1 = k && s.patCan p k x.2.1 x.2.2.1 x.2.2.2)) = some (k, d, false, l) ∧ patDir d = 0) :=
  ⟨agS, portI, leaseI, agPe, 0, agPat, ⟨0, 0, 0, 0, false, 0, false⟩, ⟨by decide +kernel, rfl, rfl, by decide +kernel, by decide +kernel, by decide +kernel⟩⟩

theorem witness_RegionsPatternsAndCheckersAct_6 :
    (∃ (s : State) (p : Port) (q : Port) (d : BitVec 384) (l : Live) (site : SiteRef), s.port? p.id = some q ∧ p.owner = .mu site ∧ l.over d = none ∧ l.va d % 2 ^ patEsize d = 0) :=
  ⟨agS, portI, portI, agPat, ⟨0, 0, 0, 0, false, 0, false⟩, ⟨1, 0, 1⟩, ⟨rfl, rfl, by decide +kernel, by decide +kernel⟩⟩

theorem witness_RegionsPatternsAndCheckersAct_7 :
    (∃ (s : State), s.power ≠ .off) :=
  ⟨up1, by decide +kernel⟩

theorem witness_RegionsPatternsAndCheckersAct_8 :
    (∃ (s : State) (pa : _), s.power ≠ .off ∧ s.validPa pa = true ∧ s.l2? (locOf pa).die (locOf pa).key = none) :=
  ⟨up1, 64, by decide +kernel⟩

theorem witness_RegionsPatternsAndCheckersAct_10 :
    (∃ (s : State) (x : _) (dx : _) (dy : _) (L : Lease) (pe : PE), s.power ≠ .off ∧ s.lease? x = some L ∧ L.pe? dx dy = some pe) :=
  ⟨run1 id, 1, 0, 1, leaseI, muPe, ⟨by decide, rfl, rfl⟩⟩

theorem witness_RegionsPatternsAndCheckersAct_9 :
    (∃ (s : State) (x dx dy k : Nat) (i : Instr) (c : Site), decodeWord (s.slotWord ⟨x, dx, dy⟩ k) = .ok i ∧ checkedOp ((s.slotWord ⟨x, dx, dy⟩ k).extractLsb' 48 8).toNat = true ∧ Lands i.head ∧ Fires i { s with focus := Focus.slotAt ⟨x, dx, dy⟩ k } c) :=
  (firesIn_fires (i := .add (fA .n32)) (u := fun c => c.taken (Instr.add (fA .n32)).uses) (checked := fun c => c.taken (Instr.add (fA .n32)).uses) (q := any) (s := { stands (.add (fA .n32)) (opLR (sc .n32 1) (sc .n32 2)) with focus := Focus.slotAt ⟨1, 0, 0⟩ 0 }) (by decide +kernel)).elim fun c h => ⟨stands (.add (fA .n32)) (opLR (sc .n32 1) (sc .n32 2)), 1, 0, 0, 0, .add (fA .n32), c, by decide +kernel, by decide +kernel, lands, h.1⟩

/-- A port whose side log holds an older store of the refused load's page. -/
def loggedP : Port := { portQ [refusedLoad] with sideLog := [⟨{ refusedStore with id := 3, status := .held 2 false }, 0xFF⟩] }

def loggedS : State := { queued [] with ports := [loggedP] }

def wReply0s1 : State := (((queued [loaded]).deliver (portQ [loaded]) loaded 0x1234 none).getD up)

theorem witness_RepliesReachTheirPorts :
    (∃ (s : State) (p : Port) (r : Req) (ro : _) (d : Line) (e : Option Word) (s1 : State), AtPort s p r ∧ r.op = .load ro ∧ r.status = .done d e ∧ p.loadBefore r.id = false ∧ p.bound = true ∧ s.deliver p r d e = some s1) ∧
    (∃ (s : State) (p : Port) (r : Req) (d : Line) (e : Option Word) (site : SiteRef) (ch : _) (L : Lease) (pe : PE), AtPort s p r ∧ r.op = .load false ∧ r.status = .done d e ∧ p.loadBefore r.id = false ∧ p.bound = true ∧ r.dest = .chan site ch ∧ s.lease? site.lease = some L ∧ s.pe? site = some pe ∧ L.unwind = none ∧ 1 ≤ pe.outFree L.plane ch ∧ ch < 8 ∧ p.owner = .mu site) ∧
    (∃ (s : State) (p : Port) (r : Req) (d : Line) (e : Option Word), AtPort s p r ∧ r.op = .pref ∧ r.status = .done d e ∧ p.bound = true) ∧
    (∃ (s : State) (p : Port) (r : Req) (d : Line) (e : Option Word), AtPort s p r ∧ r.op = .store ∧ r.status = .done d e ∧ r.dest = .none ∧ p.bound = true) :=
  ⟨⟨queued [loaded], portQ [loaded], loaded, false, 0x1234, none, wReply0s1, ⟨⟨rfl, rfl, rfl⟩, rfl, rfl, by decide +kernel, rfl, some_getD (by decide +kernel)⟩⟩,
    ⟨queued [loaded], portQ [loaded], loaded, 0x1234, none, ⟨1, 0, 1⟩, 0, leaseI, muPe, ⟨⟨rfl, rfl, rfl⟩, rfl, rfl, by decide +kernel, rfl, rfl, rfl, rfl, rfl, by decide +kernel, by decide +kernel, rfl⟩⟩,
    ⟨queued [prefetched], portQ [prefetched], prefetched, 0, none, ⟨⟨rfl, rfl, rfl⟩, rfl, rfl, rfl⟩⟩,
    ⟨queued [stored], portQ [stored], stored, 0, none, ⟨⟨rfl, rfl, rfl⟩, rfl, rfl, rfl, rfl⟩⟩⟩

theorem witness_RepliesReachTheirPorts_2 :
    (∃ (s : State) (p : Port) (r : Req) (c : Nat) (site : SiteRef), AtPort s p r ∧ r.op = .load false ∧ r.status = .refused c ∧ p.bound = true ∧ p.owner = .mu site ∧ p.logBars r = false ∧ p.logsPage r.va = false ∧ (∃ L, s.lease? site.lease = some L ∧ L.region = none ∧ L.unwind = none)) ∧
    (∃ (s : State) (p : Port) (r : Req) (c : Nat), AtPort s p r ∧ r.op = .load false ∧ r.status = .refused c ∧ p.bound = true ∧ p.logBars r = true) ∧
    (∃ (s : State) (p : Port) (r : Req) (c : Nat) (site : SiteRef), AtPort s p r ∧ r.op = .store ∧ r.status = .refused c ∧ p.bound = true ∧ p.owner = .mu site ∧ p.slstop = false ∧ p.logsPage r.va = false ∧ (∃ L, s.lease? site.lease = some L ∧ L.region = none ∧ L.unwind = none)) ∧
    (∃ (s : State) (p : Port) (e : SideEntry) (rest : _), s.port? s.focus.port = some p ∧ p.sideLog = e :: rest ∧ e.req.status = .cleared ∧ Resends s p e.req.id ∧ s.portMoves p = false) ∧
    (∃ (s : State) (p : Port), s.port? s.focus.port = some p ∧ s.portMoves p = true) ∧
    (∃ (s : State) (p : Port) (r : Req), s.port? s.focus.port = some p ∧ p.queue.find? (fun r => r.status = .cleared) = some r ∧ Resends s p r.id) :=
  ⟨⟨queued [refusedLoad], portQ [refusedLoad], refusedLoad, 1, ⟨1, 0, 1⟩, ⟨⟨rfl, rfl, rfl⟩, rfl, rfl, rfl, rfl, by decide +kernel, by decide +kernel, ⟨leaseI, rfl, rfl, rfl⟩⟩⟩,
    ⟨loggedS, loggedP, refusedLoad, 1, ⟨⟨rfl, rfl, rfl⟩, rfl, rfl, rfl, by decide +kernel⟩⟩,
    ⟨queued [refusedStore], portQ [refusedStore], refusedStore, 2, ⟨1, 0, 1⟩, ⟨⟨rfl, rfl, rfl⟩, rfl, rfl, rfl, rfl, by decide +kernel, by decide +kernel, ⟨leaseI, rfl, rfl, rfl⟩⟩⟩,
    ⟨sideS, sidePort, sideEntry, [], ⟨rfl, rfl, rfl, ⟨by decide +kernel, by decide +kernel, by decide +kernel, by decide +kernel⟩, by decide +kernel⟩⟩,
    ⟨{ drained (.move 2 0) with focus := { Focus.none with port := 1 } }, portI, ⟨rfl, by decide +kernel⟩⟩,
    ⟨queued [clearedLoad], portQ [clearedLoad], clearedLoad, ⟨rfl, rfl, ⟨by decide +kernel, by decide +kernel, by decide +kernel, by decide +kernel⟩⟩⟩⟩

def wHome2s : State := { queued [(sentLoad (2 ^ 51))] with routes := Vector.replicate 64 0 }

def wHome6s : State := { up1 with dir := [⟨64, [1, 8], [1]⟩], focus := { Focus.none with addr := 64, die := 1 } }

def wHome11s : State := { up1 with dir := [⟨64, [1], [1]⟩], focus := { Focus.none with addr := 64, die := 1 } }

def wHome7s : State := { queued [] with invals := [⟨7, 1, some 1, 0, 65536, [(1, [])], false, none⟩] }

def wHome7v : Inval := ⟨7, 1, some 1, 0, 65536, [(1, [])], false, none⟩

/-- A walk that has restarted eight times, of a page outside the range that an invalidation of its context names. -/
def walkLeaf : Leaf := ⟨0, 0, 0, false, false, 0, false, 0, true, true, true, true, 0, 0⟩

def walkReq (n : Nat) : Req := reqI (.load false) 64 (.chan ⟨1, 0, 1⟩ 0) (.walking 0 0 n walkLeaf)

def wHome12s : State := { queued [walkReq 8] with invals := [⟨7, 1, some 1, 2 ^ 20, 65536, [], false, none⟩] }

def wHome8s : State := { queued [] with invals := [⟨7, 9, none, 0, 65536, [], true, none⟩] }

def wHome10s : State := { up1 with owners := [(0, 0xC001)], hdm := [(0, 65536)] }

def wHome13s : State := { wHome10s with dir := [⟨64, [1], []⟩] }

def wHome14x : L2Line := ⟨0, .frame 64, 5, false, true, []⟩

def wHome14s : State := { wHome10s with l2 := [wHome14x] }

theorem witness_RequestsAreTranslatedAndPerformed :
    (∃ (s : State) (p : Port) (r : Req), PortReq s p r ∧ s.uncoreStopped = false ∧ r.status.tries = true ∧ s.inTurn p r = true) ∧
    (∃ (s : State) (p : Port) (r : Req) (c : Ctx), PortReq s p r ∧ r.status = .sent ∧ s.ctx? p.ctx = some c ∧ vaPkg r.va = s.pkgNo ∧ c.xlatDie r.va = none ∧ r.op ≠ .pref) ∧
    (∃ (s : State) (p : Port) (r : Req) (c : Ctx), PortReq s p r ∧ s.ctx? p.ctx = some c ∧ vaPkg r.va ≠ s.pkgNo ∧ vaDc r.va ≠ 5 ∧ vaDc r.va ≠ 6 ∧ s.routes[vaPkg r.va]? = some 0 ∧ r.op ≠ .pref) ∧
    (∃ (s : State) (p : Port) (r : Req) (n : Nat), PortReq s p r ∧ (r.status = .satWait n ∨ r.status = .raceWait n) ∧ n + 65536 ≤ s.fabric) :=
  ⟨⟨queued [sentLoad 64], portQ [sentLoad 64], sentLoad 64, ⟨⟨rfl, rfl⟩, rfl, by decide +kernel, by decide +kernel⟩⟩,
    ⟨queued [(sentLoad (5 * 2 ^ 48))], portQ [(sentLoad (5 * 2 ^ 48))], (sentLoad (5 * 2 ^ 48)), ctx1, ⟨⟨rfl, rfl⟩, rfl, rfl, by decide +kernel, by decide +kernel, by decide +kernel⟩⟩,
    ⟨wHome2s, portQ [(sentLoad (2 ^ 51))], (sentLoad (2 ^ 51)), ctx1, ⟨⟨rfl, rfl⟩, rfl, by decide +kernel, by decide +kernel, by decide +kernel, by decide +kernel, by decide +kernel⟩⟩,
    ⟨queued [waitingLoad (.satWait 5)], portQ [waitingLoad (.satWait 5)], waitingLoad (.satWait 5), 5, ⟨⟨rfl, rfl⟩, .inl rfl, by decide +kernel⟩⟩⟩

theorem witness_RequestsAreTranslatedAndPerformed_2 :
    (∃ (s : State) (p : Port) (r : Req) (n : Nat), PortReq s p r ∧ r.status = .satWait n ∧ s.uncoreStopped = false) ∧
    (∃ (s : State) (d : DirEntry), s.dir? s.focus.addr = some d ∧ s.focus.die ∈ d.waiting ∧ (∃ x ∈ d.sharers, x ≠ s.focus.die)) ∧
    (∃ (s : State) (d : DirEntry), s.dir? s.focus.addr = some d ∧ s.focus.die ∈ d.waiting ∧ (∀ x ∈ d.sharers, x = s.focus.die) ∧ (∀ e ∈ s.dir, e.pa = s.focus.addr → e = d)) ∧
    (∃ (s : State) (v : Inval), s.invals.find? (fun v => v.id = s.focus.req) = some v ∧ s.batonWaits v s.focus.port = []) ∧
    (∃ (s : State) (v : Inval), s.invals.find? (fun v => v.id = s.focus.req) = some v ∧ v.ports = [] ∧ s.namedCtxs v.vmid v.asid = [] ∧ v.packet = none ∧ s.walkStarved v = false) ∧
    (∃ (s : State) (v : Inval), s.invals.find? (fun v => v.id = s.focus.req) = some v ∧ s.walkStarved v = true) :=
  ⟨⟨queued [waitingLoad (.satWait 5)], portQ [waitingLoad (.satWait 5)], waitingLoad (.satWait 5), 5, ⟨⟨rfl, rfl⟩, rfl, rfl⟩⟩,
    ⟨wHome6s, ⟨64, [1, 8], [1]⟩, by decide +kernel⟩, ⟨wHome11s, ⟨64, [1], [1]⟩, by decide +kernel⟩,
    ⟨wHome7s, wHome7v, by decide +kernel⟩,
    ⟨wHome8s, ⟨7, 9, none, 0, 65536, [], true, none⟩, by decide +kernel⟩,
    ⟨wHome12s, ⟨7, 1, some 1, 2 ^ 20, 65536, [], false, none⟩, by decide +kernel⟩⟩

theorem witness_RequestsAreTranslatedAndPerformed_3 :
    (∃ (s : State) (pa : _), s.uncoreStopped = false ∧ s.inHdm pa = false) ∧
    (∃ (s : State) (pa : _), s.uncoreStopped = false ∧ s.hostFrame pa = true ∧ (∀ e, s.dir? (lineOf pa) = some e → ∀ x ∈ e.sharers, x = 8)) ∧
    (∃ (s : State) (pa : _) (x : _), s.uncoreStopped = false ∧ s.hostFrame pa = true ∧ (∀ e, s.dir? (lineOf pa) = some e → ∀ x ∈ e.sharers, x = 8) ∧ s.l2? (locOf pa).die (locOf pa).key = some x ∧ lineOf pa ∉ s.eccFailed) ∧
    (∃ (s : State) (pa : _) (e : DirEntry), s.uncoreStopped = false ∧ s.hostFrame pa = true ∧ s.dir? (lineOf pa) = some e ∧ (∃ x ∈ e.sharers, x ≠ 8)) ∧
    (∃ (s : State) (p : Port) (r : Req) (c : Ctx) (td : Nat) (a : _) (b : _) (n : _) (l : _), Claims.PortReq s p r ∧ r.status = .walking a b n l ∧ s.ctx? p.ctx = some c ∧ c.xlatDie r.va = some td ∧ s.uncoreStopped = false ∧ s.seqs c = (a, b) ∧ s.installBlocked c r.va l = false) ∧
    (∃ (s : State) (p : Port) (r : Req) (c : Ctx) (td : Nat) (a : _) (b : _) (n : _) (l : _), Claims.PortReq s p r ∧ r.status = .walking a b n l ∧ s.ctx? p.ctx = some c ∧ c.xlatDie r.va = some td ∧ s.uncoreStopped = false ∧ s.seqs c = (a, b) ∧ s.installBlocked c r.va l = true) ∧
    (∃ (s : State) (p : Port) (r : Req) (c : Ctx) (td : Nat) (a : _) (b : _) (n : _) (l : _), Claims.PortReq s p r ∧ r.status = .walking a b n l ∧ s.ctx? p.ctx = some c ∧ c.xlatDie r.va = some td ∧ s.uncoreStopped = false ∧ s.seqs c ≠ (a, b) ∧ (s.walk c td r.va).1.toOption.isSome = true) ∧
    (∃ (s : State) (p : Port) (r : Req) (c : Ctx) (td : Nat), Claims.PortReq s p r ∧ r.status = .miss ∧ s.ctx? p.ctx = some c ∧ c.xlatDie r.va = some td ∧ s.uncoreStopped = false ∧ (s.walk c td r.va).1.toOption.isSome = true) ∧
    (∃ (s : State) (p : Port) (r : Req) (c : Ctx) (td : Nat), Claims.PortReq s p r ∧ r.status = .miss ∧ s.ctx? p.ctx = some c ∧ c.xlatDie r.va = some td ∧ s.uncoreStopped = false ∧ (s.walk c td r.va).1.toOption.isSome = false) :=
  ⟨⟨up1, 64, by decide +kernel⟩,
    ⟨wHome10s, 64, by decide +kernel, by decide +kernel, fun e h => (Option.some_ne_none e (h.symm.trans (by decide +kernel : wHome10s.dir? (lineOf 64) = none))).elim⟩,
    ⟨wHome14s, 64, wHome14x, by decide +kernel, by decide +kernel, fun e h => (Option.some_ne_none e (h.symm.trans (by decide +kernel : wHome14s.dir? (lineOf 64) = none))).elim, by decide +kernel, by decide +kernel⟩,
    ⟨wHome13s, 64, ⟨64, [1], []⟩, by decide +kernel⟩,
    ⟨queued [walkReq 0], portQ [walkReq 0], walkReq 0, ctx1, 0, 0, 0, 0, walkLeaf, ⟨rfl, rfl⟩, rfl, rfl, by decide +kernel, rfl, by decide +kernel, by decide +kernel⟩,
    ⟨{ queued [walkReq 0] with invals := [⟨7, 1, some 1, 0, 65536, [], false, none⟩] }, portQ [walkReq 0], walkReq 0, ctx1, 0, 0, 0, 0, walkLeaf, ⟨rfl, rfl⟩, rfl, rfl, by decide +kernel, rfl, by decide +kernel, by decide +kernel⟩,
    ⟨{ walking 31 with ports := [portQ [walkReq 0]], s1seq := [(1, 1)] }, portQ [walkReq 0], walkReq 0, ctx0, 0, 0, 0, 0, walkLeaf, ⟨rfl, rfl⟩, rfl, rfl, by decide +kernel, rfl, by decide +kernel, by decide +kernel⟩,
    ⟨walking 31, portQ [(reqI (.load false) 64 (.chan ⟨1, 0, 1⟩ 0) .miss)], (reqI (.load false) 64 (.chan ⟨1, 0, 1⟩ 0) .miss), ctx0, 0, ⟨rfl, rfl⟩, rfl, rfl, by decide +kernel, rfl, by decide +kernel⟩,
    ⟨walking 0, portQ [(reqI (.load false) 64 (.chan ⟨1, 0, 1⟩ 0) .miss)], (reqI (.load false) 64 (.chan ⟨1, 0, 1⟩ 0) .miss), ctx0, 0, ⟨rfl, rfl⟩, rfl, rfl, by decide +kernel, rfl, by decide +kernel⟩⟩

def wEng1c : EngCmd := { cmd9 with segsLeft := 1 }

def wEng2c : EngCmd := { cmd9 with segsLeft := 1 }

/-- An arrival from die 1 at die 0, whose seam does not run. -/
def wEng5m : SyncMsg := { msg .join with die := 1 }

def wEng5s : State := { run1 id with syncQ := [wEng5m], links := Link.resetAll 4, focus := { at5 with die := 1 } }

def wEng4s : State := { run1 id with syncQ := [msg .join] }

theorem witness_EnginesAndSyncUnitsWork :
    (∃ (s : State) (q : VQueue) (e : VEntry) (rest : _) (c : EngCmd) (x : Ctx), s.uncoreStopped = false ∧ s.dieUp s.focus.die = true ∧ s.focus.idx < engCount s.focus.kind ∧ (∀ g ∈ s.engines, ¬(g.die = s.focus.die ∧ g.kind = s.focus.kind ∧ g.idx = s.focus.idx)) ∧ s.vqueues = [q] ∧ q.die = s.focus.die ∧ q.kind = s.focus.kind ∧ q.entries = e :: rest ∧ s.headReady q = true ∧ s.cmd? e.cmd = some c ∧ s.ctx? q.tid = some x ∧ c.party ≠ 0) ∧
    (∃ (s : State) (g : Engine) (c : EngCmd) (p : Port) (w : OutChunk) (rest : _), s.uncoreStopped = false ∧ s.engines.find? (fun e => e.die = s.focus.die && e.kind = s.focus.kind && e.idx = s.focus.idx) = some g ∧ s.cmd? g.cur.cmd = some c ∧ s.port? g.port = some p ∧ c.stop = .running ∧ (g.begin_ c).todo = w :: rest ∧ s.mayIssue p .store w.va = true) ∧
    (∃ (s : State) (g : Engine) (c : EngCmd), s.uncoreStopped = false ∧ s.engines.find? (fun e => e.die = s.focus.die && e.kind = s.focus.kind && e.idx = s.focus.idx) = some g ∧ s.cmd? g.cur.cmd = some c ∧ s.drained g.port = true ∧ c.op = .cpy ∧ c.stop = .running ∧ g.opos = g.stopAt ∧ g.todo = [] ∧ g.out = []) ∧
    (∃ (s : State) (pe : PE) (k : Nat) (d : _) (rest : _), s.pe? s.focus.site = some pe ∧ s.focus.ch = k ∧ k < 16 ∧ (pe.mu.cb k).resv = ⟨d, true⟩ :: rest ∧ (∀ x ∈ rest, x.landed = false)) :=
  ⟨⟨dispatching, queue9, ⟨9, 0, 4096⟩, [], cmd9, ctx1, ⟨rfl, by decide +kernel, by decide +kernel, by decide +kernel, rfl, rfl, rfl, rfl, by decide +kernel, rfl, rfl, by decide +kernel⟩⟩,
    ⟨copying [engine9] 1, engine9, wEng1c, portE, ⟨0x18000, List.replicate 64 7, none⟩, [], ⟨rfl, rfl, rfl, rfl, rfl, by decide +kernel, by decide +kernel⟩⟩,
    ⟨copying [engineDone] 1, engineDone, wEng2c, ⟨rfl, rfl, rfl, by decide +kernel, rfl, rfl, by decide +kernel, rfl, rfl⟩⟩,
    ⟨fab landedSlot, landedSlot muPe, 0, 9, [], ⟨rfl, rfl, by decide +kernel, by decide +kernel, by decide +kernel⟩⟩⟩

theorem witness_EnginesAndSyncUnitsWork_2 :
    (∃ (s : State) (m : SyncMsg) (rest : _), s.nextSync s.focus.die [] s.syncQ = some (m, rest) ∧ ({ s with syncQ := rest } : State).syncPath m = true) ∧
    (∃ (s : State) (m : SyncMsg) (rest : _), s.nextSync s.focus.die [] s.syncQ = some (m, rest) ∧ ({ s with syncQ := rest } : State).syncPath m = false) ∧
    (∃ (s : State) (m : SyncMsg), m.op = .join ∧ s.team? m.tid m.team = none ∧ s.teamLost m.tid m.team = false) ∧
    (∃ (s : State) (m : SyncMsg) (k : Nat) (x : Team), m.op = .arrive k false ∧ k < 24 ∧ s.team? m.tid m.team = some x ∧ x.hasMember m.site m.plane = true ∧ (x.mark k).expect ≠ 0 ∧ (x.mark k).count + 1 ≠ (x.mark k).expect) ∧
    (∃ (s : State) (x : Team) (k : Nat), k < 24 ∧ s.team? x.tid x.num = some x ∧ (x.mark k).count + 1 = (x.mark k).expect ∧ s.waiters = []) :=
  ⟨⟨wEng4s, msg .join, [], by decide +kernel⟩,
    ⟨wEng5s, wEng5m, [], by decide +kernel⟩,
    ⟨run1 id, msg .join, ⟨rfl, rfl, by decide +kernel⟩⟩,
    ⟨teamed 3 1, msg (.arrive 2 false), 2, team3 3 1, ⟨rfl, by decide +kernel, rfl, by decide +kernel, by decide +kernel, by decide +kernel⟩⟩,
    ⟨teamed 3 2, team3 3 2, 23, ⟨by decide +kernel, rfl, by decide +kernel, rfl⟩⟩⟩

def wTrap0k : Task := { taskI with st := .running }

theorem witness_TrapsActAndRegionsUnwind :
    (∃ (s : State) (x : Trap) (rest : _) (L : Lease) (k : Task) (a : TrapAct) (s1 : State), Traps s x rest L k a s1) ∧
    (∃ (s : State) (k : Task), s.task? k.die k.idx = some k) ∧
    (∃ (s : State) (x : Trap) (rest : _) (L : Lease) (id : _), s.traps = x :: rest ∧ s.uncoreStopped = false ∧ x.lease = some id ∧ s.lease? id = some L ∧ ({ s with traps := rest } : State).holdsTraps L = true) ∧
    (∃ (x : Trap), x.req = none) ∧
    (∃ (s : State) (L : Lease) (u : Unwind) (r : Region), s.lease? s.focus.site.lease = some L ∧ L.unwind = some u ∧ L.region = some r ∧ s.fabricStopped = false ∧ s.uncoreStopped = false ∧ L.parked = none ∧ u.step < 5 ∧ s.portsSettled L.id = true ∧ s.sysMoves L = false) :=
  ⟨⟨trapped id, trapI, [], leaseI, wTrap0k, kills.1, kills.2, ⟨rfl, rfl, ⟨1, rfl, rfl⟩, by decide +kernel, rfl, rfl, rfl⟩⟩,
    ⟨run1 id, { taskI with st := .running }, rfl⟩,
    ⟨trapped (fun _ => drainedL (.move 2 0)), trapI, [], drainedL (.move 2 0), 1, ⟨rfl, rfl, rfl, rfl, by decide +kernel⟩⟩,
    ⟨trapI, rfl⟩,
    ⟨run1 (fun _ => unwindL 0), unwindL 0, ⟨errWord 1 0 1 0 0 0 true, 0⟩, regionI none, ⟨rfl, rfl, rfl, rfl, rfl, rfl, by decide +kernel, by decide +kernel, by decide +kernel⟩⟩⟩

theorem witness_TrapsActAndRegionsUnwind_2 :
    (∃ (s : State) (L : Lease) (u : Unwind) (r : Region), s.lease? s.focus.site.lease = some L ∧ L.unwind = some u ∧ L.region = some r ∧ s.fabricStopped = false ∧ s.uncoreStopped = false ∧ L.parked = none ∧ 5 ≤ u.step ∧ L.recovering r = false ∧ L.heldTraps = []) ∧
    (∃ (s : State) (L : Lease) (r : Region) (j : _), s.lease? s.focus.site.lease = some L ∧ L.region = some r ∧ r.last = some j ∧ L.unwind = none ∧ j < s.sinkInv L ∧ (∀ p ∈ s.leasePorts L.id, p.holdsCommit r = false)) :=
  ⟨⟨run1 (fun _ => unwindL 5), unwindL 5, ⟨errWord 1 0 1 0 0 0 true, 5⟩, regionI none, ⟨rfl, rfl, rfl, rfl, rfl, rfl, by decide +kernel, by decide +kernel, rfl⟩⟩,
    ⟨run1 (fun _ => commitL), commitL, regionI (some 0), 0, ⟨rfl, rfl, rfl, rfl, by decide +kernel, by decide +kernel⟩⟩⟩

def wLink3s : State := linked 2 (fun l => { l with st := .training })

def wLink4s : State := linked 2 (fun l => { l with st := .readmitting, fails := 1 })

def wLink5s : State := linked 0 (fun l => { l with st := .quiescing, alone := true, mods := 5 })

def wLink6s : State := linked 0 (fun l => { l with mods := 5, limit := 26 })

def wLink13s : State := { spanned upSpan with focus := { Focus.none with port := 15, ch := 7 } }

def wLink14s : State := { up1 with fabric := 2 ^ 30, siteChecks := [(1, 2, 5)] }

def wLink15s : State := { up1 with withheld := [4] }

def wLink17s : State := { run1 id with resets := [⟨0, 2, 0⟩] }

def wLink17k : Task := { taskI with st := .running }

theorem witness_LinksSpansAndResetsGoOn :
    (∃ (s : State) (k : Nat) (n : _), k < 8 ∧ s.linkLive k = true ∧ 0 < n ∧ n < (s.link k).mods) ∧
    (∃ (s : State) (k : Nat) (n : _), k < 4 ∧ s.linkLive k = true ∧ 0 < n ∧ n < (s.link k).mods ∧ (s.link k).st = .running) ∧
    (∃ (s : State) (k : Nat), k < 4 ∧ s.linkLive k = true) ∧
    (∃ (s : State) (d : _), d < 4 ∧ s.linkLive (4 + d) = true) ∧
    (∃ (s : State) (k : Nat), k < 4 ∧ s.power = .run ∧ s.uncoreStopped = false ∧ (s.link k).st = .training) ∧
    (∃ (s : State) (k : Nat), k < 4 ∧ s.power = .run ∧ s.uncoreStopped = false ∧ (s.link k).st = .readmitting) ∧
    (∃ (s : State), s.focus.idx < 4 ∧ s.power = .run ∧ (s.link s.focus.idx).st = .quiescing ∧ (s.link s.focus.idx).alone = true ∧ s.seamUse s.focus.idx = 0) :=
  ⟨⟨up1, 7, 1, by decide +kernel⟩, ⟨up1, 0, 15, by decide +kernel⟩,
    ⟨up1, 3, by decide +kernel⟩,
    ⟨up1, 1, by decide +kernel⟩,
    ⟨wLink3s, 2, by decide +kernel⟩,
    ⟨wLink4s, 2, by decide +kernel⟩,
    ⟨wLink5s, by decide +kernel⟩⟩

theorem witness_LinksSpansAndResetsGoOn_2 :
    (∃ (s : State) (k : Nat), k < 4 ∧ s.power = .run ∧ s.dieUp (seamDies k).1 = true ∧ s.dieUp (seamDies k).2 = true ∧ (s.link k).st = .running) ∧
    (∃ (s : State) (n : _) (f : BitVec 2048) (p : SpanPort) (e : Nat), s.power = .run ∧ n < 16 ∧ s.span n = p ∧ p.st = .up ∧ e ≤ 15 ∧ flitOk f = true ∧ flitKind f = 0 ∧ flitNak f = false ∧ flitAckv f = false ∧ flitSeq f = p.lastAcc + 1) ∧
    (∃ (s : State) (n : _) (p : SpanPort) (e : Nat), s.power = .run ∧ n < 16 ∧ s.span n = p ∧ p.st = .up ∧ p.naked = false ∧ 15 < e) ∧
    (∃ (p : SpanPort), p.pend = [] ∧ 255 ≤ p.held.length) ∧
    (∃ (s : State) (n : _), s.power = .run ∧ n < 16 ∧ (s.span n).st = .up) ∧
    (∃ (s : State) (n : _) (r : Nat), s.power = .run ∧ n < 16 ∧ r ≤ 2) ∧
    (∃ (s : State), s.power = .run ∧ s.focus.port < 16 ∧ (s.span s.focus.port).st = .training) :=
  ⟨⟨wLink6s, 0, by decide +kernel⟩,
    ⟨spanned upSpan, 3, flit1, upSpan SpanPort.reset, 15, ⟨rfl, by decide +kernel, by decide +kernel, rfl, by decide, flit1_ok, by decide +kernel, by decide +kernel, by decide +kernel, by decide +kernel⟩⟩,
    ⟨spanned upSpan, 3, upSpan SpanPort.reset, 16, by decide +kernel⟩,
    ⟨{ SpanPort.reset with held := List.replicate 255 0 }, rfl, by decide +kernel⟩,
    ⟨spanned upSpan, 3, by decide +kernel⟩,
    ⟨up1, 15, 2, by decide +kernel⟩,
    ⟨spanned trainingSpan, by decide +kernel⟩⟩

theorem witness_LinksSpansAndResetsGoOn_3 :
    (∃ (s : State), s.power = .run ∧ s.focus.port < 16 ∧ (s.span s.focus.port).st = .up ∧ (s.span s.focus.port).rate < 2 ∧ 64 < ((s.span s.focus.port).window.filter (fun t => t + 1000000 > s.ticks)).length) ∧
    (∃ (s : State), s.power = .run ∧ s.focus.port < 16 ∧ (s.span s.focus.port).st = .up ∧ (s.span s.focus.port).laneFail = 0 ∧ s.focus.ch < 8) ∧
    (∃ (s : State), s.power = .run ∧ s.uncoreStopped = false ∧ 1073741824 * (s.halvings + 1) ≤ s.fabric) ∧
    (∃ (s : State) (d : _), s.power = .run ∧ s.uncoreStopped = false ∧ s.measuring.find? (fun m => m.1 = d) = none ∧ d ∈ s.withheld) ∧
    (∃ (s : State) (r : Reset), s.reset? s.focus.die = some r ∧ s.power = .run ∧ s.uncoreStopped = false) ∧
    (∃ (s : State) (r : Reset) (L : Lease) (k : Task) (c : Ctx), s.reset? s.focus.die = some r ∧ s.lease? s.focus.site.lease = some L ∧ s.task? L.die L.entry = some k ∧ s.ctx? L.tid = some c ∧ s.cdRuns = true ∧ r.step = 2 ∧ r.die ∈ L.rect.dies ∧ r.since + 2 * c.drain ≤ s.fabric ∧ k.cls ≠ 1) :=
  ⟨⟨spanned noisySpan, by decide +kernel⟩,
    ⟨wLink13s, by decide +kernel⟩,
    ⟨wLink14s, by decide +kernel⟩,
    ⟨wLink15s, 4, by decide +kernel⟩,
    ⟨resetting 2, ⟨0, 2, 0⟩, by decide +kernel⟩,
    ⟨wLink17s, ⟨0, 2, 0⟩, leaseI, wLink17k, ctx1, ⟨rfl, rfl, rfl, rfl, rfl, rfl, by decide +kernel, by decide +kernel, by decide +kernel⟩⟩⟩

theorem witness_LinksSpansAndResetsGoOn_4 :
    (∃ (s : State) (f : Nat), s.power = .run ∧ s.validPa (65536 * f) = true ∧ (locOf (65536 * f)).kind ≠ .host ∧ paPkg (65536 * f) = s.pkgNo) ∧
    (∃ (s : State) (d : _) (k : Nat), s.power = .run ∧ d < s.fuses.nlive ∧ 1 ≤ k ∧ k ≤ 255) ∧
    (∃ (s : State) (f : Nat), s.power = .run ∧ f < 128) :=
  ⟨⟨up1, 2, by decide +kernel⟩,
    ⟨up1, 3, 255, by decide +kernel⟩,
    ⟨up1, 127, by decide +kernel⟩⟩

/-! ### Packages of the placer's statements -/

/-- No task is passed over. -/
theorem passedOver_nil (s : State) : PassedOver s [] := fun a x b h => by cases a <;> cases h

/-- One task is passed over. -/
theorem passedOver_one {s : State} {k : Task} (h : s.tryPlace k = none) (hs : k.skips + 1 < 64) : PassedOver s [k] := by
  intro a x b e
  cases a with
  | nil => cases e; exact ⟨h, hs⟩
  | cons y ys => cases ys <;> cases e

/-- A task that has been passed over 63 times, in a package that has no context for it. -/
def worn : Task := { taskI with skips := 63 }
def waits63 : State := { placing with ctxs := [], tasks := [worn] }

/-- The package whose die 0 is evacuated. -/
def evac : State := { run1 id with resets := [⟨0, 2, 0⟩] }

/-- A lease that only takes room. -/
def room (id x y w h : Nat) : Lease := { leaseI with id := id, entry := id, x := x, y := y, w := w, h := h }

/-- A task whose saved context stands at VA 0x30000, and the package that holds it there. -/
def savedTask : Task := { taskI with saved := .lease 0x30000 }
def savedRec : Save := ⟨[1, 2, 3], leaseI, [], [], [], [], 0, 0, 0, true⟩
def savedS : State := { placing with
  mem := cellsAt 0x30000 [1, 2, 3], tasks := [savedTask], keep := { placing.keep with saves := [savedRec] } }
def savedHoles : State := { savedS with fuses := { savedS.fuses with holes := List.replicate 4 (BitVec.allOnes 64) } }
def savedDown : State := { savedS with links := savedS.links.mapIdx (fun i l => if i = 4 then { l with st := .down } else l) }

/-- A saved context that is found again, one that is not, and one on a die that is down. -/
theorem loads_saved {s : State} {c : Ctx} {t : Task} {va : Nat} {b : Save} {x : List Byte} (h0 : t.saved = .lease va)
    (h1 : (s.cdRead c.tid va 64 false).1 = .ok x) (h2 : s.keep.saves = [b]) (h4 : (s.cdRead c.tid va b.bytes.length false).1 = .ok b.bytes)
    (h3 : s.holdersRun c.tid va b.bytes.length = true) : s.loadTask c t = (.ok b.lease.image b.lease.args (some b), s) := by
  simp [State.loadTask, State.loadSaved, State.savedVa, State.findSave, h0, h1, h2, h3, h4]
theorem loads_lost {s : State} {c : Ctx} {t : Task} {va : Nat} {x : List Byte} (h0 : t.saved = .lease va)
    (h1 : (s.cdRead c.tid va 64 false).1 = .ok x) (h2 : s.keep.saves = []) : s.loadTask c t = (.reject 2 1, s) := by
  simp [State.loadTask, State.loadSaved, State.savedVa, State.findSave, h0, h1, h2]
theorem loads_waits {s : State} {c : Ctx} {t : Task} {va : Nat} (h0 : t.saved = .lease va)
    (h1 : (s.cdRead c.tid va 64 false).1 = .error cDieDown) : s.loadTask c t = (.wait, s) := by
  simp [State.loadTask, State.loadSaved, State.savedVa, h0, h1]

def savedGone : State := { savedS with keep := placing.keep }
def rec64 : List Byte := [1, 2, 3] ++ List.replicate 61 0
theorem savedGone_loads : savedGone.loadTask ctx1 savedTask = (.reject 2 1, savedGone) :=
  loads_lost (va := 0x30000) (x := rec64) rfl (by decide +kernel) rfl
theorem savedDown_loads : savedDown.loadTask ctx1 savedTask = (.wait, savedDown) :=
  loads_waits (va := 0x30000) rfl (by decide +kernel)
theorem savedS_loads :
    savedS.loadTask ctx1 savedTask = (.ok savedRec.lease.image savedRec.lease.args (some savedRec), savedS) :=
  loads_saved (va := 0x30000) (x := rec64) rfl (by decide +kernel) rfl (by decide +kernel) (by decide +kernel)
theorem savedHoles_loads :
    savedHoles.loadTask ctx1 savedTask = (.ok savedRec.lease.image savedRec.lease.args (some savedRec), savedHoles) :=
  loads_saved (va := 0x30000) (x := rec64) rfl (by decide +kernel) rfl (by decide +kernel) (by decide +kernel)

/-- `image0` with one row more, as an image that may straddle, and the package with room for it across seam 2 alone. -/
def imageT : List (BitVec 256) :=
  frameOf 4 0 0 0 0 (0x314C4941 * 2 ^ 192 + 2 ^ 184 + 2 * 2 ^ 176 + 3 * 2 ^ 168 + 2 ^ 165 + 2 ^ 160 + 8 * 2 ^ 128) :: image0.tail
def tallI : Task := { taskI with h := 3 }
def strad : State := { placing with
  mem := cellsAt 0x10000 (imageT.flatMap (fun f => toBytes 32 f.toNat))
  tasks := [tallI], leases := [room 2 0 28 8 2]
  fuses := { placing.fuses with holes := [BitVec.allOnes 64 - BitVec.twoPow 64 56, BitVec.allOnes 64, BitVec.allOnes 64 - 1, BitVec.allOnes 64] } }

/-- A lease of one site that runs another task, and the package with room for a newcomer only when it moves. -/
def small : Lease := { leaseI with
  id := 7, entry := 1, w := 1, h := 1
  image := [frameOf 4 0 0 0 0 (0x314C4941 * 2 ^ 192 + 2 ^ 184 + 2 ^ 176 + 2 ^ 168 + 2 ^ 160), frameOf 6 0 0 0 255 (2 ^ 223 + 2 ^ 159)] }
def packed : State := { placing with
  tasks := [taskI, { taskI with idx := 1, st := .running }]
  leases := [small, room 2 2 0 2 2, room 3 5 0 3 2, room 4 4 1 1 1, room 5 0 2 8 2]
  fuses := { placing.fuses with holes := (BitVec.allOnes 64 - 1) :: List.replicate 3 (BitVec.allOnes 64) } }

theorem byOrigin_one (L : Lease) : byOrigin [L] = [L] := by unfold byOrigin; exact List.mergeSort_singleton _

/-- Free sites that are named are among those counted. -/
theorem freeSites_ge {s : State} {d : Nat} (l : List (Nat × Nat)) (hn : l.Nodup)
    (h : ∀ c ∈ l, c ∈ (dieRect d).cells ∧ s.rectFree s.takenRects ⟨c.1, c.2, 1, 1⟩ = true) : l.length ≤ s.freeSites d :=
  (List.subperm_of_subset hn (fun c hc => List.mem_filter.mpr (h c hc))).length_le

/-- The first window of a compaction is taken where the one lease in it has a destination. -/
theorem compaction_first {s : State} {t : Task} {image : Image} {d : Nat} {r : Rect} {rest : List Rect} {ds : List (Nat × Nat × Nat)}
    (hr : s.running d = true) (hf : imageW image * imageH image ≤ s.freeSites d) (h1 : origins image (dieRect d) = r :: rest)
    (h2 : (s.leases.filter (fun L => L.rect.meets r)).length = 1)
    (h3 : (s.leases.filter (fun L => L.rect.meets r)).all (fun L => s.movable L && !(decide (L.die = t.die) && decide (L.entry = t.idx))) = true)
    (h4 : s.rectFree s.reservedRects r = true)
    (h5 : s.destinations d (r :: s.takenRects) (s.leases.filter (fun L => L.rect.meets r)) = some ds) :
    s.compaction t image d = some (r, ds) := by
  obtain ⟨L, hL⟩ := List.length_eq_one_iff.mp h2
  rw [hL] at h3 h5
  have h0 : (!s.running d || decide (s.freeSites d < imageW image * imageH image)) = false := by simp [hr, hf]
  have hw : s.windowLeases (fun L => s.movable L && !(decide (L.die = t.die) && decide (L.entry = t.idx))) r = some [L] := by
    unfold State.windowLeases
    simp only [hL, h3, h4, byOrigin_one]
    rfl
  unfold State.compaction
  rw [h0, h1, if_neg Bool.false_ne_true, List.findSome?_cons, hw]
  simp only [h5, Option.map_some]

/-- A running lease of the task, with a reservation that drains it. -/
def draining (cls rem : Nat) (save : Nat) : State := { run1 id with
  ctxs := [{ ctx1 with saveva := save }], tasks := [{ taskI with st := .running, cls := cls, rem := rem }]
  resvs := [{ resv5 with die := 1, drains := [(1, 0)] }] }
def drainK (cls rem : Nat) : Task := { taskI with st := .running, cls := cls, rem := rem }
theorem drains (cls rem save : Nat) :
    DrainEnds (draining cls rem save) { resv5 with die := 1, drains := [(1, 0)] } leaseI (drainK cls rem) { ctx1 with saveva := save } :=
  ⟨rfl, rfl, ⟨0, rfl, Nat.zero_le _⟩, rfl, rfl, rfl, rfl, rfl⟩

/-- A package with a budget for each die. -/
def four : State := { run1 id with budgets := [⟨0, 42666, none, 0, []⟩, ⟨1, 42666, some 5, 7, []⟩, ⟨2, 42666, none, 0, []⟩, ⟨3, 42666, none, 0, []⟩], lap := 5 }

/-- A checkpoint that costs no less. -/
theorem not_cheaper {s : State} {L : Lease} {k : Task}
    (h : (s.checkpointCost L).all (fun n => decide (1024 * k.rem ≤ n)) = true) : ¬CheaperToSave s L k := by
  rintro ⟨-, n, e, hn⟩
  rw [e] at h
  simp only [Option.all_some, decide_eq_true_eq] at h
  omega

def wPlaced6s : State := run1 (fun L => { L with baton := some 0, pes := L.pes.map (fun p => { p with batonDone := true }) })

def wPlaced6k : Task := { taskI with st := .running }

def wPlaced6L : Lease := { leaseI with baton := some 0, pes := leaseI.pes.map (fun p => { p with batonDone := true }) }

theorem witness_TasksArePlacedEndedAndPaced :
    ∃ (s : State) (s1 : State) (die : _) (pre : _) (k : _) (rest : _), Serves s die ∧ (readied s die).readyQueue die = pre ++ k :: rest ∧ PassedOver (readied s die) pre ∧ (passed (readied s die) pre).tryPlace k = some s1 :=
  ⟨{ placing with mem := [] }, (({ placing with mem := [] } : State).tryPlace taskI).getD placing, 0, [], taskI, [], ⟨rfl, rfl, by decide +kernel⟩, readyQueue_one rfl, passedOver_nil _, some_getD (by decide +kernel)⟩

theorem witness_TasksArePlacedEndedAndPaced_2 :
    ∃ (s : State) (die : _) (pre : _), Serves s die ∧ (readied s die).readyQueue die = pre ∧ PassedOver (readied s die) pre :=
  ⟨{ placing with ctxs := [] }, 0, [taskI], ⟨rfl, rfl, by decide +kernel⟩, readyQueue_one rfl, passedOver_one rfl (by decide)⟩

theorem witness_TasksArePlacedEndedAndPaced_3 :
    ∃ (s : State) (die : _) (pre : _) (k : _) (rest : _), Serves s die ∧ (readied s die).readyQueue die = pre ++ k :: rest ∧ PassedOver (readied s die) pre ∧ (passed (readied s die) pre).tryPlace k = none ∧ 63 ≤ k.skips :=
  ⟨waits63, 0, [], worn, [], ⟨rfl, rfl, by decide +kernel⟩, readyQueue_one rfl, passedOver_nil _, rfl, by decide⟩

theorem witness_TasksArePlacedEndedAndPaced_4 :
    ∃ (s : State) (die : _) (r : _), s.cdRuns = true ∧ die = s.dieTurn % max 1 s.fuses.nlive ∧ r ∈ (readied s die).resvs ∧ r.die = die :=
  ⟨reserved, 0, resv5, rfl, rfl, by decide +kernel, rfl⟩

theorem witness_TasksArePlacedEndedAndPaced_5 :
    ∃ (s : State), (∀ L ∈ s.leases, s.mayLeave L = false) :=
  ⟨placing, by decide +kernel⟩

theorem witness_TasksArePlacedEndedAndPaced_6 :
    ∃ (s : State) (pre : _) (L : _) (c : _) (k : _) (r : _), s.leases = pre ++ [L] ∧ (∀ M ∈ pre, s.mayLeave M = false) ∧ s.mayLeave L = true ∧ s.ctx? L.tid = some c ∧ s.task? L.die L.entry = some k ∧ s.onDie L.image s.takenRects (s.firingDie c k) = some r :=
  ⟨evac, [], leaseI, ctx1, { taskI with st := .running }, ⟨2, 0, 2, 2⟩, rfl, by decide +kernel, by decide +kernel, rfl, rfl, by decide +kernel⟩

theorem witness_TasksArePlacedEndedAndPaced_7 :
    ∃ (s : State) (k : _) (c : _) (st : _) (detail : _) (s1 : _), s.ctx? k.ctx = some c ∧ s.loadTask c k = (.reject st detail, s1) :=
  ⟨savedGone, savedTask, ctx1, 2, 1, savedGone, rfl, savedGone_loads⟩

theorem witness_TasksArePlacedEndedAndPaced_8 :
    ∃ (s : State) (s1 : State) (k : _) (c : _), s.ctx? k.ctx = some c ∧ s.loadTask c k = (.wait, s1) :=
  ⟨savedDown, savedDown, savedTask, ctx1, rfl, savedDown_loads⟩

theorem witness_TasksArePlacedEndedAndPaced_9 :
    ∃ (s : State) (s1 : State) (k : _) (c : _) (image : _) (args : _) (r : _), s.ctx? k.ctx = some c ∧ s.loadTask c k = (.ok image args none, s1) ∧ s1.onDie image s1.takenRects (s1.firingDie c k) = some r :=
  ⟨placing, (placing.readImage taskI.ctx taskI.image).2, taskI, ctx1, image0, [], ⟨0, 0, 2, 2⟩, rfl, placing_loads, by decide +kernel⟩

theorem witness_TasksArePlacedEndedAndPaced_10 :
    ∃ (s : State) (s1 : State) (k : _) (c : _) (image : _) (args : _) (b : _) (r : _), s.ctx? k.ctx = some c ∧ s.loadTask c k = (.ok image args (some b), s1) ∧ s1.fitsAtAll image = true ∧ s1.onDie image s1.takenRects (s1.firingDie c k) = some r :=
  ⟨savedS, savedS, savedTask, ctx1, savedRec.lease.image, savedRec.lease.args, savedRec, ⟨0, 0, 2, 2⟩, rfl, savedS_loads, by decide +kernel, by decide +kernel⟩

theorem witness_TasksArePlacedEndedAndPaced_11 :
    ∃ (s : State) (s1 : State) (k : _) (c : _) (image : _) (args : _) (b : _), s.ctx? k.ctx = some c ∧ s.loadTask c k = (.ok image args (some b), s1) ∧ s1.fitsAtAll image = false :=
  ⟨savedHoles, savedHoles, savedTask, ctx1, savedRec.lease.image, savedRec.lease.args, savedRec, rfl, savedHoles_loads, by decide +kernel⟩

theorem witness_TasksArePlacedEndedAndPaced_12 :
    ∃ (s : State) (s1 : State) (k : _) (c : _) (image : _) (args : _) (r : _), s.ctx? k.ctx = some c ∧ s.loadTask c k = (.ok image args none, s1) ∧ s1.onDie image s1.takenRects (s1.firingDie c k) = none ∧ s1.straddling image (s1.firingDie c k) = some r :=
  ⟨strad, (strad.readImage tallI.ctx tallI.image).2, tallI, ctx1, imageT, [], ⟨0, 30, 2, 3⟩, rfl, loads_fresh rfl (pair_of_fst (by decide +kernel)) (by decide +kernel) (by decide +kernel) (by decide +kernel) (by decide +kernel), by decide +kernel, by decide +kernel⟩

theorem witness_TasksArePlacedEndedAndPaced_13 :
    ∃ (s : State) (s1 : State) (k : _) (c : _) (image : _) (args : _) (r : _) (ds : _), s.ctx? k.ctx = some c ∧ s.loadTask c k = (.ok image args none, s1) ∧ s1.onDie image s1.takenRects (s1.firingDie c k) = none ∧ s1.straddling image (s1.firingDie c k) = none ∧ s1.compaction k image (s1.firingDie c k) = some (r, ds) :=
  ⟨packed, (packed.readImage taskI.ctx taskI.image).2, taskI, ctx1, image0, [], ⟨0, 0, 2, 2⟩, [(7, 4, 0)], rfl, loads_fresh rfl (pair_of_fst (by decide +kernel)) image0_valid (by decide +kernel) (by decide +kernel) (by decide +kernel), by decide +kernel, by decide +kernel, compaction_first (rest := (origins image0 (dieRect 0)).tail) (by decide +kernel) (le_trans (by decide +kernel) (freeSites_ge [(1, 0), (0, 1), (1, 1), (4, 0)] (by decide) (by decide +kernel))) (by decide +kernel) (by decide +kernel) (by decide +kernel) (by decide +kernel) (by decide +kernel)⟩

theorem witness_TasksArePlacedEndedAndPaced_14 :
    ∃ (s : State) (r : _) (k : _), s.cdRuns = true ∧ s.resvs.find? (fun r => r.id = s.focus.req) = some r ∧ (∀ L ∈ s.leases, L.rect.meets r.window = false) ∧ (∀ c ∈ r.window.cells, s.barred c.1 c.2 = false) ∧ (∀ d ∈ r.window.dies, s.running d = true) ∧ s.task? r.die r.idx = some k ∧ s.leaseOf k = none :=
  ⟨reserved, resv5, taskI, by decide +kernel, rfl, by decide +kernel, by decide +kernel, by decide +kernel, rfl, by decide +kernel⟩

theorem witness_TasksArePlacedEndedAndPaced_15 :
    ∃ (s : State) (r : _) (k : _) (L : _), s.cdRuns = true ∧ s.resvs.find? (fun r => r.id = s.focus.req) = some r ∧ (∀ L ∈ s.leases, L.rect.meets r.window = false) ∧ (∀ c ∈ r.window.cells, s.barred c.1 c.2 = false) ∧ (∀ d ∈ r.window.dies, s.running d = true) ∧ s.task? r.die r.idx = some k ∧ s.leaseOf k = some L :=
  ⟨{ run1 id with resvs := [{ resv5 with x := 4 }] }, { resv5 with x := 4 }, { taskI with st := .running }, leaseI, by decide +kernel, rfl, by decide +kernel, by decide +kernel, by decide +kernel, rfl, rfl⟩

theorem witness_TasksArePlacedEndedAndPaced_16 :
    ∃ (s : State) (r : _) (c : _), s.cdRuns = true ∧ s.resvs.find? (fun r => r.id = s.focus.req) = some r ∧ (∀ L ∈ s.leases, L.rect.meets r.window = false) ∧ c ∈ r.window.cells ∧ s.barred c.1 c.2 = true :=
  ⟨{ reserved with retired := [(1, 1)] }, resv5, (1, 1), by decide +kernel, rfl, by decide +kernel, by decide +kernel, by decide +kernel⟩

theorem witness_TasksArePlacedEndedAndPaced_17 :
    ∃ (s : State) (r : _) (id : _) (d : _), s.cdRuns = true ∧ s.resvs.find? (fun r => r.id = s.focus.req) = some r ∧ r.drains.find? (fun x => x.1 = s.focus.site.lease) = some (id, d) ∧ d ≤ s.fabric ∧ s.lease? id = none :=
  ⟨{ reserved with resvs := [{ resv5 with drains := [(1, 0)] }] }, { resv5 with drains := [(1, 0)] }, 1, 0, by decide +kernel, rfl, by decide +kernel, by decide +kernel, by decide +kernel⟩

theorem witness_TasksArePlacedEndedAndPaced_18 :
    ∃ (s : _) (r : _) (L : _) (k : _) (c : _), DrainEnds s r L k c ∧ CheaperToSave (undrained s r) L k :=
  ⟨draining 0 100 0, _, leaseI, _, _, drains 0 100 0, by decide +kernel, 2058, by decide +kernel, by decide +kernel⟩

theorem witness_TasksArePlacedEndedAndPaced_19 :
    ∃ (s : _) (r : _) (L : _) (k : _) (c : _), DrainEnds s r L k c ∧ ¬CheaperToSave (undrained s r) L k ∧ k.cls = 1 :=
  ⟨draining 1 0 0, _, leaseI, _, _, drains 1 0 0, not_cheaper (by decide +kernel), rfl⟩

theorem witness_TasksArePlacedEndedAndPaced_20 :
    ∃ (s : _) (r : _) (L : _) (k : _) (c : _), DrainEnds s r L k c ∧ ¬CheaperToSave (undrained s r) L k ∧ k.cls ≠ 1 ∧ (undrained s r).checkpointCost L = none :=
  ⟨draining 0 0 0x10018, _, leaseI, _, _, drains 0 0 0x10018, not_cheaper (by decide +kernel), by decide, by decide +kernel⟩

theorem witness_TasksArePlacedEndedAndPaced_21 :
    ∃ (s : _) (r : _) (L : _) (k : _) (c : _), DrainEnds s r L k c ∧ ¬CheaperToSave (undrained s r) L k ∧ k.cls ≠ 1 ∧ (undrained s r).checkpointCost L ≠ none :=
  ⟨draining 0 0 0, _, leaseI, _, _, drains 0 0 0, not_cheaper (by decide +kernel), by decide, by decide +kernel⟩

theorem witness_TasksArePlacedEndedAndPaced_22 :
    ∃ (s : State) (L : _) (m : _) (d : _) (k : _), s.cdRuns = true ∧ s.lease? s.focus.site.lease = some L ∧ L.move = some m ∧ m.job = .checkpoint (some d) ∧ m.step < 2 ∧ d ≤ s.fabric ∧ s.task? L.die L.entry = some k :=
  ⟨run1 (fun L => { L with move := some ⟨.checkpoint (some 5), 0, 0, 0, none⟩ }), { leaseI with move := some ⟨.checkpoint (some 5), 0, 0, 0, none⟩ }, ⟨.checkpoint (some 5), 0, 0, 0, none⟩, 5, { taskI with st := .running }, by decide +kernel, rfl, rfl, by decide +kernel, by decide +kernel, by decide +kernel, rfl⟩

theorem witness_TasksArePlacedEndedAndPaced_23 :
    ∃ (s : State) (k : _) (L : _), s.task? s.focus.die s.focus.idx = some k ∧ k.cmd = none ∧ s.leaseOf k = some L ∧ L.baton = some 0 ∧ (∀ p ∈ L.pes, p.batonDone = true) ∧ s.sinksReached L 0 = true ∧ (∀ p ∈ s.leasePorts L.id, p.settled 0 = true) ∧ L.heldTraps = [] ∧ (∀ x ∈ s.traps, x.lease ≠ some L.id) :=
  ⟨wPlaced6s, wPlaced6k, wPlaced6L, rfl, by decide +kernel, rfl, rfl, by decide +kernel, by decide +kernel, by decide +kernel, by decide +kernel, by decide +kernel⟩

theorem witness_TasksArePlacedEndedAndPaced_24 :
    ∃ (s : State) (s1 : State) (k : _) (id : _) (c : _), s.task? s.focus.die s.focus.idx = some k ∧ k.cmd = some id ∧ s.cmd? id = some c ∧ s1 = { s with cmds := s.cmds.filter (fun x => x.id ≠ id) } :=
  ⟨{ copying [] 0 with tasks := [{ taskI with cmd := some 9 }], focus := at5 }, { copying [] 0 with cmds := [], tasks := [{ taskI with cmd := some 9 }], focus := at5 }, { taskI with cmd := some 9 }, 9, { cmd9 with segsLeft := 0 }, rfl, rfl, rfl, rfl⟩

theorem witness_TasksArePlacedEndedAndPaced_25 :
    ∃ (s : State) (s1 : State) (l1 : _) (b : _) (l2 : _) (budget : _) (pool : _) (xs : _), s.power = .run ∧ s.uncoreStopped = false ∧ 1024 * (s.lap + 1) ≤ s.fabric ∧ s.budgets = l1 ++ b :: l2 ∧ (∀ x ∈ l1 ++ l2, x.die ≠ b.die) ∧ s1 = l1.foldl (fun (s : State) b => s.refill b) s ∧ budget = b.next.getD b.b ∧ pool = sumN ((s1.lapPorts b.die).map Port.bucket) + b.carry ∧ xs = s1.shares b budget pool :=
  ⟨four, _, [⟨0, 42666, none, 0, []⟩], ⟨1, 42666, some 5, 7, []⟩, [⟨2, 42666, none, 0, []⟩, ⟨3, 42666, none, 0, []⟩], _, _, _, by decide +kernel, by decide +kernel, by decide +kernel, rfl, by decide +kernel, rfl, rfl, rfl, rfl⟩

theorem witness_TasksArePlacedEndedAndPaced_26 :
    ∃ (s : State), s.power = .run ∧ s.uncoreStopped = false ∧ 1024 * (s.lap + 1) ≤ s.fabric :=
  ⟨four, by decide +kernel⟩

/-! ### Premises that can be met: clauses about homes, engines, traps and links -/

/-- The lease of `image0` that has retired, held at its last boundary. -/
def lastL : Lease := { leaseI with move := some ⟨.move 2 0, 1, 0, 0, none⟩, retireAt := some 0 }
def lastS : State := { run1 (fun _ => lastL) with ports := [{ portI with hold := true, live := portI.live.map (fun l => { l with done := true }) }] }

/-- A leaf of die 0's first frame, and requests that have it. -/
def leafH (chk : Bool) : Leaf := { walkLeaf with chk := chk }
def homeLoad (chk : Bool) : Req := { sentLoad 64 with leaf := some (leafH chk) }
def homeStore : Req := { waitingLoad .sent with leaf := some (leafH false) }
def poisonStore : Req := { homeStore with poison := some 5 }
def homeLine : L2Line := ⟨0, .frame 64, 7, false, false, []⟩
def atHome (r : Req) : State := { queued [r] with l2 := [homeLine] }
def nearS : State := { queued [homeLoad false] with near := [⟨0, 0, 1, 64, 64, 9, false, false⟩] }
def racedTag : RaceTag := ⟨0, 64, 2, 0, false, [], none, [], false, 0⟩
def racedS : State := { atHome (homeLoad true) with raceTags := [racedTag], parties := [⟨1, 0, 0, true, false⟩, ⟨2, 0, 0, true, false⟩] }

/-- A line that nothing shares. -/
theorem unshared {s : State} {p : Port} {n : Nat} (h : s.dir = []) : Unshared s p n := by
  intro d hd
  simp [State.dir?, h] at hd

/-- A trap of a load that the MU's port holds. -/
def trapReq : Trap := { trapI with port := some 1, req := some 7 }
def heldReq : Req := { sentLoad 64 with status := .held 1 false }
def heldQ : State := queued [heldReq]

theorem witness_AHoldUpSavesAndRestores_x5 :
    ∃ (s : State) (set : _) (tid : _) (c : _) (m : _), s.power = .run ∧ s.uncoreStopped = false ∧ s.ctx? tid = some c ∧ s.keep.reported = some m ∧ s.keep.whole m set = true ∧ (∀ p ∈ s.keep.pagesOf m set, s.reachable c p.va = true) ∧ s.hasWork tid = false :=
  ⟨reported, 0, 1, { ctx1 with admitted := false }, manifest0, rfl, rfl, rfl, rfl, reported_whole, by decide +kernel, by decide +kernel⟩

theorem witness_AHoldUpSavesAndRestores_x6 :
    ∃ (s : State) (set : Nat) (tid : Nat), s.uncoreStopped = true :=
  ⟨{ up1 with uncoreStopped := true }, 0, 1, rfl⟩

theorem witness_AHoldUpSavesAndRestores_x7 :
    ∃ (s : State) (set : _) (tid : _) (c : _) (m : _), s.power = .run ∧ s.uncoreStopped = false ∧ s.ctx? tid = some c ∧ s.keep.reported = some m ∧ (∃ p ∈ s.keep.pagesOf m set, s.mapped c p.va = false) :=
  ⟨reportedFar, 0, 1, ctx1, manifest0, rfl, rfl, rfl, rfl, by decide +kernel⟩

theorem witness_AHoldUpSavesAndRestores_x12 :
    ∃ (k : Keep), k.newest.isSome = true ∧ k.reported = none :=
  ⟨{ Keep.reset with areaA := some { manifest0 with mseq := 3 }, consumed := 3 }, by decide +kernel⟩

theorem witness_ContextsAreMadeChangedAndDestroyed_x11 :
    ∃ (s : State) (s1 : State) (tid : _) (c : _) (m : _), s.power = .run ∧ s.uncoreStopped = false ∧ s.ctx? tid = some c ∧ s.readMustSave tid c.mustsave = (.ok m, s1) :=
  ⟨mustUp, (mustUp.readMustSave 1 0).2, 1, ctx1, ⟨1, [(1, 0, 0, 0, 1)], 69632⟩, rfl, rfl, rfl, pair_of_fst (by decide +kernel)⟩

theorem witness_ContextsAreMadeChangedAndDestroyed_x12 :
    ∃ (s : State) (s1 : State) (tid : _) (c : _) (e : _), s.power = .run ∧ s.uncoreStopped = false ∧ s.ctx? tid = some c ∧ s.readMustSave tid c.mustsave = (.error e, s1) :=
  ⟨up1, (up1.readMustSave 1 0).2, 1, ctx1, 9, rfl, rfl, rfl, pair_of_fst (by decide +kernel)⟩

theorem witness_ContextsAreMadeChangedAndDestroyed_x14 :
    ∃ (s : State) (tid : Nat), (s.power ≠ .run ∨ s.uncoreStopped = true) :=
  ⟨{ up1 with uncoreStopped := true }, 1, .inr rfl⟩

theorem witness_ContextsAreMadeChangedAndDestroyed_x15 :
    ∃ (s : State) (tid : _) (c : _), s.power = .run ∧ s.uncoreStopped = false ∧ s.ctx? tid = some c ∧ c.slots = [] ∧ (∀ x ∈ s.tasks, x.ctx ≠ tid) ∧ (∀ L ∈ s.leases, L.tid ≠ tid) ∧ (∀ x ∈ s.cmds, x.tid ≠ tid) ∧ (∀ l ∈ s.startLists, l.tid ≠ tid) ∧ (∀ p ∈ s.ports, p.ctx = tid → p.requests = []) :=
  ⟨up1, 1, ctx1, by decide +kernel⟩

theorem witness_BudgetsPoolsSitesAndRoutesAreSet_x1 :
    ∃ (s : State) (tid : _) (pool : _) (pa : _) (big : _) (c : _), s.power = .run ∧ s.ctx? tid = some c ∧ pool < 32 ∧ s.configUp (paDie pa) = true ∧ s.frameOut pa = false ∧ pa % (if big then 2 ^ 21 else 65536) = 0 ∧ s.validPa pa = true ∧ (locOf pa).kind = .hbm ∧ paPkg pa = s.pkgNo ∧ (∀ p, s.pools.find? (fun p => p.tid = tid && p.pool = pool) = some p → p.frames = [] ∨ p.big = big) :=
  ⟨up1, 1, 31, 2 ^ 21, true, ctx1, by decide +kernel⟩

theorem witness_BudgetsPoolsSitesAndRoutesAreSet_x2 :
    ∃ (s : State) (t0 : State) (tid : _) (va : _) (die : _) (c : _), s.power = .run ∧ s.uncoreStopped = false ∧ s.ctx? tid = some c ∧ s.pageMove c va die = some t0 :=
  ⟨unbUp, (unbUp.pageMove ctx1 0 1).getD unbUp, 1, 0, 1, ctx1, rfl, rfl, rfl, some_getD (by decide +kernel)⟩

theorem witness_BudgetsPoolsSitesAndRoutesAreSet_x3 :
    ∃ (s : State) (vmid : Nat) (base : Nat) (count : Nat), s.power = .run ∧ s.uncoreStopped = false :=
  ⟨up1, 1, 0, 1, by decide +kernel⟩

theorem witness_BudgetsPoolsSitesAndRoutesAreSet_x4 :
    ∃ (s : State) (die : _) (base : Nat) (size : Nat), s.power = .run ∧ s.configUp die = true :=
  ⟨up1, 0, 0, 65536, by decide +kernel⟩

theorem witness_DebugTasksAndResetsAreCommanded_x7 :
    ∃ (s : State) (die : _) (entry : _) (k : Task) (L : Lease), s.power = .run ∧ s.uncoreStopped = false ∧ s.lapDue = false ∧ s.task? die entry = some k ∧ s.leaseOf k = some L ∧ L.parked ≠ none :=
  ⟨parked0, 0, 0, { task0 with st := .running }, wDebug6L, rfl, rfl, by decide +kernel, rfl, rfl, by decide +kernel⟩

theorem witness_DebugTasksAndResetsAreCommanded_x8 :
    ∃ (s : State) (die : Nat) (entry : Nat), (s.power ≠ .run ∨ s.uncoreStopped = true ∨ s.lapDue = true) :=
  ⟨{ up1 with lap := 0 }, 0, 0, .inr (.inr (by decide +kernel))⟩

theorem witness_DebugTasksAndResetsAreCommanded_x9 :
    ∃ (s : State) (die : _) (entry : _) (k : Task), s.power = .run ∧ s.uncoreStopped = false ∧ s.task? die entry = some k :=
  ⟨parked0, 0, 0, { task0 with st := .running }, rfl, rfl, rfl⟩

theorem witness_LeasesMoveAndAreSaved_x1 :
    ∃ (s : State) (L : _) (m : _), s.cdRuns = true ∧ s.fabricStopped = false ∧ s.lease? s.focus.site.lease = some L ∧ L.move = some m ∧ L.unwind = none ∧ L.parked = none ∧ m.step = 1 ∧ s.allHeld L.id = true ∧ s.lastBoundary L = false :=
  ⟨wMoves1s, wMoves1L, ⟨.move 2 0, 1, 0, 0, none⟩, rfl, rfl, rfl, rfl, rfl, rfl, rfl, by decide +kernel, by decide +kernel⟩

theorem witness_LeasesMoveAndAreSaved_x2 :
    ∃ (s : State) (L : _) (m : _), s.cdRuns = true ∧ s.fabricStopped = false ∧ s.lease? s.focus.site.lease = some L ∧ L.move = some m ∧ L.unwind = none ∧ L.parked = none ∧ m.step = 1 ∧ s.allHeld L.id = true ∧ s.lastBoundary L = true :=
  ⟨lastS, lastL, ⟨.move 2 0, 1, 0, 0, none⟩, rfl, rfl, rfl, rfl, rfl, rfl, rfl, by decide +kernel, by decide +kernel⟩

theorem witness_RepliesReachTheirPorts_x7 :
    ∃ (s : State) (p : _) (e : _) (rest : _), s.port? s.focus.port = some p ∧ p.sideLog = e :: rest ∧ (e.req.status = .cleared ∨ ∃ b, e.req.status = .held 0 b) ∧ Resends s p e.req.id ∧ s.portMoves p = false :=
  ⟨sideS, sidePort, sideEntry, [], rfl, rfl, .inl rfl, ⟨by decide +kernel, rfl, by decide +kernel, rfl⟩, rfl⟩

theorem witness_RequestsAreTranslatedAndPerformed_x3 :
    ∃ (s : _) (p : _) (r : _) (c : Ctx) (td : _), PortReq s p r ∧ s.uncoreStopped = false ∧ r.status.tries = true ∧ s.inTurn p r = true ∧ s.ctx? p.ctx = some c ∧ vaPkg r.va = s.pkgNo ∧ deadCode r.va = false ∧ c.xlatDie r.va = some td ∧ r.leaf = none ∧ s.pathUp p.die td = true ∧ (td < 4 → s.queueFull td (vaSlice r.va) r.id = false) ∧ (s.lookup c td r.va).1 = none :=
  ⟨{ queued [sentLoad 64] with tlb := [] }, portQ [sentLoad 64], sentLoad 64, ctx1, 0, ⟨rfl, rfl⟩, rfl, by decide +kernel, by decide +kernel, rfl, by decide +kernel, by decide +kernel, by decide +kernel, rfl, by decide +kernel, by decide +kernel, by decide +kernel⟩

theorem witness_RequestsAreTranslatedAndPerformed_x4 :
    ∃ (s : _) (p : _) (r : _) (c : Ctx) (td : _) (l : _) (n : _), PortReq s p r ∧ s.uncoreStopped = false ∧ r.status.tries = true ∧ s.inTurn p r = true ∧ s.ctx? p.ctx = some c ∧ vaPkg r.va = s.pkgNo ∧ deadCode r.va = false ∧ c.xlatDie r.va = some td ∧ r.leaf = some l ∧ l.permits r.op = true ∧ l.chk = false ∧ s.nearHit p r = some n ∧ n.poison = false :=
  ⟨nearS, portQ [homeLoad false], homeLoad false, ctx1, 0, leafH false, ⟨0, 0, 1, 64, 64, 9, false, false⟩, ⟨rfl, rfl⟩, rfl, by decide +kernel, by decide +kernel, rfl, by decide +kernel, by decide +kernel, by decide +kernel, rfl, by decide +kernel, rfl, by decide +kernel, rfl⟩

theorem witness_RequestsAreTranslatedAndPerformed_x5 :
    ∃ (s : _) (p : _) (r : _) (c : Ctx) (td : _) (l : _) (ro : _) (x : _), Homed s p r c td l ∧ r.op = .load ro ∧ l.chk = false ∧ s.nearHit p r = none ∧ s.rrcHit p r = none ∧ Resident s (l.loc c.tid r.va) x :=
  ⟨atHome (homeLoad false), portQ [homeLoad false], homeLoad false, ctx1, 0, leafH false, false, homeLine, ⟨⟨rfl, rfl⟩, rfl, by decide +kernel, by decide +kernel, rfl, by decide +kernel, by decide +kernel, by decide +kernel, rfl, by decide +kernel, by decide +kernel, by decide +kernel, by decide +kernel, by decide +kernel⟩, rfl, rfl, by decide +kernel, by decide +kernel, by decide +kernel, by decide +kernel⟩

theorem witness_RequestsAreTranslatedAndPerformed_x6 :
    ∃ (s : _) (p : _) (r : _) (c : Ctx) (td : _) (l : _) (ro : _) (loc : _) (pa : _), Homed s p r c td l ∧ r.op = .load ro ∧ l.chk = false ∧ s.nearHit p r = none ∧ s.rrcHit p r = none ∧ loc = l.loc c.tid r.va ∧ loc.key = .frame pa ∧ loc.kind = .hbm ∧ loc.slot = 0 ∧ s.sealOf pa = none ∧ s.l2? loc.die loc.key = none ∧ loc.num ∉ s.eccFailed ∧ (s.setLines loc.die (paOff pa)).length < s.ways loc.die (sliceOf (paOff pa)) ∧ s.fixedWays loc.die (paOff pa) < s.ways loc.die (sliceOf (paOff pa)) :=
  ⟨queued [homeLoad false], portQ [homeLoad false], homeLoad false, ctx1, 0, leafH false, false, (leafH false).loc 1 64, 64, ⟨⟨rfl, rfl⟩, rfl, by decide +kernel, by decide +kernel, rfl, by decide +kernel, by decide +kernel, by decide +kernel, rfl, by decide +kernel, by decide +kernel, by decide +kernel, by decide +kernel, by decide +kernel⟩, rfl, rfl, by decide +kernel, by decide +kernel, rfl, by decide +kernel, by decide +kernel, by decide +kernel, by decide +kernel, by decide +kernel, by decide +kernel, by decide +kernel, by decide +kernel⟩

theorem witness_RequestsAreTranslatedAndPerformed_x7 :
    ∃ (s : _) (p : _) (r : _) (c : Ctx) (td : _) (l : _) (loc : _) (x : _), Homed s p r c td l ∧ r.op.writes = true ∧ r.op ≠ .discard ∧ l.chk = false ∧ l.d = true ∧ loc = l.loc c.tid r.va ∧ Unshared s p loc.num ∧ Resident s loc x ∧ x.poison = false ∧ r.poison = none :=
  ⟨atHome homeStore, portQ [homeStore], homeStore, ctx1, 0, leafH false, (leafH false).loc 1 64, homeLine, ⟨⟨rfl, rfl⟩, rfl, by decide +kernel, by decide +kernel, rfl, by decide +kernel, by decide +kernel, by decide +kernel, rfl, by decide +kernel, by decide +kernel, by decide +kernel, by decide +kernel, by decide +kernel⟩, rfl, by decide +kernel, rfl, rfl, rfl, unshared rfl, ⟨by decide +kernel, by decide +kernel⟩, rfl, rfl⟩

theorem witness_RequestsAreTranslatedAndPerformed_x9 :
    ∃ (s : _) (p : _) (r : _) (c : Ctx) (td : _) (l : _) (loc : _) (x : _) (w : _), Homed s p r c td l ∧ r.op = .store ∧ l.chk = false ∧ l.d = true ∧ loc = l.loc c.tid r.va ∧ Unshared s p loc.num ∧ Resident s loc x ∧ r.poison = some w :=
  ⟨atHome poisonStore, portQ [poisonStore], poisonStore, ctx1, 0, leafH false, (leafH false).loc 1 64, homeLine, 5, ⟨⟨rfl, rfl⟩, rfl, by decide +kernel, by decide +kernel, rfl, by decide +kernel, by decide +kernel, by decide +kernel, rfl, by decide +kernel, by decide +kernel, by decide +kernel, by decide +kernel, by decide +kernel⟩, rfl, rfl, rfl, rfl, unshared rfl, ⟨by decide +kernel, by decide +kernel⟩, rfl⟩

theorem witness_RequestsAreTranslatedAndPerformed_x10 :
    ∃ (s : _) (p : _) (r : _) (c : Ctx) (td : _) (l : _) (loc : _) (x : _), Homed s p r c td l ∧ r.op.writes = true ∧ r.op ≠ .discard ∧ ¬(r.op = .store ∧ r.size = 64) ∧ l.chk = false ∧ l.d = true ∧ loc = l.loc c.tid r.va ∧ Unshared s p loc.num ∧ Resident s loc x ∧ x.poison = true ∧ r.poison = none :=
  ⟨{ queued [homeStore] with l2 := [{ homeLine with poison := true }] }, portQ [homeStore], homeStore, ctx1, 0, leafH false, (leafH false).loc 1 64, { homeLine with poison := true }, ⟨⟨rfl, rfl⟩, rfl, by decide +kernel, by decide +kernel, rfl, by decide +kernel, by decide +kernel, by decide +kernel, rfl, by decide +kernel, by decide +kernel, by decide +kernel, by decide +kernel, by decide +kernel⟩, rfl, by decide +kernel, by decide +kernel, rfl, rfl, rfl, unshared rfl, ⟨by decide +kernel, by decide +kernel⟩, rfl, rfl⟩

theorem witness_RequestsAreTranslatedAndPerformed_x11 :
    ∃ (s : _) (p : _) (r : _) (c : Ctx) (td : _) (l : _) (loc : _) (x : _) (e : DirEntry), Homed s p r c td l ∧ r.op.writes = true ∧ l.d = true ∧ loc = l.loc c.tid r.va ∧ Resident s loc x ∧ s.dir? loc.num = some e ∧ (∃ q ∈ e.sharers, q ≠ p.die) :=
  ⟨{ atHome homeStore with dir := [⟨64, [1], []⟩] }, portQ [homeStore], homeStore, ctx1, 0, leafH false, (leafH false).loc 1 64, homeLine, ⟨64, [1], []⟩, ⟨⟨rfl, rfl⟩, rfl, by decide +kernel, by decide +kernel, rfl, by decide +kernel, by decide +kernel, by decide +kernel, rfl, by decide +kernel, by decide +kernel, by decide +kernel, by decide +kernel, by decide +kernel⟩, rfl, rfl, rfl, ⟨by decide +kernel, by decide +kernel⟩, by decide +kernel, by decide +kernel⟩

theorem witness_RequestsAreTranslatedAndPerformed_x12 :
    ∃ (s : _) (p : _) (r : _) (c : Ctx) (td : _) (l : _) (loc : _) (ro : _) (g : _), Homed s p r c td l ∧ r.op = .load ro ∧ l.chk = true ∧ loc = l.loc c.tid r.va ∧ s.tag? loc.die loc.num = some g ∧ g.wparty ≠ 0 ∧ g.wparty ≠ r.party ∧ s.stale g.wparty g.wsfr = false ∧ r.party ≠ 0 ∧ r.party ≠ 0xFFFF :=
  ⟨racedS, portQ [homeLoad true], homeLoad true, ctx1, 0, leafH true, (leafH true).loc 1 64, false, racedTag, ⟨⟨rfl, rfl⟩, rfl, by decide +kernel, by decide +kernel, rfl, by decide +kernel, by decide +kernel, by decide +kernel, rfl, by decide +kernel, by decide +kernel, by decide +kernel, by decide +kernel, by decide +kernel⟩, rfl, rfl, rfl, by decide +kernel, by decide +kernel, by decide +kernel, by decide +kernel, by decide +kernel, by decide +kernel⟩

theorem witness_RequestsAreTranslatedAndPerformed_x23 :
    ∃ (s : State) (pa : _) (d : Line) (m : BitVec 64), s.uncoreStopped = false ∧ s.validPa pa = true ∧ (s.owner pa).toNat.testBit 14 = false :=
  ⟨up1, 64, 0, 0, by decide +kernel⟩

theorem witness_RequestsAreTranslatedAndPerformed_x26 :
    ∃ (s : State) (pa : _) (d : Line) (m : BitVec 64) (e : DirEntry), s.uncoreStopped = false ∧ s.hostFrame pa = true ∧ s.dir? (lineOf pa) = some e ∧ (∃ x ∈ e.sharers, x ≠ 8) :=
  ⟨wHome13s, 64, 0, 0, ⟨64, [1], []⟩, by decide +kernel⟩

theorem witness_EnginesAndSyncUnitsWork_x0 :
    ∃ (s : State) (q : VQueue) (e : _) (rest : _) (c : EngCmd) (x : Ctx), s.uncoreStopped = false ∧ s.dieUp s.focus.die = true ∧ s.focus.idx < engCount s.focus.kind ∧ (∀ g ∈ s.engines, ¬(g.die = s.focus.die ∧ g.kind = s.focus.kind ∧ g.idx = s.focus.idx)) ∧ s.vqueues = [q] ∧ q.die = s.focus.die ∧ q.kind = s.focus.kind ∧ q.entries = e :: rest ∧ s.headReady q = true ∧ s.cmd? e.cmd = some c ∧ s.ctx? q.tid = some x ∧ c.party ≠ 0 ∧ s.keptPort s.focus.die s.focus.kind s.focus.idx c.party = none :=
  ⟨dispatching, queue9, ⟨9, 0, 4096⟩, [], cmd9, ctx1, rfl, by decide +kernel, by decide +kernel, by decide +kernel, rfl, rfl, rfl, rfl, by decide +kernel, rfl, rfl, by decide +kernel, by decide +kernel⟩

theorem witness_EnginesAndSyncUnitsWork_x1 :
    ∃ (s : State) (q : VQueue) (e : _) (rest : _) (c : EngCmd) (x : Ctx) (p : _), s.uncoreStopped = false ∧ s.dieUp s.focus.die = true ∧ s.focus.idx < engCount s.focus.kind ∧ (∀ g ∈ s.engines, ¬(g.die = s.focus.die ∧ g.kind = s.focus.kind ∧ g.idx = s.focus.idx)) ∧ s.vqueues = [q] ∧ q.die = s.focus.die ∧ q.kind = s.focus.kind ∧ q.entries = e :: rest ∧ s.headReady q = true ∧ s.cmd? e.cmd = some c ∧ s.ctx? q.tid = some x ∧ c.party ≠ 0 ∧ s.keptPort s.focus.die s.focus.kind s.focus.idx c.party = some p :=
  ⟨{ dispatching with ports := [portE] }, queue9, ⟨9, 0, 4096⟩, [], cmd9, ctx1, portE, rfl, by decide +kernel, by decide +kernel, by decide +kernel, rfl, rfl, rfl, rfl, by decide +kernel, rfl, rfl, by decide +kernel, by decide +kernel⟩

theorem witness_EnginesAndSyncUnitsWork_x8 :
    ∃ (s : State) (m : SyncMsg), m.op = .leave ∧ s.team? m.tid m.team = none :=
  ⟨run1 id, msg .leave, rfl, by decide +kernel⟩

theorem witness_TrapsActAndRegionsUnwind_x2 :
    ∃ (s : State) (x : Trap) (k : Task), s.task? k.die k.idx = some k :=
  ⟨run1 id, trapI, { taskI with st := .running }, rfl⟩

theorem witness_TrapsActAndRegionsUnwind_x3 :
    ∃ (s : State) (x : Trap) (k : Task) (limit : Nat), k.pktKind ≠ 7 ∧ x.req = none :=
  ⟨run1 id, trapI, { taskI with st := .running }, 3, by decide +kernel, rfl⟩

theorem witness_TrapsActAndRegionsUnwind_x4 :
    ∃ (s : State) (x : Trap) (k : Task) (L : Lease), k.pktKind ≠ 7 ∧ x.lease.bind s.lease? = some L ∧ L.parked = none ∧ x.cmd = none :=
  ⟨run1 id, trapI, { taskI with st := .running }, leaseI, by decide +kernel, rfl, rfl, rfl⟩

theorem witness_TrapsActAndRegionsUnwind_x5 :
    ∃ (s : State) (x : Trap) (k : Task) (c : Nat) (e : EngCmd) (a : TrapAct), k.pktKind = 7 ∧ x.lease = none ∧ x.cmd = some c ∧ s.cmd? c = some e ∧ (a = .kill ∨ a = .parkOwn ∨ (∃ n, a = .replay n)) :=
  ⟨copying [engine9] 1, { trapI with lease := none, cmd := some 9 }, { taskI with pktKind := 7 }, 9, wEng1c, .kill, rfl, rfl, rfl, rfl, .inl rfl⟩

theorem witness_TrapsActAndRegionsUnwind_x6 :
    ∃ (s : State) (x : Trap) (k : Task) (id : _) (L : Lease) (i : _) (slot : _) (t : State), k.pktKind ≠ 7 ∧ x.lease = some id ∧ s.lease? id = some L ∧ L.parked = none ∧ s.listOf k.ctx i = some slot ∧ t = s.applyAction x k (.park i) :=
  ⟨{ run1 id with ctxs := [{ ctx1 with slots := [4] }] }, trapI, { taskI with st := .running }, 1, leaseI, 0, 4, _, by decide +kernel, rfl, rfl, rfl, rfl, rfl⟩

theorem witness_TrapsActAndRegionsUnwind_x7 :
    ∃ (s : State) (L : Lease), L.parked ≠ none :=
  ⟨run1 (fun L => { L with parked := some 0 }), { leaseI with parked := some 0 }, by decide +kernel⟩

theorem witness_TrapsActAndRegionsUnwind_x8 :
    ∃ (s : State) (x : Trap) (k : Task) (n : _) (c : Nat) (t : State), k.pktKind ≠ 7 ∧ s.task? k.die k.idx = some k ∧ x.req ≠ none ∧ c = errCause x.err ∧ (n = 0 ∨ k.replayCount c < n) ∧ t = s.applyAction x k (.replay n) :=
  ⟨run1 id, trapReq, { taskI with st := .running }, 0, _, _, by decide +kernel, rfl, by decide +kernel, rfl, .inl rfl, rfl⟩

theorem witness_TrapsActAndRegionsUnwind_x9 :
    ∃ (s : State) (x : Trap) (k : Task) (n : _) (p : Port) (r : Req) (c : Nat) (t : State), k.pktKind ≠ 7 ∧ HeldAt s x p r c ∧ (n = 0 ∨ k.replayCount (errCause x.err) < n) ∧ t = s.applyAction x k (.replay n) :=
  ⟨heldQ, trapReq, { taskI with st := .running }, 2, portQ [heldReq], heldReq, 1, _, by decide +kernel, ⟨rfl, rfl, rfl, rfl, rfl, by decide +kernel, by decide +kernel⟩, .inr (by decide +kernel), rfl⟩

theorem witness_TrapsActAndRegionsUnwind_x10 :
    ∃ (s : State) (x : Trap) (k : Task) (n : _), x.req ≠ none ∧ n ≠ 0 ∧ n ≤ k.replayCount (errCause x.err) :=
  ⟨run1 id, trapReq, { taskI with st := .running, replays := [(errCause trapI.err, 3)] }, 3, by decide +kernel, by decide +kernel, by decide +kernel⟩

theorem witness_LinksSpansAndResetsGoOn_x0 :
    ∃ (s : State) (k : _) (n : _), k < 8 ∧ s.linkActive k = true ∧ 0 < n ∧ n < (s.link k).mods :=
  ⟨linked 5 (fun l => { l with st := .readmitting }), 5, 1, by decide +kernel⟩

theorem witness_LinksSpansAndResetsGoOn_x3 :
    ∃ (s : State) (k : _), k < 4 ∧ s.power = .run ∧ s.uncoreStopped = false ∧ s.trainsAlone k = true ∧ (s.link k).st = .training :=
  ⟨wLink3s, 2, by decide +kernel⟩

theorem witness_LinksSpansAndResetsGoOn_x4 :
    ∃ (s : State) (k : _), k < 4 ∧ s.power = .run ∧ s.uncoreStopped = false ∧ s.trainsAlone k = true ∧ (s.link k).st = .readmitting :=
  ⟨wLink4s, 2, by decide +kernel⟩

theorem witness_LinksSpansAndResetsGoOn_x5 :
    ∃ (s : State) (k : _) (ok : Bool), k < 4 ∧ s.trainsAlone k = false :=
  ⟨linked 4 (fun l => { l with st := .training }), 0, true, by decide +kernel⟩

theorem witness_LinksSpansAndResetsGoOn_x8 :
    ∃ (s : State) (k : _) (ok : Bool), k < 4 ∧ s.power = .run ∧ s.dieUp (seamDies k).1 = true ∧ s.dieUp (seamDies k).2 = true ∧ (s.link k).st = .down :=
  ⟨linked 1 (fun l => { l with st := .down, fails := 3 }), 1, false, by decide +kernel⟩

theorem witness_LinksSpansAndResetsGoOn_x11 :
    ∃ (me : Nat) (f : BitVec 2048) (seq : BitVec 8) (ack : BitVec 8) (nak : _) (c : _), f = ackFlit me seq ack nak c ∧ c.1 ≤ 15 ∧ c.2.1 ≤ 15 ∧ c.2.2 ≤ 15 :=
  ⟨5, _, 1, 2, true, (3, 4, 15), rfl, by decide +kernel, by decide +kernel, by decide +kernel⟩

theorem witness_LinksSpansAndResetsGoOn_x14 :
    ∃ (p : SpanPort) (line : Nat) (f : Nat), p.pend = [] ∧ p.held.length < 255 :=
  ⟨SpanPort.reset, 0, 0, rfl, by decide +kernel⟩

theorem witness_LinksSpansAndResetsGoOn_x20 :
    ∃ (s : State) (d : _) (n : _) (x : Nat) (y : Nat), s.power = .run ∧ s.uncoreStopped = false ∧ s.measuring.find? (fun m => m.1 = d) = none ∧ d ∈ s.withheld ∧ Config.rateLimit 0 < n :=
  ⟨wLink15s, 4, Config.rateLimit 0 + 1, 1, 2, rfl, rfl, rfl, by decide +kernel, Nat.lt_succ_self _⟩

theorem witness_LinksSpansAndResetsGoOn_x21 :
    ∃ (s : State) (d : _) (n : _) (w : FlagWhat), s.power = .run ∧ s.uncoreStopped = false ∧ s.measuring.find? (fun m => m.1 = d) = none ∧ d ∉ s.withheld ∧ Config.rateLimit w.kind < n :=
  ⟨up1, 4, Config.rateLimit (FlagWhat.site 1 2).kind + 1, .site 1 2, rfl, rfl, rfl, by decide +kernel, Nat.lt_succ_self _⟩

theorem witness_LinksSpansAndResetsGoOn_x22 :
    ∃ (s : State) (d : _) (n : _) (w : FlagWhat), s.power = .run ∧ s.uncoreStopped = false ∧ s.measuring.find? (fun m => m.1 = d) = none ∧ n ≤ Config.rateLimit w.kind :=
  ⟨up1, 4, 0, .site 1 2, rfl, rfl, rfl, Nat.zero_le _⟩

theorem witness_LinksSpansAndResetsGoOn_x25 :
    ∃ (s : State) (f : _) (v : BitVec 16), s.power = .run ∧ s.validPa (65536 * f) = true ∧ (locOf (65536 * f)).kind ≠ .host ∧ paPkg (65536 * f) = s.pkgNo ∧ s.configUp (paDie (65536 * f)) = true ∧ (v.getLsbD 15 = true → s.frameOut (65536 * f) = false) :=
  ⟨up1, 2, 0x8001, by decide +kernel⟩

theorem witness_LinksSpansAndResetsGoOn_x26 :
    ∃ (s : State) (d : _) (k : _) (w : Word), s.power = .run ∧ d < s.fuses.nlive ∧ 1 ≤ k ∧ k ≤ 255 ∧ s.configUp d = true :=
  ⟨up1, 3, 255, 7, by decide +kernel⟩

theorem witness_StepRunsTheDecodedInstruction_x5 :
    ∃ (s : State) (site : _) (slot : _) (rest : _), s.agenda = .progress site slot :: rest :=
  ⟨{ up with agenda := [.progress ⟨1, 0, 0⟩ 3] }, ⟨1, 0, 0⟩, 3, [], rfl⟩

theorem witness_StepRunsTheDecodedInstruction_x6 :
    ∃ (s : State) (n : _) (rest : _), s.agenda = .wait n :: rest :=
  ⟨{ up with agenda := [.wait 4] }, 4, [], rfl⟩

theorem witness_StepRunsTheDecodedInstruction_x10 :
    ∃ (s : State) (e : _) (rest : _), s.agenda = .outside e :: rest :=
  ⟨{ up with agenda := [.outside (.spanTransmit 3)] }, .spanTransmit 3, [], rfl⟩


/-- The CU of a region, whose EOI handler takes an instance to its row feed. -/
def fedRecv (p : PE) : PE :=
  let q := p.running ((encode (.recv (fD .s8 7 0 0))).getD 0)
  { q with ins := q.ins.set 7 ⟨[ve .bf16 1], 0⟩ }

theorem witness_RecvTakesTheHeadAndPeekLeavesIt_x2 :
    SiteHas { sysS fedRecv 2 with focus := Focus.slotAt ⟨1, 0, 2⟩ 0 } (fun _ c => !c.eoiInput 7 && c.feed 7) := siteHas (by decide +kernel)

/-! ### Premises that can be met: encoding, the step and the commands with free values -/

theorem witness_ImageWordsRoundTrip : ∃ i : Instr, i.wf = true ∧ i.row ≠ .event := ⟨.add (fA .n32), by decide⟩

theorem witness_DecodedWordsEncodeBack : (∃ (w : IWord) (i : Instr), decodeWord w = .ok i) ∧
    (∃ w : IWord, w ≠ 0 ∧ 0x17 ≤ (w.extractLsb' 48 8).toNat ∧ (w.extractLsb' 48 8).toNat ≤ 0x1F) ∧
    (∃ w : IWord, w ≠ 0 ∧ 0xF8 ≤ (w.extractLsb' 48 8).toNat) :=
  ⟨⟨0x24_007F_F300_0000#56, .mul ⟨⟨0, 3, 511⟩, 6, .regs 0 0 0 0 0 0⟩, by decide⟩, ⟨0x1F_0000_0000_0000#56, by decide⟩,
    ⟨0xF8_0000_0000_0000#56, by decide⟩⟩

/-- A slot that holds MUL of n64, at the site in focus. -/
def slotMul : State := stands (.mul (fA .n64)) (opLR (sc .n64 3) (sc .n64 5))

theorem witness_StepRunsTheDecodedInstruction :
    (∃ s : State, s.agenda = []) ∧
    (∃ (s : State) (site : _) (rest : _), s.agenda = .issue site :: rest) ∧
    (∃ (s : State) (site : _) (k : _) (e : _), decodeWord (s.slotWord site k) = .error e) ∧
    (∃ (s : State) (site : _) (k : _) (i : _) (t : _), decodeWord (s.slotWord site k) = .ok i ∧ exec i { s with focus := Focus.slotAt site k } = .next t) ∧
    (∃ (s : State) (i : _) (f : _) (rest : _), s.agenda = .event i f :: rest ∧ encode i = none) ∧
    (∃ (s : State) (i : _) (f : _) (rest : _), s.agenda = .event i f :: rest ∧ encode i ≠ none) ∧
    (∃ s : State, s.power = .off) ∧ (∃ s : State, s.power ≠ .off ∧ s.fabricStopped = true) ∧
    (∃ (s : State) (id : _) (L : _), s.power ≠ .off ∧ s.fabricStopped = false ∧ s.lease? id = some L) :=
  ⟨⟨up, rfl⟩, ⟨{ up with agenda := [.issue ⟨1, 0, 0⟩] }, _, _, rfl⟩, ⟨up, ⟨1, 0, 0⟩, 0, .emptySlot, by decide +kernel⟩,
    (answers (o := exec (.mul (fA .n64)) { slotMul with focus := Focus.slotAt ⟨1, 0, 0⟩ 0 }) (by decide +kernel)).elim fun t h =>
      ⟨slotMul, ⟨1, 0, 0⟩, 0, .mul (fA .n64), t, by decide +kernel, h⟩,
    ⟨{ up with agenda := [.event .lapBoundary Focus.none] }, _, _, _, rfl, rfl⟩,
    ⟨{ up with agenda := [.event (.mul (fA .n64)) Focus.none] }, _, _, _, rfl, by decide⟩,
    ⟨State.reset, rfl⟩, ⟨{ up with fabricStopped := true }, by decide, rfl⟩, ⟨run1 id, 1, leaseI, by decide, rfl, rfl⟩⟩

theorem witness_EveryStepKeepsMemoryCanonical : ∃ s t : State, Safety.Inv s ∧ s.mem ≠ [] ∧ step s = .next t :=
  ⟨mustUp, mustUp.pass 1, by unfold Safety.Inv; decide +kernel, by decide, rfl⟩

/-- The nonce of the tests is 0, and no time has passed. -/
def nonced : State := { up1 with nonce := some 0, time := 0 }

/-- A token of the identity certificate's digest and zeros. -/
def tokenI : BitVec 1280 := BitVec.ofNat 1280 ((Config.sha384 Config.identityCert).toNat % 2 ^ 256)

theorem token_nat : tokenI.toNat = (Config.sha384 Config.identityCert).toNat % 2 ^ 256 := by
  unfold tokenI
  rw [BitVec.toNat_ofNat]
  exact Nat.mod_eq_of_lt (Nat.lt_of_lt_of_le (Nat.mod_lt _ (Nat.two_pow_pos 256)) (Nat.pow_le_pow_right (by decide) (by decide)))

theorem token_high (off n : Nat) (h : 32 ≤ off) : tokenField tokenI off n = 0 := by
  have hlt : tokenI.toNat < 2 ^ (8 * off) := by
    rw [token_nat]
    exact Nat.lt_of_lt_of_le (Nat.mod_lt _ (Nat.two_pow_pos 256)) (Nat.pow_le_pow_right (by decide) (by omega))
  unfold tokenField bitsOf
  rw [Nat.shiftRight_eq_div_pow, Nat.div_eq_of_lt hlt, Nat.zero_mod]

theorem token_low : tokenField tokenI 0 32 = (Config.sha384 Config.identityCert).toNat % 2 ^ 256 := by
  unfold tokenField bitsOf
  rw [Nat.shiftRight_zero, token_nat, Nat.mod_mod]

theorem witness_DebugTasksAndResetsAreCommanded_token : ∃ (s : State) (tok : BitVec 1280) (f : Nat),
    s.power = .run ∧ s.tokenOk tok true = true ∧ s.fabric + 4096 ≤ f ∧ s.freeze = none := by
  refine ⟨nonced, tokenI, 10 ^ 8 + 4096, rfl, ?_, by decide, rfl⟩
  simp only [State.tokenOk, token_low, token_high 32 16 (by decide), token_high 48 8 (by decide), token_high 56 1 (by decide),
    token_high 57 7 (by decide)]
  decide

theorem witness_BudgetsPoolsSitesAndRoutesAreSet_move : ∃ (s t : State) (tid va die : Nat) (c : Ctx),
    s.power = .run ∧ s.ctx? tid = some c ∧ s.pageMove c va die = some t :=
  ⟨unbUp, (unbUp.pageMove ctx1 0 1).getD unbUp, 1, 0, 1, ctx1, rfl, rfl, some_getD (by decide +kernel)⟩

end Sys2Proof.Tests
end

section
/-! Start lists, the mailbox, the MSI-X table and the register reads of both BARs under the writes of the host
(R27, R38, R45, R51, R52, R63 to R65, R388): one lemma per operation, then the statement that rests on them. -/

namespace Sys2Proof.Proofs.Registers

open Sys2Proof Sys2Proof.Machine Sys2Proof.Claims

/-! ### An event that changes one start list -/

/-- An event that answers with one start list changed in place leads to that list and to nothing else. -/
theorem leads_modSl {i : Instr} {s : State} {slot : Nat} {l : StartList} {f : StartList → StartList}
    (hi : exec i s = .next (s.modSl slot f)) (hf : ∀ l, (f l).slot = l.slot) (hl : s.sl? slot = some l) :
    Leads i s (fun t => t.sl? slot = some (f l) ∧ t = { s with startLists := t.startLists }) :=
  ⟨_, hi, by rw [sl?_modSl s slot f hf, hl, Option.map_some], State.modSl_only s slot f⟩

/-! ### SLTAIL (R55, R64) -/

/-- A start list whose SLTAIL is written with a value that SIZE allows. -/
def withTail (tail : BitVec 32) (l : StartList) : StartList :=
  { l with tail := tail, retryAt := if l.held.isSome then l.retryAt else none }

/-- A start list that faults, unless it is FAULTED or DESTROYED already. -/
def faultedWith (cause : Nat) (l : StartList) : StartList :=
  if l.st = .faulted || l.st = .destroyed then l else { l with st := .faulted, fcause := cause }

theorem slot_faultedWith (cause : Nat) (l : StartList) : (faultedWith cause l).slot = l.slot := by
  unfold faultedWith
  split <;> rfl

theorem faultedWith_of_live {cause : Nat} {l : StartList} (hf : l.st ≠ .faulted) (hd : l.st ≠ .destroyed) :
    faultedWith cause l = { l with st := .faulted, fcause := cause } := by
  simp [faultedWith, hf, hd]

section
variable {s : State} {slot : Nat} {tail : BitVec 32} {l : StartList}

theorem writeTail_accepted (hl : s.sl? slot = some l) (hd : l.st ≠ .destroyed) (hsz : (tail - l.head).toNat ≤ l.size) :
    s.writeTail slot tail = s.modSl slot (withTail tail) := by
  unfold State.writeTail
  rw [hl]
  exact (if_neg hd).trans (if_neg (Nat.not_lt.mpr hsz))

theorem writeTail_overrun (hl : s.sl? slot = some l) (hd : l.st ≠ .destroyed) (hsz : l.size < (tail - l.head).toNat) :
    s.writeTail slot tail = s.modSl slot (faultedWith 3) := by
  unfold State.writeTail
  rw [hl]
  exact (if_neg hd).trans (if_pos hsz)

theorem writeTail_ignored (h : ∀ l, s.sl? slot = some l → l.st = .destroyed) : s.writeTail slot tail = s := by
  unfold State.writeTail
  split
  case h_1 => rfl
  case h_2 l hl => exact if_pos (h l hl)

end

/-! ### STOP and START (R64) -/

/-- A start list under STOP. -/
def stopped (l : StartList) : StartList := if l.st = .active then { l with st := .stopping } else l

/-- A start list under START. -/
def started (l : StartList) : StartList :=
  if l.st = .stopped || l.st = .faulted then
    { l with st := .active, fcause := if l.st = .faulted then 0 else l.fcause, retryAt := none }
  else l

theorem slot_stopped (l : StartList) : (stopped l).slot = l.slot := by
  unfold stopped
  split <;> rfl

theorem slot_started (l : StartList) : (started l).slot = l.slot := by
  unfold started
  split <;> rfl

theorem stopped_of_active {l : StartList} (h : l.st = .active) : stopped l = { l with st := .stopping } := if_pos h

theorem started_of_stopped {l : StartList} (h : l.st = .stopped ∨ l.st = .faulted) :
    started l = { l with st := .active, fcause := if l.st = .faulted then 0 else l.fcause, retryAt := none } :=
  if_pos (by simpa using h)

/-! ### DESTROY (R65) -/

/-- A start list once DESTROY has been written. -/
def destroyed (force : Bool) (l : StartList) : StartList :=
  { l with st := .destroyed, held := none, retryAt := none, force := force }

section
variable {s : State} {slot : Nat} {l : StartList}

theorem sl?_modSl_destroyed (hl : s.sl? slot = some l) (force : Bool) :
    (s.modSl slot (destroyed force)).sl? slot = some (destroyed force l) := by
  rw [sl?_modSl s slot (destroyed force) (fun _ => rfl), hl, Option.map_some]

theorem destroySl_live (hl : s.sl? slot = some l) (hd : l.st ≠ .destroyed) (force : Bool) :
    s.destroySl slot force = if force then (s.modSl slot (destroyed force)).forceSl slot l.nodes
      else (s.modSl slot (destroyed force)).sweepSl slot := by
  unfold State.destroySl
  rw [hl]
  exact if_neg hd

/-- A start list with a task left is not freed. -/
theorem sweepSl_of_task {x : Task} (hx : x ∈ s.tasks) (hs : x.slid = slot) : s.sweepSl slot = s := by
  have hany : s.tasks.any (fun t => t.slid = slot) = true := List.any_eq_true.mpr ⟨x, hx, decide_eq_true hs⟩
  unfold State.sweepSl
  split
  case h_1 => rfl
  case h_2 => simp [hany]

/-- A destroyed start list with no work left is freed. -/
theorem sl?_sweepSl_idle (hl : s.sl? slot = some l) (hd : l.st = .destroyed) (hp : l.pending = []) (hn : l.nodes = [])
    (ht : ∀ x ∈ s.tasks, x.slid ≠ slot) : (s.sweepSl slot).sl? slot = none := by
  have hany : s.tasks.any (fun t => t.slid = slot) = false := by simpa using ht
  unfold State.sweepSl
  simp only [hl, hd, hp, hn, hany, List.isEmpty_nil, decide_true, Bool.not_false, Bool.and_self, if_true]
  exact find?_filter_none _ _ (by simp) s.startLists

/-- FORCE has nothing to kill where no node and no task is left. -/
theorem forceSl_nil (ht : ∀ x ∈ s.tasks, x.slid ≠ slot) : s.forceSl slot [] = s.sweepSl slot := by
  have hnone : s.tasks.filter (fun t => t.slid = slot) = [] := by simpa using ht
  unfold State.forceSl
  simp only [List.foldl_nil, hnone]

theorem sl?_destroySl_idle (hl : s.sl? slot = some l) (hd : l.st ≠ .destroyed) (hp : l.pending = []) (hn : l.nodes = [])
    (ht : ∀ x ∈ s.tasks, x.slid ≠ slot) (force : Bool) : (s.destroySl slot force).sl? slot = none := by
  have hfreed : ((s.modSl slot (destroyed force)).sweepSl slot).sl? slot = none :=
    sl?_sweepSl_idle (sl?_modSl_destroyed hl force) rfl hp hn ht
  have hforce : (s.modSl slot (destroyed force)).forceSl slot [] = (s.modSl slot (destroyed force)).sweepSl slot :=
    forceSl_nil ht
  rw [destroySl_live hl hd, hn, hforce, ite_self, hfreed]

theorem destroySl_of_task {x : Task} (hl : s.sl? slot = some l) (hd : l.st ≠ .destroyed) (hx : x ∈ s.tasks)
    (hs : x.slid = slot) : s.destroySl slot false = s.modSl slot (destroyed false) :=
  (destroySl_live hl hd false).trans (sweepSl_of_task hx hs)

end

/-! ### The mailbox (R51) -/

/-- A field of a bit vector as a number is the field as a bit vector. -/
theorem ofNat_bitsOf {w : Nat} (v : BitVec w) (lo len : Nat) :
    BitVec.ofNat len (bitsOf v.toNat lo len) = v.extractLsb' lo len := by
  apply BitVec.eq_of_toNat_eq
  simp [bitsOf]

/-- What a vector holds after its places from `off` on were set one by one. -/
theorem getElem?_foldl_setIfInBounds {α : Type} {N : Nat} (m : Vector α N) (g : Nat → α) (off n k : Nat) (hn : off + n ≤ N) :
    ((List.range n).foldl (fun (m : Vector α N) i => m.setIfInBounds (off + i) (g i)) m)[k]? =
      if off ≤ k ∧ k < off + n then some (g (k - off)) else m[k]? := by
  induction n with
  | zero => rw [if_neg (by omega)]; rfl
  | succ n ih =>
    rw [List.range_succ, List.foldl_append, List.foldl_cons, List.foldl_nil, Vector.getElem?_setIfInBounds,
      ih (by omega)]
    by_cases hk : off + n = k
    · subst hk
      simp; omega
    · rw [if_neg hk]
      exact if_congr (by omega) rfl rfl

theorem getElem?_writeMailbox (s : State) (off : Nat) (v : BitVec 64) (k : Nat) (hoff : off + 8 ≤ 256) :
    (s.writeMailbox off v).mailbox[k]? =
      if off ≤ k ∧ k < off + 8 then some (v.extractLsb' (8 * (k - off)) 8) else s.mailbox[k]? := by
  rw [← ofNat_bitsOf]
  exact getElem?_foldl_setIfInBounds s.mailbox (fun i => BitVec.ofNat 8 (bitsOf v.toNat (8 * i) 8)) off 8 k hoff

/-! ### The MSI-X table (R51) -/

/-- A write to an entry without a pending message changes the table alone. -/
theorem writeMsix_not_pending {s : State} {fn off : Nat} (v : BitVec 64) (h : (fn, off / 16) ∉ s.msixPending) :
    s.writeMsix fn off v = { s with msixTable :=
      (fn, off + 4, v.extractLsb' 32 32) :: ((fn, off, v.setWidth 32) ::
        s.msixTable.filter (fun e => !(e.1 = fn && e.2.1 = off))).filter (fun e => !(e.1 = fn && e.2.1 = off + 4)) } := by
  have hlow : BitVec.ofNat 32 (bitsOf v.toNat 0 32) = v.setWidth 32 := by
    rw [ofNat_bitsOf, BitVec.setWidth_eq_extractLsb' (by decide)]
  simp [State.writeMsix, State.unmask, h, hlow, ofNat_bitsOf]

/-! ### REGISTER_WRITE -/

theorem exec_registerWrite_bar0 {s : State} {fn off : Nat} (v : BitVec 64) (hp : s.power = .run) (hf : fn < 128)
    (ha : off % 8 = 0) : exec (.registerWrite fn 0 off v) s = .next (s.writeBar0 fn off v) :=
  if_neg (by simp [hp, ha, functions, hf])

theorem exec_registerWrite_bar2 {s : State} {fn off : Nat} (v : BitVec 64) (hp : s.power = .run) (hf : fn < 128)
    (ha : off % 8 = 0) : exec (.registerWrite fn 2 off v) s = .next (s.writeBar2 fn off v) :=
  if_neg (by simp [hp, ha, functions, hf])

theorem writeBar0_mailbox {s : State} {off : Nat} (v : BitVec 64) (h1 : 0x200 ≤ off) (h2 : off < 0x300) :
    s.writeBar0 0 off v = s.writeMailbox (off - 0x200) v := by
  simp [State.writeBar0, h1, h2]

theorem writeBar0_msix {s : State} {fn off : Nat} (v : BitVec 64) (h1 : 0x8000 ≤ off) (h2 : off < 0x10000) :
    s.writeBar0 fn off v = s.writeMsix fn (off - 0x8000) v := by
  have hmail : ¬off < 0x300 := by omega
  simp [State.writeBar0, hmail, h1, h2]

/-- What of BAR0 is read-only, reserved or not the function's takes no write (R51). -/
theorem writeBar0_ignored {s : State} {fn off : Nat} (v : BitVec 64)
    (h : off < 0x200 ∨ (0x300 ≤ off ∧ off < 0x8000) ∨ 0x10000 ≤ off ∨ (fn ≠ 0 ∧ off < 0x300)) : s.writeBar0 fn off v = s := by
  unfold State.writeBar0
  simp only [Bool.and_eq_true, decide_eq_true_eq]
  split
  next hmail => exact if_neg (by omega)
  next => exact if_neg (by omega)

theorem exec_registerWrite_ignored {s : State} {fn off : Nat} (v : BitVec 64)
    (h : off < 0x200 ∨ (0x300 ≤ off ∧ off < 0x8000) ∨ 0x10000 ≤ off ∨ (fn ≠ 0 ∧ off < 0x300)) :
    exec (.registerWrite fn 0 off v) s = .next s := by
  change (if _ then Host.Outcome.next s else .next (s.writeBar0 fn off v)) = _
  rw [writeBar0_ignored v h, ite_self]

/-! ### Doorbell pages (R52) -/

theorem page_div (k o : Nat) (ho : o < 0x1000) : (0x1000 * k + o) / 0x1000 = k := by omega

theorem page_mod (k o : Nat) (ho : o < 0x1000) : (0x1000 * k + o) % 0x1000 = o := by omega

section
variable (s : State) (fn k : Nat) (v : BitVec 64) (hk : k < 64)
include hk

theorem writeBar2_tail : s.writeBar2 fn (0x1000 * k) v = s.writeTail (64 * fn + k) (v.setWidth 32) := by
  simp [State.writeBar2, hk]

theorem writeBar2_chead : s.writeBar2 fn (0x1000 * k + 0x10) v = s.writeChead (64 * fn + k) (v.setWidth 32) := by
  simp [State.writeBar2, page_div, hk]

theorem writeBar2_slctl : s.writeBar2 fn (0x1000 * k + 0x18) v = s.writeSlctl (64 * fn + k) v := by
  simp [State.writeBar2, page_div, hk]

end

/-! ### Register reads (R27, R38, R45, R51, R52) -/

section
variable (s : State) (fn : Nat)

theorem readRegister_pkginfo : s.readRegister fn 0 0x100 = s.fuses.pkginfo := rfl

theorem readRegister_clhole {d : Nat} (hd : d < 4) : s.readRegister fn 0 (0x108 + 8 * d) = s.fuses.clhole d := by
  have hdie : (0x108 + 8 * d - 0x108) / 8 = d := by omega
  simp (disch := omega) only [State.readRegister, State.readBar0, if_pos, if_neg, if_true, hdie]

theorem readRegister_reserved {off : Nat} (h1 : 0x128 ≤ off) (h2 : off < 0x200) : s.readRegister fn 0 off = 0 := by
  simp (disch := omega) only [State.readRegister, State.readBar0, if_pos, if_neg, if_true]

theorem readRegister_dlstat {k : Nat} {l : Link} (hk : k < 8) (hl : s.links[k]? = some l) :
    s.readRegister fn 0 (0x300 + 8 * k) = l.dlstat := by
  have hlink : (0x300 + 8 * k - 0x300) / 8 = k := by omega
  simp (disch := omega) only [State.readRegister, State.readBar0, if_pos, if_neg, if_true, hlink, hl]

theorem readRegister_sxstat {n : Nat} (hn : n < 16) : s.readRegister 0 0 (0x400 + 16 * n) = (s.span n).sxstat := by
  have hport : (0x400 + 16 * n - 0x400) / 16 = n := by omega
  have hpf : (decide True && decide ((0x400 + 16 * n) % 16 = 0)) = true := by simp
  simp (disch := omega) only [State.readRegister, State.readBar0, if_pos, if_neg, if_true, hport, hpf]

/-- The mailbox region and SXSTAT are the PF's alone (R45, R51). -/
theorem readRegister_vf {fn off : Nat} (hfn : fn ≠ 0) (h : (0x200 ≤ off ∧ off < 0x300) ∨ (0x400 ≤ off ∧ off < 0x500)) :
    s.readRegister fn 0 off = 0 := by
  have hvf : (decide (fn = 0) && decide (off % 16 = 0)) = false := by simp [hfn]
  rcases h with ⟨h1, h2⟩ | ⟨h1, h2⟩
  · simp (disch := omega) only [State.readRegister, State.readBar0, if_pos, if_neg, if_true]
  · simp (disch := omega) only [State.readRegister, State.readBar0, if_pos, if_neg, if_true, hvf, Bool.false_eq_true, if_false]

/-- The doorbell page of a start list (R52). -/
theorem readRegister_page {fn k : Nat} {l : StartList} (hk : k < 64) (hl : s.sl? (64 * fn + k) = some l) :
    s.readRegister fn 2 (0x1000 * k) = l.tail.setWidth 64 ∧ s.readRegister fn 2 (0x1000 * k + 8) = l.head.setWidth 64 ∧
    s.readRegister fn 2 (0x1000 * k + 0x10) = l.chead.setWidth 64 ∧ s.readRegister fn 2 (0x1000 * k + 0x18) = 0 ∧
    s.readRegister fn 2 (0x1000 * k + 0x20) = l.slstat := by
  refine ⟨?_, ?_, ?_, ?_, ?_⟩ <;> simp [State.readRegister, State.readBar2, page_div, hk, hl]

/-- A doorbell page without a start list (R52). -/
theorem readRegister_page_absent {fn k : Nat} (hk : k < 64) (hl : s.sl? (64 * fn + k) = none) :
    s.readRegister fn 2 (0x1000 * k) = 0 ∧ s.readRegister fn 2 (0x1000 * k + 0x20) = 7 := by
  constructor <;> simp [State.readRegister, State.readBar2, page_div, hk, hl]

end

/-! ### The statement -/

section
variable {s : State} {slot : Nat} {l : StartList}

theorem leads_doorbell_accepted {tail : BitVec 32} (hl : s.sl? slot = some l) (hd : l.st ≠ .destroyed)
    (hsz : (tail - l.head).toNat ≤ l.size) : Leads (.doorbell slot tail) s (fun t =>
      t.sl? slot = some (withTail tail l) ∧ t = { s with startLists := t.startLists }) :=
  leads_modSl (congrArg Host.Outcome.next (writeTail_accepted hl hd hsz)) (fun _ => rfl) hl

theorem leads_doorbell_overrun {tail : BitVec 32} (hl : s.sl? slot = some l) (hd : l.st ≠ .destroyed) (hf : l.st ≠ .faulted)
    (hsz : l.size < (tail - l.head).toNat) : Leads (.doorbell slot tail) s (fun t =>
      t.sl? slot = some { l with st := .faulted, fcause := 3 } ∧ t = { s with startLists := t.startLists }) := by
  rw [← faultedWith_of_live hf hd]
  exact leads_modSl (congrArg Host.Outcome.next (writeTail_overrun hl hd hsz)) (slot_faultedWith 3) hl

theorem leads_slchead (v : BitVec 32) (hl : s.sl? slot = some l) : Leads (.slchead slot v) s (fun t =>
    t.sl? slot = some { l with chead := v } ∧ t = { s with startLists := t.startLists }) :=
  leads_modSl (f := fun l => { l with chead := v }) rfl (fun _ => rfl) hl

theorem leads_stop (hl : s.sl? slot = some l) (ha : l.st = .active) : Leads (.stop slot) s (fun t =>
    t.sl? slot = some { l with st := .stopping } ∧ t = { s with startLists := t.startLists }) := by
  rw [← stopped_of_active ha]
  exact leads_modSl rfl slot_stopped hl

theorem leads_start (hl : s.sl? slot = some l) : Leads (.start slot) s (fun t =>
    t.sl? slot = some (started l) ∧ t = { s with startLists := t.startLists }) :=
  leads_modSl rfl slot_started hl

theorem leads_destroy_busy {x : Task} (hl : s.sl? slot = some l) (hd : l.st ≠ .destroyed) (hx : x ∈ s.tasks)
    (hs : x.slid = slot) : Leads (.destroy slot) s (fun t =>
      t.sl? slot = some (destroyed false l) ∧ t = { s with startLists := t.startLists }) :=
  leads_modSl (congrArg Host.Outcome.next (destroySl_of_task hl hd hx hs)) (fun _ => rfl) hl

end

theorem leads_write_mailbox {s : State} {off : Nat} (v : BitVec 64) (hp : s.power = .run) (ha : off % 8 = 0)
    (h1 : 0x200 ≤ off) (h2 : off < 0x300) :
    Leads (.registerWrite 0 0 off v) s (fun t => (∀ k, k < 8 → t.mailbox[off - 0x200 + k]? = some (v.extractLsb' (8 * k) 8)) ∧
      (∀ k, k < off - 0x200 ∨ off - 0x200 + 8 ≤ k → t.mailbox[k]? = s.mailbox[k]?) ∧ t = { s with mailbox := t.mailbox }) := by
  have hoff : off - 0x200 + 8 ≤ 256 := by omega
  refine ⟨s.writeMailbox (off - 0x200) v, ?_, fun k hk => ?_, fun k hk => ?_, rfl⟩
  · rw [exec_registerWrite_bar0 v hp (by decide) ha, writeBar0_mailbox v h1 h2]
  · rw [getElem?_writeMailbox s _ v _ hoff, if_pos (by omega), Nat.add_sub_cancel_left]
  · rw [getElem?_writeMailbox s _ v _ hoff, if_neg (by omega)]

theorem leads_write_msix {s : State} {f off : Nat} (v : BitVec 64) (hp : s.power = .run) (hf : f < 128) (ha : off % 8 = 0)
    (h1 : 0x8000 ≤ off) (h2 : off < 0x10000) (hn : (f, (off - 0x8000) / 16) ∉ s.msixPending) :
    Leads (.registerWrite f 0 off v) s (fun t =>
      (f, off - 0x8000, v.setWidth 32) ∈ t.msixTable ∧ (f, off - 0x8000 + 4, v.extractLsb' 32 32) ∈ t.msixTable ∧
      (∀ x ∈ s.msixTable, x.1 ≠ f → x ∈ t.msixTable) ∧ t = { s with msixTable := t.msixTable }) := by
  refine ⟨_, ((exec_registerWrite_bar0 v hp hf ha).trans (congrArg _ (writeBar0_msix v h1 h2))).trans
    (congrArg _ (writeMsix_not_pending v hn)), ?_, ?_, fun x hx hxf => ?_, rfl⟩
  · simp
  · simp
  · simp [hx, hxf]

/-- Settles O48: each operation on a start list is one change of that list or frees it, and the register that a write or a read
names follows from the offset. -/
theorem startListRegistersAreWritten : Obligations.StartListRegistersAreWritten := by
  unfold Obligations.StartListRegistersAreWritten
  refine ⟨?_, ?_, ?_, ?_, ?_, ?_, ?_, ?_, ?_, ?_, ?_, ?_, ?_, ?_, ?_⟩
  · intro s slot tail l hl hd hsz
    obtain ⟨t, ht, hsl, hrest⟩ := leads_doorbell_accepted hl hd hsz
    exact ⟨t, ht, by rw [hsl]; rfl, by rw [hsl]; rfl, hrest⟩
  · intro s slot tail l hl hd hf hsz
    exact leads_doorbell_overrun hl hd hf hsz
  · intro s slot tail h
    exact congrArg Host.Outcome.next (writeTail_ignored h)
  · intro s slot v l hl
    exact leads_slchead v hl
  · intro s slot l hl ha
    exact leads_stop hl ha
  · intro s slot l hl hst
    obtain ⟨t, ht, hsl, hrest⟩ := leads_start hl
    rw [started_of_stopped hst] at hsl
    exact ⟨t, ht, by rw [hsl]; rfl, by rw [hsl]; rfl, fun hf => by rw [hsl]; simp [hf], hrest⟩
  · intro s slot l x hl hd hx hs
    exact leads_destroy_busy hl hd hx hs
  · intro s slot l hl hd hp hn ht
    exact ⟨⟨_, rfl, sl?_destroySl_idle hl hd hp hn ht false⟩, ⟨_, rfl, sl?_destroySl_idle hl hd hp hn ht true⟩⟩
  · intro s off v hp ha h1 h2
    exact leads_write_mailbox v hp ha h1 h2
  · intro s f off v hp hf ha h1 h2 hn
    exact leads_write_msix v hp hf ha h1 h2 hn
  · intro s f off v _ h
    exact exec_registerWrite_ignored v h
  · intro s f k v hp hf hk
    have slctl (w : BitVec 64) :
        exec (.registerWrite f 2 (0x1000 * k + 0x18) w) s = .next (s.writeSlctl (64 * f + k) w) := by
      rw [exec_registerWrite_bar2 w hp hf (by omega), writeBar2_slctl s f k w hk]
    refine ⟨?_, ?_, slctl 1, slctl 2, slctl 3, slctl 4, slctl 12⟩
    · rw [exec_registerWrite_bar2 v hp hf (by omega), writeBar2_tail s f k v hk]
      rfl
    · rw [exec_registerWrite_bar2 v hp hf (by omega), writeBar2_chead s f k v hk]
      rfl
  · intro s f
    exact ⟨readRegister_pkginfo s f, fun d hd => readRegister_clhole s f hd, fun off h1 h2 => readRegister_reserved s f h1 h2,
      fun k l hk hl => readRegister_dlstat s f hk hl, fun n hn => readRegister_sxstat s hn,
      fun off hf h => readRegister_vf s hf h⟩
  · intro s f k l hk hl
    exact readRegister_page s hk hl
  · intro s f k hk hl
    exact readRegister_page_absent s hk hl

end Sys2Proof.Proofs.Registers
end

section
/-! Reset, the step over the agenda, the passing of time, and the power states of the package (R22, R25, R38, R45, R66, R90, R105,
R109, R116, R126): what each of `State.pass`, `step`, `State.issueFrom` and the supply's events answers, then the statements that
rest on it. -/

namespace Sys2Proof.Proofs.Package

open Sys2Proof Sys2Proof.Machine Sys2Proof.Claims

/-! ### The passing of time (R22, R90, R116, R140) -/

section
variable (s : State) (n : Nat)

/-- Counting an event changes the counters only. -/
theorem exists_count_eq (tid die ev : Nat) : ∃ k, s.count tid die ev n = { s with counters := k } := by
  unfold State.count
  split
  · exact ⟨_, rfl⟩
  · exact ⟨_, rfl⟩

theorem exists_foldl_count_eq (ev : Nat) (l : List (Nat × Nat)) :
    ∃ k, l.foldl (fun (s : State) x => s.count x.1 x.2 ev n) s = { s with counters := k } := by
  induction l generalizing s with
  | nil => exact ⟨s.counters, rfl⟩
  | cons x l ih =>
    obtain ⟨_, hx⟩ := exists_count_eq s n x.1 x.2 ev
    obtain ⟨k, hl⟩ := ih (s.count x.1 x.2 ev n)
    exact ⟨k, by rw [List.foldl_cons, hl, hx]⟩

/-- Counting the ports that wait at injection changes the counters only. -/
theorem countWaits_only : s.countWaits n = { s with counters := (s.countWaits n).counters } := by
  obtain ⟨k, hk⟩ : ∃ k, s.countWaits n = { s with counters := k } := exists_foldl_count_eq s n 7 _
  rw [hk]

theorem cyclesOf_none (hz : s.freeze = none) : s.cyclesOf n = n := by
  unfold State.cyclesOf
  rw [hz]

theorem cyclesOf_some {z : Freeze} (hz : s.freeze = some z) : s.cyclesOf n = min n (z.f - s.fabric) := by
  unfold State.cyclesOf
  rw [hz]

theorem pass_off (hp : s.power = .off) : s.pass n = s := if_pos hp

theorem pass_stopped (hp : s.power ≠ .off) (hf : s.fabricStopped = true) : s.pass n = { s with time := s.time + n } :=
  (if_neg hp).trans (if_pos hf)

/-- The package once time has passed, with the cycles that the fabric had left counted by the fabric and by every lease. -/
def clocked : State :=
  { s with
    time := s.time + n
    fabric := s.fabric + s.cyclesOf n
    leases := s.leases.map (State.leaseClock { s with time := s.time + n } (s.cyclesOf n)) }

/-- Whether cycle F of a photo finish ends within some fabric cycles (R116). -/
def freezesWithin : Bool := s.freeze.any (fun z => decide (z.f ≤ s.fabric + n))

/-- While the fabric runs, its clocks go on, the ports that wait are counted, and a photo finish stops the clocks (R116). -/
theorem pass_running (hp : s.power ≠ .off) (hf : s.fabricStopped = false) : s.pass n =
    { clocked s n with
      counters := ((clocked s n).countWaits (s.cyclesOf n)).counters
      fabricStopped := freezesWithin s n
      uncoreStopped := s.uncoreStopped || freezesWithin s n } :=
  calc s.pass n
    _ = { (clocked s n).countWaits (s.cyclesOf n) with
          fabricStopped := freezesWithin s n, uncoreStopped := s.uncoreStopped || freezesWithin s n } :=
        (if_neg hp).trans (if_neg (ne_true_of_eq_false hf))
    _ = _ := by rw [countWaits_only]

theorem pass_time (hp : s.power ≠ .off) : (s.pass n).time = s.time + n := by
  cases hf : s.fabricStopped with
  | true => rw [pass_stopped s n hp hf]
  | false =>
    rw [pass_running s n hp hf]
    rfl

/-- Every lease keeps its number under the clock, so it is found again with its cycles counted. -/
theorem lease?_clocked (id : Nat) : (clocked s n).lease? id =
    (s.lease? id).map (State.leaseClock { s with time := s.time + n } (s.cyclesOf n)) :=
  List.find?_map

theorem pass_unfrozen (hp : s.power ≠ .off) (hf : s.fabricStopped = false) (hz : s.freeze = none) :
    (s.pass n).fabric = s.fabric + n ∧
      ∀ id L, s.lease? id = some L → ((s.pass n).lease? id).map Lease.cyc = some (L.cyc + n) := by
  rw [pass_running s n hp hf]
  refine ⟨congrArg (s.fabric + ·) (cyclesOf_none s n hz), fun id L hL => ?_⟩
  change ((clocked s n).lease? id).map Lease.cyc = _
  rw [lease?_clocked, hL, cyclesOf_none s n hz]
  rfl

theorem pass_to_freeze {z : Freeze} (hp : s.power ≠ .off) (hf : s.fabricStopped = false) (hz : s.freeze = some z)
    (hle : z.f ≤ s.fabric + n) :
    (s.pass n).fabric = max s.fabric z.f ∧ (s.pass n).fabricStopped = true ∧ (s.pass n).uncoreStopped = true := by
  have hstop : freezesWithin s n = true := by simp [freezesWithin, hz, hle]
  have hlast : s.fabric + s.cyclesOf n = max s.fabric z.f := by
    rw [cyclesOf_some s n hz]
    omega
  rw [pass_running s n hp hf, hstop]
  exact ⟨hlast, rfl, Bool.or_true _⟩

end

/-! ### The step and the issue of a site (R126, assumption 1) -/

section
variable {s : State} {site : SiteRef} {k : Nat} {ks : List Nat}

theorem step_nil (h : s.agenda = []) : step s = .next (s.pass 1) := by
  unfold step
  rw [h]

theorem step_cons {a : Machine.Action} {rest : List Machine.Action} (h : s.agenda = a :: rest) :
    step s = State.act { s with agenda := rest } a := by
  unfold step
  rw [h]

theorem issueFrom_cons_error {e : DecodeError} (h : decodeWord (s.slotWord site k) = .error e) :
    s.issueFrom site (k :: ks) = s.issueFrom site ks := by
  rw [State.issueFrom, h]

theorem issueFrom_cons_next {i : Instr} {t : State} (hd : decodeWord (s.slotWord site k) = .ok i)
    (he : exec i { s with focus := Focus.slotAt site k } = .next t) :
    s.issueFrom site (k :: ks) = if t.hasFired site k then .next t else s.issueFrom site ks := by
  simp only [State.issueFrom, hd, he]

theorem act_event {i : Instr} (f : Focus) (h : encode i = none) : s.act (.event i f) = exec i { s with focus := f } := by
  simp [State.act, h]

theorem act_event_of_word {i : Instr} (f : Focus) (h : encode i ≠ none) : s.act (.event i f) = .next s :=
  if_pos (Option.isSome_iff_ne_none.mpr h)

end

/-! ### The events of the supply and of the energy reserve (R25, R66, R105, R109) -/

section
variable {s : State}

theorem exec_supplyPresent_verified (ms : List (BitVec 384)) (hp : s.power = .off) : exec (.supplyPresent true ms) s =
    .next (State.booted { s.powerOff with supply := true, pkgNo := s.pkgNo } ms) :=
  if_neg (not_not_intro hp)

theorem exec_supplyPresent_unverified (ms : List (BitVec 384)) (hp : s.power = .off) : exec (.supplyPresent false ms) s =
    .next { s.powerOff with
      supply := true, pkgNo := s.pkgNo, power := .boot, bootFailed := true, measurements := ms.map extended
      identity := Vector.ofFn (fun i => Config.bootFailure i.val) } :=
  if_neg (not_not_intro hp)

theorem exec_supplyPresent_powered (v : Bool) (ms : List (BitVec 384)) (hp : s.power ≠ .off) :
    exec (.supplyPresent v ms) s = .next { s with supply := true } := if_pos hp

/-- Every live die has its full budget from the end of BOOT (R90). -/
theorem booted_budget {ms : List (BitVec 384)} {d : Nat} (hd : d < s.fuses.nlive) :
    ∃ b ∈ (s.booted ms).budgets, b.die = d ∧ b.b = 42666 :=
  ⟨Budget.boot d, List.mem_map_of_mem (List.mem_range.mpr hd), rfl, rfl⟩

/-- Every link that is present runs after BOOT (R66). -/
theorem booted_link {ms : List (BitVec 384)} {k : Nat} {l : Link} (h : (s.booted ms).links[k]? = some l) :
    l.st = .running ∨ l.st = .absent := by
  have hmap : (s.links[k]?).map (fun l : Link => if l.st = .absent then l else { l with st := .running }) = some l := by
    rw [← Vector.getElem?_map]
    exact h
  obtain ⟨l₀, _, rfl⟩ := Option.map_eq_some_iff.mp hmap
  split
  case isTrue ha => exact .inr ha
  case isFalse => exact .inl rfl

/-- Where no context was ever admitted, the loss of the supply is the loss of power. -/
theorem exec_supplyLoss_off (h : s.power = .boot ∨ (s.power = .run ∧ s.everAdmitted = false)) : exec .supplyLoss s =
    .next (State.powerOff { s with supply := false, lossAt := if s.supply then s.ticks else s.lossAt }) := by
  change execSupplyLoss s = _
  unfold execSupplyLoss
  obtain hp | ⟨hp, ha⟩ := h
  · rw [hp]
  · simp [hp, ha]

theorem exec_supplyLoss_admitted (hp : s.power = .run) (ha : s.everAdmitted = true) (hs : s.supply = true) :
    exec .supplyLoss s = .next { s with supply := false, lossAt := s.ticks } := by
  change execSupplyLoss s = _
  simp [execSupplyLoss, hp, ha, hs]

/-- Each waiting command is tried in the state that the one before it left. -/
theorem foldl_createCtx_eq_admitInTurn (l : List CtxArgs) (s : State) :
    l.foldl (fun (s : State) a => match s.createCtx a with
      | .ok t => t.replyStatus 0
      | .error e => s.replyStatus e) s = admitInTurn l s := by
  induction l generalizing s with
  | nil => rfl
  | cons a l ih =>
    rw [List.foldl_cons, ih, admitInTurn]
    cases s.createCtx a <;> rfl

theorem exec_energyReserveReady (hp : s.power = .run) (he : s.energyReady = false) : exec .energyReserveReady s =
    .next (admitInTurn s.waitingCreates { s with energyReady := true, holdupFailed := false, waitingCreates := [] }) := by
  rw [← foldl_createCtx_eq_admitInTurn]
  exact if_neg (by simp [hp, he])

theorem exec_holdupChargeTimeout (hp : s.power = .run) (he : s.energyReady = false) (hf : s.holdupFailed = false)
    (ht : s.bootEnd + 30000000000 ≤ s.ticks) : exec .holdupChargeTimeout s =
      .next (if s.waitingCreates.isEmpty then { s.logError 52 with holdupFailed := true, waitingCreates := [] }
        else State.replyStatus { s.logError 52 with holdupFailed := true, waitingCreates := [] } 3) :=
  if_neg (by simp [hp, he, hf, ht])

end

/-! ### The statements -/

/-- Settles O43: each event's answer is one state, whose fields are read off. -/
theorem powerComesAndGoes : Obligations.PowerComesAndGoes := by
  unfold Obligations.PowerComesAndGoes
  refine ⟨?supplied, ?unverified, ?powered, ?lost, ?watched, ?reserve, ?timeout⟩
  case supplied =>
    intro s ms hp
    exact ⟨_, exec_supplyPresent_verified ms hp, rfl, rfl, rfl, rfl, rfl, rfl, rfl, rfl, rfl, rfl, rfl,
      fun _ hd => booted_budget hd, fun _ _ hl => booted_link hl⟩
  case unverified =>
    intro s ms hp
    exact ⟨_, exec_supplyPresent_unverified ms hp, rfl, rfl, rfl, rfl, rfl, rfl⟩
  case powered =>
    intro s v ms hp
    exact exec_supplyPresent_powered v ms hp
  case lost =>
    intro s h
    exact ⟨_, exec_supplyLoss_off h, rfl, rfl, rfl, rfl, rfl, rfl, rfl⟩
  case watched =>
    intro s hp ha hs
    exact exec_supplyLoss_admitted hp ha hs
  case reserve =>
    intro s hp he
    exact exec_energyReserveReady hp he
  case timeout =>
    intro s hp he hf ht
    refine ⟨_, exec_holdupChargeTimeout hp he hf ht, ?_⟩
    cases hw : s.waitingCreates with
    | nil => exact ⟨rfl, rfl, fun h => absurd rfl h, fun _ => rfl, rfl⟩
    | cons a l => exact ⟨rfl, rfl, fun _ => rfl, fun h => absurd h (List.cons_ne_nil a l), rfl⟩

/-- The seams of a part with four live dies are present, and DOWN at power-on (R28, R38). -/
theorem reset_seam_down {k : Nat} (hk : k < 4) : (State.reset.links[k]?).map Link.st = some .down := by
  have hall : ∀ k : Fin 4, (State.reset.links[k.val]?).map Link.st = some .down := by decide
  exact hall ⟨k, hk⟩

theorem reset_span_down {p : Nat} (hp : p < 16) : (State.reset.spans[p]?).map SpanPort.st = some .down := by
  have hport : State.reset.spans[p]? = some SpanPort.reset := Vector.getElem?_replicate.trans (if_pos hp)
  rw [hport]
  rfl

/-- Settles O40: every field of the package after reset is at its value without power. -/
theorem resetIsTheOffPackage : Obligations.ResetIsTheOffPackage := by
  unfold Obligations.ResetIsTheOffPackage
  have hoff : AtPowerOff State.reset :=
    ⟨rfl, rfl, rfl, rfl, rfl, rfl, rfl, rfl, rfl, rfl, rfl, rfl, rfl, rfl, fun _ hk => reset_seam_down hk,
      fun _ hp => reset_span_down hp⟩
  exact ⟨hoff, rfl, fun _ => rfl⟩

/-- Settles O41: a step is `State.act` of the agenda's head, and each kind of entry has its own answer. -/
theorem stepRunsTheDecodedInstruction : Obligations.StepRunsTheDecodedInstruction := by
  unfold Obligations.StepRunsTheDecodedInstruction
  refine ⟨?empty, ?issue, ?none_left, ?undecoded, ?decoded, ?progress, ?wait, ?event, ?word, ?pass, ?outside⟩
  case empty => exact fun _ h => step_nil h
  case issue => exact fun _ _ _ h => step_cons h
  case none_left => exact fun _ _ => rfl
  case undecoded => exact fun _ _ _ _ _ h => issueFrom_cons_error h
  case decoded => exact fun _ _ _ _ _ _ hd he => issueFrom_cons_next hd he
  case progress => exact fun _ _ _ _ h => step_cons h
  case wait => exact fun _ _ _ h => step_cons h
  case event => exact fun _ _ f _ h hi => (step_cons h).trans (act_event f hi)
  case word => exact fun _ _ f _ h hi => (step_cons h).trans (act_event_of_word f hi)
  case pass =>
    intro s n
    refine ⟨pass_off s n, pass_time s n, fun hp hf => ?_, pass_unfrozen s n, fun z => pass_to_freeze s n⟩
    rw [pass_stopped s n hp hf]
    exact ⟨rfl, rfl⟩
  case outside => exact fun _ _ _ h => step_cons h

end Sys2Proof.Proofs.Package
end

section
/-! The mailbox commands on budgets, pools, invalidations, race pools, sites, counts and routes (R44, R90, R174, R186, R201, R223, R384):
what each does to the one structure that it sets, then the statement that rests on it. -/

namespace Sys2Proof.Proofs.Budgets

open Sys2Proof Sys2Proof.Machine Sys2Proof.Claims

/-! ### Lists of entries and of pairs under keys -/

theorem mem_updWhere {α : Type} {p : α → Bool} {f : α → α} {l : List α} {x : α} (h : x ∈ updWhere p f l) :
    ∃ a ∈ l, (if p a then f a else a) = x := List.mem_map.mp h

/-- A filter that drops an entry before and after its change does not see the change. -/
theorem filter_updWhere_other {α : Type} {p q : α → Bool} {f : α → α} (h : ∀ a, p a = true → q a = false)
    (hf : ∀ a, p a = true → q (f a) = false) (l : List α) : (updWhere p f l).filter q = l.filter q := by
  induction l with
  | nil => rfl
  | cons a l ih =>
    simp only [updWhere, List.map_cons] at ih ⊢
    cases ha : p a with
    | false => simp [List.filter_cons, ih]
    | true => simp [h a ha, hf a ha, ih]

theorem lookupD_eq_find? {κ α : Type} [DecidableEq κ] (l : List (κ × α)) (k : κ) (d : α) :
    lookupD l k d = ((l.find? (fun p => p.1 = k)).map Prod.snd).getD d := by
  induction l with
  | nil => rfl
  | cons a l ih =>
    obtain ⟨j, v⟩ := a
    by_cases hj : j = k
    · simp [lookupD, hj]
    · simp [lookupD, hj, ih]

theorem lookupD_insertKV {κ α : Type} [DecidableEq κ] (l : List (κ × α)) (k : κ) (v d : α) :
    lookupD (insertKV l k v) k d = v := by
  rw [lookupD_eq_find?, find?_insertKV]
  rfl

theorem lookupD_insertKV_other {κ α : Type} [DecidableEq κ] (l : List (κ × α)) {k j : κ} (v d : α) (hj : j ≠ k) :
    lookupD (insertKV l k v) j d = lookupD l j d := by
  rw [lookupD_eq_find?, find?_insertKV_other l v hj, ← lookupD_eq_find?]

/-- A value set under a run of keys is found under each of them. -/
theorem lookupD_foldl_insertKV {α : Type} (l : List (Nat × α)) (base : Nat) (v d : α) {n k : Nat} (hk : k < n) :
    lookupD ((List.range n).foldl (fun o i => insertKV o (base + i) v) l) (base + k) d = v := by
  induction n with
  | zero => omega
  | succ n ih =>
    rw [List.range_succ, List.foldl_append, List.foldl_cons, List.foldl_nil]
    by_cases h : k = n
    · rw [h, lookupD_insertKV]
    · rw [lookupD_insertKV_other _ _ _ (by omega), ih (by omega)]

/-! ### Commands that are answered with status 0 (R384) -/

/-- A mailbox command that is not refused is answered with status 0 in RUN. -/
theorem mailCmd_ok {s t : State} (hp : s.power = .run) : s.mailCmd (.ok t) = .next (t.replyStatus 0) :=
  if_neg (not_not_intro hp)

section
variable {s : State} (hp : s.power = .run)
include hp

theorem exec_bwBudget {die b : Nat} (h1 : 1 ≤ b) (h2 : b ≤ 42666) (hd : die < s.fuses.nlive) : exec (.bwBudget die b) s =
    .next { s with budgets := updWhere (fun x => x.die = die) (fun x => { x with next := some b }) s.budgets, reply := ⟨0, []⟩ } :=
  (if_neg (by simp [State.live, hd]; omega)).trans (mailCmd_ok hp)

theorem leads_bwBudget {die b : Nat} (h1 : 1 ≤ b) (h2 : b ≤ 42666) (hd : die < s.fuses.nlive) :
    Leads (.bwBudget die b) s (fun t => (∀ x ∈ t.budgets, x.die = die → x.next = some b) ∧
      t.budgets.filter (fun x => x.die ≠ die) = s.budgets.filter (fun x => x.die ≠ die) ∧
      t = { s with budgets := t.budgets, reply := ⟨0, []⟩ }) := by
  refine ⟨_, exec_bwBudget hp h1 h2 hd, fun x hx hxd => ?_, filter_updWhere_other (by simp) (by simp) _, rfl⟩
  obtain ⟨a, -, rfl⟩ := mem_updWhere hx
  by_cases ha : a.die = die
  · simp [ha]
  · simp [ha] at hxd

/-! ### Pools (R174) -/

theorem exec_poolAdd {tid pool pa : Nat} {big : Bool} {c : Ctx} (hc : s.ctx? tid = some c) (hbad : s.poolBad tid pool pa big = false)
    (hup : s.configUp (paDie pa) = true) (hout : s.frameOut pa = false) : exec (.poolAdd tid pool pa big) s = .next { s with
      pools := ⟨tid, pool, big, ((s.pool? tid pool).map Pool.frames).getD [] ++ [pa]⟩ ::
        s.pools.filter (fun p => !(p.tid = tid && p.pool = pool))
      owners := (List.range ((if big then 2 ^ 21 else 65536) / 65536)).foldl
        (fun o i => insertKV o (pa / 65536 + i) (ownedBy tid)) s.owners
      reply := ⟨0, []⟩ } := by
  change execPoolAdd tid pool pa big s = _
  unfold execPoolAdd
  rw [if_neg (by simp [hc]), if_neg (by simp [hbad]), if_neg (by simp [hup, hout])]
  exact mailCmd_ok hp

omit hp in
/-- POOL_ADD takes an aligned HBM frame of this package into a pool of frames of its size. -/
theorem poolBad_eq_false {tid pool pa : Nat} {big : Bool} (hpool : pool < 32) (halign : pa % (if big then 2 ^ 21 else 65536) = 0)
    (hv : s.validPa pa = true) (hk : (locOf pa).kind = .hbm) (hg : paPkg pa = s.pkgNo)
    (hsize : ∀ p, s.pool? tid pool = some p → p.frames = [] ∨ p.big = big) : s.poolBad tid pool pa big = false := by
  have hmixed : (s.pool? tid pool).any (fun p => !p.frames.isEmpty && p.big ≠ big) = false := by
    rw [Option.any_eq_false]
    intro p hf
    rcases hsize p hf with h | h <;> simp [h]
  simp only [State.poolBad, hmixed, halign, hv, hk, hg]
  simp [hpool]

theorem leads_poolAdd {tid pool pa : Nat} {big : Bool} {c : Ctx} (hc : s.ctx? tid = some c)
    (hbad : s.poolBad tid pool pa big = false) (hup : s.configUp (paDie pa) = true) (hout : s.frameOut pa = false) :
    Leads (.poolAdd tid pool pa big) s (fun t => t.reply = ⟨0, []⟩ ∧
      t.pool? tid pool = some ⟨tid, pool, big, ((s.pool? tid pool).map Pool.frames).getD [] ++ [pa]⟩ ∧
      (∀ k, k < (if big then 2 ^ 21 else 65536) / 65536 → lookupD t.owners (pa / 65536 + k) 0 = ownedBy tid) ∧
      t = { s with pools := t.pools, owners := t.owners, reply := ⟨0, []⟩ }) :=
  ⟨_, exec_poolAdd hp hc hbad hup hout, rfl, List.find?_cons_of_pos (by simp), fun _ hk => lookupD_foldl_insertKV _ _ _ _ hk, rfl⟩

/-! ### Invalidations and race pools (R186, R201) -/

theorem leads_s2inv {vmid base count : Nat} (hu : s.uncoreStopped = false) :
    Leads (.s2inv vmid base count) s (fun t => t.reply = ⟨0, []⟩ ∧
      (∃ v ∈ t.invals, v.id = s.nextId ∧ v.vmid = vmid ∧ v.stage2 = true ∧ v.base = base ∧ v.size = 65536 * count) ∧
      (∀ e ∈ t.tlb, e.vmid ≠ vmid) ∧ (∀ e ∈ t.tlb, e ∈ s.tlb)) := by
  refine ⟨_, (if_neg (by simp [hu])).trans (mailCmd_ok hp), rfl, ⟨_, List.mem_cons_self, rfl, rfl, rfl, rfl, rfl⟩,
    fun e he => ?_, fun e he => List.mem_of_mem_filter he⟩
  simpa [TlbEntry.hit] using (List.mem_filter.mp he).2

theorem leads_racePool {die base size : Nat} (hup : s.configUp die = true) : Leads (.racePool die base size) s (fun t =>
    t.racePools.find? (fun p => p.1 = die) = some (die, base, size) ∧ t = { s with racePools := t.racePools, reply := ⟨0, []⟩ }) :=
  ⟨_, (if_neg (by simp [hup])).trans (mailCmd_ok hp), List.find?_cons_of_pos (by simp), rfl⟩

end

/-! ### Retired sites (R223) -/

section
variable (s : State) (x y : Nat)

theorem retire_only : s.retire x y = { s with retired := (s.retire x y).retired, runOn := (s.retire x y).runOn } := by
  unfold State.retire
  split <;> rfl

theorem mem_retired_retire (c : Nat × Nat) : c ∈ (s.retire x y).retired ↔ c ∈ s.retired ∨ c = (x, y) := by
  unfold State.retire
  split
  case isTrue h => exact ⟨.inl, fun hc => hc.elim id (fun e => e ▸ List.contains_iff_mem.mp h)⟩
  case isFalse => simp

theorem mem_runOn_retire {r : Nat × Nat × Nat} (h : r ∈ s.runOn) : r ∈ (s.retire x y).runOn := by
  unfold State.retire
  split
  · exact h
  · exact List.mem_append_left _ h

/-- A lease that may not move runs on where its site is retired. -/
theorem runsOn_retire {L : Lease} (hnew : (x, y) ∉ s.retired) (hL : L ∈ s.leases) (hs : L.stands x y = true)
    (hm : s.movable L = false) : (x, y, L.id) ∈ (s.retire x y).runOn := by
  unfold State.retire
  rw [if_neg (by simpa using hnew)]
  exact List.mem_append_right _ (List.mem_map_of_mem (List.mem_filter.mpr ⟨hL, by simp [hs, hm]⟩))

theorem leases_retire : (s.retire x y).leases = s.leases := by rw [retire_only]

theorem movable_retire (L : Lease) : (s.retire x y).movable L = s.movable L := by
  rw [retire_only]
  rfl

end

/-- The package once the sites of a list are retired, one after the other. -/
def retireAll (l : List (Nat × Nat)) (s : State) : State := l.foldl (fun (s : State) c => s.retire c.1 c.2) s

theorem retireAll_cons (c : Nat × Nat) (l : List (Nat × Nat)) (s : State) : retireAll (c :: l) s = retireAll l (s.retire c.1 c.2) := rfl

theorem exec_siteRetire {s : State} (l : List (Nat × Nat)) (hp : s.power = .run) :
    exec (.siteRetire l) s = .next ((retireAll l s).replyStatus 0) := mailCmd_ok hp

theorem retireAll_only (l : List (Nat × Nat)) (s : State) :
    retireAll l s = { s with retired := (retireAll l s).retired, runOn := (retireAll l s).runOn } := by
  induction l generalizing s with
  | nil => rfl
  | cons c l ih => rw [retireAll_cons, ih, retire_only]

theorem mem_retired_retireAll (l : List (Nat × Nat)) (s : State) (x : Nat × Nat) :
    x ∈ (retireAll l s).retired ↔ x ∈ s.retired ∨ x ∈ l := by
  induction l generalizing s with
  | nil => simp [retireAll]
  | cons c l ih => rw [retireAll_cons, ih, mem_retired_retire, List.mem_cons, or_assoc]

theorem mem_runOn_retireAll (l : List (Nat × Nat)) {s : State} {r : Nat × Nat × Nat} (h : r ∈ s.runOn) :
    r ∈ (retireAll l s).runOn := by
  induction l generalizing s with
  | nil => exact h
  | cons c l ih => exact ih (mem_runOn_retire s c.1 c.2 h)

theorem runsOn_retireAll {l : List (Nat × Nat)} {s : State} {x y : Nat} {L : Lease} (hmem : (x, y) ∈ l) (hnew : (x, y) ∉ s.retired)
    (hL : L ∈ s.leases) (hs : L.stands x y = true) (hm : s.movable L = false) : (x, y, L.id) ∈ (retireAll l s).runOn := by
  induction l generalizing s with
  | nil => cases hmem
  | cons c l ih =>
    rw [retireAll_cons]
    by_cases hc : (x, y) = c
    · subst hc
      exact mem_runOn_retireAll l (runsOn_retire s x y hnew hL hs hm)
    · refine ih ((List.mem_cons.mp hmem).resolve_left hc) ?_ ?_ ?_
      · rw [mem_retired_retire]
        exact fun h => h.elim hnew hc
      · rwa [leases_retire]
      · rwa [movable_retire]

/-- A retired site is RETIRED once no lease that was left to run on it stands there. -/
theorem retiredNow_of_gone {s : State} {x y : Nat} (hr : (x, y) ∈ s.retired)
    (hgone : ∀ L ∈ s.leases, L.stands x y = true → (x, y, L.id) ∉ s.runOn) : s.retiredNow (x, y) = true := by
  simp only [State.retiredNow, Bool.and_eq_true, List.contains_iff_mem, Bool.not_eq_true', List.any_eq_false]
  exact ⟨hr, fun L hL h => hgone L hL h.1 h.2⟩

theorem leads_siteList {s : State} (hp : s.power = .run) : Leads .siteList s (fun t => t.reply.status = 0 ∧
    t.reply.values.length = (s.retired.filter s.retiredNow).length ∧ (∀ x y, (x, y) ∈ s.retired →
      (∀ L ∈ s.leases, L.stands x y = true → (x, y, L.id) ∉ s.runOn) → BitVec.ofNat 1280 (x + 256 * y) ∈ t.reply.values) ∧
    t = { s with reply := t.reply }) := by
  refine ⟨_, if_neg (not_not_intro hp), rfl, List.length_map _, fun x y hr hgone => ?_, rfl⟩
  rw [Nat.mul_comm]
  exact List.mem_map_of_mem (f := fun x : Nat × Nat => BitVec.ofNat 1280 (x.1 + x.2 * 2 ^ 8))
    (List.mem_filter.mpr ⟨hr, retiredNow_of_gone hr hgone⟩)

/-! ### Counts and routes (R44, R223) -/

theorem leads_errCounts {s : State} (hp : s.power = .run) : Leads .errCounts s (fun t => t.reply.status = 0 ∧
    t.reply.values.length = s.errCounts.length ∧ t = { s with reply := t.reply }) :=
  ⟨_, if_neg (not_not_intro hp), rfl, List.length_map _, rfl⟩

theorem leads_routeTableWrite {s : State} {dst : Nat} (mask : BitVec 16) (hp : s.power = .run) (hd : dst < 64) :
    Leads (.routeTableWrite dst mask) s (fun t => t.routes[dst]? = some mask ∧ ∀ k, k ≠ dst → t.routes[k]? = s.routes[k]?) :=
  ⟨_, if_neg (not_not_intro hp), Vector.getElem?_setIfInBounds_self_of_lt hd,
    fun _ hk => Vector.getElem?_setIfInBounds_ne hk.symm⟩

/-! ### The statement -/

/-- Settles O46: each command that is not refused sets its one structure and answers with status 0. -/
theorem budgetsPoolsSitesAndRoutesAreSet : Obligations.BudgetsPoolsSitesAndRoutesAreSet := by
  unfold Obligations.BudgetsPoolsSitesAndRoutesAreSet
  refine ⟨?budget, ?pool, ?migrate, ?invalidate, ?race, ?thresh, ?retire, ?list, ?counts, ?routes⟩
  case budget => exact fun s die b hp h1 h2 hd => leads_bwBudget hp h1 h2 hd
  case pool =>
    intro s tid pool pa big c hp hc hpool hup hout halign hv hk hg hsize
    exact leads_poolAdd hp hc (poolBad_eq_false hpool halign hv hk hg hsize) hup hout
  case migrate =>
    intro s t tid va die c hp hu hc hm
    change execPgMigr tid va die s = _
    simp only [execPgMigr, hu, hc, hm, Bool.false_eq_true, if_false]
    exact mailCmd_ok hp
  case invalidate => exact fun s vmid base count hp hu => leads_s2inv hp hu
  case race => exact fun s die base size hp hup => leads_racePool hp hup
  case thresh => exact fun s v hp h1 h2 => (if_neg (by simp; omega)).trans (mailCmd_ok hp)
  case retire =>
    intro s l hp
    refine ⟨_, exec_siteRetire l hp, mem_retired_retireAll l s, fun _ => mem_runOn_retireAll l,
      fun _ _ _ => runsOn_retireAll, ?_⟩
    rw [retireAll_only]
    rfl
  case list => exact fun s hp => leads_siteList hp
  case counts => exact fun s hp => leads_errCounts hp
  case routes => exact fun s dst mask hp hd => leads_routeTableWrite mask hp hd

end Sys2Proof.Proofs.Budgets
end

section
/-! Flits and span ports (R40 to R45): what an acknowledgement flit says, what each operation does to one port, and the events that change
one port and nothing else. -/

namespace Sys2Proof.Proofs.Spans

open Sys2Proof Sys2Proof.Machine Sys2Proof.Claims

/-! ### Fields of a number and its bytes (R4) -/

/-- What a number adds above a field is not seen in it. -/
theorem bitsOf_add_mul_two_pow (x c : Nat) {lo len n : Nat} (h : lo + len ≤ n) : bitsOf (x + c * 2 ^ n) lo len = bitsOf x lo len := by
  obtain ⟨m, rfl⟩ := Nat.exists_eq_add_of_le h
  have hn : c * 2 ^ (lo + len + m) = 2 ^ lo * (c * 2 ^ m * 2 ^ len) := by ring
  simp only [bitsOf, Nat.shiftRight_eq_div_pow]
  rw [hn, Nat.add_mul_div_left _ _ (Nat.two_pow_pos lo), Nat.add_mul_mod_self_right]

/-- What a number adds above its own bits is read back there. -/
theorem bitsOf_above {x n : Nat} (c len : Nat) (hx : x < 2 ^ n) : bitsOf (x + c * 2 ^ n) n len = c % 2 ^ len := by
  rw [bitsOf, Nat.shiftRight_eq_div_pow, Nat.add_mul_div_right _ _ (Nat.two_pow_pos n), Nat.div_eq_of_lt hx, Nat.zero_add]

theorem testBit_eq_bitsOf (x i : Nat) : x.testBit i = decide (bitsOf x i 1 = 1) := by
  rw [Nat.testBit_eq_decide_div_mod_eq, bitsOf, Nat.shiftRight_eq_div_pow]
  rfl

theorem lt_two_pow_of_lt {x m n : Nat} (hx : x < 2 ^ m) (h : m ≤ n) : x < 2 ^ n := hx.trans_le (Nat.pow_le_pow_right (by decide) h)

theorem toNat_ofNat_of_lt_two_pow {w n x : Nat} (hx : x < 2 ^ n) (hw : n ≤ w) : (BitVec.ofNat w x).toNat = x := by
  rw [BitVec.toNat_ofNat, Nat.mod_eq_of_lt (lt_two_pow_of_lt hx hw)]

/-- A field set above all the bits of a number is added to it. -/
theorem toNat_setField_above {w lo len x : Nat} (v : Nat) (hx : x < 2 ^ lo) (hw : lo + len ≤ w) :
    (setField (BitVec.ofNat w x) lo len v).toNat = x + v % 2 ^ len * 2 ^ lo := by
  have hclear : bitsOf x lo len = 0 := by
    rw [bitsOf, Nat.shiftRight_eq_div_pow, Nat.div_eq_of_lt hx, Nat.zero_mod]
  have hsum : x + v % 2 ^ len * 2 ^ lo < 2 ^ w :=
    calc x + v % 2 ^ len * 2 ^ lo
      _ < (v % 2 ^ len + 1) * 2 ^ lo := by rw [Nat.succ_mul]; omega
      _ ≤ 2 ^ len * 2 ^ lo := Nat.mul_le_mul_right _ (Nat.mod_lt _ (Nat.two_pow_pos len))
      _ = 2 ^ (lo + len) := by rw [Nat.mul_comm, Nat.pow_add]
      _ ≤ 2 ^ w := Nat.pow_le_pow_right (by decide) hw
  rw [setField, toNat_ofNat_of_lt_two_pow hx (by omega), hclear, Nat.zero_mul, Nat.sub_zero, BitVec.toNat_ofNat,
    Nat.mod_eq_of_lt hsum]

/-- The low bytes of a number do not see what it adds above them. -/
theorem toBytes_add_mul {n k : Nat} (x c : Nat) (hk : k = 8 * n) : toBytes n (x + c * 2 ^ k) = toBytes n x := by
  subst hk
  induction n generalizing x with
  | zero => rfl
  | succ n ih =>
    have hlow : c * 2 ^ (8 * (n + 1)) = 256 * (c * 2 ^ (8 * n)) := by ring
    simp only [toBytes]
    rw [hlow, Nat.add_mul_div_left _ _ (by decide), ih]
    congr 1
    exact BitVec.eq_of_toNat_eq (by simp)

/-! ### A flit with its CRC (R40) -/

section
variable {v : Nat} (hv : v < 2 ^ 2016)
include hv

/-- A sealed flit as a number: what it was made of, and the CRC above it. -/
theorem toNat_sealFlit : ∃ c, c < 2 ^ 32 ∧ (sealFlit (BitVec.ofNat 2048 v)).toNat = v + c * 2 ^ 2016 ∧
    c = (crc32 (toBytes 252 v)).toNat := by
  refine ⟨_, (crc32 (toBytes 252 v)).isLt, ?_, rfl⟩
  rw [sealFlit, toNat_ofNat_of_lt_two_pow hv (by decide), toNat_setField_above _ hv (by decide),
    Nat.mod_eq_of_lt (crc32 (toBytes 252 v)).isLt]

theorem flitOk_sealFlit : flitOk (sealFlit (BitVec.ofNat 2048 v)) = true := by
  obtain ⟨c, hc, hf, hcrc⟩ := toNat_sealFlit hv
  have hbytes : toBytes 252 (v + c * 2 ^ 2016) = toBytes 252 v := toBytes_add_mul v c rfl
  rw [flitOk, hf, hbytes, bitsOf_above c 32 hv, Nat.mod_eq_of_lt hc, hcrc]
  exact decide_eq_true rfl

/-- A field below the CRC is the one that the flit was made of. -/
theorem bitsOf_sealFlit {lo len : Nat} (h : lo + len ≤ 2016) :
    bitsOf (sealFlit (BitVec.ofNat 2048 v)).toNat lo len = bitsOf v lo len := by
  obtain ⟨c, -, hf, -⟩ := toNat_sealFlit hv
  rw [hf, bitsOf_add_mul_two_pow v c h]

end

/-! ### The fields of a flit as fields of its number (R40) -/

section
variable (f : BitVec 2048)

theorem toNat_flitSeq : (flitSeq f).toNat = bitsOf f.toNat 0 8 := BitVec.toNat_setWidth _ _

theorem toNat_flitAckseq : (flitAckseq f).toNat = bitsOf f.toNat 8 8 := BitVec.extractLsb'_toNat _ _ _

end

/-- What an acknowledgement flit is made of, field by field. -/
theorem ackFlit_fields {me : Nat} {seq ack : BitVec 8} {nak : Bool} {c : Nat × Nat × Nat} {f : BitVec 2048}
    (hf : f = ackFlit me seq ack nak c) :
    flitOk f = true ∧ bitsOf f.toNat 0 8 = seq.toNat ∧ bitsOf f.toNat 8 8 = ack.toNat ∧ bitsOf f.toNat 16 1 = 1 ∧
      bitsOf f.toNat 17 1 = b2n nak ∧ bitsOf f.toNat 18 2 = 1 ∧ bitsOf f.toNat 20 6 = me % 64 ∧
      bitsOf f.toNat 47 4 = c.2.2 % 16 ∧ bitsOf f.toNat 51 4 = c.2.1 % 16 ∧ bitsOf f.toNat 55 4 = c.1 % 16 := by
  obtain ⟨v, hdef⟩ : ∃ v, v = seq.toNat + ack.toNat * 2 ^ 8 + 2 ^ 16 + b2n nak * 2 ^ 17 + 2 ^ 18 + me % 64 * 2 ^ 20
    + c.2.2 % 16 * 2 ^ 47 + c.2.1 % 16 * 2 ^ 51 + c.1 % 16 * 2 ^ 55 := ⟨_, rfl⟩
  have hseal : f = sealFlit (BitVec.ofNat 2048 v) := by rw [hf, ackFlit, hdef]
  have hseq := seq.isLt
  have hack := ack.isLt
  have hnak : b2n nak ≤ 1 := by cases nak <;> decide
  have hv : v < 2 ^ 2016 := lt_two_pow_of_lt (m := 59) (by omega) (by decide)
  rw [hseal]
  refine ⟨flitOk_sealFlit hv, ?_, ?_, ?_, ?_, ?_, ?_, ?_, ?_, ?_⟩
  all_goals
    rw [bitsOf_sealFlit hv (by decide), bitsOf, Nat.shiftRight_eq_div_pow]
    omega

/-- An acknowledgement flit says what it was made of (R40, R42, assumption 23). -/
theorem ackFlit_says {me : Nat} {seq ack : BitVec 8} {nak : Bool} {c : Nat × Nat × Nat} {f : BitVec 2048}
    (hf : f = ackFlit me seq ack nak c) (h0 : c.1 ≤ 15) (h1 : c.2.1 ≤ 15) (h2 : c.2.2 ≤ 15) :
    flitOk f = true ∧ flitKind f = 1 ∧ flitSeq f = seq ∧ flitAckseq f = ack ∧ flitAckv f = true ∧ flitNak f = nak ∧
      flitSrc f = me % 64 ∧ flitCredits f = c := by
  obtain ⟨hok, hseq, hack, hackv, hnak, hkind, hsrc, hdata, hrep, hreq⟩ := ackFlit_fields hf
  refine ⟨hok, hkind, BitVec.eq_of_toNat_eq ?_, BitVec.eq_of_toNat_eq ?_, ?_, ?_, hsrc, ?_⟩
  · rw [toNat_flitSeq, hseq]
  · rw [toNat_flitAckseq, hack]
  · rw [flitAckv, testBit_eq_bitsOf, hackv]
    rfl
  · rw [flitNak, testBit_eq_bitsOf, hnak]
    cases nak <;> rfl
  · rw [flitCredits, hdata, hrep, hreq, Nat.mod_eq_of_lt (by omega), Nat.mod_eq_of_lt (by omega), Nat.mod_eq_of_lt (by omega)]

/-! ### Sending and acknowledging (R42) -/

section
variable {p : SpanPort}

theorem send_full (line : Nat) (f : BitVec 2048) (hp : p.pend = []) (hh : 255 ≤ p.held.length) :
    p.send line f = { p with pend := [f], lines := p.lines ++ [line] } := by
  have hfull : ¬p.held.length < spanHeld := Nat.not_lt.mpr hh
  simp [SpanPort.send, hp, hfull]

theorem send_room (line : Nat) (f : BitVec 2048) (hp : p.pend = []) (hh : p.held.length < 255) :
    p.send line f = SpanPort.push { p with lines := p.lines ++ [line] } f := by
  have hroom : p.held.length < spanHeld := hh
  simp [SpanPort.send, hp, hroom]

end

theorem held_prefix_foldl_push (l : List (BitVec 2048)) (p : SpanPort) : p.held <+: (l.foldl SpanPort.push p).held := by
  induction l generalizing p with
  | nil => exact List.prefix_rfl
  | cons f l ih => exact (List.prefix_append _ _).trans (ih (p.push f))

theorem held_prefix_drain (p : SpanPort) : p.held <+: p.drain.held := by
  unfold SpanPort.drain
  exact held_prefix_foldl_push (p.pend.take (spanHeld - p.held.length)) { p with pend := p.pend.drop (spanHeld - p.held.length) }

theorem held_drain_of_no_pend {p : SpanPort} (h : p.pend = []) : p.drain.held = p.held := by
  simp [SpanPort.drain, h]

/-- A port that holds what an acknowledgement leaves, before flits that waited for room follow. -/
def released (a : BitVec 8) (p : SpanPort) : SpanPort :=
  { p with held := afterAck a p.held, lines := p.lines.drop (p.held.length - (afterAck a p.held).length) }

theorem held_nak (p : SpanPort) (now : Nat) (a : BitVec 8) : (p.nak now a).held = (released a p).drain.held := rfl

/-- After a NAK the flits held are sent again, ahead of new ones. -/
theorem held_prefix_sending_nak (p : SpanPort) (now : Nat) (a : BitVec 8) : (p.nak now a).held <+: (p.nak now a).sending :=
  List.prefix_append _ _

/-! ### Receiving (R40 to R42) -/

/-- A port that has accepted a flit of KIND 0 as the next: it has taken the credits, acknowledged the flit, and returned the credit that it
owes for it. -/
def accepted (me : Nat) (f : BitVec 2048) (p : SpanPort) : SpanPort :=
  let o := (p.credit f).owes f
  let q := { o with lastAcc := flitSeq f, naked := false, sending := o.sending ++ [o.ackNow me (flitSeq f) false] }.repaid
  { q with received := q.received ++ [f] }

theorem take_next {p : SpanPort} {f : BitVec 2048} (me now : Nat) (hok : flitOk f = true) (hk : flitKind f = 0)
    (hn : flitNak f = false) (ha : flitAckv f = false) (hs : flitSeq f = p.lastAcc + 1) :
    p.take me now true f = accepted me f p := by
  have hnext : flitSeq f - ((p.credit f).lastAcc + 1) = 0 := by
    rw [hs]
    exact BitVec.sub_self _
  calc p.take me now true f
    _ = (p.credit f).sequence me f := by simp [SpanPort.take, hok, hk, hn, ha]
    _ = accepted me f p := by
      unfold SpanPort.sequence
      simp only [hnext, hk, if_true, OfNat.zero_ne_ofNat, if_false]
      rfl

theorem take_bad {p : SpanPort} (f : BitVec 2048) (me now : Nat) (hn : p.naked = false) : p.take me now false f =
    SpanPort.repaid { p with naked := true, sending := p.sending ++ [p.ackNow me p.lastAcc true] } := by
  simp [SpanPort.take, SpanPort.reject, hn]

/-! ### Training and lanes (R43, R45) -/

/-- A port that has trained is UP, and sends what it holds first (R43). -/
def trained (p : SpanPort) : SpanPort :=
  { p with st := .up, fails := 0, naked := false, sending := p.held ++ p.sending.filter (fun f => !p.held.contains f) }

/-- One failed lane leaves a half of a port whole. -/
theorem one_lane_in_one_half {k : Nat} (hk : k < 8) : ((1#8 <<< k).toNat % 16 ≠ 0 && (1#8 <<< k).toNat / 16 ≠ 0) = false := by
  have hall : ∀ k : Fin 8, ((1#8 <<< k.val).toNat % 16 ≠ 0 && (1#8 <<< k.val).toNat / 16 ≠ 0) = false := by decide
  exact hall ⟨k, hk⟩

/-! ### An event that changes one port -/

theorem leads_mono {i : Instr} {s : State} {P Q : State → Prop} (h : Leads i s P) (himp : ∀ t, P t → Q t) : Leads i s Q := by
  obtain ⟨t, ht, hP⟩ := h
  exact ⟨t, ht, himp t hP⟩

section
variable {s : State} {n : Nat}

theorem span_modSpan (f : SpanPort → SpanPort) (hn : n < 16) : (s.modSpan n f).span n = f (s.span n) := by
  rw [State.span, State.modSpan, Vector.getElem?_setIfInBounds_self_of_lt hn]
  rfl

/-- An event that answers with one span port changed leads to that port and to nothing else. -/
theorem leads_modSpan {i : Instr} {f : SpanPort → SpanPort} (hi : exec i s = .next (s.modSpan n f)) (hn : n < 16) :
    Leads i s (fun t => t.span n = f (s.span n) ∧ t = { s with spans := t.spans }) :=
  ⟨_, hi, span_modSpan f hn, rfl⟩

variable (hp : s.power = .run)
include hp

theorem exec_spanFlitReceive (f : BitVec 2048) (e : Nat) (hu : (s.span n).st = .up) : exec (.spanFlitReceive n [f] e) s =
    .next (s.modSpan n (fun p => p.take s.pkgNo s.ticks (decide (e ≤ 15)) f)) :=
  if_neg (by simp [hp, hu])

theorem leads_spanFlitReceive_next {f : BitVec 2048} {e : Nat} (hn : n < 16) (hu : (s.span n).st = .up) (he : e ≤ 15)
    (hok : flitOk f = true) (hk : flitKind f = 0) (hnak : flitNak f = false) (hackv : flitAckv f = false)
    (hseq : flitSeq f = (s.span n).lastAcc + 1) : Leads (.spanFlitReceive n [f] e) s (fun t =>
      t.span n = accepted s.pkgNo f (s.span n) ∧ t = { s with spans := t.spans }) := by
  have h := leads_modSpan (exec_spanFlitReceive hp f e hu) hn
  rwa [decide_eq_true he, take_next s.pkgNo s.ticks hok hk hnak hackv hseq] at h

theorem leads_spanFlitReceive_bad (f : BitVec 2048) {e : Nat} (hn : n < 16) (hu : (s.span n).st = .up)
    (hnaked : (s.span n).naked = false) (he : 15 < e) : Leads (.spanFlitReceive n [f] e) s (fun t =>
      t.span n = SpanPort.repaid { s.span n with
        naked := true, sending := (s.span n).sending ++ [(s.span n).ackNow s.pkgNo (s.span n).lastAcc true] } ∧
      t = { s with spans := t.spans }) := by
  have h := leads_modSpan (exec_spanFlitReceive hp f e hu) hn
  rwa [decide_eq_false (Nat.not_le.mpr he), take_bad f s.pkgNo s.ticks hnaked] at h

theorem leads_spanNak (a : BitVec 8) (hn : n < 16) (hu : (s.span n).st = .up) : Leads (.spanNak n a) s (fun t =>
    t.span n = (s.span n).nak s.ticks a ∧ t = { s with spans := t.spans }) :=
  leads_modSpan (f := fun p => p.nak s.ticks a) (if_neg (by simp [hp, hu])) hn

theorem leads_spanPortRetrain {r : Nat} (half : Bool) (hn : n < 16) (hr : r ≤ 2) : Leads (.spanPortRetrain n r half) s (fun t =>
    t.span n = { (s.span n).train r half with laneFail := if half then (s.span n).laneFail else 0 } ∧
    t = { s with spans := t.spans }) :=
  leads_modSpan (f := fun p => { p.train r half with laneFail := if half then p.laneFail else 0 }) (if_neg (by simp [hp]; omega)) hn

theorem leads_spanPortTrained (hn : s.focus.port < 16) (ht : (s.span s.focus.port).st = .training) :
    Leads .spanPortTrained s (fun t =>
      t.span s.focus.port = trained (s.span s.focus.port) ∧ t = { s with spans := t.spans }) :=
  leads_modSpan (if_neg (by simp [hp, ht])) hn

theorem leads_spanTrainingFail (hn : s.focus.port < 16) (ht : (s.span s.focus.port).st = .training)
    (hf : (s.span s.focus.port).fails < 2) : Leads .spanTrainingFail s (fun t =>
      t.span s.focus.port = { s.span s.focus.port with fails := (s.span s.focus.port).fails + 1 } ∧
      t = { s with spans := t.spans }) :=
  leads_modSpan (f := fun p => { p with fails := p.fails + 1 })
    ((if_neg (by simp [hp, ht])).trans (if_neg (Nat.not_le.mpr hf))) hn

theorem exec_spanTrainingFail_third (ht : (s.span s.focus.port).st = .training) (hf : 2 ≤ (s.span s.focus.port).fails) :
    exec .spanTrainingFail s = .next (s.spanDown s.focus.port) :=
  (if_neg (by simp [hp, ht])).trans (if_pos hf)

theorem leads_spanReplayLimit (hn : s.focus.port < 16) (hu : (s.span s.focus.port).st = .up) (hr : (s.span s.focus.port).rate < 2)
    (hw : 64 < ((s.span s.focus.port).window.filter (fun t => t + 1000000 > s.ticks)).length) :
    Leads .spanReplayLimit s (fun t =>
      t.span s.focus.port = (s.span s.focus.port).train ((s.span s.focus.port).rate + 1) (s.span s.focus.port).half ∧
      t = { s with spans := t.spans }) :=
  leads_modSpan (f := fun p => p.train (p.rate + 1) p.half)
    ((if_neg (by simpa [replayWindow, hp, hu] using hw)).trans (if_neg (Nat.not_le.mpr hr))) hn

theorem leads_spanLaneFailure (hn : s.focus.port < 16) (hu : (s.span s.focus.port).st = .up)
    (hl : (s.span s.focus.port).laneFail = 0) (hk : s.focus.ch < 8) : Leads .spanLaneFailure s (fun t =>
      t.span s.focus.port = { s.span s.focus.port with laneFail := 1#8 <<< s.focus.ch, half := true } ∧
      t = { s with spans := t.spans }) := by
  have hbad : (s.span s.focus.port).laneFail ||| (1#8 <<< s.focus.ch) = 1#8 <<< s.focus.ch := by
    rw [hl]
    exact BitVec.zero_or
  refine leads_modSpan (f := fun p => { p with laneFail := 1#8 <<< s.focus.ch, half := true }) ?_ hn
  change execSpanLaneFailure s = _
  unfold execSpanLaneFailure
  rw [if_neg (by simp [hp, hu, hk])]
  simp only [hbad]
  exact if_neg (ne_true_of_eq_false (one_lane_in_one_half hk))

end

end Sys2Proof.Proofs.Spans
end

section
/-! Die links, the counters and arrays that a die watches, die resets, and Bilsis's writes (R34, R35, R37, R38, R67, R68, R175, R223, R237,
R238, R387): what each operation does to a link or to what it keeps, then the statement on links, spans and resets. -/

namespace Sys2Proof.Proofs.Links

open Sys2Proof Sys2Proof.Machine Sys2Proof.Claims Sys2Proof.Proofs.Budgets Sys2Proof.Proofs.Spans

/-! ### One link (R35, R38) -/

section
variable {s : State} {k : Nat}

theorem link_modLink (f : Link → Link) (hk : k < 8) : (s.modLink k f).link k = f (s.link k) := by
  rw [State.link, State.modLink, Vector.getElem?_setIfInBounds_self_of_lt hk]
  rfl

theorem link_modLink_other (f : Link → Link) {j : Nat} (hj : j ≠ k) : (s.modLink k f).link j = s.link j := by
  rw [State.link, State.modLink, Vector.getElem?_setIfInBounds_ne hj.symm]
  rfl

/-- An event that answers with one link changed leads to that link and to nothing else. -/
theorem leads_modLink {i : Instr} {f : Link → Link} (hi : exec i s = .next (s.modLink k f)) (hk : k < 8) :
    Leads i s (fun t => t.link k = f (s.link k) ∧ t = { s with links := t.links }) :=
  ⟨_, hi, link_modLink f hk, rfl⟩

/-- A seam enters a state by itself. -/
theorem advanceLink_seam (st : LinkState) (hk : k < 4) : s.advanceLink k st = s.modLink k (fun l => l.enter st) :=
  if_neg (Nat.not_le.mpr hk)

end

/-- The routes that are switched with the links change no link (R33). -/
theorem links_reroute (s : State) : s.reroute.links = s.links := by
  unfold State.reroute
  refine List.foldlRecOn _ _ (motive := fun t : State => t.links = s.links) rfl (fun t ht x _ => ?_)
  simp only
  split
  · exact ht
  · exact ht

theorem link_reroute (s : State) (k : Nat) : s.reroute.link k = s.link k := by
  rw [State.link, links_reroute]
  rfl

theorem link_runAgain (s : State) (k : Nat) : s.runAgain.link k = s.link k := link_reroute _ k

/-! ### Modules and reservations (R34) -/

/-- A seam under some reservations: RUNNING only while they are within half its capacity. -/
def tightened (use : Nat) (l : Link) : Link :=
  if l.st = .running && use * 24 * 2 > l.mods * 256 then { l with st := .quiescing, alone := true } else l

/-- A seam is tightened where its reservations ask for it. -/
def tightenSeam (s : State) (k : Nat) : State :=
  if (s.link k).st = .running && s.seamUse k * 24 * 2 > (s.link k).mods * 256 then
    s.modLink k (fun l => { l with st := .quiescing, alone := true })
  else s

theorem tightenSeams_eq (s : State) : s.tightenSeams = (List.range 4).foldl tightenSeam s := rfl

theorem mods_tightened (use : Nat) (l : Link) : (tightened use l).mods = l.mods := by
  unfold tightened
  split <;> rfl

theorem st_tightened {use : Nat} {l : Link} (h : l.st = .running) :
    (tightened use l).st = if use * 48 > l.mods * 256 then .quiescing else .running := by
  have hd : use * 24 * 2 = use * 48 := by omega
  unfold tightened
  rw [hd, h]
  split
  case isTrue hg => rw [if_pos (by simpa using hg)]
  case isFalse hg => rw [if_neg (by simpa using hg), h]

theorem tightenSeam_only (s : State) (k : Nat) : tightenSeam s k = { s with links := (tightenSeam s k).links } := by
  unfold tightenSeam
  split <;> rfl

theorem link_tightenSeam {s : State} {j : Nat} (hj : j < 8) (k : Nat) :
    (tightenSeam s j).link k = if k = j then tightened (s.seamUse k) (s.link k) else s.link k := by
  unfold tightenSeam
  by_cases hk : k = j
  · subst hk
    rw [if_pos rfl, tightened]
    split
    · exact link_modLink _ hj
    · rfl
  · rw [if_neg hk]
    split
    · exact link_modLink_other _ hk
    · rfl

theorem foldl_tightenSeam_only (n : Nat) (s : State) :
    (List.range n).foldl tightenSeam s = { s with links := ((List.range n).foldl tightenSeam s).links } := by
  refine List.foldlRecOn _ _ (motive := fun t : State => t = { s with links := t.links }) rfl (fun t ht k _ => ?_)
  rw [tightenSeam_only, ht]

/-- Seams are tightened one after the other, each under the reservations that all saw, since tightening moves none. -/
theorem link_foldl_tightenSeam (s : State) (k : Nat) {n : Nat} (hn : n ≤ 8) :
    ((List.range n).foldl tightenSeam s).link k = if k < n then tightened (s.seamUse k) (s.link k) else s.link k := by
  induction n with
  | zero => rfl
  | succ n ih =>
    have huse : ((List.range n).foldl tightenSeam s).seamUse k = s.seamUse k := by rw [foldl_tightenSeam_only]; rfl
    rw [List.range_succ, List.foldl_append, List.foldl_cons, List.foldl_nil, link_tightenSeam (by omega), huse, ih (by omega)]
    by_cases hk : k = n
    · simp [hk]
    · exact (if_neg hk).trans (if_congr (by omega) rfl rfl)

theorem tightenSeams_only (s : State) : s.tightenSeams = { s with links := s.tightenSeams.links } := foldl_tightenSeam_only 4 s

theorem link_tightenSeams (s : State) (k : Nat) :
    s.tightenSeams.link k = if k < 4 then tightened (s.seamUse k) (s.link k) else s.link k :=
  link_foldl_tightenSeam s k (by decide)

theorem leads_seamModuleLoss {s : State} {k n : Nat} (hk : k < 8) (ha : s.linkActive k = true) (h0 : 0 < n) (hn : n < (s.link k).mods) :
    Leads (.seamModuleLoss k n) s (fun t => (t.link k).mods = (s.link k).mods - n ∧ t = { s with links := t.links } ∧
      (k < 4 → (s.link k).st = .running → (t.link k).st =
        (if s.seamUse k * 48 > ((s.link k).mods - n) * 256 then LinkState.quiescing else LinkState.running))) := by
  have hlost : (s.modLink k (fun l => { l with mods := l.mods - n })).link k = { s.link k with mods := (s.link k).mods - n } :=
    link_modLink (fun l => { l with mods := l.mods - n }) hk
  refine ⟨_, if_neg (by simp [ha]; omega), ?_, ?_, fun h4 hr => ?_⟩
  · rw [link_tightenSeams, hlost]
    split
    · exact mods_tightened _ _
    · rfl
  · exact tightenSeams_only _
  · rw [link_tightenSeams, hlost, if_pos h4, st_tightened (l := { s.link k with mods := (s.link k).mods - n }) hr]
    rfl

/-! ### Failures, training and retraining (R34, R35, R37, R387) -/

/-- A link that Bilsis takes from DOWN to TRAINING: its failed attempts count on till the third. -/
def retraining (ok : Bool) (l : Link) : Link :=
  { (if ok then { l with mods := 16, limit := 64 } else l).enter .training with fails := if l.fails ≥ 3 then 0 else l.fails }

section
variable {s : State} {k : Nat}

theorem exec_linkFailure_seam (l : List (Nat × Nat)) (hk : k < 4) (h : s.linkLive k = true) :
    exec (.linkFailure k l) s = .next ((s.failLinks [k] l).modLink k (fun l => l.enter .down)).reroute :=
  (if_neg (by simp [h])).trans (if_neg (Nat.not_le.mpr hk))

theorem exec_linkFailure_die {d : Nat} (l : List (Nat × Nat)) (h : s.linkLive (4 + d) = true) :
    exec (.linkFailure (4 + d) l) s = .next (s.dieFails d l) := by
  change execLinkFailure (4 + d) l s = _
  unfold execLinkFailure
  rw [if_neg (by simp [h]), if_pos (Nat.le_add_right 4 d), Nat.add_sub_cancel_left]

/-- An attempt that fails before the third, and not in readmission, is counted. -/
theorem trainingFails_retry (hf : (s.link k).fails < 2) (ht : (s.link k).st = .training) :
    s.trainingFails k = s.modLink k (fun l => { l with fails := (s.link k).fails + 1 }) := by
  have hn : ¬3 ≤ (s.link k).fails + 1 := by omega
  simp [State.trainingFails, hn, ht]

/-- A seam whose third attempt fails, or whose readmission does, goes DOWN. -/
theorem trainingFails_down (hk : k < 4) (h : 2 ≤ (s.link k).fails ∨ (s.link k).st = .readmitting) : s.trainingFails k =
    (s.modLink k (fun l => { l with fails := (s.link k).fails + 1 })).modLink k (fun l => l.enter .down) := by
  have hdown : (3 ≤ (s.link k).fails + 1 || (s.link k).st = .readmitting) = true := by
    simp only [Bool.or_eq_true, decide_eq_true_eq]
    exact h.imp (by omega) id
  have hseam : ¬4 ≤ k := by omega
  simp only [State.trainingFails, ge_iff_le, hdown, if_true, hseam, decide_false, Bool.and_false, Bool.false_eq_true, if_false]
  exact advanceLink_seam .down hk

theorem link_trainingFails_down (hk : k < 4) (h : 2 ≤ (s.link k).fails ∨ (s.link k).st = .readmitting) :
    ((s.trainingFails k).link k).st = .down ∧ ((s.trainingFails k).link k).fails = (s.link k).fails + 1 := by
  rw [trainingFails_down hk h, link_modLink _ (by omega), link_modLink _ (by omega)]
  exact ⟨rfl, rfl⟩

theorem exec_linkTrainingResult_waits (ok : Bool) (h : s.trainsAlone k = false) : exec (.linkTrainingResult k ok) s = .next s :=
  if_pos (by simp [h])

section
variable (hp : s.power = .run) (hu : s.uncoreStopped = false)
include hp

theorem leads_seamReturnRunning (hk : s.focus.idx < 4) (hq : (s.link s.focus.idx).st = .quiescing)
    (ha : (s.link s.focus.idx).alone = true) (h0 : s.seamUse s.focus.idx = 0) : Leads .seamReturnRunning s (fun t =>
      t.link s.focus.idx = { s.link s.focus.idx with
        st := .running, alone := false, limit := seamCap (s.link s.focus.idx).mods } ∧ t = { s with links := t.links }) :=
  leads_modLink (f := fun l => { l with st := .running, alone := false, limit := seamCap l.mods })
    (if_neg (by simp [hk, hp, hq, ha, h0])) (by omega)

section
variable (hk : k < 4) (hx : s.dieUp (seamDies k).1 = true) (hy : s.dieUp (seamDies k).2 = true)
include hk hx hy

theorem leads_seamRetrain_running (hr : (s.link k).st = .running) : Leads (.seamRetrain k true) s (fun t =>
    t.link k = { s.link k with mods := 16, limit := 64 } ∧ t = { s with links := t.links }) :=
  leads_modLink (f := fun l => { l with mods := 16, limit := 64 })
    ((if_neg (by simp [hk, hp, hx, hy])).trans (if_pos hr)) (by omega)

theorem leads_seamRetrain_down (ok : Bool) (hd : (s.link k).st = .down) : Leads (.seamRetrain k ok) s (fun t =>
    t.link k = retraining ok (s.link k) ∧ t = { s with links := t.links }) :=
  leads_modLink ((if_neg (by simp [hk, hp, hx, hy])).trans ((if_neg (by simp [hd])).trans (if_pos hd))) (by omega)

end

include hu

theorem exec_linkTrainingResult_training (ok : Bool) (hs : s.trainsAlone k = true) (ht : (s.link k).st = .training) :
    exec (.linkTrainingResult k ok) s = .next (if ok then s.advanceLink k .readmitting else s.trainingFails k) := by
  change execLinkTrainingResult k ok s = _
  simp only [execLinkTrainingResult, hp, hu, hs, ht]
  cases ok <;> rfl

theorem exec_linkTrainingResult_readmitting (ok : Bool) (hk : k < 4) (hs : s.trainsAlone k = true) (ht : (s.link k).st = .readmitting) :
    exec (.linkTrainingResult k ok) s = .next (if ok then
      ((s.modLink k (fun l => l.enter .running)).modLink k (fun l => { l with fails := 0 })).runAgain else s.trainingFails k) := by
  have hseam : ¬4 ≤ k := by omega
  change execLinkTrainingResult k ok s = _
  simp only [execLinkTrainingResult, hp, hu, hs, ht, ge_iff_le, hseam, if_false, advanceLink_seam _ hk]
  cases ok <;> rfl

variable (hk : k < 4) (hs : s.trainsAlone k = true)
include hk hs

/-- A seam that trains: an attempt that succeeds takes it to READMITTING, and the third that fails takes it DOWN (R35). -/
theorem seam_trains (ht : (s.link k).st = .training) :
    Leads (.linkTrainingResult k true) s (fun t => (t.link k).st = .readmitting ∧ t = { s with links := t.links }) ∧
    ((s.link k).fails < 2 → Leads (.linkTrainingResult k false) s (fun t => (t.link k).st = .training ∧
      (t.link k).fails = (s.link k).fails + 1)) ∧
    ((s.link k).fails = 2 → Leads (.linkTrainingResult k false) s (fun t => (t.link k).st = .down)) := by
  have hexec (ok : Bool) := exec_linkTrainingResult_training hp hu ok hs ht
  have hk8 : k < 8 := by omega
  refine ⟨?_, fun hf => ?_, fun hf => ⟨_, hexec false, (link_trainingFails_down hk (.inl hf.ge)).1⟩⟩
  · have hok := (hexec true).trans (congrArg _ (advanceLink_seam .readmitting hk))
    exact leads_mono (leads_modLink hok hk8) (fun t ht => ⟨by rw [ht.1]; rfl, ht.2⟩)
  · have hbad := (hexec false).trans (congrArg _ (trainingFails_retry hf ht))
    exact leads_mono (leads_modLink hbad hk8) (fun t h => ⟨by rw [h.1]; exact ht, by rw [h.1]⟩)

/-- A seam that is readmitted runs, or goes DOWN with one more failed attempt (R35). -/
theorem seam_readmits (ht : (s.link k).st = .readmitting) :
    Leads (.linkTrainingResult k true) s (fun t => (t.link k).st = .running ∧ (t.link k).fails = 0) ∧
    Leads (.linkTrainingResult k false) s (fun t => (t.link k).st = .down ∧ (t.link k).fails = (s.link k).fails + 1) := by
  have hexec (ok : Bool) := exec_linkTrainingResult_readmitting hp hu ok hk hs ht
  refine ⟨⟨_, hexec true, ?_⟩, ⟨_, hexec false, link_trainingFails_down hk (.inr ht)⟩⟩
  have hk8 : k < 8 := by omega
  simp [link_runAgain, link_modLink _ hk8, Link.enter]

end
end

/-! ### Counters and flagged arrays (R223, R238) -/

section
variable {s : State} (hp : s.power = .run) (hu : s.uncoreStopped = false)
include hp hu

theorem leads_checkCounterHalving (h : 1073741824 * (s.halvings + 1) ≤ s.fabric) :
    Leads .checkCounterHalving s (fun t => t.halvings = s.halvings + 1 ∧
      (∀ x y n, (x, y, n) ∈ s.siteChecks → 2 ≤ n → (x, y, n / 2) ∈ t.siteChecks) ∧
      t = { s with halvings := s.halvings + 1, siteChecks := t.siteChecks }) := by
  refine ⟨_, if_neg (by simp [hp, hu]; omega), rfl, fun x y n hm hn => ?_, rfl⟩
  refine List.mem_filter.mpr ⟨List.mem_map_of_mem (f := fun c : Nat × Nat × Nat => (c.1, c.2.1, c.2.2 / 2)) hm, ?_⟩
  exact decide_eq_true (Nat.div_pos hn (by decide)).ne'

variable {d : Nat} (hm : s.measuring.find? (fun m => m.1 = d) = none)
include hm

/-- A domain that is not being measured: a rate above its threshold takes the array out of use where no undervolt offset is left, else
withdraws the offset (R238). -/
theorem exec_reliabilityMonitor (n : Nat) (w : FlagWhat) : exec (.reliabilityMonitor d n w) s = .next (
    if n ≤ Config.rateLimit w.kind then s.keepRate w n
    else if d ∈ s.withheld then (s.keepRate w n).takeOut w
    else { s.keepRate w n with withheld := d :: s.withheld, measuring := (d, s.ticks + 10 ^ 9) :: s.measuring }) := by
  have hm' : (s.keepRate w n).measuring.find? (fun m => m.1 = d) = none := hm
  change execReliabilityMonitor d n w s = _
  simp only [execReliabilityMonitor, hm', hp, hu]
  by_cases ha : n ≤ Config.rateLimit w.kind
  · simp [ha]
  · by_cases hw : d ∈ s.withheld
    · simp [ha, hw, State.keepRate]
    · simp [ha, hw, State.keepRate, State.ticks]

theorem leads_reliabilityMonitor_retires {n x y : Nat} (hw : d ∈ s.withheld) (ha : Config.rateLimit 0 < n) :
    Leads (.reliabilityMonitor d n (.site x y)) s (fun t => (x, y) ∈ t.retired ∧
      t.rates.find? (fun r => r.1 = .site x y) = some (.site x y, n) ∧
      t = { s with retired := t.retired, runOn := t.runOn, rates := t.rates }) := by
  have habove : ¬n ≤ Config.rateLimit (FlagWhat.site x y).kind := Nat.not_le.mpr ha
  refine ⟨(s.keepRate (.site x y) n).retire x y, ?_, ?_, ?_, ?_⟩
  · rw [exec_reliabilityMonitor hp hu hm, if_neg habove, if_pos hw]
    rfl
  · exact (mem_retired_retire _ x y _).mpr (.inr rfl)
  · rw [retire_only]
    exact List.find?_cons_of_pos (by simp)
  · rw [retire_only]
    rfl

theorem leads_reliabilityMonitor_withholds {n : Nat} {w : FlagWhat} (hw : d ∉ s.withheld) (ha : Config.rateLimit w.kind < n) :
    Leads (.reliabilityMonitor d n w) s (fun t => d ∈ t.withheld ∧
      t.measuring.find? (fun m => m.1 = d) = some (d, s.ticks + 1000000000) ∧
      t = { s with withheld := t.withheld, measuring := t.measuring, rates := t.rates }) := by
  refine ⟨_, exec_reliabilityMonitor hp hu hm n w, ?_⟩
  rw [if_neg (Nat.not_le.mpr ha), if_neg hw]
  exact ⟨List.mem_cons_self, List.find?_cons_of_pos (by simp), rfl⟩

end

/-! ### The reset of a die (R86, R98, R237) -/

section
variable {s : State}

/-- Without a move there is none to abandon. -/
theorem dropMoves_of_unmoved (h : ∀ L ∈ s.leases, L.move = none) : s.dropMoves = s := by
  unfold State.dropMoves
  refine List.foldlRecOn _ _ (motive := fun t => t = s) rfl (fun t ht L hL => ?_)
  simp only [h L hL]
  exact ht

/-- Where nothing moves, the link of a die and its seams are all that its state changes. -/
theorem setDie_of_unmoved (d : Nat) (st : LinkState) (h : ∀ L ∈ s.leases, L.move = none) :
    s.setDie d st = { s with links := (s.setDie d st).links } := by
  obtain ⟨u, hu, hset⟩ : ∃ u : State, u = { s with links := u.links } ∧ s.setDie d st = u.dropMoves :=
    ⟨_, List.foldlRecOn _ _ (motive := fun t : State => t = { s with links := t.links }) rfl
      (fun t ht k _ => by rw [State.modLink, ht]), rfl⟩
  have hleases : u.leases = s.leases := by rw [hu]
  rw [hset, dropMoves_of_unmoved (by rwa [hleases])]
  exact hu

theorem reset?_resetStep {d step : Nat} {r : Reset} (h : s.reset? d = some r) :
    ((s.resetStep d step).reset? d).map Reset.step = some step := by
  have hfound : (s.resetStep d step).reset? d = (s.reset? d).map (fun r => { r with step := step, since := s.fabric }) :=
    find?_updWhere _ _ (by simp) _
  rw [hfound, h]
  rfl

theorem exec_dieResetAdvance {r : Reset} (hr : s.reset? s.focus.die = some r) (hp : s.power = .run) (hu : s.uncoreStopped = false) :
    exec .dieResetAdvance s = .next (s.advanceReset r.die r.step) := by
  change execDieResetAdvance s = _
  simp [execDieResetAdvance, hr, hp, hu]

/-- The die of a reset that a die's number finds. -/
theorem die_of_reset? {d : Nat} {r : Reset} (h : s.reset? d = some r) : r.die = d := by
  simpa using List.find?_some h

/-- Step 2 waits for the leases on the die (R237). -/
theorem advanceReset_two (d : Nat) :
    s.advanceReset d 2 = if s.leases.any (fun L => L.rect.dies.contains d) then s else s.resetStep d 3 := rfl

/-- Step 7 (R237): the die loses what no HBM holds; where no lease moves, the training that follows takes nothing more. -/
theorem advanceReset_seven {d : Nat} {r : Reset} (hr : s.reset? d = some r) (hm : ∀ L ∈ s.leases, L.move = none) :
    ((s.advanceReset d 7).reset? d).map Reset.step = some 8 ∧ (∀ x ∈ (s.advanceReset d 7).l2, x.die ≠ d) ∧
      (∀ x ∈ (s.advanceReset d 7).tlb, x.die ≠ d) ∧ (∀ x ∈ (s.advanceReset d 7).raceTags, x.die ≠ d) := by
  have hset : s.advanceReset d 7 =
      (((s.dieLoses d).modLink (4 + d) (fun l => { l with fails := 0 })).setDie d .training).resetStep d 8 := rfl
  rw [hset, setDie_of_unmoved d .training (s := (s.dieLoses d).modLink (4 + d) _) hm]
  refine ⟨reset?_resetStep (r := r) hr, fun x hx => ?_, fun x hx => ?_, fun x hx => ?_⟩
  all_goals exact of_decide_eq_true (List.mem_filter.mp hx).2

/-! ### A task that has ended (R76, R89) -/

theorem tasks_packetDone (t : Task) : (s.packetDone t).tasks = s.tasks := by
  unfold State.packetDone
  split <;> rfl

theorem tasks_sweepSl (slot : Nat) : (s.sweepSl slot).tasks = s.tasks := by
  unfold State.sweepSl
  split
  case h_1 => rfl
  case h_2 => split <;> rfl

theorem task?_finishTask (t : Task) (killed : Bool) (status detail : Nat) :
    (s.finishTask t killed status detail).task? t.die t.idx = none := by
  unfold State.finishTask State.task?
  rw [tasks_sweepSl, tasks_packetDone]
  exact find?_filter_none _ _ (by simp) _

theorem leads_dieResetDrainDeadline {r : Reset} {L : Lease} {k : Task} {c : Ctx} (hr : s.reset? s.focus.die = some r)
    (hL : s.lease? s.focus.site.lease = some L) (hk : s.task? L.die L.entry = some k) (hc : s.ctx? L.tid = some c)
    (hcd : s.cdRuns = true) (h2 : r.step = 2) (hd : r.die ∈ L.rect.dies) (ht : r.since + 2 * c.drain ≤ s.fabric) (hcls : k.cls ≠ 1) :
    Leads .dieResetDrainDeadline s (fun t => t.task? L.die L.entry = none) := by
  have hplace : k.die = L.die ∧ k.idx = L.entry := by simpa using List.find?_some hk
  refine ⟨s.killTask k cDieDown, ?_, ?_⟩
  · change execDieResetDrainDeadline s = _
    have htime : ¬s.fabric < r.since + 2 * c.drain := Nat.not_lt.mpr ht
    simp [execDieResetDrainDeadline, hr, hL, hk, hc, hcd, h2, hd, htime, hcls]
  · rw [← hplace.1, ← hplace.2]
    exact task?_finishTask k true 4 cDieDown

end

/-! ### What Bilsis writes, and SPDM (R67, R68, R175) -/

section
variable {s : State} (hp : s.power = .run)
include hp

theorem leads_frameOwnerWrite {f : Nat} {v : BitVec 16} (hv : s.validPa (65536 * f) = true) (hk : (locOf (65536 * f)).kind ≠ .host)
    (hg : paPkg (65536 * f) = s.pkgNo) (hup : s.configUp (paDie (65536 * f)) = true)
    (hout : v.getLsbD 15 = true → s.frameOut (65536 * f) = false) : Leads (.frameOwnerWrite f v) s (fun t =>
      lookupD t.owners f 0 = v &&& 0xC3FF#16 ∧ (∀ g, g ≠ f → lookupD t.owners g 0 = lookupD s.owners g 0) ∧
      t = { s with owners := t.owners }) := by
  have hexists : ¬(!s.validPa (65536 * f) || (locOf (65536 * f)).kind = .host || paPkg (65536 * f) ≠ s.pkgNo) = true := by
    simp [hv, hk, hg]
  have hreached : ¬(!s.configUp (paDie (65536 * f)) || (v.getLsbD 15 && s.frameOut (65536 * f))) = true := by
    simpa only [hup, Bool.not_true, Bool.false_or, Bool.and_eq_true, not_and, Bool.not_eq_true] using hout
  exact ⟨_, (if_neg (not_not_intro hp)).trans ((if_neg hexists).trans (if_neg hreached)), lookupD_insertKV _ _ _ _,
    fun g hgf => lookupD_insertKV_other _ _ _ hgf, rfl⟩

theorem leads_keySlotLoad {d k : Nat} (w : List (BitVec 8)) (hd : d < s.fuses.nlive) (h1 : 1 ≤ k) (h2 : k ≤ 255)
    (hup : s.configUp d = true) : Leads (.keySlotLoad d k w) s (fun t =>
      t.keys.find? (fun x => x.1 = d && x.2.1 = k) = some (d, k, w) ∧ t = { s with keys := t.keys }) :=
  ⟨_, (if_neg (not_not_intro hp)).trans ((if_neg (by simp [State.live, hd]; omega)).trans (if_neg (by simp [hup]))),
    List.find?_cons_of_pos (by simp), rfl⟩

/-- SPDM answers in RUN: with the measurements, with an error to a requester that does not accept the algorithm, and with status 0 to a
challenge (R67). -/
theorem spdm_answers {f : Nat} (n : BitVec 256) (hf : f < 128) :
    Leads (.spdmRequest f .measurements) s (fun t => t.spdmReply.values = s.measurements.map (fun m => m.setWidth 1280) ∧
      t = { s with spdmReply := t.spdmReply }) ∧
    exec (.spdmRequest f (.algorithms false)) s = .next { s with spdmReply := ⟨1, []⟩ } ∧
    Leads (.spdmRequest f (.challenge n)) s (fun t => t = { s with spdmReply := t.spdmReply } ∧ t.spdmReply.status = 0) := by
  have hup : ¬(s.power = .off || s.power = .holdup || f ≥ functions) = true := by simp [hp, functions, hf]
  exact ⟨⟨_, if_neg hup, rfl, rfl⟩, if_neg hup, ⟨_, if_neg hup, rfl, rfl⟩⟩

end

/-! ### The statement -/

/-- Settles O60: each event changes one link, one span port or what the die keeps, and the statement reads that change off. -/
theorem linksSpansAndResetsGoOn : Obligations.LinksSpansAndResetsGoOn := by
  unfold Obligations.LinksSpansAndResetsGoOn
  refine ⟨?modules, ?seamFails, ?dieFails, ?trains, ?readmits, ?waits, ?runsAgain, ?retrained, ?retrains, ?accepts, ?rejects,
    ?ack, ?nak, ?full, ?room, ?portRetrain, ?portTrains, ?replays, ?lane, ?halving, ?retires, ?withholds, ?keeps, ?advance,
    ?deadline, ?owner, ?key, ?spdm⟩
  case modules => exact fun s k n hk ha h0 hn => leads_seamModuleLoss hk ha h0 hn
  case seamFails =>
    intro s k l hk h
    refine ⟨_, exec_linkFailure_seam l hk h, ?_⟩
    rw [link_modLink _ (by omega)]
    rfl
  case dieFails => exact fun s d l _ h => ⟨if_pos h, exec_linkFailure_die l h⟩
  case trains => exact fun s k hk hp hu hs ht => seam_trains hp hu hk hs ht
  case readmits => exact fun s k hk hp hu hs ht => seam_readmits hp hu hk hs ht
  case waits => exact fun s k ok _ h => exec_linkTrainingResult_waits ok h
  case runsAgain =>
    intro s hk hp hq ha h0
    exact leads_mono (leads_seamReturnRunning hp hk hq ha h0) (fun t h => ⟨by rw [h.1], by rw [h.1]; rfl, h.2⟩)
  case retrained =>
    intro s k hk hp hx hy hr
    exact leads_mono (leads_seamRetrain_running hp hk hx hy hr) (fun t h => ⟨by rw [h.1], by rw [h.1], by rw [h.1]; exact hr⟩)
  case retrains =>
    intro s k ok hk hp hx hy hd
    exact leads_mono (leads_seamRetrain_down hp hk hx hy ok hd) (fun t h => ⟨by rw [h.1]; rfl, by rw [h.1]; rfl⟩)
  case accepts =>
    intro s n f p e hp hn hspan hu he hok hk hnak hackv hseq
    subst hspan
    refine leads_mono (leads_spanFlitReceive_next hp hn hu he hok hk hnak hackv hseq) (fun t h => ?_)
    obtain ⟨hport, hrest⟩ := h
    rw [hport]
    exact ⟨rfl, rfl, rfl, rfl, rfl, hrest⟩
  case rejects =>
    intro s n f p e hp hn hspan hu hnaked he
    subst hspan
    exact leads_mono (leads_spanFlitReceive_bad hp f hn hu hnaked he) (fun t h => by rw [h.1]; exact ⟨rfl, rfl, rfl⟩)
  case ack => exact fun me f seq ack nak c hf h0 h1 h2 => ackFlit_says hf h0 h1 h2
  case nak =>
    intro s n a hp hn hu
    refine leads_mono (leads_spanNak hp a hn hu) (fun t h => ?_)
    obtain ⟨hport, hrest⟩ := h
    rw [hport, held_nak]
    exact ⟨held_prefix_drain (released a (s.span n)), fun hpend => held_drain_of_no_pend (p := released a (s.span n)) hpend,
      held_prefix_sending_nak _ _ _, hrest⟩
  case full => exact fun p line f hp hh => send_full line f hp hh
  case room =>
    intro p line f hp hh
    rw [send_room line f hp hh]
    exact ⟨rfl, List.length_append, List.length_append⟩
  case portRetrain =>
    intro s n r half hp hn hr
    exact leads_mono (leads_spanPortRetrain hp half hn hr) (fun t h => by rw [h.1]; exact ⟨rfl, rfl, rfl, rfl⟩)
  case portTrains =>
    intro s hp hn ht
    refine ⟨leads_mono (leads_spanPortTrained hp hn ht) (fun t h => ?_), fun hf => ?_, exec_spanTrainingFail_third hp ht⟩
    · rw [h.1]
      exact ⟨rfl, List.prefix_append _ _⟩
    · exact leads_mono (leads_spanTrainingFail hp hn ht hf) (fun t h => by rw [h.1]; exact ⟨rfl, ht⟩)
  case replays =>
    intro s hp hn hu hr hw
    exact leads_mono (leads_spanReplayLimit hp hn hu hr hw) (fun t h => by rw [h.1]; exact ⟨rfl, rfl⟩)
  case lane =>
    intro s hp hn hu hl hk
    exact leads_mono (leads_spanLaneFailure hp hn hu hl hk) (fun t h => by rw [h.1]; exact ⟨rfl, rfl, hu⟩)
  case halving => exact fun s hp hu h => leads_checkCounterHalving hp hu h
  case retires => exact fun s d n x y hp hu hm hw ha => leads_reliabilityMonitor_retires hp hu hm hw ha
  case withholds => exact fun s d n w hp hu hm hw ha => leads_reliabilityMonitor_withholds hp hu hm hw ha
  case keeps => exact fun s d n w hp hu hm ha => (exec_reliabilityMonitor hp hu hm n w).trans (congrArg _ (if_pos ha))
  case advance =>
    intro s r hr hp hu
    have hexec := exec_dieResetAdvance hr hp hu
    have hown : s.reset? r.die = some r := by rwa [die_of_reset? hr]
    refine ⟨fun h2 hgone => ?_, fun h2 hleft => ?_, fun h7 hm => ?_⟩
    · refine ⟨s.resetStep r.die 3, ?_, reset?_resetStep hown, rfl⟩
      rw [hexec, h2, advanceReset_two, if_neg (by simpa using hgone)]
    · rw [hexec, h2, advanceReset_two, if_pos (by simpa using hleft)]
    · refine ⟨s.advanceReset r.die 7, ?_, advanceReset_seven hown hm⟩
      rw [hexec, h7]
  case deadline => exact fun s r L k c hr hL hk hc hcd h2 hd ht hcls => leads_dieResetDrainDeadline hr hL hk hc hcd h2 hd ht hcls
  case owner => exact fun s f v hp hv hk hg hup hout => leads_frameOwnerWrite hp hv hk hg hup hout
  case key => exact fun s d k w hp hd h1 h2 hup => leads_keySlotLoad hp w hd h1 h2 hup
  case spdm => exact fun s f n hp hf => spdm_answers hp n hf

end Sys2Proof.Proofs.Links
end

section
/-! The packets of a start list (R54 to R61, R64, R73 to R76): what reading the packet at HEAD answers, what an attempt at a held one
comes to, and what each kind does once it is admitted; then the statements that rest on them. -/

namespace Sys2Proof.Proofs.Packets

open Sys2Proof Sys2Proof.Machine Sys2Proof.Claims Sys2Proof.Proofs.Registers

/-! ### Start lists by slot -/

section
variable {s : State} {slot : Nat} {l : StartList}

theorem slot_of_sl? (h : s.sl? slot = some l) : l.slot = slot := by
  simpa using List.find?_some h

theorem sl?_modSl_some {f : StartList → StartList} (hf : ∀ l, (f l).slot = l.slot) (h : s.sl? slot = some l) :
    (s.modSl slot f).sl? slot = some (f l) := by
  rw [sl?_modSl s slot f hf, h, Option.map_some]

theorem sl?_self (h : s.sl? slot = some l) : s.sl? l.slot = some l := by
  rw [slot_of_sl? h, h]

/-- A start list that is not destroyed is not swept away. -/
theorem sweepSl_of_live (h : s.sl? slot = some l) (hd : l.st ≠ .destroyed) : s.sweepSl slot = s := by
  unfold State.sweepSl
  rw [h]
  exact if_neg (by simp [hd])

end

/-! ### Reading the packet at HEAD (R54 to R56, R64) -/

/-- A packet's bytes as the CD has read them. -/
def packetOf (bs : List Byte) : BitVec 1024 := BitVec.ofNat 1024 (ofBytes bs)

/-- Whether both stamps of a packet are the start list's next (R54). -/
def Stamped (l : StartList) (b : BitVec 1024) : Prop := pktField b 60 4 = stampOf l.nextN ∧ pktField b 124 4 = stampOf l.nextN

/-- A start list that holds no packet. -/
def unheld (l : StartList) : StartList := { l with held := none }

/-- A start list whose packet bore another stamp: it holds none, and reads again 1,000 ticks later. -/
def unstamped (now : Nat) (l : StartList) : StartList := { l with held := none, retryAt := some (now + 1000) }

/-- A start list that holds the packet at HEAD. -/
def holding (b : BitVec 1024) (l : StartList) : StartList := { l with held := some ⟨l.nextN, b⟩, retryAt := none }

section
variable {s s1 : State} {l : StartList} {bs : List Byte}

theorem consumePacket_fault {e : Nat} (h : s.cdRead l.tid l.packetVa 128 true = (.error e, s1)) :
    s.consumePacket l = (s1.modSl l.slot unheld).modSl l.slot (faultedWith 1) := by
  unfold State.consumePacket State.fetchPacket
  rw [show s.cdRead l.tid (wrapN 57 ((l.ring + 128 * (l.nextN % l.size) : Nat) : Int)) 128 true = _ from h]
  rfl

theorem consumePacket_unstamped (h : s.cdRead l.tid l.packetVa 128 true = (.ok bs, s1)) (hst : ¬Stamped l (packetOf bs)) :
    s.consumePacket l = s1.modSl l.slot (unstamped s.ticks) := by
  have hfetch : s.fetchPacket l = (none, s1.modSl l.slot (unstamped s.ticks)) := by
    unfold State.fetchPacket
    rw [show s.cdRead l.tid (wrapN 57 ((l.ring + 128 * (l.nextN % l.size) : Nat) : Int)) 128 true = _ from h]
    exact if_neg (by simpa [Stamped, packetOf] using hst)
  unfold State.consumePacket
  rw [hfetch]

theorem consumePacket_held (h : s.cdRead l.tid l.packetVa 128 true = (.ok bs, s1)) (hst : Stamped l (packetOf bs))
    (hr : packetRefusal (packetOf bs) l.fn = none) : s.consumePacket l = s1.modSl l.slot (holding (packetOf bs)) := by
  have hfetch : s.fetchPacket l = (some (packetOf bs), s1) := by
    unfold State.fetchPacket
    rw [show s.cdRead l.tid (wrapN 57 ((l.ring + 128 * (l.nextN % l.size) : Nat) : Int)) 128 true = _ from h]
    exact if_pos (by simpa [Stamped, packetOf] using hst)
  unfold State.consumePacket
  rw [hfetch]
  simp only [hr]
  rfl

end

theorem exec_packetRead {s : State} {l : StartList} (h : mayRead s l false) : exec .packetRead s = .next (s.consumePacket l) := by
  obtain ⟨hrun, hl, hst, hne, hheld, hretry⟩ := h
  change execPacketRead s = _
  unfold execPacketRead
  rw [hl]
  simp_all

theorem exec_packetStampRetry {s : State} {l : StartList} (h : mayRead s l true) :
    exec .packetStampRetry s = .next (s.consumePacket l) := by
  obtain ⟨hrun, hl, hst, hne, hheld, t, hretry, ht⟩ := h
  change execPacketStampRetry s = _
  unfold execPacketStampRetry
  rw [hl]
  simp [hrun, hst, hne, hheld, hretry, ht]

/-- An event that reads the next packet of a start list comes to what the CD reads. -/
theorem readsPacket {i : Instr} {retry : Bool}
    (hi : ∀ (s : State) l, mayRead s l retry → exec i s = .next (s.consumePacket l)) : ReadsPacket i retry := by
  intro s l s1 hmay
  have hexec := hi s l hmay
  obtain ⟨-, -, hst, -⟩ := hmay
  refine ⟨fun e ⟨hread, hl1⟩ => ?_, fun bs b ⟨hread, hl1⟩ hb => ⟨fun hstamp => ?_, fun h1 h2 hr => ?_⟩⟩
  · have hfault := faultedWith_of_live (cause := 1) (l := unheld l) (by simp [unheld, hst]) (by simp [unheld, hst])
    have hlist := sl?_modSl_some (slot_faultedWith 1) (sl?_modSl_some (f := unheld) (fun _ => rfl) hl1)
    rw [hfault] at hlist
    exact ⟨_, hexec.trans (congrArg _ (consumePacket_fault hread)), hlist⟩
  · subst hb
    refine ⟨_, hexec, ?_⟩
    rw [consumePacket_unstamped hread hstamp]
    exact ⟨sl?_modSl_some (fun _ => rfl) hl1, State.modSl_only _ _ _⟩
  · subst hb
    refine ⟨_, hexec, ?_⟩
    rw [consumePacket_held hread ⟨h1, h2⟩ hr]
    exact ⟨sl?_modSl_some (fun _ => rfl) hl1, State.modSl_only _ _ _⟩

/-! ### STOPPING (R64) -/

theorem settle_of_stopping {l : StartList} (h : l.st = .stopping) : l.settle = { l with st := .stopped } := if_pos h

theorem slot_settle (l : StartList) : l.settle.slot = l.slot := by
  unfold StartList.settle
  split <;> rfl

/-- An event that settles a STOPPING start list stops it, and changes nothing else. -/
theorem leads_settle {i : Instr} {s : State} {slot : Nat} {l : StartList} (hi : exec i s = .next (s.modSl l.slot StartList.settle))
    (hl : s.sl? slot = some l) (hst : l.st = .stopping) : Leads i s (fun t =>
      t.sl? l.slot = some { l with st := .stopped } ∧ t = { s with startLists := t.startLists }) := by
  rw [← settle_of_stopping hst]
  exact leads_modSl hi slot_settle (sl?_self hl)

theorem exec_packetRead_stopping {s : State} {l : StartList} (hl : s.sl? s.focus.slot = some l) (hst : l.st = .stopping) :
    exec .packetRead s = .next (s.modSl l.slot StartList.settle) := by
  change execPacketRead s = _
  unfold execPacketRead
  rw [hl]
  exact if_pos hst

theorem attempt_stopping {s : State} {l : StartList} {q : Packet} {kinds : Nat → Bool} (hrun : s.cdRuns = true)
    (hl : s.sl? s.focus.slot = some l) (hst : l.st = .stopping) (hq : l.held = some q) (hk : kinds (pktKind q.body) = true) :
    s.attempt kinds = .next (s.modSl l.slot StartList.settle) := by
  unfold State.attempt
  rw [hl]
  simp [hrun, hst, hq, hk]

/-! ### The completion of a packet (R59, R62) -/

/-- A start list without a packet that was pending. -/
def withoutPacket (n : Nat) (l : StartList) : StartList := { l with pending := l.pending.filter (fun q => q.n ≠ n) }

theorem sl?_sendMsi (s : State) (fn vec slot : Nat) : (s.sendMsi fn vec).sl? slot = s.sl? slot := by
  unfold State.sendMsi
  split
  · rfl
  · split <;> rfl

theorem sendMsi_unmasked {s : State} {fn vec : Nat} (h : s.msixMasked fn vec = false) :
    (s.sendMsi fn vec).msiSent = s.msiSent ++ [⟨fn, vec⟩] := by
  unfold State.sendMsi
  rw [h]
  rfl

theorem sendMsi_masked {s : State} {fn vec : Nat} (h : s.msixMasked fn vec = true) :
    (fn, vec) ∈ (s.sendMsi fn vec).msixPending ∧ (s.sendMsi fn vec).msiSent = s.msiSent := by
  unfold State.sendMsi
  rw [h]
  cases hp : s.msixPending.contains (fn, vec) with
  | true => exact ⟨by simpa using hp, by simp⟩
  | false => simp

/-- A report with neither a record nor a semaphore sends its message, if it has one (R62). -/
theorem report_message {s : State} {slot : Nat} {l : StartList} {r : Report} (hl : s.sl? slot = some l) (hrec : r.crec = false)
    (hsem : r.csem = false) : s.report slot r = if r.cmsi then s.sendMsi l.fn r.vec else s := by
  unfold State.report
  rw [hl]
  simp [hrec, hsem]

/-- The package after a pending packet, which has neither record nor semaphore to write, has completed. -/
def completed (s : State) (l : StartList) (p : Pending) : State :=
  if p.cmsi then (s.modSl l.slot (withoutPacket p.n)).sendMsi l.fn p.vec else s.modSl l.slot (withoutPacket p.n)

section
variable {s : State} {l : StartList} {p : Pending} {st d : Nat}

theorem sl?_completed (hl : s.sl? l.slot = some l) : (completed s l p).sl? l.slot = some (withoutPacket p.n l) := by
  have hmod : (s.modSl l.slot (withoutPacket p.n)).sl? l.slot = some (withoutPacket p.n l) := sl?_modSl_some (fun _ => rfl) hl
  unfold completed
  split
  · rw [sl?_sendMsi, hmod]
  · exact hmod

theorem exec_packetCompletion (hrun : s.cdRuns = true) (hl : s.sl? s.focus.slot = some l) (hd : l.st ≠ .destroyed)
    (hp : l.pending.find? (fun p => p.n = s.focus.req) = some p) (hst : p.status = some (st, d)) (hrec : p.crec = false)
    (hsem : p.csem = false) : exec .packetCompletion s = .next (completed s l p) := by
  have hmod : (s.modSl l.slot (withoutPacket p.n)).sl? l.slot = some (withoutPacket p.n l) :=
    sl?_modSl_some (fun _ => rfl) (sl?_self hl)
  have hreport := report_message (r := ⟨p.tag, p.kind, p.n, p.crec, p.csem, p.cmsi, p.vec, st, d⟩) hmod hrec hsem
  have hsweep : (completed s l p).sweepSl l.slot = completed s l p := sweepSl_of_live (sl?_completed (sl?_self hl)) hd
  change execPacketCompletion s = _
  unfold execPacketCompletion
  simp only [hl, hp, hst, hrun, Bool.not_true, Bool.false_eq_true, if_false]
  rw [← hsweep]
  exact congrArg (fun t : State => Host.Outcome.next (t.sweepSl l.slot)) hreport

theorem leads_packetCompletion (hrun : s.cdRuns = true) (hl : s.sl? s.focus.slot = some l) (hd : l.st ≠ .destroyed)
    (hp : l.pending.find? (fun p => p.n = s.focus.req) = some p) (hst : p.status = some (st, d)) (hrec : p.crec = false)
    (hsem : p.csem = false) :
    Leads .packetCompletion s (fun t => t.sl? l.slot = some { l with pending := l.pending.filter (fun q => q.n ≠ p.n) } ∧
      (p.cmsi = true → s.msixMasked l.fn p.vec = false → t.msiSent = s.msiSent ++ [⟨l.fn, p.vec⟩]) ∧
      (p.cmsi = true → s.msixMasked l.fn p.vec = true → (l.fn, p.vec) ∈ t.msixPending ∧ t.msiSent = s.msiSent) ∧
      (p.cmsi = false → t.msiSent = s.msiSent)) := by
  refine ⟨_, exec_packetCompletion hrun hl hd hp hst hrec hsem, sl?_completed (sl?_self hl), fun hm hmask => ?_, fun hm hmask => ?_,
    fun hm => ?_⟩
  · rw [completed, if_pos hm]
    exact sendMsi_unmasked hmask
  · rw [completed, if_pos hm]
    exact sendMsi_masked hmask
  · rw [completed, if_neg (by simp [hm])]
    rfl

end

/-- Settles O49: a read, a stop and a completion are each one change of the start list, besides what the CD's read and the message do. -/
theorem packetsAreReadAndComplete : Obligations.PacketsAreReadAndComplete := by
  unfold Obligations.PacketsAreReadAndComplete
  refine ⟨readsPacket fun _ _ => exec_packetRead, readsPacket fun _ _ => exec_packetStampRetry, ?_, ?_, ?_⟩
  · intro s l hl hst
    exact leads_settle (exec_packetRead_stopping hl hst) hl hst
  · intro s l q hrun hl hst hq
    exact leads_settle (attempt_stopping (kinds := fun _ => true) hrun hl hst hq rfl) hl hst
  · intro s l p st d hrun hl hd hp hst hrec hsem
    exact leads_packetCompletion hrun hl hd hp hst hrec hsem

end Sys2Proof.Proofs.Packets
end

section
/-! What each kind of packet does when it is admitted (R55, R57 to R61, R73 to R76): an attempt at a held packet comes to `admitKind`,
and each kind's admission is one `takePacket` beside what the kind writes; then the statement that rests on them. -/

namespace Sys2Proof.Proofs.Admission

open Sys2Proof Sys2Proof.Machine Sys2Proof.Claims Sys2Proof.Proofs.Packets

/-! ### An attempt at a held packet (R55) -/

section
variable {s s1 : State} {k : Nat} {m : StartList} {p : Packet}

theorem slot_of_mayEnter (h : MayEnter s k s1 m p) : m.slot = s.focus.slot := slot_of_sl? h.again

theorem sl?_of_mayEnter (h : MayEnter s k s1 m p) : s1.sl? m.slot = some m := sl?_self h.again

theorem attempt_admits {kinds : Nat → Bool} (h : MayEnter s k s1 m p) (hk : kinds k = true) :
    s.attempt kinds = .next (s1.admitKind m p.body) := by
  obtain ⟨hrun, ⟨l, q, hl, hst, hq, hqk, rfl⟩, hagain, hp, hpk, hadm⟩ := h
  unfold State.attempt
  rw [hl]
  simp [hrun, hst, hq, hqk, hk, slot_of_sl? hl, hagain, hp, hpk, hadm]

/-- An event of a packet kind admits a held packet of that kind. -/
theorem exec_admits {i : Instr} {kinds : Nat → Bool} {u : State} (hi : exec i s = s.attempt kinds) (hk : kinds k = true)
    (h : MayEnter s k s1 m p) (hu : s1.admitKind m p.body = u) : exec i s = .next u :=
  hi.trans ((attempt_admits h hk).trans (congrArg _ hu))

/-- Another attempt at a held packet does what its own event does. -/
theorem exec_heldPacketRetry_eq {i : Instr} {kinds : Nat → Bool} (h : MayEnter s k s1 m p) (hi : exec i s = s.attempt kinds)
    (hk : kinds k = true) : exec .heldPacketRetry s = exec i s :=
  (exec_admits (kinds := fun _ => true) rfl rfl h rfl).trans (exec_admits hi hk h rfl).symm

theorem exec_nopPacket (h : MayEnter s 0 s1 m p) :
    exec .nopPacket s = .next (s1.takePacket m.slot p.body (some (0, 0)) []) :=
  exec_admits (kinds := fun k => k = 0) rfl rfl h (by simp only [State.admitKind, h.kind])

theorem exec_launch (h : MayEnter s 1 s1 m p) : exec .launch s = .next (s1.admitLaunch m p.body) :=
  exec_admits (kinds := fun k => k = 1) rfl rfl h (by simp only [State.admitKind, h.kind])

theorem exec_graph (h : MayEnter s 2 s1 m p) : exec .graph s = .next (s1.admitGraph m p.body) :=
  exec_admits (kinds := fun k => k = 2) rfl rfl h (by simp only [State.admitKind, h.kind])

theorem exec_replayPacket (h : MayEnter s 3 s1 m p) : exec .replayPacket s = .next (s1.admitReplay m p.body) :=
  exec_admits (kinds := fun k => k = 3) rfl rfl h (by simp only [State.admitKind, h.kind])

theorem exec_patch (h : MayEnter s 4 s1 m p) : exec .patch s = .next (s1.admitPatch m p.body) :=
  exec_admits (kinds := fun k => k = 4) rfl rfl h (by simp only [State.admitKind, h.kind])

theorem exec_sigsem (h : MayEnter s 5 s1 m p) : exec .sigsem s = .next (s1.admitSigsem m p.body) :=
  exec_admits (kinds := fun k => k = 5) rfl rfl h (by simp only [State.admitKind, h.kind])

theorem exec_waitsem (h : MayEnter s 6 s1 m p) : exec .waitsem s = .next (s1.admitWaitsem m p.body) :=
  exec_admits (kinds := fun k => k = 6) rfl rfl h (by simp only [State.admitKind, h.kind])

theorem exec_waitsemPoll (h : MayEnter s 6 s1 m p) : exec .waitsemPoll s = .next (s1.admitWaitsem m p.body) := exec_waitsem h

theorem exec_copy (h : MayEnter s 7 s1 m p) : exec .copy s = .next (s1.admitCopy m p.body) :=
  exec_admits (kinds := fun k => k = 7) rfl rfl h (by simp only [State.admitKind, h.kind])

theorem exec_fencePacket (h : MayEnter s 8 s1 m p) : exec .fencePacket s =
    .next (if m.pending.isEmpty then s1.takePacket m.slot p.body (some (0, 0)) [] else s1) :=
  exec_admits (kinds := fun k => k = 8) rfl rfl h (by simp only [State.admitKind, h.kind])

theorem exec_xlinvPacket (h : MayEnter s 9 s1 m p) : exec .xlinvPacket s = .next (s1.admitXlinv m p.body) :=
  exec_admits (kinds := fun k => k = 9) rfl rfl h (by simp only [State.admitKind, h.kind])

end

/-! ### A packet is taken (R55, R59) -/

section
variable (s : State) (slot : Nat) (b : BitVec 1024) (status : Option (Nat × Nat)) (nodes : List (BitVec 1024))

theorem takePacket_eq {m : StartList} (h : s.sl? m.slot = some m) :
    s.takePacket m.slot b status nodes = (s.markAdmitted m.tid).modSl m.slot (fun l => entered l b status nodes) := by
  unfold State.takePacket
  rw [h]
  rfl

theorem sl?_takePacket {m : StartList} (h : s.sl? m.slot = some m) :
    (s.takePacket m.slot b status nodes).sl? m.slot = some (entered m b status nodes) := by
  rw [takePacket_eq s b status nodes h]
  exact sl?_modSl_some (fun _ => rfl) h

theorem takePacket_only : s.takePacket slot b status nodes = { s with
    ctxs := (s.takePacket slot b status nodes).ctxs, startLists := (s.takePacket slot b status nodes).startLists } := by
  unfold State.takePacket
  split <;> rfl

theorem takePacket_tasks : (s.takePacket slot b status nodes).tasks = s.tasks := by rw [takePacket_only]

theorem takePacket_graphs : (s.takePacket slot b status nodes).graphs = s.graphs := by rw [takePacket_only]

theorem takePacket_invals : (s.takePacket slot b status nodes).invals = s.invals := by rw [takePacket_only]

theorem takePacket_task? (die idx : Nat) : (s.takePacket slot b status nodes).task? die idx = s.task? die idx :=
  congrArg (List.find? _) (takePacket_tasks s slot b status nodes)

end

/-- An event that takes a packet over a package enters it there. -/
theorem enters_of_takePacket {i : Instr} {s u v : State} {m : StartList} {b : BitVec 1024} {status : Option (Nat × Nat)}
    {nodes : List (BitVec 1024)} (hi : exec i s = .next v) (hslot : m.slot = s.focus.slot) (hm : u.sl? m.slot = some m)
    (hv : v = u.takePacket m.slot b status nodes) : Enters i s u m b status nodes := by
  refine ⟨_, hv ▸ hi, ?_, ?_⟩
  · rw [← hslot]
    exact sl?_takePacket u b status nodes hm
  · rw [takePacket_eq u b status nodes hm]
    exact State.modSl_only _ _ _

/-! ### Entries of the dependency tables (R73, R77) -/

/-- An entry that has become READY. -/
def readied (now : Nat) (x : Task) : Task := { x with st := .ready, readyAt := now }

/-- An entry as it stands in its table: READY at once if it waits for nothing. -/
def listed (now : Nat) (x : Task) : Task :=
  if x.st = .waiting && x.waits.all (fun w => w = 0) then readied now x else x

/-- An entry keeps everything but its state and the time of its readiness. -/
theorem listed_only (now : Nat) (x : Task) : listed now x = { x with st := (listed now x).st, readyAt := (listed now x).readyAt } := by
  unfold listed
  split <;> rfl

theorem listed_waits (now : Nat) (x : Task) : (listed now x).waits = x.waits := by rw [listed_only]

theorem listed_ctx (now : Nat) (x : Task) : (listed now x).ctx = x.ctx := by rw [listed_only]

theorem listed_image (now : Nat) (x : Task) : (listed now x).image = x.image := by rw [listed_only]

theorem listed_args (now : Nat) (x : Task) : (listed now x).args = x.args := by rw [listed_only]

theorem listed_kind (now : Nat) (x : Task) : (listed now x).kind = x.kind := by rw [listed_only]

theorem listed_seq (now : Nat) (x : Task) : (listed now x).seq = x.seq := by rw [listed_only]

theorem listed_st_of_waiting {now : Nat} {x : Task} (h : x.st = .waiting) :
    (listed now x).st = if x.waits.all (fun w => w = 0) then .ready else .waiting := by
  unfold listed
  rw [h]
  cases x.waits.all (fun w => w = 0) with
  | true => rfl
  | false => exact h

theorem listed_of_running {now : Nat} {x : Task} (h : x.st = .running) : listed now x = x := by
  unfold listed
  simp [h]

section
variable (s : State)

theorem task?_eq_none_of_freeEntry {s : State} {die idx : Nat} (h : s.freeEntry die = some idx) : s.task? die idx = none := by
  unfold State.freeEntry at h
  split at h
  case isTrue =>
    have hfree := List.find?_some h
    rw [State.task?, List.find?_eq_none]
    intro x hx hfound
    rw [Bool.not_eq_true', List.any_eq_false] at hfree
    exact hfree x hx hfound
  case isFalse => cases h

theorem readyIf_only (die idx : Nat) : s.readyIf die idx = { s with
    tasks := (s.readyIf die idx).tasks, readyNo := (s.readyIf die idx).readyNo } := by
  unfold State.readyIf
  split
  · rfl
  · split <;> rfl

theorem task?_readyIf {die idx : Nat} {x : Task} (h : s.task? die idx = some x) :
    (s.readyIf die idx).task? die idx = some (listed s.readyNo x) := by
  unfold State.readyIf listed
  rw [h]
  dsimp only
  split
  · exact (task?_modTask _ die idx (readied s.readyNo) (fun _ => ⟨rfl, rfl⟩)).trans (congrArg (Option.map _) h)
  · exact h

theorem addTask_only (x : Task) : s.addTask x = { s with
    ctxs := (s.addTask x).ctxs, tasks := (s.addTask x).tasks, readyNo := (s.addTask x).readyNo } := by
  unfold State.addTask
  rw [readyIf_only]
  rfl

theorem sl?_addTask (x : Task) (slot : Nat) : (s.addTask x).sl? slot = s.sl? slot := by
  rw [addTask_only]
  rfl

theorem cmds_addTask (x : Task) : (s.addTask x).cmds = s.cmds := by rw [addTask_only]

/-- A new entry is found where no other stood. -/
theorem task?_addTask {x : Task} (h : s.task? x.die x.idx = none) :
    (s.addTask x).task? x.die x.idx = some (listed s.readyNo x) := by
  refine task?_readyIf { s.markAdmitted x.ctx with tasks := s.tasks ++ [x] } ?_
  have h' : s.tasks.find? (fun t => t.die = x.die && t.idx = x.idx) = none := h
  simp [State.task?, List.find?_append, h']

end

/-! ### LAUNCH and the nodes of a REPLAY (R57, R61, R74 to R76) -/

section
variable {s : State} {m : StartList} {b : BitVec 1024} {c : Ctx} {d idx : Nat} {ws : List Nat}

theorem admitLaunch_eq (hc : s.ctx? m.tid = some c) (hd : s.entryDie c ((pktTiles b).take 8) ((pktTiles b).drop 8) = d)
    (hfree : s.freeEntry d = some idx) (hws : s.counts m.slot m.order ((pktTiles b).take 8) = some ws) :
    s.admitLaunch m b = (s.takePacket m.slot b none []).addTask
      { launchTask b d idx m.tid m.slot m.nextN m.order with waits := ws } := by
  subst hd
  unfold State.admitLaunch
  simp only [hc, hfree, hws]

theorem leads_launch {s1 : State} {p : Packet} (h : MayEnter s 1 s1 m p) (hc : s1.ctx? m.tid = some c)
    (hd : s1.entryDie c ((pktTiles p.body).take 8) ((pktTiles p.body).drop 8) = d) (hfree : s1.freeEntry d = some idx)
    (hws : s1.counts m.slot m.order ((pktTiles p.body).take 8) = some ws) : Leads .launch s (fun t =>
      t.sl? s.focus.slot = some (entered m p.body none []) ∧ ∃ x, t.task? d idx = some x ∧ x.waits = ws ∧ x.ctx = m.tid ∧
      x.image = pktField p.body 8 8 ∧ x.args = pktField p.body 16 8 ∧ x.st = (if ws.all (fun w => w = 0) then .ready else .waiting)) := by
  refine ⟨_, (exec_launch h).trans (congrArg _ (admitLaunch_eq hc hd hfree hws)), ?_, _, task?_addTask _ ?_, listed_waits _ _,
    listed_ctx _ _, listed_image _ _, listed_args _ _, listed_st_of_waiting rfl⟩
  · rw [sl?_addTask, ← slot_of_mayEnter h]
    exact sl?_takePacket s1 _ _ _ (sl?_of_mayEnter h)
  · rw [takePacket_task?]
    exact task?_eq_none_of_freeEntry hfree

/-- The next node of a replay has its entry: it leaves the start list, which numbers the entry (R61, R76). -/
theorem exec_replayNodeEntry {n : Nat} {rest : List (Nat × BitVec 1024)} (hrun : s.cdRuns = true) (hl : s.sl? s.focus.slot = some m)
    (hn : m.nodes = (n, b) :: rest) (hc : s.ctx? m.tid = some c) (hok : launchOk b = true) (hres : pktField b 120 4 = 0)
    (hd : s.entryDie c ((pktTiles b).take 8) ((pktTiles b).drop 8) = d) (hfree : s.freeEntry d = some idx)
    (hws : s.counts m.slot m.order ((pktTiles b).take 8) = some ws) : exec .replayNodeEntry s =
      .next (((s.modSl m.slot (fun l => { l with nodes := rest })).modSl m.slot (fun l => { l with order := l.order + 1 })).addTask
        { launchTask b d idx m.tid m.slot n m.order with kind := 2, waits := ws }) := by
  subst hd
  change execReplayNodeEntry s = _
  unfold execReplayNodeEntry
  simp [hl, hn, hc, hrun, hok, hres, hfree, hws]

theorem leads_replayNodeEntry {n : Nat} {rest : List (Nat × BitVec 1024)} (hrun : s.cdRuns = true) (hl : s.sl? s.focus.slot = some m)
    (hn : m.nodes = (n, b) :: rest) (hc : s.ctx? m.tid = some c) (hok : launchOk b = true) (hres : pktField b 120 4 = 0)
    (hd : s.entryDie c ((pktTiles b).take 8) ((pktTiles b).drop 8) = d) (hfree : s.freeEntry d = some idx)
    (hws : s.counts m.slot m.order ((pktTiles b).take 8) = some ws) : Leads .replayNodeEntry s (fun t =>
      t.sl? m.slot = some { m with nodes := rest, order := m.order + 1 } ∧
      ∃ x, t.task? d idx = some x ∧ x.kind = 2 ∧ x.waits = ws ∧ x.seq = n ∧ x.image = pktField b 8 8) := by
  refine ⟨_, exec_replayNodeEntry hrun hl hn hc hok hres hd hfree hws, ?_, _, task?_addTask _ (task?_eq_none_of_freeEntry hfree),
    listed_kind _ _, listed_waits _ _, listed_seq _ _, listed_image _ _⟩
  have hnodes := sl?_modSl_some (f := fun l => { l with nodes := rest }) (fun _ => rfl) (sl?_self hl)
  rw [sl?_addTask]
  exact sl?_modSl_some (f := fun l => { l with order := l.order + 1 }) (fun _ => rfl) hnodes

end

/-! ### GRAPH, REPLAY and PATCH (R58, R61) -/

section
variable {s s1 : State} {m : StartList} {p : Packet}

/-- A package with other stored graphs. -/
def withGraphs (s : State) (gs : List Graph) : State := { s with graphs := gs }

/-- The graph that a GRAPH packet stores: the node records as the CD has read them. -/
def storedGraph (m : StartList) (b : BitVec 1024) (bs : List Byte) : Graph :=
  ⟨m.tid, pktField b 16 8 % 64, (List.range (bitsOf (pktField b 16 8) 16 10 + 1)).map (fun k =>
    BitVec.ofNat 1024 (ofBytes ((bs.drop (128 * k)).take 128)))⟩

theorem admitGraph_eq {s s2 : State} {b : BitVec 1024} {bs : List Byte}
    (hread : s.cdRead m.tid (pktField b 8 8) (128 * (bitsOf (pktField b 16 8) 16 10 + 1)) true = (.ok bs, s2)) :
    s.admitGraph m b = (withGraphs s2 (storedGraph m b bs ::
      s2.graphs.filter (fun g => !(g.tid = m.tid && g.gid = pktField b 16 8 % 64)))).takePacket m.slot b (some (0, 0)) [] := by
  unfold State.admitGraph
  simp only [hread]
  rfl

theorem leads_graph {s2 : State} {bs : List Byte} (h : MayEnter s 2 s1 m p)
    (hread : s1.cdRead m.tid (pktField p.body 8 8) (128 * (bitsOf (pktField p.body 16 8) 16 10 + 1)) true = (.ok bs, s2)) :
    Leads .graph s (fun t => ∃ g, t.graph? m.tid (pktField p.body 16 8 % 64) = some g ∧
      g.nodes.length = bitsOf (pktField p.body 16 8) 16 10 + 1) := by
  have hlength : (storedGraph m p.body bs).nodes.length = bitsOf (pktField p.body 16 8) 16 10 + 1 := by
    rw [storedGraph, List.length_map, List.length_range]
  refine ⟨_, (exec_graph h).trans (congrArg _ (admitGraph_eq hread)), storedGraph m p.body bs, ?_, hlength⟩
  exact (congrArg (List.find? _) (takePacket_graphs _ _ _ _ _)).trans (List.find?_cons_of_pos (by simp [storedGraph]))

theorem enters_replay_absent (h : MayEnter s 3 s1 m p) (hg : s1.graph? m.tid (pktField p.body 8 8 % 64) = none) :
    Enters .replayPacket s s1 m p.body (some (6, 0)) [] := by
  refine enters_of_takePacket (exec_replayPacket h) (slot_of_mayEnter h) (sl?_of_mayEnter h) ?_
  unfold State.admitReplay
  simp only [hg]

theorem enters_replay {g : Graph} (h : MayEnter s 3 s1 m p) (hg : s1.graph? m.tid (pktField p.body 8 8 % 64) = some g) :
    Enters .replayPacket s s1 m p.body none g.nodes := by
  refine enters_of_takePacket (exec_replayPacket h) (slot_of_mayEnter h) (sl?_of_mayEnter h) ?_
  unfold State.admitReplay
  simp only [hg]

theorem enters_patch_absent (h : MayEnter s 4 s1 m p) (hg : s1.graph? m.tid (pktField p.body 8 8 % 64) = none) :
    Enters .patch s s1 m p.body (some (6, 0)) [] := by
  refine enters_of_takePacket (exec_patch h) (slot_of_mayEnter h) (sl?_of_mayEnter h) ?_
  unfold State.admitPatch
  simp only [hg]

/-- A stored graph with the bytes of one node replaced as a PATCH packet says. -/
def patched (b : BitVec 1024) (g : Graph) : Graph :=
  { g with nodes := modNth (fun nd => patchNode nd (bitsOf (pktField b 8 8) 32 7) (bitsOf (pktField b 8 8) 40 6 + 1)
    (pktField b 64 (bitsOf (pktField b 8 8) 40 6 + 1))) (bitsOf (pktField b 8 8) 16 10) g.nodes }

theorem admitPatch_eq {s : State} {b : BitVec 1024} {g : Graph} (hg : s.graph? m.tid (pktField b 8 8 % 64) = some g)
    (hk : bitsOf (pktField b 8 8) 16 10 < g.nodes.length) : s.admitPatch m b =
      (withGraphs s (updWhere (fun h => h.tid = m.tid && h.gid = pktField b 8 8 % 64) (patched b) s.graphs)).takePacket m.slot b
        (some (0, 0)) [] := by
  have hgid : g.gid = pktField b 8 8 % 64 := by
    have := List.find?_some hg
    simp only [Bool.and_eq_true, decide_eq_true_eq] at this
    exact this.2
  unfold State.admitPatch
  simp only [hg]
  rw [if_neg (Nat.not_le.mpr hk), hgid]
  rfl

theorem leads_patch {g : Graph} (h : MayEnter s 4 s1 m p) (hg : s1.graph? m.tid (pktField p.body 8 8 % 64) = some g)
    (hk : bitsOf (pktField p.body 8 8) 16 10 < g.nodes.length) : Leads .patch s (fun t =>
      t.sl? s.focus.slot = some (entered m p.body (some (0, 0)) []) ∧
      t.graph? m.tid (pktField p.body 8 8 % 64) = some (patched p.body g)) := by
  refine ⟨_, (exec_patch h).trans (congrArg _ (admitPatch_eq hg hk)), ?_, ?_⟩
  · have hm := sl?_of_mayEnter h
    rw [← slot_of_mayEnter h]
    exact sl?_takePacket (withGraphs s1 _) p.body (some (0, 0)) [] hm
  · refine (congrArg (List.find? _) (takePacket_graphs _ _ _ _ _)).trans ?_
    exact (find?_updWhere (fun k : Graph => k.tid = m.tid && k.gid = pktField p.body 8 8 % 64) (patched p.body) (fun _ ha => ha)
      s1.graphs).trans (congrArg (Option.map _) hg)

end

/-! ### SIGSEM and WAITSEM (R58) -/

section
variable {s s1 s2 : State} {m : StartList} {p : Packet}

theorem pktField_lt (b : BitVec 1024) (off n : Nat) : pktField b off n < 2 ^ (8 * n) := Nat.mod_lt _ (Nat.two_pow_pos _)

theorem enters_sigsem {r : Except Nat Unit} (h : MayEnter s 5 s1 m p) (hz : pktField p.body 24 8 = 0)
    (hw : s1.cdWrite m.tid (pktField p.body 8 8) (toBytes 8 (pktField p.body 16 8)) true = (r, s2)) (hs : s2.sl? m.slot = some m) :
    Enters .sigsem s s2 m p.body (some (statusOf r)) [] := by
  refine enters_of_takePacket (exec_sigsem h) (slot_of_mayEnter h) hs ?_
  have hv : (0 + pktField p.body 16 8) % 2 ^ 64 = pktField p.body 16 8 := by
    rw [Nat.zero_add]
    exact Nat.mod_eq_of_lt (pktField_lt p.body 16 8)
  unfold State.admitSigsem
  simp only [hz, Nat.zero_ne_one, if_false, hv, hw]

theorem admitWaitsem_holds {s : State} {b : BitVec 1024} {bs : List Byte}
    (hread : s.cdRead m.tid (pktField b 8 8) 8 true = (.ok bs, s2)) (hz : pktField b 24 8 = 0) (hle : pktField b 16 8 ≤ ofBytes bs) :
    s.admitWaitsem m b = s2.takePacket m.slot b (some (0, 0)) [] := by
  unfold State.admitWaitsem
  simp only [hread, hz]
  exact if_pos (decide_eq_true hle)

theorem admitWaitsem_waits {s : State} {b : BitVec 1024} {bs : List Byte}
    (hread : s.cdRead m.tid (pktField b 8 8) 8 true = (.ok bs, s2)) (hz : pktField b 24 8 = 0) (hlt : ofBytes bs < pktField b 16 8) :
    s.admitWaitsem m b = s2.modSl m.slot (fun l => { l with retryAt := some (s.ticks + 1000) }) := by
  unfold State.admitWaitsem
  simp only [hread, hz]
  exact if_neg (by simpa using hlt)

end

/-! ### COPY and XLINV (R58, R72, R95) -/

section
variable {s s1 : State} {m : StartList} {p : Packet}

theorem enqueue_only (s : State) (c : EngCmd) : s.enqueue c = { s with
    cmds := s.cmds ++ [{ c with segsLeft := c.entries.length }], vqueues := (s.enqueue c).vqueues } := by
  unfold State.enqueue
  dsimp only
  split <;> rfl

/-- The package once a COPY packet has been taken and its command queued under a fresh number. -/
def copyQueued (s : State) (m : StartList) (b : BitVec 1024) (d ed idx : Nat) : State :=
  ({ s with nextId := s.nextId + 1 }.takePacket m.slot b none []).enqueue (copyCmd b s.nextId m.tid d ed idx)

theorem admitCopy_eq {s s2 : State} {b : BitVec 1024} {c : Ctx} {d idx : Nat} (hc : s.ctx? m.tid = some c)
    (hd : s.homeDie c (pktField b 16 8) = (.ok d, s2)) (hfree : s2.freeEntry (s2.entryDie c [] []) = some idx)
    (hroom : s2.vqCount d m.tid .copy < 64) : s.admitCopy m b =
      (copyQueued s2 m b d (s2.entryDie c [] []) idx).addTask
        (copyTask b (s2.entryDie c [] []) idx m.tid m.slot m.nextN m.order s2.nextId m.packetVa) := by
  unfold State.admitCopy
  simp only [hc, hd, hfree]
  exact if_neg (by omega)

theorem leads_copy {s2 : State} {c : Ctx} {d idx : Nat} (h : MayEnter s 7 s1 m p) (hc : s1.ctx? m.tid = some c)
    (hd : s1.homeDie c (pktField p.body 16 8) = (.ok d, s2)) (hfree : s2.freeEntry (s2.entryDie c [] []) = some idx)
    (hroom : s2.vqCount d m.tid .copy < 64) : Leads .copy s (fun t =>
      (∃ x, t.task? (s2.entryDie c [] []) idx = some x ∧ x.kind = 1 ∧ x.st = .running ∧ x.cmd = some s2.nextId ∧ x.image = m.packetVa) ∧
      ∃ k ∈ t.cmds, k.id = s2.nextId ∧ k.src = pktField p.body 8 8 ∧ k.dst = pktField p.body 16 8 ∧ k.len = pktField p.body 24 8 ∧
        k.die = d ∧ k.tid = m.tid) := by
  have htask (die k : Nat) : (copyQueued s2 m p.body d (s2.entryDie c [] []) idx).task? die k = s2.task? die k := by
    rw [copyQueued, enqueue_only]
    exact takePacket_task? _ m.slot p.body none [] die k
  refine ⟨_, (exec_copy h).trans (congrArg _ (admitCopy_eq hc hd hfree hroom)),
    ⟨_, task?_addTask _ ((htask _ _).trans (task?_eq_none_of_freeEntry hfree)), ?_⟩, ?_⟩
  · rw [listed_of_running rfl]
    exact ⟨rfl, rfl, rfl, rfl⟩
  · rw [cmds_addTask, copyQueued, enqueue_only]
    exact ⟨_, List.mem_append_right _ (List.mem_singleton.mpr rfl), rfl, rfl, rfl, rfl, rfl, rfl⟩

theorem enters_xlinv_empty (h : MayEnter s 9 s1 m p) (hy : pktField p.body 16 8 = 0) :
    Enters .xlinvPacket s s1 m p.body (some (0, 0)) [] := by
  refine enters_of_takePacket (exec_xlinvPacket h) (slot_of_mayEnter h) (sl?_of_mayEnter h) ?_
  unfold State.admitXlinv
  simp only [hy, Nat.mul_zero, if_true]

/-- The contexts that an XLINV packet names: those of its ASID, or all of its VMID. -/
def xlinvAsid (z : Nat) : Option Nat := if z.testBit 24 then none else some (z % 65536)

theorem admitXlinv_eq {s : State} {b : BitVec 1024} {base size z : Nat} (hbase : pktField b 8 8 = base)
    (hsize : 65536 * pktField b 16 8 = size) (hz : pktField b 24 8 = z) (hpos : 0 < size)
    (hpage : (base + size - 1) / 2 ^ 48 = base / 2 ^ 48) (hnamed : s.namedCtxs (bitsOf z 16 8) (xlinvAsid z) ≠ []) :
    s.admitXlinv m b = (s.beginInval (bitsOf z 16 8) (xlinvAsid z) base size false (some (m.slot, m.nextN))).2.takePacket m.slot b
      none [] := by
  subst hbase hsize hz
  have hsome : (s.namedCtxs (bitsOf (pktField b 24 8) 16 8) (xlinvAsid (pktField b 24 8))).isEmpty = false := by
    simpa using hnamed
  have hgoes : ((s.namedCtxs (bitsOf (pktField b 24 8) 16 8) (xlinvAsid (pktField b 24 8))).isEmpty || decide
      ((pktField b 8 8 + 65536 * pktField b 16 8 - 1) / 2 ^ 48 ≠ pktField b 8 8 / 2 ^ 48)) ≠ true := by
    rw [hsome, hpage]
    simp
  unfold State.admitXlinv
  exact (if_neg hpos.ne').trans (if_neg hgoes)

theorem leads_xlinv {base size z : Nat} (h : MayEnter s 9 s1 m p) (hbase : pktField p.body 8 8 = base)
    (hsize : 65536 * pktField p.body 16 8 = size) (hz : pktField p.body 24 8 = z) (hpos : 0 < size)
    (hpage : (base + size - 1) / 2 ^ 48 = base / 2 ^ 48) (hnamed : s1.namedCtxs (bitsOf z 16 8) (xlinvAsid z) ≠ []) :
    Leads .xlinvPacket s (fun t => t.sl? s.focus.slot = some (entered m p.body none []) ∧
      ∃ v ∈ t.invals, v.base = base ∧ v.size = size ∧ v.vmid = bitsOf z 16 8 ∧ v.packet = some (m.slot, m.nextN)) := by
  refine ⟨_, (exec_xlinvPacket h).trans (congrArg _ (admitXlinv_eq hbase hsize hz hpos hpage hnamed)), ?_, ?_⟩
  · have hm := sl?_of_mayEnter h
    rw [← slot_of_mayEnter h]
    exact sl?_takePacket (s1.beginInval _ _ _ _ _ _).2 p.body none [] hm
  · rw [takePacket_invals]
    exact ⟨_, List.mem_cons_self, rfl, rfl, rfl, rfl⟩

end

/-! ### NOP and FENCE (R58) -/

section
variable {s s1 : State} {m : StartList} {p : Packet}

theorem enters_nop (h : MayEnter s 0 s1 m p) : Enters .nopPacket s s1 m p.body (some (0, 0)) [] :=
  enters_of_takePacket (exec_nopPacket h) (slot_of_mayEnter h) (sl?_of_mayEnter h) rfl

theorem enters_fence (h : MayEnter s 8 s1 m p) (hp : m.pending = []) : Enters .fencePacket s s1 m p.body (some (0, 0)) [] :=
  enters_of_takePacket (exec_fencePacket h) (slot_of_mayEnter h) (sl?_of_mayEnter h) (if_pos (by simp [hp]))

/-- A FENCE waits while a packet before it is pending. -/
theorem leads_fence_waits (h : MayEnter s 8 s1 m p) (hp : m.pending ≠ []) : Leads .fencePacket s (fun t =>
    t.sl? s.focus.slot = some m ∧ t = { s1 with startLists := t.startLists }) :=
  ⟨s1, (exec_fencePacket h).trans (congrArg _ (if_neg (by simp [hp]))), h.again, rfl⟩

end

/-- Settles O50: every attempt at a held packet comes to `admitKind`, and each kind's admission is read off. -/
theorem packetsAreAdmitted : Obligations.PacketsAreAdmitted := by
  unfold Obligations.PacketsAreAdmitted
  refine ⟨?_, ?_, ?_, ?_, ?_, ?_, ?_, ?_, ?_, ?_⟩
  · intro s k s1 m p h
    refine ⟨?_, ?_, ?_, ?_, ?_, ?_, ?_⟩
    · rintro rfl
      exact enters_nop h
    · rintro rfl hp
      exact enters_fence h hp
    · rintro rfl hg
      exact enters_replay_absent h hg
    · rintro rfl g hg
      exact enters_replay h hg
    · rintro rfl hg
      exact enters_patch_absent h hg
    · rintro rfl hy
      exact enters_xlinv_empty h hy
    · rintro rfl hp -
      exact leads_fence_waits h hp
  · intro s s1 m p c d idx ws h hc hd hfree hws
    exact leads_launch h hc hd hfree hws
  · intro s s1 s2 m p bs h hread
    exact leads_graph h hread
  · intro s s1 m p g h hg hk
    exact leads_patch h hg hk
  · intro s s1 s2 m p r h hz hw hs
    exact enters_sigsem h hz hw hs
  · intro s s1 s2 m p bs h _ hread hs hz
    refine ⟨fun hle => ?_, fun hlt => ?_⟩
    · have htake := admitWaitsem_holds hread hz hle
      exact ⟨enters_of_takePacket (exec_waitsem h) (slot_of_mayEnter h) hs htake,
        enters_of_takePacket (exec_waitsemPoll h) (slot_of_mayEnter h) hs htake⟩
    · refine ⟨_, (exec_waitsem h).trans (congrArg _ (admitWaitsem_waits hread hz hlt)), ?_, State.modSl_only _ _ _⟩
      exact sl?_modSl_some (f := fun l => { l with retryAt := some (s1.ticks + 1000) }) (fun _ => rfl) hs
  · intro s s1 s2 m p c d idx h hc hd hfree hroom
    exact leads_copy h hc hd hfree hroom
  · intro s s1 m p base size z h hbase hsize hz hpos hpage hnamed
    exact leads_xlinv h hbase hsize hz hpos hpage hnamed
  · intro s k s1 m p h
    refine ⟨?_, ?_, ?_, ?_, ?_⟩
    · rintro rfl
      exact exec_heldPacketRetry_eq (kinds := fun k => k = 1) h rfl rfl
    · rintro rfl
      exact exec_heldPacketRetry_eq (kinds := fun k => k = 6) h rfl rfl
    · rintro rfl
      exact exec_heldPacketRetry_eq (kinds := fun k => k = 7) h rfl rfl
    · rintro rfl
      exact exec_heldPacketRetry_eq (kinds := fun k => k = 8) h rfl rfl
    · rintro rfl
      exact exec_heldPacketRetry_eq (kinds := fun k => k = 0) h rfl rfl
  · intro s l n b rest c d idx ws hrun hl hn hc hok hres hd hfree hws
    exact leads_replayNodeEntry hrun hl hn hc hok hres hd hfree hws

end Sys2Proof.Proofs.Admission
end

section
/-! Requests at their homes, walks, waits, invalidations and the host's requests (R50, R160 to R175, R186 to R189, R198 to R201,
R373): what becomes of one request of a port, what the home's caches and memory hold after it, and the statement that rests on them. -/

namespace Sys2Proof.Proofs.Homes

open Sys2Proof Sys2Proof.Machine Sys2Proof.Claims

/-! ### A request of a port (R153, R176) -/

/-- A port some of whose requests have changed. -/
def changedPort (id : Nat) (f : Req → Req) (p : Port) : Port :=
  { p with
    queue := updWhere (fun r => r.id = id) f p.queue
    sideLog := updWhere (fun e => e.req.id = id) (fun e => { e with req := f e.req }) p.sideLog }

/-- The request with a number stands at the port with a PORTID. -/
def Stands (s : State) (port id : Nat) : Prop := ∃ q x, s.port? port = some q ∧ q.req? id = some x

theorem id_of_req? {p : Port} {id : Nat} {r : Req} (h : p.req? id = some r) : r.id = id := by
  unfold Port.req? at h
  split at h
  case h_1 x hx =>
    cases h
    simpa using List.find?_some hx
  case h_2 => simpa using (Option.filter_eq_some_iff.mp h).2

theorem id_of_port? {s : State} {id : Nat} {p : Port} (h : s.port? id = some p) : p.id = id := by
  simpa using List.find?_some h

/-- A request is found changed under its number. -/
theorem req?_changedPort (p : Port) (id : Nat) {f : Req → Req} (hf : ∀ r, (f r).id = r.id) :
    (changedPort id f p).req? id = (p.req? id).map f := by
  have hq : (changedPort id f p).queue.find? (fun r => r.id = id) = (p.queue.find? (fun r => r.id = id)).map f :=
    find?_updWhere _ f (fun a ha => by simpa [hf] using ha) _
  have hlog : ((changedPort id f p).sideLog.head?.map SideEntry.req).filter (fun r => r.id = id) =
      ((p.sideLog.head?.map SideEntry.req).filter (fun r => r.id = id)).map f := by
    cases hs : p.sideLog with
    | nil => simp [changedPort, updWhere, hs]
    | cons e l => by_cases he : e.req.id = id <;> simp [changedPort, updWhere, hs, he, Option.filter_some, hf]
  unfold Port.req?
  rw [hq, hlog]
  cases p.queue.find? (fun r => r.id = id) <;> rfl

/-- The requests of a port, its side log's with them, change where they stand. -/
theorem requests_changedPort (p : Port) (id : Nat) (f : Req → Req) :
    (changedPort id f p).requests = updWhere (fun r => r.id = id) f p.requests := by
  have hlog : (changedPort id f p).sideLog.map SideEntry.req = updWhere (fun r => r.id = id) f (p.sideLog.map SideEntry.req) := by
    simp only [changedPort, updWhere, List.map_map]
    refine List.map_congr_left fun e _ => ?_
    by_cases he : e.req.id = id <;> simp [he]
  unfold Port.requests
  rw [hlog]
  exact (List.map_append ..).symm

section
variable {s t : State} {p : Port} {r : Req} {port id : Nat}

theorem stands_of_portReq (h : PortReq s p r) : Stands s p.id r.id := by
  obtain ⟨hp, hr⟩ := h
  rw [Stands, id_of_port? hp, id_of_req? hr]
  exact ⟨p, r, hp, hr⟩

theorem stands_of_ports (h : t.ports = s.ports) (hs : Stands s port id) : Stands t port id := by
  unfold Stands State.port? at *
  rwa [h]

theorem port?_modReq (f : Req → Req) : (s.modReq port id f).port? port = (s.port? port).map (changedPort id f) :=
  port?_modPort s port (changedPort id f) (fun _ => rfl)

theorem stands_modReq {f : Req → Req} (hf : ∀ r, (f r).id = r.id) (hs : Stands s port id) : Stands (s.modReq port id f) port id := by
  obtain ⟨q, x, hq, hx⟩ := hs
  exact ⟨_, f x, (port?_modReq f).trans (congrArg _ hq), (req?_changedPort q id hf).trans (congrArg _ hx)⟩

/-- Where a request stands after a change that says so. -/
theorem statusIn_modReq {f : Req → Req} {st : ReqStatus} (hf : ∀ r, (f r).id = r.id) (hst : ∀ r, (f r).status = st)
    (hs : Stands s p.id id) : statusIn (s.modReq p.id id f) p id = some st := by
  obtain ⟨q, x, hq, hx⟩ := hs
  have hport : (s.modReq p.id id f).port? p.id = some (changedPort id f q) := (port?_modReq f).trans (congrArg _ hq)
  have hreq : (changedPort id f q).req? id = some (f x) := (req?_changedPort q id hf).trans (congrArg _ hx)
  unfold statusIn
  rw [hport, Option.bind_some, hreq, Option.map_some, hst]

theorem statusIn_setStatus (st : ReqStatus) (hs : Stands s p.id r.id) : statusIn (s.setStatus p r st) p r.id = some st :=
  statusIn_modReq (f := fun x => { x with status := st }) (fun _ => rfl) (fun _ => rfl) hs

theorem refuse_of_not_pref (cause : Nat) (h : r.op ≠ .pref) : s.refuse p r cause = s.setStatus p r (.refused cause) := by
  unfold State.refuse
  rw [if_neg h]

/-- What waits in a slice's queue beside a request does not depend on the translation that the request keeps. -/
theorem queueFull_keepLeaf (l : Option Leaf) (die slice : Nat) :
    (s.keepLeaf p r l).queueFull die slice r.id = s.queueFull die slice r.id := by
  have hq (c : Ctx) : (s.keepLeaf p r l).inQueue c die slice r.id = s.inQueue c die slice r.id := by
    change (updWhere (fun q => q.id = p.id) (changedPort r.id (fun x => { x with leaf := l })) s.ports).flatMap _ = _
    unfold updWhere State.inQueue
    rw [List.flatMap_map]
    congr 1
    funext q
    split
    · change (if q.ctx ≠ c.tid then _ else _) = (if q.ctx ≠ c.tid then _ else _)
      rw [requests_changedPort, Budgets.filter_updWhere_other (fun a ha => by simp_all) (fun a ha => by simp_all)]
      rfl
    · rfl
  unfold State.queueFull
  simp only [hq]
  rfl

end

/-! ### What leaves lines and requests alone (R169 to R171, R183) -/

/-- The L2, memory and the ports are as they were. -/
structure Quiet (s t : State) : Prop where
  l2 : t.l2 = s.l2
  mem : t.mem = s.mem
  ports : t.ports = s.ports

theorem Quiet.refl (s : State) : Quiet s s := ⟨rfl, rfl, rfl⟩

theorem Quiet.trans {s t u : State} (h : Quiet s t) (h' : Quiet t u) : Quiet s u :=
  ⟨h'.l2.trans h.l2, h'.mem.trans h.mem, h'.ports.trans h.ports⟩

theorem Quiet.l2? {s t : State} (h : Quiet s t) (die : Nat) (key : LineKey) : t.l2? die key = s.l2? die key := by
  unfold State.l2?
  rw [h.l2]

theorem Quiet.stands {s t : State} {port id : Nat} (h : Quiet s t) (hs : Stands s port id) : Stands t port id :=
  stands_of_ports h.ports hs

section
variable (s : State) (p : Port) (r : Req) (l : Leaf) (loc : Loc) (v : Line) (poison : Bool)

theorem quiet_count (tid die ev n : Nat) : Quiet s (s.count tid die ev n) := by
  obtain ⟨k, hk⟩ := Package.exists_count_eq s n tid die ev
  rw [hk]
  exact ⟨rfl, rfl, rfl⟩

theorem publish_only (c : Ctx) (die : Nat) : s.publish p r c die = { s with budgets := (s.publish p r c die).budgets } := by
  unfold State.publish
  dsimp only
  split <;> rfl

theorem quiet_freshen (num : Nat) (keep : Option NearLine) : Quiet s (s.freshen p num keep) := ⟨rfl, rfl, rfl⟩

theorem quiet_nearPut (va : Nat) : Quiet s (s.nearPut p va v poison) := ⟨rfl, rfl, rfl⟩

theorem quiet_modDir (num : Nat) (f : DirEntry → DirEntry) : Quiet s (s.modDir num f) := ⟨rfl, rfl, rfl⟩

theorem quiet_dropRrc (num die : Nat) : Quiet s (s.dropRrc num die) := ⟨rfl, rfl, rfl⟩

theorem quiet_fillNear : Quiet s (s.fillNear p r l loc v poison) := by
  unfold State.fillNear State.bringNear
  split
  · exact Quiet.refl s
  · split <;> exact ⟨rfl, rfl, rfl⟩

/-- Recording a sharer touches the directory and the counters only, whether the sharer finds a place or not (R170). -/
theorem quiet_share (tid die pa sharer : Nat) :
    (∀ u, (s.share tid die pa sharer).1 = some u → Quiet s u) ∧ Quiet s (s.share tid die pa sharer).2 := by
  unfold State.share
  split
  · split
    · exact ⟨fun _ hu => (Option.some_ne_none _ hu.symm).elim, Quiet.refl s⟩
    · exact ⟨fun _ hu => Option.some.inj hu ▸ quiet_modDir s _ _, Quiet.refl s⟩
  · dsimp only
    split
    · exact ⟨fun _ hu => Option.some.inj hu ▸ ⟨rfl, rfl, rfl⟩, Quiet.refl s⟩
    · split
      · split
        · exact ⟨fun _ hu => (Option.some_ne_none _ hu.symm).elim, (quiet_modDir s _ _).trans (quiet_count _ _ _ _ _)⟩
        · exact ⟨fun _ hu => (Option.some_ne_none _ hu.symm).elim, Quiet.refl s⟩
      · exact ⟨fun _ hu => (Option.some_ne_none _ hu.symm).elim, Quiet.refl s⟩

theorem quiet_fillRrc : Quiet s (s.fillRrc p r l loc v poison) := by
  unfold State.fillRrc
  refine iteInduction (motive := Quiet s) (fun _ => Quiet.refl s) (fun _ => ?_)
  refine iteInduction (motive := Quiet s) (fun _ => ⟨rfl, rfl, rfl⟩) (fun _ => ?_)
  have hshare := quiet_share s p.ctx loc.die loc.num p.die
  split
  next u t hu =>
    have hquiet := hshare.1 u (congrArg Prod.fst hu)
    exact ⟨hquiet.l2, hquiet.mem, hquiet.ports⟩
  next u hu =>
    rw [hu] at hshare
    exact hshare.2

end

/-! ### Lines in the L2 and in memory (R20, R68, R69, R169, R174) -/

section
variable {s : State} {loc : Loc} {x : L2Line}

theorem getLine_of_l2? (h : s.l2? loc.die loc.key = some x) : s.getLine loc = (x.data, x.poison) := by
  unfold State.getLine
  rw [h]

/-- A line that stands in the L2, and that no check has failed, is read as it stands. -/
theorem settleCode_of_resident (h : Resident s loc x) (origin : Word) : s.settleCode loc origin = s := by
  obtain ⟨hx, hecc⟩ := h
  unfold State.settleCode
  simp only [List.contains_eq_mem, hecc, decide_false, Bool.false_and, Bool.false_eq_true, if_false, hx, Option.isSome_some, if_true]
  split <;> rfl

/-- A line read in plain from a frame that holds it in plain is read as it stands. -/
theorem settleCode_of_plain {pa : Nat} (hkey : loc.key = .frame pa) (hslot : loc.slot = 0) (hseal : s.sealOf pa = none)
    (hcold : s.l2? loc.die loc.key = none) (hecc : loc.num ∉ s.eccFailed) (origin : Word) : s.settleCode loc origin = s := by
  have hunder : s.underSlot pa loc origin = s := by
    unfold State.underSlot
    simp [hslot, hseal]
  unfold State.settleCode
  rw [hcold]
  simp [hecc, hkey, hslot, hunder]

theorem quiet_fillLine_of_resident (h : s.l2? loc.die loc.key = some x) (tid pick : Nat) : Quiet s (s.fillLine loc tid pick) := by
  unfold State.fillLine
  rw [h]
  split
  · exact quiet_count s _ _ _ _
  · split
    · exact quiet_count s _ _ _ _
    · exact Quiet.refl s

/-- The L2 line that a frame's line makes when it is brought in. -/
def broughtIn (s : State) (loc : Loc) (pa : Nat) : L2Line := ⟨loc.die, loc.key, memLine s.mem pa, false, s.poisoned.contains pa, []⟩

/-- A set with a way to spare takes a line without giving one up. -/
theorem makeRoom_of_room {die off pick : Nat} (hroom : (s.setLines die off).length < s.ways die (sliceOf off))
    (hfix : s.fixedWays die off < s.ways die (sliceOf off)) : s.makeRoom die off pick false = some s := by
  unfold State.makeRoom
  simp [hroom, Nat.not_le.mpr hfix]

theorem fillLine_cold {pa : Nat} (hkey : loc.key = .frame pa) (hkind : loc.kind = .hbm) (hcold : s.l2? loc.die loc.key = none)
    (hroom : (s.setLines loc.die (paOff pa)).length < s.ways loc.die (sliceOf (paOff pa)))
    (hfix : s.fixedWays loc.die (paOff pa) < s.ways loc.die (sliceOf (paOff pa))) (tid pick : Nat) :
    s.fillLine loc tid pick = { s with
      counters := (s.count tid loc.die 1 1).counters, l2 := broughtIn s loc pa :: s.l2 } := by
  obtain ⟨k, hk⟩ := Package.exists_count_eq s 1 tid loc.die 1
  have hmake : ({ s with counters := k } : State).makeRoom loc.die (paOff pa) pick false = some { s with counters := k } :=
    makeRoom_of_room hroom hfix
  unfold State.fillLine
  rw [hcold, hk]
  simp only [hkind, hkey, hmake]
  unfold broughtIn
  rw [hkey]
  rfl

end

end Sys2Proof.Proofs.Homes
end

section
/-! Performing a request at the home of its line (R170 to R175, R185 to R188, R225, R228): what `homeRead`, `homeWrite` and `atHome`
come to, over any package in which the request has reached its home. -/

namespace Sys2Proof.Proofs.Homes

open Sys2Proof Sys2Proof.Machine Sys2Proof.Claims

/-! ### Reading at the home (R169, R171, R225) -/

section
variable {s : State} {p : Port} {r : Req} {c : Ctx} {l : Leaf} {loc : Loc}

/-- A load takes the line as its home holds it once it has been brought in, and leaves copies of it only. -/
theorem homeRead_load {ro : Bool} (ho : r.op = .load ro) (hsettled : s.settleCode loc (s.replyOrigin p r) = s) :
    ∃ u, Quiet (s.fillLine loc c.tid s.focus.idx) u ∧ s.homeRead p r c l loc = u.setStatus p r (
      .done ((s.fillLine loc c.tid s.focus.idx).getLine loc).1 (if ((s.fillLine loc c.tid s.focus.idx).getLine loc).2 then
        some (poisonErr ((s.fillLine loc c.tid s.focus.idx).getLine loc).1) else none)) := by
  unfold State.homeRead
  rw [hsettled, ho]
  exact ⟨_, (quiet_freshen _ p loc.num none).trans ((quiet_fillNear _ p r l loc _ _).trans (quiet_fillRrc _ p r l loc _ _)), rfl⟩

theorem homeRead_resident {ro : Bool} {x : L2Line} (ho : r.op = .load ro) (hres : Resident s loc x) :
    ∃ u, Quiet s u ∧ s.homeRead p r c l loc =
      u.setStatus p r (.done x.data (if x.poison then some (poisonErr x.data) else none)) := by
  have hfill := quiet_fillLine_of_resident hres.1 c.tid s.focus.idx
  obtain ⟨u, hu, hread⟩ := homeRead_load (c := c) (l := l) ho (settleCode_of_resident hres _)
  rw [getLine_of_l2? ((hfill.l2? _ _).trans hres.1)] at hread
  exact ⟨u, hfill.trans hu, hread⟩

theorem homeRead_cold {ro : Bool} {pa : Nat} (ho : r.op = .load ro) (hkey : loc.key = .frame pa) (hkind : loc.kind = .hbm)
    (hslot : loc.slot = 0) (hseal : s.sealOf pa = none) (hcold : s.l2? loc.die loc.key = none) (hecc : loc.num ∉ s.eccFailed)
    (hroom : (s.setLines loc.die (paOff pa)).length < s.ways loc.die (sliceOf (paOff pa)))
    (hfix : s.fixedWays loc.die (paOff pa) < s.ways loc.die (sliceOf (paOff pa))) :
    ∃ u : State, u.mem = s.mem ∧ u.ports = s.ports ∧ s.homeRead p r c l loc = u.setStatus p r (
      .done (memLine s.mem pa) (if s.poisoned.contains pa then some (poisonErr (memLine s.mem pa)) else none)) := by
  have hfill := fillLine_cold hkey hkind hcold hroom hfix c.tid s.focus.idx
  have hline : (s.fillLine loc c.tid s.focus.idx).l2? loc.die loc.key = some (broughtIn s loc pa) := by
    rw [hfill]
    exact List.find?_cons_of_pos (by simp [broughtIn])
  obtain ⟨u, hu, hread⟩ := homeRead_load (c := c) (l := l) ho (settleCode_of_plain hkey hslot hseal hcold hecc _)
  rw [getLine_of_l2? hline] at hread
  exact ⟨u, hu.mem.trans (by rw [hfill]), hu.ports.trans (by rw [hfill]), hread⟩

end

/-! ### The undo log (R228, R229) -/

section
variable {s : State} {port id : Nat}

/-- A change of ports that keeps their numbers and what they hold keeps every request. -/
theorem stands_of_updWhere {t : State} {q : Port → Bool} {g : Port → Port} (ht : t.ports = updWhere q g s.ports)
    (hg : ∀ p, (g p).id = p.id ∧ (g p).queue = p.queue ∧ (g p).sideLog = p.sideLog) (hs : Stands s port id) : Stands t port id := by
  obtain ⟨p, x, hp, hx⟩ := hs
  have hid (a : Port) : (if q a then g a else a).id = a.id := by
    split
    · exact (hg a).1
    · rfl
  have hreq : (if q p then g p else p).req? id = p.req? id := by
    cases q p with
    | true =>
      unfold Port.req?
      rw [if_pos rfl, (hg p).2.1, (hg p).2.2]
    | false => rfl
  have hport : t.port? port = (s.port? port).map (fun a => if q a then g a else a) := by
    unfold State.port?
    rw [ht, updWhere, List.find?_map]
    congr 2
    funext a
    simp [hid]
  exact ⟨_, x, hport.trans (congrArg _ hp), hreq.trans hx⟩

/-- What stands in the L2 and in memory, and every request at its port, is as it was. -/
def Keeps (s t : State) : Prop := t.l2 = s.l2 ∧ t.mem = s.mem ∧ ∀ port id, Stands s port id → Stands t port id

theorem Quiet.keeps {t : State} (h : Quiet s t) : Keeps s t := ⟨h.l2, h.mem, fun _ _ => h.stands⟩

theorem Keeps.trans {t u : State} (h : Keeps s t) (h' : Keeps t u) : Keeps s u :=
  ⟨h'.1.trans h.1, h'.2.1.trans h.2.1, fun port id hs => h'.2.2 port id (h.2.2 port id hs)⟩

theorem keeps_updPorts (q : Port → Bool) {g : Port → Port}
    (hg : ∀ p, (g p).id = p.id ∧ (g p).queue = p.queue ∧ (g p).sideLog = p.sideLog) :
    Keeps s { s with ports := updWhere q g s.ports } :=
  ⟨rfl, rfl, fun _ _ => stands_of_updWhere rfl hg⟩

/-- Where a trap goes when it is raised: to those on their way to the CD, to those that its lease holds, or into an unwind (R230). -/
def RaisedTo (s : State) (x : Trap) (u : State) : Prop :=
  u = { s with traps := s.traps ++ [x] } ∨ (∃ id f, u = s.modLease id f) ∨ ∃ L w, u = s.beginUnwind L w

theorem raisedTo_raise (s : State) (x : Trap) : RaisedTo s x (s.raise x) := by
  have hsent : RaisedTo s x { s with traps := s.traps ++ [x] } := .inl rfl
  unfold State.raise
  split
  · exact hsent
  · split
    · exact hsent
    · refine iteInduction (motive := RaisedTo s x) (fun _ => .inr (.inl ⟨_, _, rfl⟩)) (fun _ => ?_)
      split
      · exact iteInduction (motive := RaisedTo s x) (fun _ => .inr (.inr ⟨_, _, rfl⟩)) (fun _ => hsent)
      · exact hsent

theorem keeps_raise (x : Trap) : Keeps s (s.raise x) := by
  obtain h | ⟨id, f, h⟩ | ⟨L, w, h⟩ := raisedTo_raise s x
  · rw [h]
    exact ⟨rfl, rfl, fun _ _ hs => hs⟩
  · rw [h]
    exact ⟨rfl, rfl, fun _ _ hs => hs⟩
  · rw [h]
    exact ⟨rfl, rfl, fun _ _ => stands_of_updWhere (g := fun p => { p with hold := true }) rfl (fun _ => ⟨rfl, rfl, rfl⟩)⟩

/-- A region that degrades discards its undo logs and raises a trap (R229). -/
theorem keeps_degrade (lease inv : Nat) (origin : Word) : Keeps s (s.degrade lease inv origin) := by
  unfold State.degrade
  split
  · split
    · exact (Quiet.refl s).keeps
    · refine Keeps.trans ?_ (keeps_raise _)
      exact ⟨rfl, rfl, fun _ _ => stands_of_updWhere (g := fun p => { p with undo := [] }) rfl (fun _ => ⟨rfl, rfl, rfl⟩)⟩
  · exact (Quiet.refl s).keeps

theorem keeps_undo (p : Port) (r : Req) (pre : Line × Bool) : Keeps s (s.undo p r pre) := by
  unfold State.undo
  split
  · exact (Quiet.refl s).keeps
  · split
    · exact (Quiet.refl s).keeps
    · split
      · exact (Quiet.refl s).keeps
      · split
        · exact keeps_degrade _ _ _
        · exact keeps_updPorts _ (fun _ => ⟨rfl, rfl, rfl⟩)

end

/-! ### Writing at the home (R171, R182, R183, R225, R345) -/

section
variable {s : State} {loc : Loc} {x : L2Line}

theorem sealLine_only (s : State) (loc : Loc) : s.sealLine loc = { s with
    sealed := (s.sealLine loc).sealed, tags := (s.sealLine loc).tags } := by
  unfold State.sealLine
  split
  · rfl
  · split
    · rfl
    · split
      · rfl
      · split <;> rfl

theorem quiet_sealLine (s : State) (loc : Loc) : Quiet s (s.sealLine loc) := by
  rw [sealLine_only]
  exact ⟨rfl, rfl, rfl⟩

/-- An L2 line that its home has written. -/
def rewritten (v : Line) (poison : Bool) (x : L2Line) : L2Line := { x with data := v, poison := poison, dirty := true }

theorem slot_rewritten (v : Line) (poison : Bool) (x : L2Line) :
    (rewritten v poison x).die = x.die ∧ (rewritten v poison x).key = x.key := ⟨rfl, rfl⟩

theorem putLine_resident (h : s.l2? loc.die loc.key = some x) (v : Line) (poison : Bool) :
    s.putLine loc v poison = (s.sealLine loc).modL2 loc.die loc.key (rewritten v poison) := by
  unfold State.putLine
  dsimp only
  rw [(quiet_sealLine s loc).l2?, h]
  rfl

theorem l2?_modL2 (die : Nat) (key : LineKey) {f : L2Line → L2Line} (hf : ∀ x, (f x).die = x.die ∧ (f x).key = x.key) :
    (s.modL2 die key f).l2? die key = (s.l2? die key).map f :=
  find?_updWhere _ f (fun a ha => by simpa [hf] using ha) _

theorem l2?_modL2_other {die d : Nat} {key k : LineKey} {f : L2Line → L2Line} (hf : ∀ x, (f x).die = x.die ∧ (f x).key = x.key)
    (h : ¬(d = die ∧ k = key)) : (s.modL2 die key f).l2? d k = s.l2? d k := by
  have hne (a : L2Line) (ha : (decide (a.die = die) && decide (a.key = key)) = true) :
      (decide (a.die = d) && decide (a.key = k)) = false := by
    simp only [Bool.and_eq_true, decide_eq_true_eq] at ha
    obtain ⟨rfl, rfl⟩ := ha
    simp only [Bool.and_eq_false_iff, decide_eq_false_iff_not]
    exact (not_and_or.mp h).imp Ne.symm Ne.symm
  exact find?_updWhere_other _ _ f hne (fun a ha => by simpa [hf] using hne a ha) _

theorem l2?_putLine (h : s.l2? loc.die loc.key = some x) (v : Line) (poison : Bool) :
    (s.putLine loc v poison).l2? loc.die loc.key = some (rewritten v poison x) := by
  rw [putLine_resident h, l2?_modL2 _ _ (slot_rewritten v poison), (quiet_sealLine s loc).l2?, h, Option.map_some]

theorem onlyLine_putLine (h : s.l2? loc.die loc.key = some x) (v : Line) (poison : Bool) : OnlyLine s (s.putLine loc v poison) loc := by
  rw [putLine_resident h]
  exact ⟨fun d k hne => (l2?_modL2_other (slot_rewritten v poison) hne).trans ((quiet_sealLine s loc).l2? d k),
    (quiet_sealLine s loc).mem⟩

theorem ports_putLine (h : s.l2? loc.die loc.key = some x) (v : Line) (poison : Bool) : (s.putLine loc v poison).ports = s.ports := by
  rw [putLine_resident h]
  exact (quiet_sealLine s loc).ports

theorem Keeps.onlyLine {t u : State} (h : OnlyLine s t loc) (hk : Keeps t u) : OnlyLine s u loc := by
  refine ⟨fun d k hne => ?_, hk.2.1.trans h.2⟩
  rw [← h.1 d k hne]
  unfold State.l2?
  rw [hk.1]

variable {p : Port} {r : Req} {c : Ctx}

/-- A write to a line that stands in its home's L2: the line is written there unless it is barred, and the line as it was is the
answer. -/
theorem homeWrite_resident (ho : r.op ≠ .discard) (hres : Resident s loc x) : ∃ u, Quiet s u ∧ s.homeWrite p r c loc =
    ((if r.barred (x.data, x.poison) then u
      else (u.putLine loc (r.written (x.data, x.poison)).1 (r.written (x.data, x.poison)).2).undo p r (x.data, x.poison)).nearPut p r.va
        (r.written (x.data, x.poison)).1 (r.written (x.data, x.poison)).2).setStatus p r
      (.done x.data (if r.barred (x.data, x.poison) && r.op.isAtomic then some (poisonErr x.data) else none)) := by
  have hdrop : Quiet s ((s.dropRrc loc.num p.die).freshen p loc.num (s.ownCopy p r.va)) :=
    (quiet_dropRrc s loc.num p.die).trans (quiet_freshen _ p _ _)
  have hx := (hdrop.l2? loc.die loc.key).trans hres.1
  have hfill := quiet_fillLine_of_resident hx c.tid s.focus.idx
  have halloc (u : State) (hu : u.l2? loc.die loc.key = some x) (pick : Nat) : (if loc.key.isUnb then u.unbAlloc loc pick else u) = u := by
    split
    · unfold State.unbAlloc
      rw [hu]
      rfl
    · rfl
  refine ⟨_, hdrop.trans hfill, ?_⟩
  unfold State.homeWrite
  rw [settleCode_of_resident hres, if_neg ho]
  dsimp only
  rw [getLine_of_l2? hx, halloc _ ((hfill.l2? _ _).trans hx)]

/-- A write that its line does not bar changes that line and no other, and the line as it was is the answer. -/
theorem homeWrite_writes (ho : r.op ≠ .discard) (hres : Resident s loc x) (hbar : r.barred (x.data, x.poison) = false)
    (hs : Stands s p.id r.id) : statusIn (s.homeWrite p r c loc) p r.id = some (.done x.data none) ∧
      OnlyLine s (s.homeWrite p r c loc) loc ∧ (s.homeWrite p r c loc).l2? loc.die loc.key =
        some (rewritten (r.written (x.data, x.poison)).1 (r.written (x.data, x.poison)).2 x) := by
  obtain ⟨u, hu, hw⟩ := homeWrite_resident (p := p) (c := c) ho hres
  simp only [hbar, Bool.false_eq_true, if_false, Bool.false_and] at hw
  generalize r.written (x.data, x.poison) = w at hw ⊢
  have hx := (hu.l2? loc.die loc.key).trans hres.1
  have hundo := keeps_undo (s := u.putLine loc w.1 w.2) p r (x.data, x.poison)
  have hnear := hundo.trans (quiet_nearPut _ p w.1 w.2 r.va).keeps
  have honly : OnlyLine s (u.putLine loc w.1 w.2) loc := by
    obtain ⟨hline, hmem⟩ := onlyLine_putLine hx w.1 w.2
    exact ⟨fun d k hne => (hline d k hne).trans (hu.l2? d k), hmem.trans hu.mem⟩
  have hstands := hnear.2.2 _ _ (stands_of_ports (ports_putLine hx w.1 w.2) (hu.stands hs))
  have hother := hnear.onlyLine honly
  rw [hw]
  refine ⟨statusIn_setStatus _ hstands, hother, ?_⟩
  have hl2 := l2?_putLine hx w.1 w.2
  unfold State.l2? at hl2 ⊢
  rwa [← hnear.1] at hl2

/-- A write that does not cover a poisoned line whole leaves it as it is (R225). -/
theorem homeWrite_barred (ho : r.op ≠ .discard) (hres : Resident s loc x) (hbar : r.barred (x.data, x.poison) = true) :
    (s.homeWrite p r c loc).l2 = s.l2 ∧ (s.homeWrite p r c loc).mem = s.mem := by
  obtain ⟨u, hu, hw⟩ := homeWrite_resident (p := p) (c := c) ho hres
  rw [hbar] at hw
  rw [hw]
  exact ⟨hu.l2, hu.mem⟩

end

end Sys2Proof.Proofs.Homes
end

section
/-! The way of a request to its home (R153, R160 to R171, R175, R187, R188, R202): what `atHome`, `withLeaf` and `goHome` come to, and
each clause of HOME_REQUEST. -/

namespace Sys2Proof.Proofs.Homes

open Sys2Proof Sys2Proof.Machine Sys2Proof.Claims

/-! ### Sharers (R170) -/

/-- The sharers of a line that a write from a die has back-invalidated first. -/
def otherSharers (s : State) (die num : Nat) : List Nat :=
  match s.dir? num with
  | some d => d.sharers.filter (fun x => x ≠ die)
  | none => []

/-- A directory entry that waits for the acknowledgements of some sharers, beside those it waits for. -/
def awaiting (sharers : List Nat) (d : DirEntry) : DirEntry :=
  { d with waiting := d.waiting ++ sharers.filter (fun x => !d.waiting.contains x) }

theorem find?_filter_of_pos {α : Type} {q keep : α → Bool} {l : List α} {a : α} (h : l.find? q = some a) (ha : keep a = true) :
    (l.filter keep).find? q = some a := by
  induction l with
  | nil => cases h
  | cons b l ih =>
    rw [List.find?_cons] at h
    cases hb : q b with
    | true =>
      rw [hb] at h
      cases h
      rw [List.filter_cons_of_pos ha, List.find?_cons_of_pos hb]
    | false =>
      rw [hb] at h
      cases hk : keep b with
      | true => rw [List.filter_cons_of_pos hk, List.find?_cons_of_neg (by simp [hb]), ih h]
      | false => rw [List.filter_cons_of_neg (by simp [hk]), ih h]

section
variable {s : State} {die num : Nat} {e : DirEntry}

theorem otherSharers_eq_nil (h : ∀ d, s.dir? num = some d → ∀ x ∈ d.sharers, x = die) : otherSharers s die num = [] := by
  unfold otherSharers
  split
  case h_1 d hd => simpa using h d hd
  case h_2 => rfl

theorem mem_otherSharers {q : Nat} (he : s.dir? num = some e) (hq : q ∈ e.sharers) (hne : q ≠ die) : q ∈ otherSharers s die num := by
  unfold otherSharers
  rw [he]
  exact List.mem_filter.mpr ⟨hq, by simpa using hne⟩

/-- An entry that keeps a sharer is found changed. -/
theorem dir?_modDir {f : DirEntry → DirEntry} (hf : ∀ d, (f d).pa = d.pa) (he : s.dir? num = some e) (hne : (f e).sharers ≠ []) :
    (s.modDir num f).dir? num = some (f e) := by
  refine find?_filter_of_pos ?_ (by simpa using hne)
  exact (find?_updWhere _ f (fun a ha => by simpa [hf] using ha) _).trans (congrArg _ he)

/-- A line's home waits for every sharer that it has back-invalidated. -/
theorem waits_for_sharers {others : List Nat} {q : Nat} (he : s.dir? num = some e) (hne : e.sharers ≠ []) (hq : q ∈ others) :
    ∃ f, (s.modDir num (awaiting others)).dir? num = some f ∧ q ∈ f.waiting := by
  refine ⟨_, dir?_modDir (fun _ => rfl) he hne, ?_⟩
  by_cases hw : q ∈ e.waiting
  · exact List.mem_append_left _ hw
  · exact List.mem_append_right _ (List.mem_filter.mpr ⟨hq, by simpa using hw⟩)

end

/-! ### At the home (R169, R170, R174, R187) -/

section
variable {s : State} {p : Port} {r : Req} {c : Ctx} {td : Nat} {l : Leaf} {loc : Loc}

theorem atHome_load {ro : Bool} (ho : r.op = .load ro) (hchk : l.chk = false) :
    s.atHome p r c td l loc = s.homeRead p r c l loc := by
  simp only [State.atHome, ho, hchk, ReqOp.writes, ReqOp.race, Bool.false_and, Bool.false_eq_true, if_false]

/-- A checked load of a line that another party has written in the same region of time is a conflict (R187, R188). -/
theorem atHome_load_conflict {ro : Bool} {g : RaceTag} (ho : r.op = .load ro) (hchk : l.chk = true)
    (hg : s.tag? loc.die loc.num = some g) (hparty : g.wparty ≠ 0) (hother : g.wparty ≠ r.party)
    (hlive : s.stale g.wparty g.wsfr = false) (h0 : r.party ≠ 0) (hhost : r.party ≠ 0xFFFF) :
    s.atHome p r c td l loc = s.setStatus p r (.conflict ⟨8, g.wparty, false⟩) := by
  have hrace : s.raceCheck loc.die loc.num .read r.party r.sfr = .lost g.wparty := by
    simp [State.raceCheck, State.tagFor, State.conflictWith, State.firstRival, RaceTag.writer, State.rival, h0, hhost, hg, hparty,
      hother, hlive]
  simp only [State.atHome, ho, hchk, ReqOp.writes, ReqOp.race, Bool.false_and, Bool.false_eq_true, if_false, hrace]
  rfl

theorem unbRoom_of_resident {x : L2Line} (h : s.l2? loc.die loc.key = some x) (tid : Nat) : s.unbRoom loc tid = true := by
  unfold State.unbRoom
  rw [h]
  rfl

theorem atHome_write {x : L2Line} (hw : r.op.writes = true) (ho : r.op ≠ .discard) (hchk : l.chk = false)
    (hres : Resident s loc x) (hun : Unshared s p loc.num) : s.atHome p r c td l loc = s.homeWrite p r c loc := by
  unfold State.atHome
  rw [unbRoom_of_resident hres.1]
  change (if (_ && !true) = true then _ else if (_ && !(otherSharers s p.die loc.num).isEmpty) = true then _ else _) = _
  rw [otherSharers_eq_nil hun]
  simp only [hchk, Bool.not_true, Bool.and_false, Bool.false_eq_true, if_false, List.isEmpty_nil]
  cases hop : r.op with
  | store => rfl
  | atomic _ => rfl
  | reduce _ => rfl
  | discard => exact absurd hop ho
  | load _ => simp [hop, ReqOp.writes] at hw
  | tfetch => simp [hop, ReqOp.writes] at hw
  | mstream => simp [hop, ReqOp.writes] at hw
  | pref => simp [hop, ReqOp.writes] at hw
  | flushr => simp [hop, ReqOp.writes] at hw
  | migr _ => simp [hop, ReqOp.writes] at hw
  | marker _ => simp [hop, ReqOp.writes] at hw

/-- A write to a line with other sharers waits while they are back-invalidated (R170). -/
theorem atHome_shared {x : L2Line} (hw : r.op.writes = true) (hres : Resident s loc x) (hother : otherSharers s p.die loc.num ≠ []) :
    ∃ u : State, Quiet s u ∧ u.dir = (s.modDir loc.num (awaiting (otherSharers s p.die loc.num))).dir ∧
      s.atHome p r c td l loc = u.setStatus p r .backInv := by
  have hsome : (otherSharers s p.die loc.num).isEmpty = false := by simpa using hother
  have hat : s.atHome p r c td l loc =
      (if r.status = .backInv then s.modDir loc.num (awaiting (otherSharers s p.die loc.num))
        else (s.modDir loc.num (awaiting (otherSharers s p.die loc.num))).count c.tid loc.die 11
          (otherSharers s p.die loc.num).length).setStatus p r .backInv := by
    unfold State.atHome
    rw [unbRoom_of_resident hres.1, hw]
    change (if (_ && !true) = true then _ else if (true && !(otherSharers s p.die loc.num).isEmpty) = true then _ else _) = _
    rw [hsome]
    simp only [Bool.not_true, Bool.and_false, Bool.false_eq_true, if_false, Bool.not_false, Bool.and_self, if_true]
    rfl
  obtain ⟨k, hk⟩ := Package.exists_count_eq (s.modDir loc.num (awaiting (otherSharers s p.die loc.num)))
    (otherSharers s p.die loc.num).length c.tid loc.die 11
  rw [hk] at hat
  refine ⟨_, ?_, ?_, hat⟩
  · split <;> exact ⟨rfl, rfl, rfl⟩
  · split <;> rfl

end

/-! ### The way there (R160, R162, R165, R169, R171, R175, R202) -/

/-- The package once a request has arrived at its home: its port keeps its leaf, and its tenant may have been cut (R94, R202). -/
def arrived (s : State) (ps : List Port) (bs : List Budget) : State := { s with ports := ps, budgets := bs }

section
variable {s : State} {p : Port} {r : Req} {c : Ctx} {td : Nat} {l : Leaf}

theorem exec_homeRequest (hreq : PortReq s p r) (hup : s.uncoreStopped = false) (htry : r.status.tries = true)
    (hturn : s.inTurn p r = true) : exec .homeRequest s = .next (s.goHome p r) := by
  obtain ⟨hp, hr⟩ := hreq
  change execHomeRequest s = _
  unfold execHomeRequest
  simp [hp, hr, hup, htry, hturn]

theorem goHome_withLeaf (hc : s.ctx? p.ctx = some c) (hpkg : vaPkg r.va = s.pkgNo) (hcode : deadCode r.va = false)
    (hdie : c.xlatDie r.va = some td) (hl : r.leaf = some l) : s.goHome p r = s.withLeaf p r c td l := by
  unfold State.goHome
  simp [hc, hpkg, hcode, hdie, hl]

/-- A request that no copy on its own die answers, and that nothing on its way holds up, arrives at its home. -/
theorem goHome_homed (h : Homed s p r c td l) (hnear : l.chk = false → s.nearHit p r = none)
    (hrrc : l.chk = false → s.rrcHit p r = none) (hdirty : r.op.writes = true → l.d = true) :
    ∃ ps bs, s.goHome p r = (arrived s ps bs).atHome p r c td l (l.loc c.tid r.va) ∧ Stands (arrived s ps bs) p.id r.id := by
  obtain ⟨hreq, hup, htry, hturn, hc, hpkg, hcode, hdie, hl, hmay, hhome, hway, howner, hroom⟩ := h
  have hn : (if l.chk then none else s.nearHit p r) = none := by
    cases hchk : l.chk with
    | true => rfl
    | false => exact hnear hchk
  have hx : (if l.chk then none else s.rrcHit p r) = none := by
    cases hchk : l.chk with
    | true => rfl
    | false => exact hrrc hchk
  have hd : (if r.op.writes then s.setDirty c td r.va l else (some l, s)) = (some l, s) := by
    cases hw : r.op.writes with
    | true => exact if_pos (hdirty hw)
    | false => rfl
  have hpath : (decide (td < 4) && decide ((l.loc c.tid r.va).die < 4) && decide ((l.loc c.tid r.va).die ≠ td) &&
      !(s.keepLeaf p r (some l)).pathUp td (l.loc c.tid r.va).die) = false := by
    have hsame : (s.keepLeaf p r (some l)).pathUp td (l.loc c.tid r.va).die = s.pathUp td (l.loc c.tid r.va).die := rfl
    rw [hsame]
    obtain rfl | hge | hpath := hway
    · simp
    · simp [Nat.not_lt.mpr hge]
    · simp [hpath]
  have hown : (s.keepLeaf p r (some l)).ownerOk (l.loc c.tid r.va) c.tid = true := howner
  have hfree := (queueFull_keepLeaf (s := s) (p := p) (some l) (l.loc c.tid r.va).die (vaSlice r.va)).trans hroom
  refine ⟨(s.keepLeaf p r (some l)).ports, ((s.keepLeaf p r (some l)).publish p r c (l.loc c.tid r.va).die).budgets,
    (goHome_withLeaf hc hpkg hcode hdie hl).trans ?_,
    stands_modReq (f := fun r => { r with leaf := some l }) (fun _ => rfl) (stands_of_portReq hreq)⟩
  unfold State.withLeaf
  rw [hmay, hn, hx, hd]
  simp only [Bool.not_true, Bool.false_eq_true, if_false, hpath, hown, hfree, Bool.and_false]
  rw [if_pos hhome, publish_only]
  rfl

/-- A request of a Homed port leads where its home takes it. -/
theorem leads_homed {P : State → Prop} (h : Homed s p r c td l) (hnear : l.chk = false → s.nearHit p r = none)
    (hrrc : l.chk = false → s.rrcHit p r = none) (hdirty : r.op.writes = true → l.d = true)
    (hP : ∀ ps bs, Stands (arrived s ps bs) p.id r.id → P ((arrived s ps bs).atHome p r c td l (l.loc c.tid r.va))) :
    Leads .homeRequest s P := by
  obtain ⟨ps, bs, hgo, hs⟩ := goHome_homed h hnear hrrc hdirty
  exact ⟨_, (exec_homeRequest h.req h.up h.tries h.turn).trans (congrArg _ hgo), hP ps bs hs⟩

/-- Only a load is answered by a copy on its own die. -/
theorem no_copy_of_writes (hw : r.op.writes = true) : s.nearHit p r = none ∧ s.rrcHit p r = none := by
  unfold State.nearHit State.rrcHit
  cases hop : r.op with
  | load _ => simp [hop, ReqOp.writes] at hw
  | _ => exact ⟨rfl, rfl⟩

end

end Sys2Proof.Proofs.Homes
end

section
/-! What becomes of a request that is refused, walks or is answered on its own die, and of waits, walks and invalidations (R160 to R171,
R187, R189, R198 to R201, R373). -/

namespace Sys2Proof.Proofs.Homes

open Sys2Proof Sys2Proof.Machine Sys2Proof.Claims

/-! ### Refused, looked up, or answered on its die (R44, R160, R167, R171) -/

section
variable {s : State} {p : Port} {r : Req} {c : Ctx} {td : Nat} {l : Leaf}

/-- An address that no die translates is refused. -/
theorem goHome_unmapped (hc : s.ctx? p.ctx = some c) (hpkg : vaPkg r.va = s.pkgNo) (hdie : c.xlatDie r.va = none) (hop : r.op ≠ .pref) :
    s.goHome p r = s.setStatus p r (.refused r.op.faultCause) := by
  unfold State.goHome
  simp [hc, hpkg, hdie, refuse_of_not_pref _ hop]

theorem spanPortFor_zero (line : Nat) : spanPortFor 0#16 line = none := by
  simp [spanPortFor, maskPorts]

/-- An address of a package without a route is refused with LINK_POISON. -/
theorem goHome_unrouted (hc : s.ctx? p.ctx = some c) (hpkg : vaPkg r.va ≠ s.pkgNo) (hcode : deadCode r.va = false)
    (hroute : s.routes[vaPkg r.va]? = some 0) (hop : r.op ≠ .pref) : s.goHome p r = s.setStatus p r (.refused cLinkPoison) := by
  unfold State.goHome State.goAbroad
  simp [hc, hpkg, hcode, hroute, spanPortFor_zero, refuse_of_not_pref _ hop]

theorem tlbGet_fst (die slice va : Nat) : (s.tlbGet die slice c va).1 =
    s.tlb.find? (fun t => t.die = die && t.slice = slice && t.maps c.vmid c.asid va) := by
  unfold State.tlbGet
  split
  case h_1 t ht => exact ht.symm
  case h_2 ht => exact ht.symm

theorem ports_tlbGet (die slice va : Nat) : (s.tlbGet die slice c va).2.ports = s.ports := by
  unfold State.tlbGet
  split <;> rfl

theorem tlb_count (tid die ev n : Nat) : (s.count tid die ev n).tlb = s.tlb := by
  obtain ⟨k, hk⟩ := Package.exists_count_eq s n tid die ev
  rw [hk]

/-- What a look-up finds, level by level (R167). -/
theorem lookup_fst (die va : Nat) : (s.lookup c die va).1 =
    (if die = cdDie then (s.tlbGet die cdSlice c va).1
      else (s.tlbGet die (vaSlice va) c va).1.or (s.tlbGet die l2Slice c va).1).map TlbEntry.leaf := by
  have hsecond : ((s.count c.tid die 4 1).tlbGet die l2Slice c va).1 = (s.tlbGet die l2Slice c va).1 := by
    rw [tlbGet_fst, tlbGet_fst, tlb_count]
  unfold State.lookup
  by_cases hcd : die = cdDie
  · rw [if_pos hcd, if_pos hcd]
  · rw [if_neg hcd, if_neg hcd, ← hsecond]
    rcases s.tlbGet die (vaSlice va) c va with ⟨_ | t, u⟩
    · dsimp only
      rcases (s.count c.tid die 4 1).tlbGet die l2Slice c va with ⟨_ | t, v⟩ <;> rfl
    · rfl

theorem lookup_fst_congr {u : State} (h : u.tlb = s.tlb) (die va : Nat) : (u.lookup c die va).1 = (s.lookup c die va).1 := by
  simp only [lookup_fst, tlbGet_fst, h]

theorem ports_lookup (die va : Nat) : (s.lookup c die va).2.ports = s.ports := by
  have hfirst := ports_tlbGet (s := s) (c := c) die (vaSlice va) va
  have hcount : (s.count c.tid die 4 1).ports = s.ports := (quiet_count s _ _ _ _).ports
  have hsecond := ports_tlbGet (s := s.count c.tid die 4 1) (c := c) die l2Slice va
  unfold State.lookup
  by_cases hcd : die = cdDie
  · rw [if_pos hcd]
    exact ports_tlbGet die cdSlice va
  · rw [if_neg hcd]
    rcases hget : s.tlbGet die (vaSlice va) c va with ⟨_ | t, u⟩
    · dsimp only
      rcases h : (s.count c.tid die 4 1).tlbGet die l2Slice c va with ⟨_ | t, v⟩
      · exact hcount
      · rw [h] at hsecond
        exact hsecond.trans hcount
    · rw [hget] at hfirst
      exact hfirst

/-- A request without a translation waits for a walk. -/
theorem goHome_miss (hc : s.ctx? p.ctx = some c) (hpkg : vaPkg r.va = s.pkgNo) (hcode : deadCode r.va = false)
    (hdie : c.xlatDie r.va = some td) (hl : r.leaf = none) (hpath : s.pathUp p.die td = true)
    (hfree : td < 4 → s.queueFull td (vaSlice r.va) r.id = false) (hmiss : (s.lookup c td r.va).1 = none) :
    ∃ u : State, u.ports = s.ports ∧ s.goHome p r = u.setStatus p r .miss := by
  have hfull : (decide (td < 4) && s.queueFull td (vaSlice r.va) r.id) = false := by
    by_cases htd : td < 4
    · simp [hfree htd]
    · simp [htd]
  have hkeep : (if td < 4 then s.publish p r c td else s).tlb = s.tlb ∧ (if td < 4 then s.publish p r c td else s).ports = s.ports := by
    split
    · rw [publish_only]
      exact ⟨rfl, rfl⟩
    · exact ⟨rfl, rfl⟩
  have hnone := (lookup_fst_congr hkeep.1 td r.va).trans hmiss
  have hports := (ports_lookup (c := c) (s := if td < 4 then s.publish p r c td else s) td r.va).trans hkeep.2
  unfold State.goHome
  simp only [hc, hpkg, hcode, hdie, hl, hpath, hfull, Bool.not_true, Bool.false_eq_true, if_false, ne_eq, not_true_eq_false]
  rcases h : (if td < 4 then s.publish p r c td else s).lookup c td r.va with ⟨_ | k, u⟩
  · rw [h] at hports
    exact ⟨u, hports, rfl⟩
  · rw [h] at hnone
    exact (Option.some_ne_none _ hnone).elim

theorem exists_fromNear_eq (n : NearLine) : ∃ u, Quiet s u ∧ s.fromNear p r n = u.answerHere p r n.data n.poison := by
  unfold State.fromNear
  refine ⟨_, ?_, rfl⟩
  refine Quiet.trans ?_ (quiet_count _ _ _ _ _)
  exact ⟨rfl, rfl, rfl⟩

theorem answerHere_clean (v : Line) : s.answerHere p r v false =
    s.modReq p.id r.id (fun r => { r with status := .done v none, ownDie := true }) := rfl

/-- A load that a near cache answers takes the line as the near cache holds it (R171). -/
theorem withLeaf_nearHit {n : NearLine} (hmay : l.permits r.op = true) (hchk : l.chk = false) (hn : s.nearHit p r = some n)
    (hpoison : n.poison = false) (hs : Stands s p.id r.id) : statusIn (s.withLeaf p r c td l) p r.id = some (.done n.data none) ∧
      (s.withLeaf p r c td l).l2 = s.l2 ∧ (s.withLeaf p r c td l).mem = s.mem := by
  obtain ⟨u, hu, hnear⟩ := exists_fromNear_eq (s := s) (p := p) (r := r) n
  have hleaf : s.withLeaf p r c td l = s.fromNear p r n := by
    unfold State.withLeaf
    rw [hmay, hchk, hn]
    rfl
  rw [hleaf, hnear, hpoison, answerHere_clean]
  exact ⟨statusIn_modReq (fun _ => rfl) (fun _ => rfl) (hu.stands hs), hu.l2, hu.mem⟩

end

/-! ### Walks and waits (R168, R187, R189, R198) -/

section
variable {s : State} {p : Port} {r : Req} {c : Ctx} {td : Nat}

theorem walkFor_ok {s1 : State} {l : Leaf} (h : s.walk c td r.va = (.ok l, s1)) (n : Nat) :
    s.walkFor p r c td n = s1.setStatus p r (.walking (s.seqs c).1 (s.seqs c).2 n l) := by
  unfold State.walkFor
  rw [h]

theorem walkFor_error {s1 : State} {e : Nat} (h : s.walk c td r.va = (.error e, s1)) (n : Nat) :
    s.walkFor p r c td n = s1.refuse p r (walkCause e r.op.faultCause) := by
  unfold State.walkFor
  rw [h]

/-- A walk's first move. -/
theorem exec_walk_miss (hreq : PortReq s p r) (hst : r.status = .miss) (hc : s.ctx? p.ctx = some c) (hdie : c.xlatDie r.va = some td)
    (hup : s.uncoreStopped = false) : exec .walk s = .next (s.walkFor p r c td 0) := by
  obtain ⟨hp, hr⟩ := hreq
  change execWalk s = _
  unfold execWalk
  simp [hp, hr, hst, hc, hdie, hup]

/-- A walk's second move. -/
theorem exec_walk_walking {a b n : Nat} {l : Leaf} (hreq : PortReq s p r) (hst : r.status = .walking a b n l)
    (hc : s.ctx? p.ctx = some c) (hdie : c.xlatDie r.va = some td) (hup : s.uncoreStopped = false) :
    exec .walk s = if s.seqs c ≠ (a, b) then .next (s.walkFor p r c td (n + 1))
      else if s.installBlocked c r.va l then .next s else .next ((s.install c td r.va l).setStatus p r .sent) := by
  obtain ⟨hp, hr⟩ := hreq
  change execWalk s = _
  unfold execWalk
  simp only [hp, hr, hst, hc, hdie, hup, Bool.false_eq_true, if_false]

/-- A race or saturation wait of 65,536 fabric cycles ends as a conflict. -/
theorem exec_raceSaturationTimeout {n : Nat} (hreq : PortReq s p r) (hst : r.status = .satWait n ∨ r.status = .raceWait n)
    (hlate : n + 65536 ≤ s.fabric) : exec .raceSaturationTimeout s = .next (s.setStatus p r (.conflict ⟨9, 0, true⟩)) := by
  obtain ⟨hp, hr⟩ := hreq
  change execRaceSaturationTimeout s = _
  unfold execRaceSaturationTimeout
  obtain hst | hst := hst
  · simp [hp, hr, hst, hlate, cMmSaturated]
  · simp [hp, hr, hst, hlate, cMmSaturated]

theorem exec_saturationWaitEnd {n : Nat} (hreq : PortReq s p r) (hst : r.status = .satWait n) (hup : s.uncoreStopped = false) :
    exec .saturationWaitEnd s = .next (s.goHome p r) := by
  obtain ⟨hp, hr⟩ := hreq
  change execSaturationWaitEnd s = _
  unfold execSaturationWaitEnd
  simp [hp, hr, hst, hup]

end

/-! ### Back-invalidations (R50, R170) -/

section
variable {s : State} {pa sharer : Nat} {d : DirEntry}

/-- A directory entry once a sharer has acknowledged. -/
def without (sharer : Nat) (d : DirEntry) : DirEntry :=
  { d with sharers := d.sharers.filter (fun x => x ≠ sharer), waiting := d.waiting.filter (fun x => x ≠ sharer) }

theorem exec_backInvalidationAck (hd : s.dir? s.focus.addr = some d) (hw : s.focus.die ∈ d.waiting) :
    exec .backInvalidationAck s = .next (s.dropSharer s.focus.addr s.focus.die) := by
  change execBackInvalidationAck s = _
  unfold execBackInvalidationAck
  simp [hd, hw]

/-- With its last sharer an entry goes. -/
theorem dir?_dropSharer_last (hlast : ∀ x ∈ d.sharers, x = sharer) (hone : ∀ e ∈ s.dir, e.pa = pa → e = d) :
    (s.dropSharer pa sharer).dir? pa = none := by
  have hempty : (without sharer d).sharers = [] := by simpa [without] using hlast
  refine List.find?_eq_none.mpr fun x hx => ?_
  obtain ⟨hmem, hkeep⟩ := List.mem_filter.mp hx
  obtain ⟨e, he, rfl⟩ := List.mem_map.mp hmem
  by_cases hpa : e.pa = pa
  · change (!(if decide (e.pa = pa) = true then without sharer e else e).sharers.isEmpty) = true at hkeep
    rw [if_pos (by simpa using hpa), hone e he hpa, hempty] at hkeep
    exact absurd hkeep (by decide)
  · simp [hpa]

/-- With other sharers left, an entry loses the one that has acknowledged. -/
theorem dir?_dropSharer (hd : s.dir? pa = some d) (hmore : ∃ x ∈ d.sharers, x ≠ sharer) :
    (s.dropSharer pa sharer).dir? pa = some (without sharer d) := by
  obtain ⟨x, hx, hne⟩ := hmore
  refine dir?_modDir (s := { s with rrc := _ }) (f := without sharer) (fun _ => rfl) hd ?_
  exact List.ne_nil_of_mem (List.mem_filter.mpr ⟨hx, by simpa using hne⟩)

end

/-! ### Invalidations (R86, R156, R168, R199, R201, R373) -/

section
variable {s : State} {v : Inval}

/-- Whether an invalidation's range, or its stage 2, covers a line of a fetch slot. -/
def pinHit (v : Inval) (va : Nat) : Bool := v.stage2 || (v.base ≤ va && va < v.base + v.size)

/-- An L2 line without the pins of a port that an invalidation drops. -/
def unpinned (v : Inval) (port : Nat) (l : L2Line) : L2Line :=
  { l with pins := l.pins.filter (fun q => !(q.1 = port && pinHit v (q.2 / 8))) }

theorem exists_foldl_modFs_eq (port : Nat) (f : FetchSlot → FetchSlot) (ks : List Nat) (s : State) :
    ∃ ps, ks.foldl (fun (s : State) k => s.modFs port k f) s = { s with ports := ps } := by
  induction ks generalizing s with
  | nil => exact ⟨_, rfl⟩
  | cons k ks ih =>
    obtain ⟨ps, h⟩ := ih (s.modFs port k f)
    exact ⟨ps, h⟩

/-- Dropping a port's pins changes the pins and the port's fetch slots only. -/
theorem exists_dropPins_eq (s : State) (v : Inval) (p : Port) : ∃ ps, s.dropPins v.base v.size v.stage2 p =
    { s with l2 := s.l2.map (unpinned v p.id), ports := ps } :=
  exists_foldl_modFs_eq p.id _ (List.range 8) { s with l2 := s.l2.map (unpinned v p.id) }

/-- An invalidation once the home slices have acknowledged a port's baton. -/
def acknowledged (port : Nat) (w : Inval) : Inval := { w with ports := w.ports.filter (fun x => x.1 ≠ port) }

theorem pins_unpinned {port : Nat} {l : L2Line} {q : Nat × Nat} (hq : q ∈ (unpinned v port l).pins) (hport : q.1 = port) :
    v.stage2 = false ∧ ¬(v.base ≤ q.2 / 8 ∧ q.2 / 8 < v.base + v.size) := by
  have hmiss := (List.mem_filter.mp hq).2
  simp only [hport, pinHit, decide_true, Bool.true_and, Bool.not_eq_true', Bool.or_eq_false_iff, Bool.and_eq_false_iff,
    decide_eq_false_iff_not] at hmiss
  exact ⟨hmiss.1, not_and_or.mpr hmiss.2⟩

/-- A port's baton is acknowledged once nothing that it waits for is outstanding. -/
theorem exec_invalidationBatonAck (hv : s.invals.find? (fun v => v.id = s.focus.req) = some v) (hdone : s.batonWaits v s.focus.port = []) :
    ∃ ls ps, exec .invalidationBatonAck s = .next { s with
        invals := updWhere (fun w => w.id = v.id) (acknowledged s.focus.port) s.invals, l2 := ls, ports := ps } ∧
      ∀ p, s.port? s.focus.port = some p → ls = s.l2.map (unpinned v p.id) := by
  change ∃ ls ps, execInvalidationBatonAck s = _ ∧ _
  unfold execInvalidationBatonAck
  simp only [hv, hdone, List.isEmpty_nil, if_true]
  cases hp : s.port? s.focus.port with
  | none => exact ⟨s.l2, s.ports, rfl, fun _ h => (Option.some_ne_none _ h.symm).elim⟩
  | some p =>
    obtain ⟨ps, hps⟩ := exists_dropPins_eq s v p
    refine ⟨s.l2.map (unpinned v p.id), ps, ?_, fun q hq => by rw [Option.some.inj hq]⟩
    dsimp only
    rw [hps]
    rfl

theorem find?_acknowledged (hv : s.invals.find? (fun v => v.id = s.focus.req) = some v) (port : Nat) :
    (updWhere (fun w => w.id = v.id) (acknowledged port) s.invals).find? (fun v => v.id = s.focus.req) =
      some (acknowledged port v) := by
  have hid : v.id = s.focus.req := by simpa using List.find?_some hv
  rw [hid]
  exact (find?_updWhere (fun w : Inval => w.id = s.focus.req) (acknowledged port) (fun _ h => h) s.invals).trans (congrArg _ hv)

/-- Advancing sequences one after another advances each as often as it is named. -/
theorem lookupD_foldl_bump (ks : List Nat) (l : List (Nat × Nat)) (k : Nat) :
    lookupD (ks.foldl bump l) k 0 = lookupD l k 0 + ks.count k := by
  induction ks generalizing l with
  | nil => rfl
  | cons j ks ih =>
    rw [List.foldl_cons, ih]
    unfold bump
    by_cases hj : k = j
    · rw [hj, Budgets.lookupD_insertKV, List.count_cons_self]
      omega
    · rw [Budgets.lookupD_insertKV_other _ _ _ hj, List.count_cons_of_ne (Ne.symm hj)]

theorem lookupD_bump (l : List (Nat × Nat)) (k : Nat) : lookupD (bump l k) k 0 = lookupD l k 0 + 1 :=
  Budgets.lookupD_insertKV _ _ _ _

/-- With every baton acknowledged and no packet waiting, the sequence advances and the invalidation ends. -/
theorem exec_invalidationAck (hv : s.invals.find? (fun v => v.id = s.focus.req) = some v) (hports : v.ports = [])
    (hpacket : v.packet = none) (hstarved : s.walkStarved v = false) : ∃ ps, exec .invalidationAck s = .next { s with
      invals := s.invals.filter (fun w => w.id ≠ v.id)
      s1seq := if v.stage2 then s.s1seq else ((s.namedCtxs v.vmid v.asid).map Ctx.asid).dedup.foldl bump s.s1seq
      s2seq := if v.stage2 then bump s.s2seq v.vmid else s.s2seq
      ports := ps } := by
  change ∃ ps, execInvalidationAck s = _
  unfold execInvalidationAck
  simp only [hv, hports, hpacket, hstarved, List.isEmpty_nil, Bool.not_true, Bool.or_self, Bool.false_eq_true, if_false]
  cases v.stage2 with
  | true => exact ⟨_, rfl⟩
  | false => exact ⟨_, rfl⟩

theorem exec_invalidationAck_starved (hv : s.invals.find? (fun v => v.id = s.focus.req) = some v) (hstarved : s.walkStarved v = true) :
    exec .invalidationAck s = .next s := by
  change execInvalidationAck s = _
  unfold execInvalidationAck
  simp [hv, hstarved]

end

end Sys2Proof.Proofs.Homes
end

section
/-! The host's requests (R49, R50, R170), and the statement about requests at their homes. -/

namespace Sys2Proof.Proofs.Homes

open Sys2Proof Sys2Proof.Machine Sys2Proof.Claims

/-! ### The bytes that a mask selects -/

/-- A number is packed from its own lanes, up to what they cover. -/
theorem packDigits_bitsOf (w n x : Nat) : packDigits w ((List.range n).map (fun i => bitsOf x (w * i) w)) = x % 2 ^ (w * n) := by
  induction n generalizing x with
  | zero => simp [packDigits, Nat.mod_one]
  | succ n ih =>
    have hlane (i : Nat) : bitsOf x (w * (i + 1)) w = bitsOf (x >>> w) (w * i) w := by
      unfold bitsOf
      rw [Nat.mul_succ, Nat.add_comm, Nat.shiftRight_add]
    have htail : (List.range n).map ((fun i => bitsOf x (w * i) w) ∘ Nat.succ) =
        (List.range n).map (fun i => bitsOf (x >>> w) (w * i) w) := List.map_congr_left fun i _ => hlane i
    rw [List.range_succ_eq_map, List.map_cons, List.map_map, htail, packDigits, ih, Nat.shiftRight_eq_div_pow, Nat.mul_succ,
      Nat.add_comm (w * n) w, Nat.pow_add, Nat.mod_mul]
    simp [bitsOf]

/-- A mask of every byte takes the whole line. -/
theorem maskLine_allOnes (new old : Line) : maskLine (BitVec.allOnes 64) new old = new := by
  have hbit (i : Nat) (hi : i ∈ List.range 64) : (if (BitVec.allOnes 64).toNat.testBit i then bitsOf new.toNat (8 * i) 8
      else bitsOf old.toNat (8 * i) 8) = bitsOf new.toNat (8 * i) 8 := by
    rw [if_pos]
    rw [BitVec.testBit_toNat, BitVec.getLsbD_allOnes]
    simpa using hi
  unfold maskLine
  rw [List.map_congr_left hbit, packDigits_bitsOf, Nat.mod_eq_of_lt new.isLt, BitVec.ofNat_toNat, BitVec.setWidth_eq]

/-! ### What a host request leaves alone (R50, R68, R170) -/

/-- The ports and the leases are as they were. -/
structure Aloof (s t : State) : Prop where
  ports : t.ports = s.ports
  leases : t.leases = s.leases

theorem Aloof.trans {s t u : State} (h : Aloof s t) (h' : Aloof t u) : Aloof s u :=
  ⟨h'.ports.trans h.ports, h'.leases.trans h.leases⟩

section
variable (s : State) (loc : Loc) (pa : Nat) (origin : Word)

theorem aloof_modL2 (die : Nat) (key : LineKey) (f : L2Line → L2Line) : Aloof s (s.modL2 die key f) := by
  unfold State.modL2
  exact ⟨rfl, rfl⟩

theorem aloof_putMem (v : Line) (poison : Bool) : Aloof s (s.putMem pa v poison) := by
  unfold State.putMem
  exact ⟨rfl, rfl⟩

theorem aloof_bared (t : BitVec 32) : Aloof s (s.bared pa t) := by
  unfold State.bared
  exact ⟨rfl, rfl⟩

theorem aloof_sealUnder (k : List Byte) : Aloof s (s.sealUnder pa k) := by
  unfold State.sealUnder
  exact ⟨rfl, rfl⟩

theorem aloof_underSlot : Aloof s (s.underSlot pa loc origin) := by
  unfold State.underSlot
  refine iteInduction (motive := Aloof s) (fun _ => ⟨rfl, rfl⟩) (fun _ => ?_)
  refine iteInduction (motive := Aloof s) (fun _ => (aloof_putMem s pa _ _).trans (aloof_bared _ pa _)) (fun _ => ?_)
  exact iteInduction (motive := Aloof s) (fun _ => (aloof_putMem s pa _ _).trans (aloof_sealUnder _ pa _))
    (fun _ => aloof_putMem s pa _ _)

theorem aloof_settleCode : Aloof s (s.settleCode loc origin) := by
  have hmarks (e t : List Nat) : Aloof s { s with eccFailed := e, tagFailed := t } := ⟨rfl, rfl⟩
  unfold State.settleCode
  refine iteInduction (motive := Aloof s) (fun _ => (hmarks _ _).trans (aloof_modL2 _ _ _ _)) (fun _ => ?_)
  cases loc.key with
  | unb _ _ => exact ⟨rfl, rfl⟩
  | frame pa =>
    refine iteInduction (motive := Aloof s) (fun _ => (hmarks _ _).trans (aloof_putMem _ _ _ _)) (fun _ => ?_)
    refine iteInduction (motive := Aloof s) (fun _ => ⟨rfl, rfl⟩) (fun _ => ?_)
    exact iteInduction (motive := Aloof s) (fun _ => (hmarks _ _).trans (aloof_putMem _ _ _ _))
      (fun _ => aloof_underSlot s loc pa origin)

theorem aloof_putLine (v : Line) (poison : Bool) : Aloof s (s.putLine loc v poison) := by
  have hseal : Aloof s (s.sealLine loc) := by
    rw [sealLine_only]
    exact ⟨rfl, rfl⟩
  unfold State.putLine
  dsimp only
  split
  · exact hseal.trans (aloof_modL2 _ _ _ _)
  · split
    · exact hseal.trans (aloof_putMem _ _ _ _)
    · exact hseal.trans ⟨rfl, rfl⟩

/-- The package once a copy has been recorded, whether the sharer found a place or not (R170). -/
def recorded (x : Option State × State) : State := x.1.getD x.2

theorem leases_share (tid die sharer : Nat) : (recorded (s.share tid die pa sharer)).leases = s.leases := by
  have hcount (t : State) (n : Nat) : (t.count tid die 11 n).leases = t.leases := by
    obtain ⟨k, hk⟩ := Package.exists_count_eq t n tid die 11
    rw [hk]
  unfold State.share
  split
  · split <;> rfl
  · dsimp only
    split
    · rfl
    · split
      · split
        · exact hcount _ _
        · rfl
      · rfl

theorem aloof_share (tid die sharer : Nat) : Aloof s (recorded (s.share tid die pa sharer)) := by
  refine ⟨?_, leases_share s pa tid die sharer⟩
  obtain ⟨hsome, hnone⟩ := quiet_share s tid die pa sharer
  cases h : (s.share tid die pa sharer).1 with
  | none => simpa [recorded, h] using hnone.ports
  | some u => simpa [recorded, h] using (hsome u h).ports

end

/-! ### Requests of the host (R49, R50) -/

section
variable {s : State} {pa : Nat} {d : BitVec 512} {m : BitVec 64}

theorem hostFrame_iff : s.hostFrame pa = true ↔ (s.inHdm pa = true ∧ s.validPa pa = true ∧ (locOf pa).kind = .hbm ∧
    s.dieUp (locOf pa).die = true ∧ (s.owner pa).toNat.testBit 15 = true ∧ (s.owner pa).toNat.testBit 14 = true) := by
  unfold State.hostFrame
  simp only [Bool.and_eq_true, decide_eq_true_eq, and_assoc]

/-- A frame that the host may not reach gives poison, and takes no write. -/
theorem exec_host_barred (hup : s.uncoreStopped = false) (hbar : s.hostFrame pa = false) :
    exec (.hostCxlMemRequest pa false d m) s = .next { s with hostReply := ⟨1, [0]⟩ } ∧
      exec (.hostCxlMemRequest pa true d m) s = .next (s.logError 50) := by
  constructor
  · change execHostCxlMemRequest pa false d m s = _
    simp [execHostCxlMemRequest, hup, hbar]
  · change execHostCxlMemRequest pa true d m s = _
    simp [execHostCxlMemRequest, hup, hbar]

/-- The package once the host has written a line: a poisoned line takes a write of all its bytes only. -/
def hostWritten (s : State) (pa : Nat) (d : BitVec 512) (m : BitVec 64) : State :=
  if (s.getLine (locOf pa)).2 && m ≠ BitVec.allOnes 64 then s
  else s.putLine (locOf pa) (maskLine m d (s.getLine (locOf pa)).1) false

theorem aloof_hostWritten : Aloof s (hostWritten s pa d m) := by
  unfold hostWritten
  split
  · exact ⟨rfl, rfl⟩
  · exact aloof_putLine s _ _ _

theorem exec_host_write (hup : s.uncoreStopped = false) (hopen : s.hostFrame pa = true)
    (hun : ∀ e, s.dir? (lineOf pa) = some e → ∀ x ∈ e.sharers, x = 8) : exec (.hostCxlMemRequest pa true d m) s =
      .next { hostWritten (s.settleCode (locOf pa) 0) pa d m with hostReply := ⟨0, []⟩ } := by
  change execHostCxlMemRequest pa true d m s = _
  unfold execHostCxlMemRequest
  rw [hup, hopen]
  change (if (otherSharers s 8 (lineOf pa)).isEmpty then _ else _) = _
  rw [otherSharers_eq_nil hun]
  rfl

/-- A write to a line that others share waits while they are back-invalidated. -/
theorem exec_host_write_shared (hup : s.uncoreStopped = false) (hopen : s.hostFrame pa = true)
    (hother : otherSharers s 8 (lineOf pa) ≠ []) : exec (.hostCxlMemRequest pa true d m) s =
      .next (s.modDir (lineOf pa) (awaiting (otherSharers s 8 (lineOf pa)))) := by
  have hsome : (otherSharers s 8 (lineOf pa)).isEmpty = false := by simpa using hother
  change execHostCxlMemRequest pa true d m s = _
  unfold execHostCxlMemRequest
  rw [hup, hopen]
  change (if (otherSharers s 8 (lineOf pa)).isEmpty then _ else _) = _
  rw [hsome]
  rfl

theorem exec_host_read (hup : s.uncoreStopped = false) (hopen : s.hostFrame pa = true) : exec (.hostCxlMemRequest pa false d m) s =
    .next { recorded ((s.settleCode (locOf pa) 0).share 0 (locOf pa).die (lineOf pa) 8) with
      hostReply := ⟨if ((s.settleCode (locOf pa) 0).getLine (locOf pa)).2 then 1 else 0,
        [((s.settleCode (locOf pa) 0).getLine (locOf pa)).1.setWidth 1280]⟩ } := by
  change execHostCxlMemRequest pa false d m s = _
  unfold execHostCxlMemRequest recorded
  rw [hup, hopen]
  dsimp only
  rcases (s.settleCode (locOf pa) 0).share 0 (locOf pa).die (lineOf pa) 8 with ⟨_ | u, t⟩ <;> rfl

/-- A resident line takes a write of the host of all its bytes. -/
theorem l2?_hostWritten {x : L2Line} (hx : s.l2? (locOf pa).die (locOf pa).key = some x) :
    (hostWritten s pa d (BitVec.allOnes 64)).l2? (locOf pa).die (locOf pa).key = some (rewritten d false x) := by
  unfold hostWritten
  simp only [ne_eq, not_true_eq_false, decide_false, Bool.and_false, Bool.false_eq_true, if_false, maskLine_allOnes]
  exact l2?_putLine hx d false

end

end Sys2Proof.Proofs.Homes
end

section
/-! What each request at its home leads to (R169 to R171, R187, R188, R225), and the statement about requests, walks, invalidations and
the host. -/

namespace Sys2Proof.Proofs.Homes

open Sys2Proof Sys2Proof.Machine Sys2Proof.Claims

/-! ### Requests that arrive at their homes -/

section
variable {s : State} {p : Port} {r : Req} {c : Ctx} {td : Nat} {l : Leaf} {ro : Bool} {loc : Loc} {x : L2Line}

theorem deadCode_eq_false {va : Nat} (h5 : vaDc va ≠ 5) (h6 : vaDc va ≠ 6) : deadCode va = false := by
  simp [deadCode, h5, h6]

theorem load_not_writes (ho : r.op = .load ro) : r.op.writes = false := by
  rw [ho]
  rfl

theorem leads_load (h : Homed s p r c td l) (ho : r.op = .load ro) (hchk : l.chk = false) (hnear : s.nearHit p r = none)
    (hrrc : s.rrcHit p r = none) {P : State → Prop}
    (hP : ∀ ps bs, Stands (arrived s ps bs) p.id r.id → P ((arrived s ps bs).homeRead p r c l (l.loc c.tid r.va))) :
    Leads .homeRequest s P :=
  leads_homed h (fun _ => hnear) (fun _ => hrrc) (fun hw => by simp [load_not_writes ho] at hw) fun ps bs hs =>
    (atHome_load ho hchk).symm ▸ hP ps bs hs

/-- A load of a line that stands in its home's L2 reads it. -/
theorem leads_load_resident (h : Homed s p r c td l) (ho : r.op = .load ro) (hchk : l.chk = false) (hnear : s.nearHit p r = none)
    (hrrc : s.rrcHit p r = none) (hres : Resident s (l.loc c.tid r.va) x) : Leads .homeRequest s (fun t =>
      statusIn t p r.id = some (.done x.data (if x.poison then some (poisonErr x.data) else none)) ∧ t.l2 = s.l2 ∧ t.mem = s.mem) := by
  refine leads_load h ho hchk hnear hrrc fun ps bs hs => ?_
  obtain ⟨u, hu, hread⟩ := homeRead_resident (s := arrived s ps bs) (p := p) (c := c) (l := l) ho hres
  rw [hread]
  exact ⟨statusIn_setStatus _ (hu.stands hs), hu.l2, hu.mem⟩

/-- A load of a line that stands in plain in memory reads it from there. -/
theorem leads_load_cold {pa : Nat} (h : Homed s p r c td l) (ho : r.op = .load ro) (hchk : l.chk = false) (hnear : s.nearHit p r = none)
    (hrrc : s.rrcHit p r = none) (hloc : loc = l.loc c.tid r.va) (hkey : loc.key = .frame pa) (hkind : loc.kind = .hbm)
    (hslot : loc.slot = 0) (hseal : s.sealOf pa = none) (hcold : s.l2? loc.die loc.key = none) (hecc : loc.num ∉ s.eccFailed)
    (hroom : (s.setLines loc.die (paOff pa)).length < s.ways loc.die (sliceOf (paOff pa)))
    (hfix : s.fixedWays loc.die (paOff pa) < s.ways loc.die (sliceOf (paOff pa))) : Leads .homeRequest s (fun t =>
      statusIn t p r.id = some (.done (memLine s.mem pa) (if s.poisoned.contains pa then some (poisonErr (memLine s.mem pa)) else none)) ∧
      t.mem = s.mem) := by
  subst hloc
  refine leads_load h ho hchk hnear hrrc fun ps bs hs => ?_
  obtain ⟨u, hmem, hports, hread⟩ :=
    homeRead_cold (s := arrived s ps bs) (p := p) (c := c) (l := l) ho hkey hkind hslot hseal hcold hecc hroom hfix
  rw [hread]
  exact ⟨statusIn_setStatus _ (stands_of_ports hports hs), hmem⟩

/-- A checked load of a line that another party writes in the same region of time is a conflict. -/
theorem leads_load_conflict {g : RaceTag} (h : Homed s p r c td l) (ho : r.op = .load ro) (hchk : l.chk = true)
    (hloc : loc = l.loc c.tid r.va) (hg : s.tag? loc.die loc.num = some g) (hparty : g.wparty ≠ 0) (hother : g.wparty ≠ r.party)
    (hlive : s.stale g.wparty g.wsfr = false) (h0 : r.party ≠ 0) (hhost : r.party ≠ 0xFFFF) : Leads .homeRequest s (fun t =>
      statusIn t p r.id = some (.conflict ⟨8, g.wparty, false⟩) ∧ t.l2 = s.l2 ∧ t.mem = s.mem) := by
  subst hloc
  have hcopy (hno : l.chk = false) {q : Prop} : q := absurd (hchk.symm.trans hno) (by decide)
  refine leads_homed h (fun hno => hcopy hno) (fun hno => hcopy hno) (fun hw => by simp [load_not_writes ho] at hw) fun ps bs hs => ?_
  rw [atHome_load_conflict (s := arrived s ps bs) ho hchk hg hparty hother hlive h0 hhost]
  exact ⟨statusIn_setStatus _ hs, rfl, rfl⟩

theorem leads_write (h : Homed s p r c td l) (hw : r.op.writes = true) (ho : r.op ≠ .discard) (hchk : l.chk = false) (hd : l.d = true)
    (hloc : loc = l.loc c.tid r.va) (hun : Unshared s p loc.num) (hres : Resident s loc x) {P : State → Prop}
    (hP : ∀ ps bs, Stands (arrived s ps bs) p.id r.id → P ((arrived s ps bs).homeWrite p r c loc)) : Leads .homeRequest s P := by
  subst hloc
  refine leads_homed h (fun _ => (no_copy_of_writes hw).1) (fun _ => (no_copy_of_writes hw).2) (fun _ => hd) fun ps bs hs => ?_
  rw [atHome_write (s := arrived s ps bs) hw ho hchk hres hun]
  exact hP ps bs hs

/-- A write that its line does not bar changes that line and no other, and answers what the line was. -/
theorem leads_write_done (h : Homed s p r c td l) (hw : r.op.writes = true) (ho : r.op ≠ .discard) (hchk : l.chk = false)
    (hd : l.d = true) (hloc : loc = l.loc c.tid r.va) (hun : Unshared s p loc.num) (hres : Resident s loc x)
    (hbar : r.barred (x.data, x.poison) = false) : Leads .homeRequest s (fun t =>
      statusIn t p r.id = some (.done x.data none) ∧ OnlyLine s t loc ∧ t.l2? loc.die loc.key =
        some (rewritten (r.written (x.data, x.poison)).1 (r.written (x.data, x.poison)).2 x)) :=
  leads_write h hw ho hchk hd hloc hun hres fun ps bs hs => homeWrite_writes (s := arrived s ps bs) ho hres hbar hs

theorem written_of_clean (hclean : x.poison = false) (hp : r.poison = none) :
    r.barred (x.data, x.poison) = false ∧ r.written (x.data, x.poison) = (r.apply x.data, false) := by
  simp [Req.barred, Req.written, hclean, hp]

theorem written_of_poison {w : Word} (hp : r.poison = some w) :
    r.barred (x.data, x.poison) = false ∧ r.written (x.data, x.poison) = (poisonRecord w, true) := by
  simp [Req.barred, Req.written, hp]

/-- A write that does not cover a poisoned line whole leaves it as it is. -/
theorem leads_write_barred (h : Homed s p r c td l) (hw : r.op.writes = true) (ho : r.op ≠ .discard)
    (hpart : ¬(r.op = .store ∧ r.size = 64)) (hchk : l.chk = false) (hd : l.d = true)
    (hloc : loc = l.loc c.tid r.va) (hun : Unshared s p loc.num) (hres : Resident s loc x) (hpoison : x.poison = true)
    (hp : r.poison = none) : Leads .homeRequest s (fun t => t.l2 = s.l2 ∧ t.mem = s.mem) := by
  have hbar : r.barred (x.data, x.poison) = true := by simpa [Req.barred, hpoison, hp] using not_and_or.mp hpart
  exact leads_write h hw ho hchk hd hloc hun hres fun ps bs _ => homeWrite_barred (s := arrived s ps bs) ho hres hbar

/-- A write to a line that others share waits while they are back-invalidated. -/
theorem leads_write_shared {e : DirEntry} (h : Homed s p r c td l) (hw : r.op.writes = true) (hd : l.d = true)
    (hloc : loc = l.loc c.tid r.va) (hres : Resident s loc x) (he : s.dir? loc.num = some e) (hshared : ∃ q ∈ e.sharers, q ≠ p.die) :
    Leads .homeRequest s (fun t => statusIn t p r.id = some .backInv ∧ t.l2 = s.l2 ∧ t.mem = s.mem ∧
      ∀ q ∈ e.sharers, q ≠ p.die → ∃ f, t.dir? loc.num = some f ∧ q ∈ f.waiting) := by
  subst hloc
  obtain ⟨q0, hq0, hne0⟩ := hshared
  refine leads_homed h (fun _ => (no_copy_of_writes hw).1) (fun _ => (no_copy_of_writes hw).2) (fun _ => hd) fun ps bs hs => ?_
  obtain ⟨u, hu, hdir, hat⟩ := atHome_shared (s := arrived s ps bs) (p := p) (r := r) (c := c) (td := td) (l := l) hw hres
    (List.ne_nil_of_mem (mem_otherSharers he hq0 hne0))
  rw [hat]
  refine ⟨statusIn_setStatus _ (hu.stands hs), hu.l2, hu.mem, fun q hq hne => ?_⟩
  have hwait := waits_for_sharers (s := s) he (List.ne_nil_of_mem hq) (mem_otherSharers he hq hne)
  unfold State.dir? at hwait ⊢
  change ∃ f, u.dir.find? _ = some f ∧ _
  rw [hdir]
  exact hwait

end

/-! ### The statement -/

/-- What a write-class request makes of its line. -/
theorem apply_eq (r : Req) (v : Line) :
    (r.op = .store → r.apply v = lineSet v (r.va % 64) r.size (r.data.toNat % 2 ^ (8 * r.size))) ∧
    (∀ op, r.op = .reduce op ∨ r.op = .atomic op → r.apply v = lineSet v (r.va % 64) r.size (rmwValue op ((Ty.ofCode r.ty).getD .n64)
      (lineGet v (r.va % 64) r.size) (r.data.toNat % 2 ^ (8 * r.size)) (r.expected.toNat % 2 ^ (8 * r.size)))) := by
  unfold Req.apply
  refine ⟨fun h => ?_, fun op h => ?_⟩
  · rw [h]
  · obtain h | h := h
    · rw [h]
    · rw [h]

theorem refused_cause (r : Req) : r.op.faultCause = if r.op.loads then 1 else 2 := rfl

/-- Settles O57: a request in turn goes to its home along `goHome`, whose branches refuse it, have it walk, or take it to `homeRead` and
`homeWrite` there, over a package that differs in ports and budgets only; walks, waits, acknowledgements and the host's requests are one
move each. -/
theorem requestsAreTranslatedAndPerformed : Obligations.RequestsAreTranslatedAndPerformed := by
  unfold Obligations.RequestsAreTranslatedAndPerformed
  refine ⟨?turn, ?unmapped, ?unrouted, ?miss, ?near, ?load, ?cold, ?write, ?apply, ?poison, ?barred, ?shared, ?conflict, ?walk, ?install,
    ?timeout, ?waitEnd, ?lastSharer, ?sharer, ?baton, ?ack, ?starved, ?outside, ?closed, ?hostWrite, ?hostLine,
    ?hostShared, ?hostRead, ?frame⟩
  case turn => exact fun s p r hreq hup htry hturn => exec_homeRequest hreq hup htry hturn
  case unmapped =>
    intro s p r c hreq _ hc hpkg hdie hop
    rw [goHome_unmapped hc hpkg hdie hop, ← refused_cause]
    exact ⟨rfl, statusIn_setStatus _ (stands_of_portReq hreq)⟩
  case unrouted =>
    intro s p r c hreq hc hpkg h5 h6 hroute hop
    rw [goHome_unrouted hc hpkg (deadCode_eq_false h5 h6) hroute hop]
    exact statusIn_setStatus _ (stands_of_portReq hreq)
  case miss =>
    intro s p r c td hreq hup htry hturn hc hpkg hcode hdie hl hpath hfree hmiss
    obtain ⟨u, hu, hgo⟩ := goHome_miss hc hpkg hcode hdie hl hpath hfree hmiss
    exact ⟨_, (exec_homeRequest hreq hup htry hturn).trans (congrArg _ hgo),
      statusIn_setStatus _ (stands_of_ports hu (stands_of_portReq hreq))⟩
  case near =>
    intro s p r c td l n hreq hup htry hturn hc hpkg hcode hdie hl hmay hchk hn hpoison
    exact ⟨_, (exec_homeRequest hreq hup htry hturn).trans (congrArg _ (goHome_withLeaf hc hpkg hcode hdie hl)),
      withLeaf_nearHit hmay hchk hn hpoison (stands_of_portReq hreq)⟩
  case load => exact fun s p r c td l ro x h ho hchk hn hrrc hres => leads_load_resident h ho hchk hn hrrc hres
  case cold =>
    exact fun s p r c td l ro loc pa h ho hchk hn hrrc hloc hkey hkind hslot hseal hcold hecc hroom hfix =>
      leads_load_cold h ho hchk hn hrrc hloc hkey hkind hslot hseal hcold hecc hroom hfix
  case write =>
    intro s p r c td l loc x h hw ho hchk hd hloc hun hres hclean hp
    obtain ⟨hbar, hwritten⟩ := written_of_clean (r := r) hclean hp
    obtain ⟨t, ht, hst, honly, hl2⟩ := leads_write_done h hw ho hchk hd hloc hun hres hbar
    rw [hwritten] at hl2
    refine ⟨t, ht, hst, honly, hl2.trans ?_⟩
    rw [← hclean]
    rfl
  case apply => exact apply_eq
  case poison =>
    intro s p r c td l loc x w h ho hchk hd hloc hun hres hp
    obtain ⟨hbar, hwritten⟩ := written_of_poison (x := x) hp
    obtain ⟨t, ht, -, honly, hl2⟩ := leads_write_done h (by rw [ho]; rfl) (by simp [ho]) hchk hd hloc hun hres hbar
    rw [hwritten] at hl2
    exact ⟨t, ht, honly, hl2⟩
  case barred =>
    exact fun s p r c td l loc x h hw ho hpart hchk hd hloc hun hres hpoison hp =>
      leads_write_barred h hw ho hpart hchk hd hloc hun hres hpoison hp
  case shared =>
    exact fun s p r c td l loc x e h hw hd hloc hres he hshared => leads_write_shared h hw hd hloc hres he hshared
  case conflict =>
    exact fun s p r c td l loc ro g h ho hchk hloc hg hparty hother hlive h0 hhost =>
      leads_load_conflict h ho hchk hloc hg hparty hother hlive h0 hhost
  case walk =>
    intro s p r c td hreq hst hc hdie hup
    rw [exec_walk_miss hreq hst hc hdie hup]
    exact ⟨fun l s1 hwalk => congrArg _ (walkFor_ok hwalk 0), fun e s1 hwalk => congrArg _ (walkFor_error hwalk 0)⟩
  case install =>
    intro s p r c td a b n l hreq hst hc hdie hup
    rw [exec_walk_walking hreq hst hc hdie hup]
    refine ⟨fun hseq hfree => ?_, fun hseq hbar => ?_, fun k s1 hseq hwalk => ?_⟩
    · simp [hseq, hfree]
    · simp [hseq, hbar]
    · rw [if_pos hseq, walkFor_ok hwalk]
  case timeout =>
    exact fun s p r n hreq hst hlate =>
      ⟨_, exec_raceSaturationTimeout hreq hst hlate, statusIn_setStatus _ (stands_of_portReq hreq), rfl⟩
  case waitEnd => exact fun s p r n hreq hst hup => exec_saturationWaitEnd hreq hst hup
  case lastSharer =>
    exact fun s d hd hw hlast hone => ⟨_, exec_backInvalidationAck hd hw, dir?_dropSharer_last hlast hone, rfl⟩
  case sharer =>
    intro s d hd hw hmore
    refine ⟨_, exec_backInvalidationAck hd hw, ?_, ?_, rfl⟩
    · rw [dir?_dropSharer hd hmore]
      rfl
    · rw [dir?_dropSharer hd hmore]
      rfl
  case baton =>
    intro s v hv hdone
    obtain ⟨ls, ps, hexec, hpins⟩ := exec_invalidationBatonAck hv hdone
    refine ⟨_, hexec, ?_, fun p hp l hl q hq hport => ?_, rfl⟩
    · exact congrArg (Option.map Inval.ports) (find?_acknowledged hv s.focus.port)
    · rw [hpins p hp] at hl
      obtain ⟨k, -, rfl⟩ := List.mem_map.mp hl
      exact pins_unpinned hq hport
  case ack =>
    intro s v hv hports hpacket hstarved
    obtain ⟨ps, hexec⟩ := exec_invalidationAck hv hports hpacket hstarved
    refine ⟨_, hexec, fun w hw => by simpa using (List.mem_filter.mp hw).2, fun hstage => ?_, fun hstage c hc => ?_, rfl⟩
    · simp only [hstage, if_true, lookupD_bump]
    · have hasid : c.asid ∈ (s.namedCtxs v.vmid v.asid).map Ctx.asid := List.mem_map_of_mem hc
      simp only [hstage, Bool.false_eq_true, if_false, lookupD_foldl_bump, List.count_dedup, hasid, if_true]
  case starved => exact fun s v hv hstarved => exec_invalidationAck_starved hv hstarved
  case outside => exact fun s pa d m hup hhdm => exec_host_barred hup (by simp [State.hostFrame, hhdm])
  case closed => exact fun s pa d m hup _ hshut => exec_host_barred hup (by simp [State.hostFrame, hshut])
  case hostWrite =>
    intro s pa d m hup hopen hun
    have haloof := (aloof_settleCode s (locOf pa) 0).trans (aloof_hostWritten (pa := pa) (d := d) (m := m))
    exact ⟨_, exec_host_write hup hopen hun, rfl, haloof.ports, haloof.leases⟩
  case hostLine =>
    intro s pa d x hup hopen hun hx hecc
    refine ⟨_, exec_host_write hup hopen hun, ?_⟩
    rw [settleCode_of_resident ⟨hx, hecc⟩]
    exact l2?_hostWritten hx
  case hostShared =>
    intro s pa d m e hup hopen he ⟨q0, hq0, hne0⟩
    have hother := List.ne_nil_of_mem (mem_otherSharers he hq0 hne0)
    exact ⟨_, exec_host_write_shared hup hopen hother, rfl, fun q hq hne =>
      waits_for_sharers he (List.ne_nil_of_mem hq) (mem_otherSharers he hq hne)⟩
  case hostRead =>
    intro s pa d m hup hopen
    have haloof := (aloof_settleCode s (locOf pa) 0).trans (aloof_share _ (lineOf pa) 0 (locOf pa).die 8)
    exact ⟨_, exec_host_read hup hopen, haloof.ports, haloof.leases, rfl⟩
  case frame => exact fun s pa => hostFrame_iff

end Sys2Proof.Proofs.Homes
end

section
/-! CTX_CREATE while a photo finish holds the home slices (R70, R105, R116): one that reads a declaration waits, and the refusals that the
statement about contexts asks for at that moment do not come. -/

namespace Sys2Proof.Proofs.Contexts

open Sys2Proof Sys2Proof.Machine Sys2Proof.Claims

/-- A CTX_CREATE that reads a declaration, and does not wait for the energy reserve, changes nothing while a photo finish has stopped the
uncore (R116): it is not even refused. -/
theorem exec_ctxCreate_frozen {s : State} {a : CtxArgs} (hd : a.decl = true) (hu : s.uncoreStopped = true)
    (hw : s.energyReady = true ∨ s.holdupFailed = true) : exec (.ctxCreate a) s = .next s := by
  change execCtxCreate a s = _
  unfold execCtxCreate
  rw [if_neg (by rcases hw with h | h <;> simp [h]), if_pos (by simp [hd, hu])]

/-- A package in RUN whose hold-up layer has failed and whose clocks a photo finish has stopped, with status 0 in its last reply. -/
def frozenFailed : State :=
  { State.reset with power := .run, holdupFailed := true, fabricStopped := true, uncoreStopped := true }

/-- A command for tenant 0 that declares a must-save set. -/
def declaring : CtxArgs where
  tid := 0
  asid := 0
  vmid := 0
  diemap := [0, 7, 7, 7]
  pace := 1
  pbudget := 0
  drain := none
  saveva := 0
  trapva := 0
  mustsave := 0
  decl := true
  unbways := 0

/-- Refutes O45: with the hold-up layer failed, its fourth clause has every CTX_CREATE answered with status 3. One that reads a declaration
while a photo finish has stopped the uncore is not answered: it changes nothing, and the status stays 0. -/
theorem not_contextsAreMadeChangedAndDestroyed : ¬ Obligations.ContextsAreMadeChangedAndDestroyed := by
  unfold Obligations.ContextsAreMadeChangedAndDestroyed
  rintro ⟨-, -, -, hfailed, -⟩
  have hanswered := hfailed frozenFailed declaring rfl rfl rfl (by decide) (by decide) rfl
  rw [exec_ctxCreate_frozen rfl rfl (.inr rfl)] at hanswered
  have hreply : frozenFailed.reply = ⟨3, []⟩ := congrArg State.reply (Host.Outcome.next.inj hanswered)
  exact absurd (congrArg Reply.status hreply) (by decide)

end Sys2Proof.Proofs.Contexts
end

section
/-! Nonces, photo finishes, parked tasks and die resets at the mailbox (R89, R96, R102, R115 to R117, R237, R384, R385): what each command
answers, then the statement that rests on it. -/

namespace Sys2Proof.Proofs.Debugging

open Sys2Proof Sys2Proof.Machine Sys2Proof.Claims Sys2Proof.Proofs.Budgets Sys2Proof.Proofs.Links

/-! ### Tokens and the photo finish (R115 to R117) -/

section
variable {s : State} (hp : s.power = .run)
include hp

/-- A command that the manual gives no status is answered with a free one, and changes nothing else (assumption 19). -/
theorem mailUnstated_run : s.mailUnstated =
    .next (State.replyStatus { s with freeCount := s.freeCount + 1 } (Config.freeWord s.freeCount).toNat) :=
  if_neg (not_not_intro hp)

theorem exec_dbgFreeze_verified {tok : BitVec 1280} {f buf : Nat} (ht : s.tokenOk tok true = true) (hf : s.fabric + 4096 ≤ f)
    (hz : s.freeze = none) : exec (.dbgFreeze tok true f buf) s =
      .next { s with nonce := none, freeze := some ⟨f, tokenField tok 56 1, buf⟩, reply := ⟨0, []⟩ } :=
  (if_neg (by simp [ht, hz]; omega)).trans (mailCmd_ok hp)

/-- A token whose signature does not verify is not used up, and names no freeze (R115). -/
theorem exec_dbgFreeze_forged (tok : BitVec 1280) (f buf : Nat) : exec (.dbgFreeze tok false f buf) s =
    .next (State.replyStatus { s with freeCount := s.freeCount + 1 } (Config.freeWord s.freeCount).toNat) := by
  have hbad : s.tokenOk tok false = false := by simp [State.tokenOk]
  change execDbgFreeze tok false f buf s = _
  rw [execDbgFreeze, if_pos (by simp [hbad]), mailUnstated_run hp]

variable {l : List (Nat × Nat)} {z : Freeze} (hz : s.freeze = some z) (hf : z.f ≤ s.fabric)
include hz hf

/-- Cycle F has come: the clocks stop (R116). -/
theorem exec_photoFinishFreeze_stops (hu : s.uncoreStopped = false) :
    exec (.photoFinishFreeze l) s = .next { s with fabricStopped := true, uncoreStopped := true } := by
  change execPhotoFinishFreeze l s = _
  simp [execPhotoFinishFreeze, hz, hp, Nat.not_lt.mpr hf, hu]

/-- The dies that stand still are read out, and the ACTION follows (R116, R117). -/
theorem exec_photoFinishFreeze_acts (hu : s.uncoreStopped = true) : exec (.photoFinishFreeze l) s = .next (
    if z.action = 0 then { s with
      freeze := none, fabricStopped := false, uncoreStopped := false, readOut := some (s.readOutTo z.buf) }
    else State.photoReset { s with
      freeze := none, fabricStopped := false, uncoreStopped := false, readOut := some (s.readOutTo z.buf) } l) := by
  change execPhotoFinishFreeze l s = _
  simp [execPhotoFinishFreeze, hz, hp, Nat.not_lt.mpr hf, hu]

end

/-! ### A parked task goes on (R102) -/

/-- The number of a lease that stands finds a lease of that number. -/
theorem exists_lease?_of_mem {s : State} {L : Lease} (h : L ∈ s.leases) : ∃ M, s.lease? L.id = some M :=
  Option.isSome_iff_exists.mp (List.find?_isSome.mpr ⟨L, h, by simp⟩)

theorem leads_taskResume {s : State} {die entry : Nat} {k : Task} {L : Lease} (hp : s.power = .run) (hu : s.uncoreStopped = false)
    (hl : s.lapDue = false) (hk : s.task? die entry = some k) (hL : s.leaseOf k = some L) (hpark : L.parked ≠ none) :
    Leads (.taskResume die entry) s (fun t => t.reply = ⟨0, []⟩ ∧ (t.lease? L.id).map Lease.parked = some none ∧
      t = { s with leases := t.leases, ports := t.ports, reply := ⟨0, []⟩ }) := by
  refine ⟨(State.letGoWhere (s.modLease L.id (fun L => { L with parked := none }))
    (fun p => s.portLease p = some L.id)).replyStatus 0, ?_, rfl, ?_, rfl⟩
  · change execTaskResume die entry s = _
    simp [execTaskResume, hp, hu, hl, hk, hL, hpark]
  · obtain ⟨M, hM⟩ := exists_lease?_of_mem (List.mem_of_find?_eq_some hL)
    have hfound := lease?_modLease s L.id (fun L => { L with parked := none }) (fun _ => rfl)
    change ((s.modLease L.id (fun L => { L with parked := none })).lease? L.id).map Lease.parked = _
    rw [hfound, hM]
    rfl

theorem exec_taskResume_waits {s : State} (die entry : Nat) (h : s.power ≠ .run ∨ s.uncoreStopped = true ∨ s.lapDue = true) :
    exec (.taskResume die entry) s = .next s :=
  if_pos (by simpa [or_assoc] using h)

/-! ### A task is killed (R89, R96, R385) -/

/-- The place of a task that its place in the tables finds. -/
theorem place_of_task? {s : State} {die entry : Nat} {k : Task} (h : s.task? die entry = some k) : k.die = die ∧ k.idx = entry := by
  simpa using List.find?_some h

theorem task?_killTask (s : State) (k : Task) (detail : Nat) : (s.killTask k detail).task? k.die k.idx = none :=
  task?_finishTask k true 4 detail

/-- A COPY that still waits in its queue is removed from it, and its task has ended. -/
theorem task?_forceTask_queued {s : State} {k : Task} {id : Nat} {c : EngCmd} (detail : Nat) (hk : k.cmd = some id)
    (hc : s.cmd? id = some c) (hparty : c.party = 0) (hrun : c.stop = .running) (hidle : s.engines.any (fun e => e.cur.cmd = id) = false) :
    (s.forceTask k detail).task? k.die k.idx = none := by
  simp only [State.forceTask, hk, hc, hidle, hparty, hrun]
  exact task?_finishTask k false 8 0

/-- What TASK_KILL makes of the package: a COPY that still waits is discarded, a command that has begun is stopped (R96). -/
def killed (s : State) (k : Task) : State :=
  (k.cmd.bind s.cmd?).elim (s.killTask k 0xFFFFFFFB) (fun c =>
    if c.party = 0 && c.stop = .running && !s.engines.any (fun e => e.cur.cmd = c.id) then s.forceTask k 0xFFFFFFFB
    else (s.stopCmd c).killTask k 0xFFFFFFFB)

theorem exec_taskKill {s : State} {die entry : Nat} {k : Task} (hp : s.power = .run) (hu : s.uncoreStopped = false)
    (hk : s.task? die entry = some k) : exec (.taskKill die entry) s = .next ((killed s k).replyStatus 0) := by
  change execTaskKill die entry s = _
  rw [execTaskKill, if_neg (by simp [hp, hu]), hk, killed]
  dsimp only
  cases k.cmd.bind s.cmd? with
  | none => rfl
  | some c => rfl

theorem task?_killed (s : State) (k : Task) : (killed s k).task? k.die k.idx = none := by
  unfold killed
  cases hc : k.cmd.bind s.cmd? with
  | none => exact task?_killTask s k _
  | some c =>
    obtain ⟨id, hid, hfound⟩ := Option.bind_eq_some_iff.mp hc
    obtain rfl : c.id = id := by simpa using List.find?_some hfound
    rw [Option.elim_some]
    split
    case isTrue hq =>
      simp only [Bool.and_eq_true, decide_eq_true_eq, Bool.not_eq_true'] at hq
      obtain ⟨⟨hparty, hrun⟩, hidle⟩ := hq
      exact task?_forceTask_queued _ hid hfound hparty hrun hidle
    case isFalse => exact task?_killTask _ k _

/-! ### The reset of a die begins (R35, R237) -/

/-- A die's CD link enters the state; its seams are other links. -/
theorem link_setDie_of_unmoved {s : State} {d : Nat} (st : LinkState) (hd : d < 4) (hm : ∀ L ∈ s.leases, L.move = none) :
    (s.setDie d st).link (4 + d) = (s.link (4 + d)).enter st := by
  obtain ⟨u, hlink, hleases, hset⟩ : ∃ u : State, u.link (4 + d) = (s.link (4 + d)).enter st ∧ u.leases = s.leases ∧
      s.setDie d st = u.dropMoves := by
    refine ⟨_, ?_, ?_, rfl⟩
    · refine List.foldlRecOn _ _ (motive := fun t : State => t.link (4 + d) = _) (link_modLink _ (by omega)) (fun t ht k hk => ?_)
      have hseam : k < 4 := List.mem_range.mp (List.mem_of_mem_filter hk)
      rw [link_modLink_other _ (by omega), ht]
    · exact List.foldlRecOn _ _ (motive := fun t : State => t.leases = s.leases) rfl (fun t ht k _ => ht)
  rw [hset, dropMoves_of_unmoved (by rwa [hleases]), hlink]

theorem exec_dieReset {s : State} {d : Nat} (hp : s.power = .run) (hd : d < s.fuses.nlive) (hr : s.reset? d = none) :
    exec (.dieReset d) s = .next (if (s.link (4 + d)).st = .down
      then { s with resets := s.resets ++ [⟨d, 7, s.fabric⟩], reply := ⟨0, []⟩ }
      else { s.setDie d .quiescing with resets := s.resets ++ [⟨d, 2, s.fabric⟩], reply := ⟨0, []⟩ }) := by
  refine (if_neg (by simp [State.live, hd])).trans ?_
  rw [hr, if_neg (by simp)]
  split <;> exact mailCmd_ok hp

/-- A reset that begins for a die without one is the one found for it. -/
theorem find?_reset_append {s : State} {d : Nat} (hr : s.reset? d = none) (step : Nat) :
    (s.resets ++ [(⟨d, step, s.fabric⟩ : Reset)]).find? (fun r => r.die = d) = some ⟨d, step, s.fabric⟩ := by
  have hnone : s.resets.find? (fun r => r.die = d) = none := hr
  simp [List.find?_append, hnone]

theorem leads_dieReset_running {s : State} {d : Nat} (hp : s.power = .run) (hd : d < s.fuses.nlive) (hd4 : d < 4)
    (hr : s.reset? d = none) (hl : (s.link (4 + d)).st ≠ .down) :
    Leads (.dieReset d) s (fun t => t.reply = ⟨0, []⟩ ∧ t.reset? d = some ⟨d, 2, s.fabric⟩ ∧
      ((∀ L ∈ s.leases, L.move = none) → (t.link (4 + d)).st = .quiescing ∧
        t = { s with links := t.links, resets := t.resets, reply := ⟨0, []⟩ })) := by
  refine ⟨_, (exec_dieReset hp hd hr).trans (congrArg _ (if_neg hl)), rfl, find?_reset_append hr 2, fun hm => ⟨?_, ?_⟩⟩
  · exact congrArg Link.st (link_setDie_of_unmoved .quiescing hd4 hm)
  · rw [setDie_of_unmoved d .quiescing hm]

/-! ### The statement -/

/-- Settles O47: each command is one branch of its meaning, a kill ends the task at its place, and a reset's first step is one link. -/
theorem debugTasksAndResetsAreCommanded : Obligations.DebugTasksAndResetsAreCommanded := by
  unfold Obligations.DebugTasksAndResetsAreCommanded
  refine ⟨?nonce, ?verified, ?forged, ?stops, ?thaws, ?readsOut, ?resets, ?resumes, ?resumeWaits, ?kills, ?dieReset, ?downReset, ?inReset⟩
  case nonce => exact fun s n hp => if_neg (not_not_intro hp)
  case verified => exact fun s tok f buf hp ht hf hz => exec_dbgFreeze_verified hp ht hf hz
  case forged => exact fun s tok f buf hp => ⟨_, exec_dbgFreeze_forged hp tok f buf, rfl, rfl, rfl⟩
  case stops => exact fun s l z hp hz hf hu => exec_photoFinishFreeze_stops hp hz hf hu
  case thaws =>
    intro s l z hp hz hf hu ha
    rw [exec_photoFinishFreeze_acts hp hz hf hu, if_pos ha]
  case readsOut => exact fun s buf => ⟨rfl, rfl, rfl, rfl, rfl, rfl, rfl, rfl⟩
  case resets =>
    intro s l z hp hz hf hu ha
    exact ⟨_, (exec_photoFinishFreeze_acts hp hz hf hu).trans (congrArg _ (if_neg ha)), rfl⟩
  case resumes => exact fun s die entry k L hp hu hl hk hL hpark => leads_taskResume hp hu hl hk hL hpark
  case resumeWaits => exact fun s die entry h => exec_taskResume_waits die entry h
  case kills =>
    intro s die entry k hp hu hk
    obtain ⟨rfl, rfl⟩ := place_of_task? hk
    exact ⟨_, exec_taskKill hp hu hk, rfl, task?_killed s k⟩
  case dieReset => exact fun s d hp hd hd4 hr hl => leads_dieReset_running hp hd hd4 hr hl
  case downReset =>
    intro s d hp hd hr hl
    exact ⟨_, (exec_dieReset hp hd hr).trans (congrArg _ (if_pos hl)), find?_reset_append hr 7, rfl⟩
  case inReset =>
    intro s d hp hd hr
    have hbusy : (s.reset? d).isSome = true := Option.isSome_iff_ne_none.mpr hr
    refine (if_neg (by simp [State.live, hd])).trans ?_
    rw [if_pos hbusy]
    exact if_neg (not_not_intro hp)

end Sys2Proof.Proofs.Debugging
end

section
/-! Moves, checkpoints and batons (R83 to R87, R98, R99, R108, R129, R133, R134, R368): what each event answers for a lease that moves, then
the statement that rests on it. -/

namespace Sys2Proof.Proofs.Moves

open Sys2Proof Sys2Proof.Machine Sys2Proof.Claims Sys2Proof.Proofs.Links

/-! ### Leases and their holds -/

/-- The number of a lease that its number finds. -/
theorem id_of_lease? {s : State} {id : Nat} {L : Lease} (h : s.lease? id = some L) : L.id = id := by
  simpa using List.find?_some h

/-- A lease put in the place of the one of its number is found there. -/
theorem lease?_replace {s : State} {N L : Lease} (hL : s.lease? N.id = some L) :
    (s.modLease N.id (fun _ => N)).lease? N.id = some N := by
  have hfound : (s.modLease N.id (fun _ => N)).lease? N.id = (s.lease? N.id).map (fun _ => N) :=
    find?_updWhere _ _ (by simp) _
  rw [hfound, hL]
  rfl

/-- HOLD is a state of input ports. -/
theorem setHolds_only (s : State) (id : Nat) : s.setHolds id = { s with ports := (s.setHolds id).ports } := by
  unfold State.setHolds
  split
  case h_1 => rfl
  case h_2 => split <;> rfl

/-! ### Steps 1 to 3 of a move (R83, R84, R86, R99, R368) -/

section
variable {s : State} {L : Lease} {m : Move} (hL : s.lease? s.focus.site.lease = some L) (hm : L.move = some m)
include hL hm

section
variable (hcd : s.cdRuns = true) (hf : s.fabricStopped = false) (hu : L.unwind = none) (hk : L.parked = none)
include hcd hf hu hk

theorem exec_relocationStart_zone {z : Nat} (h0 : m.step = 0) (hz : imageNextZone L.image (s.nextEoi L) = some z) :
    exec .relocationStart s =
      .next ((s.modLease L.id (fun L => { L with move := some { m with step := 1, zone := z } })).setHolds L.id) := by
  change execRelocationStart s = _
  rw [id_of_lease? hL]
  simp [execRelocationStart, hL, hm, hcd, hf, hu, hk, h0, hz]

/-- Every input port holds behind the zone: the batons follow it, unless the lease ends there. -/
theorem exec_relocationStart_held (h1 : m.step = 1) (hh : s.allHeld L.id = true) : exec .relocationStart s = .next (
    if s.lastBoundary L then ((s.cancelMove L.id).setHolds L.id).completeInputs L.id
    else (s.modLease L.id (fun L => { L with
      move := some { m with step := 2, since := s.fabric } })).injectBatons L.id m.job.baton) := by
  rw [id_of_lease? hL] at hh ⊢
  change execRelocationStart s = _
  by_cases hb : s.lastBoundary L = true
  · simp [execRelocationStart, hL, hm, hcd, hf, hu, hk, h1, hh, hb]
  · simp [execRelocationStart, hL, hm, hcd, hf, hu, hk, h1, hh, hb]

end

/-- The batons have had their time (R86). -/
theorem exec_relocationTimeout_abandons (hcd : s.cdRuns = true) (h2 : m.step = 2) (ht : m.since + 1048576 ≤ s.fabric)
    (hex : (m.job.preempts && (s.leasePorts L.id).any Port.fhold) = false) :
    exec .relocationTimeout s = .next (s.abandonMove L.id) := by
  rw [id_of_lease? hL] at hex ⊢
  change execRelocationTimeout s = _
  simp [execRelocationTimeout, hL, hm, hcd, h2, ht, hex, id_of_lease? hL]

/-- A load that a fault holds keeps a checkpoint waiting (R99). -/
theorem exec_relocationTimeout_exempt {d : Option Nat} {p : Port} (hj : m.job = .checkpoint d) (hp : p ∈ s.leasePorts L.id)
    (hh : p.fhold = true) : exec .relocationTimeout s = .next s := by
  have hany : (s.leasePorts L.id).any Port.fhold = true := List.any_eq_true.mpr ⟨p, hp, hh⟩
  change execRelocationTimeout s = _
  simp [execRelocationTimeout, hL, hm, hj, MoveJob.preempts, hany]

end

/-- A move that is no checkpoint, or whose ports hold no load for a fault, is abandoned in time. -/
theorem not_exempt {s : State} {L : Lease} {m : Move}
    (h : (∀ d, m.job ≠ .checkpoint d) ∨ ∀ p ∈ s.leasePorts L.id, p.fhold = false) :
    (m.job.preempts && (s.leasePorts L.id).any Port.fhold) = false := by
  rcases h with h | h
  · have hjob : m.job.preempts = false := by
      cases hj : m.job with
      | checkpoint d => exact absurd hj (h d)
      | move x y => rfl
      | standing va n => rfl
    rw [hjob, Bool.false_and]
  · rw [List.any_eq_false.mpr (fun p hp => by simp [h p hp]), Bool.and_false]

/-! ### A relocation (R84, R85) -/

/-- A lease at its destination, with no move any more (R84 steps 5 to 8). -/
def relocated (s : State) (L : Lease) (x y : Nat) : Lease :=
  { L.carriedTo x y true with move := none, baton := none, lastMove := s.fabric + 1, heldTraps := [] }

/-- Ports, holds, traps and seams follow the lease, and leave it as it is. -/
theorem lease?_finishMove {s : State} {L : Lease} (hL : s.lease? L.id = some L) (x y : Nat) :
    (s.finishMove L x y).lease? L.id = some (relocated s L x y) := by
  have hleases : (s.finishMove L x y).leases = (s.modLease L.id (fun _ => relocated s L x y)).leases := by
    unfold State.finishMove
    dsimp only
    rw [tightenSeams_only, setHolds_only]
    rfl
  have hfound : (s.modLease (relocated s L x y).id (fun _ => relocated s L x y)).lease? (relocated s L x y).id = _ :=
    lease?_replace hL
  unfold State.lease? at hfound ⊢
  rw [hleases]
  exact hfound

section
variable {s : State} {L : Lease} {m : Move} (hL : s.lease? s.focus.site.lease = some L) (hm : L.move = some m)
  (hcd : s.cdRuns = true) (hf : s.fabricStopped = false)
include hL hm hcd hf

theorem exec_relocationDrained {x y : Nat} (hj : m.job = .move x y) (hdr : s.drainedFor L = true)
    (hrun : ∀ d ∈ (⟨x, y, L.w, L.h⟩ : Rect).dies, s.running d = true)
    (hopen : ∀ c ∈ (⟨x, y, L.w, L.h⟩ : Rect).cells, s.barred c.1 c.2 = false)
    (hseam : ∀ p ∈ seamPairs (⟨x, y, L.w, L.h⟩ : Rect).dies, L.seamUnits x y p.1 p.2 ≠ 0 → s.seamRunning p.1 p.2 = true) :
    exec .relocationDrained s = .next (s.finishMove L x y) := by
  obtain ⟨job, step, zone, since, resv⟩ := m
  obtain rfl : job = .move x y := hj
  have hfree : (!(⟨x, y, L.w, L.h⟩ : Rect).dies.all s.running || (⟨x, y, L.w, L.h⟩ : Rect).cells.any (fun c => s.barred c.1 c.2)
      || (seamPairs (⟨x, y, L.w, L.h⟩ : Rect).dies).any (fun p => L.seamUnits x y p.1 p.2 ≠ 0 && !s.seamRunning p.1 p.2)) = false := by
    rw [List.all_eq_true.mpr hrun, List.any_eq_false.mpr (fun c hc => by simp [hopen c hc]),
      List.any_eq_false.mpr (fun p hp => by simpa using hseam p hp)]
    rfl
  change execRelocationDrained s = _
  simp only [execRelocationDrained, hL, hm, hcd, hf, hdr, hfree]
  rfl

/-! ### A checkpoint (R87, R99, R234, R377) -/

theorem exec_checkpointDrained {s1 s2 : State} {k : Task} {c : Ctx} {d : Option Nat} {i va : Nat} (hj : m.job = .checkpoint d)
    (hk : s.task? L.die L.entry = some k) (hc : s.ctx? L.tid = some c) (hq : s.quietFor L = true)
    (hslot : s.openSlot c (s.recordSize L) = some (i, va))
    (h1 : (s.makeRecord L).2.cdWrite c.tid va (s.makeRecord L).1.bytes false = (.ok (), s1))
    (h2 : s1.cdWrite c.tid (c.dirVa i) (dirEntry k (s.makeRecord L).1.bytes.length) false = (.ok (), s2)) :
    exec .checkpointDrained s = .next (s2.leaveSaved L i (s.makeRecord L).1) := by
  obtain ⟨job, step, zone, since, resv⟩ := m
  obtain rfl : job = .checkpoint d := hj
  change execCheckpointDrained s = _
  simp [execCheckpointDrained, hL, hm, hk, hc, hcd, hf, hq, hslot, h1, h2]

/-! ### Standing checkpoints (R108) -/

section
variable {va n : Nat} (hj : m.job = .standing va n) (hq : s.quietFor L = true)
  (hset : ∀ p ∈ s.leasePorts L.id, p.settled 1 = true)
include hj hq hset

/-- A record that does not fit with its completion word is not written. -/
theorem exec_standingCheckpoint_tooLong (hn : n < s.recordSize L + 8) : exec .standingCheckpoint s =
    .next (((s.forgetStanding L.tid va).forgetStanding L.tid (wrapN 57 ((va + n : Nat) : Int))).endStanding L m.zone va) := by
  obtain ⟨job, step, zone, since, resv⟩ := m
  obtain rfl : job = .standing va n := hj
  change execStandingCheckpoint s = _
  simp only [execStandingCheckpoint, hL, hm, hcd, hf, hq, List.all_eq_true.mpr hset]
  exact if_pos hn

theorem exec_standingCheckpoint_written {s0 s1 s2 : State} {slot : Nat} {b : Save} (hn : s.recordSize L + 8 ≤ n)
    (hslot : slot = s.olderSlot L.tid va n) (hb : (s.forgetStanding L.tid slot).makeRecord L = (b, s0))
    (h1 : s0.cdWrite L.tid slot b.bytes false = (.ok (), s1))
    (h2 : s1.cdWrite L.tid (wrapN 57 ((slot + b.bytes.length : Nat) : Int)) (toBytes 8 m.zone) false = (.ok (), s2)) :
    exec .standingCheckpoint s = .next (({ s2 with
      standing := (L.tid, slot, m.zone, b.bytes.length) :: s2.standing
      keep := { s2.keep with saves := b :: s2.keep.saves } } : State).endStanding L m.zone va) := by
  obtain ⟨job, step, zone, since, resv⟩ := m
  obtain rfl : job = .standing va n := hj
  subst hslot
  change execStandingCheckpoint s = _
  simp only [execStandingCheckpoint, hL, hm, hcd, hf, hq, List.all_eq_true.mpr hset, hb, h1, h2]
  exact if_neg (Nat.not_lt.mpr hn)

end
end

/-! ### Batons (R129, R133) -/

theorem exec_batonForward {s : State} {L : Lease} {pe : PE} {job : Nat} (hf : s.fabricStopped = false)
    (hL : s.lease? s.focus.site.lease = some L) (hpe : L.pe? s.focus.site.dx s.focus.site.dy = some pe) (hb : L.baton = some job)
    (hdone : pe.batonDone = false)
    (hins : ∀ i ∈ L.markIns pe, ∃ k, pe.head i = some k ∧ k.isBaton = true ∧ L.current k = true)
    (hmay : s.mayForward L pe job = true) (hout : s.outsFree L 1 (L.markOuts s.focus.site pe) = true) :
    exec .batonForward s = .next (((s.modPE s.focus.site (fun q => { (L.markIns pe).foldl (fun (q : PE) i => q.popIn L.plane i) q with
      batonDone := true })).pushAll L (batonTok job L.batonNo) (L.markOuts s.focus.site pe)).progress L.id) := by
  change execBatonForward s = _
  simp only [execBatonForward, hL, hpe, hf, hb, hdone, hmay, hout]
  rw [if_neg Bool.false_ne_true, if_neg ?stale, if_neg ?absent]
  case stale =>
    simp only [Bool.not_eq_true', Bool.not_eq_false, List.isEmpty_iff, List.filter_eq_nil_iff]
    intro i hi
    obtain ⟨k, hk, -, hcur⟩ := hins i hi
    simp [hk, hcur]
  case absent =>
    simp only [Bool.not_true, Bool.or_false, Bool.false_or, Bool.not_eq_true', Bool.not_eq_false, List.all_eq_true]
    intro i hi
    obtain ⟨k, hk, hbaton, -⟩ := hins i hi
    simp [hk, hbaton]

/-! ### The statement -/

/-- Settles O53: each step of a move is one branch of its event's meaning, and the lease that has moved is found at its destination. -/
theorem leasesMoveAndAreSaved : Obligations.LeasesMoveAndAreSaved := by
  unfold Obligations.LeasesMoveAndAreSaved
  refine ⟨?zone, ?inject, ?last, ?timeout, ?exempt, ?moved, ?saved, ?tooLong, ?standing, ?forward⟩
  case zone => exact fun s L m z hcd hf hL hm hu hk h0 hz => exec_relocationStart_zone hL hm hcd hf hu hk h0 hz
  case inject =>
    intro s L m hcd hf hL hm hu hk h1 hh hb
    rw [exec_relocationStart_held hL hm hcd hf hu hk h1 hh, if_neg (by simp [hb])]
  case last =>
    intro s L m hcd hf hL hm hu hk h1 hh hb
    rw [exec_relocationStart_held hL hm hcd hf hu hk h1 hh, if_pos hb]
  case timeout => exact fun s L m hcd hL hm h2 ht hex => exec_relocationTimeout_abandons hL hm hcd h2 ht (not_exempt hex)
  case exempt => exact fun s L m d p hL hm hj hp hh => exec_relocationTimeout_exempt hL hm hj hp hh
  case moved =>
    intro s L m x y hcd hf hL hm hj hdr hrun hopen hseam _
    have hown : s.lease? L.id = some L := by rwa [id_of_lease? hL]
    exact ⟨_, exec_relocationDrained hL hm hcd hf hj hdr hrun hopen hseam, _, lease?_finishMove hown x y, rfl, rfl, rfl, rfl, rfl,
      rfl, rfl, rfl, rfl⟩
  case saved =>
    intro s s1 s2 L m k c i va hcd hf hL hm ⟨d, hj⟩ hk hc hq hslot h1 h2
    exact ⟨exec_checkpointDrained hL hm hcd hf hj hk hc hq hslot h1 h2, fun M hM => by simpa using (List.mem_filter.mp hM).2⟩
  case tooLong => exact fun s L m va n hcd hf hL hm hj hq hset hn => exec_standingCheckpoint_tooLong hL hm hcd hf hj hq hset hn
  case standing =>
    intro s s0 s1 s2 L m va n slot b hcd hf hL hm hj hq hset hn hslot hb h1 h2
    exact exec_standingCheckpoint_written hL hm hcd hf hj hq hset hn hslot hb h1 h2
  case forward =>
    intro s L pe job hf hL hpe hb hdone hins hmay hout
    exact exec_batonForward hf hL hpe hb hdone hins hmay hout

end Sys2Proof.Proofs.Moves
end

section
/-! The lap boundary (R90 to R94, R189): what the refill of a die leaves in its budget and its ports, what keeps it, and OLDEST. -/

namespace Sys2Proof.Proofs.Laps

open Sys2Proof Sys2Proof.Machine Sys2Proof.Claims Sys2Proof.Proofs.Package

/-! ### The refill of a die (R93) -/

section
variable (s : State) (b : Budget)

/-- The tokens that all active ports of a die together hold at its refill, with what the last one carried over. -/
def poolOf : Nat := sumN ((s.lapPorts b.die).map Port.bucket) + b.carry

/-- A die's shares at its refill. -/
def sharesOf : List Share := s.shares b (b.next.getD b.b) (poolOf s b)

/-- A die's budget after its refill. -/
def refilledBudget (x : Budget) : Budget :=
  { x with
    b := b.next.getD b.b, next := none, cut := []
    carry := keptBack (sharesOf s b) + poolOf s b - sumN ((sharesOf s b).map Share.extra) }

/-- A port after the refill of its die. -/
def refilledPort (p : Port) : Port :=
  { p with bucket := lookupD ((sharesOf s b).flatMap Share.grants) p.id 0, issued := false }

/-- What a refill counts of a tenant's share (R100). -/
def countShare (b : Budget) (s : State) (x : Share) : State :=
  (s.count x.tid b.die 9 x.extra).count x.tid b.die 8 (b2n (b.cut.contains x.tid))

theorem foldl_countShare_only (l : List Share) :
    l.foldl (countShare b) s = { s with counters := (l.foldl (countShare b) s).counters } := by
  refine List.foldlRecOn _ _ (motive := fun t : State => t = { s with counters := t.counters }) rfl (fun t ht x _ => ?_)
  obtain ⟨_, hextra⟩ := exists_count_eq t x.extra x.tid b.die 9
  obtain ⟨_, hcut⟩ := exists_count_eq (t.count x.tid b.die 9 x.extra) (b2n (b.cut.contains x.tid)) x.tid b.die 8
  rw [countShare, hcut, hextra, ht]

/-- A refill changes the ports bound on its die, its budget and the counters. -/
theorem refill_only : s.refill b = { s with
    ports := updWhere (fun p => p.bound && p.die = b.die && !p.frozen) (refilledPort s b) s.ports
    budgets := updWhere (fun x => x.die = b.die) (refilledBudget s b) s.budgets
    counters := (s.refill b).counters } := by
  have hcounted : s.refill b = (sharesOf s b).foldl (countShare b) { s with
      ports := updWhere (fun p => p.bound && p.die = b.die && !p.frozen) (refilledPort s b) s.ports
      budgets := updWhere (fun x => x.die = b.die) (refilledBudget s b) s.budgets } := rfl
  rw [hcounted, foldl_countShare_only]

end

/-- What the refill of a die has left there: its budget and what it carries over, and the tokens of its ports. -/
structure RefilledAs (t : State) (die budget carry : Nat) (tokens : Nat → Nat) : Prop where
  budget : ∃ x ∈ t.budgets, x.die = die ∧ x.b = budget ∧ x.next = none ∧ x.carry = carry
  ports : ∀ p ∈ t.ports, p.bound = true → p.die = die → p.frozen = false → p.issued = false ∧ p.bucket = tokens p.id

section
variable {s : State} {b : Budget} {die budget carry : Nat} {tokens : Nat → Nat}

/-- Every die keeps its budget entry at a refill. -/
theorem exists_budget_refill (h : ∃ x ∈ s.budgets, x.die = die) (b : Budget) : ∃ x ∈ (s.refill b).budgets, x.die = die := by
  obtain ⟨x, hx, hdie⟩ := h
  rw [refill_only]
  refine ⟨_, List.mem_map_of_mem hx, ?_⟩
  split <;> exact hdie

theorem exists_budget_foldl_refill (h : ∃ x ∈ s.budgets, x.die = die) (l : List Budget) :
    ∃ x ∈ (l.foldl (fun (s : State) b => s.refill b) s).budgets, x.die = die :=
  List.foldlRecOn _ _ (motive := fun t : State => ∃ x ∈ t.budgets, x.die = die) h (fun _ ht b _ => exists_budget_refill ht b)

theorem refilledAs_refill (h : ∃ x ∈ s.budgets, x.die = b.die) : RefilledAs (s.refill b) b.die (b.next.getD b.b)
    (keptBack (sharesOf s b) + poolOf s b - sumN ((sharesOf s b).map Share.extra))
    (fun id => lookupD ((sharesOf s b).flatMap Share.grants) id 0) := by
  obtain ⟨x, hx, hdie⟩ := h
  rw [refill_only]
  constructor
  · refine ⟨_, List.mem_map_of_mem hx, ?_⟩
    rw [if_pos (decide_eq_true hdie)]
    exact ⟨hdie, rfl, rfl, rfl⟩
  · intro p hp hbound hpd hfrozen
    obtain ⟨q, -, rfl⟩ := List.mem_map.mp hp
    split at hbound
    case isTrue hsel =>
      rw [if_pos hsel]
      exact ⟨rfl, rfl⟩
    case isFalse hsel =>
      rw [if_neg hsel] at hpd hfrozen
      exact absurd (by simp [hbound, hpd, hfrozen]) hsel

/-- The refill of another die leaves a die as it was. -/
theorem RefilledAs.refill (h : RefilledAs s die budget carry tokens) (hb : b.die ≠ die) :
    RefilledAs (s.refill b) die budget carry tokens := by
  obtain ⟨⟨x, hx, hdie, hrest⟩, hports⟩ := h
  rw [refill_only]
  constructor
  · refine ⟨_, List.mem_map_of_mem hx, ?_⟩
    rw [if_neg (by simpa [hdie] using hb.symm)]
    exact ⟨hdie, hrest⟩
  · intro p hp hbound hpd hfrozen
    obtain ⟨q, hq, rfl⟩ := List.mem_map.mp hp
    split at hpd
    case isTrue hsel =>
      simp only [Bool.and_eq_true, decide_eq_true_eq] at hsel
      exact absurd (hsel.1.2.symm.trans hpd) hb
    case isFalse hsel =>
      rw [if_neg hsel] at hbound hfrozen ⊢
      exact hports q hq hbound hpd hfrozen

theorem RefilledAs.foldl_refill (h : RefilledAs s die budget carry tokens) {l : List Budget} (hl : ∀ b ∈ l, b.die ≠ die) :
    RefilledAs (l.foldl (fun (s : State) b => s.refill b) s) die budget carry tokens :=
  List.foldlRecOn _ _ (motive := fun t : State => RefilledAs t die budget carry tokens) h (fun _ ht b hb => ht.refill (hl b hb))

/-- A cut tenant is marked in the budgets of the dies that cut it, which keep what they are (R94). -/
theorem RefilledAs.publish (h : RefilledAs s die budget carry tokens) (p : Port) (r : Req) (c : Ctx) (d : Nat) :
    RefilledAs (s.publish p r c d) die budget carry tokens := by
  unfold State.publish
  dsimp only
  split
  case isFalse => exact h
  case isTrue =>
    obtain ⟨⟨x, hx, hrest⟩, hports⟩ := h
    refine ⟨⟨_, List.mem_map_of_mem hx, ?_⟩, hports⟩
    split <;> exact hrest

theorem RefilledAs.recordQueues (h : RefilledAs s die budget carry tokens) : RefilledAs s.recordQueues die budget carry tokens := by
  unfold State.recordQueues
  refine List.foldlRecOn _ _ (motive := fun t : State => RefilledAs t die budget carry tokens) h (fun t ht p _ => ?_)
  split
  · exact ht
  · refine List.foldlRecOn _ _ (motive := fun t : State => RefilledAs t die budget carry tokens) ht (fun t ht r _ => ?_)
    split
    · split
      · exact ht.publish _ _ _ _
      · exact ht
    · exact ht

end

/-! ### The boundary (R33, R90, R189) -/

section
variable {s : State}

/-- The CD's look at the diagonal routes changes which of them are switched (R33). -/
theorem reroute_only (s : State) : s.reroute = { s with diagSwitched := s.reroute.diagSwitched } := by
  unfold State.reroute
  refine List.foldlRecOn _ _ (motive := fun t : State => t = { s with diagSwitched := t.diagSwitched }) rfl (fun t ht x _ => ?_)
  dsimp only
  split
  · exact ht
  · rw [ht]

theorem exec_lapBoundary (hp : s.power = .run) (hu : s.uncoreStopped = false) (hf : 1024 * (s.lap + 1) ≤ s.fabric) :
    exec .lapBoundary s = .next (State.reroute { (s.budgets.foldl (fun (s : State) b => s.refill b) s).recordQueues with
      lap := s.lap + 1, oldest := s.oldestNow }) := by
  have hdue : ¬s.fabric < lapCycles * (s.lap + 1) := Nat.not_lt.mpr hf
  exact if_neg (by simp [hp, hu, hdue])

/-- Each die's ports are refilled from its own budget and pool, as the dies before it left the package. -/
theorem refilledAs_boundary {l1 l2 : List Budget} {b : Budget} (hb : s.budgets = l1 ++ b :: l2) (hne : ∀ x ∈ l1 ++ l2, x.die ≠ b.die) :
    let s1 := l1.foldl (fun (s : State) b => s.refill b) s
    RefilledAs (s.budgets.foldl (fun (s : State) b => s.refill b) s).recordQueues b.die (b.next.getD b.b)
      (keptBack (sharesOf s1 b) + poolOf s1 b - sumN ((sharesOf s1 b).map Share.extra))
      (fun id => lookupD ((sharesOf s1 b).flatMap Share.grants) id 0) := by
  intro s1
  have hown : ∃ x ∈ s1.budgets, x.die = b.die := exists_budget_foldl_refill ⟨b, by rw [hb]; simp, rfl⟩ l1
  rw [hb, List.foldl_append, List.foldl_cons]
  exact ((refilledAs_refill hown).foldl_refill (fun x hx => hne x (List.mem_append_right _ hx))).recordQueues

theorem minN?_eq_min? (l : List Nat) : minN? l = l.min? := by
  cases l <;> rfl

/-- OLDEST is when the earliest party that lives began, and the present time where none lives. -/
theorem oldestNow_spec (s : State) : (∀ p ∈ s.parties, p.live = true → s.oldestNow ≤ p.began) ∧
    ((∃ p ∈ s.parties, p.live = true ∧ s.oldestNow = p.began) ∨ ((∀ p ∈ s.parties, p.live = false) ∧ s.oldestNow = s.ticks)) := by
  unfold State.oldestNow
  rw [minN?_eq_min?]
  cases hmin : ((s.parties.filter Party.live).map Party.began).min? with
  | none =>
    have hnone : ∀ p ∈ s.parties, p.live = false := by simpa using List.min?_eq_none_iff.mp hmin
    exact ⟨fun p hp hlive => by simp [hnone p hp] at hlive, .inr ⟨hnone, rfl⟩⟩
  | some a =>
    obtain ⟨hmem, hle⟩ := List.min?_eq_some_iff.mp hmin
    obtain ⟨p, hp, rfl⟩ := List.mem_map.mp hmem
    obtain ⟨hpar, hlive⟩ := List.mem_filter.mp hp
    exact ⟨fun q hq hql => hle _ (List.mem_map_of_mem (List.mem_filter.mpr ⟨hq, hql⟩)), .inl ⟨p, hpar, hlive, rfl⟩⟩

end

end Sys2Proof.Proofs.Laps
end

section
/-! The placer's turn, the places it finds, and the windows it reserves (R77 to R80, R82, R97, R189, R223, R236). -/

namespace Sys2Proof.Proofs.Placing

open Sys2Proof Sys2Proof.Machine Sys2Proof.Claims Sys2Proof.Proofs.Links
  Sys2Proof.Proofs.Debugging Sys2Proof.Proofs.Moves Sys2Proof.Proofs.Laps

/-! ### A die's turn (R77, R80) -/

section
variable {s : State} {k : Task} {pre rest : List Task}

theorem placeFirst_cons_placed {s1 : State} (h : s.tryPlace k = some s1) : s.placeFirst (k :: rest) = s1 := by
  rw [State.placeFirst, h]

/-- A task that finds no place lets those behind it be tried, while it has been passed over fewer than 64 times. -/
theorem placeFirst_cons_passed (h : s.tryPlace k = none) (hk : k.skips + 1 < 64) :
    s.placeFirst (k :: rest) = (passed s [k]).placeFirst rest := by
  rw [State.placeFirst, h]
  exact if_neg (by omega)

theorem placeFirst_cons_stops (h : s.tryPlace k = none) (hk : 63 ≤ k.skips) : s.placeFirst (k :: rest) = passed s [k] := by
  rw [State.placeFirst, h]
  exact if_pos (by omega)

theorem passed_append (s : State) (a b : List Task) : passed s (a ++ b) = passed (passed s a) b := List.foldl_append

/-- The queue is tried from behind the tasks that were passed over. -/
theorem placeFirst_passedOver (h : PassedOver s pre) (rest : List Task) :
    s.placeFirst (pre ++ rest) = (passed s pre).placeFirst rest := by
  induction pre generalizing s with
  | nil => rfl
  | cons k pre ih =>
    obtain ⟨hnone, hskips⟩ : s.tryPlace k = none ∧ k.skips + 1 < 64 := h [] k pre rfl
    have htail : PassedOver (passed s [k]) pre := fun a x b hab => h (k :: a) x b (by rw [hab, List.cons_append])
    rw [List.cons_append, placeFirst_cons_passed hnone hskips, ih htail, ← passed_append]
    rfl

/-- The die's turn: no placement while one of that die is under way, else the first of its queue that fits. -/
theorem exec_placerPlacement {die : Nat} (hcd : s.cdRuns = true) (hd : die = s.dieTurn % max 1 s.fuses.nlive) :
    exec .placerPlacement s = .next (turned s (
      if (readied s die).resvs.any (fun r => r.die = die) then readied s die
      else (readied s die).placeFirst ((readied s die).readyQueue die)) die) := by
  subst hd
  exact if_neg (by simp [hcd])

theorem exec_placerPlacement_serves {die : Nat} (h : Serves s die) : exec .placerPlacement s =
    .next (turned s ((readied s die).placeFirst ((readied s die).readyQueue die)) die) := by
  obtain ⟨hcd, hd, hnone⟩ := h
  rw [exec_placerPlacement hcd hd, if_neg (by simpa using hnone)]

end

/-! ### Leases that must leave their place (R34, R223, R237) -/

section
variable {s : State}

/-- Leases that need not leave are asked nothing. -/
theorem foldl_ask_eq_self {l : List Lease} (h : ∀ L ∈ l, s.mayLeave L = false) :
    l.foldl (fun (s : State) L => if s.mayLeave L then s.askToLeave L else s) s = s :=
  List.foldlRecOn _ _ (motive := fun t => t = s) rfl (fun t ht L hL => by subst ht; simp [h L hL])

theorem askToLeave_onDie {L : Lease} {c : Ctx} {k : Task} {r : Rect} (hc : s.ctx? L.tid = some c)
    (hk : s.task? L.die L.entry = some k) (hr : s.onDie L.image s.takenRects (s.firingDie c k) = some r) :
    s.askToLeave L = s.requestMove L.id (.move r.x r.y) none := by
  simp [State.askToLeave, hc, hk, hr]

theorem evacuate_last {pre : List Lease} {L : Lease} (hs : s.leases = pre ++ [L]) (hpre : ∀ M ∈ pre, s.mayLeave M = false)
    (hL : s.mayLeave L = true) : s.evacuate = s.askToLeave L := by
  rw [State.evacuate, hs, List.foldl_append, foldl_ask_eq_self hpre]
  exact if_pos hL

end

/-! ### A new lease stands where it was placed (R80, R81) -/

section
variable (s : State)

theorem leases_beginParty (id : Nat) : (s.beginParty id).leases = s.leases := by
  unfold State.beginParty State.setParty
  split <;> rfl

theorem leases_beginGroups (gs : List Nat) : (s.beginGroups gs).2.leases = s.leases := by
  induction gs generalizing s with
  | nil => rfl
  | cons g gs ih => exact (ih _).trans (leases_beginParty s _)

theorem leases_bindPorts (L : Lease) (asid : Nat) (groups : List (Nat × Nat)) (ps : List PE) :
    (s.bindPorts L asid groups ps).leases = s.leases := by
  induction ps generalizing s with
  | nil => rfl
  | cons p ps ih => exact ih _

theorem leases_launchAcquire (L : Lease) (parties : List Nat) : (s.launchAcquire L parties).leases = s.leases :=
  List.foldlRecOn _ _ (motive := fun t : State => t.leases = s.leases) rfl (fun _ ht _ _ => ht)

theorem leases_tightenSeams : s.tightenSeams.leases = s.leases := by rw [tightenSeams_only]

theorem leases_placeLease (k : Task) (image : Image) (args : List Word) (r : Rect) (held : Nat) :
    (s.placeLease k image args r held).leases = s.leases ++
      [{ Lease.grant s.nextId k.ctx k.die k.idx r.x r.y r.w r.h k.firmware image args with heldPrio := held }] := by
  unfold State.placeLease
  rw [State.modTask_leases, leases_launchAcquire, leases_bindPorts, leases_beginGroups]
  rfl

theorem placed_settleTask (k : Task) (image : Image) (args : List Word) (r : Rect) (held : Nat) :
    Placed (s.settleTask k image args none r held) k image r := by
  have hleases : (s.settleTask k image args none r held).leases = _ :=
    (leases_tightenSeams _).trans (leases_placeLease s k image args r held)
  unfold Placed
  rw [hleases]
  exact ⟨_, List.mem_append_right _ (List.mem_singleton_self _), rfl, rfl, rfl, rfl, rfl, rfl⟩

end

/-! ### What the placer finds for a task (R80 to R82, R236) -/

section
variable {s s1 : State} {k : Task} {c : Ctx} (hc : s.ctx? k.ctx = some c)
include hc

theorem tryPlace_rejected {st detail : Nat} (hl : s.loadTask c k = (.reject st detail, s1)) :
    s.tryPlace k = some (s1.finishTask k false st detail) := by
  simp [State.tryPlace, hc, hl]

theorem tryPlace_waits (hl : s.loadTask c k = (.wait, s1)) : s.tryPlace k = none := by
  simp [State.tryPlace, hc, hl]

section
variable {image : Image} {args : List Word} {save : Option Save} (hl : s.loadTask c k = (.ok image args save, s1))
include hl

theorem tryPlace_noFit (hs : save.isSome = true) (hfit : s1.fitsAtAll image = false) :
    s.tryPlace k = some (s1.finishTask k false 2 13) := by
  simp [State.tryPlace, hc, hl, hs, hfit]

variable (hfit : (save.isSome && !s1.fitsAtAll image) = false)
include hfit

theorem tryPlace_fits {r : Rect}
    (hr : (s1.onDie image s1.takenRects (s1.firingDie c k) <|> s1.straddling image (s1.firingDie c k)) = some r) :
    s.tryPlace k = some (s1.settleTask k image args save r (s1.heldPriority c k)) := by
  simp only [State.tryPlace, hc, hl, hfit, hr]
  rfl

theorem tryPlace_makesWay
    (hr : (s1.onDie image s1.takenRects (s1.firingDie c k) <|> s1.straddling image (s1.firingDie c k)) = none) :
    s.tryPlace k = s1.makeWay k image args save (s1.heldPriority c k) (s1.firingDie c k) := by
  simp only [State.tryPlace, hc, hl, hfit, hr]
  rfl

end
end

/-! ### Windows that are reserved (R82, R97, R223) -/

section
variable {s : State}

theorem setHolds_resvs (id : Nat) : (s.setHolds id).resvs = s.resvs := by rw [setHolds_only]

theorem requestMove_resvs (id : Nat) (job : MoveJob) (resv : Option Nat) : (s.requestMove id job resv).resvs = s.resvs := by
  unfold State.requestMove
  split
  case h_1 => rfl
  case h_2 =>
    split
    · rfl
    · exact setHolds_resvs id

/-- A window by compaction is reserved, with the destinations of its leases, before they are asked to move. -/
theorem makeWay_compaction {k : Task} {image : Image} {args : List Word} {save : Option Save} {held d : Nat} {r : Rect}
    {ds : List (Nat × Nat × Nat)} (h : s.compaction k image d = some (r, ds)) :
    ∃ t, s.makeWay k image args save held d = some t ∧
      t.resvs = s.resvs ++ [⟨s.nextId, k.die, k.idx, r.x, r.y, r.w, r.h, held, image, args, save, ds, []⟩] := by
  unfold State.makeWay
  rw [h]
  refine ⟨_, rfl, ?_⟩
  exact List.foldlRecOn _ _ (motive := fun t : State => t.resvs = _) rfl (fun t ht x _ => (requestMove_resvs _ _ _).trans ht)

section
variable {r : Resv} (hcd : s.cdRuns = true) (hr : s.resvs.find? (fun r => r.id = s.focus.req) = some r)
  (hout : ∀ L ∈ s.leases, L.rect.meets r.window = false)
include hcd hr hout

theorem exec_reservedWindowPlace_barred {c : Nat × Nat} (hmem : c ∈ r.window.cells) (hbar : s.barred c.1 c.2 = true) :
    exec .reservedWindowPlace s = .next (s.dropResv r.id) := by
  have hgone : s.leases.any (fun L => L.rect.meets r.window) = false := List.any_eq_false.mpr (fun L hL => by simp [hout L hL])
  have hbars : r.window.cells.any (fun c => s.barred c.1 c.2) = true := List.any_eq_true.mpr ⟨c, hmem, hbar⟩
  change execReservedWindowPlace s = _
  simp [execReservedWindowPlace, hr, hcd, hgone, hbars]

variable (hopen : ∀ c ∈ r.window.cells, s.barred c.1 c.2 = false) (hrun : ∀ d ∈ r.window.dies, s.running d = true)
include hopen hrun

/-- A window that is free at last goes to its newcomer, or to the lease that it is held for. -/
theorem exec_reservedWindowPlace {k : Task} (hk : s.task? r.die r.idx = some k) : exec .reservedWindowPlace s = .next (
    (s.leaseOf k).elim ((unreserved s r).settleTask k r.image r.args r.save r.window r.heldPrio)
      (fun L => (unreserved s r).requestMove L.id (.move r.x r.y) none)) := by
  have hgone : s.leases.any (fun L => L.rect.meets r.window) = false := List.any_eq_false.mpr (fun L hL => by simp [hout L hL])
  have hbars : r.window.cells.any (fun c => s.barred c.1 c.2) = false := List.any_eq_false.mpr (fun c hc => by simp [hopen c hc])
  have hall : r.window.dies.all s.running = true := List.all_eq_true.mpr hrun
  change execReservedWindowPlace s = _
  simp only [execReservedWindowPlace, hr, hcd, hgone, hbars, hall, hk, Bool.not_true, Bool.or_self, Bool.false_eq_true, if_false]
  cases s.leaseOf k with
  | none => simp only [Option.elim_none, unreserved]
  | some L => simp only [Option.elim_some, unreserved]

end
end

/-! ### DRAIN victims at their deadlines (R98) -/

section
variable {s : State} {r : Resv} {L : Lease} {k : Task} {c : Ctx}

/-- The reservation without one of its DRAIN victims. -/
def withoutDrain (id : Nat) (r : Resv) : Resv := { r with drains := r.drains.filter (fun d => d.1 ≠ id) }

/-- A DRAIN victim that has gone is taken off its reservation. -/
theorem leads_drainDeadline_gone {id d : Nat} (hcd : s.cdRuns = true) (hr : s.resvs.find? (fun r => r.id = s.focus.req) = some r)
    (hx : r.drains.find? (fun x => x.1 = s.focus.site.lease) = some (id, d)) (hd : d ≤ s.fabric) (hL : s.lease? id = none) :
    Leads .drainDeadline s (fun t => t = { s with resvs := t.resvs } ∧
      (t.resvs.find? (fun q => q.id = r.id)).map Resv.drains = some (r.drains.filter (fun x => x.1 ≠ id))) := by
  have hid : r.id = s.focus.req := by simpa using List.find?_some hr
  refine ⟨{ s with resvs := updWhere (fun q => q.id = r.id) (withoutDrain id) s.resvs }, ?_, rfl, ?_⟩
  · change execDrainDeadline s = _
    simp only [execDrainDeadline, hr, hx, hcd, hL]
    exact if_neg (by simpa using hd)
  · have hfound : (updWhere (fun q => q.id = r.id) (withoutDrain id) s.resvs).find? (fun q => q.id = r.id) =
        (s.resvs.find? (fun q => q.id = r.id)).map (withoutDrain id) := find?_updWhere _ _ (by simp [withoutDrain]) _
    rw [← hid] at hr
    change ((updWhere (fun q => q.id = r.id) (withoutDrain id) s.resvs).find? (fun q => q.id = r.id)).map Resv.drains = _
    rw [hfound, hr]
    rfl

/-- A DRAIN victim that still runs is decided again, from row 2 on. -/
theorem exec_drainDeadline (h : DrainEnds s r L k c) :
    exec .drainDeadline s = .next ((undrained s r).victim s.focus.site.lease 2 r.id) := by
  obtain ⟨d, hd, hle⟩ := h.due
  change execDrainDeadline s = _
  simp only [execDrainDeadline, h.resv, hd, h.runs, h.lease, h.task, h.running, h.stays, Option.any_some]
  rw [if_neg (by simpa using hle)]
  rfl

/-- Rows 2 to 4 of R98 for a victim. -/
theorem victim_from_two {id resv : Nat} (hL : s.lease? id = some L) (hk : s.task? L.die L.entry = some k) (hc : s.ctx? L.tid = some c) :
    s.victim id 2 resv =
      if (imageCut L.image).isSome && (s.checkpointCost L).any (fun n => decide (n < 1024 * k.rem)) then
        s.requestMove id (.checkpoint none) (some resv)
      else if k.cls = 1 then s.requeueTask k id
      else if (s.checkpointCost L).isNone then s.killTask k 0xFFFFFFFF
      else s.requestMove id (.checkpoint (some (s.fabric + 2 * c.drain))) (some resv) := by
  simp [State.victim, hL, hk, hc]

theorem cheaperToSave_iff : CheaperToSave s L k ↔
    ((imageCut L.image).isSome && (s.checkpointCost L).any (fun n => decide (n < 1024 * k.rem))) = true := by
  simp [CheaperToSave, Option.any_eq_true]

/-- What a DRAIN victim at its deadline comes to, by rows 2 to 4. -/
theorem exec_drainDeadline_rows (h : DrainEnds s r L k c) : exec .drainDeadline s = .next (
    if (imageCut L.image).isSome && ((undrained s r).checkpointCost L).any (fun n => decide (n < 1024 * k.rem)) then
      (undrained s r).requestMove L.id (.checkpoint none) (some r.id)
    else if k.cls = 1 then (undrained s r).requeueTask k L.id
    else if ((undrained s r).checkpointCost L).isNone then (undrained s r).killTask k 0xFFFFFFFF
    else (undrained s r).requestMove L.id (.checkpoint (some (s.fabric + 2 * c.drain))) (some r.id)) := by
  rw [exec_drainDeadline h, victim_from_two (s := undrained s r) h.lease h.task h.ctx, id_of_lease? h.lease]
  rfl

end

/-! ### Tasks that end (R89, R98) -/

section
variable {s : State} {k : Task}

/-- A task that its place in the tables finds is found there no more once it has ended. -/
theorem task?_finishTask_at {die idx : Nat} (h : s.task? die idx = some k) (t : State) (killed : Bool) (status detail : Nat) :
    (t.finishTask k killed status detail).task? die idx = none := by
  obtain ⟨rfl, rfl⟩ := place_of_task? h
  exact task?_finishTask k killed status detail

/-- A row-4 victim that has reached no exchange zone by its deadline is killed (R98). -/
theorem leads_checkpointDeadline {L : Lease} {m : Move} {d : Nat} (hcd : s.cdRuns = true)
    (hL : s.lease? s.focus.site.lease = some L) (hm : L.move = some m) (hj : m.job = .checkpoint (some d)) (hstep : m.step < 2)
    (hd : d ≤ s.fabric) (hk : s.task? L.die L.entry = some k) :
    Leads .checkpointDeadline s (fun t => t.task? L.die L.entry = none) := by
  refine ⟨s.killTask k 0xFFFFFFFF, ?_, task?_finishTask_at hk s true 4 _⟩
  obtain ⟨job, step, zone, since, resv⟩ := m
  obtain rfl : job = .checkpoint (some d) := hj
  have hstep' : step < 2 := hstep
  change execCheckpointDeadline s = _
  simp [execCheckpointDeadline, hL, hm, hk, hcd, hstep', hd]

/-- A lease's task is complete when its completion batons have passed, with nothing left in its ports and no trap (R89). -/
theorem leads_taskCompletion_lease {L : Lease} (hk : s.task? s.focus.die s.focus.idx = some k) (hcmd : k.cmd = none)
    (hL : s.leaseOf k = some L) (hend : s.completes L = true) (hheld : L.heldTraps = [])
    (htraps : ∀ x ∈ s.traps, x.lease ≠ some L.id) :
    Leads .taskCompletion s (fun t => t.task? s.focus.die s.focus.idx = none) := by
  have hquiet : s.traps.any (fun x => x.lease = some L.id) = false := List.any_eq_false.mpr (fun x hx => by simp [htraps x hx])
  refine ⟨s.finishTask k false 0 0, ?_, task?_finishTask_at hk s false 0 0⟩
  change execTaskCompletion s = _
  simp only [execTaskCompletion, hk, hcmd, hL, hend, hheld, hquiet]
  rfl

/-- What becomes of a task by how its engine command ended, the command removed in `s1` (R89). -/
def endedBy (s s1 : State) (k : Task) : EngEnd → State
  | .running => s
  | .done => s1.finishTask k false 0 0
  | .failed x => s1.finishTask k false 5 x
  | .killed => s1.finishTask k true 4 cDieDown

theorem exec_taskCompletion_cmd {id : Nat} {c : EngCmd} (hk : s.task? s.focus.die s.focus.idx = some k) (hcmd : k.cmd = some id)
    (hc : s.cmd? id = some c) : exec .taskCompletion s =
      .next (endedBy s { s with cmds := s.cmds.filter (fun x => x.id ≠ id) } k c.stop) := by
  change execTaskCompletion s = _
  simp only [execTaskCompletion, hk, hcmd, hc]
  cases c.stop <;> rfl

end

/-! ### The statement -/

/-- Settles O51: a turn of the placer goes on behind the tasks that were passed over, each placement is one branch of what the placer finds,
and a lap boundary is one refill a die, which the refills of the others leave as it is. -/
theorem tasksArePlacedEndedAndPaced : Obligations.TasksArePlacedEndedAndPaced := by
  unfold Obligations.TasksArePlacedEndedAndPaced
  refine ⟨?placed, ?allPassed, ?stops, ?underWay, ?noneLeaves, ?leaves, ?rejected, ?waits, ?onDie, ?restored, ?noFit, ?straddles,
    ?compacts, ?newcomer, ?held, ?barred, ?gone, ?row2, ?row3, ?row4kill, ?row4, ?deadline, ?completes, ?command, ?refill, ?oldest⟩
  case placed =>
    intro s s1 die pre k rest hs hq hpre hk
    rw [exec_placerPlacement_serves hs, hq, placeFirst_passedOver hpre, placeFirst_cons_placed hk]
  case allPassed =>
    intro s die pre hs hq hpre
    rw [exec_placerPlacement_serves hs, hq, ← List.append_nil pre, placeFirst_passedOver hpre, List.append_nil]
    rfl
  case stops =>
    intro s die pre k rest hs hq hpre hk hskips
    rw [exec_placerPlacement_serves hs, hq, placeFirst_passedOver hpre, placeFirst_cons_stops hk hskips, passed_append]
  case underWay =>
    intro s die r hcd hd hr hdie
    rw [exec_placerPlacement hcd hd, if_pos (List.any_eq_true.mpr ⟨r, hr, decide_eq_true hdie⟩)]
  case noneLeaves => exact fun s h => foldl_ask_eq_self h
  case leaves =>
    intro s pre L c k r hs hpre hL hc hk hr
    rw [evacuate_last hs hpre hL, askToLeave_onDie hc hk hr]
  case rejected => exact fun s k c st detail s1 hc hl => tryPlace_rejected hc hl
  case waits => exact fun s s1 k c hc hl => tryPlace_waits hc hl
  case onDie =>
    intro s s1 k c image args r hc hl hr
    exact ⟨_, tryPlace_fits hc hl rfl (by rw [hr]; rfl), placed_settleTask s1 k image args r _⟩
  case restored =>
    intro s s1 k c image args b r hc hl hfit hr
    exact tryPlace_fits hc hl (by simp [hfit]) (by rw [hr]; rfl)
  case noFit => exact fun s s1 k c image args b hc hl hfit => tryPlace_noFit hc hl rfl hfit
  case straddles =>
    intro s s1 k c image args r hc hl hnone hr
    exact ⟨_, tryPlace_fits hc hl rfl (by rw [hnone, hr]; rfl), placed_settleTask s1 k image args r _⟩
  case compacts =>
    intro s s1 k c image args r ds hc hl hnone hnone' hr
    obtain ⟨t, ht, hresvs⟩ := makeWay_compaction (args := args) (save := none) (held := s1.heldPriority c k) hr
    exact ⟨t, _, (tryPlace_makesWay hc hl rfl (by rw [hnone, hnone']; rfl)).trans ht, hresvs, rfl, rfl, rfl, rfl⟩
  case newcomer =>
    intro s r k hcd hr hout hopen hrun hk hlease
    have hexec := exec_reservedWindowPlace hcd hr hout hopen hrun hk
    rw [hlease, Option.elim_none] at hexec
    refine ⟨hexec, fun hsave => ⟨_, hexec, ?_⟩⟩
    rw [hsave]
    exact placed_settleTask (unreserved s r) k r.image r.args r.window r.heldPrio
  case held =>
    intro s r k L hcd hr hout hopen hrun hk hlease
    rw [exec_reservedWindowPlace hcd hr hout hopen hrun hk, hlease, Option.elim_some]
  case barred => exact fun s r c hcd hr hout hmem hbar => exec_reservedWindowPlace_barred hcd hr hout hmem hbar
  case gone => exact fun s r id d hcd hr hx hd hL => leads_drainDeadline_gone hcd hr hx hd hL
  case row2 =>
    intro s r L k c h hsave
    rw [exec_drainDeadline_rows h, if_pos (cheaperToSave_iff.mp hsave)]
  case row3 =>
    intro s r L k c h hsave hcls
    rw [exec_drainDeadline_rows h, if_neg (mt cheaperToSave_iff.mpr hsave), if_pos hcls]
  case row4kill =>
    intro s r L k c h hsave hcls hcost
    rw [exec_drainDeadline_rows h, if_neg (mt cheaperToSave_iff.mpr hsave), if_neg hcls, if_pos (Option.isNone_iff_eq_none.mpr hcost)]
  case row4 =>
    intro s r L k c h hsave hcls hcost
    rw [exec_drainDeadline_rows h, if_neg (mt cheaperToSave_iff.mpr hsave), if_neg hcls, if_neg (mt Option.isNone_iff_eq_none.mp hcost)]
  case deadline => exact fun s L m d k hcd hL hm hj hstep hd hk => leads_checkpointDeadline hcd hL hm hj hstep hd hk
  case completes =>
    intro s k L hk hcmd hL hb hdone hsinks hports hheld htraps
    refine leads_taskCompletion_lease hk hcmd hL ?_ hheld htraps
    simp only [State.completes, hb, hsinks, List.all_eq_true.mpr hdone, List.all_eq_true.mpr hports]
    rfl
  case command =>
    rintro s s1 k id c hk hcmd hc rfl
    rw [exec_taskCompletion_cmd hk hcmd hc]
    exact ⟨fun h => by rw [h]; rfl, fun x h => by rw [h]; rfl, fun h => by rw [h]; rfl⟩
  case refill =>
    rintro s s1 l1 b l2 budget pool xs hp hu hf hb hne rfl rfl rfl rfl
    refine ⟨_, exec_lapBoundary hp hu hf, ?_⟩
    obtain ⟨hbudget, hports⟩ := refilledAs_boundary hb hne
    rw [reroute_only]
    exact ⟨rfl, hbudget, hports⟩
  case oldest =>
    intro s hp hu hf
    refine ⟨_, exec_lapBoundary hp hu hf, ?_⟩
    rw [reroute_only]
    exact oldestNow_spec s

end Sys2Proof.Proofs.Placing
end

section
/-! Replies, acknowledgements and refusals at a port, and what a port sends again (R102, R152, R153, R176, R183, R188, R225, R261, R335,
R380): what each event answers, then the statement that rests on it. -/

namespace Sys2Proof.Proofs.Replies

open Sys2Proof Sys2Proof.Machine Sys2Proof.Claims Sys2Proof.Proofs.Homes Sys2Proof.Proofs.Moves

/-! ### A PE of a lease that changes -/

section
variable {s t : State} {site : SiteRef} {pe : PE}

theorem pe?_of_leases (h : t.leases = s.leases) (site : SiteRef) : t.pe? site = s.pe? site := by
  unfold State.pe? State.lease?
  rw [h]

/-- The PE of a site, changed. -/
theorem pe?_modPE_site {f : PE → PE} (hf : ∀ p, (f p).dx = p.dx ∧ (f p).dy = p.dy) (h : s.pe? site = some pe) :
    (s.modPE site f).pe? site = some (f pe) := by
  have hlease : (s.modPE site f).lease? site.lease = (s.lease? site.lease).map (fun L => L.modPE site.dx site.dy f) :=
    lease?_modLease s _ _ (fun _ => rfl)
  unfold State.pe? at h ⊢
  rw [hlease]
  cases hL : s.lease? site.lease with
  | none => simp [hL] at h
  | some L =>
    rw [hL] at h
    exact (pe?_modPE L _ _ f hf).trans (congrArg (Option.map f) h)

/-- A change of leases that leaves their PEs as they are. -/
theorem pe?_modLease_pes (id : Nat) {f : Lease → Lease} (hid : ∀ L, (f L).id = L.id) (hpes : ∀ L, (f L).pes = L.pes) (site : SiteRef) :
    (s.modLease id f).pe? site = s.pe? site := by
  by_cases h : site.lease = id
  · subst h
    unfold State.pe?
    rw [lease?_modLease s _ f hid]
    cases s.lease? site.lease with
    | none => rfl
    | some L => exact congrArg (List.find? _) (hpes L)
  · unfold State.pe?
    rw [lease?_modLease_other s f hid h]

theorem pe?_progress (s : State) (id : Nat) (site : SiteRef) : (s.progress id).pe? site = s.pe? site :=
  pe?_modLease_pes (f := fun L => { L with stall := 0, stalled := false }) id (fun _ => rfl) (fun _ => rfl) site

theorem pe?_modPort (s : State) (id : Nat) (f : Port → Port) (site : SiteRef) : (s.modPort id f).pe? site = s.pe? site :=
  pe?_of_leases rfl site

theorem portProgress_only (s : State) (p : Port) : s.portProgress p = { s with leases := (s.portProgress p).leases } := by
  unfold State.portProgress
  split <;> rfl

theorem ports_portProgress (s : State) (p : Port) : (s.portProgress p).ports = s.ports := by rw [portProgress_only]

theorem port?_portProgress (s : State) (p : Port) (id : Nat) : (s.portProgress p).port? id = s.port? id := by
  unfold State.port?
  rw [ports_portProgress]

theorem traps_portProgress (s : State) (p : Port) : (s.portProgress p).traps = s.traps := by rw [portProgress_only]

theorem pe?_portProgress (s : State) (p : Port) (site : SiteRef) : (s.portProgress p).pe? site = s.pe? site := by
  unfold State.portProgress
  split
  · exact pe?_progress s _ site
  · rfl

end

/-! ### A request leaves its port (R152) -/

section
variable {s : State} {p q : Port} {id : Nat}

theorem ids_unbarred (p : Port) : p.unbarred.queue.map Req.id = p.queue.map Req.id := by
  simp only [Port.unbarred, List.map_map]
  refine List.map_congr_left fun r _ => ?_
  simp only [Function.comp_apply]
  split <;> rfl

theorem without_queue (p : Port) (id : Nat) : ∀ r ∈ (p.without id).queue, r.id ≠ id := by
  intro r hr
  have hids : r.id ∈ (p.without id).queue.map Req.id := List.mem_map_of_mem hr
  rw [Port.without, ids_unbarred] at hids
  obtain ⟨x, hx, hid⟩ := List.mem_map.mp hids
  simpa [← hid] using (List.mem_filter.mp hx).2

theorem without_sideLog (p : Port) (id : Nat) : ∀ e ∈ (p.without id).sideLog, e.req.id ≠ id := by
  intro e he
  simpa using (List.mem_filter.mp he).2

theorem freeReq_bound (hb : p.bound = true) : s.freeReq p id = s.modPort p.id (fun q => q.without id) := by
  unfold State.freeReq
  rw [hb]
  rfl

/-- A bound port's entry is free once its request has left, whatever its lease's stall count then is. -/
theorem freed_freeReq (hb : p.bound = true) (hq : s.port? p.id = some q) : Freed ((s.freeReq p id).portProgress p) p id := by
  refine ⟨q.without id, ?_, without_queue q id, without_sideLog q id⟩
  rw [port?_portProgress, freeReq_bound hb, port?_modPort s p.id (fun q => q.without id) (fun _ => rfl), hq, Option.map_some]

end

/-! ### Loads and acknowledgements (R153, R261) -/

section
variable {s : State} {p : Port} {r : Req} {d : Line} {e : Option Word}

theorem port?_of_atPort (h : AtPort s p r) : s.port? p.id = some p := by
  obtain ⟨hp, -, -⟩ := h
  rwa [id_of_port? hp]

theorem req?_of_atPort (h : AtPort s p r) : p.req? s.focus.req = some r := by
  obtain ⟨-, hr, -⟩ := h
  unfold Port.req?
  rw [hr]

theorem exec_loadReply_load {ro : Bool} {s1 : State} (h : AtPort s p r) (ho : r.op = .load ro) (hst : r.status = .done d e)
    (hturn : p.loadBefore r.id = false) (hb : p.bound = true) (hd : s.deliver p r d e = some s1) :
    exec .loadReply s = .next ((s1.freeReq p r.id).portProgress p) := by
  obtain ⟨hp, hr, hf⟩ := h
  change execLoadReply s = _
  simp [execLoadReply, hp, hr, hf, ho, hst, hturn, hb, hd]

theorem exec_loadReply_pref (h : AtPort s p r) (ho : r.op = .pref) (hst : r.status = .done d e) :
    exec .loadReply s = .next ((s.freeReq p r.id).portProgress p) := by
  obtain ⟨hp, hr, hf⟩ := h
  change execLoadReply s = _
  simp [execLoadReply, hp, hr, hf, ho, hst]

theorem exec_writeAck_store (h : AtPort s p r) (ho : r.op = .store) (hst : r.status = .done d e) (hd : r.dest = .none) :
    exec .writeAck s = .next ((s.freeReq p r.id).portProgress p) := by
  have hr := req?_of_atPort h
  obtain ⟨hp, -, hf⟩ := h
  change execWriteAck s = _
  simp [execWriteAck, hp, hr, hf, ho, hst, hd]

/-- The token that an element of a load pattern brings: its data, or the ERR of a poisoned line. -/
def elementToken (r : Req) (d : Line) (e : Option Word) : Token :=
  match e with
  | some w => Token.ofErr w false
  | none => patternTok r.size (lineGet d (r.va % 64) r.size)

/-- A trigger sees it: it is DATA or ERR. -/
theorem seen_elementToken (r : Req) (d : Line) (e : Option Word) : (elementToken r d e).seen = true := by
  unfold elementToken
  split
  · rfl
  · unfold patternTok
    split <;> rfl

theorem deliver_element {site : SiteRef} {ch : Nat} {L : Lease} {pe : PE} (ho : r.op = .load false) (hdest : r.dest = .chan site ch)
    (hL : s.lease? site.lease = some L) (hpe : s.pe? site = some pe) (hu : L.unwind = none) (hroom : 1 ≤ pe.outFree L.plane ch) :
    s.deliver p r d e = some (s.modPE site (fun q => q.pushOut L.plane ch (elementToken r d e))) := by
  have hseen := seen_elementToken r d e
  unfold State.deliver
  cases e <;> simp_all [elementToken]

theorem outEnd_pushOut (pe : PE) (plane : Nat) {ch : Nat} (t : Token) (hch : ch < 8) :
    ((pe.pushOut plane ch t).outEnd ch).q = (pe.outEnd ch).q ++ [t.inClass ((pe.cfg plane).outVec ch)] := by
  simp [PE.pushOut, PE.outEnd, hch]

theorem leads_loadReply_element {site : SiteRef} {ch : Nat} {L : Lease} {pe : PE} (h : AtPort s p r) (ho : r.op = .load false)
    (hst : r.status = .done d e) (hturn : p.loadBefore r.id = false) (hb : p.bound = true) (hdest : r.dest = .chan site ch)
    (hL : s.lease? site.lease = some L) (hpe : s.pe? site = some pe) (hu : L.unwind = none) (hroom : 1 ≤ pe.outFree L.plane ch)
    (hch : ch < 8) : Leads .loadReply s (fun t => Freed t p r.id ∧ (t.pe? site).map (fun q => (q.outEnd ch).q) =
      some ((pe.outEnd ch).q ++ [(elementToken r d e).inClass ((pe.cfg L.plane).outVec ch)])) := by
  refine ⟨_, exec_loadReply_load h ho hst hturn hb (deliver_element ho hdest hL hpe hu hroom), freed_freeReq hb (port?_of_atPort h), ?_⟩
  rw [pe?_portProgress, freeReq_bound hb, pe?_modPort,
    pe?_modPE_site (f := fun q => q.pushOut L.plane ch (elementToken r d e)) (fun _ => ⟨rfl, rfl⟩) hpe, Option.map_some, outEnd_pushOut pe L.plane _ hch]

end

/-! ### Traps of requests (R104, R374) -/

theorem errCause_withCause (w : Word) (c : Nat) : errCause (withCause w c) = c % 64 := by
  have hw := w.isLt
  simp only [errCause, withCause, setField, bitsOf, BitVec.toNat_ofNat, Nat.shiftRight_eq_div_pow]
  omega

section
variable {s : State} {p : Port} {r : Req} {site : SiteRef}

theorem portLease_of_mu (h : p.owner = .mu site) : s.portLease p = some site.lease := by
  unfold State.portLease
  rw [h]

/-- The trap of a request that no other party takes part in. -/
def trapOf (s : State) (p : Port) (r : Req) (c : Nat) : Trap :=
  { tid := p.ctx, lease := s.portLease p, cmd := s.portCmd p, err := withCause (s.originNow (s.portLease p) r) c, va := r.va
    partyA := r.party, partyB := 0, unconf := false, degr := false, port := some p.id, req := some r.id }

/-- Outside a region nothing catches a trap of a lease. -/
theorem raise_outside_region {x : Trap} {L : Lease} {id : Nat} (hx : x.lease = some id) (hL : s.lease? id = some L)
    (hr : L.region = none) (hu : L.unwind = none) : s.raise x = { s with traps := s.traps ++ [x] } := by
  simp [State.raise, hx, hL, hr, hu]

theorem reqTrap_outside_region {L : Lease} (c : Nat) (ho : p.owner = .mu site) (hL : s.lease? site.lease = some L)
    (hr : L.region = none) (hu : L.unwind = none) : s.reqTrap p r c 0 false = { s with traps := s.traps ++ [trapOf s p r c] } :=
  raise_outside_region (x := trapOf s p r c) (portLease_of_mu ho) hL hr hu

theorem degrade_outside_region {L : Lease} {id : Nat} (hL : s.lease? id = some L) (hr : L.region = none) (inv : Nat) (origin : Word) :
    s.degrade id inv origin = s := by
  simp [State.degrade, State.regionAt, hL, hr]

end

/-! ### A refused load (R152, R176) -/

section
variable {s : State} {p : Port} {r : Req} {c : Nat}

theorem exec_portRefusal_behind {ro : Bool} (h : AtPort s p r) (ho : r.op = .load ro) (hst : r.status = .refused c) (hb : p.bound = true)
    (hbar : p.logBars r = true) : exec .portRefusal s = .next (s.setStatus p r .behind) := by
  have hr := req?_of_atPort h
  obtain ⟨hp, -, hf⟩ := h
  change execPortRefusal s = _
  simp [execPortRefusal, hp, hr, hf, ho, hst, hb, hbar, ReqOp.logged]

/-- No entry of a page stops it where the side log holds none of the page. -/
theorem stopsPage_of_logsPage {va : Nat} (h : p.logsPage va = false) : stopsPage p.sideLog va = false := by
  unfold Port.logsPage at h
  rw [List.any_eq_false] at h
  unfold stopsPage
  rw [List.any_eq_false]
  intro e he
  simp [show page64 e.req.va ≠ page64 va by simpa using h e he]

theorem exec_portRefusal_load {ro : Bool} (h : AtPort s p r) (ho : r.op = .load ro) (hst : r.status = .refused c) (hb : p.bound = true)
    (hbar : p.logBars r = false) (hpage : p.logsPage r.va = false) : exec .portRefusal s =
      .next (((s.setStatus p r (.held c false)).reqTrap p r c 0 false).portProgress p) := by
  have hr := req?_of_atPort h
  have hstop := stopsPage_of_logsPage hpage
  obtain ⟨hp, -, hf⟩ := h
  change execPortRefusal s = _
  simp [execPortRefusal, hp, hr, hf, ho, hst, hb, hbar, hpage, hstop, ReqOp.logged]

theorem portReq_of_atPort (h : AtPort s p r) : PortReq s p r := ⟨h.1, req?_of_atPort h⟩

theorem leads_portRefusal_load {ro : Bool} {site : SiteRef} {L : Lease} (h : AtPort s p r) (ho : r.op = .load ro)
    (hst : r.status = .refused c) (hb : p.bound = true) (hown : p.owner = .mu site) (hbar : p.logBars r = false)
    (hpage : p.logsPage r.va = false) (hL : s.lease? site.lease = some L) (hr : L.region = none) (hu : L.unwind = none) :
    Leads .portRefusal s (fun t => statusIn t p r.id = some (.held c false) ∧ ∃ x, t.traps = s.traps ++ [x] ∧ x.lease = some site.lease ∧
      x.tid = p.ctx ∧ errCause x.err = c % 64 ∧ x.va = r.va ∧ x.port = some p.id ∧ x.req = some r.id) := by
  have htrap := reqTrap_outside_region (s := s.setStatus p r (.held c false)) (r := r) c hown hL hr hu
  have hheld := statusIn_setStatus (.held c false) (stands_of_portReq (portReq_of_atPort h))
  refine ⟨_, exec_portRefusal_load h ho hst hb hbar hpage, ?_, trapOf (s.setStatus p r (.held c false)) p r c, ?_, portLease_of_mu hown, rfl,
    errCause_withCause _ c, rfl, rfl, rfl⟩
  · unfold statusIn
    rw [port?_portProgress, htrap]
    exact hheld
  · rw [traps_portProgress, htrap]
    rfl

end

/-! ### A refused write goes to the side log (R152, R176) -/

section
variable {l : List SideEntry} {e n : SideEntry} {c : Nat}

theorem ids_yields (l : List SideEntry) : (yields l).map (fun e => e.req.id) = l.map (fun e => e.req.id) := by
  induction l with
  | nil => rfl
  | cons e l ih =>
    unfold yields
    split
    · simp only [List.map_cons, List.map_map]
      congr 1
      refine List.map_congr_left fun x _ => ?_
      simp only [Function.comp_apply]
      split <;> rfl
    · rw [List.map_cons, List.map_cons, ih]

/-- Only entries that were to go on yield. -/
theorem mem_yields (he : e ∈ l) (hst : e.req.status ≠ .cleared) : e ∈ yields l := by
  induction l with
  | nil => exact he
  | cons a l ih =>
    unfold yields
    split
    · rcases List.mem_cons.mp he with rfl | he
      · exact List.mem_cons_self
      · exact List.mem_cons_of_mem _ (List.mem_map.mpr ⟨e, he, if_neg hst⟩)
    · rcases List.mem_cons.mp he with rfl | he
      · exact List.mem_cons_self
      · exact List.mem_cons_of_mem _ (ih he)

/-- The first entry of its page is held for its cause, in issue order. -/
theorem logged_first (h : l.any (fun e => page64 e.req.va = page64 n.req.va) = false) (c : Nat) : logged n c l =
    l.filter (fun e => e.req.id < n.req.id) ++ { n with req := { n.req with status := .held c false } } ::
      l.filter (fun e => e.req.id ≥ n.req.id) := by
  unfold logged
  simp only [h]
  rfl

theorem ids_logged_first (h : l.any (fun e => page64 e.req.va = page64 n.req.va) = false) (c : Nat) :
    (logged n c l).map (fun e => e.req.id) = (l.map (fun e => e.req.id)).filter (fun k => k < n.req.id) ++
      n.req.id :: (l.map (fun e => e.req.id)).filter (fun k => n.req.id ≤ k) := by
  rw [logged_first h, List.map_append, List.map_cons, List.filter_map, List.filter_map]
  rfl

end

section
variable {s : State} {p : Port} {r : Req} {c : Nat}

theorem ids_barred (p : Port) : p.barred.queue.map Req.id = p.queue.map Req.id := by
  simp only [Port.barred, List.map_map]
  refine List.map_congr_left fun r _ => ?_
  simp only [Function.comp_apply]
  split <;> rfl

/-- A port whose refused write has gone to the side log. -/
def portWithLogged (r : Req) (c : Nat) (p : Port) : Port :=
  Port.barred { p with queue := p.queue.filter (fun q => q.id ≠ r.id), sideLog := yields (logged ⟨r, r.logMask⟩ c p.sideLog) }

theorem portWithLogged_queue (r : Req) (c : Nat) (p : Port) : ∀ x ∈ (portWithLogged r c p).queue, x.id ≠ r.id := by
  intro x hx
  have hids : x.id ∈ (portWithLogged r c p).queue.map Req.id := List.mem_map_of_mem hx
  rw [portWithLogged, ids_barred] at hids
  obtain ⟨y, hy, hid⟩ := List.mem_map.mp hids
  simpa [← hid] using (List.mem_filter.mp hy).2

theorem exec_portRefusal_store {site : SiteRef} {L : Lease} (h : AtPort s p r) (ho : r.op = .store) (hst : r.status = .refused c)
    (hb : p.bound = true) (hown : p.owner = .mu site) (hroom : p.slstop = false) (hpage : p.logsPage r.va = false)
    (hL : s.lease? site.lease = some L) (hr : L.region = none) (hu : L.unwind = none) : exec .portRefusal s =
      .next ({ s.toLog p r c with traps := s.traps ++ [trapOf (s.toLog p r c) p r c] }.portProgress p) := by
  have hreq := req?_of_atPort h
  have htrap := reqTrap_outside_region (s := s.toLog p r c) (r := r) c hown hL hr hu
  obtain ⟨hp, hq, hf⟩ := h
  have hany : p.queue.any (fun q => q.id = r.id) = true :=
    List.any_eq_true.mpr ⟨r, List.mem_of_find?_eq_some hq, decide_eq_true rfl⟩
  have hdeg := degrade_outside_region (s := { s.toLog p r c with traps := s.traps ++ [trapOf (s.toLog p r c) p r c] }) hL hr r.inv r.origin
  change execPortRefusal s = _
  simp only [execPortRefusal, hp, hreq, hst, hf, hb, ho, ReqOp.logged, hany, hroom, hpage, htrap, hown]
  exact congrArg (fun t => Host.Outcome.next (State.portProgress t p)) hdeg

theorem leads_portRefusal_store {site : SiteRef} {L : Lease} (h : AtPort s p r) (ho : r.op = .store) (hst : r.status = .refused c)
    (hb : p.bound = true) (hown : p.owner = .mu site) (hroom : p.slstop = false) (hpage : p.logsPage r.va = false)
    (hL : s.lease? site.lease = some L) (hr : L.region = none) (hu : L.unwind = none) :
    Leads .portRefusal s (fun t => (∃ q, t.port? p.id = some q ∧ (∀ x ∈ q.queue, x.id ≠ r.id) ∧
      (⟨{ r with status := .held c false }, BitVec.ofNat 64 ((2 ^ r.size - 1) * 2 ^ (r.va % 64))⟩ : SideEntry) ∈ q.sideLog ∧
      q.sideLog.map (fun e => e.req.id) = (p.sideLog.map (fun e => e.req.id)).filter (fun k => k < r.id) ++
        r.id :: (p.sideLog.map (fun e => e.req.id)).filter (fun k => r.id ≤ k)) ∧
      ∃ x, t.traps = s.traps ++ [x] ∧ x.va = r.va) := by
  have hport : (s.toLog p r c).port? p.id = some (portWithLogged r c p) :=
    (port?_modPort s p.id (portWithLogged r c) (fun _ => rfl)).trans (congrArg _ (port?_of_atPort h))
  have hmask : r.logMask = BitVec.ofNat 64 ((2 ^ r.size - 1) * 2 ^ (r.va % 64)) := by simp [Req.logMask, ho]
  refine ⟨_, exec_portRefusal_store h ho hst hb hown hroom hpage hL hr hu, ⟨portWithLogged r c p, ?_, portWithLogged_queue r c p, ?_, ?_⟩,
    trapOf (s.toLog p r c) p r c, ?_, rfl⟩
  · rw [port?_portProgress]
    exact hport
  · refine mem_yields ?_ (by simp)
    rw [logged_first (n := ⟨r, r.logMask⟩) hpage, ← hmask]
    exact List.mem_append_right _ List.mem_cons_self
  · exact (ids_yields _).trans (ids_logged_first (n := ⟨r, r.logMask⟩) hpage c)
  · rw [traps_portProgress]

end

/-! ### What a port holds is sent again (R102, R176, R380) -/

section
variable {s : State} {p : Port} {r : Req} {id : Nat}

/-- A request sent again from a port: on its way, or behind the side-log entries that bar it. -/
def resent (p : Port) (r : Req) : Req := { r.at_ (if p.logBars r then .behind else r.firstStatus) with again := true }

theorem port?_resend (h : s.port? p.id = some p) (r : Req) : (s.resend p r).port? p.id =
    some { changedPort r.id (resent p) p with bucket := p.bucket - 1, issued := true } := by
  have hreq : (s.modReq p.id r.id (resent p)).port? p.id = some (changedPort r.id (resent p) p) :=
    (port?_modReq _).trans (congrArg _ h)
  have hcharged := port?_modPort (s.modReq p.id r.id (resent p)) p.id (fun q => { q with bucket := q.bucket - 1, issued := true })
    (fun _ => rfl)
  rw [hreq] at hcharged
  obtain ⟨k, hk⟩ := Package.exists_count_eq ((s.modReq p.id r.id (resent p)).modPort p.id
    (fun q => { q with bucket := q.bucket - 1, issued := true })) 1 p.ctx p.die 6
  unfold State.resend
  exact (congrArg (fun t => State.port? t p.id) hk).trans hcharged

theorem exec_sideLogReplay {e : SideEntry} {rest : List SideEntry} (hp : s.port? s.focus.port = some p) (hlog : p.sideLog = e :: rest)
    (hst : e.req.status = .cleared ∨ ∃ b, e.req.status = .held 0 b) (h : Resends s p e.req.id) (hm : s.portMoves p = false) :
    exec .sideLogReplay s = .next (s.resend p e.req) := by
  obtain ⟨hfirst, hruns, hbucket, hup⟩ := h
  change execSideLogReplay s = _
  rcases hst with hst | ⟨b, hst⟩ <;> simp_all [execSideLogReplay]

theorem exec_sideLogReplay_moving (hp : s.port? s.focus.port = some p) (hm : s.portMoves p = true) : exec .sideLogReplay s = .next s := by
  change execSideLogReplay s = _
  cases hlog : p.sideLog with
  | nil => simp [execSideLogReplay, hp, hlog]
  | cons e rest => simp [execSideLogReplay, hp, hlog, hm]

theorem exec_replayRelease (hp : s.port? s.focus.port = some p) (hr : p.queue.find? (fun r => r.status = .cleared) = some r)
    (h : Resends s p r.id) : exec .replayRelease s = .next (s.resend p r) := by
  obtain ⟨hfirst, hruns, hbucket, hup⟩ := h
  change execReplayRelease s = _
  simp [execReplayRelease, hp, hr, hfirst, hruns, hbucket, hup]

end

/-! ### The statement -/

/-- Settles O56: a reply is one branch of its event's meaning, and the port is found without the entry, with it in its side log, or with
the request sent again. -/
theorem repliesReachTheirPorts : Obligations.RepliesReachTheirPorts := by
  unfold Obligations.RepliesReachTheirPorts
  refine ⟨?load, ?element, ?pref, ?ack, ?behind, ?held, ?logged, ?replay, ?moving, ?release⟩
  case load => exact fun s p r ro d e s1 h ho hst hturn hb hd => exec_loadReply_load h ho hst hturn hb hd
  case element =>
    intro s p r d e site ch L pe h ho hst hturn hb hdest hL hpe hu hroom hch _
    exact leads_loadReply_element h ho hst hturn hb hdest hL hpe hu hroom hch
  case pref => exact fun s p r d e h ho hst hb => ⟨_, exec_loadReply_pref h ho hst, freed_freeReq hb (port?_of_atPort h)⟩
  case ack => exact fun s p r d e h ho hst hd hb => ⟨_, exec_writeAck_store h ho hst hd, freed_freeReq hb (port?_of_atPort h)⟩
  case behind => exact fun s p r c h ho hst hb hbar => exec_portRefusal_behind h ho hst hb hbar
  case held =>
    rintro s p r c site h ho hst hb hown hbar hpage ⟨L, hL, hr, hu⟩
    exact leads_portRefusal_load h ho hst hb hown hbar hpage hL hr hu
  case logged =>
    rintro s p r c site h ho hst hb hown hroom hpage ⟨L, hL, hr, hu⟩
    exact leads_portRefusal_store h ho hst hb hown hroom hpage hL hr hu
  case replay =>
    intro s p e rest hp hlog hst h hm
    have hport : s.port? p.id = some p := by rwa [id_of_port? hp]
    refine ⟨_, exec_sideLogReplay hp hlog hst h hm, _, port?_resend hport e.req, rfl, ?_⟩
    simp [changedPort, updWhere, hlog, resent, Req.at_]
  case moving => exact fun s p hp hm => exec_sideLogReplay_moving hp hm
  case release =>
    intro s p r hp hr h
    have hport : s.port? p.id = some p := by rwa [id_of_port? hp]
    have hmem : resent p r ∈ (changedPort r.id (resent p) p).queue :=
      List.mem_map.mpr ⟨r, List.mem_of_find?_eq_some hr, if_pos (decide_eq_true rfl)⟩
    exact ⟨_, exec_replayRelease hp hr h, _, port?_resend hport r, rfl, resent p r, hmem, rfl, rfl⟩

end Sys2Proof.Proofs.Replies
end

section
/-! Engines and sync units (R95, R96, R135, R136, R150, R158, R179, R183, R353 to R356, R371): what each event answers, then the statement
that rests on it. -/

namespace Sys2Proof.Proofs.Engines

open Sys2Proof Sys2Proof.Machine Sys2Proof.Claims Sys2Proof.Proofs.Homes Sys2Proof.Proofs.Replies

/-! ### Dispatch (R96, R158, R371) -/

/-- A lone queue is the one that the arbiter chooses. -/
theorem arbitrate_single (s : State) (q : VQueue) : s.arbitrate [q] = some (q, ceilDiv q.need (s.quantum q.tid)) := by
  simp [State.arbitrate, minN?]

/-- A queue whose head entry has been taken with no round of the arbiter. -/
def headTaken (q : VQueue) (e : VEntry) (rest : List VEntry) : VQueue :=
  { q with entries := rest, deficit := if rest.isEmpty then 0 else q.deficit - e.len }

/-- The engine in focus as it begins an entry through a port. -/
def begun (s : State) (port : Nat) (e : VEntry) : Engine :=
  ⟨s.focus.die, s.focus.kind, s.focus.idx, port, e, e.off, e.off, [], [], e.off, []⟩

/-- The port that the engine in focus binds for a command. -/
def boundPort (s : State) (tid asid party : Nat) : Port :=
  Port.fresh s.freePort (.engine s.focus.die s.focus.kind s.focus.idx) s.focus.die tid asid party (s.sfrOf party) 0 false

section
variable {s : State} {q : VQueue} {e : VEntry} {rest : List VEntry} {c : EngCmd} {x : Ctx} (hup : s.uncoreStopped = false)
  (hdie : s.dieUp s.focus.die = true) (hidx : s.focus.idx < engCount s.focus.kind)
  (hfree : ∀ g ∈ s.engines, ¬(g.die = s.focus.die ∧ g.kind = s.focus.kind ∧ g.idx = s.focus.idx)) (hqs : s.vqueues = [q])
  (hqd : q.die = s.focus.die) (hqk : q.kind = s.focus.kind) (hent : q.entries = e :: rest) (hready : s.headReady q = true)
  (hc : s.cmd? e.cmd = some c) (hx : s.ctx? q.tid = some x) (hparty : c.party ≠ 0)
include hup hdie hidx hfree hqs hqd hqk hent hready hc hx hparty

/-- A command whose party lives goes on through the port that its engine left bound, or through a new one. -/
theorem exec_engineDispatch : exec .engineDispatch s = .next (
    match s.keptPort s.focus.die s.focus.kind s.focus.idx c.party with
    | some p => { s with vqueues := [headTaken q e rest], engines := s.engines ++ [begun s p.id e] }
    | none => { s with
      vqueues := [headTaken q e rest], engines := s.engines ++ [begun s s.freePort e]
      ports := s.ports ++ [boundPort s q.tid x.asid c.party] }) := by
  have hall : s.vqueues.filter (fun q => q.die = s.focus.die && q.kind = s.focus.kind && !q.entries.isEmpty) = [q] := by
    simp [hqs, hqd, hqk, hent]
  have hchosen : [q].filter s.headReady = [q] := by simp [hready]
  have hothers : s.vqueues.filter (fun x => !decide (x.die = q.die ∧ x.kind = q.kind ∧ x.tid = q.tid)) = [] := by simp [hqs]
  have hidle : s.engines.any (fun g => g.die = s.focus.die && g.kind = s.focus.kind && g.idx = s.focus.idx) = false :=
    List.any_eq_false.mpr fun g hg => by simpa [and_assoc] using hfree g hg
  have hbusy : ¬(s.uncoreStopped || !s.dieUp s.focus.die || decide (s.focus.idx ≥ engCount s.focus.kind) ||
      s.engines.any (fun g => g.die = s.focus.die && g.kind = s.focus.kind && g.idx = s.focus.idx)) = true := by
    simp [hup, hdie, Nat.not_le.mpr hidx, hidle]
  have hdeficit : q.deficit + (if [q].length = 1 then 0 else ceilDiv q.need (s.quantum q.tid)) * s.quantum q.tid - e.len =
      q.deficit - e.len := by simp
  change execEngineDispatch s = _
  unfold execEngineDispatch
  dsimp only
  rw [hall, hchosen, arbitrate_single, if_neg hbusy]
  dsimp only
  rw [hent]
  dsimp only
  rw [hc, hx]
  dsimp only
  rw [if_pos hparty, if_pos hparty, hothers, hdeficit]
  change (match s.keptPort s.focus.die s.focus.kind s.focus.idx c.party with
    | some p => _
    | none => _) = _
  cases s.keptPort s.focus.die s.focus.kind s.focus.idx c.party <;> rfl

end

/-! ### A running engine's writes, and the end of a segment (R158, R354, R371) -/

section
variable {s : State} {g : Engine} {c : EngCmd} (hup : s.uncoreStopped = false)
  (hg : s.engines.find? (fun e => e.die = s.focus.die && e.kind = s.focus.kind && e.idx = s.focus.idx) = some g)
  (hc : s.cmd? g.cur.cmd = some c)
include hup hg hc

/-- A write that is ready goes first. -/
theorem exec_engineIssue_write {p : Port} {w : OutChunk} {rest : List OutChunk} (hp : s.port? g.port = some p) (hrun : c.stop = .running)
    (htodo : (g.begin_ c).todo = w :: rest) (hmay : s.mayIssue p .store w.va = true) : exec .engineIssue s =
      .next ((({ s with nextId := s.nextId + 1 } : State).issue p.id
        (engineReq c p s.nextId .store w.va w.bytes.length .none w.bytes w.poison)).modEngine p.id
        (fun _ => { g.begin_ c with todo := rest })) := by
  have hgo : ¬(s.uncoreStopped || decide (c.stop ≠ .running)) = true := by simp [hup, hrun]
  change execEngineIssue s = _
  unfold execEngineIssue
  dsimp only
  rw [hg]
  dsimp only
  rw [hc, hp]
  dsimp only
  rw [if_neg hgo, htodo]
  dsimp only
  rw [if_pos hmay]
  rfl

/-- A copied segment that is done ends its command with the last one, and else leaves it to the engines of the others. -/
theorem exec_engineCompletion_copy (hdr : s.drained g.port = true) (hop : c.op = .cpy) (hrun : c.stop = .running)
    (hend : g.opos = g.stopAt) (htodo : g.todo = []) (hout : g.out = []) : exec .engineCompletion s = .next (
      if c.segsLeft ≤ 1 then
        (s.freeEngine g.port).endCmd { c with segsLeft := c.segsLeft - 1, turn := max c.turn g.stopAt } .done
      else (s.modCmd c.id (fun _ => { c with segsLeft := c.segsLeft - 1, turn := max c.turn g.stopAt })).leaveEngine g.port) := by
  have hgo : ¬(s.uncoreStopped || !s.drained g.port) = true := by simp [hup, hdr]
  change execEngineCompletion s = _
  unfold execEngineCompletion
  dsimp only
  rw [hg]
  dsimp only
  rw [hc]
  dsimp only
  rw [if_neg hgo, hrun, hop]
  by_cases hlast : c.segsLeft ≤ 1 <;> simp [hend, htodo, hout, hlast]

end

/-! ### Slots of a circular buffer (R150) -/

theorem cb_modCb (u : Mu) {k : Nat} (f : Cbd → Cbd) (hk : k < 16) : (u.modCb k f).cb k = f (u.cb k) := by
  simp [Mu.modCb, Mu.cb, hk]

/-- A buffer whose first reserved slots have been published, as many as landed whole at PRODP. -/
def published (d : Cbd) : Cbd :=
  let n := (d.resv.takeWhile CbSlot.landed).length
  { d with
    resv := d.resv.drop n, pend := d.pend - BitVec.ofNat 13 n, filled := d.filled + BitVec.ofNat 13 n
    prodp := d.advance d.prodp n }

theorem exec_cbSlotLanded (s : State) : exec .cbSlotLanded s = .next (s.modMu s.focus.site (fun u => u.modCb s.focus.ch published)) := rfl

/-- One slot has landed, and the one behind it has not. -/
theorem published_one {d : Cbd} {x : Nat} {rest : List CbSlot} (h : d.resv = ⟨x, true⟩ :: rest) (hrest : ∀ y ∈ rest, y.landed = false) :
    (published d).resv = rest ∧ (published d).filled = d.filled + 1 ∧ (published d).pend = d.pend - 1 := by
  have hnone : rest.takeWhile CbSlot.landed = [] := by
    cases rest with
    | nil => rfl
    | cons y rest => simp [hrest y List.mem_cons_self]
  simp [published, h, hnone]

theorem pe?_modMu {s : State} {site : SiteRef} {pe : PE} (f : Mu → Mu) (h : s.pe? site = some pe) :
    (s.modMu site f).pe? site = some { pe with mu := f pe.mu } :=
  pe?_modPE_site (f := fun p => { p with mu := f p.mu }) (fun _ => ⟨rfl, rfl⟩) h

/-! ### Sync units (R36, R135, R136) -/

section
variable {s : State} {m : SyncMsg} {x : Team} {k : Nat}

theorem exec_syncUnitOp {rest : List SyncMsg} (h : s.nextSync s.focus.die [] s.syncQ = some (m, rest)) : exec .syncUnitOp s = .next (
    if ({ s with syncQ := rest } : State).syncPath m then ({ s with syncQ := rest } : State).applySync m
    else ({ s with syncQ := rest } : State).syncLost m) := by
  change execSyncUnitOp s = _
  unfold execSyncUnitOp
  rw [h]
  rfl

theorem applySync_join (ho : m.op = .join) (ht : s.team? m.tid m.team = none) : s.applySync m =
    ({ s with teams := ⟨m.tid, m.team, m.die, [⟨m.site, m.plane, 0⟩], Vector.replicate 24 ⟨0, 0, 0⟩, [], 0⟩ ::
      (s.teams.filter (fun t => !(t.tid = m.tid && t.num = m.team))) } : State).syncReply m 65537 := by
  simp [State.applySync, ht, ho]

theorem applySync_leave (ho : m.op = .leave) (ht : s.team? m.tid m.team = none) : s.applySync m = s.syncErr m 25 := by
  simp [State.applySync, ht, ho, cMarkBusy]

theorem arriveAt_counts (hn : (x.mark k).count + 1 ≠ (x.mark k).expect) : s.arriveAt x k =
    ((x.mark k).gen, s.modTeam x.tid x.num (fun t => t.setMark k { x.mark k with count := (x.mark k).count + 1 })) :=
  if_neg hn

theorem applySync_arrive (ho : m.op = .arrive k false) (ht : s.team? m.tid m.team = some x) (hm : x.hasMember m.site m.plane = true)
    (he : (x.mark k).expect ≠ 0) : s.applySync m = (s.arriveAt x k).2.syncReply m (s.arriveAt x k).1.toNat := by
  simp [State.applySync, ht, ho, hm, he]

theorem mark_setMark (t : Team) (v : Mark) (hk : k < 24) : (t.setMark k v).mark k = v := by
  simp [Team.setMark, Team.mark, hk]

theorem team?_modTeam {f : Team → Team} (hf : ∀ t, (f t).tid = t.tid ∧ (f t).num = t.num ∧ (f t).members = t.members) (tid num : Nat) :
    (s.modTeam tid num f).team? tid num = (s.team? tid num).map f :=
  find?_updWhere _ f (fun t ht => by obtain ⟨h1, h2, h3⟩ := hf t; simpa [h1, h2, h3] using ht) _

/-- Nobody waits on the mark: only its team's entry differs. -/
theorem team?_releaseWaiters (hw : s.waiters = []) (tid num mark : Nat) (gen : BitVec 32) :
    (s.releaseWaiters tid num mark gen).team? = s.team? := by
  simp only [State.releaseWaiters, hw, List.filter_nil, List.foldl_nil]
  rfl

/-- The arrival that completes a mark receives the generation that ends, and the next one begins with nothing counted. -/
theorem arriveAt_completes (hk : k < 24) (ht : s.team? x.tid x.num = some x) (hn : (x.mark k).count + 1 = (x.mark k).expect)
    (hw : s.waiters = []) : (s.arriveAt x k).1 = (x.mark k).gen ∧ ((s.arriveAt x k).2.team? x.tid x.num).map (fun t => t.mark k) =
      some ⟨(x.mark k).expect, 0, (x.mark k).gen + 1⟩ := by
  unfold State.arriveAt
  dsimp only
  rw [if_pos hn]
  refine ⟨rfl, ?_⟩
  rw [team?_releaseWaiters (by exact hw), team?_modTeam (f := fun t => t.setMark k ⟨(x.mark k).expect, 0, (x.mark k).gen + 1⟩)
    (fun _ => ⟨rfl, rfl, rfl⟩), ht, Option.map_some, Option.map_some, mark_setMark x _ hk]

end

/-! ### The statement -/

/-- Settles O58: each event's answer is one state, whose ports, engines, queues, buffers and marks are read off. -/
theorem enginesAndSyncUnitsWork : Obligations.EnginesAndSyncUnitsWork := by
  unfold Obligations.EnginesAndSyncUnitsWork
  refine ⟨?binds, ?keeps, ?issue, ?completion, ?landed, ?applied, ?lost, ?join, ?leave, ?arrive, ?completes⟩
  case binds =>
    intro s q e rest c x hup hdie hidx hfree hqs hqd hqk hent hready hc hx hparty hkept
    have hexec := exec_engineDispatch hup hdie hidx hfree hqs hqd hqk hent hready hc hx hparty
    rw [hkept] at hexec
    exact ⟨_, hexec, ⟨boundPort s q.tid x.asid c.party, rfl, rfl, rfl, rfl, rfl, rfl⟩, ⟨begun s s.freePort e, rfl, rfl, rfl⟩, rfl⟩
  case keeps =>
    intro s q e rest c x p hup hdie hidx hfree hqs hqd hqk hent hready hc hx hparty hkept
    have hexec := exec_engineDispatch hup hdie hidx hfree hqs hqd hqk hent hready hc hx hparty
    rw [hkept] at hexec
    exact ⟨_, hexec, rfl, ⟨begun s p.id e, rfl, rfl, rfl⟩, rfl⟩
  case issue => exact fun s g c p w rest hup hg hc hp hrun htodo hmay => exec_engineIssue_write hup hg hc hp hrun htodo hmay
  case completion =>
    intro s g c hup hg hc hdr hop hrun hend htodo hout
    rw [exec_engineCompletion_copy hup hg hc hdr hop hrun hend htodo hout]
    exact ⟨fun h => by rw [if_pos h], fun h => by rw [if_neg (Nat.not_le.mpr h)]⟩
  case landed =>
    rintro s pe k d rest hpe rfl hk hresv hrest
    obtain ⟨h1, h2, h3⟩ := published_one hresv hrest
    refine ⟨_, exec_cbSlotLanded s, ?_, rfl⟩
    rw [pe?_modMu _ hpe, Option.map_some, cb_modCb _ _ hk, h1, h2, h3]
  case applied =>
    intro s m rest hnext hpath
    rw [exec_syncUnitOp hnext, if_pos hpath]
  case lost =>
    intro s m rest hnext hpath
    rw [exec_syncUnitOp hnext, if_neg (by simp [hpath])]
  case join => exact fun s m ho ht => applySync_join ho ht
  case leave => exact fun s m ho ht => applySync_leave ho ht
  case arrive =>
    intro s m k x ho _ ht hm he hn
    rw [applySync_arrive ho ht hm he, arriveAt_counts hn]
  case completes => exact fun s x k hk ht hn hw => arriveAt_completes hk ht hn hw

end Sys2Proof.Proofs.Engines
end

section
/-! An access that the CD makes for a context, and a record that it writes to a start list, leave every lease as it is (R53, R63, R104,
R165 to R168, R174, R198, R203). -/

namespace Sys2Proof.Proofs.CdAccess

open Sys2Proof Sys2Proof.Machine Sys2Proof.Proofs.Homes

theorem leases_foldl {α : Type} {f : State → α → State} (h : ∀ s a, (f s a).leases = s.leases) (l : List α) (s : State) :
    (l.foldl f s).leases = s.leases := by
  induction l generalizing s with
  | nil => rfl
  | cons a l ih => exact (ih _).trans (h s a)

/-- What an operation answers with a state has that state's leases. -/
theorem leases_of_eq {α : Type} {r : α × State} {a : α} {s t : State} (hr : r.2.leases = s.leases) (h : r = (a, t)) :
    t.leases = s.leases := by
  rw [h] at hr
  exact hr

/-- Whichever branch is taken, the leases are as they were. -/
theorem leases_ite {α : Type} {p : Prop} [Decidable p] {s : State} {a b : α × State} (ha : a.2.leases = s.leases)
    (hb : b.2.leases = s.leases) : (if p then a else b).2.leases = s.leases :=
  iteInduction (motive := fun r : α × State => r.2.leases = s.leases) (fun _ => ha) (fun _ => hb)

theorem leases_iteState {p : Prop} [Decidable p] {s t u : State} (ht : t.leases = s.leases) (hu : u.leases = s.leases) :
    (if p then t else u).leases = s.leases :=
  iteInduction (motive := fun r : State => r.leases = s.leases) (fun _ => ht) (fun _ => hu)

section
variable (s : State) (c : Ctx)

theorem leases_count (tid die ev n : Nat) : (s.count tid die ev n).leases = s.leases := by
  obtain ⟨k, hk⟩ := Package.exists_count_eq s n tid die ev
  rw [hk]

/-! ### Walks and TLBs (R166 to R168) -/

theorem leases_walk2 (vmid ipa n node : Nat) : (s.walk2 vmid ipa n node).2.leases = s.leases := by
  induction n generalizing s node with
  | zero => rfl
  | succ n ih =>
    unfold State.walk2
    dsimp only
    split
    · exact ih _ _
    · split
      · rfl
      · split
        · rfl
        · split
          · split <;> rfl
          · exact ih _ _

theorem leases_stage2 (vmid ipa : Nat) : (s.stage2 vmid ipa).2.leases = s.leases := by
  unfold State.stage2
  split
  · rfl
  · split
    · rfl
    · split
      · exact leases_walk2 s vmid ipa 4 _
      · rfl

theorem leases_combine (va level entryPa : Nat) (e : Word) : (s.combine c va level entryPa e).2.leases = s.leases := by
  unfold State.combine
  refine leases_ite rfl ?_
  have hstage := leases_stage2 s c.vmid (entFrame e + va % 2 ^ levelShift level)
  generalize s.stage2 c.vmid (entFrame e + va % 2 ^ levelShift level) = r at hstage ⊢
  obtain ⟨_ | ⟨pa, e2, l2⟩, s1⟩ := r
  · exact hstage
  · exact hstage

theorem leases_walk1 (va n node : Nat) : (s.walk1 c va n node).2.leases = s.leases := by
  induction n generalizing s node with
  | zero => rfl
  | succ n ih =>
    unfold State.walk1
    dsimp only
    split
    · exact ih _ _
    · split
      next h => exact leases_of_eq (leases_stage2 s _ _) h
      next s1 h =>
        have h1 : s1.leases = s.leases := leases_of_eq (leases_stage2 s _ _) h
        split
        · exact h1
        · split
          · exact h1
          · split
            · exact (leases_combine s1 c _ _ _ _).trans h1
            · exact (ih _ _).trans h1

theorem leases_cdPut (loc : Loc) (v : Line) : (s.cdPut loc v).leases = s.leases :=
  (aloof_putLine _ loc v false).leases.trans (leases_foldl (f := fun u d => u.dropSharer loc.num d) (fun _ _ => rfl) _ s)

theorem leases_writeEntry (pa : Nat) (e : Word) : (s.writeEntry pa e).leases = s.leases := leases_cdPut s _ _

theorem leases_walk (die va : Nat) : (s.walk c die va).2.leases = s.leases := by
  have hcount := leases_count s c.tid die 5 1
  unfold State.walk
  dsimp only
  split
  · exact hcount
  · split
    · exact hcount
    next s1 h =>
      have h1 : s1.leases = s.leases := (leases_of_eq (leases_walk1 _ c va 4 _) h).trans hcount
      split
      · exact h1
      · exact (leases_writeEntry s1 _ _).trans h1

theorem leases_install (die va : Nat) (l : Leaf) : (s.install c die va l).leases = s.leases := by
  unfold State.install
  split <;> rfl

theorem leases_tlbGet (die slice va : Nat) : (s.tlbGet die slice c va).2.leases = s.leases := by
  unfold State.tlbGet
  split <;> rfl

theorem leases_lookup (die va : Nat) : (s.lookup c die va).2.leases = s.leases := by
  unfold State.lookup
  split
  · exact leases_tlbGet s c die cdSlice va
  · split
    next h => exact leases_of_eq (leases_tlbGet s c die _ va) h
    next =>
      have hcount := leases_count s c.tid die 4 1
      dsimp only
      split
      next h => exact (leases_of_eq (leases_tlbGet _ c die _ va) h).trans hcount
      next => exact hcount

theorem leases_translate (die va : Nat) : (s.translate c die va).2.leases = s.leases := by
  unfold State.translate
  split
  next h => exact leases_of_eq (leases_lookup s c die va) h
  next s1 h =>
    have h1 : s1.leases = s.leases := leases_of_eq (leases_lookup s c die va) h
    split
    next s2 h' =>
      have h2 : s2.leases = s.leases := (leases_of_eq (leases_walk s1 c die va) h').trans h1
      dsimp only
      split
      · exact h2
      · exact (leases_install s2 c die va _).trans h2
    next h' => exact (leases_of_eq (leases_walk s1 c die va) h').trans h1

/-! ### Dirty updates and late frame assignments (R174, R198, R203) -/

theorem leases_setDirty (die va : Nat) (l : Leaf) : (s.setDirty c die va l).2.leases = s.leases := by
  unfold State.setDirty
  split
  · rfl
  · split
    · exact leases_writeEntry s _ _
    · rfl

theorem leases_readyLeaf (die va : Nat) (wr : Bool) (l : Leaf) : (s.readyLeaf c die va wr l).2.leases = s.leases := by
  unfold State.readyLeaf
  split
  · rfl
  · split
    next h => exact leases_of_eq (leases_setDirty s c die va l) h
    next s1 h =>
      have h1 : s1.leases = s.leases := leases_of_eq (leases_setDirty s c die va l) h
      split
      next l' s2 h' =>
        have h2 : s2.leases = s.leases := (leases_of_eq (leases_translate s1 c die va) h').trans h1
        split
        next h'' => exact (leases_of_eq (leases_setDirty s2 c die va l') h'').trans h2
        next h'' => exact (leases_of_eq (leases_setDirty s2 c die va l') h'').trans h2
      next h' => exact (leases_of_eq (leases_translate s1 c die va) h').trans h1

theorem leases_evict (l : L2Line) : (s.evict l).leases = s.leases := by
  obtain ⟨die, key, data, dirty, poison, pins⟩ := l
  cases key with
  | frame pa =>
    cases dirty with
    | false => rfl
    | true => exact (aloof_putMem _ pa data poison).leases
  | unb _ _ => rfl

theorem leases_makeRoom {t : State} {die off pick : Nat} {unb : Bool} (h : s.makeRoom die off pick unb = some t) :
    t.leases = s.leases := by
  unfold State.makeRoom at h
  dsimp only at h
  split at h
  · cases h
  · split at h
    · cases h
      rfl
    · split at h
      · cases h
        exact leases_evict s _
      · cases h

theorem leases_unbAlloc (loc : Loc) (pick : Nat) : (s.unbAlloc loc pick).leases = s.leases := by
  unfold State.unbAlloc
  split
  · rfl
  · dsimp only
    cases h : s.makeRoom loc.die loc.key.off pick true with
    | none => rfl
    | some t => exact leases_makeRoom s h

theorem leases_tagFor {t : RaceTag} {u : State} {die pa : Nat} (h : s.tagFor die pa = some (t, u)) : u.leases = s.leases := by
  unfold State.tagFor at h
  dsimp only at h
  split at h
  · cases h
    rfl
  · split at h
    · cases h
      rfl
    · split at h
      · cases h
        rfl
      · cases h

theorem leases_putSpill (t : RaceTag) : (s.putSpill t).leases = s.leases := by
  unfold State.putSpill
  split
  · exact leases_foldl (fun u x => (aloof_putLine u _ _ _).leases) _ s
  · rfl

theorem leases_putTag (t : RaceTag) : (s.putTag t).leases = s.leases := leases_putSpill _ t

theorem leases_moveTag (die num : Nat) (t : RaceTag) : (s.moveTag die num t).leases = s.leases := by
  unfold State.moveTag
  split
  · rfl
  next h => exact (leases_putTag _ _).trans (leases_tagFor s h)

theorem leases_rekey (old size newDie new : Nat) : (s.rekey old size newDie new).leases = s.leases := by
  unfold State.rekey
  exact leases_foldl (f := fun u t => u.moveTag newDie (t.pa - old + new) t) (fun u t => leases_moveTag u newDie _ t) _ _

theorem leases_hwLeaf (tdie va : Nat) (l : Leaf) (e : Word) : (s.hwLeaf c tdie va l e).leases = s.leases := by
  unfold State.hwLeaf State.releasePage State.tlbDrop
  exact leases_writeEntry s _ _

theorem leases_sealFrame (f : Nat) (l : Leaf) : (s.sealFrame f l).leases = s.leases := by
  unfold State.sealFrame
  split <;> rfl

/-- A line of the page that moves comes into the cache of the frame's die, where its set has room for it. -/
theorem leases_cacheMoved (x : L2Line) (die key pa : Nat) (t : State) :
    (match (t.putMem pa x.data x.poison).makeRoom die key 0 false with
      | some u => { u with l2 := ⟨die, .frame pa, x.data, false, x.poison, x.pins⟩ :: u.l2 }
      | none => t.putMem pa x.data x.poison).leases = t.leases := by
  split
  next h => exact (leases_makeRoom _ h).trans (aloof_putMem t pa _ _).leases
  next => exact (aloof_putMem t pa _ _).leases

theorem leases_lateAssign (tdie va : Nat) (l : Leaf) : (s.lateAssign c tdie va l).2.leases = s.leases := by
  unfold State.lateAssign
  split
  · rfl
  · split
    · rfl
    · refine leases_ite rfl ?_
      refine Eq.trans (leases_hwLeaf _ c tdie va l _) ?_
      refine Eq.trans (leases_rekey _ _ _ _ _) ?_
      refine Eq.trans (leases_foldl (fun u x => leases_cacheMoved x _ _ _ u) _ _) ?_
      exact leases_sealFrame _ _ l

/-! ### Where a line of a context stands, and writing it (R53, R165, R225) -/

theorem leases_cdTry {tid va : Nat} {wr checked : Bool} {perm : Leaf → Bool} {again : State → Except Nat Loc × State}
    (hagain : ∀ u, (again u).2.leases = u.leases) : (s.cdTry tid va wr checked perm again).2.leases = s.leases := by
  unfold State.cdTry
  dsimp only
  split
  · rfl
  next c _ =>
    split
    · rfl
    · split
      · rfl
      next die _ =>
        split
        · rfl
        · split
          next h => exact leases_of_eq (leases_translate s c die va) h
          next l0 s1 h =>
            have h1 : s1.leases = s.leases := leases_of_eq (leases_translate s c die va) h
            split
            · exact h1
            · split
              next h' => exact (leases_of_eq (leases_readyLeaf s1 c die va wr l0) h').trans h1
              next l s2 h' =>
                have h2 : s2.leases = s.leases := (leases_of_eq (leases_readyLeaf s1 c die va wr l0) h').trans h1
                refine leases_ite h2 ?_
                refine leases_ite h2 ?_
                refine leases_ite ?_ ?_
                · refine leases_ite ?_ h2
                  have hlate := leases_lateAssign s2 c die va l
                  generalize s2.lateAssign c die va l = r at hlate ⊢
                  obtain ⟨move, s3⟩ := r
                  have h3 : s3.leases = s.leases := hlate.trans h2
                  cases move with
                  | noRoom => exact h3
                  | changed => exact (hagain s3).trans h3
                  | moved =>
                    dsimp only
                    have hmoved := leases_translate s3 c die va
                    generalize s3.translate c die va = r at hmoved ⊢
                    obtain ⟨e | l', s4⟩ := r
                    · exact hmoved.trans h3
                    · exact hmoved.trans h3
                · exact leases_iteState ((leases_unbAlloc s2 _ 0).trans h2) h2

theorem leases_cdLoc (tid va : Nat) (wr checked : Bool) : (s.cdLoc tid va wr checked).2.leases = s.leases :=
  leases_cdTry s (fun u => leases_cdTry u (fun _ => rfl))

theorem leases_sendAbroad {t : State} {va : Nat} {data : Option Line} (h : s.sendAbroad va data = some t) : t.leases = s.leases := by
  unfold State.sendAbroad at h
  obtain ⟨k, -, rfl⟩ := Option.map_eq_some_iff.mp h
  rfl

theorem leases_cdAbroad (tid va : Nat) (data : Option Line) : (s.cdAbroad tid va data).2.leases = s.leases := by
  unfold State.cdAbroad
  split
  · rfl
  · split
    · rfl
    next s1 h =>
      have h1 : s1.leases = s.leases := leases_sendAbroad s h
      dsimp only
      split
      · exact h1
      · exact h1

theorem leases_cdWriteLine (tid va : Nat) (checked : Bool) (bs : List Byte) :
    (s.cdWriteLine tid va checked bs).2.leases = s.leases := by
  unfold State.cdWriteLine
  refine leases_ite ?_ ?_
  · have habroad := leases_cdAbroad s tid va (some (lineSet 0 (va % 64) bs.length (ofBytes bs)))
    generalize s.cdAbroad tid va (some (lineSet 0 (va % 64) bs.length (ofBytes bs))) = r at habroad ⊢
    obtain ⟨e | v, s1⟩ := r
    · exact habroad
    · exact habroad
  · have hloc := leases_cdLoc s tid va true checked
    generalize s.cdLoc tid va true checked = r at hloc ⊢
    obtain ⟨e | loc, s1⟩ := r
    · exact hloc
    · have hsettled : (s1.settleCode loc 0).leases = s.leases := (aloof_settleCode s1 loc 0).leases.trans hloc
      exact leases_iteState hsettled ((leases_cdPut _ loc _).trans hsettled)

theorem leases_cdWriteLines (tid : Nat) (checked : Bool) (fuel va : Nat) (bs : List Byte) :
    (s.cdWriteLines tid checked fuel va bs).2.leases = s.leases := by
  induction fuel generalizing s va bs with
  | zero => rfl
  | succ fuel ih =>
    unfold State.cdWriteLines
    refine leases_ite rfl ?_
    have hline := leases_cdWriteLine s tid va checked (bs.take (min bs.length (64 - va % 64)))
    dsimp only
    generalize s.cdWriteLine tid va checked (bs.take (min bs.length (64 - va % 64))) = r at hline ⊢
    obtain ⟨e | u, s1⟩ := r
    · exact hline
    · exact (ih s1 _ _).trans hline

theorem leases_cdWrite (tid va : Nat) (bs : List Byte) (checked : Bool) : (s.cdWrite tid va bs checked).2.leases = s.leases :=
  leases_cdWriteLines s tid checked _ va bs

/-! ### Records (R63, R104) -/

theorem leases_putRecord (l : StartList) (w0 w1 w2 w3 : Nat) : (s.putRecord l w0 w1 w2 w3).leases = s.leases := by
  unfold State.putRecord
  dsimp only
  split
  next s1 h =>
    have h1 : s1.leases = s.leases := leases_of_eq (leases_cdWrite s _ _ _ _) h
    exact h1
  next s1 h =>
    have h1 : s1.leases = s.leases := leases_of_eq (leases_cdWrite s _ _ _ _) h
    split
    next s2 h' =>
      have h2 : s2.leases = s.leases := (leases_of_eq (leases_cdWrite s1 _ _ _ _) h').trans h1
      exact h2
    next s2 h' =>
      have h2 : s2.leases = s.leases := (leases_of_eq (leases_cdWrite s1 _ _ _ _) h').trans h1
      exact h2

theorem leases_trapRecord (slot w0 w1 w2 w3 : Nat) : (s.trapRecord slot w0 w1 w2 w3).leases = s.leases := by
  unfold State.trapRecord
  split
  · rfl
  · split
    · rfl
    · exact leases_putRecord s _ _ _ _ _

theorem leases_recordTrap (x : Trap) (k : Task) (slot action status : Nat) :
    (s.recordTrap x k slot action status).leases = s.leases := leases_trapRecord s _ _ _ _ _

end

end Sys2Proof.Proofs.CdAccess
end

section
/-! Traps, unwinds and commits (R58, R86, R102 to R104, R227, R228, R230 to R233): what an action does to a task, a lease and a request,
what the events of a region answer, then the statement that rests on it. -/

namespace Sys2Proof.Proofs.Traps

open Sys2Proof Sys2Proof.Machine Sys2Proof.Claims Sys2Proof.Proofs.Homes Sys2Proof.Proofs.Moves Sys2Proof.Proofs.CdAccess

/-! ### The first trap that reached the CD (R86, R102, R232) -/

section
variable {s s1 : State} {x : Trap} {rest : List Trap} {L : Lease} {id : Nat}

theorem exec_trapAction {k : Task} {a : TrapAct} (h : Traps s x rest L k a s1) :
    exec .trapAction s = .next (s1.applyAction x k a) := by
  obtain ⟨htraps, hup, ⟨id, hx, hL⟩, hheld, hunwind, hk, hact⟩ := h
  have hlease : x.lease.bind ({ s with traps := rest } : State).lease? = some L := by rw [hx]; exact hL
  have htask : ({ s with traps := rest } : State).task? L.die L.entry = some k := hk
  change execTrapAction s = _
  unfold execTrapAction
  rw [htraps]
  dsimp only
  rw [if_neg (ne_true_of_eq_false hup), hlease]
  dsimp only
  rw [if_neg (by simp [hheld, hunwind]), htask]
  dsimp only
  rw [hact]

theorem exec_trapAction_held (htraps : s.traps = x :: rest) (hup : s.uncoreStopped = false) (hx : x.lease = some id)
    (hL : s.lease? id = some L) (hheld : ({ s with traps := rest } : State).holdsTraps L = true) :
    exec .trapAction s = .next (({ s with traps := rest } : State).modLease L.id
      (fun L => { L with heldTraps := L.heldTraps ++ [x] })) := by
  have hlease : x.lease.bind ({ s with traps := rest } : State).lease? = some L := by rw [hx]; exact hL
  change execTrapAction s = _
  unfold execTrapAction
  rw [htraps]
  dsimp only
  rw [if_neg (ne_true_of_eq_false hup), hlease]
  dsimp only
  rw [if_pos (by simp [hheld])]

theorem leads_trapAction_held (htraps : s.traps = x :: rest) (hup : s.uncoreStopped = false) (hx : x.lease = some id)
    (hL : s.lease? id = some L) (hheld : ({ s with traps := rest } : State).holdsTraps L = true) :
    Leads .trapAction s (fun t => t.traps = rest ∧ (t.lease? L.id).map Lease.heldTraps = some (L.heldTraps ++ [x]) ∧
      t = { s with traps := rest, leases := t.leases }) := by
  obtain rfl := id_of_lease? hL
  refine ⟨_, exec_trapAction_held htraps hup hx hL hheld, rfl, ?_, rfl⟩
  have hfound : ({ s with traps := rest } : State).lease? L.id = some L := hL
  exact (congrArg (Option.map Lease.heldTraps) ((lease?_modLease _ L.id
    (fun L => { L with heldTraps := L.heldTraps ++ [x] }) (fun _ => rfl)).trans (congrArg _ hfound)))

end

/-- The table's entry, by the two bits of its action (R102). -/
theorem trapAct_eq (b cause : Nat) : trapAct b cause = (if b / 64 % 4 = 0 then .kill
    else if b / 64 % 4 = 1 then (if replayable cause then .replay (b % 64) else .parkOwn)
    else if b / 64 % 4 = 2 then (if b % 64 < 8 then .park (b % 64) else .kill)
    else .forward (if (b % 64).testBit 5 then some (bitsOf (b % 64) 3 2) else none) (b % 8)) := by
  have hlow : b % 64 % 8 = b % 8 := by omega
  have hbits : b / 64 % 4 < 4 := Nat.mod_lt _ (by decide)
  unfold trapAct
  dsimp only
  rw [hlow]
  generalize b / 64 % 4 = a at hbits ⊢
  match a, hbits with
  | 0, _ => rfl
  | 1, _ => rfl
  | 2, _ =>
    by_cases h : b % 64 < 8
    · simp [h, Nat.not_le.mpr h]
    · simp [h, Nat.not_lt.mp h]
  | 3, _ => rfl

/-! ### KILL and the end of a COPY (R58, R102, R103) -/

section
variable {s : State} {x : Trap} {k : Task} {c : Nat}

theorem applyAction_lease (h : k.pktKind ≠ 7) (a : TrapAct) : s.applyAction x k a = s.applyLease x k a := if_neg h

theorem applyAction_copy (h : k.pktKind = 7) (a : TrapAct) : s.applyAction x k a = s.copyTrap x k a := if_pos h

theorem applyAction_kill (s : State) (x : Trap) (k : Task) : s.applyAction x k .kill = s.trapKill x k := ite_self _

theorem task?_trapKill (s : State) (x : Trap) (k : Task) : (s.trapKill x k).task? k.die k.idx = none :=
  iteInduction (motive := fun t : State => t.task? k.die k.idx = none)
    (fun _ => Links.task?_finishTask k true 5 _) (fun _ => Debugging.task?_killTask _ k _)

/-- Of a task whose lease is not parked, KILL writes no record. -/
theorem trapKill_lease {L : Lease} (hk : k.pktKind ≠ 7) (hL : x.lease.bind s.lease? = some L) (hp : L.parked = none)
    (hc : x.cmd = none) : s.trapKill x k = s.finishTask k true 4 (errCause x.err) := by
  have hnone : (x.lease.bind s.lease?).bind Lease.parked = none := by rw [hL]; exact hp
  have hall : s.traps.filter (fun y => y.cmd.isNone || y.cmd ≠ (none : Option Nat)) = s.traps :=
    List.filter_eq_self.mpr fun y _ => by cases y.cmd <;> rfl
  unfold State.trapKill
  rw [hnone, hc]
  dsimp only [Option.bind_none]
  rw [if_neg hk, hall]
  rfl

theorem trapKill_copy {e : EngCmd} (hk : k.pktKind = 7) (hL : x.lease = none) (hc : x.cmd = some c) (he : s.cmd? c = some e) :
    s.trapKill x k = ({ s.stopCmd e with traps := (s.stopCmd e).traps.filter (fun y => y.cmd ≠ some c) } : State).finishTask
      k true 5 (errCause x.err) := by
  have hsame : (s.stopCmd e).traps.filter (fun y => y.cmd.isNone || y.cmd ≠ some c) =
      (s.stopCmd e).traps.filter (fun y => y.cmd ≠ some c) :=
    List.filter_congr fun y _ => by cases y.cmd <;> simp
  unfold State.trapKill
  rw [hL, hc]
  dsimp only [Option.bind_none, Option.bind_some]
  rw [he]
  dsimp only
  rw [if_pos hk, hsame]

/-- A COPY ends whether its entry says KILL, REPLAY or PARK to its own list. -/
theorem copyTrap_eq_kill {a : TrapAct} (ha : a = .kill ∨ a = .parkOwn ∨ ∃ n, a = .replay n) : s.copyTrap x k a = s.trapKill x k := by
  obtain rfl | rfl | ⟨n, rfl⟩ := ha
  · rfl
  · rfl
  · rfl

end

/-! ### PARK (R102, R103) -/

section
variable {s : State} {x : Trap} {k : Task} {L : Lease} {id slot : Nat}

theorem applyAction_park {i : Nat} (hk : k.pktKind ≠ 7) (hslot : s.listOf k.ctx i = some slot) :
    s.applyAction x k (.park i) = (s.recordTrap x k slot 2 0).parkLease x slot := by
  rw [applyAction_lease hk]
  unfold State.applyLease
  dsimp only
  rw [hslot]

theorem parked_parkLease (hx : x.lease = some id) (hL : s.lease? id = some L) (hp : L.parked = none) (slot : Nat) :
    ((s.parkLease x slot).lease? L.id).map Lease.parked = some (some slot) := by
  obtain rfl := id_of_lease? hL
  unfold State.parkLease
  rw [hx]
  dsimp only
  rw [lease?_modLease s L.id (fun L => { L with parked := some (L.parked.getD slot) }) (fun _ => rfl), hL]
  simp [hp]

theorem lease?_recordTrap (slot' action status : Nat) : (s.recordTrap x k slot' action status).lease? id = s.lease? id := by
  unfold State.lease?
  rw [leases_recordTrap]

theorem leaseRuns_parked (hp : L.parked ≠ none) : s.leaseRuns L = false := by
  have hparked : L.parked.isNone = false := Option.isNone_eq_false_iff.mpr (Option.isSome_iff_ne_none.mpr hp)
  simp [State.leaseRuns, hparked]

theorem exec_handlerSelect_parked (hp : L.parked ≠ none) (hL : s.lease? s.focus.site.lease = some L) :
    exec .handlerSelect s = .next s := by
  change execHandlerSelect s = _
  unfold execHandlerSelect
  rw [hL]
  dsimp only
  split
  · rfl
  · simp [leaseRuns_parked hp]

theorem exec_eoiProcessing_parked (hp : L.parked ≠ none) (hL : s.lease? s.focus.site.lease = some L) :
    exec .eoiProcessing s = .next s := by
  change execEoiProcessing s = _
  unfold execEoiProcessing
  dsimp only
  rw [hL]
  dsimp only
  split
  · rfl
  · split
    · rfl
    · simp [leaseRuns_parked hp]

theorem mayIssue_parked {p : Port} {site : SiteRef} (hp : L.parked ≠ none) (ho : p.owner = .mu site)
    (hL : s.lease? site.lease = some L) (op : ReqOp) (va : Nat) : s.mayIssue p op va = false := by
  have hhalted : s.halted p = true := by
    simp [State.halted, ho, hL, Option.isSome_iff_ne_none, hp]
  simp [State.mayIssue, hhalted]

end

/-! ### REPLAY (R102, R176) -/

/-- A held request marked for REPLAY. -/
def heldForReplay (r : Req) : Req :=
  match r.status with
  | .held c _ => { r with status := .held c true }
  | _ => r

/-- The port of a trap with its refused request marked for REPLAY. -/
def portHolding (x : Trap) (id : Nat) (p : Port) : Port :=
  { p with
    queue := updWhere (fun r => r.id = id) heldForReplay p.queue
    sideLog := updWhere (fun e => e.req.id = id || (e.req.status.heldFor && page64 e.req.va = page64 x.va))
      (fun e => { e with req := heldForReplay e.req }) p.sideLog }

section
variable {s : State} {x : Trap} {k : Task} {p : Port} {r : Req} {c n : Nat}

theorem applyAction_replay_without_request (hk : k.pktKind ≠ 7) (hr : x.req = none) (n : Nat) :
    s.applyAction x k (.replay n) = (s.recordTrap x k k.slid 2 0).parkLease x k.slid := by
  rw [applyAction_lease hk]
  unfold State.applyLease
  dsimp only
  rw [if_pos (by rw [hr]; rfl)]

/-- A task with one replay more of a cause. -/
def countReplay (c : Nat) (k : Task) : Task := { k with replays := insertKV k.replays c (k.replayCount c + 1) }

theorem applyAction_replay (hk : k.pktKind ≠ 7) (hr : x.req ≠ none) (hn : n = 0 ∨ k.replayCount (errCause x.err) < n) :
    s.applyAction x k (.replay n) =
      (s.modTask k.die k.idx (countReplay (errCause x.err))).holdForReplay x := by
  have hsome : ¬ x.req.isNone = true := by simpa [Option.isNone_iff_eq_none] using hr
  have hbelow : ¬ (n ≠ 0 && k.replayCount (errCause x.err) ≥ n) = true := by simp; omega
  rw [applyAction_lease hk]
  unfold State.applyLease
  dsimp only
  rw [if_neg hsome, if_neg hbelow]
  rfl

/-- REPLAY at its limit acts as KILL, and a COPY has nothing to replay. -/
theorem applyAction_replay_limit (hr : x.req ≠ none) (hn : n ≠ 0) (hlimit : n ≤ k.replayCount (errCause x.err)) :
    s.applyAction x k (.replay n) = s.applyAction x k .kill := by
  have hsome : ¬ x.req.isNone = true := by simpa [Option.isNone_iff_eq_none] using hr
  by_cases hk : k.pktKind = 7
  · rw [applyAction_copy hk, applyAction_copy hk]
    rfl
  · rw [applyAction_lease hk, applyAction_lease hk]
    unfold State.applyLease
    dsimp only
    rw [if_neg hsome, if_pos (by simp [hn, hlimit])]

theorem tasks_holdForReplay (s : State) (x : Trap) : (s.holdForReplay x).tasks = s.tasks := by
  unfold State.holdForReplay
  split <;> rfl

theorem replayCount_replay (hk : k.pktKind ≠ 7) (htask : s.task? k.die k.idx = some k) (hr : x.req ≠ none)
    (hn : n = 0 ∨ k.replayCount (errCause x.err) < n) :
    ((s.applyAction x k (.replay n)).task? k.die k.idx).map (fun q => q.replayCount (errCause x.err)) =
      some (k.replayCount (errCause x.err) + 1) := by
  rw [applyAction_replay hk hr hn]
  unfold State.task?
  rw [tasks_holdForReplay]
  change Option.map _ ((s.modTask k.die k.idx (countReplay (errCause x.err))).task? k.die k.idx) = _
  rw [task?_modTask s k.die k.idx (countReplay (errCause x.err)) (fun _ => ⟨rfl, rfl⟩), htask]
  exact congrArg some (Budgets.lookupD_insertKV _ _ _ _)

theorem holdForReplay_eq {id port : Nat} (hp : x.port = some port) (hr : x.req = some id) :
    s.holdForReplay x = (s.modPort port (portHolding x id)).releaseUp (fun q => q.id = port) := by
  unfold State.holdForReplay
  rw [hp, hr]
  rfl

theorem id_heldForReplay (r : Req) : (heldForReplay r).id = r.id := by
  unfold heldForReplay
  split <;> rfl

theorem heldForReplay_held {b : Bool} (h : r.status = .held c b) : heldForReplay r = { r with status := .held c true } := by
  unfold heldForReplay
  rw [h]

/-- The first request of a port's queue under a number is the one that it finds. -/
theorem req?_of_queue {id : Nat} (h : p.queue.find? (fun q => q.id = id) = some r) : p.req? id = some r := by
  unfold Port.req?
  rw [h]

theorem find?_portHolding {id : Nat} (h : p.queue.find? (fun q => q.id = id) = some r) (x : Trap) :
    (portHolding x id p).queue.find? (fun q => q.id = id) = some (heldForReplay r) :=
  (find?_updWhere _ heldForReplay (fun r hr => by simpa [id_heldForReplay] using hr) _).trans (congrArg _ h)

/-- A request held for REPLAY that a release of its port clears. -/
def released (clears : Req → Nat → Bool) (r : Req) : Req :=
  match r.status with
  | .held c true => if clears r c then { r with status := .cleared } else r
  | _ => r

/-- What a release of its port, with a side log, does to a request of the queue. -/
def releasedBehind (log : List SideEntry) (clears : Req → Nat → Bool) (r : Req) : Req :=
  if stopsPage log r.va then released clears r else (released clears r).follow

theorem queue_release (p : Port) (clears : Req → Nat → Bool) :
    (p.release clears).queue = p.queue.map (releasedBehind (p.release clears).sideLog clears) := rfl

theorem id_released (clears : Req → Nat → Bool) (r : Req) : (released clears r).id = r.id := by
  unfold released
  split
  · exact iteInduction (motive := fun t : Req => t.id = r.id) (fun _ => rfl) (fun _ => rfl)
  · rfl

theorem id_follow (r : Req) : r.follow.id = r.id := by
  unfold Req.follow
  split <;> rfl

theorem id_releasedBehind (log : List SideEntry) (clears : Req → Nat → Bool) (r : Req) : (releasedBehind log clears r).id = r.id :=
  iteInduction (motive := fun t : Req => t.id = r.id) (fun _ => id_released clears r)
    (fun _ => (id_follow _).trans (id_released clears r))

/-- A release leaves a request that it does not clear. -/
theorem releasedBehind_kept {clears : Req → Nat → Bool} (log : List SideEntry) (hst : r.status = .held c true) (hc : c ≠ 0)
    (hclears : clears r c = false) : releasedBehind log clears r = r := by
  have hkept : released clears r = r := by simp [released, hst, hclears]
  have hfollow : r.follow = r := by
    unfold Req.follow
    split
    next h =>
      rw [h] at hst
      injection hst with h0
      exact absurd h0.symm hc
    next => rfl
  unfold releasedBehind
  rw [hkept, hfollow, ite_self]

theorem find?_release {clears : Req → Nat → Bool} {id : Nat} (h : p.queue.find? (fun q => q.id = id) = some r)
    (hst : r.status = .held c true) (hc : c ≠ 0) (hclears : clears r c = false) :
    (p.release clears).queue.find? (fun q => q.id = id) = some r := by
  have hids : (fun q : Req => decide (q.id = id)) ∘ releasedBehind (p.release clears).sideLog clears = fun q => decide (q.id = id) :=
    funext fun q => by simp [id_releasedBehind]
  rw [queue_release, List.find?_map, hids, h]
  exact congrArg some (releasedBehind_kept _ hst hc hclears)

/-- A port whose requests held for a die that is back have been released. -/
def portReleased (s : State) (p : Port) : Port := p.release (fun r c => c = cDieDown && s.wayUp p r)

theorem statusIn_replay (hk : k.pktKind ≠ 7) (h : HeldAt s x p r c) (hn : n = 0 ∨ k.replayCount (errCause x.err) < n) :
    statusIn (s.applyAction x k (.replay n)) p r.id = some (.held c true) := by
  obtain ⟨hport, hreq, hp, hqueue, hst, hc, hdown⟩ := h
  have hmarked := find?_portHolding hqueue x
  rw [heldForReplay_held hst] at hmarked
  have hx : x.req ≠ none := by rw [hreq]; exact Option.some_ne_none _
  rw [applyAction_replay hk hx hn, holdForReplay_eq hport hreq]
  generalize hs : (s.modTask k.die k.idx (countReplay (errCause x.err))).modPort p.id (portHolding x r.id) = s1
  have hp1 : s1.port? p.id = some (portHolding x r.id p) := by
    rw [← hs]
    exact (port?_modPort _ p.id (portHolding x r.id) (fun _ => rfl)).trans (congrArg _ hp)
  have hp2 : (s1.releaseUp (fun q => q.id = p.id)).port? p.id = some (portReleased s1 (portHolding x r.id p)) :=
    (port?_modPort s1 p.id (portReleased s1) (fun _ => rfl)).trans (congrArg _ hp1)
  have hkept : (portReleased s1 (portHolding x r.id p)).queue.find? (fun q => q.id = r.id) = some { r with status := .held c true } :=
    find?_release hmarked rfl hc (by simp [hdown])
  unfold statusIn
  rw [hp2, Option.bind_some, req?_of_queue hkept]
  rfl

end

/-! ### Containment and commits (R227, R228, R230 to R233) -/

section
variable {s : State} {L : Lease} {u : Unwind} {r : Region} (hL : s.lease? s.focus.site.lease = some L)
include hL

section
variable (hu : L.unwind = some u) (hr : L.region = some r) (hfabric : s.fabricStopped = false) (hup : s.uncoreStopped = false)
  (hp : L.parked = none)
include hu hr hfabric hup hp

theorem exec_containmentUnwind_steps (hstep : u.step < 5) (hsettled : s.portsSettled L.id = true) (hsys : s.sysMoves L = false) :
    exec .containmentUnwind s = .next ((s.unwindLease L r u).progress L.id) := by
  change execContainmentUnwind s = _
  unfold execContainmentUnwind
  rw [hL]
  dsimp only
  rw [hu, hr]
  simp [hfabric, hup, hp, hstep, hsettled, hsys]

theorem exec_containmentUnwind_end (hstep : 5 ≤ u.step) (hrec : L.recovering r = false) :
    exec .containmentUnwind s = .next (s.endUnwind L.id) := by
  change execContainmentUnwind s = _
  unfold execContainmentUnwind
  rw [hL]
  dsimp only
  rw [hu, hr]
  simp [hfabric, hup, hp, Nat.not_lt.mpr hstep, hrec]

end

/-- A lease whose unwind has ended, and it goes on. -/
def unwoundLease (L : Lease) : Lease :=
  { L with unwind := none, stopIssue := false, heldTraps := [], stall := 0, stalled := false }

theorem lease?_endUnwind : (s.endUnwind L.id).lease? L.id = some (unwoundLease L) := by
  have hid := id_of_lease? hL
  have hfound : s.lease? L.id = some L := by rw [hid]; exact hL
  have hended := (lease?_modLease s L.id (fun L => { L with unwind := none, stopIssue := false, heldTraps := [] })
    (fun _ => rfl)).trans (congrArg _ hfound)
  unfold State.endUnwind
  dsimp only
  generalize s.modLease L.id (fun L => { L with unwind := none, stopIssue := false, heldTraps := [] }) = s1 at hended ⊢
  change ((s1.setHolds L.id).progress L.id).lease? L.id = _
  rw [setHolds_only]
  exact (lease?_modLease _ L.id (fun L => { L with stall := 0, stalled := false }) (fun _ => rfl)).trans (congrArg _ hended)

theorem endUnwind_only (hheld : L.heldTraps = []) :
    s.endUnwind L.id = { s with leases := (s.endUnwind L.id).leases, ports := (s.endUnwind L.id).ports } := by
  have hfound : s.lease? L.id = some L := by rw [id_of_lease? hL]; exact hL
  unfold State.endUnwind
  dsimp only
  rw [hfound, Option.map_some, Option.getD_some, hheld, setHolds_only]
  rfl

end

/-! ### Commits (R227, R228) -/

/-- Whether a port is of a PE of a lease. -/
def ofLease (id : Nat) (p : Port) : Bool :=
  match p.owner with
  | .mu site => decide (site.lease = id)
  | .engine _ _ _ => false

/-- A lease whose region has committed, with what its ports held for an unwind dropped. -/
def committed (s : State) (id : Nat) : State :=
  let s1 := s.modLease id (fun L => { L with region := none })
  { s1 with ports := updWhere (ofLease id) (fun p => { p with undo := [] }) s1.ports }

theorem undo_committed (s : State) (id : Nat) : ∀ p ∈ (committed s id).leasePorts id, p.undo = [] := by
  intro p hp
  obtain ⟨hp, hof⟩ := List.mem_filter.mp hp
  obtain ⟨q, -, rfl⟩ := List.mem_map.mp hp
  by_cases hq : ofLease id q = true
  · rw [if_pos hq]
  · rw [if_neg hq] at hof
    exact absurd hof hq

theorem exec_regionCommit {s : State} {L : Lease} {r : Region} {j : Nat} (hL : s.lease? s.focus.site.lease = some L)
    (hr : L.region = some r) (hj : r.last = some j) (hu : L.unwind = none) (hsink : j < s.sinkInv L)
    (hholds : ∀ p ∈ s.leasePorts L.id, p.holdsCommit r = false) : exec .regionCommit s = .next (committed s L.id) := by
  have hany : (s.leasePorts L.id).any (fun p => p.holdsCommit r) = false :=
    List.any_eq_false.mpr fun p hp => ne_true_of_eq_false (hholds p hp)
  have hgo : ¬ (L.unwind.isSome || s.sinkInv L ≤ j || (s.leasePorts L.id).any (fun p => p.holdsCommit r)) = true := by
    simp [hu, hany, Nat.not_le.mpr hsink]
  change execRegionCommit s = _
  unfold execRegionCommit
  rw [hL]
  dsimp only
  rw [hr]
  dsimp only
  rw [hj]
  dsimp only
  rw [if_neg hgo]
  rfl

theorem region_committed {s : State} {L : Lease} (hL : s.lease? L.id = some L) :
    ((committed s L.id).lease? L.id).map Lease.region = some none :=
  congrArg (Option.map Lease.region)
    ((lease?_modLease s L.id (fun L => { L with region := none }) (fun _ => rfl)).trans (congrArg _ hL))

/-- Settles O59: the CD's actions as its tables give them, with what each does to the task, the lease or the held request, and the
events of a region. -/
theorem trapsActAndRegionsUnwind : Obligations.TrapsActAndRegionsUnwind := by
  unfold Obligations.TrapsActAndRegionsUnwind
  refine ⟨?first, ?table, ?kill, ?replayAsPark, ?killStatus, ?copy, ?park, ?parked, ?counts, ?holds, ?limit, ?held, ?unwinds, ?ends,
    ?commits⟩
  case first => exact fun s x rest L k a s1 h => exec_trapAction h
  case table => exact trapAct_eq
  case kill =>
    rintro s x k - t rfl
    rw [applyAction_kill]
    exact task?_trapKill s x k
  case replayAsPark => exact fun s x k limit hk hr => applyAction_replay_without_request hk hr limit
  case killStatus =>
    intro s x k L hk hL hp hc
    rw [applyAction_kill]
    exact trapKill_lease hk hL hp hc
  case copy =>
    intro s x k c e a hk hL hc he ha
    rw [applyAction_copy hk, copyTrap_eq_kill ha]
    exact trapKill_copy hk hL hc he
  case park =>
    rintro s x k id L i slot t hk hx hL hp hslot rfl
    rw [applyAction_park hk hslot]
    exact ⟨rfl, parked_parkLease hx ((lease?_recordTrap slot 2 0).trans hL) hp slot⟩
  case parked =>
    intro s L hp
    exact ⟨leaseRuns_parked hp, fun hL => ⟨exec_handlerSelect_parked hp hL, exec_eoiProcessing_parked hp hL⟩,
      fun p site op va ho hL => mayIssue_parked hp ho hL op va⟩
  case counts =>
    rintro s x k n c t hk htask hr rfl hn rfl
    exact replayCount_replay hk htask hr hn
  case holds =>
    rintro s x k n p r c t hk h hn rfl
    exact statusIn_replay hk h hn
  case limit => exact fun s x k n hr hn hlimit => applyAction_replay_limit hr hn hlimit
  case held => exact fun s x rest L id htraps hup hx hL hheld => leads_trapAction_held htraps hup hx hL hheld
  case unwinds =>
    exact fun s L u r hL hu hr hfabric hup hp hstep hsettled hsys =>
      exec_containmentUnwind_steps hL hu hr hfabric hup hp hstep hsettled hsys
  case ends =>
    intro s L u r hL hu hr hfabric hup hp hstep hrec hheld
    have hended := lease?_endUnwind hL
    exact ⟨_, exec_containmentUnwind_end hL hu hr hfabric hup hp hstep hrec, by rw [hended]; rfl, by rw [hended]; rfl,
      endUnwind_only hL hheld⟩
  case commits =>
    intro s L r j hL hr hj hu hsink hholds
    have hfound : s.lease? L.id = some L := by rw [id_of_lease? hL]; exact hL
    exact ⟨_, exec_regionCommit hL hr hj hu hsink hholds, region_committed hfound, undo_committed s L.id, rfl⟩

end Sys2Proof.Proofs.Traps
end

section
/-! The hold-up and what is restored after it (R109 to R114): the write-back changes nothing but the memory side, so that the sets in
force and their order are those of the moment of the failure; then the sets that are streamed, the manifests, the keep store, the
commands that restore, and the statement. -/

namespace Sys2Proof.Proofs.Holdup

open Sys2Proof Sys2Proof.Machine Sys2Proof.Claims Sys2Proof.Proofs.Homes Sys2Proof.Proofs.Budgets Sys2Proof.Proofs.Admission

/-! ### What the memory side alone changes (R167 to R170, R198) -/

/-- A package with the memory of another, its caches, its TLBs and its counters. -/
def withMemoryOf (s t : State) : State :=
  { s with
    mem := t.mem, poisoned := t.poisoned, sealed := t.sealed, tags := t.tags, l2 := t.l2, rrc := t.rrc, dir := t.dir, tlb := t.tlb
    walkCache := t.walkCache, counters := t.counters }

/-- Two packages differ at most in memory, its caches, its TLBs and its counters. -/
def MemoryOnly (s t : State) : Prop := withMemoryOf s t = t

theorem MemoryOnly.refl (s : State) : MemoryOnly s s := rfl

theorem MemoryOnly.trans {s t u : State} (h : MemoryOnly s t) (h' : MemoryOnly t u) : MemoryOnly s u :=
  calc withMemoryOf s u = withMemoryOf (withMemoryOf s t) u := rfl
    _ = withMemoryOf t u := congrArg (withMemoryOf · u) h
    _ = u := h'

theorem MemoryOnly.ctxs {s t : State} (h : MemoryOnly s t) : t.ctxs = s.ctxs := (congrArg State.ctxs h).symm

/-- What an operation leaves alone, the state that it answers with leaves alone. -/
theorem MemoryOnly.of_eq {α : Type} {s t : State} {r : α × State} {a : α} (h : MemoryOnly s r.2) (hr : r = (a, t)) :
    MemoryOnly s t := by
  rw [hr] at h
  exact h

theorem MemoryOnly.foldl {α : Type} {f : State → α → State} (hf : ∀ s a, MemoryOnly s (f s a)) (l : List α) (s : State) :
    MemoryOnly s (l.foldl f s) :=
  List.foldlRecOn (motive := MemoryOnly s) l f (MemoryOnly.refl s) (fun t h a _ => h.trans (hf t a))

section
variable (s : State) (c : Ctx)

theorem memoryOnly_count (tid die ev n : Nat) : MemoryOnly s (s.count tid die ev n) := by
  obtain ⟨k, hk⟩ := Package.exists_count_eq s n tid die ev
  rw [hk]
  rfl

theorem memoryOnly_mem (m : List Host.Cell) (p : List Nat) : MemoryOnly s { s with mem := m, poisoned := p } := rfl

theorem memoryOnly_l2 (l : List L2Line) : MemoryOnly s { s with l2 := l } := rfl

theorem memoryOnly_tlb (l : List TlbEntry) : MemoryOnly s { s with tlb := l } := rfl

theorem memoryOnly_modL2 (die : Nat) (key : LineKey) (f : L2Line → L2Line) : MemoryOnly s (s.modL2 die key f) := rfl

theorem memoryOnly_putMem (pa : Nat) (v : Line) (poison : Bool) : MemoryOnly s (s.putMem pa v poison) :=
  memoryOnly_mem s _ _

theorem memoryOnly_keepPtr (w : WalkEntry) : MemoryOnly s (s.keepPtr w) := rfl

theorem memoryOnly_tlbPut (t : TlbEntry) : MemoryOnly s (s.tlbPut t) := rfl

theorem memoryOnly_dropSharer (pa sharer : Nat) : MemoryOnly s (s.dropSharer pa sharer) := rfl

theorem memoryOnly_putLine (loc : Loc) (v : Line) (poison : Bool) : MemoryOnly s (s.putLine loc v poison) := by
  have hseal : MemoryOnly s (s.sealLine loc) := by
    rw [sealLine_only]
    rfl
  unfold State.putLine
  dsimp only
  generalize s.sealLine loc = t at hseal ⊢
  split
  · exact hseal.trans (memoryOnly_modL2 t _ _ _)
  · split
    · exact hseal.trans (memoryOnly_putMem t _ _ _)
    · exact hseal.trans (memoryOnly_l2 t _)

theorem memoryOnly_writeEntry (pa : Nat) (e : Word) : MemoryOnly s (s.writeEntry pa e) :=
  (MemoryOnly.foldl (fun u d => memoryOnly_dropSharer u (locOf pa).num d) _ s).trans (memoryOnly_putLine _ _ _ _)

/-! ### Walks and TLBs (R166 to R168) -/

theorem memoryOnly_walk2 (vmid ipa n node : Nat) : MemoryOnly s (s.walk2 vmid ipa n node).2 := by
  induction n generalizing s node with
  | zero => exact MemoryOnly.refl s
  | succ n ih =>
    have hkept (w : WalkEntry) (next : Nat) : MemoryOnly s ((s.keepPtr w).walk2 vmid ipa n next).2 :=
      (memoryOnly_keepPtr s w).trans (ih _ next)
    unfold State.walk2
    dsimp only
    split
    · exact hkept _ _
    · split
      · exact MemoryOnly.refl s
      · split
        · exact MemoryOnly.refl s
        · split
          · split <;> exact MemoryOnly.refl s
          · exact hkept _ _

theorem memoryOnly_stage2 (vmid ipa : Nat) : MemoryOnly s (s.stage2 vmid ipa).2 := by
  unfold State.stage2
  split
  · exact MemoryOnly.refl s
  · split
    · exact MemoryOnly.refl s
    · split
      · exact memoryOnly_walk2 s vmid ipa 4 _
      · exact MemoryOnly.refl s

theorem memoryOnly_combine (va level entryPa : Nat) (e : Word) : MemoryOnly s (s.combine c va level entryPa e).2 := by
  unfold State.combine
  refine iteInduction (motive := fun r : Except Nat Leaf × State => MemoryOnly s r.2) (fun _ => MemoryOnly.refl s) (fun _ => ?_)
  have hstage := memoryOnly_stage2 s c.vmid (entFrame e + va % 2 ^ levelShift level)
  generalize s.stage2 c.vmid (entFrame e + va % 2 ^ levelShift level) = r at hstage ⊢
  obtain ⟨_ | _, s1⟩ := r
  · exact hstage
  · exact hstage

theorem memoryOnly_walk1 (va n node : Nat) : MemoryOnly s (s.walk1 c va n node).2 := by
  induction n generalizing s node with
  | zero => exact MemoryOnly.refl s
  | succ n ih =>
    have hkept (t : State) (w : WalkEntry) (next : Nat) : MemoryOnly t ((t.keepPtr w).walk1 c va n next).2 :=
      (memoryOnly_keepPtr t w).trans (ih _ next)
    unfold State.walk1
    dsimp only
    split
    · exact hkept s _ _
    · split
      next h => exact (memoryOnly_stage2 s _ _).of_eq h
      next s1 h =>
        have hstage : MemoryOnly s s1 := (memoryOnly_stage2 s _ _).of_eq h
        split
        · exact hstage
        · split
          · exact hstage
          · split
            · exact hstage.trans (memoryOnly_combine s1 c _ _ _ _)
            · exact hstage.trans (hkept s1 _ _)

theorem memoryOnly_walk (die va : Nat) : MemoryOnly s (s.walk c die va).2 := by
  have hcount := memoryOnly_count s c.tid die 5 1
  unfold State.walk
  dsimp only
  split
  · exact hcount
  · split
    · exact hcount
    next s1 h =>
      have hwalk := hcount.trans ((memoryOnly_walk1 _ c va 4 _).of_eq h)
      split
      · exact hwalk
      · exact hwalk.trans (memoryOnly_writeEntry s1 _ _)

theorem memoryOnly_install (die va : Nat) (l : Leaf) : MemoryOnly s (s.install c die va l) := by
  unfold State.install
  split
  · exact memoryOnly_tlbPut s _
  · exact (memoryOnly_tlbPut s _).trans (memoryOnly_tlbPut _ _)

theorem memoryOnly_tlbGet (die slice va : Nat) : MemoryOnly s (s.tlbGet die slice c va).2 := by
  unfold State.tlbGet
  split
  · exact memoryOnly_tlb s _
  · exact MemoryOnly.refl s

theorem memoryOnly_lookup (die va : Nat) : MemoryOnly s (s.lookup c die va).2 := by
  unfold State.lookup
  split
  · exact memoryOnly_tlbGet s c die cdSlice va
  · split
    next h => exact (memoryOnly_tlbGet s c die _ va).of_eq h
    next =>
      have hcount := memoryOnly_count s c.tid die 4 1
      dsimp only
      split
      next h => exact (hcount.trans ((memoryOnly_tlbGet _ c die _ va).of_eq h)).trans (memoryOnly_tlbPut _ _)
      next => exact hcount

theorem memoryOnly_translate (die va : Nat) : MemoryOnly s (s.translate c die va).2 := by
  unfold State.translate
  split
  next h => exact (memoryOnly_lookup s c die va).of_eq h
  next s1 h =>
    have hlookup : MemoryOnly s s1 := (memoryOnly_lookup s c die va).of_eq h
    split
    next s2 h' =>
      have hwalk := hlookup.trans ((memoryOnly_walk s1 c die va).of_eq h')
      dsimp only
      split
      · exact hwalk
      · exact hwalk.trans (memoryOnly_install s2 c die va _)
    next h' => exact hlookup.trans ((memoryOnly_walk s1 c die va).of_eq h')

/-! ### The write-back of a hold-up (R109, R110) -/

theorem memoryOnly_partOf (va : Nat) : MemoryOnly s (s.partOf c va).2 := by
  unfold State.partOf
  split
  · exact MemoryOnly.refl s
  · split
    · exact MemoryOnly.refl s
    next die _ =>
      split
      · exact MemoryOnly.refl s
      · split
        next h => exact (memoryOnly_translate s c die va).of_eq h
        next h => exact (memoryOnly_translate s c die va).of_eq h

theorem memoryOnly_writeBackWhere (f : L2Line → Bool) : MemoryOnly s (s.writeBackWhere f) := by
  unfold State.writeBackWhere
  refine MemoryOnly.trans (MemoryOnly.foldl (fun t x => ?_) _ s) (memoryOnly_l2 _ _)
  split
  · exact memoryOnly_putMem t _ _ _
  · exact MemoryOnly.refl t

theorem memoryOnly_writeBackMust : MemoryOnly s s.writeBackMust := by
  unfold State.writeBackMust
  refine MemoryOnly.foldl (fun t x => ?_) _ s
  split
  next h =>
    have hpart := (memoryOnly_partOf t x.1 x.2).of_eq h
    split
    · exact hpart.trans (memoryOnly_writeBackWhere _ _)
    · exact hpart
  next h => exact (memoryOnly_partOf t x.1 x.2).of_eq h

/-- What is written back leaves the sets in force, and their order. -/
theorem setsInOrder_writeBackMust : s.writeBackMust.setsInOrder = s.setsInOrder := by
  unfold State.setsInOrder
  rw [(memoryOnly_writeBackMust s).ctxs]

end

/-! ### POWER_FAIL_TRAP (R109 to R111) -/

/-- Sets are streamed one after another. -/
def saveSets (l : List (Ctx × MustSave)) (r : Stream × State) : Stream × State := l.foldl (fun r x => r.2.saveSet x.1 x.2 r.1) r

/-- A set adds one record, under the next number and its context's tenant. -/
theorem recs_saveSet (s : State) (c : Ctx) (m : MustSave) (x : Stream) :
    ∃ r : SetRec, (s.saveSet c m x).1.recs = x.recs ++ [r] ∧ r.seq = x.recs.length ∧ r.tid = c.tid := ⟨_, rfl, rfl, rfl⟩

theorem tids_saveSets (l : List (Ctx × MustSave)) (r : Stream × State) :
    (saveSets l r).1.recs.map SetRec.tid = r.1.recs.map SetRec.tid ++ l.map (fun x => x.1.tid) := by
  induction l generalizing r with
  | nil => exact (List.append_nil _).symm
  | cons x l ih =>
    obtain ⟨q, hrecs, -, htid⟩ := recs_saveSet r.2 x.1 x.2 r.1
    calc (saveSets (x :: l) r).1.recs.map SetRec.tid
        = (r.2.saveSet x.1 x.2 r.1).1.recs.map SetRec.tid ++ l.map (fun x => x.1.tid) := ih _
      _ = r.1.recs.map SetRec.tid ++ (x :: l).map (fun x => x.1.tid) := by simp [hrecs, htid]

/-- Records are numbered from 0 in the order in which they are streamed. -/
theorem seqs_saveSets (l : List (Ctx × MustSave)) {r : Stream × State} (hr : r.1.recs.map SetRec.seq = List.range r.1.recs.length) :
    (saveSets l r).1.recs.map SetRec.seq = List.range (saveSets l r).1.recs.length := by
  refine List.foldlRecOn (motive := fun r : Stream × State => r.1.recs.map SetRec.seq = List.range r.1.recs.length)
    l _ hr (fun r hr x _ => ?_)
  obtain ⟨q, hrecs, hseq, -⟩ := recs_saveSet r.2 x.1 x.2 r.1
  simp [hrecs, hseq, hr, List.range_succ]

/-- The package whose fabric has stopped, once the requests that reach their homes are performed (R109). -/
def cutOff (s : State) (l : List (Nat × Nat)) : State :=
  ({ s with fabricStopped := true, uncoreStopped := false, freeze := none } : State).reachHome l

/-- All that a hold-up streams. -/
def streamed (s : State) (l : List (Nat × Nat)) : Stream × State :=
  saveSets (cutOff s l).writeBackMust.setsInOrder (⟨[], [], [], 0⟩, (cutOff s l).writeBackMust)

theorem tids_streamed (s : State) (l : List (Nat × Nat)) :
    (streamed s l).1.recs.map SetRec.tid = (cutOff s l).setsInOrder.map (fun x => x.1.tid) :=
  (tids_saveSets _ _).trans (congrArg (List.map fun x : Ctx × MustSave => x.1.tid) (setsInOrder_writeBackMust (cutOff s l)))

theorem seqs_streamed (s : State) (l : List (Nat × Nat)) :
    (streamed s l).1.recs.map SetRec.seq = List.range (streamed s l).1.recs.length := seqs_saveSets _ rfl

theorem exec_powerFailTrap {s : State} (l : List (Nat × Nat)) (hp : s.power = .run) (hs : s.supply = false)
    (ha : s.everAdmitted = true) (ht : s.lossAt + 2000 ≤ s.ticks) :
    exec (.powerFailTrap l) s = .next (
      let half := (cutOff s l).writeBackMust.keep.nextHalf
      let r := streamed s l
      { r.2 with
        power := .holdup
        keep := ((r.2.keep.setHalf half r.1.pages).setInv half r.1.inv).setSeals half (r.1.recs.map SetRec.seq)
        holdup := some ⟨s.ticks, half, r.1.recs, false⟩ }) :=
  if_neg (by simp [hp, hs, ha, Nat.not_lt.mpr ht])

/-! ### The keep store (R109, R112 to R114) -/

section
variable (k : Keep) (n : Nat)

theorem seals_setSeals (l : List Nat) : (k.setSeals n l).seals n = l := by
  unfold Keep.setSeals Keep.seals
  split <;> rfl

end

/-- An area holds a manifest that verifies. -/
def Holds (area : Option Manifest) (m : Manifest) : Prop := area.filter Manifest.valid = some m

section
variable {k : Keep} {m n : Manifest}

theorem holds_some (hv : m.valid = true) : Holds (some m) m := by simp [Holds, hv]

theorem not_holds_some (hv : m.valid = false) : ¬ Holds (some m) n := by
  unfold Holds
  rw [Option.filter_some_neg (by simp [hv])]
  exact fun h => nomatch h

theorem newest_of_none (ha : ∀ a, ¬ Holds k.areaA a) (hb : ∀ b, ¬ Holds k.areaB b) : k.newest = none := by
  unfold Keep.newest
  rw [Option.eq_none_iff_forall_ne_some.mpr ha, Option.eq_none_iff_forall_ne_some.mpr hb]

theorem newest_of_areaA (ha : Holds k.areaA m) (hb : ∀ b, Holds k.areaB b → b.mseq ≤ m.mseq) : k.newest = some (true, m) := by
  unfold Holds at ha
  unfold Keep.newest
  rw [ha]
  cases h : k.areaB.filter Manifest.valid with
  | none => rfl
  | some b => exact if_neg (Nat.not_lt.mpr (hb b h))

theorem newest_of_areaB (hb : Holds k.areaB m) (ha : ∀ a, Holds k.areaA a → a.mseq < m.mseq) : k.newest = some (false, m) := by
  unfold Holds at hb
  unfold Keep.newest
  rw [hb]
  cases h : k.areaA.filter Manifest.valid with
  | none => rfl
  | some a => exact if_pos (ha a h)

/-- Where the newest manifest that verifies stands. -/
theorem newest_cases (k : Keep) :
    (k.newest = none ∧ (∀ a, ¬ Holds k.areaA a) ∧ ∀ b, ¬ Holds k.areaB b) ∨
    (∃ a, k.newest = some (true, a) ∧ Holds k.areaA a ∧ ∀ b, Holds k.areaB b → b.mseq ≤ a.mseq) ∨
    ∃ b, k.newest = some (false, b) ∧ Holds k.areaB b ∧ ∀ a, Holds k.areaA a → a.mseq < b.mseq := by
  by_cases hA : ∃ a, Holds k.areaA a
  · obtain ⟨a, ha⟩ := hA
    by_cases hB : ∃ b, Holds k.areaB b ∧ a.mseq < b.mseq
    · obtain ⟨b, hb, hlt⟩ := hB
      have hafter (x : Manifest) (hx : Holds k.areaA x) : x.mseq < b.mseq := Option.some.inj (hx.symm.trans ha) ▸ hlt
      exact .inr (.inr ⟨b, newest_of_areaB hb hafter, hb, hafter⟩)
    · have hbefore (x : Manifest) (hx : Holds k.areaB x) : x.mseq ≤ a.mseq := Nat.not_lt.mp fun hlt => hB ⟨x, hx, hlt⟩
      exact .inr (.inl ⟨a, newest_of_areaA ha hbefore, ha, hbefore⟩)
  · have hnoA (x : Manifest) (hx : Holds k.areaA x) : False := hA ⟨x, hx⟩
    by_cases hB : ∃ b, Holds k.areaB b
    · obtain ⟨b, hb⟩ := hB
      have hafter (x : Manifest) (hx : Holds k.areaA x) : x.mseq < b.mseq := (hnoA x hx).elim
      exact .inr (.inr ⟨b, newest_of_areaB hb hafter, hb, hafter⟩)
    · have hnoB (x : Manifest) (hx : Holds k.areaB x) : False := hB ⟨x, hx⟩
      exact .inl ⟨newest_of_none hnoA hnoB, hnoA, hnoB⟩

/-- A manifest goes into area B where area A holds the newest that verifies (R113). -/
theorem putManifest_of_areaA (h : k.newest = some (true, n)) : k.putManifest m = { k with areaB := some m } := by
  unfold Keep.putManifest
  rw [h]

theorem putManifest_of_areaB (h : k.newest = some (false, n)) : k.putManifest m = { k with areaA := some m } := by
  unfold Keep.putManifest
  rw [h]

theorem putManifest_of_none (h : k.newest = none) : k.putManifest m = { k with areaA := some m } := by
  unfold Keep.putManifest
  rw [h]

theorem nextSeq_of_newest {inA : Bool} (h : k.newest = some (inA, n)) : k.nextSeq = n.mseq + 1 := by
  unfold Keep.nextSeq
  rw [h]

/-- A manifest that verifies, and is numbered after the newest valid one, becomes the newest. -/
theorem newest_putManifest_valid (hv : m.valid = true) (hseq : m.mseq = k.nextSeq) :
    (k.putManifest m).newest.map Prod.snd = some m := by
  have hafter {inA : Bool} {x : Manifest} (h : k.newest = some (inA, x)) : x.mseq < m.mseq := by
    rw [hseq, nextSeq_of_newest h]
    exact Nat.lt_succ_self _
  have hmap {t : Keep} {inA : Bool} (h : t.newest = some (inA, m)) : t.newest.map Prod.snd = some m := congrArg (Option.map Prod.snd) h
  rcases newest_cases k with ⟨h, -, hB⟩ | ⟨a, h, hA, -⟩ | ⟨b, h, hB, -⟩
  · rw [putManifest_of_none h]
    exact hmap (newest_of_areaA (k := { k with areaA := some m }) (holds_some hv) fun b hb => absurd hb (hB b))
  · rw [putManifest_of_areaA h]
    exact hmap (newest_of_areaB (k := { k with areaB := some m }) (holds_some hv)
      fun x hx => Option.some.inj (hA.symm.trans hx) ▸ hafter h)
  · rw [putManifest_of_areaB h]
    exact hmap (newest_of_areaA (k := { k with areaA := some m }) (holds_some hv)
      fun x hx => Option.some.inj (hB.symm.trans hx) ▸ (hafter h).le)

/-- A manifest that does not verify never takes the place of the newest valid one. -/
theorem newest_putManifest_invalid (hv : m.valid = false) : (k.putManifest m).newest = k.newest := by
  have hno (x : Manifest) : ¬ Holds (some m) x := not_holds_some hv
  rcases newest_cases k with ⟨h, -, hB⟩ | ⟨a, h, hA, -⟩ | ⟨b, h, hB, -⟩
  · rw [putManifest_of_none h, h]
    exact newest_of_none (k := { k with areaA := some m }) hno hB
  · rw [putManifest_of_areaA h, h]
    exact newest_of_areaA (k := { k with areaB := some m }) hA fun x hx => absurd hx (hno x)
  · rw [putManifest_of_areaB h, h]
    exact newest_of_areaB (k := { k with areaA := some m }) hB fun x hx => absurd hx (hno x)

theorem reported_of_newest {inA : Bool} (h : k.newest = some (inA, m)) : k.reported = if m.mseq > k.consumed then some m else none := by
  unfold Keep.reported
  rw [h]

/-- A keep store whose newest manifest is consumed reports none. -/
def consume (k : Keep) : Keep :=
  match k.newest with
  | some (_, m) => { k with consumed := m.mseq }
  | none => k

theorem consume_of_newest {inA : Bool} (h : k.newest = some (inA, m)) : consume k = { k with consumed := m.mseq } := by
  unfold consume
  rw [h]

theorem consume_of_none (h : k.newest = none) : consume k = k := by
  unfold consume
  rw [h]

theorem consume_only (k : Keep) : consume k = { k with consumed := (consume k).consumed } := by
  unfold consume
  split <;> rfl

theorem reported_consume (k : Keep) : (consume k).reported = none := by
  rcases h : k.newest with _ | ⟨_, m⟩
  · rw [consume_of_none h]
    unfold Keep.reported
    rw [h]
  · rw [consume_of_newest h]
    exact (reported_of_newest (k := { k with consumed := m.mseq }) h).trans (if_neg (Nat.lt_irrefl _))

/-! ### Reports at BOOT (R114) -/

section
variable {set : Nat} {r : SetRec} (h : m.sets.find? (fun r => r.seq = set) = some r)
include h

theorem whole_eq_false (hst : r.st ≠ 0) : k.whole m set = false := by
  unfold Keep.whole
  rw [h]
  simp [hst]

theorem stateOf_of_invalid (hv : m.valid = false) : k.stateOf m set = .torn := by
  unfold Keep.stateOf
  rw [h]
  simp [hv]

theorem stateOf_of_absent (hv : m.valid = true) (hst : r.st = 2) : k.stateOf m set = .absent := by
  unfold Keep.stateOf
  rw [h]
  simp [hv, hst]

theorem stateOf_of_torn (hv : m.valid = true) (hst : r.st = 1) : k.stateOf m set = .torn := by
  unfold Keep.stateOf
  rw [h]
  simp [hv, hst, whole_eq_false h (k := k) (by simp [hst])]

end

theorem mem_reports {r : SetRec} (h : k.reported = some m) (hr : r ∈ m.sets) :
    (m.mseq, r.tid, r.seq, k.stateOf m r.seq) ∈ k.reports := by
  have hgo : ¬ (k.newest.isSome && k.reported.isNone) = true := by simp [h]
  unfold Keep.reports
  rw [if_neg hgo]
  refine List.mem_flatMap.mpr ⟨m, ?_, List.mem_map_of_mem (f := fun r => (m.mseq, r.tid, r.seq, k.stateOf m r.seq)) hr⟩
  simp [h]

theorem reports_eq_nil (hn : k.newest.isSome = true) (hr : k.reported = none) : k.reports = [] := by
  unfold Keep.reports
  exact if_pos (by simp [hn, hr])

end

/-! ### The end of a hold-up (R109, R111, R113) -/

/-- A record as it stands once the energy has run low after a number of whole sets (R111). -/
def cutRec (free whole : Nat) (r : SetRec) : SetRec :=
  if r.seq < whole then r else if r.seq = whole then tornRec free r else absentRec r

section
variable {free whole : Nat} {r : SetRec}

theorem cutRec_of_lt (h : r.seq < whole) : cutRec free whole r = r := if_pos h

theorem cutRec_of_eq (h : r.seq = whole) : cutRec free whole r = tornRec free r :=
  (if_neg (Nat.not_lt.mpr h.ge)).trans (if_pos h)

theorem cutRec_of_gt (h : whole < r.seq) : cutRec free whole r = absentRec r :=
  (if_neg (Nat.not_lt.mpr h.le)).trans (if_neg h.ne')

theorem len_tornRec_le (free : Nat) (r : SetRec) : (tornRec free r).len ≤ r.len := Nat.lt_succ_iff.mp (Nat.mod_lt _ (Nat.succ_pos _))

end

section
variable {s : State} {h : HoldUp} (hp : s.power = .holdup) (hh : s.holdup = some h)
include hp hh

theorem exec_holdupEnergyLow (whole : Nat) (hlow : h.low = false) : exec (.holdupEnergyLow whole) s = .next { s with
    freeCount := s.freeCount + 1
    keep := (s.keep.setHalf h.half ((s.keep.half h.half).filter (fun p => p.set < whole))).setSeals h.half
      ((s.keep.seals h.half).filter (fun k => k < whole))
    holdup := some { h with recs := h.recs.map (cutRec s.freeCount whole), low := true } } := by
  change execHoldupEnergyLow whole s = _
  unfold execHoldupEnergyLow
  rw [hh]
  exact if_neg (by simp [hp, hlow])

/-- The manifest that a hold-up writes (R113). -/
def manifestOf (s : State) (h : HoldUp) : Manifest :=
  ⟨s.keep.nextSeq, h.tcut, h.half, h.recs, Config.sign (manifestBytes s.keep.nextSeq h.tcut h.half h.recs), true⟩

theorem exec_holdupManifest : exec .holdupManifest s =
    .next (State.powerOff { s with keep := s.keep.putManifest (manifestOf s h) }) := by
  change execHoldupManifest s = _
  unfold execHoldupManifest
  rw [hh]
  exact if_neg (not_not_intro hp)

theorem exec_holdupEnergyExhausted : exec .holdupEnergyExhausted s =
    .next (State.powerOff { s with keep := s.keep.putManifest ⟨s.keep.nextSeq, h.tcut, h.half, h.recs, 0, false⟩ }) := by
  change execHoldupEnergyExhausted s = _
  unfold execHoldupEnergyExhausted
  rw [hh]
  exact if_neg (not_not_intro hp)

end

/-! ### The commands after restart (R88, R114, R384, R389) -/

section
variable {s : State} {set tid : Nat} {c : Ctx} {m : Manifest}

theorem exec_ksConsume (hp : s.power = .run) : exec .ksConsume s = .next (State.replyStatus { s with keep := consume s.keep } 0) := by
  change execKsConsume s = _
  unfold execKsConsume
  rw [mailCmd_ok hp]
  rcases h : s.keep.newest with _ | ⟨_, m⟩
  · rw [consume_of_none h]
  · rw [consume_of_newest h]

theorem exec_ksRestore_frozen (hu : s.uncoreStopped = true) : exec (.ksRestore set tid) s = .next s := if_pos hu

theorem exec_ksRestore_unmapped (hp : s.power = .run) (hu : s.uncoreStopped = false) (hc : s.ctx? tid = some c)
    (hm : s.keep.reported = some m) (hmap : ∃ p ∈ s.keep.pagesOf m set, s.mapped c p.va = false) :
    exec (.ksRestore set tid) s = .next (s.replyStatus 13) := by
  have hall : ((s.keep.pagesOf m set).all fun p => s.mapped c p.va) = false := by
    rw [List.all_eq_false]
    obtain ⟨p, hp, hno⟩ := hmap
    exact ⟨p, hp, ne_true_of_eq_false hno⟩
  change execKsRestore set tid s = _
  unfold execKsRestore
  rw [if_neg (ne_true_of_eq_false hu), hc, hm]
  simp only [hall, firstRefusal]
  exact if_neg (not_not_intro hp)

theorem mapped_of_reachable {va : Nat} (h : s.reachable c va = true) : s.mapped c va = true := by
  unfold State.reachable at h
  exact (Bool.and_eq_true_iff.mp h).1

theorem exec_ksRestore_whole (hp : s.power = .run) (hu : s.uncoreStopped = false) (hc : s.ctx? tid = some c)
    (hm : s.keep.reported = some m) (hw : s.keep.whole m set = true)
    (hr : ∀ p ∈ s.keep.pagesOf m set, s.reachable c p.va = true) (hnew : s.hasWork tid = false) :
    exec (.ksRestore set tid) s = .next (
      let t := (s.keep.pagesOf m set).foldl (fun (s : State) p => s.restorePage c p) s
      ({ t with standing := s.keep.slotsOf m set tid ++ t.standing } : State).replyStatus 0) := by
  have hreach : ((s.keep.pagesOf m set).all fun p => s.reachable c p.va) = true := List.all_eq_true.mpr hr
  have hmap : ((s.keep.pagesOf m set).all fun p => s.mapped c p.va) = true :=
    List.all_eq_true.mpr fun p hp => mapped_of_reachable (hr p hp)
  change execKsRestore set tid s = _
  unfold execKsRestore
  rw [if_neg (ne_true_of_eq_false hu), hc, hm]
  simp only [hmap, hw, hnew, hreach, firstRefusal]
  exact mailCmd_ok hp

end

theorem tid_of_ctx? {s : State} {tid : Nat} {c : Ctx} (h : s.ctx? tid = some c) : c.tid = tid := by
  simpa using List.find?_some h

/-- An entry that is appended where no entry stood under its number is found there. -/
theorem task?_append_new {s : State} {x : Task} (h : s.task? x.die x.idx = none) :
    ({ s with tasks := s.tasks ++ [x] } : State).task? x.die x.idx = some x := by
  have h' : s.tasks.find? (fun t => t.die = x.die && t.idx = x.idx) = none := h
  simp [State.task?, List.find?_append, h']

/-- The input tiles of a firmware task, and its output tiles, each field filled up with none (R57). -/
def insOf (a : FwArgs) : List (BitVec 56) := a.itiles ++ List.replicate (8 - a.itiles.length) 0

def outsOf (a : FwArgs) : List (BitVec 56) := a.otiles ++ List.replicate (4 - a.otiles.length) 0

/-- The task that TASK_RESTORE makes of a must-save slot (R88, R114). -/
def restoredTask (s : State) (c : Ctx) (tid slot i : Nat) : Task :=
  { bilsisTask c (s.entryDie c [] []) i with
    st := .saved, saved := .lease slot
    w := ((s.findSave tid slot s.keep.saves).map (fun b => b.lease.w)).getD 1
    h := ((s.findSave tid slot s.keep.saves).map (fun b => b.lease.h)).getD 1 }

section
variable {s : State} {c : Ctx} {tid i : Nat} (hp : s.power = .run) (hopen : c.closing = false)
include hp hopen

theorem exec_taskRestore {slot : Nat} (hc : s.ctx? tid = some c) (hi : s.freeEntry (s.entryDie c [] []) = some i) :
    exec (.taskRestore tid slot) s = .next (State.replyStatus { s.markAdmitted tid with
      tasks := s.tasks ++ [restoredTask s c tid slot i] } 0) := by
  have hfound : (s.ctx? tid).filter (fun c => !c.closing) = some c := by simp [hc, hopen]
  change execTaskRestore tid slot s = _
  unfold execTaskRestore
  rw [hfound]
  dsimp only
  rw [hi]
  exact mailCmd_ok hp

theorem leads_taskRestore {slot : Nat} (hc : s.ctx? tid = some c) (hi : s.freeEntry (s.entryDie c [] []) = some i) :
    Leads (.taskRestore tid slot) s (fun t => t.reply = ⟨0, []⟩ ∧ ∃ x, t.task? (s.entryDie c [] []) i = some x ∧
      x.st = .saved ∧ x.saved = .lease slot ∧ x.ctx = tid) :=
  ⟨_, exec_taskRestore hp hopen hc hi, rfl, restoredTask s c tid slot i,
    task?_append_new (x := restoredTask s c tid slot i) (task?_eq_none_of_freeEntry hi), rfl, rfl, tid_of_ctx? hc⟩

theorem exec_fwLaunch {a : FwArgs} {d : Nat} (hc : s.ctx? a.tid = some c) (hd : s.entryDie c (insOf a) (outsOf a) = d)
    (hi : s.freeEntry d = some i) :
    exec (.fwLaunch a) s = .next ((s.addTask (fwTask a c (insOf a) (outsOf a) d i)).replyStatus 0) := by
  have hfound : (s.ctx? a.tid).filter (fun c => !c.closing) = some c := by simp [hc, hopen]
  subst hd
  change execFwLaunch a s = _
  unfold execFwLaunch
  rw [hfound]
  dsimp only
  unfold insOf outsOf at hi
  rw [hi]
  exact mailCmd_ok hp

theorem leads_fwLaunch {a : FwArgs} {d : Nat} (hc : s.ctx? a.tid = some c) (hd : s.entryDie c (insOf a) (outsOf a) = d)
    (hi : s.freeEntry d = some i) :
    Leads (.fwLaunch a) s (fun t => t.reply = ⟨0, []⟩ ∧ ∃ x, t.task? d i = some x ∧ x.st = .ready ∧
      x.firmware = true ∧ x.image = a.image ∧ x.args = a.args ∧ x.prio = a.prio ∧ x.ctx = a.tid) := by
  have hfound : (s.addTask (fwTask a c (insOf a) (outsOf a) d i)).task? d i = some (listed s.readyNo _) :=
    task?_addTask s (task?_eq_none_of_freeEntry hi)
  refine ⟨_, exec_fwLaunch hp hopen hc hd hi, rfl, _, hfound, listed_st_of_waiting rfl, ?_, listed_image _ _,
    listed_args _ _, ?_, (listed_ctx _ _).trans (tid_of_ctx? hc)⟩
  · rw [listed_only]
    rfl
  · rw [listed_only]
    rfl

end

/-! ### The statement -/

/-- Settles O44: a power failure's records are numbered in the order of the sets, the end of a hold-up is one manifest in the area that
the newest valid one does not hold, and each command after restart is one branch of its meaning. -/
theorem aHoldUpSavesAndRestores : Obligations.AHoldUpSavesAndRestores := by
  unfold Obligations.AHoldUpSavesAndRestores
  refine ⟨?fails, ?low, ?manifest, ?exhausted, ?consumed, ?restored, ?frozen, ?unmapped, ?task, ?firmware, ?states, ?reports,
    ?silent⟩
  case fails =>
    intro s l hp hs ha ht
    exact ⟨_, exec_powerFailTrap l hp hs ha ht, rfl, _, _, rfl, seqs_streamed s l,
      (seals_setSeals _ _ _).trans (seqs_streamed s l), tids_streamed s l⟩
  case low =>
    intro s h whole hp hh hlow
    refine ⟨_, exec_holdupEnergyLow hp hh whole hlow, _, rfl, List.length_map _, seals_setSeals _ _ _, fun k r q hr hq => ?_⟩
    obtain rfl : cutRec s.freeCount whole r = q := by simpa [hr] using hq
    refine ⟨cutRec_of_lt, fun heq => ?_, fun hgt => ?_⟩
    · rw [cutRec_of_eq heq]
      exact ⟨rfl, len_tornRec_le _ _, rfl⟩
    · rw [cutRec_of_gt hgt]
      exact ⟨rfl, rfl, rfl⟩
  case manifest => exact fun s h hp hh => ⟨_, exec_holdupManifest hp hh, rfl, newest_putManifest_valid rfl rfl⟩
  case exhausted =>
    exact fun s h hp hh => ⟨_, exec_holdupEnergyExhausted hp hh, rfl, congrArg (Option.map Prod.snd) (newest_putManifest_invalid rfl)⟩
  case consumed =>
    intro s hp
    exact ⟨_, exec_ksConsume hp, reported_consume s.keep, rfl, by rw [consume_only]; rfl⟩
  case restored => exact fun s set tid c m hp hu hc hm hw hr hnew => exec_ksRestore_whole hp hu hc hm hw hr hnew
  case frozen => exact fun s set tid hu => exec_ksRestore_frozen hu
  case unmapped => exact fun s set tid c m hp hu hc hm hmap => exec_ksRestore_unmapped hp hu hc hm hmap
  case task => exact fun s tid slot c i hp hc hopen hi => leads_taskRestore hp hopen hc hi
  case firmware => exact fun s a c d i hp hc hopen hd hi => leads_fwLaunch hp hopen hc hd hi
  case states =>
    exact fun k m set r h => ⟨stateOf_of_invalid h, stateOf_of_absent h, stateOf_of_torn h⟩
  case reports => exact fun k m r h hr => mem_reports h hr
  case silent => exact fun k hn hr => reports_eq_nil hn hr

end Sys2Proof.Proofs.Holdup
end

section
/-! The messages of a lease's PEs to the placer, and the switch of its plane (R127, R132, R227, R283, R358): each message is one branch
of its event's meaning, and a switch makes the lease that of the pending plane. -/

namespace Sys2Proof.Proofs.Messages

open Sys2Proof Sys2Proof.Machine Sys2Proof.Claims Sys2Proof.Proofs.Moves

/-! ### The first message of a lease -/

section
variable {s : State} {L : Lease} {x y k : Nat} {rest : List CtrlMsg}

theorem nextMsg_of_asked {m : CtrlMsg} (h : Asked s L m rest) : L.nextMsg = some (m, { L with ctrl := rest }) := by
  obtain ⟨-, hctrl, -⟩ := h
  simp [Lease.nextMsg, hctrl]

/-- Two changes of a lease, the first of which puts one of the same number in its place. -/
theorem modLease_replace (s : State) (N : Lease) (g : Lease → Lease) :
    (s.modLease N.id (fun _ => N)).modLease N.id g = s.modLease N.id (fun _ => g N) := by
  simp only [State.modLease]
  rw [updWhere_updWhere (fun M : Lease => decide (M.id = N.id)) (fun _ => N) g (fun _ _ => decide_eq_true rfl)]

theorem exec_decisionToken {plane : Nat} (b : Bool) (h : Asked s L (.decide x y k plane) rest) (hd : imageDefines L.image plane = true) :
    exec (.decisionToken b) s = .next ((((s.modLease L.id (fun _ => { L with ctrl := rest })).modLease L.id (fun M =>
      M.decide plane (s.nextEoi L) b)).setHolds L.id).answer ⟨L.id, x, y⟩ k (fun _ => n64Tok (s.nextEoi L))) := by
  have hmsg := nextMsg_of_asked h
  obtain ⟨hL, -, hf⟩ := h
  change execDecisionToken b s = _
  simp [execDecisionToken, hL, hmsg, hf, hd]

theorem exec_decisionToken_undefined {plane : Nat} (b : Bool) (h : Asked s L (.decide x y k plane) rest)
    (hd : imageDefines L.image plane = false) : exec (.decisionToken b) s =
      .next ((s.modLease L.id (fun _ => { L with ctrl := rest })).answer ⟨L.id, x, y⟩ k (fun a => a.ownErr cHandlerEmpty)) := by
  have hmsg := nextMsg_of_asked h
  obtain ⟨hL, -, hf⟩ := h
  change execDecisionToken b s = _
  simp [execDecisionToken, hL, hmsg, hf, hd]

theorem exec_retireMessage (h : Asked s L (.retire x y k) rest) : exec .retireMessage s =
    .next (((s.modLease L.id (fun _ => { L with ctrl := rest, retireAt := some (L.retireAt.getD (s.nextEoi L)) })).completeInputs
      L.id).answer ⟨L.id, x, y⟩ k (fun _ => n64Tok (L.retireAt.getD (s.nextEoi L)))) := by
  have hmsg := nextMsg_of_asked h
  obtain ⟨hL, -, hf⟩ := h
  change execRetireMessage s = _
  simp [execRetireMessage, hL, hmsg, hf]

section
variable {redo : Bool} {n : Nat} {v : Word} (h : Asked s L (.cropen x y k redo n v) rest)
include h

theorem exec_cropenMessage (hr : L.region = none) (hw : bitsOf v.toNat 8 7 < L.w) (hh : bitsOf v.toNat 16 6 < L.h)
    (hd : imageDefines L.image (bitsOf v.toNat 0 2) = true) : exec .cropenMessage s =
      .next ((s.modLease L.id (fun _ => { L with ctrl := rest, region := some ⟨n, redo, bitsOf v.toNat 0 2,
        bitsOf v.toNat 8 7, bitsOf v.toNat 16 6, bitsOf v.toNat 24 4, s.nextBegin L, none, false, false⟩ })).answer ⟨L.id, x, y⟩ k
        (fun _ => n64Tok (s.nextBegin L))) := by
  have hmsg := nextMsg_of_asked h
  obtain ⟨hL, -, hf⟩ := h
  change execCropenMessage s = _
  rw [← modLease_replace s { L with ctrl := rest } (fun M => { M with region := some ⟨n, redo, bitsOf v.toNat 0 2,
    bitsOf v.toNat 8 7, bitsOf v.toNat 16 6, bitsOf v.toNat 24 4, s.nextBegin L, none, false, false⟩ })]
  simp [execCropenMessage, hL, hmsg, hf, hr, hd, Nat.not_le.mpr hw, Nat.not_le.mpr hh]

theorem exec_cropenMessage_open (hr : L.region ≠ none) : exec .cropenMessage s =
    .next ((s.modLease L.id (fun _ => { L with ctrl := rest })).answer ⟨L.id, x, y⟩ k (fun a => a.ownErr cSwTrap)) := by
  have hmsg := nextMsg_of_asked h
  obtain ⟨hL, -, hf⟩ := h
  change execCropenMessage s = _
  simp [execCropenMessage, hL, hmsg, hf, Option.isSome_iff_ne_none.mpr hr]

end

end

/-! ### The switch of a lease's plane (R132) -/

theorem id_switchTo (L : Lease) (plane : Nat) : (L.switchTo plane).id = L.id := by
  unfold Lease.switchTo
  cases L.later <;> rfl

theorem plane_switchTo (L : Lease) (plane : Nat) : (L.switchTo plane).plane = plane := by
  unfold Lease.switchTo
  cases L.later <;> rfl

/-- A package in which a lease has switched its plane at the end of an invocation. -/
def switched (s : State) (id plane j : Nat) : State := (s.modLease id (fun L => L.switchTo plane)).resumeLive id (j + 1)

section
variable {s : State} {L : Lease} {plane j : Nat} (hL : s.lease? s.focus.site.lease = some L)
include hL

theorem exec_planeSwitch (hpend : L.pend = some (plane, j)) (hover : s.invocationOver L j = true) (hruns : s.leaseRuns L = true)
    (hbaton : L.baton = none) (hretire : ∀ r, L.retireAt = some r → j < r) : exec .planeSwitch s =
      .next ((((switched s L.id plane j).setHolds L.id).completeInputs L.id).progress L.id) := by
  change execPlaneSwitch s = _
  cases hr : L.retireAt with
  | none => simp [execPlaneSwitch, hL, hpend, hover, hruns, hbaton, hr, switched]
  | some r => simp [execPlaneSwitch, hL, hpend, hover, hruns, hbaton, hr, switched, hretire r hr]

theorem lease?_switched : (switched s L.id plane j).lease? L.id = some (L.switchTo plane) := by
  have hfound := lease?_modLease s L.id (fun L => L.switchTo plane) (fun M => id_switchTo M plane)
  rw [← id_of_lease? hL] at hL
  rw [hL] at hfound
  exact hfound

end

/-! ### The statement -/

/-- Settles O52: each message is one branch of its event's meaning, and the lease that has switched stands in its own place. -/
theorem thePlacerAnswersPEs : Obligations.ThePlacerAnswersPEs := by
  unfold Obligations.ThePlacerAnswersPEs
  refine ⟨?decides, ?undefined, ?retires, ?opens, ?refused, ?switches⟩
  case decides => exact fun s L x y k plane rest b h hd => exec_decisionToken b h hd
  case undefined => exact fun s L x y k plane rest b h hd => exec_decisionToken_undefined b h hd
  case retires => exact fun s L x y k rest h => exec_retireMessage h
  case opens => exact fun s L x y k redo n v rest h hr hw hh hd => exec_cropenMessage h hr hw hh hd
  case refused => exact fun s L x y k redo n v rest h hr => exec_cropenMessage_open h hr
  case switches =>
    exact fun s L plane j hL hpend hover hruns hbaton hretire => ⟨switched s L.id plane j,
      exec_planeSwitch hL hpend hover hruns hbaton hretire, lease?_switched hL, plane_switchTo L plane, rfl⟩

end Sys2Proof.Proofs.Messages
end

section
/-! The team and mark instructions (R135, R136, R350, R351): what each sends to the sync unit depends on nothing that its own firing
changes, so that it is the message of the package before the firing, and the slot stays in flight over that package. -/

namespace Sys2Proof.Proofs.Teams

open Sys2Proof Sys2Proof.Machine Sys2Proof.Safety Sys2Proof.Claims

/-! ### The parties of a package beside its leases (R179, R180) -/

/-- Party records with one set. -/
def putParty (ps : List Party) (r : Party) : List Party :=
  if ps.any (fun p => p.id = r.id) then updWhere (fun p => p.id = r.id) (fun _ => r) ps else r :: ps

theorem setParty_eq (s : State) (r : Party) : s.setParty r = { s with parties := putParty s.parties r } := by
  unfold State.setParty putParty
  split <;> rfl

/-- The end of an SFR neither reads nor changes a lease. -/
theorem endSfr_modLease (s : State) (id : Nat) (f : Lease → Lease) (party : Nat) :
    (s.modLease id f).endSfr party = (s.endSfr party).modLease id f := by
  unfold State.endSfr State.endParty State.beginParty
  simp only [setParty_eq]
  symm
  exact apply_ite (fun t : State => t.modLease id f) ((s.partyOf party).sfr < 0xFFFFFFFF) _ _

theorem leases_endSfr (s : State) (party : Nat) : (s.endSfr party).leases = s.leases := by
  unfold State.endSfr State.endParty State.beginParty
  simp only [setParty_eq]
  exact (apply_ite State.leases ((s.partyOf party).sfr < 0xFFFFFFFF) _ _).trans (ite_self _)

/-! ### What a sync operation leaves (R136, R183, R351) -/

/-- The message of a sync operation to the sync unit of its team's die. -/
def syncMsg (s : State) (c : Site) (f : FmtM) (op : SyncOp) (rel : Bool) : SyncMsg :=
  ⟨match s.team? c.lease.tid (c.teamNo f) with
    | some t => t.die
    | none => c.lease.dieAt c.site.dx c.site.dy,
    c.lease.tid, c.teamNo f, c.site, c.lease.plane, c.slot, op, f.scope, if rel then writesBefore s c else []⟩

/-- The package in which a sync operation has ended the SFR of its party and holds back its port, where it does. -/
def fenced (s : State) (c : Site) (ends acquires : Bool) : State :=
  let ended := if ends then sfrEnded s c else s
  match s.portOf? c.site c.pe.kind with
  | some p => if acquires then ended.fenceCount p.id p.party false true else ended
  | none => ended

/-- A package in which a message has joined the end of the queue to the sync units. -/
def queued (s : State) (m : SyncMsg) : State := { s with syncQ := s.syncQ ++ [m] }

section
variable (s : State) (c : Site) (f : FmtM) (op : SyncOp) (rel ends acquires : Bool)

theorem syncOp_eq : c.syncOp f op rel ends s = c.fly .reply (queued (fenced s c ends op.acquires) (syncMsg s c f op rel)) := by
  unfold Site.syncOp fenced syncMsg writesBefore sfrEnded
  cases s.portOf? c.site c.pe.kind with
  | none => cases rel <;> cases ends <;> rfl
  | some p => cases rel <;> cases ends <;> cases op.acquires <;> rfl

theorem fenced_modLease (id : Nat) (g : Lease → Lease) :
    fenced (s.modLease id g) c ends acquires = (fenced s c ends acquires).modLease id g := by
  have hport : (s.modLease id g).portOf? c.site c.pe.kind = s.portOf? c.site c.pe.kind := rfl
  unfold fenced sfrEnded
  rw [hport]
  cases s.portOf? c.site c.pe.kind with
  | none => cases ends <;> rfl
  | some p =>
    dsimp only
    rw [endSfr_modLease]
    cases ends <;> cases acquires <;> rfl

theorem leases_sfrEnded : (sfrEnded s c).leases = s.leases := by
  unfold sfrEnded
  split
  · exact leases_endSfr s _
  · rfl

theorem leases_fenced : (fenced s c ends acquires).leases = s.leases := by
  have hended : (if ends then sfrEnded s c else s).leases = s.leases := by
    cases ends with
    | false => rfl
    | true => exact leases_sfrEnded s c
  unfold fenced
  dsimp only
  split
  · split <;> exact hended
  · exact hended

/-- The message is that of the package before the firing. -/
theorem syncOp_consume (u : Uses) : c.syncOp f op rel ends (c.consume u s) =
    c.fly .reply (c.consume u (queued (fenced s c ends op.acquires) (syncMsg s c f op rel))) := by
  rw [syncOp_eq, consume_eq, consume_eq, fenced_modLease]
  rfl

end

/-- A team or mark instruction that fires asks the sync unit, and stays in flight for its reply. -/
theorem asksSyncUnit {i : Instr} {s : State} {c : Site} {f : FmtM} {op : SyncOp} {rel ends : Bool} {body : Site → State → State}
    (h : Fires i s c) (hexec : exec i s = fire i always (errToBoth i) body s)
    (hbody : body c (c.consume (c.taken i.uses) s) = c.syncOp f op rel ends (c.consume (c.taken i.uses) s)) :
    AsksSyncUnit i s c f op rel ends op.acquires := by
  have hran := ran_flies (s0 := queued (fenced s c ends op.acquires) (syncMsg s c f op rel)) (u := c.taken i.uses) .reply h.site
    (leases_fenced s c ends op.acquires) (RegChange.none c.lease.plane)
  rw [modPE_id] at hran
  refine ⟨_, ?_, hran⟩
  rw [hexec, ← syncOp_consume, ← hbody]
  exact fireUsing_acts h rfl

/-! ### The statement -/

/-- Settles O37: each instruction's body is one sync operation, whose message and package are those before the firing. -/
theorem teamsAndMarksAskTheSyncUnit : Obligations.TeamsAndMarksAskTheSyncUnit := by
  unfold Obligations.TeamsAndMarksAskTheSyncUnit
  refine ⟨?join, ?leave, ?markInit, ?arrive, ?mwait, ?arrwait⟩
  case join => exact fun f s c h => asksSyncUnit h rfl rfl
  case leave => exact fun f s c h => asksSyncUnit h rfl rfl
  case markInit =>
    intro f s c n h hn
    refine asksSyncUnit h (rfl : _ = execMarkinit f s) ?_
    simp only [hn]
    rfl
  case arrive => exact fun f s c h => asksSyncUnit h rfl rfl
  case mwait =>
    intro f s c g h hg
    refine asksSyncUnit h (rfl : _ = execMwait f s) ?_
    simp only [hg]
    rfl
  case arrwait => exact fun f s c h => asksSyncUnit h rfl rfl

end Sys2Proof.Proofs.Teams
end

section
/-! Where the trap of an ERR goes, and ERRs that no target receives (R131, R230, R273): an ERR that nothing contains sends its trap to the
CD, one that an open region contains begins an unwind, and DROP, TRAP, and a squashed GATE or MERGE raise exactly one. -/

namespace Sys2Proof.Proofs.Errors

open Sys2Proof Sys2Proof.Machine Sys2Proof.Safety Sys2Proof.Claims Sys2Proof.Proofs.Moves

/-! ### Raising (R131, R230) -/

section
variable {s : State} {L : Lease} {id : Nat}

/-- A trap that no region of its lease contains joins those on their way to the CD. -/
theorem raise_sent {x : Trap} (hx : x.lease = some id) (hL : s.lease? id = some L) (hn : NotContained L x.err) :
    s.raise x = { s with traps := s.traps ++ [x] } := by
  obtain ⟨hu, hr⟩ := hn
  cases hreg : L.region with
  | none => simp [State.raise, hx, hL, hu, hreg]
  | some r => simp only [State.raise, hx, hL, hu, hreg, hr r hreg, Bool.false_eq_true, if_false]

/-- A trap that an open region contains begins the region's unwind instead. -/
theorem raise_contained {x : Trap} {r : Region} (hx : x.lease = some id) (hL : s.lease? id = some L) (hu : L.unwind = none)
    (hreg : L.region = some r) (hc : containable (errCause x.err) = true) (hh : r.holds (errInv x.err) = true)
    (hr : r.retried = false) : s.raise x = s.beginUnwind L x.err := by
  simp [State.raise, hx, hL, hu, hreg, hc, hh, hr]

theorem raiseErr_sent {w : Word} (hL : s.lease? id = some L) (hn : NotContained L w) :
    s.raiseErr id w = { s with traps := s.traps ++ [Trap.ofErr L w] } := by
  unfold State.raiseErr
  rw [hL]
  exact raise_sent (x := Trap.ofErr L w) rfl (by rw [id_of_lease? hL]; exact hL) hn

theorem raiseErr_contained {w : Word} {r : Region} (hL : s.lease? id = some L) (hu : L.unwind = none) (hreg : L.region = some r)
    (hc : containable (errCause w) = true) (hh : r.holds (errInv w) = true) (hr : r.retried = false) :
    s.raiseErr id w = s.beginUnwind L w := by
  unfold State.raiseErr
  rw [hL]
  exact raise_contained (x := Trap.ofErr L w) rfl (by rw [id_of_lease? hL]; exact hL) hu hreg hc hh hr

/-- A lease whose unwind has begun: every running instance has stopped. -/
def unwinding (w : Word) (L : Lease) : Lease :=
  { L with unwind := some ⟨w, 1⟩, stopIssue := true, pes := L.pes.map (fun p => { p with inst := none }) }

theorem beginUnwind_eq (s : State) (L : Lease) (w : Word) :
    s.beginUnwind L w = (s.modLease L.id (unwinding w)).holdInputs L.id true := rfl

theorem beginUnwind_only (w : Word) :
    s.beginUnwind L w = { s with leases := (s.beginUnwind L w).leases, ports := (s.beginUnwind L w).ports } := rfl

theorem lease?_beginUnwind (w : Word) (hL : s.lease? id = some L) : (s.beginUnwind L w).lease? id = some (unwinding w L) := by
  obtain rfl := id_of_lease? hL
  exact (lease?_modLease s L.id (unwinding w) (fun _ => rfl)).trans (congrArg _ hL)

end

/-! ### The ERRs of a firing (R272, R273) -/

section
variable {s : State} {c : Site}

/-- A lease of which a slot has taken its operands: its stall count begins anew, and of its PEs none but the slot's differs. -/
def afterTaking (c : Site) (u : Uses) (L : Lease) : Lease :=
  { L.modPE c.site.dx c.site.dy (fun p => { p with inst := p.inst.map (fun i => i.taken u c.slot []) }) with
    stall := 0, stalled := false }

theorem lease?_consume (hs : s.site? = some c) (u : Uses) :
    (c.consume u s).lease? c.site.lease = some (afterTaking c u c.lease) := by
  obtain ⟨-, -, hL, -, -, -⟩ := site?_some hs
  rw [consume_eq]
  exact (lease?_modLease s c.site.lease (afterTaking c u) (fun _ => rfl)).trans (congrArg _ hL)

/-- What a firing leaves that raised the trap of one ERR. -/
abbrev ErrSent (i : Instr) (s : State) (c : Site) (w : Word) : Prop :=
  ∃ t, exec i s = .next t ∧ t.traps = s.traps ++ [Trap.ofErr c.lease w] ∧ FabricOnly s t ∧ t.ports = s.ports

/-- A firing that takes its operands and raises one ERR that nothing contains sends that ERR's trap to the CD. -/
theorem errSent {i : Instr} {u : Uses} {w : Word} (hs : s.site? = some c)
    (hexec : exec i s = .next ((c.consume u s).raiseErr c.site.lease w)) (hn : NotContained c.lease w) : ErrSent i s c w := by
  rw [raiseErr_sent (lease?_consume hs u) hn] at hexec
  exact ⟨_, hexec, rfl, rfl, rfl⟩

/-- A token sent to two targets of none reaches nothing; an ERR raises its trap there. -/
theorem reply_to_none {h : Head} {e : Token} (h0 : h.t0 = tNone) (h1 : h.t1 = tNone) (he : e.kind = .err) (s : State) :
    c.reply h e s = s.raiseErr c.site.lease e.low := by
  have hsend (s : State) : s.sendOne c.site c.lease.plane tNone e = s := modPE_id s c.site
  unfold Site.reply State.emit
  rw [h0, h1]
  simp [hsend, he]

theorem kind_of_firstErr {u : Uses} {e : Token} (h : c.firstErr u = some e) : e.kind = .err := by
  simpa using List.find?_some h

/-- One ERR among the tokens raises one trap. -/
theorem raiseErrs_one {ts : List Token} {e : Token} (h : ts.filter (fun t => t.kind = .err) = [e]) (s : State) :
    c.raiseErrs ts s = s.raiseErr c.site.lease e.low := by
  unfold Site.raiseErrs
  rw [h]
  rfl

theorem isErr_eq_false {o : Option Token} (h : isErr o = false) : ∀ t ∈ o.toList, t.kind ≠ .err := by
  cases o with
  | none => simp
  | some t => simpa [isErr] using h

/-- No ERR in P stops an instruction of which P alone is checked. -/
theorem firstErr_onlyP (u : Uses) (hp : isErr c.p = false) : c.firstErr (onlyP u) = none := by
  have hfree := isErr_eq_false hp
  unfold Site.firstErr Site.operands onlyP
  simp only [Bool.false_eq_true, if_false, List.nil_append, List.find?_eq_none, decide_eq_true_eq]
  intro t ht
  split at ht
  · exact hfree t ht
  · simp at ht

section
variable {i : Instr} {uses : Site → Uses} {checked : Uses → Uses} {onErr : Site → Token → State → State}
  {body : Site → State → State} (hs : s.site? = some c) (hp : c.present (uses c) = true)
  (hf : c.pe.targetsFree c.lease.plane i.head.t0 i.head.t1 = true)
include hs hp hf

/-- How a firing goes on an ERR among the operands that are checked. -/
theorem fireUsing_err {e : Token} (he : c.firstErr (checked (uses c)) = some e) :
    fireUsing i uses checked always onErr body s = .next (onErr c e (c.consume (uses c) s)) := by
  simp [fireUsing, hs, hp, hf, he, always]

/-- How a firing goes that its predicate squashes. -/
theorem fireUsing_squashed (he : c.firstErr (checked (uses c)) = none) (hq : c.squashed i.head = true) :
    fireUsing i uses checked always onErr body s = .next (c.raiseErrs (c.operands (uses c)) (c.consume (uses c) s)) := by
  simp [fireUsing, hs, hp, hf, he, hq, always]

end

end

/-! ### DROP and TRAP (R279, R359) -/

section
variable {s : State} {c : Site} {e : Token}

section
variable {f : FmtD} (hs : s.site? = some c) (hp : c.present (c.taken (Instr.drop f).uses) = true)
  (hf : c.pe.targetsFree c.lease.plane f.h.t0 f.h.t1 = true) (he : c.firstErr (c.taken (Instr.drop f).uses) = some e)
  (h0 : f.h.t0 = tNone) (h1 : f.h.t1 = tNone)
include hs hp hf he h0 h1

theorem exec_drop_err : exec (.drop f) s =
    .next ((c.consume (c.taken (Instr.drop f).uses) s).raiseErr c.site.lease e.low) := by
  rw [← reply_to_none h0 h1 (kind_of_firstErr he)]
  change execDrop f s = _
  unfold execDrop fire
  exact fireUsing_err (i := .drop f) (uses := fun c => c.taken (Instr.drop f).uses) (checked := fun u => u) hs hp hf he

/-- A dropped ERR that an open region contains stops every running instance of its lease. -/
theorem drop_contained {r : Region} (hu : c.lease.unwind = none) (hreg : c.lease.region = some r)
    (hc : containable (errCause e.low) = true) (hh : r.holds (errInv e.low) = true) (hr : r.retried = false) :
    ∃ t, exec (.drop f) s = .next t ∧ t.traps = s.traps ∧ FabricOnly s t ∧ ∃ M, t.lease? c.site.lease = some M ∧
      M.unwind = some ⟨e.low, 1⟩ ∧ M.stopIssue = true ∧ ∀ p ∈ M.pes, p.inst = none := by
  have hexec := exec_drop_err hs hp hf he h0 h1
  have hL := lease?_consume hs (c.taken (Instr.drop f).uses)
  rw [raiseErr_contained hL hu hreg hc hh hr] at hexec
  refine ⟨_, hexec, ?_, ?_, _, lease?_beginUnwind e.low hL, rfl, rfl, ?_⟩
  · rw [beginUnwind_only]
    rfl
  · rw [beginUnwind_only]
    rfl
  · intro p hp
    obtain ⟨q, -, rfl⟩ := List.mem_map.mp hp
    rfl

end

theorem exec_trap_none {f : FmtM} (h : Fires (.trap f) s c) (h0 : f.h.t0 = tNone) (h1 : f.h.t1 = tNone) :
    exec (.trap f) s = .next ((c.consume (c.taken (Instr.trap f).uses) s).raiseErr c.site.lease
      (c.ownErr (trapCause f.off.toNat)).low) := by
  rw [← reply_to_none (e := c.ownErr (trapCause f.off.toNat)) h0 h1 rfl]
  change execTrap f s = _
  unfold execTrap fire
  exact fireUsing_acts h rfl

end

theorem low_ofErr (w : Word) (vec : Bool) : (Token.ofErr w vec).low = w := by
  change (w.setWidth 512).setWidth 64 = w
  rw [BitVec.setWidth_setWidth_of_le w (by decide), BitVec.setWidth_eq]

/-! ### GATE and MERGE (R280, R281) -/

section
variable {s : State} {c : Site} {e : Token} {f : FmtD}

/-- The operand in P adds no ERR to one. -/
theorem filter_one_err (he : e.kind = .err) (hp : isErr c.p = false) (b : Bool) :
    ([e] ++ if b then c.p.toList else []).filter (fun t => decide (t.kind = .err)) = [e] := by
  have hfree := isErr_eq_false hp
  have hnone : (if b then c.p.toList else []).filter (fun t => decide (t.kind = .err)) = [] := by
    rw [List.filter_eq_nil_iff]
    intro t ht
    split at ht
    · simpa using hfree t ht
    · simp at ht
  rw [List.filter_append, hnone]
  simp [he]

theorem uses_gate (f : FmtD) : (Instr.gate f).uses.l = true ∧ (Instr.gate f).uses.r = false := by
  unfold Instr.uses Instr.row
  dsimp only
  cases f.body <;> exact ⟨rfl, rfl⟩

theorem errs_gate (hl : c.l = some e) (he : e.kind = .err) (hp : isErr c.p = false) :
    (c.operands (c.taken (Instr.gate f).uses)).filter (fun t => t.kind = .err) = [e] := by
  obtain ⟨hul, hur⟩ := uses_gate f
  have hops : c.operands (c.taken (Instr.gate f).uses) = [e] ++ if (Instr.gate f).uses.p then c.p.toList else [] := by
    simp [Site.operands, Site.taken, hul, hur, hl]
  rw [hops]
  exact filter_one_err he hp _

theorem errs_merge (hl : c.l.or c.r = some e) (he : e.kind = .err) (hp : isErr c.p = false) :
    (c.operands ⟨c.l.isSome, c.l.isNone, (Instr.merge f).uses.p⟩).filter (fun t => t.kind = .err) = [e] := by
  have hops : c.operands ⟨c.l.isSome, c.l.isNone, (Instr.merge f).uses.p⟩ =
      [e] ++ if (Instr.merge f).uses.p then c.p.toList else [] := by
    cases h : c.l with
    | none =>
      have hr : c.r = some e := by simpa [h] using hl
      simp [Site.operands, hr]
    | some t =>
      obtain rfl : t = e := by simpa [h] using hl
      simp [Site.operands, h]
  rw [hops]
  exact filter_one_err he hp _

section
variable (hs : s.site? = some c) (he : e.kind = .err) (hp : isErr c.p = false) (hq : c.squashed f.h = true)
  (hf : c.pe.targetsFree c.lease.plane f.h.t0 f.h.t1 = true)
include hs he hp hq hf

theorem exec_gate_squashed (hpres : c.present (c.taken (Instr.gate f).uses) = true) (hl : c.l = some e) : exec (.gate f) s =
    .next ((c.consume (c.taken (Instr.gate f).uses) s).raiseErr c.site.lease e.low) := by
  rw [← raiseErrs_one (errs_gate (f := f) hl he hp)]
  change execGate f s = _
  unfold execGate
  exact fireUsing_squashed (i := .gate f) (uses := fun c => c.taken (Instr.gate f).uses) (checked := onlyP) hs hpres hf
    (firstErr_onlyP _ hp) hq

theorem exec_merge_squashed (hpres : c.present ⟨c.l.isSome, c.l.isNone, (Instr.merge f).uses.p⟩ = true) (hl : c.l.or c.r = some e) :
    exec (.merge f) s =
      .next ((c.consume ⟨c.l.isSome, c.l.isNone, (Instr.merge f).uses.p⟩ s).raiseErr c.site.lease e.low) := by
  rw [← raiseErrs_one (errs_merge (f := f) hl he hp)]
  change execMerge f s = _
  unfold execMerge
  exact fireUsing_squashed (i := .merge f) (uses := fun c => ⟨c.l.isSome, c.l.isNone, (Instr.merge f).uses.p⟩) (checked := onlyP) hs
    hpres hf (firstErr_onlyP _ hp) hq

end

end

/-! ### The statement -/

/-- Settles O25: each of the firings takes its operands and raises exactly one ERR, whose trap goes to the CD or begins an unwind. -/
theorem droppedErrorsRaiseTheirTrap : Obligations.DroppedErrorsRaiseTheirTrap := by
  unfold Obligations.DroppedErrorsRaiseTheirTrap
  refine ⟨?drop, ?trap, ?gate, ?merge, ?contained⟩
  case drop => exact fun f s c e hs hp hf he h0 h1 hn => errSent hs (exec_drop_err hs hp hf he h0 h1) hn
  case trap =>
    intro f s c h h0 h1 hn
    have hexec := exec_trap_none h h0 h1
    rw [Site.ownErr, low_ofErr] at hexec
    exact errSent h.site hexec hn
  case gate =>
    exact fun f s c e hs hpres hf hl he hp hq hn => errSent hs (exec_gate_squashed hs he hp hq hf hpres hl) hn
  case merge =>
    exact fun f s c e hs hpres hf hl he hp hq hn => errSent hs (exec_merge_squashed hs he hp hq hf hpres hl) hn
  case contained =>
    exact fun f s c e r hs hp hf he h0 h1 hu hreg hc hh hr => drop_contained hs hp hf he h0 h1 hu hreg hc hh hr

end Sys2Proof.Proofs.Errors
end

section
/-! The frame of the arithmetic and vector instructions (R126, R272, R273): an effect on one PE of a lease, a token sent and an ERR raised
leave the other leases, the registers of the lease's other PEs and all of the ports but their HOLD; a firing is made of these. -/

namespace Sys2Proof.Proofs.Frames

open Sys2Proof Sys2Proof.Machine Sys2Proof.Safety Sys2Proof.Claims Sys2Proof.Proofs.Moves Sys2Proof.Proofs.Errors

/-! ### What a firing of one site may touch -/

/-- A port with HOLD released. -/
abbrev unheld (p : Port) : Port := { p with hold := false }

/-- Nothing differs but the lease of a site, the HOLD of ports and traps on their way, and of the lease no other PE's registers. -/
structure Own (site : SiteRef) (s t : State) : Prop where
  fabric : FabricOnly s t
  regs : SameRegsBut site s t
  leases : ∀ id, id ≠ site.lease → t.lease? id = s.lease? id
  ports : t.ports.map unheld = s.ports.map unheld

section
variable {site : SiteRef} {s t u : State}

theorem Own.refl (site : SiteRef) (s : State) : Own site s s := ⟨rfl, fun _ _ => rfl, fun _ _ => rfl, rfl⟩

theorem Own.trans (h : Own site s t) (h' : Own site t u) : Own site s u where
  fabric := h'.fabric.trans (congrArg (fun v : State => { v with leases := u.leases, ports := u.ports, traps := u.traps }) h.fabric)
  regs x hx := (h'.regs x hx).trans (h.regs x hx)
  leases id hid := (h'.leases id hid).trans (h.leases id hid)
  ports := h'.ports.trans h.ports

/-- A run of changes, each of which stays with the site. -/
theorem Own.foldl {α : Type} {f : State → α → State} (hf : ∀ s a, Own site s (f s a)) (l : List α) (s : State) :
    Own site s (l.foldl f s) := by
  induction l generalizing s with
  | nil => exact Own.refl site s
  | cons a l ih => exact (hf s a).trans (ih _)

theorem siteRef_eq {a b : SiteRef} (hl : a.lease = b.lease) (hx : a.dx = b.dx) (hy : a.dy = b.dy) : a = b := by
  cases a
  cases b
  cases hl
  cases hx
  cases hy
  rfl

/-- A change of the site's lease that keeps its number and the registers of its other PEs. -/
theorem own_modLease {f : Lease → Lease} (hid : ∀ L, (f L).id = L.id)
    (hregs : ∀ L x y, ¬(x = site.dx ∧ y = site.dy) → ((f L).pe? x y).map PE.regs = (L.pe? x y).map PE.regs) :
    Own site s (s.modLease site.lease f) where
  fabric := rfl
  regs x hx := by
    by_cases hl : x.lease = site.lease
    · have hxy : ¬(x.dx = site.dx ∧ x.dy = site.dy) := fun ⟨h1, h2⟩ => hx (siteRef_eq hl h1 h2)
      unfold State.pe?
      rw [hl, lease?_modLease s site.lease f hid]
      cases s.lease? site.lease with
      | none => rfl
      | some L => exact hregs L x.dx x.dy hxy
    · unfold State.pe?
      rw [lease?_modLease_other s f hid hl]
  leases id h := lease?_modLease_other s f hid h
  ports := rfl

theorem own_modPE {f : PE → PE} (hf : ∀ p, (f p).dx = p.dx ∧ (f p).dy = p.dy) : Own site s (s.modPE site f) :=
  own_modLease (f := fun L => L.modPE site.dx site.dy f) (fun _ => rfl)
    (fun L _ _ hxy => congrArg (Option.map PE.regs) (pe?_modPE_other L f hf hxy))

theorem own_progress : Own site s (s.progress site.lease) :=
  own_modLease (f := fun L => { L with stall := 0, stalled := false }) (fun _ => rfl) (fun _ _ _ _ => rfl)

theorem own_holdInputs (id : Nat) (b : Bool) : Own site s (s.holdInputs id b) where
  fabric := rfl
  regs _ _ := rfl
  leases _ _ := rfl
  ports := by
    unfold State.holdInputs updWhere
    simp only [List.map_map]
    refine List.map_congr_left fun p _ => ?_
    simp only [Function.comp_apply]
    exact iteInduction (motive := fun q => unheld q = unheld p) (fun _ => rfl) (fun _ => rfl)

/-! ### Raising (R131, R230) -/

/-- An unwind that begins changes no register. -/
theorem regs_unwinding (w : Word) (L : Lease) (x y : Nat) : ((unwinding w L).pe? x y).map PE.regs = (L.pe? x y).map PE.regs := by
  unfold Lease.pe? unwinding
  rw [List.find?_map, Option.map_map]
  rfl

theorem own_beginUnwind {L : Lease} (hL : L.id = site.lease) (w : Word) : Own site s (s.beginUnwind L w) := by
  rw [beginUnwind_eq, hL]
  exact (own_modLease (f := unwinding w) (fun _ => rfl) (fun M x y _ => regs_unwinding w M x y)).trans (own_holdInputs _ _)

theorem own_raise {x : Trap} (hx : x.lease = some site.lease) : Own site s (s.raise x) := by
  have hsent : Own site s { s with traps := s.traps ++ [x] } := ⟨rfl, fun _ _ => rfl, fun _ _ => rfl, rfl⟩
  unfold State.raise
  rw [hx]
  dsimp only
  cases hL : s.lease? site.lease with
  | none => exact hsent
  | some L =>
    refine iteInduction (motive := Own site s) (fun _ => own_modLease (fun _ => rfl) (fun _ _ _ _ => rfl)) (fun _ => ?_)
    cases L.region with
    | none => exact hsent
    | some r => exact iteInduction (motive := Own site s) (fun _ => own_beginUnwind (id_of_lease? hL) _) (fun _ => hsent)

theorem own_raiseErr (w : Word) : Own site s (s.raiseErr site.lease w) := by
  unfold State.raiseErr
  cases hL : s.lease? site.lease with
  | none => exact Own.refl site s
  | some L => exact own_raise (congrArg some (id_of_lease? hL))

/-! ### Sending (R253, R272) -/

theorem own_sendOne (plane : Nat) (t : BitVec 9) (tok : Token) : Own site s (s.sendOne site plane t tok) := by
  unfold State.sendOne
  split
  · split
    · exact own_raiseErr tok.low
    · exact Own.refl site s
  · exact own_modPE (fun p => put_place p plane t tok)

theorem own_emit (plane : Nat) (l : List (BitVec 9 × Token)) : Own site s (s.emit site plane l) := by
  have hsent : Own site s (l.foldl (fun s p => s.sendOne site plane p.1 p.2) s) := Own.foldl (fun _ p => own_sendOne plane p.1 p.2) l s
  unfold State.emit
  dsimp only
  split
  · exact hsent
  · split
    · exact hsent.trans (own_raiseErr _)
    · exact hsent

end

/-! ### A firing (R126, R272) -/

section
variable {s t : State} {c : Site}

theorem own_consume (u : Uses) : Own c.site s (c.consume u s) := by
  unfold Site.consume
  refine Own.trans (own_modPE ?_) own_progress
  exact fun _ => ⟨rfl, rfl⟩

theorem own_raiseErrs (ts : List Token) : Own c.site s (c.raiseErrs ts s) :=
  Own.foldl (fun _ (t : Token) => own_raiseErr t.low) _ s

theorem own_reply (h : Head) (t : Token) : Own c.site s (c.reply h t s) := own_emit _ _

theorem own_fail (h : Head) (cause : Nat) : Own c.site s (c.fail h cause s) := own_reply h (c.ownErr cause)

theorem own_perform (h : Head) (e : Effect) : Own c.site s (c.perform h e s) := by
  rw [perform_eq]
  exact (own_modPE (e.regChange c.lease.plane).place).trans (own_emit _ _)

/-- A firing that sends an ERR on, and whose body stays with its site, stays with its site. -/
theorem own_fire {i : Instr} {body : Site → State → State} (hbody : ∀ c s, Own c.site s (body c s))
    (h : fire i always (errToBoth i) body s = .next t) : Own s.focus.site s t := by
  unfold fire fireUsing at h
  cases hs : s.site? with
  | none =>
    rw [hs] at h
    cases h
    exact Own.refl _ s
  | some c =>
    obtain ⟨hsite, -⟩ := site?_some hs
    rw [hs] at h
    rw [← hsite]
    dsimp only at h
    split at h
    · cases h
      exact Own.refl _ s
    · split at h
      · cases h
        exact (own_consume _).trans (own_reply _ _)
      · split at h
        · cases h
          exact (own_consume _).trans (own_raiseErrs _)
        · cases h
          exact (own_consume _).trans (hbody c _)

theorem own_fireLocal {i : Instr} {eff : Site → Option Effect} (h : fireLocal i eff s = .next t) : Own s.focus.site s t := by
  refine own_fire (fun c s => ?_) h
  split
  · exact own_perform _ _
  · exact own_fail _ _

theorem own_mkaddr {f : FmtA} (h : exec (.mkaddr f) s = .next t) : Own s.focus.site s t := by
  change execMkaddr f s = _ at h
  refine own_fire (fun c s => ?_) h
  cases f.body.imm? with
  | none =>
    dsimp only
    split
    · exact own_reply _ _
    · exact own_fail _ _
  | some v =>
    dsimp only
    split
    · exact own_reply _ _
    · exact own_fail _ _

theorem own_dieof {f : FmtA} (h : exec (.dieof f) s = .next t) : Own s.focus.site s t := by
  change execDieof f s = _ at h
  refine own_fire (fun c s => ?_) h
  split
  · exact own_reply _ _
  · exact own_fail _ _

theorem own_fflags {f : FmtA} (h : exec (.fflags f) s = .next t) : Own s.focus.site s t := by
  change execFflags f s = _ at h
  refine own_fire (fun c s => ?_) h
  refine Own.trans (own_modPE ?_) (own_reply _ _)
  exact fun _ => ⟨rfl, rfl⟩

end

/-! ### The statement -/

/-- Every arithmetic or vector instruction, but three whose result rests on the package or that write FLG, is an effect on its own PE. -/
theorem own_of_formatA {i : Instr} {f : FmtA} {r : RowA} {s t : State} (hi : i.row = .a f r) (h : exec i s = .next t) :
    Own s.focus.site s t := by
  cases i with
  | mkaddr => exact own_mkaddr h
  | dieof => exact own_dieof h
  | fflags => exact own_fflags h
  | add f | sub f | addc f | subb f | mul f | mulh f | div f | rem f | neg f | abs f | min f | max f | satadd f | satsub f | and f
  | or f | xor f | andn f | shl f | shr f | sar f | rot f | clz f | popc f | bfx f | bfi f | ext f | cmp f | adda f | fadd f | fsub f
  | fmul f | ffma f | fdiv f | fsqrt f | fmin f | fmax f | fneg f | fabs f | fcmp f | fclass f | fcvt f | ftoi f | itof f | frnd f
  | fscale f | fexp2 f | flog2 f | frcp f | frsq f | vadd f | vsub f | vmul f | vfma f | vmin f | vmax f | vabs f | vneg f | vand f
  | vor f | vxor f | vshl f | vshr f | vsar f | vcmp f | vsel f | vsatadd f | vmulh f | vdot f | vcvt f | vquant f | vdeq f | vscale f
  | vexp2 f | vlog2 f | vrcp f | vrsq f | vsigm f | vbcast f | vextr f | vins f | vshuf f | vrot f | vslide f | vzip f | vunzip f
  | vpack f | vunpack f | vredadd f | vredmax f | vredmin f | vscan f | vcompress f | vexpand f | vmask f | vpopc f | vtagq f
  | vtagset f =>
    exact own_fireLocal h
  | _ => cases hi

/-- Settles O26: an arithmetic or vector instruction is a firing whose parts stay with its site. -/
theorem arithmeticTouchesItsOwnSiteOnly : Obligations.ArithmeticTouchesItsOwnSiteOnly := by
  unfold Obligations.ArithmeticTouchesItsOwnSiteOnly
  intro i f r s t hi h
  obtain ⟨hfabric, hregs, hleases, hports⟩ := own_of_formatA hi h
  exact ⟨hfabric, hregs, hleases, hports⟩

end Sys2Proof.Proofs.Frames
end

section
/-! The fabric (R119, R123 to R126, R129, R130, R140, R147): what a token or a credit leaves at both ends of its channel, the steps of a
PE's handlers and of its EOI processing, the operations on a CU, and the stall watchdog. -/

namespace Sys2Proof.Proofs.Fabric

open Sys2Proof Sys2Proof.Machine Sys2Proof.Claims Sys2Proof.Proofs.Moves Sys2Proof.Proofs.Replies Sys2Proof.Proofs.Errors
  Sys2Proof.Proofs.Frames

/-! ### The PE of a site -/

section
variable {s : State} {L : Lease} {pe : PE} {f : PE → PE} (hf : ∀ p, (f p).dx = p.dx ∧ (f p).dy = p.dy)

theorem pe?_of_lease? {site : SiteRef} (hL : s.lease? site.lease = some L) : s.pe? site = L.pe? site.dx site.dy := by
  unfold State.pe?
  rw [hL]

theorem pe?_of_atFocus (h : AtFocus s L pe) : s.pe? s.focus.site = some pe := by
  obtain ⟨hL, hpe⟩ := h
  rw [pe?_of_lease? hL, hpe]

include hf

/-- Every other site's PE is as it was. -/
theorem pe?_modPE_ne {at_ site : SiteRef} (h : site ≠ at_) : (s.modPE at_ f).pe? site = s.pe? site := by
  unfold State.pe? State.modPE
  by_cases hl : site.lease = at_.lease
  · have hxy : ¬(site.dx = at_.dx ∧ site.dy = at_.dy) := fun ⟨hx, hy⟩ => h (siteRef_eq hl hx hy)
    rw [hl, lease?_modLease s at_.lease (fun L => L.modPE at_.dx at_.dy f) (fun _ => rfl)]
    cases s.lease? at_.lease with
    | none => rfl
    | some L => exact pe?_modPE_other L f hf hxy
  · rw [lease?_modLease_other s (fun L => L.modPE at_.dx at_.dy f) (fun _ => rfl) hl]

/-- What a change of some site's PE keeps of every PE is as it was. -/
theorem map_pe?_modPE {α : Type} {k : PE → α} (hk : ∀ p, k (f p) = k p) {site : SiteRef} (at_ : SiteRef) (h : s.pe? site = some pe) :
    ((s.modPE at_ f).pe? site).map k = some (k pe) := by
  by_cases hsame : site = at_
  · rw [← hsame, pe?_modPE_site hf h]
    exact congrArg some (hk pe)
  · rw [pe?_modPE_ne hf hsame, h]
    rfl

end

/-! ### The ends of a channel (R119, R129) -/

section
variable {s : State} {L : Lease} {pe q : PE} {x y i : Nat}

/-- The producer's end after its first token has left: the token's credit is spent. -/
def sent (ch : Nat) (rest : List Token) (pe : PE) : PE :=
  { pe with outs := pe.outs.setIfInBounds ch ⟨rest, (pe.outEnd ch).credits - 1⟩ }

/-- The consumer's end after the credit of a freed slot has left it. -/
def credited (i : Nat) (q : PE) : PE := { q with ins := q.ins.setIfInBounds i { q.inEnd i with freed := (q.inEnd i).freed - 1 } }

/-- The producer's end with a credit more. -/
def withCredit (ch : Nat) (pe : PE) : PE :=
  { pe with outs := pe.outs.setIfInBounds ch { pe.outEnd ch with credits := (pe.outEnd ch).credits + 1 } }

theorem outEnd_sent {ch : Nat} (hch : ch < 8) (rest : List Token) (pe : PE) :
    (sent ch rest pe).outEnd ch = ⟨rest, (pe.outEnd ch).credits - 1⟩ := by
  simp [sent, PE.outEnd, hch]

theorem outEnd_withCredit {ch : Nat} (hch : ch < 8) (pe : PE) :
    (withCredit ch pe).outEnd ch = { pe.outEnd ch with credits := (pe.outEnd ch).credits + 1 } := by
  simp [withCredit, PE.outEnd, hch]

theorem inEnd_credited (hi : i < 8) (q : PE) : (credited i q).inEnd i = { q.inEnd i with freed := (q.inEnd i).freed - 1 } := by
  simp [credited, PE.inEnd, hi]

theorem inEnd_arrive (hi : i < 8) (plane : Nat) (t : Token) (q : PE) :
    (q.arrive plane i t).inEnd i = { q.inEnd i with q := (q.inEnd i).q ++ [t] } := by
  simp [PE.arrive, PE.inEnd, hi]

theorem consumer_of_channel (h : Channel s L pe x y i q) : s.pe? ⟨s.focus.site.lease, x, y⟩ = some q := by
  obtain ⟨⟨hL, -⟩, -, -, hq, -⟩ := h
  rw [pe?_of_lease? (site := ⟨s.focus.site.lease, x, y⟩) hL]
  exact hq

/-- A package in which a token has crossed its channel: `rest` stays at the producer, `t` has come to the consumer. -/
def crossed (s : State) (L : Lease) (x y i : Nat) (rest : List Token) (t : Token) : State :=
  ((s.modPE s.focus.site (sent s.focus.ch rest)).modPE ⟨s.focus.site.lease, x, y⟩ (fun q => q.arrive L.plane i t)).progress L.id

section
variable (h : Channel s L pe x y i q) (rest : List Token) (t : Token)
include h

theorem producer_crossed : ((crossed s L x y i rest t).pe? s.focus.site).map (fun a => a.outEnd s.focus.ch) =
    some ⟨rest, (pe.outEnd s.focus.ch).credits - 1⟩ := by
  obtain ⟨hfocus, -, -, -, -, hch⟩ := h
  have hsent : (s.modPE s.focus.site (sent s.focus.ch rest)).pe? s.focus.site = some (sent s.focus.ch rest pe) :=
    pe?_modPE_site (fun _ => ⟨rfl, rfl⟩) (pe?_of_atFocus hfocus)
  unfold crossed
  rw [pe?_progress, map_pe?_modPE (f := fun q => q.arrive L.plane i t) (k := fun a => a.outEnd s.focus.ch) (fun _ => ⟨rfl, rfl⟩)
    (fun _ => rfl) _ hsent, outEnd_sent hch]

theorem consumer_crossed : ((crossed s L x y i rest t).pe? ⟨s.focus.site.lease, x, y⟩).map (fun b => (b.inEnd i).q) =
    some ((q.inEnd i).q ++ [t]) := by
  have hkept : ((s.modPE s.focus.site (sent s.focus.ch rest)).pe? ⟨s.focus.site.lease, x, y⟩).map (fun b => b.inEnd i) =
      some (q.inEnd i) :=
    map_pe?_modPE (f := sent s.focus.ch rest) (fun _ => ⟨rfl, rfl⟩) (fun _ => rfl) _ (consumer_of_channel h)
  obtain ⟨b, hb, hin⟩ := Option.map_eq_some_iff.mp hkept
  obtain ⟨-, -, -, -, hi, -⟩ := h
  unfold crossed
  rw [pe?_progress, pe?_modPE_site (f := fun q => q.arrive L.plane i t) (fun _ => ⟨rfl, rfl⟩) hb, Option.map_some,
    inEnd_arrive hi, hin]

end

section
variable {k : Token} {rest : List Token} (bad : Bool) (h : Channel s L pe x y i q) (hk : (pe.outEnd s.focus.ch).q = k :: rest)
  (hc : (pe.outEnd s.focus.ch).credits ≠ 0) (hup : s.channelUp L pe.dx pe.dy s.focus.ch = true)
include h hk hc hup

/-- A token that meets a foreign firewall: its sender's ERR crosses in its place. -/
theorem exec_tokenArrival_walled (hw : L.walled L.plane pe.dx pe.dy s.focus.ch = true) : exec (.tokenArrival bad) s =
    .next ((crossed s L x y i rest (L.siteErr pe cPipeCheck k.vec)).pipeAt L pe.dx pe.dy) := by
  obtain ⟨⟨hL, hpe⟩, hf, hcons, hq, -, -⟩ := h
  change execTokenArrival bad s = _
  simp only [execTokenArrival, hL, hpe, hcons, hk, hq, hf, hup, hc, hw, decide_false, Bool.not_true, Bool.or_false, Bool.true_or,
    Bool.false_eq_true, if_false, if_true]
  rfl

/-- Where no firewall stands in its way, a token crosses as it is, or as the consumer's ERR. -/
theorem exec_tokenArrival_open (hw : L.walled L.plane pe.dx pe.dy s.focus.ch = false) :
    exec (.tokenArrival bad) s = .next (
      if bad || (k.kind = .cfg && !cfgOk q.kind k) then (crossed s L x y i rest (L.siteErr q cPipeCheck k.vec)).pipeAt L x y
      else crossed s L x y i rest k) := by
  obtain ⟨⟨hL, hpe⟩, hf, hcons, hq, -, -⟩ := h
  change execTokenArrival bad s = _
  cases hfail : bad || (k.kind = .cfg && !cfgOk q.kind k) <;>
    simp only [execTokenArrival, hL, hpe, hcons, hk, hq, hf, hup, hc, hw, hfail, decide_false, Bool.not_true, Bool.or_false,
      Bool.false_or, Bool.false_eq_true, if_false, if_true] <;>
    rfl

end

/-- A token of a channel that a seam without traffic cuts stays where it is. -/
theorem exec_tokenArrival_cut (bad : Bool) (h : Channel s L pe x y i q) (hup : s.channelUp L pe.dx pe.dy s.focus.ch = false) :
    exec (.tokenArrival bad) s = .next s := by
  obtain ⟨⟨hL, hpe⟩, -, hcons, hq, -, -⟩ := h
  change execTokenArrival bad s = _
  cases hk : (pe.outEnd s.focus.ch).q with
  | nil => simp [execTokenArrival, hL, hpe, hcons, hk]
  | cons k rest => simp [execTokenArrival, hL, hpe, hcons, hk, hq, hup]

/-- A package in which the credit of a freed slot has come back. -/
def creditReturned (s : State) (x y i : Nat) : State :=
  (s.modPE ⟨s.focus.site.lease, x, y⟩ (credited i)).modPE s.focus.site (withCredit s.focus.ch)

section
variable (h : Channel s L pe x y i q)
include h

theorem exec_creditReturn (hfreed : (q.inEnd i).freed ≠ 0) (hup : s.channelUp L s.focus.site.dx s.focus.site.dy s.focus.ch = true) :
    exec .creditReturn s = .next (creditReturned s x y i) := by
  obtain ⟨⟨hL, -⟩, hf, hcons, hq, -, -⟩ := h
  change execCreditReturn s = _
  simp only [execCreditReturn, hL, hcons, hq, hf, hup, hfreed, decide_false, Bool.not_true, Bool.or_false, Bool.false_eq_true, if_false]
  rfl

theorem producer_creditReturned : ((creditReturned s x y i).pe? s.focus.site).map (fun a => (a.outEnd s.focus.ch).credits) =
    some ((pe.outEnd s.focus.ch).credits + 1) := by
  obtain ⟨hfocus, -, -, -, -, hch⟩ := h
  have hkept : ((s.modPE ⟨s.focus.site.lease, x, y⟩ (credited i)).pe? s.focus.site).map (fun a => a.outEnd s.focus.ch) =
      some (pe.outEnd s.focus.ch) :=
    map_pe?_modPE (f := credited i) (fun _ => ⟨rfl, rfl⟩) (fun _ => rfl) _ (pe?_of_atFocus hfocus)
  obtain ⟨a, ha, hout⟩ := Option.map_eq_some_iff.mp hkept
  unfold creditReturned
  rw [pe?_modPE_site (f := withCredit s.focus.ch) (fun _ => ⟨rfl, rfl⟩) ha, Option.map_some, outEnd_withCredit hch, hout]

theorem consumer_creditReturned : ((creditReturned s x y i).pe? ⟨s.focus.site.lease, x, y⟩).map (fun b => b.inEnd i) =
    some { q.inEnd i with freed := (q.inEnd i).freed - 1 } := by
  have hcredited : (s.modPE ⟨s.focus.site.lease, x, y⟩ (credited i)).pe? ⟨s.focus.site.lease, x, y⟩ = some (credited i q) :=
    pe?_modPE_site (fun _ => ⟨rfl, rfl⟩) (consumer_of_channel h)
  obtain ⟨-, -, -, -, hi, -⟩ := h
  unfold creditReturned
  rw [map_pe?_modPE (f := withCredit s.focus.ch) (k := fun b => b.inEnd i) (fun _ => ⟨rfl, rfl⟩) (fun _ => rfl) _ hcredited,
    inEnd_credited hi]

end

end

/-! ### Handlers (R124 to R126, R131) -/

section
variable {s : State} {L : Lease} {pe : PE}

/-- What a PE selects is runnable. -/
theorem runnable_of_select {pr k : Nat} (h : L.select pe = some (pr, k)) : L.runnable pe k = true := by
  obtain ⟨pr', -, hfind⟩ := List.exists_of_findSome?_eq_some h
  obtain ⟨k', hk', heq⟩ := Option.map_eq_some_iff.mp hfind
  obtain ⟨-, rfl⟩ := Prod.mk.inj heq
  have hp := List.find?_some hk'
  simp only [Bool.and_eq_true] at hp
  obtain ⟨-, hrun⟩ := hp
  exact hrun

/-- A PE that has begun an instance of the entry it selected. -/
def selecting (pr k : Nat) (pe : PE) : PE := { pe with inst := some (Instance.start k false), rr := pe.rr.setIfInBounds pr k }

/-- An event that changes the PE in focus alone. -/
theorem leads_modPE {i : Instr} {α : Type} {k : PE → α} {f : PE → PE} (h : AtFocus s L pe)
    (hexec : exec i s = .next (s.modPE s.focus.site f)) (hf : ∀ p, (f p).dx = p.dx ∧ (f p).dy = p.dy) :
    Leads i s (fun t => (t.pe? s.focus.site).map k = some (k (f pe)) ∧ t = { s with leases := t.leases }) :=
  ⟨_, hexec, by rw [pe?_modPE_site hf (pe?_of_atFocus h)]; rfl, rfl⟩

theorem exec_handlerSelect {pr k : Nat} (h : AtFocus s L pe) (hi : pe.inst = none) (hr : s.leaseRuns L = true)
    (hs : L.select pe = some (pr, k)) : exec .handlerSelect s = .next (s.modPE s.focus.site (selecting pr k)) := by
  obtain ⟨hL, hpe⟩ := h
  change execHandlerSelect s = _
  simp only [execHandlerSelect, hL, hpe, hi, hr, hs, Option.isSome_none, Bool.not_true, Bool.or_false, Bool.false_eq_true, if_false]
  rfl

/-- A PE whose instance has ended. -/
def ended (i : Instance) (pe : PE) : PE :=
  { pe with inst := none, declined := if i.eoi || i.took then pe.declined else i.entry :: pe.declined }

/-- The traps of several ERRs of a lease outside a region. -/
theorem raiseErrs_outside_region {id : Nat} (hL : s.lease? id = some L) (hr : L.region = none) (hu : L.unwind = none)
    (ws : List Word) : ws.foldl (fun (s : State) w => s.raiseErr id w) s = { s with traps := s.traps ++ ws.map (Trap.ofErr L) } := by
  induction ws generalizing s with
  | nil => simp
  | cons w ws ih =>
    have hn : NotContained L w := ⟨hu, by simp [hr]⟩
    rw [List.foldl_cons, raiseErr_sent hL hn, ih (s := { s with traps := s.traps ++ [Trap.ofErr L w] }) hL]
    simp

theorem exec_handlerQuiescence {i : Instance} (h : AtFocus s L pe) (hi : pe.inst = some i) (hr : s.leaseRuns L = true)
    (hq : L.quiescent s.focus.site pe i = true) : exec .handlerQuiescence s = .next
      (((i.ops.filter (fun o => o.2.kind = .err)).map (fun o => o.2.low)).foldl (fun (s : State) w => s.raiseErr L.id w)
        (s.modPE s.focus.site (ended i))) := by
  obtain ⟨hL, hpe⟩ := h
  change execHandlerQuiescence s = _
  rw [List.foldl_map]
  simp only [execHandlerQuiescence, hL, hpe, hi, hr, hq, Bool.not_true, Bool.or_false, Bool.false_eq_true, if_false]
  rfl

theorem leads_handlerQuiescence {i : Instance} (h : AtFocus s L pe) (hi : pe.inst = some i) (hr : s.leaseRuns L = true)
    (hq : L.quiescent s.focus.site pe i = true) (hreg : L.region = none) (hu : L.unwind = none) :
    Leads .handlerQuiescence s (fun t => (t.pe? s.focus.site).map PE.inst = some none ∧
      t.traps = s.traps ++ (i.ops.filter (fun o => o.2.kind = .err)).map (fun o => Trap.ofErr L o.2.low) ∧
      t = { s with leases := t.leases, traps := t.traps }) := by
  have hexec := exec_handlerQuiescence h hi hr hq
  have hended : (s.modPE s.focus.site (ended i)).pe? s.focus.site = some (ended i pe) :=
    pe?_modPE_site (fun _ => ⟨rfl, rfl⟩) (pe?_of_atFocus h)
  obtain ⟨hL, -⟩ := h
  have hM : (s.modPE s.focus.site (ended i)).lease? L.id = some (L.modPE s.focus.site.dx s.focus.site.dy (ended i)) := by
    rw [id_of_lease? hL]
    exact (lease?_modLease s _ (fun L => L.modPE s.focus.site.dx s.focus.site.dy (ended i)) (fun _ => rfl)).trans (congrArg _ hL)
  rw [raiseErrs_outside_region hM hreg hu, List.map_map] at hexec
  exact ⟨_, hexec, (congrArg (Option.map PE.inst) hended :), rfl, rfl⟩

end

/-! ### EOI processing (R130) -/

section
variable {s : State} {L : Lease} {pe : PE}

/-- A PE whose EOI handler runs. -/
def eoiRunning (k : Nat) (pe : PE) : PE := { pe with inst := some (Instance.start k true), eoiRan := true }

section
variable {ns : List Nat} (h : AtFocus s L pe) (hi : pe.inst = none) (hr : s.leaseRuns L = true)
include h hi hr

theorem exec_eoiProcessing_handler {k : Nat} (hns : L.eoiHeads pe = some ns) (hran : pe.eoiRan = false)
    (hk : pe.eoiEntry L.plane = some k) : exec .eoiProcessing s = .next (s.modPE s.focus.site (eoiRunning k)) := by
  obtain ⟨hL, hpe⟩ := h
  change execEoiProcessing s = _
  simp only [execEoiProcessing, hL, hpe, hns, hi, hr, hran, hk, Option.isSome_none, Bool.not_true, Bool.or_false, Bool.false_eq_true,
    if_false]
  rfl

theorem exec_eoiProcessing_markers {n : Nat} (hns : L.eoiHeads pe = some (n :: ns)) (hsame : ∀ m ∈ ns, m = n)
    (hran : pe.eoiRan = true ∨ pe.eoiEntry L.plane = none) (hfree : s.outsFree L 1 (L.markOuts s.focus.site pe) = true) :
    exec .eoiProcessing s = .next ((((((s.modPE s.focus.site (fun pe => (L.markIns pe).foldl (fun (q : PE) i =>
      q.popIn L.plane i) pe)).pushAll L (eoiTok n) (L.markOuts s.focus.site pe)).modPE s.focus.site (fun pe => { pe with
      inv := pe.inv + 1, eoiRan := false })).modLease L.id (fun M => { M with
      inv := (minN? ((M.pes.filter M.runsEoi).map PE.inv)).getD M.inv })).endInvocations s L.id).progress L.id) := by
  obtain ⟨hL, hpe⟩ := h
  have hagree : (n :: ns).any (fun m => m ≠ (n :: ns).headD pe.inv) = false := by simpa using hsame
  change execEoiProcessing s = _
  cases hrun : pe.eoiRan with
  | true =>
    simp only [execEoiProcessing, hL, hpe, hns, hi, hr, hrun, hagree, hfree, Option.isSome_none, Bool.not_true, Bool.or_false,
      Bool.false_and, Bool.false_eq_true, if_false]
    rfl
  | false =>
    have hnone : pe.eoiEntry L.plane = none := by simpa [hrun] using hran
    simp only [execEoiProcessing, hL, hpe, hns, hi, hr, hrun, hnone, hagree, hfree, Option.isSome_none, Bool.not_true, Bool.or_false,
      Bool.false_and, Bool.false_eq_true, if_false]
    rfl

end

end

/-! ### Unit operations (R147) -/

section
variable {s : State} {L : Lease} {pe : PE} {k : Token}

theorem atFocus_of_unitOp? {op : Nat} (h : s.unitOp? op = some (L, pe, k)) : AtFocus s L pe := by
  unfold State.unitOp? at h
  dsimp only at h
  split at h
  · cases h
  case h_2 M hM =>
    split at h
    · cases h
    case h_2 p hp =>
      split at h
      · split at h
        · cases h
          exact ⟨hM, hp⟩
        · cases h
      · cases h

/-- A PE that has taken a decay factor from an input. -/
def withDecay (plane ch : Nat) (g : BitVec 32) (pe : PE) : PE :=
  { pe.popIn plane ch with cu := { (pe.popIn plane ch).cu with decayg := g } }

theorem exec_gamma (h : s.unitOp? 3 = some (L, pe, k)) (hbusy : ∀ n, n < 4 → (pe.cu.tile n).busy = false) : exec .gamma s =
    .next ((s.modPE s.focus.site (withDecay L.plane s.focus.ch (k.low.setWidth 32))).progress L.id) := by
  have hidle : (List.range 4).any (fun n => (pe.cu.tile n).busy) = false := by
    simpa using hbusy
  change execGamma s = _
  simp only [execGamma, h, hidle, Bool.false_eq_true, if_false]
  rfl

theorem exec_wsrewrite (h : s.unitOp? 2 = some (L, pe, k)) (hreads : pe.cu.reads (k.low.toNat.testBit 52) = false) :
    exec .wsrewrite s = .next ((s.modPE s.focus.site (fun pe => { pe.popIn L.plane s.focus.ch with
      cu := (pe.popIn L.plane s.focus.ch).cu.modBuf (k.low.toNat.testBit 52) (fun w => w.putScales (bitsOf k.low.toNat 40 7)
        ((List.range (bitsOf k.low.toNat 48 2 + 1)).map (fun n => bitsOf k.low.toNat (8 * n) 8))) })).progress L.id) := by
  change execWsrewrite s = _
  simp only [execWsrewrite, h, hreads, Bool.false_eq_true, if_false]

end

/-! ### The stall watchdog (R140) -/

theorem errCause_errWord (cause dx dy plane slot inv : Nat) (mem : Bool) :
    errCause (errWord cause dx dy plane slot inv mem) = cause % 64 := by
  have hmem : b2n mem ≤ 1 := by cases mem <;> decide
  simp only [errCause, errWord, bitsOf, BitVec.toNat_ofNat, Nat.shiftRight_eq_div_pow]
  omega

/-- A lease whose stall has been reported. -/
def reported (L : Lease) : Lease := { L with stall := 0, stalled := true }

section
variable {s : State} {L : Lease}

/-- What the watchdog raises: the stall of the lease, at some site of it. -/
theorem exec_stallWatchdog (hL : s.lease? s.focus.site.lease = some L) (hlong : 16777216 ≤ L.stall) (hs : L.stalled = false) :
    ∃ dx dy inv, exec .stallWatchdog s = .next ((s.modLease L.id reported).raise
      (Trap.ofErr L (errWord cStallWatchdog dx dy L.plane 127 inv false))) := by
  have hgo : (decide (L.stall < 2 ^ 24) || L.stalled) = false := by simp [hlong, hs]
  change ∃ dx dy inv, execStallWatchdog s = _
  unfold execStallWatchdog
  simp only [hL, hgo, Bool.false_eq_true, if_false]
  split
  case h_1 p _ => exact ⟨p.dx, p.dy, p.inv, rfl⟩
  case h_2 => exact ⟨0, 0, L.inv, rfl⟩

theorem leads_stallWatchdog (hL : s.lease? s.focus.site.lease = some L) (hlong : 16777216 ≤ L.stall) (hs : L.stalled = false)
    (hr : L.region = none) (hu : L.unwind = none) : Leads .stallWatchdog s (fun t =>
      (∃ x, t.traps = s.traps ++ [x] ∧ x.lease = some L.id ∧ x.tid = L.tid ∧ errCause x.err = 26) ∧
      (t.lease? L.id).map Lease.stalled = some true ∧ (t.lease? L.id).map Lease.stall = some 0 ∧
      t = { s with leases := t.leases, traps := t.traps }) := by
  obtain ⟨dx, dy, inv, hexec⟩ := exec_stallWatchdog hL hlong hs
  have hM : (s.modLease L.id reported).lease? L.id = some (reported L) := by
    rw [id_of_lease? hL]
    exact (lease?_modLease s _ reported (fun _ => rfl)).trans (congrArg _ hL)
  rw [raise_outside_region (x := Trap.ofErr L (errWord cStallWatchdog dx dy L.plane 127 inv false)) rfl hM hr hu] at hexec
  exact ⟨_, hexec, ⟨_, rfl, rfl, rfl, errCause_errWord _ _ _ _ _ _ _⟩, (congrArg (Option.map Lease.stalled) hM :),
    (congrArg (Option.map Lease.stall) hM :), rfl⟩

end

/-! ### The statement -/

/-- Settles O54: each event is one branch of its meaning, and both ends of the channel, the PE in focus and the traps are read off the
package that it leaves. -/
theorem theFabricMovesTokensAndRunsHandlers : Obligations.TheFabricMovesTokensAndRunsHandlers := by
  unfold Obligations.TheFabricMovesTokensAndRunsHandlers
  refine ⟨?crosses, ?parity, ?walled, ?cut, ?credit, ?selects, ?quiescence, ?handler, ?markers, ?gamma, ?rewrite, ?stall⟩
  case crosses =>
    intro s L pe x y i q k rest h hk hc hup hw hok
    have hexec := exec_tokenArrival_open false h hk hc hup hw
    rw [if_neg (by simpa [or_iff_not_imp_left] using hok)] at hexec
    exact ⟨_, hexec, producer_crossed h rest k, consumer_crossed h rest k, rfl⟩
  case parity =>
    intro s L pe x y i q k rest h hk hc hup hw
    exact ⟨_, exec_tokenArrival_open true h hk hc hup hw, consumer_crossed h rest _, rfl⟩
  case walled =>
    intro s L pe x y i q k rest bad h hk hc hup hw
    exact ⟨_, exec_tokenArrival_walled bad h hk hc hup hw, consumer_crossed h rest _, rfl⟩
  case cut => exact fun s L pe x y i q bad h hup => exec_tokenArrival_cut bad h hup
  case credit =>
    exact fun s L pe x y i q h hfreed hup =>
      ⟨_, exec_creditReturn h hfreed hup, producer_creditReturned h, consumer_creditReturned h, rfl⟩
  case selects =>
    exact fun s L pe pr k h hi hr hs => ⟨runnable_of_select hs, leads_modPE h (exec_handlerSelect h hi hr hs) (fun _ => ⟨rfl, rfl⟩)⟩
  case quiescence => exact fun s L pe i h hi hr hq hreg hu => leads_handlerQuiescence h hi hr hq hreg hu
  case handler =>
    intro s L pe ns k h hns hi hr hran hk
    have hpe := pe?_modPE_site (f := eoiRunning k) (fun _ => ⟨rfl, rfl⟩) (pe?_of_atFocus h)
    exact ⟨_, exec_eoiProcessing_handler h hi hr hns hran hk, congrArg (Option.map PE.inst) hpe,
      congrArg (Option.map PE.eoiRan) hpe, rfl⟩
  case markers => exact fun s L pe n ns h hns hsame hi hr hran hfree => exec_eoiProcessing_markers h hi hr hns hsame hran hfree
  case gamma =>
    intro s L pe k h hbusy
    have hpe := pe?_modPE_site (f := withDecay L.plane s.focus.ch (k.low.setWidth 32)) (fun _ => ⟨rfl, rfl⟩)
      (pe?_of_atFocus (atFocus_of_unitOp? h))
    exact ⟨_, exec_gamma h hbusy, by rw [pe?_progress, hpe]; rfl, rfl⟩
  case rewrite =>
    intro s L pe k d h hd hreads
    subst hd
    exact exec_wsrewrite h hreads
  case stall => exact fun s L hL hlong hs hr hu => leads_stallWatchdog hL hlong hs hr hu

end Sys2Proof.Proofs.Fabric
end

section
/-! A store that issues while a load of its line is on its way from the same port (R152, R183): the port's queue does not stay as it was
but for the new entry, since what that load read is then not installed in the remote read cache. -/

namespace Sys2Proof.Proofs.Issuing

open Sys2Proof Sys2Proof.Machine Sys2Proof.Claims

/-- A request of the line at VA 0, of a port that has no tenant. -/
def lineRequest (id : Nat) (op : ReqOp) : Req :=
  (Port.fresh 1 (.engine 0 .copy 0) 0 0 0 0 0 0 false).request id 0 0 op 0 64 0 true 0 .none

/-- A port from which a load of the line has left. -/
def loadingPort : Port := { Port.fresh 1 (.engine 0 .copy 0) 0 0 0 0 0 0 false with queue := [lineRequest 1 (.load false)] }

/-- A package with that one port. -/
def loading : State := { State.reset with ports := [loadingPort] }

/-- The store marks the load before it: what it reads is not to be installed (R183). -/
theorem noFill_issue_store : ((loading.issue 1 (lineRequest 2 .store)).port? 1).map (fun p => p.queue.map Req.noFill) =
    some [true, false] := rfl

/-- Refutes O31: its first clause has the port as before but for the new entry, its token and `issued`. A store that issues while a load of
its line is on its way also marks that load, so that the copy it brings is not installed (R183). -/
theorem not_issuedRequestsQueueAtTheirPort : ¬ Obligations.IssuedRequestsQueueAtTheirPort := by
  unfold Obligations.IssuedRequestsQueueAtTheirPort
  rintro ⟨hqueued, -⟩
  have hport := hqueued loading 1 loadingPort (lineRequest 2 .store) rfl rfl
  have hmarks := noFill_issue_store
  rw [hport] at hmarks
  exact absurd hmarks (by decide)

end Sys2Proof.Proofs.Issuing
end

section
/-! What a firing that answers leaves (R126, R272, R273): an ERR that neither target drops is sent as any token is, so an instruction whose
body changes its own PE and replies, fails or stays in flight has done the deed of the statements. -/

namespace Sys2Proof.Proofs.Firing

open Sys2Proof Sys2Proof.Machine Sys2Proof.Safety Sys2Proof.Claims Sys2Proof.Proofs.Replies

/-! ### Replies (R272, R273) -/

/-- A token sent to both targets of an instruction changes its PE alone, an ERR too where it is not dropped. -/
theorem emit_both {h : Head} {t : Token} (ht : t.kind = .err → Lands h) (s : State) (site : SiteRef) (plane : Nat) :
    s.emit site plane (both h t) = s.modPE site (fun pe => PE.putAll pe plane (both h t)) := by
  by_cases he : t.kind = .err
  · obtain ⟨h0, h1, hnone⟩ := ht he
    have hsends : (both h t).foldl (fun (s : State) p => s.sendOne site plane p.1 p.2) s =
        s.modPE site (fun pe => PE.putAll pe plane (both h t)) := by
      simp only [both, List.foldl_cons, List.foldl_nil, State.sendOne, h0, h1, if_false]
      exact modPE_modPE _ _ _ _ (fun p => put_place p plane h.t0 t)
    have herrs : (both h t).filter (fun p => decide (p.2.kind = .err)) = both h t := by simp [both, he]
    have hkept : ¬ (both h t).all (fun p => decide (p.1 = tNone)) = true := by simpa [both, imp_iff_not_or] using hnone
    unfold State.emit
    rw [hsends, herrs]
    exact if_neg hkept
  · exact emit_data s site plane (both h t) (by simp [both, he])

section
variable {s s0 : State} {c : Site} {u : Uses} {g : PE → PE} {l : List (BitVec 9 × Token)}

/-- Taking, changing registers and putting tokens is the deed that sends them. -/
theorem ran_puts (hs : s.site? = some c) (hb : s0.leases = s.leases) (hg : RegChange c.lease.plane g) :
    Ran ⟨u, l, g, fun L => L, [], s0⟩ s c
      (((c.consume u s0).modPE c.site g).modPE c.site (fun pe => PE.putAll pe c.lease.plane l)) := by
  have h : ((c.consume u s0).modPE c.site g).modPE c.site (fun pe => PE.putAll pe c.lease.plane l) =
      s0.modLease c.site.lease (Deed.onLease ⟨u, l, g, fun L => L, [], s0⟩ c) := by
    rw [modPE_modPE _ _ _ _ hg.place, consume_eq]
    unfold State.modPE
    rw [modLease_modLease]
    · congr 1
      funext L
      exact stall_modPE L c.site.dx c.site.dy (fun p => { p with inst := p.inst.map (fun i => i.taken u c.slot []) })
        (fun p => PE.putAll (g p) c.lease.plane l) (fun _ => ⟨rfl, rfl⟩)
    · exact fun _ => rfl
  rw [h]
  exact ran_modLease (d := ⟨u, l, g, fun L => L, [], s0⟩) hs hb hg (fun _ => rfl)

/-- Of the change of a PE, a deed says no more than what it makes of the PE that fires. -/
theorem ran_congr_pe {g' : PE → PE} {fl : List Flight} {t : State} (h : Ran ⟨u, l, g, fun L => L, fl, s0⟩ s c t) (hg : g c.pe = g' c.pe) :
    Ran ⟨u, l, g', fun L => L, fl, s0⟩ s c t := by
  simpa only [Ran, PEAfter, hg] using h

end

/-! ### Registers of the units -/

theorem regChange_cu (plane : Nat) (f : Cu → Cu) : RegChange plane (fun p => { p with cu := f p.cu }) :=
  ⟨fun _ => ⟨rfl, rfl⟩, fun _ _ => rfl, fun _ => rfl, fun _ => rfl⟩

theorem regChange_mu (plane : Nat) (f : Mu → Mu) : RegChange plane (fun p => { p with mu := f p.mu }) :=
  ⟨fun _ => ⟨rfl, rfl⟩, fun _ _ => rfl, fun _ => rfl, fun _ => rfl⟩

/-- The PE of a slot that has taken its operands. -/
theorem pe?_consume {s : State} {c : Site} (hs : s.site? = some c) (u : Uses) :
    (c.consume u s).pe? c.site = some { c.pe with inst := c.pe.inst.map (fun i => i.taken u c.slot []) } := by
  obtain ⟨-, -, hL, hpe, -, -⟩ := site?_some hs
  have hfound : s.pe? c.site = some c.pe := by
    unfold State.pe?
    rw [hL]
    exact hpe
  unfold Site.consume
  rw [pe?_progress]
  exact pe?_modPE_site (fun _ => ⟨rfl, rfl⟩) hfound

/-! ### Instructions that answer, or stay in flight (R126, R272) -/

section
variable {i : Instr} {s s0 : State} {c : Site} {g : PE → PE} {ready : Site → Bool} {onErr : Site → Token → State → State}
  {body : Site → State → State} (h : Fires i s c) (hexec : exec i s = fire i ready onErr body s) (hr : ready c = true)
include h hexec hr

/-- An instruction that fires and replies, with a change of its own PE over a package `s0` of the same leases. -/
theorem completes_reply {t : Token} (hb : s0.leases = s.leases) (hg : RegChange c.lease.plane g) (ht : t.kind = .err → Lands i.head)
    (hbody : body c (c.consume (c.taken i.uses) s) = c.reply i.head t ((c.consume (c.taken i.uses) s0).modPE c.site g)) :
    Completes i s c { Deed.sending s0 c i (both i.head t) with pe := g } := by
  refine ⟨_, hexec.trans (fireUsing_acts h hr), ?_⟩
  have hsent : c.reply i.head t ((c.consume (c.taken i.uses) s0).modPE c.site g) = _ := emit_both ht _ c.site c.lease.plane
  rw [hbody, hsent]
  exact ran_puts h.site hb hg

/-- An instruction that fires and only replies. -/
theorem gives {t : Token} (ht : t.kind = .err → Lands i.head)
    (hbody : body c (c.consume (c.taken i.uses) s) = c.reply i.head t (c.consume (c.taken i.uses) s)) : Gives i s c t := by
  refine completes_reply (s0 := s) (g := fun p => p) h hexec hr rfl (RegChange.none _) ht ?_
  rw [hbody, modPE_id]

/-- An instruction that fires and fails with a cause. -/
theorem gives_err {cause : Nat} (hl : Lands i.head)
    (hbody : body c (c.consume (c.taken i.uses) s) = c.fail i.head cause (c.consume (c.taken i.uses) s)) :
    Gives i s c (c.ownErr cause) :=
  gives h hexec hr (fun _ => hl) hbody

/-- An instruction that fires and stays in flight, with a change of its own PE. -/
theorem fliesAnd {op : FlightOp} (hg : RegChange c.lease.plane g)
    (hbody : body c (c.consume (c.taken i.uses) s) = c.fly op ((c.consume (c.taken i.uses) s).modPE c.site g)) :
    FliesAnd i s c op g := by
  refine ⟨_, hexec.trans (fireUsing_acts h hr), ?_⟩
  rw [hbody]
  exact ran_flies op h.site rfl hg

end

end Sys2Proof.Proofs.Firing
end

section
/-! Tiles and their ownership (R142, R327, R328): a tile instruction that its plane may issue claims the tile, changes it and answers, or
stays in flight for its half rows. -/

namespace Sys2Proof.Proofs.Tiles

open Sys2Proof Sys2Proof.Machine Sys2Proof.Safety Sys2Proof.Claims Sys2Proof.Proofs.Replies Sys2Proof.Proofs.Firing

/-! ### One tile of a CU (R142) -/

theorem tile_lt (f : FmtX) : FmtX.tile f < 4 := Nat.mod_lt _ (by decide)

theorem tile_modTile {k : Nat} (hk : k < 4) (u : Cu) (g : Tile → Tile) : (u.modTile k g).tile k = g (u.tile k) := by
  simp [Cu.modTile, Cu.tile, hk]

theorem modTile_modTile {k : Nat} (hk : k < 4) (u : Cu) (g g' : Tile → Tile) :
    (u.modTile k g).modTile k g' = u.modTile k (fun t => g' (g t)) := by
  simp [Cu.modTile, Cu.tile, hk]

theorem setField_mod {w : Nat} (x : BitVec w) (lo len v : Nat) : setField x lo len (v % 2 ^ len) = setField x lo len v := by
  simp [setField]

theorem setOwner_mod (t : Tile) (plane : Nat) :
    t.setOwner (plane % 4) = { t with stat := setField (setField t.stat 5 2 plane) 7 1 1 } := by
  unfold Tile.setOwner
  rw [show plane % 4 = plane % 2 ^ 2 from rfl, setField_mod]

/-- The PE with the tile that IDX0 names changed. -/
def withTile (f : FmtX) (g : Tile → Tile) (p : PE) : PE := { p with cu := p.cu.modTile (FmtX.tile f) g }

theorem regChange_withTile (plane : Nat) (f : FmtX) (g : Tile → Tile) : RegChange plane (withTile f g) :=
  regChange_cu plane (fun u => u.modTile (FmtX.tile f) g)

/-! ### Changes of the tile that a word names (R327, R328) -/

section
variable {s : State} {c : Site} {f : FmtX} {g : Tile → Tile}

/-- The ATSTAT that a tile instruction sends is that of the tile it leaves. -/
theorem sendStat_eq (hs : s.site? = some c) (u : Uses) (h : Head) :
    c.sendStat h (FmtX.tile f) ((c.consume u s).modPE c.site (withTile f g)) =
      c.reply h (g (c.pe.cu.tile (FmtX.tile f))).statTok ((c.consume u s).modPE c.site (withTile f g)) := by
  unfold Site.sendStat
  rw [pe?_modPE_site (regChange_withTile c.lease.plane f g).place (pe?_consume hs u)]
  exact congrArg (fun t : Tile => c.reply h t.statTok _) (tile_modTile (tile_lt f) _ g)

/-- A change of a tile that has been changed is one change of it. -/
theorem withTile_withTile (s : State) (site : SiteRef) (g g' : Tile → Tile) :
    (s.modPE site (withTile f g)).modPE site (withTile f g') = s.modPE site (withTile f (fun t => g' (g t))) := by
  rw [modPE_modPE _ _ _ _ (regChange_withTile 0 f g).place]
  exact congrArg (s.modPE site) (funext fun p => congrArg (fun u : Cu => { p with cu := u }) (modTile_modTile (tile_lt f) p.cu g g'))

end

section
variable {i : Instr} {s : State} {c : Site} {f : FmtX} {g : Tile → Tile} {t : Token} {ready : Site → Bool}
  {onErr : Site → Token → State → State} {body : Site → State → State}

/-- An instruction that changes its tile and answers. -/
theorem givesAnd_tile (h : Fires i s c) (hexec : exec i s = fire i ready onErr body s) (hr : ready c = true) (ht : t.kind ≠ .err)
    (hbody : body c (c.consume (c.taken i.uses) s) = c.reply i.head t ((c.consume (c.taken i.uses) s).modPE c.site (withTile f g))) :
    GivesAnd i s c t (setTile f (g (c.pe.cu.tile (FmtX.tile f)))) := by
  obtain ⟨u, hu, hran⟩ :=
    completes_reply (s0 := s) h hexec hr rfl (regChange_withTile _ f g) (fun he => absurd he ht) hbody
  exact ⟨u, hu, ran_congr_pe hran rfl⟩

variable {okArg : Site → Bool} (h : Fires i s c) (hexec : exec i s = tileOp i f okArg body s)

/-- What a tile instruction does whose plane may touch the tile. -/
theorem tileOp_body (hopen : TileOpen c f) (hok : okArg c = true) (u : State) :
    (if !okArg c || !(c.pe.cu.tile (FmtX.tile f)).admits c.lease.plane then c.fail i.head cFormatTag u
      else body c (u.modCu c.site (fun u => u.modTile (FmtX.tile f) (fun t => t.claim c.lease.plane)))) =
    body c (u.modPE c.site (withTile f (fun t => t.claim c.lease.plane))) := by
  obtain ⟨-, hadmits⟩ := hopen
  simp only [hok, hadmits, Bool.not_true, Bool.or_self, Bool.false_eq_true, if_false]
  rfl

include h hexec

/-- A tile instruction that changes the tile it has claimed and answers. -/
theorem tileOp_gives (hopen : TileOpen c f) (hok : okArg c = true) (ht : t.kind ≠ .err) (hbody : ∀ u : State,
      body c u = c.reply i.head t (u.modPE c.site (withTile f g))) :
    GivesAnd i s c t (setTile f (g (claimed c f))) := by
  refine givesAnd_tile (g := fun t => g (t.claim c.lease.plane)) h hexec hopen.1 ht ?_
  rw [← withTile_withTile, ← hbody]
  exact tileOp_body hopen hok _

/-- A tile instruction that changes the tile it has claimed and sends its ATSTAT. -/
theorem tileOp_stat (hopen : TileOpen c f) (hok : okArg c = true) (hbody : ∀ u : State, body c u = c.tileThenStat f g u)
    (hhead : i.head = f.h) : GivesAnd i s c (g (claimed c f)).statTok (setTile f (g (claimed c f))) := by
  refine givesAnd_tile (g := fun t => g (t.claim c.lease.plane)) h hexec hopen.1 (by simp [Tile.statTok, intTok, Token.scalar]) ?_
  refine (tileOp_body hopen hok _).trans ((hbody _).trans ?_)
  have hstat := sendStat_eq (f := f) (g := fun t => g (t.claim c.lease.plane)) h.site (c.taken i.uses) i.head
  rw [← withTile_withTile] at hstat ⊢
  rw [hhead] at hstat ⊢
  exact hstat

/-- A tile instruction that claims its tile and stays in flight. -/
theorem tileOp_flies {op : FlightOp} (hopen : TileOpen c f) (hok : okArg c = true) (hbody : ∀ u : State, body c u = c.fly op u) :
    FliesAnd i s c op (setTile f (claimed c f)) := by
  have hbody := (tileOp_body (i := i) (body := body) hopen hok (c.consume (c.taken i.uses) s)).trans (hbody _)
  obtain ⟨u, hu, hran⟩ := fliesAnd h hexec hopen.1 (regChange_withTile _ f _) hbody
  exact ⟨u, hu, ran_congr_pe hran rfl⟩

/-- A tile instruction whose plane may not touch the tile. -/
theorem tileOp_refused (hfree : c.tileFree (FmtX.tile f) = true) (hno : (c.pe.cu.tile (FmtX.tile f)).admits c.lease.plane = false)
    (hl : Lands i.head) : Gives i s c (c.ownErr cFormatTag) := by
  refine gives_err h hexec hfree hl ?_
  simp only [hno, Bool.not_false, Bool.or_true, if_true]

end

/-! ### The statement -/

/-- Settles O28: each instruction is one change of the tile it has claimed, or of the one it names, with the answer that this tile gives. -/
theorem tilesAreReadWrittenAndOwned : Obligations.TilesAreReadWrittenAndOwned := by
  unfold Obligations.TilesAreReadWrittenAndOwned
  refine ⟨?zero, ?load, ?drain, ?spill, ?fill, ?own, ?notOwned, ?refused⟩
  case zero =>
    intro f s c h hopen
    exact tileOp_stat (g := fun t => { t with halves := Vector.replicate 64 0, stat := setField t.stat 0 5 10 }) h
      (rfl : _ = execAzero f s) hopen rfl (fun _ => rfl) rfl
  case load =>
    intro f s c x h hopen hl hx
    refine tileOp_stat (g := fun t => t.setHalf (halfOf f) x.data) h (rfl : _ = execAload f s) hopen ?_ (fun u => ?_) rfl
    · simp [vecArg, hl, hx]
    · simp only [hl, Option.map_some, Option.getD_some]
      rfl
  case drain =>
    intro f s c h hopen
    have hgives := tileOp_gives (g := fun t => if f.mode.toNat.testBit 1 then t.setHalf (halfOf f) 0 else t) h
      (rfl : _ = execAdrain f s) hopen rfl (by simp [Token.vector]) (fun _ => rfl)
    exact hgives
  case spill => exact fun f s c h hopen => tileOp_flies h rfl hopen rfl (fun _ => rfl)
  case fill => exact fun f s c h hopen => tileOp_flies h rfl hopen rfl (fun _ => rfl)
  case own =>
    intro f s c h hadmits
    have hown : ∀ t : Tile, (if f.mode.toNat.testBit 0 then { t with stat := setField t.stat 7 1 0 } else t.setOwner (f.idx1.toNat % 4)) =
        (if f.mode.toNat.testBit 0 then { t with stat := setField t.stat 7 1 0 }
          else { t with stat := setField (setField t.stat 5 2 f.idx1.toNat) 7 1 1 }) := by
      intro t
      rw [setOwner_mod]
    dsimp only
    rw [← hown]
    refine givesAnd_tile (g := fun t =>
      if f.mode.toNat.testBit 0 then { t with stat := setField t.stat 7 1 0 } else t.setOwner (f.idx1.toNat % 4))
      h (rfl : _ = execAown f s) rfl (by simp [intTok, Token.scalar]) ?_
    simp only [hadmits, Bool.not_true, Bool.false_eq_true, if_false]
    exact sendStat_eq h.site _ f.h
  case notOwned =>
    intro f s c h hno hl
    refine gives_err h (rfl : _ = execAown f s) rfl hl ?_
    simp only [hno, Bool.not_false, if_true]
    rfl
  case refused => exact fun f s c h hfree hno hl => tileOp_refused h rfl hfree hno hl

end Sys2Proof.Proofs.Tiles
end

section
/-! The frame of memory (R152, R335): each operation that an instruction's firing is made of leaves every byte of memory as it is, and so
does the firing. -/

namespace Sys2Proof.Proofs.MemoryFrame

open Sys2Proof Sys2Proof.Machine Sys2Proof.Safety Sys2Proof.Claims Sys2Proof.Proofs.Homes Sys2Proof.Proofs.Teams

/-! ### Sending and raising (R131, R230, R273) -/

section
variable (s : State) (c : Site)

theorem mem_ite {p : Prop} [Decidable p] {s t u : State} (ht : t.mem = s.mem) (hu : u.mem = s.mem) :
    (if p then t else u).mem = s.mem := by
  split
  · exact ht
  · exact hu

/-- A run of changes, each of which leaves memory as it is. -/
theorem mem_foldl {α : Type} {f : State → α → State} (hf : ∀ s a, (f s a).mem = s.mem) (l : List α) (s : State) :
    (l.foldl f s).mem = s.mem := by
  induction l generalizing s with
  | nil => rfl
  | cons a l ih => exact (ih (f s a)).trans (hf s a)

@[simp] theorem mem_raise (x : Trap) : (s.raise x).mem = s.mem := (keeps_raise x).2.1

@[simp] theorem mem_raiseErr (lease : Nat) (w : Word) : (s.raiseErr lease w).mem = s.mem := by
  unfold State.raiseErr
  split
  · exact mem_raise s _
  · rfl

@[simp] theorem mem_trapOf (e : Token) : (c.trapOf e s).mem = s.mem := mem_raiseErr s _ _

@[simp] theorem mem_raiseErrs (ts : List Token) : (c.raiseErrs ts s).mem = s.mem :=
  mem_foldl (fun s (t : Token) => mem_raiseErr s c.site.lease t.low) _ s

theorem mem_sendOne (site : SiteRef) (plane : Nat) (t : BitVec 9) (tok : Token) : (s.sendOne site plane t tok).mem = s.mem := by
  unfold State.sendOne
  split
  · split
    · exact mem_raiseErr s _ _
    · rfl
  · rfl

@[simp] theorem mem_emit (site : SiteRef) (plane : Nat) (l : List (BitVec 9 × Token)) : (s.emit site plane l).mem = s.mem := by
  have hsent := mem_foldl (fun s (p : BitVec 9 × Token) => mem_sendOne s site plane p.1 p.2) l s
  unfold State.emit
  dsimp only
  split
  · exact hsent
  · split
    · exact (mem_raiseErr _ _ _).trans hsent
    · exact hsent

@[simp] theorem mem_reply (h : Head) (t : Token) : (c.reply h t s).mem = s.mem := mem_emit s _ _ _
@[simp] theorem mem_fail (h : Head) (cause : Nat) : (c.fail h cause s).mem = s.mem := mem_emit s _ _ _
@[simp] theorem mem_steer (h : Head) (first : Bool) (t : Token) : (c.steer h first t s).mem = s.mem := mem_emit s _ _ _
@[simp] theorem mem_passErr (h : Head) (e : Token) : (c.passErr h e s).mem = s.mem := mem_emit s _ _ _
@[simp] theorem mem_consume (u : Uses) : (c.consume u s).mem = s.mem := rfl
@[simp] theorem mem_fly (op : FlightOp) : (c.fly op s).mem = s.mem := rfl
@[simp] theorem mem_control (m : CtrlMsg) : (c.control m s).mem = s.mem := rfl
@[simp] theorem mem_pushTo (ch : Nat) (t : Token) : (c.pushTo ch t s).mem = s.mem := rfl

@[simp] theorem mem_perform (h : Head) (e : Effect) : (c.perform h e s).mem = s.mem := mem_emit _ _ _ _

@[simp] theorem mem_pipeAt (L : Lease) (dx dy : Nat) : (s.pipeAt L dx dy).mem = s.mem := by
  unfold State.pipeAt State.sitePipe State.retire
  dsimp only
  split
  · split <;> rfl
  · rfl

/-! ### Ports and parties (R152, R179, R180, R183) -/

@[simp] theorem mem_count (tid die ev n : Nat) : (s.count tid die ev n).mem = s.mem := by
  unfold State.count
  split <;> rfl

@[simp] theorem mem_issue (port : Nat) (r : Req) : (s.issue port r).mem = s.mem := by
  unfold State.issue
  split
  · rfl
  · have hleft (p : Port) : (if r.op.writes then s.writeIssues p r.va else s).mem = s.mem := by split <;> rfl
    dsimp only
    split
    · exact hleft _
    · exact (mem_count _ _ _ _ _).trans (hleft _)

@[simp] theorem mem_endSfr (party : Nat) : (s.endSfr party).mem = s.mem := by
  unfold State.endSfr State.endParty State.beginParty
  simp only [setParty_eq]
  split <;> rfl

@[simp] theorem mem_fenceCount (port party : Nat) (wide up : Bool) : (s.fenceCount port party wide up).mem = s.mem := rfl
@[simp] theorem mem_acquire (party : Nat) (scope : BitVec 3) : (s.acquire party scope).mem = s.mem := rfl
@[simp] theorem mem_unpin (port k : Nat) : (s.unpin port k).mem = s.mem := rfl
@[simp] theorem mem_modFs (port k : Nat) (f : FetchSlot → FetchSlot) : (s.modFs port k f).mem = s.mem := rfl

@[simp] theorem mem_send (ty : BitVec 5) (pl : Plan) (dest : Dest) : (c.send ty pl dest s).mem = s.mem := by
  unfold Site.send
  split
  · rfl
  · dsimp only
    split
    · exact (mem_endSfr _ _).trans (mem_issue _ _ _)
    · exact mem_issue _ _ _

@[simp] theorem mem_sendRead (f : FmtM) (pl : Plan) : (c.sendRead f pl s).mem = s.mem := mem_send _ _ _ _ _

@[simp] theorem mem_sendWrite (f : FmtM) (pl : Plan) : (c.sendWrite f pl s).mem = s.mem := by
  unfold Site.sendWrite
  split <;> exact mem_send _ _ _ _ _

@[simp] theorem mem_cbSync : (c.cbSync s).mem = s.mem := by
  unfold Site.cbSync
  split
  · exact mem_endSfr s _
  · rfl

@[simp] theorem mem_sfrEnded : (sfrEnded s c).mem = s.mem := mem_cbSync s c

@[simp] theorem mem_syncOp (f : FmtM) (op : SyncOp) (rel ends : Bool) : (c.syncOp f op rel ends s).mem = s.mem := by
  rw [syncOp_eq]
  unfold fenced queued
  cases s.portOf? c.site c.pe.kind <;> cases ends <;> cases op.acquires <;> simp

@[simp] theorem mem_degrade (lease inv : Nat) (origin : Word) : (s.degrade lease inv origin).mem = s.mem :=
  (keeps_degrade lease inv origin).2.1

@[simp] theorem mem_beginInval (vmid : Nat) (asid : Option Nat) (base size : Nat) (stage2 : Bool) (packet : Option (Nat × Nat)) :
    (s.beginInval vmid asid base size stage2 packet).2.mem = s.mem := rfl

/-! ### Registers of the units -/

@[simp] theorem mem_modMu (site : SiteRef) (f : Mu → Mu) : (s.modMu site f).mem = s.mem := rfl
@[simp] theorem mem_modCu (site : SiteRef) (f : Cu → Cu) : (s.modCu site f).mem = s.mem := rfl

@[simp] theorem mem_sendStat (h : Head) (k : Nat) : (c.sendStat h k s).mem = s.mem := by
  unfold Site.sendStat
  split
  · exact mem_reply s c _ _
  · rfl

@[simp] theorem mem_tileThenStat (f : FmtX) (g : Tile → Tile) : (c.tileThenStat f g s).mem = s.mem := mem_sendStat _ _ _ _

end

/-! ### A firing (R126, R272) -/

section
variable {i : Instr} {s t : State} {ready : Site → Bool} {onErr : Site → Token → State → State} {body : Site → State → State}

theorem mem_fireUsing {uses : Site → Uses} {checked : Uses → Uses} (herr : ∀ c e s, (onErr c e s).mem = s.mem)
    (hbody : ∀ c s, (body c s).mem = s.mem) (h : fireUsing i uses checked ready onErr body s = .next t) : t.mem = s.mem := by
  unfold fireUsing at h
  cases hs : s.site? with
  | none =>
    rw [hs] at h
    cases h
    rfl
  | some c =>
    rw [hs] at h
    dsimp only at h
    split at h
    · cases h
      rfl
    · split at h
      · cases h
        exact herr _ _ _
      · split at h
        · cases h
          exact mem_raiseErrs _ _ _
        · cases h
          exact hbody _ _

theorem mem_errToBoth (i : Instr) (c : Site) (e : Token) (s : State) : (errToBoth i c e s).mem = s.mem := mem_reply s c _ _

theorem mem_fire_errs (herr : ∀ c e s, (onErr c e s).mem = s.mem) (hbody : ∀ c s, (body c s).mem = s.mem)
    (h : fire i ready onErr body s = .next t) : t.mem = s.mem :=
  mem_fireUsing herr hbody h

theorem mem_fire (hbody : ∀ c s, (body c s).mem = s.mem) (h : fire i ready (errToBoth i) body s = .next t) : t.mem = s.mem :=
  mem_fireUsing (mem_errToBoth i) hbody h

theorem mem_fireLocal {eff : Site → Option Effect} (h : fireLocal i eff s = .next t) : t.mem = s.mem := by
  refine mem_fire (fun c s => ?_) h
  split
  · exact mem_perform _ _ _ _
  · exact mem_fail _ _ _ _

/-! ### Memory instructions (R335 to R349) -/

section
variable {f : FmtM}

theorem mem_loadIns {size : Nat} {pl : Nat → Plan} (h : loadIns i f size pl s = .next t) : t.mem = s.mem := by
  refine mem_fire (fun c s => ?_) h
  dsimp only
  split <;> simp

theorem mem_storeIns {size : Nat} {vec rel : Bool} {ok : Token → Bool} (h : storeIns i f size vec ok rel s = .next t) :
    t.mem = s.mem := by
  have hgo (c : Site) (s : State) (o : Option Plan) (cause : Nat) : (match o with
      | some p => c.sendWrite f p s
      | none => c.fail f.h cause s).mem = s.mem := by cases o <;> simp
  refine mem_fire_errs (fun c e s => ?_) (fun c s => hgo c s _ _) h
  dsimp only
  split
  · simp
  · split
    · exact (hgo c _ _ _).trans (mem_trapOf _ _ _)
    · simp

theorem mem_atomicIns {op : RmwOp} {cas : Bool} (h : atomicIns i f op cas s = .next t) : t.mem = s.mem := by
  refine mem_fire_errs (fun c e s => ?_) (fun c s => ?_) h
  · split <;> simp
  · dsimp only
    split <;> simp

theorem mem_reduceIns {op : RmwOp} (h : reduceIns i f op s = .next t) : t.mem = s.mem := by
  refine mem_fire_errs (fun c e s => ?_) (fun c s => ?_) h
  · split <;> simp
  · dsimp only
    split <;> simp

theorem mem_rangeIns {op : ReqOp} (h : rangeIns i f op s = .next t) : t.mem = s.mem := by
  refine mem_fire_errs (fun c e s => ?_) (fun c s => ?_) h
  · split <;> simp
  · split
    · split
      · simp
      · split <;> simp
    · simp

theorem mem_cbWait {count ptr : Cbd → Nat} (h : cbWait i f count ptr s = .next t) : t.mem = s.mem :=
  mem_fire (fun c s => (mem_reply _ _ _ _).trans (mem_cbSync s c)) h

theorem mem_cbMove {rdy : Cbd → Bool} {from_ : Cbd → Nat} {g : Cbd → Cbd} (h : cbMove i f rdy from_ g s = .next t) : t.mem = s.mem := by
  refine mem_fire (fun c s => ?_) h
  dsimp only
  split <;> simp

theorem mem_engineIns {op : EngOp} (h : engineIns i f op s = .next t) : t.mem = s.mem := by
  refine mem_fire_errs (fun c e s => (mem_passErr _ _ _ _).trans (mem_trapOf _ _ _)) (fun c s => ?_) h
  dsimp only
  split
  · split
    · simp
    · split
      · simp
      · simp only [mem_degrade, mem_fly]
        exact mem_cbSync s c
  · simp

end

theorem mem_tileOp {f : FmtX} {okArg : Site → Bool} (hbody : ∀ c s, (body c s).mem = s.mem) (h : tileOp i f okArg body s = .next t) :
    t.mem = s.mem := by
  refine mem_fire (fun c s => ?_) h
  split
  · simp
  · exact hbody _ _

theorem mem_maskOp {f : FmtD} {b : Bool} (h : maskOp i f b s = .next t) : t.mem = s.mem := by
  refine mem_fire (fun c s => ?_) h
  exact mem_reply _ _ _ _

end

/-! ### The statement -/

section
variable {i : Instr} {s t : State}

/-- The dataflow and control instructions (R276 to R285). -/
theorem mem_of_formatD {f : FmtD} {r : RowD} (hi : i.row = .d f r) (h : exec i s = .next t) : t.mem = s.mem := by
  cases i with
  | nop f =>
    change execNop f s = _ at h
    exact mem_fire (i := .nop f) (fun _ _ => rfl) h
  | drop f =>
    change execDrop f s = _ at h
    exact mem_fire (i := .drop f) (fun _ _ => rfl) h
  | recv f =>
    change execRecv f s = _ at h
    refine mem_fire (i := .recv f) (fun c s => ?_) h
    split
    · simp
    · split <;> simp
  | peek f =>
    change execPeek f s = _ at h
    refine mem_fire (i := .peek f) (fun c s => ?_) h
    split
    · simp
    · split <;> simp
  | emit f =>
    change execEmit f s = _ at h
    refine mem_fire_errs (i := .emit f) (fun c e s => mem_pushTo s c _ _) (fun c s => ?_) h
    dsimp only
    split
    · rfl
    · split
      · simp
      · split <;> simp
  | steer f =>
    change execSteer f s = _ at h
    refine mem_fireUsing (i := .steer f) (mem_errToBoth _) (fun c s => ?_) h
    split <;> simp
  | merge f =>
    change execMerge f s = _ at h
    refine mem_fireUsing (i := .merge f) (mem_errToBoth _) (fun c s => ?_) h
    split <;> simp
  | gate f =>
    change execGate f s = _ at h
    refine mem_fireUsing (i := .gate f) (mem_errToBoth _) (fun c s => ?_) h
    dsimp only
    split <;> simp
  | decide f =>
    change execDecide f s = _ at h
    exact mem_fire (i := .decide f) (fun c s => mem_control s c _) h
  | retire f =>
    change execRetire f s = _ at h
    exact mem_fire (i := .retire f) (fun c s => mem_control s c _) h
  | waitc f =>
    change execWaitc f s = _ at h
    exact mem_fire (i := .waitc f) (fun c s => mem_reply s c _ _) h
  | hmask f =>
    change execHmask f s = _ at h
    exact mem_maskOp (i := .hmask f) h
  | hunmask f =>
    change execHunmask f s = _ at h
    exact mem_maskOp (i := .hunmask f) h
  | mov f | const f | sel f | kwrite f | chstat f => exact mem_fireLocal h
  | iter f =>
    change execIter f s = _ at h
    exact mem_fireLocal h
  | kread f =>
    change execKread f s = _ at h
    exact mem_fireLocal h
  | eoiq f =>
    change execEoiq f s = _ at h
    exact mem_fireLocal h
  | invnum f =>
    change execInvnum f s = _ at h
    exact mem_fireLocal h
  | siteid f =>
    change execSiteid f s = _ at h
    exact mem_fireLocal h
  | _ => cases hi

/-- The weight, accumulator and tile-fetch instructions (R318 to R331). -/
theorem mem_of_formatX {f : FmtX} {r : RowX} (hi : i.row = .x f r) (h : exec i s = .next t) : t.mem = s.mem := by
  cases i with
  | wload f =>
    change execWload f s = _ at h
    refine mem_fire (i := .wload f) (fun c s => ?_) h
    dsimp only
    split
    · split <;> simp
    · rfl
  | wsparse f =>
    change execWsparse f s = _ at h
    refine mem_fire (i := .wsparse f) (fun c s => ?_) h
    dsimp only
    split <;> simp
  | wswap f =>
    change execWswap f s = _ at h
    refine mem_fire (i := .wswap f) (fun c s => ?_) h
    rfl
  | wscale f =>
    change execWscale f s = _ at h
    refine mem_fire (i := .wscale f) (fun c s => ?_) h
    split <;> simp
  | macc f =>
    change execMacc f s = _ at h
    refine mem_fire (i := .macc f) (fun c s => ?_) h
    dsimp only
    split <;> simp
  | adecay f =>
    change execAdecay f s = _ at h
    refine mem_fire (i := .adecay f) (fun c s => ?_) h
    split <;> simp
  | azero f =>
    change execAzero f s = _ at h
    refine mem_tileOp (i := .azero f) (fun c s => ?_) h
    exact mem_tileThenStat s c _ _
  | aload f =>
    change execAload f s = _ at h
    refine mem_tileOp (i := .aload f) (fun c s => ?_) h
    exact mem_tileThenStat s c _ _
  | adrain f =>
    change execAdrain f s = _ at h
    refine mem_tileOp (i := .adrain f) (fun c s => ?_) h
    exact mem_reply _ c _ _
  | aspill f =>
    change execAspill f s = _ at h
    exact mem_tileOp (i := .aspill f) (fun c s => mem_fly s c _) h
  | afill f =>
    change execAfill f s = _ at h
    exact mem_tileOp (i := .afill f) (fun c s => mem_fly s c _) h
  | aown f =>
    change execAown f s = _ at h
    refine mem_fire (i := .aown f) (fun c s => ?_) h
    split <;> simp
  | mstat f => exact mem_fireLocal h
  | tfetch f =>
    change execTfetch f s = _ at h
    refine mem_fire (i := .tfetch f) (fun c s => ?_) h
    dsimp only
    split <;> simp
  | trelease f =>
    change execTrelease f s = _ at h
    refine mem_fire (i := .trelease f) (fun c s => ?_) h
    split <;> simp
  | mstream f =>
    change execMstream f s = _ at h
    refine mem_fire (i := .mstream f) (fun c s => ?_) h
    split
    · rfl
    · split <;> simp
  | _ => cases hi

/-- The instructions on memory, the scratchpad, teams, engines and the system (R333 to R366). -/
theorem mem_of_formatM {f : FmtM} {r : RowM} (hi : i.row = .m f r) (h : exec i s = .next t) : t.mem = s.mem := by
  cases i with
  | ld f | ldv f | ldro f | acq f => exact mem_loadIns h
  | st f | stv f | rel f => exact mem_storeIns h
  | aadd f | amin f | amax f | aand f | aor f | axor f | aswp f | acas f | afadd f => exact mem_atomicIns h
  | redadd f | redfadd f | redmax f => exact mem_reduceIns h
  | discard f | flushr f => exact mem_rangeIns h
  | cpy f | cpym f | zpack f | zunpack f | coll f => exact mem_engineIns h
  | cbwaitf f =>
    change execCbwaitf f s = _ at h
    exact mem_cbWait h
  | cbwaite f =>
    change execCbwaite f s = _ at h
    exact mem_cbWait h
  | cbpush f =>
    change execCbpush f s = _ at h
    unfold execCbpush at h
    exact mem_cbMove h
  | cbpop f =>
    change execCbpop f s = _ at h
    unfold execCbpop at h
    exact mem_cbMove h
  | tjoin f =>
    change execTjoin f s = _ at h
    exact mem_fire (i := .tjoin f) (fun c s => mem_syncOp s c _ _ _ _) h
  | tleave f =>
    change execTleave f s = _ at h
    exact mem_fire (i := .tleave f) (fun c s => mem_syncOp s c _ _ _ _) h
  | arrive f =>
    change execArrive f s = _ at h
    exact mem_fire (i := .arrive f) (fun c s => mem_syncOp s c _ _ _ _) h
  | arrwait f =>
    change execArrwait f s = _ at h
    exact mem_fire (i := .arrwait f) (fun c s => mem_syncOp s c _ _ _ _) h
  | markinit f =>
    change execMarkinit f s = _ at h
    refine mem_fire (i := .markinit f) (fun c s => ?_) h
    split <;> simp
  | mwait f =>
    change execMwait f s = _ at h
    refine mem_fire (i := .mwait f) (fun c s => ?_) h
    split <;> simp
  | pref f =>
    change execPref f s = _ at h
    refine mem_fire (i := .pref f) (fun c s => ?_) h
    dsimp only
    split <;> simp
  | migr f =>
    change execMigr f s = _ at h
    refine mem_fire (i := .migr f) (fun c s => ?_) h
    dsimp only
    split <;> simp
  | fence f =>
    change execFence f s = _ at h
    refine mem_fire (i := .fence f) (fun c s => ?_) h
    dsimp only
    split
    · rfl
    · split <;> simp
  | ncinv f =>
    change execNcinv f s = _ at h
    refine mem_fire (i := .ncinv f) (fun c s => ?_) h
    split <;> simp
  | lds f =>
    change execLds f s = _ at h
    unfold execLds at h
    split at h
    · refine mem_fire (i := .lds f) (fun c s => ?_) h
      dsimp only
      split <;> simp
    · refine mem_fire (i := .lds f) (fun c s => ?_) h
      dsimp only
      split
      · simp
      · split
        · simp
        · split <;> simp
  | sts f =>
    change execSts f s = _ at h
    refine mem_fire_errs (i := .sts f) (fun c e s => ?_) (fun c s => ?_) h
    · split <;> simp
    · split
      · exact mem_ite (by simp) (mem_ite (by simp) (by simp))
      · simp
  | cbinit f =>
    change execCbinit f s = _ at h
    refine mem_fire (i := .cbinit f) (fun c s => ?_) h
    dsimp only
    split
    · simp
    · split <;> simp
  | sfrend f =>
    change execSfrend f s = _ at h
    refine mem_fire (i := .sfrend f) (fun c s => ?_) h
    dsimp only
    split <;> simp
  | engq f =>
    change execEngq f s = _ at h
    refine mem_fire (i := .engq f) (fun c s => ?_) h
    dsimp only
    refine (mem_reply _ _ _ _).trans ?_
    split
    · split <;> simp
    · rfl
  | cropen f =>
    change execCropen f s = _ at h
    refine mem_fire (i := .cropen f) (fun c s => ?_) h
    split <;> simp
  | crclose f =>
    change execCrclose f s = _ at h
    refine mem_fire (i := .crclose f) (fun c s => ?_) h
    dsimp only
    split
    · simp
    · split <;> simp
  | trap f =>
    change execTrap f s = _ at h
    exact mem_fire (i := .trap f) (fun c s => mem_fail s c _ _) h
  | errq f =>
    change execErrq f s = _ at h
    refine mem_fireUsing (i := .errq f) (mem_errToBoth _) (fun c s => ?_) h
    exact mem_reply s c _ _
  | task f =>
    change execTask f s = _ at h
    refine mem_fire (i := .task f) (fun c s => ?_) h
    split <;> simp
  | taskdep f =>
    change execTaskdep f s = _ at h
    refine mem_fire (i := .taskdep f) (fun c s => ?_) h
    dsimp only
    split
    · simp
    · split <;> simp
  | xlfence f =>
    change execXlfence f s = _ at h
    refine mem_fire (i := .xlfence f) (fun c s => ?_) h
    split <;> simp
  | xlinv f =>
    change execXlinv f s = _ at h
    refine mem_fire (i := .xlinv f) (fun c s => ?_) h
    dsimp only
    split
    · exact mem_ite (by simp) (mem_ite (by simp) (mem_ite (by simp) rfl))
    · simp
  | clock f =>
    change execClock f s = _ at h
    exact mem_fire (i := .clock f) (fun c s => mem_reply s c _ _) h
  | perfc f =>
    change execPerfc f s = _ at h
    exact mem_fire (i := .perfc f) (fun c s => mem_reply s c _ _) h
  | _ => cases hi

/-- The arithmetic and vector instructions touch their own lease's dataflow only. -/
theorem mem_of_formatA {f : FmtA} {r : RowA} (hi : i.row = .a f r) (h : exec i s = .next t) : t.mem = s.mem := by
  obtain ⟨hfabric, -⟩ := Frames.arithmeticTouchesItsOwnSiteOnly i f r s t hi h
  exact (congrArg State.mem hfabric).trans rfl

end

/-- Settles O27: of each format, every instruction is a firing whose parts leave memory as it is. -/
theorem issuingChangesNoByteOfMemory : Obligations.IssuingChangesNoByteOfMemory := by
  unfold Obligations.IssuingChangesNoByteOfMemory
  intro i s t hi h a
  have hmem : t.mem = s.mem := by
    cases hrow : i.row with
    | a f r => exact mem_of_formatA hrow h
    | d f r => exact mem_of_formatD hrow h
    | m f r => exact mem_of_formatM hrow h
    | x f r => exact mem_of_formatX hrow h
    | event => exact absurd hrow hi
  rw [hmem]

end Sys2Proof.Proofs.MemoryFrame
end

section
/-! The scratchpad and the circular buffers (R148 to R150, R180, R340, R342): LDS and STS answer from the MU that fires, and a circular-buffer
instruction changes one descriptor and ends the SFR of its party. -/

namespace Sys2Proof.Proofs.Scratchpad

open Sys2Proof Sys2Proof.Machine Sys2Proof.Safety Sys2Proof.Claims Sys2Proof.Proofs.Teams Sys2Proof.Proofs.Firing

/-! ### Scratchpad accesses (R148, R222, R340) -/

section
variable {s : State} {c : Site} {f : FmtM} {o : Nat}

theorem spOff_eq {n : Nat} (h : SpOff c f n o) : c.spOff f = some o := by
  obtain ⟨⟨a, ha, ho⟩, -⟩ := h
  simp [Site.spOff, ha, ho]

/-- Whether LDS without MEM, or STS, may access the scratchpad now. -/
def accessReady (f : FmtM) (s : State) (c : Site) : Bool :=
  match c.spOff f with
  | some o => c.spClear s o (spBytes f)
  | none => true

theorem accessReady_of_clear (ho : SpOff c f (spBytes f) o) (hclear : c.spClear s o (spBytes f) = true) : accessReady f s c = true := by
  unfold accessReady
  rw [spOff_eq ho]
  exact hclear

/-- The token that LDS sends for a number that it has read. -/
def readToken (f : FmtM) (x : Nat) : Token :=
  if f.idx.toNat.testBit 0 then Token.vector (tyOf f.ty).tag 0 (BitVec.ofNat 512 x) else patTok (tyOf f.ty) x

theorem kind_readToken (f : FmtM) (x : Nat) : (readToken f x).kind = .data := by
  unfold readToken
  split <;> rfl

/-- What LDS without MEM does once it fires. -/
def readScratch (f : FmtM) (c : Site) (u : State) : State :=
  match c.spOff f with
  | none => c.fail f.h cFormatTag u
  | some o =>
    if o % spBytes f ≠ 0 then c.fail f.h cPerm u
    else if c.pe.mu.broken o (spBytes f) then c.fail f.h cEccUncorr u
    else c.reply f.h (readToken f (c.pe.mu.read o (spBytes f))) u

theorem exec_lds (hm : f.idx.toNat.testBit 1 = false) :
    exec (.lds f) s = fire (.lds f) (accessReady f s) (errToBoth (.lds f)) (readScratch f) s := by
  change execLds f s = _
  unfold execLds
  rw [if_neg (show ¬ FmtM.memBit f = true by simp [FmtM.memBit, hm])]
  rfl

theorem readScratch_eq (ho : SpOff c f (spBytes f) o) (u : State) : readScratch f c u =
    if c.pe.mu.broken o (spBytes f) then c.fail f.h cEccUncorr u
    else c.reply f.h (readToken f (c.pe.mu.read o (spBytes f))) u := by
  unfold readScratch
  rw [spOff_eq ho]
  exact if_neg (not_not.mpr ho.2)

/-- A word that cannot be corrected breaks an access that meets it. -/
theorem broken_of_mem {m : Mu} {n w : Nat} (hw : w ∈ m.bad) (hlo : w < o + n) (hhi : o < w + 8) : m.broken o n = true := by
  unfold Mu.broken
  exact List.any_eq_true.mpr ⟨w, hw, by simp [hlo, hhi]⟩

/-- The MU after STS has written a number. -/
def written (f : FmtM) (o v : Nat) (p : PE) : PE := { p with mu := p.mu.write o (spBytes f) v }

theorem regChange_written (plane : Nat) (f : FmtM) (o v : Nat) : RegChange plane (written f o v) :=
  regChange_mu plane (fun m => m.write o (spBytes f) v)

/-- What STS does once it fires. -/
def writeScratch (f : FmtM) (c : Site) (u : State) : State :=
  match c.spOff f, c.r with
  | some o, some t =>
    if !(if FmtM.vecBit f then t.vec && (tyOf f.ty = .raw512 || t.tag = (tyOf f.ty).tag) else t.isScalar (tyOf f.ty)) then
      c.fail f.h cFormatTag u
    else if o % spBytes f ≠ 0 then c.fail f.h cPerm u
    else c.reply f.h (n8Tok 1) (u.modPE c.site (written f o (t.data.toNat % 2 ^ (8 * spBytes f))))
  | _, _ => c.fail f.h cFormatTag u

theorem exec_sts : exec (.sts f) s = fire (.sts f) (accessReady f s)
    (fun c e s => if isErr c.l || isErr c.r then c.reply f.h (n8Tok 0) (c.trapOf e s) else c.reply f.h e s) (writeScratch f) s := rfl

theorem writeScratch_eq {t : Token} (ho : SpOff c f (spBytes f) o) (hr : c.r = some t)
    (hok : if f.idx.toNat.testBit 0 then t.vec = true ∧ (tyOf f.ty = .raw512 ∨ t.tag = (tyOf f.ty).tag)
      else t.isScalar (tyOf f.ty) = true) (u : State) :
    writeScratch f c u = c.reply f.h (n8Tok 1) (u.modPE c.site (written f o (t.data.toNat % 2 ^ (8 * spBytes f)))) := by
  have hmatches : (if FmtM.vecBit f then t.vec && (tyOf f.ty = .raw512 || t.tag = (tyOf f.ty).tag) else t.isScalar (tyOf f.ty)) = true := by
    unfold FmtM.vecBit
    split at hok
    · simp [*]
    · simp [*]
  unfold writeScratch
  rw [spOff_eq ho, hr]
  simp only [hmatches, Bool.not_true, Bool.false_eq_true, if_false]
  exact if_neg (not_not.mpr ho.2)

end

/-! ### Circular buffers (R149, R150, R180, R342) -/

section
variable {s : State} {c : Site} {f : FmtM} {p : Port}

/-- A circular-buffer instruction's firing neither reads nor changes what ends its party's SFR. -/
theorem cbSync_modPE {g : PE → PE} (hp : s.portOf? c.site c.pe.kind = some p) (u : Uses) :
    c.cbSync ((c.consume u s).modPE c.site g) = (c.consume u (s.endSfr p.party)).modPE c.site g := by
  have hport : ((c.consume u s).modPE c.site g).portOf? c.site c.pe.kind = some p := hp
  unfold Site.cbSync
  rw [hport, consume_eq, consume_eq]
  unfold State.modPE
  exact (endSfr_modLease _ _ _ _).trans (congrArg (fun t : State => t.modLease c.site.lease _) (endSfr_modLease _ _ _ _))

theorem cbSync_consume (hp : s.portOf? c.site c.pe.kind = some p) (u : Uses) :
    c.cbSync (c.consume u s) = c.consume u (s.endSfr p.party) := by
  have h := cbSync_modPE (g := fun q => q) hp u
  rwa [modPE_id, modPE_id] at h

theorem cbIdx_lt (f : FmtM) : FmtM.cbIdx f < 16 := Nat.mod_lt _ (by decide)

theorem regChange_setCb (plane : Nat) (f : FmtM) (d : Cbd) : RegChange plane (setCb f d) :=
  regChange_mu plane (fun m => m.modCb (f.idx.toNat % 16) (fun _ => d))

/-- A CB instruction that waits for lines on their way to the scratchpad leaves the package as it is. -/
theorem fire_notReady {i : Instr} {ready : Site → Bool} {onErr : Site → Token → State → State} {body : Site → State → State}
    (hs : s.site? = some c) (hr : ready c = false) : fire i ready onErr body s = .next s := by
  simp [fire, fireUsing, hs, hr]

/-- The descriptor that CBINIT sets up from the number in L: all its slots are free. -/
def freshCb (v : Nat) : Cbd :=
  ⟨BitVec.ofNat 13 (v / 4096 % 4096 + 1), 0, BitVec.ofNat 12 (v / 2 ^ 24), BitVec.ofNat 12 (v / 4096), BitVec.ofNat 12 v, 0, true, 0, 0, []⟩

theorem ofNat_bitsOf (v lo : Nat) : BitVec.ofNat 12 (bitsOf v lo 12) = BitVec.ofNat 12 (v / 2 ^ lo) := by
  apply BitVec.eq_of_toNat_eq
  simp [bitsOf, Nat.shiftRight_eq_div_pow]

/-- What CBINIT does with a number that gives no misuse. -/
theorem cbinit_body {v : Nat} (hlt : v < 2 ^ 36) (hpend : (cbOf c f).pend = 0)
    (hfits : 64 * (v % 4096 + (v / 4096 % 4096 + 1) * (v / 2 ^ 24 % 4096 + 1)) ≤ 2 ^ 18) (u : State) :
    (if v ≥ 2 ^ 36 || (cbOf c f).pend ≠ 0 || cbTooLarge (bitsOf v 0 12) (bitsOf v 12 12) (bitsOf v 24 12) then c.fail f.h cCbMisuse u
      else c.reply f.h (n64Tok (Cbd.lo ⟨BitVec.ofNat 13 (bitsOf v 12 12 + 1), 0, BitVec.ofNat 12 (bitsOf v 24 12),
          BitVec.ofNat 12 (bitsOf v 12 12), BitVec.ofNat 12 (bitsOf v 0 12), 0, true, 0, 0, []⟩))
        (u.modMu c.site (fun m => m.modCb (FmtM.cbIdx f) (fun _ => ⟨BitVec.ofNat 13 (bitsOf v 12 12 + 1), 0, BitVec.ofNat 12 (bitsOf v 24 12),
          BitVec.ofNat 12 (bitsOf v 12 12), BitVec.ofNat 12 (bitsOf v 0 12), 0, true, 0, 0, []⟩)))) =
      c.reply f.h (n64Tok (freshCb v).lo) (u.modPE c.site (setCb f (freshCb v))) := by
  have hsmall : cbTooLarge (bitsOf v 0 12) (bitsOf v 12 12) (bitsOf v 24 12) = false := by
    simpa [cbTooLarge, bitsOf, Nat.shiftRight_eq_div_pow] using hfits
  have hd : (⟨BitVec.ofNat 13 (bitsOf v 12 12 + 1), 0, BitVec.ofNat 12 (bitsOf v 24 12), BitVec.ofNat 12 (bitsOf v 12 12),
      BitVec.ofNat 12 (bitsOf v 0 12), 0, true, 0, 0, []⟩ : Cbd) = freshCb v := by
    have hslots : bitsOf v 12 12 = v / 4096 % 4096 := by simp [bitsOf, Nat.shiftRight_eq_div_pow]
    simp only [ofNat_bitsOf, freshCb]
    simp [hslots]
  have hlow : decide (v ≥ 2 ^ 36) = false := decide_eq_false (Nat.not_le.mpr hlt)
  rw [hd]
  exact if_neg (by simp only [hlow, hpend, hsmall]; decide)

/-- CBWAITF and CBWAITE send the offset of a slot once enough of the buffer is there. -/
theorem cbWait_completes {i : Instr} {count ptr : Cbd → Nat} (h : Fires i s c) (hhead : i.head = f.h) (hexec : exec i s = cbWait i f count ptr s)
    (hidle : c.spIdle s = true) (hp : s.portOf? c.site c.pe.kind = some p) (hv : (cbOf c f).valid = true)
    (hcount : f.off.toNat ≤ count (cbOf c f)) : Completes i s c (Deed.sending (s.endSfr p.party) c i (both f.h
      (intTok .n32 ((cbOf c f).offset (ptr (cbOf c f)) : Nat)))) := by
  have hready : (c.spIdle s && (cbOf c f).valid && decide (f.off.toNat ≤ count (cbOf c f))) = true := by simp [hidle, hv, hcount]
  have hdone := completes_reply (s0 := s.endSfr p.party) (g := fun q => q)
    (t := intTok .n32 ((cbOf c f).offset (ptr (cbOf c f)) : Nat)) h hexec hready (leases_endSfr s _) (RegChange.none _)
    (fun he => by cases he) (by rw [modPE_id, ← cbSync_consume hp, hhead]; rfl)
  rwa [hhead] at hdone

section
variable {i : Instr} {rdy : Cbd → Bool} {from_ : Cbd → Nat} {g : Cbd → Cbd} (h : Fires i s c) (hhead : i.head = f.h)
  (hexec : exec i s = cbMove i f rdy from_ g s) (hidle : c.spIdle s = true) (hrdy : rdy (cbOf c f) = true)
include h hhead hexec hidle hrdy

/-- CBPUSH and CBPOP move their buffer where the count is there. -/
theorem cbMove_completes (hp : s.portOf? c.site c.pe.kind = some p) (hv : (cbOf c f).valid = true)
    (hcount : f.off.toNat ≤ from_ (cbOf c f)) : Completes i s c { Deed.sending (s.endSfr p.party) c i (both f.h
      (n64Tok (g (cbOf c f)).lo)) with pe := setCb f (g (cbOf c f)) } := by
  have hready : (c.spIdle s && rdy (cbOf c f)) = true := by simp [hidle, hrdy]
  have hthere : (!(cbOf c f).valid || decide (from_ (cbOf c f) < f.off.toNat)) = false := by simp [hv, hcount]
  have hdone := completes_reply (s0 := s.endSfr p.party) (g := setCb f (g (cbOf c f))) (t := n64Tok (g (cbOf c f)).lo) h hexec hready
    (leases_endSfr s _) (regChange_setCb _ f _) (fun he => by cases he)
    (by rw [← cbSync_modPE hp, hhead]; exact if_neg (Bool.eq_false_iff.mp hthere))
  rwa [hhead] at hdone

/-- CBPUSH and CBPOP are refused where the count is not there. -/
theorem cbMove_refused (hcount : from_ (cbOf c f) < f.off.toNat) (hl : Lands f.h) : Gives i s c (c.ownErr cCbMisuse) := by
  have hready : (c.spIdle s && rdy (cbOf c f)) = true := by simp [hidle, hrdy]
  have hthere : (!(cbOf c f).valid || decide (from_ (cbOf c f) < f.off.toNat)) = true := by simp [hcount]
  exact gives_err h hexec hready (by rwa [hhead]) (by rw [hhead]; exact if_pos hthere)

end

/-- A descriptor of which CBPUSH has published the slots that a word counts. -/
def pushed (f : FmtM) (d : Cbd) : Cbd :=
  { d with
    free := BitVec.ofNat 13 (d.free.toNat - f.off.toNat), filled := BitVec.ofNat 13 (d.filled.toNat + f.off.toNat)
    prodp := d.advance d.prodp f.off.toNat }

/-- A descriptor of which CBPOP has freed the slots that a word counts. -/
def popped (f : FmtM) (d : Cbd) : Cbd :=
  { d with
    filled := BitVec.ofNat 13 (d.filled.toNat - f.off.toNat), free := BitVec.ofNat 13 (d.free.toNat + f.off.toNat)
    consp := d.advance d.consp f.off.toNat }

theorem exec_cbwaitf : exec (.cbwaitf f) s = cbWait (.cbwaitf f) f (fun d => d.filled.toNat) (fun d => d.consp.toNat) s := rfl

theorem exec_cbwaite : exec (.cbwaite f) s = cbWait (.cbwaite f) f (fun d => d.free.toNat) (fun d => d.prodp.toNat) s := rfl

theorem exec_cbpush : exec (.cbpush f) s = cbMove (.cbpush f) f (fun d => d.pend = 0) (fun d => d.free.toNat) (pushed f) s := rfl

theorem exec_cbpop : exec (.cbpop f) s = cbMove (.cbpop f) f (fun _ => true) (fun d => d.filled.toNat) (popped f) s := rfl

end

/-! ### The statement -/

/-- Settles O35: an access reads or writes the bytes at its offset, and a circular-buffer instruction replaces one descriptor and ends the
SFR of its party, once nothing is on its way to the scratchpad. -/
theorem scratchpadAndCircularBuffers : Obligations.ScratchpadAndCircularBuffers := by
  unfold Obligations.ScratchpadAndCircularBuffers
  refine ⟨?lds, ?sts, ?broken, ?init, ?waitF, ?waitE, ?push, ?pop, ?refused, ?waits⟩
  case lds =>
    intro f s c o h hm ho hclear hwhole
    refine gives h (exec_lds hm) (accessReady_of_clear ho hclear) (fun he => ?_) ?_
    · exact absurd (he.symm.trans (kind_readToken f _)) (by decide)
    · rw [readScratch_eq ho, hwhole]
      rfl
  case sts =>
    intro f s c o t h ho hclear hr hok
    exact completes_reply (s0 := s) (g := written f o (t.data.toNat % 2 ^ (8 * spBytes f))) h exec_sts
      (accessReady_of_clear ho hclear) rfl (regChange_written _ f o _) (fun he => by cases he) (writeScratch_eq ho hr hok _)
  case broken =>
    intro f s c o w h hm ho hclear hw hlo hhi hl
    refine gives_err h (exec_lds hm) (accessReady_of_clear ho hclear) hl ?_
    rw [readScratch_eq ho, broken_of_mem hw hlo hhi]
    rfl
  case init =>
    intro f s c v h hidle hv hlt hpend hfits
    refine completes_reply (s0 := s) (g := setCb f (freshCb v)) (t := n64Tok (freshCb v).lo) h (rfl : _ = execCbinit f s) hidle rfl
      (regChange_setCb _ f _) (fun he => by cases he) ?_
    simp only [hv]
    exact cbinit_body hlt hpend hfits _
  case waitF =>
    intro f s c p h hidle hp hv hcount
    have hdone := cbWait_completes h rfl exec_cbwaitf hidle hp hv hcount
    exact hdone
  case waitE =>
    intro f s c p h hidle hp hv hcount
    have hdone := cbWait_completes h rfl exec_cbwaite hidle hp hv hcount
    exact hdone
  case push =>
    intro f s c p h hidle hp hv hpend hcount
    have hdone := cbMove_completes h rfl exec_cbpush hidle (decide_eq_true hpend) hp hv hcount
    exact hdone
  case pop =>
    intro f s c p h hidle hp hv hcount
    have hdone := cbMove_completes h rfl exec_cbpop hidle rfl hp hv hcount
    exact hdone
  case refused =>
    intro f s c h hidle hcount hl
    exact cbMove_refused h rfl exec_cbpop hidle rfl hcount hl
  case waits =>
    intro mk hmk f s c hs hidle
    have hnot (b : Bool) : (c.spIdle s && b) = false := by rw [hidle]; rfl
    have hnot' (a b : Bool) : (c.spIdle s && a && b) = false := by rw [hidle]; rfl
    simp only [List.mem_cons, List.not_mem_nil, or_false] at hmk
    rcases hmk with rfl | rfl | rfl | rfl | rfl
    · exact (rfl : _ = execCbinit f s).trans (fire_notReady hs hidle)
    · exact exec_cbwaitf.trans (fire_notReady hs (hnot' _ _))
    · exact exec_cbwaite.trans (fire_notReady hs (hnot' _ _))
    · exact exec_cbpush.trans (fire_notReady hs (hnot _))
    · exact exec_cbpop.trans (fire_notReady hs (hnot _))

end Sys2Proof.Proofs.Scratchpad
end

section
/-! The systolic arrays (R144 to R146, R217, R218, R322 to R324): what a vector that enters an array or leaves it does to the CUs that it
touches. -/

namespace Sys2Proof.Proofs.Systolic

open Sys2Proof Sys2Proof.Machine Sys2Proof.Claims Sys2Proof.Proofs.Moves Sys2Proof.Proofs.Replies Sys2Proof.Proofs.Fabric

/-! ### The CU in focus and its region (R145) -/

section
variable {s : State} {c : SysCu}

/-- What the CU in focus is: a PE of the lease in focus. -/
theorem sysCu?_some (h : s.sysCu? = some c) : s.lease? s.focus.site.lease = some c.lease ∧
    c.lease.pe? s.focus.site.dx s.focus.site.dy = some c.pe := by
  unfold State.sysCu? at h
  split at h
  · cases h
  · rename_i L hL
    split at h
    · cases h
    · split at h
      · rename_i pe g i j hpe hat
        split at h
        · cases h
          exact ⟨hL, hpe⟩
        · cases h
      · cases h

theorem pe?_of_sysCu? (h : s.sysCu? = some c) : s.pe? s.focus.site = some c.pe := by
  obtain ⟨hL, hpe⟩ := sysCu?_some h
  rw [pe?_of_lease? hL, hpe]

/-- A CU of the region is a PE of the package. -/
theorem pe?_of_cuAt? {i j : Nat} {u : Cu} (h : s.sysCu? = some c) (hu : c.cuAt? i j = some u) :
    ∃ pe, s.pe? (c.siteOf i j) = some pe ∧ pe.cu = u := by
  obtain ⟨hL, -⟩ := sysCu?_some h
  have hL' : s.lease? (c.siteOf i j).lease = some c.lease := by rw [← id_of_lease? hL] at hL; exact hL
  obtain ⟨pe, hpe, hcu⟩ := Option.map_eq_some_iff.mp hu
  exact ⟨pe, (pe?_of_lease? hL').trans hpe, hcu⟩

theorem modCu_place (f : Cu → Cu) (p : PE) : ({ p with cu := f p.cu } : PE).dx = p.dx ∧ ({ p with cu := f p.cu } : PE).dy = p.dy := ⟨rfl, rfl⟩

theorem focus_modCu (site : SiteRef) (f : Cu → Cu) : (s.modCu site f).focus = s.focus := rfl

/-- What a change of some CU keeps of every PE is as it was. -/
theorem map_pe?_modCu {α : Type} {k : PE → α} {f : Cu → Cu} {pe : PE} {site : SiteRef} (at_ : SiteRef)
    (hk : ∀ p : PE, k { p with cu := f p.cu } = k p) (h : s.pe? site = some pe) :
    ((s.modCu at_ f).pe? site).map k = some (k pe) :=
  map_pe?_modPE (f := fun p => { p with cu := f p.cu }) (modCu_place f) hk at_ h

/-- Two changes of leases alone are one. -/
theorem leasesOnly_trans {s t u : State} (ht : t = { s with leases := t.leases }) (hu : u = { t with leases := u.leases }) :
    u = { s with leases := u.leases } :=
  hu.trans (congrArg (fun v : State => { v with leases := u.leases }) ht)

/-! ### A vector enters (R146, R322, R323) -/

/-- The PE that has taken an activation and a partial into its array. -/
def entered (c : SysCu) (a : Activation) (p : Partial) (pe : PE) : PE :=
  let q := c.takeActivation a pe
  { q with cu := ({ q.cu with chain := q.cu.chain.tail }).enter p (c.sums (c.pe.cu.buf c.pe.cu.wact) a) }

/-- The package in which the activation has passed to the CU on the right, where the region has one. -/
def passRight (c : SysCu) (a : Activation) (s : State) : State :=
  if c.j + 1 < c.region.n then s.modCu (c.siteOf c.i (c.j + 1)) (fun u => { u with acts := u.acts ++ [a] }) else s

theorem array_enter (u : Cu) (above : Partial) (sums : Except Word (Vector ExactSum 32)) :
    (u.enter above sums).array.length = u.array.length + 1 := by
  unfold Cu.enter
  dsimp only
  split <;> simp

theorem takeActivation_keeps (c : SysCu) (a : Activation) (pe : PE) : (c.takeActivation a pe).dx = pe.dx ∧
    (c.takeActivation a pe).dy = pe.dy ∧ (c.takeActivation a pe).cu.array = pe.cu.array := by
  unfold SysCu.takeActivation
  split
  · exact ⟨rfl, rfl, rfl⟩
  · dsimp only
    split <;> exact ⟨rfl, rfl, rfl⟩

theorem entered_place (c : SysCu) (a : Activation) (p : Partial) (pe : PE) :
    (entered c a p pe).dx = pe.dx ∧ (entered c a p pe).dy = pe.dy := by
  obtain ⟨hx, hy, -⟩ := takeActivation_keeps c a pe
  exact ⟨hx, hy⟩

theorem array_entered (c : SysCu) (a : Activation) (p : Partial) (pe : PE) :
    (entered c a p pe).cu.array.length = pe.cu.array.length + 1 := by
  obtain ⟨-, -, harray⟩ := takeActivation_keeps c a pe
  unfold entered
  dsimp only
  rw [array_enter, harray]

section
variable {a : Activation} {p : Partial} (h : s.sysCu? = some c)
include h

/-- A vector that has an activation, a partial and room enters. -/
theorem exec_systolicActivation (ha : c.activation? = some a) (hp : c.above? = some p) (hlen : c.pe.cu.array.length < 4)
    (hroom : c.cuAt? c.i (c.j + 1) = none ∨ c.region.n ≤ c.j + 1 ∨ ∃ r, c.cuAt? c.i (c.j + 1) = some r ∧ r.acts = []) :
    exec .systolicActivation s = .next ((passRight c a (s.modPE s.focus.site (entered c a p))).progress c.lease.id) := by
  have hfree : (match c.cuAt? c.i (c.j + 1) with
      | some r => decide (c.j + 1 ≥ c.region.n) || r.acts.isEmpty
      | none => true) = true := by
    rcases hroom with hnone | hlast | ⟨r, hr, hempty⟩
    · rw [hnone]
    · cases c.cuAt? c.i (c.j + 1) with
      | none => rfl
      | some r => simp [hlast]
    · rw [hr]
      simp [hempty]
  have hblocked : (!(match c.cuAt? c.i (c.j + 1) with
      | some r => decide (c.j + 1 ≥ c.region.n) || r.acts.isEmpty
      | none => true) || decide (c.pe.cu.array.length ≥ 4)) = false := by
    rw [hfree]
    simpa using hlen
  have htake : s.sysTake = some ((passRight c a (s.modPE s.focus.site (entered c a p))).progress c.lease.id) := by
    unfold State.sysTake
    rw [h]
    dsimp only
    rw [ha, hp]
    exact if_neg (Bool.eq_false_iff.mp hblocked)
  change Host.Outcome.next (s.sysTake.getD s) = _
  rw [htake]
  rfl

theorem array_activation : (((passRight c a (s.modPE s.focus.site (entered c a p))).progress c.lease.id).pe? s.focus.site).map
    (fun q => q.cu.array.length) = some (c.pe.cu.array.length + 1) := by
  have hentered := pe?_modPE_site (entered_place c a p) (pe?_of_sysCu? h)
  rw [pe?_progress, ← array_entered c a p c.pe]
  unfold passRight
  split
  · exact map_pe?_modCu _ (fun _ => rfl) hentered
  · rw [hentered]
    rfl

omit h in
theorem activation_only (a : Activation) (p : Partial) : (passRight c a (s.modPE s.focus.site (entered c a p))).progress c.lease.id =
    { s with leases := ((passRight c a (s.modPE s.focus.site (entered c a p))).progress c.lease.id).leases } := by
  refine leasesOnly_trans ?_ (State.progress_only _ _)
  unfold passRight
  split
  · exact leasesOnly_trans (State.modPE_only s _ _) (State.modPE_only _ _ _)
  · exact State.modPE_only s _ _

end

/-! ### A vector leaves (R146, R217, R218, R324) -/

/-- The package in which the oldest vector has left its array. -/
def popped (s : State) (rest : List InArray) : State := s.modCu s.focus.site (fun u => { u with array := rest })

/-- The package in which the partial of a vector has gone to the CU below, and the flags of its roundings are raised. -/
def sentDown (s : State) (c : SysCu) (v : InArray) (rest : List InArray) : State :=
  ((popped s rest).modPE s.focus.site (fun pe => pe.raiseFlags v.down.2)).modCu (c.siteOf (c.i + 1) c.j)
    (fun u => { u with chain := u.chain ++ [v.down.1] })

section
variable {v : InArray} {rest : List InArray} (h : s.sysCu? = some c)
include h

theorem exec_systolicResult_down {below : Cu} (hv : c.pe.cu.array = v :: rest) (hi : c.i + 1 < c.region.m)
    (hb : c.cuAt? (c.i + 1) c.j = some below) (he : below.chain = []) :
    exec .systolicResult s = .next ((sentDown s c v rest).progress c.lease.id) := by
  change Host.Outcome.next (s.sysLeave.getD s) = _
  simp [State.sysLeave, h, hv, hi, hb, he, sentDown, popped]

theorem pe?_popped : (popped s rest).pe? s.focus.site = some { c.pe with cu := { c.pe.cu with array := rest } } :=
  pe?_modPE_site (f := fun pe => { pe with cu := { pe.cu with array := rest } }) (fun _ => ⟨rfl, rfl⟩) (pe?_of_sysCu? h)

/-- The array that the vector has left. -/
theorem array_sentDown (v : InArray) : (((sentDown s c v rest).progress c.lease.id).pe? s.focus.site).map (fun q => q.cu.array) = some rest := by
  have hraised := pe?_modPE_site (f := fun pe => pe.raiseFlags v.down.2) (fun _ => ⟨rfl, rfl⟩) (pe?_popped (rest := rest) h)
  rw [pe?_progress]
  exact map_pe?_modCu (k := fun q => q.cu.array) _ (fun _ => rfl) hraised

/-- The CU below holds the partial. -/
theorem chain_sentDown {below : Cu} (v : InArray) (hb : c.cuAt? (c.i + 1) c.j = some below) (he : below.chain = []) :
    (((sentDown s c v rest).progress c.lease.id).pe? (c.siteOf (c.i + 1) c.j)).map (fun q => q.cu.chain) = some [v.down.1] := by
  obtain ⟨pe, hpe, rfl⟩ := pe?_of_cuAt? h hb
  obtain ⟨pe1, hpe1, hchain1⟩ := Option.map_eq_some_iff.mp (map_pe?_modCu (f := fun u => { u with array := rest })
    (k := fun q => q.cu.chain) s.focus.site (fun _ => rfl) hpe)
  obtain ⟨pe2, hpe2, hchain2⟩ := Option.map_eq_some_iff.mp (map_pe?_modPE (f := fun pe => pe.raiseFlags v.down.2)
    (k := fun q => q.cu.chain) (fun _ => ⟨rfl, rfl⟩) (fun _ => rfl) s.focus.site hpe1)
  have hbelow := pe?_modPE_site (f := fun pe => { pe with cu := { pe.cu with chain := pe.cu.chain ++ [v.down.1] } })
    (fun _ => ⟨rfl, rfl⟩) hpe2
  have hempty : pe2.cu.chain = [] := hchain2.trans (hchain1.trans he)
  rw [pe?_progress]
  refine (congrArg (Option.map fun q : PE => q.cu.chain) hbelow).trans ?_
  simp [hempty]

end

theorem sentDown_only (s : State) (c : SysCu) (v : InArray) (rest : List InArray) : (sentDown s c v rest).progress c.lease.id =
    { s with leases := ((sentDown s c v rest).progress c.lease.id).leases } :=
  leasesOnly_trans (leasesOnly_trans (leasesOnly_trans (State.modPE_only s _ _) (State.modPE_only _ _ _)) (State.modPE_only _ _ _))
    (State.progress_only _ _)

/-! ### The bottom row (R146, R218, R324) -/

/-- A CU whose bottom-row result goes out: two vectors on out7, or the ERR that takes their place. -/
def emitted (c : SysCu) (v : InArray) (pe : PE) : PE :=
  match v.err with
  | some w => (pe.pushOut c.lease.plane 7 (Token.ofErr w true)).pushOut c.lease.plane 7 (Token.ofErr w true)
  | none =>
    let r := v.results (fun _ => ([], []))
    ((pe.raiseFlags r.2).pushOut c.lease.plane 7 (Token.vector Ty.f32.tag 0 (ofLanes 32 (r.1.take 16)))).pushOut
      c.lease.plane 7 (Token.vector Ty.f32.tag 0 (ofLanes 32 (r.1.drop 16)))

theorem sysEmit_eq (v : InArray) : sysEmit c v s = s.modPE s.focus.site (emitted c v) := by
  unfold sysEmit emitted
  cases v.err <;> rfl

theorem emitted_place (v : InArray) (pe : PE) : (emitted c v pe).dx = pe.dx ∧ (emitted c v pe).dy = pe.dy := by
  unfold emitted
  split <;> exact ⟨rfl, rfl⟩

/-- Two tokens join the queue of out7. -/
theorem length_out_emitted (v : InArray) (pe : PE) : ((emitted c v pe).outEnd 7).q.length = (pe.outEnd 7).q.length + 2 := by
  unfold emitted
  split
  · simp [outEnd_pushOut]
  · simp only [outEnd_pushOut _ _ _ (show 7 < 8 by decide), List.length_append]
    rfl

section
variable {v : InArray} {rest : List InArray} {b : Batch} {bs : List Batch} (h : s.sysCu? = some c) (hv : c.pe.cu.array = v :: rest)
  (hi : c.region.m ≤ c.i + 1) (hb : c.pe.cu.batches = b :: bs)
include h

section
include hv hi hb

theorem exec_systolicResult_emits (hm : b.mode = 0) (hu : c.lease.unwind = none) (hfree : 2 ≤ c.pe.outFree c.lease.plane 7) :
    exec .systolicResult s =
      .next ((((popped s rest).modPE s.focus.site (emitted c v)).modCu s.focus.site Cu.countResult).progress c.lease.id) := by
  have hi' : ¬ c.i + 1 < c.region.m := Nat.not_lt.mpr hi
  have hfree' : ¬ c.pe.outFree c.lease.plane 7 < 2 := Nat.not_lt.mpr hfree
  change Host.Outcome.next (s.sysLeave.getD s) = _
  simp [State.sysLeave, h, hv, hi', hb, hm, hu, hfree', sysEmit_eq, popped, focus_modCu]

theorem exec_systolicResult_accumulates (hm : b.mode ≠ 0) (hholds : c.pe.holdsTile b.tile = false) (he : v.err = none) :
    exec .systolicResult s =
      .next (((sysAccumulate c b v (popped s rest)).modCu s.focus.site Cu.countResult).progress c.lease.id) := by
  have hi' : ¬ c.i + 1 < c.region.m := Nat.not_lt.mpr hi
  change Host.Outcome.next (s.sysLeave.getD s) = _
  simp [State.sysLeave, h, hv, hi', hb, hm, hholds, he, popped]

end

theorem out_emits (v : InArray) :
    (((((popped s rest).modPE s.focus.site (emitted c v)).modCu s.focus.site Cu.countResult).progress c.lease.id).pe? s.focus.site).map
      (fun q => (q.outEnd 7).q.length) = some ((c.pe.outEnd 7).q.length + 2) := by
  have hpushed := pe?_modPE_site (emitted_place (c := c) v) (pe?_popped (rest := rest) h)
  rw [pe?_progress]
  refine (map_pe?_modCu (k := fun q => (q.outEnd 7).q.length) _ (fun _ => rfl) hpushed).trans ?_
  rw [length_out_emitted]
  rfl

omit h in
theorem emits_only (s : State) (c : SysCu) (v : InArray) (rest : List InArray) :
    (((popped s rest).modPE s.focus.site (emitted c v)).modCu s.focus.site Cu.countResult).progress c.lease.id =
      { s with leases := ((((popped s rest).modPE s.focus.site (emitted c v)).modCu s.focus.site Cu.countResult).progress
        c.lease.id).leases } :=
  leasesOnly_trans (leasesOnly_trans (leasesOnly_trans (State.modPE_only s _ _) (State.modPE_only _ _ _)) (State.modPE_only _ _ _))
    (State.progress_only _ _)

end

end

end Sys2Proof.Proofs.Systolic
end

section
/-! The address patterns of an AG (R108, R155): the turn of a load pattern issues its element as a load of the AG's port. -/

namespace Sys2Proof.Proofs.Patterns

open Sys2Proof Sys2Proof.Machine Sys2Proof.Claims

/-! ### The pattern that issues (R108, R155) -/

section
variable {s : State} {p : Port} {L : Lease} {ag : PE}

theorem standingDue_none (h : s.slotsDue L (s.nextEoi L) = []) : s.standingDue L = s := by
  unfold State.standingDue
  dsimp only
  rw [h]
  rfl

/-- An AG's cycle is the turn of the first pattern of its rotation that can issue. -/
theorem exec_patternIssue_load {k : Nat} {d : BitVec 384} {zero : Bool} {l : Live} (hp : s.portOf? s.focus.site .ag = some p)
    (hag : s.agOf p = some (L, ag)) (hf : s.fabricStopped = false) (hdue : s.slotsDue L (s.nextEoi L) = [])
    (hpick : ((List.range 4).map (fun i => (p.lastPat + 1 + i) % 4)).findSome? (fun k =>
      (s.patsOf p).find? (fun x => x.1 = k && s.patCan p k x.2.1 x.2.2.1 x.2.2.2)) = some (k, d, zero, l)) (hd : patDir d = 0) :
    exec .patternIssue s = .next (((((((s.modPort p.id (fun p => { p with lastPat := k })).patLoad L ag p k d zero l).endInvocations
      s L.id).setHolds L.id).completeInputs L.id)).progress L.id) := by
  have hturn : patternIssue s = .next (((((((s.modPort p.id (fun p => { p with lastPat := k })).patLoad L ag p k d zero
      l).endInvocations s L.id).setHolds L.id).completeInputs L.id)).progress L.id) := by
    unfold patternIssue
    rw [hp]
    dsimp only
    rw [hag]
    dsimp only
    rw [hf, hpick]
    simp only [Bool.false_eq_true, if_false, hd, if_true]
  change execPatternIssue s = _
  unfold execPatternIssue
  rw [hp, Option.bind_some, hag]
  dsimp only
  rw [hf, standingDue_none hdue]
  exact hturn

end

/-! ### What a load pattern's turn leaves in its port (R152, R155) -/

/-- A port's queue holds a request. -/
def Queued (s : State) (id : Nat) (r : Req) : Prop := ∃ q, s.port? id = some q ∧ r ∈ q.queue

section
variable {s : State} {p : Port} {id : Nat} {r : Req}

theorem queued_modPort {f : Port → Port} (hid : ∀ q, (f q).id = q.id) (hq : ∀ q, q.queue ⊆ (f q).queue) (h : Queued s id r) :
    Queued (s.modPort id f) id r := by
  obtain ⟨q, hp, hr⟩ := h
  exact ⟨f q, (port?_modPort s id f hid).trans (congrArg _ hp), hq q hr⟩

theorem queued_pushMarker {ch inv : Nat} {t : Token} (h : Queued s p.id r) : Queued (s.pushMarker p ch inv t) p.id r := by
  unfold State.pushMarker
  cases p.owner with
  | engine => exact h
  | mu site =>
    refine queued_modPort (s := s.fresh.2) (fun _ => rfl) (fun q => ?_) h
    exact List.subset_append_left _ _

theorem queued_patStep {k : Nat} {d : BitVec 384} {l : Live} {x : Live × Bool} (h : Queued s p.id r) : Queued (s.patStep p k d l x) p.id r := by
  have hlive (f : Live → Live) : Queued (s.modLive p.id k f) p.id r := by
    refine queued_modPort (fun _ => rfl) (fun q => ?_) h
    exact List.Subset.refl _
  unfold State.patStep
  dsimp only
  split
  · exact queued_pushMarker (hlive _)
  · exact hlive _

theorem port?_count (s : State) (tid die ev n id : Nat) : (s.count tid die ev n).port? id = s.port? id := by
  unfold State.count
  split <;> rfl

/-- The port whose queue a request has joined. -/
def joined (r : Req) (p : Port) : Port :=
  { p with queue := p.queue ++ [{ r with status := r.firstStatus }], bucket := p.bucket - 1, issued := true }

/-- A load joins its port's queue. -/
theorem queued_issue_load (hp : s.port? id = some p) (ho : r.op = .load false) : Queued (s.issue id r) id { r with status := r.firstStatus } := by
  have hissue : (s.issue id r).port? id = (s.modPort id (joined r)).port? id := by
    simp only [State.issue, hp, ho, ReqOp.writes, ReqOp.logged, Bool.false_and, Bool.false_eq_true, if_false, port?_count]
    rw [← ho]
    rfl
  refine ⟨joined r p, hissue.trans ((port?_modPort s id (joined r) (fun _ => rfl)).trans (congrArg _ hp)), ?_⟩
  simp [joined]

theorem found_modPort {f : Port → Port} (hid : ∀ q, (f q).id = q.id) (h : ∃ q, s.port? id = some q) : ∃ q, (s.modPort id f).port? id = some q := by
  obtain ⟨q, hq⟩ := h
  exact ⟨f q, (port?_modPort s id f hid).trans (congrArg _ hq)⟩

/-- A port whose pattern has kept its counters is still there, and no number has been given. -/
theorem snapshot_keeps {L : Lease} {k : Nat} {l : Live} (b : Bool) (hp : ∃ q, s.port? p.id = some q) :
    (∃ q, (if b then s.snapshot L p k l else s).port? p.id = some q) ∧ (if b then s.snapshot L p k l else s).nextId = s.nextId := by
  cases b with
  | false => exact ⟨hp, rfl⟩
  | true =>
    simp only [if_true]
    unfold State.snapshot
    split
    · exact ⟨hp, rfl⟩
    · exact ⟨found_modPort (fun _ => rfl) hp, rfl⟩

/-- The turn of a load pattern that stands at an aligned element of its loops. -/
theorem patLoad_eq {L : Lease} {ag : PE} {k : Nat} {d : BitVec 384} {l : Live} {site : SiteRef} (ho : p.owner = .mu site)
    (hover : l.over d = none) (hva : l.va d % 2 ^ patEsize d = 0) :
    s.patLoad L ag p k d false l = (((if patInput d then s.snapshot L p k l else s).fresh.2.issue p.id
      (patRequest p (if patInput d then s.snapshot L p k l else s).nextId L ag l.eois (.load false) (l.va d) d 0
        (.chan site (patChan d)))).patStep p k d l (Live.next d l)) := by
  have hfault : patFault d l false = none := by simp [patFault, hva]
  unfold State.patLoad
  simp only [Bool.false_eq_true, if_false, hover, hfault, ho]
  rfl

/-- The turn of a load pattern issues one load, of the element that its counters stand at. -/
theorem feedsOne_patLoad {L : Lease} {ag : PE} {k : Nat} {d : BitVec 384} {l : Live} {site : SiteRef} {q : Port}
    (hp : s.port? p.id = some q) (ho : p.owner = .mu site) (hover : l.over d = none) (hva : l.va d % 2 ^ patEsize d = 0) :
    FeedsOne s (s.patLoad L ag p k d false l) p d l := by
  obtain ⟨⟨q0, hq0⟩, hnext⟩ := snapshot_keeps (L := L) (k := k) (l := l) (patInput d) ⟨q, hp⟩
  have hport : (if patInput d then s.snapshot L p k l else s).fresh.2.port? p.id = some q0 := hq0
  rw [patLoad_eq ho hover hva]
  obtain ⟨q', hq', hr⟩ := queued_patStep (k := k) (d := d) (l := l) (x := Live.next d l)
    (queued_issue_load (r := patRequest p (if patInput d then s.snapshot L p k l else s).nextId L ag l.eois (.load false) (l.va d) d 0
      (.chan site (patChan d))) hport rfl)
  exact ⟨q', _, hq', hr, hnext, rfl, rfl, rfl, rfl, rfl⟩

end

end Sys2Proof.Proofs.Patterns
end

section
/-! The checkers (R222, R223, R225): what a checker finds becomes a count, poison, or the PIPE_CHECK of the instruction whose result it
refused; with the arrays and the patterns this settles the statement of the AUs' units. -/

namespace Sys2Proof.Proofs.Checkers

open Sys2Proof Sys2Proof.Machine Sys2Proof.Safety Sys2Proof.Claims Sys2Proof.Proofs.Moves Sys2Proof.Proofs.Replies Sys2Proof.Proofs.Fabric
  Sys2Proof.Proofs.Engines Sys2Proof.Proofs.Firing Sys2Proof.Proofs.Systolic Sys2Proof.Proofs.Patterns

/-! ### Counts (R223) -/

section
variable {s : State}

theorem exec_checkerMismatch (e : CheckEvent) : exec (.checkerMismatch e) s = execCheckerMismatch e s := rfl

theorem exec_corrected (die array : Nat) (hp : s.power ≠ .off) :
    exec (.checkerMismatch (.corrected die array)) s = .next (s.countErr die array 1 0) := by
  simp [exec_checkerMismatch, execCheckerMismatch, hp]

/-- The counts of an array, of which it has at most one entry. -/
theorem find_countErr (die array corr unc : Nat) :
    ((s.countErr die array corr unc).errCounts.find? (fun c => c.1 = die && c.2.1 = array)).map (fun c => c.2.2) =
      some ((((s.errCounts.find? (fun c => c.1 = die && c.2.1 = array)).map (fun c => c.2.2.1)).getD 0) + corr,
        ((s.errCounts.find? (fun c => c.1 = die && c.2.1 = array)).map (fun c => c.2.2.2)).getD 0 + unc) := by
  simp [State.countErr, Function.comp_def]

/-! ### Poison (R222, R225) -/

theorem mem_setMember (l : List Nat) (k : Nat) : k ∈ setMember l k true := by
  simp [setMember]

theorem exec_uncorrectable {pa : Nat} (die array : Nat) (hp : s.power ≠ .off) (hpa : s.validPa pa = true) :
    exec (.checkerMismatch (.uncorrectable die array pa)) s = .next ((s.countErr die array 0 1).breakLine pa) := by
  simp [exec_checkerMismatch, execCheckerMismatch, hp, hpa]

theorem exec_integrity {pa : Nat} (hp : s.power ≠ .off) (hpa : s.validPa pa = true) :
    exec (.checkerMismatch (.integrity pa)) s = .next { s with tagFailed := setMember s.tagFailed (lineOf pa) true } := by
  simp [exec_checkerMismatch, execCheckerMismatch, hp, hpa]

/-- A word that is among the bad ones of a scratchpad is broken at each of its bytes. -/
theorem broken_of_mem {m : Mu} {off : Nat} (h : 8 * (off / 8) ∈ m.bad) : m.broken off 1 = true := by
  refine List.any_eq_true.mpr ⟨_, h, ?_⟩
  simp only [Bool.and_eq_true, decide_eq_true_eq]
  omega

section
variable {x dx dy off : Nat} {L : Lease} {pe : PE} (hL : s.lease? x = some L)
include hL

theorem exec_scratch (hp : s.power ≠ .off) : exec (.checkerMismatch (.scratch x dx dy off)) s =
    .next ((s.countErr (L.dieAt dx dy) arrayScratch 0 1).modMu ⟨x, dx, dy⟩ (fun m => { m with bad := 8 * (off / 8) :: m.bad })) := by
  simp [exec_checkerMismatch, execCheckerMismatch, hp, State.breakScratch, hL]

theorem broken_scratch (die : Nat) (hpe : L.pe? dx dy = some pe) :
    (((s.countErr die arrayScratch 0 1).modMu ⟨x, dx, dy⟩ (fun m => { m with bad := 8 * (off / 8) :: m.bad })).pe? ⟨x, dx, dy⟩).map
      (fun p => p.mu.broken off 1) = some true := by
  have hfound : (s.countErr die arrayScratch 0 1).pe? ⟨x, dx, dy⟩ = some pe := (pe?_of_lease? (site := ⟨x, dx, dy⟩) hL).trans hpe
  rw [pe?_modMu _ hfound]
  exact congrArg some (broken_of_mem (List.mem_cons_self ..))

end

end

/-! ### The check of a datapath (R222, R223) -/

section
variable {s : State} {i : Instr} {c : Site}

/-- An instruction whose result is replaced by its own ERR has taken its operands and sent that ERR. -/
theorem ran_fail {cause : Nat} (h : Fires i s c) (hl : Lands i.head) :
    Ran (Deed.sending s c i (both i.head (c.ownErr cause))) s c (c.fail i.head cause (c.consume (c.taken i.uses) s)) := by
  have hsent : c.fail i.head cause (c.consume (c.taken i.uses) s) =
      ((c.consume (c.taken i.uses) s).modPE c.site (fun p => p)).modPE c.site
        (fun pe => PE.putAll pe c.lease.plane (both i.head (c.ownErr cause))) := by
    rw [modPE_id]
    exact emit_both (t := c.ownErr cause) (fun _ => hl) _ c.site c.lease.plane
  rw [hsent]
  exact ran_puts h.site rfl (RegChange.none _)

/-- A slot whose result a checker refuses fires, and its site counts the PIPE_CHECK. -/
theorem exec_pipe {x dx dy k : Nat} (hd : decodeWord (s.slotWord ⟨x, dx, dy⟩ k) = .ok i)
    (hw : checkedOp ((s.slotWord ⟨x, dx, dy⟩ k).extractLsb' 48 8).toNat = true)
    (h : Fires i { s with focus := Focus.slotAt ⟨x, dx, dy⟩ k } c) :
    exec (.checkerMismatch (.pipe x dx dy k)) s = .next ((c.fail i.head cPipeCheck
      (c.consume (c.taken i.uses) { s with focus := Focus.slotAt ⟨x, dx, dy⟩ k })).pipeAt c.lease c.site.dx c.site.dy) := by
  have hfired : State.pipeCheck s ⟨x, dx, dy⟩ k = fire i always (errToBoth i)
      (fun c s => (c.fail i.head cPipeCheck s).pipeAt c.lease c.site.dx c.site.dy) { s with focus := Focus.slotAt ⟨x, dx, dy⟩ k } := by
    unfold State.pipeCheck
    dsimp only
    rw [hd]
    dsimp only
    rw [hw]
    rfl
  exact (exec_checkerMismatch _).trans (hfired.trans (fireUsing_acts h rfl))

end

/-- Settles O55, clause by clause: what `exec` makes of the event, then what that leaves in the units it touches. -/
theorem regionsPatternsAndCheckersAct : Obligations.RegionsPatternsAndCheckersAct := by
  unfold Obligations.RegionsPatternsAndCheckersAct
  refine ⟨?enters, ?down, ?emits, ?accumulates, ?issues, ?feeds, ?corrected, ?uncorrectable, ?integrity, ?scratch, ?pipe⟩
  case enters =>
    intro s c a p hc ha hp hlen hroom
    exact ⟨_, exec_systolicActivation hc ha hp hlen hroom, array_activation (a := a) (p := p) hc, activation_only a p⟩
  case down =>
    intro s c v rest below hc hv hi hb he
    exact ⟨_, exec_systolicResult_down hc hv hi hb he, array_sentDown (rest := rest) hc v,
      chain_sentDown (rest := rest) hc v hb he, sentDown_only s c v rest⟩
  case emits =>
    intro s c v rest b bs hc hv hi hb hm hu hfree
    exact ⟨_, exec_systolicResult_emits hc hv hi hb hm hu hfree, out_emits (rest := rest) hc v, emits_only s c v rest⟩
  case accumulates =>
    intro s c v rest b bs hc hv hi hb hm hholds he
    exact exec_systolicResult_accumulates hc hv hi hb hm hholds he
  case issues =>
    intro s p L ag k d l hp hag hf hdue hpick hd
    exact exec_patternIssue_load hp hag hf hdue hpick hd
  case feeds =>
    intro s p q L ag k d l site hp ho hover hva
    exact feedsOne_patLoad hp ho hover hva
  case corrected =>
    intro s die array hp
    exact ⟨_, exec_corrected die array hp, rfl, find_countErr die array 1 0⟩
  case uncorrectable =>
    intro s die array pa hp hpa
    exact ⟨_, exec_uncorrectable die array hp hpa, mem_setMember _ _, rfl⟩
  case integrity =>
    intro s pa hp hpa
    exact ⟨_, exec_integrity hp hpa, mem_setMember _ _, rfl⟩
  case scratch =>
    intro s x dx dy off L pe hp hL hpe
    exact ⟨_, exec_scratch hL hp, rfl, broken_scratch hL _ hpe⟩
  case pipe =>
    intro s x dx dy k i c hd hw hl h
    exact ⟨_, exec_pipe hd hw h, ran_fail h hl⟩

end Sys2Proof.Proofs.Checkers
end

section
/-! The canonical form of memory as an invariant (`Safety.Inv`; assumption 3): what an operation's answer owes to it, of each type
that answers have, and how the forms in which the operations are written keep it. In what follows a lemma about an operation `f` is
named by the type of its answer: `inv_f` of a state, or of the state of a pair, `ifSome_f`, `ifOk_f`, and `ends_f` of an outcome. -/

namespace Sys2Proof.Proofs.MemoryForm

open Sys2Proof Sys2Proof.Machine Sys2Proof.Safety

/-- What an outcome answers with, if it answers, keeps the canonical form. -/
def Ends : Host.Outcome State Fault Refusal → Prop
  | .next t => Safety.Inv t
  | _ => True

/-- The state that an operation yields, if it yields one, keeps the canonical form. -/
def IfSome : Option State → Prop
  | some t => Safety.Inv t
  | none => True

/-- The state that an operation yields, if it is not refused, keeps the canonical form. -/
def IfOk : Except Nat State → Prop
  | .ok t => Safety.Inv t
  | .error _ => True

section
variable {s t u : State}

/-- A state with the memory of one that keeps the form. Where the two memories are the same field, `e` is `by rfl`: a tactic block
is elaborated last, when both states are known. -/
theorem kept (h : Safety.Inv s) (e : t.mem = s.mem) : Safety.Inv t := (congrArg (Memory.wf · = true) e).mpr h

/-- An operation that is known to change other fields only. -/
theorem inv_of_only (e : t = u) (h : Safety.Inv u) : Safety.Inv t := e ▸ h

theorem inv_of_eq {α : Type} {r : α × State} {a : α} (hr : Safety.Inv r.2) (e : r = (a, t)) : Safety.Inv t := by
  rw [e] at hr
  exact hr

theorem inv_of_some {o : Option State} (ho : IfSome o) (e : o = some t) : Safety.Inv t := by
  rw [e] at ho
  exact ho

theorem inv_of_ok {o : Except Nat State} (ho : IfOk o) (e : o = .ok t) : Safety.Inv t := by
  rw [e] at ho
  exact ho

theorem inv_of_next {o : Host.Outcome State Fault Refusal} (ho : Ends o) (e : o = .next t) : Safety.Inv t := by
  rw [e] at ho
  exact ho

theorem inv_ite {p : Prop} [Decidable p] (ht : Safety.Inv t) (hu : Safety.Inv u) : Safety.Inv (if p then t else u) :=
  iteInduction (motive := Safety.Inv) (fun _ => ht) (fun _ => hu)

theorem inv_foldl {α : Type} {f : State → α → State} {l : List α} (hf : ∀ t a, Safety.Inv t → Safety.Inv (f t a))
    (h : Safety.Inv s) : Safety.Inv (l.foldl f s) :=
  List.foldlRecOn (motive := Safety.Inv) l f h (fun t ht a _ => hf t a ht)

theorem ends_ite {p : Prop} [Decidable p] {a b : Host.Outcome State Fault Refusal} (ha : Ends a) (hb : Ends b) :
    Ends (if p then a else b) :=
  iteInduction (motive := Ends) (fun _ => ha) (fun _ => hb)

theorem ifSome_ite {p : Prop} [Decidable p] {a b : Option State} (ha : IfSome a) (hb : IfSome b) : IfSome (if p then a else b) :=
  iteInduction (motive := IfSome) (fun _ => ha) (fun _ => hb)

theorem ifOk_ite {p : Prop} [Decidable p] {a b : Except Nat State} (ha : IfOk a) (hb : IfOk b) : IfOk (if p then a else b) :=
  iteInduction (motive := IfOk) (fun _ => ha) (fun _ => hb)

theorem inv_iteSnd {α : Type} {p : Prop} [Decidable p] {a b : α × State} (ha : Safety.Inv a.2) (hb : Safety.Inv b.2) :
    Safety.Inv (if p then a else b).2 :=
  iteInduction (motive := fun r : α × State => Safety.Inv r.2) (fun _ => ha) (fun _ => hb)

theorem inv_foldlSnd {α β : Type} {f : α × State → β → α × State} {l : List β} {r : α × State}
    (hf : ∀ r b, Safety.Inv r.2 → Safety.Inv (f r b).2) (hr : Safety.Inv r.2) : Safety.Inv (l.foldl f r).2 :=
  List.foldlRecOn (motive := fun r : α × State => Safety.Inv r.2) l f hr (fun r hr b _ => hf r b hr)

theorem ifSome_foldl {α : Type} {f : Option State → α → Option State} {l : List α} {o : Option State}
    (hf : ∀ o a, IfSome o → IfSome (f o a)) (ho : IfSome o) : IfSome (l.foldl f o) :=
  List.foldlRecOn (motive := IfSome) l f ho (fun o ho a _ => hf o a ho)

theorem ifSome_map {α : Type} {f : α → State} {o : Option α} (hf : ∀ a, Safety.Inv (f a)) : IfSome (o.map f) := by
  cases o with
  | none => trivial
  | some a => exact hf a

theorem inv_getD {o : Option State} (ho : IfSome o) (h : Safety.Inv s) : Safety.Inv (o.getD s) := by
  cases o with
  | none => exact h
  | some t => exact ho

theorem ends_of_mem {o : Host.Outcome State Fault Refusal} (h : Safety.Inv s) (e : ∀ t, o = .next t → t.mem = s.mem) :
    Ends o := by
  cases o with
  | next t => exact kept h (e t rfl)
  | fault _ => trivial
  | refused _ => trivial

end

end Sys2Proof.Proofs.MemoryForm
end

section
/-! Memory and what is nearest to it keep the canonical form: the operations that write memory, those over leases, sites and ports,
physical lines, race tags and translation (R151 to R189). -/

namespace Sys2Proof.Proofs.MemoryForm

open Sys2Proof Sys2Proof.Machine Sys2Proof.Claims Sys2Proof.Proofs Sys2Proof.Proofs.MemoryFrame

section
variable {s : State} (h : Safety.Inv s)
include h

/-! ### Operations over leases, sites and channels (R131, R230, R273) -/

theorem inv_modLease {id : Nat} {f : Lease → Lease} : Safety.Inv (s.modLease id f) := kept h (by rfl)

theorem inv_modPE {site : SiteRef} {f : PE → PE} : Safety.Inv (s.modPE site f) := kept h (by rfl)

theorem inv_modPort {id : Nat} {f : Port → Port} : Safety.Inv (s.modPort id f) := kept h (by rfl)

theorem inv_modCtx {tid : Nat} {f : Ctx → Ctx} : Safety.Inv (s.modCtx tid f) := kept h (by rfl)

theorem inv_modTask {die idx : Nat} {f : Machine.Task → Machine.Task} : Safety.Inv (s.modTask die idx f) := kept h (by rfl)

theorem inv_modSl {slot : Nat} {f : StartList → StartList} : Safety.Inv (s.modSl slot f) := kept h (by rfl)

theorem inv_modCmd {id : Nat} {f : EngCmd → EngCmd} : Safety.Inv (s.modCmd id f) := kept h (by rfl)

theorem inv_raise {t : Trap} : Safety.Inv (s.raise t) := kept h (mem_raise s t)

theorem inv_putBack {ts : List Trap} : Safety.Inv (s.putBack ts) := kept h (by rfl)

theorem inv_raiseErr {lease : Nat} {w : Word} : Safety.Inv (s.raiseErr lease w) := kept h (mem_raiseErr s lease w)

theorem inv_sendOne {site : SiteRef} {plane : Nat} {t : BitVec 9} {tok : Token} : Safety.Inv (s.sendOne site plane t tok) :=
  kept h (mem_sendOne s site plane t tok)

theorem inv_emit {site : SiteRef} {plane : Nat} {l : List (BitVec 9 × Token)} : Safety.Inv (s.emit site plane l) :=
  kept h (mem_emit s site plane l)

theorem inv_progress {lease : Nat} : Safety.Inv (s.progress lease) := kept h (by rfl)

theorem inv_count {tid die ev n : Nat} : Safety.Inv (s.count tid die ev n) := kept h (mem_count s tid die ev n)

theorem inv_retire {x y : Nat} : Safety.Inv (s.retire x y) := inv_of_only (Budgets.retire_only s x y) (kept h (by rfl))

theorem inv_sitePipe {x y : Nat} : Safety.Inv (s.sitePipe x y) := inv_ite (inv_retire (kept h (by rfl))) (kept h (by rfl))

theorem inv_pipeAt {L : Lease} {dx dy : Nat} : Safety.Inv (s.pipeAt L dx dy) := inv_sitePipe h

/-! ### The common way in which an instruction fires (R271 to R274) -/

theorem inv_raiseErrs {c : Site} {ts : List Token} : Safety.Inv (c.raiseErrs ts s) := kept h (mem_raiseErrs s c ts)

theorem inv_reply {c : Site} {hd : Head} {t : Token} : Safety.Inv (c.reply hd t s) := inv_emit h

theorem inv_fail {c : Site} {hd : Head} {cause : Nat} : Safety.Inv (c.fail hd cause s) := inv_reply h

/-! ### Instructions in flight (R126, R272) -/

theorem inv_setFlight {site : SiteRef} {slot : Nat} {op : FlightOp} : Safety.Inv (s.setFlight site slot op) := kept h (by rfl)

theorem inv_endFlight {site : SiteRef} {slot : Nat} : Safety.Inv (s.endFlight site slot) := kept h (by rfl)

theorem inv_land {a : Air} {t : Token} : Safety.Inv (s.land a t) := inv_emit (kept h (by rfl))

theorem inv_answer {site : SiteRef} {slot : Nat} {t : Air → Token} : Safety.Inv (s.answer site slot t) := by
  unfold State.answer
  split
  · exact h
  · exact inv_ite (inv_land h) (kept h (by rfl))

theorem inv_progressLanding {a : Air} {t : Token} : Safety.Inv (progressLanding a t s) := inv_ite (inv_land h) h

/-! ### Stream ports (R151 to R153, R176, R179, R180) -/

theorem inv_setParty {r : Party} : Safety.Inv (s.setParty r) := inv_of_only (Teams.setParty_eq s r) (kept h (by rfl))

theorem inv_beginParty {id : Nat} : Safety.Inv (s.beginParty id) := inv_setParty h

theorem inv_endParty {id : Nat} : Safety.Inv (s.endParty id) := inv_setParty h

theorem inv_endSfr {id : Nat} : Safety.Inv (s.endSfr id) := kept h (mem_endSfr s id)

theorem inv_acquire {party : Nat} {scope : BitVec 3} : Safety.Inv (s.acquire party scope) := kept h (by rfl)

theorem inv_releaseReplay {tids causes : Nat → Bool} : Safety.Inv (s.releaseReplay tids causes) := kept h (by rfl)

theorem inv_fenceCount {port party : Nat} {wide up : Bool} : Safety.Inv (s.fenceCount port party wide up) := kept h (by rfl)

theorem inv_degrade {lease inv : Nat} {origin : Word} : Safety.Inv (s.degrade lease inv origin) :=
  kept h (mem_degrade s lease inv origin)

theorem inv_closePort {id : Nat} : Safety.Inv (s.closePort id) := by
  unfold State.closePort
  dsimp only
  split
  · exact h
  · split <;> exact h

/-! ### Physical lines (R161, R169, R172 to R174, R225) -/

theorem inv_modL2 {die : Nat} {key : LineKey} {f : L2Line → L2Line} : Safety.Inv (s.modL2 die key f) := kept h (by rfl)

theorem inv_putMem {pa : Nat} {v : Line} {poison : Bool} : Safety.Inv (s.putMem pa v poison) := by
  unfold Safety.Inv State.putMem
  dsimp only
  exact memPutLine_wf pa v h

theorem inv_sealUnder {pa : Nat} {k : List Byte} : Safety.Inv (s.sealUnder pa k) := kept h (by rfl)

theorem inv_bared {pa : Nat} {t : BitVec 32} : Safety.Inv (s.bared pa t) := kept h (by rfl)

theorem inv_sealLine {loc : Loc} : Safety.Inv (s.sealLine loc) := kept h (Homes.quiet_sealLine s loc).mem

theorem inv_putLine {loc : Loc} {v : Line} {poison : Bool} : Safety.Inv (s.putLine loc v poison) := by
  unfold State.putLine
  dsimp only
  split
  · exact inv_modL2 (inv_sealLine h)
  · split
    · exact inv_putMem (inv_sealLine h)
    · exact inv_sealLine h

theorem inv_writeWord {pa : Nat} {w : Word} : Safety.Inv (s.writeWord pa w) := inv_putLine h

theorem inv_evict {l : L2Line} : Safety.Inv (s.evict l) := by
  unfold State.evict
  dsimp only
  split
  · exact inv_ite (inv_putMem (kept h (by rfl))) (kept h (by rfl))
  · exact h

theorem ifSome_makeRoom {die off pick : Nat} {unb : Bool} : IfSome (s.makeRoom die off pick unb) := by
  unfold State.makeRoom
  dsimp only
  split
  · trivial
  · split
    · exact h
    · split
      · exact inv_evict h
      · trivial

theorem inv_underSlot {pa : Nat} {loc : Loc} {origin : Word} : Safety.Inv (s.underSlot pa loc origin) :=
  inv_ite h (inv_ite (inv_bared (inv_putMem h)) (inv_ite (inv_sealUnder (inv_putMem h)) (inv_putMem h)))

theorem inv_settleCode {loc : Loc} {origin : Word} : Safety.Inv (s.settleCode loc origin) := by
  unfold State.settleCode
  dsimp only
  split
  · exact h
  · split
    · exact h
    · exact inv_ite (inv_putMem (kept h (by rfl))) (inv_ite h (inv_ite (inv_putMem (kept h (by rfl))) (inv_underSlot h)))

theorem inv_fillLine {loc : Loc} {tid pick : Nat} : Safety.Inv (s.fillLine loc tid pick) := by
  unfold State.fillLine
  dsimp only
  split
  · split
    · exact inv_count h
    · split
      next e1 => exact kept (inv_of_some (ifSome_makeRoom (inv_count h)) e1) (by rfl)
      · exact inv_count h
  · exact inv_ite (inv_count h) h

theorem inv_unbAlloc {loc : Loc} {pick : Nat} : Safety.Inv (s.unbAlloc loc pick) :=
  inv_ite h (kept (inv_getD (ifSome_makeRoom h) h) (by rfl))

theorem inv_modDir {pa : Nat} {f : DirEntry → DirEntry} : Safety.Inv (s.modDir pa f) := kept h (by rfl)

theorem inv_cdPut {loc : Loc} {v : Line} : Safety.Inv (s.cdPut loc v) :=
  inv_putLine (inv_foldl (fun _ _ hu => kept hu (by rfl)) h)

/-! ### Span ports (R39 to R44) -/

theorem ifSome_sendAbroad {va : Nat} {data : Option Line} : IfSome (s.sendAbroad va data) := ifSome_map fun _ => kept h (by rfl)

/-! ### Race tags (R186 to R189) -/

theorem inv_putSpill {t : RaceTag} : Safety.Inv (s.putSpill t) := by
  unfold State.putSpill
  split
  · exact inv_foldl (fun _ _ hu => inv_writeWord hu) h
  · exact h

theorem inv_putTag {t : RaceTag} : Safety.Inv (s.putTag t) := inv_putSpill (kept h (by rfl))

theorem inv_of_tagFor {t : RaceTag} {u : State} {die pa : Nat} (e : s.tagFor die pa = some (t, u)) : Safety.Inv u := by
  unfold State.tagFor at e
  dsimp only at e
  split at e
  · cases e
    exact h
  · split at e
    · cases e
      exact h
    · split at e
      · cases e
        exact h
      · cases e

/-- A race check that lets an access go on has at most moved a tag, whose records may spill to memory. -/
theorem inv_of_raceCheck {u : State} {die pa me sfr : Nat} {k : RaceKind} (e : s.raceCheck die pa k me sfr = .go u) :
    Safety.Inv u := by
  unfold State.raceCheck at e
  split at e
  · cases e
    exact h
  · split at e
    · cases e
    next e' =>
      split at e
      · cases e
      · split at e
        · cases e
        · cases e
          exact inv_putTag (inv_of_tagFor h e')

/-! ### Translation (R162 to R168, R173, R174, R203) -/

theorem inv_walk2 {vmid ipa n node : Nat} : Safety.Inv (s.walk2 vmid ipa n node).2 := by
  induction n generalizing s node with
  | zero => exact h
  | succ n ih =>
    unfold State.walk2
    dsimp only
    split
    · exact ih (kept h (by rfl))
    · split
      · exact h
      · split
        · exact h
        · split
          · split <;> exact h
          · exact ih (kept h (by rfl))

theorem inv_stage2 {vmid ipa : Nat} : Safety.Inv (s.stage2 vmid ipa).2 := by
  unfold State.stage2
  split
  · exact h
  · split
    · exact h
    · split
      · exact inv_walk2 h
      · exact h

theorem inv_combine {c : Ctx} {va level entryPa : Nat} {e : Word} : Safety.Inv (s.combine c va level entryPa e).2 := by
  unfold State.combine
  refine inv_iteSnd h ?_
  have hstage := inv_stage2 (vmid := c.vmid) (ipa := entFrame e + va % 2 ^ levelShift level) h
  generalize s.stage2 c.vmid (entFrame e + va % 2 ^ levelShift level) = r at hstage ⊢
  obtain ⟨_ | _, s1⟩ := r
  · exact hstage
  · exact hstage

theorem inv_walk1 {c : Ctx} {va n node : Nat} : Safety.Inv (s.walk1 c va n node).2 := by
  induction n generalizing s node with
  | zero => exact h
  | succ n ih =>
    unfold State.walk1
    dsimp only
    split
    · exact ih (kept h (by rfl))
    · split
      next e => exact inv_of_eq (inv_stage2 h) e
      next e =>
        have h1 := inv_of_eq (inv_stage2 h) e
        split
        · exact h1
        · split
          · exact h1
          · split
            · exact inv_combine h1
            · exact ih (kept h1 (by rfl))

theorem inv_writeEntry {pa : Nat} {e : Word} : Safety.Inv (s.writeEntry pa e) := inv_cdPut h

theorem inv_walk {c : Ctx} {die va : Nat} : Safety.Inv (s.walk c die va).2 := by
  unfold State.walk
  dsimp only
  split
  · exact inv_count h
  · split
    · exact inv_count h
    next e2 =>
      have h2 := inv_of_eq (inv_walk1 (inv_count h)) e2
      split
      · exact h2
      · exact inv_writeEntry h2

theorem inv_tlbGet {die slice : Nat} {c : Ctx} {va : Nat} : Safety.Inv (s.tlbGet die slice c va).2 := by
  unfold State.tlbGet
  split <;> exact h

theorem inv_install {c : Ctx} {die va : Nat} {l : Leaf} : Safety.Inv (s.install c die va l) :=
  inv_ite (kept h (by rfl)) (kept h (by rfl))

theorem inv_lookup {c : Ctx} {die va : Nat} : Safety.Inv (s.lookup c die va).2 := by
  unfold State.lookup
  dsimp only
  split
  · exact inv_tlbGet h
  · split
    next e1 => exact kept (inv_of_eq (inv_tlbGet h) e1) (by rfl)
    · split
      next e3 => exact kept (inv_of_eq (inv_tlbGet (inv_count h)) e3) (by rfl)
      · exact inv_count h

theorem inv_tlbDrop {die vmid : Nat} {asid : Option Nat} {base size : Nat} : Safety.Inv (s.tlbDrop die vmid asid base size) :=
  kept h (by rfl)

theorem inv_setDirty {c : Ctx} {die va : Nat} {l : Leaf} : Safety.Inv (s.setDirty c die va l).2 := by
  unfold State.setDirty
  dsimp only
  split
  · exact h
  · split
    · exact inv_writeEntry h
    · exact h

theorem inv_moveTag {die num : Nat} {t : RaceTag} : Safety.Inv (s.moveTag die num t) := by
  unfold State.moveTag
  split
  · exact h
  next e => exact inv_putTag (inv_of_tagFor h e)

theorem inv_rekey {old size newDie new : Nat} : Safety.Inv (s.rekey old size newDie new) :=
  inv_foldl (fun _ _ hu => inv_moveTag hu) (kept h (by rfl))

theorem inv_clearMem {a n : Nat} : Safety.Inv (s.clearMem a n) := memory_wf_filter _ h

theorem inv_releasePage {c : Ctx} {l : Leaf} : Safety.Inv (s.releasePage c l) := kept h (by rfl)

theorem inv_hwLeaf {c : Ctx} {tdie va : Nat} {l : Leaf} {e : Word} : Safety.Inv (s.hwLeaf c tdie va l e) :=
  inv_releasePage (inv_tlbDrop (inv_writeEntry h))

theorem inv_sealFrame {f : Nat} {l : Leaf} : Safety.Inv (s.sealFrame f l) := inv_ite h (kept h (by rfl))

theorem inv_lateAssign {c : Ctx} {tdie va : Nat} {l : Leaf} : Safety.Inv (s.lateAssign c tdie va l).2 := by
  unfold State.lateAssign
  split
  · exact h
  · split
    · exact h
    · extract_lets rest die upi lines s1 s2 s3 s4 e
      have h3 : Safety.Inv s3 := by
        refine inv_foldl (fun u x hu => ?_) (inv_sealFrame (inv_clearMem (kept h (by rfl))))
        dsimp only
        split
        next e => exact kept (inv_of_some (ifSome_makeRoom (inv_putMem hu)) e) (by rfl)
        · exact inv_putMem hu
      exact inv_iteSnd (kept h (by rfl)) (inv_releaseReplay (inv_hwLeaf (inv_rekey h3)))

theorem inv_migrate {c : Ctx} {tdie va to_ : Nat} {l : Leaf} : Safety.Inv (s.migrate c tdie va l to_).2 := by
  unfold State.migrate
  extract_lets die upi lines s1 r
  have hr : IfSome r := by
    refine ifSome_foldl (fun o x ho => ?_) (kept h (by rfl) : Safety.Inv s1)
    cases o with
    | none => trivial
    | some u =>
      dsimp only
      split
      · exact inv_unbAlloc ho
      · trivial
  clear_value r
  refine inv_iteSnd (kept h (by rfl)) ?_
  cases r with
  | none => exact h
  | some s2 => exact inv_hwLeaf (inv_rekey hr)

theorem inv_translate {c : Ctx} {die va : Nat} : Safety.Inv (s.translate c die va).2 := by
  unfold State.translate
  split
  next e1 => exact inv_of_eq (inv_lookup h) e1
  next e2 =>
    have h2 := inv_of_eq (inv_lookup h) e2
    split
    next e3 =>
      have h3 := inv_of_eq (inv_walk h2) e3
      exact inv_ite h3 (inv_install h3)
    next e4 => exact inv_of_eq (inv_walk h2) e4

theorem inv_readyLeaf {c : Ctx} {die va : Nat} {wr : Bool} {l : Leaf} : Safety.Inv (s.readyLeaf c die va wr l).2 := by
  unfold State.readyLeaf
  split
  · exact h
  · split
    next e1 => exact inv_of_eq (inv_setDirty h) e1
    next e2 =>
      have h2 := inv_of_eq (inv_setDirty h) e2
      split
      next e3 =>
        have h3 := inv_of_eq (inv_translate h2) e3
        split
        next e4 => exact inv_of_eq (inv_setDirty h3) e4
        next e5 => exact inv_of_eq (inv_setDirty h3) e5
      next e6 => exact inv_of_eq (inv_translate h2) e6

theorem inv_cdTry {tid va : Nat} {wr checked : Bool} {perm : Leaf → Bool} {again : State → Except Nat Loc × State}
    (hagain : ∀ u, Safety.Inv u → Safety.Inv (again u).2) : Safety.Inv (s.cdTry tid va wr checked perm again).2 := by
  unfold State.cdTry
  dsimp only
  split
  · exact h
  · split
    · exact h
    · split
      · exact h
      · split
        · exact h
        · split
          next e => exact inv_of_eq (inv_translate h) e
          next e =>
            have h1 := inv_of_eq (inv_translate h) e
            split
            · exact h1
            · split
              next e2 => exact inv_of_eq (inv_readyLeaf h1) e2
              next e2 =>
                have h2 := inv_of_eq (inv_readyLeaf h1) e2
                refine inv_iteSnd h2 (inv_iteSnd h2 (inv_iteSnd (inv_iteSnd ?_ h2) (inv_ite (inv_unbAlloc h2) h2)))
                split
                next e3 =>
                  have h3 := inv_of_eq (inv_lateAssign h2) e3
                  split
                  next e4 => exact inv_of_eq (inv_translate h3) e4
                  next e4 => exact inv_of_eq (inv_translate h3) e4
                next e3 => exact hagain _ (inv_of_eq (inv_lateAssign h2) e3)
                next e3 => exact inv_of_eq (inv_lateAssign h2) e3

theorem inv_cdLocFor {tid va : Nat} {wr checked : Bool} {perm : Leaf → Bool} :
    Safety.Inv (s.cdLocFor tid va wr checked perm).2 :=
  inv_cdTry h fun _ hu => inv_cdTry hu fun _ hv => hv

theorem inv_cdLoc {tid va : Nat} {wr checked : Bool} : Safety.Inv (s.cdLoc tid va wr checked).2 := inv_cdLocFor h

theorem inv_cdAbroad {tid va : Nat} {data : Option Line} : Safety.Inv (s.cdAbroad tid va data).2 := by
  unfold State.cdAbroad
  dsimp only
  split
  · exact h
  · split
    · exact h
    next e1 => split <;> exact kept (inv_of_some (ifSome_sendAbroad h) e1) (by rfl)

theorem inv_cdReadLine {tid va : Nat} {checked : Bool} : Safety.Inv (s.cdReadLine tid va checked).2 := by
  unfold State.cdReadLine
  dsimp only
  split
  · exact inv_cdAbroad h
  · split
    next e1 => exact inv_of_eq (inv_cdLoc h) e1
    next e2 => exact inv_settleCode (inv_of_eq (inv_cdLoc h) e2)

theorem inv_cdWriteLine {tid va : Nat} {checked : Bool} {bs : List Byte} : Safety.Inv (s.cdWriteLine tid va checked bs).2 := by
  unfold State.cdWriteLine
  dsimp only
  split
  · split
    next e1 => exact inv_of_eq (inv_cdAbroad h) e1
    next e2 => exact inv_of_eq (inv_cdAbroad h) e2
  · split
    next e3 => exact inv_of_eq (inv_cdLoc h) e3
    next e4 =>
      have h4 := inv_of_eq (inv_cdLoc h) e4
      exact inv_ite (inv_settleCode h4) (inv_cdPut (inv_settleCode h4))

theorem inv_cdReadLines {tid : Nat} {checked : Bool} {fuel va n : Nat} :
    Safety.Inv (s.cdReadLines tid checked fuel va n).2 := by
  induction fuel generalizing s va n with
  | zero => exact h
  | succ fuel ih =>
    unfold State.cdReadLines
    refine inv_iteSnd h ?_
    split
    next e => exact inv_of_eq (inv_cdReadLine h) e
    next e =>
      dsimp only
      split
      next e' => exact inv_of_eq (ih (inv_of_eq (inv_cdReadLine h) e)) e'
      next e' => exact inv_of_eq (ih (inv_of_eq (inv_cdReadLine h) e)) e'

theorem inv_cdRead {tid va n : Nat} {checked : Bool} : Safety.Inv (s.cdRead tid va n checked).2 := inv_cdReadLines h

theorem inv_cdWriteLines {tid : Nat} {checked : Bool} {fuel va : Nat} {bs : List Byte} :
    Safety.Inv (s.cdWriteLines tid checked fuel va bs).2 := by
  induction fuel generalizing s va bs with
  | zero => exact h
  | succ fuel ih =>
    unfold State.cdWriteLines
    refine inv_iteSnd h ?_
    dsimp only
    split
    next e => exact inv_of_eq (inv_cdWriteLine h) e
    next e => exact ih (inv_of_eq (inv_cdWriteLine h) e)

theorem inv_cdWrite {tid va : Nat} {bs : List Byte} {checked : Bool} : Safety.Inv (s.cdWrite tid va bs checked).2 :=
  inv_cdWriteLines h

theorem inv_issue {port : Nat} {r : Req} : Safety.Inv (s.issue port r) := kept h (mem_issue s port r)

end

end Sys2Proof.Proofs.MemoryForm
end

section
/-! The units of the fabric that send requests keep the canonical form of memory: ports, circular buffers, teams,
tiles and the engines (R135, R136, R148 to R159, R318 to R357). -/

namespace Sys2Proof.Proofs.MemoryForm

open Sys2Proof Sys2Proof.Machine Sys2Proof.Claims Sys2Proof.Proofs Sys2Proof.Proofs.MemoryFrame

section
variable {s : State} (h : Safety.Inv s)
include h

/-! ### Requests of the memory instructions (R333 to R349) -/

theorem inv_progressRange {a : Air} {op : ReqOp} {va todo left : Nat} : Safety.Inv (progressRange a op va todo left s) := by
  unfold progressRange
  dsimp only
  split
  · exact inv_ite (inv_land h) h
  · split
    · exact h
    · exact inv_ite (inv_ite (inv_endFlight (inv_issue (kept h (by rfl)))) (inv_setFlight (inv_issue (kept h (by rfl))))) h

theorem inv_progressNcinv {a : Air} {loads : List Nat} : Safety.Inv (progressNcinv a loads s) := by
  unfold progressNcinv
  dsimp only
  split
  · exact h
  · exact inv_ite (inv_land (kept h (by rfl))) h

/-! ### Circular buffers (R148 to R150) -/

theorem inv_modMu {site : SiteRef} {f : Mu → Mu} : Safety.Inv (s.modMu site f) := kept h (by rfl)

/-! ### Teams and the sync unit (R135, R136, R350 to R352) -/

theorem inv_modTeam {tid num : Nat} {f : Team → Team} : Safety.Inv (s.modTeam tid num f) := kept h (by rfl)

theorem inv_unhold {m : SyncMsg} : Safety.Inv (s.unhold m) := by
  unfold State.unhold
  split
  · exact inv_ite (kept h (by rfl)) h
  · exact h

theorem inv_syncReply {m : SyncMsg} {n : Nat} : Safety.Inv (s.syncReply m n) := inv_answer (inv_unhold h)

theorem inv_syncErr {m : SyncMsg} {cause : Nat} : Safety.Inv (s.syncErr m cause) := inv_answer (inv_unhold h)

theorem inv_waitAcquire {m : SyncMsg} : Safety.Inv (s.waitAcquire m) := by
  unfold State.waitAcquire
  split <;> exact h

theorem inv_endWait {m : SyncMsg} {gen : BitVec 32} : Safety.Inv (s.endWait m gen) := inv_syncReply (inv_waitAcquire h)

theorem inv_releaseWaiters {tid num mark : Nat} {gen : BitVec 32} : Safety.Inv (s.releaseWaiters tid num mark gen) :=
  inv_foldl (fun _ _ hu => inv_endWait hu) (kept h (by rfl))

theorem inv_arriveAt {t : Team} {mark : Nat} : Safety.Inv (s.arriveAt t mark).2 := by
  unfold State.arriveAt
  dsimp only
  split
  · exact inv_releaseWaiters (kept h (by rfl))
  · exact h

theorem inv_waitOn {m : SyncMsg} {mark : Nat} {gen : BitVec 32} : Safety.Inv (s.waitOn m mark gen) := by
  unfold State.waitOn
  split
  · exact inv_syncErr h
  · exact inv_ite (inv_endWait h) (kept h (by rfl))

theorem inv_sweepTeams : Safety.Inv s.sweepTeams := kept h (by rfl)

theorem inv_applySync {m : SyncMsg} : Safety.Inv (s.applySync m) := by
  unfold State.applySync
  split
  · split
    · exact inv_syncReply (kept h (by rfl))
    · exact inv_syncErr h
    · exact inv_syncErr h
  next t _ =>
    extract_lets member
    split
    · exact inv_ite (inv_syncReply h) (inv_syncReply (inv_modTeam h))
    · exact inv_ite (inv_syncErr h) (inv_syncReply (inv_sweepTeams (inv_modTeam h)))
    · exact inv_ite (inv_syncErr h) (inv_syncReply (inv_modTeam h))
    · exact inv_ite (inv_syncErr h) (inv_ite (inv_waitOn (inv_arriveAt h)) (inv_syncReply (inv_arriveAt h)))
    · exact inv_ite (inv_syncErr h) (inv_waitOn h)
    · exact inv_ite (inv_raise h) (inv_arriveAt h)

theorem inv_syncLost {m : SyncMsg} : Safety.Inv (s.syncLost m) := by
  unfold State.syncLost
  split
  · exact inv_raise h
  · exact inv_syncErr h

theorem ends_syncUnitOp : Ends (execSyncUnitOp s) := by
  unfold execSyncUnitOp
  dsimp only
  split
  · exact h
  · exact inv_ite (inv_applySync (kept h (by rfl))) (inv_syncLost (kept h (by rfl)))

/-! ### Weights and accumulators (R318 to R329) -/

theorem inv_modCu {site : SiteRef} {f : Cu → Cu} : Safety.Inv (s.modCu site f) := kept h (by rfl)

theorem inv_progressSpill {a : Air} {tile next : Nat} {clear : Bool} : Safety.Inv (progressSpill a tile next clear s) := by
  unfold progressSpill
  split
  · split
    · exact inv_progress (inv_emit (inv_setFlight (inv_modCu h)))
    · exact h
  · split
    · exact inv_emit (inv_endFlight h)
    · exact h

theorem inv_progressFill {a : Air} {tile ch next : Nat} {bad : Option Word} : Safety.Inv (progressFill a tile ch next bad s) := by
  unfold progressFill
  split
  · split
    · exact h
    · extract_lets wrong bad' s1 s2
      have h2 : Safety.Inv s2 := inv_ite (inv_ite (kept h (by rfl)) h) (inv_modCu (inv_ite (kept h (by rfl)) h))
      exact inv_progress (inv_setFlight h2)
  · split
    · exact inv_land h
    · exact h

theorem inv_progressWswap {a : Air} : Safety.Inv (progressWswap a s) := inv_ite (inv_land (kept h (by rfl))) h

/-! ### Tile fetches (R155, R156, R330 to R332) -/

theorem inv_modFs {port k : Nat} {f : FetchSlot → FetchSlot} : Safety.Inv (s.modFs port k f) := kept h (by rfl)

theorem inv_fetchNext {origin : Word} {inv : Nat} {p : Port} {k : Nat} : Safety.Inv (fetchNext origin inv p k s) := by
  unfold fetchNext
  dsimp only
  split
  · exact h
  · exact inv_ite (kept h (by rfl)) (inv_ite (inv_modFs (inv_issue (kept h (by rfl)))) h)

theorem inv_progressTfetch {a : Air} {k : Nat} : Safety.Inv (progressTfetch a k s) := by
  unfold progressTfetch
  dsimp only
  split
  · exact h
  · exact inv_ite (inv_ite (kept h (by rfl)) h) (inv_ite (inv_ite (inv_land (kept h (by rfl))) h) (inv_fetchNext h))

theorem inv_streamRead {a : Air} {p : Port} {k : Nat} : Safety.Inv (streamRead a p k s) := by
  unfold streamRead
  dsimp only
  split
  · exact h
  · exact inv_ite (inv_ite (kept h (by rfl)) h) (inv_ite (inv_issue (kept h (by rfl))) h)

theorem inv_progressMstream {a : Air} {k : Nat} {tyc : BitVec 5} {keep : Bool} : Safety.Inv (progressMstream a k tyc keep s) := by
  unfold progressMstream
  dsimp only
  split
  · exact h
  · split
    · exact inv_ite (kept h (by rfl)) h
    · split
      · exact inv_ite (kept h (by rfl)) (inv_fetchNext h)
      · split
        · exact inv_ite (inv_land (inv_ite (kept h (by rfl)) (kept h (by rfl)))) h
        · split
          · exact inv_ite (kept h (by rfl)) h
          · exact inv_streamRead h

/-! ### Engine commands (R95, R96, R158, R159, R353 to R357) -/

theorem inv_enqueue {c : EngCmd} : Safety.Inv (s.enqueue c) := inv_of_only (Admission.enqueue_only s c) (kept h (by rfl))

theorem inv_unqueue {cmd : Nat} : Safety.Inv (s.unqueue cmd) := kept h (by rfl)

theorem inv_cmdArrival {c : EngCmd} : Safety.Inv (s.cmdArrival c) := by
  unfold State.cmdArrival
  dsimp only
  split
  · exact inv_ite (kept h (by rfl)) h
  · exact h

theorem inv_endCmdParty {party : Nat} : Safety.Inv (s.endCmdParty party) :=
  inv_ite h (inv_endParty (inv_foldl (fun _ _ hu => inv_closePort hu) h))

theorem inv_endCmd {c : EngCmd} {how : EngEnd} : Safety.Inv (s.endCmd c how) := by
  unfold State.endCmd
  extract_lets s1 s2 s3
  have h2 : Safety.Inv s2 := inv_ite (inv_cmdArrival (inv_endCmdParty h)) (inv_endCmdParty h)
  have h3 : Safety.Inv s3 := by
    dsimp only [s3]
    split
    · exact inv_progress (inv_modPE h2)
    · exact h2
  split
  · exact inv_modCmd h3
  · exact h3

theorem inv_answerCmd {c : EngCmd} {t : Air → Token} : Safety.Inv (s.answerCmd c t) := by
  unfold State.answerCmd
  split
  · exact inv_answer h
  · exact h

theorem inv_endColl {tid team : Nat} {k : Coll} {cause : Option Nat} : Safety.Inv (s.endColl tid team k cause) := by
  unfold State.endColl
  dsimp only
  refine inv_foldl (fun u a hu => ?_) h
  split
  · split
    · split
      · exact inv_answerCmd (inv_endSfr (inv_acquire (inv_endCmd hu)))
      · exact inv_answerCmd (inv_endCmd hu)
    · exact inv_answerCmd (inv_endCmd hu)
  · exact inv_answerCmd (inv_endCmd hu)

theorem inv_issueColl {a : Air} {c : EngCmd} : Safety.Inv (s.issueColl a c) := by
  unfold State.issueColl
  extract_lets num
  split
  · exact inv_answerCmd h
  · split
    · exact inv_answerCmd h
    · split
      · exact inv_answerCmd h
      · extract_lets n c' s1 s2
        have h2 : Safety.Inv s2 := inv_modTeam (inv_setFlight (inv_enqueue (kept h (by rfl))))
        split
        · exact h2
        · split
          · exact inv_endColl h2
          · exact h2

theorem inv_progressEngine {a : Air} {c : EngCmd} : Safety.Inv (progressEngine a c s) := by
  unfold progressEngine
  extract_lets n seq c' s1 s2
  have h1 : Safety.Inv s1 := kept h (by rfl)
  have h2 : Safety.Inv s2 := inv_ite (inv_endCmd h1) (inv_enqueue h1)
  exact inv_ite h (inv_ite (inv_issueColl h) (inv_ite h (inv_land h2)))

theorem ends_engineDispatch : Ends (execEngineDispatch s) := by
  unfold execEngineDispatch
  dsimp only
  split
  · exact h
  · split
    · exact h
    · split
      · exact h
      · split
        · split <;> exact inv_ite (kept h (by rfl)) (inv_modCmd (inv_beginParty (kept h (by rfl))))
        · exact h

theorem inv_modEngine {port : Nat} {f : Engine → Engine} : Safety.Inv (s.modEngine port f) := kept h (by rfl)

theorem inv_fillCb {c : EngCmd} {port : Nat} {e : Engine} : Safety.Inv (s.fillCb c port e) := by
  unfold State.fillCb
  dsimp only
  (repeat' split) <;> exact h

theorem inv_engineTake {port : Nat} {bs : List (Byte × Option Word)} : Safety.Inv (s.engineTake port bs) := by
  unfold State.engineTake
  split
  · exact h
  · split
    · exact h
    · extract_lets e s0 s1 e1 e2
      have h0 : Safety.Inv s0 := inv_count h
      have h1 : Safety.Inv s1 := by
        dsimp only [s1]
        split
        · exact h0
        · exact inv_raise h0
        · exact h0
      refine inv_ite (inv_fillCb h1) ?_
      split <;> exact inv_modEngine h1

theorem inv_makeColl {k : Coll} : Safety.Inv (s.makeColl k) := by
  unfold State.makeColl
  dsimp only
  split
  · exact h
  · refine inv_foldl (fun u a hu => ?_) h
    split
    · exact hu
    · exact inv_raise (kept hu (by rfl))

theorem ifSome_reserveCb {c : EngCmd} : IfSome (s.reserveCb c) := by
  unfold State.reserveCb
  dsimp only
  split
  · trivial
  · split
    · trivial
    · split
      · trivial
      · split
        · trivial
        · exact h

theorem ends_engineIssue : Ends (execEngineIssue s) := by
  unfold execEngineIssue
  dsimp only
  split
  · exact h
  · split
    · split
      · exact h
      · split
        · split
          · exact inv_modEngine (inv_issue (kept h (by rfl)))
          · exact h
        · split
          · split
            next e1 => exact kept (inv_of_some (ifSome_reserveCb h) e1) (by rfl)
            · exact h
          · split
            · split
              · exact inv_modEngine (inv_issue (kept h (by rfl)))
              · exact h
            · split
              · split
                · exact inv_makeColl h
                · exact h
              · split <;> exact h
    · exact h

theorem ends_cbSlotLanded : Ends (execCbSlotLanded s) := h

theorem inv_freeEngine {port : Nat} : Safety.Inv (s.freeEngine port) := inv_closePort (kept h (by rfl))

theorem inv_cmdTrap {c : EngCmd} {cause : Nat} : Safety.Inv (s.cmdTrap c cause) := inv_raise h

theorem ifSome_followOn {c : EngCmd} : IfSome (s.followOn c) := by
  unfold State.followOn
  dsimp only
  split
  · exact h
  · split
    · exact h
    · split
      · split
        · exact inv_cmdTrap h
        · split
          · exact inv_cmdTrap h
          · split
            · trivial
            · exact h
      · exact inv_cmdTrap h

theorem ends_engineCompletion : Ends (execEngineCompletion s) := by
  unfold execEngineCompletion
  dsimp only
  split
  · exact h
  · split
    · exact inv_freeEngine h
    · split
      · exact h
      · split
        · split
          · exact inv_freeEngine h
          · split
            · exact inv_endColl (inv_foldl (fun _ _ hu => inv_freeEngine hu) h)
            · exact h
        · split
          · split
            · exact h
            · split
              · exact h
              · split
                · split
                  · exact h
                  next e1 => exact inv_endCmd (inv_freeEngine (inv_of_some (ifSome_followOn h) e1))
                · exact inv_endCmd (inv_freeEngine h)
          · split
            · exact inv_freeEngine h
            · exact inv_endCmd (inv_unqueue (inv_freeEngine h))
          · exact inv_freeEngine h
          · exact inv_freeEngine h

end

end Sys2Proof.Proofs.MemoryForm
end

section
/-! Requests keep the canonical form of memory, at their homes and when their replies return (R152, R153, R160
to R176, R183 to R188). -/

namespace Sys2Proof.Proofs.MemoryForm

open Sys2Proof Sys2Proof.Machine Sys2Proof.Claims Sys2Proof.Proofs Sys2Proof.Proofs.MemoryFrame

section
variable {s : State} (h : Safety.Inv s)
include h

/-! ### Requests at their homes (R160 to R176, R185) -/

theorem inv_modReq {port id : Nat} {f : Req → Req} : Safety.Inv (s.modReq port id f) := kept h (by rfl)

theorem inv_setStatus {p : Port} {r : Req} {st : ReqStatus} : Safety.Inv (s.setStatus p r st) := kept h (by rfl)

theorem inv_refuse {p : Port} {r : Req} {cause : Nat} : Safety.Inv (s.refuse p r cause) := kept h (by rfl)

theorem inv_publish {p : Port} {r : Req} {c : Ctx} {die : Nat} : Safety.Inv (s.publish p r c die) :=
  inv_of_only (Homes.publish_only s p r c die) (kept h (by rfl))

theorem inv_bringNear {p : Port} {r : Req} {num : Nat} {v : Line} {poison : Bool} :
    Safety.Inv (s.bringNear p r num v poison) := by
  unfold State.bringNear
  dsimp only
  split <;> exact h

theorem inv_fillNear {p : Port} {r : Req} {l : Leaf} {loc : Loc} {v : Line} {poison : Bool} :
    Safety.Inv (s.fillNear p r l loc v poison) := kept h (Homes.quiet_fillNear s p r l loc v poison).mem

theorem inv_nearPut {p : Port} {va : Nat} {v : Line} {poison : Bool} : Safety.Inv (s.nearPut p va v poison) := kept h (by rfl)

theorem inv_freshen {p : Port} {num : Nat} {keep : Option NearLine} : Safety.Inv (s.freshen p num keep) := kept h (by rfl)

theorem inv_share {tid die pa sharer : Nat} : Safety.Inv (s.share tid die pa sharer).2 := by
  unfold State.share
  dsimp only
  split
  · split <;> exact h
  · split
    · exact h
    · split
      · split
        · exact inv_count (kept h (by rfl))
        · exact h
      · exact h

theorem inv_dropRrc {num die : Nat} : Safety.Inv (s.dropRrc num die) := kept h (by rfl)

theorem inv_fillRrc {p : Port} {r : Req} {l : Leaf} {loc : Loc} {v : Line} {poison : Bool} :
    Safety.Inv (s.fillRrc p r l loc v poison) := kept h (Homes.quiet_fillRrc s p r l loc v poison).mem

theorem inv_pin {loc : Loc} {port fs va : Nat} : Safety.Inv (s.pin loc port fs va) := kept h (by rfl)

theorem inv_homeRead {p : Port} {r : Req} {c : Ctx} {l : Leaf} {loc : Loc} : Safety.Inv (s.homeRead p r c l loc) := by
  unfold State.homeRead
  dsimp only
  split
  · exact inv_setStatus (inv_fillRrc (inv_fillNear (inv_freshen (inv_pin (inv_fillLine (inv_settleCode h))))))
  · exact inv_setStatus (inv_fillRrc (inv_fillNear (inv_freshen (inv_fillLine (inv_settleCode h)))))

theorem inv_homeFlush {p : Port} {r : Req} {loc : Loc} : Safety.Inv (s.homeFlush p r loc) := by
  unfold State.homeFlush
  dsimp only
  split
  · exact inv_setStatus (inv_ite (inv_modL2 (inv_putMem h)) h)
  · exact h

theorem inv_undo {p : Port} {r : Req} {pre : Line × Bool} : Safety.Inv (s.undo p r pre) :=
  kept h (Homes.keeps_undo p r pre).2.1

theorem inv_homeWrite {p : Port} {r : Req} {c : Ctx} {loc : Loc} : Safety.Inv (s.homeWrite p r c loc) := by
  unfold State.homeWrite
  extract_lets s0 pre s1 t1 t2 w t3
  have h0 : Safety.Inv s0 := inv_freshen (inv_dropRrc (inv_settleCode h))
  have h1 : Safety.Inv s1 := inv_ite (kept h0 (by rfl)) (inv_putLine (inv_fillLine h0))
  have h2 : Safety.Inv t2 := inv_ite (inv_unbAlloc (inv_fillLine h0)) (inv_fillLine h0)
  have h3 : Safety.Inv t3 := inv_ite h2 (inv_undo (inv_putLine h2))
  exact inv_ite (inv_setStatus (inv_undo (inv_nearPut h1))) (inv_setStatus (inv_nearPut h3))

theorem inv_homeMigr {p : Port} {r : Req} {c : Ctx} {td : Nat} {l : Leaf} {e : Nat} : Safety.Inv (s.homeMigr p r c td l e) := by
  unfold State.homeMigr
  split
  · exact h
  · split
    · exact h
    · split
      · exact h
      · split
        · exact h
        · split
          · exact h
          · split
            next e1 => exact kept (inv_of_eq (inv_migrate h) e1) (by rfl)
            next e2 => exact inv_of_eq (inv_migrate h) e2
            next e3 => exact kept (inv_of_eq (inv_migrate h) e3) (by rfl)

theorem inv_atHome {p : Port} {r : Req} {c : Ctx} {td : Nat} {l : Leaf} {loc : Loc} :
    Safety.Inv (s.atHome p r c td l loc) := by
  unfold State.atHome
  extract_lets sharers s1 go
  have hgo (u : State) (hu : Safety.Inv u) : Safety.Inv (go u) := by
    dsimp only [go]
    split
    · exact inv_homeFlush hu
    · exact inv_homeMigr hu
    · exact inv_homeWrite hu
    · exact inv_homeWrite hu
    · exact inv_homeWrite hu
    · exact inv_homeWrite hu
    · exact inv_homeRead hu
  have h1 : Safety.Inv s1 := kept h (by rfl)
  split
  · split
    · exact kept h (by rfl)
    · split
      next e => exact kept (inv_of_eq (inv_lateAssign h) e) (by rfl)
      next e => exact inv_of_eq (inv_lateAssign h) e
  · split
    · exact inv_setStatus (inv_ite h1 (inv_count h1))
    · split
      · split
        next e => exact hgo _ (inv_of_raceCheck h e)
        · exact inv_setStatus h
        · exact inv_setStatus h
        · exact inv_setStatus h
      · exact hgo _ h

theorem inv_answerHere {p : Port} {r : Req} {v : Line} {poison : Bool} : Safety.Inv (s.answerHere p r v poison) := kept h (by rfl)

theorem inv_fromNear {p : Port} {r : Req} {n : NearLine} : Safety.Inv (s.fromNear p r n) :=
  inv_answerHere (inv_count (kept h (by rfl)))

theorem inv_fromRrc {p : Port} {r : Req} {l : Leaf} {loc : Loc} {x : RrcLine} : Safety.Inv (s.fromRrc p r l loc x) :=
  inv_answerHere (inv_count (inv_fillNear (kept h (by rfl))))

theorem inv_withLeaf {p : Port} {r : Req} {c : Ctx} {td : Nat} {l0 : Leaf} : Safety.Inv (s.withLeaf p r c td l0) := by
  unfold State.withLeaf
  split
  · exact kept h (by rfl)
  · split
    · exact inv_fromNear h
    · exact inv_fromRrc h
    · have hd : Safety.Inv (if r.op.writes then s.setDirty c td r.va l0 else (some l0, s)).2 := inv_iteSnd (inv_setDirty h) h
      split
      next e => exact kept (inv_of_eq hd e) (by rfl)
      next e =>
        extract_lets s1 loc
        have h1 : Safety.Inv s1 := kept (inv_of_eq hd e) (by rfl)
        split
        · exact kept h1 (by rfl)
        · split
          · exact kept h1 (by rfl)
          · split
            · exact kept h1 (by rfl)
            · exact inv_atHome (inv_ite (inv_publish h1) h1)

theorem inv_goAbroad {p : Port} {r : Req} : Safety.Inv (s.goAbroad p r) := by
  unfold State.goAbroad
  split
  · exact h
  · split
    · exact h
    · split
      next e1 => exact kept (inv_of_some (ifSome_sendAbroad h) e1) (by rfl)
      · exact h

theorem inv_goHome {p : Port} {r : Req} : Safety.Inv (s.goHome p r) := by
  unfold State.goHome
  dsimp only
  split
  · exact h
  · split
    · exact h
    · split
      · exact inv_goAbroad h
      · split
        · exact h
        · exact inv_withLeaf h
        · split
          · exact h
          · split
            · exact h
            · split
              next e1 => exact kept (inv_of_eq (inv_lookup (inv_ite (inv_publish h) h)) e1) (by rfl)
              next e2 => exact inv_withLeaf (inv_of_eq (inv_lookup (inv_ite (inv_publish h) h)) e2)

theorem ends_homeRequest : Ends (execHomeRequest s) := by
  unfold execHomeRequest
  split
  · exact h
  · split
    · exact h
    · split
      · exact h
      · exact inv_goHome h

theorem inv_reachHome {l : List (Nat × Nat)} : Safety.Inv (s.reachHome l) := by
  unfold State.reachHome
  refine inv_foldl (fun u a hu => ?_) h
  split
  · exact hu
  · split
    · exact hu
    · exact inv_ite (inv_goHome hu) hu

theorem ends_backInvalidationAck : Ends (execBackInvalidationAck s) := by
  unfold execBackInvalidationAck
  (repeat' split) <;> exact h

theorem inv_walkFor {p : Port} {r : Req} {c : Ctx} {td restarts : Nat} : Safety.Inv (s.walkFor p r c td restarts) := by
  unfold State.walkFor
  split
  next e1 => exact kept (inv_of_eq (inv_walk h) e1) (by rfl)
  next e2 => exact kept (inv_of_eq (inv_walk h) e2) (by rfl)

theorem ends_walk : Ends (execWalk s) := by
  unfold execWalk
  split
  · exact h
  · split
    · split
      · exact h
      · split
        · exact h
        · split
          · exact inv_walkFor h
          · split
            · exact inv_walkFor h
            · split
              · exact h
              · exact inv_setStatus (inv_install h)
          · exact h
    · exact h
    · exact h

theorem ends_saturationWaitEnd : Ends (execSaturationWaitEnd s) := by
  unfold execSaturationWaitEnd
  split
  · exact h
  · split
    · exact h
    · split
      · split
        · exact h
        · exact inv_goHome h
      · exact h

theorem ends_raceSaturationTimeout : Ends (execRaceSaturationTimeout s) := by
  unfold execRaceSaturationTimeout
  (repeat' split) <;> exact h

theorem ends_hostCxlMemRequest {pa : Nat} {write : Bool} {data : BitVec 512} {mask : BitVec 64} :
    Ends (execHostCxlMemRequest pa write data mask s) := by
  unfold execHostCxlMemRequest
  extract_lets loc others s1 l s2 s3
  have h1 : Safety.Inv s1 := inv_settleCode h
  have h2 : Safety.Inv s2 := inv_ite h1 (inv_putLine h1)
  have h3 : Safety.Inv s3 := by
    dsimp only [s3]
    split
    next e => exact kept h1 ((Homes.quiet_share s1 0 loc.die (lineOf pa) 8).1 _ (congrArg Prod.fst e)).mem
    next e => exact inv_of_eq (inv_share h1) e
  refine ends_ite h (ends_ite (ends_ite ?_ ?_) (ends_ite (ends_ite ?_ ?_) ?_))
  · exact h
  · exact h
  · exact h2
  · exact inv_modDir h
  · exact h3

/-! ### Replies at a port (R102, R152, R153, R183, R188, R380) -/

theorem inv_portProgress {p : Port} : Safety.Inv (s.portProgress p) :=
  inv_of_only (Replies.portProgress_only s p) (kept h (by rfl))

theorem inv_reqTrap {p : Port} {r : Req} {cause other : Nat} {unconf : Bool} : Safety.Inv (s.reqTrap p r cause other unconf) :=
  inv_raise h

theorem inv_freeReq {p : Port} {id : Nat} : Safety.Inv (s.freeReq p id) := inv_ite (kept h (by rfl)) (kept h (by rfl))

theorem ifSome_deliver {p : Port} {r : Req} {data : Line} {err : Option Word} : IfSome (s.deliver p r data err) := by
  unfold State.deliver
  dsimp only
  split
  · exact h
  · split
    · exact inv_engineTake (kept h (by rfl))
    · exact inv_engineTake h
  · split <;> exact h
  · split
    · split
      · exact h
      · split
        · exact h
        · trivial
    · exact h
  · split
    · exact h
    · split
      · trivial
      · split
        · exact inv_answer (inv_modMu (inv_ite (kept h (by rfl)) h))
        · exact inv_answer (inv_ite (kept h (by rfl)) h)

theorem inv_failCmd {p : Port} {cause : Nat} : Safety.Inv (s.failCmd p cause) := by
  unfold State.failCmd
  split <;> exact h

theorem ends_loadReply : Ends (execLoadReply s) := by
  unfold execLoadReply
  split
  · exact h
  next p _ =>
    split
    · exact h
    next r _ =>
      extract_lets done
      have hdone (d : Line) (e : Option Word) : Ends (done d e) := by
        have hd : IfSome (if p.bound then s.deliver p r d e else some s) := ifSome_ite (ifSome_deliver h) h
        dsimp only [done]
        split
        next e1 => exact inv_portProgress (inv_freeReq (inv_of_some hd e1))
        · exact h
      have hconflict (c : Conflict) : IfSome (match r.dest with
          | .engine _ _ => some (s.failCmd p c.cause)
          | _ => if p.bound then s.deliver p r 0 (some (s.conflictErr p c)) else some s) := by
        split
        · exact inv_failCmd h
        · exact ifSome_ite (ifSome_deliver h) h
      clear_value done
      refine ends_ite h ?_
      split
      · exact inv_portProgress (inv_freeReq h)
      · exact hdone _ _
      · split
        · exact inv_answer (inv_freeReq h)
        · exact inv_freeReq h
      · exact ends_ite h (hdone _ _)
      · exact ends_ite h (hdone _ _)
      · exact ends_ite h (hdone _ _)
      · refine ends_ite h ?_
        split
        next e => exact inv_portProgress (inv_freeReq (inv_reqTrap (inv_of_some (hconflict _) e)))
        · exact h
      · refine ends_ite h ?_
        split
        next e => exact inv_portProgress (inv_freeReq (inv_reqTrap (inv_of_some (hconflict _) e)))
        · exact h
      · exact h

theorem inv_lineDone {site : SiteRef} {slot : Nat} : Safety.Inv (s.lineDone site slot) := by
  unfold State.lineDone
  split
  · exact h
  · split
    · exact inv_ite (inv_answer h) (kept h (by rfl))
    · exact h
    · exact h

theorem ends_writeAck : Ends (execWriteAck s) := by
  unfold execWriteAck
  split
  · exact h
  next p _ =>
    split
    · exact h
    next r _ =>
      extract_lets fin
      have hfin (u : State) (hu : Safety.Inv u) : Ends (fin u) := inv_portProgress (inv_freeReq hu)
      have hwritten : Ends (match r.dest with
          | .slot site slot => fin (s.lineDone site slot)
          | _ => fin s) := by
        split
        · exact hfin _ (inv_lineDone h)
        · exact hfin _ h
      clear_value fin
      refine ends_ite h ?_
      split
      · split
        · split
          · refine ends_ite ?_ h
            split
            next e => exact hfin _ (inv_of_some (ifSome_deliver h) e)
            · exact h
          · exact hfin _ h
        · exact hfin _ h
      · exact hwritten
      · exact hwritten
      · exact hwritten
      · exact hwritten
      · refine ends_ite h ?_
        split
        next e => exact hfin _ (inv_reqTrap (inv_of_some (ifSome_deliver h) e))
        · exact h
      · exact hfin _ (inv_reqTrap (inv_failCmd h))
      · exact hfin _ (inv_reqTrap (inv_failCmd h))
      · exact hfin _ (inv_reqTrap (inv_failCmd h))
      · exact h

theorem ends_portRefusal : Ends (execPortRefusal s) := by
  unfold execPortRefusal
  split
  · exact h
  next p _ =>
    split
    · exact h
    next r _ =>
      split
      next c _ =>
        extract_lets held s1 s2 s3 t1
        have hheld : Safety.Inv held := inv_setStatus h
        have h2 : Safety.Inv s2 := inv_ite (kept h (by rfl)) (inv_reqTrap (kept h (by rfl)))
        have h3 : Safety.Inv s3 := by
          dsimp only [s3]
          split
          · exact inv_degrade h2
          · exact h2
        have ht : Safety.Inv t1 := by
          dsimp only [t1]
          split
          · exact inv_lineDone h
          · exact h
        refine ends_ite h (ends_ite (inv_freeReq h) (ends_ite (ends_ite (ends_ite h ?_) ?_) ?_))
        · exact inv_portProgress h3
        · exact inv_portProgress (inv_reqTrap (inv_modPort hheld))
        · split
          · exact inv_portProgress (inv_freeReq (inv_reqTrap ht))
          · split
            · exact inv_answer (inv_freeReq h)
            · exact inv_freeReq h
          · exact ends_ite (inv_setStatus h) (ends_ite (inv_portProgress (inv_setStatus h))
              (ends_ite (inv_portProgress (inv_setStatus h)) (inv_portProgress (inv_reqTrap hheld))))
      · exact h

theorem inv_resend {p : Port} {r : Req} : Safety.Inv (s.resend p r) := inv_count (kept h (by rfl))

theorem ends_sideLogReplay : Ends (execSideLogReplay s) := by
  unfold execSideLogReplay
  split
  · exact h
  · split
    · exact h
    · exact ends_ite (inv_resend h) h

theorem ends_replayRelease : Ends (execReplayRelease s) := by
  unfold execReplayRelease
  split
  · exact h
  · split
    · exact h
    · split
      · exact inv_resend h
      · exact h

end

end Sys2Proof.Proofs.MemoryForm
end

section
/-! Tasks, invalidations, instructions that go on, address patterns and the passing of time keep the canonical form of memory
(R72 to R77, R126, R130 to R133, R154 to R156, R199 to R201). -/

namespace Sys2Proof.Proofs.MemoryForm

open Sys2Proof Sys2Proof.Machine Sys2Proof.Claims Sys2Proof.Proofs Sys2Proof.Proofs.MemoryFrame

section
variable {s : State} (h : Safety.Inv s)
include h

/-! ### Tasks (R57, R72 to R77, R89, R104) -/

theorem inv_readyIf {die idx : Nat} : Safety.Inv (s.readyIf die idx) :=
  inv_of_only (Admission.readyIf_only s die idx) (kept h (by rfl))

theorem inv_addTask {x : Machine.Task} : Safety.Inv (s.addTask x) := inv_of_only (Admission.addTask_only s x) (kept h (by rfl))

theorem inv_lowerDeps {p : Machine.Task} : Safety.Inv (s.lowerDeps p) := by
  unfold State.lowerDeps
  extract_lets low s1
  have h1 : Safety.Inv s1 := kept h (by rfl)
  exact inv_ite h (inv_foldl (fun _ _ hu => inv_readyIf hu) h1)

theorem inv_putRecord {l : StartList} {w0 w1 w2 w3 : Nat} : Safety.Inv (s.putRecord l w0 w1 w2 w3) := by
  unfold State.putRecord
  dsimp only
  split
  next e1 => exact kept (inv_of_eq (inv_cdWrite h) e1) (by rfl)
  next e2 =>
    have h2 := inv_of_eq (inv_cdWrite h) e2
    split
    next e3 => exact kept (inv_of_eq (inv_cdWrite h2) e3) (by rfl)
    next e4 => exact kept (inv_of_eq (inv_cdWrite h2) e4) (by rfl)

theorem inv_putCompletion {l : StartList} {r : Report} : Safety.Inv (s.putCompletion l r) := inv_putRecord h

theorem inv_addCsema {l : StartList} : Safety.Inv (s.addCsema l) := by
  unfold State.addCsema
  split
  next e1 => exact kept (inv_of_eq (inv_cdRead h) e1) (by rfl)
  next e2 =>
    have h2 := inv_of_eq (inv_cdRead h) e2
    split
    next e3 => exact kept (inv_of_eq (inv_cdWrite h2) e3) (by rfl)
    next e4 => exact inv_of_eq (inv_cdWrite h2) e4

theorem inv_sendMsi {fn vec : Nat} : Safety.Inv (s.sendMsi fn vec) := inv_ite (kept h (by rfl)) (inv_ite h (kept h (by rfl)))

theorem inv_unmask {fn vec : Nat} : Safety.Inv (s.unmask fn vec) := inv_ite (kept h (by rfl)) h

theorem inv_report {slot : Nat} {r : Report} : Safety.Inv (s.report slot r) := by
  unfold State.report
  split
  · exact h
  · extract_lets s1 s2
    have h1 : Safety.Inv s1 := inv_ite (inv_putCompletion h) h
    have h2 : Safety.Inv s2 := inv_ite (inv_addCsema h1) h1
    exact inv_ite (inv_sendMsi h2) h2

theorem inv_trapRecord {slot w0 w1 w2 w3 : Nat} : Safety.Inv (s.trapRecord slot w0 w1 w2 w3) := by
  unfold State.trapRecord
  split
  · exact h
  · exact inv_ite (kept h (by rfl)) (inv_putRecord h)

theorem inv_sweepSl {slot : Nat} : Safety.Inv (s.sweepSl slot) := by
  unfold State.sweepSl
  split
  · exact h
  · exact inv_ite (kept h (by rfl)) h

theorem inv_cancelMove {id : Nat} : Safety.Inv (s.cancelMove id) := by
  unfold State.cancelMove
  split
  · exact h
  · exact inv_ite h (inv_ite (inv_ite h h) (inv_ite h h))

theorem inv_becomeReady {die idx : Nat} : Safety.Inv (s.becomeReady die idx) := kept h (by rfl)

theorem inv_dropResv {id : Nat} : Safety.Inv (s.dropResv id) := by
  unfold State.dropResv
  split
  · exact h
  · extract_lets ls s1
    have h1 : Safety.Inv s1 := inv_foldl (fun _ _ hu => inv_cancelMove hu) (kept h (by rfl))
    split
    · exact inv_ite (inv_becomeReady h1) h1
    · exact h1

theorem inv_stopCmd {c : EngCmd} : Safety.Inv (s.stopCmd c) :=
  inv_endCmdParty (inv_foldl (fun _ _ hu => inv_freeEngine hu) (kept h (by rfl)))

theorem inv_dropCmds {id : Nat} : Safety.Inv (s.dropCmds id) := by
  refine inv_foldl (fun u c hu => ?_) h
  extract_lets s1 es run
  have h1 : Safety.Inv s1 := inv_unqueue hu
  split
  · exact kept (inv_endCmdParty h1) (by rfl)
  · split
    · exact inv_stopCmd h1
    · exact inv_modCmd h1

theorem inv_undoWrite {tid : Nat} {x : UndoEntry} : Safety.Inv (s.undoWrite tid x) := by
  unfold State.undoWrite
  split
  next e1 => exact inv_putLine (inv_cdPut (inv_of_eq (inv_cdLoc h) e1))
  next e2 => exact inv_of_eq (inv_cdLoc h) e2

theorem inv_applyUndo {id : Nat} : Safety.Inv (s.applyUndo id) :=
  inv_foldl (fun _ _ hu => inv_modPort (inv_foldl (fun _ _ hu => inv_undoWrite hu) hu)) h

theorem inv_undoAtKill {id : Nat} : Safety.Inv (s.undoAtKill id) := by
  unfold State.undoAtKill
  split
  · exact inv_ite (inv_applyUndo h) h
  · exact h

theorem inv_dropLease {id : Nat} : Safety.Inv (s.dropLease id) := by
  unfold State.dropLease
  extract_lets s0 ports parties s1 s2 s3 s4
  have h1 : Safety.Inv s1 := inv_dropCmds (inv_undoAtKill h)
  have h2 : Safety.Inv s2 := inv_foldl (fun _ _ hu => inv_closePort hu) h1
  have h3 : Safety.Inv s3 := inv_foldl (fun _ _ hu => inv_endParty hu) h2
  have h4 : Safety.Inv s4 := kept h3 (by rfl)
  exact inv_sweepTeams h4

theorem inv_packetDone {t : Machine.Task} : Safety.Inv (s.packetDone t) := inv_ite h (kept h (by rfl))

theorem inv_freeSlot {tid : Nat} {saved : Saved} : Safety.Inv (s.freeSlot tid saved) := by
  unfold State.freeSlot
  split
  · exact inv_cdWrite h
  · exact h

theorem inv_dropSaved {saved : Saved} : Safety.Inv (s.dropSaved saved) := by
  unfold State.dropSaved
  dsimp only
  split
  · exact inv_sweepTeams (kept (inv_foldl (fun _ _ hu => inv_endParty hu) h) (by rfl))
  · exact h

theorem inv_finishTask {t : Machine.Task} {killed : Bool} {status detail : Nat} :
    Safety.Inv (s.finishTask t killed status detail) := by
  unfold State.finishTask
  extract_lets s1 s2 s3 s4 s5
  have h2 : Safety.Inv s2 := inv_lowerDeps (inv_modTask (inv_freeSlot (inv_dropSaved h)))
  have h3 : Safety.Inv s3 := by
    dsimp only [s3]
    split
    · exact inv_dropLease h2
    · exact h2
  have h5 : Safety.Inv s5 := inv_report (inv_foldl (fun _ _ hu => inv_dropResv hu) h3)
  exact inv_sweepSl (inv_packetDone (kept h5 (by rfl)))

theorem inv_killTask {t : Machine.Task} {detail : Nat} : Safety.Inv (s.killTask t detail) := inv_finishTask h

theorem inv_forceTask {t : Machine.Task} {detail : Nat} : Safety.Inv (s.forceTask t detail) := by
  unfold State.forceTask
  dsimp only
  split
  · exact inv_killTask h
  · split
    · exact h
    · split
      · exact h
      · exact inv_ite h (inv_finishTask (kept h (by rfl)))

/-! ### Invalidations (R156, R199 to R201, R373) -/

theorem inv_beginInval {vmid : Nat} {asid : Option Nat} {base size : Nat} {stage2 : Bool} {packet : Option (Nat × Nat)} :
    Safety.Inv (s.beginInval vmid asid base size stage2 packet).2 := kept h (mem_beginInval s vmid asid base size stage2 packet)

theorem inv_dropPins {base size : Nat} {stage2 : Bool} {p : Port} : Safety.Inv (s.dropPins base size stage2 p) :=
  inv_foldl (fun _ _ hu => kept hu (by rfl)) (kept h (by rfl))

theorem ends_invalidationBatonAck : Ends (execInvalidationBatonAck s) := by
  unfold execInvalidationBatonAck
  split
  · exact h
  · split
    · extract_lets s1
      have h1 : Safety.Inv s1 := by
        dsimp only [s1]
        split
        · exact inv_dropPins h
        · exact h
      exact h1
    · exact h

theorem ends_invalidationAck : Ends (execInvalidationAck s) := by
  unfold execInvalidationAck
  dsimp only
  split
  · exact h
  · split
    · exact h
    · split
      · split <;> exact h
      · exact inv_modSl (inv_ite (kept h (by rfl)) (kept h (by rfl)))

/-! ### System instructions (R358 to R366) -/

theorem inv_progressTask {a : Air} {m : TaskMsg} : Safety.Inv (progressTask a m s) := by
  unfold progressTask
  extract_lets own
  refine inv_ite h (inv_ite (inv_land h) ?_)
  split
  next e => exact inv_land (inv_of_eq (inv_cdRead h) e)
  next e =>
    have h1 := inv_of_eq (inv_cdRead h) e
    extract_lets b res tid unused
    refine inv_ite (inv_land h1) ?_
    split
    · refine inv_ite h1 ?_
      extract_lets d
      split
      · exact h1
      · exact inv_land (inv_addTask (inv_modSl h1))
    · exact inv_land h1

theorem inv_progressTaskdep {a : Air} {l : Word} {i : Nat} : Safety.Inv (progressTaskdep a l i s) := by
  unfold progressTaskdep
  dsimp only
  split
  · exact h
  · split
    · exact inv_ite (inv_land (inv_readyIf (kept h (by rfl)))) (inv_land h)
    · exact inv_land h

theorem inv_progressXlfence {a : Air} : Safety.Inv (progressXlfence a s) := inv_ite (inv_land (kept h (by rfl))) h

theorem inv_progressXlinv {a : Air} {id : Nat} : Safety.Inv (progressXlinv a id s) := inv_ite (inv_land h) h

/-! ### Instructions in flight that go on (R126) -/

theorem inv_progressFence {a : Air} {acq : Bool} {scope : BitVec 3} : Safety.Inv (progressFence a acq scope s) := by
  unfold progressFence
  split
  · exact h
  · split
    · exact inv_land h
    · exact inv_land (inv_fenceCount (inv_ite (kept h (by rfl)) h))

theorem inv_progressOp {a : Air} : Safety.Inv (progressOp a s) := by
  unfold progressOp
  split
  · exact h
  · exact h
  · exact inv_progressRange h
  · split
    · exact h
    · split
      · exact inv_ite h (inv_progressFence h)
      · exact inv_progressEngine h
      · exact inv_progressTask h
      · exact inv_progressTaskdep h
      · exact inv_progressXlfence h
  · exact inv_progressNcinv h
  · exact inv_progressWswap h
  · exact inv_progressSpill h
  · exact inv_progressFill h
  · exact inv_progressTfetch h
  · exact inv_progressMstream h
  · exact inv_progressXlinv h
  · exact inv_progressLanding h

theorem inv_progressAt {site : SiteRef} {slot : Nat} : Safety.Inv (s.progressAt site slot) := by
  unfold State.progressAt
  split
  · exact h
  · exact inv_ite h (inv_progressOp h)

/-! ### Address patterns (R130 to R133, R154, R155, R383) -/

theorem inv_modLive {port k : Nat} {f : Live → Live} : Safety.Inv (s.modLive port k f) := kept h (by rfl)

theorem inv_endRetry {before : State} {lease : Nat} : Safety.Inv (s.endRetry before lease) := by
  unfold State.endRetry
  split
  · split <;> exact h
  · exact h

theorem inv_endInvocations {before : State} {lease : Nat} : Safety.Inv (s.endInvocations before lease) := by
  unfold State.endInvocations
  refine inv_foldl (fun u a hu => ?_) (inv_endRetry h)
  split
  · exact inv_ite (inv_endSfr hu) hu
  · exact hu

theorem inv_setHolds {id : Nat} : Safety.Inv (s.setHolds id) := inv_of_only (Moves.setHolds_only s id) (kept h (by rfl))

theorem inv_refetchStep {site : SiteRef} {k : Nat} : Safety.Inv (s.refetchStep site k) := by
  unfold State.refetchStep
  dsimp only
  split
  · exact h
  · split
    · exact h
    · exact inv_ite h (inv_ite (inv_setHolds (kept h (by rfl))) (inv_fetchNext h))

theorem inv_goOn {site : SiteRef} {n : Nat} : Safety.Inv (s.goOn site n) := inv_ite (inv_progressAt h) (inv_refetchStep h)

theorem inv_pushMarker {p : Port} {ch inv : Nat} {t : Token} : Safety.Inv (s.pushMarker p ch inv t) := by
  unfold State.pushMarker
  dsimp only
  split <;> exact h

theorem inv_snapshot {L : Lease} {p : Port} {k : Nat} {l : Live} : Safety.Inv (s.snapshot L p k l) := inv_ite h (kept h (by rfl))

theorem inv_patStep {p : Port} {k : Nat} {d : BitVec 384} {l : Live} {x : Live × Bool} : Safety.Inv (s.patStep p k d l x) :=
  inv_ite (inv_pushMarker (kept h (by rfl))) (kept h (by rfl))

theorem inv_patLoad {L : Lease} {ag : PE} {p : Port} {k : Nat} {d : BitVec 384} {zero : Bool} {l : Live} {bad : Bool} :
    Safety.Inv (s.patLoad L ag p k d zero l bad) := by
  unfold State.patLoad
  extract_lets s0 next n
  have h0 : Safety.Inv s0 := inv_ite (inv_snapshot h) h
  split
  · exact inv_patStep h0
  · split
    · exact inv_patStep h0
    · split
      · exact inv_patStep (inv_pushMarker h0)
      · exact h
      · exact inv_patStep (inv_issue (kept h0 (by rfl)))

theorem inv_takeStore {p : Port} {ch : Nat} : Safety.Inv (s.takeStore p ch) := by
  unfold State.takeStore
  (repeat' split) <;> exact h

theorem inv_patStore {L : Lease} {ag : PE} {p : Port} {k : Nat} {d : BitVec 384} {l : Live} {t : Token} {bad : Bool} :
    Safety.Inv (s.patStore L ag p k d l t bad) := by
  unfold State.patStore
  extract_lets s1 s2 s3 n
  have h1 : Safety.Inv s1 := inv_takeStore h
  have h2 : Safety.Inv s2 := inv_modLive (inv_snapshot h1)
  have h3 : Safety.Inv s3 := inv_ite (inv_raiseErr h2) h2
  split
  · exact inv_modLive h1
  · split
    · exact h1
    · split
      · exact inv_modLive h
      · split
        · exact inv_raiseErr h2
        · exact inv_issue (kept h3 (by rfl))

theorem inv_injectBatons {lease job : Nat} : Safety.Inv (s.injectBatons lease job) := by
  unfold State.injectBatons
  dsimp only
  split
  · exact h
  · exact inv_foldl (fun _ _ hu => inv_foldl (fun _ _ hu => inv_pushMarker hu) hu) (kept h (by rfl))

theorem inv_completeInputs {lease : Nat} : Safety.Inv (s.completeInputs lease) := by
  unfold State.completeInputs
  dsimp only
  split
  · exact h
  · exact inv_ite (inv_injectBatons (inv_setHolds (inv_cancelMove h))) h

theorem inv_standingDue {L : Lease} : Safety.Inv (s.standingDue L) := by
  unfold State.standingDue
  dsimp only
  split
  · exact h
  · exact inv_ite (kept h (by rfl)) h

theorem ends_patternTurn {bad : Bool} : Ends (patternIssue s bad) := by
  unfold patternIssue
  dsimp only
  split
  · exact h
  · split
    · exact h
    · split
      · exact h
      · split
        · exact inv_completeInputs h
        · split
          · exact inv_progress (inv_completeInputs (inv_setHolds (inv_endInvocations (inv_patLoad (kept h (by rfl))))))
          · split
            · exact inv_progress (inv_completeInputs (inv_setHolds (inv_endInvocations (inv_patStore (kept h (by rfl))))))
            · exact inv_progress (inv_completeInputs (inv_setHolds (inv_endInvocations (kept h (by rfl)))))

theorem ends_patternIssue : Ends (execPatternIssue s) := by
  unfold execPatternIssue
  split
  · exact h
  · exact ends_patternTurn (inv_ite h (inv_standingDue h))

theorem ends_breakAddress {site : SiteRef} : Ends (s.breakAddress site) := by
  unfold State.breakAddress
  dsimp only
  split
  · exact h
  · exact ends_patternTurn (inv_ite h (kept (inv_pipeAt (inv_standingDue h)) (by rfl)))

/-! ### The passing of time (R22, R90, R140) -/

theorem inv_countWaits {n : Nat} : Safety.Inv (s.countWaits n) := inv_of_only (Package.countWaits_only s n) (kept h (by rfl))

theorem inv_pass {n : Nat} : Safety.Inv (s.pass n) := by
  unfold State.pass
  extract_lets s1 k stop s2
  have h1 : Safety.Inv s1 := kept h (by rfl)
  have h2 : Safety.Inv s2 := kept h (by rfl)
  exact inv_ite h (inv_ite h1 (kept (inv_countWaits h2) (by rfl)))

end

end Sys2Proof.Proofs.MemoryForm
end

section
/-! The fabric, systolic regions, traps and containment regions keep the canonical form of memory (R102 to R104,
R119 to R147, R227 to R233). -/

namespace Sys2Proof.Proofs.MemoryForm

open Sys2Proof Sys2Proof.Machine Sys2Proof.Claims Sys2Proof.Proofs Sys2Proof.Proofs.MemoryFrame

section
variable {s : State} (h : Safety.Inv s)
include h

/-! ### The fabric (R119, R123 to R134, R140) -/

theorem ends_tokenArrival {bad : Bool} : Ends (execTokenArrival bad s) := by
  unfold execTokenArrival
  dsimp only
  split
  · exact h
  · split
    · split
      · split
        · exact h
        · exact inv_ite (inv_pipeAt (kept h (by rfl))) (inv_ite (inv_pipeAt (kept h (by rfl))) (kept h (by rfl)))
      · exact h
    · exact h

theorem ends_creditReturn : Ends (execCreditReturn s) := by
  unfold execCreditReturn
  dsimp only
  (repeat' split) <;> exact h

theorem ends_handlerSelect : Ends (execHandlerSelect s) := by
  unfold execHandlerSelect
  (repeat' split) <;> exact h

theorem ends_handlerQuiescence : Ends (execHandlerQuiescence s) := by
  unfold execHandlerQuiescence
  dsimp only
  split
  · exact h
  · split
    · exact h
    · split
      · exact h
      · split
        · exact h
        · exact inv_foldl (fun _ _ hu => inv_raiseErr hu) (kept h (by rfl))

theorem inv_pushAll {L : Lease} {t : Token} {l : List (SiteRef × Nat)} : Safety.Inv (s.pushAll L t l) :=
  inv_foldl (fun _ _ hu => kept hu (by rfl)) h

theorem ends_eoiProcessing : Ends (execEoiProcessing s) := by
  unfold execEoiProcessing
  extract_lets site
  split
  · exact h
  · split
    · exact h
    · split
      · exact h
      · refine ends_ite h ?_
        split
        · exact inv_modPE h
        · extract_lets n bad outs s1 s2 s3 s4
          have h1 : Safety.Inv s1 := inv_modPE h
          have h2 : Safety.Inv s2 := inv_ite (inv_pipeAt (inv_pushAll h1)) h1
          have h4 : Safety.Inv s4 := inv_modLease (inv_modPE (inv_pushAll h2))
          exact ends_ite h (inv_progress (inv_endInvocations h4))

theorem ends_batonForward : Ends (execBatonForward s) := by
  unfold execBatonForward
  dsimp only
  split
  · exact h
  · split
    · exact h
    · split
      · exact h
      · split
        · exact h
        · split
          · exact h
          · split
            · exact h
            · exact inv_progress (inv_pushAll (kept h (by rfl)))

theorem ends_taskCompletion : Ends (execTaskCompletion s) := by
  unfold execTaskCompletion
  dsimp only
  split
  · exact h
  · split
    · split
      · exact h
      · split
        · exact h
        · exact inv_finishTask (kept h (by rfl))
        · exact inv_finishTask (kept h (by rfl))
        · exact inv_finishTask (kept h (by rfl))
    · split
      · exact h
      · split
        · exact inv_finishTask h
        · exact h

theorem ends_wsrewrite : Ends (execWsrewrite s) := by
  unfold execWsrewrite
  dsimp only
  (repeat' split) <;> exact h

theorem ends_gamma : Ends (execGamma s) := by
  unfold execGamma
  dsimp only
  (repeat' split) <;> exact h

theorem ends_planeSwitch : Ends (execPlaneSwitch s) := by
  unfold execPlaneSwitch
  split
  · exact h
  · split
    · exact h
    · exact ends_ite h (ends_ite (inv_completeInputs (inv_modLease h))
        (inv_progress (inv_completeInputs (inv_setHolds (kept h (by rfl))))))

theorem ends_decisionToken {replace : Bool} : Ends (execDecisionToken replace s) := by
  unfold execDecisionToken
  dsimp only
  split
  · exact h
  · split
    · split
      · exact h
      · split
        · exact inv_answer (kept h (by rfl))
        · exact inv_answer (inv_setHolds (kept h (by rfl)))
    · exact h

theorem ends_retireMessage : Ends (execRetireMessage s) := by
  unfold execRetireMessage
  dsimp only
  split
  · exact h
  · split
    · split
      · exact h
      · exact inv_answer (inv_completeInputs (kept h (by rfl)))
    · exact h

theorem ends_cropenMessage : Ends (execCropenMessage s) := by
  unfold execCropenMessage
  dsimp only
  split
  · exact h
  · split
    · split
      · exact h
      · (repeat' split) <;> exact inv_answer (kept h (by rfl))
    · exact h

theorem ends_stallWatchdog : Ends (execStallWatchdog s) := by
  unfold execStallWatchdog
  dsimp only
  split
  · exact h
  · split
    · exact h
    · exact inv_raise (kept h (by rfl))

/-! ### Systolic regions (R144 to R146, R322 to R324) -/

theorem ifSome_sysTake : IfSome s.sysTake := by
  unfold State.sysTake
  split
  · trivial
  · split
    · extract_lets room sums s1 s2
      have h1 : Safety.Inv s1 := inv_modPE h
      have h2 : Safety.Inv s2 := inv_ite (inv_modCu h1) h1
      exact ifSome_ite trivial (inv_progress h2)
    · trivial

theorem ends_systolicActivation : Ends (execSystolicActivation s) := inv_getD (ifSome_sysTake h) h

theorem inv_sysEmit {c : SysCu} {v : InArray} : Safety.Inv (sysEmit c v s) := by
  unfold sysEmit
  dsimp only
  split <;> exact h

theorem inv_sysAccumulate {c : SysCu} {b : Batch} {v : InArray} : Safety.Inv (sysAccumulate c b v s) := by
  unfold sysAccumulate
  dsimp only
  split
  · exact inv_ite (kept h (by rfl)) (inv_ite (kept h (by rfl)) (inv_raiseErr (kept h (by rfl))))
  · exact h

theorem ifSome_sysLeave : IfSome s.sysLeave := by
  unfold State.sysLeave
  split
  · trivial
  next c _ =>
    split
    · trivial
    next v rest _ =>
      extract_lets s0
      have h0 : Safety.Inv s0 := inv_modCu h
      refine ifSome_ite ?_ ?_
      · split
        · trivial
        · exact ifSome_ite trivial (inv_progress (inv_modCu (inv_modPE h0)))
      · split
        · trivial
        · exact ifSome_ite (ifSome_ite (inv_modCu h0) (ifSome_ite trivial (inv_progress (inv_modCu (inv_sysEmit h0)))))
            (ifSome_ite trivial (inv_progress (inv_modCu (inv_sysAccumulate h0))))

theorem ends_systolicResult : Ends (execSystolicResult s) := inv_getD (ifSome_sysLeave h) h

/-! ### Traps at the CD (R102 to R104, R380, R385) -/

theorem inv_replyStatus {status : Nat} : Safety.Inv (s.replyStatus status) := kept h (by rfl)

theorem inv_trapAction {tid cause : Nat} : Safety.Inv (s.trapAction tid cause).2 := by
  unfold State.trapAction
  split
  · exact h
  · split
    next e1 => exact inv_of_eq (inv_cdRead h) e1
    next e2 => exact inv_of_eq (inv_cdRead h) e2

theorem inv_recordTrap {t : Trap} {k : Machine.Task} {slot action status : Nat} :
    Safety.Inv (s.recordTrap t k slot action status) :=
  inv_trapRecord h

theorem inv_holdForReplay {t : Trap} : Safety.Inv (s.holdForReplay t) := by
  unfold State.holdForReplay
  dsimp only
  split <;> exact h

theorem inv_trapKill {t : Trap} {k : Machine.Task} : Safety.Inv (s.trapKill t k) := by
  unfold State.trapKill
  extract_lets s1 s2 s3
  have h1 : Safety.Inv s1 := by
    dsimp only [s1]
    split
    · exact inv_recordTrap h
    · exact h
  have h2 : Safety.Inv s2 := by
    dsimp only [s2]
    split
    · exact inv_stopCmd h1
    · exact h1
  have h3 : Safety.Inv s3 := kept h2 (by rfl)
  exact inv_ite (inv_finishTask h3) (inv_killTask h3)

theorem inv_parkLease {t : Trap} {slot : Nat} : Safety.Inv (s.parkLease t slot) := by
  unfold State.parkLease
  split <;> exact h

theorem inv_recoverTo {t : Trap} {plane : Option Nat} : Safety.Inv (s.recoverTo t plane) := by
  unfold State.recoverTo
  split
  · exact inv_ite (inv_setHolds (kept h (by rfl))) h
  · exact h

theorem inv_copyTrap {t : Trap} {k : Machine.Task} {a : TrapAct} : Safety.Inv (s.copyTrap t k a) := by
  unfold State.copyTrap
  split
  · split
    · exact inv_trapKill (inv_recordTrap h)
    · exact inv_trapKill (kept h (by rfl))
  · split
    · exact inv_trapKill (inv_recordTrap h)
    · exact inv_trapKill (kept h (by rfl))
  · exact inv_trapKill h

theorem inv_applyLease {t : Trap} {k : Machine.Task} {a : TrapAct} : Safety.Inv (s.applyLease t k a) := by
  unfold State.applyLease
  dsimp only
  split
  · exact inv_trapKill h
  · exact inv_ite (inv_parkLease (inv_recordTrap h)) (inv_ite (inv_trapKill h) (inv_holdForReplay (kept h (by rfl))))
  · exact inv_parkLease (inv_recordTrap h)
  · split
    · exact inv_parkLease (inv_recordTrap h)
    · exact inv_trapKill (kept h (by rfl))
  · split
    · exact inv_recoverTo (inv_holdForReplay (inv_recordTrap h))
    · exact inv_trapKill (kept h (by rfl))

theorem inv_applyAction {t : Trap} {k : Machine.Task} {a : TrapAct} : Safety.Inv (s.applyAction t k a) :=
  inv_ite (inv_copyTrap h) (inv_applyLease h)

theorem ends_trapAction : Ends (execTrapAction s) := by
  unfold execTrapAction
  dsimp only
  split
  · exact h
  · split
    · exact h
    · split
      · split
        · exact h
        · split
          · exact h
          · exact inv_applyAction (inv_trapAction (kept h (by rfl)))
      · split
        · exact inv_applyAction (inv_trapAction (kept h (by rfl)))
        · split
          · exact inv_stopCmd (kept h (by rfl))
          · exact h

theorem ends_taskResume {die entry : Nat} : Ends (execTaskResume die entry s) := by
  unfold execTaskResume
  dsimp only
  (repeat' split) <;> exact h

theorem ends_taskKill {die entry : Nat} : Ends (execTaskKill die entry s) := by
  unfold execTaskKill
  split
  · exact h
  · split
    · exact h
    · split
      · exact inv_replyStatus (inv_ite (inv_forceTask h) (inv_killTask (inv_stopCmd h)))
      · exact inv_replyStatus (inv_killTask h)

/-! ### Containment regions (R227 to R233) -/

theorem inv_toPlane {L : Lease} {plane first : Nat} : Safety.Inv (s.toPlane L plane first) := inv_ite h (kept h (by rfl))

theorem inv_endUnwind {lease : Nat} : Safety.Inv (s.endUnwind lease) :=
  inv_putBack (inv_progress (inv_setHolds (kept h (by rfl))))

theorem inv_unwindLease {L : Lease} {r : Region} {x : Unwind} : Safety.Inv (s.unwindLease L r x) := by
  unfold State.unwindLease
  extract_lets first free mine fetching s1 s2 held s3 s4
  have h1 : Safety.Inv s1 := inv_foldl (fun _ _ hu => kept hu (by rfl)) (inv_applyUndo (kept h (by rfl)))
  have h2 : Safety.Inv s2 := kept h1 (by rfl)
  have h3 : Safety.Inv s3 := inv_modLease h2
  exact inv_ite (inv_raiseErr (inv_raiseErr (inv_endUnwind h3))) (inv_toPlane h3)

theorem ends_containmentUnwind : Ends (execContainmentUnwind s) := by
  unfold execContainmentUnwind
  split
  · exact h
  · split
    · split
      · exact h
      · split
        · split
          · exact inv_progress (inv_unwindLease h)
          · exact h
        · split
          · exact h
          · exact inv_endUnwind h
    · exact h

theorem ends_regionCommit : Ends (execRegionCommit s) := by
  unfold execRegionCommit
  dsimp only
  (repeat' split) <;> exact h

end

end Sys2Proof.Proofs.MemoryForm
end

section
/-! Start lists, mailbox commands and packets keep the canonical form of memory (R52 to R65, R70, R71, R106, R174, R384, R388,
R389). -/

namespace Sys2Proof.Proofs.MemoryForm

open Sys2Proof Sys2Proof.Machine Sys2Proof.Claims Sys2Proof.Proofs Sys2Proof.Proofs.MemoryFrame

section
variable {s : State} (h : Safety.Inv s)
include h

/-! ### Start lists (R52 to R56, R62 to R65, R388) -/

theorem inv_writeTail {slot : Nat} {tail : BitVec 32} : Safety.Inv (s.writeTail slot tail) := by
  unfold State.writeTail
  split
  · exact h
  · exact inv_ite h (inv_ite (kept h (by rfl)) (kept h (by rfl)))

theorem ends_slchead {slot : Nat} {v : BitVec 32} : Ends (execSlchead slot v s) := h

theorem ends_stop {slot : Nat} : Ends (execStop slot s) := h

theorem ends_start {slot : Nat} : Ends (execStart slot s) := h

theorem inv_forceSl {slot : Nat} {nodes : List (Nat × BitVec 1024)} : Safety.Inv (s.forceSl slot nodes) :=
  inv_sweepSl (inv_foldl (fun _ _ hu => inv_forceTask hu) (inv_foldl (fun _ _ hu => inv_modSl (inv_report hu)) h))

theorem inv_destroySl {slot : Nat} {force : Bool} : Safety.Inv (s.destroySl slot force) := by
  unfold State.destroySl
  dsimp only
  split
  · exact h
  · exact inv_ite h (inv_ite (inv_forceSl (kept h (by rfl))) (inv_sweepSl (kept h (by rfl))))

theorem inv_endSl {slot : Nat} : Safety.Inv (s.endSl slot) := by
  unfold State.endSl
  split
  · exact h
  · exact inv_ite (inv_forceSl (kept h (by rfl))) (inv_destroySl h)

theorem inv_fetchPacket {l : StartList} : Safety.Inv (s.fetchPacket l).2 := by
  unfold State.fetchPacket
  dsimp only
  split
  next e1 => exact kept (inv_of_eq (inv_cdRead h) e1) (by rfl)
  next e2 => split <;> exact kept (inv_of_eq (inv_cdRead h) e2) (by rfl)

theorem inv_refusePacket {l : StartList} {b : BitVec 1024} {r : Nat × Nat} : Safety.Inv (s.refusePacket l b r) :=
  inv_modSl (inv_putCompletion (kept h (by rfl)))

theorem inv_consumePacket {l : StartList} : Safety.Inv (s.consumePacket l) := by
  unfold State.consumePacket
  split
  next e1 => exact inv_of_eq (inv_fetchPacket h) e1
  next e2 =>
    have h2 := inv_of_eq (inv_fetchPacket h) e2
    split
    · exact inv_refusePacket h2
    · exact h2

theorem ends_packetRead : Ends (execPacketRead s) := by
  unfold execPacketRead
  split
  · exact h
  · split
    · exact h
    · split
      · exact h
      · exact inv_consumePacket h

theorem ends_packetStampRetry : Ends (execPacketStampRetry s) := by
  unfold execPacketStampRetry
  split
  · exact h
  · split
    · exact h
    · exact inv_consumePacket h

theorem ends_packetCompletion : Ends (execPacketCompletion s) := by
  unfold execPacketCompletion
  dsimp only
  split
  · exact h
  · split
    · exact h
    · split
      · exact h
      · split
        · exact h
        · exact inv_sweepSl (inv_report (kept h (by rfl)))

/-! ### Reading an image (R81, R240 to R250) -/

theorem inv_readImage {tid va : Nat} : Safety.Inv (s.readImage tid va).2 := by
  unfold State.readImage
  dsimp only
  split
  next e1 => exact inv_of_eq (inv_cdRead h) e1
  next e2 =>
    have h2 := inv_of_eq (inv_cdRead h) e2
    split
    · exact h2
    · split
      next e3 => exact inv_of_eq (inv_cdRead h2) e3
      next e4 => exact inv_of_eq (inv_cdRead h2) e4

theorem inv_readArgs {tid va n : Nat} : Safety.Inv (s.readArgs tid va n).2 := by
  unfold State.readArgs
  split
  · exact h
  · split
    next e1 => exact inv_of_eq (inv_cdRead h) e1
    next e2 => exact inv_of_eq (inv_cdRead h) e2

/-! ### The placer's map (R78 to R80) -/

theorem inv_modLink {k : Nat} {f : Link → Link} : Safety.Inv (s.modLink k f) := kept h (by rfl)

theorem inv_tightenSeams : Safety.Inv s.tightenSeams := inv_of_only (Links.tightenSeams_only s) (kept h (by rfl))

/-! ### Mailbox commands (R70, R71, R106, R174, R384) -/

theorem ends_mailCmd {r : Except Nat State} (hr : IfOk r) : Ends (s.mailCmd r) := by
  unfold State.mailCmd
  split
  · exact h
  · split
    · exact h
    · exact hr

theorem ends_mailUnstated : Ends s.mailUnstated := by
  unfold State.mailUnstated
  split <;> exact h

theorem ifOk_refusing {l : List (Nat × Bool)} : IfOk (refusing l s) := by
  unfold refusing
  split
  · trivial
  · exact h

theorem inv_readMustSave {tid va : Nat} : Safety.Inv (s.readMustSave tid va).2 := by
  unfold State.readMustSave
  dsimp only
  split
  next e1 => exact inv_of_eq (inv_cdRead h) e1
  next e2 =>
    have h2 := inv_of_eq (inv_cdRead h) e2
    split
    · exact h2
    · split
      next e3 => exact inv_of_eq (inv_cdRead h2) e3
      next e4 => (repeat' split) <;> exact inv_of_eq (inv_cdRead h2) e4

theorem inv_declare {tid va : Nat} {decl : Bool} : Safety.Inv (s.declare tid va decl).2 := by
  unfold State.declare
  split
  · exact h
  · split
    next e1 => exact inv_of_eq (inv_readMustSave h) e1
    next e2 => exact inv_of_eq (inv_readMustSave h) e2

theorem ifOk_createCtx {a : CtxArgs} : IfOk (s.createCtx a) := by
  unfold State.createCtx
  dsimp only
  split
  · trivial
  · split
    · trivial
    next e2 => exact kept (inv_of_eq (inv_declare (kept h (by rfl))) e2) (by rfl)

theorem ends_ctxCreate {a : CtxArgs} : Ends (execCtxCreate a s) := by
  unfold execCtxCreate
  split
  · exact h
  · split
    · exact h
    · exact ends_mailCmd h (ifOk_createCtx h)

theorem ends_onCtx {tid : Nat} {f : Ctx → Except Nat State} (hf : ∀ c, IfOk (f c)) : Ends (s.onCtx tid f) := by
  refine ends_mailCmd h ?_
  split
  · exact hf _
  · trivial

theorem ends_ctxDiemap {tid vdie die : Nat} : Ends (execCtxDiemap tid vdie die s) :=
  ends_onCtx h fun _ => ifOk_refusing (kept h (by rfl))

theorem ends_ctxPace {tid pace : Nat} : Ends (execCtxPace tid pace s) := ends_onCtx h fun _ => ifOk_refusing (kept h (by rfl))

theorem ends_ctxRoot {asid dc addr : Nat} : Ends (execCtxRoot asid dc addr s) := ends_mailCmd h h

theorem ends_msUpdate {tid : Nat} {decl : Bool} : Ends (execMsUpdate tid decl s) := by
  refine ends_ite h (ends_onCtx h fun c => ?_)
  split
  · trivial
  next e => exact inv_modCtx (inv_of_eq (inv_declare h) e)

theorem ends_slCreate {a : SlArgs} : Ends (execSlCreate a s) :=
  ends_onCtx h fun _ => ifOk_ite trivial (ifOk_refusing (kept h (by rfl)))

theorem ends_bwBudget {die b : Nat} : Ends (execBwBudget die b s) := by
  unfold execBwBudget
  split
  · exact ends_mailUnstated h
  · exact ends_mailCmd h h

theorem ends_poolAdd {tid pool pa : Nat} {big : Bool} : Ends (execPoolAdd tid pool pa big s) := by
  unfold execPoolAdd
  dsimp only
  split
  · exact ends_mailCmd h trivial
  · split
    · exact ends_mailCmd h trivial
    · split
      · exact ends_mailUnstated h
      · exact ends_mailCmd h h

theorem ends_s2inv {vmid base count : Nat} : Ends (execS2inv vmid base count s) := by
  unfold execS2inv
  split
  · exact h
  · exact ends_mailCmd h (inv_beginInval h)

theorem ends_racePool {die base size : Nat} : Ends (execRacePool die base size s) := by
  unfold execRacePool
  split
  · exact ends_mailUnstated h
  · exact ends_mailCmd h h

theorem ends_siteThresh {v : Nat} : Ends (execSiteThresh v s) := by
  unfold execSiteThresh
  split
  · exact ends_mailUnstated h
  · exact ends_mailCmd h h

theorem ends_siteList : Ends (execSiteList s) := by
  unfold execSiteList
  split <;> exact h

theorem ends_errCounts : Ends (execErrCounts s) := by
  unfold execErrCounts
  split <;> exact h

theorem ends_routeTableWrite {dst : Nat} {mask : BitVec 16} : Ends (execRouteTableWrite dst mask s) := by
  unfold execRouteTableWrite
  split <;> exact h

/-! ### Packets (R55, R57 to R61, R95, R389) -/

theorem inv_takePacket {slot : Nat} {b : BitVec 1024} {status : Option (Nat × Nat)} {nodes : List (BitVec 1024)} :
    Safety.Inv (s.takePacket slot b status nodes) :=
  inv_of_only (Admission.takePacket_only s slot b status nodes) (kept h (by rfl))

theorem inv_admitLaunch {l : StartList} {b : BitVec 1024} : Safety.Inv (s.admitLaunch l b) := by
  unfold State.admitLaunch
  dsimp only
  split
  · exact h
  · split
    · exact inv_addTask (inv_takePacket h)
    · exact h

theorem inv_admitGraph {l : StartList} {b : BitVec 1024} : Safety.Inv (s.admitGraph l b) := by
  unfold State.admitGraph
  dsimp only
  split
  next e1 => exact inv_takePacket (inv_of_eq (inv_cdRead h) e1)
  next e2 => exact inv_takePacket (kept (inv_of_eq (inv_cdRead h) e2) (by rfl))

theorem inv_admitReplay {l : StartList} {b : BitVec 1024} : Safety.Inv (s.admitReplay l b) := by
  unfold State.admitReplay
  split <;> exact inv_takePacket h

theorem inv_admitPatch {l : StartList} {b : BitVec 1024} : Safety.Inv (s.admitPatch l b) := by
  unfold State.admitPatch
  dsimp only
  split
  · exact inv_takePacket h
  · exact inv_ite (inv_takePacket h) (inv_takePacket (kept h (by rfl)))

theorem inv_admitSigsem {l : StartList} {b : BitVec 1024} : Safety.Inv (s.admitSigsem l b) := by
  unfold State.admitSigsem
  extract_lets a old
  have hold : Safety.Inv old.2 := by
    refine inv_iteSnd ?_ h
    split
    next e => exact inv_of_eq (inv_cdReadLines h) e
    next e => exact inv_of_eq (inv_cdReadLines h) e
  clear_value old
  obtain ⟨_ | v, s1⟩ := old
  · exact inv_takePacket hold
  · exact inv_takePacket (inv_cdWriteLines hold)

theorem inv_admitWaitsem {l : StartList} {b : BitVec 1024} : Safety.Inv (s.admitWaitsem l b) := by
  unfold State.admitWaitsem
  dsimp only
  split
  next e1 => exact inv_takePacket (inv_of_eq (inv_cdRead h) e1)
  next e2 =>
    have h2 := inv_of_eq (inv_cdRead h) e2
    exact inv_ite (inv_takePacket h2) (kept h2 (by rfl))

theorem inv_homeDie {c : Ctx} {va : Nat} : Safety.Inv (s.homeDie c va).2 := by
  unfold State.homeDie
  dsimp only
  split
  · exact h
  · split
    · exact h
    · split
      next e1 => exact inv_of_eq (inv_translate h) e1
      next e2 => exact inv_of_eq (inv_translate h) e2

theorem inv_admitCopy {l : StartList} {b : BitVec 1024} : Safety.Inv (s.admitCopy l b) := by
  unfold State.admitCopy
  dsimp only
  split
  · exact h
  · split
    next e1 => exact inv_takePacket (inv_of_eq (inv_homeDie h) e1)
    next e2 =>
      have h2 := inv_of_eq (inv_homeDie h) e2
      split
      · exact h2
      · exact inv_ite h2 (inv_addTask (inv_enqueue (inv_takePacket (kept h2 (by rfl)))))

theorem inv_admitXlinv {l : StartList} {b : BitVec 1024} : Safety.Inv (s.admitXlinv l b) :=
  inv_ite (inv_takePacket h) (inv_ite (inv_takePacket h) (inv_takePacket (inv_beginInval h)))

theorem inv_admitKind {l : StartList} {b : BitVec 1024} : Safety.Inv (s.admitKind l b) := by
  unfold State.admitKind
  split
  · exact inv_admitLaunch h
  · exact inv_admitGraph h
  · exact inv_admitReplay h
  · exact inv_admitPatch h
  · exact inv_admitSigsem h
  · exact inv_admitWaitsem h
  · exact inv_admitCopy h
  · exact inv_ite (inv_takePacket h) h
  · exact inv_admitXlinv h
  · exact inv_takePacket h

theorem ends_attempt {kinds : Nat → Bool} : Ends (s.attempt kinds) := by
  unfold State.attempt
  dsimp only
  split
  · exact h
  · split
    · exact h
    · split
      · exact h
      · split
        · exact inv_consumePacket h
        · split
          · exact inv_consumePacket h
          · exact inv_ite (inv_admitKind (inv_consumePacket h)) (inv_consumePacket h)

theorem ends_heldPacketRetry : Ends (execHeldPacketRetry s) := ends_attempt h

theorem ends_nopPacket : Ends (execNopPacket s) := ends_attempt h

theorem ends_launch : Ends (execLaunch s) := ends_attempt h

theorem ends_graph : Ends (execGraph s) := ends_attempt h

theorem ends_replayPacket : Ends (execReplayPacket s) := ends_attempt h

theorem ends_patch : Ends (execPatch s) := ends_attempt h

theorem ends_sigsem : Ends (execSigsem s) := ends_attempt h

theorem ends_waitsem : Ends (execWaitsem s) := ends_attempt h

theorem ends_waitsemPoll : Ends (execWaitsemPoll s) := ends_attempt h

theorem ends_copy : Ends (execCopy s) := ends_attempt h

theorem ends_fencePacket : Ends (execFencePacket s) := ends_attempt h

theorem ends_xlinvPacket : Ends (execXlinvPacket s) := ends_attempt h

theorem inv_nodeDone {slot n : Nat} : Safety.Inv (s.nodeDone slot n) := kept h (by rfl)

theorem ends_replayNodeEntry : Ends (execReplayNodeEntry s) := by
  unfold execReplayNodeEntry
  dsimp only
  split
  · exact h
  · split
    · split
      · exact h
      · split
        · exact inv_sweepSl (inv_nodeDone (inv_report (kept h (by rfl))))
        · split
          · exact inv_addTask (kept h (by rfl))
          · exact h
    · exact h

theorem inv_discardQueued {tid : Nat} : Safety.Inv (s.discardQueued tid) := kept h (by rfl)

theorem inv_dropCtx {tid : Nat} : Safety.Inv (s.dropCtx tid) := kept h (by rfl)

theorem ends_ctxDestroy {tid : Nat} : Ends (execCtxDestroy tid s) := by
  unfold execCtxDestroy
  refine ends_ite h ?_
  split
  · exact inv_replyStatus h
  · extract_lets s1 s2 s3 s4
    have h1 : Safety.Inv s1 := inv_foldl (fun _ _ hu => inv_endSl hu) (inv_modCtx h)
    have h2 : Safety.Inv s2 := inv_foldl (fun _ _ hu => inv_forceTask hu) h1
    have h4 : Safety.Inv s4 := kept (inv_discardQueued h2 : Safety.Inv s3) (by rfl)
    exact ends_ite h4 (inv_replyStatus (inv_dropCtx h4))

end

end Sys2Proof.Proofs.MemoryForm
end

section
/-! Placing, moving and saving a lease keep the canonical form of memory (R81 to R88, R97, R98, R108, R234, R235). -/

namespace Sys2Proof.Proofs.MemoryForm

open Sys2Proof Sys2Proof.Machine Sys2Proof.Claims Sys2Proof.Proofs Sys2Proof.Proofs.MemoryFrame

section
variable {s : State} (h : Safety.Inv s)
include h

/-! ### Saved context (R83, R84, R386) -/

theorem inv_makeRecord {L : Lease} : Safety.Inv (s.makeRecord L).2 := h

/-! ### Placing a lease (R81, R82, R88, R97, R98) -/

theorem inv_beginGroups {gs : List Nat} : Safety.Inv (s.beginGroups gs).2 := by
  induction gs generalizing s with
  | nil => exact h
  | cons g gs ih => exact ih (inv_setParty h)

theorem inv_launchAcquire {L : Lease} {parties : List Nat} : Safety.Inv (s.launchAcquire L parties) :=
  inv_foldl (fun _ _ hu => kept hu (by rfl)) h

theorem inv_bindPorts {L : Lease} {asid : Nat} {groups : List (Nat × Nat)} {ps : List PE} :
    Safety.Inv (s.bindPorts L asid groups ps) := by
  induction ps generalizing s with
  | nil => exact h
  | cons p ps ih => exact ih h

theorem inv_placeLease {t : Machine.Task} {image : Image} {args : List Word} {r : Rect} {held : Nat} :
    Safety.Inv (s.placeLease t image args r held) :=
  inv_modTask (inv_launchAcquire (inv_bindPorts (inv_beginGroups (kept h (by rfl)))))

theorem inv_keepParty {k sfr : Nat} : Safety.Inv (s.keepParty k sfr).2 := by
  unfold State.keepParty
  dsimp only
  split
  · exact inv_beginParty h
  · split
    · exact h
    · exact inv_setParty h

theorem inv_keepParties {l : List (Nat × Nat)} : Safety.Inv (s.keepParties l).2 := by
  induction l generalizing s with
  | nil => exact h
  | cons x rest ih => exact ih (inv_keepParty h)

theorem inv_restoreTeam {die : Nat} {t : Team} : Safety.Inv (s.restoreTeam die t) := inv_ite (kept h (by rfl)) (kept h (by rfl))

theorem inv_rejoin {saved : Saved} {k : Nat} : Safety.Inv (s.rejoin saved k) := by
  unfold State.rejoin
  dsimp only
  split <;> exact h

theorem inv_requeueCmd {c : EngCmd} : Safety.Inv (s.requeueCmd c) := by
  unfold State.requeueCmd
  dsimp only
  split <;> exact h

theorem inv_restoreLease {t : Machine.Task} {b : Save} {r : Rect} {held : Nat} : Safety.Inv (s.restoreLease t b r held) := by
  unfold State.restoreLease
  extract_lets k asid L0 L unit g ps g2 s1 s2 s3 s5 s6
  have hg : Safety.Inv g.2 := inv_keepParties (kept h (by rfl))
  have h1 : Safety.Inv s1 := kept hg (by rfl)
  have h2 : Safety.Inv s2 := inv_foldl (fun _ _ hu => inv_restoreTeam hu) (inv_rejoin h1)
  have h3 : Safety.Inv s3 := inv_foldl (fun _ _ hu => inv_requeueCmd hu) h2
  have h5 : Safety.Inv s5 := inv_foldl (fun _ _ hu => inv_endSfr hu) (inv_launchAcquire h3)
  have h6 : Safety.Inv s6 := inv_freeSlot (inv_modCtx h5)
  exact inv_setHolds (inv_modTask h6)

theorem inv_settleTask {t : Machine.Task} {image : Image} {args : List Word} {save : Option Save} {r : Rect} {held : Nat} :
    Safety.Inv (s.settleTask t image args save r held) := by
  refine inv_tightenSeams ?_
  split
  · exact inv_placeLease h
  · exact inv_restoreLease h

theorem inv_loadTask {c : Ctx} {t : Machine.Task} : Safety.Inv (s.loadTask c t).2 := by
  unfold State.loadTask
  split
  · exact h
  · split
    next e1 => exact inv_of_eq (inv_readImage h) e1
    next e2 =>
      have h2 := inv_of_eq (inv_readImage h) e2
      split
      · exact h2
      · split
        · exact h2
        · split
          next e3 => exact inv_of_eq (inv_readArgs h2) e3
          next e4 => exact inv_of_eq (inv_readArgs h2) e4

theorem inv_requestMove {id : Nat} {job : MoveJob} {resv : Option Nat} : Safety.Inv (s.requestMove id job resv) := by
  unfold State.requestMove
  dsimp only
  split
  · exact h
  · exact inv_ite h (inv_setHolds (kept h (by rfl)))

theorem inv_requeueTask {t : Machine.Task} {id : Nat} : Safety.Inv (s.requeueTask t id) := inv_modTask (inv_dropLease h)

theorem inv_victim {id row resv : Nat} : Safety.Inv (s.victim id row resv) := by
  unfold State.victim
  dsimp only
  split
  · exact h
  · split
    · exact inv_ite (kept h (by rfl)) (inv_ite (inv_requestMove h) (inv_ite (inv_requeueTask h) (inv_ite (inv_killTask h)
        (inv_requestMove h))))
    · exact h

theorem inv_reserve {t : Machine.Task} {image : Image} {args : List Word} {save : Option Save} {r : Rect} {held : Nat}
    {dests : List (Nat × Nat × Nat)} : Safety.Inv (s.reserve t image args save r held dests).2 :=
  h

theorem ifSome_makeWay {t : Machine.Task} {image : Image} {args : List Word} {save : Option Save} {held d : Nat} :
    IfSome (s.makeWay t image args save held d) := by
  unfold State.makeWay
  split
  · exact inv_foldl (fun _ _ hu => inv_requestMove hu) (inv_reserve h)
  · exact ifSome_map fun _ => inv_foldl (fun _ _ hu => inv_victim hu) (inv_reserve h)

theorem ifSome_tryPlace {t : Machine.Task} : IfSome (s.tryPlace t) := by
  unfold State.tryPlace
  dsimp only
  split
  · trivial
  · split
    · trivial
    next e2 => exact inv_finishTask (inv_of_eq (inv_loadTask h) e2)
    next e3 =>
      have h3 := inv_of_eq (inv_loadTask h) e3
      split
      · exact inv_finishTask h3
      · split
        · exact inv_settleTask h3
        · exact ifSome_makeWay h3

theorem inv_placeFirst {l : List Machine.Task} : Safety.Inv (s.placeFirst l) := by
  induction l generalizing s with
  | nil => exact h
  | cons t rest ih =>
    unfold State.placeFirst
    split
    next e => exact inv_of_some (ifSome_tryPlace h) e
    · exact inv_ite h (ih h)

theorem inv_askToLeave {L : Lease} : Safety.Inv (s.askToLeave L) := by
  unfold State.askToLeave
  dsimp only
  split
  · split
    · exact inv_requestMove h
    · split
      next e1 => exact inv_of_some (ifSome_makeWay h) e1
      · exact inv_ite (inv_requestMove h) h
  · exact h

theorem inv_evacuate : Safety.Inv s.evacuate := inv_foldl (fun _ _ hu => inv_ite (inv_askToLeave hu) hu) h

theorem ends_placerPlacement : Ends (execPlacerPlacement s) := by
  unfold execPlacerPlacement
  extract_lets die saved s1 s2
  have h1 : Safety.Inv s1 := inv_foldl (fun _ _ hu => inv_becomeReady hu) (inv_evacuate h)
  have h2 : Safety.Inv s2 := inv_ite h1 (inv_placeFirst h1)
  exact ends_ite h (kept h2 (by rfl))

theorem ends_reservedWindowPlace : Ends (execReservedWindowPlace s) := by
  unfold execReservedWindowPlace
  dsimp only
  split
  · exact h
  · split
    · exact h
    · split
      · exact inv_dropResv h
      · split
        · exact inv_dropResv h
        · split
          · exact inv_requestMove (kept h (by rfl))
          · exact inv_settleTask (kept h (by rfl))

theorem ends_drainDeadline : Ends (execDrainDeadline s) := by
  unfold execDrainDeadline
  dsimp only
  split
  · exact h
  · split
    · exact h
    · split
      · exact h
      · split
        · exact h
        · split
          · exact h
          · exact inv_victim (kept h (by rfl))

/-! ### Relocations and checkpoints (R83 to R88, R108, R368, R377) -/

theorem inv_abandonMove {id : Nat} : Safety.Inv (s.abandonMove id) := by
  unfold State.abandonMove
  dsimp only
  split
  · exact h
  · split
    · exact inv_dropResv (inv_setHolds (inv_cancelMove h))
    · exact inv_victim (inv_setHolds (inv_cancelMove h))
    · exact inv_setHolds (inv_cancelMove h)

theorem ends_relocationStart : Ends (execRelocationStart s) := by
  unfold execRelocationStart
  dsimp only
  split
  · exact h
  · split
    · exact h
    · split
      · exact h
      · split
        · split
          · exact h
          · exact inv_setHolds (kept h (by rfl))
        · split
          · split
            · exact inv_completeInputs (inv_setHolds (inv_cancelMove h))
            · exact inv_injectBatons (kept h (by rfl))
          · exact h

theorem ends_relocationTimeout : Ends (execRelocationTimeout s) := by
  unfold execRelocationTimeout
  dsimp only
  split
  · exact h
  · split
    · exact h
    · split
      · exact inv_abandonMove h
      · exact h

theorem inv_finishMove {L : Lease} {x y : Nat} : Safety.Inv (s.finishMove L x y) :=
  inv_tightenSeams (inv_putBack (inv_setHolds (kept h (by rfl))))

theorem ends_relocationDrained : Ends (execRelocationDrained s) := by
  unfold execRelocationDrained
  dsimp only
  split
  · exact h
  · split
    · split
      · exact h
      · split
        · exact inv_abandonMove h
        · exact inv_finishMove h
    · exact h

theorem inv_leaveSaved {L : Lease} {i : Nat} {b : Save} : Safety.Inv (s.leaveSaved L i b) :=
  inv_modTask (kept (inv_foldl (fun _ _ hu => inv_stopCmd hu) h) (by rfl))

theorem ends_checkpointDrained : Ends (execCheckpointDrained s) := by
  unfold execCheckpointDrained
  dsimp only
  split
  · exact h
  · split
    · split
      · exact h
      · split
        · exact inv_abandonMove h
        · split
          next e1 => exact inv_abandonMove (inv_of_eq (inv_cdWrite (inv_makeRecord h)) e1)
          next e2 =>
            have h2 := inv_of_eq (inv_cdWrite (inv_makeRecord h)) e2
            split
            next e3 => exact inv_abandonMove (inv_of_eq (inv_cdWrite h2) e3)
            next e4 => exact inv_leaveSaved (inv_of_eq (inv_cdWrite h2) e4)
    · exact h

theorem ends_checkpointDeadline : Ends (execCheckpointDeadline s) := by
  unfold execCheckpointDeadline
  split
  · exact h
  · split
    · split
      · exact inv_killTask h
      · exact h
    · exact h

theorem inv_endStanding {L : Lease} {zone va : Nat} : Safety.Inv (s.endStanding L zone va) := by
  unfold State.endStanding
  split
  · exact h
  · exact inv_abandonMove h

theorem ends_standingCheckpoint : Ends (execStandingCheckpoint s) := by
  unfold execStandingCheckpoint
  dsimp only
  split
  · exact h
  · split
    · split
      · exact h
      · split
        · exact inv_endStanding (kept h (by rfl))
        · split
          next e1 => exact inv_endStanding (inv_of_eq (inv_cdWrite (inv_makeRecord (kept h (by rfl)))) e1)
          next e2 =>
            have h2 := inv_of_eq (inv_cdWrite (inv_makeRecord (kept h (by rfl)))) e2
            split
            next e3 => exact inv_endStanding (inv_of_eq (inv_cdWrite h2) e3)
            next e4 => exact inv_endStanding (kept (inv_of_eq (inv_cdWrite h2) e4) (by rfl))
    · exact h

end

end Sys2Proof.Proofs.MemoryForm
end

section
/-! Die links, resets, the photo finish and the hold-up keep the canonical form of memory (R28, R33 to R38, R109 to R118,
R237, R387). -/

namespace Sys2Proof.Proofs.MemoryForm

open Sys2Proof Sys2Proof.Machine Sys2Proof.Claims Sys2Proof.Proofs Sys2Proof.Proofs.MemoryFrame

section
variable {s : State} (h : Safety.Inv s)
include h

/-! ### Die links (R28, R33 to R38, R387) -/

theorem inv_dropMoves : Safety.Inv s.dropMoves := by
  unfold State.dropMoves
  refine inv_foldl (fun u a hu => ?_) h
  split
  · exact inv_ite hu (inv_abandonMove hu)
  · exact hu

theorem inv_setDie {d : Nat} {st : LinkState} : Safety.Inv (s.setDie d st) :=
  inv_dropMoves (inv_foldl (fun _ _ hu => kept hu (by rfl)) (kept h (by rfl)))

theorem inv_downSome {l : List (Nat × Nat)} : Safety.Inv (s.downSome l) := by
  unfold State.downSome
  refine inv_foldl (fun u a hu => ?_) h
  (repeat' split) <;> exact hu

theorem inv_failSync {links : List Nat} {performed : List (Nat × Nat)} : Safety.Inv (s.failSync links performed) := by
  unfold State.failSync
  extract_lets hit waits s1 s2 s3
  have h1 : Safety.Inv s1 := kept h (by rfl)
  have h2 : Safety.Inv s2 := inv_foldl (fun _ _ hu => inv_ite (inv_applySync hu) hu) h1
  have h3 : Safety.Inv s3 := kept h2 (by rfl)
  exact inv_foldl (fun _ _ hu => inv_syncLost hu) h3

theorem inv_failLinks {links : List Nat} {performed : List (Nat × Nat)} : Safety.Inv (s.failLinks links performed) :=
  inv_failSync (inv_downSome (inv_reachHome h))

theorem inv_reroute : Safety.Inv s.reroute := inv_of_only (Laps.reroute_only s) (kept h (by rfl))

theorem inv_dissolveTeams {d : Nat} : Safety.Inv (s.dissolveTeams d) := by
  unfold State.dissolveTeams
  extract_lets ts s1 ws s2
  have h1 : Safety.Inv s1 := inv_foldl (fun _ _ hu => inv_foldl (fun _ _ hv => inv_endColl hv) hu) h
  have h2 : Safety.Inv s2 := inv_foldl (fun _ _ hu => inv_syncErr hu) (kept h1 (by rfl))
  exact h2

theorem inv_killHard {t : Machine.Task} {detail : Nat} : Safety.Inv (s.killHard t detail) := by
  unfold State.killHard
  split
  · exact inv_killTask (inv_stopCmd h)
  · exact inv_killTask h

theorem inv_killDie {d : Nat} : Safety.Inv (s.killDie d) := by
  unfold State.killDie
  dsimp only
  refine inv_foldl (fun u a hu => ?_) ?_
  · exact inv_stopCmd hu
  · refine inv_foldl (fun u a hu => ?_) h
    split
    · exact inv_killHard hu
    · exact hu

theorem inv_dieFails {d : Nat} {performed : List (Nat × Nat)} : Safety.Inv (s.dieFails d performed) := by
  unfold State.dieFails
  extract_lets s1 s2
  have h2 : Safety.Inv s2 := inv_dissolveTeams (inv_killDie (inv_setDie (inv_failLinks h)))
  clear_value s2
  exact inv_reroute (kept h2 (by rfl))

theorem ends_cdLinkFailure {die : Nat} {performed : List (Nat × Nat)} : Ends (execCdLinkFailure die performed s) := by
  unfold execCdLinkFailure
  split
  · exact inv_dieFails h
  · exact h

theorem ends_linkFailure {link : Nat} {performed : List (Nat × Nat)} : Ends (execLinkFailure link performed s) := by
  unfold execLinkFailure
  split
  · exact h
  · split
    · exact inv_dieFails h
    · exact inv_reroute (inv_modLink (inv_failLinks h))

theorem ends_seamModuleLoss {link lost : Nat} : Ends (execSeamModuleLoss link lost s) := by
  unfold execSeamModuleLoss
  split
  · exact h
  · exact inv_tightenSeams (kept h (by rfl))

theorem inv_adapterRetry {k : Nat} : Safety.Inv (s.adapterRetry k) := inv_ite (kept h (by rfl)) h

theorem ends_seamReturnRunning : Ends (execSeamReturnRunning s) := by
  unfold execSeamReturnRunning
  dsimp only
  split <;> exact h

theorem ends_seamRetrain {seam : Nat} {ok : Bool} : Ends (execSeamRetrain seam ok s) := by
  unfold execSeamRetrain
  dsimp only
  (repeat' split) <;> exact h

theorem inv_runAgain : Safety.Inv s.runAgain := inv_reroute (kept h (by rfl))

theorem inv_advanceLink {k : Nat} {st : LinkState} : Safety.Inv (s.advanceLink k st) := inv_ite (inv_setDie h) (kept h (by rfl))

theorem inv_trainingFails {k : Nat} : Safety.Inv (s.trainingFails k) := by
  unfold State.trainingFails
  extract_lets n s1 s2
  have h1 : Safety.Inv s1 := inv_modLink h
  have h2 : Safety.Inv s2 := inv_ite (inv_advanceLink h1) h1
  exact inv_ite (kept h2 (by rfl)) h2

theorem ends_linkTrainingResult {link : Nat} {ok : Bool} : Ends (execLinkTrainingResult link ok s) := by
  unfold execLinkTrainingResult
  refine ends_ite h ?_
  split
  · exact ends_ite (inv_advanceLink h) (inv_trainingFails h)
  · extract_lets s1 s2
    have h1 : Safety.Inv s1 := inv_modLink (inv_advanceLink h)
    have h2 : Safety.Inv s2 := inv_ite (kept h1 (by rfl)) h1
    exact ends_ite (inv_trainingFails h) (inv_runAgain h2)
  · exact h

/-! ### The warm reset of a die (R13, R202, R237) -/

theorem inv_writeBackWhere {f : L2Line → Bool} : Safety.Inv (s.writeBackWhere f) := by
  unfold State.writeBackWhere
  refine inv_foldl (fun u x hu => ?_) h
  split
  · exact inv_putMem hu
  · exact hu

theorem inv_writeBack {d : Nat} : Safety.Inv (s.writeBack d) := inv_writeBackWhere h

theorem inv_recallShares {d : Nat} : Safety.Inv (s.recallShares d) :=
  inv_foldl (fun _ _ hu => inv_foldl (fun _ _ hu => kept hu (by rfl)) hu) h

theorem inv_dieLoses {d : Nat} : Safety.Inv (s.dieLoses d) := inv_clearMem h

theorem inv_moveTask {t : Machine.Task} : Safety.Inv (s.moveTask t) := by
  unfold State.moveTask
  dsimp only
  (repeat' split) <;> exact h

theorem inv_moveCmd {q : VQueue} {e cmd : Nat} : Safety.Inv (s.moveCmd q e cmd) := by
  unfold State.moveCmd
  dsimp only
  split <;> exact h

theorem inv_moveCmds {q : VQueue} {e : Nat} {ks : List Nat} : Safety.Inv (s.moveCmds q e ks) := by
  induction ks generalizing s with
  | nil => exact h
  | cons k ks ih => exact inv_ite h (ih (inv_moveCmd h))

theorem inv_moveTeam {t : Team} {e : Nat} : Safety.Inv (s.moveTeam t e) := inv_ite h (kept h (by rfl))

theorem inv_moveEntries {d : Nat} : Safety.Inv (s.moveEntries d) := by
  unfold State.moveEntries
  extract_lets s1
  have h1 : Safety.Inv s1 := inv_foldl (fun _ _ hu => inv_moveTask hu) h
  split
  · exact h1
  · extract_lets s2
    have h2 : Safety.Inv s2 := inv_foldl (fun _ _ hu => inv_moveCmds hu) h1
    exact inv_foldl (fun _ _ hu => inv_moveTeam hu) h2

theorem inv_dropUnbacked {c : Ctx} {x : Nat × Nat × Word} : Safety.Inv (s.dropUnbacked c x) := inv_beginInval (inv_writeEntry h)

theorem inv_settlePage {c : Ctx} {x : Nat × Nat × Word} : Safety.Inv (s.settlePage c x) := by
  unfold State.settlePage
  split
  · exact inv_dropUnbacked h
  · split
    · exact inv_dropUnbacked h
    next e2 =>
      split
      · exact inv_dropUnbacked h
      · split
        · exact inv_dropUnbacked h
        next e4 => exact inv_of_eq (inv_lateAssign (inv_of_eq (inv_translate h) e2)) e4

theorem inv_settleUnbacked {d : Nat} : Safety.Inv (s.settleUnbacked d) :=
  inv_foldl (fun _ _ hu => inv_foldl (fun _ _ hu => inv_settlePage hu) hu) h

theorem inv_resetStep {d step : Nat} : Safety.Inv (s.resetStep d step) := kept h (by rfl)

theorem ends_dieReset {die : Nat} : Ends (execDieReset die s) := by
  unfold execDieReset
  dsimp only
  split
  · exact ends_mailUnstated h
  · split
    · exact ends_mailCmd h trivial
    · split
      · exact ends_mailCmd h h
      · exact ends_mailCmd h (inv_setDie h)

theorem inv_advanceReset {d a : Nat} : Safety.Inv (s.advanceReset d a) := by
  unfold State.advanceReset
  dsimp only
  split
  · exact inv_ite h (kept h (by rfl))
  · exact inv_ite (inv_resetStep (inv_moveEntries h)) (inv_moveEntries h)
  · exact inv_ite (inv_settleUnbacked h) (inv_ite (kept h (by rfl)) h)
  · exact inv_resetStep (inv_recallShares (inv_writeBack h))
  · exact inv_ite (inv_reroute (inv_resetStep (inv_setDie (inv_recallShares (inv_writeBack h))))) h
  · exact inv_resetStep (inv_setDie (inv_modLink (inv_dieLoses h)))
  · exact inv_ite (inv_setDie h) h
  · exact h

theorem ends_dieResetAdvance : Ends (execDieResetAdvance s) := by
  unfold execDieResetAdvance
  split
  · exact h
  · split
    · exact h
    · exact inv_advanceReset h

theorem ends_dieResetDrainDeadline : Ends (execDieResetDrainDeadline s) := by
  unfold execDieResetDrainDeadline
  split
  · split
    · split
      · exact h
      · split
        · exact inv_requeueTask h
        · exact inv_killTask h
    · exact h
  · exact h

theorem ifSome_pageTry {c : Ctx} {va die : Nat} {again : State → Option State}
    (hagain : ∀ u, Safety.Inv u → IfSome (again u)) : IfSome (s.pageTry c va die again) := by
  unfold State.pageTry
  split
  · trivial
  · split
    · trivial
    next e =>
      have h1 := inv_of_eq (inv_translate h) e
      split
      · trivial
      · split
        next e2 => exact inv_of_eq (inv_migrate h1) e2
        next e2 => exact hagain _ (inv_of_eq (inv_migrate h1) e2)
        · trivial

theorem ifSome_pageMove {c : Ctx} {va die : Nat} : IfSome (s.pageMove c va die) :=
  ifSome_pageTry h fun _ hu => ifSome_pageTry hu fun _ _ => trivial

theorem ends_pgMigr {tid va die : Nat} : Ends (execPgMigr tid va die s) := by
  unfold execPgMigr
  split
  · exact h
  · split
    · exact ends_mailCmd h trivial
    · split
      next e1 => exact ends_mailCmd h (inv_of_some (ifSome_pageMove h) e1)
      · exact ends_mailUnstated h

/-! ### The photo finish (R115 to R118) -/

theorem ends_dbgNonce {fresh : BitVec 128} : Ends (execDbgNonce fresh s) := by
  unfold execDbgNonce
  split <;> exact h

theorem ends_dbgFreeze {token : BitVec 1280} {sigOk : Bool} {f buf : Nat} : Ends (execDbgFreeze token sigOk f buf s) := by
  unfold execDbgFreeze
  split
  · exact ends_mailUnstated h
  · exact ends_mailCmd h h

theorem inv_photoKill {t : Machine.Task} : Safety.Inv (s.photoKill t) := by
  unfold State.photoKill
  split
  · exact inv_ite (inv_forceTask h) (inv_killHard h)
  · exact inv_killHard (inv_modTask (inv_dropSaved h))

theorem inv_disposeAll : Safety.Inv s.disposeAll := by
  unfold State.disposeAll
  extract_lets rs s1 s2
  have h1 : Safety.Inv s1 := by
    refine inv_foldl (fun u t hu => ?_) h
    split
    · exact inv_photoKill hu
    · exact hu
  have h2 : Safety.Inv s2 := inv_foldl (fun _ _ hu => inv_stopCmd hu) h1
  exact h2

theorem inv_photoReset {performed : List (Nat × Nat)} : Safety.Inv (s.photoReset performed) := by
  unfold State.photoReset
  extract_lets dies s1 s2 s3 s4
  have h1 : Safety.Inv s1 := inv_disposeAll (inv_reachHome h)
  have h2 : Safety.Inv s2 := inv_foldl (fun _ _ hu => inv_writeBack hu) (kept h1 (by rfl))
  have h3 : Safety.Inv s3 := inv_foldl (fun _ _ hu => inv_dieLoses (inv_setDie hu)) h2
  have h4 : Safety.Inv s4 := inv_foldl (fun _ _ hu => inv_setDie (inv_modLink hu)) h3
  exact h4

theorem ends_photoFinishFreeze {performed : List (Nat × Nat)} : Ends (execPhotoFinishFreeze performed s) := by
  unfold execPhotoFinishFreeze
  dsimp only
  split
  · exact h
  · split
    · exact h
    · split
      · exact h
      · exact inv_ite (kept h (by rfl)) (inv_photoReset (kept h (by rfl)))

/-! ### The supply, the hold-up and the keep store (R25, R105, R109 to R114) -/

omit h in
theorem inv_powerOff : Safety.Inv s.powerOff := rfl

theorem inv_booted {measures : List (BitVec 384)} : Safety.Inv (s.booted measures) := kept h (by rfl)

theorem ends_supplyPresent {verified : Bool} {measures : List (BitVec 384)} : Ends (execSupplyPresent verified measures s) := by
  have hoff : Safety.Inv s.powerOff := inv_powerOff
  exact ends_ite h (ends_ite (inv_booted (kept hoff (by rfl))) (kept hoff (by rfl)))

theorem ends_supplyLoss : Ends (execSupplyLoss s) := by
  unfold execSupplyLoss
  dsimp only
  split
  · exact h
  · exact h
  · exact inv_powerOff
  · split
    · exact h
    · exact inv_powerOff

theorem ends_energyReserveReady : Ends (execEnergyReserveReady s) := by
  refine ends_ite h (inv_foldl (fun u a hu => ?_) (kept h (by rfl)))
  have hc : IfOk (u.createCtx a) := ifOk_createCtx hu
  split
  next e => exact inv_replyStatus (inv_of_ok hc e)
  · exact inv_replyStatus hu

theorem ends_holdupChargeTimeout : Ends (execHoldupChargeTimeout s) := by
  unfold execHoldupChargeTimeout
  dsimp only
  split
  · exact h
  · split <;> exact h

theorem inv_partOf {c : Ctx} {va : Nat} : Safety.Inv (s.partOf c va).2 := by
  unfold State.partOf
  dsimp only
  split
  · exact h
  · split
    · exact h
    · split
      · exact h
      · split
        next e1 => exact inv_of_eq (inv_translate h) e1
        next e2 => exact inv_of_eq (inv_translate h) e2

theorem inv_saveLine {c : Ctx} {l : Leaf} {va : Nat} : Safety.Inv (s.saveLine c l va).2 := inv_settleCode h

theorem inv_saveLines {c : Ctx} {l : Leaf} {va : Nat} : Safety.Inv (s.saveLines c l va).2 :=
  List.foldrRecOn (motive := fun r : List (Nat × Line × Bool) × State => Safety.Inv r.2) _ _ h fun _ hr _ _ => inv_settleCode hr

theorem inv_savePage {c : Ctx} {set entry src dst : Nat} {d : SetData} : Safety.Inv (s.savePage c set entry src dst d).2 := by
  have hp : Safety.Inv (s.partOf c src).2 := inv_partOf h
  unfold State.savePage
  split
  next e => exact inv_of_eq hp e
  next e => exact inv_of_eq hp e
  next l s1 e =>
    have hx := inv_saveLines (inv_of_eq hp e) (c := c) (l := l) (va := src)
    dsimp only
    exact hx

theorem inv_savePages {c : Ctx} {set entry src dst n : Nat} {d : SetData} :
    Safety.Inv (s.savePages c set entry src dst n d).2 := inv_foldlSnd (fun _ _ hr => inv_savePage hr) h

theorem inv_saveEntry {c : Ctx} {set entry : Nat} {e : Nat × Nat × Nat × Nat × Nat} {d : SetData} :
    Safety.Inv (s.saveEntry c set entry e d).2 := by
  unfold State.saveEntry
  split
  · split
    · exact inv_savePages h
    · split
      · exact h
      · exact inv_savePages h

theorem inv_setDirectory {set : Nat} : Safety.Inv (s.setDirectory set).2 := h

theorem inv_saveSet {c : Ctx} {m : MustSave} {x : Stream} : Safety.Inv (s.saveSet c m x).2 := by
  unfold State.saveSet
  extract_lets j dir r bytes rec_
  have hd : Safety.Inv dir.2 := inv_setDirectory h
  have hr : Safety.Inv r.2 := inv_foldlSnd (fun _ _ hr => inv_saveEntry hr) hd
  exact hr

theorem inv_writeBackMust : Safety.Inv s.writeBackMust := by
  unfold State.writeBackMust
  refine inv_foldl (fun u a hu => ?_) h
  split
  next e1 =>
    have h1 := inv_of_eq (inv_partOf hu) e1
    split
    · exact inv_writeBackWhere h1
    · exact h1
  next e2 => exact inv_of_eq (inv_partOf hu) e2

theorem ends_powerFailTrap {performed : List (Nat × Nat)} : Ends (execPowerFailTrap performed s) := by
  unfold execPowerFailTrap
  extract_lets s1 s2 half r
  have h1 : Safety.Inv s1 := kept h (by rfl)
  have h2 : Safety.Inv s2 := inv_writeBackMust (inv_reachHome h1)
  have hr : Safety.Inv r.2 := inv_foldlSnd (fun _ _ hr => inv_saveSet hr) h2
  exact ends_ite h (kept hr (by rfl))

theorem ends_holdupEnergyLow {whole : Nat} : Ends (execHoldupEnergyLow whole s) := by
  unfold execHoldupEnergyLow
  dsimp only
  (repeat' split) <;> exact h

theorem ends_holdupManifest : Ends (execHoldupManifest s) := by
  unfold execHoldupManifest
  dsimp only
  split
  · exact h
  · split
    · exact h
    · exact inv_powerOff

theorem ends_holdupEnergyExhausted : Ends (execHoldupEnergyExhausted s) := by
  unfold execHoldupEnergyExhausted
  dsimp only
  split
  · exact h
  · split
    · exact h
    · exact inv_powerOff

theorem inv_restoreLine {c : Ctx} {l : Leaf} {va : Nat} {v : Line} {poison : Bool} : Safety.Inv (s.restoreLine c l va v poison) :=
  inv_ite h (inv_putLine (inv_cdPut h))

theorem inv_restorePage {c : Ctx} {p : SavedPage} : Safety.Inv (s.restorePage c p) := by
  unfold State.restorePage
  dsimp only
  split
  next e1 =>
    have h1 := inv_of_eq (inv_partOf h) e1
    refine inv_foldl (fun u a hu => ?_) ?_
    · split <;> exact inv_restoreLine hu
    · split
      · exact inv_readyLeaf h1
      · exact h1
  next e2 => exact inv_of_eq (inv_partOf h) e2

theorem ends_ksRestore {set tid : Nat} : Ends (execKsRestore set tid s) := by
  unfold execKsRestore
  dsimp only
  split
  · exact h
  · split
    · exact ends_mailCmd h trivial
    · exact ends_mailCmd h trivial
    · split
      · exact ends_mailCmd h trivial
      · split
        · exact ends_mailUnstated h
        · exact ends_mailCmd h (inv_foldl (fun _ _ hu => inv_restorePage hu) h)

theorem ends_ksConsume : Ends (execKsConsume s) := by
  unfold execKsConsume
  dsimp only
  split <;> exact ends_mailCmd h h

theorem ends_taskRestore {tid slotVa : Nat} : Ends (execTaskRestore tid slotVa s) := by
  unfold execTaskRestore
  dsimp only
  split
  · exact ends_mailCmd h trivial
  · split
    · exact ends_mailUnstated h
    · exact ends_mailCmd h h

theorem ends_fwLaunch {a : FwArgs} : Ends (execFwLaunch a s) := by
  unfold execFwLaunch
  dsimp only
  split
  · exact ends_mailCmd h trivial
  · split
    · exact ends_mailUnstated h
    · exact ends_mailCmd h (inv_addTask h)

end

end Sys2Proof.Proofs.MemoryForm
end

section
/-! Laps, registers, span ports and what comes from outside keep the canonical form of memory (R7, R26, R39 to R52, R90 to R94). -/

namespace Sys2Proof.Proofs.MemoryForm

open Sys2Proof Sys2Proof.Machine Sys2Proof.Claims Sys2Proof.Proofs Sys2Proof.Proofs.MemoryFrame

section
variable {s : State} (h : Safety.Inv s)
include h

/-! ### Laps, checkers and the reliability monitor (R90 to R94, R222, R238) -/

theorem inv_refill {b : Budget} : Safety.Inv (s.refill b) := inv_of_only (Laps.refill_only s b) (kept h (by rfl))

theorem inv_recordQueues : Safety.Inv s.recordQueues := by
  unfold State.recordQueues
  refine inv_foldl (fun u a hu => ?_) h
  split
  · exact hu
  · refine inv_foldl (fun u a hu => ?_) hu
    split
    · exact inv_ite (inv_publish hu) hu
    · exact hu

theorem ends_lapBoundary : Ends (execLapBoundary s) := by
  unfold execLapBoundary
  dsimp only
  split
  · exact h
  · exact inv_reroute (kept (inv_recordQueues (inv_foldl (fun _ _ hu => inv_refill hu) h)) (by rfl))

theorem inv_breakScratch {site : SiteRef} {off : Nat} : Safety.Inv (s.breakScratch site off) := by
  unfold State.breakScratch
  split <;> exact h

theorem inv_breakSums {site : SiteRef} : Safety.Inv (s.breakSums site) := by
  unfold State.breakSums
  dsimp only
  split
  · split
    · exact h
    · exact inv_pipeAt (kept h (by rfl))
  · exact h

theorem ends_pipeCheck {site : SiteRef} {slot : Nat} : Ends (s.pipeCheck site slot) := by
  unfold State.pipeCheck
  dsimp only
  split
  · exact h
  · split
    · exact h
    · exact ends_of_mem h fun _ => mem_fire fun c u => (mem_pipeAt _ _ _ _).trans (mem_fail u c _ _)

theorem ends_checkerMismatch {c : CheckEvent} : Ends (execCheckerMismatch c s) := by
  unfold execCheckerMismatch
  split
  · exact ends_pipeCheck h
  · exact inv_ite h (inv_breakSums h)
  · exact ends_breakAddress h
  · exact inv_ite h (inv_breakScratch h)
  · exact inv_ite h (kept h (by rfl))
  · exact inv_ite h (kept h (by rfl))
  · exact inv_ite h (kept h (by rfl))
  · exact inv_ite h (kept h (by rfl))
  · exact inv_ite h (kept h (by rfl))

theorem ends_checkCounterHalving : Ends (execCheckCounterHalving s) := by
  unfold execCheckCounterHalving
  split <;> exact h

theorem ends_siteRetire {sites : List (Nat × Nat)} : Ends (execSiteRetire sites s) :=
  ends_mailCmd h (inv_foldl (fun _ _ hu => inv_retire hu) h)

theorem inv_takeOut {a : FlagWhat} : Safety.Inv (s.takeOut a) := by
  unfold State.takeOut
  split
  · exact inv_retire h
  · exact h
  · exact h
  · exact h

theorem ends_reliabilityMonitor {domain rate : Nat} {what : FlagWhat} : Ends (execReliabilityMonitor domain rate what s) := by
  unfold execReliabilityMonitor
  dsimp only
  split
  · exact h
  · split
    · split
      · exact h
      · exact inv_ite (inv_takeOut (kept h (by rfl))) (kept h (by rfl))
    · split
      · exact h
      · split
        · exact inv_takeOut (kept h (by rfl))
        · exact h

/-! ### The host's registers (R7, R26, R27, R51, R52, R175, R388) -/

theorem inv_writeMsix {fn off : Nat} {v : BitVec 64} : Safety.Inv (s.writeMsix fn off v) := inv_unmask (kept h (by rfl))

theorem inv_writeSlctl {slot : Nat} {v : BitVec 64} : Safety.Inv (s.writeSlctl slot v) :=
  inv_ite (inv_destroySl h) (inv_ite h (inv_ite (kept h (by rfl)) (inv_ite (kept h (by rfl)) h)))

theorem inv_writeMailbox {off : Nat} {v : BitVec 64} : Safety.Inv (s.writeMailbox off v) := by
  unfold State.writeMailbox
  generalize List.foldl _ _ _ = m
  exact h

theorem inv_writeBar0 {fn off : Nat} {v : BitVec 64} : Safety.Inv (s.writeBar0 fn off v) :=
  inv_ite (inv_ite (inv_writeMailbox h) h) (inv_ite (inv_writeMsix h) h)

theorem inv_writeBar2 {fn off : Nat} {v : BitVec 64} : Safety.Inv (s.writeBar2 fn off v) := by
  unfold State.writeBar2
  dsimp only
  split
  · exact h
  · split
    · exact inv_writeTail h
    · exact h
    · exact inv_writeSlctl h
    · exact h

theorem ends_registerWrite {fn bar off : Nat} {v : BitVec 64} : Ends (execRegisterWrite fn bar off v s) := by
  unfold execRegisterWrite
  split
  · exact h
  · split
    · exact inv_writeBar0 h
    · exact inv_writeBar2 h
    · exact h

theorem ends_spdmRequest {fn : Nat} {req : SpdmReq} : Ends (execSpdmRequest fn req s) := by
  unfold execSpdmRequest
  dsimp only
  (repeat' split) <;> exact h

theorem ends_frameOwnerWrite {frame : Nat} {v : BitVec 16} : Ends (execFrameOwnerWrite frame v s) := by
  unfold execFrameOwnerWrite
  dsimp only
  split
  · exact h
  · split
    · trivial
    · split
      · exact ends_mailUnstated h
      · exact h

theorem ends_keySlotLoad {die slot : Nat} {wrapped : List (BitVec 8)} : Ends (execKeySlotLoad die slot wrapped s) := by
  unfold execKeySlotLoad
  split
  · exact h
  · split
    · trivial
    · split
      · exact ends_mailUnstated h
      · exact h

/-! ### Events of the span ports (R39 to R45) -/

theorem ends_spanFlitReceive {port : Nat} {flits : List (BitVec 2048)} {errors : Nat} :
    Ends (execSpanFlitReceive port flits errors s) := by
  unfold execSpanFlitReceive
  split <;> exact h

theorem ends_spanNak {port : Nat} {ackseq : BitVec 8} : Ends (execSpanNak port ackseq s) := by
  unfold execSpanNak
  split <;> exact h

theorem inv_poisonAbroad : Safety.Inv s.poisonAbroad :=
  inv_foldl (fun _ _ hu => inv_foldl (fun _ _ hu => inv_ite (kept hu (by rfl)) hu) hu) h

theorem inv_spanDown {n : Nat} : Safety.Inv (s.spanDown n) := by
  unfold State.spanDown
  refine inv_poisonAbroad (inv_foldl (fun u f hu => ?_) h)
  split <;> exact hu

theorem ends_spanPortRetrain {port rate : Nat} {half : Bool} : Ends (execSpanPortRetrain port rate half s) := by
  unfold execSpanPortRetrain
  dsimp only
  split <;> exact h

theorem ends_spanPortTrained : Ends (execSpanPortTrained s) := by
  unfold execSpanPortTrained
  split <;> exact h

theorem ends_spanTrainingFail : Ends (execSpanTrainingFail s) := by
  unfold execSpanTrainingFail
  dsimp only
  split
  · exact h
  · split
    · exact inv_spanDown h
    · exact h

theorem ends_spanReplayLimit : Ends (execSpanReplayLimit s) := by
  unfold execSpanReplayLimit
  dsimp only
  split
  · exact h
  · split
    · exact inv_spanDown h
    · exact h

theorem ends_spanLaneFailure : Ends (execSpanLaneFailure s) := by
  unfold execSpanLaneFailure
  dsimp only
  split
  · exact h
  · split
    · exact inv_spanDown (kept h (by rfl))
    · exact h

/-! ### What comes from outside the table (R29, R44, R46, R119; assumption 63) -/

theorem inv_setPackage {n : Nat} : Safety.Inv (s.setPackage n) := inv_ite h (kept h (by rfl))

theorem inv_setHdm {rs : List (Nat × Nat)} : Safety.Inv (s.setHdm rs) := inv_ite h (kept h (by rfl))

theorem inv_fillAbroad {p : Port} {r : Req} {data : Line} {err : Option Word} : Safety.Inv (s.fillAbroad p r data err) := by
  unfold State.fillAbroad
  dsimp only
  split
  · split
    · split <;> exact h
    · exact h
  · exact inv_bringNear (kept h (by rfl))

theorem inv_foreignReply {port req : Nat} {cause : Option Nat} {data : Line} {err : Option Word} :
    Safety.Inv (s.foreignReply port req cause data err) := by
  unfold State.foreignReply
  split
  · exact h
  · split
    · exact h
    · split
      · exact h
      · split
        · exact inv_setStatus (inv_fillAbroad h)
        · exact inv_ite (kept h (by rfl)) h

theorem inv_serveForeign {tid : Nat} {r : Req} : Safety.Inv (s.serveForeign tid r).2 := by
  unfold State.serveForeign
  extract_lets fault
  split
  · exact h
  · refine inv_iteSnd h ?_
    split
    next e => exact inv_of_eq (inv_translate h) e
    next e =>
      have h1 := inv_of_eq (inv_translate h) e
      refine inv_iteSnd h1 (inv_iteSnd h1 ?_)
      split
      next e => exact inv_of_eq (inv_cdLocFor h1) e
      next e =>
        extract_lets s3 pre w
        have h3 : Safety.Inv s3 := inv_settleCode (inv_of_eq (inv_cdLocFor h1) e)
        exact inv_ite h3 (inv_ite (kept h3 (by rfl)) (inv_ite (inv_cdPut h3) (inv_putLine (inv_cdPut h3))))

theorem inv_foreignRequest {src tag tid : Nat} {r : Req} : Safety.Inv (s.foreignRequest src tag tid r) := by
  unfold State.foreignRequest
  split
  · exact h
  · split
    next e1 => exact kept (inv_of_eq (inv_serveForeign h) e1) (by rfl)
    next e2 => exact kept (inv_of_eq (inv_serveForeign h) e2) (by rfl)

theorem inv_spanTransmit {n : Nat} : Safety.Inv (s.spanTransmit n) := inv_ite h (kept h (by rfl))

theorem inv_fromOutside {a : Outside} : Safety.Inv (s.fromOutside a) := by
  unfold State.fromOutside
  split
  · exact inv_adapterRetry h
  · exact inv_setPackage h
  · exact inv_setHdm h
  · exact h
  · exact inv_spanTransmit h
  · exact inv_foreignReply h
  · exact inv_foreignRequest h

end

end Sys2Proof.Proofs.MemoryForm
end

section
/-! Every step keeps the canonical form of memory: the events of the table, the issue of a site, what goes on, and what comes from
outside (R126; assumptions 1 and 3). -/

namespace Sys2Proof.Proofs.MemoryForm

open Sys2Proof Sys2Proof.Machine Sys2Proof.Proofs Sys2Proof.Proofs.MemoryFrame

section
variable {s : State} (h : Safety.Inv s)
include h

/-- Every event of the table: what is not an instruction of an image. -/
theorem ends_event {i : Instr} (hi : i.row = .event) : Ends (exec i s) := by
  cases i with
  | supplyPresent => exact ends_supplyPresent h
  | powerFailTrap => exact ends_powerFailTrap h
  | holdupEnergyLow => exact ends_holdupEnergyLow h
  | ctxCreate => exact ends_ctxCreate h
  | ctxDestroy => exact ends_ctxDestroy h
  | ctxDiemap => exact ends_ctxDiemap h
  | ctxPace => exact ends_ctxPace h
  | ctxRoot => exact ends_ctxRoot h
  | slCreate => exact ends_slCreate h
  | bwBudget => exact ends_bwBudget h
  | msUpdate => exact ends_msUpdate h
  | ksRestore => exact ends_ksRestore h
  | taskRestore => exact ends_taskRestore h
  | taskResume => exact ends_taskResume h
  | taskKill => exact ends_taskKill h
  | dieReset => exact ends_dieReset h
  | poolAdd => exact ends_poolAdd h
  | pgMigr => exact ends_pgMigr h
  | s2inv => exact ends_s2inv h
  | racePool => exact ends_racePool h
  | siteThresh => exact ends_siteThresh h
  | siteRetire => exact ends_siteRetire h
  | fwLaunch => exact ends_fwLaunch h
  | dbgNonce => exact ends_dbgNonce h
  | dbgFreeze => exact ends_dbgFreeze h
  | photoFinishFreeze => exact ends_photoFinishFreeze h
  | routeTableWrite => exact ends_routeTableWrite h
  | doorbell => exact inv_writeTail h
  | slchead => exact ends_slchead h
  | stop => exact ends_stop h
  | start => exact ends_start h
  | destroy | destroyForce => exact inv_destroySl h
  | registerWrite => exact ends_registerWrite h
  | hostCxlMemRequest => exact ends_hostCxlMemRequest h
  | tokenArrival => exact ends_tokenArrival h
  | decisionToken => exact ends_decisionToken h
  | checkerMismatch => exact ends_checkerMismatch h
  | reliabilityMonitor => exact ends_reliabilityMonitor h
  | seamModuleLoss => exact ends_seamModuleLoss h
  | linkFailure => exact ends_linkFailure h
  | cdLinkFailure => exact ends_cdLinkFailure h
  | linkTrainingResult => exact ends_linkTrainingResult h
  | spanFlitReceive => exact ends_spanFlitReceive h
  | spanNak => exact ends_spanNak h
  | spanPortRetrain => exact ends_spanPortRetrain h
  | seamRetrain => exact ends_seamRetrain h
  | frameOwnerWrite => exact ends_frameOwnerWrite h
  | keySlotLoad => exact ends_keySlotLoad h
  | spdmRequest => exact ends_spdmRequest h
  | supplyLoss => exact ends_supplyLoss h
  | holdupManifest => exact ends_holdupManifest h
  | energyReserveReady => exact ends_energyReserveReady h
  | holdupChargeTimeout => exact ends_holdupChargeTimeout h
  | ksConsume => exact ends_ksConsume h
  | dieResetAdvance => exact ends_dieResetAdvance h
  | dieResetDrainDeadline => exact ends_dieResetDrainDeadline h
  | siteList => exact ends_siteList h
  | errCounts => exact ends_errCounts h
  | packetRead => exact ends_packetRead h
  | packetStampRetry => exact ends_packetStampRetry h
  | heldPacketRetry => exact ends_heldPacketRetry h
  | nopPacket => exact ends_nopPacket h
  | launch => exact ends_launch h
  | graph => exact ends_graph h
  | replayPacket => exact ends_replayPacket h
  | replayNodeEntry => exact ends_replayNodeEntry h
  | patch => exact ends_patch h
  | sigsem => exact ends_sigsem h
  | waitsem => exact ends_waitsem h
  | waitsemPoll => exact ends_waitsemPoll h
  | copy => exact ends_copy h
  | fencePacket => exact ends_fencePacket h
  | xlinvPacket => exact ends_xlinvPacket h
  | packetCompletion => exact ends_packetCompletion h
  | placerPlacement => exact ends_placerPlacement h
  | reservedWindowPlace => exact ends_reservedWindowPlace h
  | drainDeadline => exact ends_drainDeadline h
  | checkpointDeadline => exact ends_checkpointDeadline h
  | relocationStart => exact ends_relocationStart h
  | relocationDrained => exact ends_relocationDrained h
  | checkpointDrained => exact ends_checkpointDrained h
  | standingCheckpoint => exact ends_standingCheckpoint h
  | relocationTimeout => exact ends_relocationTimeout h
  | batonForward => exact ends_batonForward h
  | taskCompletion => exact ends_taskCompletion h
  | lapBoundary => exact ends_lapBoundary h
  | engineDispatch => exact ends_engineDispatch h
  | engineCompletion => exact ends_engineCompletion h
  | cbSlotLanded => exact ends_cbSlotLanded h
  | handlerSelect => exact ends_handlerSelect h
  | handlerQuiescence => exact ends_handlerQuiescence h
  | eoiProcessing => exact ends_eoiProcessing h
  | wsrewrite => exact ends_wsrewrite h
  | gamma => exact ends_gamma h
  | planeSwitch => exact ends_planeSwitch h
  | systolicActivation => exact ends_systolicActivation h
  | systolicResult => exact ends_systolicResult h
  | patternIssue => exact ends_patternIssue h
  | loadReply => exact ends_loadReply h
  | writeAck => exact ends_writeAck h
  | portRefusal => exact ends_portRefusal h
  | sideLogReplay => exact ends_sideLogReplay h
  | replayRelease => exact ends_replayRelease h
  | homeRequest => exact ends_homeRequest h
  | backInvalidationAck => exact ends_backInvalidationAck h
  | raceSaturationTimeout => exact ends_raceSaturationTimeout h
  | saturationWaitEnd => exact ends_saturationWaitEnd h
  | walk => exact ends_walk h
  | invalidationBatonAck => exact ends_invalidationBatonAck h
  | invalidationAck => exact ends_invalidationAck h
  | checkCounterHalving => exact ends_checkCounterHalving h
  | stallWatchdog => exact ends_stallWatchdog h
  | trapAction => exact ends_trapAction h
  | containmentUnwind => exact ends_containmentUnwind h
  | regionCommit => exact ends_regionCommit h
  | seamReturnRunning => exact ends_seamReturnRunning h
  | spanReplayLimit => exact ends_spanReplayLimit h
  | spanLaneFailure => exact ends_spanLaneFailure h
  | spanTrainingFail => exact ends_spanTrainingFail h
  | syncUnitOp => exact ends_syncUnitOp h
  | holdupEnergyExhausted => exact ends_holdupEnergyExhausted h
  | spanPortTrained => exact ends_spanPortTrained h
  | engineIssue => exact ends_engineIssue h
  | creditReturn => exact ends_creditReturn h
  | retireMessage => exact ends_retireMessage h
  | cropenMessage => exact ends_cropenMessage h
  | _ => cases hi

/-- An instruction of an image changes no byte (`MemoryFrame`), and an event keeps the form. -/
theorem ends_exec {i : Instr} : Ends (exec i s) := by
  cases hi : i.row with
  | a f r => exact ends_of_mem h fun _ e => mem_of_formatA hi e
  | d f r => exact ends_of_mem h fun _ e => mem_of_formatD hi e
  | m f r => exact ends_of_mem h fun _ e => mem_of_formatM hi e
  | x f r => exact ends_of_mem h fun _ e => mem_of_formatX hi e
  | event => exact ends_event h hi

theorem ends_issueFrom {site : SiteRef} {ks : List Nat} : Ends (s.issueFrom site ks) := by
  induction ks with
  | nil => exact h
  | cons k ks ih =>
    unfold State.issueFrom
    split
    · exact ih
    next i _ =>
      have hi : Ends (exec i { s with focus := Focus.slotAt site k }) := ends_exec (kept h (by rfl))
      split
      next e => exact ends_ite (inv_of_next hi e) ih
      · trivial
      · trivial

theorem ends_act {a : Action} : Ends (s.act a) := by
  cases a with
  | issue site => exact ends_issueFrom h
  | progress site n => exact inv_goOn h
  | wait n => exact inv_pass h
  | event i f => exact ends_ite h (ends_exec (kept h (by rfl)))
  | outside e => exact inv_fromOutside h

theorem ends_step : Ends (step s) := by
  unfold step
  split
  · exact inv_pass h
  · exact ends_act (kept h (by rfl))

end

/-- Settles O42: memory is written by `State.putMem` and `State.clearMem`, which keep its canonical form (assumption 3), and is
emptied when the package loses power; every step is composed of these and of operations that leave memory as it is. -/
theorem everyStepKeepsMemoryCanonical : Obligations.EveryStepKeepsMemoryCanonical := by
  unfold Obligations.EveryStepKeepsMemoryCanonical
  exact fun s t h e => inv_of_next (ends_step h) e

end Sys2Proof.Proofs.MemoryForm
end

section
/-! Ranges, fences, NCINV and SFREND (R180, R183, R347 to R349, R352): each answers at once or stays in flight, over a package of the
same leases in which at most the ports and the records of parties differ. -/

namespace Sys2Proof.Proofs.Fences

open Sys2Proof Sys2Proof.Machine Sys2Proof.Safety Sys2Proof.Claims Sys2Proof.Proofs.Teams Sys2Proof.Proofs.Firing

/-! ### Firings over a changed package (R126, R272) -/

/-- An instruction that fires and stays in flight, over a package of the same leases. -/
theorem flies_over {i : Instr} {s s0 : State} {c : Site} {op : FlightOp} {ready : Site → Bool} {onErr : Site → Token → State → State}
    {body : Site → State → State} (h : Fires i s c) (hexec : exec i s = fire i ready onErr body s) (hr : ready c = true)
    (hb : s0.leases = s.leases)
    (hbody : body c (c.consume (c.taken i.uses) s) = c.fly op (c.consume (c.taken i.uses) s0)) : Flies i s c op s0 := by
  have hran := ran_flies (u := c.taken i.uses) op h.site hb (RegChange.none c.lease.plane)
  rw [modPE_id] at hran
  exact ⟨_, hexec.trans (fireUsing_acts h hr), hbody ▸ hran⟩

section
variable (s : State) (c : Site) (u : Uses)

theorem portOf?_consume (site : SiteRef) (kind : PEKind) : (c.consume u s).portOf? site kind = s.portOf? site kind := rfl

theorem port?_consume (id : Nat) : (c.consume u s).port? id = s.port? id := rfl

/-- What a firing takes from its own PE does not bear on the end of an SFR. -/
theorem endSfr_consume (party : Nat) : (c.consume u s).endSfr party = c.consume u (s.endSfr party) := by
  rw [consume_eq, consume_eq, endSfr_modLease]

theorem fenceCount_consume (port party : Nat) (wide up : Bool) :
    (c.consume u s).fenceCount port party wide up = c.consume u (s.fenceCount port party wide up) := by
  rw [consume_eq, consume_eq]
  rfl

end

/-! ### Ranges (R349) -/

/-- A range instruction on whole lines answers at once where it has none, and else stays in flight for each of them. -/
theorem rangeIns_completes {i : Instr} {f : FmtM} {op : ReqOp} {s : State} {c : Site} {a n : Nat} (h : Fires i s c) (hhead : i.head = f.h)
    (hexec : exec i s = rangeIns i f op s) (ha : scalarArg c.l .a57 = some a) (hn : scalarArg c.r .n32 = some n)
    (hva : wrapN 57 ((a : Int) + f.off.toInt) % 64 = 0) (hlines : n % 64 = 0) :
    (n = 0 → Gives i s c (n8Tok 1)) ∧
    (n ≠ 0 → Flies i s c (.range op (wrapN 57 ((a : Int) + f.off.toInt)) (n / 64) 0) s) := by
  have hea : c.ea f = some (wrapN 57 ((a : Int) + f.off.toInt)) := by simp [Site.ea, ha]
  constructor
  · intro hzero
    exact gives h hexec rfl (fun he => by cases he) (by simp [hea, hn, hva, hzero, hhead])
  · intro hpos
    exact flies_over h hexec rfl rfl (by simp [hea, hn, hva, hlines, hpos])

/-! ### The numbers of SFRs at the ports (R180) -/

/-- A port as the end of its party's SFR leaves it, where the next number is `n`. -/
def withSfr (party n : Nat) (p : Port) : Port := if p.bound && p.party = party then { p with sfr := n } else p

theorem withSfr_id (party n : Nat) (p : Port) : (withSfr party n p).id = p.id := by
  unfold withSfr
  split <;> rfl

/-- The end of an SFR whose number can still rise gives the next number to every port of the party. -/
theorem ports_endSfr {s : State} {party : Nat} (hlt : s.sfrOf party < 0xFFFFFFFF) :
    (s.endSfr party).ports = s.ports.map (withSfr party (s.sfrOf party + 1)) := by
  unfold State.endSfr
  simp only [setParty_eq]
  exact congrArg State.ports (if_pos hlt)

theorem port?_endSfr {s : State} {party : Nat} (hlt : s.sfrOf party < 0xFFFFFFFF) (id : Nat) :
    (s.endSfr party).port? id = (s.port? id).map (withSfr party (s.sfrOf party + 1)) := by
  unfold State.port?
  rw [ports_endSfr hlt, List.find?_map]
  congr 2
  funext p
  simp [withSfr_id]

/-! ### The statement -/

/-- Settles O36: what each instruction waits for and sends is read from the package before its firing, which its own operands do not bear
on; the end of an SFR gives its next number to each port of the party. -/
theorem rangesFencesAndRegionsEnd : Obligations.RangesFencesAndRegionsEnd := by
  unfold Obligations.RangesFencesAndRegionsEnd
  refine ⟨?discard, ?flushr, ?fence, ?ncinv, ?sfrend, ?number⟩
  case discard => exact fun f s c a n h ha hn hva hlines => rangeIns_completes h rfl rfl ha hn hva hlines
  case flushr => exact fun f s c a n h ha hn hva hlines => rangeIns_completes h rfl rfl ha hn hva hlines
  case fence =>
    intro f s c p q h hp hq
    refine flies_over h (rfl : _ = execFence f s) rfl (leases_endSfr s p.party) ?_
    simp only [portOf?_consume, hp, endSfr_consume, port?_consume, hq, fenceCount_consume]
    rfl
  case ncinv =>
    intro f s c p h hp
    refine flies_over h (rfl : _ = execNcinv f s) rfl rfl ?_
    simp only [portOf?_consume, hp, fenceCount_consume]
  case sfrend =>
    intro f s c p q h hp hq
    refine completes_reply (s0 := s.endSfr p.party) (g := fun x => x) (t := n64Tok q.sfr) h (rfl : _ = execSfrend f s) rfl
      (leases_endSfr s p.party) (RegChange.none _) (fun he => by cases he) ?_
    simp only [portOf?_consume, hp, endSfr_consume, port?_consume, hq, modPE_id]
    rfl
  case number =>
    intro s id p q hp hb hq hlt
    have hraised : q = withSfr p.party (s.sfrOf p.party + 1) p := by
      rw [port?_endSfr hlt, hp] at hq
      exact (Option.some.inj hq).symm
    rw [hraised]
    simp [withSfr, hb]

end Sys2Proof.Proofs.Fences
end

section
/-! PROOF. Every instruction of an image has a word that decodes to it, and a word that decodes is the word of its instruction
(R252, R254, R257). -/

namespace Sys2Proof.Proofs.Words

open Sys2Proof BitVec

/-! ### From the instruction to its word -/

/-- The instruction is the one that an opcode selects for its own word, and only NOP has the opcode 0. -/
def HasWord (i : Instr) : Prop :=
  ∃ (op : BitVec 8) (w : IWord), encode i = some w ∧ w.extractLsb' 48 8 = op ∧ decodeOp op.toNat w = some i ∧
    (op = 0 → ∃ f, i = .nop f)

/-- An instruction of format D: the decoder makes of a word's fields what the encoder made the word of. -/
theorem hasWord_d {mk : FmtD → Instr} {op : BitVec 8} (f : FmtD) (he : encode (mk f) = some (wordD op f))
    (hd : decodeOp op.toNat (wordD op f) = some (mk (fmtD (wordD op f)))) (hop : op ≠ 0) : HasWord (mk f) :=
  ⟨op, _, he, wordD_opcode op f, by rw [hd, fmtD_wordD], fun h => absurd h hop⟩

/-- An instruction of format A. -/
theorem hasWord_a {mk : FmtA → Instr} {op : BitVec 8} (f : FmtA) (he : encode (mk f) = some (wordA op f))
    (hd : decodeOp op.toNat (wordA op f) = some (mk (fmtA (wordA op f)))) (hop : op ≠ 0) : HasWord (mk f) :=
  ⟨op, _, he, wordA_opcode op f, by rw [hd, fmtA_wordA], fun h => absurd h hop⟩

/-- An instruction of format X. -/
theorem hasWord_x {mk : FmtX → Instr} {op : BitVec 8} (f : FmtX) (he : encode (mk f) = some (wordX op f))
    (hd : decodeOp op.toNat (wordX op f) = some (mk (fmtX (wordX op f)))) (hop : op ≠ 0) : HasWord (mk f) :=
  ⟨op, _, he, wordX_opcode op f, by rw [hd, fmtX_wordX], fun h => absurd h hop⟩

/-- An instruction of format M. -/
theorem hasWord_m {mk : FmtM → Instr} {op : BitVec 8} (f : FmtM) (he : encode (mk f) = some (wordM op f))
    (hd : decodeOp op.toNat (wordM op f) = some (mk (fmtM (wordM op f)))) (hop : op ≠ 0) : HasWord (mk f) :=
  ⟨op, _, he, wordM_opcode op f, by rw [hd, fmtM_wordM], fun h => absurd h hop⟩

/-- Every instruction of an image has a word. -/
theorem hasWord {i : Instr} (h : i.row ≠ .event) : HasWord i := by
  cases i with
  | nop f => exact ⟨0, wordD 0 f, rfl, wordD_opcode 0 f, congrArg (fun g => some (Instr.nop g)) (fmtD_wordD 0 f), fun _ => ⟨f, rfl⟩⟩
  | recv f | peek f | drop f | emit f | mov f | const f | steer f | merge f | sel f | gate f | iter f | kread f
  | kwrite f | eoiq f | decide f | retire f | waitc f | invnum f | siteid f | hmask f | hunmask f | chstat f =>
    exact hasWord_d f rfl rfl (by decide)
  | add f | sub f | addc f | subb f | mul f | mulh f | div f | rem f | neg f | abs f | min f | max f | satadd f
  | satsub f | and f | or f | xor f | andn f | shl f | shr f | sar f | rot f | clz f | popc f | bfx f | bfi f | ext f
  | cmp f | adda f | mkaddr f | dieof f | fadd f | fsub f | fmul f | ffma f | fdiv f | fsqrt f | fmin f | fmax f
  | fneg f | fabs f | fcmp f | fclass f | fcvt f | ftoi f | itof f | frnd f | fscale f | fexp2 f | flog2 f | frcp f
  | frsq f | fflags f | vadd f | vsub f | vmul f | vfma f | vmin f | vmax f | vabs f | vneg f | vand f | vor f
  | vxor f | vshl f | vshr f | vsar f | vcmp f | vsel f | vsatadd f | vmulh f | vdot f | vcvt f | vquant f | vdeq f
  | vscale f | vexp2 f | vlog2 f | vrcp f | vrsq f | vsigm f | vbcast f | vextr f | vins f | vshuf f | vrot f
  | vslide f | vzip f | vunzip f | vpack f | vunpack f | vredadd f | vredmax f | vredmin f | vscan f | vcompress f
  | vexpand f | vmask f | vpopc f | vtagq f | vtagset f =>
    exact hasWord_a f rfl rfl (by decide)
  | wload f | wscale f | wswap f | wsparse f | mstream f | macc f | adecay f | azero f | aload f | adrain f
  | aspill f | afill f | aown f | mstat f | tfetch f | trelease f =>
    exact hasWord_x f rfl rfl (by decide)
  | ld f | st f | ldv f | stv f | ldro f | lds f | sts f | pref f | cbinit f | cbwaitf f | cbwaite f | cbpush f
  | cbpop f | aadd f | amin f | amax f | aand f | aor f | axor f | aswp f | acas f | afadd f | redadd f | redfadd f
  | redmax f | acq f | rel f | fence f | ncinv f | discard f | flushr f | tjoin f | tleave f | markinit f | arrive f
  | mwait f | arrwait f | sfrend f | cpy f | cpym f | zpack f | zunpack f | coll f | engq f | cropen f | crclose f
  | trap f | task f | taskdep f | migr f | xlfence f | xlinv f | clock f | perfc f | errq f =>
    exact hasWord_m f rfl rfl (by decide)
  | _ => exact absurd rfl h

/-- A NOP that sends nothing is not the empty slot's word: its targets are none. -/
theorem wordD_ne_zero_of_target {op : BitVec 8} {f : FmtD} (h : f.h.t0 = 511) : wordD op f ≠ 0#56 := by
  intro h0
  have ht : (headOf (wordD op f)).t0 = 511 := (congrArg Head.t0 (headOf_headWord op f.h _)).trans h
  rw [h0] at ht
  exact absurd ht (by decide)

/-- A well-formed NOP names no target (R276). -/
theorem nop_target {f : FmtD} (h : (Instr.nop f).wf = true) : f.h.t0 = 511 := by
  by_contra ht
  have ht : f.h.t0 ≠ 511#9 := ht
  have : 7 ∈ (Instr.nop f).faults := by
    simp [Instr.faults, maccFaults, Instr.row, faultsD, headFaults, failIf, ht]
  simp [Instr.wf, List.isEmpty_iff] at h
  rw [h.1] at this
  cases this

/-- Settles O1: every instruction of an image has a word whose opcode selects it; the word is no empty slot's, as its
opcode is not 0 or, of NOP, its targets are none. -/
theorem imageWordsRoundTrip : Obligations.ImageWordsRoundTrip := by
  intro i hwf hrow
  obtain ⟨op, w, he, hop, hd, hnop⟩ := hasWord hrow
  refine ⟨w, he, decodeWord_of_opcode ?_ hop hd⟩
  rintro rfl
  obtain ⟨f, rfl⟩ := hnop (hop.symm.trans (by decide))
  exact wordD_ne_zero_of_target (nop_target hwf) (Option.some.inj he)

/-! ### From the word to its instruction -/

/-- Whether a table assigns an opcode to an instruction (R257). -/
def assigned (n : Nat) : Bool :=
  n < 0x17 || (0x20 ≤ n && n < 0x3F) || (0x40 ≤ n && n < 0x56) || (0x60 ≤ n && n < 0x7C) || (0x80 ≤ n && n < 0x94)
    || (0xA0 ≤ n && n < 0xB0) || (0xC0 ≤ n && n < 0xDF) || (0xE0 ≤ n && n < 0xF8)

/-- A word made again from its opcode and its fields, in the format of its opcode's group (R254). -/
def rewritten (n : Nat) (w : IWord) : IWord :=
  if n < 0x20 then wordD (BitVec.ofNat 8 n) (fmtD w)
  else if n < 0xA0 then wordA (BitVec.ofNat 8 n) (fmtA w)
  else if n < 0xC0 then wordX (BitVec.ofNat 8 n) (fmtX w)
  else wordM (BitVec.ofNat 8 n) (fmtM w)

/-- The decoder knows the assigned opcodes only, and what it makes of a word encodes to the fields that it read. -/
theorem encode_decodeOp {n : Nat} (hn : n < 256) (w : IWord) :
    (decodeOp n w).map encode = if assigned n then some (some (rewritten n w)) else none := by
  interval_cases n <;> rfl

/-- The parts of a word, put together again, are the word. -/
theorem headWord_headOf (w : IWord) : headWord (w.extractLsb' 48 8) (headOf w) (w.extractLsb' 0 28) = w := by
  show w.extractLsb' 48 8 ++ w.extractLsb' 46 2 ++ w.extractLsb' 37 9 ++ w.extractLsb' 28 9 ++ w.extractLsb' 0 28 = w
  simp (disch := omega) only [extractLsb'_append_extractLsb'_eq_extractLsb']
  exact extractLsb'_eq_self

/-- A word is the one made again from its fields in format M. -/
theorem wordM_fmtM (w : IWord) : wordM (w.extractLsb' 48 8) (fmtM w) = w := by
  refine Eq.trans (congrArg (headWord _ (headOf w)) ?_) (headWord_headOf w)
  simp (disch := omega) only [fmtM, extractLsb'_append_extractLsb'_eq_extractLsb']

/-- A word is the one made again from its fields in format X. -/
theorem wordX_fmtX (w : IWord) : wordX (w.extractLsb' 48 8) (fmtX w) = w := by
  refine Eq.trans (congrArg (headWord _ (headOf w)) ?_) (headWord_headOf w)
  simp (disch := omega) only [fmtX, extractLsb'_append_extractLsb'_eq_extractLsb']

/-- A bit that is not 1 is 0. -/
theorem bit_eq_zero {b : BitVec 1} (h : b ≠ 1#1) : b = 0#1 := by
  revert b
  decide

/-- A word is the one made again from its fields in format D, whether it holds an immediate or fields. -/
theorem wordD_fmtD (w : IWord) : wordD (w.extractLsb' 48 8) (fmtD w) = w := by
  refine Eq.trans (congrArg (headWord _ (headOf w)) ?_) (headWord_headOf w)
  by_cases hb : w.extractLsb' 22 1 = 1#1
  · simp only [fmtD, if_pos hb]
    rw [← hb]
    simp (disch := omega) only [extractLsb'_append_extractLsb'_eq_extractLsb']
  · simp only [fmtD, if_neg hb]
    rw [← bit_eq_zero hb]
    simp (disch := omega) only [extractLsb'_append_extractLsb'_eq_extractLsb']

/-- A word is the one made again from its fields in format A, whether it holds an immediate or fields. -/
theorem wordA_fmtA (w : IWord) : wordA (w.extractLsb' 48 8) (fmtA w) = w := by
  refine Eq.trans (congrArg (headWord _ (headOf w)) ?_) (headWord_headOf w)
  by_cases hb : w.extractLsb' 22 1 = 1#1
  · simp only [fmtA, if_pos hb]
    rw [← hb]
    simp (disch := omega) only [extractLsb'_append_extractLsb'_eq_extractLsb']
  · simp only [fmtA, if_neg hb]
    rw [← bit_eq_zero hb]
    simp (disch := omega) only [extractLsb'_append_extractLsb'_eq_extractLsb']

/-- A word made again from its own opcode and fields is the word. -/
theorem rewritten_opcode (w : IWord) : rewritten (w.extractLsb' 48 8).toNat w = w := by
  simp only [rewritten, ofNat_toNat, setWidth_eq, wordD_fmtD, wordA_fmtA, wordX_fmtX, wordM_fmtM, ite_self]

/-- An opcode that is not assigned selects no instruction. -/
theorem decodeOp_eq_none {n : Nat} (hn : n < 256) (w : IWord) (h : assigned n = false) : decodeOp n w = none := by
  have hm := encode_decodeOp hn w
  rw [h] at hm
  exact Option.map_eq_none_iff.mp hm

/-- What the decoder makes of a word has the fields that it read as its encoding. -/
theorem encode_of_decodeOp {n : Nat} (hn : n < 256) {w : IWord} {i : Instr} (h : decodeOp n w = some i) :
    encode i = some (rewritten n w) := by
  have hm := encode_decodeOp hn w
  rw [h] at hm
  cases ha : assigned n with
  | true => exact Option.some.inj (by simpa [ha] using hm)
  | false => simp [ha] at hm

/-- Settles O2: a word that decodes is put together again from its own fields, and the opcodes named are the ones that are
not assigned. -/
theorem decodedWordsEncodeBack : Obligations.DecodedWordsEncodeBack := by
  refine ⟨fun w i h => ?_, rfl, fun w h0 hop => ?_⟩
  · unfold decodeWord at h
    split at h
    · cases h
    · split at h
      · next hd =>
        cases h
        exact (encode_of_decodeOp (w.extractLsb' 48 8).isLt hd).trans (congrArg some (rewritten_opcode w))
      · cases h
  · have hn : assigned (w.extractLsb' 48 8).toNat = false := by
      simp only [assigned, Bool.or_eq_false_iff, Bool.and_eq_false_iff, decide_eq_false_iff_not]
      omega
    rw [decodeWord, if_neg (show w ≠ 0#56 from h0), decodeOp_eq_none (w.extractLsb' 48 8).isLt w hn]

/-- Settles O3: the decoder reads each word, bit by bit. -/
theorem writtenWordsDecode : Obligations.WrittenWordsDecode := ⟨rfl, rfl, rfl, rfl, rfl, rfl⟩

end Sys2Proof.Proofs.Words
end

section
/-! Instructions of their own PE (R272): what an effect does to the package, and its answers where there is none, said once for all
instructions that have only an effect. -/

namespace Sys2Proof.Proofs.Locals

open Sys2Proof Sys2Proof.Machine Sys2Proof.Safety Sys2Proof.Claims Sys2Proof.Proofs.Firing Sys2Proof.Proofs.Errors

/-- Raising no flag changes nothing. -/
theorem raiseFlags_zero (p : PE) : p.raiseFlags 0 = p := by
  have h : p.cu.flg ||| (0 : Flags).setWidth 64 = p.cu.flg := by simp
  unfold PE.raiseFlags
  rw [h]

/-- An output of an effect that is no ERR. -/
abbrev NoErr (o : Option Token) : Prop := ∀ t ∈ o, t.kind ≠ .err

/-- A DATA token is no ERR. -/
theorem noErr_some {t : Token} (h : t.kind = .data) : NoErr (some t) := by
  rintro _ ⟨⟩ he
  rw [h] at he
  cases he

theorem effectSends_noErr {h : Head} {e : Effect} (h0 : NoErr e.out0) (h1 : NoErr e.out1) :
    ∀ p ∈ effectSends h e, p.2.kind ≠ .err := by
  intro p hp
  rcases List.mem_append.mp hp with hp | hp
  · obtain ⟨t, ht, rfl⟩ := Option.map_eq_some_iff.mp (Option.mem_toList.mp hp)
    exact h0 t ht
  · obtain ⟨t, ht, rfl⟩ := Option.map_eq_some_iff.mp (Option.mem_toList.mp hp)
    exact h1 t ht

/-- No operand that is taken and checked is an ERR of a firing that acts. -/
theorem kind_of_clean {s : State} {i : Instr} {c : Site} {u v : Uses} {t : Token} (h : FiresUsing i u v s c)
    (ht : t ∈ c.operands v) : t.kind ≠ .err := by
  simpa using List.find?_eq_none.mp h.clean t ht

/-- An L that is taken is no ERR in a firing that acts. -/
theorem kind_of_l {s : State} {i : Instr} {c : Site} {t : Token} (h : Fires i s c) (hu : i.uses.l = true) (hl : c.l = some t) :
    t.kind ≠ .err :=
  kind_of_clean h (by simp [Site.operands, Site.taken, hu, hl])

section
variable {i : Instr} {s : State} {c : Site} {eff : Site → Option Effect}

section
variable (h : Fires i s c) (hexec : exec i s = fireLocal i eff s)
include h hexec

/-- An instruction that has an effect which sends no ERR completes with it. -/
theorem acts {e : Effect} (he : eff c = some e) (h0 : NoErr e.out0) (h1 : NoErr e.out1) : Acts i s c e := by
  obtain ⟨t, ht, hran⟩ := fireLocal_acts h he (effectSends_noErr h0 h1)
  exact ⟨t, hexec.trans ht, hran⟩

/-- An instruction whose effect is a token to each target completes with them and changes no register. -/
theorem localSends {t t' : Token} (he : eff c = some ⟨some t, some t', none, none, 0⟩) (ht : t.kind = .data) (ht' : t'.kind = .data) :
    Sends i s c [(i.head.t0, t), (i.head.t1, t')] := by
  obtain ⟨x, hx, hran⟩ := acts h hexec he (noErr_some ht) (noErr_some ht')
  exact ⟨x, hx, ran_congr_pe hran (raiseFlags_zero c.pe)⟩

/-- An instruction whose effect is one token to both targets completes with it and changes no register. -/
theorem localGives {t : Token} (he : eff c = some (Effect.both t)) (ht : t.kind = .data) : Gives i s c t :=
  localSends h hexec he ht ht

/-- An instruction that has no effect answers FORMAT_TAG to both targets. -/
theorem localFormatTag (he : eff c = none) (hl : Lands i.head) : Gives i s c (c.ownErr cFormatTag) := by
  refine gives_err h (hexec.trans rfl) rfl hl ?_
  simp only [he]

end

/-- An ERR operand of an instruction that answers ERRs to both targets goes to both. -/
theorem errsThrough_of_fire {ready : Site → Bool} {body : Site → State → State}
    (hexec : ∀ s, exec i s = fire i ready (errToBoth i) body s) (hr : ∀ c, ready c = true) : ErrsThrough i := by
  intro s c e hs hp hf he hl
  refine ⟨(c.reply i.head e (c.consume (c.taken i.uses) s)), ?_, ?_⟩
  · rw [hexec, fire, fireUsing]
    simp only [hs, hp, hf, hr, he, Bool.not_true, Bool.or_self, Bool.false_eq_true, if_false, errToBoth]
  · have hsent : c.reply i.head e (c.consume (c.taken i.uses) s) = _ := emit_both (fun _ => hl) _ c.site c.lease.plane
    have hran := ran_puts (s0 := s) (u := c.taken i.uses) (l := both i.head e) hs rfl (RegChange.none c.lease.plane)
    rw [modPE_id] at hran
    rw [hsent]
    exact hran

/-- An ERR operand of an instruction of its own PE goes to both targets. -/
theorem errsThrough_of_local (hexec : ∀ s, exec i s = fireLocal i eff s) : ErrsThrough i :=
  errsThrough_of_fire (ready := always) (fun s => (hexec s).trans rfl) (fun _ => rfl)

end

end Sys2Proof.Proofs.Locals
end

section
/-! Integer and address instructions (R286 to R292): each sends one number, taken to TYPE; a number counts modulo 2^w only. -/

namespace Sys2Proof.Proofs.Integers

open Sys2Proof Sys2Proof.Machine Sys2Proof.Safety Sys2Proof.Claims Sys2Proof.Proofs.Locals Sys2Proof.Proofs.Firing

/-! ### Numbers taken to a type (R205, R274) -/

/-- The values that a type stands for repeat after 2^w. -/
theorem intTok_congr {t : Ty} {x y : Int} (h : x % (2 ^ t.width : Nat) = y % (2 ^ t.width : Nat)) : intTok t x = intTok t y := by
  unfold intTok Ty.fill wrapN
  rw [h]

/-- Adding 2^w changes no result. -/
theorem intTok_add_pow (t : Ty) (x : Int) : intTok t (x + (2 ^ t.width : Nat)) = intTok t x :=
  intTok_congr (by simp)

/-- Taking a number to the width first changes no result. -/
theorem intTok_wrapN (t : Ty) (x : Int) : intTok t (wrapN t.width x : Nat) = intTok t x := by
  refine intTok_congr ?_
  unfold wrapN
  rw [Int.toNat_of_nonneg (Int.emod_nonneg _ (by positivity)), Int.emod_emod]

/-- Taking a pattern modulo 2^w first changes no result. -/
theorem patTok_mod (t : Ty) (x : Nat) : patTok t (x % 2 ^ t.width) = patTok t x :=
  intTok_congr (by push_cast; exact Int.emod_emod _ _)

theorem width_pos (t : Ty) : 0 < t.width := by cases t <;> decide

/-- A pattern of a scalar operand is one of its type's width. -/
theorem scalarArg_lt {o : Option Token} {t : Ty} {a : Nat} (h : scalarArg o t = some a) : a < 2 ^ t.width := by
  unfold scalarArg at h
  split at h
  · split at h
    · cases h
      exact Nat.mod_lt _ (by positivity)
    · cases h
  · cases h

/-! ### The edges of division (R216) -/

/-- All ones is −1 modulo 2^w. -/
theorem intTok_maxInt {t : Ty} (h : t.isSigned = false) : intTok t t.maxInt = intTok t (-1) := by
  rw [← intTok_add_pow t (-1)]
  congr 1
  simp only [Ty.maxInt, h, Bool.false_eq_true, if_false]
  ring

/-- −MIN is MIN modulo 2^w. -/
theorem intTok_neg_minInt (t : Ty) : intTok t (-t.minInt) = intTok t t.minInt := by
  unfold Ty.minInt
  split
  · have hw : (2 ^ t.width : Nat) = 2 ^ (t.width - 1) + 2 ^ (t.width - 1) := by
      rw [← Nat.two_mul, ← Nat.pow_succ', Nat.succ_eq_add_one, Nat.sub_add_cancel (width_pos t)]
    rw [← intTok_add_pow t (-((2 ^ (t.width - 1) : Nat) : Int)), hw]
    congr 1
    push_cast
    ring
  · rfl

theorem intTok_div (t : Ty) (x y : Int) :
    intTok t (intDiv t x y) = intTok t (if y = 0 then -1 else if x = t.minInt ∧ y = -1 then t.minInt else Int.tdiv x y) := by
  unfold intDiv
  by_cases hy : y = 0
  · rw [if_pos hy, if_pos hy]
    cases hs : t.isSigned with
    | true => rfl
    | false => exact intTok_maxInt hs
  · rw [if_neg hy, if_neg hy]
    by_cases hm : x = t.minInt ∧ y = -1
    · obtain ⟨rfl, rfl⟩ := hm
      simpa using intTok_neg_minInt t
    · rw [if_neg hm]

theorem intRem_eq (t : Ty) (x y : Int) :
    intRem x y = if y = 0 then x else if x = t.minInt ∧ y = -1 then 0 else Int.tmod x y := by
  unfold intRem
  by_cases hm : x = t.minInt ∧ y = -1
  · obtain ⟨rfl, rfl⟩ := hm
    simp
  · rw [if_neg hm]

theorem minInt_le_maxInt (t : Ty) : t.minInt ≤ t.maxInt := by
  have h : ∀ k : Nat, (1 : Int) ≤ (2 ^ k : Nat) := fun k => by exact_mod_cast Nat.one_le_two_pow
  unfold Ty.minInt Ty.maxInt
  have h1 := h (t.width - 1)
  have h2 := h t.width
  split <;> omega

theorem clamp_eq (t : Ty) (x : Int) : t.clamp x = if x < t.minInt then t.minInt else if t.maxInt < x then t.maxInt else x := by
  have h := minInt_le_maxInt t
  unfold Ty.clamp
  split
  · omega
  · split <;> omega

/-! ### Instructions of one and of two numbers (R287, R288) -/

section
variable {mk : FmtA → Instr} (hhead : ∀ f, (mk f).head = f.h)
include hhead

/-- An instruction that sends a number made of two numbers. -/
theorem intBin_result {g : Ty → Int → Int → Int} {G : Ty → Nat → Nat → Int → Int → Int}
    (hexec : ∀ f s, exec (mk f) s = intBin (mk f) f g s) (hg : ∀ t a b x y, intTok t (g t x y) = intTok t (G t a b x y)) :
    IntResult mk G := by
  intro f s c a b h hab
  obtain ⟨ha, hb⟩ := hab
  dsimp only
  rw [← hg, ← hhead]
  refine localGives h ((hexec f s).trans rfl) ?_ rfl
  simp only [ha, hb]

/-- An instruction that sends a pattern made of two patterns of the width. -/
theorem patBin_result {g : Nat → Nat → Nat → Nat} {G : Ty → Nat → Nat → Int → Int → Int}
    (hexec : ∀ f s, exec (mk f) s = patBin (mk f) f g s)
    (hg : ∀ (t : Ty) a b x y, a < 2 ^ t.width → b < 2 ^ t.width → patTok t (g t.width a b) = intTok t (G t a b x y)) :
    IntResult mk G := by
  intro f s c a b h hab
  obtain ⟨ha, hb⟩ := hab
  dsimp only
  rw [← hg _ a b _ _ (scalarArg_lt ha) (scalarArg_lt hb), ← hhead]
  refine localGives h ((hexec f s).trans rfl) ?_ rfl
  simp only [ha, hb]

end

/-- An instruction that sends a number made of one pattern. -/
theorem intUn_gives {i : Instr} {f : FmtA} {g : Ty → Nat → Int} {s : State} {c : Site} {a : Nat} {x : Int} (h : Fires i s c)
    (hexec : exec i s = intUn i f g s) (ha : PatL c f a) (hg : g (tyOf f.ty) a = x) : Gives i s c (intTok (tyOf f.ty) x) := by
  refine localGives h (hexec.trans rfl) ?_ rfl
  simp only [PatL] at ha
  simp only [ha, hg]

/-! ### The statements -/

/-- Settles O11: each is a number of two numbers; the edges of division and the clamped sums are cases on them. -/
theorem integerArithmeticOfTwoOperands : Obligations.IntegerArithmeticOfTwoOperands := by
  unfold Obligations.IntegerArithmeticOfTwoOperands
  refine ⟨?add, ?sub, ?mul, ?mulh, ?div, ?rem, ?min, ?max, ?satadd, ?satsub⟩
  case add => exact intBin_result (fun _ => rfl) (fun f s => (rfl : _ = execAdd f s)) (fun _ _ _ _ _ => rfl)
  case sub => exact intBin_result (fun _ => rfl) (fun f s => (rfl : _ = execSub f s)) (fun _ _ _ _ _ => rfl)
  case mul => exact intBin_result (fun _ => rfl) (fun f s => (rfl : _ = execMul f s)) (fun _ _ _ _ _ => rfl)
  case mulh => exact intBin_result (fun _ => rfl) (fun f s => (rfl : _ = execMulh f s)) (fun _ _ _ _ _ => rfl)
  case div => exact intBin_result (fun _ => rfl) (fun f s => (rfl : _ = execDiv f s)) (fun t _ _ x y => intTok_div t x y)
  case rem => exact intBin_result (fun _ => rfl) (fun f s => (rfl : _ = execRem f s)) (fun t _ _ x y => congrArg (intTok t) (intRem_eq t x y))
  case min => exact intBin_result (fun _ => rfl) (fun f s => (rfl : _ = execMin f s)) (fun t _ _ x y => congrArg (intTok t) (min_def x y))
  case max => exact intBin_result (fun _ => rfl) (fun f s => (rfl : _ = execMax f s)) (fun t _ _ x y => congrArg (intTok t) (max_def x y))
  case satadd => exact intBin_result (fun _ => rfl) (fun f s => (rfl : _ = execSatadd f s)) (fun t _ _ _ _ => congrArg (intTok t) (clamp_eq t _))
  case satsub => exact intBin_result (fun _ => rfl) (fun f s => (rfl : _ = execSatsub f s)) (fun t _ _ _ _ => congrArg (intTok t) (clamp_eq t _))

/-- The absolute value. -/
theorem natAbs_eq (x : Int) : (x.natAbs : Int) = if x < 0 then -x else x := by
  split <;> omega

theorem shl_result (t : Ty) {a : Nat} (b : Nat) (ha : a < 2 ^ t.width) :
    patTok t (shlP t.width a b) = intTok t (a * 2 ^ (b % t.width) : Nat) := by
  unfold shlP
  rw [patTok_mod, Nat.mod_eq_of_lt ha]
  rfl

theorem shr_result (t : Ty) {a : Nat} (b : Nat) (ha : a < 2 ^ t.width) :
    patTok t (shrP t.width a b) = intTok t (a / 2 ^ (b % t.width) : Nat) := by
  unfold shrP
  rw [Nat.mod_eq_of_lt ha, Nat.shiftRight_eq_div_pow]
  rfl

/-- A rotate is the sum of its two shifts, of which the left one counts modulo 2^w. -/
theorem rot_result (t : Ty) {a : Nat} (b : Nat) (ha : a < 2 ^ t.width) :
    patTok t (rotP t.width a b) = intTok t (a * 2 ^ (b % t.width) + a / 2 ^ (t.width - b % t.width) : Nat) := by
  unfold rotP
  simp only [Nat.mod_eq_of_lt ha, Nat.shiftRight_eq_div_pow]
  refine intTok_congr ?_
  exact_mod_cast Nat.mod_add_mod _ _ _

/-- Settles O12: each is a number of one or two patterns; the shifts and the rotate count modulo 2^w. -/
theorem patternAndUnaryIntegerOperations : Obligations.PatternAndUnaryIntegerOperations := by
  unfold Obligations.PatternAndUnaryIntegerOperations
  refine ⟨?and, ?or, ?xor, ?andn, ?shl, ?shr, ?sar, ?rot, ?neg, ?abs, ?clz, ?popc⟩
  case and => exact patBin_result (fun _ => rfl) (fun f s => (rfl : _ = execAnd f s)) (fun _ _ _ _ _ _ _ => rfl)
  case or => exact patBin_result (fun _ => rfl) (fun f s => (rfl : _ = execOr f s)) (fun _ _ _ _ _ _ _ => rfl)
  case xor => exact patBin_result (fun _ => rfl) (fun f s => (rfl : _ = execXor f s)) (fun _ _ _ _ _ _ _ => rfl)
  case andn => exact patBin_result (fun _ => rfl) (fun f s => (rfl : _ = execAndn f s)) (fun _ _ _ _ _ _ _ => rfl)
  case shl => exact patBin_result (fun _ => rfl) (fun f s => (rfl : _ = execShl f s)) (fun t _ b _ _ ha _ => shl_result t b ha)
  case shr => exact patBin_result (fun _ => rfl) (fun f s => (rfl : _ = execShr f s)) (fun t _ b _ _ ha _ => shr_result t b ha)
  case sar => exact patBin_result (fun _ => rfl) (fun f s => (rfl : _ = execSar f s)) (fun t _ _ _ _ _ _ => intTok_wrapN t _)
  case rot => exact patBin_result (fun _ => rfl) (fun f s => (rfl : _ = execRot f s)) (fun t _ b _ _ ha _ => rot_result t b ha)
  case neg => exact fun f s c a h ha => intUn_gives h (rfl : _ = execNeg f s) ha rfl
  case abs => exact fun f s c a h ha => intUn_gives h (rfl : _ = execAbs f s) ha (natAbs_eq _)
  case clz =>
    intro f s c a h ha
    refine intUn_gives h (rfl : _ = execClz f s) ha ?_
    rw [clz, Nat.mod_eq_of_lt (scalarArg_lt ha)]
  case popc => exact fun f s c a h ha => intUn_gives h (rfl : _ = execPopc f s) ha rfl

/-! ### Carries (R289) -/

/-- The sum of two patterns and a carry is less than 2^(w + 1), so that its top bit is its carry out. -/
theorem sum_eq_mod_add_carry {p t : Nat} (ht : t < 2 * p) : t = t % p + p * (if p ≤ t then 1 else 0) := by
  split
  · rw [Nat.mod_eq_sub_mod (by omega), Nat.mod_eq_of_lt (by omega)]
    omega
  · rw [Nat.mod_eq_of_lt (by omega)]
    omega

/-- A sum carries out when it reaches 2^w. -/
theorem carry_of_sum (p t : Nat) : (b2n (decide ((t : Int) < 0) || decide ((t : Int) ≥ (p : Int))) : Int) = if p ≤ t then 1 else 0 := by
  have hneg : ¬ (t : Int) < 0 := by omega
  by_cases h : p ≤ t <;> simp [b2n, h]

/-- A difference borrows when it is negative. -/
theorem borrow_of_difference {p : Nat} {x : Int} (hx : x < p) :
    (b2n (decide (x < 0) || decide (x ≥ (p : Int))) : Int) = if x < 0 then 1 else 0 := by
  have hlt : ¬ x ≥ (p : Int) := by omega
  by_cases h : x < 0 <;> simp [b2n, h, hlt]

/-- An instruction that sends a number and its carry or borrow out. -/
theorem carryOp_sends {i : Instr} {f : FmtA} {g : Int → Int → Int → Int} {s : State} {c : Site} {a b : Nat} {p : Token} {x y : Int}
    (h : Fires i s c) (hexec : exec i s = carryOp i f g s) (hab : PatLR c f a b) (hp : c.p = some p)
    (hx : g a b (b2n (p.data.toNat.testBit 0)) = x)
    (hy : (b2n (decide (x < 0) || decide (x ≥ ((2 ^ (tyOf f.ty).width : Nat) : Int))) : Int) = y) :
    Sends i s c [(i.head.t0, intTok (tyOf f.ty) x), (i.head.t1, intTok .n8 y)] := by
  obtain ⟨ha, hb⟩ := hab
  refine localSends h (hexec.trans rfl) ?_ rfl rfl
  simp only [PatL] at ha
  simp only [ha, hb, hp, hx, hy]

/-- Settles O13: the sum is a number that is never negative, the difference one that never reaches 2^w. -/
theorem carriesAndBorrowsChain : Obligations.CarriesAndBorrowsChain := by
  unfold Obligations.CarriesAndBorrowsChain
  refine ⟨?addc, ?subb, ?addcErr, ?subbErr⟩
  case addc =>
    intro f s c a b p h hab hp
    have ha := scalarArg_lt hab.1
    have hb := scalarArg_lt hab.2
    constructor
    · refine carryOp_sends h (rfl : _ = execAddc f s) hab hp ?_ (carry_of_sum _ _)
      simp only [b2n]
      split <;> rfl
    · refine sum_eq_mod_add_carry ?_
      split <;> omega
  case subb =>
    intro f s c a b p h hab hp
    have ha := scalarArg_lt hab.1
    refine carryOp_sends h (rfl : _ = execSubb f s) hab hp ?_ (borrow_of_difference ?_)
    · simp only [b2n]
      split <;> rfl
    · generalize 2 ^ (tyOf f.ty).width = p at ha
      split <;> omega
  case addcErr => exact fun f => errsThrough_of_local (fun s => (rfl : _ = execAddc f s))
  case subbErr => exact fun f => errsThrough_of_local (fun s => (rfl : _ = execSubb f s))

/-! ### Comparison (R291) -/

/-- CMP sends whether the condition of its FN holds. -/
theorem cmp_gives {f : FmtA} {s : State} {c : Site} {a b n : Nat} {q : Bool} (h : Fires (.cmp f) s c) (hab : PatLR c f a b)
    (hn : f.body.fn = n) (hq : intCond n ((tyOf f.ty).readInt a) ((tyOf f.ty).readInt b) = q) :
    Gives (.cmp f) s c (intTok .n8 (if q then 1 else 0)) := by
  obtain ⟨ha, hb⟩ := hab
  refine localGives h (rfl : _ = execCmp f s) ?_ rfl
  simp only [PatL] at ha
  simp only [ha, hb, hn, hq, b2n]
  split <;> rfl

/-- Settles O14: FN names the condition; a value above the last is refused at load. -/
theorem compareSendsItsCondition : Obligations.CompareSendsItsCondition := by
  unfold Obligations.CompareSendsItsCondition
  refine ⟨?sends, ?a57, ?reserved, ?immediate⟩
  case sends =>
    exact fun f s c a b h hab => ⟨fun hn => cmp_gives h hab hn rfl, fun hn => cmp_gives h hab hn rfl,
      fun hn => cmp_gives h hab hn rfl, fun hn => cmp_gives h hab hn rfl, fun hn => cmp_gives h hab hn rfl,
      fun hn => cmp_gives h hab hn rfl⟩
  case a57 => exact fun _ => rfl
  case reserved =>
    intro f hf
    obtain ⟨hd, ty, body⟩ := f
    cases body with
    | imm v => simp [ABody.fn] at hf
    | regs fn rm sat ty2 ksel z =>
      simp only [ABody.fn] at hf
      have hbad : ¬ fn.toNat ≤ 5 := by omega
      simp [Instr.faults, Instr.row, faultsA, FnRule.ok, failIf, hbad]
  case immediate =>
    intro f v hf
    rw [hf]
    rfl

/-! ### Fields and addresses (R290, R292) -/

theorem bitsOf_eq (x lo len : Nat) : bitsOf x lo len = x / 2 ^ lo % 2 ^ len := by
  unfold bitsOf
  rw [Nat.shiftRight_eq_div_pow]

/-- The field that BFX extracts, by division. -/
theorem bfxField_eq (ty : Ty) (a k : Nat) :
    (let len := min 64 (k / 64 % 128)
     let fd := (ty.fill a).toNat / 2 ^ (k % 64) % 2 ^ len
     bfxField ty a k = if len = 0 then 0
       else if ty.isSigned = true ∧ 2 ^ (len - 1) ≤ fd then (fd : Int) - (2 ^ len : Nat) else fd) := by
  have hpos : ctlPos k = k % 64 := by simp [ctlPos, bitsOf_eq]
  have hlen : ctlLen k = min 64 (k / 64 % 128) := by simp [ctlLen, bitsOf_eq]
  unfold bfxField
  simp only [hpos, hlen, bitsOf_eq, signedOf, Nat.mod_mod]
  generalize (ty.fill a).toNat / 2 ^ (k % 64) % 2 ^ min 64 (k / 64 % 128) = fd
  split
  · rfl
  · by_cases hs : ty.isSigned = true
    · by_cases hfd : fd < 2 ^ (min 64 (k / 64 % 128) - 1)
      · simp [hs, hfd, Nat.not_le.mpr hfd]
      · simp [hs, hfd, Nat.not_lt.mp hfd]
    · simp [hs]

/-- A number is what stands above a field, the field, and what stands below it. -/
theorem split_field (a pos n : Nat) : a = a / 2 ^ (pos + n) * 2 ^ (pos + n) + a / 2 ^ pos % 2 ^ n * 2 ^ pos + a % 2 ^ pos := by
  have h1 := Nat.div_add_mod a (2 ^ pos)
  have h2 := Nat.div_add_mod (a / 2 ^ pos) (2 ^ n)
  rw [Nat.div_div_eq_div_mul, ← Nat.pow_add] at h2
  calc a = 2 ^ pos * (2 ^ n * (a / 2 ^ (pos + n)) + a / 2 ^ pos % 2 ^ n) + a % 2 ^ pos := by rw [h2, h1]
    _ = _ := by rw [Nat.pow_add]; ring

/-- The pattern that BFI makes, by what stands above the field, the field, and what stands below it. -/
theorem bfiPat_eq (ty : Ty) (a b k : Nat) :
    (let w := ty.width
     let pos := k % 64
     let len := min 64 (k / 64 % 128)
     let top := min (pos + len) w
     bfiPat ty a b k = if w ≤ pos ∨ len = 0 then a
       else a / 2 ^ top * 2 ^ top + b % 2 ^ (top - pos) * 2 ^ pos + a % 2 ^ pos) := by
  have hpos : ctlPos k = k % 64 := by simp [ctlPos, bitsOf_eq]
  have hlen : ctlLen k = min 64 (k / 64 % 128) := by simp [ctlLen, bitsOf_eq]
  unfold bfiPat
  simp only [hpos, hlen, bitsOf_eq, ge_iff_le]
  generalize k % 64 = pos
  generalize min 64 (k / 64 % 128) = len
  by_cases hc : ty.width ≤ pos ∨ len = 0
  · rw [if_pos hc, if_pos hc]
  · rw [if_neg hc, if_neg hc]
    obtain ⟨n, hn⟩ := Nat.exists_eq_add_of_le (show pos ≤ min (pos + len) ty.width by omega)
    have hsplit := split_field a pos n
    rw [hn, Nat.add_sub_cancel_left]
    omega

/-- What DIEOF says, by division. -/
theorem dieofBits_eq (pkg : Nat) (map : Nat → Option Nat) (siteDie a : Nat) :
    dieofBits pkg map siteDie a =
      (let dc := a / 2 ^ 48 % 8
       let die := if dc < 4 then map dc else none
       dc + (if die = some siteDie then 8 else 0) + (if dc = 5 ∨ dc = 6 ∨ (dc < 4 ∧ die = none) then 16 else 0)
         + (if a / 2 ^ 51 % 64 = pkg then 0 else 32)) := by
  have hdc : bitsOf a 48 3 = a / 2 ^ 48 % 8 := bitsOf_eq a 48 3
  have hpkg : bitsOf a 51 6 = a / 2 ^ 51 % 64 := bitsOf_eq a 51 6
  unfold dieofBits
  simp only [hdc, hpkg, b2n]
  generalize a / 2 ^ 48 % 8 = dc
  generalize a / 2 ^ 51 % 64 = p
  by_cases h : dc < 4
  · simp [h, or_assoc]
  · simp [h]

/-- What DIEOF says under the DIEMAP of a context, if there is one. -/
theorem dieofBits_ctx (pkg : Nat) (o : Option Ctx) (siteDie a : Nat) :
    dieofBits pkg (fun dc => match o with
        | some x => x.dieOfCode dc
        | none => none) siteDie a =
      (let dc := a / 2 ^ 48 % 8
       let die := if dc < 4 then o.bind (fun x => x.dieOfCode dc) else none
       dc + (if die = some siteDie then 8 else 0) + (if dc = 5 ∨ dc = 6 ∨ (dc < 4 ∧ die = none) then 16 else 0)
         + (if a / 2 ^ 51 % 64 = pkg then 0 else 32)) := by
  rw [dieofBits_eq]
  cases o <;> rfl

/-- Settles O15: each sends one number; a field is cut out and put in by division. -/
theorem fieldsAndAddresses : Obligations.FieldsAndAddresses := by
  unfold Obligations.FieldsAndAddresses
  refine ⟨?bfx, ?bfi, ?ext, ?adda, ?addaImm, ?mkaddr, ?dieof⟩
  case bfx =>
    intro f s c a k h ha hk
    refine localGives h (rfl : _ = execBfx f s) ?_ rfl
    simp only [PatL] at ha
    simp only [ha, hk, bfxField_eq]
  case bfi =>
    intro f s c a b k h ha hb hk
    refine localGives h (rfl : _ = execBfi f s) ?_ rfl
    simp only [PatL] at ha
    simp only [ha, hb, hk, bfiPat_eq, patTok]
  case ext =>
    intro f s c a h ha
    refine localGives h (rfl : _ = execExt f s) ?_ rfl
    simp only [ha]
  case adda =>
    intro f s c a b h hi ha hb
    refine localGives h (rfl : _ = execAdda f s) ?_ rfl
    simp only [hi, ha, hb, Option.map_some]
  case addaImm =>
    intro f s c a v h hi ha
    refine localGives h (rfl : _ = execAdda f s) ?_ rfl
    simp only [hi, ha]
  case mkaddr =>
    intro f s c a k h ha hk
    refine gives h (rfl : _ = execMkaddr f s) rfl (fun he => by cases he) ?_
    have hfields : (if k.testBit 15 then s.pkgNo else bitsOf k 4 6) * 2 ^ 51 + bitsOf k 0 3 * 2 ^ 48 + a % 2 ^ 48 =
        (if k.testBit 15 then s.pkgNo else k / 16 % 64) * 2 ^ 51 + k % 8 * 2 ^ 48 + a % 2 ^ 48 := by simp [bitsOf_eq]
    rw [← hfields]
    rcases hk with ⟨hi, hr⟩ | ⟨v, hi, rfl⟩
    · simp only [ha, hi, hr]
      rfl
    · simp only [ha, hi]
      rfl
  case dieof =>
    intro f s c a h ha
    refine gives h (rfl : _ = execDieof f s) rfl (fun he => by cases he) ?_
    simp only [ha]
    exact congrArg (fun n : Nat => c.reply f.h (intTok .n8 n) (c.consume (c.taken (Instr.dieof f).uses) s))
      (dieofBits_ctx s.pkgNo (s.ctx? c.lease.tid) (c.lease.dieAt c.site.dx c.site.dy) a)

end Sys2Proof.Proofs.Integers
end

section
/-! Scalar float instructions (R293 to R298): one rounding of one value, and the special results of the values. -/

namespace Sys2Proof.Proofs.Floats

open Sys2Proof Sys2Proof.Machine Sys2Proof.Safety Sys2Proof.Claims Sys2Proof.Proofs.Locals Sys2Proof.Proofs.Firing

/-! ### One rounding (R294, R295) -/

/-- What an instruction sends that rounds one value once. -/
theorem floatEffect_round (c : Site) (f : FmtA) (x : FRes) :
    floatEffect c f (tyOf f.ty) (x.round (fmtOf f.ty) f.body.rm false (seedOf c f.body)) = Rounded c f x := rfl

/-- An instruction of two floats rounds the value that its operation gives. -/
theorem fpBin_result {mk : FmtA → Instr} {g : RMode → FV → FV → FRes} (hexec : ∀ f s, exec (mk f) s = fpBin (mk f) f g s) :
    FloatResult2 mk g := by
  intro f s c x y h hx hy
  refine acts h ((hexec f s).trans rfl) ?_ (noErr_some rfl) (noErr_some rfl)
  simp only [hx, hy, floatEffect_round]

/-- An instruction of one float rounds the value that its operation gives. -/
theorem fpUn_result {mk : FmtA → Instr} {g : RMode → FV → Nat → FRes} (hexec : ∀ f s, exec (mk f) s = fpUn (mk f) f g s) :
    FloatResult1 mk g := by
  intro f s c x h hx
  refine acts h ((hexec f s).trans rfl) ?_ (noErr_some rfl) (noErr_some rfl)
  simp only [hx, floatEffect_round]

/-- Settles O16: each has the effect of one rounding of the value that its operation gives. -/
theorem scalarFloatArithmeticRoundsOnce : Obligations.ScalarFloatArithmeticRoundsOnce := by
  unfold Obligations.ScalarFloatArithmeticRoundsOnce
  refine ⟨?fadd, ?fsub, ?fmul, ?fdiv, ?fmin, ?fmax, ?ffma, ?fscale, ?fsqrt, ?fneg, ?fabs, ?frnd, ?fexp2, ?flog2, ?frcp, ?frsq⟩
  case fadd => exact fpBin_result (fun f s => (rfl : _ = execFadd f s))
  case fsub => exact fpBin_result (fun f s => (rfl : _ = execFsub f s))
  case fmul => exact fpBin_result (fun f s => (rfl : _ = execFmul f s))
  case fdiv => exact fpBin_result (fun f s => (rfl : _ = execFdiv f s))
  case fmin => exact fpBin_result (fun f s => (rfl : _ = execFmin f s))
  case fmax => exact fpBin_result (fun f s => (rfl : _ = execFmax f s))
  case ffma =>
    intro f s c x y z h hx hy hz
    refine acts h (rfl : _ = execFfma f s) ?_ (noErr_some rfl) (noErr_some rfl)
    simp only [hx, hy, hz, floatEffect_round]
  case fscale =>
    intro f s c x y h hx hy
    refine acts h (rfl : _ = execFscale f s) ?_ (noErr_some rfl) (noErr_some rfl)
    simp only [hx, hy, floatEffect_round]
  case fsqrt => exact fpUn_result (fun f s => (rfl : _ = execFsqrt f s))
  case fneg => exact fpUn_result (fun f s => (rfl : _ = execFneg f s))
  case fabs => exact fpUn_result (fun f s => (rfl : _ = execFabs f s))
  case frnd => exact fpUn_result (fun f s => (rfl : _ = execFrnd f s))
  case fexp2 => exact fpUn_result (fun f s => (rfl : _ = execFexp2 f s))
  case flog2 => exact fpUn_result (fun f s => (rfl : _ = execFlog2 f s))
  case frcp => exact fpUn_result (fun f s => (rfl : _ = execFrcp f s))
  case frsq => exact fpUn_result (fun f s => (rfl : _ = execFrsq f s))

/-! ### Comparison, classes and conversions (R296, R297) -/

/-- NV for a NaN whose quiet bit is clear among two values. -/
theorem snanFlag_pair (x y : FV) : snanFlag [x, y] = if x.isSnan || y.isSnan then flagNV else 0 := by
  simp [snanFlag, flagIf]

/-- A truth value is sent as 1 or 0. -/
theorem intTok_b2n (t : Ty) (b : Bool) : intTok t (b2n b : Nat) = intTok t (if b then 1 else 0) := by
  cases b <;> rfl

/-- The flags that the mask of FFLAGS names are the low five bits of its immediate. -/
theorem fflags_mask (v : BitVec 22) : (v.setWidth 5).setWidth 64 = BitVec.ofNat 64 (v.toNat % 32) := by
  apply BitVec.eq_of_toNat_eq
  simp only [BitVec.toNat_setWidth, BitVec.toNat_ofNat]

/-- Clearing no flag changes nothing. -/
theorem clear_none (s : State) (site : SiteRef) :
    s.modPE site (fun pe => { pe with cu := { pe.cu with flg := pe.cu.flg &&& ~~~(0 : BitVec 64) } }) = s := by
  have h : ∀ p : PE, p.cu.flg &&& ~~~(0 : BitVec 64) = p.cu.flg := fun _ => BitVec.and_allOnes
  refine Eq.trans (congrArg (s.modPE site) (funext fun p => ?_)) (modPE_id s site)
  rw [h]

/-- Settles O17: each has the effect of one comparison, class or conversion; FFLAGS changes no register but FLG. -/
theorem floatsAreComparedAndConverted : Obligations.FloatsAreComparedAndConverted := by
  unfold Obligations.FloatsAreComparedAndConverted
  refine ⟨?fcmp, ?fclass, ?fcvt, ?ftoi, ?itof, ?fflags, ?fflagsMask⟩
  case fcmp =>
    intro f s c x y h hx hy
    refine acts h (rfl : _ = execFcmp f s) ?_ (noErr_some rfl) (noErr_some rfl)
    rw [← snanFlag_pair]
    simp only [hx, hy, intTok_b2n]
    rfl
  case fclass =>
    intro f s c x h hx
    refine localGives h (rfl : _ = execFclass f s) ?_ rfl
    simp only [hx]
  case fcvt =>
    intro f s c a h ha
    refine acts h (rfl : _ = execFcvt f s) ?_ (noErr_some rfl) (noErr_some rfl)
    simp only [ha]
  case ftoi =>
    intro f s c x h hx
    refine acts h (rfl : _ = execFtoi f s) ?_ (noErr_some rfl) (noErr_some rfl)
    simp only [hx]
  case itof =>
    intro f s c a h ha
    refine acts h (rfl : _ = execItof f s) ?_ (noErr_some rfl) (noErr_some rfl)
    simp only [ha]
  case fflags =>
    intro f s c h hi
    refine gives h (rfl : _ = execFflags f s) rfl (fun he => by cases he) ?_
    simp only [hi]
    exact congrArg (c.reply f.h (intTok .n64 (c.pe.cu.flg.toNat % 32 : Nat))) (clear_none _ c.site)
  case fflagsMask =>
    intro f s c v h hi
    refine completes_reply h (rfl : _ = execFflags f s) rfl rfl
      (regChange_cu _ (fun u => { u with flg := u.flg &&& ~~~BitVec.ofNat 64 (v.toNat % 32) })) (fun he => by cases he) ?_
    simp only [hi, fflags_mask]
    rfl

/-! ### Special results (R207, R212, R214, R215) -/

/-- Settles O18: each special value is a case of its operation. -/
theorem floatSpecialResults : Obligations.FloatSpecialResults := by
  unfold Obligations.FloatSpecialResults
  refine ⟨?nan, rfl, rfl, rfl, rfl, rfl, rfl, ?add, ?mul, ?fma, ?divZero, ?zeroByZero, ?infByInf, ?sqrtZero, ?sqrtNeg, rfl, ?minMaxNan,
    ?minMaxZero, ?ofZero, ?ofNegative, rfl, rfl, ?intNan, ?intInf, ?intZero, ?zero⟩
  case nan => exact fun fm mode sat q st => rfl
  case add => exact fun m s => by cases s <;> simp [fAdd, FV.add, snanFlag_pair, FV.isSnan]
  case mul => exact fun s t e => ⟨by simp [fMul, FV.mul, snanFlag_pair, FV.isSnan], by simp [fMul, FV.mul, snanFlag_pair, FV.isSnan]⟩
  case fma => exact fun m s t e => by simp [fFma, FV.mul, FV.add, snanFlag, flagIf, FV.isSnan]
  case divZero =>
    intro s t m e g hm
    simp [fDiv, hm, FRes.divZero, FRes.raise, snanFlag_pair, FV.isSnan]
  case zeroByZero => exact fun s t e g => by simp [fDiv, FRes.invalid, FRes.raise, snanFlag_pair, FV.isSnan]
  case infByInf => exact fun s t => by simp [fDiv, FRes.invalid, FRes.raise, snanFlag_pair, FV.isSnan]
  case sqrtZero => exact fun e => by simp [fSqrt, FRes.exact, FRes.raise, snanFlag, flagIf, FV.isSnan]
  case sqrtNeg =>
    intro m e hm
    simp [fSqrt, hm, FRes.invalid, FRes.raise, snanFlag, flagIf, FV.isSnan]
  case minMaxNan =>
    intro b x hx
    have hn : (FV.nan true).isNan = true := rfl
    simp only [fMinMax, hx, hn]
    exact ⟨rfl, rfl⟩
  case minMaxZero =>
    intro e g
    simp [fMinMax, FV.isNan, FRes.exact, FRes.raise, FV.below, FV.cmp, FV.scaledInt, FV.isNeg]
  case ofZero =>
    intro s e
    simp [fLog2, fRcp, fRsq, FRes.divZero, FRes.raise, snanFlag, flagIf, FV.isSnan]
  case ofNegative =>
    intro m e hm
    simp [fLog2, fRsq, hm, FRes.invalid, FRes.raise, snanFlag, flagIf, FV.isSnan]
  case intNan => exact fun t m q st => rfl
  case intInf => exact fun t m st => ⟨rfl, rfl⟩
  case intZero => exact fun t m s e st => rfl
  case zero => exact fun fm mode sat st => rfl

end Sys2Proof.Proofs.Floats
end

section
/-! Vector instructions (R299 to R317): each has the effect of its lanes, taken one by one or folded. -/

namespace Sys2Proof.Proofs.Vectors

open Sys2Proof Sys2Proof.Machine Sys2Proof.Safety Sys2Proof.Claims Sys2Proof.Proofs.Locals Sys2Proof.Proofs.Integers

/-! ### Arithmetic, lane by lane (R305) -/

section
variable {mk : FmtA → Instr}

section
variable {gi : Ty → Int → Int → Int} {gf : RMode → FV → FV → FRes} (hexec : ∀ f s, exec (mk f) s = vecBin (mk f) f gi gf s)
include hexec

/-- An instruction of two vectors has the effect of its integer lanes. -/
theorem vecBin_intLanes {G : Ty → Int → Int → Int} (hg : ∀ t x y, gi t x y = G t x y) : IntLanes2 mk G := by
  intro f s c a b h hi ha hb
  refine acts h ((hexec f s).trans rfl) ?_ (noErr_some rfl) (noErr_some rfl)
  simp only [ha, hb, hi, hg, if_true]

/-- An instruction of two vectors has the effect of its float lanes. -/
theorem vecBin_floatLanes : FloatLanes2 mk gf := by
  intro f s c a b h hi ha hb
  refine acts h ((hexec f s).trans rfl) ?_ (noErr_some rfl) (noErr_some rfl)
  simp only [ha, hb, hi, Bool.false_eq_true, if_false]

end

section
variable {gi : Ty → Int → Int} {gf : FV → FRes} (hexec : ∀ f s, exec (mk f) s = vecUn (mk f) f gi gf s)
include hexec

/-- An instruction of one vector has the effect of its integer lanes. -/
theorem vecUn_intLanes {G : Int → Int} (hg : ∀ t x, gi t x = G x) : IntLanes1 mk G := by
  intro f s c a h hi ha
  refine acts h ((hexec f s).trans rfl) ?_ (noErr_some rfl) (noErr_some rfl)
  simp only [ha, hi, hg, if_true]

/-- An instruction of one vector has the effect of its float lanes. -/
theorem vecUn_floatLanes : FloatLanes1 mk gf := by
  intro f s c a h hi ha
  refine acts h ((hexec f s).trans rfl) ?_ (noErr_some rfl) (noErr_some rfl)
  simp only [ha, hi, Bool.false_eq_true, if_false]

end

/-- An instruction of two vectors of bit patterns has the effect of its lanes. -/
theorem vecPat_lanes {g : Nat → Nat → Nat → Nat} (hexec : ∀ f s, exec (mk f) s = vecPat (mk f) f g s) : PatLanes2 mk g := by
  intro f s c a b h ha hb
  refine acts h ((hexec f s).trans rfl) ?_ (noErr_some rfl) (noErr_some rfl)
  simp only [ha, hb]

end

/-- Settles O19: the integer lanes are the values of the operation, the float lanes one rounding each. -/
theorem vectorArithmeticWorksLaneByLane : Obligations.VectorArithmeticWorksLaneByLane := by
  unfold Obligations.VectorArithmeticWorksLaneByLane
  refine ⟨?vadd, ?vsub, ?vmul, ?vmin, ?vmax, ?vsatadd, ?vmulh, ?vaddF, ?vsubF, ?vmulF, ?vminF, ?vmaxF, ?vand, ?vor, ?vxor, ?vshl,
    ?vshr, ?vsar, ?vabs, ?vneg, ?vabsF, ?vnegF, ?vexp2, ?vlog2, ?vrcp, ?vrsq, ?vsigm, ?vfma⟩
  case vadd => exact vecBin_intLanes (mk := .vadd) (fun f s => (rfl : _ = execVadd f s)) (fun _ _ _ => rfl)
  case vsub => exact vecBin_intLanes (mk := .vsub) (fun f s => (rfl : _ = execVsub f s)) (fun _ _ _ => rfl)
  case vmul => exact vecBin_intLanes (mk := .vmul) (fun f s => (rfl : _ = execVmul f s)) (fun _ _ _ => rfl)
  case vmin => exact vecBin_intLanes (mk := .vmin) (fun f s => (rfl : _ = execVmin f s)) (fun _ x y => min_def x y)
  case vmax => exact vecBin_intLanes (mk := .vmax) (fun f s => (rfl : _ = execVmax f s)) (fun _ x y => max_def x y)
  case vsatadd => exact vecBin_intLanes (mk := .vsatadd) (fun f s => (rfl : _ = execVsatadd f s)) (fun t x y => clamp_eq t (x + y))
  case vmulh => exact vecBin_intLanes (mk := .vmulh) (fun f s => (rfl : _ = execVmulh f s)) (fun _ _ _ => rfl)
  case vaddF => exact vecBin_floatLanes (fun f s => (rfl : _ = execVadd f s))
  case vsubF => exact vecBin_floatLanes (fun f s => (rfl : _ = execVsub f s))
  case vmulF => exact vecBin_floatLanes (fun f s => (rfl : _ = execVmul f s))
  case vminF => exact vecBin_floatLanes (fun f s => (rfl : _ = execVmin f s))
  case vmaxF => exact vecBin_floatLanes (fun f s => (rfl : _ = execVmax f s))
  case vand => exact vecPat_lanes (fun f s => (rfl : _ = execVand f s))
  case vor => exact vecPat_lanes (fun f s => (rfl : _ = execVor f s))
  case vxor => exact vecPat_lanes (fun f s => (rfl : _ = execVxor f s))
  case vshl => exact vecPat_lanes (fun f s => (rfl : _ = execVshl f s))
  case vshr => exact vecPat_lanes (fun f s => (rfl : _ = execVshr f s))
  case vsar => exact vecPat_lanes (fun f s => (rfl : _ = execVsar f s))
  case vabs => exact vecUn_intLanes (mk := .vabs) (fun f s => (rfl : _ = execVabs f s)) (fun _ x => natAbs_eq x)
  case vneg => exact vecUn_intLanes (mk := .vneg) (fun f s => (rfl : _ = execVneg f s)) (fun _ _ => rfl)
  case vabsF => exact vecUn_floatLanes (fun f s => (rfl : _ = execVabs f s))
  case vnegF => exact vecUn_floatLanes (fun f s => (rfl : _ = execVneg f s))
  case vexp2 => exact vecUn_floatLanes (fun f s => (rfl : _ = execVexp2 f s))
  case vlog2 => exact vecUn_floatLanes (fun f s => (rfl : _ = execVlog2 f s))
  case vrcp => exact vecUn_floatLanes (fun f s => (rfl : _ = execVrcp f s))
  case vrsq => exact vecUn_floatLanes (fun f s => (rfl : _ = execVrsq f s))
  case vsigm => exact vecUn_floatLanes (fun f s => (rfl : _ = execVsigm f s))
  case vfma =>
    intro f s c a b p h ha hb hp
    refine acts h (rfl : _ = execVfma f s) ?_ (noErr_some rfl) (noErr_some rfl)
    simp only [ha, hb, hp]

/-! ### Comparison, selection, products and conversions (R306 to R311) -/

/-- Settles O20: each has the effect of its lanes, once its operands have the tags that it asks for. -/
theorem vectorsAreComparedDottedAndConverted : Obligations.VectorsAreComparedDottedAndConverted := by
  unfold Obligations.VectorsAreComparedDottedAndConverted
  refine ⟨?vcmpInt, ?vcmpFloat, ?vsel, ?vdotInt, ?vdotFloat, ?vcvt, ?vquant, ?vdeq, ?vscale, ?vscaleMx⟩
  case vcmpInt =>
    intro f s c a b h hi ha hb
    refine localGives h (rfl : _ = execVcmp f s) ?_ rfl
    simp only [ha, hb, hi, if_true, maskOf]
  case vcmpFloat =>
    intro f s c a b h hi ha hb
    refine acts h (rfl : _ = execVcmp f s) ?_ (noErr_some rfl) (noErr_some rfl)
    simp only [ha, hb, hi, Bool.false_eq_true, if_false]
    rfl
  case vsel =>
    intro f s c a b p h ha hb hp hv
    refine acts h (rfl : _ = execVsel f s) ?_ (noErr_some rfl) (noErr_some rfl)
    simp only [ha, hb, hp, hv, Bool.false_eq_true, if_false]
  case vdotInt =>
    intro f s c a b p h hi ha hb hp
    refine acts h (rfl : _ = execVdot f s) ?_ (noErr_some rfl) (noErr_some rfl)
    simp only [ha, hb, hp, hi, if_true]
  case vdotFloat =>
    intro f s c a b u p h hi ha hv hb hu hp
    refine acts h (rfl : _ = execVdot f s) ?_ (noErr_some rfl) (noErr_some rfl)
    simp only [ha, hb, hp, hi, hu, hv, Bool.false_eq_true, if_false, if_true]
  case vcvt =>
    intro f s c a h ha
    refine acts h (rfl : _ = execVcvt f s) ?_ (noErr_some rfl) (noErr_some rfl)
    simp only [ha]
  case vquant =>
    intro f s c a fm t h ha hfm ht
    refine acts h (rfl : _ = execVquant f s) ?_ (noErr_some rfl) (noErr_some rfl)
    rcases ht with ⟨hn, rfl⟩ | ⟨hn, hr, hv⟩
    · simp only [ha, hfm, hn, if_true]
      rfl
    · simp only [ha, hfm, hn, hr, hv, if_false, if_true]
      rfl
  case vdeq =>
    intro f s c t h hl hv
    refine acts h (rfl : _ = execVdeq f s) ?_ (noErr_some rfl) (noErr_some rfl)
    simp only [hl, hv, if_true]
  case vscale =>
    intro f s c t y h hm hl hv hy
    refine acts h (rfl : _ = execVscale f s) ?_ (noErr_some rfl) (noErr_some rfl)
    simp only [hl, hv, hy, hm, Bool.not_true, Bool.false_eq_true, if_false]
  case vscaleMx =>
    intro f s c t y h hm hl hv hy
    refine acts h (rfl : _ = execVscale f s) ?_ (noErr_some rfl) (noErr_some rfl)
    simp only [hl, hv, hy, hm, Bool.not_true, Bool.false_eq_true, if_false, if_true]

/-! ### Movements of lanes (R313) -/

/-- A scalar of a type gives its bits where its class alone counts. -/
theorem scalarBits_of_scalarArg {o : Option Token} {t : Ty} {a : Nat} (h : scalarArg o t = some a) : scalarBits o t = some a := by
  unfold scalarArg at h
  split at h
  next t' =>
    split at h
    · next hs =>
      have hv : t'.vec = false := by
        simp only [Token.isScalar, Bool.and_eq_true, Bool.not_eq_true'] at hs
        exact hs.1
      simp only [scalarBits, hv, Bool.false_eq_true, if_false]
      exact h
    · cases h
  · cases h

/-- Settles O21: each has the effect of its lanes put where they go. -/
theorem lanesMoveAsTold : Obligations.LanesMoveAsTold := by
  unfold Obligations.LanesMoveAsTold
  refine ⟨?vbcast, ?vextr, ?vins, ?vshuf, ?vrot, ?vslide, ?vzip, ?vunzip, ?vmask⟩
  case vbcast =>
    intro f s c a h ha
    refine acts h (rfl : _ = execVbcast f s) ?_ (noErr_some rfl) (noErr_some rfl)
    simp only [scalarBits_of_scalarArg ha]
  case vextr =>
    intro f s c a h ha
    refine localGives h (rfl : _ = execVextr f s) ?_ rfl
    simp only [ha]
  case vins =>
    intro f s c a b h ha hb
    refine localGives h (rfl : _ = execVins f s) ?_ rfl
    simp only [ha, scalarBits_of_scalarArg hb]
  case vshuf =>
    intro f s c a b h ha hb
    refine acts h (rfl : _ = execVshuf f s) ?_ (noErr_some rfl) (noErr_some rfl)
    simp only [ha, hb, ge_iff_le]
  case vrot =>
    intro f s c a h ha
    refine localGives h (rfl : _ = execVrot f s) ?_ rfl
    simp only [ha, Bool.false_eq_true, if_false]
  case vslide =>
    intro f s c a b h ha hb
    refine localGives h (rfl : _ = execVslide f s) ?_ rfl
    simp only [ha, hb]
  case vzip =>
    intro f s c a b h ha hb
    refine localGives h (rfl : _ = execVzip f s) ?_ rfl
    simp only [ha, hb]
  case vunzip =>
    intro f s c a b h ha hb
    refine localGives h (rfl : _ = execVunzip f s) ?_ rfl
    simp only [ha, hb]
  case vmask =>
    intro f s c a m h ha hm
    refine acts h (rfl : _ = execVmask f s) ?_ (noErr_some rfl) (noErr_some rfl)
    simp only [ha, hm]

/-! ### Packing, reductions, counts and tags (R314 to R317) -/

/-- A reduction has the effect of its tree. -/
theorem reduceOp_acts {i : Instr} {f : FmtA} {op : Nat} {s : State} {c : Site} {a : List Nat} (h : Fires i s c)
    (hexec : exec i s = reduceOp i f op s) (ha : vecArg (c.vk f c.l) (tyOf f.ty) = some a) :
    Acts i s c ((Effect.both (patTok (tyOf f.ty) (treeFold (nodeOp (tyOf f.ty) op) 7 a).1)).withFlags
      (treeFold (nodeOp (tyOf f.ty) op) 7 a).2) := by
  refine acts h (hexec.trans rfl) ?_ (noErr_some rfl) (noErr_some rfl)
  simp only [ha]

/-- The lane that VEXPAND writes: the metadata's indices stand in two bits each. -/
theorem expandLane_eq (a : List Nat) (m q : Nat) :
    (if bitsOf m (4 * (q / 4)) 2 < bitsOf m (4 * (q / 4) + 2) 2 then
      (if q % 4 = bitsOf m (4 * (q / 4)) 2 then nth a (2 * (q / 4)) 0
       else if q % 4 = bitsOf m (4 * (q / 4) + 2) 2 then nth a (2 * (q / 4) + 1) 0 else 0) else 0) =
    (let lo := m / 2 ^ (4 * (q / 4)) % 4
     let hi := m / 2 ^ (4 * (q / 4) + 2) % 4
     if hi ≤ lo then 0 else if q % 4 = lo then nth a (2 * (q / 4)) 0 else if q % 4 = hi then nth a (2 * (q / 4) + 1) 0 else 0) := by
  simp only [bitsOf_eq, show (2 : Nat) ^ 2 = 4 from rfl]
  by_cases h : m / 2 ^ (4 * (q / 4) + 2) % 4 ≤ m / 2 ^ (4 * (q / 4)) % 4
  · rw [if_pos h, if_neg (by omega)]
  · rw [if_neg h, if_pos (by omega)]

/-- VTAGSET uses L unless v[VIDX] takes its place. -/
theorem kind_of_vtagset {f : FmtA} {s : State} {c : Site} {t : Token} (h : Fires (.vtagset f) s c) (ht : c.vk f c.l = some t) :
    t.kind ≠ .err := by
  unfold Site.vk at ht
  by_cases hv : f.body.fn.testBit 4 = true
  · rw [if_pos hv] at ht
    cases ht
    exact fun he => by cases he
  · rw [if_neg hv] at ht
    refine kind_of_l h ?_ ht
    cases hb : f.body with
    | imm v => simp [Instr.uses, Instr.row, hb]
    | regs fn rm sat ty2 ksel z =>
      rw [hb] at hv
      simp only [ABody.fn, Bool.not_eq_true] at hv
      simp [Instr.uses, Instr.row, hb, hv]

/-- Settles O22: each has the effect of its lanes, of its tree, or of one count or tag. -/
theorem vectorsArePackedReducedAndCounted : Obligations.VectorsArePackedReducedAndCounted := by
  unfold Obligations.VectorsArePackedReducedAndCounted
  refine ⟨?vpack, ?vunpackInt, ?vunpackFloat, ?vredadd, ?vredmax, ?vredmin, ?vscan, ?vcompress, ?vexpand, ?vpopc, ?vtagq, ?vtagset,
    ?vtagsetErr⟩
  case vpack =>
    intro f s c a b h ha hb
    refine acts h (rfl : _ = execVpack f s) ?_ (noErr_some rfl) (noErr_some rfl)
    simp only [ha, hb]
  case vunpackInt =>
    intro f s c a h hi ha
    refine localGives h (rfl : _ = execVunpack f s) ?_ rfl
    simp only [ha, hi, if_true]
  case vunpackFloat =>
    intro f s c a h hi ha
    refine acts h (rfl : _ = execVunpack f s) ?_ (noErr_some rfl) (noErr_some rfl)
    simp only [ha, hi, Bool.false_eq_true, if_false]
  case vredadd => exact fun f s c a h ha => reduceOp_acts h (rfl : _ = execVredadd f s) ha
  case vredmax => exact fun f s c a h ha => reduceOp_acts h (rfl : _ = execVredmax f s) ha
  case vredmin => exact fun f s c a h ha => reduceOp_acts h (rfl : _ = execVredmin f s) ha
  case vscan =>
    intro f s c a y h ha hy
    refine acts h (rfl : _ = execVscan f s) ?_ (noErr_some rfl) (noErr_some rfl)
    simp only [ha, hy]
  case vcompress =>
    intro f s c a h ha
    refine localSends h (rfl : _ = execVcompress f s) ?_ rfl rfl
    simp only [ha, List.map_map]
    rfl
  case vexpand =>
    intro f s c a m h ha hm
    refine acts h (rfl : _ = execVexpand f s) ?_ (noErr_some rfl) (noErr_some rfl)
    simp only [ha, hm, expandLane_eq]
  case vpopc =>
    intro f s c a h ha
    refine localGives h (rfl : _ = execVpopc f s) ?_ rfl
    simp only [ha]
  case vtagq =>
    intro f s c t h hl
    refine localGives h (rfl : _ = execVtagq f s) ?_ rfl
    simp only [hl]
  case vtagset =>
    intro f s c t h ht hok
    have hgood : (!t.vec && ((tyOf f.ty).isMX || decide (tyOf f.ty = .raw512))) = false := by
      rcases hok with hv | ⟨hm, hr⟩ <;> simp [*]
    have hkind : NoErr (some { t with tag := (tyOf f.ty).tag, scales := if (tyOf f.ty).isMX then t.scales else 0 }) := by
      rintro _ ⟨⟩
      exact kind_of_vtagset (t := t) h ht
    refine acts h (rfl : _ = execVtagset f s) ?_ hkind hkind
    simp only [ht, hgood, Bool.false_eq_true, if_false]
  case vtagsetErr =>
    intro f s c t h ht hv hm hl
    have hbad : (!t.vec && ((tyOf f.ty).isMX || decide (tyOf f.ty = .raw512))) = true := by
      rcases hm with hm | hm <;> simp [hm, hv]
    refine localFormatTag h (rfl : _ = execVtagset f s) ?_ hl
    simp only [ht, hbad, if_true]

end Sys2Proof.Proofs.Vectors
end

section
/-! Operands of a wrong tag or class (R211, R272, R301, R303): an instruction of its own PE has no effect on them, and answers FORMAT_TAG. -/

namespace Sys2Proof.Proofs.Tags

open Sys2Proof Sys2Proof.Machine Sys2Proof.Safety Sys2Proof.Claims Sys2Proof.Proofs.Locals Sys2Proof.Proofs.Firing

/-! ### Answers to what a test of the operands tells -/

/-- The instruction answers with FORMAT_TAG what a test of its operands tells. -/
abbrev TagErr (mk : FmtA → Instr) (bad : FmtA → Site → Prop) : Prop :=
  ∀ f s c, Fires (mk f) s c → bad f c → Lands f.h → Completes (mk f) s c (Deed.sending s c (mk f) (both f.h (c.ownErr cFormatTag)))

theorem TagErr.mono {mk : FmtA → Instr} {bad bad' : FmtA → Site → Prop} (h : TagErr mk bad) (hb : ∀ f c, bad' f c → bad f c) : TagErr mk bad' :=
  fun f s c hf hbad => h f s c hf (hb f c hbad)

/-- One instruction. -/
theorem answersTag_one {mk : FmtA → Instr} {bad : FmtA → Site → Prop} (h : TagErr mk bad) : AnswersTag [mk] bad := by
  intro mk' hmk
  obtain rfl := List.mem_singleton.mp hmk
  exact h

section
variable {mk : FmtA → Instr} {bad : FmtA → Site → Prop}

/-- An instruction of its own PE answers with FORMAT_TAG where it has no effect. -/
theorem tags_of_local {eff : FmtA → Site → Option Effect} (hexec : ∀ f s, exec (mk f) s = fireLocal (mk f) (eff f) s)
    (hhead : ∀ f, (mk f).head = f.h) (hbad : ∀ f c, bad f c → eff f c = none) : TagErr mk bad := by
  intro f s c h hb hl
  rw [← hhead] at hl ⊢
  exact localFormatTag h (hexec f s) (hbad f c hb) hl

end

/-- A float operand of a wrong tag has no value. -/
theorem floatArg_none {o : Option Token} {ty : BitVec 5} (h : scalarArg o (tyOf ty) = none) : floatArg o ty = none := by
  rw [floatArg, h]
  rfl

/-! ### The operations that instructions share -/

/-- A test of the operands of two scalars of TYPE. -/
abbrev badTwo (f : FmtA) (c : Site) : Prop := scalarArg c.l (tyOf f.ty) = none ∨ scalarArg (c.rOrImm f) (tyOf f.ty) = none

/-- A test of the operands of two vectors of TYPE, of which VR may give R. -/
abbrev badVectors (f : FmtA) (c : Site) : Prop := vecArg c.l (tyOf f.ty) = none ∨ vecR f (c.vk f c.r) = none

section
variable {mk : FmtA → Instr} (hhead : ∀ f, (mk f).head = f.h)
include hhead

theorem intBin_tags {g : Ty → Int → Int → Int} (hexec : ∀ f s, exec (mk f) s = intBin (mk f) f g s) : TagErr mk badTwo := by
  refine tags_of_local (fun f s => (hexec f s).trans rfl) hhead ?_
  rintro f c (h | h)
  · simp only [h]
  · simp only [h]
    split <;> simp_all

theorem patBin_tags {g : Nat → Nat → Nat → Nat} (hexec : ∀ f s, exec (mk f) s = patBin (mk f) f g s) : TagErr mk badTwo := by
  refine tags_of_local (fun f s => (hexec f s).trans rfl) hhead ?_
  rintro f c (h | h)
  · simp only [h]
  · simp only [h]
    split <;> simp_all

theorem carryOp_tags {g : Int → Int → Int → Int} (hexec : ∀ f s, exec (mk f) s = carryOp (mk f) f g s) : TagErr mk badTwo := by
  refine tags_of_local (fun f s => (hexec f s).trans rfl) hhead ?_
  rintro f c (h | h)
  · simp only [h]
  · simp only [h]
    split <;> simp_all

theorem fpBin_tags {g : RMode → FV → FV → FRes} (hexec : ∀ f s, exec (mk f) s = fpBin (mk f) f g s) : TagErr mk badTwo := by
  refine tags_of_local (fun f s => (hexec f s).trans rfl) hhead ?_
  rintro f c (h | h)
  · simp only [floatArg_none h]
  · have hn := floatArg_none h
    split <;> simp_all

theorem intUn_tags {g : Ty → Nat → Int} (hexec : ∀ f s, exec (mk f) s = intUn (mk f) f g s) : TagErr mk (fun f c => scalarArg c.l (tyOf f.ty) = none) := by
  refine tags_of_local (fun f s => (hexec f s).trans rfl) hhead ?_
  intro f c h
  simp only [h]

theorem fpUn_tags {g : RMode → FV → Nat → FRes} (hexec : ∀ f s, exec (mk f) s = fpUn (mk f) f g s) : TagErr mk (fun f c => scalarArg c.l (tyOf f.ty) = none) := by
  refine tags_of_local (fun f s => (hexec f s).trans rfl) hhead ?_
  intro f c h
  simp only [floatArg_none h]

theorem vecBin_tags {gi : Ty → Int → Int → Int} {gf : RMode → FV → FV → FRes} (hexec : ∀ f s, exec (mk f) s = vecBin (mk f) f gi gf s) : TagErr mk badVectors := by
  refine tags_of_local (fun f s => (hexec f s).trans rfl) hhead ?_
  rintro f c (h | h)
  · simp only [h]
  · simp only [h]
    split <;> simp_all

theorem vecPat_tags {g : Nat → Nat → Nat → Nat} (hexec : ∀ f s, exec (mk f) s = vecPat (mk f) f g s) : TagErr mk badVectors := by
  refine tags_of_local (fun f s => (hexec f s).trans rfl) hhead ?_
  rintro f c (h | h)
  · simp only [h]
  · simp only [h]
    split <;> simp_all

theorem vecUn_tags {gi : Ty → Int → Int} {gf : FV → FRes} (hexec : ∀ f s, exec (mk f) s = vecUn (mk f) f gi gf s) : TagErr mk (fun f c => vecArg (c.vk f c.l) (tyOf f.ty) = none) := by
  refine tags_of_local (fun f s => (hexec f s).trans rfl) hhead ?_
  intro f c h
  simp only [h]

theorem reduceOp_tags {op : Nat} (hexec : ∀ f s, exec (mk f) s = reduceOp (mk f) f op s) : TagErr mk (fun f c => vecArg (c.vk f c.l) (tyOf f.ty) = none) := by
  refine tags_of_local (fun f s => (hexec f s).trans rfl) hhead ?_
  intro f c h
  simp only [h]

theorem moveLanes2_tags {g : FmtA → Nat → List Nat → List Nat → List Nat} (hexec : ∀ f s, exec (mk f) s = moveLanes2 (mk f) f (g f) s) : TagErr mk (fun f c => vecArg c.l (tyOf f.ty) = none ∨ vecArg c.r (tyOf f.ty) = none) := by
  refine tags_of_local (fun f s => (hexec f s).trans rfl) hhead ?_
  rintro f c (h | h)
  · simp only [h]
  · simp only [h]
    split <;> simp_all

end

/-! ### Each instruction by itself -/

theorem cmp_tags : TagErr .cmp (fun f c => badTwo f c) := by
  refine tags_of_local (fun f s => (rfl : _ = execCmp f s)) (fun _ => rfl) ?_
  rintro f c (h | h)
  · simp only [h]
  · simp only [h]
    split <;> simp_all


theorem fcmp_tags : TagErr .fcmp (fun f c => badTwo f c) := by
  refine tags_of_local (fun f s => (rfl : _ = execFcmp f s)) (fun _ => rfl) ?_
  rintro f c (h | h)
  · simp only [floatArg_none h]
  · have hn := floatArg_none h
    split <;> simp_all


theorem ffma_tags : TagErr .ffma (fun f c => scalarArg c.l (tyOf f.ty) = none ∨ scalarArg (c.rOrImm f) (tyOf f.ty) = none ∨ scalarArg c.p (tyOf f.ty) = none) := by
  refine tags_of_local (fun f s => (rfl : _ = execFfma f s)) (fun _ => rfl) ?_
  rintro f c (h | h | h)
  · simp only [floatArg_none h]
  · have hn := floatArg_none h
    split <;> simp_all
  · have hn := floatArg_none h
    split <;> simp_all


theorem fscale_tags : TagErr .fscale (fun f c => scalarArg c.l (tyOf f.ty) = none ∨ scalarArg c.r .s32 = none) := by
  refine tags_of_local (fun f s => (rfl : _ = execFscale f s)) (fun _ => rfl) ?_
  rintro f c (h | h)
  · simp only [floatArg_none h]
  · simp only [h]
    split <;> simp_all


theorem fclass_tags : TagErr .fclass (fun f c => scalarArg c.l (tyOf f.ty) = none) := by
  refine tags_of_local (fun f s => (rfl : _ = execFclass f s)) (fun _ => rfl) ?_
  intro f c h
  simp only [floatArg_none h]


theorem bfx_tags : TagErr .bfx (fun f c => scalarArg c.l (tyOf f.ty) = none ∨ scalarArg c.r .n16 = none) := by
  refine tags_of_local (fun f s => (rfl : _ = execBfx f s)) (fun _ => rfl) ?_
  rintro f c (h | h)
  · simp only [h]
  · simp only [h]
    split <;> simp_all


theorem bfi_tags : TagErr .bfi (fun f c => scalarArg c.l (tyOf f.ty) = none ∨ scalarArg c.r (tyOf f.ty) = none ∨ scalarArg c.p .n16 = none) := by
  refine tags_of_local (fun f s => (rfl : _ = execBfi f s)) (fun _ => rfl) ?_
  rintro f c (h | h | h)
  · simp only [h]
  · simp only [h]
    split <;> simp_all
  · simp only [h]
    split <;> simp_all


theorem ext_tags : TagErr .ext (fun f c => scalarArg c.l (tyOf f.body.ty2) = none) := by
  refine tags_of_local (fun f s => (rfl : _ = execExt f s)) (fun _ => rfl) ?_
  intro f c h
  simp only [h]


theorem fcvt_tags : TagErr .fcvt (fun f c => scalarArg c.l (tyOf f.body.ty2) = none) := by
  refine tags_of_local (fun f s => (rfl : _ = execFcvt f s)) (fun _ => rfl) ?_
  intro f c h
  simp only [h]


theorem ftoi_tags : TagErr .ftoi (fun f c => scalarArg c.l (tyOf f.body.ty2) = none) := by
  refine tags_of_local (fun f s => (rfl : _ = execFtoi f s)) (fun _ => rfl) ?_
  intro f c h
  simp only [floatArg_none h]


theorem itof_tags : TagErr .itof (fun f c => scalarArg c.l (tyOf f.body.ty2) = none) := by
  refine tags_of_local (fun f s => (rfl : _ = execItof f s)) (fun _ => rfl) ?_
  intro f c h
  simp only [h]


theorem adda_tags : TagErr .adda (fun f c => scalarArg c.l .a57 = none ∨ (f.body.imm? = none ∧ scalarArg c.r .s64 = none)) := by
  refine tags_of_local (fun f s => (rfl : _ = execAdda f s)) (fun _ => rfl) ?_
  rintro f c (h | ⟨hi, h⟩)
  · simp only [h]
  · simp only [h]
    split <;> simp_all


theorem vfma_tags : TagErr .vfma (fun f c => vecArg c.l (tyOf f.ty) = none ∨ vecR f c.r = none ∨ vecArg (c.vk f c.p) (tyOf f.ty) = none) := by
  refine tags_of_local (fun f s => (rfl : _ = execVfma f s)) (fun _ => rfl) ?_
  rintro f c (h | h | h)
  · simp only [h]
  · simp only [h]
    split <;> simp_all
  · simp only [h]
    split <;> simp_all


theorem vcmp_tags : TagErr .vcmp (fun f c => vecArg c.l (tyOf f.ty) = none ∨ vecR f c.r = none) := by
  refine tags_of_local (fun f s => (rfl : _ = execVcmp f s)) (fun _ => rfl) ?_
  rintro f c (h | h)
  · simp only [h]
  · simp only [h]
    split <;> simp_all


theorem vsel_tags : TagErr .vsel (fun f c => vecArg c.l (tyOf f.ty) = none ∨ vecArg (c.vk f c.r) (tyOf f.ty) = none ∨ ∃ p, c.p = some p ∧ p.vec = true) := by
  refine tags_of_local (fun f s => (rfl : _ = execVsel f s)) (fun _ => rfl) ?_
  rintro f c (h | h | ⟨p, h, hv⟩)
  · simp only [h]
  · simp only [h]
    split <;> simp_all
  · simp only [h]
    split
    · next hp =>
      cases hp
      rw [if_pos hv]
    · rfl


theorem vdot_l_tags : TagErr .vdot (fun f c => vecArg c.l (tyOf f.ty) = none) := by
  refine tags_of_local (fun f s => (rfl : _ = execVdot f s)) (fun _ => rfl) ?_
  intro f c h
  simp only [h]
  split
  · rfl
  · split
    · next a _ _ hl _ _ =>
      have hv : a.isVector (tyOf f.ty) = false := by
        rw [hl] at h
        unfold vecArg at h
        simpa using h
      split
      · rw [if_neg (by rw [hv]; decide)]
      · rfl
    · rfl


theorem vdot_int_tags : TagErr .vdot (fun f c => (tyOf f.ty).isInt = true ∧ (vecArg c.r (tyOf f.ty) = none ∨ vecArg (c.vk f c.p) .s32 = none)) := by
  refine tags_of_local (fun f s => (rfl : _ = execVdot f s)) (fun _ => rfl) ?_
  rintro f c ⟨hi, h | h⟩
  · rw [if_pos hi]
    split <;> simp_all
  · rw [if_pos hi]
    split <;> simp_all


theorem vdot_float_tags : TagErr .vdot (fun f c => (tyOf f.ty).isInt = false ∧ (c.r.bind (dotPartner (tyOf f.ty)) = none ∨ vecArg (c.vk f c.p) .f32 = none)) := by
  refine tags_of_local (fun f s => (rfl : _ = execVdot f s)) (fun _ => rfl) ?_
  rintro f c ⟨hi, h | h⟩
  · simp only [hi, Bool.false_eq_true, if_false]
    split
    · next b _ _ hr _ =>
      rw [hr] at h
      rw [show dotPartner (tyOf f.ty) b = none from h]
    · rfl
  · rw [if_neg (by simp [hi])]
    split <;> simp_all


theorem vcvt_tags : TagErr .vcvt (fun f c => vecArg (c.vk f c.l) (tyOf f.body.ty2) = none) := by
  refine tags_of_local (fun f s => (rfl : _ = execVcvt f s)) (fun _ => rfl) ?_
  intro f c h
  simp only [h]


theorem vquant_l_tags : TagErr .vquant (fun f c => vecArg c.l (tyOf f.body.ty2) = none) := by
  refine tags_of_local (fun f s => (rfl : _ = execVquant f s)) (fun _ => rfl) ?_
  intro f c h
  simp only [h]


theorem vquant_r_tags : TagErr .vquant (fun f c => f.body.fn ≠ 0 ∧ vecArg c.r (tyOf f.ty) = none) := by
  refine tags_of_local (fun f s => (rfl : _ = execVquant f s)) (fun _ => rfl) ?_
  rintro f c ⟨hn, h⟩
  have hstart : (match c.r with
      | some t => if t.isVector (tyOf f.ty) then some t else none
      | none => none) = none := by
    unfold vecArg at h
    split at h <;> simp_all
  simp only [hn, if_false]
  split
  · next hs _ => exact absurd (hstart.symm.trans hs) (by simp)
  · rfl


theorem vdeq_tags : TagErr .vdeq (fun f c => vecArg c.l (tyOf f.body.ty2) = none) := by
  refine tags_of_local (fun f s => (rfl : _ = execVdeq f s)) (fun _ => rfl) ?_
  intro f c h
  unfold vecArg at h
  split at h <;> simp_all


theorem vpack_tags : TagErr .vpack (fun f c => vecArg c.l (tyOf f.body.ty2) = none ∨ vecArg c.r (tyOf f.body.ty2) = none) := by
  refine tags_of_local (fun f s => (rfl : _ = execVpack f s)) (fun _ => rfl) ?_
  rintro f c (h | h)
  · simp only [h]
  · simp only [h]
    split <;> simp_all


theorem vunpack_tags : TagErr .vunpack (fun f c => vecArg c.l (tyOf f.body.ty2) = none) := by
  refine tags_of_local (fun f s => (rfl : _ = execVunpack f s)) (fun _ => rfl) ?_
  intro f c h
  simp only [h]


theorem vscale_tags : TagErr .vscale (fun f c => vecArg (c.vk f c.l) (tyOf f.ty) = none ∨ scalarArg c.r .s32 = none) := by
  refine tags_of_local (fun f s => (rfl : _ = execVscale f s)) (fun _ => rfl) ?_
  rintro f c (h | h)
  · split
    · next t _ hl _ =>
      have hv : t.isVector (tyOf f.ty) = false := by
        rw [hl] at h
        unfold vecArg at h
        simpa using h
      simp only [hv, Bool.not_false, if_true]
    · rfl
  · simp only [h]
    split <;> simp_all


theorem vbcast_tags : TagErr .vbcast (fun f c => scalarBits c.l (tyOf f.ty) = none) := by
  refine tags_of_local (fun f s => (rfl : _ = execVbcast f s)) (fun _ => rfl) ?_
  intro f c h
  simp only [h]


theorem vextr_tags : TagErr .vextr (fun f c => vecArg c.l (tyOf f.ty) = none) := by
  refine tags_of_local (fun f s => (rfl : _ = execVextr f s)) (fun _ => rfl) ?_
  intro f c h
  simp only [h]


theorem vins_tags : TagErr .vins (fun f c => vecArg c.l (tyOf f.ty) = none ∨ scalarBits (c.rOrImm f) (tyOf f.ty) = none) := by
  refine tags_of_local (fun f s => (rfl : _ = execVins f s)) (fun _ => rfl) ?_
  rintro f c (h | h)
  · simp only [h]
  · simp only [h]
    split <;> simp_all


theorem vshuf_tags : TagErr .vshuf (fun f c => vecArg (c.vk f c.l) (tyOf f.ty) = none ∨ vecArg c.r .n8 = none) := by
  refine tags_of_local (fun f s => (rfl : _ = execVshuf f s)) (fun _ => rfl) ?_
  rintro f c (h | h)
  · simp only [h]
  · simp only [h]
    split <;> simp_all


theorem vrot_tags : TagErr .vrot (fun f c => vecArg c.l (tyOf f.ty) = none) := by
  refine tags_of_local (fun f s => (rfl : _ = execVrot f s)) (fun _ => rfl) ?_
  intro f c h
  simp only [h, Bool.false_eq_true, if_false]


theorem vmask_tags : TagErr .vmask (fun f c => vecArg (c.vk f c.l) (tyOf f.ty) = none ∨ scalarArg c.r .n64 = none) := by
  refine tags_of_local (fun f s => (rfl : _ = execVmask f s)) (fun _ => rfl) ?_
  rintro f c (h | h)
  · simp only [h]
  · simp only [h]
    split <;> simp_all


theorem vscan_tags : TagErr .vscan (fun f c => vecArg c.l (tyOf f.ty) = none ∨ scalarArg (c.rOrImm f) (tyOf f.ty) = none) := by
  refine tags_of_local (fun f s => (rfl : _ = execVscan f s)) (fun _ => rfl) ?_
  rintro f c (h | h)
  · simp only [h]
  · simp only [h]
    split <;> simp_all


theorem vexpand_tags : TagErr .vexpand (fun f c => vecArg c.l (tyOf f.ty) = none ∨ scalarArg c.r .n64 = none) := by
  refine tags_of_local (fun f s => (rfl : _ = execVexpand f s)) (fun _ => rfl) ?_
  rintro f c (h | h)
  · simp only [h]
  · simp only [h]
    split <;> simp_all


theorem vcompress_tags : TagErr .vcompress (fun f c => vecArg (c.vk f c.l) (tyOf f.ty) = none) := by
  refine tags_of_local (fun f s => (rfl : _ = execVcompress f s)) (fun _ => rfl) ?_
  intro f c h
  simp only [h]


theorem vpopc_tags : TagErr .vpopc (fun f c => vecArg (c.vk f c.l) (tyOf f.ty) = none) := by
  refine tags_of_local (fun f s => (rfl : _ = execVpopc f s)) (fun _ => rfl) ?_
  intro f c h
  simp only [h]


theorem vtagset_tags : TagErr .vtagset (fun f c => ∃ t, c.vk f c.l = some t ∧ t.vec = false ∧ ((tyOf f.ty).isMX = true ∨ tyOf f.ty = .raw512)) := by
  refine tags_of_local (fun f s => (rfl : _ = execVtagset f s)) (fun _ => rfl) ?_
  rintro f c ⟨t, ht, hv, hm⟩
  rcases hm with hm | hm <;> simp [ht, hv, hm]


/-- An instruction that reads the package answers with FORMAT_TAG where it fails. -/
theorem tags_of_fire {mk : FmtA → Instr} {bad : FmtA → Site → Prop} {body : FmtA → Site → State → State}
    (hexec : ∀ f s, exec (mk f) s = fire (mk f) always (errToBoth (mk f)) (body f) s) (hhead : ∀ f, (mk f).head = f.h)
    (hbad : ∀ f c s, bad f c → body f c s = c.fail (mk f).head cFormatTag s) : TagErr mk bad := by
  intro f s c h hb hl
  rw [← hhead] at hl ⊢
  exact gives_err h (hexec f s) rfl hl (hbad f c _ hb)

theorem mkaddr_tags : TagErr .mkaddr (fun f c => scalarArg c.l .n64 = none ∨ (f.body.imm? = none ∧ scalarArg c.r .n16 = none)) := by
  refine tags_of_fire (fun f s => (rfl : _ = execMkaddr f s)) (fun _ => rfl) ?_
  rintro f c s (h | ⟨hi, h⟩)
  · simp only [h]
    rfl
  · simp only [hi, h]
    split
    · contradiction
    · rfl

theorem dieof_tags : TagErr .dieof (fun _ c => scalarArg c.l .a57 = none) := by
  refine tags_of_fire (fun f s => (rfl : _ = execDieof f s)) (fun _ => rfl) ?_
  intro f c s h
  simp only [h]
  rfl

/-! ### Groups of instructions -/

section
variable {bad : FmtA → Site → Prop}

theorem tags_cons {mk : FmtA → Instr} {l : List (FmtA → Instr)} (h : TagErr mk bad) (hl : ∀ m ∈ l, TagErr m bad) :
    ∀ m ∈ mk :: l, TagErr m bad := List.forall_mem_cons.mpr ⟨h, hl⟩

theorem tags_nil : ∀ m ∈ ([] : List (FmtA → Instr)), TagErr m bad := fun _ h => absurd h List.not_mem_nil

end

/-- The scalar instructions of two operands of TYPE. -/
theorem binaryScalars : ∀ mk ∈ scalarTwo, TagErr mk badTwo :=
  tags_cons (intBin_tags (fun _ => rfl) (fun f s => (rfl : _ = execAdd f s))) <|
  tags_cons (intBin_tags (fun _ => rfl) (fun f s => (rfl : _ = execSub f s))) <|
  tags_cons (carryOp_tags (fun _ => rfl) (fun f s => (rfl : _ = execAddc f s))) <|
  tags_cons (carryOp_tags (fun _ => rfl) (fun f s => (rfl : _ = execSubb f s))) <|
  tags_cons (intBin_tags (fun _ => rfl) (fun f s => (rfl : _ = execMul f s))) <|
  tags_cons (intBin_tags (fun _ => rfl) (fun f s => (rfl : _ = execMulh f s))) <|
  tags_cons (intBin_tags (fun _ => rfl) (fun f s => (rfl : _ = execDiv f s))) <|
  tags_cons (intBin_tags (fun _ => rfl) (fun f s => (rfl : _ = execRem f s))) <|
  tags_cons (intBin_tags (fun _ => rfl) (fun f s => (rfl : _ = execMin f s))) <|
  tags_cons (intBin_tags (fun _ => rfl) (fun f s => (rfl : _ = execMax f s))) <|
  tags_cons (intBin_tags (fun _ => rfl) (fun f s => (rfl : _ = execSatadd f s))) <|
  tags_cons (intBin_tags (fun _ => rfl) (fun f s => (rfl : _ = execSatsub f s))) <|
  tags_cons (patBin_tags (fun _ => rfl) (fun f s => (rfl : _ = execAnd f s))) <|
  tags_cons (patBin_tags (fun _ => rfl) (fun f s => (rfl : _ = execOr f s))) <|
  tags_cons (patBin_tags (fun _ => rfl) (fun f s => (rfl : _ = execXor f s))) <|
  tags_cons (patBin_tags (fun _ => rfl) (fun f s => (rfl : _ = execAndn f s))) <|
  tags_cons (patBin_tags (fun _ => rfl) (fun f s => (rfl : _ = execShl f s))) <|
  tags_cons (patBin_tags (fun _ => rfl) (fun f s => (rfl : _ = execShr f s))) <|
  tags_cons (patBin_tags (fun _ => rfl) (fun f s => (rfl : _ = execSar f s))) <|
  tags_cons (patBin_tags (fun _ => rfl) (fun f s => (rfl : _ = execRot f s))) <|
  tags_cons (cmp_tags) <|
  tags_cons (fpBin_tags (fun _ => rfl) (fun f s => (rfl : _ = execFadd f s))) <|
  tags_cons (fpBin_tags (fun _ => rfl) (fun f s => (rfl : _ = execFsub f s))) <|
  tags_cons (fpBin_tags (fun _ => rfl) (fun f s => (rfl : _ = execFmul f s))) <|
  tags_cons (ffma_tags.mono fun _ _ h => h.imp_right .inl) <|
  tags_cons (fpBin_tags (fun _ => rfl) (fun f s => (rfl : _ = execFdiv f s))) <|
  tags_cons (fpBin_tags (fun _ => rfl) (fun f s => (rfl : _ = execFmin f s))) <|
  tags_cons (fpBin_tags (fun _ => rfl) (fun f s => (rfl : _ = execFmax f s))) <|
  tags_cons (fcmp_tags) <|
  tags_nil

/-- The scalar instructions of one operand of TYPE. -/
abbrev scalarOne : List (FmtA → Instr) :=
  [.neg, .abs, .clz, .popc, .fsqrt, .fneg, .fabs, .frnd, .fexp2, .flog2, .frcp, .frsq, .fclass]

/-- The scalar instructions of one operand of TYPE. -/
theorem unaryScalars : ∀ mk ∈ scalarOne, TagErr mk (fun f c => scalarArg c.l (tyOf f.ty) = none) :=
  tags_cons (intUn_tags (fun _ => rfl) (fun f s => (rfl : _ = execNeg f s))) <|
  tags_cons (intUn_tags (fun _ => rfl) (fun f s => (rfl : _ = execAbs f s))) <|
  tags_cons (intUn_tags (fun _ => rfl) (fun f s => (rfl : _ = execClz f s))) <|
  tags_cons (intUn_tags (fun _ => rfl) (fun f s => (rfl : _ = execPopc f s))) <|
  tags_cons (fpUn_tags (fun _ => rfl) (fun f s => (rfl : _ = execFsqrt f s))) <|
  tags_cons (fpUn_tags (fun _ => rfl) (fun f s => (rfl : _ = execFneg f s))) <|
  tags_cons (fpUn_tags (fun _ => rfl) (fun f s => (rfl : _ = execFabs f s))) <|
  tags_cons (fpUn_tags (fun _ => rfl) (fun f s => (rfl : _ = execFrnd f s))) <|
  tags_cons (fpUn_tags (fun _ => rfl) (fun f s => (rfl : _ = execFexp2 f s))) <|
  tags_cons (fpUn_tags (fun _ => rfl) (fun f s => (rfl : _ = execFlog2 f s))) <|
  tags_cons (fpUn_tags (fun _ => rfl) (fun f s => (rfl : _ = execFrcp f s))) <|
  tags_cons (fpUn_tags (fun _ => rfl) (fun f s => (rfl : _ = execFrsq f s))) <|
  tags_cons (fclass_tags) <|
  tags_nil

/-- The vector instructions of two operands of TYPE. -/
theorem binaryVectors : ∀ mk ∈ vectorTwo, TagErr mk badVectors :=
  tags_cons (vecBin_tags (fun _ => rfl) (fun f s => (rfl : _ = execVadd f s))) <|
  tags_cons (vecBin_tags (fun _ => rfl) (fun f s => (rfl : _ = execVsub f s))) <|
  tags_cons (vecBin_tags (fun _ => rfl) (fun f s => (rfl : _ = execVmul f s))) <|
  tags_cons (vecBin_tags (fun _ => rfl) (fun f s => (rfl : _ = execVmin f s))) <|
  tags_cons (vecBin_tags (fun _ => rfl) (fun f s => (rfl : _ = execVmax f s))) <|
  tags_cons (vecPat_tags (fun _ => rfl) (fun f s => (rfl : _ = execVand f s))) <|
  tags_cons (vecPat_tags (fun _ => rfl) (fun f s => (rfl : _ = execVor f s))) <|
  tags_cons (vecPat_tags (fun _ => rfl) (fun f s => (rfl : _ = execVxor f s))) <|
  tags_cons (vecPat_tags (fun _ => rfl) (fun f s => (rfl : _ = execVshl f s))) <|
  tags_cons (vecPat_tags (fun _ => rfl) (fun f s => (rfl : _ = execVshr f s))) <|
  tags_cons (vecPat_tags (fun _ => rfl) (fun f s => (rfl : _ = execVsar f s))) <|
  tags_cons (vecBin_tags (fun _ => rfl) (fun f s => (rfl : _ = execVsatadd f s))) <|
  tags_cons (vecBin_tags (fun _ => rfl) (fun f s => (rfl : _ = execVmulh f s))) <|
  tags_nil

/-- The vector instructions of one operand of TYPE. -/
theorem unaryVectors : ∀ mk ∈ vectorOne, TagErr mk (fun f c => vecArg (c.vk f c.l) (tyOf f.ty) = none) :=
  tags_cons (vecUn_tags (fun _ => rfl) (fun f s => (rfl : _ = execVabs f s))) <|
  tags_cons (vecUn_tags (fun _ => rfl) (fun f s => (rfl : _ = execVneg f s))) <|
  tags_cons (vecUn_tags (fun _ => rfl) (fun f s => (rfl : _ = execVexp2 f s))) <|
  tags_cons (vecUn_tags (fun _ => rfl) (fun f s => (rfl : _ = execVlog2 f s))) <|
  tags_cons (vecUn_tags (fun _ => rfl) (fun f s => (rfl : _ = execVrcp f s))) <|
  tags_cons (vecUn_tags (fun _ => rfl) (fun f s => (rfl : _ = execVrsq f s))) <|
  tags_cons (vecUn_tags (fun _ => rfl) (fun f s => (rfl : _ = execVsigm f s))) <|
  tags_cons (reduceOp_tags (fun _ => rfl) (fun f s => (rfl : _ = execVredadd f s))) <|
  tags_cons (reduceOp_tags (fun _ => rfl) (fun f s => (rfl : _ = execVredmax f s))) <|
  tags_cons (reduceOp_tags (fun _ => rfl) (fun f s => (rfl : _ = execVredmin f s))) <|
  tags_cons (vcompress_tags) <|
  tags_cons (vpopc_tags) <|
  tags_cons (vshuf_tags.mono fun _ _ => .inl) <|
  tags_cons (vmask_tags.mono fun _ _ => .inl) <|
  tags_cons (vscale_tags.mono fun _ _ => .inl) <|
  tags_nil

/-- The movements of lanes of two vectors of TYPE. -/
theorem vectorPairs : ∀ mk ∈ [Instr.vslide, Instr.vzip, Instr.vunzip],
    TagErr mk (fun f c => vecArg c.l (tyOf f.ty) = none ∨ vecArg c.r (tyOf f.ty) = none) :=
  tags_cons (moveLanes2_tags (fun _ => rfl) (fun f s => (rfl : _ = execVslide f s))) <|
  tags_cons (moveLanes2_tags (fun _ => rfl) (fun f s => (rfl : _ = execVzip f s))) <|
  tags_cons (moveLanes2_tags (fun _ => rfl) (fun f s => (rfl : _ = execVunzip f s))) <|
  tags_nil

/-- Settles O24: no instruction has an effect on an operand of a wrong tag or class. -/
theorem wrongTagsAreAnswered : Obligations.WrongTagsAreAnswered := by
  unfold Obligations.WrongTagsAreAnswered
  refine ⟨?add, ?sub, ?addc, ?subb, ?mul, ?mulh, ?div, ?rem, ?neg, ?abs, ?min, ?max, ?satadd, ?satsub, ?and, ?or,
    ?xor, ?andn, ?shl, ?shr, ?sar, ?rot, ?clz, ?popc, ?bfx, ?bfi, ?cmp, ?fadd, ?fsub, ?fmul, ?ffma, ?fdiv, ?fsqrt,
    ?fmin, ?fmax, ?fneg, ?fabs, ?fcmp, ?fclass, ?frnd, ?fscale, ?fexp2, ?flog2, ?frcp, ?frsq, ?vadd, ?vsub, ?vmul,
    ?vfma, ?vmin, ?vmax, ?vand, ?vor, ?vxor, ?vshl, ?vshr, ?vsar, ?vcmp, ?vsel, ?vsatadd, ?vmulh, ?vextr, ?vins,
    ?vrot, ?vslide, ?vzip, ?vunzip, ?vscan, ?vexpand, ?tag_vbcast, ?tag_scalarTwoR, ?tag_ffmaP, ?tag_bfxR, ?tag_bfiRP,
    ?tag_conversions, ?tag_adda, ?tag_mkaddr, ?tag_dieof, ?tag_fscaleR, ?tag_vectorTwoR, ?tag_vfmaR, ?tag_vfmaP, ?tag_vectorOneL,
    ?tag_vselRP, ?tag_vdotL, ?tag_vdotInt, ?tag_vdotFloat, ?tag_vcvt, ?tag_narrow, ?tag_vpackR, ?tag_vquantR, ?tag_vscaleR, ?tag_vinsR,
    ?tag_vshufR, ?tag_pairsR, ?tag_vmaskR, ?tag_vscanR, ?tag_vtagset⟩
  case add | sub | addc | subb | mul | mulh | div | rem | min | max | satadd | satsub | and | or | xor | andn | shl |
      shr | sar | rot | cmp | fadd | fsub | fmul | ffma | fdiv | fmin | fmax | fcmp =>
    exact (binaryScalars _ (by simp)).mono fun _ _ => .inl
  case neg | abs | clz | popc | fsqrt | fneg | fabs | fclass | frnd | fexp2 | flog2 | frcp | frsq =>
    exact unaryScalars _ (by simp)
  case bfx => exact bfx_tags.mono fun _ _ => .inl
  case bfi => exact bfi_tags.mono fun _ _ => .inl
  case fscale => exact fscale_tags.mono fun _ _ => .inl
  case vadd | vsub | vmul | vmin | vmax | vand | vor | vxor | vshl | vshr | vsar | vsatadd | vmulh =>
    exact (binaryVectors _ (by simp)).mono fun _ _ => .inl
  case vslide | vzip | vunzip =>
    exact (vectorPairs _ (by simp)).mono fun _ _ => .inl
  case vfma => exact vfma_tags.mono fun _ _ => .inl
  case vcmp => exact vcmp_tags.mono fun _ _ => .inl
  case vsel => exact vsel_tags.mono fun _ _ => .inl
  case vins => exact vins_tags.mono fun _ _ => .inl
  case vscan => exact vscan_tags.mono fun _ _ => .inl
  case vexpand => exact vexpand_tags.mono fun _ _ => .inl
  case vextr => exact vextr_tags
  case vrot => exact vrot_tags
  case tag_vbcast => exact answersTag_one vbcast_tags
  case tag_scalarTwoR => exact fun mk hmk => (binaryScalars mk hmk).mono fun _ _ => .inr
  case tag_ffmaP => exact answersTag_one (ffma_tags.mono fun _ _ h => .inr (.inr h))
  case tag_bfxR => exact answersTag_one (bfx_tags.mono fun _ _ => .inr)
  case tag_bfiRP => exact answersTag_one (bfi_tags.mono fun _ _ => .inr)
  case tag_conversions => exact tags_cons ext_tags <| tags_cons fcvt_tags <| tags_cons ftoi_tags <| tags_cons itof_tags <| tags_nil
  case tag_adda => exact answersTag_one adda_tags
  case tag_mkaddr => exact answersTag_one mkaddr_tags
  case tag_dieof => exact answersTag_one dieof_tags
  case tag_fscaleR => exact answersTag_one (fscale_tags.mono fun _ _ => .inr)
  case tag_vectorTwoR => exact fun mk hmk => (binaryVectors mk hmk).mono fun _ _ => .inr
  case tag_vfmaR => exact tags_cons (vfma_tags.mono fun _ _ h => .inr (.inl h)) <| tags_cons (vcmp_tags.mono fun _ _ => .inr) <| tags_nil
  case tag_vfmaP => exact answersTag_one (vfma_tags.mono fun _ _ h => .inr (.inr h))
  case tag_vectorOneL => exact unaryVectors
  case tag_vselRP => exact answersTag_one (vsel_tags.mono fun _ _ => .inr)
  case tag_vdotL => exact answersTag_one vdot_l_tags
  case tag_vdotInt => exact answersTag_one vdot_int_tags
  case tag_vdotFloat => exact answersTag_one vdot_float_tags
  case tag_vcvt => exact answersTag_one vcvt_tags
  case tag_narrow => exact tags_cons vdeq_tags <| tags_cons (vpack_tags.mono fun _ _ => .inl) <| tags_cons vunpack_tags <| tags_cons vquant_l_tags <| tags_nil
  case tag_vpackR => exact answersTag_one (vpack_tags.mono fun _ _ => .inr)
  case tag_vquantR => exact answersTag_one vquant_r_tags
  case tag_vscaleR => exact answersTag_one (vscale_tags.mono fun _ _ => .inr)
  case tag_vinsR => exact answersTag_one (vins_tags.mono fun _ _ => .inr)
  case tag_vshufR => exact answersTag_one (vshuf_tags.mono fun _ _ => .inr)
  case tag_pairsR => exact fun mk hmk => (vectorPairs mk hmk).mono fun _ _ => .inr
  case tag_vmaskR => exact tags_cons (vmask_tags.mono fun _ _ => .inr) <| tags_cons (vexpand_tags.mono fun _ _ => .inr) <| tags_nil
  case tag_vscanR => exact answersTag_one (vscan_tags.mono fun _ _ => .inr)
  case tag_vtagset => exact answersTag_one vtagset_tags

end Sys2Proof.Proofs.Tags
end

section
/-! Dataflow and control instructions (R276 to R285): tokens that move unchanged, keep registers, reports and messages; and a SEL that
refutes what is said of it. -/

namespace Sys2Proof.Proofs.Dataflow

open Sys2Proof Sys2Proof.Machine Sys2Proof.Safety Sys2Proof.Claims Sys2Proof.Proofs.Locals Sys2Proof.Proofs.Firing

/-! ### Firings that put tokens -/

section
variable {i : Instr} {s s0 : State} {c : Site} {uses : Site → Uses} {checked : Uses → Uses} {ready : Site → Bool}
  {onErr : Site → Token → State → State} {body : Site → State → State} {g : PE → PE} {l : List (BitVec 9 × Token)}

/-- An instruction that fires, changes its own PE over a package `s0` of the same leases, and puts tokens. -/
theorem completes_puts (h : FiresUsing i (uses c) (checked (uses c)) s c) (hexec : exec i s = fireUsing i uses checked ready onErr body s)
    (hr : ready c = true) (hb : s0.leases = s.leases) (hg : RegChange c.lease.plane g)
    (hbody : body c (c.consume (uses c) s) =
      ((c.consume (uses c) s0).modPE c.site g).modPE c.site (fun pe => PE.putAll pe c.lease.plane l)) :
    Completes i s c ⟨uses c, l, g, fun L => L, [], s0⟩ := by
  refine ⟨_, hexec.trans (fireUsing_acts h hr), ?_⟩
  rw [hbody]
  exact ran_puts h.site hb hg

/-- The same of an instruction that takes the positions that its word uses, and checks all of them. -/
theorem sends_puts (h : Fires i s c) (hexec : exec i s = fire i ready onErr body s) (hr : ready c = true)
    (hbody : body c (c.consume (c.taken i.uses) s) =
      (c.consume (c.taken i.uses) s).modPE c.site (fun pe => PE.putAll pe c.lease.plane l)) : Sends i s c l := by
  refine completes_puts (uses := fun c => c.taken i.uses) (checked := fun u => u) (g := fun p => p) h (hexec.trans rfl) hr rfl
    (RegChange.none _) ?_
  rw [hbody, modPE_id]

/-- An instruction that fires and has no effect sends nothing. -/
theorem sends_nothing (h : Fires i s c) (hexec : exec i s = fire i ready onErr (fun _ s => s) s) (hr : ready c = true) :
    Sends i s c [] := sends_puts h hexec hr (modPE_id _ _).symm

end

/-- One token sent to one target, an ERR too where the target takes it. -/
theorem emit_one {side : BitVec 9} {t : Token} (ht : t.kind = .err → side ≠ tDrop ∧ side ≠ tNone) (s : State) (site : SiteRef)
    (plane : Nat) : s.emit site plane [(side, t)] = s.modPE site (fun pe => PE.putAll pe plane [(side, t)]) := by
  by_cases he : t.kind = .err
  · obtain ⟨hdrop, hnone⟩ := ht he
    simp only [State.emit, List.foldl_cons, List.foldl_nil, State.sendOne, hdrop, if_false, he, List.filter_cons, decide_true,
      if_true, List.filter_nil, List.all_cons, hnone, decide_false, Bool.false_and, Bool.false_eq_true]
    rfl
  · exact emit_data s site plane _ (by simp [he])

/-! ### Tokens that move (R279, R281, R282) -/

section
variable {i : Instr} {s : State} {c : Site} {eff : Site → Option Effect} (h : Fires i s c) (hexec : exec i s = fireLocal i eff s)
include h hexec

/-- An instruction whose effect is one token to both targets, a token that it was given, completes with it. -/
theorem localPasses {t : Token} (he : eff c = some (Effect.both t)) (ht : t.kind ≠ .err) : Gives i s c t := by
  have hout : NoErr (some t) := by
    rintro _ ⟨⟩
    exact ht
  obtain ⟨x, hx, hran⟩ := acts h hexec he hout hout
  exact ⟨x, hx, ran_congr_pe hran (raiseFlags_zero c.pe)⟩

/-- An instruction that sends one token to both targets and writes a keep register. -/
theorem localKeeps {t : Token} {k : Nat} {v : Word} (he : eff c = some { Effect.both t with keep := some (k, v) }) (ht : t.kind ≠ .err) :
    GivesAnd i s c t (fun p => p.setKeep c.lease.plane k v) := by
  have hout : NoErr (some t) := by
    rintro _ ⟨⟩
    exact ht
  obtain ⟨x, hx, hran⟩ := acts h hexec he hout hout
  exact ⟨x, hx, ran_congr_pe hran (raiseFlags_zero _)⟩

end

theorem uses_mov (f : FmtD) : (Instr.mov f).uses.l = true := by
  cases hb : f.body <;> simp [Instr.uses, Instr.row, hb]

theorem uses_kwrite (f : FmtD) : (Instr.kwrite f).uses.l = true := by
  cases hb : f.body <;> simp [Instr.uses, Instr.row, hb]

/-- An immediate stands for a DATA token. -/
theorem immToken_kind (code : BitVec 5) (v : BitVec 22) : (immToken code v).kind = .data := by
  unfold immToken
  split
  · rfl
  · split <;> rfl

/-- Settles O4: NOP and DROP have no effect, MOV and CONST one token each. -/
theorem simpleTokensMove : Obligations.SimpleTokensMove := by
  unfold Obligations.SimpleTokensMove
  refine ⟨?nop, ?drop, ?mov, ?const⟩
  case nop => exact fun f s c h => sends_nothing h (rfl : _ = execNop f s) rfl
  case drop => exact fun f s c h => sends_nothing h (rfl : _ = execDrop f s) rfl
  case mov =>
    intro f s c t h hl
    refine localPasses h (rfl : _ = execMov f s) ?_ (kind_of_l h (uses_mov f) hl)
    rw [hl]
    rfl
  case const =>
    intro f s c v h hv
    refine localGives h (rfl : _ = execConst f s) ?_ (immToken_kind _ _)
    simp only [hv]

theorem regChange_setKeep (plane k : Nat) (v : Word) : RegChange plane (fun p => p.setKeep plane k v) :=
  ⟨fun _ => ⟨rfl, rfl⟩, fun _ _ => rfl, fun _ => rfl, fun p => modCfg_chcfg p plane _ (fun _ => rfl)⟩

/-- Settles O7: GATE sends L to one side, ITER sends the index, and each writes its keep register. -/
theorem gatesAndIndicesCount : Obligations.GatesAndIndicesCount := by
  unfold Obligations.GatesAndIndicesCount
  refine ⟨?gate, ?iter⟩
  case gate =>
    intro f s c t h hl
    dsimp only
    intro ht
    refine completes_puts (uses := fun c => c.taken (Instr.gate f).uses) (checked := onlyP) h (rfl : _ = execGate f s) rfl rfl
      (regChange_setKeep _ _ _) ?_
    simp only [hl]
    have hside : (if decide (c.cfg.k (FmtD.idx f) ≠ 0) then f.h.t0 else f.h.t1) = if c.cfg.k (FmtD.idx f) ≠ 0 then f.h.t0 else f.h.t1 := by
      simp only [decide_eq_true_eq]
    unfold Site.steer
    rw [hside]
    exact emit_one ht _ _ _
  case iter => exact fun f s c h => localKeeps h (rfl : _ = execIter f s) rfl (by exact fun he => by cases he)

/-- Settles O8: KREAD sends the register, KWRITE writes it and sends L. -/
theorem keepRegistersAreReadAndWritten : Obligations.KeepRegistersAreReadAndWritten := by
  unfold Obligations.KeepRegistersAreReadAndWritten
  refine ⟨?kread, ?kwrite⟩
  case kread => exact fun f s c h => localGives h (rfl : _ = execKread f s) rfl rfl
  case kwrite =>
    intro f s c t h hl
    refine localKeeps h (rfl : _ = execKwrite f s) ?_ (kind_of_l h (uses_kwrite f) hl)
    rw [hl]
    rfl

/-! ### Reports and masks (R278, R284, R285) -/

theorem regChange_setMask (plane k : Nat) (b : Bool) : RegChange plane (fun p => p.setMask plane k b) :=
  ⟨fun _ => ⟨rfl, rfl⟩, fun _ _ => rfl, fun _ => rfl, fun p => modCfg_chcfg p plane _ (fun _ => rfl)⟩

/-- HMASK and HUNMASK send the old bit and write the new one. -/
theorem maskOp_gives {i : Instr} {f : FmtD} {b : Bool} {s : State} {c : Site} (h : Fires i s c) (hexec : exec i s = maskOp i f b s)
    (hhead : i.head = f.h) :
    Completes i s c { Deed.sending s c i (both i.head
        (n8Tok (b2n (((c.cfg.handlers[FmtD.idx f]?).getD 0).toNat.testBit 30)))) with
      pe := fun p => p.setMask c.lease.plane (FmtD.idx f) b } := by
  refine completes_reply h (hexec.trans rfl) rfl rfl (regChange_setMask _ _ _) (fun he => by cases he) ?_
  rw [hhead]

/-- Settles O9: each reads its report off its site. -/
theorem queriesReportAndMasksAreSet : Obligations.QueriesReportAndMasksAreSet := by
  unfold Obligations.QueriesReportAndMasksAreSet
  refine ⟨?eoiq, ?eoiqLoop, ?chstatOut, ?chstatNone, ?chstatIn, ?waitc, ?invnum, ?siteid, ?hmask, ?hunmask⟩
  case eoiq =>
    intro f s c h hlc
    refine localGives h (rfl : _ = execEoiq f s) ?_ rfl
    simp only [hlc, Bool.not_false, Bool.true_and]
    cases c.pe.head (FmtD.ch f) with
    | none => rfl
    | some t => by_cases ht : t.kind = .eoi <;> simp [b2n, ht]
  case eoiqLoop =>
    intro f s c h hlc
    refine localGives h (rfl : _ = execEoiq f s) ?_ rfl
    simp only [hlc, Bool.not_true, Bool.false_and]
    rfl
  case chstatOut =>
    intro f s c h hn
    refine localGives h (rfl : _ = execChstat f s) ?_ rfl
    simp only [hn, if_true]
  case chstatNone =>
    intro f s c h hn hq
    refine localGives h (rfl : _ = execChstat f s) ?_ rfl
    simp only [hn, hq, Bool.false_eq_true, if_false]
    rfl
  case chstatIn =>
    intro f s c t q h hn hq
    refine localGives h (rfl : _ = execChstat f s) ?_ rfl
    simp only [hn, hq, Bool.false_eq_true, if_false, List.head?_cons, List.length_cons]
    rw [Nat.add_assoc, Nat.mul_comm t.kind.code 16]
  case waitc => exact fun f s c h hw => gives h (rfl : _ = execWaitc f s) (decide_eq_true hw) (fun he => by cases he) rfl
  case invnum => exact fun f s c h => localGives h (rfl : _ = execInvnum f s) rfl rfl
  case siteid =>
    intro f s c h
    refine localGives h (rfl : _ = execSiteid f s) ?_ rfl
    cases c.pe.kind <;> rfl
  case hmask => exact fun f s c h => maskOp_gives h (rfl : _ = execHmask f s) rfl
  case hunmask => exact fun f s c h => maskOp_gives h (rfl : _ = execHunmask f s) rfl

/-! ### Messages (R279, R283, R358) -/

theorem ch_lt (f : FmtD) : FmtD.ch f < 8 := by
  unfold FmtD.ch
  split
  · decide
  · next ch _ _ _ => exact ch.isLt

/-- The target that names an output channel. -/
theorem put_output {ch : Nat} (hch : ch < 8) (pe : PE) (plane : Nat) (t : Token) :
    pe.put plane (BitVec.ofNat 9 (384 + ch)) t = pe.pushOut plane ch t := by
  have hn : (BitVec.ofNat 9 (384 + ch)).toNat = 384 + ch := by
    rw [BitVec.toNat_ofNat]
    omega
  have hout : targetOut (BitVec.ofNat 9 (384 + ch)) = some ch := by
    unfold targetOut
    rw [hn, if_pos (by omega), Nat.add_sub_cancel_left]
  unfold PE.put
  rw [hn, if_neg (by omega), hout]

/-- A token put on an output channel that is no target is sent as to one. -/
theorem pushTo_eq {ch : Nat} (hch : ch < 8) (c : Site) (t : Token) (s : State) :
    c.pushTo ch t s = s.modPE c.site (fun pe => PE.putAll pe c.lease.plane [(BitVec.ofNat 9 (384 + ch), t)]) := by
  unfold Site.pushTo
  congr 1
  funext pe
  exact (put_output hch pe c.lease.plane t).symm

/-- A message to the placer behind those that the lease has sent. -/
def withMessage (m : CtrlMsg) (L : Lease) : Lease := { L with ctrl := L.ctrl ++ [m] }

/-- A firing that sends the placer a message stays in flight for its reply. -/
theorem ran_control {s : State} {c : Site} {u : Uses} (hs : s.site? = some c) (m : CtrlMsg) :
    Ran ⟨u, [], fun p => p, withMessage m, [flight c .reply], s⟩ s c (c.control m (c.consume u s)) := by
  have h : c.control m (c.consume u s) =
      s.modLease c.site.lease (Deed.onLease ⟨u, [], fun p => p, withMessage m, [flight c .reply], s⟩ c) := by
    change (c.fly .reply (c.consume u s)).modLease c.site.lease (withMessage m) = _
    unfold Site.fly State.modPE
    rw [consume_eq, modLease_modLease, modLease_modLease]
    · congr 1
      funext L
      rw [stall_modPE L c.site.dx c.site.dy (fun p => { p with inst := p.inst.map (fun i => i.taken u c.slot []) }) _
        (fun _ => ⟨rfl, rfl⟩)]
      simp only [Option.map_map]
      rfl
    · exact fun _ => rfl
    · exact fun _ => rfl
  rw [h]
  exact ran_modLease (d := ⟨u, [], fun p => p, withMessage m, [flight c .reply], s⟩) hs rfl (RegChange.none _) (fun _ => rfl)

/-- An instruction that sends the placer a message. -/
theorem completes_control {i : Instr} {s : State} {c : Site} {m : CtrlMsg} {ready : Site → Bool} {onErr : Site → Token → State → State}
    {body : Site → State → State} (h : Fires i s c) (hexec : exec i s = fire i ready onErr body s) (hr : ready c = true)
    (hbody : body c (c.consume (c.taken i.uses) s) = c.control m (c.consume (c.taken i.uses) s)) :
    Completes i s c { Deed.sending s c i [] with flies := [flight c .reply], lease := fun L => { L with ctrl := L.ctrl ++ [m] } } := by
  refine ⟨_, hexec.trans (fireUsing_acts h hr), ?_⟩
  rw [hbody]
  exact ran_control h.site m

/-- Settles O10: EMIT puts its token as to the target of its channel; the others send the placer one message. -/
theorem controlMessagesAreSent : Obligations.ControlMessagesAreSent := by
  unfold Obligations.ControlMessagesAreSent
  refine ⟨?emit, ?decide, ?retire, ?cropen⟩
  case emit =>
    intro f s c t h hroom hl hs hlo hhi
    refine sends_puts h (rfl : _ = execEmit f s) (decide_eq_true hroom) ?_
    have hop : (decide (bitsOf t.data.toNat 56 8 < 2) || decide (bitsOf t.data.toNat 56 8 > 0x7F)) = false := by
      simp only [Bool.or_eq_false_iff, decide_eq_false_iff_not]
      omega
    simp only [hl, hs, hop, Bool.not_true, Bool.false_eq_true, if_false]
    exact pushTo_eq (ch_lt f) c _ _
  case decide => exact fun f s c h => completes_control h (rfl : _ = execDecide f s) rfl rfl
  case retire => exact fun f s c h => completes_control h (rfl : _ = execRetire f s) rfl rfl
  case cropen =>
    intro f s c v h hv
    refine completes_control h (rfl : _ = execCropen f s) rfl ?_
    simp only [hv]

end Sys2Proof.Proofs.Dataflow
end

section
/-! Tokens taken from channels and steered (R277, R280): RECV marks its instance as one that has taken a token, so that what it leaves is
that of a firing of the marked instance; and a SEL without R, which sends an ERR that it never checked. -/

namespace Sys2Proof.Proofs.Channels

open Sys2Proof Sys2Proof.Machine Sys2Proof.Safety Sys2Proof.Claims Sys2Proof.Proofs.Firing Sys2Proof.Proofs.Errors
  Sys2Proof.Proofs.Dataflow Sys2Proof.Proofs.Scratchpad

/-! ### An instance marked as having taken a token (R126) -/

/-- An instance that has taken a token. -/
def Instance.marked (i : Instance) : Instance := { i with took := true }

/-- A PE whose instance has taken a token. -/
def PE.marked (p : PE) : PE := { p with inst := p.inst.map Instance.marked }

/-- A slot whose instance has taken a token. -/
def Site.marked (c : Site) : Site :=
  { c with lease := c.lease.modPE c.site.dx c.site.dy PE.marked, pe := PE.marked c.pe, inst := Instance.marked c.inst }

theorem takeIn_eq (plane ch : Nat) (p : PE) : p.takeIn plane ch = PE.marked (p.popIn plane ch) := rfl

theorem popIn_marked (plane ch : Nat) (p : PE) : (PE.marked p).popIn plane ch = PE.marked (p.popIn plane ch) := rfl

theorem regChange_popIn (plane ch : Nat) : RegChange plane (fun p => p.popIn plane ch) :=
  ⟨fun _ => ⟨rfl, rfl⟩, fun _ _ => rfl, fun _ => rfl, fun _ => rfl⟩

section
variable {s : State} {c : Site} (hs : s.site? = some c)
include hs

/-- The slot in focus of a package in which its instance is marked. -/
theorem site?_marked : (s.modPE c.site PE.marked).site? = some (Site.marked c) := by
  obtain ⟨hsite, hslot, hL, hpe, hi, hcfg⟩ := site?_some hs
  have hL' : (s.modPE c.site PE.marked).lease? c.site.lease = some (c.lease.modPE c.site.dx c.site.dy PE.marked) :=
    (lease?_modLease s _ (fun L => L.modPE c.site.dx c.site.dy PE.marked) (fun _ => rfl)).trans (congrArg _ hL)
  have hpe' : (c.lease.modPE c.site.dx c.site.dy PE.marked).pe? c.site.dx c.site.dy = some (PE.marked c.pe) :=
    (pe?_modPE c.lease _ _ PE.marked (fun _ => ⟨rfl, rfl⟩)).trans (congrArg _ hpe)
  have hi' : (PE.marked c.pe).inst = some (Instance.marked c.inst) := by
    show c.pe.inst.map Instance.marked = _
    rw [hi]
    rfl
  have hfocus : (s.modPE c.site PE.marked).focus = s.focus := rfl
  unfold State.site? at hs ⊢
  rw [hfocus, ← hsite, hL', ← hslot]
  rw [← hsite, hL, ← hslot] at hs
  simp only [hpe, hi, hpe', hi'] at hs ⊢
  split at hs
  · cases hs
  · next hok =>
    refine (if_neg hok).trans ?_
    exact congrArg (fun x => some (Site.marked x)) (Option.some.inj hs)

end

/-- What a firing of the marked instance leaves is what a firing leaves that marks its instance. -/
theorem ran_of_marked {s t : State} {c : Site} {u : Uses} {l : List (BitVec 9 × Token)} {g : PE → PE} (hs : s.site? = some c)
    (hg : RegChange c.lease.plane g)
    (h : Ran ⟨u, l, g, fun L => L, [], s.modPE c.site PE.marked⟩ (s.modPE c.site PE.marked) (Site.marked c) t) :
    Ran ⟨u, l, fun p => g (PE.marked p), fun L => L, [], s⟩ s c t := by
  obtain ⟨hbase, hother, L, hL, hLeq, hpes, p, hp, i, hpe, hi, hops, houts, hloop⟩ := h
  obtain ⟨-, -, -, -, hinst, -⟩ := site?_some hs
  refine ⟨hbase, fun id hid => (hother id hid).trans (lease?_modLease_other s _ (fun _ => rfl) hid), L, hL, hLeq, fun x y hxy => ?_,
    p, hp, i, hpe, ?_, hops, houts, hloop⟩
  · exact (hpes x y hxy).trans (pe?_modPE_other c.lease _ (fun _ => ⟨rfl, rfl⟩) hxy)
  · have hgi : (g (PE.marked c.pe)).inst = some (Instance.marked c.inst) := by
      have h := congrArg PE.inst (hg.inst c.pe (PE.marked c.pe).inst)
      refine h.trans ?_
      show c.pe.inst.map Instance.marked = _
      rw [hinst]
      rfl
    refine hi.trans ?_
    show ({ ((g (PE.marked c.pe)).inst.getD (Instance.marked c.inst)) with
        fired := c.slot :: c.inst.fired, ops := i.ops, flight := [] ++ c.inst.flight } : Instance) =
      { ((g (PE.marked c.pe)).inst.getD c.inst) with
        fired := c.slot :: c.inst.fired, ops := i.ops, flight := [] ++ c.inst.flight }
    rw [hgi]
    rfl

/-- A PE whose slot has taken its operands. -/
def takenPE (c : Site) (u : Uses) (p : PE) : PE := { p with inst := p.inst.map (fun i => i.taken u c.slot []) }

/-- Taking operands, a token and putting tokens. -/
theorem ran_takes {s : State} {c : Site} {u : Uses} {ch : Nat} {l : List (BitVec 9 × Token)} (hs : s.site? = some c) :
    Ran ⟨u, l, fun p => p.takeIn c.lease.plane ch, fun L => L, [], s⟩ s c
      (((c.consume u s).modPE c.site (fun p => p.takeIn c.lease.plane ch)).modPE c.site (fun p => PE.putAll p c.lease.plane l)) := by
  have hpe (p : PE) : (takenPE c u p).takeIn c.lease.plane ch = (takenPE c u (PE.marked p)).popIn c.lease.plane ch := by
    simp only [takenPE, PE.takeIn, PE.popIn, PE.marked, Option.map_map]
    rfl
  have hlease (L : Lease) : (afterTaking c u L).modPE c.site.dx c.site.dy (fun p => p.takeIn c.lease.plane ch) =
      (afterTaking c u (L.modPE c.site.dx c.site.dy PE.marked)).modPE c.site.dx c.site.dy (fun p => p.popIn c.lease.plane ch) := by
    have hpes := updWhere_updWhere (fun p : PE => p.dx = c.site.dx && p.dy = c.site.dy) PE.marked
      (fun p => (takenPE c u p).popIn c.lease.plane ch) (by intro a h; exact h) L.pes
    refine (stall_modPE L _ _ (takenPE c u) _ (fun _ => ⟨rfl, rfl⟩)).trans
      (Eq.trans ?_ (stall_modPE (L.modPE c.site.dx c.site.dy PE.marked) _ _ (takenPE c u) _ (fun _ => ⟨rfl, rfl⟩)).symm)
    simp only [hpe]
    exact congrArg (fun l => ({ L with stall := 0, stalled := false, pes := l } : Lease)) hpes.symm
  have hcommute : (c.consume u s).modPE c.site (fun p => p.takeIn c.lease.plane ch) =
      (c.consume u (s.modPE c.site PE.marked)).modPE c.site (fun p => p.popIn c.lease.plane ch) := by
    unfold State.modPE
    rw [consume_eq, consume_eq, modLease_modLease, modLease_modLease, modLease_modLease]
    · exact congrArg (s.modLease c.site.lease) (funext hlease)
    all_goals exact fun _ => rfl
  rw [hcommute]
  exact ran_of_marked hs (regChange_popIn c.lease.plane ch) (ran_puts (site?_marked hs) rfl (regChange_popIn c.lease.plane ch))

/-! ### RECV and PEEK (R277) -/

theorem seen_of_kind {t : Token} {p : Prop} (h : t.kind = .data ∨ (t.kind = .err ∧ p)) : t.seen = true := by
  rcases h with h | ⟨h, -⟩ <;> simp [Token.seen, h]

theorem lands_of_kind {t : Token} {p : Prop} (h : t.kind = .data ∨ (t.kind = .err ∧ p)) (he : t.kind = .err) : p := by
  rcases h with h | ⟨-, hp⟩
  · exact absurd (h.symm.trans he) (by decide)
  · exact hp

theorem tokenAt_of_head {c : Site} {ch : Nat} {t : Token} (hh : c.pe.head ch = some t) (h : t.seen = true) : c.tokenAt ch = true := by
  unfold Site.tokenAt
  rw [hh]
  exact h

theorem markerTok_kind (c : Site) (ch : Nat) : (c.markerTok ch).kind = .data := by
  unfold Site.markerTok
  split <;> rfl

/-- An instruction that fires does what its body leaves. -/
theorem completes_fire {i : Instr} {s : State} {c : Site} {d : Deed} {ready : Site → Bool} {onErr : Site → Token → State → State}
    {body : Site → State → State} (h : Fires i s c) (hexec : exec i s = fire i ready onErr body s) (hr : ready c = true)
    (hran : Ran d s c (body c (c.consume (c.taken i.uses) s))) : Completes i s c d :=
  ⟨_, hexec.trans (fireUsing_acts h hr), hran⟩

/-- An instruction whose own condition fails waits. -/
theorem waits {i : Instr} {s : State} {c : Site} {ready : Site → Bool} {onErr : Site → Token → State → State}
    {body : Site → State → State} (hs : s.site? = some c) (hexec : exec i s = fire i ready onErr body s) (hr : ready c = false) :
    exec i s = .next s :=
  hexec.trans (fire_notReady hs hr)

/-- Settles O5: RECV takes the head of its channel and marks its instance, PEEK answers with the head, and both answer with the marker. -/
theorem recvTakesTheHeadAndPeekLeavesIt : Obligations.RecvTakesTheHeadAndPeekLeavesIt := by
  unfold Obligations.RecvTakesTheHeadAndPeekLeavesIt
  refine ⟨?recv, ?peek, ?feed, ?recvMarker, ?peekMarker⟩
  case recv =>
    intro f s c t h hi hfeed hturn hh ht
    have hready : (c.eoiInput (FmtD.ch f) || (!c.feed (FmtD.ch f) && c.tokenAt (FmtD.ch f) && c.recvTurn (FmtD.ch f))) = true := by
      simp [hi, hfeed, hturn, tokenAt_of_head hh (seen_of_kind ht)]
    refine completes_fire h (rfl : _ = execRecv f s) hready ?_
    simp only [hi, hh, Bool.false_eq_true, if_false]
    have hsent : c.reply f.h t ((c.consume (c.taken (Instr.recv f).uses) s).modPE c.site
        (fun p => p.takeIn c.lease.plane (FmtD.ch f))) = _ := emit_both (lands_of_kind ht) _ c.site c.lease.plane
    rw [hsent]
    exact ran_takes h.site
  case peek =>
    intro f s c t h hi hh ht
    have hready : (c.eoiInput (FmtD.ch f) || c.tokenAt (FmtD.ch f)) = true := by
      simp [tokenAt_of_head hh (seen_of_kind ht)]
    refine gives h (rfl : _ = execPeek f s) hready (lands_of_kind ht) ?_
    simp only [hi, hh, Bool.false_eq_true, if_false]
    rfl
  case feed =>
    intro f s c hs hi hfeed
    exact waits hs (rfl : _ = execRecv f s) (by simp [hi, hfeed])
  case recvMarker =>
    intro f s c h hi
    refine gives h (rfl : _ = execRecv f s) (by simp only [hi, Bool.true_or]) (fun he => ?_) ?_
    · rw [markerTok_kind] at he
      cases he
    · simp only [hi, if_true]
      rfl
  case peekMarker =>
    intro f s c h hi
    refine gives h (rfl : _ = execPeek f s) (by simp only [hi, Bool.true_or]) (fun he => ?_) ?_
    · rw [markerTok_kind] at he
      cases he
    · simp only [hi, if_true]
      rfl

/-! ### SEL without R (R280) -/

/-- A SEL of an immediate form, which uses no R, with both targets drop. -/
def dropSel : FmtD := ⟨⟨0, tDrop, tDrop⟩, 0, .imm 0⟩

/-- A package about to issue it, with 0 in L and P and an ERR in R. -/
def selErr : State :=
  let s := (State.reset.placeWord ((encode (.sel dropSel)).getD 0)).modPE ⟨1, 0, 0⟩ (fun p => { p with inst := p.inst.map (fun i =>
    { i with ops := [(0, Token.scalar 4 0), (128, Token.ofErr 0 false), (256, Token.scalar 4 0)] }) })
  { s with focus := Focus.slotAt ⟨1, 0, 0⟩ 0 }

/-- The traps of what a step answers. -/
def trapsOf (o : Host.Outcome State Fault Refusal) : List Trap :=
  match o with
  | .next t => t.traps
  | _ => []

/-- The SEL fires with the ERR in R unchecked. -/
theorem selErr_fires : ∃ c, Fires (.sel dropSel) selErr c ∧ c.l = some (Token.scalar 4 0) ∧ c.r = some (Token.ofErr 0 false) ∧
    c.p = some (Token.scalar 4 0) := by
  have h : (selErr.site?).map (fun c => (c.present (c.taken (Instr.sel dropSel).uses),
      c.pe.targetsFree c.lease.plane tDrop tDrop, c.firstErr (c.taken (Instr.sel dropSel).uses), c.squashed dropSel.h, c.l, c.r, c.p)) =
      some (true, true, none, false, some (Token.scalar 4 0), some (Token.ofErr 0 false), some (Token.scalar 4 0)) := rfl
  obtain ⟨c, hs, hc⟩ := Option.map_eq_some_iff.mp h
  simp only [Prod.mk.injEq] at hc
  obtain ⟨hp, hf, he, hq, hl, hr, hpp⟩ := hc
  exact ⟨c, ⟨hs, hp, hf, he, hq⟩, hl, hr, hpp⟩

theorem selErr_raises : (trapsOf (exec (.sel dropSel) selErr)).length = 2 := by decide

/-- Refutes O6: its clause of SEL holds every token for one that may be sent. A SEL with an immediate uses no R (R255), so an ERR there
passes unchecked; sent to drop, it raises traps, which the clause leaves out. -/
theorem not_steeringChoosesByThePredicate : ¬ Obligations.SteeringChoosesByThePredicate := by
  unfold Obligations.SteeringChoosesByThePredicate
  rintro ⟨-, -, -, -, hsel, -⟩
  obtain ⟨c, hfires, hl, hr, hp⟩ := selErr_fires
  obtain ⟨t, hexec, hbase, -⟩ := hsel dropSel selErr c _ _ _ hfires hl hr hp
  have htraps : t.traps = [] := congrArg State.traps hbase
  have hraised := selErr_raises
  rw [hexec, trapsOf, htraps] at hraised
  exact absurd hraised (by decide)

end Sys2Proof.Proofs.Channels
end

section
/-! ERR operands and false predicates in every format (R272): a firing on an ERR that stops it is a reply, one that is squashed is none. An
instruction that may have to wait for its port waits for nothing when it is to issue nothing. -/

namespace Sys2Proof.Proofs.Passing

open Sys2Proof Sys2Proof.Machine Sys2Proof.Safety Sys2Proof.Claims Sys2Proof.Proofs.Firing Sys2Proof.Proofs.Errors
  Sys2Proof.Proofs.Locals Sys2Proof.Proofs.Dataflow

/-! ### Firings on an ERR, and squashed ones -/

/-- Tokens none of which is an ERR raise nothing. -/
theorem raiseErrs_clean {c : Site} {ts : List Token} (h : ts.find? (fun t => t.kind = .err) = none) (s : State) : c.raiseErrs ts s = s := by
  have hnone : ts.filter (fun t => t.kind = .err) = [] := by
    rw [List.filter_eq_nil_iff]
    exact List.find?_eq_none.mp h
  unfold Site.raiseErrs
  rw [hnone]
  rfl

section
variable {i : Instr} {s : State} {c : Site} {uses : Site → Uses} {checked : Uses → Uses} {ready : Site → Bool}
  {onErr : Site → Token → State → State} {body : Site → State → State} (hs : s.site? = some c) (hp : c.present (uses c) = true)
  (hf : c.pe.targetsFree c.lease.plane i.head.t0 i.head.t1 = true) (hr : ready c = true)
  (hexec : exec i s = fireUsing i uses checked ready onErr body s)
include hs hp hf hr hexec

theorem exec_err {e : Token} (he : c.firstErr (checked (uses c)) = some e) : exec i s = .next (onErr c e (c.consume (uses c) s)) := by
  rw [hexec]
  simp [fireUsing, hs, hp, hf, hr, he]

theorem exec_squashed (he : c.firstErr (checked (uses c)) = none) (hq : c.squashed i.head = true) :
    exec i s = .next (c.raiseErrs (c.operands (uses c)) (c.consume (uses c) s)) := by
  rw [hexec]
  simp [fireUsing, hs, hp, hf, hr, he, hq]

/-- An ERR that is answered to both targets. -/
theorem completes_err {e : Token} (he : c.firstErr (checked (uses c)) = some e) (hl : Lands i.head)
    (hon : onErr c e (c.consume (uses c) s) = c.reply i.head e (c.consume (uses c) s)) :
    Completes i s c { Deed.sending s c i (both i.head e) with uses := uses c } := by
  have hsent : c.reply i.head e (c.consume (uses c) s) = _ := emit_both (fun _ => hl) _ c.site c.lease.plane
  have hran := ran_puts (s0 := s) (u := uses c) (l := both i.head e) hs rfl (RegChange.none c.lease.plane)
  rw [modPE_id, ← hsent, ← hon] at hran
  exact ⟨_, exec_err hs hp hf hr hexec he, hran⟩

/-- An instruction that is squashed, with no ERR among its operands, takes them and does nothing else. -/
theorem completes_squashed (he : c.firstErr (checked (uses c)) = none) (hclean : c.firstErr (uses c) = none)
    (hq : c.squashed i.head = true) : Completes i s c { Deed.sending s c i [] with uses := uses c } := by
  have hran := ran_puts (s0 := s) (u := uses c) (l := []) hs rfl (RegChange.none c.lease.plane)
  rw [modPE_id] at hran
  have hnothing : c.raiseErrs (c.operands (uses c)) (c.consume (uses c) s) =
      (c.consume (uses c) s).modPE c.site (fun pe => PE.putAll pe c.lease.plane []) :=
    (raiseErrs_clean hclean _).trans (modPE_id _ _).symm
  rw [← hnothing] at hran
  exact ⟨_, exec_squashed hs hp hf hr hexec he hq, hran⟩

end

/-- The same of an instruction that takes what its word uses, and checks all of it. -/
theorem exec_err_fire {i : Instr} {s : State} {c : Site} {ready : Site → Bool} {onErr : Site → Token → State → State}
    {body : Site → State → State} {e : Token} (hs : s.site? = some c) (hp : c.present (c.taken i.uses) = true)
    (hf : c.pe.targetsFree c.lease.plane i.head.t0 i.head.t1 = true) (hexec : exec i s = fire i ready onErr body s)
    (hr : ready c = true) (he : c.firstErr (c.taken i.uses) = some e) :
    exec i s = .next (onErr c e (c.consume (c.taken i.uses) s)) :=
  exec_err (uses := fun c => c.taken i.uses) (checked := fun u => u) hs hp hf hr (hexec.trans rfl) he

/-! ### Every firing of an instruction -/

/-- An ERR among the operands taken, or the predicate, keeps the instruction from acting. -/
abbrev Stopped (i : Instr) (c : Site) : Prop := c.firstErr (c.taken i.uses) ≠ none ∨ c.squashed i.head = true

/-- An ERR among the operands taken stands in P alone. -/
abbrev PredicateErr (i : Instr) (c : Site) : Prop := c.firstErr (c.taken i.uses) ≠ none ∧ isErr c.l = false ∧ isErr c.r = false

section
variable {i : Instr} {ok : State → Site → Prop} {ready : State → Site → Bool} {onErr : Site → Token → State → State}
  {body : Site → State → State}

theorem squashes_of_fire (hexec : ∀ s, exec i s = fire i (ready s) onErr body s)
    (hr : ∀ s c, ok s c → c.squashed i.head = true → c.firstErr (c.taken i.uses) = none → ready s c = true) : SquashesWhen ok i :=
  fun s c hs hp hf hok he hq => completes_squashed (uses := fun c => c.taken i.uses) (checked := fun u => u) hs hp hf (hr s c hok hq he)
    ((hexec s).trans rfl) he he hq

/-- The same where an ERR in some positions does not stop the instruction. -/
theorem squashes_of_checked {checked : Uses → Uses} (hexec : ∀ s, exec i s = fireUsing i (fun c => c.taken i.uses) checked always onErr body s)
    (hc : ∀ (c : Site) u, c.firstErr u = none → c.firstErr (checked u) = none) : SquashesWhen ever i :=
  fun s c hs hp hf _ he hq => completes_squashed (uses := fun c => c.taken i.uses) hs hp hf rfl (hexec s) (hc c _ he) he hq

theorem passes_of_fire (hexec : ∀ s, exec i s = fire i (ready s) (errToBoth i) body s)
    (hr : ∀ s c, ok s c → Stopped i c → ready s c = true) : PassesWhen ok i := by
  refine ⟨fun s c e hs hp hf hok he hl => ?_, squashes_of_fire hexec (fun s c hok hq _ => hr s c hok (.inr hq))⟩
  have hstop : ready s c = true := hr s c hok (.inl (by simp [he]))
  exact completes_err (uses := fun c => c.taken i.uses) (checked := fun u => u) hs hp hf hstop ((hexec s).trans rfl) he hl rfl

/-- An instruction that waits for its operands and targets alone. -/
theorem passes_always (hexec : ∀ s, exec i s = fire i always (errToBoth i) body s) : PassesWhen ever i :=
  passes_of_fire (ready := fun _ => always) hexec (fun _ _ _ _ => rfl)

theorem passes_local {eff : Site → Option Effect} (hexec : ∀ s, exec i s = fireLocal i eff s) : PassesWhen ever i :=
  passes_always (fun s => (hexec s).trans rfl)

theorem predicateErrs_of_fire (hexec : ∀ s, exec i s = fire i (ready s) onErr body s)
    (hr : ∀ s c, ok s c → PredicateErr i c → ready s c = true)
    (hon : ∀ (c : Site) e s, isErr c.l = false → isErr c.r = false → onErr c e s = c.reply i.head e s) : PredicateErrs ok i := by
  intro s c e hs hp hf hok he hl hr' hlands
  have hready : ready s c = true := hr s c hok ⟨by simp [he], hl, hr'⟩
  exact completes_err (uses := fun c => c.taken i.uses) (checked := fun u => u) hs hp hf hready ((hexec s).trans rfl) he hlands
    (hon c e _ hl hr')

end

theorem firstErr_onlyP_of_clean (c : Site) (u : Uses) (h : c.firstErr u = none) : c.firstErr (onlyP u) = none := by
  refine List.Sublist.find?_eq_none ?_ h
  simp only [Site.operands, onlyP, Bool.false_eq_true, if_false, List.nil_append]
  exact List.sublist_append_right _ _

theorem firstErr_noL_of_clean (c : Site) (u : Uses) (h : c.firstErr u = none) : c.firstErr { u with l := false } = none := by
  refine List.Sublist.find?_eq_none ?_ h
  simp only [Site.operands, Bool.false_eq_true, if_false, List.nil_append, List.append_assoc]
  exact List.sublist_append_right _ _

/-! ### Where the ERR stands -/

/-- An ERR found stands in one of the positions. -/
theorem err_position {c : Site} {u : Uses} (h : c.firstErr u ≠ none) :
    isErr c.l = true ∨ (u.r = true ∧ isErr c.r = true) ∨ (u.p = true ∧ isErr c.p = true) := by
  obtain ⟨e, he⟩ := Option.ne_none_iff_exists'.mp h
  have hkind := kind_of_firstErr he
  have hmem : e ∈ c.operands u := List.mem_of_find?_eq_some he
  simp only [Site.operands, List.mem_append] at hmem
  rcases hmem with (hm | hm) | hm
  all_goals
    split at hm
    · next hu =>
      have hx := Option.mem_toList.mp hm
      simp [isErr, hu, Option.mem_def.mp hx, hkind]
    · cases hm

theorem pred_of_squashed {c : Site} {h : Head} (hq : c.squashed h = true) : h.pred ≠ 0 := by
  intro h0
  unfold Site.squashed at hq
  split at hq <;> simp [h0] at hq

theorem predStops_of_squashed {c : Site} {h : Head} (hq : c.squashed h = true) : c.predStops h = true := by
  have hpred : decide (h.pred ≠ 0) = true := decide_eq_true (pred_of_squashed hq)
  simp only [Site.predStops, hpred, hq, Bool.or_true, Bool.and_self]

/-- A memory instruction uses P as its predicate alone. -/
abbrev PredicateOnly (i : Instr) : Prop := i.uses.p = decide (i.head.pred ≠ 0)

theorem predStops_of_err {i : Instr} {c : Site} (hu : PredicateOnly i) (h : i.uses.p = true) (he : isErr c.p = true) :
    c.predStops i.head = true := by
  have hpred : decide (i.head.pred ≠ 0) = true := hu ▸ h
  simp only [Site.predStops, hpred, he, Bool.true_or, Bool.and_self]

/-- What keeps an instruction from acting that uses no R is an ERR in L or the predicate. -/
theorem stopped_cases {i : Instr} {c : Site} (hr : i.uses.r = false) (hu : PredicateOnly i) (h : Stopped i c) :
    isErr c.l = true ∨ c.predStops i.head = true := by
  rcases h with h | h
  · rcases err_position h with h | ⟨hr', -⟩ | ⟨hp, he⟩
    · exact .inl h
    · exact absurd (hr.symm.trans hr') Bool.false_ne_true
    · exact .inr (predStops_of_err hu hp he)
  · exact .inr (predStops_of_squashed h)

theorem predStops_of_predicateErr {i : Instr} {c : Site} (hu : PredicateOnly i) (h : PredicateErr i c) : c.predStops i.head = true := by
  obtain ⟨he, hl, hr⟩ := h
  rcases err_position he with h | ⟨-, h⟩ | ⟨hp, h⟩
  · exact absurd (hl.symm.trans h) Bool.false_ne_true
  · exact absurd (hr.symm.trans h) Bool.false_ne_true
  · exact predStops_of_err hu hp h

theorem aligned_of_stops {c : Site} {f : FmtM} {n : Nat} (h : isErr c.l = true ∨ c.predStops f.h = true) : c.aligned f n = none := by
  unfold Site.aligned Site.alignedEa
  split
  · rfl
  · next hp =>
    rcases h with h | h
    · exact if_pos h
    · exact absurd h hp

theorem rmwPlan_of_stops {c : Site} {f : FmtM} {op : ReqOp} {cas sync : Bool} (h : c.predStops f.h = true) : rmwPlan f op cas sync c = none := by
  unfold rmwPlan
  simp only [aligned_of_stops (.inr h)]

/-- What would issue nothing waits for nothing. -/
theorem planReady_of_none {plan : Site → Option Plan} {s : State} {c : Site} (h : plan c = none) : planReady plan s c = true := by
  unfold planReady
  rw [h]

/-! ### Each instruction (R272) -/

/-- What holds of an instruction and of each of the others listed. -/
theorem each {α : Type} {P : α → Prop} {a : α} {l : List α} (h : P a) (hl : ∀ x ∈ l, P x) : ∀ x ∈ a :: l, P x :=
  List.forall_mem_cons.mpr ⟨h, hl⟩

theorem none_left {α : Type} {P : α → Prop} : ∀ x ∈ ([] : List α), P x := fun _ h => absurd h List.not_mem_nil

/-- The arithmetic and vector instructions wait for their operands and targets alone. -/
theorem passes_of_formatA {i : Instr} {f : FmtA} {r : RowA} (hi : i.row = .a f r) : PassesWhen ever i := by
  cases i with
  | mkaddr f => exact passes_always (fun s => (rfl : _ = execMkaddr f s))
  | dieof f => exact passes_always (fun s => (rfl : _ = execDieof f s))
  | fflags f => exact passes_always (fun s => (rfl : _ = execFflags f s))
  | add f | sub f | addc f | subb f | mul f | mulh f | div f | rem f | neg f | abs f | min f | max f | satadd f
  | satsub f | and f | or f | xor f | andn f | shl f | shr f | sar f | rot f | clz f | popc f | bfx f | bfi f | ext f
  | cmp f | adda f | fadd f | fsub f | fmul f | ffma f | fdiv f | fsqrt f | fmin f | fmax f | fneg f | fabs f
  | fcmp f | fclass f | fcvt f | ftoi f | itof f | frnd f | fscale f | fexp2 f | flog2 f | frcp f | frsq f | vadd f
  | vsub f | vmul f | vfma f | vmin f | vmax f | vabs f | vneg f | vand f | vor f | vxor f | vshl f | vshr f | vsar f
  | vcmp f | vsel f | vsatadd f | vmulh f | vdot f | vcvt f | vquant f | vdeq f | vscale f | vexp2 f | vlog2 f
  | vrcp f | vrsq f | vsigm f | vbcast f | vextr f | vins f | vshuf f | vrot f | vslide f | vzip f | vunzip f
  | vpack f | vunpack f | vredadd f | vredmax f | vredmin f | vscan f | vcompress f | vexpand f | vmask f | vpopc f
  | vtagq f | vtagset f =>
    exact passes_local fun _ => rfl
  | _ => cases hi

theorem passes_plainD : ∀ mk ∈ plainD, ∀ f, PassesWhen ever (mk f) :=
  each (fun f => passes_always (fun s => (rfl : _ = execNop f s))) <|
  each (fun f => passes_local (fun s => (rfl : _ = execMov f s))) <|
  each (fun f => passes_local (fun s => (rfl : _ = execConst f s))) <|
  each (fun f => passes_local (fun s => (rfl : _ = execSel f s))) <|
  each (fun f => passes_local (fun s => (rfl : _ = execIter f s))) <|
  each (fun f => passes_local (fun s => (rfl : _ = execKread f s))) <|
  each (fun f => passes_local (fun s => (rfl : _ = execKwrite f s))) <|
  each (fun f => passes_local (fun s => (rfl : _ = execEoiq f s))) <|
  each (fun f => passes_local (fun s => (rfl : _ = execInvnum f s))) <|
  each (fun f => passes_local (fun s => (rfl : _ = execSiteid f s))) <|
  each (fun f => passes_local (fun s => (rfl : _ = execChstat f s))) <|
  each (fun f => passes_always (fun s => (rfl : _ = execDecide f s))) <|
  each (fun f => passes_always (fun s => (rfl : _ = execRetire f s))) <|
  each (fun f => passes_always (fun s => (rfl : _ = maskOp (.hmask f) f true s))) <|
  each (fun f => passes_always (fun s => (rfl : _ = maskOp (.hunmask f) f false s))) <|
  none_left

/-- A load waits for its port only when it is to issue a request. -/
theorem passes_load {i : Instr} {f : FmtM} {n : Nat} {pl : Nat → Plan} (hexec : ∀ s, exec i s = loadIns i f n pl s) (hhead : i.head = f.h)
    (hr : i.uses.r = false) (hu : PredicateOnly i) : PassesWhen ever i := by
  refine passes_of_fire (fun s => (hexec s).trans rfl) (fun s c _ h => planReady_of_none ?_)
  rw [aligned_of_stops (hhead ▸ stopped_cases hr hu h)]
  rfl

theorem passes_pref (f : FmtM) : PassesWhen ever (.pref f) := by
  refine passes_of_fire (fun s => (rfl : _ = execPref f s)) (fun s c _ h => planReady_of_none ?_)
  rw [aligned_of_stops (stopped_cases (i := .pref f) rfl rfl h)]
  rfl

theorem passes_migr (f : FmtM) : PassesWhen ever (.migr f) := by
  refine passes_of_fire (fun s => (rfl : _ = execMigr f s)) (fun s c _ h => planReady_of_none (if_pos ?_))
  rcases stopped_cases (i := .migr f) rfl rfl h with h | h
  · simp [h]
  · have hstop : c.predStops f.h = true := h
    simp [hstop]

theorem passes_plainM : ∀ mk ∈ plainM, ∀ f, PassesWhen ever (mk f) :=
  each (fun f => passes_load (fun s => (rfl : _ = execLd f s)) rfl rfl rfl) <|
  each (fun f => passes_load (fun s => (rfl : _ = execLdv f s)) rfl rfl rfl) <|
  each (fun f => passes_load (fun s => (rfl : _ = execLdro f s)) rfl rfl rfl) <|
  each (fun f => passes_load (fun s => (rfl : _ = execAcq f s)) rfl rfl rfl) <|
  each passes_pref <|
  each passes_migr <|
  each (fun f => passes_always (fun s => (rfl : _ = execFence f s))) <|
  each (fun f => passes_always (fun s => (rfl : _ = execNcinv f s))) <|
  each (fun f => passes_always (fun s => (rfl : _ = execSfrend f s))) <|
  each (fun f => passes_always (fun s => (rfl : _ = execTjoin f s))) <|
  each (fun f => passes_always (fun s => (rfl : _ = execTleave f s))) <|
  each (fun f => passes_always (fun s => (rfl : _ = execMarkinit f s))) <|
  each (fun f => passes_always (fun s => (rfl : _ = execArrive f s))) <|
  each (fun f => passes_always (fun s => (rfl : _ = execMwait f s))) <|
  each (fun f => passes_always (fun s => (rfl : _ = execArrwait f s))) <|
  each (fun f => passes_always (fun s => (rfl : _ = execEngq f s))) <|
  each (fun f => passes_always (fun s => (rfl : _ = execCropen f s))) <|
  each (fun f => passes_always (fun s => (rfl : _ = execCrclose f s))) <|
  each (fun f => passes_always (fun s => (rfl : _ = execTrap f s))) <|
  each (fun f => passes_always (fun s => (rfl : _ = execTask f s))) <|
  each (fun f => passes_always (fun s => (rfl : _ = execTaskdep f s))) <|
  each (fun f => passes_always (fun s => (rfl : _ = execXlfence f s))) <|
  each (fun f => passes_always (fun s => (rfl : _ = execXlinv f s))) <|
  each (fun f => passes_always (fun s => (rfl : _ = execClock f s))) <|
  each (fun f => passes_always (fun s => (rfl : _ = execPerfc f s))) <|
  none_left

/-! ### Stores, reductions, atomics, ranges and engine commands (R336) -/

/-- No ERR stands in R, where R is taken and no operand taken is one. -/
theorem noErr_r {i : Instr} {c : Site} (hr : i.uses.r = true) (h : c.firstErr (c.taken i.uses) = none) : isErr c.r = false := by
  have hclean := List.find?_eq_none.mp h
  cases hc : c.r with
  | none => rfl
  | some t => simpa [isErr] using hclean t (by simp [Site.operands, Site.taken, hr, hc])

section
variable {i : Instr} {f : FmtM} (hhead : i.head = f.h)
include hhead

section
variable {n : Nat} {vec rel : Bool} {ok : Token → Bool} (hexec : ∀ s, exec i s = storeIns i f n vec ok rel s)
include hexec

theorem squashes_store (hr : i.uses.r = true) : SquashesWhen ever i := by
  refine squashes_of_fire (fun s => (hexec s).trans rfl) (fun s c _ hq he => planReady_of_none ?_)
  have hno := noErr_r hr he
  have hstop := predStops_of_squashed (hhead ▸ hq)
  simp only [hno, aligned_of_stops (.inr hstop), Bool.false_eq_true, if_false]

theorem predicateErrs_store (hu : PredicateOnly i) : PredicateErrs ever i := by
  refine predicateErrs_of_fire (fun s => (hexec s).trans rfl) (fun s c _ h => planReady_of_none ?_) ?_
  · have hstop : c.predStops f.h = true := hhead ▸ predStops_of_predicateErr hu h
    obtain ⟨-, -, hno⟩ := h
    simp only [hno, aligned_of_stops (.inr hstop), Bool.false_eq_true, if_false]
  · intro c e s hl hr
    simp only [hl, hr, Bool.false_eq_true, if_false, hhead]

end

section
variable {op : RmwOp}

theorem squashes_atomic {cas : Bool} (hexec : ∀ s, exec i s = atomicIns i f op cas s) : SquashesWhen ever i := by
  refine squashes_of_fire (fun s => (hexec s).trans rfl) (fun s c _ hq _ => planReady_of_none ?_)
  simp only [rmwPlan_of_stops (predStops_of_squashed (hhead ▸ hq)), ite_self]

theorem predicateErrs_atomic (hexec : ∀ s, exec i s = atomicIns i f op false s) (hu : PredicateOnly i) : PredicateErrs ever i := by
  refine predicateErrs_of_fire (fun s => (hexec s).trans rfl) (fun s c _ h => planReady_of_none ?_) ?_
  · simp only [rmwPlan_of_stops (hhead ▸ predStops_of_predicateErr hu h), ite_self]
  · intro c e s hl hr
    simp only [hl, hr, Bool.or_self, Bool.false_eq_true, if_false, hhead]

theorem squashes_reduce (hexec : ∀ s, exec i s = reduceIns i f op s) : SquashesWhen ever i := by
  refine squashes_of_fire (fun s => (hexec s).trans rfl) (fun s c _ hq _ => planReady_of_none ?_)
  simp only [rmwPlan_of_stops (predStops_of_squashed (hhead ▸ hq)), ite_self]

theorem predicateErrs_reduce (hexec : ∀ s, exec i s = reduceIns i f op s) (hu : PredicateOnly i) : PredicateErrs ever i := by
  refine predicateErrs_of_fire (fun s => (hexec s).trans rfl) (fun s c _ h => planReady_of_none ?_) ?_
  · simp only [rmwPlan_of_stops (hhead ▸ predStops_of_predicateErr hu h), ite_self]
  · intro c e s hl hr
    simp only [hl, hr, Bool.or_self, Bool.false_eq_true, if_false, hhead]

end

section
variable {op : ReqOp} (hexec : ∀ s, exec i s = rangeIns i f op s)
include hexec

omit hhead in
theorem squashes_range : SquashesWhen ever i :=
  squashes_of_fire (ready := fun _ => always) (fun s => (hexec s).trans rfl) (fun _ _ _ _ _ => rfl)

theorem predicateErrs_range : PredicateErrs ever i := by
  refine predicateErrs_of_fire (ready := fun _ => always) (fun s => (hexec s).trans rfl) (fun _ _ _ _ => rfl) ?_
  intro c e s hl hr
  simp only [hl, hr, Bool.or_self, Bool.false_eq_true, if_false, hhead]

end

end

theorem squashes_engine {i : Instr} {f : FmtM} {op : EngOp} (hexec : ∀ s, exec i s = engineIns i f op s) : SquashesWhen ever i :=
  squashes_of_fire (ready := fun _ => always) (fun s => (hexec s).trans rfl) (fun _ _ _ _ _ => rfl)

theorem squashes_writesM : ∀ mk ∈ writesM ++ commandsM, ∀ f, SquashesWhen ever (mk f) :=
  each (fun f => squashes_store rfl (fun s => (rfl : _ = execSt f s)) rfl) <|
  each (fun f => squashes_store rfl (fun s => (rfl : _ = execStv f s)) rfl) <|
  each (fun f => squashes_store rfl (fun s => (rfl : _ = execRel f s)) rfl) <|
  each (fun f => squashes_reduce rfl (fun s => (rfl : _ = execRedadd f s))) <|
  each (fun f => squashes_reduce rfl (fun s => (rfl : _ = execRedfadd f s))) <|
  each (fun f => squashes_reduce rfl (fun s => (rfl : _ = execRedmax f s))) <|
  each (fun f => squashes_atomic rfl (fun s => (rfl : _ = execAadd f s))) <|
  each (fun f => squashes_atomic rfl (fun s => (rfl : _ = execAmin f s))) <|
  each (fun f => squashes_atomic rfl (fun s => (rfl : _ = execAmax f s))) <|
  each (fun f => squashes_atomic rfl (fun s => (rfl : _ = execAand f s))) <|
  each (fun f => squashes_atomic rfl (fun s => (rfl : _ = execAor f s))) <|
  each (fun f => squashes_atomic rfl (fun s => (rfl : _ = execAxor f s))) <|
  each (fun f => squashes_atomic rfl (fun s => (rfl : _ = execAswp f s))) <|
  each (fun f => squashes_atomic rfl (fun s => (rfl : _ = execAfadd f s))) <|
  each (fun f => squashes_range (fun s => (rfl : _ = execDiscard f s))) <|
  each (fun f => squashes_range (fun s => (rfl : _ = execFlushr f s))) <|
  each (fun f => squashes_atomic rfl (fun s => (rfl : _ = execAcas f s))) <|
  each (fun f => squashes_engine (fun s => (rfl : _ = execCpy f s))) <|
  each (fun f => squashes_engine (fun s => (rfl : _ = execCpym f s))) <|
  each (fun f => squashes_engine (fun s => (rfl : _ = execZpack f s))) <|
  each (fun f => squashes_engine (fun s => (rfl : _ = execZunpack f s))) <|
  each (fun f => squashes_engine (fun s => (rfl : _ = execColl f s))) <|
  none_left

theorem predicateErrs_writesM : ∀ mk ∈ writesM, ∀ f, PredicateErrs ever (mk f) :=
  each (fun f => predicateErrs_store rfl (fun s => (rfl : _ = execSt f s)) rfl) <|
  each (fun f => predicateErrs_store rfl (fun s => (rfl : _ = execStv f s)) rfl) <|
  each (fun f => predicateErrs_store rfl (fun s => (rfl : _ = execRel f s)) rfl) <|
  each (fun f => predicateErrs_reduce rfl (fun s => (rfl : _ = execRedadd f s)) rfl) <|
  each (fun f => predicateErrs_reduce rfl (fun s => (rfl : _ = execRedfadd f s)) rfl) <|
  each (fun f => predicateErrs_reduce rfl (fun s => (rfl : _ = execRedmax f s)) rfl) <|
  each (fun f => predicateErrs_atomic rfl (fun s => (rfl : _ = execAadd f s)) rfl) <|
  each (fun f => predicateErrs_atomic rfl (fun s => (rfl : _ = execAmin f s)) rfl) <|
  each (fun f => predicateErrs_atomic rfl (fun s => (rfl : _ = execAmax f s)) rfl) <|
  each (fun f => predicateErrs_atomic rfl (fun s => (rfl : _ = execAand f s)) rfl) <|
  each (fun f => predicateErrs_atomic rfl (fun s => (rfl : _ = execAor f s)) rfl) <|
  each (fun f => predicateErrs_atomic rfl (fun s => (rfl : _ = execAxor f s)) rfl) <|
  each (fun f => predicateErrs_atomic rfl (fun s => (rfl : _ = execAswp f s)) rfl) <|
  each (fun f => predicateErrs_atomic rfl (fun s => (rfl : _ = execAfadd f s)) rfl) <|
  each (fun f => predicateErrs_range rfl (fun s => (rfl : _ = execDiscard f s))) <|
  each (fun f => predicateErrs_range rfl (fun s => (rfl : _ = execFlushr f s))) <|
  none_left

/-! ### The scratchpad, circular buffers and tiles (R320 to R331, R340, R342) -/

theorem spReady {f : FmtM} {s : State} {c : Site} (h : ScratchClear f s c) : (match c.spOff f with
    | some o => c.spClear s o (FmtM.size f (FmtM.vecBit f))
    | none => true) = true := by
  cases ho : c.spOff f with
  | none => rfl
  | some o => exact h o ho

theorem exec_lds_memory {f : FmtM} (hm : FmtM.memBit f = true) (s : State) : exec (.lds f) s = ldsMem f s := if_pos hm

theorem passes_lds_memory {f : FmtM} (hm : FmtM.memBit f = true) : PassesWhen ever (.lds f) := by
  refine passes_of_fire (fun s => (exec_lds_memory hm s).trans rfl) (fun s c _ h => planReady_of_none ?_)
  have hcases : isErr c.r = true ∨ c.aligned f 64 = none := by
    rcases h with h | h
    · rcases err_position h with h | ⟨-, h⟩ | ⟨hp, h⟩
      · exact .inr (aligned_of_stops (.inl h))
      · exact .inl h
      · exact .inr (aligned_of_stops (.inr (predStops_of_err (i := .lds f) rfl hp h)))
    · exact .inr (aligned_of_stops (.inr (predStops_of_squashed h)))
  rcases hcases with h | h
  · simp only [h, if_true]
    split <;> rfl
  · simp only [h]

theorem passes_cbMove {i : Instr} {f : FmtM} {rdy : Cbd → Bool} {from_ : Cbd → Nat} {g : Cbd → Cbd}
    (hexec : ∀ s, exec i s = cbMove i f rdy from_ g s) :
    PassesWhen (fun s c => c.spIdle s = true ∧ rdy (c.pe.mu.cb (FmtM.cbIdx f)) = true) i := by
  refine passes_of_fire (fun s => (hexec s).trans rfl) ?_
  rintro s c ⟨hidle, hrdy⟩ -
  simp only [hidle, hrdy, Bool.and_self]

/-- What may be said under a condition may be said under a stronger one. -/
theorem PassesWhen.mono {i : Instr} {ok ok' : State → Site → Prop} (h : PassesWhen ok i) (hok : ∀ s c, ok' s c → ok s c) :
    PassesWhen ok' i := by
  obtain ⟨hpass, hsquash⟩ := h
  exact ⟨fun s c e hs hp hf h => hpass s c e hs hp hf (hok s c h), fun s c hs hp hf h => hsquash s c hs hp hf (hok s c h)⟩

theorem passes_tile {i : Instr} {f : FmtX} {okArg : Site → Bool} {body : Site → State → State}
    (hexec : ∀ s, exec i s = tileOp i f okArg body s) : PassesWhen (fun _ c => c.tileFree (FmtX.tile f) = true) i :=
  passes_of_fire (ready := fun _ c => c.tileFree (FmtX.tile f)) (fun s => (hexec s).trans rfl) (fun _ _ h _ => h)

theorem passes_tilesX : ∀ mk ∈ tilesX, ∀ f, PassesWhen (fun _ c => c.tileFree (FmtX.tile f) = true) (mk f) :=
  each (fun f => passes_tile (fun s => (rfl : _ = execAzero f s))) <|
  each (fun f => passes_tile (fun s => (rfl : _ = execAload f s))) <|
  each (fun f => passes_tile (fun s => (rfl : _ = execAdrain f s))) <|
  each (fun f => passes_tile (fun s => (rfl : _ = execAspill f s))) <|
  each (fun f => passes_tile (fun s => (rfl : _ = execAfill f s))) <|
  none_left

/-! ### Sites that run no instance (R126) -/

section
variable {i : Instr} {s : State} {o : Host.Outcome State Fault Refusal} {ready : Site → Bool} {onErr : Site → Token → State → State}
  {body : Site → State → State} (hs : s.site? = none)
include hs

theorem idle_using {uses : Site → Uses} {checked : Uses → Uses} (h : o = fireUsing i uses checked ready onErr body s) : o = .next s := by
  rw [h]
  unfold fireUsing
  rw [hs]

theorem idle_fire (h : o = fire i ready onErr body s) : o = .next s := idle_using hs (h.trans rfl)

theorem idle_local {eff : Site → Option Effect} (h : o = fireLocal i eff s) : o = .next s := idle_fire hs (h.trans rfl)

theorem idle_load {f : FmtM} {n : Nat} {pl : Nat → Plan} (h : o = loadIns i f n pl s) : o = .next s := idle_fire hs (h.trans rfl)

theorem idle_store {f : FmtM} {n : Nat} {vec rel : Bool} {ok : Token → Bool} (h : o = storeIns i f n vec ok rel s) : o = .next s :=
  idle_fire hs (h.trans rfl)

theorem idle_atomic {f : FmtM} {op : RmwOp} {cas : Bool} (h : o = atomicIns i f op cas s) : o = .next s := idle_fire hs (h.trans rfl)

theorem idle_reduce {f : FmtM} {op : RmwOp} (h : o = reduceIns i f op s) : o = .next s := idle_fire hs (h.trans rfl)

theorem idle_range {f : FmtM} {op : ReqOp} (h : o = rangeIns i f op s) : o = .next s := idle_fire hs (h.trans rfl)

theorem idle_engine {f : FmtM} {op : EngOp} (h : o = engineIns i f op s) : o = .next s := idle_fire hs (h.trans rfl)

theorem idle_mask {f : FmtD} {b : Bool} (h : o = maskOp i f b s) : o = .next s := idle_fire hs (h.trans rfl)

theorem idle_tile {f : FmtX} {okArg : Site → Bool} (h : o = tileOp i f okArg body s) : o = .next s := idle_fire hs (h.trans rfl)

theorem idle_cbWait {f : FmtM} {count ptr : Cbd → Nat} (h : o = cbWait i f count ptr s) : o = .next s := idle_fire hs (h.trans rfl)

theorem idle_cbMove {f : FmtM} {rdy : Cbd → Bool} {from_ : Cbd → Nat} {g : Cbd → Cbd} (h : o = cbMove i f rdy from_ g s) : o = .next s :=
  idle_fire hs (h.trans rfl)

theorem idle_lds (f : FmtM) : exec (.lds f) s = .next s := by
  by_cases hm : FmtM.memBit f = true
  · exact idle_fire hs ((exec_lds_memory hm s).trans rfl)
  · exact idle_fire hs ((if_neg hm : exec (.lds f) s = _).trans rfl)

theorem idle_of_formatD {f : FmtD} {r : RowD} (hi : i.row = .d f r) : exec i s = .next s := by
  cases i with
  | nop f => exact idle_fire hs (rfl : _ = execNop f s)
  | recv f => exact idle_fire hs (rfl : _ = execRecv f s)
  | peek f => exact idle_fire hs (rfl : _ = execPeek f s)
  | drop f => exact idle_fire hs (rfl : _ = execDrop f s)
  | emit f => exact idle_fire hs (rfl : _ = execEmit f s)
  | mov f => exact idle_local hs (rfl : _ = execMov f s)
  | const f => exact idle_local hs (rfl : _ = execConst f s)
  | steer f => exact idle_using hs (rfl : _ = execSteer f s)
  | merge f => exact idle_using hs (rfl : _ = execMerge f s)
  | sel f => exact idle_local hs (rfl : _ = execSel f s)
  | gate f => exact idle_using hs (rfl : _ = execGate f s)
  | iter f => exact idle_local hs (rfl : _ = execIter f s)
  | kread f => exact idle_local hs (rfl : _ = execKread f s)
  | kwrite f => exact idle_local hs (rfl : _ = execKwrite f s)
  | eoiq f => exact idle_local hs (rfl : _ = execEoiq f s)
  | decide f => exact idle_fire hs (rfl : _ = execDecide f s)
  | retire f => exact idle_fire hs (rfl : _ = execRetire f s)
  | waitc f => exact idle_fire hs (rfl : _ = execWaitc f s)
  | invnum f => exact idle_local hs (rfl : _ = execInvnum f s)
  | siteid f => exact idle_local hs (rfl : _ = execSiteid f s)
  | hmask f => exact idle_mask hs (rfl : _ = execHmask f s)
  | hunmask f => exact idle_mask hs (rfl : _ = execHunmask f s)
  | chstat f => exact idle_local hs (rfl : _ = execChstat f s)
  | _ => cases hi

theorem idle_of_formatX {f : FmtX} {r : RowX} (hi : i.row = .x f r) : exec i s = .next s := by
  cases i with
  | wload f => exact idle_fire hs (rfl : _ = execWload f s)
  | wscale f => exact idle_fire hs (rfl : _ = execWscale f s)
  | wswap f => exact idle_fire hs (rfl : _ = execWswap f s)
  | wsparse f => exact idle_fire hs (rfl : _ = execWsparse f s)
  | mstream f => exact idle_fire hs (rfl : _ = execMstream f s)
  | macc f => exact idle_fire hs (rfl : _ = execMacc f s)
  | adecay f => exact idle_fire hs (rfl : _ = execAdecay f s)
  | azero f => exact idle_tile hs (rfl : _ = execAzero f s)
  | aload f => exact idle_tile hs (rfl : _ = execAload f s)
  | adrain f => exact idle_tile hs (rfl : _ = execAdrain f s)
  | aspill f => exact idle_tile hs (rfl : _ = execAspill f s)
  | afill f => exact idle_tile hs (rfl : _ = execAfill f s)
  | aown f => exact idle_fire hs (rfl : _ = execAown f s)
  | mstat f => exact idle_local hs (rfl : _ = execMstat f s)
  | tfetch f => exact idle_fire hs (rfl : _ = execTfetch f s)
  | trelease f => exact idle_fire hs (rfl : _ = execTrelease f s)
  | _ => cases hi

theorem idle_of_formatM {f : FmtM} {r : RowM} (hi : i.row = .m f r) : exec i s = .next s := by
  cases i with
  | ld f | ldv f | ldro f | acq f => exact idle_load hs rfl
  | st f | stv f | rel f => exact idle_store hs rfl
  | aadd f | amin f | amax f | aand f | aor f | axor f | aswp f | acas f | afadd f => exact idle_atomic hs rfl
  | redadd f | redfadd f | redmax f => exact idle_reduce hs rfl
  | discard f | flushr f => exact idle_range hs rfl
  | cpy f | cpym f | zpack f | zunpack f | coll f => exact idle_engine hs rfl
  | lds f => exact idle_lds hs f
  | sts f => exact idle_fire hs (rfl : _ = execSts f s)
  | pref f => exact idle_fire hs (rfl : _ = execPref f s)
  | cbinit f => exact idle_fire hs (rfl : _ = execCbinit f s)
  | cbwaitf f => exact idle_cbWait hs (rfl : _ = execCbwaitf f s)
  | cbwaite f => exact idle_cbWait hs (rfl : _ = execCbwaite f s)
  | cbpush f => exact idle_cbMove hs Scratchpad.exec_cbpush
  | cbpop f => exact idle_cbMove hs Scratchpad.exec_cbpop
  | fence f => exact idle_fire hs (rfl : _ = execFence f s)
  | ncinv f => exact idle_fire hs (rfl : _ = execNcinv f s)
  | tjoin f => exact idle_fire hs (rfl : _ = execTjoin f s)
  | tleave f => exact idle_fire hs (rfl : _ = execTleave f s)
  | markinit f => exact idle_fire hs (rfl : _ = execMarkinit f s)
  | arrive f => exact idle_fire hs (rfl : _ = execArrive f s)
  | mwait f => exact idle_fire hs (rfl : _ = execMwait f s)
  | arrwait f => exact idle_fire hs (rfl : _ = execArrwait f s)
  | sfrend f => exact idle_fire hs (rfl : _ = execSfrend f s)
  | engq f => exact idle_fire hs (rfl : _ = execEngq f s)
  | cropen f => exact idle_fire hs (rfl : _ = execCropen f s)
  | crclose f => exact idle_fire hs (rfl : _ = execCrclose f s)
  | trap f => exact idle_fire hs (rfl : _ = execTrap f s)
  | task f => exact idle_fire hs (rfl : _ = execTask f s)
  | taskdep f => exact idle_fire hs (rfl : _ = execTaskdep f s)
  | migr f => exact idle_fire hs (rfl : _ = execMigr f s)
  | xlfence f => exact idle_fire hs (rfl : _ = execXlfence f s)
  | xlinv f => exact idle_fire hs (rfl : _ = execXlinv f s)
  | clock f => exact idle_fire hs (rfl : _ = execClock f s)
  | perfc f => exact idle_fire hs (rfl : _ = execPerfc f s)
  | errq f => exact idle_using hs (rfl : _ = execErrq f s)
  | _ => cases hi

theorem idle_of_formatA {f : FmtA} {r : RowA} (hi : i.row = .a f r) : exec i s = .next s := by
  cases i with
  | mkaddr f => exact idle_fire hs (rfl : _ = execMkaddr f s)
  | dieof f => exact idle_fire hs (rfl : _ = execDieof f s)
  | fflags f => exact idle_fire hs (rfl : _ = execFflags f s)
  | add f | sub f | addc f | subb f | mul f | mulh f | div f | rem f | neg f | abs f | min f | max f | satadd f
  | satsub f | and f | or f | xor f | andn f | shl f | shr f | sar f | rot f | clz f | popc f | bfx f | bfi f | ext f
  | cmp f | adda f | fadd f | fsub f | fmul f | ffma f | fdiv f | fsqrt f | fmin f | fmax f | fneg f | fabs f
  | fcmp f | fclass f | fcvt f | ftoi f | itof f | frnd f | fscale f | fexp2 f | flog2 f | frcp f | frsq f | vadd f
  | vsub f | vmul f | vfma f | vmin f | vmax f | vabs f | vneg f | vand f | vor f | vxor f | vshl f | vshr f | vsar f
  | vcmp f | vsel f | vsatadd f | vmulh f | vdot f | vcvt f | vquant f | vdeq f | vscale f | vexp2 f | vlog2 f
  | vrcp f | vrsq f | vsigm f | vbcast f | vextr f | vins f | vshuf f | vrot f | vslide f | vzip f | vunzip f
  | vpack f | vunpack f | vredadd f | vredmax f | vredmin f | vscan f | vcompress f | vexpand f | vmask f | vpopc f
  | vtagq f | vtagset f =>
    exact idle_local hs rfl
  | _ => cases hi

/-- An instruction whose site runs no instance that may fire it waits. -/
theorem idle_of_image (hi : i.row ≠ .event) : exec i s = .next s := by
  cases hrow : i.row with
  | a f r => exact idle_of_formatA hs hrow
  | d f r => exact idle_of_formatD hs hrow
  | m f r => exact idle_of_formatM hs hrow
  | x f r => exact idle_of_formatX hs hrow
  | event => exact absurd hrow hi

end

/-! ### The statement -/

/-- Settles O23: a firing on an ERR that stops it is a reply, and one that is squashed only takes its operands, once the instruction's own
condition holds; of a memory instruction that is to issue nothing it always does. -/
theorem errorsPassAndPredicatesSquash : Obligations.ErrorsPassAndPredicatesSquash := by
  unfold Obligations.ErrorsPassAndPredicatesSquash
  refine ⟨?errs, ?squashed, fun i s hi hs => idle_of_image hs hi, passes_plainD, passes_plainM, ?recv, ?peek, ?waitc, ?emit, ?emitErr,
    ?steer, ?gate, ?errq, ?gateErr, ?mergeErr, fun f => passes_lds_memory, ?lds, ?sts, ?stsErr, ?cbinit, ?cbwaitf, ?cbwaite, ?cbpush,
    ?cbpop, squashes_writesM, predicateErrs_writesM, passes_tilesX, ?aown, ?mstat, ?loads, ?wswap, ?wscale, ?macc, ?adecay, ?tfetch,
    ?trelease, ?mstream⟩
  case errs =>
    intro i f r hi s c e hs hp hf he hl
    obtain ⟨hpass, -⟩ := passes_of_formatA hi
    exact hpass s c e hs hp hf trivial he hl
  case squashed =>
    intro i f r s c hi hs hp hf he hq
    obtain ⟨-, hsquash⟩ := passes_of_formatA hi
    exact hsquash s c hs hp hf trivial he hq
  case recv =>
    refine fun f => passes_of_fire (fun s => (rfl : _ = execRecv f s)) (fun s c h _ => ?_)
    rcases h with h | ⟨hfeed, htok, hturn⟩
    · simp only [h, Bool.true_or]
    · simp only [hfeed, htok, hturn, Bool.not_false, Bool.and_self, Bool.or_true]
  case peek => exact fun f => passes_of_fire (fun s => (rfl : _ = execPeek f s)) (fun s c h _ => by simpa using h)
  case waitc => exact fun f => passes_of_fire (fun s => (rfl : _ = execWaitc f s)) (fun s c h _ => decide_eq_true h)
  case emit => exact fun f => squashes_of_fire (fun s => (rfl : _ = execEmit f s)) (fun s c h _ _ => decide_eq_true h)
  case emitErr =>
    intro f s c e hs hp hf hroom he
    have hexec := exec_err_fire (i := .emit f) hs hp hf (rfl : _ = execEmit f s) (decide_eq_true hroom) he
    have hran := ran_puts (s0 := s) (u := c.taken (Instr.emit f).uses) (l := [(BitVec.ofNat 9 (384 + FmtD.ch f), e)]) hs rfl
      (RegChange.none c.lease.plane)
    rw [modPE_id, ← pushTo_eq (ch_lt f)] at hran
    exact ⟨_, hexec, hran⟩
  case steer => exact fun f => squashes_of_checked (fun s => (rfl : _ = execSteer f s)) firstErr_onlyP_of_clean
  case gate => exact fun f => squashes_of_checked (fun s => (rfl : _ = execGate f s)) firstErr_onlyP_of_clean
  case errq => exact fun f => squashes_of_checked (fun s => (rfl : _ = execErrq f s)) firstErr_noL_of_clean
  case gateErr =>
    intro f s c e hs hpres hf hu hp he hl
    refine completes_err (i := .gate f) (uses := fun c => c.taken (Instr.gate f).uses) (checked := onlyP) hs hpres hf rfl
      (rfl : _ = execGate f s) ?_ hl rfl
    simp [Site.firstErr, Site.operands, Site.taken, onlyP, hu, hp, he]
  case mergeErr =>
    intro f s c e hs hpres hf hu hp he hl
    refine completes_err (i := .merge f) (uses := fun c => ⟨c.l.isSome, c.l.isNone, (Instr.merge f).uses.p⟩) (checked := onlyP) hs hpres
      hf rfl (rfl : _ = execMerge f s) ?_ hl rfl
    simp [Site.firstErr, Site.operands, onlyP, hu, hp, he]
  case lds =>
    intro f hm
    have hexec (s : State) : exec (.lds f) s = _ := if_neg (by simp [hm])
    exact passes_of_fire (fun s => (hexec s).trans rfl) (fun s c h _ => spReady h)
  case sts => exact fun f => squashes_of_fire (fun s => (rfl : _ = execSts f s)) (fun s c h _ _ => spReady h)
  case stsErr =>
    refine fun f => predicateErrs_of_fire (fun s => (rfl : _ = execSts f s)) (fun s c h _ => spReady h) ?_
    intro c e s hl hr
    simp only [hl, hr, Bool.or_self, Bool.false_eq_true, if_false]
    rfl
  case cbinit => exact fun f => passes_of_fire (fun s => (rfl : _ = execCbinit f s)) (fun s c h _ => h)
  case cbwaitf =>
    refine fun f => passes_of_fire (fun _ => Scratchpad.exec_cbwaitf.trans rfl) ?_
    rintro s c ⟨hidle, hv, hcount⟩ -
    simp [hidle, hv, hcount]
  case cbwaite =>
    refine fun f => passes_of_fire (fun _ => Scratchpad.exec_cbwaite.trans rfl) ?_
    rintro s c ⟨hidle, hv, hcount⟩ -
    simp [hidle, hv, hcount]
  case cbpush => exact fun f => PassesWhen.mono (passes_cbMove (fun _ => Scratchpad.exec_cbpush)) (fun _ _ h => h.imp_right decide_eq_true)
  case cbpop => exact fun f => PassesWhen.mono (passes_cbMove (fun _ => Scratchpad.exec_cbpop)) (fun _ _ h => ⟨h, rfl⟩)
  case aown => exact fun f => passes_always (fun s => (rfl : _ = execAown f s))
  case mstat => exact fun f => passes_local (fun s => (rfl : _ = execMstat f s))
  case loads =>
    exact each (fun f => passes_of_fire (fun s => (rfl : _ = execWload f s)) (fun s c h _ => h)) <|
      each (fun f => passes_of_fire (fun s => (rfl : _ = execWsparse f s)) (fun s c h _ => h)) none_left
  case wswap => exact fun f => passes_of_fire (fun s => (rfl : _ = execWswap f s)) (fun s c h _ => by simp [h])
  case wscale =>
    refine fun f => passes_of_fire (fun s => (rfl : _ = execWscale f s)) ?_
    rintro s c ⟨hswap, hreads⟩ -
    simp only [hswap, hreads, Option.isNone_none, Bool.not_false, Bool.and_self]
  case macc => exact fun f => passes_of_fire (fun s => (rfl : _ = execMacc f s)) (fun s c h _ => decide_eq_true h)
  case adecay => exact fun f => passes_of_fire (fun s => (rfl : _ = execAdecay f s)) (fun s c h _ => by simpa using h)
  case tfetch => exact fun f => passes_of_fire (fun s => (rfl : _ = execTfetch f s)) (fun s c h _ => h)
  case trelease =>
    refine fun f => passes_of_fire (fun s => (rfl : _ = execTrelease f s)) ?_
    rintro s c ⟨p, hp, hst⟩ -
    simp only [hp]
    exact decide_eq_true hst
  case mstream =>
    refine fun f => passes_of_fire (fun s => (rfl : _ = execMstream f s)) ?_
    rintro s c ⟨p, hp, hfetch, hstale⟩ -
    simp [hp, hfetch, hstale]

end Sys2Proof.Proofs.Passing
end

section
/-! Weight buffers, batches and tile fetch (R318 to R331): an instruction of a CU is one change of its unit state, with an answer that is
read off the state before it; one of an AG changes a fetch slot of its port, and the pins of the L2. -/

namespace Sys2Proof.Proofs.Weights

open Sys2Proof Sys2Proof.Machine Sys2Proof.Safety Sys2Proof.Claims Sys2Proof.Proofs.Firing Sys2Proof.Proofs.Locals
  Sys2Proof.Proofs.Integers Sys2Proof.Proofs.Fences

/-! ### Units (R318 to R329) -/

section
variable {i : Instr} {s : State} {c : Site} {ready : Site → Bool} {onErr : Site → Token → State → State}
  {body : Site → State → State} {g : PE → PE} (h : Fires i s c) (hexec : exec i s = fire i ready onErr body s)
  (hr : ready c = true)
include h hexec hr

/-- An instruction that changes its CU and answers with a DATA token. -/
theorem givesAnd_cu {t : Token} (ht : t.kind = .data)
    (hbody : ∃ f : Cu → Cu, body c (c.consume (c.taken i.uses) s) = c.reply i.head t ((c.consume (c.taken i.uses) s).modCu c.site f) ∧
      { c.pe with cu := f c.pe.cu } = g c.pe) : GivesAnd i s c t g := by
  obtain ⟨f, hbody, hg⟩ := hbody
  obtain ⟨u, hu, hran⟩ := completes_reply (s0 := s) h hexec hr rfl (regChange_cu _ f) (fun he => absurd (ht.symm.trans he) (by decide))
    hbody
  exact ⟨u, hu, ran_congr_pe hran hg⟩

/-- An instruction that changes its CU and stays in flight. -/
theorem fliesAnd_cu {f : Cu → Cu} {op : FlightOp} (hg : { c.pe with cu := f c.pe.cu } = g c.pe)
    (hbody : body c (c.consume (c.taken i.uses) s) = c.fly op ((c.consume (c.taken i.uses) s).modCu c.site f)) : FliesAnd i s c op g := by
  obtain ⟨u, hu, hran⟩ := fliesAnd h hexec hr (regChange_cu _ f) hbody
  exact ⟨u, hu, ran_congr_pe hran hg⟩

end

theorem loadReady_of {c : Site} (hw : c.pe.cu.wswap = none) (hb : c.pe.cu.reads (!c.pe.cu.wact) = false) : loadReady c = true := by
  simp only [loadReady, hw, hb, Option.isNone_none, Bool.not_false, Bool.and_self]

theorem b2n_testBit_zero (n : Nat) : b2n (n.testBit 0) = n % 2 := by
  rw [Nat.testBit_zero]
  rcases Nat.mod_two_eq_zero_or_one n with h | h <;> simp [h, b2n]

/-- Four words of 16 bits, packed. -/
theorem packDigits_four {a b c d : Nat} (ha : a < 2 ^ 16) (hb : b < 2 ^ 16) (hc : c < 2 ^ 16) (hd : d < 2 ^ 16) :
    packDigits 16 [a, b, c, d] = a + b * 2 ^ 16 + c * 2 ^ 32 + d * 2 ^ 48 := by
  simp only [packDigits, Nat.mod_eq_of_lt, ha, hb, hc, hd]
  omega

/-- Settles O29: each instruction of a CU is one change of its unit state, with the answer of its row. -/
theorem weightsAndBatchesAreSet : Obligations.WeightsAndBatchesAreSet := by
  unfold Obligations.WeightsAndBatchesAreSet
  refine ⟨?wload, ?wsparse, ?wscale, ?wswap, ?maccPlain, ?maccTile, ?adecay, ?mstatTiles, ?mstatWeights⟩
  case wload =>
    intro f s c t h hw hb hl ht
    refine givesAnd_cu (t := n8Tok (f.n13.toNat % 32)) h (rfl : _ = execWload f s) (loadReady_of hw hb) rfl
      ⟨_, by simp only [hl, ht, if_true]; rfl, by rfl⟩
  case wsparse =>
    intro f s c v m h hw hb hv hm
    refine givesAnd_cu (t := n8Tok (f.n13.toNat % 32)) h (rfl : _ = execWsparse f s) (loadReady_of hw hb) rfl
      ⟨_, by simp only [hv, hm]; rfl, by rfl⟩
  case wscale =>
    intro f s c v h hw hb hv
    have hready : (c.pe.cu.wswap.isNone && !c.pe.cu.reads (f.idx0.toNat.testBit 0)) = true := by
      simp only [hw, hb, Option.isNone_none, Bool.not_false, Bool.and_self]
    refine givesAnd_cu (t := n8Tok (f.idx0.toNat % 2)) h (rfl : _ = execWscale f s) hready rfl
      ⟨_, by simp only [hv, b2n_testBit_zero, bitsOf_eq]; rfl, by rfl⟩
  case wswap => exact fun f s c h hw => fliesAnd_cu h (rfl : _ = execWswap f s) (Option.isNone_iff_eq_none.mpr hw) rfl rfl
  case maccPlain =>
    intro f s c h hroom hmode
    refine givesAnd_cu (t := n64Tok c.pe.cu.batchNo) h (rfl : _ = execMacc f s) (decide_eq_true hroom) rfl
      ⟨_, by simp [hmode]; rfl, by rfl⟩
  case maccTile =>
    intro f s c h hroom hmode hadmits
    refine givesAnd_cu (t := n64Tok c.pe.cu.batchNo) h (rfl : _ = execMacc f s) (decide_eq_true hroom) rfl
      ⟨_, by simp [hmode, hadmits]; rfl, by rfl⟩
  case adecay =>
    intro f s c v h hfree hv
    have hready : (List.range 4).all (fun k => !(c.pe.cu.tile k).busy) = true := by simpa using hfree
    refine givesAnd_cu (t := patTok .f32 c.pe.cu.decayg.toNat) h (rfl : _ = execAdecay f s) hready rfl
      ⟨_, by simp only [hv]; rfl, by rfl⟩
  case mstatTiles =>
    intro f s c h hm
    refine localGives h (rfl : _ = execMstat f s) ?_ rfl
    have hstats : (List.range 4).map (fun k => (c.pe.cu.tile k).stat.toNat) =
      [(c.pe.cu.tile 0).stat.toNat, (c.pe.cu.tile 1).stat.toNat, (c.pe.cu.tile 2).stat.toNat, (c.pe.cu.tile 3).stat.toNat] := rfl
    simp only [hm, Bool.false_eq_true, if_false, hstats, packDigits_four, BitVec.isLt]
  case mstatWeights =>
    intro f s c h hm
    refine localGives h (rfl : _ = execMstat f s) ?_ rfl
    simp only [hm, if_true]

/-! ### Fetch slots (R330, R331) -/

section
variable (s : State) (c : Site) (u : Uses) (port k : Nat)

theorem unpin_consume : (c.consume u s).unpin port k = c.consume u (s.unpin port k) := rfl

theorem modFs_consume (f : FetchSlot → FetchSlot) : (c.consume u s).modFs port k f = c.consume u (s.modFs port k f) := rfl

end

/-- A slot streams that is pinned, or is stale and may be fetched again. -/
theorem mstream_flies {f : FmtX} {s : State} {c : Site} {p : Port} (h : Fires (.mstream f) s c)
    (hp : s.portOf? c.site c.pe.kind = some p) (hfetch : (p.fs f.idx1.toNat).st ≠ .fetching) (hempty : (p.fs f.idx1.toNat).st ≠ .empty)
    (hroom : (p.fs f.idx1.toNat).st ≠ .stale ∨ (p.fs f.idx1.toNat).whole64.length + s.leasePins c.site.lease p.id f.idx1.toNat ≤ 65536) :
    Flies (.mstream f) s c (.mstream f.idx1.toNat f.ty (f.mode.toNat.testBit 0))
      (s.modFs p.id f.idx1.toNat (fun y => if y.st = .stale then y.restart else { y with read := [], sent := 0 })) := by
  refine flies_over h (rfl : _ = execMstream f s) ?hready rfl ?hbody
  case hready =>
    simp only [hp, Bool.and_eq_true, Bool.or_eq_true, decide_eq_true_eq]
    exact ⟨hfetch, hroom⟩
  case hbody => simp only [portOf?_consume, hp, if_neg hempty, modFs_consume]

/-- Settles O30: each changes its fetch slot over the package, and what is there bears neither on what it takes nor on its lease. -/
theorem tilesAreFetchedReleasedAndStreamed : Obligations.TilesAreFetchedReleasedAndStreamed := by
  unfold Obligations.TilesAreFetchedReleasedAndStreamed
  refine ⟨?tfetch, ?trelease, ?pinned, ?stale, ?empty⟩
  case tfetch =>
    intro f s c p h hp hfits
    refine flies_over h (rfl : _ = execTfetch f s) hfits rfl ?_
    simp only [portOf?_consume, hp, unpin_consume, modFs_consume]
  case trelease =>
    intro f s c p h hp hst
    refine completes_reply (s0 := (s.unpin p.id f.idx1.toNat).modFs p.id f.idx1.toNat (fun _ => FetchSlot.empty)) (g := fun q => q)
      (t := n64Tok (p.fs f.idx1.toNat).held.length) h (rfl : _ = execTrelease f s) ?hready rfl (RegChange.none _) (fun he => by cases he)
      ?hbody
    case hready => simpa only [hp, decide_eq_true_eq] using hst
    case hbody => simp only [portOf?_consume, hp, unpin_consume, modFs_consume, modPE_id]; rfl
  case pinned =>
    exact fun f s c p h hp hst => mstream_flies h hp (by simp [hst]) (by simp [hst]) (.inl (by simp [hst]))
  case stale =>
    exact fun f s c p h hp hst hroom => mstream_flies h hp (by simp [hst]) (by simp [hst]) (.inr hroom)
  case empty =>
    intro f s c p h hp hst hl
    refine gives_err h (rfl : _ = execMstream f s) ?hready hl ?hbody
    case hready => simp [hp, hst]
    case hbody => simp only [portOf?_consume, hp, hst, if_true]; rfl

end Sys2Proof.Proofs.Weights
end

section
/-! Requests that leave a port (R152, R166 to R168, R176, R183, R335): issuing one neither reads nor changes a lease, so that it makes no
difference whether a slot takes its operands, and joins those in flight, before its request goes out or after. -/

namespace Sys2Proof.Proofs.Requests

open Sys2Proof Sys2Proof.Machine Sys2Proof.Safety Sys2Proof.Claims Sys2Proof.Proofs.Firing Sys2Proof.Proofs.Teams
  Sys2Proof.Proofs.Fences Sys2Proof.Proofs.Passing

/-! ### Walks read no lease (R166 to R168) -/

/-- A package with other leases. -/
def withLeases (l : List Lease) (s : State) : State := { s with leases := l }

/-- An operation's answer, with other leases in the package that it leaves. -/
abbrev answerWith {α : Type} (l : List Lease) (r : α × State) : α × State := (r.1, withLeases l r.2)

section
variable (l : List Lease) (s : State)

theorem keepPtr_withLeases (w : WalkEntry) : (withLeases l s).keepPtr w = withLeases l (s.keepPtr w) := rfl

theorem leafOk_withLeases (va dc : Nat) (x : Leaf) : (withLeases l s).leafOk va dc x = s.leafOk va dc x := rfl

theorem walk2_withLeases (vmid ipa n node : Nat) :
    (withLeases l s).walk2 vmid ipa n node = answerWith l (s.walk2 vmid ipa n node) := by
  induction n generalizing s node with
  | zero => rfl
  | succ n ih =>
    have hptr : (withLeases l s).ptr? 2 0 0 vmid n (ipa / 2 ^ levelShift n * 2 ^ levelShift n) =
      s.ptr? 2 0 0 vmid n (ipa / 2 ^ levelShift n * 2 ^ levelShift n) := rfl
    have hent : (withLeases l s).readEnt (node + 8 * levelIndex n ipa) = s.readEnt (node + 8 * levelIndex n ipa) := rfl
    unfold State.walk2
    dsimp only
    rw [hptr, hent]
    split
    · rw [keepPtr_withLeases]
      exact ih _ _
    · split
      · rfl
      · split
        · rfl
        · split
          · split <;> rfl
          · rw [keepPtr_withLeases]
            exact ih _ _

theorem stage2_withLeases (vmid ipa : Nat) : (withLeases l s).stage2 vmid ipa = answerWith l (s.stage2 vmid ipa) := by
  have hroots : (withLeases l s).roots2 = s.roots2 := rfl
  unfold State.stage2
  rw [hroots]
  split
  · rfl
  · split
    · rfl
    · split
      · exact walk2_withLeases l s vmid ipa 4 _
      · rfl

theorem combine_withLeases (c : Ctx) (va level entryPa : Nat) (e : Word) :
    (withLeases l s).combine c va level entryPa e = answerWith l (s.combine c va level entryPa e) := by
  unfold State.combine
  simp only [stage2_withLeases, leafOk_withLeases, apply_ite (answerWith l)]
  refine ite_congr rfl (fun _ => rfl) (fun _ => ?_)
  generalize s.stage2 c.vmid (entFrame e + va % 2 ^ levelShift level) = r
  obtain ⟨_ | ⟨pa, e2, l2⟩, s1⟩ := r <;> rfl

theorem walk1_withLeases (c : Ctx) (va n node : Nat) :
    (withLeases l s).walk1 c va n node = answerWith l (s.walk1 c va n node) := by
  induction n generalizing s node with
  | zero => rfl
  | succ n ih =>
    have hptr : (withLeases l s).ptr? 1 c.asid (vaDc va) c.vmid n (va / 2 ^ levelShift n * 2 ^ levelShift n) =
      s.ptr? 1 c.asid (vaDc va) c.vmid n (va / 2 ^ levelShift n * 2 ^ levelShift n) := rfl
    unfold State.walk1
    dsimp only
    rw [hptr, stage2_withLeases]
    split
    · rw [keepPtr_withLeases]
      exact ih _ _
    · obtain ⟨_ | ⟨pa, e2, l2⟩, s1⟩ := s.stage2 c.vmid (node + 8 * levelIndex n va)
      · rfl
      · have hent : (withLeases l s1).readEnt pa = s1.readEnt pa := rfl
        dsimp only
        rw [hent]
        split
        · rfl
        · split
          · rfl
          · split
            · exact combine_withLeases l s1 c va n pa _
            · rw [keepPtr_withLeases]
              exact ih _ _

theorem count_withLeases (tid die ev n : Nat) : (withLeases l s).count tid die ev n = withLeases l (s.count tid die ev n) := by
  have hcounters : (withLeases l s).counters = s.counters := rfl
  unfold State.count
  rw [hcounters]
  split <;> rfl

/-- The leaf that a walk finds. -/
theorem walk_withLeases (c : Ctx) (die va : Nat) : ((withLeases l s).walk c die va).1 = (s.walk c die va).1 := by
  unfold State.walk
  rw [count_withLeases]
  have hroots : (withLeases l (s.count c.tid die 5 1)).roots = (s.count c.tid die 5 1).roots := rfl
  dsimp only
  rw [hroots]
  split
  · rfl
  · rw [walk1_withLeases]
    obtain ⟨_ | leaf, s1⟩ := (s.count c.tid die 5 1).walk1 c va 4 _
    · rfl
    · dsimp only
      split <;> rfl

/-! ### Issuing reads and changes no lease (R152, R176, R183) -/

theorem lineNum_withLeases (tid va : Nat) : (withLeases l s).lineNum tid va = s.lineNum tid va := by
  unfold State.lineNum
  have hctx : (withLeases l s).ctx? tid = s.ctx? tid := rfl
  have hpkg : (withLeases l s).pkgNo = s.pkgNo := rfl
  simp only [hctx, hpkg, walk_withLeases]

theorem writeIssues_withLeases (p : Port) (va : Nat) : (withLeases l s).writeIssues p va = withLeases l (s.writeIssues p va) := by
  unfold State.writeIssues
  simp only [lineNum_withLeases]
  rfl

theorem issue_withLeases (port : Nat) (r : Req) : (withLeases l s).issue port r = withLeases l (s.issue port r) := by
  have hport : (withLeases l s).port? port = s.port? port := rfl
  have hleft (p : Port) : (if r.op.writes then (withLeases l s).writeIssues p r.va else withLeases l s) =
      withLeases l (if r.op.writes then s.writeIssues p r.va else s) := by
    rw [writeIssues_withLeases, apply_ite (withLeases l)]
  unfold State.issue
  rw [hport]
  split
  · rfl
  · simp only [hleft]
    split
    · rfl
    · exact count_withLeases l (State.modPort _ port _) _ _ _ _

end

theorem leases_issue (s : State) (port : Nat) (r : Req) : (s.issue port r).leases = s.leases := by
  have h := issue_withLeases s.leases s port r
  have hs : withLeases s.leases s = s := rfl
  rw [hs] at h
  rw [h]
  rfl

/-! ### Sending (R180, R335) -/

section
variable (s : State) (c : Site) (ty : BitVec 5) (pl : Plan) (dest : Dest)

theorem leases_send : (c.send ty pl dest s).leases = s.leases := by
  unfold Site.send
  split
  · rfl
  · dsimp only
    split
    · exact (leases_endSfr _ _).trans (leases_issue _ _ _)
    · exact leases_issue _ _ _

/-- A request goes out of a package with another lease as it does without. -/
theorem send_modLease (id : Nat) (f : Lease → Lease) :
    c.send ty pl dest (s.modLease id f) = (c.send ty pl dest s).modLease id f := by
  have hissue (u : State) (port : Nat) (r : Req) : (u.modLease id f).issue port r = (u.issue port r).modLease id f := by
    have h := issue_withLeases (u.modLease id f).leases u port r
    refine h.trans ?_
    unfold State.modLease
    rw [leases_issue]
    rfl
  have hport : (s.modLease id f).portOf? c.site c.pe.kind = s.portOf? c.site c.pe.kind := rfl
  unfold Site.send
  rw [hport]
  split
  · rfl
  · next p hp =>
    have hsent := hissue s.fresh.2 p.id
    dsimp only
    split
    · exact (congrArg (fun t : State => t.endSfr p.party) (hsent _)).trans (endSfr_modLease _ _ _ _)
    · exact hsent _

theorem send_consume (u : Uses) : c.send ty pl dest (c.consume u s) = c.consume u (c.send ty pl dest s) := by
  rw [consume_eq, consume_eq, send_modLease]

theorem send_fly (op : FlightOp) : c.send ty pl dest (c.fly op s) = c.fly op (c.send ty pl dest s) :=
  send_modLease s c ty pl dest _ _

end

/-! ### Firings that send a request -/

/-- An instruction that fires and leaves a package of the same leases sends nothing to its targets. -/
theorem completes_over {i : Instr} {s s0 : State} {c : Site} {ready : Site → Bool} {onErr : Site → Token → State → State}
    {body : Site → State → State} (h : Fires i s c) (hexec : exec i s = fire i ready onErr body s) (hr : ready c = true)
    (hb : s0.leases = s.leases) (hbody : body c (c.consume (c.taken i.uses) s) = c.consume (c.taken i.uses) s0) :
    Completes i s c (Deed.sending s0 c i []) := by
  have hran := ran_puts (u := c.taken i.uses) (l := []) h.site hb (RegChange.none c.lease.plane)
  have hnothing : ((c.consume (c.taken i.uses) s0).modPE c.site (fun p => p)).modPE c.site (fun pe => PE.putAll pe c.lease.plane []) =
      c.consume (c.taken i.uses) s0 := (modPE_id _ _).trans (modPE_id _ _)
  rw [hnothing, ← hbody] at hran
  exact ⟨_, hexec.trans (fireUsing_acts h hr), hran⟩

section
variable {i : Instr} {s : State} {c : Site} {ready : Site → Bool} {onErr : Site → Token → State → State}
  {body : Site → State → State} {pl : Plan} (h : Fires i s c) (hexec : exec i s = fire i ready onErr body s) (hr : ready c = true)
include h hexec hr

/-- An instruction whose request brings an answer. -/
theorem flies_send {ty : BitVec 5} {dest : Dest} {op : FlightOp}
    (hbody : body c (c.consume (c.taken i.uses) s) = c.send ty pl dest (c.fly op (c.consume (c.taken i.uses) s))) :
    Flies i s c op (c.send ty pl dest s) := by
  refine flies_over h hexec hr (leases_send s c ty pl dest) ?_
  rw [hbody, send_fly, send_consume]

/-- An instruction whose request brings no answer. -/
theorem completes_send {ty : BitVec 5} {dest : Dest}
    (hbody : body c (c.consume (c.taken i.uses) s) = c.send ty pl dest (c.consume (c.taken i.uses) s)) :
    Completes i s c (Deed.sending (c.send ty pl dest s) c i []) := by
  refine completes_over h hexec hr (leases_send s c ty pl dest) ?_
  rw [hbody, send_consume]

/-- An instruction that writes. -/
theorem stores_send {f : FmtM} (hhead : i.head = f.h)
    (hbody : body c (c.consume (c.taken i.uses) s) = c.sendWrite f pl (c.consume (c.taken i.uses) s)) : StoresWith i s c f.ty pl := by
  constructor
  · intro hnamed
    have hnamed : hasTarget f.h = true := by simpa [hasTarget, ← hhead] using hnamed
    refine flies_send h hexec hr (hbody.trans ?_)
    exact if_pos hnamed
  · intro h0 h1
    have hnone : ¬hasTarget f.h = true := by simp [hasTarget, ← hhead, h0, h1]
    exact completes_send h hexec hr (hbody.trans (if_neg hnone))

end

/-! ### When a request may go out (R334, R335) -/

/-- What may issue a request waits for its port alone. -/
theorem planReady_of_may {plan : Site → Option Plan} {s : State} {c : Site} {pl : Plan} {p : Port} (h : plan c = some pl)
    (hmay : Port.may s c p pl.op pl.va) : planReady plan s c = true := by
  obtain ⟨hp, hissue⟩ := hmay
  unfold planReady
  simp only [h, hp, hissue]

/-- No ERR stands in a position that is taken and checked. -/
theorem noErr_taken {i : Instr} {s : State} {c : Site} (h : Fires i s c) :
    (i.uses.l = true → isErr c.l = false) ∧ (i.uses.r = true → isErr c.r = false) ∧ (i.uses.p = true → isErr c.p = false) := by
  have hclean := List.find?_eq_none.mp h.clean
  have hfree (o : Option Token) (ho : ∀ t, o = some t → t ∈ c.operands (c.taken i.uses)) : isErr o = false := by
    cases o with
    | none => rfl
    | some t => simpa [isErr] using hclean t (ho t rfl)
  refine ⟨fun hu => hfree _ fun t ht => ?_, fun hu => hfree _ fun t ht => ?_, fun hu => hfree _ fun t ht => ?_⟩ <;>
    simp [Site.operands, Site.taken, hu, ht]

/-- A predicate is an operand that is taken. -/
abbrev TakesPredicate (i : Instr) : Prop := i.head.pred ≠ 0 → i.uses.p = true

theorem predStops_of_fires {i : Instr} {s : State} {c : Site} (h : Fires i s c) (hp : TakesPredicate i) : c.predStops i.head = false := by
  obtain ⟨-, -, hfree⟩ := noErr_taken h
  have hacts := h.acts
  by_cases h0 : i.head.pred = 0
  · simp [Site.predStops, h0]
  · simp [Site.predStops, hfree (hp h0), hacts]

theorem ea_of_EA {c : Site} {f : FmtM} {n va : Nat} (h : EA c f n va) : c.ea f = some va := by
  obtain ⟨⟨a, ha, rfl⟩, -⟩ := h
  simp [Site.ea, ha]

theorem alignedEa_of_EA {c : Site} {f : FmtM} {n va : Nat} (hl : isErr c.l = false) (h : EA c f n va) : c.alignedEa f n = some va := by
  have hea := ea_of_EA h
  obtain ⟨-, hmod⟩ := h
  simp only [Site.alignedEa, hl, hea, hmod, Bool.false_eq_true, if_false, if_true]

section
variable {i : Instr} {s : State} {c : Site} {f : FmtM} (h : Fires i s c) (hhead : i.head = f.h) (hl : i.uses.l = true) (hp : TakesPredicate i)
include h hhead hl hp

theorem aligned_of_EA {n va : Nat} (ha : EA c f n va) : c.aligned f n = some va := by
  obtain ⟨hfree, -⟩ := noErr_taken h
  have hstops : c.predStops f.h = false := hhead ▸ predStops_of_fires h hp
  simp only [Site.aligned, hstops, Bool.false_eq_true, if_false, alignedEa_of_EA (hfree hl) ha]

/-! ### Loads (R338, R340, R341, R347) -/

/-- A load sends its plan. -/
theorem load_completes {n va : Nat} {pl : Nat → Plan} {p : Port} (hexec : exec i s = loadIns i f n pl s) (ha : EA c f n va)
    (hmay : Port.may s c p (pl va).op (pl va).va) : LoadsWith i s c f.ty (pl va) := by
  have hplan : (c.aligned f n).map pl = some (pl va) := by rw [aligned_of_EA h hhead hl hp ha, Option.map_some]
  refine flies_send h (hexec.trans rfl) (planReady_of_may hplan hmay) ?_
  simp only [hplan]
  rfl

/-! ### Stores, reductions and atomics (R339, R344, R345, R347) -/

/-- A store sends its data. -/
theorem store_completes {n va : Nat} {vec rel : Bool} {ok : Token → Bool} {p : Port} {b : Token}
    (hexec : exec i s = storeIns i f n vec ok rel s) (hr : i.uses.r = true) (ha : EA c f n va) (hmay : Port.may s c p .store va)
    (hb : c.r = some b) (hok : ok b = true) :
    StoresWith i s c f.ty ⟨.store, va, n, vec, b.data, 0, none, f.scope, rel, false, none, rel⟩ := by
  obtain ⟨-, hfree, -⟩ := noErr_taken h
  have hno := hfree hr
  have hkind : b.kind ≠ .err := by
    rw [hb] at hno
    simpa [isErr] using hno
  have hdata : storeData c.r ok = some (b.data, none) := by simp only [storeData, hb, hkind, if_false, hok, if_true]
  have halign := aligned_of_EA h hhead hl hp ha
  refine stores_send h (hexec.trans rfl) (planReady_of_may (p := p) (pl := ⟨.store, va, n, vec, b.data, 0, none, f.scope, rel, false, none, rel⟩) ?_ hmay)
    hhead ?_
  · simp only [hno, halign, hdata, Bool.false_eq_true, if_false]
    rfl
  · simp only [hno, halign, hdata, Bool.false_eq_true, if_false]
    rfl

theorem rmwPlan_of_EA {op : ReqOp} {sync : Bool} {va : Nat} {b : Token} (ha : EA c f (bytesOf f) va) (hb : c.r = some b)
    (hok : b.isScalar (tyOf f.ty) = true) :
    rmwPlan f op false sync c = some ⟨op, va, bytesOf f, false, b.data, 0, none, f.scope, sync && f.ord.toNat.testBit 1,
      sync && f.ord.toNat.testBit 0, none, sync⟩ := by
  have halign : c.aligned f (memSize (tyOf f.ty)) = some va := aligned_of_EA h hhead hl hp ha
  simp only [rmwPlan, halign, hb, hok, Bool.not_true, Bool.false_eq_true, if_false]
  rfl

/-- A reduction sends its operand. -/
theorem reduce_completes {op : RmwOp} {va : Nat} {p : Port} {b : Token} (hexec : exec i s = reduceIns i f op s) (hr : i.uses.r = true)
    (ha : EA c f (bytesOf f) va) (hmay : Port.may s c p (.reduce op) va) (hb : c.r = some b) (hok : b.isScalar (tyOf f.ty) = true) :
    StoresWith i s c f.ty ⟨.reduce op, va, bytesOf f, false, b.data, 0, none, f.scope, false, false, none, false⟩ := by
  obtain ⟨-, hfree, -⟩ := noErr_taken h
  have hplan : (if isErr c.r then none else rmwPlan f (.reduce op) false false c) = _ :=
    (if_neg (by simp [hfree hr])).trans (rmwPlan_of_EA h hhead hl hp ha hb hok)
  refine stores_send h (hexec.trans rfl) (planReady_of_may hplan hmay) hhead ?_
  simp only [hplan]
  rfl

/-- An atomic sends its operand and waits for the old value. -/
theorem atomic_completes {op : RmwOp} {va : Nat} {p : Port} {b : Token} (hexec : exec i s = atomicIns i f op false s) (hr : i.uses.r = true)
    (ha : EA c f (bytesOf f) va) (hmay : Port.may s c p (.atomic op) va) (hb : c.r = some b) (hok : b.isScalar (tyOf f.ty) = true) :
    Flies i s c .reply (c.send f.ty
      ⟨.atomic op, va, bytesOf f, false, b.data, 0, none, f.scope, f.ord.toNat.testBit 1, f.ord.toNat.testBit 0, none, true⟩
      (.slot c.site c.slot) s) := by
  obtain ⟨-, hfree, -⟩ := noErr_taken h
  have hplan : (if isErr c.r || (false && isErr c.p) then none else rmwPlan f (.atomic op) false true c) = _ :=
    (if_neg (by simp [hfree hr])).trans (rmwPlan_of_EA h hhead hl hp ha hb hok)
  refine flies_send h (hexec.trans rfl) (planReady_of_may hplan hmay) ?_
  simp only [hplan]
  rfl

end

/-! ### The statements on requests -/

/-- A line read into the scratchpad. -/
theorem lds_completes {f : FmtM} {s : State} {c : Site} {p : Port} {va o : Nat} (h : Fires (.lds f) s c) (hm : f.idx.toNat.testBit 1 = true)
    (hmay : Port.may s c p (.load false) va) (ha : EA c f 64 va) (ho : scalarArg c.r .n32 = some o) (hmod : o % 64 = 0) :
    LoadsWith (.lds f) s c f.ty ⟨.load false, va, 64, true, 0, 0, none, 0, false, false, some (o % 2 ^ 18), false⟩ := by
  obtain ⟨-, hfree, -⟩ := noErr_taken h
  have hur : (Instr.lds f).uses.r = true := by simpa [Instr.uses, Instr.row] using hm
  have halign : c.aligned f 64 = some va := aligned_of_EA (i := .lds f) h rfl rfl (fun h => decide_eq_true h) ha
  have hfill : c.fillOff = some (o % 2 ^ 18) := by simp only [Site.fillOff, ho, hmod, if_true]
  refine flies_send h ((exec_lds_memory hm s).trans rfl)
    (planReady_of_may (p := p) (pl := ⟨.load false, va, 64, true, 0, 0, none, 0, false, false, some (o % 2 ^ 18), false⟩) ?_ hmay) ?_
  · simp only [halign, hfill, hfree hur, Bool.false_eq_true, if_false]
    rfl
  · simp only [halign, hfill, hfree hur, Bool.false_eq_true, if_false]
    rfl

/-- Settles O32: a load that may act has its address and its port, and sends its plan. -/
theorem loadsSendOneRequest : Obligations.LoadsSendOneRequest := by
  unfold Obligations.LoadsSendOneRequest
  refine ⟨?ld, ?ldv, ?ldro, ?ldroVec, ?acq, ?lds, ?pref⟩
  case ld => exact fun f s c p va h hmay ha => load_completes h rfl rfl (fun h => decide_eq_true h) (rfl : _ = execLd f s) ha hmay
  case ldv => exact fun f s c p va h hmay ha => load_completes h rfl rfl (fun h => decide_eq_true h) (rfl : _ = execLdv f s) ha hmay
  case ldro =>
    intro f s c p va h hmay hv ha
    have hexec : exec (.ldro f) s = loadIns (.ldro f) f (bytesOf f) (fun a => Plan.plain (.load true) a (bytesOf f) false) s := by
      change execLdro f s = _
      unfold execLdro FmtM.vecBit
      rw [hv]
      rfl
    exact load_completes h rfl rfl (fun h => decide_eq_true h) hexec ha hmay
  case ldroVec =>
    intro f s c p va h hmay hv ha
    have hexec : exec (.ldro f) s = loadIns (.ldro f) f 64 (fun a => Plan.plain (.load true) a 64 true) s := by
      change execLdro f s = _
      unfold execLdro FmtM.vecBit
      rw [hv]
      rfl
    exact load_completes h rfl rfl (fun h => decide_eq_true h) hexec ha hmay
  case acq => exact fun f s c p va h hmay ha => load_completes h rfl rfl (fun h => decide_eq_true h) (rfl : _ = execAcq f s) ha hmay
  case lds => exact fun f s c p va o h hm hmay ha ho hmod => lds_completes h hm hmay ha ho hmod
  case pref =>
    intro f s c p a h hl
    dsimp only
    intro hmay
    have halign : c.aligned f 1 = some (wrapN 57 ((a : Int) + f.off.toInt)) :=
      aligned_of_EA (i := .pref f) h rfl rfl (fun h => decide_eq_true h) ⟨⟨a, hl, rfl⟩, Nat.mod_one _⟩
    have hplan : (c.aligned f 1).map (fun a => Plan.plain .pref (lineOf a) 64 false) =
        some (Plan.plain .pref (lineOf (wrapN 57 ((a : Int) + f.off.toInt))) 64 false) := by rw [halign, Option.map_some]
    refine completes_send h (rfl : _ = execPref f s) (planReady_of_may hplan hmay) ?_
    simp only [hplan]
    rfl

/-- A compare and swap sends its operand and what it expects. -/
theorem acas_completes {f : FmtM} {s : State} {c : Site} {p : Port} {va : Nat} {b x : Token} (h : Fires (.acas f) s c)
    (hmay : Port.may s c p (.atomic .cas) va) (ha : EA c f (bytesOf f) va) (hb : c.r = some b) (hok : b.isScalar (tyOf f.ty) = true)
    (hx : c.p = some x) (hokx : x.isScalar (tyOf f.ty) = true) :
    Flies (.acas f) s c .reply (c.send f.ty
      ⟨.atomic .cas, va, bytesOf f, false, b.data, x.low, none, f.scope, f.ord.toNat.testBit 1, f.ord.toNat.testBit 0, none, true⟩
      (.slot c.site c.slot) s) := by
  obtain ⟨-, hr, hp⟩ := noErr_taken h
  have halign : c.aligned f (memSize (tyOf f.ty)) = some va := aligned_of_EA (i := .acas f) h rfl rfl (fun _ => rfl) ha
  have hplan : (if isErr c.r || (true && isErr c.p) then none else rmwPlan f (.atomic .cas) true true c) = some ⟨.atomic .cas, va,
      bytesOf f, false, b.data, x.low, none, f.scope, f.ord.toNat.testBit 1, f.ord.toNat.testBit 0, none, true⟩ := by
    rw [hr rfl, hp rfl]
    simp only [rmwPlan, halign, hb, hok, hx, hokx, Bool.not_true, Bool.and_false, Bool.or_self, Bool.false_eq_true, if_false, if_true,
      Bool.true_and]
    rfl
  refine flies_send h (rfl : _ = atomicIns (.acas f) f .cas true s) (planReady_of_may hplan hmay) ?_
  simp only [hplan]
  rfl

/-- The atomics, whose row uses L and R and takes P as a predicate alone. -/
theorem atomicOf {mk : FmtM → Instr} {op : RmwOp} (hexec : ∀ f s, exec (mk f) s = atomicIns (mk f) f op false s)
    (hhead : ∀ f, (mk f).head = f.h) (hu : ∀ f, (mk f).uses.l = true ∧ (mk f).uses.r = true ∧ PredicateOnly (mk f)) : AtomicOf mk op := by
  intro f s c p va b h hmay ha hb hok
  obtain ⟨hl, hr, hp⟩ := hu f
  exact atomic_completes h (hhead f) hl (fun h => hp.trans (decide_eq_true h)) (hexec f s) hr ha hmay hb hok

theorem reductionOf {mk : FmtM → Instr} {op : RmwOp} (hexec : ∀ f s, exec (mk f) s = reduceIns (mk f) f op s)
    (hhead : ∀ f, (mk f).head = f.h) (hu : ∀ f, (mk f).uses.l = true ∧ (mk f).uses.r = true ∧ PredicateOnly (mk f)) :
    ReductionOf mk op := by
  intro f s c p va b h hmay ha hb hok
  obtain ⟨hl, hr, hp⟩ := hu f
  exact reduce_completes h (hhead f) hl (fun h => hp.trans (decide_eq_true h)) (hexec f s) hr ha hmay hb hok

/-- Settles O33: a write or atomic that may act has its address, its data and its port, and sends its plan. -/
theorem storesAndAtomicsSendOneRequest : Obligations.StoresAndAtomicsSendOneRequest := by
  unfold Obligations.StoresAndAtomicsSendOneRequest
  refine ⟨?st, ?stv, ?rel, ?redadd, ?redfadd, ?redmax, ?aadd, ?amin, ?amax, ?aand, ?aor, ?axor, ?aswp, ?afadd, ?acas⟩
  case st =>
    exact fun f s c p va b h hmay ha hb hok =>
      store_completes h rfl rfl (fun h => decide_eq_true h) (rfl : _ = execSt f s) rfl ha hmay hb hok
  case stv =>
    intro f s c p va b h hmay ha hb hv htag
    exact store_completes h rfl rfl (fun h => decide_eq_true h) (rfl : _ = execStv f s) rfl ha hmay hb (by simp [hv, htag])
  case rel =>
    exact fun f s c p va b h hmay ha hb hok =>
      store_completes h rfl rfl (fun h => decide_eq_true h) (rfl : _ = execRel f s) rfl ha hmay hb hok
  case redadd => exact reductionOf (fun f s => (rfl : _ = execRedadd f s)) (fun _ => rfl) (fun _ => ⟨rfl, rfl, rfl⟩)
  case redfadd => exact reductionOf (fun f s => (rfl : _ = execRedfadd f s)) (fun _ => rfl) (fun _ => ⟨rfl, rfl, rfl⟩)
  case redmax => exact reductionOf (fun f s => (rfl : _ = execRedmax f s)) (fun _ => rfl) (fun _ => ⟨rfl, rfl, rfl⟩)
  case aadd => exact atomicOf (fun f s => (rfl : _ = execAadd f s)) (fun _ => rfl) (fun _ => ⟨rfl, rfl, rfl⟩)
  case amin => exact atomicOf (fun f s => (rfl : _ = execAmin f s)) (fun _ => rfl) (fun _ => ⟨rfl, rfl, rfl⟩)
  case amax => exact atomicOf (fun f s => (rfl : _ = execAmax f s)) (fun _ => rfl) (fun _ => ⟨rfl, rfl, rfl⟩)
  case aand => exact atomicOf (fun f s => (rfl : _ = execAand f s)) (fun _ => rfl) (fun _ => ⟨rfl, rfl, rfl⟩)
  case aor => exact atomicOf (fun f s => (rfl : _ = execAor f s)) (fun _ => rfl) (fun _ => ⟨rfl, rfl, rfl⟩)
  case axor => exact atomicOf (fun f s => (rfl : _ = execAxor f s)) (fun _ => rfl) (fun _ => ⟨rfl, rfl, rfl⟩)
  case aswp => exact atomicOf (fun f s => (rfl : _ = execAswp f s)) (fun _ => rfl) (fun _ => ⟨rfl, rfl, rfl⟩)
  case afadd => exact atomicOf (fun f s => (rfl : _ = execAfadd f s)) (fun _ => rfl) (fun _ => ⟨rfl, rfl, rfl⟩)
  case acas => exact fun f s c p va b x h hmay ha hb hok hx hokx => acas_completes h hmay ha hb hok hx hokx

end Sys2Proof.Proofs.Requests
end

section
/-! Bad addresses and ERR data (R131, R334, R336, R339): an access that is not aligned has no plan; an ERR that R336 treats on its own raises
its trap, after the operands are taken or before alike, and is answered where a target holds the answer. -/

namespace Sys2Proof.Proofs.BadAddresses

open Sys2Proof Sys2Proof.Machine Sys2Proof.Safety Sys2Proof.Claims Sys2Proof.Proofs.Firing Sys2Proof.Proofs.Errors
  Sys2Proof.Proofs.Passing Sys2Proof.Proofs.Requests

/-! ### Misaligned accesses (R334) -/

section
variable {c : Site} {f : FmtM} {n a : Nat} (hl : scalarArg c.l .a57 = some a)
  (hmod : wrapN 57 ((a : Int) + f.off.toInt) % n ≠ 0)
include hl hmod

theorem alignedEa_of_misaligned : c.alignedEa f n = none := by
  simp [Site.alignedEa, Site.ea, hl, hmod]

theorem aligned_of_misaligned : c.aligned f n = none := by
  simp only [Site.aligned, alignedEa_of_misaligned hl hmod, ite_self]

omit hmod in
theorem memCause_of_address {rOk : Bool} (hr : rOk = true) : c.memCause f rOk = cPerm := by
  simp [Site.memCause, Site.ea, hl, hr]

/-- A load that is not aligned is answered with PERM. -/
theorem load_misaligned {i : Instr} {s : State} {pl : Nat → Plan} (h : Fires i s c) (hhead : i.head = f.h)
    (hexec : exec i s = loadIns i f n pl s) (hlands : Lands i.head) : Gives i s c (c.ownErr cPerm) := by
  have hplan : (c.aligned f n).map pl = none := by rw [aligned_of_misaligned hl hmod, Option.map_none]
  refine gives_err h (hexec.trans rfl) (planReady_of_none hplan) hlands ?_
  simp only [hplan, memCause_of_address hl, hhead]

/-- A store that is not aligned is answered with PERM. -/
theorem store_misaligned {i : Instr} {s : State} {vec rel : Bool} {ok : Token → Bool} {b : Token} (h : Fires i s c) (hhead : i.head = f.h)
    (hexec : exec i s = storeIns i f n vec ok rel s) (hb : c.r = some b) (hok : ok b = true)
    (hlands : Lands i.head) : Gives i s c (c.ownErr cPerm) := by
  have hdata : (storeData c.r ok).isSome = true := by
    simp only [storeData, hb, hok, if_true]
    split <;> rfl
  refine gives_err h (hexec.trans rfl) (planReady_of_none ?_) hlands ?_
  · simp only [alignedEa_of_misaligned hl hmod, aligned_of_misaligned hl hmod, ite_self]
  · simp only [alignedEa_of_misaligned hl hmod, aligned_of_misaligned hl hmod, ite_self, memCause_of_address hl hdata, hhead]

end

/-! ### ERRs that raise their trap (R336) -/

/-- A package to which a trap of a lease has been sent. -/
def withTrap (L : Lease) (w : Word) (s : State) : State := { s with traps := s.traps ++ [Trap.ofErr L w] }

/-- An ERR that nothing contains sends its trap, and what the slot takes makes no difference. -/
theorem trapOf_consume {s : State} {c : Site} {e : Token} (hs : s.site? = some c) (hn : NotContained c.lease e.low) (u : Uses) :
    c.trapOf e (c.consume u s) = c.consume u (withTrap c.lease e.low s) :=
  raiseErr_sent (L := afterTaking c u c.lease) (lease?_consume hs u) hn

/-- A token put where no target holds it changes nothing. -/
theorem put_unheld {t : BitVec 9} (h : ¬(t ≠ tNone ∧ t ≠ tDrop)) (pe : PE) (plane : Nat) (e : Token) : pe.put plane t e = pe := by
  by_cases h0 : t = tNone
  · rw [h0]
    rfl
  · have h1 : t = tDrop := not_not.mp fun h1 => h ⟨h0, h1⟩
    rw [h1]
    rfl

/-- Whether a target holds a token. -/
abbrev holds (t : BitVec 9) : Bool := t ≠ tNone && t ≠ tDrop

/-- One token for each of some targets. -/
abbrev toEach (e : Token) (ts : List (BitVec 9)) : List (BitVec 9 × Token) := ts.map (fun t => (t, e))

theorem putAll_holds (pe : PE) (plane : Nat) (e : Token) (ts : List (BitVec 9)) :
    PE.putAll pe plane (toEach e (ts.filter holds)) = PE.putAll pe plane (toEach e ts) := by
  induction ts generalizing pe with
  | nil => rfl
  | cons t ts ih =>
    by_cases h : holds t = true
    · rw [List.filter_cons_of_pos h]
      exact ih _
    · rw [List.filter_cons_of_neg h]
      have hskip : pe.put plane t e = pe := put_unheld (by simpa using h) pe plane e
      refine (ih pe).trans ?_
      exact congrArg (fun q => PE.putAll q plane (toEach e ts)) hskip.symm

theorem sends_holds (s : State) (site : SiteRef) (plane : Nat) (e : Token) {ts : List (BitVec 9)} (h : ∀ t ∈ ts, holds t = true) :
    (toEach e ts).foldl (fun s p => s.sendOne site plane p.1 p.2) s = s.modPE site (fun pe => PE.putAll pe plane (toEach e ts)) := by
  induction ts generalizing s with
  | nil => exact (modPE_id s site).symm
  | cons t ts ih =>
    have ht : t ≠ tDrop := by
      have hheld := h t List.mem_cons_self
      simp only [holds, Bool.and_eq_true, decide_eq_true_eq] at hheld
      exact hheld.2
    have hone : s.sendOne site plane t e = s.modPE site (fun pe => pe.put plane t e) := if_neg ht
    rw [toEach, List.map_cons, List.foldl_cons, hone, ih _ fun x hx => h x (List.mem_cons_of_mem t hx),
      modPE_modPE _ _ _ _ (fun p => put_place p plane t e)]
    rfl

theorem emit_holds (s : State) (site : SiteRef) (plane : Nat) (e : Token) {ts : List (BitVec 9)} (h : ∀ t ∈ ts, holds t = true) :
    s.emit site plane (toEach e ts) = s.modPE site (fun pe => PE.putAll pe plane (toEach e ts)) := by
  unfold State.emit
  rw [sends_holds s site plane e h]
  dsimp only
  split
  · rfl
  · next t' e' rest herrs =>
    refine if_neg fun hnone => ?_
    have hmem : (t', e') ∈ (toEach e ts).filter (fun p => p.2.kind = .err) := by
      rw [herrs]
      exact List.mem_cons_self
    obtain ⟨t, ht, heq⟩ := List.mem_map.mp (List.mem_of_mem_filter hmem)
    have hheld := h t ht
    have ht' : t' = tNone := by simpa using List.all_eq_true.mp hnone _ hmem
    obtain ⟨rfl, -⟩ := Prod.mk.inj heq
    simp [holds, ht'] at hheld

/-- An ERR whose trap has been raised is sent where a target holds it, and raises nothing more. -/
theorem passErr_eq (c : Site) (h : Head) (e : Token) (s : State) :
    c.passErr h e s = s.modPE c.site (fun pe => PE.putAll pe c.lease.plane (both h e)) := by
  have hheld : ∀ t ∈ [h.t0, h.t1].filter holds, holds t = true := fun t ht => (List.mem_filter.mp ht).2
  refine (emit_holds s c.site c.lease.plane e hheld).trans (congrArg (s.modPE c.site) (funext fun pe => ?_))
  exact putAll_holds pe c.lease.plane e [h.t0, h.t1]

/-! ### Firings on such an ERR -/

section
variable {i : Instr} {ok : State → Site → Prop} {ready : State → Site → Bool} {onErr : Site → Token → State → State}
  {body : Site → State → State} {l : Head → Token → List (BitVec 9 × Token)}

/-- A firing that raises an ERR's trap and puts tokens. -/
theorem errTraps_of_fire (hexec : ∀ s, exec i s = fire i (ready s) onErr body s)
    (hr : ∀ s c, ok s c → c.firstErr (c.taken i.uses) ≠ none → ready s c = true)
    (hon : ∀ s c e u, ok s c → onErr c e u = (c.trapOf e u).modPE c.site (fun pe => PE.putAll pe c.lease.plane (l i.head e))) :
    ErrTraps ok l i := by
  intro s c e hs hp hf hok he hn
  have hnext := exec_err_fire hs hp hf (hexec s) (hr s c hok (by simp [he])) he
  rw [hon s c e _ hok, trapOf_consume hs hn] at hnext
  have hran := ran_puts (s0 := withTrap c.lease e.low s) (u := c.taken i.uses) (l := l i.head e) hs rfl (RegChange.none c.lease.plane)
  rw [modPE_id] at hran
  exact ⟨_, hnext, hran⟩

/-- The completion token of 0 in its place. -/
theorem errTraps_notDone (hexec : ∀ s, exec i s = fire i (ready s) onErr body s)
    (hr : ∀ s c, ok s c → c.firstErr (c.taken i.uses) ≠ none → ready s c = true)
    (hon : ∀ s c e u, ok s c → onErr c e u = c.reply i.head (n8Tok 0) (c.trapOf e u)) : ErrTraps ok notDone i :=
  errTraps_of_fire hexec hr fun s c e u hok =>
    (hon s c e u hok).trans (emit_both (h := i.head) (t := n8Tok 0) (fun he => by cases he) _ c.site c.lease.plane)

/-- The ERR itself. -/
theorem errTraps_both (hexec : ∀ s, exec i s = fire i (ready s) onErr body s)
    (hr : ∀ s c, ok s c → c.firstErr (c.taken i.uses) ≠ none → ready s c = true)
    (hon : ∀ s c e u, ok s c → onErr c e u = c.passErr i.head e (c.trapOf e u)) : ErrTraps ok both i :=
  errTraps_of_fire hexec hr fun s c e u hok => (hon s c e u hok).trans (passErr_eq c i.head e _)

end

theorem aligned_of_errL {c : Site} {f : FmtM} {n : Nat} (h : isErr c.l = true) : c.alignedEa f n = none ∧ c.aligned f n = none := by
  have hea : c.alignedEa f n = none := if_pos h
  exact ⟨hea, by rw [Site.aligned, hea, ite_self]⟩

theorem rmwPlan_of_errL {c : Site} {f : FmtM} {op : ReqOp} {cas sync : Bool} (h : isErr c.l = true) : rmwPlan f op cas sync c = none := by
  obtain ⟨-, halign⟩ := aligned_of_errL (f := f) (n := memSize (tyOf f.ty)) h
  simp only [rmwPlan, halign]

/-- No read-modify-write is planned where its address or its operand is an ERR. -/
theorem noPlan_of_err {c : Site} {f : FmtM} {op : ReqOp} {cas sync b : Bool} (h : isErr c.l = true ∨ b = true) :
    (if b then none else rmwPlan f op cas sync c) = none := by
  rcases h with h | h
  · rw [rmwPlan_of_errL h, ite_self]
  · exact if_pos h

section
variable {i : Instr} {f : FmtM} (hhead : i.head = f.h)
include hhead

theorem errTraps_store {n : Nat} {vec rel : Bool} {ok : Token → Bool} (hexec : ∀ s, exec i s = storeIns i f n vec ok rel s) :
    ErrTraps (fun _ c => isErr c.l = true) notDone i := by
  refine errTraps_notDone (fun s => (hexec s).trans rfl) (fun s c hl _ => planReady_of_none ?_) (fun s c e u hl => ?_)
  · obtain ⟨hea, halign⟩ := aligned_of_errL (f := f) (n := n) hl
    simp only [hea, halign, ite_self]
  · simp only [hl, if_true, hhead]

theorem errTraps_reduce {op : RmwOp} (hexec : ∀ s, exec i s = reduceIns i f op s) :
    ErrTraps (fun _ c => (isErr c.l || isErr c.r) = true) notDone i := by
  refine errTraps_notDone (fun s => (hexec s).trans rfl) (fun s c h _ => planReady_of_none ?_) (fun s c e u h => ?_)
  · exact noPlan_of_err (by simpa using h)
  · simp only [h, if_true, hhead]

theorem errTraps_range {op : ReqOp} (hexec : ∀ s, exec i s = rangeIns i f op s) :
    ErrTraps (fun _ c => (isErr c.l || isErr c.r) = true) notDone i := by
  refine errTraps_notDone (ready := fun _ => always) (fun s => (hexec s).trans rfl) (fun _ _ _ _ => rfl) (fun s c e u h => ?_)
  simp only [h, if_true, hhead]

theorem errTraps_atomic {op : RmwOp} (hexec : ∀ s, exec i s = atomicIns i f op false s) :
    ErrTraps (fun _ c => (isErr c.l || isErr c.r) = true) both i := by
  refine errTraps_both (fun s => (hexec s).trans rfl) (fun s c h _ => planReady_of_none ?_) (fun s c e u h => ?_)
  · exact noPlan_of_err (by simpa using h)
  · simp only [h, Bool.true_or, if_true, hhead]

/-- A compare and swap, whose P is data too. -/
theorem errTraps_cas {op : RmwOp} (hexec : ∀ s, exec i s = atomicIns i f op true s) : ErrTraps ever both i := by
  refine errTraps_both (fun s => (hexec s).trans rfl) (fun s c _ he => planReady_of_none (noPlan_of_err ?_)) (fun s c e u _ => ?_)
  · rcases err_position he with h | ⟨-, h⟩ | ⟨-, h⟩
    · exact .inl h
    · exact .inr (by simp [h])
    · exact .inr (by simp [h])
  · simp only [Bool.or_true, if_true, hhead]

theorem errTraps_engine {op : EngOp} (hexec : ∀ s, exec i s = engineIns i f op s) : ErrTraps ever both i :=
  errTraps_both (ready := fun _ => always) (fun s => (hexec s).trans rfl) (fun _ _ _ _ => rfl) (fun s c e u _ => by rw [hhead])

end

/-! ### A store of an ERR (R225, R336, R339) -/

section
variable {i : Instr} {f : FmtM} {s : State} {c : Site} {p : Port} {va n : Nat} {e : Token} {vec : Bool} {ok : Token → Bool}
  (hs : s.site? = some c) (hpres : c.present (c.taken i.uses) = true)
  (hf : c.pe.targetsFree c.lease.plane i.head.t0 i.head.t1 = true) (hexec : exec i s = storeIns i f n vec ok false s)
  (hul : i.uses.l = true) (hur : i.uses.r = true) (hl : c.l.map Token.kind = some .data) (hr : c.r = some e) (he : e.kind = .err)
  (hmay : Port.may s c p .store va) (ha : EA c f n va) (hn : NotContained c.lease e.low)
include hs hpres hf hexec hul hur hl hr he hmay ha hn

/-- A store whose data is an ERR issues the write that poisons its line. -/
theorem exec_store_poisons : exec i s = .next (c.sendWrite f ⟨.store, va, n, vec, 0, 0, some e.low, f.scope, false, false, none, false⟩
    (c.consume (c.taken i.uses) (withTrap c.lease e.low s))) := by
  obtain ⟨a, hla, hka⟩ := Option.map_eq_some_iff.mp hl
  have hnol : isErr c.l = false := by simp [isErr, hla, hka]
  have herr : isErr c.r = true := by simp [isErr, hr, he]
  have hfirst : c.firstErr (c.taken i.uses) = some e := by
    simp [Site.firstErr, Site.operands, Site.taken, hul, hur, hla, hka, hr, he]
  have halign : c.alignedEa f n = some va := alignedEa_of_EA hnol ha
  have hdata : storeData c.r ok = some (0, some e.low) := by simp only [storeData, hr, he, if_true]
  have hnext := exec_err_fire hs hpres hf (hexec.trans rfl) (planReady_of_may (p := p)
    (pl := ⟨.store, va, n, vec, 0, 0, some e.low, f.scope, false, false, none, false⟩) ?_ hmay) hfirst
  · rw [hnext, ← trapOf_consume hs hn]
    simp only [hnol, herr, halign, hdata, Bool.false_eq_true, if_false, if_true]
    rfl
  · simp only [herr, halign, hdata, if_true]
    rfl

/-- What that store leaves: the trap and the request, and where a target is named the slot in flight. -/
theorem store_poisons : Completes i s c { Deed.sending (c.send f.ty
      ⟨.store, va, n, vec, 0, 0, some e.low, f.scope, false, false, none, false⟩
      (if f.h.t0 ≠ tNone ∨ f.h.t1 ≠ tNone then .slot c.site c.slot else .none) (withTrap c.lease e.low s)) c i [] with
    flies := if f.h.t0 ≠ tNone ∨ f.h.t1 ≠ tNone then [flight c (.writes 1)] else [] } := by
  have hnext := exec_store_poisons hs hpres hf hexec hul hur hl hr he hmay ha hn
  by_cases hnamed : f.h.t0 ≠ tNone ∨ f.h.t1 ≠ tNone
  · have htarget : hasTarget f.h = true := by simpa [hasTarget] using hnamed
    simp only [Site.sendWrite, htarget, if_true] at hnext
    rw [send_fly, send_consume] at hnext
    have hran := ran_flies (u := c.taken i.uses) (.writes 1) hs (leases_send (withTrap c.lease e.low s) c f.ty
      ⟨.store, va, n, vec, 0, 0, some e.low, f.scope, false, false, none, false⟩ c.dest) (RegChange.none c.lease.plane)
    rw [modPE_id] at hran
    simp only [hnamed, if_true]
    exact ⟨_, hnext, hran⟩
  · have htarget : hasTarget f.h = false := by simpa [hasTarget] using hnamed
    simp only [Site.sendWrite, htarget, Bool.false_eq_true, if_false] at hnext
    rw [send_consume] at hnext
    have hran := ran_puts (u := c.taken i.uses) (l := []) hs (leases_send (withTrap c.lease e.low s) c f.ty
      ⟨.store, va, n, vec, 0, 0, some e.low, f.scope, false, false, none, false⟩ .none) (RegChange.none c.lease.plane)
    rw [modPE_id] at hran
    have hnothing (t : State) : t.modPE c.site (fun pe => PE.putAll pe c.lease.plane []) = t := modPE_id t c.site
    rw [hnothing] at hran
    simp only [hnamed, if_false]
    exact ⟨_, hnext, hran⟩

end

/-! ### The statement -/

/-- Settles O34: a misaligned access has no plan; each ERR that R336 names is answered over the package that its trap has been sent to. -/
theorem badAddressesIssueNothingAndErrorsPoison : Obligations.BadAddressesIssueNothingAndErrorsPoison := by
  unfold Obligations.BadAddressesIssueNothingAndErrorsPoison
  refine ⟨?ld, ?ldv, ?acq, ?st, ?poison, ?stores, ?completions, ?sts, ?atomics, ?commands⟩
  case ld => exact fun f s c a h hl hmod hlands => load_misaligned hl hmod h rfl (rfl : _ = execLd f s) hlands
  case ldv => exact fun f s c a h hl hmod hlands => load_misaligned hl hmod h rfl (rfl : _ = execLdv f s) hlands
  case acq => exact fun f s c a h hl hmod hlands => load_misaligned hl hmod h rfl (rfl : _ = execAcq f s) hlands
  case st =>
    exact fun f s c a b h hl hb hok hmod hlands => store_misaligned hl hmod h rfl (rfl : _ = execSt f s) hb hok hlands
  case poison =>
    exact fun f s c p va e hs hpres hf _ hl hr he hmay ha hn =>
      store_poisons hs hpres hf (rfl : _ = execSt f s) rfl rfl hl hr he hmay ha hn
  case stores =>
    exact each (fun f => errTraps_store rfl (fun s => (rfl : _ = execSt f s))) <|
      each (fun f => errTraps_store rfl (fun s => (rfl : _ = execStv f s))) <|
      each (fun f => errTraps_store rfl (fun s => (rfl : _ = execRel f s))) none_left
  case completions =>
    exact each (fun f => errTraps_reduce rfl (fun s => (rfl : _ = execRedadd f s))) <|
      each (fun f => errTraps_reduce rfl (fun s => (rfl : _ = execRedfadd f s))) <|
      each (fun f => errTraps_reduce rfl (fun s => (rfl : _ = execRedmax f s))) <|
      each (fun f => errTraps_range rfl (fun s => (rfl : _ = execDiscard f s))) <|
      each (fun f => errTraps_range rfl (fun s => (rfl : _ = execFlushr f s))) none_left
  case sts =>
    refine fun f => errTraps_notDone (fun s => (rfl : _ = execSts f s)) (fun s c h _ => ?_) (fun s c e u h => ?_)
    · obtain ⟨-, hclear⟩ := h
      exact spReady hclear
    · obtain ⟨herr, -⟩ := h
      simp only [herr, if_true]
      rfl
  case atomics =>
    exact each (fun f => errTraps_atomic rfl (fun s => (rfl : _ = execAadd f s))) <|
      each (fun f => errTraps_atomic rfl (fun s => (rfl : _ = execAmin f s))) <|
      each (fun f => errTraps_atomic rfl (fun s => (rfl : _ = execAmax f s))) <|
      each (fun f => errTraps_atomic rfl (fun s => (rfl : _ = execAand f s))) <|
      each (fun f => errTraps_atomic rfl (fun s => (rfl : _ = execAor f s))) <|
      each (fun f => errTraps_atomic rfl (fun s => (rfl : _ = execAxor f s))) <|
      each (fun f => errTraps_atomic rfl (fun s => (rfl : _ = execAswp f s))) <|
      each (fun f => errTraps_atomic rfl (fun s => (rfl : _ = execAfadd f s))) none_left
  case commands =>
    exact each (fun f => errTraps_cas rfl (fun s => (rfl : _ = execAcas f s))) <|
      each (fun f => errTraps_engine rfl (fun s => (rfl : _ = execCpy f s))) <|
      each (fun f => errTraps_engine rfl (fun s => (rfl : _ = execCpym f s))) <|
      each (fun f => errTraps_engine rfl (fun s => (rfl : _ = execZpack f s))) <|
      each (fun f => errTraps_engine rfl (fun s => (rfl : _ = execZunpack f s))) <|
      each (fun f => errTraps_engine rfl (fun s => (rfl : _ = execColl f s))) none_left

end Sys2Proof.Proofs.BadAddresses
end

section
/-! Engine commands (R150, R183, R193, R353, R354, R356, R357): the check of a command, and what an acquire drops, are the same before and
after a slot takes its operands. -/

namespace Sys2Proof.Proofs.Commands

open Sys2Proof Sys2Proof.Machine Sys2Proof.Safety Sys2Proof.Claims Sys2Proof.Proofs.Firing Sys2Proof.Proofs.Teams
  Sys2Proof.Proofs.Fences Sys2Proof.Proofs.Integers

/-! ### What taking operands leaves of other PEs and leases (R126) -/

section
variable (s : State) (c : Site) (u : Uses)

/-- A lease of a package whose slot has taken its operands is the lease with at most its PEs and stall count changed. -/
theorem lease?_consume_map (id : Nat) : ∃ g : Lease → Lease, (∀ L, (g L).x = L.x ∧ (g L).y = L.y) ∧
    (c.consume u s).lease? id = (s.lease? id).map g := by
  rw [consume_eq]
  by_cases h : id = c.site.lease
  · rw [h]
    exact ⟨Errors.afterTaking c u, fun _ => ⟨rfl, rfl⟩, lease?_modLease s c.site.lease (Errors.afterTaking c u) (fun _ => rfl)⟩
  · refine ⟨fun L => L, fun _ => ⟨rfl, rfl⟩, ?_⟩
    rw [Option.map_id']
    exact lease?_modLease_other s (Errors.afterTaking c u) (fun _ => rfl) h

theorem clusterAt_consume (p : Port) : (c.consume u s).clusterAt p = s.clusterAt p := by
  unfold State.clusterAt
  split
  · next site _ =>
    obtain ⟨g, hg, hL⟩ := lease?_consume_map s c u site.lease
    rw [hL]
    cases s.lease? site.lease with
    | none => rfl
    | some L =>
      obtain ⟨hx, hy⟩ := hg L
      simp only [Option.map_some, Lease.at_, hx, hy]
  · rfl

theorem acquire_consume (party : Nat) (scope : BitVec 3) :
    (c.consume u s).acquire party scope = c.consume u (s.acquire party scope) := by
  have hports : (c.consume u s).partyPorts party = s.partyPorts party := rfl
  have hclusters : (c.consume u s).clusterAt = s.clusterAt := funext (clusterAt_consume s c u)
  unfold State.acquire
  rw [hports, hclusters]
  rfl

theorem pe?_modPE_map (site : SiteRef) {f : PE → PE} (hf : ∀ p, (f p).dx = p.dx ∧ (f p).dy = p.dy) :
    (s.modPE site f).pe? site = (s.pe? site).map f := by
  unfold State.pe? State.modPE
  rw [lease?_modLease s site.lease (fun L => L.modPE site.dx site.dy f) (fun _ => rfl)]
  cases s.lease? site.lease with
  | none => rfl
  | some L => exact pe?_modPE L site.dx site.dy f hf

/-- A change of a PE that keeps its kind and MU keeps those of every PE. -/
theorem pe?_modPE_kept {f : PE → PE} (hf : ∀ p, (f p).dx = p.dx ∧ (f p).dy = p.dy) (hk : ∀ p, (f p).kind = p.kind ∧ (f p).mu = p.mu)
    (site x : SiteRef) : ∃ g : PE → PE, (∀ p, (g p).kind = p.kind ∧ (g p).mu = p.mu) ∧ (s.modPE site f).pe? x = (s.pe? x).map g := by
  by_cases h : x = site
  · rw [h]
    exact ⟨f, hk, pe?_modPE_map s site hf⟩
  · refine ⟨fun p => p, fun _ => ⟨rfl, rfl⟩, ?_⟩
    rw [Option.map_id']
    exact Fabric.pe?_modPE_ne hf h

/-- A PE of a package whose slot has taken its operands has the kind and the MU that it had. -/
theorem pe?_consume_map (x : SiteRef) : ∃ g : PE → PE, (∀ p, (g p).kind = p.kind ∧ (g p).mu = p.mu) ∧
    (c.consume u s).pe? x = (s.pe? x).map g := by
  unfold Site.consume
  rw [Replies.pe?_progress]
  refine pe?_modPE_kept s ?_ ?_ c.site x <;> exact fun _ => ⟨rfl, rfl⟩

theorem cbSite_consume (site : SiteRef) : (c.consume u s).cbSite site = s.cbSite site := by
  obtain ⟨g, hg, hpe⟩ := pe?_consume_map s c u site
  obtain ⟨g', hg', hleft⟩ := pe?_consume_map s c u ⟨site.lease, site.dx - 1, site.dy⟩
  unfold State.cbSite
  rw [hpe, hleft]
  cases s.pe? site with
  | none => rfl
  | some pe =>
    simp only [Option.map_some, (hg pe).1]
    cases s.pe? ⟨site.lease, site.dx - 1, site.dy⟩ with
    | none => rfl
    | some m => simp only [Option.map_some, (hg' m).1]

theorem queueCheck_consume (site : SiteRef) (op : EngOp) (w : Word) :
    (c.consume u s).queueCheck site op w = s.queueCheck site op w := by
  unfold State.queueCheck
  rw [cbSite_consume]
  split
  · rfl
  · split
    · rfl
    · split
      · rfl
      · cases s.cbSite site with
        | none => rfl
        | some m =>
          obtain ⟨g, hg, hpe⟩ := pe?_consume_map s c u m
          dsimp only
          rw [hpe]
          cases s.pe? m with
          | none => rfl
          | some pe => simp only [Option.map_some, (hg pe).2]

end

/-! ### Queueing a command (R353, R354, R356) -/

theorem sfrEnded_consume (s : State) (c : Site) (u : Uses) : sfrEnded (c.consume u s) c = c.consume u (sfrEnded s c) := by
  unfold sfrEnded
  rw [portOf?_consume]
  split
  · exact endSfr_consume s c u _
  · rfl

/-- An instruction that fires answers what its body leaves. -/
theorem exec_acts {i : Instr} {s : State} {c : Site} {ready : Site → Bool} {onErr : Site → Token → State → State}
    {body : Site → State → State} (h : Fires i s c) (hexec : exec i s = fire i ready onErr body s) (hr : ready c = true) :
    exec i s = .next (body c (c.consume (c.taken i.uses) s)) := hexec.trans (fireUsing_acts h hr)

/-- The destination of a command: its circular buffer, or the address in R. -/
def destination (c : Site) (op : EngOp) (w : Nat) : Option Nat :=
  if op ≠ .coll && ctlCb (BitVec.ofNat 64 w) then some 0 else scalarArg c.r .a57

/-- The cause with which a command is refused at once. -/
def refusal (s : State) (c : Site) (op : EngOp) (src dst w : Nat) : Option Nat :=
  if op = .coll then (if src % 64 ≠ 0 || dst % 64 ≠ 0 then some cPerm else none) else s.queueCheck c.site op (BitVec.ofNat 64 w)

theorem ctlCb_ofNat (w : Nat) : ctlCb (BitVec.ofNat 64 w) = w.testBit 36 := by
  unfold ctlCb
  rw [BitVec.toNat_ofNat, Nat.testBit_mod_two_pow]
  rfl

section
variable {i : Instr} {f : FmtM} {op : EngOp} {s : State} {c : Site} {src dst w : Nat} (h : Fires i s c)
  (hexec : exec i s = engineIns i f op s) (hl : scalarArg c.l .a57 = some src) (hp : scalarArg c.p .n64 = some w)
  (hd : destination c op w = some dst)
include h hexec hl hp hd

/-- An engine instruction that nothing refuses waits as a release with its command. -/
theorem engine_queues (hok : refusal s c op src dst w = none) : Queues i s c (commandOf c f op src dst (BitVec.ofNat 64 w)) := by
  have hok' : (if op = .coll then (if src % 64 ≠ 0 || dst % 64 ≠ 0 then some cPerm else none)
      else (c.consume (c.taken i.uses) s).queueCheck c.site op (BitVec.ofNat 64 w)) = none := by
    rw [queueCheck_consume]
    exact hok
  have hd' : (if op ≠ .coll && ctlCb (BitVec.ofNat 64 w) then some 0 else scalarArg c.r .a57) = some dst := hd
  have hran := ran_flies (s0 := sfrEnded s c) (u := c.taken i.uses)
    (.release (writesBefore s c) (.engine (commandOf c f op src dst (BitVec.ofNat 64 w)))) h.site (leases_sfrEnded s c)
    (RegChange.none c.lease.plane)
  rw [modPE_id] at hran
  refine ⟨_, ?_, hran⟩
  refine (exec_acts (ready := always) h (hexec.trans rfl) rfl).trans ?_
  rw [← sfrEnded_consume]
  simp only [hl, hp, hd', hok']
  rfl

/-- An engine instruction that is refused answers the cause. -/
theorem engine_refused (hhead : i.head = f.h) {cause : Nat} (hno : refusal s c op src dst w = some cause) (hlands : Lands i.head) :
    Gives i s c (c.ownErr cause) := by
  have hno' : (if op = .coll then (if src % 64 ≠ 0 || dst % 64 ≠ 0 then some cPerm else none)
      else (c.consume (c.taken i.uses) s).queueCheck c.site op (BitVec.ofNat 64 w)) = some cause := by
    rw [queueCheck_consume]
    exact hno
  have hd' : (if op ≠ .coll && ctlCb (BitVec.ofNat 64 w) then some 0 else scalarArg c.r .a57) = some dst := hd
  refine gives_err h (hexec.trans rfl) rfl hlands ?_
  simp only [hl, hp, hd', hno', hhead]

end

/-- The commands whose destination is R. -/
theorem queuesCommand {mk : FmtM → Instr} {op : EngOp} (hop : op ≠ .coll) (hexec : ∀ f s, exec (mk f) s = engineIns (mk f) f op s) :
    QueuesCommand mk op := by
  intro f s c src dst w h hl hr hp hcb hok
  refine engine_queues h (hexec f s) hl hp ?_ ((if_neg hop).trans hok)
  simp only [destination, ctlCb_ofNat, hcb, Bool.and_false, Bool.false_eq_true, if_false, hr]

/-- The commands that fill a circular buffer. -/
theorem fillsBuffer {mk : FmtM → Instr} {op : EngOp} (hop : op ≠ .coll) (hexec : ∀ f s, exec (mk f) s = engineIns (mk f) f op s) :
    FillsBuffer mk op := by
  intro f s c src w h hl hp hcb hok
  refine engine_queues h (hexec f s) hl hp ?_ ((if_neg hop).trans hok)
  simp [destination, ctlCb_ofNat, hcb, hop]

theorem queueCheck_reserved {s : State} {site : SiteRef} {op : EngOp} {w : Nat} (hw : w < 2 ^ 64) (h : w / 2 ^ 43 % 32 ≠ 0) :
    s.queueCheck site op (BitVec.ofNat 64 w) = some cPerm := by
  have hbits : bitsOf (BitVec.ofNat 64 w).toNat 43 5 ≠ 0 := by
    rw [bitsOf_eq, BitVec.toNat_ofNat, Nat.mod_eq_of_lt hw]
    exact h
  exact if_pos (by rw [Bool.or_eq_true]; exact .inl (decide_eq_true hbits))

/-! ### The statement -/

/-- Settles O38: the check and the command of an engine instruction are those of the package before it fires, and so is what ENGQ drops. -/
theorem engineInstructionsQueueCommands : Obligations.EngineInstructionsQueueCommands := by
  unfold Obligations.EngineInstructionsQueueCommands
  refine ⟨?cpy, ?cpym, ?zpack, ?zunpack, ?cpyCb, ?cpymCb, ?coll, ?degrade, ?refused, ?engq, ?engqAcquire⟩
  case cpy => exact queuesCommand (by decide) (fun f s => (rfl : _ = execCpy f s))
  case cpym => exact queuesCommand (by decide) (fun f s => (rfl : _ = execCpym f s))
  case zpack => exact queuesCommand (by decide) (fun f s => (rfl : _ = execZpack f s))
  case zunpack => exact queuesCommand (by decide) (fun f s => (rfl : _ = execZunpack f s))
  case cpyCb => exact fillsBuffer (by decide) (fun f s => (rfl : _ = execCpy f s))
  case cpymCb => exact fillsBuffer (by decide) (fun f s => (rfl : _ = execCpym f s))
  case coll =>
    intro f s c src dst w h hl hr hp hsrc hdst
    exact engine_queues h (rfl : _ = execColl f s) hl hp (by simp [destination, hr]) (by simp [refusal, hsrc, hdst])
  case degrade =>
    intro s lease inv o h
    unfold State.degrade
    rw [h]
    cases s.lease? lease <;> rfl
  case refused =>
    intro f s c src dst w h hl hr hp hbits hlands
    have hno : refusal s c .cpy src (if ctlCb (BitVec.ofNat 64 w) then 0 else dst) w = some cPerm :=
      queueCheck_reserved (scalarArg_lt hp) hbits
    refine engine_refused h (rfl : _ = execCpy f s) hl hp ?_ rfl hno hlands
    cases hcb : ctlCb (BitVec.ofNat 64 w) <;> simp [destination, hcb, hr]
  case engq =>
    intro f s c h hord
    refine gives h (rfl : _ = execEngq f s) rfl (fun he => by cases he) ?_
    simp only [hord, if_false]
    rfl
  case engqAcquire =>
    intro f s c h hord
    cases hp : s.portOf? c.site c.pe.kind with
    | none =>
      refine gives h (rfl : _ = execEngq f s) rfl (fun he => by cases he) ?_
      simp only [hord, if_true, portOf?_consume, hp]
      rfl
    | some p =>
      refine completes_reply (s0 := (s.acquire p.party f.scope).endSfr p.party) (g := fun q => q) h (rfl : _ = execEngq f s) rfl
        ((leases_endSfr _ _).trans rfl) (RegChange.none _) (fun he => by cases he) ?_
      simp only [hord, if_true, portOf?_consume, hp, acquire_consume, endSfr_consume, modPE_id]
      rfl

end Sys2Proof.Proofs.Commands
end
